-- ==== Sys2Proof/Word.lean ====
section
/-! DEFINITION. The word types of the block: a register is 64 bits wide (R7), storage is counted in bytes (R6). -/

namespace Sys2Proof

/-- A register value (R7). -/
abbrev Word := BitVec 64

/-- One byte of a record, frame or memory (R6). -/
abbrev Byte := BitVec 8

end Sys2Proof
end

