-- ==== Sys2Proof/Syntax.lean ====
section
/-! DEFINITION. The commands the block takes (spec/opcode_table.json), one constructor of `Instr` per row,
and the operand types they carry. The table gives its rows no fields, so each operand is the model's own
(assumption log 2): a register row carries its requester and the data, an event carries what comes from outside. -/

namespace Sys2Proof

/-- The units of the block (Tables 00-3 and 02-15). `mxew` is the MXE program window page. -/
inductive UnitKind where
  | dir | lcm | pwr | tkp | irc | flt | evr | pmu | nvh | scr | xlt | pmp | cor | cmp | smp | epr
  | mxe | mxew | tre | eft | cap | htp | slk | hpa | pkg | stm | wel
  | rdx | col | ups | cis | bud | mgr | up
  deriving DecidableEq, Repr

/-- How a register request reaches the page: the host register port, the management path, or core `c` (02.2, R64, R257). -/
inductive Path where
  | host
  | mgmt
  | core (c : Nat)
  deriving DecidableEq, Repr

/-- Who makes a register access: path, PRIV (0 U, 1 H, 2 F) and, on the host port, the request check (Table 02-3). -/
structure Req where
  path : Path
  priv : BitVec 2
  chk  : BitVec 8
  deriving DecidableEq, Repr

/-- One register request (Table 02-3) with the path it came by. -/
structure Access where
  path   : Path
  addr   : BitVec 22
  write  : Bool
  size32 : Bool
  priv   : BitVec 2
  wdata  : Word
  chk    : BitVec 8
  deriving DecidableEq, Repr

/-- One entry of a MGMT_REQ flit (R64, R325): a request of Table 02-3 without CHK, with SEQ. -/
structure MgmtEntry where
  seq    : BitVec 16
  addr   : BitVec 22
  write  : Bool
  size32 : Bool
  priv   : BitVec 2
  wdata  : Word
  deriving DecidableEq, Repr

/-- One reply of a MGMT_RESP flit (R65, R325). -/
structure MgmtReply where
  seq   : BitVec 16
  rstat : BitVec 8
  rdata : Word
  deriving DecidableEq, Repr

/-- The voters of Table 03-4, in bit order. -/
inductive Voter where
  | smp | cmp | mxe | tre | htp | cap | sw
  deriving DecidableEq, Repr

/-- The straps sampled at power-on reset (R1, R19, R538): `ROLE_SEL` (true for T-role), die index, the 3-bit
`PKG_DIES` strap (die count minus 1) and the well tie-offs. -/
structure Straps where
  roleSel   : Bool
  pkgDieIdx : BitVec 3
  pkgDies   : BitVec 3
  wellTie   : BitVec 48
  deriving DecidableEq, Repr

/-- A PTP message as a UP port takes it (R94, Table 04-3). `ts` is its timestamp in 2^-16 ns, `corr` its
correctionField in 2^-16 ns, `seq` its sequenceId, `logInt` logMessageInterval; `rank` and `clock` stand for the
Announce dataset, a lower `rank` being the better one of the dataset comparison. -/
structure PtpMsg where
  version : Nat
  minor   : Nat
  domain  : BitVec 8
  seq     : BitVec 16
  ident   : BitVec 80
  reqId   : BitVec 80
  twoStep : Bool
  logInt  : Int
  corr    : Int
  ts      : Nat
  rank    : Nat
  deriving DecidableEq, Repr

/-- What a TIME_SYNC flit carries (R92, R93, R324): exchange id, t1 in 2^-16 ns, the tray's TKP state, its interval in
microseconds and the wellhead's ASYM in 2^-16 ns; whether the flit was replayed. -/
structure TimeSyncFlit where
  exId     : Nat
  t1       : Nat
  state    : Nat
  syncUs   : Nat
  asym     : Int
  replayed : Bool
  deriving DecidableEq, Repr

/-- Which read of CMP hits an uncorrectable ECC error (R154, R155): a row or a frame, with its header read intact or lost with it, the
history of the coder that takes it, or on a tray the history of the encoder that codes the decoded row again. -/
inductive EccHit where
  | none
  | row
  | rowHead
  | frame
  | frameHead
  | history
  | recode
  deriving DecidableEq, Repr

/-- A stream of the pumps (R277): the ring of a channel, a housekeeping access of it (R285), or the unit transfer of a
client of Table 11-5. -/
inductive Strm where
  | ring (c : Nat)
  | house (c va : Nat) (write : Bool)
  | unit (client inst : Nat)
  deriving DecidableEq, Repr

/-- How a screening pattern ends (R457 to R460): its output bytes, the most corrected errors a bank showed in a scrub, a budget
overrun, or anything else than completion. -/
inductive PatEnd where
  | out (b : List Byte)
  | scrub (worst : Nat)
  | budget
  | broken
  deriving DecidableEq, Repr

/-- The operation of an AMO of RV32A. -/
inductive AmoOp where
  | swap | add | xor | and | or | min | max | minu | maxu
  deriving DecidableEq, Repr

/-- An access of a core (Table 10-1): a fetch, a load or store of `n` bytes, an AMO, a load-reserved or a store-conditional. -/
inductive CoreOp where
  | fetch
  | load (n : Nat)
  | store (n : Nat)
  | amo (f : AmoOp)
  | lr
  | sc
  deriving DecidableEq, Repr

/-- Why a core takes a trap (R256, R258, R267): an interrupt of Table 10-7, an access that Table 10-1 or an uncorrectable read stops, or
an exception that RISC-V itself lays down. -/
inductive TrapWhy where
  | interrupt (n : Nat)
  | access (addr : BitVec 32) (op : CoreOp) (ecc : Bool)
  | exception (cause tval : BitVec 32)
  deriving DecidableEq, Repr

/-- The commands of the block, one per row of spec/opcode_table.json; each docstring is the row's rule and what it is. -/
inductive Instr where
  /-- REGISTER_WRITE (R35): A write to a register that has no row of its own is checked for CHK, decode, presence, privilege and state and then applied or refused. -/
  | registerWrite (a : Access)
  /-- RC_COUNTER_READ (R37): A read of a read-clear counter register returns its counts and clears them when it answers OKAY. -/
  | rcCounterRead (q : Req) (u : UnitKind) (j off : Nat)
  /-- PORT_TIMEOUT (R33): A register access still unanswered after 1,024 AON cycles answers TIMEOUT, counts in DIR_VIOL and raises PORT_TIMEOUT. -/
  | portTimeout
  /-- UNIT_RESET (R51): Writing 1 to PG_CTRL.UNIT_RESET stops the unit, discards staged values and returns its registers to reset. -/
  | unitReset (q : Req) (u : UnitKind) (j : Nat) (d : Word)
  /-- UNIT_RESET_DONE (R51): The unit reset completes within 256 AON cycles and waiting accesses to the page proceed. -/
  | unitResetDone (u : UnitKind) (j : Nat)
  /-- PG_ERR_CLEAR (R52): A W1C write of PG_ERR clears flags, and FIRST_OFFSET and UNIT_CAUSE return to 0 when all six flags are clear. -/
  | pgErrClear (q : Req) (u : UnitKind) (j : Nat) (d : Word)
  /-- PG_LOCK_WRITE (R46): A write of PG_LOCK changes MIN_PRIV or sets FREEZE under the privilege and freeze rules. -/
  | pgLockWrite (q : Req) (u : UnitKind) (j : Nat) (d : Word)
  /-- ALIAS_SET (R54): A write to the SET alias of an SC register sets each bit written as 1. -/
  | aliasSet (q : Req) (u : UnitKind) (j off : Nat) (d : Word)
  /-- ALIAS_CLR (R54): A write to the CLR alias of an SC register clears each bit written as 1. -/
  | aliasClr (q : Req) (u : UnitKind) (j off : Nat) (d : Word)
  /-- DIR_VIOL_READ (R62): A read of DIR_VIOL returns all four violation counters and clears them. -/
  | dirViolRead (q : Req)
  /-- DIR_NODE_WRITE (R61): A write of DIR_NODE at PRIV F in PROVISIONED sets the identity and VALID, and a leaf retrains to announce it. -/
  | dirNodeWrite (q : Req) (d : Word)
  /-- TKP_NOW_LO_READ (R87): A read of TKP_NOW_LO returns time bits [63:0] and latches bits [95:64] for the requester's path. -/
  | tkpNowLoRead (q : Req)
  /-- MGMT_REQ_EXEC (R65): A leaf receives a MGMT_REQ flit and executes its entries in SEQ order, or returns kept replies for repeated SEQ values. -/
  | mgmtReqExec (es : List MgmtEntry)
  /-- MGMT_RESP_RX (R66): MGR receives a MGMT_RESP flit from a leaf and returns each reply to its requester. -/
  | mgmtRespRx (w : Nat) (rs : List MgmtReply)
  /-- MGMT_TIMEOUT (R66): MGR answers TIMEOUT to a management request that has had no reply within 200 µs. -/
  | mgmtTimeout (w : Nat) (sq : BitVec 16)
  /-- VOTE_RAISE (R70): A voter raises its priming vote, which starts PRIMING from DORMANT or SAMPLING or returns HOLD to PRIMED. -/
  | voteRaise (v : Voter)
  /-- PRIMING_DONE (R71): The priming sequence ends and the fast domain is PRIMED, with DIR_STATE.PRIMED set. -/
  | primingDone
  /-- VOTE_CLEAR (R70): The last vote clears in PRIMED, the state becomes HOLD and the hold timer starts. -/
  | voteClear (v : Voter)
  /-- HOLD_EXPIRE (R70): The hold timer expires, the state becomes UNPRIMING and DIR_STATE.PRIMED falls. -/
  | holdExpire
  /-- UNPRIMING_DONE (R70): UNPRIMING completes, and priming starts at once if a vote arrived during it. -/
  | unprimingDone
  /-- FAST_VOK_ASSERT (R76): FAST_VOK rises after having been seen low for the new point, ending a priming's wait for the regulator. -/
  | fastVokAssert
  /-- PRIME_TIMEOUT (R72): A priming that has not reached PRIMED within 50 µs is aborted, counted as a failure and retried, with PRIME_FAIL after three. -/
  | primeTimeout
  /-- FAST_VOK_TIMEOUT (R72): A wait for FAST_VOK that runs past 100 µs ends the priming attempt as a failure. -/
  | fastVokTimeout
  /-- RETRY_PRIME (R72): A write of PWR_CTRL.RETRY_PRIME clears PRIME_FAILED and lets priming start again. -/
  | retryPrime (q : Req) (d : Word)
  /-- PWR_SW_VOTE_WRITE (R74): A write of PWR_SW_VOTE raises or clears the software priming vote. -/
  | pwrSwVoteWrite (q : Req) (d : Word)
  /-- FAST_RAIL_DROOP (R540): FAST_VOK low for more than 1 µs while the domain is up raises FAST_RAIL, FATAL by default. -/
  | fastRailDroop
  /-- SPRING_PRIME_LEAD (R73): SMP raises its vote PRIME_LEAD_US before the scheduled start of a spring. -/
  | springPrimeLead (g : Nat)
  /-- STAGE_AGE_VOTE (R73): CMP raises its vote when the oldest staged row becomes older than STAGE_AGE. -/
  | stageAgeVote
  /-- EPOCH_BOUNDARY (R101): At the boundary edge TKP signals EPR, RDX, the commit logic, the PMU snapshot, EVR and RSTAT together. -/
  | epochBoundary (others : BitVec 8)
  /-- TIME_SYNC_SEND (R93): A tray wellhead's exchange interval elapses and it sends TIME_SYNC with t1 inserted at serialisation. -/
  | timeSyncSend (w : Nat)
  /-- TIME_SYNC_RX (R92): A leaf receives TIME_SYNC, captures t2 and answers with TIME_DREQ, capturing t3. -/
  | timeSyncRx (f : TimeSyncFlit) (sub : Nat)
  /-- TIME_DREQ_RX (R324): A tray receives TIME_DREQ, captures t4 and returns it in TIME_DRESP. -/
  | timeDreqRx (w : Nat) (exId : Nat) (sub : Nat)
  /-- TIME_DRESP_RX (R92): A leaf receives TIME_DRESP, completes the exchange and computes θ. -/
  | timeDrespRx (exId t4 : Nat) (replayed : Bool)
  /-- MISSED_INTERVAL (R93): An interval instant passes with no complete exchange, counting a missed interval and entering HOLDOVER at LOSS_CNT. -/
  | missedInterval
  /-- ACCEPT_JUMP (R99): A write of TKP_CTRL.ACCEPT_JUMP applies the pending offset as a forward step or a slew. -/
  | acceptJump (q : Req)
  /-- SLEW_END (R99): The slewed offset is removed, SLEWING clears and RATE returns to FREQ. -/
  | slewEnd
  /-- REACQUIRE (R88): A write of TKP_CTRL.REACQUIRE returns TKP to ACQUIRING with TIME_VALID 0. -/
  | reacquire (q : Req)
  /-- PTP_SYNC_RX (R94): A UP port receives a PTP Sync message and runs its part of the exchange. -/
  | ptpSyncRx (p : Nat) (m : PtpMsg) (sub : Nat)
  /-- PTP_FOLLOW_UP_RX (R94): A UP port receives a PTP Follow_Up message. -/
  | ptpFollowUpRx (p : Nat) (m : PtpMsg)
  /-- PTP_DELAY_RESP_RX (R94): A UP port receives a PTP Delay_Resp and completes an E2E exchange, yielding θ. -/
  | ptpDelayRespRx (p : Nat) (m : PtpMsg)
  /-- PTP_PDELAY_REQ_RX (R94): A UP port receives Pdelay_Req and answers with a one-step Pdelay_Resp. -/
  | ptpPdelayReqRx (p : Nat) (m : PtpMsg) (sub : Nat)
  /-- PTP_PDELAY_RESP_RX (R94): A UP port receives a PTP Pdelay_Resp. -/
  | ptpPdelayRespRx (p : Nat) (m : PtpMsg) (sub : Nat)
  /-- PTP_PDELAY_RESP_FU_RX (R94): A UP port receives a PTP Pdelay_Resp_Follow_Up. -/
  | ptpPdelayRespFuRx (p : Nat) (m : PtpMsg)
  /-- PTP_ANNOUNCE_RX (R95): A UP port receives Announce, which feeds the dataset comparison and port selection. -/
  | ptpAnnounceRx (p : Nat) (m : PtpMsg)
  /-- ANNOUNCE_TIMEOUT (R95): The selected port misses ANNOUNCE_TIMEOUT Announce intervals, causing a port switch or HOLDOVER. -/
  | announceTimeout (p : Nat)
  /-- TXTS_POP (R104): TKP window POP on table 0 removes the oldest TX timestamp entry of a port. -/
  | txtsPop (q : Req) (port : Nat)
  /-- PORT_TIME_READ (R110): TKP window READ on table 1 returns a port's ASYM, TX_LAT and RX_LAT. -/
  | portTimeRead (q : Req) (port : Nat)
  /-- PORT_TIME_WRITE (R110): TKP window WRITE on table 1 sets a port's ASYM entry. -/
  | portTimeWrite (q : Req) (port : Nat)
  /-- TIMED_LAUNCH (R106): A pending timed item's launch time arrives and the port starts it at the pin plane. -/
  | timedLaunch (port : Nat)
  /-- GROUP_TICK (R124): A sampling group's grid instant falls and SMP starts gathering its row. -/
  | groupTick (g : Nat)
  /-- WELL_SNAP_ACK (R119): A well sees ACK, reads the slots its tick needs and lowers REQ, or discards a late image. -/
  | wellSnapAck (w : Nat) (img : List (Nat × Word))
  /-- WELL_ACK_LOW (R119): A well sees ACK low after lowering REQ, closing its handshake. -/
  | wellAckLow (w : Nat)
  /-- STALE_TIMEOUT (R121): A well has no ACK within STALE_TMO cycles and its samples of the row are STALE. -/
  | staleTimeout (w : Nat)
  /-- SKEW_WINDOW_END (R122): A 1,024-cycle edge-count window completes and the well's SKEW state is updated. -/
  | skewWindowEnd (w edges : Nat)
  /-- ROW_COMPLETE (R132): A sample row is complete and goes to the staging buffer, priming buffer or CMP. -/
  | rowComplete (g : Nat)
  /-- SMP_VALIDATE (R126): A write of SMP_VALIDATE.GO starts validation of the staged plan. -/
  | smpValidate (q : Req) (d : Word)
  /-- SMP_VALIDATE_DONE (R126): Validation ends and SMP_CHECK reports DONE, VALID, CAUSE and GROUP. -/
  | smpValidateDone
  /-- SMP_PLAN_WRITE (R127): A write of SMP_PLAN marks the staged plan bank for commit. -/
  | smpPlanWrite (q : Req) (d : Word)
  /-- PLAN_REBUILD_DONE (R128): A changed group's background rebuild completes and the group ticks under the new plan. -/
  | planRebuildDone (g : Nat)
  /-- SPRING_START (R129): SMP_SPRING_CMD START starts a spring at its next grid instant. -/
  | springStart (q : Req) (g : Nat)
  /-- SPRING_STOP (R129): SMP_SPRING_CMD STOP stops a running spring. -/
  | springStop (q : Req) (g : Nat)
  /-- SLOW_DOWN_MSG (R130): A leaf receives LINK_MSG SLOW_DOWN and sets the spring shift. -/
  | slowDownMsg (shift : Nat)
  /-- WEL_SLOT_READ (R141): WEL window READ returns a staged slot descriptor. -/
  | welSlotRead (q : Req) (w idx : Nat)
  /-- WEL_SLOT_WRITE (R116): WEL window WRITE writes a staged slot descriptor and marks the page for commit. -/
  | welSlotWrite (q : Req) (w idx : Nat)
  /-- WEL_SLOT_READ_ACTIVE (R141): WEL window READ_ACTIVE returns an active slot descriptor. -/
  | welSlotReadActive (q : Req) (w idx : Nat)
  /-- SMP_TBL_READ (R141): SMP window READ returns a staged group or member entry. -/
  | smpTblRead (q : Req) (t idx : Nat)
  /-- SMP_TBL_WRITE (R141): SMP window WRITE writes a staged group or member entry. -/
  | smpTblWrite (q : Req) (t idx : Nat)
  /-- SMP_TBL_READ_ACTIVE (R141): SMP window READ_ACTIVE returns an active group or member entry. -/
  | smpTblReadActive (q : Req) (t idx : Nat)
  /-- EPR_TBL_READ (R362): EPR window READ returns a staged map entry or template descriptor. -/
  | eprTblRead (q : Req) (t idx : Nat)
  /-- EPR_TBL_WRITE (R362): EPR window WRITE writes a staged map entry or template descriptor. -/
  | eprTblWrite (q : Req) (t idx : Nat)
  /-- EPR_TBL_READ_ACTIVE (R362): EPR window READ_ACTIVE returns an active map entry or template descriptor. -/
  | eprTblReadActive (q : Req) (t idx : Nat)
  /-- EPR_CFG_WRITE (R140): A write of EPR_CFG sets FIELDS and TEMPLATE and marks the staged map for commit. -/
  | eprCfgWrite (q : Req) (d : Word)
  /-- ENCODE_ROW (R152): The encoder takes the next row from its sources and writes a frame, RAW or coded, to the output buffers. -/
  | encodeRow (ecc : EccHit)
  /-- CMP_KEY_REQ_WRITE (R163): A write of CMP_KEY_REQ makes the next frame of a group, or of every group, KEY. -/
  | cmpKeyReqWrite (q : Req) (d : Word)
  /-- KEY_REQUEST_MSG (R158): A leaf receives LINK_MSG KEY_REQUEST and treats it as a write of CMP_KEY_REQ. -/
  | keyRequestMsg (all : Bool) (g : Nat)
  /-- DECODE_FRAME (R157): A tray decoder takes the next frame of its wellheads, checks it and rebuilds the row or emits CMP_ERROR. -/
  | decodeFrame (dec : Nat) (ecc : EccHit)
  /-- KEY_REQUEST_REPEAT (R158): A decoder repeats KEY_REQUEST for a group every 1 ms until a good KEY frame arrives. -/
  | keyRequestRepeat (w g : Nat)
  /-- CMP_OUT_CFG_WRITE (R163): A write of CMP_OUT_CFG sets the number of output buffers while the unit is disabled. -/
  | cmpOutCfgWrite (q : Req) (d : Word)
  /-- CMP_TBL_READ (R164): CMP window READ returns a staged predictor entry. -/
  | cmpTblRead (q : Req) (idx : Nat)
  /-- CMP_TBL_WRITE (R164): CMP window WRITE writes a staged predictor entry. -/
  | cmpTblWrite (q : Req) (idx : Nat)
  /-- CMP_TBL_READ_ACTIVE (R164): CMP window READ_ACTIVE returns an active predictor entry. -/
  | cmpTblReadActive (q : Req) (idx : Nat)
  /-- MXE_RMON_STAT_READ (R188): A read of MXE_RMON_STATk returns and clears the monitor's fields and re-arms ARITH_RANGE. -/
  | mxeRmonStatRead (q : Req) (e k : Nat)
  /-- MXE_LAUNCH_WRITE (R207): A write of MXE_LAUNCH launches SW slots as pending runs or refuses them. -/
  | mxeLaunchWrite (q : Req) (e : Nat) (d : Word)
  /-- MXE_RUN_START (R207): The highest-priority pending run starts once the domain is PRIMED and the engine is free. -/
  | mxeRunStart (e : Nat)
  /-- MXE_NOP (R193): The engine executes NOP in one cycle. -/
  | mxeNop (e : Nat) (ecc : Bool)
  /-- MXE_HALT (R213): HALT retires and the run ends DONE. -/
  | mxeHalt (e : Nat) (ecc : Bool)
  /-- MXE_ACCLR (R195): ACCLR clears a range of accumulator lanes and sets their F state. -/
  | mxeAcclr (e : Nat) (ecc : Bool)
  /-- MXE_ACCLD (R195): ACCLD preloads accumulator lanes from scratch words and sets their F state. -/
  | mxeAccld (e : Nat) (ecc : Bool)
  /-- MXE_MMUL (R194): MMUL accumulates block products of rows and weights into lanes. -/
  | mxeMmul (e : Nat) (ecc : Bool)
  /-- MXE_RQ (R196): RQ requantises lanes or scratch words into output blocks. -/
  | mxeRq (e : Nat) (ecc : Bool) (miss : Option (Nat × Nat))
  /-- MXE_ACT (R197): ACT maps block values through a LUT into output blocks. -/
  | mxeAct (e : Nat) (ecc : Bool)
  /-- MXE_CPY (R198): CPY copies bytes within the slot's scratch region. -/
  | mxeCpy (e : Nat) (ecc : Bool)
  /-- MXE_LDH (R199): LDH moves lines from host memory into scratch through the pump. -/
  | mxeLdh (e : Nat) (ecc : Bool) (cyc : Nat)
  /-- MXE_STH (R199): STH moves lines from scratch to host memory through the pump. -/
  | mxeSth (e : Nat) (ecc : Bool) (cyc : Nat)
  /-- MXE_LDREC (R200): LDREC loads a record header and fields of epoch n − AGE into scratch. -/
  | mxeLdrec (e : Nat) (ecc : Bool) (cyc : Nat)
  /-- MXE_LDEFT (R201): LDEFT reads EFT features for a list of keys into scratch. -/
  | mxeLdeft (e : Nat) (ecc : Bool) (cyc : Nat) (fin : Bool) (lost : List Nat)
  /-- MXE_VOUT (R202): VOUT places one verdict record in the verdict queue. -/
  | mxeVout (e : Nat) (ecc : Bool) (cyc : Nat)
  /-- MXE_CONTEXT_SAVE_DONE (R208): A context save completes and the preempting run starts. -/
  | mxeContextSaveDone (e : Nat)
  /-- MXE_CONTEXT_RESTORE_DONE (R210): A context restore completes and the preempted run resumes. -/
  | mxeContextRestoreDone (e : Nat)
  /-- MXE_ABORT (R214): A write of MXE_ABORT ends the named slot's run ABORTED or reports NOT_PENDING or BAD_SLOT. -/
  | mxeAbort (q : Req) (e : Nat) (d : Word)
  /-- MXE_SLOT_READ (R223): MXE window READ returns a slot table entry. -/
  | mxeSlotRead (q : Req) (e k : Nat)
  /-- MXE_SLOT_WRITE (R223): MXE window WRITE sets a slot's configuration words. -/
  | mxeSlotWrite (q : Req) (e k : Nat)
  /-- MXE_LOAD (R220): MXE window LOAD starts fetching a program image into a slot. -/
  | mxeLoad (q : Req) (e k : Nat)
  /-- MXE_LOAD_DONE (R220): The image fetch ends, load checks run, and the slot becomes VALID or LOAD_FAULT is reported. -/
  | mxeLoadDone (e : Nat)
  /-- MXE_UNLOAD (R223): MXE window UNLOAD clears a slot's VALID. -/
  | mxeUnload (q : Req) (e k : Nat)
  /-- MXE_PROG_READ (R224): Program window READ returns instruction, scratch, LUT or accumulator contents. -/
  | mxeProgRead (q : Req) (e t idx : Nat)
  /-- MXE_PROG_WRITE (R224): Program window WRITE writes instruction memory, scratch or a LUT and clears an overlapped slot's VALID. -/
  | mxeProgWrite (q : Req) (e t idx : Nat)
  /-- TRE_LAUNCH_WRITE (R233): A write of TRE_LAUNCH launches SW slots or refuses them. -/
  | treLaunchWrite (q : Req) (e : Nat) (d : Word)
  /-- TRE_RUN_START (R233): The next launched TRE run starts once the engine is free and the domain primed. -/
  | treRunStart (e : Nat)
  /-- TRE_VECTOR (R232): A TRE run gathers one feature vector, walks every tree and sums the outputs. -/
  | treVector (e : Nat) (lost : Bool) (ecc : Option Nat)
  /-- TRE_ABORT (R235): A write of TRE_ABORT ends the named slot's run ABORTED or reports NOT_PENDING or BAD_SLOT. -/
  | treAbort (q : Req) (e : Nat) (d : Word)
  /-- TRE_SLOT_READ (R253): TRE window READ returns a slot table entry. -/
  | treSlotRead (q : Req) (e k : Nat)
  /-- TRE_SLOT_WRITE (R253): TRE window WRITE sets the entry of a slot without a run. -/
  | treSlotWrite (q : Req) (e k : Nat)
  /-- TRE_LOAD (R227): TRE window LOAD starts fetching an ensemble image. -/
  | treLoad (q : Req) (e k : Nat)
  /-- TRE_LOAD_DONE (R227): The ensemble fetch ends, its checks run and the slot is loaded or left empty. -/
  | treLoadDone (e : Nat)
  /-- TRE_UNLOAD (R253): TRE window UNLOAD empties a slot. -/
  | treUnload (q : Req) (e k : Nat)
  /-- EFT_READ (R242): EFT window READ returns the entry of a key or NOT_FOUND. -/
  | eftRead (q : Req) (ecc : Bool)
  /-- EFT_WRITE (R240): EFT window WRITE replaces an entry or inserts it by cuckoo walk or stash. -/
  | eftWrite (q : Req) (ecc : Bool)
  /-- EFT_DELETE (R241): EFT window DELETE removes an entry and may pull a stash entry into the freed slot. -/
  | eftDelete (q : Req) (ecc : Bool)
  /-- EFT_READ_POS (R242): EFT window READ_POS returns the entry at a position. -/
  | eftReadPos (q : Req) (idx : Nat) (ecc : Bool)
  /-- EFT_PURGE_GEN (R242): EFT window PURGE_GEN starts removing unpinned entries of one generation. -/
  | eftPurgeGen (q : Req)
  /-- EFT_PURGE_DONE (R244): A PURGE_GEN finishes visiting every entry and its command completes. -/
  | eftPurgeDone
  /-- EFT_SNAPSHOT (R250): EFT window SNAPSHOT starts writing the table to host memory. -/
  | eftSnapshot (q : Req)
  /-- EFT_SNAPSHOT_DONE (R250): A snapshot finishes writing every valid entry and its header. -/
  | eftSnapshotDone
  /-- EFT_FEED_READ (R247): EFT window READ on table 1 returns a feed rule. -/
  | eftFeedRead (q : Req) (idx : Nat)
  /-- EFT_FEED_WRITE (R247): EFT window WRITE on table 1 sets a feed rule. -/
  | eftFeedWrite (q : Req) (idx : Nat)
  /-- EFT_SWEEP_DONE (R246): The aging sweep has visited every position. -/
  | eftSweepDone
  /-- EFT_REHASH_DONE (R248): The background rehash after a new SEED ends and REHASH clears. -/
  | eftRehashDone (lost : List Word)
  /-- CORE_EFT_READ (R263): A core's EFT command port runs READ. -/
  | coreEftRead (c : Nat) (key : Word) (buf : Nat) (ecc : Bool)
  /-- CORE_EFT_WRITE (R263): A core's EFT command port runs WRITE. -/
  | coreEftWrite (c : Nat) (key : Word) (opt buf : Nat) (ent : List Byte) (ecc : Bool)
  /-- CORE_EFT_DELETE (R263): A core's EFT command port runs DELETE. -/
  | coreEftDelete (c : Nat) (key : Word) (ecc : Bool)
  /-- CORE_EFT_READ_POS (R263): A core's EFT command port runs READ_POS. -/
  | coreEftReadPos (c : Nat) (key : Word) (buf : Nat) (ecc : Bool)
  /-- CORE_EFT_PURGE_GEN (R263): A core's EFT command port runs PURGE_GEN. -/
  | coreEftPurgeGen (c : Nat) (opt : Nat)
  /-- CORE_EFT_DONE (R263): A core EFT command completes and raises the core's interrupt 18. -/
  | coreEftDone (c : Nat)
  /-- CORE_START (R262): A COR_RUN bit going 0 to 1 with firmware loaded starts the core at ENTRY. -/
  | coreStart (q : Req) (d : Word)
  /-- CORE_STOP (R262): Clearing a COR_RUN bit resets the core at once and empties its mailboxes. -/
  | coreStop (q : Req) (d : Word)
  /-- FW_LOAD (R261): COR window LOAD starts fetching and hashing a firmware image. -/
  | fwLoad (q : Req)
  /-- FW_LOAD_DONE (R261): Firmware verification ends and IMEM and DMEM are written or zero-filled. -/
  | fwLoadDone
  /-- MBX_PUSH_DRIVER (R264): COR window WRITE pushes a message into a core's inbound FIFO. -/
  | mbxPushDriver (q : Req) (c : Nat)
  /-- MBX_POP_DRIVER (R264): COR window READ pops the oldest outbound message of a core. -/
  | mbxPopDriver (q : Req) (c : Nat)
  /-- CORE_MBX_POP (R264): A core write of CL_MBX_POP removes the head inbound message. -/
  | coreMbxPop (c : Nat)
  /-- CORE_MBX_PUSH (R264): A core write of CL_MBX_PUSH sends its outbound message. -/
  | coreMbxPush (c : Nat) (pc : BitVec 32) (msg : BitVec 128)
  /-- CORE_REG_ACCESS (R257): A core 32-bit load or store in the block register window performs or uses a 64-bit register access. -/
  | coreRegAccess (c : Nat) (pc addr : BitVec 32) (op : CoreOp) (data : BitVec 32) (ecc : Bool)
  /-- CORE_HOST_ACCESS (R259): A core load or store in the host window goes through XLT to host memory. -/
  | coreHostAccess (c : Nat) (pc : BitVec 32) (off : Nat) (write atomic : Bool) (data : List Byte)
  /-- CORE_XLT_STALL_TIMEOUT (R269): A core stalled on a translation fault for XLT_STALL_US takes the access fault. -/
  | coreXltStallTimeout (c : Nat)
  /-- CORE_TRAP (R268): A core takes a trap, halting on a double trap. -/
  | coreTrap (c : Nat) (pc : BitVec 32) (why : TrapWhy)
  /-- MTIME_MATCH (R267): mtime reaches a core's mtimecmp and raises MTIP. -/
  | mtimeMatch (c : Nat)
  /-- WDOG_KICK (R271): A write of 0x5EED to CL_WDOG_KICK restarts the core's watchdog. -/
  | wdogKick (c : Nat) (val : BitVec 32)
  /-- WDOG_BARK (R271): One watchdog period passes without a kick and interrupt 16 is raised. -/
  | wdogBark (c : Nat)
  /-- WDOG_BITE (R271): A second period passes and the core is reset and restarted at ENTRY. -/
  | wdogBite (c : Nat) (pc : BitVec 32)
  /-- COR_SHARED_WRITE (R258): A write of COR_SHARED sets the shared window only while no core runs. -/
  | corSharedWrite (q : Req) (d : Word)
  /-- RING_POLL (R274): A channel re-reads its producer word at its POLL_US interval and fetches new descriptors. -/
  | ringPoll (c : Nat) (prod : Option Nat) (descs : List (Option (List Byte)))
  /-- SEGMENT_ISSUE (R283): A stream obtains a tag and issues its next segment to the host. -/
  | segmentIssue (x : Strm) (ecc : Bool)
  /-- SEGMENT_DONE (R282): A segment's last host response returns and its tag is freed. -/
  | segmentDone (x : Strm) (idx k : Nat) (data : List Byte) (err : Bool)
  /-- DESC_WRITEBACK (R280): A descriptor whose segments have all returned is written back and CONS advances. -/
  | descWriteback (c idx : Nat) (wbErr consErr : Bool)
  /-- XLT_WALK (R287): A table walk completes with a translation or a fault placed in the fault queue. -/
  | xltWalk (x : Strm) (ptes : List (Option Word))
  /-- XLT_RESUME (R293): XLT_RESPOND with RESUME makes the stream re-walk from its checkpoint. -/
  | xltResume (q : Req) (token : Nat)
  /-- XLT_ABORT (R293): XLT_RESPOND with ABORT ends the stream's transfer as its client lays down. -/
  | xltAbort (q : Req) (token : Nat)
  /-- XLT_FAULT_POP (R292): XLT window POP returns the oldest unreturned fault entry. -/
  | xltFaultPop (q : Req)
  /-- XLT_FAULT_TIMEOUT (R294): An entry outstanding for FAULT_TMO_US is aborted by XLT. -/
  | xltFaultTimeout (token : Nat)
  /-- XLT_INV_CONTEXT (R289): XLT_INV with SCOPE CONTEXT removes every TLB entry of a context. -/
  | xltInvContext (q : Req) (ctx : Nat)
  /-- XLT_INV_PAGE (R289): XLT_INV with SCOPE PAGE removes the context's entry covering a VA. -/
  | xltInvPage (q : Req) (ctx va : Nat)
  /-- XLT_INV_ALL (R289): XLT_INV with SCOPE ALL empties the TLB. -/
  | xltInvAll (q : Req)
  /-- XLT_INV_DONE (R289): Invalidation ends once no entry matches and old segments have returned, and BUSY falls. -/
  | xltInvDone (window : Bool)
  /-- XLT_CTX_READ (R305): XLT window READ returns a context entry. -/
  | xltCtxRead (q : Req) (idx : Nat)
  /-- XLT_CTX_WRITE (R305): XLT window WRITE sets a context and invalidates it. -/
  | xltCtxWrite (q : Req) (idx : Nat)
  /-- PMP_ABORT (R299): A write of PMP_ABORT ends a pending descriptor ABORTED or reports NOT_PENDING or BAD_CHANNEL. -/
  | pmpAbort (q : Req) (d : Word)
  /-- PMP_CH_RESTART (R303): A write of PMP_CH_RESTART clears a channel's halt and resumes by cause. -/
  | pmpChRestart (q : Req) (d : Word)
  /-- PMP_CH_EN_WRITE (R303): A write of PMP_CH_EN enables rings or stops their polling at once. -/
  | pmpChEnWrite (q : Req) (d : Word)
  /-- PMP_CH_READ (R304): PMP window READ returns a channel table entry. -/
  | pmpChRead (q : Req) (idx : Nat)
  /-- PMP_CH_WRITE (R304): PMP window WRITE sets a disabled channel's entry. -/
  | pmpChWrite (q : Req) (idx : Nat)
  /-- LANE_DETECT (R308): A lane in DETECT sees partner signal and starts training at the highest shared rate. -/
  | laneDetect (w : Nat)
  /-- TRAIN_ALIGN_DONE (R308): Training alignment completes and the lane enters IDENTIFY. -/
  | trainAlignDone (w tx rx : Nat)
  /-- TRAIN_TIMEOUT (R308): Training fails for 2 ms and retries one rate lower or returns to DETECT. -/
  | trainTimeout (w : Nat)
  /-- TRAIN_FLIT_RX (R310): An end receives the partner's TRAIN flit in IDENTIFY and admits it to ACTIVE or puts it in HELD. -/
  | trainFlitRx (w : Nat) (body : List Byte)
  /-- RATE_SWITCH_DONE (R313): The lane aligns at the new rate within 50 µs and returns to ACTIVE. -/
  | rateSwitchDone (w tx rx : Nat)
  /-- RATE_SWITCH_TIMEOUT (R308): A rate switch not aligned within 50 µs sends the lane to TRAIN at the new rate. -/
  | rateSwitchTimeout (w : Nat)
  /-- RATE_HOLD_EXPIRE (R312): The hold time passes without an uncorrectable codeword and the end requests one rate faster. -/
  | rateHoldExpire (w : Nat)
  /-- LOSS_OF_SIGNAL (R308): A lane loses signal and returns to DETECT. -/
  | lossOfSignal (w : Nat)
  /-- QUARANTINE_EXPIRE (R328): QUAR_S seconds pass and the quarantined lane enters DETECT. -/
  | quarantineExpire (w : Nat)
  /-- SLK_RETRAIN (R308): SLK_CTRL.RETRAIN sends an ACTIVE lane to TRAIN or a HELD lane to DETECT. -/
  | slkRetrain (q : Req) (w : Nat) (d : Word)
  /-- SLK_CLEAR_QUAR (R328): SLK_CTRL.CLEAR_QUAR ends a quarantine and the lane enters DETECT. -/
  | slkClearQuar (q : Req) (w : Nat) (d : Word)
  /-- SLK_QUARANTINE (R328): SLK_CTRL.QUARANTINE quarantines the lane with QCAUSE 3. -/
  | slkQuarantine (q : Req) (w : Nat) (d : Word)
  /-- FLIT_SLOT (R318): In each flit slot the sender picks a control, replay, VC or NULL flit and sends it. -/
  | flitSlot (w sub : Nat)
  /-- DATA_FLIT_RX (R321): A sequenced DATA flit is received, accepted or discarded, and a message is delivered at EOM. -/
  | dataFlitRx (w : Nat) (f : List Byte) (corr : Nat) (uncorr : Option Nat) (sub : Nat)
  /-- NAK_RX (R322): A sender receives a NAK and resends from EXP. -/
  | nakRx (w : Nat) (f : List Byte)
  /-- CREDIT_SYNC_RX (R320): A CREDIT_SYNC is received and answered or used to reset credits. -/
  | creditSyncRx (w : Nat) (f : List Byte)
  /-- NULL_FLIT_RX (R319): A NULL flit's ACK_SEQ and credit fields are applied. -/
  | nullFlitRx (w : Nat) (f : List Byte)
  /-- REPLAY_TIMEOUT (R322): ACK_SEQ does not advance for REPLAY_TMO_NS and the sender resends from the oldest unacknowledged flit. -/
  | replayTimeout (w : Nat)
  /-- NAK_REPEAT (R321): REPLAY_TMO_NS passes without the expected SEQ and the receiver sends its NAK again. -/
  | nakRepeat (w : Nat)
  /-- CREDIT_SYNC_TIMEOUT (R320): A CREDIT_SYNC request has no answer within 1 µs and repeats, retraining after 8. -/
  | creditSyncTimeout (w : Nat)
  /-- HPA_ROUTE_DELAY (R329): The lane has been out of ACTIVE for DELAY_US and telemetry moves to HPA. -/
  | hpaRouteDelay
  /-- HPA_FLIT_SEND (R330): HPA writes the next VC0 or VC2 flit into its ring at up to 8 Gbit/s. -/
  | hpaFlitSend
  /-- HPA_CONS_POLL (R330): HPA re-reads the consumer pointer every 2 µs. -/
  | hpaConsPoll (cons : Nat)
  /-- ALT_RING_POLL (R332): A tray wellhead polls its ALT ring every 2 µs and consumes flits. -/
  | altRingPoll (w prod : Nat) (flits : List (List Byte))
  /-- APP_SEND (R326): SLK window WRITE queues an APP item for sending, timed or timestamped. -/
  | appSend (q : Req) (w : Nat)
  /-- APP_RX_POP (R336): SLK window POP returns the oldest received APP message. -/
  | appRxPop (q : Req) (w : Nat)
  /-- APP_MSG (R326): A LINK_MSG APP is received and enters the receive queue. -/
  | appMsg (w : Nat) (body : List Byte)
  /-- RESEND_MSG (R346): A leaf receives LINK_MSG RESEND and serves retained records or EPOCH_LOST. -/
  | resendMsg (first count : Nat)
  /-- RECORD_ARRIVAL (R351): RDX checks an arriving member record and merges it on time or late, or discards it. -/
  | recordArrival (w : Nat) (m : List Byte) (lost : List Word)
  /-- RDX_CLOSE (R353): At the close instant RDX closes the on-time accumulator and emits TRAY_EPOCH and XRF frames. -/
  | rdxClose (n : Nat)
  /-- RDX_RESEND_WRITE (R355): A write of RDX_RESEND sends the RESEND it names. -/
  | rdxResendWrite (q : Req) (d : Word)
  /-- XRF_RX (R361): A tray in tree mode receives an XRF frame and merges, forwards or discards it. -/
  | xrfRx (p : Nat) (f : List Byte)
  /-- TREE_SEND_TIMER (R361): At the close instant plus LEVEL × HOP_US a tree node sends its sums. -/
  | treeSendTimer
  /-- RDX_TBL_READ (R363): RDX window READ returns a descriptor, template entry or stream. -/
  | rdxTblRead (q : Req) (t idx : Nat)
  /-- RDX_TBL_WRITE (R363): RDX window WRITE writes a staged descriptor, template entry or stream. -/
  | rdxTblWrite (q : Req) (t idx : Nat)
  /-- COL_START (R374): A write of COL_START starts a group's collective with the signature exchange. -/
  | colStart (q : Req) (d : Word) (ecc : Bool)
  /-- COL_ABORT_WRITE (R384): A write of COL_ABORT ends a running collective ABORTED or reports NOT_PENDING or BAD_GROUP. -/
  | colAbortWrite (q : Req) (d : Word)
  /-- COL_SIG_RX (R375): A SIG frame is received and step 0 completes once all signatures are held. -/
  | colSigRx (p : Nat) (f : List Byte) (ecc : Bool)
  /-- COL_DATA_RX (R379): A DATA fragment is checked, stored and merged, and a step completes when all are in. -/
  | colDataRx (p : Nat) (f : List Byte) (ecc : Bool)
  /-- COL_ACK_RX (R380): An ACK frees the sender's kept fragments of that step. -/
  | colAckRx (p : Nat) (f : List Byte) (ecc : Bool)
  /-- COL_ABORT_RX (R382): An accepted ABORT ends the collective with its STATUS and NAMED. -/
  | colAbortRx (p : Nat) (f : List Byte)
  /-- COL_RETX_TIMER (R380): Unacknowledged fragments are re-sent every RETX_US. -/
  | colRetxTimer (g : Nat)
  /-- COL_RX_TIMEOUT (R381): A step's receive timer expires and the member ends STALLED. -/
  | colRxTimeout (g : Nat)
  /-- COL_TX_TIMEOUT (R381): A send timer expires without ACK and the member ends STALLED. -/
  | colTxTimeout (g : Nat)
  /-- COL_EFT_APPLY_DONE (R370): The received EFT entries have been applied and the collective ends DONE. -/
  | colEftApplyDone (g : Nat) (ecc : Bool)
  /-- COL_GROUP_READ (R389): COL window READ returns a group entry. -/
  | colGroupRead (q : Req) (idx : Nat)
  /-- COL_GROUP_WRITE (R389): COL window WRITE sets a group entry and zeroes COLL_SEQ. -/
  | colGroupWrite (q : Req) (idx : Nat)
  /-- COL_MEMBER_READ (R389): COL window READ returns a member entry. -/
  | colMemberRead (q : Req) (idx : Nat)
  /-- COL_MEMBER_WRITE (R389): COL window WRITE sets a member entry. -/
  | colMemberWrite (q : Req) (idx : Nat)
  /-- COL_SLOW_READ (R389): COL window READ returns a slow-table entry. -/
  | colSlowRead (q : Req) (idx : Nat)
  /-- INGEST_GRANT (R394): CIS grants ingest credit to a waiting HBM write in priority order. -/
  | ingestGrant
  /-- SLOW_STEP_TIMER (R397): While saturated, S rises every SLOW_STEP_MS unless the fill has fallen. -/
  | slowStepTimer
  /-- RECOVER_TIMER (R397): While not saturated, S falls every RECOVER_MS. -/
  | recoverTimer
  /-- UP_TX (R399): A UP port serves the next eligible queue and sends a frame. -/
  | upTx (p sub : Nat)
  /-- GATE_ADVANCE (R403): A gate list entry's duration ends and the next entry's mask applies. -/
  | gateAdvance (p : Nat)
  /-- SW_FRAME_SEND (R405): UPS window WRITE on table 3 submits a software frame to queue 0 or 6. -/
  | swFrameSend (q : Req)
  /-- SW_FRAME_POP (R406): UPS window POP on table 4 returns the oldest software frame received. -/
  | swFramePop (q : Req)
  /-- UP_FRAME_RX (R412): A UP port receives a frame, checks it and passes it to its unit or discards it. -/
  | upFrameRx (p : Nat) (f : List Byte) (crcOk ecc : Bool)
  /-- UPS_QUEUE_READ (R413): UPS window READ returns a queue entry. -/
  | upsQueueRead (q : Req) (idx : Nat)
  /-- UPS_QUEUE_WRITE (R413): UPS window WRITE sets a staged queue entry. -/
  | upsQueueWrite (q : Req) (idx : Nat)
  /-- UPS_GATE_READ (R413): UPS window READ returns a gate entry. -/
  | upsGateRead (q : Req) (idx : Nat)
  /-- UPS_GATE_WRITE (R403): UPS window WRITE sets a staged gate entry. -/
  | upsGateWrite (q : Req) (idx : Nat)
  /-- UPS_ROUTE_READ (R413): UPS window READ returns a route entry. -/
  | upsRouteRead (q : Req) (idx : Nat)
  /-- UPS_ROUTE_WRITE (R400): UPS window WRITE sets a staged route entry. -/
  | upsRouteWrite (q : Req) (idx : Nat)
  /-- POLICER_READ (R391): CIS window READ returns a policer entry and its drops. -/
  | policerRead (q : Req) (w v : Nat)
  /-- POLICER_WRITE (R391): CIS window WRITE sets a policer and refills its bucket. -/
  | policerWrite (q : Req) (w v : Nat)
  /-- MIRROR_RX (R407): A buddy receives a MIRROR frame and keeps the latest image or asks for RESYNC. -/
  | mirrorRx (p : Nat) (f : List Byte)
  /-- RESYNC_RX (R407): A primary receives RESYNC and sends every class whole. -/
  | resyncRx (p : Nat) (f : List Byte)
  /-- MIRROR_ACK_TIMEOUT (R407): The buddy acknowledges nothing for TMO_US and MIRROR reads DOWN. -/
  | mirrorAckTimeout
  /-- BUD_RESTORE (R408): A write of BUD_RESTORE makes the spare send RESTORE_REQ to the buddy. -/
  | budRestore (q : Req) (d : Word)
  /-- RESTORE_REQ_RX (R408): A buddy receives RESTORE_REQ and streams CONFIG, EFT and RECORDS. -/
  | restoreReqRx (p : Nat) (f : List Byte)
  /-- RESTORE_END_RX (R408): A spare receives END for a class and marks it complete if it matches. -/
  | restoreEndRx (p : Nat) (f : List Byte)
  /-- RESTORE_TIMEOUT (R409): The buddy sends nothing for TMO_US and the state is declared lost. -/
  | restoreTimeout
  /-- MGR_REQ_RX (R410): MGR receives a MGMT_REQ frame from the controller and executes or relays its entries. -/
  | mgrReqRx (p : Nat) (f : List Byte)
  /-- HEALTH_TIMER (R411): Every HEALTH_MS MGR reads leaf states and sends a HEALTH record. -/
  | healthTimer
  /-- MGR_RELAY_WRITE (R410): MGR window WRITE relays a driver request to a wellhead at PRIV H. -/
  | mgrRelayWrite (q : Req) (idx : Nat)
  /-- MGR_RELAY_POP (R410): MGR window POP returns a relayed reply. -/
  | mgrRelayPop (q : Req) (idx : Nat)
  /-- UP_CLEAR_QUAR (R412): UP_CTRL.CLEAR_QUAR clears the port's MAC quarantines. -/
  | upClearQuar (q : Req) (p : Nat) (d : Word)
  /-- UP_QUAR_FULL_CLEAR (R412): UP_CTRL bit 1 clears the QUAR_FULL count. -/
  | upQuarFullClear (q : Req) (p : Nat) (d : Word)
  /-- UP_QUAR_EXPIRE (R412): A MAC quarantine ends after QUAR_S seconds. -/
  | upQuarExpire (p : Nat) (mac : BitVec 48)
  /-- STEP_MARK_PORT (R414): The mark port delivers a step mark, which STM stamps, checks and sends. -/
  | stepMarkPort (d : Word)
  /-- STM_MARK_WRITE (R414): A write of STM_MARK delivers a step mark as the port does. -/
  | stmMarkWrite (q : Req) (d : Word)
  /-- STEP_MARK_RX (R417): A tray receives a STEP_MARK, checks it and enters it in its step row. -/
  | stepMarkRx (w : Nat) (m : List Byte)
  /-- STEP_VERDICT (R421): At a row's verdict instant STM fixes lateness and emits the STRAGGLER record and step frame. -/
  | stepVerdict (e : Nat) (step : Nat)
  /-- FLEET_STRAGGLER_TRAY_RX (R425): A tray accepts a FLEET_STRAGGLER record and forwards it to its expected wellheads. -/
  | fleetStragglerTrayRx (p : Nat) (f : List Byte)
  /-- FLEET_STRAGGLER_LEAF_RX (R426): A leaf posts a FLEET_STRAGGLER record into its notify queue. -/
  | fleetStragglerLeafRx (m : List Byte)
  /-- NOTIFY_POP (R432): STM window POP returns the oldest notify queue entry. -/
  | notifyPop (q : Req)
  /-- STM_JOB_READ (R432): STM window READ returns a staged job entry. -/
  | stmJobRead (q : Req) (idx : Nat)
  /-- STM_JOB_WRITE (R432): STM window WRITE sets a staged job entry. -/
  | stmJobWrite (q : Req) (idx : Nat)
  /-- STM_JOB_READ_ACTIVE (R432): STM window READ_ACTIVE returns an active job entry. -/
  | stmJobReadActive (q : Req) (idx : Nat)
  /-- STM_ROW_READ (R432): STM window READ returns a step row. -/
  | stmRowRead (q : Req) (idx : Nat)
  /-- STM_BASE_READ (R432): STM window READ returns a staged baseline entry. -/
  | stmBaseRead (q : Req) (idx : Nat)
  /-- STM_BASE_WRITE (R432): STM window WRITE sets a staged baseline entry. -/
  | stmBaseWrite (q : Req) (idx : Nat)
  /-- STM_BASE_READ_ACTIVE (R432): STM window READ_ACTIVE returns an active baseline with its state. -/
  | stmBaseReadActive (q : Req) (idx : Nat)
  /-- CAP_ARM (R438): CAP_CTRL ARM arms the named rings. -/
  | capArm (q : Req) (rings : BitVec 16)
  /-- CAP_DISARM (R438): CAP_CTRL DISARM turns the named rings OFF. -/
  | capDisarm (q : Req) (rings : BitVec 16)
  /-- CAP_UPLOAD (R438): CAP_CTRL UPLOAD starts uploading frozen rings. -/
  | capUpload (q : Req) (rings : BitVec 16)
  /-- CAP_CANCEL (R438): CAP_CTRL CANCEL ends uploads with STATUS ABORTED. -/
  | capCancel (q : Req) (rings : BitVec 16)
  /-- CAP_TRIG_WRITE (R437): A write of CAP_TRIG triggers the named armed rings. -/
  | capTrigWrite (q : Req) (d : Word)
  /-- CAP_UPLOAD_SEND (R439): CAP sends the next CAP_DATA message of an upload, or CAP_END at its end. -/
  | capUploadSend (r : Nat)
  /-- CAP_RING_READ (R450): CAP window READ returns a ring table entry. -/
  | capRingRead (q : Req) (idx : Nat)
  /-- CAP_RING_CFG_WRITE (R450): CAP window WRITE sets the entry of an OFF ring. -/
  | capRingCfgWrite (q : Req) (idx : Nat)
  /-- CAP_LINE_READ (R441): CAP window READ on table 16 + r returns a line of a tray ring. -/
  | capLineRead (q : Req) (r idx : Nat)
  /-- TRACE_BEAT (R444): A trace beat is accepted, filtered, and emitted as packets or discarded. -/
  | traceBeat (src kind size : Nat) (addr data : Word)
  /-- TRACE_SOURCE_TIMEOUT (R443): An AWAKE source silent for SRC_TMO_US enters LOST. -/
  | traceSourceTimeout (src : Nat)
  /-- HTP_FLUSH_TIMER (R448): A partial line is padded and drained after FLUSH_US without a packet. -/
  | htpFlushTimer
  /-- HTP_START (R445): HTP_CTRL.START moves the event machine to TRACING. -/
  | htpStart (q : Req)
  /-- HTP_STOP (R445): HTP_CTRL.STOP moves the event machine to POST. -/
  | htpStop (q : Req)
  /-- HTP_REARM (R445): HTP_CTRL.REARM returns a STOPPED machine to IDLE. -/
  | htpRearm (q : Req)
  /-- HTP_DRAIN (R448): HTP drains a full 256-byte line into the host ring. -/
  | htpDrain
  /-- HTP_CONS_POLL (R448): HTP re-reads CONS every 2 µs. -/
  | htpConsPoll (cons : Nat)
  /-- HTP_STALL_TIMEOUT (R448): TRACE_READY low for STALL_MAX_US is raised and beats are dropped. -/
  | htpStallTimeout
  /-- HTP_FILTER_READ (R451): HTP window READ returns an address filter. -/
  | htpFilterRead (q : Req) (idx : Nat)
  /-- HTP_FILTER_WRITE (R451): HTP window WRITE sets an address filter. -/
  | htpFilterWrite (q : Req) (idx : Nat)
  /-- SCR_PASS_TIMER (R456): CADENCE_MIN minutes pass and a screening pass falls due. -/
  | scrPassTimer
  /-- SCR_PASS_NOW (R456): SCR_CTRL.PASS_NOW starts a pass at once. -/
  | scrPassNow (q : Req) (d : Word)
  /-- SCR_ABORT_PASS (R456): SCR_CTRL.ABORT_PASS ends the pass at the current pattern. -/
  | scrAbortPass (q : Req) (d : Word)
  /-- SCR_PATTERN_START (R457): A pattern starts on its unit in an idle window. -/
  | scrPatternStart
  /-- SCR_PATTERN_END (R458): A pattern ends and its signature is compared with GOLDEN, with reruns on FAIL. -/
  | scrPatternEnd (e : PatEnd)
  /-- SCR_HOST_POP (R459): SCR window POP returns a host pattern to host firmware. -/
  | scrHostPop (q : Req)
  /-- SCR_HOST_RESULT (R459): SCR window WRITE returns a host pattern's signature. -/
  | scrHostResult (q : Req)
  /-- SCR_HOST_TIMEOUT (R459): A host pattern not returned within HOST_TMO_S ends TIMEOUT. -/
  | scrHostTimeout (j : Nat)
  /-- SCR_BUNDLE_LOAD (R454): SCR window LOAD starts copying and hashing a pattern bundle. -/
  | scrBundleLoad (q : Req)
  /-- SCR_BUNDLE_LOAD_DONE (R454): Bundle checks end and the bundle replaces the old one or is refused. -/
  | scrBundleLoadDone
  /-- SCR_RESTORE_WRITE (R464): A write of SCR_RESTORE clears a unit's degradation and journals the state. -/
  | scrRestoreWrite (q : Req) (d : Word)
  /-- NVH_CHECKPOINT (R465): Every CKPT_MIN minutes NVH checkpoints OP_MINUTES. -/
  | nvhCheckpoint
  /-- NV_PHASE_DONE (R471): A NOR erase, program or read-back of the journaled commit completes and the next phase begins. -/
  | nvPhaseDone
  /-- NVH_LOG_READ (R475): NVH window READ returns a history record. -/
  | nvhLogRead (q : Req) (die idx : Nat)
  /-- NVH_FWD_POP (R468): NVH window POP returns a queued record of a non-owner leaf. -/
  | nvhFwdPop (q : Req)
  /-- NVH_FWD_WRITE (R468): NVH window WRITE on the owner appends a forwarded record. -/
  | nvhFwdWrite (q : Req)
  /-- NVH_STATE_READ (R469): NVH window READ returns a line of a die's state copy. -/
  | nvhStateRead (q : Req) (idx : Nat)
  /-- NVH_STATE_WRITE (R469): NVH window WRITE installs a die's state copy on a non-owner leaf once per boot. -/
  | nvhStateWrite (q : Req) (idx : Nat)
  /-- FLT_INJECT (R485): A write of FLT_INJECT records a fault of a source as if its unit had raised it. -/
  | fltInject (q : Req) (d : Word)
  /-- QUIET_EXPIRE (R480): An acknowledged source's quiet period ends and it recovers, releasing its unit stop. -/
  | quietExpire (src : Nat)
  /-- FLT_ACK_SET (R481): A SET alias write of FLT_ACKk acknowledges sources. -/
  | fltAckSet (q : Req) (k : Nat) (d : Word)
  /-- FLT_ACK_CLR (R481): A CLR alias write of FLT_ACKk makes ACTIVE sources unacknowledged again. -/
  | fltAckClr (q : Req) (k : Nat) (d : Word)
  /-- FLT_ACK_WRITE (R481): A plain write of FLT_ACKk sets and clears acknowledgements by bit. -/
  | fltAckWrite (q : Req) (k : Nat) (d : Word)
  /-- FLT_SRC_READ (R484): FLT window READ returns a source's state. -/
  | fltSrcRead (q : Req) (idx : Nat)
  /-- FLT_SRC_WRITE (R484): FLT window WRITE sets a source's SEV and ESC_CAP. -/
  | fltSrcWrite (q : Req) (idx : Nat)
  /-- FLT_DIR_READ (R477): FLT window READ on table 1 returns a source's directory entry. -/
  | fltDirRead (q : Req) (idx : Nat)
  /-- FLT_CLEAR_FIRST (R485): FLT_CTRL.CLEAR_FIRST clears FLT_FIRST. -/
  | fltClearFirst (q : Req) (d : Word)
  /-- EVR_READ (R491): EVR window READ returns the record of a SEQ or BAD_INDEX. -/
  | evrRead (q : Req) (sq : Nat)
  /-- EVR_RD_WRITE (R493): A write of EVR_RD moves the driver's read mark. -/
  | evrRdWrite (q : Req) (d : Word)
  /-- IRC_CLAIM_READ (R497): A read of IRC_CLAIMn claims the best eligible group, pushes its PRIO and starts its hold-off. -/
  | ircClaimRead (q : Req) (n : Nat)
  /-- IRC_COMPLETE (R498): A write of IRC_COMPLETE pops the line's stack or records a stack fault. -/
  | ircComplete (q : Req) (d : Word)
  /-- IRC_HOLDOFF_END (R499): A group's hold-off ends and it becomes eligible again. -/
  | ircHoldoffEnd (g : Nat)
  /-- IRC_PEND_CLEAR (R495): A W1C write of a pending register clears handled bits. -/
  | ircPendClear (q : Req) (g : Nat) (d : Word)
  /-- PMU_SNAP (R504): PMU_CTRL.SNAP latches every programmable counter. -/
  | pmuSnap (q : Req) (d : Word)
  /-- PMU_CLEAR (R504): PMU_CTRL.CLEAR zeroes every programmable counter. -/
  | pmuClear (q : Req) (d : Word)
  /-- PMU_CTR_READ (R504): PMU window READ on table 0 returns a counter's live value. -/
  | pmuCtrRead (q : Req) (idx : Nat)
  /-- PMU_CTR_WRITE (R503): PMU window WRITE configures a programmable counter and zeroes it. -/
  | pmuCtrWrite (q : Req) (idx : Nat)
  /-- PMU_CTR_READ_SNAP (R504): PMU window READ_SNAP returns a counter's latched value. -/
  | pmuCtrReadSnap (q : Req) (idx : Nat)
  /-- PMU_BYTES_READ (R506): PMU window READ on table 1 returns a fixed byte counter. -/
  | pmuBytesRead (q : Req) (idx : Nat)
  /-- PMU_AON_READ (R509): PMU window READ on table 2 returns an always-on item and its bank epoch. -/
  | pmuAonRead (q : Req) (idx : Nat)
  /-- PMU_BW_READ (R508): PMU window READ on table 3 returns a port's window bytes and peaks and clears the peaks. -/
  | pmuBwRead (q : Req) (idx : Nat)
  /-- PMU_RUNLOG_READ (R512): PMU window READ on table 4 returns a run log entry. -/
  | pmuRunlogRead (q : Req) (idx : Nat)
  /-- PMU_WINDOW_END (R507): A bandwidth window ends on the fleet grid and each port's bytes are stored. -/
  | pmuWindowEnd
  /-- PMU_REPLAY (R513): A write of PMU_REPLAY launches an MXE slot as a replay run. -/
  | pmuReplay (q : Req) (d : Word)
  /-- POWER_ON_RESET (R516): PORST_N or loss of AON supply starts the boot with strap sampling and OTP read. -/
  | powerOnReset (st : Straps)
  /-- BLOCK_RESET_PIN (R516): BLK_RST_N held low for at least 1 µs runs the boot without strap sampling. -/
  | blockResetPin
  /-- LCM_PROVISION (R523): LCM_CMD PROVISION moves BLANK to PROVISIONED and blows the PROVISION fuse. -/
  | lcmProvision (q : Req)
  /-- LCM_DEPLOY (R523): LCM_CMD DEPLOY moves PROVISIONED to DEPLOYED. -/
  | lcmDeploy (q : Req)
  /-- LCM_UNDEPLOY (R523): LCM_CMD UNDEPLOY moves DEPLOYED to PROVISIONED with wipes. -/
  | lcmUndeploy (q : Req)
  /-- LCM_RETURN (R523): LCM_CMD RETURN moves the part to RETURN and blows the RETURN fuse. -/
  | lcmReturn (q : Req)
  /-- LCM_FUNCTION_RESET (R516): LCM_CMD OP 8 runs a FUNCTION reset. -/
  | lcmFunctionReset (q : Req)
  /-- LCM_BLOCK_RESET (R516): LCM_CMD OP 9 runs a BLOCK reset. -/
  | lcmBlockReset (q : Req)
  /-- LCM_CMD_TAKE_EFFECT (R517): A deferred LCM_CMD takes effect after its reply has left or the commit window has closed. -/
  | lcmCmdTakeEffect
  /-- FUNCTION_RESET_DONE (R518): A FUNCTION reset completes and BOOT_DONE rises again. -/
  | functionResetDone
  /-- OTP_READ_DONE (R516): The boot's OTP read ends and boot priming starts. -/
  | otpReadDone
  /-- WIPE_DONE (R524): The SRAM and HBM wipes end. -/
  | wipeDone
  /-- NV_STATE_DECIDE (R520): The boot's NOR read ends and the NV state is decided by the cases of the journal. -/
  | nvStateDecide (ok : Bool)
  /-- BOOT_DONE (R519): Boot completes, BOOT_DONE and XEM_READY rise and a leaf enables SLK and TKP. -/
  | bootDone
  /-- COMMIT_ARM (R528): A SET alias write of LCM_CTRL.ARM arms a commit at TARGET or refuses it. -/
  | commitArm (q : Req)
  /-- COMMIT_DISARM (R528): A CLR of LCM_CTRL.ARM before the window disarms the commit. -/
  | commitDisarm (q : Req)
  /-- LCM_COMMIT_WRITE (R528): A write of LCM_COMMIT sets TARGET and VERSION, or is ignored while armed. -/
  | lcmCommitWrite (q : Req) (d : Word)
  /-- COMMIT_WINDOW_OPEN (R529): 200 AON cycles before the boundary into TARGET the commit window opens or the commit is refused BG_BUSY. -/
  | commitWindowOpen
  /-- COMMIT_WINDOW_CLOSE (R529): 64 AON cycles after the boundary the window closes and the commit result is recorded. -/
  | commitWindowClose
  /-- OTP_READ_CMD (R535): LCM window READ returns an OTP key slot, revocation or SVN_MIN. -/
  | otpReadCmd (q : Req) (idx : Nat)
  /-- OTP_WRITE_CMD (R527): LCM window WRITE starts programming OTP under the life-cycle rules. -/
  | otpWriteCmd (q : Req) (idx : Nat)
  /-- OTP_PROGRAM_DONE (R527): An OTP program completes after 5 ms and BUSY clears. -/
  | otpProgramDone
  /-- UP_LINK_DOWN (R398): An upstream Ethernet port UP0 or UP1 loses its link, so its queues can no longer be served and the link change is signalled to IRC. -/
  | upLinkDown (p : Nat)
  /-- UP_LINK_UP (R401): An upstream port regains its link and its queues are served again, with frames of queues 1-3 able to move to it. -/
  | upLinkUp (p : Nat)
  /-- LANE_RATE_REQ_RX (R312): An end receives a changed rate request from its partner in a lane control block, and the lane moves to RATE_SWITCH to run at the lower of the two requests. -/
  | laneRateReqRx (w code : Nat)
  /-- CORE_MRET (R268): A core executes mret, which clears its IN_TRAP flag. -/
  | coreMret (c : Nat)
  /-- MIRROR_ACK_RX (R407): A primary tray receives its buddy's acknowledgement of mirror frames, keeping or returning BUD_STATE.MIRROR to ok. -/
  | mirrorAckRx (p : Nat) (f : List Byte)
  /-- RESTORE_DATA_RX (R408): A spare receives a frame of the CONFIG, EFT or RECORDS stream from its buddy and stages, applies or merges it. -/
  | restoreDataRx (p : Nat) (f : List Byte)
  /-- NVH_LOG_WRITE_DONE (R467): The NOR page program and read-back of a history record end, and a record that failed read-back is written again at the next position. -/
  | nvhLogWriteDone (ok : Bool)
  /-- PTP_DELAY_REQ_SEND (R94): An enabled UP port sends a Delay_Req (E2E) or Pdelay_Req (P2P) to start the delay measurement of its PTP exchange. -/
  | ptpDelayReqSend (p sub : Nat)
  deriving DecidableEq, Repr

end Sys2Proof
end

