-- ==== Sys2Proof/Decode.lean ====
section
/-! DEFINITION. The words that spell commands. spec/opcode_table.json gives its rows no bits ("fields" is empty in every row): the
commands come from outside the block as operations and events, not as words. -/

namespace Sys2Proof

/-- The command a word of the table spells: none, since no row has bits. -/
def decodeTableWord (_nbits _w : Nat) : Option Instr := none

end Sys2Proof
end

