-- ==== Sys2Proof/Machine/State.lean ====
section
/-! DEFINITION. The state of a Xemito block: every register, memory, queue, counter, mode and pin the manual gives it,
as plain data, the reasons a command can stop, and the state right after reset. -/

namespace Sys2Proof.Machine

/-- A byte string: a record, message, frame or image, byte 0 first. -/
abbrev Bytes := List Byte

/-- A sparse table keyed by number, kept in rising key order. -/
abbrev SMap (α : Type) := List (Nat × α)

/-- Why a command makes the block stop. No command of the table has a fault for its only outcome: the manual gives
every operation an effect (safe: the constructor is never raised by a meaning). -/
inductive Fault where
  /-- Raised by no meaning; kept so that the three outcomes have inhabited reasons. Safe. -/
  | none
  deriving DecidableEq, Repr

/-- Why a command has no meaning in the model. -/
inductive Refusal where
  /-- Raised by an arm of `exec` whose command has not been given its meaning. Safe: the machine stops. -/
  | notModelled (mnemonic : String)
  deriving DecidableEq, Repr

/-- The role of an instance (Table 00-1, R1). -/
inductive Role where
  | leaf
  | tray
  deriving DecidableEq, Repr

/-- A reply to a register access (Table 02-4). -/
structure Reply where
  rdata : Word
  rstat : BitVec 8
  rchk  : BitVec 8
  deriving DecidableEq, Repr

/-- What the part is: the size option (XEM-L1 and XEM-T1 are `full`), the stepping, and the straps as sampled at
power-on reset (R1, R2, R19). -/
structure Chip where
  full      : Bool
  role      : Role
  stepping  : Nat
  pkgDieIdx : Nat
  pkgDies   : Nat
  wellTie   : BitVec 48
  deriving DecidableEq, Repr

/-- The OTP array (21.8): key slot hashes as SHA-384 numbers, programmed and revoked masks, SVN_MIN, fuses. -/
structure Otp where
  keys       : SMap (BitVec 384)
  revoked    : BitVec 4
  svnMin     : Nat
  provFuse   : Bool
  returnFuse : Bool
  /-- An OTP program in progress (R527): index, data and the AON cycle it ends. -/
  busy       : Option (Nat × BitVec 384 × Nat)
  deriving DecidableEq, Repr

/-- One FLT source (19.2). `rises` and `shown` give the two-edge delay of R41: the levels recorded, each with its AON edge, that replies
do not show yet, and the level they show until then. -/
structure Src where
  sev      : Nat
  escCap   : Nat
  cur      : Nat
  active   : Bool
  acked    : Bool
  stopping : Bool
  count    : Nat
  episode  : Nat
  detail   : BitVec 32
  time     : Nat
  epoch    : Nat
  quietEnd : Nat
  rises    : List (Nat × Nat)
  shown    : Nat
  /-- OP_MINUTES of the last NVH record of this source (R466: one per source per minute). -/
  nvMin    : Option Nat
  deriving DecidableEq, Repr

/-- The FLT unit beside its registers: sources that differ from rest, and the FAULTED state (R483). -/
structure Flt where
  srcs        : SMap Src
  faulted     : Bool
  faultedEdge : Nat
  deriving DecidableEq, Repr

/-- One EVR record (Table 19-4); `detail` is bytes 40 to 63. -/
structure EvrRec where
  seq         : Nat
  code        : Nat
  source      : Nat
  time        : Nat
  epoch       : Nat
  flags       : Nat
  suppressed  : Nat
  opHours     : Nat
  powerCycles : Nat
  detail      : Bytes
  deriving DecidableEq, Repr

/-- The token bucket of one EVR key (R490). -/
structure Bucket where
  credit     : Nat
  last       : Nat
  suppressed : Nat
  deriving DecidableEq, Repr

/-- The EVR ring, oldest record first; the buckets of the keys that have asked for a record, `fresh` standing for every other key's;
`batch` records were written at AON edge `edge`, the last (R491). -/
structure Evr where
  recs    : List EvrRec
  buckets : SMap Bucket
  fresh   : Bucket
  edge    : Nat
  batch   : Nat
  deriving DecidableEq, Repr

/-- IRC beside its registers: the priority stack of each line, top first, the hold-offs running (R496, R499), and the
last AON edge counted in HOLDOFF_DEFERRED by group; the bits hardware set at the last edge it set any, by group (R55). -/
structure Irc where
  prioStk   : SMap (List Nat)
  holdoffs : SMap Nat
  deferred : SMap Nat
  risen    : SMap (Nat × Word)
  deriving DecidableEq, Repr

/-- One exchange a leaf has begun (R92): t1, t2 and t3 in 2^-16 ns, and what TIME_SYNC carried. -/
structure Exchange where
  exId   : Nat
  t1     : Nat
  t2     : Nat
  t3     : Nat
  asym   : Int
  syncUs : Nat
  deriving DecidableEq, Repr

/-- The PTP side of one UP port (R94, R95): the Sync in progress and the port it came from, the delay request in progress and the port
identity it carries, P2P delay, the last Announce rank and the Announce intervals missed, and the Sync interval. -/
structure PtpPort where
  syncSeq   : Option (BitVec 16)
  syncFrom  : BitVec 80
  t1        : Option Nat
  t2        : Nat
  syncCorr  : Int
  reqSeq    : BitVec 16
  reqId     : BitVec 80
  t3        : Option Nat
  pdT2      : Option Nat
  pdT4      : Nat
  pdCorr    : Int
  meanDelay : Option Int
  rank      : Option Nat
  missed    : Nat
  interval  : Nat
  deriving DecidableEq, Repr

/-- One TX timestamp entry (Table 04-8). -/
structure TxTs where
  time      : Nat
  ident     : BitVec 16
  ovfBefore : Bool
  notLocked : Bool
  deriving DecidableEq, Repr

/-- The port time table entry of a port (R91, R92, R110), in 2^-16 ns. -/
structure PortTime where
  asym  : Int
  txLat : Nat
  rxLat : Nat
  deriving DecidableEq, Repr

/-- A timed item waiting at a port (R106): launch time in 2^-16 ns, the item's bytes, and its timestamp mark. -/
structure TimedItem where
  launch : Nat
  vc     : Nat
  item   : Bytes
  mark   : Option (BitVec 16)
  deriving DecidableEq, Repr

/-- A wellhead's time exchanges at the tray (R93, R324): the next exchange id, the one that is open, and the edge at which the
next is due. -/
structure WSync where
  nextId : Nat
  open_  : Option Nat
  due    : Nat
  deriving DecidableEq, Repr

/-- TKP beside its registers (04.1 to 04.8). `t` is the time in 2^-48 ns, modulo 2^48 s. `cfg` is `TKP_SERVO_CFG` as the exchange in
progress, or the last one, took it (R109); `missAt` the last instant t_c + m × I counted (R93); `busyTo` the time at which a port's last
timed item has left (R106). -/
structure Tkp where
  t          : Nat
  inWindow   : Nat
  refusals   : Nat
  setAtOnce  : Bool
  lastC      : Option Nat
  interval   : Nat
  missedRun  : Nat
  missAt     : Nat
  cfg        : Word
  exch       : Option Exchange
  slewLeft   : Nat
  latches    : SMap (BitVec 32)
  epoch      : Nat
  limit      : Bool
  txts       : SMap (List TxTs)
  txtsOvf    : List Nat
  portTimes  : SMap PortTime
  timed      : SMap (List TimedItem)
  busyTo     : SMap Nat
  ptp        : SMap PtpPort
  sync       : SMap WSync
  deriving DecidableEq, Repr

/-- PWR beside its registers (03.2 to 03.5): the priming sequence, the regulator handshake and the hold timer. `vidNew` tells that no
attempt has started since `FAST_VID` changed (R72). -/
structure Pwr where
  start      : Nat
  firstVote  : Nat
  cause      : Nat
  fails      : Nat
  holdEnd    : Nat
  vid        : Nat
  vidEdge    : Nat
  vidNew     : Bool
  vok        : Bool
  vokWait    : Option Nat
  boot       : Bool
  deriving DecidableEq, Repr

/-- A staged LCM command waiting to take effect (R517): OP, the path of its request. -/
structure LcmCmd where
  op    : Nat
  path  : Path
  due   : Nat
  ahead : Nat
  deriving DecidableEq, Repr

/-- LCM beside its registers: the OTP, what a boot or life-cycle change has still to do, and the background work of
commits (R530). `prevVer` is CFG_VER before the commit
whose background work runs, `lcNew` the state a running life-cycle change ends in. -/
structure Lcm where
  otp       : Otp
  lcState   : Nat
  prevVer   : Nat
  bootDone  : Bool
  cmd       : List LcmCmd
  lcNew     : Option Nat
  bootStart : Nat
  resetKind : Nat
  nvCase    : Nat
  wipeFrom  : Nat
  /-- A life-cycle change was cut short by a reset: its wipes are owed (R526). -/
  wipeOwed  : Bool
  windowEnd : Option Nat
  rejects   : Nat
  commitNow : Bool
  funcReset : Bool
  deriving DecidableEq, Repr

/-- The NV state of one die (R470). -/
structure NvState where
  gen         : Nat
  opMinutes   : Nat
  powerCycles : Nat
  lc          : Nat
  degraded    : BitVec 64
  windows     : SMap (Nat × Nat)
  deriving DecidableEq, Repr

/-- A history record (Table 18-3). -/
structure NvRec where
  seq         : Nat
  kind        : Nat
  die         : Nat
  unit        : Nat
  opMinutes   : Nat
  powerCycles : Nat
  detail      : BitVec 32
  data        : BitVec 32
  deriving DecidableEq, Repr

/-- One NOR partition (R467): state copies A and B, journal sectors 2 and 3 with their marks, and the log, newest
record first and `none` for a position whose read-back failed. A sector that is erased or fails its check is `none`. -/
structure NorPart where
  copyA : Option NvState
  copyB : Option NvState
  jour0 : Option NvState
  jour1 : Option NvState
  mark0 : Option Nat
  mark1 : Option Nat
  log   : List (Option NvRec)
  deriving DecidableEq, Repr

/-- NVH beside its registers: the decided state, the NOR partitions by die, the log write and the commit in
progress (R471, R472), and a non-owner's forwarding queue (R468). -/
structure Nvh where
  st       : NvState
  norOk    : Bool
  parts    : SMap NorPart
  lastSeq  : SMap Nat
  logQ     : List (Nat × NvRec)
  fwdQ     : List NvRec
  commit   : Option NvState
  commitDie : Nat
  jstep    : Nat
  followOn : List Nat
  ckptAt   : Nat
  written  : Bool
  minuteAt : Nat
  dieStates : SMap NvState
  stage    : SMap Bytes
  deriving DecidableEq, Repr

/-- One entry of the pattern table (Table 18-1). -/
structure ScrPat where
  kind     : Nat
  inst     : Nat
  budget   : Nat
  imageOff : Nat
  imageLen : Nat
  inputOff : Nat
  inputLen : Nat
  golden   : BitVec 32
  outLen   : Nat
  hostId   : BitVec 32
  deriving DecidableEq, Repr

/-- A pattern run in progress on an instance: reruns made, the first failing signature, the edge it started, retries of
this pass, and the status and counts with which its engine's run ended. -/
structure ScrRun where
  pat     : Nat
  inst    : Nat
  unit    : Nat
  rerun   : Nat
  failed  : Option (BitVec 32)
  start   : Nat
  retries : Nat
  ended   : Option (Nat × List Nat)
  deriving DecidableEq, Repr

/-- SCR beside its registers: the bundle in force, a LOAD in progress, the pass and its position, the host queue; `degUnits` are the
units degraded at AON edge `degAt` (R464). -/
structure Scr where
  pats     : List ScrPat
  region   : Bytes
  load     : Option (Nat × Nat)
  newBundle : Option (Nat × Nat × List ScrPat × Bytes)
  passOn   : Bool
  passDue  : Bool
  nextDue  : Option Nat
  queue    : List (Nat × Nat)
  early    : List (Nat × Nat)
  retry    : List ScrRun
  run      : Option ScrRun
  fails    : Nat
  hostQ    : List (Nat × BitVec 32)
  hostOut  : List ScrRun
  suspects : List Nat
  degAt    : Nat
  degUnits : BitVec 64
  deriving DecidableEq, Repr

/-- A sample row (R132). `time` is TIME96 in 2^-16 ns; `job` and `gen` are the job in force at the tick; `first` is the
FIRST of the group definition it was taken under; `signed` tells which values are GAUGE_S. -/
structure Row where
  time    : Nat
  group   : Nat
  flags   : BitVec 8
  seq     : Nat
  planVer : Nat
  nextVer : Nat
  stale   : BitVec 64
  skew    : BitVec 64
  vals    : List Word
  job     : Nat
  gen     : Nat
  first   : Nat
  ctrs    : List Nat
  epoch   : Nat
  deriving DecidableEq, Repr

/-- A group descriptor (Table 05-12). -/
structure GDesc where
  valid   : Bool
  spring  : Bool
  mode    : Nat
  period  : Nat
  phase   : Nat
  first   : Nat
  count   : Nat
  startEp : Nat
  ticks   : Nat
  deriving DecidableEq, Repr

/-- One plan bank (R127). -/
structure Plan where
  ver     : Nat
  groups  : SMap GDesc
  members : SMap Nat
  deriving DecidableEq, Repr

/-- A row being gathered and the wells that still owe samples to it. `prev` holds the previous samples it is folded against when its
group has started anew, or has been rebuilt, since its tick (R135). -/
structure Gather where
  row  : Row
  owed : List Nat
  prev : Option (SMap Word)
  deriving DecidableEq, Repr

/-- The running state of one group. `old` is the definition it keeps ticking under while a rebuild runs (R128). -/
structure GRun where
  on      : Bool
  nextK   : Nat
  counted : Nat
  done    : Bool
  gapOwed : Bool
  lead    : Bool
  old     : Option (GDesc × List Nat × Nat)
  rebuild : Option Nat
  gather  : Option Gather
  deriving DecidableEq, Repr

/-- SMP beside its registers. -/
structure Smp where
  active  : Plan
  staged  : Plan
  pending : Bool
  runs    : SMap GRun
  valDue  : Option Nat
  deriving DecidableEq, Repr

/-- A slot descriptor (R115). -/
structure Slot where
  kind  : Nat
  width : Nat
  deriving DecidableEq, Repr

/-- One well (05.1 to 05.3). `req` is the REQ pin; `closing` says ACK is still high after REQ fell. -/
structure Well where
  active  : SMap Slot
  staged  : SMap Slot
  last    : SMap Word
  req     : Bool
  closing : Bool
  discard : Bool
  late    : Bool
  reqEdge : Nat
  tickEdge : Nat
  lastOk  : Bool
  winAt   : Nat
  deriving DecidableEq, Repr

/-- An EPR map entry (Table 05-12). -/
structure MapEnt where
  valid : Bool
  delta : Bool
  group : Nat
  ctr   : Nat
  deriving DecidableEq, Repr

/-- One bank of the EPR map and template, with the FIELDS and TEMPLATE it was committed with. -/
structure EprBank where
  map      : SMap MapEnt
  tmpl     : SMap (BitVec 32)
  fields   : Nat
  template : Nat
  deriving DecidableEq, Repr

/-- An open epoch record (R343, R344). -/
structure OpenRec where
  epoch    : Nat
  slots    : List Word
  fields   : Nat
  template : Nat
  stale    : Nat
  flags    : BitVec 20
  job      : Nat
  gen      : Nat
  cfgVer   : Nat
  nextVer  : Nat
  planVer  : Nat
  bank     : EprBank
  deriving DecidableEq, Repr

/-- EPR beside its registers. -/
structure Epr where
  active   : EprBank
  staged   : EprBank
  accepted : Bool
  pending  : Bool
  openRec  : Option OpenRec
  closing  : List OpenRec
  prev     : SMap Word
  retained : List (Nat × Bytes)
  firstEp  : Option Nat
  lost     : List Nat
  resends  : List (Nat × Nat)
  deriving DecidableEq, Repr

/-- The encoder's state of one group (R145 to R150). -/
structure EncSt where
  hist     : List (Word × Word)
  seq      : Nat
  k        : Option Nat
  since    : Nat
  planVer  : Nat
  map      : List Nat
  live     : Bool
  keyReq   : Bool
  deriving DecidableEq, Repr

/-- The decoder's state of one leaf's group (R156, R158). -/
structure DecSt where
  hist    : List (Word × Word)
  map     : List Nat
  seq     : Nat
  planVer : Nat
  valid   : Bool
  keyOut  : Bool
  keyAt   : Nat
  deriving DecidableEq, Repr

/-- A row in the encoder (R152, R153) with the predictor map it was taken under; `lost` when its read failed (R154), and then whether
its header was read. -/
structure EncRow where
  row  : Row
  map  : List Nat
  lost : Option Bool
  deriving DecidableEq, Repr

/-- CMP beside its registers: on a leaf the encoder and its buffers, on a tray the decoders. A frame in `outQ` stands with the hit its
read by SLK will meet: `.none`, `.frame` or `.frameHead`. `outUsed` is how far the frames taken
reach into the first output buffer. `inQ` by decoder and `parked` hold frames as (wellhead, bytes), oldest first, 256 added to the
wellhead of one that comes from the sump. The key of `enc` is the group, on a tray that of `dec`, which is LEAF_ID * 8192 + wellhead * 64
+ group. `dropped` lists the decoders no wellhead is bound to. -/
structure Cmp where
  active   : SMap Nat
  staged   : SMap Nat
  stage    : List Row
  springB  : List Row
  liveQ    : List Row
  enc      : SMap EncSt
  held     : Option EncRow
  outQ     : List (Bytes × EccHit)
  outUsed  : Nat
  gapOwed  : List Nat
  dec      : SMap DecSt
  inQ      : SMap (List (Nat × Bytes))
  parked   : List (Nat × Bytes)
  dropped  : List Nat
  rebind   : Bool
  deriving DecidableEq, Repr

/-- An upload of a capture ring (R439, R440). -/
structure Upload where
  offset : Nat
  tries  : Nat
  total  : Nat
  crc    : BitVec 32
  deriving DecidableEq, Repr

/-- A capture ring (Tables 17-2, 17-9). `heads` lists (offset, bytes) of the entries not overwritten, oldest first; of a leaf ring's
transfer in progress, `txWp` is WP at its start, `txHeads` its entries and `txRows` its rows. `trigAt` is the AON edge of the last trigger, `offAt` that of a DISARM in ARMED. -/
structure Ring where
  valid    : Bool
  base     : Nat
  autoUp   : Bool
  autoRe   : Bool
  log2     : Nat
  postRows : Nat
  groups   : BitVec 64
  trigEn   : BitVec 3
  minSev   : Nat
  vcode    : Nat
  thGroup  : Nat
  thCmp    : Nat
  thCtr    : Nat
  thValue  : Word
  classes  : BitVec 4
  wellhead : Nat
  st       : Nat
  wrapped  : Bool
  wp       : Nat
  oldest   : Nat
  capSeq   : Nat
  trigTime : Nat
  trigEp   : Nat
  trigJob  : Nat
  trigGen  : Nat
  trigAt   : Option Nat
  offAt    : Option Nat
  cause    : Nat
  postLeft : Nat
  uploaded : Bool
  lostRows : Nat
  heads    : List (Nat × Nat)
  txWp     : Nat
  txHeads  : Nat
  txRows   : Nat
  up       : Option Upload
  deriving DecidableEq, Repr

/-- CAP beside its registers: the rings, and the rows a leaf keeps while the write of their ring is stalled (R435). -/
structure Cap where
  rings   : SMap Ring
  buf     : List (Nat × Bytes)
  deriving DecidableEq, Repr

/-- An HTP address filter (R444). -/
structure Filter where
  lo    : Nat
  hi    : Nat
  mode  : Nat
  kinds : BitVec 8
  srcs  : BitVec 64
  deriving DecidableEq, Repr

/-- The trace state of one source (R443, R447). `st` is 0 off, 1 AWAKE, 2 ASLEEP, 3 LOST; `owed` is a SYNC reason. -/
structure TrSrc where
  st    : Nat
  owed  : Nat
  addr  : Nat
  since : Nat
  lastBeat : Nat
  ever  : Bool
  deriving DecidableEq, Repr

/-- HTP beside its registers (17.4 to 17.6); `stopAt` is the AON edge of the last STOP event met in IDLE. -/
structure Htp where
  filters  : SMap Filter
  srcs     : SMap TrSrc
  est      : Nat
  stopAt   : Option Nat
  buf      : Bytes
  lastNs   : Nat
  postLeft : Nat
  dropping : Bool
  dropped  : Nat
  stallAt  : Option Nat
  stallHit : Bool
  prod     : Nat
  cons     : Nat
  lastPkt  : Nat
  deriving DecidableEq, Repr

/-- A flit as it stands in a replay buffer or arrives on a lane (R314): header fields that the sender's state fills
(ACK_SEQ, credits) are in `ack`, `crVc`, `crCum`; `resv` holds header bits [9:0]. -/
structure Flit where
  ftype   : Nat
  vc      : Nat
  som     : Bool
  eom     : Bool
  seq     : Nat
  ack     : Nat
  crVc    : Nat
  crCum   : Nat
  resv    : Nat
  payload : Bytes
  deriving DecidableEq, Repr

/-- An item in a virtual channel's send queue: its flit type, bytes, how many are sent, and its timestamp mark. -/
structure TxItem where
  ftype : Nat
  body  : Bytes
  off   : Nat
  mark  : Option (BitVec 16)
  deriving DecidableEq, Repr

/-- For whom MGR relays a management request: the driver's window, the controller (R410), or MGR's own health reads (R411). -/
inductive RelayFor where
  | driver
  | controller
  | health
  deriving DecidableEq, Repr

/-- A management request a tray has outstanding at a leaf (R65, R66): where its reply goes. -/
structure MgmtOut where
  seq    : BitVec 16
  sent   : Nat
  origin : RelayFor
  deriving DecidableEq, Repr

/-- One SLK lane beside its registers: a leaf's single lane is lane 0, a tray has one per wellhead. `out` lists the management requests
outstanding at its leaf and `held` those that wait because 16 are (R65). -/
structure Lane where
  since     : Nat
  reqOwn    : Nat
  reqPeer   : Nat
  txq       : SMap (List TxItem)
  seq       : Nat
  replay    : List Flit
  replayPos : Option Nat
  replays   : Nat
  replaySeq : Nat
  ackAt     : Nat
  exp       : Nat
  gapOpen   : Bool
  nakDue    : Bool
  nakAt     : Nat
  expAt     : Nat
  crRot     : Nat
  freed     : SMap Nat
  crLast    : SMap Nat
  peerBufs  : SMap Nat
  rxUsed    : SMap Nat
  syncDue   : Option Bool
  syncWait  : Option Nat
  syncTries : Nat
  rxMsg     : SMap Bytes
  strikes   : List Nat
  flaps     : List Nat
  uncorr    : List Nat
  holdS     : Nat
  holdFrom  : Nat
  lastUp    : Option Nat
  hasState  : Bool
  outSince  : Option Nat
  rrLeft    : Nat × Nat
  rxApp     : List (Bytes × Nat)
  appQ      : Nat
  noise     : Bool
  out       : List MgmtOut
  held      : List (RelayFor × MgmtEntry)
  lastAttn  : Nat
  altCons   : Nat
  altSeq    : Option Nat
  altMsg    : SMap Bytes
  ahead     : Bool
  idAt      : Option Nat
  downed    : Bool
  ansDue    : Bool
  peerPkg   : Nat
  rxCount   : Nat
  rxHeld    : List Nat
  deriving DecidableEq, Repr

/-- HPA beside its registers (R329, R330). -/
structure Hpa where
  seq   : Nat
  cons  : Nat
  txq   : SMap (List TxItem)
  lastVc : Nat
  deriving DecidableEq, Repr

/-- A template entry of RDX (R363). -/
structure TmplEnt where
  valid    : Bool
  template : Nat
  fields   : Nat
  deriving DecidableEq, Repr

/-- A stream table entry of RDX (13.5, R363). -/
structure Stream where
  valid    : Bool
  ordered  : Bool
  job      : Nat
  gen      : Nat
  entry    : Nat
  expected : BitVec 128
  deriving DecidableEq, Repr

/-- One bank of the RDX tables. -/
structure RdxBank where
  descs   : SMap (BitVec 32)
  tmpls   : SMap TmplEnt
  streams : SMap Stream
  deriving DecidableEq, Repr

/-- An accumulator (13.5), with the stream entry and the template it was opened under. `slots` are 128-bit words; `held` keeps an
ORDERED stream's class B values by NODE_ID, slot by slot; `close` is its close instant in 2^-16 ns; `flags` joins its members' FLAGS and
`own` those RDX adds while it is open. -/
structure Accum where
  idx     : Nat
  str     : Stream
  tmpl    : TmplEnt
  descs   : List (BitVec 32)
  epoch   : Nat
  close   : Nat
  slots   : List (BitVec 128)
  present : BitVec 128
  flags   : BitVec 20
  own     : BitVec 20
  held    : List (Nat × List (BitVec 128))
  cfgVer  : Nat
  nextVer : Nat
  deriving DecidableEq, Repr

/-- An XRF frame (Table 13-9) with its destination and tag. -/
structure Xrf where
  dst      : BitVec 48
  vlan     : Option (BitVec 16)
  version  : Nat
  kind     : Nat
  template : Nat
  part     : Nat
  job      : Nat
  gen      : Nat
  epoch    : Nat
  flags    : BitVec 20
  first    : Nat
  n        : Nat
  descCrc  : Nat
  leaves   : Nat
  trays    : Nat
  deadline : Nat
  presence : BitVec 2048
  opmap    : List Nat
  slots    : List (BitVec 128)
  deriving DecidableEq, Repr

/-- A sum a tree node holds (R361): the children merged, whether its own frame is in, the time it must leave, and whether it
has left; `step` marks step frames (R424); `parts` are the PASS frames of an ORDERED stream that the root keeps apart till then (R360). -/
structure Held where
  frame : Xrf
  parts : List Xrf
  kids  : Nat
  own   : Bool
  due   : Nat
  sent  : Bool
  step  : Bool
  deriving DecidableEq, Repr

/-- RDX beside its registers. `closed` keeps the on-time accumulators closed inside the late window, without slots; `model` is the
last closed record of MODEL_STREAM: epoch, header and fields; `stepped` the last forward step: the epoch it closed, the one it
landed in, and the close instant of those between (R555). -/
structure Rdx where
  active     : RdxBank
  staged     : RdxBank
  pending    : Bool
  onTime     : List Accum
  late       : List Accum
  closed     : List Accum
  rebuildDue : Bool
  tree       : List Held
  model      : Option (Nat × Bytes × List (BitVec 128))
  stepped    : Option (Nat × Nat × Nat)
  deriving DecidableEq, Repr

/-- A policer (R391). -/
structure Policer where
  rate   : Nat
  burst  : Nat
  tokens : Nat
  last   : Nat
  drops  : Nat
  deriving DecidableEq, Repr

/-- A write waiting for ingest credit (R394): class 0 sump park, 1 cistern row, 2 capture; its wellhead; ring entry. -/
structure Ingest where
  cls  : Nat
  w    : Nat
  body : Bytes
  deriving DecidableEq, Repr

/-- CIS beside its registers. `spill` keeps the overflow items of upstream queues parked in the sump (R398). -/
structure Cis where
  policers : SMap Policer
  credit   : Nat
  creditAt : Nat
  waiting  : List Ingest
  rr       : Nat
  fill     : Nat
  spill    : SMap (List Bytes)
  blocked  : List Nat
  stepAt   : Nat
  stepFill : Nat
  store    : Bytes
  deriving DecidableEq, Repr

/-- A queue's staged or active entry (Table 15-7). -/
structure QCfg where
  quantum : Nat
  burst   : Nat
  limit   : Nat
  spill   : Bool
  deriving DecidableEq, Repr

/-- A route entry (R400). -/
structure Route where
  up      : Bool
  cistern : Bool
  port    : Nat
  queue   : Nat
  dest    : BitVec 48
  deriving DecidableEq, Repr

/-- One bank of the UPS tables: queues and gates by port * 32 and port * 16, routes by class. -/
structure UpsBank where
  queues : SMap QCfg
  gates  : SMap Word
  routes : SMap Route
  deriving DecidableEq, Repr

/-- What the port does with a PTP event message as it leaves (R91, R94): take t3 of the delay request with this sequenceId, or put the
turnaround since `t2`, over the request's correction, into a one-step Pdelay_Resp. -/
inductive PtpTx where
  | request (seq : BitVec 16)
  | response (t2 : Nat) (corr : Int)
  deriving DecidableEq, Repr

/-- A frame in an upstream queue: its bytes without FCS, its timestamp mark, and what PTP does as it leaves. -/
structure UpItem where
  frame : Bytes
  mark  : Option (BitVec 16)
  ptp   : Option PtpTx := none
  deriving DecidableEq, Repr

/-- One UP port: its queues, DRR state, gate position, MAC quarantines and strikes, and the QUAR_FULL count. `emptied` is the DRR
queue whose last packet has left, with the edge of its departure: it leaves the list unless an arrival of that edge keeps it. -/
structure UpPort where
  queues   : SMap (List UpItem)
  defs     : SMap Nat
  drr      : List Nat
  visited  : Bool
  roundLeft : Nat
  gateIdx  : Nat
  gateEnd  : Option Nat
  quars    : List (BitVec 48 × Nat)
  strikes  : List (BitVec 48 × Nat)
  quarFull : Nat
  emptied  : Option (Nat × Nat)
  deriving DecidableEq, Repr

/-- UPS beside its registers and the two ports; `swRx` lists frames in the software receive ring (R406). -/
structure Ups where
  active  : UpsBank
  staged  : UpsBank
  pending : Bool
  ports   : SMap UpPort
  swRx    : List (Nat × Nat × Nat × Nat)
  swHead  : Nat
  deriving DecidableEq, Repr

/-- BUD beside its registers (R407 to R409). `img` is the image held for the ward in the BUD region, the lengths of its frames by class, with
the SEQ expected next in `seqRx` (none: a whole class must come first) and `resync` while a RESYNC is out; `rx` the frames received of each class being restored
from the MAC `source`, since `rxAt`; `recs` the member records of the open and late windows by epoch, `dirty` the EFT keys
written since the boundary. -/
structure Bud where
  seqTx   : SMap Nat
  seqRx   : SMap Nat
  img     : SMap (List Nat)
  resync  : Bool
  ackAt   : Nat
  rx      : SMap (List Bytes)
  dirty   : List Nat
  recs    : List (Nat × Bytes)
  rxAt    : Nat
  source  : Nat
  deriving DecidableEq, Repr

/-- MGR beside its registers (R410, R411): replies the driver has not popped by wellhead, the last 16 replies of the tray itself (R65),
the link code of each wellhead as last reported, the next SEQ it gives, the edge of the last health summary, and `asking` while one waits for the replies of its reads. -/
structure Mgr where
  relayed : SMap (List MgmtReply)
  own     : List MgmtReply
  codes   : SMap Nat
  seq     : Nat
  healthAt : Nat
  asking  : Bool
  deriving DecidableEq, Repr

/-- What the block drives out of itself, in the order it does so. -/
inductive Out where
  /-- A flit sent on a lane (R314). -/
  | flit (lane : Nat) (f : Flit)
  /-- A frame sent on a UP port, without FCS. -/
  | frame (port : Nat) (b : Bytes)
  /-- A write to host memory at a physical address (R286). -/
  | hostWrite (addr : Nat) (b : Bytes)
  /-- A read of host memory at a physical address issued. -/
  | hostRead (addr len : Nat)
  /-- A write to host memory through a context, its translation not followed (an ALT ring's CONS). -/
  | ringWrite (ctx addr : Nat) (b : Bytes)
  /-- A NOR operation started (R467, R471). -/
  | nor (what : String) (die : Nat)
  /-- The rate code an end requests, in its lane control blocks (R312). -/
  | rateReq (lane rate : Nat)
  /-- The state of `XEM_READY` changed (R519). -/
  | ready (up : Bool)
  /-- The reply, on the host port, to an access that had to wait (R32, R51, R33). -/
  | reply (r : Reply)
  deriving DecidableEq, Repr

/-- An accumulator lane (R172): the 80-bit value and the sticky saturation bit. -/
structure ALane where
  acc : Int
  sat : Bool
  deriving DecidableEq, Repr

/-- A slot of an MXE (Table 08-16), with what its loaded image gave (R219, R220). -/
structure MSlot where
  valid    : Bool
  imageVa  : Nat
  hostVa   : Nat
  ctxAddr  : Nat
  scrBase  : Nat
  xltCtx   : Nat
  epochTrg : Bool
  prio     : Nat
  lutBase  : Nat
  imemBase : Nat
  cycles   : Nat
  nInstr   : Nat
  scrBytes : Nat
  lutCount : Nat
  crc      : Nat
  deriving DecidableEq, Repr

/-- A run of an MXE slot (R207): what was fixed at its launch, its position and its own counts. `feed` is the feed log
saved in its context image; `stop` is STOP_AT of a replay run. -/
structure MRun where
  slot    : Nat
  epoch   : Nat
  job     : Nat
  gen     : Nat
  acfg    : Word
  rcfg    : List Word
  replay  : Bool
  stop    : Nat
  pattern : Bool
  started : Bool
  index   : Nat
  base    : Nat
  sent    : Nat
  stall   : Nat
  switch  : Nat
  sat     : Nat
  clip    : Nat
  loss    : Nat
  fmt     : Nat
  raised  : BitVec 3
  block   : Nat
  preempts : Nat
  feed    : SMap (List Nat)
  deriving DecidableEq, Repr

/-- One MXE beside its registers. `mode` is ESTATE without STOPPED; `pend` and `saved` hold the pending and the preempted
runs; `loading` the slot whose image is being fetched; bit j of `eSeen` tells
that monitor j has seen an E since its last read. Absent F states are NONE. -/
structure Mxe where
  eSeen   : BitVec 16
  imem    : SMap (BitVec 128)
  scratch : List Host.Cell
  luts    : SMap Byte
  acc     : SMap ALane
  fst     : SMap Nat
  feed    : SMap (List Nat)
  slots   : SMap MSlot
  pend    : List MRun
  run     : Option MRun
  saved   : List MRun
  mode    : Nat
  vq      : List Bytes
  loading : Option Nat
  abortRes : Nat
  deriving DecidableEq, Repr

/-- A slot of a TRE (Table 09-12) with its loaded image (R225): header fields, tree table, biases and feature map. -/
structure TSlot where
  valid    : Bool
  imageVa  : Nat
  inVa     : Nat
  outVa    : Nat
  xltCtx   : Nat
  cls      : Nat
  epochTrg : Bool
  nodeBase : Nat
  setBase  : Nat
  emitMax  : Nat
  nVec     : Nat
  src      : Nat
  nOut     : Nat
  vcode    : Nat
  nNodes   : Nat
  nSets    : Nat
  featN    : Nat
  emitMin  : Int
  crc      : Nat
  trees    : List (Nat × Nat)
  bias     : List Int
  fmap     : List Nat
  deriving DecidableEq, Repr

/-- A run of a TRE slot (R232 to R235). `pos` is the next vector or EFT position. -/
structure TRun where
  slot    : Nat
  epoch   : Nat
  job     : Nat
  gen     : Nat
  pattern : Bool
  pos     : Nat
  vectors : Nat
  cycles  : Nat
  emitted : Nat
  featSat : Nat
  catRange : Nat
  missing : Nat
  drop    : Nat
  deriving DecidableEq, Repr

/-- One TRE beside its registers: node and set memory, slots, runs waiting in launch order, the verdict queue. -/
structure Tre where
  nodes   : SMap (BitVec 128)
  sets    : SMap (BitVec 256)
  slots   : SMap TSlot
  pend    : List TRun
  run     : Option TRun
  vq      : List Bytes
  loading : Option Nat
  abortRes : Nat
  deriving DecidableEq, Repr

/-- An EFT entry (Table 09-7); the features as 32-bit codes. -/
structure EftEnt where
  key    : Word
  stamp  : Nat
  pinned : Bool
  gen    : Nat
  writes : Nat
  feats  : List (BitVec 32)
  deriving DecidableEq, Repr

/-- A feed rule (R247). -/
structure FeedRule where
  valid : Bool
  op    : Nat
  feat  : Nat
  shift : Nat
  cls   : Nat
  field : Nat
  deriving DecidableEq, Repr

/-- Who issued an EFT command: the window or a core's port. -/
inductive EftBy where
  | window
  | core (c : Nat)
  deriving DecidableEq, Repr

/-- A SNAPSHOT in progress (R250): where it goes, the epoch it began in, the position it has copied up to, the entries copied, and whether
its header is on its way. -/
structure Snap where
  va     : Nat
  start  : Nat
  pos    : Nat
  count  : Nat
  closed : Bool
  deriving DecidableEq, Repr

/-- EFT beside its registers. `tbl` holds the entries of the layout of `seed` by position; `old` the entries of the old
layout of `oldSeed` while a rehash runs (R248); `purge` the PURGE_GENs in progress, `snap` a SNAPSHOT (address and epoch). -/
structure Eft where
  seed    : Nat
  ageMax  : Nat
  tbl     : SMap EftEnt
  oldSeed : Nat
  old     : SMap EftEnt
  rehash  : Bool
  sweep   : Bool
  sweepDue : Bool
  purge   : List (Nat × EftBy)
  snap    : Option Snap
  feeds   : SMap FeedRule
  deriving DecidableEq, Repr

/-- One core beside the COR page (Tables 10-1, 10-4). `msg` words are 32 bytes; `host` is a host-window access that waits
(address, write, edge of its fault); `kickAt` the edge the watchdog counts from, `counted` what it had counted when the domain began
to unprime, and `barked` whether its first period has passed; `resv` the 64 bytes a load-reserved holds (core address / 64); `irq` the pending interrupts 16, 17 and 18; `entry` the reset PC of its firmware. -/
structure CoreSt where
  imem    : List Host.Cell
  dmem    : List Host.Cell
  entry   : Nat
  pc      : BitVec 32
  inTrap  : Bool
  mcause  : BitVec 32
  mtval   : BitVec 32
  mepc    : BitVec 32
  regHi   : BitVec 32
  rstat   : BitVec 8
  rdata   : BitVec 32
  mbxOut  : BitVec 128
  inQ     : List Bytes
  outQ    : List Bytes
  eftOpt  : BitVec 16
  eftKey  : Word
  eftBuf  : Nat
  eftRes  : Nat
  eftIdx  : BitVec 32
  eftBusy : Bool
  mtimecmp : Word
  resv    : Option Nat
  irq     : BitVec 3
  host    : Option (Nat × Bool × Nat)
  kickAt  : Nat
  counted : Nat
  barked  : Bool
  deriving DecidableEq, Repr

/-- COR beside its registers: the cores, and a firmware LOAD in progress with its core mask. -/
structure Cor where
  cores  : SMap CoreSt
  load   : Option Nat
  deriving DecidableEq, Repr

/-- A descriptor of a ring (Table 11-1) from its fetch to its writeback. `next` is the next segment to issue, `out` the
segments in flight, `seen` those complete; `ending` the status it ends with once its segments have returned. -/
structure PDesc where
  index   : Nat
  bytes   : Bytes
  started : Bool
  next    : Nat
  out     : List Nat
  seen    : List Nat
  ending  : Option Nat
  wb      : Bool
  deriving DecidableEq, Repr

/-- A pump channel (Table 11-11) with its ring. `prod` is the last PROD read, `stalled` a ring stream stopped on a fault; `ahead` counts
the descriptors a poll has seen and the ring has not fetched, `aborts` the indices of them that `PMP_ABORT` has ended; `failed` is the
address of the housekeeping access that halted the ring, `consDue` tells that CONS has moved and is not yet written. -/
structure Chan where
  ringVa  : Nat
  prodVa  : Nat
  consVa  : Nat
  xltCtx  : Nat
  log2    : Nat
  pollUs  : Nat
  tagMax  : Nat
  chkDesc : Bool
  stopErr : Bool
  sramSize : Nat
  sramBase : Nat
  fetch   : Nat
  cons    : Nat
  prod    : Nat
  halt    : Nat
  stalled : Bool
  pollAt  : Nat
  descs   : List PDesc
  ahead   : Nat
  aborts  : List Nat
  failed  : Option Nat
  consDue : Bool
  deriving DecidableEq, Repr

/-- A unit transfer on a pump channel (R277): its client (Table 11-5) and instance, the host ranges (address, length) it covers in order,
the bytes it writes or, by segment, those that have arrived, and its segments. With `lastly` the last range waits until every
earlier segment has returned. -/
structure Xfer where
  client  : Nat
  inst    : Nat
  ch      : Nat
  xltCtx  : Nat
  write   : Bool
  ranges  : List (Nat × Nat)
  data    : Bytes
  got     : SMap Bytes
  lastly  : Bool
  next    : Nat
  out     : List Nat
  seen    : List Nat
  stalled : Bool
  deriving DecidableEq, Repr

/-- A descriptor that a reset of PMP ended (R301): its channel, context and the address of its WB word, until it is written back. -/
structure RingEnd where
  ch     : Nat
  xltCtx : Nat
  wbVa   : Nat
  desc   : PDesc
  deriving DecidableEq, Repr

/-- PMP beside its registers: channels that differ from reset, the unit transfers in progress, those that ended with segments in
flight, the descriptors a reset ended, and the channels that wait for a tag, each with the AON edge since which. -/
structure Pmp where
  chans : SMap Chan
  xfers : List Xfer
  dead  : List Xfer
  ends  : List RingEnd
  waits : List (Nat × Nat)
  abortRes : Nat
  deriving DecidableEq, Repr

/-- A TLB entry (R288); `level` 1, 2 or 3 gives the page size. The list in `Xlt` is most recently used first. -/
structure TlbEnt where
  xltCtx : Nat
  level  : Nat
  va     : Nat
  pa     : Nat
  wr     : Bool
  deriving DecidableEq, Repr

/-- A fault queue entry (Table 11-8), outstanding until answered; `edge` is the AON edge of the fault, `read` tells whether
POP has returned it, `token` is none while the queue is full (R291). -/
structure FqEnt where
  token   : Option Nat
  va      : Nat
  xltCtx  : Nat
  client  : Nat
  inst    : Nat
  ch      : Nat
  cause   : Nat
  level   : Nat
  access  : Nat
  pte     : Word
  edge    : Nat
  tmo     : Nat
  read    : Bool
  deriving DecidableEq, Repr

/-- An invalidation in progress (R289): scope, context, VA and the level of the entry it removed; `window` one started by a
context WRITE. -/
structure Inval where
  scope  : Nat
  xltCtx : Nat
  va     : Nat
  level  : Nat
  window : Bool
  deriving DecidableEq, Repr

/-- XLT beside its registers. -/
structure Xlt where
  ctxs   : SMap Nat
  tlb    : List TlbEnt
  faults : List FqEnt
  invs   : List Inval
  token  : Nat
  deriving DecidableEq, Repr

/-- A COL group entry (Table 14-9). -/
structure ColGrp where
  valid    : Bool
  job      : Nat
  gen      : Nat
  tag      : Nat
  myRank   : Nat
  n        : Nat
  first    : Nat
  template : Nat
  cls      : Nat
  dstEft   : Bool
  srcEft   : Bool
  ring     : Bool
  op       : Nat
  block    : Nat
  sendOff  : Nat
  recvOff  : Nat
  sendLen  : Nat
  recvLen  : Nat
  seq      : Nat
  status   : Nat
  named    : Nat
  deriving DecidableEq, Repr

/-- What a member has sent in one step to one destination and not had acknowledged (R380). -/
structure ColSend where
  step   : Nat
  dst    : Nat
  frags  : List Bytes
  first  : Nat
  resend : Nat
  deriving DecidableEq, Repr

/-- A collective of a group (14.4 to 14.7), in progress or, once `ended`, kept for what it has still to re-send. `etype`, `retx`
and `tmo` (in AON cycles), `base` are its settings at the start; `counts` are C[d]; `sigs` holds each rank's signature and
COUNT, `lastSig` the one that arrived last; `got` the fragments accepted by (step * 4096 + source), with FRAGS in `want`;
`whole` the keys complete; `part` the ALLREDUCE slots; `waits` the longest wait by rank; `applying` that received entries are being
applied to the EFT. -/
structure ColRun where
  seq     : Nat
  etype   : Nat
  retx    : Nat
  tmo     : Nat
  base    : Nat
  start   : Nat
  err     : Nat
  step    : Nat
  entered : Nat
  counts  : List Nat
  sigs    : SMap (Bytes × Nat)
  lastSig : Nat
  fields  : Nat
  opmap   : List Nat
  part    : List (BitVec 128)
  sends   : List ColSend
  got     : SMap (SMap Bytes)
  want    : SMap Nat
  whole   : List Nat
  waits   : SMap Nat
  applying : Bool
  ended   : Bool
  deriving DecidableEq, Repr

/-- A slow-table entry (Table 14-10). -/
structure ColSlow where
  lastCnt : Nat
  waitSum : Nat
  stepCnt : Nat
  deriving DecidableEq, Repr

/-- COL beside its registers; `heldSig` keeps SIG frames one COLL_SEQ ahead, by group and rank. -/
structure Col where
  groups   : SMap ColGrp
  members  : SMap Word
  slow     : SMap ColSlow
  runs     : SMap ColRun
  heldSig  : SMap (Nat × Bytes × Nat)
  port     : Nat
  abortRes : Nat
  deriving DecidableEq, Repr

/-- A job entry of a tray's STM (Table 16-11). -/
structure StmJob where
  valid    : Bool
  phase    : Nat
  job      : Nat
  gen      : Nat
  quorum   : Nat
  expected : BitVec 128
  lateNs   : Nat
  slackUs  : Nat
  rowTmo   : Nat
  deriving DecidableEq, Repr

/-- A step row (R416 to R421). `marks` are (wellhead, LEAF_ID, arrival value, on time, FLAGS); `openAt`, the quorum time `tq` and
the verdict instant `v` are times in 2^-16 ns; `order` is the row's place, 0 to 7. -/
structure StepRow where
  step   : Nat
  order  : Nat
  openAt : Nat
  marks  : List (Nat × Nat × Int × Bool × BitVec 20)
  tq     : Option Nat
  v      : Nat
  done   : Bool
  aRef   : Int
  deriving DecidableEq, Repr

/-- A baseline entry's configuration (Table 16-11). -/
structure BaseCfg where
  valid  : Bool
  freeze : Bool
  field  : Nat
  k      : Nat
  warm   : Nat
  zHi    : Nat
  consec : Nat
  deriving DecidableEq, Repr

/-- A baseline's state (R428). -/
structure BaseSt where
  n   : Nat
  m   : Int
  d   : Int
  run : Nat
  deriving DecidableEq, Repr

/-- STM beside its registers: a leaf's mark and notify queues, a tray's job banks and rows, the baseline banks. -/
structure Stm where
  mq      : List (Bytes × Nat)
  nq      : List Bytes
  jobs    : SMap StmJob
  jobsSt  : SMap StmJob
  rows    : SMap (List StepRow)
  bases   : SMap BaseCfg
  basesSt : SMap BaseCfg
  state   : SMap BaseSt
  pending : Bool
  deriving DecidableEq, Repr

/-- A programmable counter: configuration word, value, latched value (R502, R504). -/
structure PCtr where
  cfg  : Word
  val  : Nat
  snap : Nat
  deriving DecidableEq, Repr

/-- A port's bandwidth window (R507, R508). -/
structure PortBw where
  tx   : Nat
  rx   : Nat
  txLast : Nat
  rxLast : Nat
  txPeak : Nat
  rxPeak : Nat
  last : Nat
  deriving DecidableEq, Repr

/-- PMU beside its registers: counters, byte counters, the always-on counts running and the two banks, the windows and
the run log. `winUs` is WIN_US in force, 0 while no window runs, and `winEnd` the index of the window that runs. -/
structure Pmu where
  ctrs  : SMap PCtr
  bytes : SMap Nat
  cur   : SMap Nat
  bank0 : SMap Nat
  ep0   : Nat
  bank1 : SMap Nat
  ep1   : Nat
  bw    : SMap PortBw
  winUs : Nat
  log   : SMap (List Word)
  deriving DecidableEq, Repr

/-- The package's primary role as this die sees it (R20 to R22): the primary's die index, the epoch it took the role in, the
other dies eligible at the last boundary, and whether this die's next package record is its first. -/
structure Pkg where
  primary : Option Nat
  since   : Nat
  others  : BitVec 8
  changed : Bool
  deriving DecidableEq, Repr

/-- The whole state of one block. `regs` is the register file, with a register at its reset value unlisted; `staged` holds
RWS values written and not yet in effect; `marked` the pages with staged values or banks (`PG_STAT.SHADOW_PENDING`);
`resetting` the pages under UNIT_RESET with the AON cycle it ends; `waiting` the accesses that wait for them (R51). -/
structure State where
  chip      : Chip
  aon       : Nat
  regs      : SMap Word
  staged    : SMap Word
  marked    : List Nat
  resetting : SMap Nat
  waiting   : List (Access × Nat)
  reply     : Option Reply
  kept      : List MgmtReply
  flt       : Flt
  evr       : Evr
  irc       : Irc
  tkp       : Tkp
  pwr       : Pwr
  lcm       : Lcm
  nvh       : Nvh
  scr       : Scr
  smp       : Smp
  wells     : SMap Well
  epr       : Epr
  cmp       : Cmp
  cap       : Cap
  htp       : Htp
  lanes     : SMap Lane
  hpa       : Hpa
  rdx       : Rdx
  cis       : Cis
  ups       : Ups
  bud       : Bud
  mgr       : Mgr
  mxe       : SMap Mxe
  tre       : SMap Tre
  eft       : Eft
  cor       : Cor
  pmp       : Pmp
  xlt       : Xlt
  col       : Col
  stm       : Stm
  pmu       : Pmu
  pkg       : Pkg
  sram      : List Host.Cell
  hbm       : List Host.Cell
  outbox    : List Out
  /-- The count of free values drawn (the model's own field): the next one is `Config.freeWord free`. -/
  free      : Nat
  pending   : List Instr
  deriving DecidableEq, Repr

/-- An NV state of a part that holds none (Table 21-4, case 4): LC byte PROVISIONED. -/
def NvState.empty : NvState :=
  { gen := 0, opMinutes := 0, powerCycles := 0, lc := 1, degraded := 0, windows := [] }

/-- An empty sampling plan. -/
def Plan.empty : Plan := { ver := 0, groups := [], members := [] }

/-- An empty EPR bank. -/
def EprBank.empty : EprBank := { map := [], tmpl := [], fields := 0, template := 0 }

/-- An empty RDX bank. -/
def RdxBank.empty : RdxBank := { descs := [], tmpls := [], streams := [] }

/-- An empty UPS bank. -/
def UpsBank.empty : UpsBank := { queues := [], gates := [], routes := [] }

/-- The block as `PORST_N` is released, before POWER_ON_RESET starts the boot (21.1, 21.2): every register at its reset
value, a blank OTP and NOR, strap inputs of a single-die XEM-L1 leaf, stepping B0, no command waiting. -/
def State.reset : State :=
  { chip := { full := true, role := .leaf, stepping := 0x20, pkgDieIdx := 0, pkgDies := 1, wellTie := 0 }
    aon := 0
    regs := []
    staged := []
    marked := []
    resetting := []
    waiting := []
    reply := none
    kept := []
    flt := { srcs := [], faulted := false, faultedEdge := 0 }
    evr := { recs := [], buckets := [], fresh := { credit := 200000000, last := 0, suppressed := 0 }, edge := 0, batch := 0 }
    irc := { prioStk := [], holdoffs := [], deferred := [], risen := [] }
    tkp := { t := 0, inWindow := 0, refusals := 0, setAtOnce := false, lastC := none, interval := 0,
             missedRun := 0, missAt := 0, cfg := 0, exch := none, slewLeft := 0, latches := [], epoch := 0, limit := false,
             txts := [], txtsOvf := [], portTimes := [], timed := [], busyTo := [], ptp := [], sync := [] }
    pwr := { start := 0, firstVote := 0, cause := 0, fails := 0, holdEnd := 0, vid := 0, vidEdge := 0, vidNew := false,
             vok := true, vokWait := none, boot := false }
    lcm := { otp := { keys := [], revoked := 0, svnMin := 0, provFuse := false, returnFuse := false, busy := none }
             lcState := 0, prevVer := 0, bootDone := false, cmd := [], lcNew := none, bootStart := 0, resetKind := 0, nvCase := 0,
             wipeFrom := 0, wipeOwed := false, windowEnd := none, rejects := 0, commitNow := false,
             funcReset := false }
    nvh := { st := NvState.empty, norOk := false, parts := [], lastSeq := [], logQ := [], fwdQ := [], commit := none,
             commitDie := 0, jstep := 0, followOn := [], ckptAt := 0, written := false, minuteAt := 0,
             dieStates := [], stage := [] }
    scr := { pats := [], region := [], load := none, newBundle := none, passOn := false, passDue := false, nextDue := none,
             queue := [], early := [], retry := [], run := none, fails := 0, hostQ := [], hostOut := [], suspects := [],
             degAt := 0, degUnits := 0 }
    smp := { active := Plan.empty, staged := Plan.empty, pending := false, runs := [], valDue := none }
    wells := []
    epr := { active := EprBank.empty, staged := EprBank.empty, accepted := false, pending := false, openRec := none, closing := [],
             prev := [], retained := [], firstEp := none, lost := [], resends := [] }
    cmp := { active := [], staged := [], stage := [], springB := [], liveQ := [], enc := [], held := none, outQ := [], outUsed := 0,
             gapOwed := [], dec := [], inQ := [], parked := [], dropped := [], rebind := false }
    cap := { rings := [], buf := [] }
    htp := { filters := [], srcs := [], est := 0, stopAt := none, buf := [], lastNs := 0, postLeft := 0, dropping := false, dropped := 0,
             stallAt := none, stallHit := false, prod := 0, cons := 0, lastPkt := 0 }
    lanes := []
    hpa := { seq := 0, cons := 0, txq := [], lastVc := 0 }
    rdx := { active := RdxBank.empty, staged := RdxBank.empty, pending := false, onTime := [], late := [],
             closed := [], rebuildDue := true, tree := [], model := none, stepped := none }
    cis := { policers := [], credit := 0, creditAt := 0, waiting := [], rr := 0, fill := 0, spill := [], blocked := [],
             stepAt := 0, stepFill := 0, store := [] }
    ups := { active := UpsBank.empty, staged := UpsBank.empty, pending := false, ports := [], swRx := [], swHead := 0 }
    bud := { seqTx := [], seqRx := [], img := [], resync := false, ackAt := 0, rx := [], dirty := [], recs := [], rxAt := 0, source := 0 }
    mgr := { relayed := [], own := [], codes := [], seq := 0, healthAt := 0, asking := false }
    mxe := []
    tre := []
    eft := { seed := 0, ageMax := 0, tbl := [], oldSeed := 0, old := [], rehash := false, sweep := false,
             sweepDue := false, purge := [], snap := none, feeds := [] }
    cor := { cores := [], load := none }
    pmp := { chans := [], xfers := [], dead := [], ends := [], waits := [], abortRes := 0 }
    xlt := { ctxs := [], tlb := [], faults := [], invs := [], token := 0 }
    col := { groups := [], members := [], slow := [], runs := [], heldSig := [], port := 0, abortRes := 0 }
    stm := { mq := [], nq := [], jobs := [], jobsSt := [], rows := [], bases := [], basesSt := [], state := [],
             pending := false }
    pmu := { ctrs := [], bytes := [], cur := [], bank0 := [], ep0 := 0, bank1 := [], ep1 := 0, bw := [], winUs := 0,
             log := [] }
    pkg := { primary := none, since := 0, others := 0, changed := false }
    sram := []
    hbm := []
    outbox := []
    free := 0
    pending := [] }

end Sys2Proof.Machine
end

