-- ==== Sys2Proof/Machine/Num.lean ====
section
/-! DEFINITION. Numbers, byte strings, sparse tables, and the check codes: CRC-8 (R30) and CRC-32C (R143). -/

namespace Sys2Proof.Machine

/-- `x` modulo 2^n (00.7 `wrap`) of an integer. -/
def wrapI (x : Int) (n : Nat) : Nat := (x % (2 ^ n : Nat)).toNat

/-- The low `n` bits of `x` read as two's complement (00.7 `sext`). -/
def sext (x n : Nat) : Int :=
  let y := x % 2 ^ n
  if n ≠ 0 ∧ 2 ^ (n - 1) ≤ y then (y : Int) - (2 ^ n : Nat) else y

/-- Bits [hi:lo] of a number. -/
def bits (x hi lo : Nat) : Nat := (x / 2 ^ lo) % 2 ^ (hi + 1 - lo)

/-- Bit `i` of a number. -/
def bit (x i : Nat) : Bool := (x / 2 ^ i) % 2 == 1

/-- `x` with bits [hi:lo] replaced by the low bits of `v`. -/
def putBits (x hi lo v : Nat) : Nat :=
  x - bits x hi lo * 2 ^ lo + (v % 2 ^ (hi + 1 - lo)) * 2 ^ lo

/-- 1 for true. -/
def b2n (b : Bool) : Nat := if b then 1 else 0

/-- Division rounded up. -/
def ceilDiv (a b : Nat) : Nat := (a + b - 1) / b

/-- The number of bits of `x` (0 for 0). -/
def bitLength (x : Nat) : Nat := if x = 0 then 0 else Nat.log2 x + 1

/-- The low `n` bytes of `v`, least significant first (R6). -/
def leBytes : Nat → Nat → Bytes
  | 0, _ => []
  | n + 1, v => BitVec.ofNat 8 v :: leBytes n (v / 256)

/-- The low `n` bytes of `v`, most significant first: the network order of R6. -/
def beBytes (n v : Nat) : Bytes := (leBytes n v).reverse

/-- A byte string read as a little-endian number. -/
def leNat : Bytes → Nat
  | [] => 0
  | b :: bs => b.toNat + 256 * leNat bs

/-- `n` bytes of a string from byte `off`, as a little-endian number. -/
def rdLE (m : Bytes) (off n : Nat) : Nat := leNat ((m.drop off).take n)

/-- `n` bytes of a string from byte `off`, as a big-endian number. -/
def rdBE (m : Bytes) (off n : Nat) : Nat := leNat ((m.drop off).take n).reverse

/-- The string filled with zero bytes up to a multiple of `n`. -/
def padTo (n : Nat) (m : Bytes) : Bytes := m ++ List.replicate ((n - m.length % n) % n) 0

/-- The 64-bit words of a byte string, the last one filled with zeros. -/
def toWords : Nat → Bytes → List Word
  | 0, _ => []
  | n + 1, m => BitVec.ofNat 64 (leNat (m.take 8)) :: toWords n (m.drop 8)

/-- The bytes of a list of words. -/
def wordBytes (ws : List Word) : Bytes := ws.flatMap fun w => leBytes 8 w.toNat

/-! ### Sparse tables -/

/-- The entry of key `k`. -/
def SMap.get? {α : Type} : SMap α → Nat → Option α
  | [], _ => none
  | (j, v) :: r, k => if k = j then some v else SMap.get? r k

/-- The entry of key `k`, or `d`. -/
def SMap.getD {α : Type} (m : SMap α) (k : Nat) (d : α) : α := (m.get? k).getD d

/-- The table with `v` at key `k`, keys kept in rising order. -/
def SMap.set {α : Type} : SMap α → Nat → α → SMap α
  | [], k, v => [(k, v)]
  | (j, w) :: r, k, v =>
    if k = j then (k, v) :: r else if k < j then (k, v) :: (j, w) :: r else (j, w) :: SMap.set r k v

/-- The table without key `k`. -/
def SMap.erase {α : Type} : SMap α → Nat → SMap α
  | [], _ => []
  | (j, w) :: r, k => if k = j then SMap.erase r k else (j, w) :: SMap.erase r k

/-- The table without the keys `p` picks. -/
def SMap.drop {α : Type} (m : SMap α) (p : Nat → Bool) : SMap α := m.filter fun x => !p x.1

/-- Every entry of the table mapped. -/
def SMap.mapV {α β : Type} (m : SMap α) (f : Nat → α → β) : SMap β := m.map fun x => (x.1, f x.1 x.2)

/-! ### Bytes of memory in canonical form -/

/-- One byte of memory; an unlisted address reads 0 (every wiped word is zero, Table 21-3). -/
def Mem.byte (m : List Host.Cell) (a : Nat) : Byte := SMap.getD m a 0

/-- Memory with one byte written; writing 0 takes the address out of the list. -/
def Mem.put (m : List Host.Cell) (a : Nat) (v : Byte) : List Host.Cell :=
  if v = 0 then SMap.erase m a else SMap.set m a v

/-- `n` bytes of memory from `a`. -/
def Mem.read (m : List Host.Cell) (a : Nat) : Nat → Bytes
  | 0 => []
  | n + 1 => Mem.byte m a :: Mem.read m (a + 1) n

/-- Memory with a byte string written from `a`. -/
def Mem.write (m : List Host.Cell) (a : Nat) : Bytes → List Host.Cell
  | [] => m
  | b :: bs => Mem.write (Mem.put m a b) (a + 1) bs

/-- The canonical form: addresses strictly rising and no byte 0 listed. -/
def Mem.wf : List Host.Cell → Bool
  | [] => true
  | [(_, v)] => v != 0
  | (a, v) :: (b, w) :: r => decide (a < b) && v != 0 && Mem.wf ((b, w) :: r)

/-! ### Check codes -/

/-- One byte into the CRC-8 of R30: polynomial 0x2F, most significant bit first. -/
def crc8Byte (c : Nat) (b : Byte) : Nat :=
  let step := fun (x : Nat) => if 0x80 ≤ x then Nat.xor (x * 2 % 256) 0x2F else x * 2
  step (step (step (step (step (step (step (step (Nat.xor c b.toNat))))))))

/-- The CRC-8 of a byte string (R30): initial value 0xFF, final XOR 0xFF. -/
def crc8 (m : Bytes) : Nat := Nat.xor (m.foldl crc8Byte 0xFF) 0xFF

/-- One byte into the reflected CRC-32C (R143): polynomial 0x1EDC6F41, reflected 0x82F63B78. -/
def crc32cByte (c : Nat) (b : Byte) : Nat :=
  let step := fun (x : Nat) => if x % 2 = 1 then Nat.xor (x / 2) 0x82F63B78 else x / 2
  step (step (step (step (step (step (step (step (Nat.xor c b.toNat))))))))

/-- The CRC-32C state after a byte string, from state `c`. -/
def crc32cFrom (c : Nat) (m : Bytes) : Nat := m.foldl crc32cByte c

/-- The CRC-32C of a byte string (R143): initial value and final XOR 0xFFFF_FFFF. -/
def crc32c (m : Bytes) : Nat := Nat.xor (crc32cFrom 0xFFFFFFFF m) 0xFFFFFFFF

/-! ### TIME96 -/

/-- 2^-16 ns units in a second. -/
def secUnits : Nat := 1000000000 * 65536

/-- A time in 2^-16 ns as a TIME96 value (R9): seconds in [95:48], nanoseconds in [47:16], sub-nanoseconds in [15:0]. -/
def time96 (u : Nat) : Nat :=
  (u / secUnits % 2 ^ 48) * 2 ^ 48 + (u / 65536 % 1000000000) * 65536 + u % 65536

/-- A TIME96 value as a time in 2^-16 ns. -/
def ofTime96 (t : Nat) : Nat := bits t 95 48 * secUnits + bits t 47 16 * 65536 + bits t 15 0

/-- The memory form of a time (R9): 12 bytes, sub-nanoseconds first. -/
def timeBytes (u : Nat) : Bytes := leBytes 12 (time96 u)

end Sys2Proof.Machine
end

