-- ==== Sys2Proof/Machine/Arith.lean ====
section
/-! DEFINITION. Narrow integer arithmetic (chapter 07): element formats, block records, rounding, ACC80 accumulation and
requantisation, each narrowing written out over unbounded integers. -/

namespace Sys2Proof.Machine

/-- Bytes of the element field of a format (Table 07-1). -/
def fieldBytes : Nat → Nat
  | 0 => 32 | 1 => 16 | 2 => 12 | 3 => 8 | 4 => 8 | 5 => 4 | _ => 0

/-- Bytes of a block record: an 8-byte head and the element field (07.2). An I32 block is 128 bytes (R196). -/
def recBytes (fmt : Nat) : Nat := if fmt = 6 then 128 else 8 + fieldBytes fmt

/-- Bits of an element (Table 07-1). -/
def elemBits : Nat → Nat
  | 0 => 8 | 1 => 4 | 2 => 3 | 5 => 1 | _ => 2

/-- The positive and negative limits of a format (R178). -/
def qMax : Nat → Int
  | 0 => 127 | 1 => 7 | 2 => 3 | _ => 1
def qMin : Nat → Int
  | 0 => -128 | 1 => -8 | 2 => -4 | 3 => -2 | _ => -1

/-- A block as decoded: scale, values, outlier indices, and whether it was malformed (R168, R169). -/
structure Blk where
  m    : Nat
  e    : Int
  v    : List Int
  idxs : List Nat
  bad  : Bool

/-- Element `i` of an element field (R166). -/
def elemAt (fmt field i : Nat) : Int :=
  if fmt = 5 then (if bit field i then 1 else -1)
  else
    let w := elemBits fmt
    let c := field / 2 ^ (w * i) % 2 ^ w
    if fmt = 4 then (if c = 1 then 1 else if c = 3 then -1 else 0) else sext c w

/-- Decode a block record (R167 to R169). -/
def decodeBlk (fmt : Nat) (b : Bytes) : Blk :=
  let head := rdLE b 0 8
  let field := rdLE b 8 (fieldBytes fmt)
  let m := bits head 7 0
  let n := bits head 15 14
  let i0 := bits head 20 16
  let i1 := bits head 36 32
  let v := (List.range 32).map (elemAt fmt field)
  let v := if 1 ≤ n then v.set i0 (sext (bits head 31 24) 8) else v
  let v := if 2 ≤ n then v.set i1 (sext (bits head 47 40) 8) else v
  { m, e := sext (bits head 13 8) 6, v := if m = 0 then v.map fun _ => 0 else v
    idxs := if 2 ≤ n then [i0, i1] else if n = 1 then [i0] else []
    bad := decide (m = 0 ∨ n = 3 ∨ n = 2 ∧ i0 = i1) ||
      (fmt == 4 && (List.range 32).any fun i => field / 4 ^ i % 4 == 2) }

/-- Encode a block record: the element bits at an outlier index are 0 (R168); outlier values are I8. -/
def encodeBlk (fmt m : Nat) (e : Int) (outl : List Nat) (q : List Int) : Bytes :=
  let w := elemBits fmt
  let code := fun (i : Nat) (x : Int) =>
    if i ∈ outl then 0 else if fmt = 5 then (if x < 0 then 0 else 1) else wrapI x w
  let field := (List.range 32).foldl (fun a i => a + code i (q.getD i 0) * 2 ^ (w * i)) 0
  let i0 := outl.getD 0 0
  let i1 := outl.getD 1 0
  let head := m + wrapI e 6 * 2 ^ 8 + outl.length * 2 ^ 14 +
    (if 1 ≤ outl.length then i0 * 2 ^ 16 + wrapI (q.getD i0 0) 8 * 2 ^ 24 else 0) +
    (if 2 ≤ outl.length then i1 * 2 ^ 32 + wrapI (q.getD i1 0) 8 * 2 ^ 40 else 0)
  leBytes 8 head ++ leBytes (fieldBytes fmt) field

/-- Division rounded half to even (R170). -/
def divRne (n : Int) (d : Nat) : Int :=
  let q := n / d
  let r := n - q * d
  if 2 * r > d ∨ (2 * r = d ∧ q % 2 = 1) then q + 1 else q

/-- A shift with rounding half to even (R170). -/
def shiftRne (x : Int) (sh : Int) : Int :=
  if 0 ≤ sh then x * (2 ^ sh.toNat : Nat) else divRne x (2 ^ (-sh).toNat)

/-- Clamp (R170). -/
def satI (x lo hi : Int) : Int := if x < lo then lo else if x > hi then hi else x

/-- The run's arithmetic counts (R183). -/
structure ACnt where
  sat  : Nat
  clip : Nat
  loss : Nat
  fmt  : Nat

/-- The product of two blocks under F, and whether it is a loss (R171, R173). -/
def blockProduct (a b : Blk) (f : Nat) : Int × Bool :=
  let s := (List.zipWith (· * ·) a.v b.v).foldl (· + ·) 0
  let t := s * (a.m : Int) * (b.m : Int)
  let c := shiftRne t (a.e + b.e + f)
  (c, decide (t ≠ 0 ∧ c = 0))

/-- The bounds of ACC80 (R172). -/
def accMax : Int := 2 ^ 79 - 1
def accMin : Int := -(2 ^ 79)

/-- Add to a lane (R172): the lane after it and whether it saturated now. -/
def accAdd (l : ALane) (c : Int) : ALane × Bool :=
  if l.sat then (l, false)
  else
    let x := l.acc + c
    if accMin ≤ x ∧ x ≤ accMax then ({ l with acc := x }, false)
    else ({ acc := if x > 0 then accMax else accMin, sat := true }, true)

/-- The least mantissa for which m × 2^g × q reaches a (R178). -/
def needM (a q : Nat) (g : Int) : Nat := ceilDiv (a * 2 ^ (-g).toNat) (q * 2 ^ g.toNat)

/-- The scale of modes AUTO (1) and POW2 (2), tried from exponent e on (R178). -/
def scaleFrom (aIn aOut q f mode : Nat) : Nat → Int → Nat × Int
  | 0, _ => (if mode = 2 then 1 else 255, 31)
  | n + 1, e =>
    let m := max (needM aIn q (e + f)) (needM aOut 127 (e + f))
    if m ≤ (if mode = 2 then 1 else 255) then (if mode = 2 then 1 else m, e) else scaleFrom aIn aOut q f mode n (e + 1)

/-- Mantissa and exponent of an output block (R178, R180). -/
def selectScale (aIn aOut fmt f mode mFix : Nat) (eFix : Int) : Nat × Int :=
  if mode = 0 then (mFix, eFix)
  else if aIn = 0 ∧ aOut = 0 then (1, 0)
  else scaleFrom aIn aOut (qMax fmt).toNat f mode 64 (-32)

/-- The lanes that become outliers, in ascending order (R177). -/
def outliers (acc : List Int) (fmt nMax : Nat) : List Nat :=
  if fmt = 0 then []
  else
    let best := fun (skip : List Nat) => (List.range 32).foldl (fun (b : Option Nat) i =>
      if (acc.getD i 0).natAbs = 0 ∨ i ∈ skip then b
      else match b with
        | none => some i
        | some j => if (acc.getD j 0).natAbs < (acc.getD i 0).natAbs then some i else b) none
    match nMax, best [] with
    | 0, _ => []
    | _, none => []
    | 1, some i => [i]
    | _, some i => match best [i] with
      | none => [i]
      | some j => if i < j then [i, j] else [j, i]

/-- Requantise 32 values (R177 to R179): mantissa, exponent, outliers, values, clipped lanes. -/
def requantise (acc : List Int) (f fmt mode nMax mFix : Nat) (eFix : Int) : Nat × Int × List Nat × List Int × Nat :=
  let outl := outliers acc fmt nMax
  let idx := List.range 32
  let big := fun (p : Nat → Bool) => idx.foldl (fun a i => if p i then max a (acc.getD i 0).natAbs else a) 0
  let (m, e) := selectScale (big fun i => !outl.contains i) (big fun i => outl.contains i) fmt f mode mFix eFix
  let g := e + f
  let x := fun i => divRne (acc.getD i 0 * (2 ^ (-g).toNat : Nat)) (m * 2 ^ g.toNat)
  let lo := fun i => if outl.contains i then -128 else qMin fmt
  let hi := fun i => if outl.contains i then 127 else qMax fmt
  let bin := fun i => fmt == 5 && !outl.contains i
  let q := idx.map fun i => if bin i then (if acc.getD i 0 < 0 then -1 else 1) else satI (x i) (lo i) (hi i)
  (m, e, outl, q, (idx.filter fun i => !bin i && decide (x i < lo i ∨ x i > hi i)).length)

/-- An I32 output word and whether it clamped (R181). -/
def quant32 (acc : Int) (f fo : Nat) : Int × Bool :=
  let y := shiftRne acc ((fo : Int) - f)
  (satI y (-(2 ^ 31) + 1) (2 ^ 31 - 1), decide (y < -(2 ^ 31) + 1 ∨ y > 2 ^ 31 - 1))

/-- The bit length of |ACC| (R184). -/
def accBits (x : Int) : Nat := bitLength x.natAbs

end Sys2Proof.Machine
end

