-- ==== Sys2Proof/Config.lean ====
section
/-! DEFINITION. The free values: constants without a body, so that no proof can see what they are.
Each use reads one of them at the counter `State.free` or at the operands it depends on. -/

namespace Sys2Proof.Config

/-- A word the manual leaves undefined, indexed by the count of free values drawn so far. -/
opaque freeWord : Nat → BitVec 64

/-- The sourcePortIdentity of an UP port's PTP messages, which the manual does not give. -/
opaque ptpIdentity : Nat → BitVec 80

end Sys2Proof.Config
end

