-- ==== Sys2Proof/Machine/Regs.lean ====
section
/-! DEFINITION. The register map: every register of the unit pages and its fields, as the register tables and field
maps of the manual give them (Tables 02-18, 03-8 to 21-12), with the writable bits, ranges and minimum privileges. -/

namespace Sys2Proof.Machine

/-- A register of a unit's page, by its offset. -/
structure Reg where
  unit : UnitKind
  off  : Nat
  deriving DecidableEq, Repr

/-- A field of a register: bits [hi:lo]. -/
structure Fld where
  reg : Reg
  hi  : Nat
  lo  : Nat
  deriving DecidableEq, Repr

/-- Register `k` of an array of registers. -/
def Reg.nth (r : Reg) (k : Nat) : Reg := ⟨r.unit, r.off + 8 * k⟩

/-- The same field in register `k` of an array. -/
def Fld.nth (f : Fld) (k : Nat) : Fld := ⟨f.reg.nth k, f.hi, f.lo⟩

/-- Access types (Table 00-6). -/
inductive AccType where
  | ro | rw | w1c | rc | wo | rws | sc
  deriving DecidableEq, Repr

/-- One row of a register table: `cnt` registers from `off`, their reset value, the writable bits, the fields with a
stated range as (hi, lo, least, greatest), and the register-level minimum privilege (R44). -/
structure RegRow where
  off     : Nat
  cnt     : Nat
  acc     : AccType
  reset   : Nat
  wmask   : Nat
  ranges  : List (Nat × Nat × Nat × Nat)
  minPriv : Nat
  deriving DecidableEq, Repr

/-! ### Registers -/

namespace Rg

abbrev PG_ID (u : UnitKind) : Reg := ⟨u, 0x0⟩
abbrev PG_CAP (u : UnitKind) : Reg := ⟨u, 0x8⟩
abbrev PG_CTRL (u : UnitKind) : Reg := ⟨u, 0x10⟩
abbrev PG_STAT (u : UnitKind) : Reg := ⟨u, 0x18⟩
abbrev PG_ERR (u : UnitKind) : Reg := ⟨u, 0x20⟩
abbrev PG_SHADOW (u : UnitKind) : Reg := ⟨u, 0x28⟩
abbrev PG_LOCK (u : UnitKind) : Reg := ⟨u, 0x30⟩
abbrev PG_SCRATCH (u : UnitKind) : Reg := ⟨u, 0x38⟩
abbrev TBL_CMD (u : UnitKind) : Reg := ⟨u, 0xC00⟩
abbrev TBL_STAT (u : UnitKind) : Reg := ⟨u, 0xC08⟩
abbrev TBL_KEY (u : UnitKind) : Reg := ⟨u, 0xC10⟩
abbrev TBL_DATA (u : UnitKind) : Reg := ⟨u, 0xC40⟩
abbrev DIR_INFO : Reg := ⟨.dir, 0x40⟩
abbrev DIR_NODE : Reg := ⟨.dir, 0x48⟩
abbrev DIR_STATE : Reg := ⟨.dir, 0x50⟩
abbrev DIR_VIOL : Reg := ⟨.dir, 0x58⟩
abbrev DIR_LAST_VIOL : Reg := ⟨.dir, 0x60⟩
abbrev DIR_PRESENT : Reg := ⟨.dir, 0x80⟩
abbrev DIR_DEGRADED : Reg := ⟨.dir, 0x100⟩
abbrev PWR_STATE : Reg := ⟨.pwr, 0x40⟩
abbrev PWR_VOTE : Reg := ⟨.pwr, 0x48⟩
abbrev PWR_SW_VOTE : Reg := ⟨.pwr, 0x50⟩
abbrev PWR_CFG : Reg := ⟨.pwr, 0x58⟩
abbrev PWR_CTRL : Reg := ⟨.pwr, 0x60⟩
abbrev PWR_PRIME_CNT : Reg := ⟨.pwr, 0x68⟩
abbrev PWR_PRIMED_TIME : Reg := ⟨.pwr, 0x70⟩
abbrev PWR_LAST_WAKE : Reg := ⟨.pwr, 0x78⟩
abbrev PWR_SPRING : Reg := ⟨.pwr, 0x80⟩
abbrev PWR_STAGE : Reg := ⟨.pwr, 0x88⟩
abbrev TKP_STATE : Reg := ⟨.tkp, 0x40⟩
abbrev TKP_NOW_LO : Reg := ⟨.tkp, 0x48⟩
abbrev TKP_NOW_HI : Reg := ⟨.tkp, 0x50⟩
abbrev TKP_ORIGIN_LO : Reg := ⟨.tkp, 0x58⟩
abbrev TKP_ORIGIN_HI : Reg := ⟨.tkp, 0x60⟩
abbrev TKP_EPOCH_CFG : Reg := ⟨.tkp, 0x68⟩
abbrev TKP_SERVO_CFG : Reg := ⟨.tkp, 0x70⟩
abbrev TKP_JUMP_CFG : Reg := ⟨.tkp, 0x78⟩
abbrev TKP_FREQ : Reg := ⟨.tkp, 0x80⟩
abbrev TKP_RATE : Reg := ⟨.tkp, 0x88⟩
abbrev TKP_OFFSET : Reg := ⟨.tkp, 0x90⟩
abbrev TKP_PATH : Reg := ⟨.tkp, 0x98⟩
abbrev TKP_PENDING : Reg := ⟨.tkp, 0xA0⟩
abbrev TKP_CTRL : Reg := ⟨.tkp, 0xA8⟩
abbrev TKP_CNT : Reg := ⟨.tkp, 0xB0⟩
abbrev TKP_PTP_CFG : Reg := ⟨.tkp, 0xB8⟩
abbrev WEL_CFG : Reg := ⟨.wel, 0x40⟩
abbrev WEL_STAT : Reg := ⟨.wel, 0x48⟩
abbrev WEL_CNT : Reg := ⟨.wel, 0x50⟩
abbrev WEL_LAT : Reg := ⟨.wel, 0x58⟩
abbrev SMP_PLAN : Reg := ⟨.smp, 0x40⟩
abbrev SMP_VALIDATE : Reg := ⟨.smp, 0x48⟩
abbrev SMP_CHECK : Reg := ⟨.smp, 0x50⟩
abbrev SMP_ACTIVE : Reg := ⟨.smp, 0x58⟩
abbrev SMP_SPRING_CMD : Reg := ⟨.smp, 0x60⟩
abbrev SMP_SLOW : Reg := ⟨.smp, 0x68⟩
abbrev SMP_CNT : Reg := ⟨.smp, 0x70⟩
abbrev EPR_CFG : Reg := ⟨.epr, 0x40⟩
abbrev EPR_STAT : Reg := ⟨.epr, 0x48⟩
abbrev EPR_CNT : Reg := ⟨.epr, 0x50⟩
abbrev CMP_CFG : Reg := ⟨.cmp, 0x40⟩
abbrev CMP_OUT_CFG : Reg := ⟨.cmp, 0x48⟩
abbrev CMP_STAT : Reg := ⟨.cmp, 0x50⟩
abbrev CMP_FRAMES : Reg := ⟨.cmp, 0x58⟩
abbrev CMP_ENC_CNT : Reg := ⟨.cmp, 0x60⟩
abbrev CMP_BYTES_IN : Reg := ⟨.cmp, 0x68⟩
abbrev CMP_BYTES_OUT : Reg := ⟨.cmp, 0x70⟩
abbrev CMP_KEY_REQ : Reg := ⟨.cmp, 0x78⟩
abbrev CMP_DEC_ERR0 : Reg := ⟨.cmp, 0x80⟩
abbrev CMP_DEC_ERR1 : Reg := ⟨.cmp, 0x88⟩
abbrev CMP_DEC_LAST : Reg := ⟨.cmp, 0x90⟩
abbrev MXE_ARITH_CFG : Reg := ⟨.mxe, 0x2C0⟩
abbrev MXE_SAT_CNT : Reg := ⟨.mxe, 0x2C8⟩
abbrev MXE_CLIP_CNT : Reg := ⟨.mxe, 0x2D0⟩
abbrev MXE_LOSS_CNT : Reg := ⟨.mxe, 0x2D8⟩
abbrev MXE_FMT_CNT : Reg := ⟨.mxe, 0x2E0⟩
abbrev MXE_SENT_CNT : Reg := ⟨.mxe, 0x2E8⟩
abbrev MXE_ARITH_LAST : Reg := ⟨.mxe, 0x2F0⟩
abbrev MXE_SENT_LAST : Reg := ⟨.mxe, 0x2F8⟩
abbrev MXE_RMON_CFG : Reg := ⟨.mxe, 0x300⟩
abbrev MXE_RMON_STAT : Reg := ⟨.mxe, 0x380⟩
abbrev MXE_CFG : Reg := ⟨.mxe, 0x40⟩
abbrev MXE_STAT : Reg := ⟨.mxe, 0x48⟩
abbrev MXE_LAUNCH : Reg := ⟨.mxe, 0x50⟩
abbrev MXE_ABORT : Reg := ⟨.mxe, 0x58⟩
abbrev MXE_RUN_LAST : Reg := ⟨.mxe, 0x60⟩
abbrev MXE_CYC_LAST : Reg := ⟨.mxe, 0x68⟩
abbrev MXE_CYC_EXTRA : Reg := ⟨.mxe, 0x70⟩
abbrev MXE_RUN_CNT : Reg := ⟨.mxe, 0x78⟩
abbrev MXE_FAULT_LAST : Reg := ⟨.mxe, 0x80⟩
abbrev MXE_SWITCH_CNT : Reg := ⟨.mxe, 0x88⟩
abbrev MXE_VQ : Reg := ⟨.mxe, 0x90⟩
abbrev TRE_CFG : Reg := ⟨.tre, 0x40⟩
abbrev TRE_STAT : Reg := ⟨.tre, 0x48⟩
abbrev TRE_LAUNCH : Reg := ⟨.tre, 0x50⟩
abbrev TRE_ABORT : Reg := ⟨.tre, 0x58⟩
abbrev TRE_RUN_LAST : Reg := ⟨.tre, 0x60⟩
abbrev TRE_RUN_CYC : Reg := ⟨.tre, 0x68⟩
abbrev TRE_RUN_CNT : Reg := ⟨.tre, 0x70⟩
abbrev TRE_CNT : Reg := ⟨.tre, 0x78⟩
abbrev TRE_FAULT_LAST : Reg := ⟨.tre, 0x80⟩
abbrev TRE_VQ : Reg := ⟨.tre, 0x88⟩
abbrev EFT_CFG : Reg := ⟨.eft, 0x40⟩
abbrev EFT_CTL : Reg := ⟨.eft, 0x48⟩
abbrev EFT_STAT : Reg := ⟨.eft, 0x50⟩
abbrev EFT_CNT : Reg := ⟨.eft, 0x58⟩
abbrev EFT_RELOC : Reg := ⟨.eft, 0x60⟩
abbrev EFT_CACHE : Reg := ⟨.eft, 0x68⟩
abbrev COR_CFG : Reg := ⟨.cor, 0x40⟩
abbrev COR_HOSTWIN : Reg := ⟨.cor, 0x48⟩
abbrev COR_SHARED : Reg := ⟨.cor, 0x50⟩
abbrev COR_RUN : Reg := ⟨.cor, 0x58⟩
abbrev COR_LOADED : Reg := ⟨.cor, 0x60⟩
abbrev COR_HALTED : Reg := ⟨.cor, 0x68⟩
abbrev COR_MBX_OUT : Reg := ⟨.cor, 0x70⟩
abbrev COR_CNT : Reg := ⟨.cor, 0x78⟩
abbrev COR_LAST : Reg := ⟨.cor, 0x80⟩
abbrev COR_OTP : Reg := ⟨.cor, 0x88⟩
abbrev COR_WDOG_CFG : Reg := ⟨.cor, 0x90⟩
abbrev PMP_CH_EN : Reg := ⟨.pmp, 0x40⟩
abbrev PMP_CH_HALTED : Reg := ⟨.pmp, 0x48⟩
abbrev PMP_CH_RESTART : Reg := ⟨.pmp, 0x50⟩
abbrev PMP_ABORT : Reg := ⟨.pmp, 0x58⟩
abbrev PMP_STAT : Reg := ⟨.pmp, 0x60⟩
abbrev PMP_TAGS : Reg := ⟨.pmp, 0x68⟩
abbrev PMP_CNT : Reg := ⟨.pmp, 0x70⟩
abbrev PMP_BYTES : Reg := ⟨.pmp, 0x78⟩
abbrev PMP_LAST_ERR : Reg := ⟨.pmp, 0x80⟩
abbrev XLT_CFG : Reg := ⟨.xlt, 0x40⟩
abbrev XLT_FQ_STAT : Reg := ⟨.xlt, 0x48⟩
abbrev XLT_RESPOND : Reg := ⟨.xlt, 0x50⟩
abbrev XLT_RESP_STAT : Reg := ⟨.xlt, 0x58⟩
abbrev XLT_INV : Reg := ⟨.xlt, 0x60⟩
abbrev XLT_INV_STAT : Reg := ⟨.xlt, 0x68⟩
abbrev XLT_TLB_CNT : Reg := ⟨.xlt, 0x70⟩
abbrev XLT_CNT : Reg := ⟨.xlt, 0x78⟩
abbrev SLK_CFG : Reg := ⟨.slk, 0x40⟩
abbrev SLK_FLAP_CFG : Reg := ⟨.slk, 0x48⟩
abbrev SLK_STATE : Reg := ⟨.slk, 0x50⟩
abbrev SLK_CTRL : Reg := ⟨.slk, 0x58⟩
abbrev SLK_CREDIT : Reg := ⟨.slk, 0x60⟩
abbrev SLK_FEC : Reg := ⟨.slk, 0x68⟩
abbrev SLK_RETRY : Reg := ⟨.slk, 0x70⟩
abbrev SLK_LINK_CNT : Reg := ⟨.slk, 0x78⟩
abbrev SLK_VIOL : Reg := ⟨.slk, 0x80⟩
abbrev SLK_VIOL_LAST : Reg := ⟨.slk, 0xA0⟩
abbrev SLK_MSG_CNT : Reg := ⟨.slk, 0xA8⟩
abbrev SLK_ALT_CFG : Reg := ⟨.slk, 0xB0⟩
abbrev SLK_ALT_RING : Reg := ⟨.slk, 0xB8⟩
abbrev SLK_ALT_PTRS : Reg := ⟨.slk, 0xC0⟩
abbrev HPA_CFG : Reg := ⟨.hpa, 0x40⟩
abbrev HPA_RING : Reg := ⟨.hpa, 0x48⟩
abbrev HPA_PTRS : Reg := ⟨.hpa, 0x50⟩
abbrev HPA_STAT : Reg := ⟨.hpa, 0x58⟩
abbrev HPA_CNT : Reg := ⟨.hpa, 0x60⟩
abbrev HPA_BYTES : Reg := ⟨.hpa, 0x68⟩
abbrev EPR_RETAIN : Reg := ⟨.epr, 0x58⟩
abbrev EPR_RESEND_CNT : Reg := ⟨.epr, 0x60⟩
abbrev RDX_CFG : Reg := ⟨.rdx, 0x40⟩
abbrev RDX_TREE_CFG : Reg := ⟨.rdx, 0x48⟩
abbrev RDX_PARENT : Reg := ⟨.rdx, 0x50⟩
abbrev RDX_STAT : Reg := ⟨.rdx, 0x58⟩
abbrev RDX_CNT0 : Reg := ⟨.rdx, 0x60⟩
abbrev RDX_CNT1 : Reg := ⟨.rdx, 0x68⟩
abbrev RDX_XRF_CNT : Reg := ⟨.rdx, 0x70⟩
abbrev RDX_RESEND : Reg := ⟨.rdx, 0x78⟩
abbrev RDX_LAST : Reg := ⟨.rdx, 0x80⟩
abbrev RDX_CNT2 : Reg := ⟨.rdx, 0x88⟩
abbrev COL_CFG : Reg := ⟨.col, 0x40⟩
abbrev COL_AREA : Reg := ⟨.col, 0x48⟩
abbrev COL_START : Reg := ⟨.col, 0x50⟩
abbrev COL_ABORT : Reg := ⟨.col, 0x58⟩
abbrev COL_STAT : Reg := ⟨.col, 0x60⟩
abbrev COL_LAST : Reg := ⟨.col, 0x68⟩
abbrev COL_CNT : Reg := ⟨.col, 0x70⟩
abbrev COL_RX_CNT0 : Reg := ⟨.col, 0x78⟩
abbrev COL_RX_CNT1 : Reg := ⟨.col, 0x80⟩
abbrev COL_RETX : Reg := ⟨.col, 0x88⟩
abbrev COL_SLOW_LAST : Reg := ⟨.col, 0x90⟩
abbrev COL_EFT_CNT : Reg := ⟨.col, 0x98⟩
abbrev UPS_CFG : Reg := ⟨.ups, 0x40⟩
abbrev UPS_SWRX : Reg := ⟨.ups, 0x48⟩
abbrev UPS_QBUSY : Reg := ⟨.ups, 0x50⟩
abbrev UPS_CNT : Reg := ⟨.ups, 0x58⟩
abbrev UPS_SPILLED : Reg := ⟨.ups, 0x60⟩
abbrev CIS_STORE : Reg := ⟨.cis, 0x40⟩
abbrev CIS_SUMP : Reg := ⟨.cis, 0x48⟩
abbrev CIS_INGEST : Reg := ⟨.cis, 0x50⟩
abbrev CIS_SAT : Reg := ⟨.cis, 0x58⟩
abbrev CIS_STAT : Reg := ⟨.cis, 0x60⟩
abbrev CIS_CNT : Reg := ⟨.cis, 0x68⟩
abbrev CIS_BYTES : Reg := ⟨.cis, 0x70⟩
abbrev BUD_CFG : Reg := ⟨.bud, 0x40⟩
abbrev BUD_WARD : Reg := ⟨.bud, 0x48⟩
abbrev BUD_REGION : Reg := ⟨.bud, 0x50⟩
abbrev BUD_TMO : Reg := ⟨.bud, 0x58⟩
abbrev BUD_RESTORE : Reg := ⟨.bud, 0x60⟩
abbrev BUD_STATE : Reg := ⟨.bud, 0x68⟩
abbrev BUD_CNT : Reg := ⟨.bud, 0x70⟩
abbrev MGR_CFG : Reg := ⟨.mgr, 0x40⟩
abbrev MGR_CNT : Reg := ⟨.mgr, 0x48⟩
abbrev UP_CFG : Reg := ⟨.up, 0x40⟩
abbrev UP_STAT : Reg := ⟨.up, 0x48⟩
abbrev UP_QUAR_CFG : Reg := ⟨.up, 0x50⟩
abbrev UP_VIOL : Reg := ⟨.up, 0x58⟩
abbrev UP_VIOL_LAST : Reg := ⟨.up, 0x70⟩
abbrev UP_CTRL : Reg := ⟨.up, 0x78⟩
abbrev STM_CFG : Reg := ⟨.stm, 0x40⟩
abbrev STM_MARK : Reg := ⟨.stm, 0x48⟩
abbrev STM_STAT : Reg := ⟨.stm, 0x50⟩
abbrev STM_CNT0 : Reg := ⟨.stm, 0x58⟩
abbrev STM_CNT1 : Reg := ⟨.stm, 0x60⟩
abbrev STM_CNT2 : Reg := ⟨.stm, 0x68⟩
abbrev STM_LAST : Reg := ⟨.stm, 0x70⟩
abbrev STM_LAT : Reg := ⟨.stm, 0x78⟩
abbrev STM_VCNT : Reg := ⟨.stm, 0x80⟩
abbrev STM_CNT3 : Reg := ⟨.stm, 0x88⟩
abbrev CAP_CFG : Reg := ⟨.cap, 0x40⟩
abbrev CAP_STAT : Reg := ⟨.cap, 0x48⟩
abbrev CAP_TRIG : Reg := ⟨.cap, 0x50⟩
abbrev CAP_CTRL : Reg := ⟨.cap, 0x58⟩
abbrev CAP_CNT : Reg := ⟨.cap, 0x60⟩
abbrev CAP_LAST : Reg := ⟨.cap, 0x68⟩
abbrev HTP_CFG : Reg := ⟨.htp, 0x40⟩
abbrev HTP_SRC_EN : Reg := ⟨.htp, 0x48⟩
abbrev HTP_RING : Reg := ⟨.htp, 0x50⟩
abbrev HTP_PTRS : Reg := ⟨.htp, 0x58⟩
abbrev HTP_XLT : Reg := ⟨.htp, 0x60⟩
abbrev HTP_EVT : Reg := ⟨.htp, 0x68⟩
abbrev HTP_CTRL : Reg := ⟨.htp, 0x70⟩
abbrev HTP_STAT : Reg := ⟨.htp, 0x78⟩
abbrev HTP_SRC_ASLEEP : Reg := ⟨.htp, 0x80⟩
abbrev HTP_SRC_LOST : Reg := ⟨.htp, 0x88⟩
abbrev HTP_CNT : Reg := ⟨.htp, 0x90⟩
abbrev HTP_BYTES : Reg := ⟨.htp, 0x98⟩
abbrev SCR_CFG : Reg := ⟨.scr, 0x40⟩
abbrev SCR_STAT : Reg := ⟨.scr, 0x48⟩
abbrev SCR_CTRL : Reg := ⟨.scr, 0x50⟩
abbrev SCR_BUNDLE : Reg := ⟨.scr, 0x58⟩
abbrev SCR_CNT : Reg := ⟨.scr, 0x60⟩
abbrev SCR_LAST : Reg := ⟨.scr, 0x68⟩
abbrev SCR_DEGRADED : Reg := ⟨.scr, 0x70⟩
abbrev SCR_RESTORE : Reg := ⟨.scr, 0x78⟩
abbrev NVH_CFG : Reg := ⟨.nvh, 0x40⟩
abbrev NVH_STAT : Reg := ⟨.nvh, 0x48⟩
abbrev NVH_TIME : Reg := ⟨.nvh, 0x50⟩
abbrev NVH_CNT : Reg := ⟨.nvh, 0x58⟩
abbrev NVH_PHASE : Reg := ⟨.nvh, 0x60⟩
abbrev FLT_CFG : Reg := ⟨.flt, 0x40⟩
abbrev FLT_STAT : Reg := ⟨.flt, 0x48⟩
abbrev FLT_FIRST : Reg := ⟨.flt, 0x50⟩
abbrev FLT_LAST : Reg := ⟨.flt, 0x58⟩
abbrev FLT_CNT : Reg := ⟨.flt, 0x60⟩
abbrev FLT_INJECT : Reg := ⟨.flt, 0x68⟩
abbrev FLT_CTRL : Reg := ⟨.flt, 0x70⟩
abbrev FLT_FATAL : Reg := ⟨.flt, 0x78⟩
abbrev FLT_ACK : Reg := ⟨.flt, 0x100⟩
abbrev EVR_CFG : Reg := ⟨.evr, 0x40⟩
abbrev EVR_HEAD : Reg := ⟨.evr, 0x48⟩
abbrev EVR_TAIL : Reg := ⟨.evr, 0x50⟩
abbrev EVR_RD : Reg := ⟨.evr, 0x58⟩
abbrev EVR_CNT : Reg := ⟨.evr, 0x60⟩
abbrev EVR_EPOCH : Reg := ⟨.evr, 0x68⟩
abbrev IRC_GCFG : Reg := ⟨.irc, 0x140⟩
abbrev IRC_CLAIM : Reg := ⟨.irc, 0x1C0⟩
abbrev IRC_COMPLETE : Reg := ⟨.irc, 0x1E0⟩
abbrev IRC_LINE_STAT : Reg := ⟨.irc, 0x1E8⟩
abbrev IRC_STACK_LAST : Reg := ⟨.irc, 0x1F0⟩
abbrev IRC_CNT : Reg := ⟨.irc, 0x1F8⟩
abbrev PMU_CFG : Reg := ⟨.pmu, 0x40⟩
abbrev PMU_CTRL : Reg := ⟨.pmu, 0x48⟩
abbrev PMU_STAT : Reg := ⟨.pmu, 0x50⟩
abbrev PMU_STEP : Reg := ⟨.pmu, 0x58⟩
abbrev PMU_REPLAY : Reg := ⟨.pmu, 0x60⟩
abbrev PMU_REPLAY_STAT : Reg := ⟨.pmu, 0x68⟩
abbrev LCM_STATE : Reg := ⟨.lcm, 0x40⟩
abbrev LCM_COMMIT : Reg := ⟨.lcm, 0x48⟩
abbrev LCM_CTRL : Reg := ⟨.lcm, 0x50⟩
abbrev LCM_CMD : Reg := ⟨.lcm, 0x58⟩
abbrev LCM_STAT : Reg := ⟨.lcm, 0x60⟩
abbrev LCM_JOB : Reg := ⟨.lcm, 0x68⟩
abbrev LCM_CNT : Reg := ⟨.lcm, 0x70⟩
abbrev LCM_BOOT : Reg := ⟨.lcm, 0x78⟩
abbrev IRC_MASK (g : Nat) : Reg := ⟨.irc, 0x40 + 16 * g⟩
abbrev IRC_PEND (g : Nat) : Reg := ⟨.irc, 0x48 + 16 * g⟩

end Rg

/-! ### Fields -/

namespace Fd

abbrev PG_CTRL_COMMIT_MODE (u : UnitKind) : Fld := ⟨Rg.PG_CTRL u, 3, 2⟩
abbrev PG_CTRL_UNIT_RESET (u : UnitKind) : Fld := ⟨Rg.PG_CTRL u, 1, 1⟩
abbrev PG_CTRL_ENABLE (u : UnitKind) : Fld := ⟨Rg.PG_CTRL u, 0, 0⟩
abbrev PG_ERR_FIRST_OFFSET (u : UnitKind) : Fld := ⟨Rg.PG_ERR u, 35, 24⟩
abbrev PG_ERR_UNIT_CAUSE (u : UnitKind) : Fld := ⟨Rg.PG_ERR u, 23, 16⟩
abbrev PG_ERR_WIN_BUSY (u : UnitKind) : Fld := ⟨Rg.PG_ERR u, 5, 5⟩
abbrev PG_ERR_UNIT (u : UnitKind) : Fld := ⟨Rg.PG_ERR u, 4, 4⟩
abbrev PG_ERR_WIDTH (u : UnitKind) : Fld := ⟨Rg.PG_ERR u, 3, 3⟩
abbrev PG_ERR_ALIAS (u : UnitKind) : Fld := ⟨Rg.PG_ERR u, 2, 2⟩
abbrev PG_ERR_DENIED (u : UnitKind) : Fld := ⟨Rg.PG_ERR u, 1, 1⟩
abbrev PG_ERR_BAD_VALUE (u : UnitKind) : Fld := ⟨Rg.PG_ERR u, 0, 0⟩
abbrev PG_SHADOW_VALID (u : UnitKind) : Fld := ⟨Rg.PG_SHADOW u, 63, 63⟩
abbrev PG_SHADOW_EPOCH (u : UnitKind) : Fld := ⟨Rg.PG_SHADOW u, 39, 0⟩
abbrev PG_LOCK_FREEZE (u : UnitKind) : Fld := ⟨Rg.PG_LOCK u, 16, 16⟩
abbrev PG_LOCK_MIN_PRIV (u : UnitKind) : Fld := ⟨Rg.PG_LOCK u, 1, 0⟩
abbrev TBL_CMD_INDEX (u : UnitKind) : Fld := ⟨Rg.TBL_CMD u, 63, 32⟩
abbrev TBL_CMD_TABLE (u : UnitKind) : Fld := ⟨Rg.TBL_CMD u, 15, 8⟩
abbrev TBL_CMD_OP (u : UnitKind) : Fld := ⟨Rg.TBL_CMD u, 7, 0⟩
abbrev TBL_STAT_RESULT_INDEX (u : UnitKind) : Fld := ⟨Rg.TBL_STAT u, 63, 32⟩
abbrev TBL_STAT_RESULT (u : UnitKind) : Fld := ⟨Rg.TBL_STAT u, 15, 8⟩
abbrev TBL_STAT_BUSY (u : UnitKind) : Fld := ⟨Rg.TBL_STAT u, 0, 0⟩
abbrev DIR_INFO_PKG_DIES : Fld := ⟨Rg.DIR_INFO, 38, 35⟩
abbrev DIR_INFO_PKG_DIE_IDX : Fld := ⟨Rg.DIR_INFO, 34, 32⟩
abbrev DIR_INFO_PAGE_COUNT : Fld := ⟨Rg.DIR_INFO, 26, 16⟩
abbrev DIR_INFO_STEPPING : Fld := ⟨Rg.DIR_INFO, 15, 8⟩
abbrev DIR_INFO_VARIANT : Fld := ⟨Rg.DIR_INFO, 7, 4⟩
abbrev DIR_INFO_ROLE : Fld := ⟨Rg.DIR_INFO, 1, 0⟩
abbrev DIR_NODE_VALID : Fld := ⟨Rg.DIR_NODE, 63, 63⟩
abbrev DIR_NODE_PKG_ID : Fld := ⟨Rg.DIR_NODE, 34, 20⟩
abbrev DIR_NODE_NODE_ID : Fld := ⟨Rg.DIR_NODE, 19, 0⟩
abbrev DIR_STATE_TIME_VALID : Fld := ⟨Rg.DIR_STATE, 45, 45⟩
abbrev DIR_STATE_FAULTED : Fld := ⟨Rg.DIR_STATE, 44, 44⟩
abbrev DIR_STATE_PRIMED : Fld := ⟨Rg.DIR_STATE, 43, 43⟩
abbrev DIR_STATE_BOOT_DONE : Fld := ⟨Rg.DIR_STATE, 42, 42⟩
abbrev DIR_STATE_LC_STATE : Fld := ⟨Rg.DIR_STATE, 41, 40⟩
abbrev DIR_STATE_EPOCH : Fld := ⟨Rg.DIR_STATE, 39, 0⟩
abbrev DIR_VIOL_TIMEOUT_CNT : Fld := ⟨Rg.DIR_VIOL, 63, 48⟩
abbrev DIR_VIOL_CHKERR_CNT : Fld := ⟨Rg.DIR_VIOL, 47, 32⟩
abbrev DIR_VIOL_DENIED_CNT : Fld := ⟨Rg.DIR_VIOL, 31, 16⟩
abbrev DIR_VIOL_ALIAS_CNT : Fld := ⟨Rg.DIR_VIOL, 15, 0⟩
abbrev DIR_LAST_VIOL_VALID : Fld := ⟨Rg.DIR_LAST_VIOL, 63, 63⟩
abbrev DIR_LAST_VIOL_CODE : Fld := ⟨Rg.DIR_LAST_VIOL, 28, 26⟩
abbrev DIR_LAST_VIOL_PRIV : Fld := ⟨Rg.DIR_LAST_VIOL, 25, 24⟩
abbrev DIR_LAST_VIOL_PATH : Fld := ⟨Rg.DIR_LAST_VIOL, 23, 23⟩
abbrev DIR_LAST_VIOL_WRITE : Fld := ⟨Rg.DIR_LAST_VIOL, 22, 22⟩
abbrev DIR_LAST_VIOL_ADDR : Fld := ⟨Rg.DIR_LAST_VIOL, 21, 0⟩
abbrev PWR_STATE_PRIME_FAILED : Fld := ⟨Rg.PWR_STATE, 8, 8⟩
abbrev PWR_STATE_POINT : Fld := ⟨Rg.PWR_STATE, 5, 4⟩
abbrev PWR_STATE_STATE : Fld := ⟨Rg.PWR_STATE, 2, 0⟩
abbrev PWR_SW_VOTE_VOTE : Fld := ⟨Rg.PWR_SW_VOTE, 0, 0⟩
abbrev PWR_CFG_STAGE_AGE : Fld := ⟨Rg.PWR_CFG, 51, 40⟩
abbrev PWR_CFG_STAGE_LEVEL : Fld := ⟨Rg.PWR_CFG, 35, 32⟩
abbrev PWR_CFG_HOLD_US : Fld := ⟨Rg.PWR_CFG, 25, 16⟩
abbrev PWR_CFG_PRIME_LEAD_US : Fld := ⟨Rg.PWR_CFG, 15, 8⟩
abbrev PWR_CFG_DVFS_POINT : Fld := ⟨Rg.PWR_CFG, 1, 0⟩
abbrev PWR_CTRL_RETRY_PRIME : Fld := ⟨Rg.PWR_CTRL, 0, 0⟩
abbrev PWR_PRIME_CNT_FAIL : Fld := ⟨Rg.PWR_PRIME_CNT, 63, 32⟩
abbrev PWR_PRIME_CNT_COUNT : Fld := ⟨Rg.PWR_PRIME_CNT, 31, 0⟩
abbrev PWR_LAST_WAKE_CAUSE : Fld := ⟨Rg.PWR_LAST_WAKE, 39, 32⟩
abbrev PWR_LAST_WAKE_WORST : Fld := ⟨Rg.PWR_LAST_WAKE, 31, 16⟩
abbrev PWR_LAST_WAKE_LAST : Fld := ⟨Rg.PWR_LAST_WAKE, 15, 0⟩
abbrev PWR_SPRING_MISSED : Fld := ⟨Rg.PWR_SPRING, 63, 32⟩
abbrev PWR_SPRING_HWM : Fld := ⟨Rg.PWR_SPRING, 2, 0⟩
abbrev PWR_STAGE_OVF_ROWS : Fld := ⟨Rg.PWR_STAGE, 63, 32⟩
abbrev PWR_STAGE_FILL : Fld := ⟨Rg.PWR_STAGE, 20, 0⟩
abbrev TKP_STATE_PRE_ORIGIN : Fld := ⟨Rg.TKP_STATE, 15, 15⟩
abbrev TKP_STATE_SLEWING : Fld := ⟨Rg.TKP_STATE, 14, 14⟩
abbrev TKP_STATE_JUMP_PENDING : Fld := ⟨Rg.TKP_STATE, 13, 13⟩
abbrev TKP_STATE_RATE_LIMIT : Fld := ⟨Rg.TKP_STATE, 12, 12⟩
abbrev TKP_STATE_UPSTREAM_HOLDOVER : Fld := ⟨Rg.TKP_STATE, 11, 11⟩
abbrev TKP_STATE_SOURCE : Fld := ⟨Rg.TKP_STATE, 7, 4⟩
abbrev TKP_STATE_STATE : Fld := ⟨Rg.TKP_STATE, 2, 0⟩
abbrev TKP_NOW_HI_HI : Fld := ⟨Rg.TKP_NOW_HI, 31, 0⟩
abbrev TKP_ORIGIN_HI_HI : Fld := ⟨Rg.TKP_ORIGIN_HI, 31, 0⟩
abbrev TKP_EPOCH_CFG_LEN_10US : Fld := ⟨Rg.TKP_EPOCH_CFG, 16, 0⟩
abbrev TKP_SERVO_CFG_SYNC_US : Fld := ⟨Rg.TKP_SERVO_CFG, 63, 48⟩
abbrev TKP_SERVO_CFG_LOCK_NS : Fld := ⟨Rg.TKP_SERVO_CFG, 47, 40⟩
abbrev TKP_SERVO_CFG_LOCK_CNT : Fld := ⟨Rg.TKP_SERVO_CFG, 39, 32⟩
abbrev TKP_SERVO_CFG_LOSS_CNT : Fld := ⟨Rg.TKP_SERVO_CFG, 31, 28⟩
abbrev TKP_SERVO_CFG_KI : Fld := ⟨Rg.TKP_SERVO_CFG, 15, 8⟩
abbrev TKP_SERVO_CFG_KP : Fld := ⟨Rg.TKP_SERVO_CFG, 7, 0⟩
abbrev TKP_JUMP_CFG_PERSIST : Fld := ⟨Rg.TKP_JUMP_CFG, 27, 24⟩
abbrev TKP_JUMP_CFG_THR_NS : Fld := ⟨Rg.TKP_JUMP_CFG, 19, 0⟩
abbrev TKP_FREQ_FREQ : Fld := ⟨Rg.TKP_FREQ, 29, 0⟩
abbrev TKP_RATE_RATE : Fld := ⟨Rg.TKP_RATE, 29, 0⟩
abbrev TKP_OFFSET_THETA : Fld := ⟨Rg.TKP_OFFSET, 47, 0⟩
abbrev TKP_PATH_MEAN : Fld := ⟨Rg.TKP_PATH, 31, 0⟩
abbrev TKP_PENDING_DELTA : Fld := ⟨Rg.TKP_PENDING, 47, 0⟩
abbrev TKP_CTRL_REACQUIRE : Fld := ⟨Rg.TKP_CTRL, 1, 1⟩
abbrev TKP_CTRL_ACCEPT_JUMP : Fld := ⟨Rg.TKP_CTRL, 0, 0⟩
abbrev TKP_CNT_REFUSED : Fld := ⟨Rg.TKP_CNT, 63, 48⟩
abbrev TKP_CNT_MISSED : Fld := ⟨Rg.TKP_CNT, 47, 32⟩
abbrev TKP_CNT_TXTS_OVF : Fld := ⟨Rg.TKP_CNT, 31, 16⟩
abbrev TKP_CNT_LAUNCH_LATE : Fld := ⟨Rg.TKP_CNT, 15, 0⟩
abbrev TKP_PTP_CFG_PORT_EN : Fld := ⟨Rg.TKP_PTP_CFG, 17, 16⟩
abbrev TKP_PTP_CFG_ANNOUNCE_TIMEOUT : Fld := ⟨Rg.TKP_PTP_CFG, 15, 12⟩
abbrev TKP_PTP_CFG_DELAY_MECH : Fld := ⟨Rg.TKP_PTP_CFG, 8, 8⟩
abbrev TKP_PTP_CFG_DOMAIN : Fld := ⟨Rg.TKP_PTP_CFG, 7, 0⟩
abbrev WEL_CFG_MAX_PERIOD_PS : Fld := ⟨Rg.WEL_CFG, 51, 32⟩
abbrev WEL_CFG_STALE_TMO : Fld := ⟨Rg.WEL_CFG, 11, 0⟩
abbrev WEL_STAT_EDGES : Fld := ⟨Rg.WEL_STAT, 63, 32⟩
abbrev WEL_STAT_TIED_OFF : Fld := ⟨Rg.WEL_STAT, 3, 3⟩
abbrev WEL_STAT_OPEN : Fld := ⟨Rg.WEL_STAT, 2, 2⟩
abbrev WEL_STAT_SKEW : Fld := ⟨Rg.WEL_STAT, 1, 1⟩
abbrev WEL_STAT_STALE : Fld := ⟨Rg.WEL_STAT, 0, 0⟩
abbrev WEL_CNT_STALE_TICKS : Fld := ⟨Rg.WEL_CNT, 63, 48⟩
abbrev WEL_CNT_SKEW_TICKS : Fld := ⟨Rg.WEL_CNT, 47, 32⟩
abbrev WEL_CNT_LATE_ACK : Fld := ⟨Rg.WEL_CNT, 31, 16⟩
abbrev WEL_CNT_SNAPSHOTS : Fld := ⟨Rg.WEL_CNT, 15, 0⟩
abbrev WEL_LAT_WORST : Fld := ⟨Rg.WEL_LAT, 31, 16⟩
abbrev WEL_LAT_LAST : Fld := ⟨Rg.WEL_LAT, 15, 0⟩
abbrev SMP_PLAN_PLAN_VER : Fld := ⟨Rg.SMP_PLAN, 15, 0⟩
abbrev SMP_VALIDATE_GO : Fld := ⟨Rg.SMP_VALIDATE, 0, 0⟩
abbrev SMP_CHECK_DONE : Fld := ⟨Rg.SMP_CHECK, 63, 63⟩
abbrev SMP_CHECK_VALID : Fld := ⟨Rg.SMP_CHECK, 62, 62⟩
abbrev SMP_CHECK_CAUSE : Fld := ⟨Rg.SMP_CHECK, 51, 48⟩
abbrev SMP_CHECK_GROUP : Fld := ⟨Rg.SMP_CHECK, 45, 40⟩
abbrev SMP_CHECK_LOAD : Fld := ⟨Rg.SMP_CHECK, 31, 0⟩
abbrev SMP_SPRING_CMD_OP : Fld := ⟨Rg.SMP_SPRING_CMD, 9, 8⟩
abbrev SMP_SPRING_CMD_GROUP : Fld := ⟨Rg.SMP_SPRING_CMD, 5, 0⟩
abbrev SMP_SLOW_MSGS : Fld := ⟨Rg.SMP_SLOW, 63, 32⟩
abbrev SMP_SLOW_SHIFT : Fld := ⟨Rg.SMP_SLOW, 2, 0⟩
abbrev SMP_CNT_OVERRUN : Fld := ⟨Rg.SMP_CNT, 63, 48⟩
abbrev SMP_CNT_REJECT : Fld := ⟨Rg.SMP_CNT, 47, 32⟩
abbrev SMP_CNT_CMD_REFUSED : Fld := ⟨Rg.SMP_CNT, 15, 0⟩
abbrev EPR_CFG_FIELDS : Fld := ⟨Rg.EPR_CFG, 18, 8⟩
abbrev EPR_CFG_TEMPLATE : Fld := ⟨Rg.EPR_CFG, 7, 0⟩
abbrev EPR_STAT_OPEN : Fld := ⟨Rg.EPR_STAT, 40, 40⟩
abbrev EPR_STAT_EPOCH : Fld := ⟨Rg.EPR_STAT, 39, 0⟩
abbrev EPR_CNT_STALE_SKIPPED : Fld := ⟨Rg.EPR_CNT, 63, 48⟩
abbrev EPR_CNT_CLOSE_LATE : Fld := ⟨Rg.EPR_CNT, 47, 32⟩
abbrev EPR_CNT_REJECT : Fld := ⟨Rg.EPR_CNT, 31, 16⟩
abbrev CMP_CFG_RAW_ONLY : Fld := ⟨Rg.CMP_CFG, 32, 32⟩
abbrev CMP_CFG_KEY_INTERVAL : Fld := ⟨Rg.CMP_CFG, 27, 16⟩
abbrev CMP_CFG_K_INIT : Fld := ⟨Rg.CMP_CFG, 5, 0⟩
abbrev CMP_OUT_CFG_BUFS : Fld := ⟨Rg.CMP_OUT_CFG, 7, 0⟩
abbrev CMP_STAT_PARKED_KIB : Fld := ⟨Rg.CMP_STAT, 63, 32⟩
abbrev CMP_STAT_OUT_USED : Fld := ⟨Rg.CMP_STAT, 15, 8⟩
abbrev CMP_STAT_STALLED : Fld := ⟨Rg.CMP_STAT, 1, 1⟩
abbrev CMP_STAT_ENC_BUSY : Fld := ⟨Rg.CMP_STAT, 0, 0⟩
abbrev CMP_FRAMES_KEY : Fld := ⟨Rg.CMP_FRAMES, 63, 32⟩
abbrev CMP_FRAMES_ALL : Fld := ⟨Rg.CMP_FRAMES, 31, 0⟩
abbrev CMP_ENC_CNT_RAW : Fld := ⟨Rg.CMP_ENC_CNT, 63, 48⟩
abbrev CMP_ENC_CNT_SPRING_DROP : Fld := ⟨Rg.CMP_ENC_CNT, 47, 32⟩
abbrev CMP_ENC_CNT_PRED_FIXUP : Fld := ⟨Rg.CMP_ENC_CNT, 31, 16⟩
abbrev CMP_ENC_CNT_MEM_UNCORR : Fld := ⟨Rg.CMP_ENC_CNT, 15, 0⟩
abbrev CMP_KEY_REQ_ALL : Fld := ⟨Rg.CMP_KEY_REQ, 63, 63⟩
abbrev CMP_KEY_REQ_GROUP : Fld := ⟨Rg.CMP_KEY_REQ, 5, 0⟩
abbrev CMP_DEC_ERR0_BAD_HEADER : Fld := ⟨Rg.CMP_DEC_ERR0, 63, 48⟩
abbrev CMP_DEC_ERR0_BAD_MAP : Fld := ⟨Rg.CMP_DEC_ERR0, 47, 32⟩
abbrev CMP_DEC_ERR0_LENGTH : Fld := ⟨Rg.CMP_DEC_ERR0, 31, 16⟩
abbrev CMP_DEC_ERR0_HISTORY_BREAK : Fld := ⟨Rg.CMP_DEC_ERR0, 15, 0⟩
abbrev CMP_DEC_ERR1_BAD_ESCAPE : Fld := ⟨Rg.CMP_DEC_ERR1, 63, 48⟩
abbrev CMP_DEC_ERR1_CRC_MISMATCH : Fld := ⟨Rg.CMP_DEC_ERR1, 47, 32⟩
abbrev CMP_DEC_ERR1_MEM_UNCORR : Fld := ⟨Rg.CMP_DEC_ERR1, 31, 16⟩
abbrev CMP_DEC_ERR1_WAIT_KEY : Fld := ⟨Rg.CMP_DEC_ERR1, 15, 0⟩
abbrev CMP_DEC_LAST_VALID : Fld := ⟨Rg.CMP_DEC_LAST, 63, 63⟩
abbrev CMP_DEC_LAST_CAUSE : Fld := ⟨Rg.CMP_DEC_LAST, 43, 40⟩
abbrev CMP_DEC_LAST_WELLHEAD : Fld := ⟨Rg.CMP_DEC_LAST, 38, 32⟩
abbrev CMP_DEC_LAST_GROUP : Fld := ⟨Rg.CMP_DEC_LAST, 29, 24⟩
abbrev CMP_DEC_LAST_FRAME_SEQ : Fld := ⟨Rg.CMP_DEC_LAST, 15, 0⟩
abbrev MXE_ARITH_CFG_SENT_PERIOD : Fld := ⟨Rg.MXE_ARITH_CFG, 63, 48⟩
abbrev MXE_ARITH_CFG_LOSS_LIMIT : Fld := ⟨Rg.MXE_ARITH_CFG, 47, 32⟩
abbrev MXE_ARITH_CFG_CLIP_LIMIT : Fld := ⟨Rg.MXE_ARITH_CFG, 31, 16⟩
abbrev MXE_ARITH_CFG_SAT_LIMIT : Fld := ⟨Rg.MXE_ARITH_CFG, 15, 0⟩
abbrev MXE_SAT_CNT_SATURATIONS : Fld := ⟨Rg.MXE_SAT_CNT, 31, 0⟩
abbrev MXE_CLIP_CNT_CLIPPED : Fld := ⟨Rg.MXE_CLIP_CNT, 31, 0⟩
abbrev MXE_LOSS_CNT_PRODUCTS : Fld := ⟨Rg.MXE_LOSS_CNT, 31, 0⟩
abbrev MXE_FMT_CNT_MALFORMED : Fld := ⟨Rg.MXE_FMT_CNT, 31, 0⟩
abbrev MXE_SENT_CNT_MISMATCH : Fld := ⟨Rg.MXE_SENT_CNT, 63, 32⟩
abbrev MXE_SENT_CNT_CHECKED : Fld := ⟨Rg.MXE_SENT_CNT, 31, 0⟩
abbrev MXE_ARITH_LAST_SAT : Fld := ⟨Rg.MXE_ARITH_LAST, 63, 48⟩
abbrev MXE_ARITH_LAST_CLIP : Fld := ⟨Rg.MXE_ARITH_LAST, 47, 32⟩
abbrev MXE_ARITH_LAST_LOSS : Fld := ⟨Rg.MXE_ARITH_LAST, 31, 16⟩
abbrev MXE_ARITH_LAST_FMT : Fld := ⟨Rg.MXE_ARITH_LAST, 15, 0⟩
abbrev MXE_SENT_LAST_VALID : Fld := ⟨Rg.MXE_SENT_LAST, 63, 63⟩
abbrev MXE_SENT_LAST_LANE : Fld := ⟨Rg.MXE_SENT_LAST, 36, 32⟩
abbrev MXE_SENT_LAST_BLOCK : Fld := ⟨Rg.MXE_SENT_LAST, 31, 0⟩
abbrev MXE_RMON_CFG_ENABLE : Fld := ⟨Rg.MXE_RMON_CFG, 63, 63⟩
abbrev MXE_RMON_CFG_BITS_HI : Fld := ⟨Rg.MXE_RMON_CFG, 22, 16⟩
abbrev MXE_RMON_CFG_E_HI : Fld := ⟨Rg.MXE_RMON_CFG, 13, 8⟩
abbrev MXE_RMON_CFG_E_LO : Fld := ⟨Rg.MXE_RMON_CFG, 5, 0⟩
abbrev MXE_RMON_STAT_E_MAX : Fld := ⟨Rg.MXE_RMON_STAT, 63, 58⟩
abbrev MXE_RMON_STAT_E_MIN : Fld := ⟨Rg.MXE_RMON_STAT, 57, 52⟩
abbrev MXE_RMON_STAT_VALID : Fld := ⟨Rg.MXE_RMON_STAT, 51, 51⟩
abbrev MXE_RMON_STAT_BITS_MAX : Fld := ⟨Rg.MXE_RMON_STAT, 50, 44⟩
abbrev MXE_RMON_STAT_EXCURSIONS : Fld := ⟨Rg.MXE_RMON_STAT, 43, 32⟩
abbrev MXE_RMON_STAT_BLOCKS : Fld := ⟨Rg.MXE_RMON_STAT, 31, 0⟩
abbrev MXE_CFG_GAP_LIMIT : Fld := ⟨Rg.MXE_CFG, 47, 16⟩
abbrev MXE_CFG_SCR_SLOT_EN : Fld := ⟨Rg.MXE_CFG, 8, 8⟩
abbrev MXE_CFG_PUMP_CH : Fld := ⟨Rg.MXE_CFG, 5, 0⟩
abbrev MXE_STAT_PENDING : Fld := ⟨Rg.MXE_STAT, 63, 56⟩
abbrev MXE_STAT_PREEMPTED : Fld := ⟨Rg.MXE_STAT, 55, 48⟩
abbrev MXE_STAT_LOADED : Fld := ⟨Rg.MXE_STAT, 47, 40⟩
abbrev MXE_STAT_ABORT_RESULT : Fld := ⟨Rg.MXE_STAT, 18, 16⟩
abbrev MXE_STAT_RUN_SLOT : Fld := ⟨Rg.MXE_STAT, 7, 4⟩
abbrev MXE_STAT_ESTATE : Fld := ⟨Rg.MXE_STAT, 2, 0⟩
abbrev MXE_LAUNCH_SLOTS : Fld := ⟨Rg.MXE_LAUNCH, 7, 0⟩
abbrev MXE_ABORT_SLOT : Fld := ⟨Rg.MXE_ABORT, 3, 0⟩
abbrev MXE_RUN_LAST_VALID : Fld := ⟨Rg.MXE_RUN_LAST, 63, 63⟩
abbrev MXE_RUN_LAST_SLOT : Fld := ⟨Rg.MXE_RUN_LAST, 62, 60⟩
abbrev MXE_RUN_LAST_STATUS : Fld := ⟨Rg.MXE_RUN_LAST, 59, 56⟩
abbrev MXE_RUN_LAST_CODE : Fld := ⟨Rg.MXE_RUN_LAST, 55, 48⟩
abbrev MXE_RUN_LAST_PREEMPTIONS : Fld := ⟨Rg.MXE_RUN_LAST, 47, 40⟩
abbrev MXE_RUN_LAST_EPOCH : Fld := ⟨Rg.MXE_RUN_LAST, 39, 0⟩
abbrev MXE_CYC_LAST_STALL : Fld := ⟨Rg.MXE_CYC_LAST, 63, 32⟩
abbrev MXE_CYC_LAST_BASE : Fld := ⟨Rg.MXE_CYC_LAST, 31, 0⟩
abbrev MXE_CYC_EXTRA_SWITCH : Fld := ⟨Rg.MXE_CYC_EXTRA, 63, 32⟩
abbrev MXE_CYC_EXTRA_SENT : Fld := ⟨Rg.MXE_CYC_EXTRA, 31, 0⟩
abbrev MXE_RUN_CNT_DONE : Fld := ⟨Rg.MXE_RUN_CNT, 63, 48⟩
abbrev MXE_RUN_CNT_ABORTED : Fld := ⟨Rg.MXE_RUN_CNT, 47, 32⟩
abbrev MXE_RUN_CNT_FAULTED : Fld := ⟨Rg.MXE_RUN_CNT, 31, 16⟩
abbrev MXE_RUN_CNT_OVERRUN : Fld := ⟨Rg.MXE_RUN_CNT, 15, 0⟩
abbrev MXE_FAULT_LAST_VALID : Fld := ⟨Rg.MXE_FAULT_LAST, 63, 63⟩
abbrev MXE_FAULT_LAST_SLOT : Fld := ⟨Rg.MXE_FAULT_LAST, 58, 56⟩
abbrev MXE_FAULT_LAST_CODE : Fld := ⟨Rg.MXE_FAULT_LAST, 55, 48⟩
abbrev MXE_FAULT_LAST_INDEX : Fld := ⟨Rg.MXE_FAULT_LAST, 15, 0⟩
abbrev MXE_SWITCH_CNT_PREEMPTIONS : Fld := ⟨Rg.MXE_SWITCH_CNT, 31, 0⟩
abbrev MXE_VQ_FILL : Fld := ⟨Rg.MXE_VQ, 5, 0⟩
abbrev TRE_CFG_PUMP_CH : Fld := ⟨Rg.TRE_CFG, 5, 0⟩
abbrev TRE_STAT_PENDING : Fld := ⟨Rg.TRE_STAT, 63, 60⟩
abbrev TRE_STAT_LOADED : Fld := ⟨Rg.TRE_STAT, 59, 56⟩
abbrev TRE_STAT_ABORT_RESULT : Fld := ⟨Rg.TRE_STAT, 18, 16⟩
abbrev TRE_STAT_RUN_SLOT : Fld := ⟨Rg.TRE_STAT, 7, 4⟩
abbrev TRE_STAT_ESTATE : Fld := ⟨Rg.TRE_STAT, 1, 0⟩
abbrev TRE_LAUNCH_SLOTS : Fld := ⟨Rg.TRE_LAUNCH, 3, 0⟩
abbrev TRE_ABORT_SLOT : Fld := ⟨Rg.TRE_ABORT, 3, 0⟩
abbrev TRE_RUN_LAST_VALID : Fld := ⟨Rg.TRE_RUN_LAST, 63, 63⟩
abbrev TRE_RUN_LAST_SLOT : Fld := ⟨Rg.TRE_RUN_LAST, 61, 60⟩
abbrev TRE_RUN_LAST_STATUS : Fld := ⟨Rg.TRE_RUN_LAST, 59, 56⟩
abbrev TRE_RUN_LAST_CODE : Fld := ⟨Rg.TRE_RUN_LAST, 55, 48⟩
abbrev TRE_RUN_LAST_EPOCH : Fld := ⟨Rg.TRE_RUN_LAST, 39, 0⟩
abbrev TRE_RUN_CYC_VECTORS : Fld := ⟨Rg.TRE_RUN_CYC, 63, 32⟩
abbrev TRE_RUN_CYC_CYCLES : Fld := ⟨Rg.TRE_RUN_CYC, 31, 0⟩
abbrev TRE_RUN_CNT_DONE : Fld := ⟨Rg.TRE_RUN_CNT, 63, 48⟩
abbrev TRE_RUN_CNT_ABORTED : Fld := ⟨Rg.TRE_RUN_CNT, 47, 32⟩
abbrev TRE_RUN_CNT_FAULTED : Fld := ⟨Rg.TRE_RUN_CNT, 31, 16⟩
abbrev TRE_RUN_CNT_OVERRUN : Fld := ⟨Rg.TRE_RUN_CNT, 15, 0⟩
abbrev TRE_CNT_FEAT_SAT : Fld := ⟨Rg.TRE_CNT, 63, 48⟩
abbrev TRE_CNT_CAT_RANGE : Fld := ⟨Rg.TRE_CNT, 47, 32⟩
abbrev TRE_CNT_MISSING : Fld := ⟨Rg.TRE_CNT, 31, 16⟩
abbrev TRE_CNT_EMIT_DROP : Fld := ⟨Rg.TRE_CNT, 15, 0⟩
abbrev TRE_FAULT_LAST_VALID : Fld := ⟨Rg.TRE_FAULT_LAST, 63, 63⟩
abbrev TRE_FAULT_LAST_SLOT : Fld := ⟨Rg.TRE_FAULT_LAST, 57, 56⟩
abbrev TRE_FAULT_LAST_CODE : Fld := ⟨Rg.TRE_FAULT_LAST, 55, 48⟩
abbrev TRE_FAULT_LAST_NODE : Fld := ⟨Rg.TRE_FAULT_LAST, 19, 0⟩
abbrev TRE_VQ_FILL : Fld := ⟨Rg.TRE_VQ, 5, 0⟩
abbrev EFT_CFG_SEED : Fld := ⟨Rg.EFT_CFG, 63, 32⟩
abbrev EFT_CFG_AGE_MAX : Fld := ⟨Rg.EFT_CFG, 31, 0⟩
abbrev EFT_CTL_XLT_CTX : Fld := ⟨Rg.EFT_CTL, 41, 32⟩
abbrev EFT_CTL_PUMP_CH : Fld := ⟨Rg.EFT_CTL, 5, 0⟩
abbrev EFT_STAT_ENTRIES : Fld := ⟨Rg.EFT_STAT, 63, 40⟩
abbrev EFT_STAT_STASH : Fld := ⟨Rg.EFT_STAT, 38, 32⟩
abbrev EFT_STAT_PURGE : Fld := ⟨Rg.EFT_STAT, 3, 3⟩
abbrev EFT_STAT_REHASH : Fld := ⟨Rg.EFT_STAT, 2, 2⟩
abbrev EFT_STAT_SWEEP : Fld := ⟨Rg.EFT_STAT, 1, 1⟩
abbrev EFT_STAT_SNAPSHOT : Fld := ⟨Rg.EFT_STAT, 0, 0⟩
abbrev EFT_CNT_INSERT_FAIL : Fld := ⟨Rg.EFT_CNT, 63, 48⟩
abbrev EFT_CNT_AGED : Fld := ⟨Rg.EFT_CNT, 47, 32⟩
abbrev EFT_CNT_MEM_UNCORR : Fld := ⟨Rg.EFT_CNT, 31, 16⟩
abbrev EFT_CNT_PURGED : Fld := ⟨Rg.EFT_CNT, 15, 0⟩
abbrev EFT_RELOC_RELOCATIONS : Fld := ⟨Rg.EFT_RELOC, 63, 32⟩
abbrev EFT_RELOC_LONGEST : Fld := ⟨Rg.EFT_RELOC, 5, 0⟩
abbrev EFT_CACHE_MISSES : Fld := ⟨Rg.EFT_CACHE, 63, 32⟩
abbrev EFT_CACHE_HITS : Fld := ⟨Rg.EFT_CACHE, 31, 0⟩
abbrev COR_CFG_XLT_STALL_US : Fld := ⟨Rg.COR_CFG, 63, 48⟩
abbrev COR_CFG_XLT_CTX : Fld := ⟨Rg.COR_CFG, 41, 32⟩
abbrev COR_CFG_PUMP_CH : Fld := ⟨Rg.COR_CFG, 5, 0⟩
abbrev COR_HOSTWIN_BASE : Fld := ⟨Rg.COR_HOSTWIN, 47, 0⟩
abbrev COR_SHARED_SIZE : Fld := ⟨Rg.COR_SHARED, 40, 32⟩
abbrev COR_SHARED_BASE : Fld := ⟨Rg.COR_SHARED, 15, 0⟩
abbrev COR_CNT_WDOG_BITE : Fld := ⟨Rg.COR_CNT, 63, 48⟩
abbrev COR_CNT_WDOG_BARK : Fld := ⟨Rg.COR_CNT, 47, 32⟩
abbrev COR_CNT_XLT_ABORT : Fld := ⟨Rg.COR_CNT, 31, 16⟩
abbrev COR_CNT_AUTH_FAIL : Fld := ⟨Rg.COR_CNT, 15, 0⟩
abbrev COR_LAST_VALID : Fld := ⟨Rg.COR_LAST, 63, 63⟩
abbrev COR_LAST_CORE : Fld := ⟨Rg.COR_LAST, 52, 48⟩
abbrev COR_LAST_CAUSE : Fld := ⟨Rg.COR_LAST, 47, 40⟩
abbrev COR_LAST_PC : Fld := ⟨Rg.COR_LAST, 31, 0⟩
abbrev COR_OTP_SVN_MIN : Fld := ⟨Rg.COR_OTP, 31, 16⟩
abbrev COR_OTP_REVOKED : Fld := ⟨Rg.COR_OTP, 7, 4⟩
abbrev COR_OTP_PROGRAMMED : Fld := ⟨Rg.COR_OTP, 3, 0⟩
abbrev COR_WDOG_CFG_ENABLE : Fld := ⟨Rg.COR_WDOG_CFG, 32, 32⟩
abbrev COR_WDOG_CFG_PERIOD_US : Fld := ⟨Rg.COR_WDOG_CFG, 19, 0⟩
abbrev PMP_ABORT_INDEX : Fld := ⟨Rg.PMP_ABORT, 63, 32⟩
abbrev PMP_ABORT_CHANNEL : Fld := ⟨Rg.PMP_ABORT, 5, 0⟩
abbrev PMP_STAT_ABORT_RESULT : Fld := ⟨Rg.PMP_STAT, 18, 16⟩
abbrev PMP_TAGS_HWM : Fld := ⟨Rg.PMP_TAGS, 42, 32⟩
abbrev PMP_TAGS_IN_USE : Fld := ⟨Rg.PMP_TAGS, 10, 0⟩
abbrev PMP_CNT_XLATE : Fld := ⟨Rg.PMP_CNT, 63, 48⟩
abbrev PMP_CNT_HOST_ERR : Fld := ⟨Rg.PMP_CNT, 47, 32⟩
abbrev PMP_CNT_ABORTED : Fld := ⟨Rg.PMP_CNT, 31, 16⟩
abbrev PMP_CNT_BAD_DESC : Fld := ⟨Rg.PMP_CNT, 15, 0⟩
abbrev PMP_LAST_ERR_VALID : Fld := ⟨Rg.PMP_LAST_ERR, 63, 63⟩
abbrev PMP_LAST_ERR_CHANNEL : Fld := ⟨Rg.PMP_LAST_ERR, 61, 56⟩
abbrev PMP_LAST_ERR_STATUS : Fld := ⟨Rg.PMP_LAST_ERR, 51, 48⟩
abbrev PMP_LAST_ERR_HALT_CAUSE : Fld := ⟨Rg.PMP_LAST_ERR, 47, 40⟩
abbrev PMP_LAST_ERR_INDEX : Fld := ⟨Rg.PMP_LAST_ERR, 31, 0⟩
abbrev XLT_CFG_FAULT_TMO_US : Fld := ⟨Rg.XLT_CFG, 19, 0⟩
abbrev XLT_FQ_STAT_FULL_CNT : Fld := ⟨Rg.XLT_FQ_STAT, 63, 48⟩
abbrev XLT_FQ_STAT_OUTSTANDING : Fld := ⟨Rg.XLT_FQ_STAT, 40, 32⟩
abbrev XLT_FQ_STAT_UNREAD : Fld := ⟨Rg.XLT_FQ_STAT, 24, 16⟩
abbrev XLT_FQ_STAT_HWM : Fld := ⟨Rg.XLT_FQ_STAT, 8, 0⟩
abbrev XLT_RESPOND_ACTION : Fld := ⟨Rg.XLT_RESPOND, 17, 16⟩
abbrev XLT_RESPOND_TOKEN : Fld := ⟨Rg.XLT_RESPOND, 15, 0⟩
abbrev XLT_RESP_STAT_RESULT : Fld := ⟨Rg.XLT_RESP_STAT, 1, 0⟩
abbrev XLT_INV_SCOPE : Fld := ⟨Rg.XLT_INV, 63, 62⟩
abbrev XLT_INV_CONTEXT : Fld := ⟨Rg.XLT_INV, 57, 48⟩
abbrev XLT_INV_VA : Fld := ⟨Rg.XLT_INV, 47, 12⟩
abbrev XLT_INV_STAT_BUSY : Fld := ⟨Rg.XLT_INV_STAT, 0, 0⟩
abbrev XLT_TLB_CNT_MISSES : Fld := ⟨Rg.XLT_TLB_CNT, 63, 32⟩
abbrev XLT_TLB_CNT_HITS : Fld := ⟨Rg.XLT_TLB_CNT, 31, 0⟩
abbrev XLT_CNT_FAULTS : Fld := ⟨Rg.XLT_CNT, 63, 48⟩
abbrev XLT_CNT_RESUMED : Fld := ⟨Rg.XLT_CNT, 47, 32⟩
abbrev XLT_CNT_ABORTED : Fld := ⟨Rg.XLT_CNT, 31, 16⟩
abbrev XLT_CNT_TIMEOUTS : Fld := ⟨Rg.XLT_CNT, 15, 0⟩
abbrev SLK_CFG_REPLAY_TMO_NS : Fld := ⟨Rg.SLK_CFG, 63, 48⟩
abbrev SLK_CFG_REPLAY_MAX : Fld := ⟨Rg.SLK_CFG, 43, 40⟩
abbrev SLK_CFG_VC3_W : Fld := ⟨Rg.SLK_CFG, 35, 32⟩
abbrev SLK_CFG_VC2_W : Fld := ⟨Rg.SLK_CFG, 27, 24⟩
abbrev SLK_CFG_RATE_MIN : Fld := ⟨Rg.SLK_CFG, 17, 16⟩
abbrev SLK_CFG_RATE_TARGET : Fld := ⟨Rg.SLK_CFG, 13, 12⟩
abbrev SLK_FLAP_CFG_FLAP_N : Fld := ⟨Rg.SLK_FLAP_CFG, 63, 56⟩
abbrev SLK_FLAP_CFG_FLAP_WIN_S : Fld := ⟨Rg.SLK_FLAP_CFG, 55, 40⟩
abbrev SLK_FLAP_CFG_QUAR_S : Fld := ⟨Rg.SLK_FLAP_CFG, 39, 24⟩
abbrev SLK_FLAP_CFG_STRIKE_N : Fld := ⟨Rg.SLK_FLAP_CFG, 23, 16⟩
abbrev SLK_FLAP_CFG_STRIKE_WIN_MS : Fld := ⟨Rg.SLK_FLAP_CFG, 15, 0⟩
abbrev SLK_STATE_PEER_VALID : Fld := ⟨Rg.SLK_STATE, 63, 63⟩
abbrev SLK_STATE_PEER_ID : Fld := ⟨Rg.SLK_STATE, 59, 40⟩
abbrev SLK_STATE_PEER_PORT : Fld := ⟨Rg.SLK_STATE, 39, 32⟩
abbrev SLK_STATE_RATE : Fld := ⟨Rg.SLK_STATE, 13, 12⟩
abbrev SLK_STATE_HPA : Fld := ⟨Rg.SLK_STATE, 10, 10⟩
abbrev SLK_STATE_MGMT_ONLY : Fld := ⟨Rg.SLK_STATE, 9, 9⟩
abbrev SLK_STATE_QCAUSE : Fld := ⟨Rg.SLK_STATE, 7, 6⟩
abbrev SLK_STATE_LSTATE : Fld := ⟨Rg.SLK_STATE, 3, 0⟩
abbrev SLK_CTRL_QUARANTINE : Fld := ⟨Rg.SLK_CTRL, 2, 2⟩
abbrev SLK_CTRL_CLEAR_QUAR : Fld := ⟨Rg.SLK_CTRL, 1, 1⟩
abbrev SLK_CTRL_RETRAIN : Fld := ⟨Rg.SLK_CTRL, 0, 0⟩
abbrev SLK_CREDIT_VC3 : Fld := ⟨Rg.SLK_CREDIT, 31, 24⟩
abbrev SLK_CREDIT_VC2 : Fld := ⟨Rg.SLK_CREDIT, 23, 16⟩
abbrev SLK_CREDIT_VC1 : Fld := ⟨Rg.SLK_CREDIT, 15, 8⟩
abbrev SLK_CREDIT_VC0 : Fld := ⟨Rg.SLK_CREDIT, 7, 0⟩
abbrev SLK_FEC_CORRECTED : Fld := ⟨Rg.SLK_FEC, 63, 32⟩
abbrev SLK_FEC_UNCORR : Fld := ⟨Rg.SLK_FEC, 31, 0⟩
abbrev SLK_RETRY_NAK_SENT : Fld := ⟨Rg.SLK_RETRY, 63, 48⟩
abbrev SLK_RETRY_NAK_RCVD : Fld := ⟨Rg.SLK_RETRY, 47, 32⟩
abbrev SLK_RETRY_REPLAYS : Fld := ⟨Rg.SLK_RETRY, 31, 16⟩
abbrev SLK_RETRY_CREDIT_SYNCS : Fld := ⟨Rg.SLK_RETRY, 15, 0⟩
abbrev SLK_LINK_CNT_DOWN : Fld := ⟨Rg.SLK_LINK_CNT, 63, 48⟩
abbrev SLK_LINK_CNT_RATE_DOWN : Fld := ⟨Rg.SLK_LINK_CNT, 47, 32⟩
abbrev SLK_LINK_CNT_RATE_UP : Fld := ⟨Rg.SLK_LINK_CNT, 31, 16⟩
abbrev SLK_LINK_CNT_QUARANTINES : Fld := ⟨Rg.SLK_LINK_CNT, 15, 0⟩
abbrev SLK_VIOL_LAST_VALID : Fld := ⟨Rg.SLK_VIOL_LAST, 63, 63⟩
abbrev SLK_VIOL_LAST_CODE : Fld := ⟨Rg.SLK_VIOL_LAST, 52, 48⟩
abbrev SLK_VIOL_LAST_FTYPE : Fld := ⟨Rg.SLK_VIOL_LAST, 47, 40⟩
abbrev SLK_VIOL_LAST_VC : Fld := ⟨Rg.SLK_VIOL_LAST, 33, 32⟩
abbrev SLK_VIOL_LAST_SEQ : Fld := ⟨Rg.SLK_VIOL_LAST, 11, 0⟩
abbrev SLK_MSG_CNT_MSG_LOST : Fld := ⟨Rg.SLK_MSG_CNT, 63, 48⟩
abbrev SLK_MSG_CNT_APP_DROP : Fld := ⟨Rg.SLK_MSG_CNT, 47, 32⟩
abbrev SLK_MSG_CNT_ALT_GAP : Fld := ⟨Rg.SLK_MSG_CNT, 31, 16⟩
abbrev SLK_ALT_CFG_ENABLE : Fld := ⟨Rg.SLK_ALT_CFG, 63, 63⟩
abbrev SLK_ALT_CFG_LOG2_FLITS : Fld := ⟨Rg.SLK_ALT_CFG, 59, 56⟩
abbrev SLK_ALT_CFG_XLT_CTX : Fld := ⟨Rg.SLK_ALT_CFG, 41, 32⟩
abbrev SLK_ALT_CFG_PUMP_CH : Fld := ⟨Rg.SLK_ALT_CFG, 5, 0⟩
abbrev SLK_ALT_RING_RING_VA : Fld := ⟨Rg.SLK_ALT_RING, 47, 12⟩
abbrev SLK_ALT_PTRS_PTRS_VA : Fld := ⟨Rg.SLK_ALT_PTRS, 47, 3⟩
abbrev HPA_CFG_DELAY_US : Fld := ⟨Rg.HPA_CFG, 63, 48⟩
abbrev HPA_CFG_LOG2_FLITS : Fld := ⟨Rg.HPA_CFG, 47, 44⟩
abbrev HPA_CFG_XLT_CTX : Fld := ⟨Rg.HPA_CFG, 41, 32⟩
abbrev HPA_CFG_PUMP_CH : Fld := ⟨Rg.HPA_CFG, 5, 0⟩
abbrev HPA_RING_RING_VA : Fld := ⟨Rg.HPA_RING, 47, 12⟩
abbrev HPA_PTRS_PTRS_VA : Fld := ⟨Rg.HPA_PTRS, 47, 3⟩
abbrev HPA_STAT_PROD : Fld := ⟨Rg.HPA_STAT, 63, 32⟩
abbrev HPA_STAT_RING_FULL : Fld := ⟨Rg.HPA_STAT, 1, 1⟩
abbrev HPA_STAT_ROUTED : Fld := ⟨Rg.HPA_STAT, 0, 0⟩
abbrev HPA_CNT_ROUTE_CHANGES : Fld := ⟨Rg.HPA_CNT, 63, 48⟩
abbrev HPA_CNT_MSG_LOST : Fld := ⟨Rg.HPA_CNT, 47, 32⟩
abbrev HPA_CNT_RING_FULL : Fld := ⟨Rg.HPA_CNT, 31, 16⟩
abbrev HPA_CNT_XLATE : Fld := ⟨Rg.HPA_CNT, 15, 0⟩
abbrev EPR_RETAIN_COUNT : Fld := ⟨Rg.EPR_RETAIN, 47, 40⟩
abbrev EPR_RETAIN_OLDEST : Fld := ⟨Rg.EPR_RETAIN, 39, 0⟩
abbrev EPR_RESEND_CNT_REQUESTS : Fld := ⟨Rg.EPR_RESEND_CNT, 63, 48⟩
abbrev EPR_RESEND_CNT_REBUILT : Fld := ⟨Rg.EPR_RESEND_CNT, 47, 32⟩
abbrev EPR_RESEND_CNT_LOST : Fld := ⟨Rg.EPR_RESEND_CNT, 31, 16⟩
abbrev EPR_RESEND_CNT_DROPPED : Fld := ⟨Rg.EPR_RESEND_CNT, 15, 0⟩
abbrev RDX_CFG_XRF_HOLD_US : Fld := ⟨Rg.RDX_CFG, 63, 48⟩
abbrev RDX_CFG_MODEL_STREAM : Fld := ⟨Rg.RDX_CFG, 35, 32⟩
abbrev RDX_CFG_LATE_EPOCHS : Fld := ⟨Rg.RDX_CFG, 30, 24⟩
abbrev RDX_CFG_T_LATE_US : Fld := ⟨Rg.RDX_CFG, 19, 0⟩
abbrev RDX_TREE_CFG_ENABLE : Fld := ⟨Rg.RDX_TREE_CFG, 63, 63⟩
abbrev RDX_TREE_CFG_ROOT : Fld := ⟨Rg.RDX_TREE_CFG, 62, 62⟩
abbrev RDX_TREE_CFG_LEVEL : Fld := ⟨Rg.RDX_TREE_CFG, 57, 56⟩
abbrev RDX_TREE_CFG_FANIN : Fld := ⟨Rg.RDX_TREE_CFG, 51, 48⟩
abbrev RDX_TREE_CFG_HOP_US : Fld := ⟨Rg.RDX_TREE_CFG, 15, 0⟩
abbrev RDX_PARENT_MAC : Fld := ⟨Rg.RDX_PARENT, 47, 0⟩
abbrev RDX_STAT_LATE : Fld := ⟨Rg.RDX_STAT, 55, 48⟩
abbrev RDX_STAT_ONTIME : Fld := ⟨Rg.RDX_STAT, 47, 40⟩
abbrev RDX_STAT_CLOSED : Fld := ⟨Rg.RDX_STAT, 39, 0⟩
abbrev RDX_CNT0_MISSING : Fld := ⟨Rg.RDX_CNT0, 63, 48⟩
abbrev RDX_CNT0_LATE : Fld := ⟨Rg.RDX_CNT0, 47, 32⟩
abbrev RDX_CNT0_TOO_LATE : Fld := ⟨Rg.RDX_CNT0, 31, 16⟩
abbrev RDX_CNT0_DUP : Fld := ⟨Rg.RDX_CNT0, 15, 0⟩
abbrev RDX_CNT1_STALE_GEN : Fld := ⟨Rg.RDX_CNT1, 63, 48⟩
abbrev RDX_CNT1_NO_STREAM : Fld := ⟨Rg.RDX_CNT1, 47, 32⟩
abbrev RDX_CNT1_BAD_RECORD : Fld := ⟨Rg.RDX_CNT1, 31, 16⟩
abbrev RDX_CNT1_NO_TIME : Fld := ⟨Rg.RDX_CNT1, 15, 0⟩
abbrev RDX_XRF_CNT_MERGED : Fld := ⟨Rg.RDX_XRF_CNT, 63, 48⟩
abbrev RDX_XRF_CNT_FORWARDED : Fld := ⟨Rg.RDX_XRF_CNT, 47, 32⟩
abbrev RDX_XRF_CNT_OVERLAP : Fld := ⟨Rg.RDX_XRF_CNT, 31, 16⟩
abbrev RDX_XRF_CNT_REJECTED : Fld := ⟨Rg.RDX_XRF_CNT, 15, 0⟩
abbrev RDX_RESEND_FIRST : Fld := ⟨Rg.RDX_RESEND, 63, 24⟩
abbrev RDX_RESEND_COUNT : Fld := ⟨Rg.RDX_RESEND, 21, 16⟩
abbrev RDX_RESEND_WELLHEAD : Fld := ⟨Rg.RDX_RESEND, 6, 0⟩
abbrev RDX_LAST_VALID : Fld := ⟨Rg.RDX_LAST, 63, 63⟩
abbrev RDX_LAST_SRC : Fld := ⟨Rg.RDX_LAST, 62, 62⟩
abbrev RDX_LAST_CAUSE : Fld := ⟨Rg.RDX_LAST, 59, 56⟩
abbrev RDX_LAST_WELLHEAD : Fld := ⟨Rg.RDX_LAST, 54, 48⟩
abbrev RDX_LAST_EPOCH : Fld := ⟨Rg.RDX_LAST, 39, 0⟩
abbrev RDX_CNT2_LOST : Fld := ⟨Rg.RDX_CNT2, 15, 0⟩
abbrev COL_CFG_ETHERTYPE : Fld := ⟨Rg.COL_CFG, 63, 48⟩
abbrev COL_CFG_RETX_US : Fld := ⟨Rg.COL_CFG, 47, 32⟩
abbrev COL_CFG_STEP_TMO_US : Fld := ⟨Rg.COL_CFG, 19, 0⟩
abbrev COL_AREA_SIZE_MIB : Fld := ⟨Rg.COL_AREA, 63, 48⟩
abbrev COL_AREA_BASE_MIB : Fld := ⟨Rg.COL_AREA, 17, 0⟩
abbrev COL_START_GROUP : Fld := ⟨Rg.COL_START, 3, 0⟩
abbrev COL_ABORT_GROUP : Fld := ⟨Rg.COL_ABORT, 3, 0⟩
abbrev COL_STAT_ABORT_RESULT : Fld := ⟨Rg.COL_STAT, 18, 16⟩
abbrev COL_STAT_RUNNING : Fld := ⟨Rg.COL_STAT, 15, 0⟩
abbrev COL_LAST_VALID : Fld := ⟨Rg.COL_LAST, 63, 63⟩
abbrev COL_LAST_GROUP : Fld := ⟨Rg.COL_LAST, 59, 56⟩
abbrev COL_LAST_STATUS : Fld := ⟨Rg.COL_LAST, 55, 52⟩
abbrev COL_LAST_NAMED : Fld := ⟨Rg.COL_LAST, 43, 32⟩
abbrev COL_LAST_COLL_SEQ : Fld := ⟨Rg.COL_LAST, 31, 0⟩
abbrev COL_CNT_DONE : Fld := ⟨Rg.COL_CNT, 63, 48⟩
abbrev COL_CNT_STALLED : Fld := ⟨Rg.COL_CNT, 47, 32⟩
abbrev COL_CNT_MISMATCH : Fld := ⟨Rg.COL_CNT, 31, 16⟩
abbrev COL_CNT_OTHER : Fld := ⟨Rg.COL_CNT, 15, 0⟩
abbrev COL_RX_CNT0_BAD_FRAME : Fld := ⟨Rg.COL_RX_CNT0, 63, 48⟩
abbrev COL_RX_CNT0_NO_GROUP : Fld := ⟨Rg.COL_RX_CNT0, 47, 32⟩
abbrev COL_RX_CNT0_STALE_GEN : Fld := ⟨Rg.COL_RX_CNT0, 31, 16⟩
abbrev COL_RX_CNT0_BAD_SOURCE : Fld := ⟨Rg.COL_RX_CNT0, 15, 0⟩
abbrev COL_RX_CNT1_STALE_SEQ : Fld := ⟨Rg.COL_RX_CNT1, 63, 48⟩
abbrev COL_RX_CNT1_AHEAD : Fld := ⟨Rg.COL_RX_CNT1, 47, 32⟩
abbrev COL_RX_CNT1_DUP : Fld := ⟨Rg.COL_RX_CNT1, 31, 16⟩
abbrev COL_RX_CNT1_DATA_CRC : Fld := ⟨Rg.COL_RX_CNT1, 15, 0⟩
abbrev COL_RETX_FRAGMENTS : Fld := ⟨Rg.COL_RETX, 31, 0⟩
abbrev COL_SLOW_LAST_VALID : Fld := ⟨Rg.COL_SLOW_LAST, 63, 63⟩
abbrev COL_SLOW_LAST_GROUP : Fld := ⟨Rg.COL_SLOW_LAST, 59, 56⟩
abbrev COL_SLOW_LAST_LAST_RANK : Fld := ⟨Rg.COL_SLOW_LAST, 42, 32⟩
abbrev COL_SLOW_LAST_WAIT_US : Fld := ⟨Rg.COL_SLOW_LAST, 31, 0⟩
abbrev COL_EFT_CNT_APPLIED : Fld := ⟨Rg.COL_EFT_CNT, 63, 32⟩
abbrev COL_EFT_CNT_STALE : Fld := ⟨Rg.COL_EFT_CNT, 31, 16⟩
abbrev COL_EFT_CNT_FULL : Fld := ⟨Rg.COL_EFT_CNT, 15, 0⟩
abbrev UPS_CFG_ETHERTYPE : Fld := ⟨Rg.UPS_CFG, 63, 48⟩
abbrev UPS_CFG_COLLECTOR_MAC : Fld := ⟨Rg.UPS_CFG, 47, 0⟩
abbrev UPS_SWRX_SW_ETHERTYPE : Fld := ⟨Rg.UPS_SWRX, 63, 48⟩
abbrev UPS_SWRX_SIZE : Fld := ⟨Rg.UPS_SWRX, 47, 24⟩
abbrev UPS_SWRX_BASE : Fld := ⟨Rg.UPS_SWRX, 23, 0⟩
abbrev UPS_CNT_RESV_DROP : Fld := ⟨Rg.UPS_CNT, 63, 48⟩
abbrev UPS_CNT_SPILL_DROP : Fld := ⟨Rg.UPS_CNT, 47, 32⟩
abbrev UPS_CNT_ROUTE_DROP : Fld := ⟨Rg.UPS_CNT, 31, 16⟩
abbrev UPS_CNT_SPILLS : Fld := ⟨Rg.UPS_CNT, 15, 0⟩
abbrev CIS_STORE_SIZE_MIB : Fld := ⟨Rg.CIS_STORE, 49, 32⟩
abbrev CIS_STORE_BASE_MIB : Fld := ⟨Rg.CIS_STORE, 17, 0⟩
abbrev CIS_SUMP_SIZE_MIB : Fld := ⟨Rg.CIS_SUMP, 49, 32⟩
abbrev CIS_SUMP_BASE_MIB : Fld := ⟨Rg.CIS_SUMP, 17, 0⟩
abbrev CIS_INGEST_BUDGET_B : Fld := ⟨Rg.CIS_INGEST, 10, 0⟩
abbrev CIS_SAT_SAT_HI : Fld := ⟨Rg.CIS_SAT, 63, 60⟩
abbrev CIS_SAT_SAT_LO : Fld := ⟨Rg.CIS_SAT, 59, 56⟩
abbrev CIS_SAT_SLOW_STEP_MS : Fld := ⟨Rg.CIS_SAT, 47, 32⟩
abbrev CIS_SAT_RECOVER_MS : Fld := ⟨Rg.CIS_SAT, 31, 16⟩
abbrev CIS_SAT_SHIFT_MAX : Fld := ⟨Rg.CIS_SAT, 2, 0⟩
abbrev CIS_STAT_SUMP_FILL_MIB : Fld := ⟨Rg.CIS_STAT, 63, 32⟩
abbrev CIS_STAT_S : Fld := ⟨Rg.CIS_STAT, 10, 8⟩
abbrev CIS_STAT_SUMP_FULL : Fld := ⟨Rg.CIS_STAT, 1, 1⟩
abbrev CIS_STAT_SATURATED : Fld := ⟨Rg.CIS_STAT, 0, 0⟩
abbrev CIS_CNT_SATURATIONS : Fld := ⟨Rg.CIS_CNT, 63, 48⟩
abbrev CIS_CNT_SUMP_DROP : Fld := ⟨Rg.CIS_CNT, 47, 32⟩
abbrev CIS_CNT_POLICE_DROP : Fld := ⟨Rg.CIS_CNT, 31, 16⟩
abbrev CIS_CNT_SLOW_DOWN : Fld := ⟨Rg.CIS_CNT, 15, 0⟩
abbrev BUD_CFG_MIRROR_EN : Fld := ⟨Rg.BUD_CFG, 63, 63⟩
abbrev BUD_CFG_HOLD_EN : Fld := ⟨Rg.BUD_CFG, 62, 62⟩
abbrev BUD_CFG_BUDDY_MAC : Fld := ⟨Rg.BUD_CFG, 47, 0⟩
abbrev BUD_WARD_WARD : Fld := ⟨Rg.BUD_WARD, 58, 48⟩
abbrev BUD_WARD_WARD_MAC : Fld := ⟨Rg.BUD_WARD, 47, 0⟩
abbrev BUD_REGION_SIZE_MIB : Fld := ⟨Rg.BUD_REGION, 49, 32⟩
abbrev BUD_REGION_BASE_MIB : Fld := ⟨Rg.BUD_REGION, 17, 0⟩
abbrev BUD_TMO_TMO_US : Fld := ⟨Rg.BUD_TMO, 19, 0⟩
abbrev BUD_RESTORE_GO : Fld := ⟨Rg.BUD_RESTORE, 63, 63⟩
abbrev BUD_RESTORE_BUDDY : Fld := ⟨Rg.BUD_RESTORE, 47, 0⟩
abbrev BUD_STATE_HOLD_VALID : Fld := ⟨Rg.BUD_STATE, 10, 10⟩
abbrev BUD_STATE_MIRROR : Fld := ⟨Rg.BUD_STATE, 9, 8⟩
abbrev BUD_STATE_CLASSES : Fld := ⟨Rg.BUD_STATE, 6, 4⟩
abbrev BUD_STATE_RSTATE : Fld := ⟨Rg.BUD_STATE, 2, 0⟩
abbrev BUD_CNT_RESYNCS : Fld := ⟨Rg.BUD_CNT, 63, 48⟩
abbrev BUD_CNT_GAPS : Fld := ⟨Rg.BUD_CNT, 47, 32⟩
abbrev BUD_CNT_RESTORES : Fld := ⟨Rg.BUD_CNT, 31, 16⟩
abbrev BUD_CNT_STATE_LOST : Fld := ⟨Rg.BUD_CNT, 15, 0⟩
abbrev MGR_CFG_HEALTH_MS : Fld := ⟨Rg.MGR_CFG, 63, 48⟩
abbrev MGR_CFG_CONTROLLER_MAC : Fld := ⟨Rg.MGR_CFG, 47, 0⟩
abbrev MGR_CNT_REQUESTS : Fld := ⟨Rg.MGR_CNT, 63, 48⟩
abbrev MGR_CNT_TIMEOUTS : Fld := ⟨Rg.MGR_CNT, 47, 32⟩
abbrev MGR_CNT_REFUSED : Fld := ⟨Rg.MGR_CNT, 31, 16⟩
abbrev MGR_CNT_HEALTH : Fld := ⟨Rg.MGR_CNT, 15, 0⟩
abbrev UP_CFG_MTU : Fld := ⟨Rg.UP_CFG, 62, 48⟩
abbrev UP_CFG_MAC : Fld := ⟨Rg.UP_CFG, 47, 0⟩
abbrev UP_STAT_QUAR : Fld := ⟨Rg.UP_STAT, 11, 8⟩
abbrev UP_STAT_LINK : Fld := ⟨Rg.UP_STAT, 0, 0⟩
abbrev UP_QUAR_CFG_QUAR_S : Fld := ⟨Rg.UP_QUAR_CFG, 39, 24⟩
abbrev UP_QUAR_CFG_STRIKE_N : Fld := ⟨Rg.UP_QUAR_CFG, 23, 16⟩
abbrev UP_QUAR_CFG_STRIKE_WIN_MS : Fld := ⟨Rg.UP_QUAR_CFG, 15, 0⟩
abbrev UP_VIOL_LAST_VALID : Fld := ⟨Rg.UP_VIOL_LAST, 63, 63⟩
abbrev UP_VIOL_LAST_CODE : Fld := ⟨Rg.UP_VIOL_LAST, 52, 48⟩
abbrev UP_VIOL_LAST_SOURCE : Fld := ⟨Rg.UP_VIOL_LAST, 47, 0⟩
abbrev UP_CTRL_QUAR_FULL : Fld := ⟨Rg.UP_CTRL, 1, 1⟩
abbrev UP_CTRL_CLEAR_QUAR : Fld := ⟨Rg.UP_CTRL, 0, 0⟩
abbrev STM_CFG_XRF_TEMPLATE : Fld := ⟨Rg.STM_CFG, 63, 56⟩
abbrev STM_CFG_STEP_HOLD_US : Fld := ⟨Rg.STM_CFG, 47, 32⟩
abbrev STM_STAT_MQ_FILL : Fld := ⟨Rg.STM_STAT, 36, 32⟩
abbrev STM_STAT_NQ_FILL : Fld := ⟨Rg.STM_STAT, 28, 24⟩
abbrev STM_STAT_ROWS_OPEN : Fld := ⟨Rg.STM_STAT, 7, 0⟩
abbrev STM_CNT0_SENT : Fld := ⟨Rg.STM_CNT0, 63, 48⟩
abbrev STM_CNT0_WRONG_JOB : Fld := ⟨Rg.STM_CNT0, 47, 32⟩
abbrev STM_CNT0_NO_TIME : Fld := ⟨Rg.STM_CNT0, 31, 16⟩
abbrev STM_CNT0_MQ_OVF : Fld := ⟨Rg.STM_CNT0, 15, 0⟩
abbrev STM_CNT1_FLEET_DROP : Fld := ⟨Rg.STM_CNT1, 31, 16⟩
abbrev STM_CNT1_NQ_OVF : Fld := ⟨Rg.STM_CNT1, 15, 0⟩
abbrev STM_CNT2_STRAGGLER : Fld := ⟨Rg.STM_CNT2, 63, 48⟩
abbrev STM_CNT2_NO_QUORUM : Fld := ⟨Rg.STM_CNT2, 47, 32⟩
abbrev STM_CNT2_DRIFT : Fld := ⟨Rg.STM_CNT2, 31, 16⟩
abbrev STM_CNT2_FORCED : Fld := ⟨Rg.STM_CNT2, 15, 8⟩
abbrev STM_CNT2_FIELD_SAT : Fld := ⟨Rg.STM_CNT2, 7, 0⟩
abbrev STM_LAST_VALID : Fld := ⟨Rg.STM_LAST, 63, 63⟩
abbrev STM_LAST_ENTRY : Fld := ⟨Rg.STM_LAST, 59, 56⟩
abbrev STM_LAST_PHASE : Fld := ⟨Rg.STM_LAST, 55, 54⟩
abbrev STM_LAST_LEAF_ID : Fld := ⟨Rg.STM_LAST, 53, 34⟩
abbrev STM_LAST_STEP : Fld := ⟨Rg.STM_LAST, 31, 0⟩
abbrev STM_LAT_WORST : Fld := ⟨Rg.STM_LAT, 31, 16⟩
abbrev STM_LAT_LAST : Fld := ⟨Rg.STM_LAT, 15, 0⟩
abbrev STM_CNT3_FLEET_DROP : Fld := ⟨Rg.STM_CNT3, 15, 0⟩
abbrev CAP_CFG_XLT_CTX : Fld := ⟨Rg.CAP_CFG, 41, 32⟩
abbrev CAP_CFG_PUMP_CH : Fld := ⟨Rg.CAP_CFG, 5, 0⟩
abbrev CAP_TRIG_RINGS : Fld := ⟨Rg.CAP_TRIG, 15, 0⟩
abbrev CAP_CTRL_OP : Fld := ⟨Rg.CAP_CTRL, 63, 60⟩
abbrev CAP_CTRL_RINGS : Fld := ⟨Rg.CAP_CTRL, 15, 0⟩
abbrev CAP_CNT_TRIGGERS : Fld := ⟨Rg.CAP_CNT, 63, 48⟩
abbrev CAP_CNT_TRIG_IGNORED : Fld := ⟨Rg.CAP_CNT, 47, 32⟩
abbrev CAP_CNT_GAP_ROWS : Fld := ⟨Rg.CAP_CNT, 31, 16⟩
abbrev CAP_CNT_UPLOAD_FAIL : Fld := ⟨Rg.CAP_CNT, 15, 0⟩
abbrev CAP_LAST_VALID : Fld := ⟨Rg.CAP_LAST, 63, 63⟩
abbrev CAP_LAST_RING : Fld := ⟨Rg.CAP_LAST, 59, 56⟩
abbrev CAP_LAST_CAUSE : Fld := ⟨Rg.CAP_LAST, 50, 48⟩
abbrev CAP_LAST_EPOCH : Fld := ⟨Rg.CAP_LAST, 39, 0⟩
abbrev HTP_CFG_STALL_MAX_US : Fld := ⟨Rg.HTP_CFG, 63, 48⟩
abbrev HTP_CFG_SRC_TMO_US : Fld := ⟨Rg.HTP_CFG, 47, 32⟩
abbrev HTP_CFG_SYNC_PERIOD : Fld := ⟨Rg.HTP_CFG, 31, 16⟩
abbrev HTP_CFG_FLUSH_US : Fld := ⟨Rg.HTP_CFG, 15, 8⟩
abbrev HTP_CFG_FILL : Fld := ⟨Rg.HTP_CFG, 1, 1⟩
abbrev HTP_CFG_MODE : Fld := ⟨Rg.HTP_CFG, 0, 0⟩
abbrev HTP_RING_LOG2_SIZE : Fld := ⟨Rg.HTP_RING, 61, 56⟩
abbrev HTP_RING_RING_VA : Fld := ⟨Rg.HTP_RING, 47, 12⟩
abbrev HTP_PTRS_PTRS_VA : Fld := ⟨Rg.HTP_PTRS, 47, 3⟩
abbrev HTP_XLT_XLT_CTX : Fld := ⟨Rg.HTP_XLT, 41, 32⟩
abbrev HTP_XLT_PUMP_CH : Fld := ⟨Rg.HTP_XLT, 5, 0⟩
abbrev HTP_EVT_POST_BEATS : Fld := ⟨Rg.HTP_EVT, 63, 32⟩
abbrev HTP_EVT_TRIG_RING : Fld := ⟨Rg.HTP_EVT, 19, 16⟩
abbrev HTP_EVT_CAP_STOP : Fld := ⟨Rg.HTP_EVT, 1, 1⟩
abbrev HTP_EVT_CAP_START : Fld := ⟨Rg.HTP_EVT, 0, 0⟩
abbrev HTP_CTRL_REARM : Fld := ⟨Rg.HTP_CTRL, 2, 2⟩
abbrev HTP_CTRL_STOP : Fld := ⟨Rg.HTP_CTRL, 1, 1⟩
abbrev HTP_CTRL_START : Fld := ⟨Rg.HTP_CTRL, 0, 0⟩
abbrev HTP_STAT_PROD : Fld := ⟨Rg.HTP_STAT, 63, 32⟩
abbrev HTP_STAT_ESTATE : Fld := ⟨Rg.HTP_STAT, 21, 20⟩
abbrev HTP_STAT_FILL : Fld := ⟨Rg.HTP_STAT, 17, 0⟩
abbrev HTP_CNT_DROP_BEATS : Fld := ⟨Rg.HTP_CNT, 63, 48⟩
abbrev HTP_CNT_STALL_LIMITS : Fld := ⟨Rg.HTP_CNT, 47, 32⟩
abbrev HTP_CNT_LOST_SOURCE : Fld := ⟨Rg.HTP_CNT, 31, 16⟩
abbrev HTP_CNT_DRAIN_ABORT : Fld := ⟨Rg.HTP_CNT, 15, 8⟩
abbrev HTP_CNT_DISCARD : Fld := ⟨Rg.HTP_CNT, 7, 0⟩
abbrev SCR_CFG_CADENCE_MIN : Fld := ⟨Rg.SCR_CFG, 63, 48⟩
abbrev SCR_CFG_HOST_TMO_S : Fld := ⟨Rg.SCR_CFG, 47, 40⟩
abbrev SCR_CFG_RETRY_N : Fld := ⟨Rg.SCR_CFG, 35, 32⟩
abbrev SCR_CFG_TRANS_LIMIT : Fld := ⟨Rg.SCR_CFG, 31, 24⟩
abbrev SCR_CFG_TRANS_WIN_H : Fld := ⟨Rg.SCR_CFG, 23, 8⟩
abbrev SCR_CFG_AUTO_DEGRADE : Fld := ⟨Rg.SCR_CFG, 1, 1⟩
abbrev SCR_CFG_RUN_EN : Fld := ⟨Rg.SCR_CFG, 0, 0⟩
abbrev SCR_STAT_PASSES : Fld := ⟨Rg.SCR_STAT, 63, 32⟩
abbrev SCR_STAT_PATTERN : Fld := ⟨Rg.SCR_STAT, 25, 16⟩
abbrev SCR_STAT_SSTATE : Fld := ⟨Rg.SCR_STAT, 2, 0⟩
abbrev SCR_CTRL_PASS_NOW : Fld := ⟨Rg.SCR_CTRL, 1, 1⟩
abbrev SCR_CTRL_ABORT_PASS : Fld := ⟨Rg.SCR_CTRL, 0, 0⟩
abbrev SCR_BUNDLE_BUNDLE_ID : Fld := ⟨Rg.SCR_BUNDLE, 63, 32⟩
abbrev SCR_BUNDLE_SVN : Fld := ⟨Rg.SCR_BUNDLE, 31, 16⟩
abbrev SCR_BUNDLE_N_PAT : Fld := ⟨Rg.SCR_BUNDLE, 10, 0⟩
abbrev SCR_CNT_FAIL : Fld := ⟨Rg.SCR_CNT, 63, 48⟩
abbrev SCR_CNT_TRANSIENT : Fld := ⟨Rg.SCR_CNT, 47, 32⟩
abbrev SCR_CNT_PERMANENT : Fld := ⟨Rg.SCR_CNT, 31, 16⟩
abbrev SCR_CNT_BAD_BUNDLE : Fld := ⟨Rg.SCR_CNT, 15, 0⟩
abbrev SCR_LAST_VALID : Fld := ⟨Rg.SCR_LAST, 63, 63⟩
abbrev SCR_LAST_CLASS : Fld := ⟨Rg.SCR_LAST, 62, 60⟩
abbrev SCR_LAST_UNIT : Fld := ⟨Rg.SCR_LAST, 55, 48⟩
abbrev SCR_LAST_PATTERN : Fld := ⟨Rg.SCR_LAST, 41, 32⟩
abbrev SCR_LAST_FAILING : Fld := ⟨Rg.SCR_LAST, 31, 0⟩
abbrev SCR_RESTORE_GO : Fld := ⟨Rg.SCR_RESTORE, 63, 63⟩
abbrev SCR_RESTORE_UNIT : Fld := ⟨Rg.SCR_RESTORE, 5, 0⟩
abbrev NVH_CFG_CKPT_MIN : Fld := ⟨Rg.NVH_CFG, 63, 48⟩
abbrev NVH_STAT_POWER_CYCLES : Fld := ⟨Rg.NVH_STAT, 63, 32⟩
abbrev NVH_STAT_GEN : Fld := ⟨Rg.NVH_STAT, 31, 0⟩
abbrev NVH_TIME_OP_MINUTES : Fld := ⟨Rg.NVH_TIME, 39, 0⟩
abbrev NVH_CNT_RECORDS : Fld := ⟨Rg.NVH_CNT, 63, 48⟩
abbrev NVH_CNT_QUEUE_DROP : Fld := ⟨Rg.NVH_CNT, 47, 32⟩
abbrev NVH_CNT_NOR_ERR : Fld := ⟨Rg.NVH_CNT, 31, 16⟩
abbrev NVH_CNT_COMMITS : Fld := ⟨Rg.NVH_CNT, 15, 0⟩
abbrev NVH_PHASE_OWNER : Fld := ⟨Rg.NVH_PHASE, 8, 8⟩
abbrev NVH_PHASE_NOR_OK : Fld := ⟨Rg.NVH_PHASE, 7, 7⟩
abbrev NVH_PHASE_QFILL : Fld := ⟨Rg.NVH_PHASE, 6, 4⟩
abbrev NVH_PHASE_JSTATE : Fld := ⟨Rg.NVH_PHASE, 1, 0⟩
abbrev FLT_CFG_QUIET_MS : Fld := ⟨Rg.FLT_CFG, 15, 0⟩
abbrev FLT_STAT_ACTIVE : Fld := ⟨Rg.FLT_STAT, 63, 48⟩
abbrev FLT_STAT_UNACK : Fld := ⟨Rg.FLT_STAT, 47, 32⟩
abbrev FLT_STAT_ATTN : Fld := ⟨Rg.FLT_STAT, 5, 4⟩
abbrev FLT_STAT_FAULTED : Fld := ⟨Rg.FLT_STAT, 2, 2⟩
abbrev FLT_STAT_STOPPED : Fld := ⟨Rg.FLT_STAT, 1, 1⟩
abbrev FLT_FIRST_VALID : Fld := ⟨Rg.FLT_FIRST, 63, 63⟩
abbrev FLT_FIRST_SOURCE : Fld := ⟨Rg.FLT_FIRST, 58, 48⟩
abbrev FLT_FIRST_LEVEL : Fld := ⟨Rg.FLT_FIRST, 42, 40⟩
abbrev FLT_FIRST_EPOCH : Fld := ⟨Rg.FLT_FIRST, 39, 0⟩
abbrev FLT_LAST_VALID : Fld := ⟨Rg.FLT_LAST, 63, 63⟩
abbrev FLT_LAST_SOURCE : Fld := ⟨Rg.FLT_LAST, 58, 48⟩
abbrev FLT_LAST_LEVEL : Fld := ⟨Rg.FLT_LAST, 42, 40⟩
abbrev FLT_LAST_EPOCH : Fld := ⟨Rg.FLT_LAST, 39, 0⟩
abbrev FLT_CNT_RECORDED : Fld := ⟨Rg.FLT_CNT, 63, 48⟩
abbrev FLT_CNT_ESCALATIONS : Fld := ⟨Rg.FLT_CNT, 47, 32⟩
abbrev FLT_CNT_RECOVERIES : Fld := ⟨Rg.FLT_CNT, 31, 16⟩
abbrev FLT_CNT_IGNORED : Fld := ⟨Rg.FLT_CNT, 15, 0⟩
abbrev FLT_INJECT_GO : Fld := ⟨Rg.FLT_INJECT, 63, 63⟩
abbrev FLT_INJECT_SOURCE : Fld := ⟨Rg.FLT_INJECT, 42, 32⟩
abbrev FLT_INJECT_DETAIL : Fld := ⟨Rg.FLT_INJECT, 31, 0⟩
abbrev FLT_CTRL_CLEAR_FIRST : Fld := ⟨Rg.FLT_CTRL, 0, 0⟩
abbrev FLT_FATAL_VALID : Fld := ⟨Rg.FLT_FATAL, 63, 63⟩
abbrev FLT_FATAL_SOURCE : Fld := ⟨Rg.FLT_FATAL, 58, 48⟩
abbrev FLT_FATAL_EPOCH : Fld := ⟨Rg.FLT_FATAL, 39, 0⟩
abbrev EVR_CFG_NOTIFY : Fld := ⟨Rg.EVR_CFG, 47, 32⟩
abbrev EVR_CFG_RATE : Fld := ⟨Rg.EVR_CFG, 25, 16⟩
abbrev EVR_CFG_BURST : Fld := ⟨Rg.EVR_CFG, 7, 0⟩
abbrev EVR_HEAD_SEQ : Fld := ⟨Rg.EVR_HEAD, 31, 0⟩
abbrev EVR_TAIL_SEQ : Fld := ⟨Rg.EVR_TAIL, 31, 0⟩
abbrev EVR_RD_SEQ : Fld := ⟨Rg.EVR_RD, 31, 0⟩
abbrev EVR_CNT_SUPPRESSED : Fld := ⟨Rg.EVR_CNT, 63, 32⟩
abbrev EVR_CNT_OVERWRITTEN : Fld := ⟨Rg.EVR_CNT, 31, 0⟩
abbrev EVR_EPOCH_EPOCH : Fld := ⟨Rg.EVR_EPOCH, 39, 0⟩
abbrev IRC_GCFG_IN_HOLDOFF : Fld := ⟨Rg.IRC_GCFG, 63, 63⟩
abbrev IRC_GCFG_HOLDOFF_US : Fld := ⟨Rg.IRC_GCFG, 23, 8⟩
abbrev IRC_GCFG_PRIO : Fld := ⟨Rg.IRC_GCFG, 6, 4⟩
abbrev IRC_GCFG_LINE : Fld := ⟨Rg.IRC_GCFG, 1, 0⟩
abbrev IRC_CLAIM_VALID : Fld := ⟨Rg.IRC_CLAIM, 63, 63⟩
abbrev IRC_CLAIM_PRIO : Fld := ⟨Rg.IRC_CLAIM, 42, 40⟩
abbrev IRC_CLAIM_GROUP : Fld := ⟨Rg.IRC_CLAIM, 3, 0⟩
abbrev IRC_COMPLETE_LINE : Fld := ⟨Rg.IRC_COMPLETE, 9, 8⟩
abbrev IRC_COMPLETE_GROUP : Fld := ⟨Rg.IRC_COMPLETE, 3, 0⟩
abbrev IRC_STACK_LAST_VALID : Fld := ⟨Rg.IRC_STACK_LAST, 63, 63⟩
abbrev IRC_STACK_LAST_LINE : Fld := ⟨Rg.IRC_STACK_LAST, 57, 56⟩
abbrev IRC_STACK_LAST_CAUSE : Fld := ⟨Rg.IRC_STACK_LAST, 53, 52⟩
abbrev IRC_STACK_LAST_GROUP : Fld := ⟨Rg.IRC_STACK_LAST, 51, 48⟩
abbrev IRC_STACK_LAST_TOP : Fld := ⟨Rg.IRC_STACK_LAST, 42, 40⟩
abbrev IRC_CNT_CLAIMS : Fld := ⟨Rg.IRC_CNT, 63, 48⟩
abbrev IRC_CNT_SPURIOUS : Fld := ⟨Rg.IRC_CNT, 47, 32⟩
abbrev IRC_CNT_STACK_FAULTS : Fld := ⟨Rg.IRC_CNT, 31, 16⟩
abbrev IRC_CNT_HOLDOFF_DEFERRED : Fld := ⟨Rg.IRC_CNT, 15, 0⟩
abbrev PMU_CFG_WIN_US : Fld := ⟨Rg.PMU_CFG, 63, 48⟩
abbrev PMU_CTRL_CLEAR : Fld := ⟨Rg.PMU_CTRL, 1, 1⟩
abbrev PMU_CTRL_SNAP : Fld := ⟨Rg.PMU_CTRL, 0, 0⟩
abbrev PMU_STAT_SNAP_SEQ : Fld := ⟨Rg.PMU_STAT, 63, 32⟩
abbrev PMU_STAT_AON_EPOCH : Fld := ⟨Rg.PMU_STAT, 31, 0⟩
abbrev PMU_REPLAY_GO : Fld := ⟨Rg.PMU_REPLAY, 63, 63⟩
abbrev PMU_REPLAY_SLOT : Fld := ⟨Rg.PMU_REPLAY, 62, 60⟩
abbrev PMU_REPLAY_ENGINE : Fld := ⟨Rg.PMU_REPLAY, 59, 56⟩
abbrev PMU_REPLAY_STOP_AT : Fld := ⟨Rg.PMU_REPLAY, 55, 40⟩
abbrev PMU_REPLAY_EPOCH : Fld := ⟨Rg.PMU_REPLAY, 39, 0⟩
abbrev PMU_REPLAY_STAT_VALID : Fld := ⟨Rg.PMU_REPLAY_STAT, 63, 63⟩
abbrev PMU_REPLAY_STAT_RESULT : Fld := ⟨Rg.PMU_REPLAY_STAT, 62, 60⟩
abbrev PMU_REPLAY_STAT_STEP : Fld := ⟨Rg.PMU_REPLAY_STAT, 31, 0⟩
abbrev LCM_STATE_LC_STATE : Fld := ⟨Rg.LCM_STATE, 41, 40⟩
abbrev LCM_STATE_PROV_FUSE : Fld := ⟨Rg.LCM_STATE, 38, 38⟩
abbrev LCM_STATE_RETURN_FUSE : Fld := ⟨Rg.LCM_STATE, 37, 37⟩
abbrev LCM_STATE_LAST_RESET : Fld := ⟨Rg.LCM_STATE, 35, 32⟩
abbrev LCM_STATE_CSTATE : Fld := ⟨Rg.LCM_STATE, 25, 24⟩
abbrev LCM_STATE_BG_PENDING : Fld := ⟨Rg.LCM_STATE, 16, 16⟩
abbrev LCM_STATE_PHASE : Fld := ⟨Rg.LCM_STATE, 2, 0⟩
abbrev LCM_COMMIT_VERSION : Fld := ⟨Rg.LCM_COMMIT, 55, 40⟩
abbrev LCM_COMMIT_TARGET : Fld := ⟨Rg.LCM_COMMIT, 39, 0⟩
abbrev LCM_CTRL_ARM : Fld := ⟨Rg.LCM_CTRL, 0, 0⟩
abbrev LCM_CMD_KEY : Fld := ⟨Rg.LCM_CMD, 63, 48⟩
abbrev LCM_CMD_OP : Fld := ⟨Rg.LCM_CMD, 7, 0⟩
abbrev LCM_STAT_CFG_VER : Fld := ⟨Rg.LCM_STAT, 63, 48⟩
abbrev LCM_STAT_NEXT_VER : Fld := ⟨Rg.LCM_STAT, 47, 32⟩
abbrev LCM_STAT_RESULT : Fld := ⟨Rg.LCM_STAT, 19, 16⟩
abbrev LCM_STAT_REJECTS : Fld := ⟨Rg.LCM_STAT, 7, 0⟩
abbrev LCM_JOB_VALID : Fld := ⟨Rg.LCM_JOB, 63, 63⟩
abbrev LCM_JOB_JOB_GEN : Fld := ⟨Rg.LCM_JOB, 31, 24⟩
abbrev LCM_JOB_JOB_ID : Fld := ⟨Rg.LCM_JOB, 23, 0⟩
abbrev LCM_CNT_COMMITS : Fld := ⟨Rg.LCM_CNT, 63, 48⟩
abbrev LCM_CNT_REFUSED : Fld := ⟨Rg.LCM_CNT, 47, 32⟩
abbrev LCM_CNT_PAGE_REJECTS : Fld := ⟨Rg.LCM_CNT, 31, 16⟩
abbrev LCM_CNT_RESETS : Fld := ⟨Rg.LCM_CNT, 15, 0⟩
abbrev LCM_BOOT_WIPE_US : Fld := ⟨Rg.LCM_BOOT, 63, 32⟩
abbrev LCM_BOOT_BOOT_US : Fld := ⟨Rg.LCM_BOOT, 31, 0⟩

end Fd

/-! ### Register tables -/

/-- The registers of the DIR page beside the common header (offsets, access, reset, writable bits, ranges, minimum privilege). -/
def regs_dir : List RegRow := [
  ⟨0x40, 1, .ro, 0x0, 0x0, [], 0⟩,
  ⟨0x48, 1, .rw, 0x0, 0x7FFFFFFFF, [], 2⟩,
  ⟨0x50, 1, .ro, 0x0, 0x0, [], 0⟩,
  ⟨0x58, 1, .rc, 0x0, 0x0, [], 0⟩,
  ⟨0x60, 1, .ro, 0x0, 0x0, [], 0⟩,
  ⟨0x80, 16, .ro, 0x0, 0x0, [], 0⟩,
  ⟨0x100, 16, .ro, 0x0, 0x0, [], 0⟩]

/-- The registers of the PWR page beside the common header (offsets, access, reset, writable bits, ranges, minimum privilege). -/
def regs_pwr : List RegRow := [
  ⟨0x40, 1, .ro, 0x0, 0x0, [], 0⟩,
  ⟨0x48, 1, .ro, 0x0, 0x0, [], 0⟩,
  ⟨0x50, 1, .rw, 0x0, 0x1, [], 0⟩,
  ⟨0x58, 1, .rws, 0x6400800141000, 0xFFF0F03FFFF03, [(51, 40, 1, 4095), (35, 32, 1, 15), (25, 16, 0, 1000)], 0⟩,
  ⟨0x60, 1, .wo, 0x0, 0x0, [], 0⟩,
  ⟨0x68, 1, .ro, 0x0, 0x0, [], 0⟩,
  ⟨0x70, 1, .ro, 0x0, 0x0, [], 0⟩,
  ⟨0x78, 1, .ro, 0x0, 0x0, [], 0⟩,
  ⟨0x80, 1, .ro, 0x0, 0x0, [], 0⟩,
  ⟨0x88, 1, .ro, 0x0, 0x0, [], 0⟩]

/-- The registers of the TKP page beside the common header (offsets, access, reset, writable bits, ranges, minimum privilege). -/
def regs_tkp : List RegRow := [
  ⟨0x40, 1, .ro, 0xF0, 0x0, [], 0⟩,
  ⟨0x48, 1, .ro, 0x0, 0x0, [], 0⟩,
  ⟨0x50, 1, .ro, 0x0, 0x0, [], 0⟩,
  ⟨0x58, 1, .rws, 0x0, 0xFFFFFFFFFFFFFFFF, [(47, 16, 0, 999999999)], 2⟩,
  ⟨0x60, 1, .rws, 0x0, 0xFFFFFFFF, [], 2⟩,
  ⟨0x68, 1, .rws, 0x64, 0x1FFFF, [(16, 0, 10, 100000)], 2⟩,
  ⟨0x70, 1, .rw, 0x7D141040000440, 0xFFFFFFFFF000FFFF, [(63, 48, 16, 1000), (39, 32, 1, 255), (31, 28, 1, 15), (7, 0, 1, 255)], 2⟩,
  ⟨0x78, 1, .rw, 0x80003E8, 0xF0FFFFF, [(27, 24, 1, 15), (19, 0, 100, 1000000)], 2⟩,
  ⟨0x80, 1, .ro, 0x0, 0x0, [], 0⟩,
  ⟨0x88, 1, .ro, 0x0, 0x0, [], 0⟩,
  ⟨0x90, 1, .ro, 0x0, 0x0, [], 0⟩,
  ⟨0x98, 1, .ro, 0x0, 0x0, [], 0⟩,
  ⟨0xA0, 1, .ro, 0x0, 0x0, [], 0⟩,
  ⟨0xA8, 1, .wo, 0x0, 0x0, [], 2⟩,
  ⟨0xB0, 1, .rc, 0x0, 0x0, [], 0⟩,
  ⟨0xB8, 1, .rw, 0x33000, 0x3F1FF, [(15, 12, 2, 15)], 2⟩]

/-- The registers of the WEL page beside the common header (offsets, access, reset, writable bits, ranges, minimum privilege). -/
def regs_wel : List RegRow := [
  ⟨0x40, 1, .rws, 0x64, 0xFFFFF00000FFF, [(11, 0, 16, 4095)], 0⟩,
  ⟨0x48, 1, .ro, 0x0, 0x0, [], 0⟩,
  ⟨0x50, 1, .rc, 0x0, 0x0, [], 0⟩,
  ⟨0x58, 1, .ro, 0x0, 0x0, [], 0⟩]

/-- The registers of the SMP page beside the common header (offsets, access, reset, writable bits, ranges, minimum privilege). -/
def regs_smp : List RegRow := [
  ⟨0x40, 1, .rws, 0x0, 0xFFFF, [], 0⟩,
  ⟨0x48, 1, .wo, 0x0, 0x0, [], 0⟩,
  ⟨0x50, 1, .ro, 0x0, 0x0, [], 0⟩,
  ⟨0x58, 1, .ro, 0x0, 0x0, [], 0⟩,
  ⟨0x60, 1, .wo, 0x0, 0x0, [], 0⟩,
  ⟨0x68, 1, .ro, 0x0, 0x0, [], 0⟩,
  ⟨0x70, 1, .rc, 0x0, 0x0, [], 0⟩]

/-- The registers of the EPR page beside the common header (offsets, access, reset, writable bits, ranges, minimum privilege). -/
def regs_epr : List RegRow := [
  ⟨0x40, 1, .rws, 0x0, 0x7FFFF, [(18, 8, 1, 1024)], 0⟩,
  ⟨0x48, 1, .ro, 0x0, 0x0, [], 0⟩,
  ⟨0x50, 1, .rc, 0x0, 0x0, [], 0⟩,
  ⟨0x58, 1, .ro, 0x0, 0x0, [], 0⟩,
  ⟨0x60, 1, .rc, 0x0, 0x0, [], 0⟩]

/-- The registers of the CMP page beside the common header (offsets, access, reset, writable bits, ranges, minimum privilege). -/
def regs_cmp : List RegRow := [
  ⟨0x40, 1, .rws, 0x400008, 0x10FFF003F, [(27, 16, 1, 4095)], 0⟩,
  ⟨0x48, 1, .rw, 0x40, 0xFF, [(7, 0, 4, 128)], 0⟩,
  ⟨0x50, 1, .ro, 0x0, 0x0, [], 0⟩,
  ⟨0x58, 1, .ro, 0x0, 0x0, [], 0⟩,
  ⟨0x60, 1, .rc, 0x0, 0x0, [], 0⟩,
  ⟨0x68, 1, .ro, 0x0, 0x0, [], 0⟩,
  ⟨0x70, 1, .ro, 0x0, 0x0, [], 0⟩,
  ⟨0x78, 1, .wo, 0x0, 0x0, [], 0⟩,
  ⟨0x80, 1, .rc, 0x0, 0x0, [], 0⟩,
  ⟨0x88, 1, .rc, 0x0, 0x0, [], 0⟩,
  ⟨0x90, 1, .ro, 0x0, 0x0, [], 0⟩]

/-- The registers of the MXE page beside the common header (offsets, access, reset, writable bits, ranges, minimum privilege). -/
def regs_mxe : List RegRow := [
  ⟨0x40, 1, .rw, 0x4E200100, 0xFFFFFFFF013F, [(47, 16, 1000, 1000000)], 0⟩,
  ⟨0x48, 1, .ro, 0xF0, 0x0, [], 0⟩,
  ⟨0x50, 1, .wo, 0x0, 0x0, [], 0⟩,
  ⟨0x58, 1, .wo, 0x0, 0x0, [], 0⟩,
  ⟨0x60, 1, .ro, 0x0, 0x0, [], 0⟩,
  ⟨0x68, 1, .ro, 0x0, 0x0, [], 0⟩,
  ⟨0x70, 1, .ro, 0x0, 0x0, [], 0⟩,
  ⟨0x78, 1, .rc, 0x0, 0x0, [], 0⟩,
  ⟨0x80, 1, .ro, 0x0, 0x0, [], 0⟩,
  ⟨0x88, 1, .rc, 0x0, 0x0, [], 0⟩,
  ⟨0x90, 1, .ro, 0x0, 0x0, [], 0⟩,
  ⟨0x2C0, 1, .rw, 0x100000000000001, 0xFFFFFFFFFFFFFFFF, [], 0⟩,
  ⟨0x2C8, 1, .rc, 0x0, 0x0, [], 0⟩,
  ⟨0x2D0, 1, .rc, 0x0, 0x0, [], 0⟩,
  ⟨0x2D8, 1, .rc, 0x0, 0x0, [], 0⟩,
  ⟨0x2E0, 1, .rc, 0x0, 0x0, [], 0⟩,
  ⟨0x2E8, 1, .rc, 0x0, 0x0, [], 0⟩,
  ⟨0x2F0, 1, .ro, 0x0, 0x0, [], 0⟩,
  ⟨0x2F8, 1, .ro, 0x0, 0x0, [], 0⟩,
  ⟨0x300, 16, .rw, 0x501F20, 0x80000000007F3F3F, [(22, 16, 1, 80)], 0⟩,
  ⟨0x380, 16, .rc, 0x0, 0x0, [], 0⟩]

/-- The registers of the TRE page beside the common header (offsets, access, reset, writable bits, ranges, minimum privilege). -/
def regs_tre : List RegRow := [
  ⟨0x40, 1, .rw, 0x0, 0x3F, [], 0⟩,
  ⟨0x48, 1, .ro, 0xF0, 0x0, [], 0⟩,
  ⟨0x50, 1, .wo, 0x0, 0x0, [], 0⟩,
  ⟨0x58, 1, .wo, 0x0, 0x0, [], 0⟩,
  ⟨0x60, 1, .ro, 0x0, 0x0, [], 0⟩,
  ⟨0x68, 1, .ro, 0x0, 0x0, [], 0⟩,
  ⟨0x70, 1, .rc, 0x0, 0x0, [], 0⟩,
  ⟨0x78, 1, .rc, 0x0, 0x0, [], 0⟩,
  ⟨0x80, 1, .ro, 0x0, 0x0, [], 0⟩,
  ⟨0x88, 1, .ro, 0x0, 0x0, [], 0⟩]

/-- The registers of the EFT page beside the common header (offsets, access, reset, writable bits, ranges, minimum privilege). -/
def regs_eft : List RegRow := [
  ⟨0x40, 1, .rws, 0x0, 0xFFFFFFFFFFFFFFFF, [], 0⟩,
  ⟨0x48, 1, .rw, 0x0, 0x3FF0000003F, [], 0⟩,
  ⟨0x50, 1, .ro, 0x0, 0x0, [], 0⟩,
  ⟨0x58, 1, .rc, 0x0, 0x0, [], 0⟩,
  ⟨0x60, 1, .ro, 0x0, 0x0, [], 0⟩,
  ⟨0x68, 1, .ro, 0x0, 0x0, [], 0⟩]

/-- The registers of the COR page beside the common header (offsets, access, reset, writable bits, ranges, minimum privilege). -/
def regs_cor : List RegRow := [
  ⟨0x40, 1, .rw, 0x3E8000000000000, 0xFFFF03FF0000003F, [(63, 48, 1, 10000)], 0⟩,
  ⟨0x48, 1, .rw, 0x0, 0xFFFFFFFFFFFF, [], 0⟩,
  ⟨0x50, 1, .rw, 0x0, 0x1FF0000FFFF, [], 0⟩,
  ⟨0x58, 1, .rw, 0x0, 0xFFFFFFFFFFFFFFFF, [], 0⟩,
  ⟨0x60, 1, .ro, 0x0, 0x0, [], 0⟩,
  ⟨0x68, 1, .ro, 0x0, 0x0, [], 0⟩,
  ⟨0x70, 1, .ro, 0x0, 0x0, [], 0⟩,
  ⟨0x78, 1, .rc, 0x0, 0x0, [], 0⟩,
  ⟨0x80, 1, .ro, 0x0, 0x0, [], 0⟩,
  ⟨0x88, 1, .ro, 0x0, 0x0, [], 0⟩,
  ⟨0x90, 1, .rw, 0x1000186A0, 0x1000FFFFF, [(19, 0, 10, 1000000)], 0⟩]

/-- The registers of the PMP page beside the common header (offsets, access, reset, writable bits, ranges, minimum privilege). -/
def regs_pmp : List RegRow := [
  ⟨0x40, 1, .rw, 0x0, 0xFFFFFFFFFFFFFFFF, [], 0⟩,
  ⟨0x48, 1, .ro, 0x0, 0x0, [], 0⟩,
  ⟨0x50, 1, .wo, 0x0, 0x0, [], 0⟩,
  ⟨0x58, 1, .wo, 0x0, 0x0, [], 0⟩,
  ⟨0x60, 1, .ro, 0x0, 0x0, [], 0⟩,
  ⟨0x68, 1, .ro, 0x0, 0x0, [], 0⟩,
  ⟨0x70, 1, .rc, 0x0, 0x0, [], 0⟩,
  ⟨0x78, 1, .ro, 0x0, 0x0, [], 0⟩,
  ⟨0x80, 1, .ro, 0x0, 0x0, [], 0⟩]

/-- The registers of the XLT page beside the common header (offsets, access, reset, writable bits, ranges, minimum privilege). -/
def regs_xlt : List RegRow := [
  ⟨0x40, 1, .rw, 0x2710, 0xFFFFF, [(19, 0, 100, 1000000)], 0⟩,
  ⟨0x48, 1, .ro, 0x0, 0x0, [], 0⟩,
  ⟨0x50, 1, .wo, 0x0, 0x0, [], 0⟩,
  ⟨0x58, 1, .ro, 0x0, 0x0, [], 0⟩,
  ⟨0x60, 1, .wo, 0x0, 0x0, [], 0⟩,
  ⟨0x68, 1, .ro, 0x0, 0x0, [], 0⟩,
  ⟨0x70, 1, .ro, 0x0, 0x0, [], 0⟩,
  ⟨0x78, 1, .rc, 0x0, 0x0, [], 0⟩]

/-- The registers of the SLK page beside the common header (offsets, access, reset, writable bits, ranges, minimum privilege). -/
def regs_slk : List RegRow := [
  ⟨0x40, 1, .rw, 0x3E8080103020000, 0xFFFF0F0F0F033000, [(63, 48, 100, 10000), (43, 40, 1, 15), (35, 32, 1, 15), (27, 24, 1, 15), (17, 16, 0, 2)], 0⟩,
  ⟨0x48, 1, .rw, 0x5000A003C100064, 0xFFFFFFFFFFFFFFFF, [(63, 56, 2, 255), (55, 40, 1, 3600), (23, 16, 1, 255), (15, 0, 1, 60000)], 0⟩,
  ⟨0x50, 1, .ro, 0x0, 0x0, [], 0⟩,
  ⟨0x58, 1, .wo, 0x0, 0x0, [], 0⟩,
  ⟨0x60, 1, .ro, 0x0, 0x0, [], 0⟩,
  ⟨0x68, 1, .ro, 0x0, 0x0, [], 0⟩,
  ⟨0x70, 1, .rc, 0x0, 0x0, [], 0⟩,
  ⟨0x78, 1, .rc, 0x0, 0x0, [], 0⟩,
  ⟨0x80, 4, .rc, 0x0, 0x0, [], 0⟩,
  ⟨0xA0, 1, .ro, 0x0, 0x0, [], 0⟩,
  ⟨0xA8, 1, .rc, 0x0, 0x0, [], 0⟩,
  ⟨0xB0, 1, .rw, 0x0, 0x8F0003FF0000003F, [], 0⟩,
  ⟨0xB8, 1, .rw, 0x0, 0xFFFFFFFFF000, [], 0⟩,
  ⟨0xC0, 1, .rw, 0x0, 0xFFFFFFFFFFF8, [], 0⟩]

/-- The registers of the HPA page beside the common header (offsets, access, reset, writable bits, ranges, minimum privilege). -/
def regs_hpa : List RegRow := [
  ⟨0x40, 1, .rw, 0x3E8000000000000, 0xFFFFF3FF0000003F, [(63, 48, 100, 65535), (47, 44, 0, 12)], 0⟩,
  ⟨0x48, 1, .rw, 0x0, 0xFFFFFFFFF000, [], 0⟩,
  ⟨0x50, 1, .rw, 0x0, 0xFFFFFFFFFFF8, [], 0⟩,
  ⟨0x58, 1, .ro, 0x0, 0x0, [], 0⟩,
  ⟨0x60, 1, .rc, 0x0, 0x0, [], 0⟩,
  ⟨0x68, 1, .ro, 0x0, 0x0, [], 0⟩]

/-- The registers of the RDX page beside the common header (offsets, access, reset, writable bits, ranges, minimum privilege). -/
def regs_rdx : List RegRow := [
  ⟨0x40, 1, .rws, 0x12C0000010000C8, 0xFFFF000F7F0FFFFF, [(63, 48, 10, 65535), (30, 24, 1, 64), (19, 0, 10, 1000000)], 0⟩,
  ⟨0x48, 1, .rw, 0x64, 0xC30F00000000FFFF, [(57, 56, 0, 3), (15, 0, 10, 10000)], 0⟩,
  ⟨0x50, 1, .rw, 0x0, 0xFFFFFFFFFFFF, [], 0⟩,
  ⟨0x58, 1, .ro, 0x0, 0x0, [], 0⟩,
  ⟨0x60, 1, .rc, 0x0, 0x0, [], 0⟩,
  ⟨0x68, 1, .rc, 0x0, 0x0, [], 0⟩,
  ⟨0x70, 1, .rc, 0x0, 0x0, [], 0⟩,
  ⟨0x78, 1, .wo, 0x0, 0x0, [], 0⟩,
  ⟨0x80, 1, .ro, 0x0, 0x0, [], 0⟩,
  ⟨0x88, 1, .rc, 0x0, 0x0, [], 0⟩]

/-- The registers of the COL page beside the common header (offsets, access, reset, writable bits, ranges, minimum privilege). -/
def regs_col : List RegRow := [
  ⟨0x40, 1, .rw, 0x88B600C800001388, 0xFFFFFFFF000FFFFF, [(47, 32, 10, 10000), (19, 0, 100, 1000000)], 0⟩,
  ⟨0x48, 1, .rw, 0x0, 0xFFFF00000003FFFF, [(63, 48, 0, 16384)], 0⟩,
  ⟨0x50, 1, .wo, 0x0, 0x0, [], 0⟩,
  ⟨0x58, 1, .wo, 0x0, 0x0, [], 0⟩,
  ⟨0x60, 1, .ro, 0x0, 0x0, [], 0⟩,
  ⟨0x68, 1, .ro, 0x0, 0x0, [], 0⟩,
  ⟨0x70, 1, .rc, 0x0, 0x0, [], 0⟩,
  ⟨0x78, 1, .rc, 0x0, 0x0, [], 0⟩,
  ⟨0x80, 1, .rc, 0x0, 0x0, [], 0⟩,
  ⟨0x88, 1, .rc, 0x0, 0x0, [], 0⟩,
  ⟨0x90, 1, .ro, 0x0, 0x0, [], 0⟩,
  ⟨0x98, 1, .rc, 0x0, 0x0, [], 0⟩]

/-- The registers of the UPS page beside the common header (offsets, access, reset, writable bits, ranges, minimum privilege). -/
def regs_ups : List RegRow := [
  ⟨0x40, 1, .rws, 0x88B5000000000000, 0xFFFFFFFFFFFFFFFF, [], 0⟩,
  ⟨0x48, 1, .rw, 0x88B6000000000000, 0xFFFFFFFFFFFFFFFF, [], 0⟩,
  ⟨0x50, 1, .ro, 0x0, 0x0, [], 0⟩,
  ⟨0x58, 1, .rc, 0x0, 0x0, [], 0⟩,
  ⟨0x60, 1, .ro, 0x0, 0x0, [], 0⟩]

/-- The registers of the CIS page beside the common header (offsets, access, reset, writable bits, ranges, minimum privilege). -/
def regs_cis : List RegRow := [
  ⟨0x40, 1, .rw, 0x0, 0x3FFFF0003FFFF, [], 0⟩,
  ⟨0x48, 1, .rw, 0x0, 0x3FFFF0003FFFF, [], 0⟩,
  ⟨0x50, 1, .rw, 0x0, 0x7FF, [], 0⟩,
  ⟨0x58, 1, .rw, 0xC400000A00640007, 0xFF00FFFFFFFF0007, [(63, 60, 2, 15), (47, 32, 1, 10000), (31, 16, 1, 60000)], 0⟩,
  ⟨0x60, 1, .ro, 0x0, 0x0, [], 0⟩,
  ⟨0x68, 1, .rc, 0x0, 0x0, [], 0⟩,
  ⟨0x70, 1, .ro, 0x0, 0x0, [], 0⟩]

/-- The registers of the BUD page beside the common header (offsets, access, reset, writable bits, ranges, minimum privilege). -/
def regs_bud : List RegRow := [
  ⟨0x40, 1, .rw, 0x0, 0xC000FFFFFFFFFFFF, [], 0⟩,
  ⟨0x48, 1, .rw, 0x0, 0x7FFFFFFFFFFFFFF, [], 0⟩,
  ⟨0x50, 1, .rw, 0x0, 0x3FFFF0003FFFF, [], 0⟩,
  ⟨0x58, 1, .rw, 0x7D0, 0xFFFFF, [(19, 0, 100, 1000000)], 0⟩,
  ⟨0x60, 1, .wo, 0x0, 0x0, [], 0⟩,
  ⟨0x68, 1, .ro, 0x0, 0x0, [], 0⟩,
  ⟨0x70, 1, .rc, 0x0, 0x0, [], 0⟩]

/-- The registers of the MGR page beside the common header (offsets, access, reset, writable bits, ranges, minimum privilege). -/
def regs_mgr : List RegRow := [
  ⟨0x40, 1, .rw, 0x64000000000000, 0xFFFFFFFFFFFFFFFF, [(63, 48, 1, 10000)], 0⟩,
  ⟨0x48, 1, .rc, 0x0, 0x0, [], 0⟩]

/-- The registers of the UP page beside the common header (offsets, access, reset, writable bits, ranges, minimum privilege). -/
def regs_up : List RegRow := [
  ⟨0x40, 1, .rw, 0x4050000000000000, 0x7FFFFFFFFFFFFFFF, [(62, 48, 4656, 16464)], 0⟩,
  ⟨0x48, 1, .ro, 0x0, 0x0, [], 0⟩,
  ⟨0x50, 1, .rw, 0x3C100064, 0xFFFFFFFFFF, [(23, 16, 1, 255), (15, 0, 1, 60000)], 0⟩,
  ⟨0x58, 3, .rc, 0x0, 0x0, [], 0⟩,
  ⟨0x70, 1, .ro, 0x0, 0x0, [], 0⟩,
  ⟨0x78, 1, .wo, 0x0, 0x0, [], 0⟩]

/-- The registers of the STM page beside the common header (offsets, access, reset, writable bits, ranges, minimum privilege). -/
def regs_stm : List RegRow := [
  ⟨0x40, 1, .rws, 0xFE00012C00000000, 0xFF00FFFF00000000, [(47, 32, 10, 10000)], 0⟩,
  ⟨0x48, 1, .wo, 0x0, 0x0, [], 0⟩,
  ⟨0x50, 1, .ro, 0x0, 0x0, [], 0⟩,
  ⟨0x58, 1, .rc, 0x0, 0x0, [], 0⟩,
  ⟨0x60, 1, .rc, 0x0, 0x0, [], 0⟩,
  ⟨0x68, 1, .rc, 0x0, 0x0, [], 0⟩,
  ⟨0x70, 1, .ro, 0x0, 0x0, [], 0⟩,
  ⟨0x78, 1, .ro, 0x0, 0x0, [], 0⟩,
  ⟨0x80, 1, .rc, 0x0, 0x0, [], 0⟩,
  ⟨0x88, 1, .rc, 0x0, 0x0, [], 0⟩]

/-- The registers of the CAP page beside the common header (offsets, access, reset, writable bits, ranges, minimum privilege). -/
def regs_cap : List RegRow := [
  ⟨0x40, 1, .rw, 0x0, 0x3FF0000003F, [], 0⟩,
  ⟨0x48, 1, .ro, 0x0, 0x0, [], 0⟩,
  ⟨0x50, 1, .wo, 0x0, 0x0, [], 0⟩,
  ⟨0x58, 1, .wo, 0x0, 0x0, [], 0⟩,
  ⟨0x60, 1, .rc, 0x0, 0x0, [], 0⟩,
  ⟨0x68, 1, .ro, 0x0, 0x0, [], 0⟩]

/-- The registers of the HTP page beside the common header (offsets, access, reset, writable bits, ranges, minimum privilege). -/
def regs_htp : List RegRow := [
  ⟨0x40, 1, .rw, 0x6403E801000A00, 0xFFFFFFFFFFFFFF03, [(63, 48, 1, 10000), (47, 32, 10, 65535), (31, 16, 1, 65535), (15, 8, 1, 255)], 0⟩,
  ⟨0x48, 1, .rw, 0x0, 0xFFFFFFFFFFFFFFFF, [], 0⟩,
  ⟨0x50, 1, .rw, 0x0, 0x3F00FFFFFFFFF000, [(61, 56, 16, 31)], 0⟩,
  ⟨0x58, 1, .rw, 0x0, 0xFFFFFFFFFFF8, [], 0⟩,
  ⟨0x60, 1, .rw, 0x0, 0x3FF0000003F, [], 0⟩,
  ⟨0x68, 1, .rw, 0x0, 0xFFFFFFFF000F0003, [], 0⟩,
  ⟨0x70, 1, .wo, 0x0, 0x0, [], 0⟩,
  ⟨0x78, 1, .ro, 0x0, 0x0, [], 0⟩,
  ⟨0x80, 1, .ro, 0x0, 0x0, [], 0⟩,
  ⟨0x88, 1, .ro, 0x0, 0x0, [], 0⟩,
  ⟨0x90, 1, .rc, 0x0, 0x0, [], 0⟩,
  ⟨0x98, 1, .ro, 0x0, 0x0, [], 0⟩]

/-- The registers of the SCR page beside the common header (offsets, access, reset, writable bits, ranges, minimum privilege). -/
def regs_scr : List RegRow := [
  ⟨0x40, 1, .rw, 0x5A03C020302D002, 0xFFFFFF0FFFFFFF03, [(63, 48, 1, 10080), (47, 40, 1, 255), (35, 32, 1, 7), (31, 24, 1, 255), (23, 8, 1, 65535)], 2⟩,
  ⟨0x48, 1, .ro, 0x0, 0x0, [], 0⟩,
  ⟨0x50, 1, .wo, 0x0, 0x0, [], 2⟩,
  ⟨0x58, 1, .ro, 0x0, 0x0, [], 0⟩,
  ⟨0x60, 1, .rc, 0x0, 0x0, [], 0⟩,
  ⟨0x68, 1, .ro, 0x0, 0x0, [], 0⟩,
  ⟨0x70, 1, .ro, 0x0, 0x0, [], 0⟩,
  ⟨0x78, 1, .wo, 0x0, 0x0, [], 2⟩]

/-- The registers of the NVH page beside the common header (offsets, access, reset, writable bits, ranges, minimum privilege). -/
def regs_nvh : List RegRow := [
  ⟨0x40, 1, .rw, 0x3C000000000000, 0xFFFF000000000000, [(63, 48, 1, 1440)], 0⟩,
  ⟨0x48, 1, .ro, 0x0, 0x0, [], 0⟩,
  ⟨0x50, 1, .ro, 0x0, 0x0, [], 0⟩,
  ⟨0x58, 1, .rc, 0x0, 0x0, [], 0⟩,
  ⟨0x60, 1, .ro, 0x0, 0x0, [], 0⟩]

/-- The registers of the FLT page beside the common header (offsets, access, reset, writable bits, ranges, minimum privilege). -/
def regs_flt : List RegRow := [
  ⟨0x40, 1, .rw, 0xA, 0xFFFF, [(15, 0, 1, 65535)], 0⟩,
  ⟨0x48, 1, .ro, 0x0, 0x0, [], 0⟩,
  ⟨0x50, 1, .ro, 0x0, 0x0, [], 0⟩,
  ⟨0x58, 1, .ro, 0x0, 0x0, [], 0⟩,
  ⟨0x60, 1, .rc, 0x0, 0x0, [], 0⟩,
  ⟨0x68, 1, .wo, 0x0, 0x0, [], 2⟩,
  ⟨0x70, 1, .wo, 0x0, 0x0, [], 0⟩,
  ⟨0x78, 1, .ro, 0x0, 0x0, [], 0⟩,
  ⟨0x100, 32, .sc, 0xFFFFFFFFFFFFFFFF, 0xFFFFFFFFFFFFFFFF, [], 0⟩]

/-- The registers of the EVR page beside the common header (offsets, access, reset, writable bits, ranges, minimum privilege). -/
def regs_evr : List RegRow := [
  ⟨0x40, 1, .rw, 0x1000A0014, 0xFFFF03FF00FF, [(47, 32, 1, 65535), (25, 16, 1, 1000), (7, 0, 1, 255)], 0⟩,
  ⟨0x48, 1, .ro, 0x0, 0x0, [], 0⟩,
  ⟨0x50, 1, .ro, 0x0, 0x0, [], 0⟩,
  ⟨0x58, 1, .rw, 0x0, 0xFFFFFFFF, [], 0⟩,
  ⟨0x60, 1, .rc, 0x0, 0x0, [], 0⟩,
  ⟨0x68, 1, .ro, 0x0, 0x0, [], 0⟩]

/-- The registers of the IRC page beside the common header (offsets, access, reset, writable bits, ranges, minimum privilege). -/
def regs_irc : List RegRow := [
  ⟨0x40, 1, .sc, 0x1, 0x1, [], 0⟩,
  ⟨0x48, 1, .sc, 0x0, 0x1, [], 0⟩,
  ⟨0x50, 1, .sc, 0x0, 0x3F, [], 0⟩,
  ⟨0x58, 1, .sc, 0x0, 0x3F, [], 0⟩,
  ⟨0x60, 1, .sc, 0x0, 0xF, [], 0⟩,
  ⟨0x68, 1, .sc, 0x0, 0xF, [], 0⟩,
  ⟨0x70, 1, .rw, 0x0, 0x1, [], 0⟩,
  ⟨0x78, 1, .w1c, 0x0, 0x1, [], 0⟩,
  ⟨0x80, 1, .rw, 0x0, 0xFFFFFFFFFFFFFFFF, [], 0⟩,
  ⟨0x88, 1, .w1c, 0x0, 0xFFFFFFFFFFFFFFFF, [], 0⟩,
  ⟨0x90, 1, .rw, 0x0, 0xFF, [], 0⟩,
  ⟨0x98, 1, .w1c, 0x0, 0xFF, [], 0⟩,
  ⟨0xA0, 1, .rw, 0x0, 0xF, [], 0⟩,
  ⟨0xA8, 1, .w1c, 0x0, 0xF, [], 0⟩,
  ⟨0xB0, 1, .rw, 0x0, 0xFFFFFFFF, [], 0⟩,
  ⟨0xB8, 1, .w1c, 0x0, 0xFFFFFFFF, [], 0⟩,
  ⟨0xC0, 1, .rw, 0x0, 0x3, [], 0⟩,
  ⟨0xC8, 1, .w1c, 0x0, 0x3, [], 0⟩,
  ⟨0xD0, 1, .rw, 0x0, 0x300000000FFFF, [], 0⟩,
  ⟨0xD8, 1, .w1c, 0x0, 0x300000000FFFF, [], 0⟩,
  ⟨0xE0, 1, .rw, 0x0, 0xF, [], 0⟩,
  ⟨0xE8, 1, .w1c, 0x0, 0xF, [], 0⟩,
  ⟨0xF0, 1, .rw, 0x0, 0xFFFF, [], 0⟩,
  ⟨0xF8, 1, .w1c, 0x0, 0xFFFF, [], 0⟩,
  ⟨0x100, 1, .rw, 0x0, 0xF, [], 0⟩,
  ⟨0x108, 1, .w1c, 0x0, 0xF, [], 0⟩,
  ⟨0x110, 1, .rw, 0x0, 0x7, [], 0⟩,
  ⟨0x118, 1, .w1c, 0x0, 0x7, [], 0⟩,
  ⟨0x120, 1, .rw, 0x0, 0x1, [], 0⟩,
  ⟨0x128, 1, .w1c, 0x0, 0x1, [], 0⟩,
  ⟨0x130, 1, .rw, 0x0, 0xFFFFFFFFFFFFFFFF, [], 0⟩,
  ⟨0x138, 1, .rw, 0x0, 0xFFFFFFFFFFFFFFFF, [], 0⟩,
  ⟨0x140, 1, .rw, 0x70, 0xFFFF73, [], 0⟩,
  ⟨0x148, 1, .rw, 0x50, 0xFFFF73, [], 0⟩,
  ⟨0x150, 1, .rw, 0x60, 0xFFFF73, [], 0⟩,
  ⟨0x158, 1, .rw, 0x20, 0xFFFF73, [], 0⟩,
  ⟨0x160, 1, .rw, 0x20, 0xFFFF73, [], 0⟩,
  ⟨0x168, 1, .rw, 0x20, 0xFFFF73, [], 0⟩,
  ⟨0x170, 1, .rw, 0x20, 0xFFFF73, [], 0⟩,
  ⟨0x178, 1, .rw, 0x20, 0xFFFF73, [], 0⟩,
  ⟨0x180, 1, .rw, 0x20, 0xFFFF73, [], 0⟩,
  ⟨0x188, 1, .rw, 0x20, 0xFFFF73, [], 0⟩,
  ⟨0x190, 1, .rw, 0x20, 0xFFFF73, [], 0⟩,
  ⟨0x198, 1, .rw, 0x20, 0xFFFF73, [], 0⟩,
  ⟨0x1A0, 1, .rw, 0x20, 0xFFFF73, [], 0⟩,
  ⟨0x1A8, 1, .rw, 0x20, 0xFFFF73, [], 0⟩,
  ⟨0x1B0, 1, .rw, 0x20, 0xFFFF73, [], 0⟩,
  ⟨0x1B8, 1, .rw, 0x20, 0xFFFF73, [], 0⟩,
  ⟨0x1C0, 1, .rc, 0x0, 0x0, [], 0⟩,
  ⟨0x1C8, 1, .rc, 0x0, 0x0, [], 0⟩,
  ⟨0x1D0, 1, .rc, 0x0, 0x0, [], 0⟩,
  ⟨0x1D8, 1, .rc, 0x0, 0x0, [], 0⟩,
  ⟨0x1E0, 1, .wo, 0x0, 0x0, [], 0⟩,
  ⟨0x1E8, 1, .ro, 0x0, 0x0, [], 0⟩,
  ⟨0x1F0, 1, .ro, 0x0, 0x0, [], 0⟩,
  ⟨0x1F8, 1, .rc, 0x0, 0x0, [], 0⟩]

/-- The registers of the PMU page beside the common header (offsets, access, reset, writable bits, ranges, minimum privilege). -/
def regs_pmu : List RegRow := [
  ⟨0x40, 1, .rw, 0x64000000000000, 0xFFFF000000000000, [(63, 48, 10, 65535)], 1⟩,
  ⟨0x48, 1, .wo, 0x0, 0x0, [], 1⟩,
  ⟨0x50, 1, .ro, 0x0, 0x0, [], 0⟩,
  ⟨0x58, 1, .ro, 0x0, 0x0, [], 0⟩,
  ⟨0x60, 1, .wo, 0x0, 0x0, [], 1⟩,
  ⟨0x68, 1, .ro, 0x0, 0x0, [], 0⟩]

/-- The registers of the LCM page beside the common header (offsets, access, reset, writable bits, ranges, minimum privilege). -/
def regs_lcm : List RegRow := [
  ⟨0x40, 1, .ro, 0x0, 0x0, [], 0⟩,
  ⟨0x48, 1, .rw, 0x0, 0xFFFFFFFFFFFFFF, [], 0⟩,
  ⟨0x50, 1, .sc, 0x0, 0x1, [], 0⟩,
  ⟨0x58, 1, .wo, 0x0, 0x0, [], 0⟩,
  ⟨0x60, 1, .ro, 0x0, 0x0, [], 0⟩,
  ⟨0x68, 1, .rws, 0x0, 0x80000000FFFFFFFF, [], 0⟩,
  ⟨0x70, 1, .rc, 0x0, 0x0, [], 0⟩,
  ⟨0x78, 1, .ro, 0x0, 0x0, [], 0⟩]

/-- The register table of a unit's page. PKG, the MXE program window and the common header have no rows of their own here. -/
def unitRegs : UnitKind → List RegRow
  | .dir => regs_dir
  | .lcm => regs_lcm
  | .pwr => regs_pwr
  | .tkp => regs_tkp
  | .irc => regs_irc
  | .flt => regs_flt
  | .evr => regs_evr
  | .pmu => regs_pmu
  | .nvh => regs_nvh
  | .scr => regs_scr
  | .xlt => regs_xlt
  | .pmp => regs_pmp
  | .cor => regs_cor
  | .cmp => regs_cmp
  | .smp => regs_smp
  | .epr => regs_epr
  | .mxe => regs_mxe
  | .mxew => []
  | .tre => regs_tre
  | .eft => regs_eft
  | .cap => regs_cap
  | .htp => regs_htp
  | .slk => regs_slk
  | .hpa => regs_hpa
  | .pkg => []
  | .stm => regs_stm
  | .wel => regs_wel
  | .rdx => regs_rdx
  | .col => regs_col
  | .ups => regs_ups
  | .cis => regs_cis
  | .bud => regs_bud
  | .mgr => regs_mgr
  | .up => regs_up

/-- The row of a register, if the page has a register at that offset. -/
def regRow? (r : Reg) : Option RegRow :=
  (unitRegs r.unit).find? fun w => decide (w.off ≤ r.off ∧ r.off < w.off + 8 * w.cnt)

end Sys2Proof.Machine
end

