-- ==== Sys2Proof/Machine/Ops.lean ====
section
/-! DEFINITION. The named operations over the register file: keys, reset values, fields, counters, staged values, the
page map of the two roles, the clock, and what the block sends out. -/

namespace Sys2Proof.Machine

/-! ### Units and pages -/

/-- Unit type codes (Table 02-15). -/
def unitCode : UnitKind → Nat
  | .dir => 0x1 | .lcm => 0x2 | .pwr => 0x3 | .tkp => 0x4 | .irc => 0x5 | .flt => 0x6 | .evr => 0x7 | .pmu => 0x8
  | .nvh => 0x9 | .scr => 0xA | .xlt => 0xB | .pmp => 0xC | .cor => 0xD | .cmp => 0xE | .smp => 0xF | .epr => 0x10
  | .mxe => 0x11 | .mxew => 0x12 | .tre => 0x13 | .eft => 0x14 | .cap => 0x15 | .htp => 0x16 | .slk => 0x17
  | .hpa => 0x18 | .pkg => 0x19 | .stm => 0x1A | .wel => 0x1B | .rdx => 0x20 | .col => 0x21 | .ups => 0x22
  | .cis => 0x23 | .bud => 0x24 | .mgr => 0x25 | .up => 0x26

/-- The infrastructure units of pages 0x00 to 0x0D, alike in both roles (Tables 02-1, 02-2). -/
def commonPages : List UnitKind :=
  [.dir, .lcm, .pwr, .tkp, .irc, .flt, .evr, .pmu, .nvh, .scr, .xlt, .pmp, .cor, .cmp]

/-- The leaf pages 0x0E to 0x19 (Table 02-1). -/
def leafPages : List UnitKind := [.smp, .epr, .mxe, .mxew, .tre, .eft, .cap, .htp, .slk, .hpa, .pkg, .stm]

/-- The tray pages 0x34 to 0x3B (Table 02-2). -/
def trayPages : List UnitKind := [.eft, .rdx, .col, .ups, .cis, .bud, .mgr, .stm]

/-- The unit and instance of a page in a role's page map (Tables 02-1 and 02-2), none for a page that answers DECERR. -/
def pageUnit (r : Role) (p : Nat) : Option (UnitKind × Nat) :=
  if p < 0x0E then commonPages[p]?.map fun u => (u, 0)
  else match r with
  | .leaf =>
    if p < 0x1A then leafPages[p - 0x0E]?.map fun u => (u, 0)
    else if 0x40 ≤ p ∧ p < 0x70 then some (.wel, p - 0x40) else none
  | .tray =>
    if p = 0x14 then some (.cap, 0)
    else if 0x20 ≤ p ∧ p < 0x28 then some (.mxe, p - 0x20)
    else if 0x28 ≤ p ∧ p < 0x30 then some (.mxew, p - 0x28)
    else if 0x30 ≤ p ∧ p < 0x34 then some (.tre, p - 0x30)
    else if 0x34 ≤ p ∧ p < 0x3C then trayPages[p - 0x34]?.map fun u => (u, 0)
    else if 0x40 ≤ p ∧ p < 0x42 then some (.up, p - 0x40)
    else if 0x100 ≤ p ∧ p < 0x180 then some (.slk, p - 0x100) else none

/-- The place of a unit in a list of pages. -/
def pageIdx (l : List UnitKind) (u : UnitKind) : Option Nat := l.findIdx? (· == u)

/-- The page of a unit instance in a role's page map, none when the role has no such page. -/
def unitPage (r : Role) (u : UnitKind) (i : Nat) : Option Nat :=
  match pageIdx commonPages u with
  | some p => if i = 0 then some p else none
  | none =>
    match r with
    | .leaf =>
      if u = .wel then (if i < 48 then some (0x40 + i) else none)
      else if i = 0 then (pageIdx leafPages u).map (0x0E + ·) else none
    | .tray =>
      if u = .cap then (if i = 0 then some 0x14 else none)
      else if u = .mxe then (if i < 8 then some (0x20 + i) else none)
      else if u = .mxew then (if i < 8 then some (0x28 + i) else none)
      else if u = .tre then (if i < 4 then some (0x30 + i) else none)
      else if u = .up then (if i < 2 then some (0x40 + i) else none)
      else if u = .slk then (if i < 128 then some (0x100 + i) else none)
      else if i = 0 then (pageIdx trayPages u).map (0x34 + ·) else none

/-- Pages in the role's map (Table 02-19 PAGE_COUNT). -/
def pageCount : Role → Nat
  | .leaf => 128
  | .tray => 1024

/-- Whether a unit instance is fitted in the variant (R2, 02.1). -/
def Chip.fitted (c : Chip) (u : UnitKind) (i : Nat) : Bool :=
  (unitPage c.role u i).isSome &&
    (c.full || match c.role with
      | .leaf => !(u == .mxe || u == .mxew || u == .htp)
      | .tray => !((u == .mxe || u == .mxew) && decide (4 ≤ i) || u == .tre && decide (2 ≤ i) || u == .col
          || u == .slk && decide (64 ≤ i)))

/-- The variant code of `DIR_INFO` (Table 02-19). -/
def Chip.variant (c : Chip) : Nat :=
  match c.role, c.full with
  | .leaf, true => 1
  | .leaf, false => 2
  | .tray, true => 3
  | .tray, false => 4

def Chip.isTray (c : Chip) : Bool := c.role == .tray

/-! ### The register file -/

/-- The key of a register of a unit instance in the register file. -/
def regKey (r : Reg) (i : Nat) : Nat := unitCode r.unit * 16777216 + i * 4096 + r.off

/-- The key of a page. -/
def pageKey (u : UnitKind) (i : Nat) : Nat := unitCode u * 4096 + i

/-- The reset MIN_PRIV of a page (Table 02-7). -/
def resetLock : UnitKind → Nat
  | .lcm | .nvh | .scr | .slk | .hpa | .pkg | .rdx | .col | .ups | .cis | .bud | .mgr | .up => 2
  | .dir => 0
  | _ => 1

/-- The reset value of a register that depends on the variant (R393, Table 15-6), or of its table row. -/
def resetVal (c : Chip) (r : Reg) : Nat :=
  if r.off = 0x30 then resetLock r.unit
  else if r = Rg.CIS_STORE then (if c.full then 131072 else 65536) * 2 ^ 32
  else if r = Rg.CIS_SUMP then 15259 * 2 ^ 32 + (if c.full then 167334 else 75781)
  else if r = Rg.CIS_INGEST then (if c.full then 1200 else 600)
  else match regRow? r with
    | some w => w.reset
    | none => 0

/-- The value a register holds. -/
def State.reg (s : State) (r : Reg) (i : Nat := 0) : Word :=
  match s.regs.get? (regKey r i) with
  | some v => v
  | none => BitVec.ofNat 64 (resetVal s.chip r)

/-- The state with a register at a value; a register at its reset value is not listed. -/
def State.setReg (s : State) (r : Reg) (i : Nat) (v : Word) : State :=
  { s with regs := if v = BitVec.ofNat 64 (resetVal s.chip r) then s.regs.erase (regKey r i)
                   else s.regs.set (regKey r i) v }

/-- A field of a register. -/
def State.fld (s : State) (f : Fld) (i : Nat := 0) : Nat := bits (s.reg f.reg i).toNat f.hi f.lo

/-- The state with a field of a register set. -/
def State.setFld (s : State) (f : Fld) (i : Nat) (v : Nat) : State :=
  s.setReg f.reg i (BitVec.ofNat 64 (putBits (s.reg f.reg i).toNat f.hi f.lo v))

/-- Add to a counter field that saturates. -/
def State.bump (s : State) (f : Fld) (i : Nat := 0) (n : Nat := 1) : State :=
  s.setFld f i (min (s.fld f i + n) (2 ^ (f.hi + 1 - f.lo) - 1))

/-- Add to a counter field that wraps. -/
def State.bumpW (s : State) (f : Fld) (i : Nat := 0) (n : Nat := 1) : State :=
  s.setFld f i (s.fld f i + n)

/-- Add to a register that wraps at 2^64. -/
def State.addReg (s : State) (r : Reg) (i : Nat) (n : Nat) : State :=
  s.setReg r i (BitVec.ofNat 64 ((s.reg r i).toNat + n))

/-- The value an RWS register will take, or holds: the value most recently written (R39). -/
def State.stagedReg (s : State) (r : Reg) (i : Nat := 0) : Word :=
  match s.staged.get? (regKey r i) with
  | some v => v
  | none => s.reg r i

/-- The page's ENABLE bit. -/
def State.enabled (s : State) (u : UnitKind) (i : Nat := 0) : Bool := s.fld (Fd.PG_CTRL_ENABLE u) i == 1

/-- Whether a page has staged values or banks waiting for a commit (`PG_STAT.SHADOW_PENDING`). -/
def State.isMarked (s : State) (u : UnitKind) (i : Nat := 0) : Bool := s.marked.contains (pageKey u i)

/-- Whether a page is under UNIT_RESET (R51). -/
def State.inReset (s : State) (u : UnitKind) (i : Nat) : Bool := (s.resetting.get? (pageKey u i)).isSome

/-- Mark a page's staged values for commit; an armed commit takes it in (R528). -/
def State.mark (s : State) (u : UnitKind) (i : Nat := 0) : State :=
  have s := { s with marked := if s.isMarked u i then s.marked else pageKey u i :: s.marked }
  if s.fld Fd.LCM_STATE_CSTATE = 1 ∧ s.fld (Fd.PG_CTRL_COMMIT_MODE u) i = 0 then
    (s.setFld (Fd.PG_SHADOW_VALID u) i 1).setFld (Fd.PG_SHADOW_EPOCH u) i (s.fld Fd.LCM_COMMIT_TARGET)
  else s

/-- Drop every staged value of a page and its mark (R51). -/
def State.unstage (s : State) (u : UnitKind) (i : Nat) : State :=
  let lo := regKey ⟨u, 0⟩ i
  { s with
    staged := s.staged.drop fun k => decide (lo ≤ k ∧ k < lo + 4096)
    marked := s.marked.filter (· != pageKey u i) }.setReg (Rg.PG_SHADOW u) i 0

/-- Return a page's registers at 0x040 to 0xFFF to their reset values (R51). -/
def State.resetRegs (s : State) (u : UnitKind) (i : Nat) : State :=
  let lo := regKey ⟨u, 0⟩ i
  { s with regs := s.regs.drop fun k => decide (lo + 0x40 ≤ k ∧ k < lo + 4096) }

/-! ### Block state read by many units -/

def State.isTray (s : State) : Bool := s.chip.isTray

/-- `DIR_STATE.TIME_VALID` (Table 04-1): TKP is LOCKED or in HOLDOVER. -/
def State.timeValid (s : State) : Bool := decide (2 ≤ s.fld Fd.TKP_STATE_STATE)

/-- `DIR_STATE.PRIMED`: the fast domain is up; a tray is primed from the end of boot (R69). -/
def State.primed (s : State) : Bool :=
  if s.isTray then s.lcm.bootDone else decide (s.fld Fd.PWR_STATE_STATE = 3 ∨ s.fld Fd.PWR_STATE_STATE = 4)

/-- The current epoch index, 0 while there is no valid time (Table 02-21). -/
def State.epochNow (s : State) : Nat := if s.timeValid then s.tkp.epoch else 0

/-- TKP time in 2^-16 ns. -/
def State.now (s : State) : Nat := s.tkp.t / 2 ^ 32

/-- `NODE_ID` of `DIR_NODE`. -/
def State.nodeId (s : State) : Nat := s.fld Fd.DIR_NODE_NODE_ID

/-- The job in force: `JOB_ID` and `JOB_GEN` of the active `LCM_JOB`, 0 while it is not valid (R531). -/
def State.job (s : State) : Nat × Nat :=
  if s.fld Fd.LCM_JOB_VALID = 1 then (s.fld Fd.LCM_JOB_JOB_ID, s.fld Fd.LCM_JOB_JOB_GEN) else (0, 0)

/-- The TIME_HOLDOVER flag condition (R89). -/
def State.holdover (s : State) : Bool :=
  s.fld Fd.TKP_STATE_STATE == 3 || s.fld Fd.TKP_STATE_UPSTREAM_HOLDOVER == 1

/-! ### What PMU counts -/

/-- Count in an always-on item of the epoch that runs (Table 20-5). -/
def State.item (s : State) (k : Nat) (n : Nat := 1) : State :=
  { s with pmu := { s.pmu with cur := s.pmu.cur.set k (s.pmu.cur.getD k 0 + n) } }

/-- Count in a fixed byte counter (Table 20-4). -/
def State.bytes (s : State) (k n : Nat) : State :=
  { s with pmu := { s.pmu with bytes := s.pmu.bytes.set k ((s.pmu.bytes.getD k 0 + n) % 2 ^ 64) } }

/-- Whether a programmable counter is enabled for an event of a unit instance (R502). -/
def PCtr.counts (c : PCtr) (u : UnitKind) (i e : Nat) : Bool :=
  c.cfg.getLsbD 63 && decide (bits c.cfg.toNat 47 32 = unitCode u ∧ bits c.cfg.toNat 15 0 = e) &&
    decide (bits c.cfg.toNat 31 24 = 0xFF ∨ bits c.cfg.toNat 31 24 = i)

/-- `n` occurrences of an event of Table 20-2. -/
def State.ev (s : State) (u : UnitKind) (i e : Nat) (n : Nat := 1) : State :=
  { s with pmu := { s.pmu with
      ctrs := s.pmu.ctrs.mapV fun _ c => if c.counts u i e then { c with val := (c.val + n) % 2 ^ 64 } else c } }

/-! ### The clock -/

/-- INC of R85 in 2^-48 ns: what one AON edge adds to TKP time. -/
def State.inc (s : State) : Nat :=
  wrapI (10 * (2 ^ 48 : Nat) + 2560 * sext (s.fld Fd.TKP_RATE_RATE) 30) 64

/-- The modulus of TKP time: 2^48 seconds in 2^-48 ns (R9). -/
def timeMod : Nat := 2 ^ 48 * 1000000000 * 2 ^ 48

/-- AON cycles in a microsecond, a millisecond and a minute. -/
def cyUs : Nat := 100
def cyMs : Nat := 100000
def cyMin : Nat := 6000000000

/-- `n` AON edges pass: TKP time advances by INC at each (R85); `PWR_PRIMED_TIME`, the PMU items 0 and 1 and the operating
minutes count (Tables 03-8, 20-5, R465). -/
def State.advance (s : State) (n : Nat) : State :=
  let st := s.fld Fd.PWR_STATE_STATE
  let up := s.isTray = false ∧ (st = 2 ∨ st = 3 ∨ st = 4)
  have s := if up then (s.addReg Rg.PWR_PRIMED_TIME 0 n).item 1 n else s
  let m := (s.aon + n - s.nvh.minuteAt) / cyMin
  { s.item 0 n with
    aon := s.aon + n
    tkp := { s.tkp with t := (s.tkp.t + n * s.inc) % timeMod }
    nvh := { s.nvh with st := { s.nvh.st with opMinutes := s.nvh.st.opMinutes + m }, minuteAt := s.nvh.minuteAt + m * cyMin } }

/-- The clock moves on to AON edge `e` if that edge still lies ahead: a timer's expiry happens at its instant. -/
def State.reach (s : State) (e : Nat) : State := s.advance (e - s.aon)

/-- Fast cycles in an AON cycle (04.1): 18, 15, 12 or 9 by the DVFS point, 20 on a tray. -/
def State.fastRatio (s : State) : Nat :=
  if s.isTray then 20 else match s.fld Fd.PWR_STATE_POINT with | 0 => 18 | 1 => 15 | 2 => 12 | _ => 9

/-- The time of fast cycle `k` after an AON edge whose time is `t` in 2^-48 ns, in 2^-16 ns (R87, R113). -/
def fastTime (t inc m k : Nat) : Nat := (t + k * inc / m) / 2 ^ 32

/-- A stamp of a fast-domain unit (R87): which fast cycle of the AON cycle it falls in is a free value (log entry 111). -/
def State.fastStamp (s : State) : Nat × State :=
  (fastTime s.tkp.t s.inc s.fastRatio ((Config.freeWord s.free).toNat % s.fastRatio), { s with free := s.free + 1 })

/-- The AON edges until TKP time is at or after `u` (in 2^-16 ns). -/
def State.edgesTo (s : State) (u : Nat) : Nat :=
  if u * 2 ^ 32 ≤ s.tkp.t then 0 else ceilDiv (u * 2 ^ 32 - s.tkp.t) s.inc

/-- The clock moves on to the first AON edge whose timestamp is at or after `u`. -/
def State.reachTime (s : State) (u : Nat) : State := s.advance (s.edgesTo u)

/-- The AON edges that pass while TKP time stays at or before `u` (in 2^-16 ns). -/
def State.edgesBefore (s : State) (u : Nat) : Nat :=
  if u * 2 ^ 32 < s.tkp.t ∨ s.inc = 0 then 0 else (u * 2 ^ 32 - s.tkp.t) / s.inc

/-- The clock moves on to the last AON edge whose timestamp is at or before `u`. -/
def State.reachBefore (s : State) (u : Nat) : State := s.advance (s.edgesBefore u)

/-- 10 ns in 2^-16 ns. -/
def units10ns : Nat := 10 * 65536

/-! ### The epoch grid (04.7) -/

/-- The fleet origin in 2^-16 ns, from `TKP_ORIGIN`. -/
def State.origin (s : State) : Nat :=
  ofTime96 ((s.reg Rg.TKP_ORIGIN_LO).toNat + bits (s.reg Rg.TKP_ORIGIN_HI).toNat 31 0 * 2 ^ 64)

/-- `EPOCH_LEN` in 2^-16 ns. -/
def State.epochLen (s : State) : Nat := s.fld Fd.TKP_EPOCH_CFG_LEN_10US * 10000 * 65536

/-- The boundary instant into epoch `n`. -/
def State.boundary (s : State) (n : Nat) : Nat := s.origin + n * s.epochLen

/-- The index of the epoch that contains time `u` (R12). -/
def State.epochOf (s : State) (u : Nat) : Nat :=
  if u < s.origin ∨ s.epochLen = 0 then 0 else (u - s.origin) / s.epochLen

/-! ### Going out, and values the manual leaves open -/

/-- Something the block drives out of itself. -/
def State.emit (s : State) (o : Out) : State := { s with outbox := s.outbox ++ [o] }

/-- The next free value, and the state that has used it. -/
def State.draw (s : State) : Word × State := (Config.freeWord s.free, { s with free := s.free + 1 })

/-- Bytes the manual does not fix: free values. -/
def State.freeBytes (s : State) (n : Nat) : Bytes × State :=
  (((List.range ((n + 7) / 8)).flatMap fun k => leBytes 8 (Config.freeWord (s.free + k)).toNat).take n,
   { s with free := s.free + (n + 7) / 8 })

end Sys2Proof.Machine
end

