-- ==== Sys2Proof/Machine/Flags.lean ====
section
/-! DEFINITION. The flag computations: `PG_ERR` and its first cause (R52), the attention of the recorded faults (R40, R41),
and `RSTAT` (Table 00-7). -/

namespace Sys2Proof.Machine

/-- The six flags of `PG_ERR` (Table 02-13). -/
inductive ErrFlag where
  | badValue | denied | aliased | width | unit | winBusy
  deriving DecidableEq, Repr

/-- The bit of a flag in `PG_ERR`. -/
def ErrFlag.pos : ErrFlag → Nat
  | .badValue => 0
  | .denied => 1
  | .aliased => 2
  | .width => 3
  | .unit => 4
  | .winBusy => 5

/-- A value of `PG_ERR` with a flag set by the access at `off`: FIRST_OFFSET, and for a UNIT flag UNIT_CAUSE, are
captured only while all six flags are clear (R52). -/
def pgErrSet (e : Nat) (f : ErrFlag) (off cause : Nat) : Nat :=
  let e := if bits e 5 0 = 0 then putBits e 35 24 off else e
  let e := if f = .unit ∧ bits e 5 0 = 0 then putBits e 23 16 cause else e
  putBits e f.pos f.pos 1

/-- The state with a `PG_ERR` flag of a page set. -/
def State.pgErr (s : State) (u : UnitKind) (i : Nat) (f : ErrFlag) (off : Nat) (cause : Nat := 0) : State :=
  s.setReg (Rg.PG_ERR u) i (BitVec.ofNat 64 (pgErrSet (s.reg (Rg.PG_ERR u) i).toNat f off cause))

/-- A W1C write of `PG_ERR` (R52): FIRST_OFFSET and UNIT_CAUSE return to 0 when all six flags are clear. -/
def pgErrClear (e d : Nat) : Nat :=
  let left := Nat.land (bits e 5 0) (63 - bits d 5 0)
  if left = 0 then 0 else putBits e 5 0 left

/-- The attention a fault level gives (R40). -/
def attnOf (level : Nat) : Nat :=
  if level = 2 then 1 else if level = 3 then 2 else if 4 ≤ level then 3 else 0

/-- The level of a source that a reply formed at edge `now` shows: a fault recorded at an edge shows from two edges after it (R41). -/
def Src.shownAt (r : Src) (now : Nat) : Nat :=
  r.rises.foldl (fun lev x => if x.1 + 2 ≤ now then x.2 else lev) r.shown

/-- The attention one source shows in a reply formed at edge `now`. -/
def Src.attn (r : Src) (now : Nat) : Nat := if r.active && !r.acked then attnOf (r.shownAt now) else 0

/-- The highest attention of a list of sources. -/
def attnMax (now : Nat) : SMap Src → Nat
  | [] => 0
  | (_, r) :: l => max (r.attn now) (attnMax now l)

/-- FAULTED as replies show it, two edges after the fault (R41, R483). -/
def State.faultedShown (s : State) : Bool := s.flt.faulted && decide (s.flt.faultedEdge + 2 ≤ s.aon)

/-- `RSTAT.ATTN` (R40). -/
def State.attn (s : State) : Nat := if s.faultedShown then 3 else attnMax s.aon s.flt.srcs

/-- The response codes (Table 00-7). -/
inductive Code where
  | okay | absent | denied | retry | decerr | chkerr | timeout
  deriving DecidableEq, Repr

/-- The number of a response code. -/
def Code.num : Code → Nat
  | .okay => 0
  | .absent => 1
  | .denied => 2
  | .retry => 3
  | .decerr => 4
  | .chkerr => 5
  | .timeout => 6

/-- `RSTAT` of a reply formed now (Table 00-7, R40 to R42). -/
def State.rstat (s : State) (c : Code) : BitVec 8 :=
  BitVec.ofNat 8 (b2n s.faultedShown * 128 + s.epochNow % 2 * 64 + s.attn * 16 + c.num)

/-- RCHK of a reply (R31). -/
def replyCheck (rdata : Word) (rstat : BitVec 8) : BitVec 8 :=
  BitVec.ofNat 8 (crc8 (leBytes 8 rdata.toNat ++ leBytes 1 rstat.toNat))

/-- The control word of a request (R30). -/
def controlWord (addr : BitVec 22) (write size32 : Bool) (priv : BitVec 2) : Nat :=
  addr.toNat + b2n write * 2 ^ 22 + b2n size32 * 2 ^ 23 + priv.toNat * 2 ^ 24

/-- The request check of an access (R30): over the control word and, for a write, over WDATA. -/
def requestCheck (a : Access) : BitVec 8 :=
  BitVec.ofNat 8 (crc8 (leBytes 4 (controlWord a.addr a.write a.size32 a.priv) ++
    if a.write then leBytes 8 a.wdata.toNat else []))

end Sys2Proof.Machine
end

