-- ==== Sys2Proof/Machine/Sources.lean ====
section
/-! DEFINITION. The FLT sources: their numbers, names and default severities (R477, R547, Tables 19-1a and 19-1b). -/

namespace Sys2Proof.Machine

/-! ### The sources -/

/-- The sources of a unit type in LOCAL order: name and default severity (Table 19-1a). -/
def sources : UnitKind → List (String × Nat)
  | .dir => [("PORT_TIMEOUT", 2)]
  | .lcm => [("LCM_COMMIT", 3), ("STRAP_BAD", 3)]
  | .pwr => [("PRIME_FAIL", 4), ("FAST_RAIL", 5)]
  | .tkp => [("TIME_RANGE", 3), ("TIME_HOLDOVER", 2), ("TIME_JUMP", 3), ("EPOCH_GRID", 3), ("EPOCH_LIMIT", 4)]
  | .irc => [("IRC_STACK", 3)]
  | .nvh => [("NVH_NOR", 3), ("NV_BAD", 3)]
  | .scr => [("SCR_BUNDLE", 3), ("SCR_FAIL", 2), ("SCR_DEGRADE", 3), ("SCR_SRAM", 4)]
  | .xlt => [("XLT_FAULT_TMO", 3)]
  | .pmp => [("PMP_BAD_DESC", 2), ("PMP_HOST_ERR", 3), ("PMP_MEM_UNCORR", 3), ("PMP_HALT", 3)]
  | .cor => [("COR_MEM_UNCORR", 3), ("COR_AUTH", 3), ("COR_HALT", 3), ("COR_WDOG", 3)]
  | .cmp => [("CMP_STAGE_OVF", 2), ("CMP_MEM_UNCORR", 3), ("CMP_DEC_FMT", 2), ("CMP_DEC_CRC", 3)]
  | .smp => [("PLAN_REJECT", 3), ("SMP_OVERRUN", 2)]
  | .epr => [("EPR_REJECT", 3)]
  | .mxe => [("ARITH_SAT", 2), ("ARITH_CLIP", 1), ("ARITH_LOSS", 1), ("ARITH_FMT", 2), ("ARITH_RANGE", 2),
      ("MXE_SENTINEL", 4), ("MXE_OVERRUN", 2), ("MXE_RUN_FAULT", 3), ("MXE_MEM_UNCORR", 3)]
  | .tre => [("TRE_OVERRUN", 2), ("TRE_RUN_FAULT", 3), ("TRE_MEM_UNCORR", 3)]
  | .eft => [("EFT_FULL", 2), ("EFT_MEM_UNCORR", 3)]
  | .cap => [("CAP_GAP", 2), ("CAP_UPLOAD_FAIL", 3)]
  | .htp => [("HTP_LOST_SOURCE", 2), ("HTP_OVERFLOW", 1), ("HTP_STALL_LIMIT", 2)]
  | .slk => [("SLK_ID_CONFLICT", 3), ("SLK_DOWN", 1), ("SLK_PROTO", 1), ("SLK_QUARANTINE", 3)]
  | .rdx => [("RDX_REC_REJECT", 2), ("RDX_STALE", 1), ("RDX_MISSING", 1), ("RDX_XRF_REJECT", 2), ("RDX_REJECT", 3)]
  | .col => [("COL_FRAME", 1), ("COL_MISMATCH", 3), ("COL_STALLED", 2), ("COL_MEM_UNCORR", 3)]
  | .ups => [("UPS_RESV_DROP", 3)]
  | .cis => [("CIS_SUMP_FULL", 3), ("CIS_SATURATED", 2)]
  | .bud => [("BUD_MIRROR_DOWN", 2), ("BUD_STATE_LOST", 3)]
  | .up => [("UP_PROTO", 1), ("UP_QUARANTINE", 3)]
  | .wel => [("WELL_STALE", 2), ("WELL_SKEW", 1)]
  | .flt | .evr | .pmu | .mxew | .hpa | .pkg | .stm | .mgr => []

/-- The first source number of a unit instance (Table 19-1b). -/
def srcBase (r : Role) (u : UnitKind) (i : Nat) : Option Nat :=
  match u with
  | .dir => some 0 | .lcm => some 1 | .pwr => some 3 | .tkp => some 5 | .irc => some 10 | .nvh => some 11
  | .scr => some 13 | .xlt => some 17 | .pmp => some 18 | .cor => some 22 | .cmp => some 26
  | _ => match r with
  | .leaf => match u with
    | .smp => some 30 | .epr => some 32 | .mxe => some 33 | .tre => some 42 | .eft => some 45 | .cap => some 47
    | .htp => some 49 | .slk => some 52 | .wel => some (56 + 2 * i) | _ => none
  | .tray => match u with
    | .cap => some 30 | .mxe => some (32 + 9 * i) | .tre => some (104 + 3 * i) | .eft => some 116 | .rdx => some 118
    | .col => some 123 | .ups => some 127 | .cis => some 128 | .bud => some 130 | .up => some (132 + 2 * i)
    | .slk => some (136 + 4 * i) | _ => none

/-- Every unit instance that has sources, in page order (R547). -/
def srcUnits (r : Role) : List (UnitKind × Nat) :=
  (List.range (pageCount r)).filterMap fun p =>
    match pageUnit r p with
    | some (u, i) => if (sources u).isEmpty then none else some (u, i)
    | none => none

/-- The unit, instance and LOCAL of a source number, none for an unassigned one. -/
def srcOf (r : Role) (n : Nat) : Option (UnitKind × Nat × Nat) :=
  (srcUnits r).findSome? fun (u, i) =>
    match srcBase r u i with
    | some b => if b ≤ n ∧ n < b + (sources u).length then some (u, i, n - b) else none
    | none => none

/-- Fault sources of a role (`PG_CAP.SOURCES`). -/
def srcCount : Role → Nat
  | .leaf => 256
  | .tray => 2048

/-- The default severity of a source. -/
def srcSev (r : Role) (n : Nat) : Nat :=
  match srcOf r n with
  | some (u, _, l) => (((sources u)[l]?).map (·.2)).getD 0
  | none => 0

/-- A source at rest (R484, R486). -/
def Src.rest (sev : Nat) : Src :=
  { sev, escCap := if sev = 5 then 5 else 4, cur := sev, active := false, acked := true, stopping := false, count := 0
    episode := 0, detail := 0, time := 0, epoch := 0, quietEnd := 0, rises := [], shown := 0, nvMin := none }

/-- A source's state. -/
def State.src (s : State) (n : Nat) : Src := s.flt.srcs.getD n (Src.rest (srcSev s.chip.role n))

def State.setSrc (s : State) (n : Nat) (r : Src) : State := { s with flt := { s.flt with srcs := s.flt.srcs.set n r } }

end Sys2Proof.Machine
end

