-- ==== Sys2Proof/Machine/Operands.lean ====
section
/-! DEFINITION. The operand forms of a register access: address decode (R28, R29), the one check every access goes
through (R30 to R45, R54), the reply, the plain write of a register, and the table window (R56 to R58, R75). -/

namespace Sys2Proof.Machine

/-- The pages whose registers at 0xC00 to 0xFFF are a table window (02.8). -/
def hasWindow : UnitKind → Bool
  | .dir | .pwr | .irc | .hpa | .pkg | .bud | .up => false
  | _ => true

/-- The fast-domain units with a window (Table 03-1, R75). -/
def fastUnit : UnitKind → Bool
  | .cor | .pmp | .xlt | .cmp | .mxe | .mxew | .tre | .eft | .cap | .htp | .scr => true
  | _ => false

/-- The pages that take writes while the block is FAULTED (R38). -/
def faultedWritable : UnitKind → Bool
  | .dir | .lcm | .flt | .evr | .irc => true
  | _ => false

/-- The common header and the window as register rows (Tables 02-8 and 02-17). -/
def headerRow? (u : UnitKind) (off : Nat) : Option RegRow :=
  if off = 0x00 ∨ off = 0x08 ∨ off = 0x18 ∨ off = 0x28 then some ⟨off, 1, .ro, 0, 0, [], 0⟩
  else if off = 0x10 then some ⟨off, 1, .rw, 0, 0xF, [], 0⟩
  else if off = 0x20 then some ⟨off, 1, .w1c, 0, 0x3F, [], 0⟩
  else if off = 0x30 then some ⟨off, 1, .rw, resetLock u, 0x10003, [], 0⟩
  else if off = 0x38 then some ⟨off, 1, .rw, 0, 0xFFFFFFFFFFFFFFFF, [], 0⟩
  else if hasWindow u = false then none
  else if off = 0xC00 then some ⟨off, 1, .rw, 0, 0xFFFFFFFF0000FFFF, [], 0⟩
  else if off = 0xC08 then some ⟨off, 1, .ro, 0, 0, [], 0⟩
  else if 0xC10 ≤ off ∧ off < 0xD40 then some ⟨off, 1, .rw, 0, 0xFFFFFFFFFFFFFFFF, [], 0⟩
  else none

/-- The row of the register at an offset of a page. -/
def rowAt? (u : UnitKind) (off : Nat) : Option RegRow :=
  match headerRow? u off with
  | some r => some r
  | none => regRow? ⟨u, off⟩

/-- The access type of the register at an offset. -/
def accAt (u : UnitKind) (off : Nat) : Option AccType := (rowAt? u off).map (·.acc)

/-- Registers that read 0 and take no write in one of the roles: on a tray those of PWR but `PWR_STATE` (R82) and
`CMP_OUT_CFG` (R162); on a leaf `TKP_PTP_CFG` (R108), `SLK_ALT_*` (R334), `STM_CFG`, whose fields are all the tray's (R431), and
`FLT_ACK4` to `FLT_ACK31`, which are reserved there (R481). -/
def roleHidden (tray : Bool) (u : UnitKind) (off : Nat) : Bool :=
  match u with
  | .pwr => tray && decide (0x48 ≤ off ∧ off ≤ 0x88)
  | .cmp => tray && off == 0x48
  | .tkp => !tray && off == 0xB8
  | .slk => !tray && decide (0xB0 ≤ off ∧ off ≤ 0xC0)
  | .stm => !tray && off == 0x40
  | .flt => !tray && decide (0x120 ≤ off ∧ off < 0x200)
  | _ => false

/-- A register has the SET and CLR aliases (R53, R54). -/
def hasAlias (tray : Bool) (u : UnitKind) (off : Nat) : Bool :=
  accAt u off == some .sc && decide (0x40 ≤ off) && !roleHidden tray u off

/-- The base offset and the alias (0 none, 1 SET, 2 CLR) of an 8-byte aligned offset (R54). -/
def aliasOf (off : Nat) : Nat × Nat :=
  if 0x400 ≤ off ∧ off < 0x800 then (off - 0x400, 1)
  else if 0x800 ≤ off ∧ off < 0xC00 then (off - 0x800, 2) else (off, 0)

/-- Whether the register at an offset takes 32-bit accesses in a direction (Table 02-4a). -/
def half32 (u : UnitKind) (off : Nat) (write : Bool) : Bool :=
  off == 0x38 ||
  (hasWindow u && decide (0xC10 ≤ off ∧ off < 0xD40)) ||
  (!write && (decide (off = 0 ∨ off = 8 ∨ off = 0x18 ∨ off = 0x28) || (hasWindow u && off == 0xC08) ||
    (u == .dir && decide (off = 0x40 ∨ off = 0x50 ∨ 0x80 ≤ off ∧ off < 0x180))))

/-! ### The unit in service -/

/-- The SCR_DEGRADED bit of a unit instance (Table 18-2), for the units whose page it degrades. -/
def degradeCode (u : UnitKind) (i : Nat) : Option Nat :=
  match u with
  | .mxe | .mxew => some i
  | .tre => some (8 + i)
  | _ => none

/-- The unit on a page is degraded (R63, R463). -/
def State.degraded (s : State) (u : UnitKind) (i : Nat) : Bool :=
  match degradeCode u i with
  | some c => (s.reg Rg.SCR_DEGRADED).getLsbD c
  | none => false

/-! ### The checks of an access -/

/-- Whether a read of this offset is open to every privilege (R44). -/
def openRead (off : Nat) (write : Bool) : Bool :=
  !write && decide (off = 0x00 ∨ off = 0x08 ∨ off = 0x10 ∨ off = 0x18)

/-- What the PMU page takes at PRIV U (R505): reads of its header, `PMU_STAT` and the window, writes of the window. -/
def pmuUser (off : Nat) (write : Bool) : Bool :=
  decide (0xC00 ≤ off) || (!write && decide (off < 0x40 ∨ off = 0x50))

/-- The checks that hold on every page: PRIV 3 (R43), F on a port that does not take it (R18, R521), U on the management
path (R64). -/
def State.pathOk (s : State) (p : Path) (priv : Nat) : Bool :=
  decide (priv < 3) &&
  (match p with
    | .host => priv < 2 || s.isTray && decide (s.lcm.lcState < 2)
    | .mgmt => decide (1 ≤ priv)
    | .core _ => true)

/-- The page's privilege check: the page and register minimum (R44) and the PMU page's own rule (R505). -/
def State.privOk (s : State) (priv : Nat) (u : UnitKind) (i off : Nat) (write : Bool) : Bool :=
  (u != .pmu || priv != 0 || pmuUser off write) &&
  (openRead off write ||
    decide (s.fld (Fd.PG_LOCK_MIN_PRIV u) i ≤ priv ∧ ((rowAt? u off).map (·.minPriv)).getD 0 ≤ priv))

/-- A write refused by a rule of the register itself: `PG_LOCK` (R46, R47; DIR's ignores every write, R48), an RWS register under COMMIT_MODE DIRECT while
enabled (Table 02-11), `DIR_NODE` outside PROVISIONED (R61), a core's write to the COR page (R257). -/
def State.ownRefusal (s : State) (p : Path) (priv : Nat) (u : UnitKind) (i off : Nat) (d : Word) : Bool :=
  (off == 0x30 && u != .dir && (decide (priv < 1) || decide (priv < s.fld (Fd.PG_LOCK_MIN_PRIV u) i) ||
    s.fld (Fd.PG_LOCK_FREEZE u) i == 1 || (d.getLsbD 16 && decide (priv < 2)))) ||
  (accAt u off == some .rws && s.fld (Fd.PG_CTRL_COMMIT_MODE u) i == 2 && s.enabled u i) ||
  (u == .dir && off == 0x48 && s.lcm.lcState != 1) ||
  (u == .cor && match p with | .core _ => true | _ => false)

/-- The commit window is open (R39, R529). -/
def State.inWindow (s : State) : Bool := s.lcm.windowEnd.isSome

/-- A write that answers RETRY in the commit window (R39): an RWS register, an LCM commit control, UNIT_RESET. A write of `PG_CTRL` with
COMMIT_MODE 3 sets nothing (Table 02-11) and so does not set UNIT_RESET either (DEDUCED, log entry 110). -/
def State.retries (s : State) (u : UnitKind) (off : Nat) (d : Word) : Bool :=
  s.inWindow && (accAt u off == some .rws || (u == .lcm && decide (off = 0x48 ∨ off = 0x50)) ||
    (off == 0x10 && d.getLsbD 1 && decide (bits d.toNat 3 2 ≠ 3)))

/-- The least privilege of a WRITE of FLT's source table (R484): F where FATAL is set or taken away. -/
def State.srcMin (s : State) (idx : Nat) : Nat :=
  let d := (s.reg ((Rg.TBL_DATA .flt).nth 0) 0).toNat
  if bits d 58 56 = 5 ∨ bits d 50 48 = 5 ∨ (s.src idx).sev = 5 then 2 else 0

/-- The least privilege of a window command, where it is above the page's (R44): ASYM, a FATAL severity (R484), a bundle. -/
def State.tableMin (s : State) (u : UnitKind) (t op k : Nat) : Nat :=
  match u, t, op with
  | .tkp, 1, 2 => 2
  | .flt, 0, 2 => s.srcMin k
  | .scr, 0, 5 => 2
  | _, _, _ => 0

/-- A write of `TBL_CMD` below the register-level minimum of the command it starts (R44). -/
def State.cmdRefused (s : State) (priv : Nat) (u : UnitKind) (off : Nat) (d : Word) : Bool :=
  hasWindow u && off == 0xC00 && decide (bits d.toNat 7 0 ≠ 0) &&
    decide (priv < s.tableMin u (bits d.toNat 15 8) (bits d.toNat 7 0) (bits d.toNat 63 32))

/-- An access to an alias offset whose base has no aliases (R54). -/
def State.badAlias (s : State) (u : UnitKind) (off : Nat) : Bool :=
  let al := aliasOf (off / 8 * 8)
  al.2 != 0 && !hasAlias s.isTray u al.1

/-- A width or alignment breach (R7, R34, Table 02-3). -/
def badWidth (a : Access) (u : UnitKind) (off : Nat) : Bool :=
  let al := aliasOf (off / 8 * 8)
  decide (off % 4 ≠ 0) || (!a.size32 && decide (off % 8 ≠ 0)) || (a.size32 && (al.2 != 0 || !half32 u al.1 a.write))

/-- An access refused for privilege or state: its path (R43), the page and register minimums (R44), FAULTED (R38), the register's own
rule. An alias that is none has no register behind it. -/
def State.denied (s : State) (a : Access) (u : UnitKind) (i off : Nat) : Bool :=
  let base := if s.badAlias u off then off / 8 * 8 else (aliasOf (off / 8 * 8)).1
  let priv := a.priv.toNat
  !s.pathOk a.path priv || !s.privOk priv u i base a.write ||
    (a.write && (s.flt.faulted && !faultedWritable u ||
      (!s.badAlias u off && (s.ownRefusal a.path priv u i base a.wdata || s.cmdRefused priv u base a.wdata))))

/-- The `PG_ERR` flags of a refused access: one for each breach there is (R45, R54, Table 02-13; DEDUCED, log entry 10). -/
def State.breaches (s : State) (a : Access) (u : UnitKind) (i off : Nat) : List ErrFlag :=
  (if s.denied a u i off then [.denied] else []) ++ (if s.badAlias u off then [.aliased] else []) ++
    if badWidth a u off then [.width] else []

/-- What the page finds wrong with an access: the response code (R36) and, for DENIED, its `PG_ERR` flags. -/
def State.refusal (s : State) (a : Access) (u : UnitKind) (i off : Nat) : Option (Code × List ErrFlag) :=
  let base := (aliasOf (off / 8 * 8)).1
  if s.breaches a u i off ≠ [] then some (.denied, s.breaches a u i off)
  else if a.write ∧ s.retries u base a.wdata then some (.retry, [])
  else none

/-! ### Replies and violations -/

/-- The reply to the access in hand (Table 02-4). PMU item 15 counts it. -/
def State.answer (s : State) (c : Code) (d : Word) : State :=
  have s := s.item 15
  let d := if c = .okay then d else 0
  let r := s.rstat c
  { s with reply := some ⟨d, r, replyCheck d r⟩ }

/-- A violation: its `DIR_VIOL` counter and `DIR_LAST_VIOL` (Table 02-22, R33, R45, R54). -/
def State.violation (s : State) (f : Fld) (c : Code) (a : Access) : State :=
  let path := match a.path with | .mgmt => 1 | _ => 0
  (s.bump f).setReg Rg.DIR_LAST_VIOL 0 (BitVec.ofNat 64
    (2 ^ 63 + c.num * 2 ^ 26 + a.priv.toNat * 2 ^ 24 + path * 2 ^ 23 + b2n a.write * 2 ^ 22 + a.addr.toNat))

/-- A refused access: flags, counters, answer (R45, R54). An alias violation counts in ALIAS_CNT only (Table 02-22). -/
def State.refuse (s : State) (a : Access) (u : UnitKind) (i off : Nat) (c : Code) (fs : List ErrFlag) : State :=
  if c = .denied then
    ((fs.foldl (fun s f => s.pgErr u i f off) s).violation
      (if fs.contains .aliased then Fd.DIR_VIOL_ALIAS_CNT else Fd.DIR_VIOL_DENIED_CNT) c a).answer c 0
  else s.answer c 0

/-- Whether a request on the host port stands behind one that is not answered yet: each takes effect before the next is decoded, and
replies leave in the order of acceptance (R32). -/
def State.behind (s : State) (a : Access) : Bool := a.path == .host && s.waiting.any fun w => w.1.path == .host

/-- Whether the access has to wait: its page is under UNIT_RESET and the offset is not in the header (R51), or it stands behind
another. -/
def State.mustWait (s : State) (a : Access) (u : UnitKind) (i off : Nat) : Bool :=
  (s.inReset u i && decide (0x40 ≤ off)) || s.behind a

/-- Requests the host port holds at once (R32). -/
def hostMax : Nat := 8

/-- An access is put off. The port holds at most 8 requests, the one in hand among them; it does not accept another (DESIGN CHOICE,
log entry 14). -/
def State.putOff (s : State) (a : Access) : State :=
  if a.path = .host ∧ hostMax ≤ (s.waiting.filter fun w => w.1.path == .host).length then { s with reply := none }
  else { s with waiting := s.waiting ++ [(a, s.aon)], reply := none }

/-- What an accepted access does: the response code it still may choose, the data it returns, the state it leaves. -/
structure AccOut where
  st   : State
  code : Code
  data : Word

/-- An OKAY answer without data. -/
def State.okay (s : State) : AccOut := ⟨s, .okay, 0⟩

/-- An OKAY answer with data. -/
def State.gives (s : State) (d : Word) : AccOut := ⟨s, .okay, d⟩

/-- A DENIED answer of a register's own rule. -/
def State.denies (s : State) : AccOut := ⟨s, .denied, 0⟩

/-- Answer an access with what it did; a DENIED of the register's own rule is a violation like any other. -/
def AccOut.finish (o : AccOut) (a : Access) (u : UnitKind) (i off : Nat) : State :=
  if o.code = .denied then o.st.refuse a u i off .denied [.denied] else o.st.answer o.code o.data

/-- One access to a page: a request behind another is not decoded yet (R32); then the checks in the order of R36, and its effect `eff`
on the register at `off`. -/
def State.gate (s : State) (a : Access) (u : UnitKind) (i off : Nat) (eff : State → AccOut) : State :=
  if s.behind a then s.putOff a
  else if a.path = .host ∧ requestCheck a ≠ a.chk then (s.violation Fd.DIR_VIOL_CHKERR_CNT .chkerr a).answer .chkerr 0
  else match unitPage s.chip.role u i with
  | none => s.answer .decerr 0
  | some _ =>
    if s.chip.fitted u i = false then s.answer .absent 0
    else match s.refusal a u i off with
    | some (c, f) => s.refuse a u i off c f
    | none =>
      if s.mustWait a u i off then s.putOff a
      else (eff s).finish a u i off

/-- The access a register row stands for: a 64-bit access of requester `q` at offset `off` of a page. -/
def State.rowAccess (s : State) (q : Req) (u : UnitKind) (i off : Nat) (write : Bool) (d : Word) : Access :=
  let page := (unitPage s.chip.role u i).getD 0
  ⟨q.path, BitVec.ofNat 22 (page * 4096 + off), write, false, q.priv, if write then d else 0, q.chk⟩

/-- A 64-bit write of a register by a row of its own. -/
def State.rowWrite (s : State) (q : Req) (u : UnitKind) (i off : Nat) (d : Word) (eff : State → AccOut) : State :=
  s.gate (s.rowAccess q u i off true d) u i off eff

/-- A 64-bit read of a register by a row of its own. -/
def State.rowRead (s : State) (q : Req) (u : UnitKind) (i off : Nat) (eff : State → AccOut) : State :=
  s.gate (s.rowAccess q u i off false 0) u i off eff

/-! ### Plain registers -/

/-- Pump channels and contexts fitted (`PG_CAP` of PMP and XLT, R306). -/
def State.channels (s : State) : Nat := if s.isTray then 64 else 8
def State.contexts (s : State) : Nat := if s.isTray then 1024 else 64

/-- SRAM in 4 KiB units: 12, 6, 256 and 128 MiB by variant (Table 00-2). -/
def State.sramPages (s : State) : Nat :=
  256 * (if s.isTray then (if s.chip.full then 256 else 128) else if s.chip.full then 12 else 6)

/-- Cores fitted (Table 10-9). -/
def State.coreCount (s : State) : Nat := if s.isTray then 32 else 4

/-- HBM in MiB (`PG_CAP.HBM_MIB` of CIS, R393); none on a leaf. -/
def State.hbmMib (s : State) : Nat := if s.isTray then (if s.chip.full then 183105 else 91552) else 0

/-- Two regions [b, b+n) and [c, c+m) meet. -/
def meets (b n c m : Nat) : Bool := decide (0 < n ∧ 0 < m ∧ b < c + m ∧ c < b + n)

/-- A region `v` of `CIS_STORE` or `CIS_SUMP` lies in HBM clear of the EFT store and of the other region `o` (R393). -/
def State.cisPlaced (s : State) (v o : Nat) : Bool :=
  decide (bits v 17 0 + bits v 49 32 ≤ s.hbmMib) && !meets (bits v 17 0) (bits v 49 32) (s.hbmMib - 512) 512 &&
    !meets (bits v 17 0) (bits v 49 32) (bits o 17 0) (bits o 49 32)

/-- The conditions on a value that the field ranges do not say: channels and contexts (R306), `MXE_RMON_CFG` (R188),
`EFT_CFG` (R255), the CIS page (R393, Table 15-6), `COR_HOSTWIN` and `COR_SHARED` (R273), `SLK_ALT_CFG` (R335), `RDX_TREE_CFG` (R364). -/
def State.valueOk (s : State) (u : UnitKind) (off v : Nat) : Bool :=
  let ch := bits v 5 0 < s.channels
  let cx := bits v 41 32 < s.contexts
  match u with
  | .mxe => if off = 0x40 then ch else if 0x300 ≤ off ∧ off < 0x380 then decide (sext (bits v 5 0) 6 ≤ sext (bits v 13 8) 6)
            else true
  | .tre => if off = 0x40 then ch else true
  | .eft => if off = 0x40 then decide (bits v 31 0 < 2 ^ 31) else if off = 0x48 then ch && cx else true
  | .cor => if off = 0x40 then ch && cx else if off = 0x48 then bits v 30 0 == 0
            else if off = 0x50 then decide (bits v 40 32 ≤ (if s.isTray then 256 else 16) ∧
              16 * (bits v 15 0 + bits v 40 32) ≤ s.sramPages) else true
  | .slk => if off = 0xB0 then ch && cx && decide (bits v 59 56 ≤ 12)
            else if off = 0x40 then decide (bits v 13 12 ≤ bits v 17 16) else true
  | .cis => if off = 0x50 then decide (64 ≤ bits v 10 0 ∧ bits v 10 0 ≤ (if s.chip.full then 1200 else 600))
            else if off = 0x58 then decide (1 ≤ bits v 59 56 ∧ bits v 59 56 < bits v 63 60)
            else if off = 0x40 then s.cisPlaced v (s.reg Rg.CIS_SUMP).toNat
            else if off = 0x48 then s.cisPlaced v (s.reg Rg.CIS_STORE).toNat else true
  | .tkp => if off = 0x58 then decide (bits v 47 16 < 10 ^ 9) else true
  | .hpa => if off = 0x40 then ch && cx else true
  | .cap => if off = 0x40 then ch && cx else true
  | .htp => if off = 0x60 then ch && cx else true
  | .rdx => if off = 0x48 then decide (¬(bit v 63 = true ∧ bits v 57 56 = 0)) else true
  | _ => true

/-- A plain RW value: the writable bits of `d` over the fixed bits of the register, none when a field is out of range. -/
def State.newValue? (s : State) (r : RegRow) (u : UnitKind) (off : Nat) (d : Word) : Option Word :=
  let m := BitVec.ofNat 64 r.wmask
  let v := d &&& m
  if r.ranges.all (fun (hi, lo, mn, mx) => decide (mn ≤ bits v.toNat hi lo ∧ bits v.toNat hi lo ≤ mx)) &&
      s.valueOk u off v.toNat then some v else none

/-- A write of an ordinary register (Table 00-6, R35, R37, R39, R54): RW takes the value, RWS stages it, SC applies its
alias, W1C clears, the others ignore it. `commit` puts a staged page in force at once (COMMIT_MODE DIRECT). -/
def State.plainWrite (s : State) (u : UnitKind) (i off al : Nat) (d : Word) (commit : State → State) : State :=
  match rowAt? u off with
  | none => s
  | some r =>
    let g : Reg := ⟨u, off⟩
    match r.acc with
    | .rw => match s.newValue? r u off d with
      | some v => s.setReg g i v
      | none => s.pgErr u i .badValue off
    | .rws => match s.newValue? r u off d with
      | some v =>
        have s := { s with staged := s.staged.set (regKey g i) v }.mark u i
        if s.fld (Fd.PG_CTRL_COMMIT_MODE u) i = 2 then commit s
        else if s.fld (Fd.PG_CTRL_COMMIT_MODE u) i = 1 then
          (s.setFld (Fd.PG_SHADOW_VALID u) i 1).setFld (Fd.PG_SHADOW_EPOCH u) i (s.epochNow + 1)
        else s
      | none => s.pgErr u i .badValue off
    | .sc =>
      let m := BitVec.ofNat 64 r.wmask
      let old := s.reg g i
      s.setReg g i (if al = 1 then old ||| (d &&& m) else if al = 2 then old &&& ~~~d else (d &&& m))
    | .w1c => s.setReg g i (s.reg g i &&& ~~~d)
    | .ro | .rc | .wo => s

/-- A 32-bit write: the half that ADDR [2] selects, over the other half of the register (R34). What WDATA [63:32] holds, which Table
02-3 gives as 0, is not looked at (DESIGN CHOICE, log entry 109). -/
def merge32 (old d : Word) (upper : Bool) : Word :=
  if upper then (d <<< 32) ||| (old &&& 0xFFFFFFFF) else (old &&& 0xFFFFFFFF00000000) ||| (d &&& 0xFFFFFFFF)

/-! ### The table window -/

/-- The window registers of a page as the command takes them (R57). -/
def State.key (s : State) (u : UnitKind) (i k : Nat) : Word := s.reg ((Rg.TBL_KEY u).nth k) i
def State.data (s : State) (u : UnitKind) (i k : Nat) : Word := s.reg ((Rg.TBL_DATA u).nth k) i

/-- The window data of a page as bytes. -/
def State.dataBytes (s : State) (u : UnitKind) (i n : Nat) : Bytes :=
  ((List.range ((n + 7) / 8)).flatMap fun k => leBytes 8 (s.data u i k).toNat).take n

/-- `TBL_DATA` words from `k` on set to a list. -/
def State.setData (s : State) (u : UnitKind) (i : Nat) : Nat → List Word → State
  | _, [] => s
  | k, w :: ws => (s.setReg ((Rg.TBL_DATA u).nth k) i w).setData u i (k + 1) ws

/-- The outcome of a window command. -/
structure WinOut where
  st   : State
  res  : Nat
  idx  : Nat
  data : Option (List Word)
  busy : Bool

/-- A command that ends with a result and returns nothing. -/
def State.win (s : State) (res : Nat) (idx : Nat := 0) : WinOut := ⟨s, res, idx, none, false⟩

/-- A command that returns the words of an entry; the rest of the data registers read 0. -/
def State.winData (s : State) (ws : List Word) (idx : Nat := 0) : WinOut :=
  ⟨s, 0, idx, some (ws ++ List.replicate (32 - ws.length) 0), false⟩

/-- A command that goes on: BUSY until its DONE. -/
def State.winBusy (s : State) : WinOut := ⟨s, 0, 0, none, true⟩

/-- The window shows a command's outcome (Table 02-17). -/
def WinOut.show (o : WinOut) (u : UnitKind) (i : Nat) : State :=
  have s := match o.data with
    | some ws => o.st.setData u i 0 ws
    | none => o.st
  s.setReg (Rg.TBL_STAT u) i (BitVec.ofNat 64
    (if o.busy then 1 else o.idx % 2 ^ 32 * 2 ^ 32 + o.res % 256 * 256))

/-- A window write while BUSY: OKAY, ignored, WIN_BUSY (R58). -/
def State.winBlocked (s : State) (u : UnitKind) (i off : Nat) : AccOut := (s.pgErr u i .winBusy off).okay

/-- The effect of a write of `TBL_CMD` with a non-zero OP (R56, R57, R75): the command `body` unless the window is busy or the
unit's domain is not primed. -/
def State.winRun (s : State) (u : UnitKind) (i : Nat) (d : Word) (body : State → WinOut) : AccOut :=
  if s.fld (Fd.TBL_STAT_BUSY u) i = 1 then s.winBlocked u i 0xC00
  else
    have s := s.setReg (Rg.TBL_CMD u) i (d &&& 0xFFFFFFFF0000FFFF)
    (if fastUnit u ∧ !s.primed then (s.win 0xFF).show u i else (body s).show u i).okay

/-- The data of a `TBL_CMD` write. -/
def cmdWord (table op index : Nat) : Word := BitVec.ofNat 64 (index % 2 ^ 32 * 2 ^ 32 + table % 256 * 256 + op % 256)

/-- A window command by a row of its own: the write of `TBL_CMD` that starts it. -/
def State.winCmd (s : State) (q : Req) (u : UnitKind) (i table op index : Nat) (body : State → WinOut) : State :=
  s.rowWrite q u i 0xC00 (cmdWord table op index) fun s => s.winRun u i (cmdWord table op index) body

/-- A command that ran on ends: its result stands in `TBL_STAT` and BUSY falls. -/
def State.winEnd (s : State) (u : UnitKind) (i res : Nat) (idx : Nat := 0) : State := (s.win res idx).show u i

/-- The outcome of a total operation: the next state. -/
abbrev done (s : State) : Host.Outcome State Fault Refusal := .next s

end Sys2Proof.Machine
end

