-- ==== Sys2Proof/Machine/Faults.lean ====
section
/-! DEFINITION. Reports of trouble: units that FLT stops (R482, R483), the IRC pending bits (R494 to R499), the EVR ring
(R487 to R492), the NVH log's append (R466, R468), the capture trigger (R437, R445), and the recording of a fault (R479 to
R483). -/

namespace Sys2Proof.Machine

/-! ### Units in and out of service -/

/-- A unit instance is held stopped by FLT (R482). -/
def State.stopped (s : State) (u : UnitKind) (i : Nat) : Bool :=
  match srcBase s.chip.role u i with
  | some b => (List.range (sources u).length).any fun l => ((s.flt.srcs.get? (b + l)).map (·.stopping)).getD false
  | none => false

/-- The units no URGENT source stops (R482), and with NVH and a tray's MGR those FAULTED leaves running (R483). -/
def neverStops : UnitKind → Bool
  | .dir | .lcm | .pwr | .tkp | .flt | .evr | .irc => true
  | _ => false

/-- The unit on a page is out of service: stopped, degraded, or stopped with the FAULTED block (R482, R483). -/
def State.outOfService (s : State) (u : UnitKind) (i : Nat) : Bool :=
  s.stopped u i || s.degraded u i || (s.flt.faulted && !(neverStops u || u == .nvh || u == .mgr))

/-- The unit accepts and issues new work (Table 02-11, R482, R483). -/
def State.live (s : State) (u : UnitKind) (i : Nat := 0) : Bool :=
  s.enabled u i && !s.outOfService u i && !s.inReset u i

/-! ### IRC -/

/-- The pending bits of a group that hardware has set at this AON edge. -/
def State.risenNow (s : State) (g : Nat) : Word :=
  match s.irc.risen.get? g with
  | some (e, m) => if e = s.aon then m else 0
  | none => 0

/-- A hardware set of pending bits of a group (R495). A group in hold-off counts one deferral for each AON cycle in which a
bit rises (R499). -/
def State.pend (s : State) (g : Nat) (m : Word) : State :=
  let old := s.reg (Rg.IRC_PEND g)
  have s1 := { s.setReg (Rg.IRC_PEND g) 0 (old ||| m) with irc := { s.irc with risen := s.irc.risen.set g (s.aon, s.risenNow g ||| m) } }
  if old ||| m ≠ old ∧ (s.irc.holdoffs.get? g).isSome ∧ s.irc.deferred.get? g ≠ some s.aon then
    { s1.bump Fd.IRC_CNT_HOLDOFF_DEFERRED with irc := { s1.irc with deferred := s.irc.deferred.set g s.aon } }
  else s1

/-- A hardware set of one pending bit. -/
def State.pendBit (s : State) (g b : Nat) : State := s.pend g (BitVec.ofNat 64 (2 ^ b))

/-- Unread EVR records (19.6). -/
def State.unread (s : State) : Nat :=
  let h := s.fld Fd.EVR_HEAD_SEQ
  min (wrapI (h - s.fld Fd.EVR_RD_SEQ) 32) (wrapI (h - s.fld Fd.EVR_TAIL_SEQ) 32)

/-- The core's outbound FIFOs that are not empty (`COR_MBX_OUT`, R265). -/
def State.mbxOut (s : State) : Nat :=
  s.cor.cores.foldl (fun a (c, k) => if k.outQ.isEmpty then a else a + 2 ^ c) 0

/-- The level conditions of IRC as pending bits of a group (Table 19-7); FATAL stays pending while the block is FAULTED (R501). -/
def State.levels (s : State) (g : Nat) : Nat :=
  if g = 0 then b2n s.flt.faulted
  else if g = 7 then s.mbxOut
  else if g = 8 then b2n (!s.isTray && !s.stm.nq.isEmpty)
  else if g = 12 then b2n (!s.ups.swRx.isEmpty) * 8
  else if g = 13 then b2n (!s.scr.hostQ.isEmpty) * 2
  else if g = 14 then b2n (s.fld Fd.EVR_CFG_NOTIFY ≤ s.unread)
  else 0

/-- The level conditions of a group set their bits (R495). -/
def State.level (s : State) (g : Nat) : State := if s.levels g = 0 then s else s.pend g (BitVec.ofNat 64 (s.levels g))

/-! ### EVR -/

/-- Whether this instance owns the NOR (R468). -/
def State.nvOwner (s : State) : Bool := s.isTray || s.chip.pkgDieIdx == 0

/-- Records the ring holds (`PG_CAP.RECORDS`). -/
def State.evrCap (s : State) : Nat := if s.isTray then 65536 else 4096

/-- The token bucket of a key admits a record (R490): the bucket after it, and the count of records suppressed before it
when it does. -/
def Bucket.spend (b : Bucket) (rate burst now : Nat) : Bucket × Option Nat :=
  let period := 100000000 / rate
  let credit := min (b.credit + (now - b.last)) (burst * period)
  if period ≤ credit then ({ credit := credit - period, last := now, suppressed := 0 }, some (min b.suppressed 0xFFFF))
  else ({ b with credit, last := now, suppressed := b.suppressed + 1 }, none)

/-- A record among those of its AON cycle: in ascending source number, a record without a source (0xFFFF) last. -/
def insertRec (r : EvrRec) : List EvrRec → List EvrRec
  | [] => [r]
  | x :: xs => if r.source < x.source then r :: x :: xs else x :: insertRec r xs

/-- Records renumbered from SEQ `n`. -/
def renumber (n : Nat) : List EvrRec → List EvrRec
  | [] => []
  | x :: xs => { x with seq := n % 2 ^ 32 } :: renumber (n + 1) xs

/-- A record enters the ring: at its place among the records of this AON cycle, the oldest record overwritten when the ring is full
(R491). -/
def State.evrPut (s : State) (r : EvrRec) : State :=
  have s1 := (s.setFld Fd.EVR_HEAD_SEQ 0 (r.seq + 1)).item 14
  let full := decide (s.evrCap ≤ s.evr.recs.length)
  let recs := if full then s.evr.recs.tail else s.evr.recs
  let n := min (if s.evr.edge = s.aon then s.evr.batch else 0) recs.length
  let k := recs.length - n
  have evr := { s.evr with recs := recs.take k ++ renumber (r.seq + 2 ^ 32 - n) (insertRec r (recs.drop k)), edge := s.aon, batch := n + 1 }
  if full then { (s1.bumpW Fd.EVR_TAIL_SEQ).bump Fd.EVR_CNT_OVERWRITTEN with evr } else { s1 with evr }

/-- Write an event record (R487 to R490): `key` is its bucket, `detail` bytes 40 to 63. -/
def State.evrWrite (s : State) (key code source : Nat) (detail : Bytes) (exempt : Bool := false) : State :=
  let unset := !s.nvOwner && !s.nvh.written
  let (b, ok) := if exempt then (s.evr.fresh, some 0)
    else (s.evr.buckets.getD key s.evr.fresh).spend (max 1 (s.fld Fd.EVR_CFG_RATE)) (s.fld Fd.EVR_CFG_BURST) s.aon
  let s1 := if exempt then s else { s with evr := { s.evr with buckets := s.evr.buckets.set key b } }
  match ok with
  | none => s1.bump Fd.EVR_CNT_SUPPRESSED
  | some n =>
    (s1.evrPut
      { seq := s1.fld Fd.EVR_HEAD_SEQ, code, source, time := s1.now
        epoch := if s1.timeValid then s1.fld Fd.EVR_EPOCH_EPOCH else 0
        flags := b2n (!s1.timeValid) + b2n unset * 2 + b2n exempt * 4, suppressed := n
        opHours := if unset then 0 else min (s1.nvh.st.opMinutes / 60) 0xFFFFFFFF
        powerCycles := if unset then 0 else s1.nvh.st.powerCycles
        detail := (detail ++ List.replicate 24 0).take 24 }).level 14

/-- An event record of no source: its key is its CODE (R490). -/
def State.event (s : State) (code : Nat) (detail : Bytes) (exempt : Bool := false) : State :=
  s.evrWrite (65536 + code) code 0xFFFF detail exempt

/-- The 64 bytes of a record (Table 19-4). -/
def EvrRec.bytes (r : EvrRec) : Bytes :=
  leBytes 4 r.seq ++ leBytes 2 r.code ++ leBytes 2 r.source ++ timeBytes r.time ++ leBytes 5 r.epoch ++
    leBytes 1 r.flags ++ leBytes 2 r.suppressed ++ leBytes 4 r.opHours ++ leBytes 4 r.powerCycles ++ leBytes 4 0 ++ r.detail

/-! ### The NVH log -/

/-- A history record of this die enters the log's write queue, or on a leaf that does not own the NOR the forwarding queue
of 64 (R466, R468). A record of a full queue counts in QUEUE_DROP. -/
def State.nvLog (s : State) (kind unit : Nat) (detail data : BitVec 32) : State :=
  let die := if s.isTray then 0xFF else s.chip.pkgDieIdx
  let k := if s.isTray then 0 else die
  let sq := s.nvh.lastSeq.getD k 0
  let r : NvRec := { seq := sq, kind, die, unit, opMinutes := s.nvh.st.opMinutes, powerCycles := s.nvh.st.powerCycles
                     detail, data }
  have s := { s with nvh := { s.nvh with lastSeq := s.nvh.lastSeq.set k ((sq + 1) % 2 ^ 32) } }
  if s.nvOwner then { s with nvh := { s.nvh with logQ := s.nvh.logQ ++ [(k, r)] } }
  else if s.nvh.fwdQ.length < 64 then { s with nvh := { s.nvh with fwdQ := s.nvh.fwdQ ++ [r] } }
  else s.bump Fd.NVH_CNT_QUEUE_DROP

/-! ### Capture triggers -/

/-- The partial line of HTP is padded with PAD to a whole line, which drains like any other (R443, R448). -/
def State.htpFlush (s : State) : State := { s with htp := { s.htp with buf := padTo 256 s.htp.buf } }

/-- HTP reaches STOPPED: the partial line is drained and IRC told (Table 19-7). -/
def State.htpStopped (s : State) : State :=
  { s.htpFlush with htp := { s.htpFlush.htp with est := 3 } }.pendBit 9 48

/-- The STOP event of HTP's event machine (R445): POST for POST_BEATS traced beats. In IDLE it still applies behind a START of the
same AON cycle. -/
def State.htpStop (s : State) : State :=
  if s.htp.est = 1 then
    let n := s.fld Fd.HTP_EVT_POST_BEATS
    if n = 0 then s.htpStopped else { s with htp := { s.htp with est := 2, postLeft := n } }
  else if s.htp.est = 0 then { s with htp := { s.htp with stopAt := some s.aon } }
  else s

/-- The START event of HTP's event machine (R445): TRACING, with a SYNC owed for every AWAKE source. -/
def State.htpStart (s : State) : State :=
  if s.htp.est = 0 then
    have s := { s with htp := { s.htp with
      est := 1, srcs := s.htp.srcs.mapV fun _ r => if r.st = 1 then { r with owed := 2 } else r } }
    if s.htp.stopAt = some s.aon then s.htpStop else s
  else s

/-- A trigger of cause `cause` at fleet time `t` is recorded in a ring's entry and in `CAP_LAST`; a ring disarmed in this AON cycle
stays OFF (R437, Table 17-3). -/
def State.ringTrigger (s : State) (r : Nat) (g : Ring) (cause t : Nat) : State :=
  let (j, jg) := s.job
  let e := s.epochOf t
  let g := { g with st := if g.st = 0 then 0 else if g.postRows = 0 then 3 else 2, trigTime := t, trigEp := e, trigJob := j
                    trigGen := jg, cause, postLeft := g.postRows, capSeq := (g.capSeq + 1) % 2 ^ 32, trigAt := some s.aon }
  have s := { s with cap := { s.cap with rings := s.cap.rings.set r g } }.bump Fd.CAP_CNT_TRIGGERS
  have s := s.setReg Rg.CAP_LAST 0 (BitVec.ofNat 64 (2 ^ 63 + r * 2 ^ 56 + cause * 2 ^ 48 + e))
  have s := if g.st = 3 then s.pendBit 9 r else s
  if s.enabled .htp ∧ s.fld Fd.HTP_EVT_TRIG_RING = r then
    have s := if s.fld Fd.HTP_EVT_CAP_START = 1 then s.htpStart else s
    if s.fld Fd.HTP_EVT_CAP_STOP = 1 then s.htpStop else s
  else s

/-- A cause of the AON cycle that triggered a ring: the lowest code stands. -/
def State.ringCause (s : State) (r : Nat) (g : Ring) (cause : Nat) : State :=
  if g.cause ≤ cause then s
  else
    { s with cap := { s.cap with rings := s.cap.rings.set r { g with cause } } }.setReg Rg.CAP_LAST 0
      (BitVec.ofNat 64 (2 ^ 63 + r * 2 ^ 56 + cause * 2 ^ 48 + g.trigEp))

/-- A ring meets a cause (R437, Table 17-3): one in ARMED, or disarmed in this AON cycle, is triggered; one past ARMED counts
TRIG_IGNORED. HTP takes the trigger of its ring as START or STOP (R445). -/
def State.capTrigger (s : State) (r cause : Nat) : State :=
  match s.cap.rings.get? r with
  | none => s
  | some g =>
    if g.trigAt = some s.aon then s.ringCause r g cause
    else if g.st = 1 ∨ (g.st = 0 ∧ g.offAt = some s.aon) then
      let (t, s) := s.fastStamp
      s.ringTrigger r g cause t
    else if 2 ≤ g.st then s.bump Fd.CAP_CNT_TRIG_IGNORED
    else s

/-- Every ring that watches faults of this level is triggered (R437 cause 2). -/
def State.capFault (s : State) (level : Nat) : State :=
  s.cap.rings.foldl (fun s (r, g) => if g.trigEn.getLsbD 0 ∧ g.minSev ≤ level ∧ (1 ≤ g.st ∨ g.offAt = some s.aon) then s.capTrigger r 2 else s) s

/-- Every ring that watches a verdict code is triggered (R437 cause 3). -/
def State.capVerdict (s : State) (vcode : Nat) : State :=
  s.cap.rings.foldl (fun s (r, g) => if g.trigEn.getLsbD 1 ∧ g.vcode = vcode ∧ (1 ≤ g.st ∨ g.offAt = some s.aon) then s.capTrigger r 3 else s) s

/-! ### What a stop ends at once (R548, R550) -/

/-- A well after power-on. -/
def Well.rest : Well :=
  { active := [], staged := [], last := [], req := false, closing := false, discard := false, late := false, reqEdge := 0
    tickEdge := 0, lastOk := true, winAt := 0 }

def State.well (s : State) (w : Nat) : Well := s.wells.getD w Well.rest
def State.setWell (s : State) (w : Nat) (x : Well) : State := { s with wells := s.wells.set w x }

/-- Every row in gathering that a well still owes samples changed by `f`. -/
def State.mapGathers (s : State) (w : Nat) (f : Gather → Gather) : State :=
  { s with smp := { s.smp with runs := s.smp.runs.mapV fun _ r =>
      { r with gather := r.gather.map fun x => if x.owed.contains w then f x else x } } }

/-- The samples a well owes are STALE: they keep the last values (R121). -/
def State.giveStale (s : State) (w : Nat) : State :=
  s.mapGathers w fun x => { x with owed := x.owed.filter (· != w)
                                   row := { x.row with stale := x.row.stale ||| BitVec.ofNat 64 (2 ^ w) } }

/-- The open handshake of a well is completed without reading, and what it owes is STALE (R548, R551). -/
def State.welAbandon (s : State) (w : Nat) : State :=
  let x := s.well w
  if x.req ∧ !x.discard then (s.setWell w { x with discard := true }).giveStale w else s

/-- The bit of a voter in `PWR_VOTE` (Table 03-4). -/
def voterBit : Voter → Nat
  | .smp => 0
  | .cmp => 1
  | .mxe => 2
  | .tre => 3
  | .htp => 4
  | .cap => 5
  | .sw => 6

/-- The state code, with DORMANT and SAMPLING both held as 0: which one is shown follows SMP and the lane (Table 03-2). -/
def State.pst (s : State) : Nat := s.fld Fd.PWR_STATE_STATE

/-- The domain holds: no vote stands and the hold timer starts (R70). -/
def State.enterHold (s : State) : State :=
  { s.setFld Fd.PWR_STATE_STATE 0 4 with pwr := { s.pwr with holdEnd := s.aon + s.fld Fd.PWR_CFG_HOLD_US * cyUs } }

/-- A voter drops its vote (R70). -/
def State.voteDown (s : State) (v : Voter) : State :=
  if s.isTray ∨ !(s.reg Rg.PWR_VOTE).getLsbD (voterBit v) then s
  else
    have s := s.setReg Rg.PWR_VOTE 0 (s.reg Rg.PWR_VOTE &&& ~~~(BitVec.ofNat 64 (2 ^ (voterBit v))))
    if s.pst = 3 ∧ s.reg Rg.PWR_VOTE = 0 ∧ !s.pwr.boot then s.enterHold else s

/-- A unit is disabled, or FLT begins to hold it stopped: a well owes its open handshake (R548), CMP casts no vote (R550). -/
def State.unitHeld (s : State) (u : UnitKind) (i : Nat) : State :=
  match u with
  | .wel => s.welAbandon i
  | .cmp => s.voteDown .cmp
  | _ => s

/-! ### Recording a fault -/

/-- The block enters FAULTED (R483). -/
def State.enterFaulted (s : State) (n : Nat) : State :=
  if s.flt.faulted then s
  else
    have s := { s with flt := { s.flt with faulted := true, faultedEdge := s.aon } }
    have s := ((List.range 48).foldl (fun s w => s.unitHeld .wel w) s).unitHeld .cmp 0
    have s := s.setReg Rg.FLT_FATAL 0 (BitVec.ofNat 64 (2 ^ 63 + n * 2 ^ 48 + s.epochNow))
    (s.pendBit 0 0).event 0x0604 (leBytes 2 n) true

/-- The unit code of Table 18-2 that a unit instance has; 0xFF none. -/
def histUnit (u : UnitKind) (i : Nat) : Nat :=
  match u with
  | .mxe => i
  | .tre => 8 + i
  | _ => 0xFF

/-- The consequences of a level (Table 19-1) for source `n` of a unit instance, or of the decoder or core its raiser names. -/
def State.applyLevel (s : State) (n : Nat) (u : UnitKind) (i lev : Nat) (code : Option Nat) : State :=
  have s := if 3 ≤ lev then s.pend 2 (if 4 ≤ lev then 3 else 1) else s
  have s :=
    if 4 ≤ lev then
      let r := s.src n
      have s := if neverStops u then s else (s.setSrc n { r with stopping := true }).unitHeld u i
      if r.nvMin = some s.nvh.st.opMinutes then s
      else (s.setSrc n { s.src n with nvMin := some s.nvh.st.opMinutes }).nvLog 9 ((code.map (· % 256)).getD (histUnit u i)) (BitVec.ofNat 32 n) 0
    else s
  if lev = 5 then s.enterFaulted n else s

/-- The SCR unit code whose transients a source counts (R462), 256 above it for a sentinel mismatch; for a decoder or a core
the raiser names it. -/
def transientCode (u : UnitKind) (i l : Nat) : Option Nat :=
  match u with
  | .mxe => if l = 5 then some (256 + i) else if l = 8 then some i else none
  | .tre => if l = 2 then some (8 + i) else none
  | _ => none

/-- A fault of source `n` is recorded (R479): count, level, escalation, quiet timer, records, consequences. `scr.suspects`
takes the unit code whose transient the settling of the command counts (R462). -/
def State.record (s : State) (n : Nat) (detail : BitVec 32) (code : Option Nat := none) : State :=
  match srcOf s.chip.role n with
  | none => s
  | some (u, i, l) =>
    let r := s.src n
    let r := { r with count := min (r.count + 1) 0xFFFF }
    have s := match code.orElse (fun _ => transientCode u i l) with
      | some c => { s with scr := { s.scr with suspects := s.scr.suspects ++ [c] } }
      | none => s
    if r.sev = 0 then (s.setSrc n r).bump Fd.FLT_CNT_IGNORED
    else
      let rose := r.active && decide (r.cur < r.escCap)
      let lev := if r.active then (if rose then r.cur + 1 else r.cur) else r.sev
      let rises := r.rises.filter fun x => decide (s.aon < x.1 + 2)
      let r' := { r with cur := lev, active := true, acked := false
                         shown := if r.active && !r.acked then r.shownAt s.aon else 0
                         rises := (if r.active && !r.acked then rises else []) ++ [(s.aon, lev)]
                         episode := if r.active then r.episode + 1 else 1
                         quietEnd := s.aon + s.fld Fd.FLT_CFG_QUIET_MS * cyMs, detail, time := s.now, epoch := s.epochNow }
      have s := (s.setSrc n r').setReg (Rg.FLT_ACK.nth (n / 64)) 0
        (s.reg (Rg.FLT_ACK.nth (n / 64)) &&& ~~~(BitVec.ofNat 64 (2 ^ (n % 64))))
      have s := ((s.bump Fd.FLT_CNT_RECORDED).item 13)
      have s := s.evrWrite n 0x0601 n (leBytes 1 lev ++ leBytes 1 r.sev ++ leBytes 2 r.count ++ leBytes 4 detail.toNat)
      have s := if rose then (s.bump Fd.FLT_CNT_ESCALATIONS).evrWrite n 0x0602 n (leBytes 1 r.cur ++ leBytes 1 lev) else s
      have s := if rose ∧ 3 ≤ lev then s.pendBit 2 2 else s
      let last := 2 ^ 63 + n * 2 ^ 48 + lev * 2 ^ 40 + s.epochNow
      have s := s.setReg Rg.FLT_LAST 0 (BitVec.ofNat 64 last)
      have s := if 3 ≤ lev ∧ s.fld Fd.FLT_FIRST_VALID = 0 then s.setReg Rg.FLT_FIRST 0 (BitVec.ofNat 64 last) else s
      (s.applyLevel n u i lev code).capFault lev

/-- A fault of LOCAL source `l` of a unit instance with a detail word the manual gives. -/
def State.faultD (s : State) (u : UnitKind) (i l : Nat) (detail : BitVec 32) (code : Option Nat := none) : State :=
  match srcBase s.chip.role u i with
  | some b => s.record (b + l) detail code
  | none => s

/-- A fault whose detail word the manual does not give: a free value. -/
def State.fault (s : State) (u : UnitKind) (i l : Nat) (code : Option Nat := none) : State :=
  let (w, s) := s.draw
  s.faultD u i l (w.truncate 32) code

end Sys2Proof.Machine
end

