-- ==== Sys2Proof/Machine/Xfers.lean ====
section
/-! DEFINITION. The pumps' streams and the fault queue as every unit uses them (R277, R282, R290 to R295): starting and ending
a unit transfer, tags, the TLB, and the withdrawal of fault entries. -/

namespace Sys2Proof.Machine

/-! ### The fault queue -/

/-- Depth of the fault queue (R290). -/
def State.fqDepth (s : State) : Nat := if s.isTray then 256 else 32

/-- Entries in the queue, each with its token. -/
def State.fqCount (s : State) : Nat := (s.xlt.faults.filter fun e => e.token.isSome).length

/-- A token no outstanding entry holds, from `t` on (R292). -/
def freeToken (used : List Nat) : Nat → Nat → Nat
  | 0, t => t
  | n + 1, t => if used.contains t then freeToken used n ((t + 1) % 65536) else t

/-- One waiting fault enters the queue when there is room (R290, R291). -/
def State.fqEnter (s : State) : List FqEnt → List FqEnt × State
  | [] => ([], s)
  | e :: es =>
    if e.token.isSome then let (r, s) := s.fqEnter es; (e :: r, s)
    else if s.fqCount < s.fqDepth then
      let t := freeToken (s.xlt.faults.filterMap (·.token)) 65536 s.xlt.token
      have s := (s.bump Fd.XLT_CNT_FAULTS).ev .xlt 0 4
      have s := { s with xlt := { s.xlt with token := (t + 1) % 65536 } }
      have s := s.setFld Fd.XLT_FQ_STAT_HWM 0 (max (s.fld Fd.XLT_FQ_STAT_HWM) (s.fqCount + 1))
      ({ e with token := some t } :: es, s.pendBit 3 0)
    else (e :: es, s)

/-- Faults waiting for room enter the queue in fault order. -/
def State.fqSettle (s : State) : State :=
  let (l, s) := s.fqEnter s.xlt.faults
  { s with xlt := { s.xlt with faults := l } }

/-- `n` entries left the queue: as many waiting faults may enter. -/
def State.fqRefill (s : State) : Nat → State
  | 0 => s
  | n + 1 => s.fqSettle.fqRefill n

/-- Entries of a stream end (R293 to R295). -/
def State.fqRemove (s : State) (p : FqEnt → Bool) : State :=
  have l := s.xlt.faults.filter fun e => !p e
  ({ s with xlt := { s.xlt with faults := l } }).fqRefill (s.xlt.faults.length - l.length)

/-- A fault is queued, or waits for room and counts in FULL_CNT (R290, R291); a fault that repeats an outstanding one of its
stream joins it. -/
def State.fqAdd (s : State) (e : FqEnt) : State :=
  if s.xlt.faults.any fun f => f.client = e.client ∧ f.inst = e.inst ∧ f.xltCtx = e.xltCtx ∧ f.va / 4096 = e.va / 4096 ∧
      f.access = e.access then s
  else
    have s := if s.fqCount < s.fqDepth then s else s.bump Fd.XLT_FQ_STAT_FULL_CNT
    ({ s with xlt := { s.xlt with faults := s.xlt.faults ++ [e] } }).fqSettle

/-! ### Unit transfers -/

/-- Bytes of segment `k` of `len` (R282). -/
def segLen (len k : Nat) : Nat := min 256 (len - 256 * k)

/-- Segment `k` of a list of ranges: its address, its length, and where its bytes stand in the transfer. -/
def segAt : List (Nat × Nat) → Nat → Nat → Option (Nat × Nat × Nat)
  | [], _, _ => none
  | (va, len) :: r, k, off =>
    if k < ceilDiv len 256 then some (va + 256 * k, segLen len k, off + 256 * k) else segAt r (k - ceilDiv len 256) (off + len)

/-- Segments of a transfer (R282). -/
def Xfer.segs (x : Xfer) : Nat := (x.ranges.map fun r => ceilDiv r.2 256).sum

/-- The segment a transfer issues next. -/
def Xfer.nextSeg (x : Xfer) : Option (Nat × Nat × Nat) :=
  if x.stalled ∨ (x.lastly ∧ x.next + 1 = x.segs ∧ x.out ≠ []) then none else segAt x.ranges x.next 0

/-- Every segment has returned. -/
def Xfer.full (x : Xfer) : Bool := decide (x.segs ≤ x.seen.length)

/-- The bytes a read has brought. -/
def Xfer.bytes (x : Xfer) : Bytes := (List.range x.segs).flatMap fun k => x.got.getD k []

/-- The transfer of a client instance. -/
def State.xfer? (s : State) (client inst : Nat) : Option Xfer :=
  s.pmp.xfers.find? fun x => x.client = client ∧ x.inst = inst

/-- What a client instance's read has brought, once all of it has returned; for a write, that all of it is written. -/
def State.carried (s : State) (client inst : Nat) : Option Bytes :=
  (s.xfer? client inst).bind fun x => if x.full then some x.bytes else none

/-- The transfer of a client instance is no longer in progress; its segments in flight hold their tags until they return (R282). -/
def State.dropXfer (s : State) (client inst : Nat) : State :=
  let p := fun (y : Xfer) => y.client == client && y.inst == inst
  { s with pmp := { s.pmp with xfers := s.pmp.xfers.filter fun y => !p y
                               dead := s.pmp.dead ++ s.pmp.xfers.filter fun y => p y && !y.out.isEmpty } }

/-- A unit transfer begins on a pump channel (R277), over host ranges. -/
def State.beginRanges (s : State) (client inst ch ctx : Nat) (ranges : List (Nat × Nat)) (write : Bool) (data : Bytes)
    (lastly : Bool) : State :=
  let x : Xfer := { client, inst, ch, xltCtx := ctx, write, ranges, data, got := [], lastly, next := 0, out := [], seen := []
                    stalled := false }
  have s := s.dropXfer client inst
  { s with pmp := { s.pmp with xfers := s.pmp.xfers ++ [x] } }

/-- A read of host memory begins. -/
def State.beginRead (s : State) (client inst ch ctx va len : Nat) : State := s.beginRanges client inst ch ctx [(va, len)] false [] false

/-- A write of host memory begins. -/
def State.beginWrite (s : State) (client inst ch ctx va : Nat) (data : Bytes) : State :=
  s.beginRanges client inst ch ctx [(va, data.length)] true data false

/-- A unit transfer is over: its fault entry, if any, is withdrawn (R295). -/
def State.endXfer (s : State) (client inst : Nat) : State :=
  (s.dropXfer client inst).fqRemove fun e => e.client == client && e.inst == inst

/-- The transfer of a client instance, changed. -/
def State.modXfer (s : State) (client inst : Nat) (f : Xfer → Xfer) : State :=
  { s with pmp := { s.pmp with xfers := s.pmp.xfers.map fun x => if x.client = client ∧ x.inst = inst then f x else x } }

/-! ### Channels, tags, TLB -/

/-- Tags in the pool (R283). -/
def State.tags (s : State) : Nat := if s.isTray then 1024 else 256

/-- A channel at reset (Table 11-11). -/
def State.chanRest (s : State) : Chan :=
  { ringVa := 0, prodVa := 0, consVa := 0, xltCtx := 0, log2 := 4, pollUs := 2, tagMax := s.tags, chkDesc := false
    stopErr := false, sramSize := 0, sramBase := 0, fetch := 0, cons := 0, prod := 0, halt := 0, stalled := false
    pollAt := 0, descs := [], ahead := 0, aborts := [], failed := none, consDue := false }

def State.chan (s : State) (c : Nat) : Chan := s.pmp.chans.getD c s.chanRest

def State.setChan (s : State) (c : Nat) (v : Chan) : State :=
  { s with pmp := { s.pmp with chans := s.pmp.chans.set c v } }

/-- Tags of transfers on a channel. -/
def tagsIn (l : List Xfer) (c : Nat) : Nat := ((l.filter (·.ch == c)).map (·.out.length)).sum

/-- Tags a channel holds, by its ring and its unit transfers together, ended ones included until their segments return. -/
def State.tagsOf (s : State) (c : Nat) : Nat :=
  ((s.chan c).descs.map (·.out.length)).sum + tagsIn s.pmp.xfers c + tagsIn s.pmp.dead c +
    ((s.pmp.ends.filter (·.ch == c)).map (·.desc.out.length)).sum

/-- Tags in use (`PMP_TAGS.IN_USE`). -/
def State.tagsUsed (s : State) : Nat :=
  (s.pmp.chans.map fun c => (c.2.descs.map (·.out.length)).sum).sum + (s.pmp.xfers.map (·.out.length)).sum +
    (s.pmp.dead.map (·.out.length)).sum + (s.pmp.ends.map (·.desc.out.length)).sum

/-- A channel may take one more tag (R283). -/
def State.tagFree (s : State) (c : Nat) : Bool :=
  decide (s.tagsUsed < s.tags ∧ s.tagsOf c < (s.chan c).tagMax)

/-- One more tag than those in use was held (`PMP_TAGS.HWM`). -/
def State.tagMark (s : State) (n : Nat) : State := s.setFld Fd.PMP_TAGS_HWM 0 (max (s.fld Fd.PMP_TAGS_HWM) n)

/-- Bits of an address below a page of a level. -/
def pageBits (level : Nat) : Nat := 12 + 9 * (level - 1)

/-- A TLB entry translates a byte of a context. -/
def TlbEnt.covers (t : TlbEnt) (ctx va : Nat) : Bool :=
  t.xltCtx == ctx && t.va / 2 ^ pageBits t.level == va / 2 ^ pageBits t.level

/-- The TLB holds a translation that an access may use (R288). -/
def State.tlbHas (s : State) (ctx va : Nat) (write : Bool) : Bool :=
  s.xlt.tlb.any fun t => t.covers ctx va && (!write || t.wr)

/-- A TLB hit: it counts and its entry becomes the most recently used. -/
def State.tlbUse (s : State) (ctx va : Nat) : State :=
  have s := (s.bumpW Fd.XLT_TLB_CNT_HITS).ev .xlt 0 1
  { s with xlt := { s.xlt with
      tlb := s.xlt.tlb.filter (fun t => t.covers ctx va) ++ s.xlt.tlb.filter fun t => !t.covers ctx va } }

/-- A walk succeeded: its translation enters the TLB of 512, the least recently used leaving (R288). -/
def State.tlbPut (s : State) (t : TlbEnt) : State :=
  { s with xlt := { s.xlt with
      tlb := (t :: s.xlt.tlb.filter fun o => !(o.covers t.xltCtx t.va && o.level == t.level)).take 512 } }

/-- The physical address of a byte under the translation the TLB holds (R286). -/
def State.physical (s : State) (ctx va : Nat) : Nat :=
  match s.xlt.tlb.find? fun t => t.covers ctx va with
  | some t => t.pa + va % 2 ^ pageBits t.level
  | none => va

/-- Bytes of a range of `n` before the next 4 KiB page. -/
def firstPage (va n : Nat) : Nat := min n (4096 - va % 4096)

/-- Bytes are written to host memory through a context, at the physical address of each page. -/
def State.hostPut (s : State) (ctx va : Nat) (b : Bytes) : State :=
  let m := firstPage va b.length
  have s := s.emit (.hostWrite (s.physical ctx va) (b.take m))
  if m = b.length then s else s.emit (.hostWrite (s.physical ctx (va + m)) (b.drop m))

/-- Bytes of host memory are read through a context. -/
def State.hostGet (s : State) (ctx va n : Nat) : State :=
  let m := firstPage va n
  have s := s.emit (.hostRead (s.physical ctx va) m)
  if m = n then s else s.emit (.hostRead (s.physical ctx (va + m)) (n - m))

end Sys2Proof.Machine
end

