-- ==== Sys2Proof/Machine/Eft.lean ====
section
/-! DEFINITION. The entity feature table (09.5 to 09.9): hashing, lookup, insertion, aging, purge, feeds, rehash, the window. -/

namespace Sys2Proof.Machine

/-! ### Layout and hashing -/

/-- B of R236 by variant. -/
def State.eftB (s : State) : Nat := if s.isTray then 19 else if s.chip.full then 11 else 10

/-- Entries in buckets: the first stash position (R236). -/
def State.eftCap (s : State) : Nat := 4 * 2 ^ s.eftB

/-- The two buckets of a key (R238). -/
def eftBuckets (k seed b : Nat) : Nat × Nat :=
  let x := Nat.xor k (seed * 0x100000001)
  let h0 := (x * 0xA3D15B279C4E6F8B % 2 ^ 64) / 2 ^ (64 - b)
  let h1 := (x * 0xD62F83A91B74C05D % 2 ^ 64) / 2 ^ (64 - b)
  (h0, if h1 = h0 then Nat.xor h0 1 else h1)

/-- The positions a key may be held at: bucket h0, bucket h1, the stash (R239). -/
def eftPlaces (k seed b : Nat) : List Nat :=
  let (h0, h1) := eftBuckets k seed b
  (List.range 4).map (4 * h0 + ·) ++ (List.range 4).map (4 * h1 + ·) ++ (List.range 64).map (4 * 2 ^ b + ·)

/-- The position of a key in a layout. -/
def eftPos (t : SMap EftEnt) (k seed b : Nat) : Option Nat :=
  (eftPlaces k seed b).find? fun p => (t.get? p).any fun e => e.key.toNat == k

/-- The lowest free slot of a bucket. -/
def freeSlot (t : SMap EftEnt) (bucket : Nat) : Option Nat :=
  ((List.range 4).map (4 * bucket + ·)).find? fun p => (t.get? p).isNone

/-- The relocation walk (R240): `p` is the pending item at bucket `b` of relocation `r`. The table after it and its
relocations, none when no walk succeeds within the 32. -/
def eftWalk (seed bits : Nat) : Nat → Nat → SMap EftEnt → Nat → EftEnt → Option (SMap EftEnt × Nat)
  | 0, _, _, _, _ => none
  | n + 1, r, t, b, p =>
    let at_ := 4 * b + r % 4
    match t.get? at_ with
    | none => none
    | some v =>
      let t := t.set at_ p
      let (h0, h1) := eftBuckets v.key.toNat seed bits
      let b := if h0 = b then h1 else h0
      match freeSlot t b with
      | some f => some (t.set f v, r + 1)
      | none => eftWalk seed bits n (r + 1) t b v

/-- An insertion of an absent key (R240): the table, the entry's position and the relocations made. -/
def eftPlace (t : SMap EftEnt) (seed b : Nat) (e : EftEnt) : Option (SMap EftEnt × Nat × Nat) :=
  let (h0, h1) := eftBuckets e.key.toNat seed b
  match freeSlot t h0 with
  | some f => some (t.set f e, f, 0)
  | none => match freeSlot t h1 with
    | some f => some (t.set f e, f, 0)
    | none => match eftWalk seed b 32 0 t h0 e with
      | some (t, n) => some (t, (eftPos t e.key.toNat seed b).getD 0, n)
      | none => (((List.range 64).map (4 * 2 ^ b + ·)).find? fun p => (t.get? p).isNone).map fun f => (t.set f e, f, 0)

/-- A freed slot of a bucket takes the lowest stash entry that may stand there (R241). -/
def eftRefill (t : SMap EftEnt) (seed b p : Nat) : SMap EftEnt :=
  if 4 * 2 ^ b ≤ p then t
  else
    let fits := fun (e : EftEnt) => let (h0, h1) := eftBuckets e.key.toNat seed b; h0 == p / 4 || h1 == p / 4
    match ((List.range 64).map (4 * 2 ^ b + ·)).find? fun q => (t.get? q).any fits with
    | some q => match t.get? q with
      | some e => (t.erase q).set p e
      | none => t
    | none => t

/-- Remove the entries `p` picks; freed bucket slots are refilled from the stash in ascending order (R241). -/
def eftRemove (t : SMap EftEnt) (seed b : Nat) (p : EftEnt → Bool) : SMap EftEnt :=
  let gone := (t.filter fun x => p x.2).map (·.1)
  gone.foldl (fun t q => eftRefill t seed b q) (t.filter fun x => !p x.2)

/-! ### Operations on the table (R239 to R249) -/

/-- Where a key is held: in the layout in force or, during a rehash, in the old one (R248). -/
def State.eftFind (s : State) (k : Nat) : Option (Bool × Nat × EftEnt) :=
  match eftPos s.eft.tbl k s.eft.seed s.eftB with
  | some p => (s.eft.tbl.get? p).map fun e => (true, p, e)
  | none => match eftPos s.eft.old k s.eft.oldSeed s.eftB with
    | some p => (s.eft.old.get? p).map fun e => (false, p, e)
    | none => none

/-- A lookup is counted (Table 20-2). On a tray it hits or misses the SRAM cache, which of the two being free. -/
def State.eftCount (s : State) : State :=
  have s := s.ev .eft 0 1
  if s.isTray then
    let (w, s) := s.draw
    if w.getLsbD 0 then s.bumpW Fd.EFT_CACHE_HITS else (s.bumpW Fd.EFT_CACHE_MISSES).ev .eft 0 4
  else s

/-- An entry of the layout in force (`true`) or the old one is replaced. -/
def State.eftSet (s : State) (new : Bool) (p : Nat) (e : EftEnt) : State :=
  { s with eft := if new then { s.eft with tbl := s.eft.tbl.set p e } else { s.eft with old := s.eft.old.set p e } }

/-- An entry is removed and its slot refilled (R241). -/
def State.eftDrop (s : State) (new : Bool) (p : Nat) : State :=
  { s with eft :=
      if new then { s.eft with tbl := eftRefill (s.eft.tbl.erase p) s.eft.seed s.eftB p }
      else { s.eft with old := eftRefill (s.eft.old.erase p) s.eft.oldSeed s.eftB p } }

/-- A key written since the last boundary, for the mirror of a tray (R407). -/
def State.eftWrote (s : State) (k : Nat) : State :=
  if s.isTray ∧ !s.bud.dirty.contains k then { s with bud := { s.bud with dirty := s.bud.dirty ++ [k] } } else s

/-- An absent key is inserted; the state and its position, none where it fails with FULL (R240). -/
def State.eftInsert (s : State) (e : EftEnt) : State × Option Nat :=
  match eftPlace s.eft.tbl s.eft.seed s.eftB e with
  | some (t, p, n) =>
    have s := { s with eft := { s.eft with tbl := t } }
    have s := ((s.ev .eft 0 2).ev .eft 0 3 n).bumpW Fd.EFT_RELOC_RELOCATIONS 0 n
    (s.setFld Fd.EFT_RELOC_LONGEST 0 (max n (s.fld Fd.EFT_RELOC_LONGEST)), some p)
  | none => ((s.bump Fd.EFT_CNT_INSERT_FAIL).fault .eft 0 0, none)

/-- A read of an entry hit an uncorrectable error: the entry is removed (R249). -/
def State.eftEcc (s : State) (new : Bool) (p : Nat) : State :=
  ((s.eftDrop new p).bump Fd.EFT_CNT_MEM_UNCORR).fault .eft 0 1

/-- A lookup that reads the entry: none where it is absent or its read hit an uncorrectable error. -/
def State.eftGet (s : State) (k : Nat) (ecc : Bool) : State × Option (Nat × EftEnt) :=
  have s := s.eftCount
  match s.eftFind k with
  | none => (s, none)
  | some (new, p, e) => if ecc then (s.eftEcc new p, none) else (s, some (p, e))

/-- The entry of a key meets an uncorrectable error as an operation reads it (R249). -/
def State.eftHit (s : State) (k : Nat) : State :=
  match s.eftFind k with
  | some (l, p, _) => s.eftEcc l p
  | none => s

/-- A missing feature (Table 09-7). -/
def featMissing : BitVec 32 := 0x80000000

/-- The 256 bytes of an entry (Table 09-7). -/
def EftEnt.bytes (e : EftEnt) : Bytes :=
  leBytes 8 e.key.toNat ++ leBytes 4 e.stamp ++ leBytes 4 (1 + b2n e.pinned * 2 + e.gen * 256) ++ leBytes 4 e.writes ++
    leBytes 12 0 ++ e.feats.flatMap fun f => leBytes 4 f.toNat

/-- What an EFT command answers: RESULT, position, entry bytes. -/
structure EftOut where
  st  : State
  res : Nat
  pos : Nat
  ent : Option Bytes

/-- READ (Table 09-8). -/
def eftRead (k : Nat) (ecc : Bool) (s : State) : EftOut :=
  match s.eftGet k ecc with
  | (s, some (p, e)) => ⟨s, 0, p, some e.bytes⟩
  | (s, none) => ⟨s, 1, 0, none⟩

/-- Stamp `a` is newer than stamp `b` (R251). -/
def stampNewer (a b : Nat) : Bool := decide (1 ≤ wrapI ((a : Int) - b) 32 ∧ wrapI ((a : Int) - b) 32 < 2 ^ 31)

/-- WRITE (Table 09-8, R240, R245, R251): `opt` is TBL_KEY1, `m` the 256 bytes of data; under `ecc` the read of a present entry hits an
error and the WRITE goes on as for an absent key (R249). -/
def eftWrite (k opt : Nat) (m : Bytes) (ecc : Bool) (s : State) : EftOut :=
  let flags := rdLE m 12 4
  have s := s.eftCount
  if bits flags 7 2 ≠ 0 ∨ bits flags 31 16 ≠ 0 ∨ rdLE m 20 12 ≠ 0 then ⟨s, 6, 0, none⟩
  else
    let stamp := if bit opt 2 then rdLE m 8 4 else s.epochNow % 2 ^ 32
    let new : EftEnt := { key := BitVec.ofNat 64 k, stamp, pinned := bit flags 1, gen := bits flags 15 8, writes := 1
                          feats := (List.range 56).map fun i => BitVec.ofNat 32 (rdLE m (32 + 4 * i) 4) }
    have s := if ecc then s.eftHit k else s
    match s.eftFind k with
    | some (l, p, e) =>
      if bit opt 1 then ⟨s, 4, 0, none⟩
      else if bit opt 3 ∧ !stampNewer stamp e.stamp then ⟨s, 7, 0, none⟩
      else ⟨(s.eftSet l p { new with writes := min (e.writes + 1) 0xFFFFFFFF }).eftWrote k, 0, p, none⟩
    | none =>
      if bit opt 0 then ⟨s, 1, 0, none⟩
      else match s.eftInsert new with
        | (s, some p) => ⟨s.eftWrote k, 0, p, none⟩
        | (s, none) => ⟨s, 5, 0, none⟩

/-- DELETE (Table 09-8, R241). -/
def eftDelete (k : Nat) (ecc : Bool) (s : State) : EftOut :=
  have s := s.eftCount
  have s := if ecc then s.eftHit k else s
  match s.eftFind k with
  | some (l, p, _) => ⟨s.eftDrop l p, 0, 0, none⟩
  | none => ⟨s, 1, 0, none⟩

/-- READ_POS (Table 09-8): a free position returns VALID = 0. -/
def eftReadPos (p : Nat) (ecc : Bool) (s : State) : EftOut :=
  if s.eftCap + 64 ≤ p then ⟨s, 2, 0, none⟩
  else
    have s := s.eftCount
    match s.eft.tbl.get? p with
    | some e => if ecc then ⟨s.eftEcc true p, 1, 0, none⟩ else ⟨s, 0, p, some e.bytes⟩
    | none => ⟨s, 0, p, some (List.replicate 256 0)⟩

/-- PURGE_GEN begins (Table 09-8): it ends at EFT_PURGE_DONE. -/
def eftPurge (gen : Nat) (by_ : EftBy) (s : State) : State :=
  { s with eft := { s.eft with purge := s.eft.purge ++ [(gen, by_)] } }

/-- Unpinned entries of a generation leave both layouts; each counts in PURGED. -/
def State.eftPurgeAll (s : State) (gen : Nat) : State :=
  let p := fun (e : EftEnt) => !e.pinned && e.gen == gen
  let n := (s.eft.tbl.filter fun x => p x.2).length + (s.eft.old.filter fun x => p x.2).length
  ({ s with eft := { s.eft with tbl := eftRemove s.eft.tbl s.eft.seed s.eftB p
                                old := eftRemove s.eft.old s.eft.oldSeed s.eftB p } }).bump Fd.EFT_CNT_PURGED 0 n

/-! ### The window -/

/-- What the window shows of a command's outcome. -/
def EftOut.win (o : EftOut) : WinOut :=
  match o.ent with
  | some m => { o.st.winData (toWords 32 m) o.pos with res := o.res }
  | none => o.st.win o.res o.pos

/-- EFT READ. -/
def eftReadWin (ecc : Bool) (s : State) : WinOut := (eftRead (s.key .eft 0 0).toNat ecc s).win

def execEftRead (q : Req) (ecc : Bool) (s : State) : Host.Outcome State Fault Refusal :=
  done (s.winCmd q .eft 0 0 1 0 (eftReadWin ecc))

/-- EFT WRITE. -/
def eftWriteWin (ecc : Bool) (s : State) : WinOut :=
  (eftWrite (s.key .eft 0 0).toNat (s.key .eft 0 1).toNat (s.dataBytes .eft 0 256) ecc s).win

def execEftWrite (q : Req) (ecc : Bool) (s : State) : Host.Outcome State Fault Refusal :=
  done (s.winCmd q .eft 0 0 2 0 (eftWriteWin ecc))

/-- EFT DELETE. -/
def eftDeleteWin (ecc : Bool) (s : State) : WinOut := (eftDelete (s.key .eft 0 0).toNat ecc s).win

def execEftDelete (q : Req) (ecc : Bool) (s : State) : Host.Outcome State Fault Refusal :=
  done (s.winCmd q .eft 0 0 3 0 (eftDeleteWin ecc))

/-- EFT READ_POS. -/
def eftReadPosWin (idx : Nat) (ecc : Bool) (s : State) : WinOut := (eftReadPos idx ecc s).win

def execEftReadPos (q : Req) (idx : Nat) (ecc : Bool) (s : State) : Host.Outcome State Fault Refusal :=
  done (s.winCmd q .eft 0 0 4 idx (eftReadPosWin idx ecc))

/-- EFT PURGE_GEN. -/
def eftPurgeWin (s : State) : WinOut := (eftPurge (bits (s.key .eft 0 1).toNat 15 8) .window s).winBusy

def execEftPurgeGen (q : Req) (s : State) : Host.Outcome State Fault Refusal := done (s.winCmd q .eft 0 0 5 0 eftPurgeWin)

/-- Entries in scan order: the layout in force by position, then the old one. -/
def State.eftAll (s : State) : List (Nat × EftEnt) :=
  s.eft.tbl ++ s.eft.old.map fun x => (x.1 + s.eftCap + 64, x.2)

/-- EFT SNAPSHOT (R250): it runs until EFT_SNAPSHOT_DONE; its entries and header join the transfer as they are copied. -/
def eftSnapshotWin (s : State) : WinOut :=
  if s.eft.snap.isSome then s.win 3
  else
    let va := bits (s.key .eft 0 0).toNat 47 0
    have s := { s with eft := { s.eft with snap := some { va, start := s.epochNow, pos := 0, count := 0, closed := false } } }
    (s.beginRanges 8 0 (s.fld Fd.EFT_CTL_PUMP_CH) (s.fld Fd.EFT_CTL_XLT_CTX) [] true [] true).winBusy

def execEftSnapshot (q : Req) (s : State) : Host.Outcome State Fault Refusal :=
  done (s.winCmd q .eft 0 0 6 0 eftSnapshotWin)

/-- The header of a snapshot (R250), whose last entry has been copied. -/
def State.snapHeader (s : State) (p : Snap) : Bytes :=
  leBytes 4 0x31544645 ++ leBytes 4 p.count ++ leBytes 5 p.start ++ leBytes 3 0 ++ leBytes 5 s.epochNow ++ leBytes 3 0 ++
    leBytes 4 s.eft.seed ++ leBytes 1 s.eftB ++ leBytes 35 0

/-- EFT_SNAPSHOT_DONE (R250): every entry and the header are written. -/
def eftSnapshotDone (s : State) : State :=
  if s.eft.snap.any (·.closed) ∧ (s.carried 8 0).isSome then
    (({ s with eft := { s.eft with snap := none } }).endXfer 8 0).winEnd .eft 0 0
  else s

def execEftSnapshotDone (s : State) : Host.Outcome State Fault Refusal := done (eftSnapshotDone s)

/-- EFT READ of a feed rule (R247). -/
def eftFeedRead (idx : Nat) (s : State) : WinOut :=
  if !s.isTray then s.win 3
  else if 64 ≤ idx then s.win 2
  else match s.eft.feeds.get? idx with
    | some f => s.winData [BitVec.ofNat 64 (b2n f.valid * 2 ^ 63 + f.op * 2 ^ 56 + f.feat * 2 ^ 48 + f.shift * 2 ^ 40 + f.cls * 2 ^ 32 + f.field)]
    | none => s.winData [0]

def execEftFeedRead (q : Req) (idx : Nat) (s : State) : Host.Outcome State Fault Refusal :=
  done (s.winCmd q .eft 0 1 1 idx (eftFeedRead idx))

/-- EFT WRITE of a feed rule (R247); one without VALID is held and not applied. -/
def eftFeedWrite (idx : Nat) (s : State) : WinOut :=
  let d := (s.data .eft 0 0).toNat
  if !s.isTray then s.win 3
  else if 64 ≤ idx then s.win 2
  else if bits d 57 56 = 3 ∨ 55 < bits d 53 48 then s.win 6
  else
    let f : FeedRule := { valid := bit d 63, op := bits d 57 56, feat := bits d 53 48, shift := bits d 45 40, cls := bits d 39 32, field := bits d 9 0 }
    { s with eft := { s.eft with feeds := s.eft.feeds.set idx f } }.win 0

def execEftFeedWrite (q : Req) (idx : Nat) (s : State) : Host.Outcome State Fault Refusal :=
  done (s.winCmd q .eft 0 1 2 idx (eftFeedWrite idx))

/-! ### Background work -/

/-- EFT_SWEEP_DONE (R246); with AGE_MAX 0 a sweep that still runs removes nothing more. -/
def eftSweepDone (s : State) : State :=
  if s.eft.sweep then
    let p := fun (e : EftEnt) => !e.pinned && decide (s.eft.ageMax ≠ 0 ∧ s.eft.ageMax < wrapI ((s.epochNow : Int) - e.stamp) 32)
    let n := (s.eft.tbl.filter fun x => p x.2).length + (s.eft.old.filter fun x => p x.2).length
    ({ s with eft := { s.eft with sweep := false, tbl := eftRemove s.eft.tbl s.eft.seed s.eftB p
                                  old := eftRemove s.eft.old s.eft.oldSeed s.eftB p } }).bump Fd.EFT_CNT_AGED 0 n
  else s

def execEftSweepDone (s : State) : Host.Outcome State Fault Refusal := done (eftSweepDone s)

/-- The sweep of an epoch boundary (R246): a leaf's waits for its next priming where the domain is not up. -/
def State.eftBoundary (s : State) : State :=
  if s.eft.ageMax = 0 ∨ s.eft.sweep then s
  else if s.primed then { s with eft := { s.eft with sweep := true } }
  else { s with eft := { s.eft with sweepDue := true } }

/-- The entries of the old layout find their places, or are removed (R248). -/
def State.eftReplace (s : State) : State :=
  have s := s.eft.old.foldl (fun s x => (s.eftInsert x.2).1) s
  { s with eft := { s.eft with old := [], oldSeed := 0, rehash := false } }

/-- `EFT_CFG` takes effect (R246, R248): AGE_MAX applies, and a new SEED starts the rehash. One that meets a rehash still running
completes that first (DESIGN CHOICE, log entry 125). -/
def State.eftCommit (s : State) : State :=
  let seed := s.fld Fd.EFT_CFG_SEED
  let ageMax := s.fld Fd.EFT_CFG_AGE_MAX
  have s := { s with eft := { s.eft with ageMax, sweepDue := s.eft.sweepDue && decide (ageMax ≠ 0) } }
  if seed = s.eft.seed then s
  else
    have s := if s.eft.rehash then s.eftReplace else s
    { s with eft := { s.eft with seed, tbl := [], oldSeed := s.eft.seed, old := s.eft.tbl, rehash := true } }

/-- EFT_REHASH_DONE (R248): the entries of the keys `lost` hit an error as the rehash reads them (R249). -/
def eftRehashDone (lost : List Word) (s : State) : State :=
  if s.eft.rehash then (lost.foldl (fun s k => s.eftHit k.toNat) s).eftReplace else s

def execEftRehashDone (lost : List Word) (s : State) : Host.Outcome State Fault Refusal := done (eftRehashDone lost s)

/-! ### Feeds (R247) -/

/-- A record field as a feature (R229), and whether it saturated. -/
def featureOf (v : Int) (shift : Nat) : Int × Bool :=
  let x := shiftRne v (-(shift : Int))
  (satI x (-(2 ^ 31 - 1)) (2 ^ 31 - 1), decide (x < -(2 ^ 31 - 1) ∨ x > 2 ^ 31 - 1))

/-- One rule on a feature. -/
def feedApply (op : Nat) (old : BitVec 32) (x : Int) : BitVec 32 :=
  let o := sext old.toNat 32
  let y := if op = 1 then satI ((if old = featMissing then 0 else o) + x) (-(2 ^ 31 - 1)) (2 ^ 31 - 1)
    else if op = 2 then (if old = featMissing then x else max o x) else x
  BitVec.ofNat 32 (wrapI y 32)

/-- The rules of one class on one leaf's entry, as one update; the read of a key in `lost` hits an error (R249). -/
def State.feedEntry (s : State) (leaf gen : Nat) (field : Nat → Int) (lost : List Word) (cls : Nat) : State :=
  let k := cls * 2 ^ 56 + leaf
  let rules := (s.eft.feeds.map (·.2)).filter fun f => f.valid && f.cls == cls
  let upd := fun (e : EftEnt) =>
    { e with stamp := s.epochNow % 2 ^ 32, gen, writes := min (e.writes + 1) 0xFFFFFFFF
             feats := rules.foldl (fun fs f => fs.set f.feat (feedApply f.op (fs.getD f.feat featMissing) (featureOf (field f.field) f.shift).1)) e.feats }
  have s := s.eftCount
  have s := if lost.contains (BitVec.ofNat 64 k) then s.eftHit k else s
  match s.eftFind k with
  | some (l, p, e) => (s.eftSet l p (upd e)).eftWrote k
  | none =>
    have e : EftEnt := { key := BitVec.ofNat 64 k, stamp := 0, pinned := false, gen, writes := 0, feats := List.replicate 56 featMissing }
    (s.eftInsert (upd e)).1.eftWrote k

/-- The feed rules of a merged member record (R247). -/
def State.feedRecord (s : State) (leaf gen : Nat) (field : Nat → Int) (lost : List Word) : State :=
  (((s.eft.feeds.filter fun f => f.2.valid).map fun f => f.2.cls).eraseDups).foldl (fun s c => s.feedEntry leaf gen field lost c) s

/-- `EFT_STAT` (Table 09-14). -/
def eftStat (s : State) : Nat :=
  s.eftAll.length * 2 ^ 40 + ((s.eft.tbl.filter fun x => s.eftCap ≤ x.1).length + (s.eft.old.filter fun x => s.eftCap ≤ x.1).length) * 2 ^ 32
    + b2n (!s.eft.purge.isEmpty) * 8 + b2n s.eft.rehash * 4 + b2n s.eft.sweep * 2 + b2n s.eft.snap.isSome

/-- `PG_CTRL.UNIT_RESET` of EFT (R255): a running PURGE_GEN or SNAPSHOT ends; the entries and feed rules
are memories and stay (R51). `EFT_CFG` is back at its reset value: AGE_MAX is off, and the entries are rehashed to SEED 0 as after a
commit of it (DEDUCED, log entry 125). -/
def eftReset (s : State) : State :=
  have s := { s with eft := { s.eft with purge := [], snap := none } }
  (s.endXfer 8 0).eftCommit

end Sys2Proof.Machine
end

