-- ==== Sys2Proof/Machine/Pwr.lean ====
section
/-! DEFINITION. PWR (chapter 03): votes, the priming sequence, the hold timer, the regulator handshake. -/

namespace Sys2Proof.Machine

/-- The fast domain is unprimed and no sequence runs. -/
def State.unprimed (s : State) : Bool := decide (s.pst ≤ 1)

/-- The FAST_VOK wait at the start of a priming (R72, R76): the first attempt after a change of FAST_VID counts 100 µs from that change,
a retry from its own start. -/
def State.vokWaitEnd (s : State) : Option Nat :=
  if s.pwr.vok then none else some ((if s.pwr.vidNew then s.pwr.vidEdge else s.aon) + 100 * cyUs)

/-- A priming sequence starts (Table 03-3). -/
def State.startPriming (s : State) : State :=
  have s := (s.setFld Fd.PWR_STATE_STATE 0 2).setFld Fd.PWR_STATE_POINT 0 s.pwr.vid
  have s := if s.pwr.boot then s else s.setFld Fd.PWR_LAST_WAKE_CAUSE 0 s.pwr.cause
  { s with pwr := { s.pwr with start := s.aon, vokWait := s.vokWaitEnd, vidNew := false } }

/-- Priming starts when votes stand, or for the boot, and nothing holds it back (R70, R72). -/
def State.tryPriming (s : State) : State :=
  if s.unprimed ∧ (s.reg Rg.PWR_VOTE ≠ 0 ∨ s.pwr.boot) ∧ s.fld Fd.PWR_STATE_PRIME_FAILED = 0 then s.startPriming else s

/-- The point in force moves to FAST_VID while the domain is unprimed (R76). -/
def State.applyVid (s : State) : State :=
  if s.unprimed ∧ s.fld Fd.PWR_CFG_DVFS_POINT ≠ s.pwr.vid then
    { s with pwr := { s.pwr with vid := s.fld Fd.PWR_CFG_DVFS_POINT, vidEdge := s.aon, vidNew := true, vok := false } }
  else s

/-- A voter raises its vote (R70, R73). A tray has no priming (R82). A vote seen while the sequence already runs is not its first
(Table 03-3). -/
def State.voteUp (s : State) (v : Voter) : State :=
  if s.isTray ∨ (s.reg Rg.PWR_VOTE).getLsbD (voterBit v) then s
  else
    have s := if s.reg Rg.PWR_VOTE = 0 ∧ s.pst ≠ 2 then { s with pwr := { s.pwr with firstVote := s.aon, cause := (voterBit v) } } else s
    have s := s.setReg Rg.PWR_VOTE 0 (s.reg Rg.PWR_VOTE ||| BitVec.ofNat 64 (2 ^ (voterBit v)))
    if s.pst = 4 then s.setFld Fd.PWR_STATE_STATE 0 3 else s.tryPriming

/-! ### The cores across an unpriming (R270, R271) -/

/-- The domain begins to unprime: a host-window load in flight is discarded, and the watchdogs stop counting. -/
def State.coresSleep (s : State) : State :=
  have s := s.cor.cores.foldl (fun s (x : Nat × CoreSt) => if x.2.host.any fun h => !h.2.1 then s.endXfer 7 x.1 else s) s
  have cores := s.cor.cores.mapV fun _ k => { k with counted := s.aon - k.kickAt }
  { s with cor := { s.cor with cores } }

/-- The domain is primed again: the discarded loads are issued again with their stall limit anew, and the watchdogs go on from what they
had counted. -/
def State.coresWake (s : State) : State :=
  have cores := s.cor.cores.mapV fun _ k =>
    { k with kickAt := s.aon - k.counted, host := k.host.map fun h => if h.2.1 then h else (h.1, false, s.aon) }
  have s := { s with cor := { s.cor with cores } }
  s.cor.cores.foldl (fun s (x : Nat × CoreSt) => match x.2.host with
    | some (off, false, _) =>
      s.beginRead 7 x.1 0x3F (s.fld Fd.COR_CFG_XLT_CTX) ((s.fld Fd.COR_HOSTWIN_BASE + off) % 2 ^ 48) 4
    | _ => s) s

/-- A priming attempt failed (R72). -/
def State.primeFailed (s : State) : State :=
  have s := if s.pwr.boot then s else s.bumpW Fd.PWR_PRIME_CNT_FAIL
  have s := { s with pwr := { s.pwr with fails := s.pwr.fails + 1, vokWait := none } }
  if 3 ≤ s.pwr.fails then
    (((s.setFld Fd.PWR_STATE_STATE 0 0).applyVid).setFld Fd.PWR_STATE_PRIME_FAILED 0 1).fault .pwr 0 0
  else s.startPriming

/-- PRIMING_DONE: the domain is PRIMED (R70, Table 03-3). A boot priming goes on to the wipe (Table 21-3); a due EFT sweep
starts (R246). A latency above 65,535 cycles shows as 65,535 (DESIGN CHOICE, log entry 112). -/
def primingDone (s : State) : State :=
  if s.pst = 2 ∧ s.pwr.vokWait = none then
    have lat := min (s.aon - s.pwr.firstVote) 0xFFFF
    have s := { s.setFld Fd.PWR_STATE_STATE 0 3 with pwr := { s.pwr with fails := 0 } }
    have s := if s.pwr.boot then s else
      ((((s.bumpW Fd.PWR_PRIME_CNT_COUNT).item 2).setFld Fd.PWR_LAST_WAKE_LAST 0 lat).setFld Fd.PWR_LAST_WAKE_WORST 0
        (max lat (s.fld Fd.PWR_LAST_WAKE_WORST)))
    have s := s.coresWake
    have s := if s.eft.sweepDue then { s with eft := { s.eft with sweepDue := false, sweep := true } } else s
    if s.pwr.boot then { s.setFld Fd.LCM_STATE_PHASE 0 3 with lcm := { s.lcm with wipeFrom := s.aon } }
    else if s.reg Rg.PWR_VOTE = 0 then s.enterHold else s
  else s

def execPrimingDone (s : State) : Host.Outcome State Fault Refusal := done (primingDone s)

/-- HOLD_EXPIRE (R70). -/
def holdExpire (s : State) : State :=
  if s.pst = 4 then
    have s := s.reach s.pwr.holdEnd
    (s.setFld Fd.PWR_STATE_STATE 0 5).coresSleep
  else s

def execHoldExpire (s : State) : Host.Outcome State Fault Refusal := done (holdExpire s)

/-- UNPRIMING_DONE (R70, R76, R298): the pumps' segments have returned; a vote that arrived meanwhile starts PRIMING. -/
def unprimingDone (s : State) : State :=
  if s.pst = 5 ∧ s.tagsUsed = 0 then ((s.setFld Fd.PWR_STATE_STATE 0 0).applyVid).tryPriming else s

def execUnprimingDone (s : State) : Host.Outcome State Fault Refusal := done (unprimingDone s)

/-- FAST_VOK_ASSERT (R76, R540): the level counts for the new point; a waiting sequence starts its 50 µs now. -/
def fastVokAssert (s : State) : State :=
  if s.pwr.vok then s
  else
    have w := if s.pwr.vokWait.isSome then { s.pwr with vok := true, vokWait := none, start := s.aon }
      else { s.pwr with vok := true }
    { s with pwr := w }

def execFastVokAssert (s : State) : Host.Outcome State Fault Refusal := done (fastVokAssert s)

/-- PRIME_TIMEOUT: 50 µs of sequence without PRIMED (R72). -/
def primeTimeout (s : State) : State :=
  if s.pst = 2 ∧ s.pwr.vokWait = none then (s.reach (s.pwr.start + 50 * cyUs)).primeFailed else s

def execPrimeTimeout (s : State) : Host.Outcome State Fault Refusal := done (primeTimeout s)

/-- FAST_VOK_TIMEOUT: the wait for FAST_VOK ran past its 100 µs (R72). -/
def fastVokTimeout (s : State) : State :=
  match s.pwr.vokWait with
  | some e => if s.pst = 2 then (s.reach e).primeFailed else s
  | none => s

def execFastVokTimeout (s : State) : Host.Outcome State Fault Refusal := done (fastVokTimeout s)

/-- A write of `PWR_CTRL` (R72): RETRY_PRIME clears PRIME_FAILED and the failure count, and priming may start. -/
def pwrCtrlWrite (d : Word) (s : State) : State :=
  if s.isTray ∨ !d.getLsbD 0 then s
  else ({ s.setFld Fd.PWR_STATE_PRIME_FAILED 0 0 with pwr := { s.pwr with fails := 0 } }).tryPriming

/-- RETRY_PRIME. -/
def execRetryPrime (q : Req) (d : Word) (s : State) : Host.Outcome State Fault Refusal :=
  done (s.rowWrite q .pwr 0 0x60 d fun s => (pwrCtrlWrite d s).okay)

/-- A write of `PWR_SW_VOTE` (R74). -/
def swVoteWrite (d : Word) (s : State) : State :=
  if s.isTray then s
  else
    have s := s.setReg Rg.PWR_SW_VOTE 0 (d &&& 1)
    if d.getLsbD 0 then s.voteUp .sw else s.voteDown .sw

/-- PWR_SW_VOTE_WRITE. -/
def execPwrSwVoteWrite (q : Req) (d : Word) (s : State) : Host.Outcome State Fault Refusal :=
  done (s.rowWrite q .pwr 0 0x50 d fun s => (swVoteWrite d s).okay)

/-- FAST_RAIL_DROOP: FAST_VOK low for more than 1 µs while the rail is watched (R540). -/
def fastRailDroop (s : State) : State :=
  if 2 ≤ s.pst ∧ s.pst ≤ 5 ∧ s.pwr.vokWait = none ∧ s.isTray = false then s.fault .pwr 0 1 else s

def execFastRailDroop (s : State) : Host.Outcome State Fault Refusal := done (fastRailDroop s)

/-- `PG_CTRL.UNIT_RESET` of PWR (R81). The registers at 0x040 on have been reset by R51; STATE, POINT and the hardware votes
come back. `old` is the state before. -/
def pwrReset (old s : State) : State :=
  have s := (s.setFld Fd.PWR_STATE_STATE 0 old.pst).setFld Fd.PWR_STATE_POINT 0 (old.fld Fd.PWR_STATE_POINT)
  have s := s.setReg Rg.PWR_VOTE 0 (old.reg Rg.PWR_VOTE)
  have s := s.setFld Fd.PWR_STAGE_FILL 0 (old.fld Fd.PWR_STAGE_FILL)
  have s := { s with pwr := { s.pwr with fails := 0 } }.applyVid
  s.voteDown .sw

end Sys2Proof.Machine
end

