-- ==== Sys2Proof/Machine/Runs.lean ====
section
/-! DEFINITION. What every producer of records and every engine shares: the common header (R338), the run log (R512), and the
launch, preemption and end of MXE and TRE runs (R206 to R218, R233, R235). -/

namespace Sys2Proof.Machine

/-! ### Records -/

/-- The common header (R338, Table 13-1). -/
def commonHeader (type template node job gen epoch flags : Nat) : Bytes :=
  leBytes 16 (type % 256 + template % 256 * 2 ^ 8 + node % 2 ^ 20 * 2 ^ 16 + job % 2 ^ 24 * 2 ^ 36 + gen % 256 * 2 ^ 60
    + epoch % 2 ^ 40 * 2 ^ 68 + flags % 2 ^ 20 * 2 ^ 108)

/-- The TIME_HOLDOVER flag of everything the instance produces (R89). -/
def State.holdFlag (s : State) : Nat := b2n s.holdover

/-- A verdict record (R202, R234). -/
def State.verdict (s : State) (vcode job gen epoch : Nat) (warn : Bool) (body : Bytes) : Bytes :=
  commonHeader 0x30 vcode s.nodeId job gen epoch (s.holdFlag + b2n warn * 32) ++ body

/-- The latest closed epoch as a launch sees it: of a leaf the epoch before the current one, of a tray that of the last
record of MODEL_STREAM (R200, R513). -/
def State.lastClosed (s : State) : Nat :=
  match s.isTray, s.rdx.model with
  | true, some (n, _) => n
  | _, _ => s.epochNow - 1

/-- A run end enters the run log (R512): `w` are words 1 to 5 of Table 20-8. -/
def State.logRun (s : State) (w : List Nat) : State :=
  let step := (s.reg Rg.PMU_STEP).toNat
  let depth := if s.isTray then 1024 else 256
  let (t, s) := s.fastStamp
  let ent := BitVec.ofNat 64 step :: (w.map (BitVec.ofNat 64) ++ timeWords' t)
  { s with pmu := { s.pmu with log := (s.pmu.log.set step ent).drop fun k => decide (k + depth ≤ step) } }.setReg Rg.PMU_STEP 0
    (BitVec.ofNat 64 (step + 1))
where
  timeWords' (u : Nat) : List Word := [BitVec.ofNat 64 (time96 u), BitVec.ofNat 64 (time96 u / 2 ^ 64)]

/-! ### MXE -/

/-- An empty slot; no context area. -/
def MSlot.rest : MSlot :=
  { valid := false, imageVa := 0, hostVa := 0, ctxAddr := 0xFFFFFF, scrBase := 0, xltCtx := 0, epochTrg := false, prio := 0
    lutBase := 0, imemBase := 0, cycles := 0, nInstr := 0, scrBytes := 0, lutCount := 0, crc := 0 }

/-- An engine at reset. -/
def Mxe.rest : Mxe :=
  { eSeen := 0, imem := [], scratch := [], luts := [], acc := [], fst := [], feed := [], slots := [], pend := [], run := none, saved := []
    mode := 0, vq := [], loading := none, abortRes := 0 }

def State.mx (s : State) (e : Nat) : Mxe := s.mxe.getD e Mxe.rest
def State.setMx (s : State) (e : Nat) (m : Mxe) : State := { s with mxe := s.mxe.set e m }
def Mxe.slot (m : Mxe) (k : Nat) : MSlot := m.slots.getD k MSlot.rest

/-- Instructions of the instruction memory, bytes of the scratch, lanes, feed log entries and bytes of a context image
(Table 08-2). -/
def State.imemSize (s : State) : Nat := if s.isTray then 32768 else 8192
def State.scratchSize (s : State) : Nat := if s.isTray then 8 * 2 ^ 20 else 2 * 2 ^ 20
def State.laneCount (s : State) : Nat := if s.isTray then 8192 else 2048
def State.feedSize (s : State) : Nat := if s.isTray then 16384 else 4096
def State.ctxSize (s : State) : Nat := if s.isTray then 2 ^ 18 else 2 ^ 16

/-- Engines fitted. -/
def State.mxeCount (s : State) : Nat :=
  if s.isTray then (if s.chip.full then 8 else 4) else if s.chip.full then 1 else 0

/-- The rank of a slot's priority: screening's slot 7 stands below every other (R212). -/
def State.mxePrio (s : State) (e k : Nat) : Nat :=
  if k = 7 ∧ s.fld Fd.MXE_CFG_SCR_SLOT_EN e = 1 then 0 else ((s.mx e).slot k).prio + 1

/-- A slot has a run: pending, running or preempted (R207). -/
def Mxe.hasRun (m : Mxe) (k : Nat) : Bool :=
  m.pend.any (·.slot == k) || (m.run.any (·.slot == k)) || m.saved.any (·.slot == k)

/-- The run of highest priority, then lowest slot number (R207, R210). -/
def bestRun (prio : Nat → Nat) : List MRun → Option MRun
  | [] => none
  | r :: rs => match bestRun prio rs with
    | none => some r
    | some b => if prio r.slot < prio b.slot ∨ prio r.slot = prio b.slot ∧ b.slot < r.slot then some b else some r

/-- The run of a screening pattern has ended (R457, R458): its status and code (status * 256 + code) and its four counts wait for SCR_PATTERN_END. -/
def State.scrEnded (s : State) (status : Nat) (cnt : List Nat) : State :=
  { s with scr := { s.scr with run := s.scr.run.map fun (r : ScrRun) => { r with ended := some (status, cnt) } } }

/-- Results of a run end (R213, R183): RUN_LAST, the cycle accounts, the counts, IRC and the run log. -/
def State.mxeEnd (s : State) (e : Nat) (r : MRun) (status code : Nat) : State :=
  let m16 := fun n => min n 0xFFFF
  have s := s.setReg Rg.MXE_RUN_LAST e (BitVec.ofNat 64
    (2 ^ 63 + r.slot * 2 ^ 60 + status * 2 ^ 56 + code * 2 ^ 48 + min r.preempts 255 * 2 ^ 40 + r.epoch % 2 ^ 40))
  have s := s.setReg Rg.MXE_CYC_LAST e (BitVec.ofNat 64 (r.stall % 2 ^ 32 * 2 ^ 32 + r.base % 2 ^ 32))
  have s := s.setReg Rg.MXE_CYC_EXTRA e (BitVec.ofNat 64 (r.switch % 2 ^ 32 * 2 ^ 32 + r.sent % 2 ^ 32))
  let ar := m16 r.sat * 2 ^ 48 + m16 r.clip * 2 ^ 32 + m16 r.loss * 2 ^ 16 + m16 r.fmt
  have s := s.setReg Rg.MXE_ARITH_LAST e (BitVec.ofNat 64 ar)
  have s := if status = 0 then s.bump Fd.MXE_RUN_CNT_DONE e
    else if status = 1 then s.bump Fd.MXE_RUN_CNT_ABORTED e
    else if status = 2 then s.bump Fd.MXE_RUN_CNT_FAULTED e else s
  have s := if r.pattern then s.scrEnded (status * 256 + code) [r.sat, r.clip, r.loss, r.fmt] else s
  have s := if r.replay then s.setFld Fd.PMU_REPLAY_STAT_STEP 0 ((s.reg Rg.PMU_STEP).toNat % 2 ^ 32) else s
  (s.pendBit 5 e).logRun
    [(if r.replay then 3 else 1) * 2 ^ 60 + e * 2 ^ 56 + r.slot * 2 ^ 52 + status * 2 ^ 48 + code * 2 ^ 40 + r.epoch % 2 ^ 40,
     ((s.mx e).slot r.slot).crc, r.stall % 2 ^ 32 * 2 ^ 32 + r.base % 2 ^ 32,
     r.switch % 2 ^ 32 * 2 ^ 32 + r.sent % 2 ^ 32, ar]

/-- The engine is free: the preempted run of highest priority is restored, unless a pending run stands above it (R210). -/
def State.mxeNext (s : State) (e : Nat) : State :=
  let m := s.mx e
  if m.mode = 0 ∧ !s.outOfService .mxe e then
    match bestRun (s.mxePrio e) m.saved with
    | none => s
    | some r =>
      if m.pend.any fun p => s.mxePrio e r.slot < s.mxePrio e p.slot then s
      else s.setMx e { m with mode := 4, run := some r, saved := m.saved.filter (·.slot != r.slot) }
  else s

/-- The running run ends (R213). -/
def State.mxeEndRun (s : State) (e status code : Nat) : State :=
  match (s.mx e).run with
  | none => s
  | some r =>
    have s := s.setMx e { s.mx e with run := none, mode := 0 }
    ((s.endXfer 3 e).mxeEnd e r status code).mxeNext e

/-- A run fault (R216): FAULT_LAST, the FLT source of its code, the end with STATUS 2. -/
def State.mxeFault (s : State) (e code : Nat) : State :=
  match (s.mx e).run with
  | none => s
  | some r =>
    have s := s.setReg Rg.MXE_FAULT_LAST e (BitVec.ofNat 64 (2 ^ 63 + r.slot * 2 ^ 56 + code * 2 ^ 48 + r.index % 2 ^ 16))
    have s := s.fault .mxe e (if code = 20 then 5 else if code = 19 then 8 else 7)
    s.mxeEndRun e 2 code

/-- Every run of an engine ends with a status (R218, R463). -/
def State.mxeEndAll (s : State) (e status : Nat) : State :=
  let m := s.mx e
  have s := s.setMx e { m with run := none, mode := 0, pend := [], saved := [] }
  have s := s.endXfer 3 e
  (m.run.toList ++ m.pend ++ m.saved).foldl (fun s r => s.mxeEnd e r status 0) s

/-- A run as it is launched (R187, R202). -/
def State.newRun (s : State) (e slot epoch : Nat) : MRun :=
  let (job, gen) := s.job
  { slot, epoch, job, gen, acfg := s.reg Rg.MXE_ARITH_CFG e
    rcfg := (List.range 16).map fun j => s.reg (Rg.MXE_RMON_CFG.nth j) e
    replay := false, stop := 0xFFFF, pattern := false, started := false, index := 0, base := 0, sent := 0, stall := 0
    switch := 0, sat := 0, clip := 0, loss := 0, fmt := 0, raised := 0, block := 0, preempts := 0, feed := [] }

/-- The run's own context image is possible (R208). -/
def MSlot.hasCtx (m : MSlot) : Bool := m.ctxAddr != 0xFFFFFF

/-- A pending run of higher priority than the running one, whose slot has a context area (R208). -/
def State.mxePreempted (s : State) (e : Nat) : Bool :=
  match (s.mx e).run with
  | none => false
  | some r => ((s.mx e).slot r.slot).hasCtx && (s.mx e).pend.any fun p => decide (s.mxePrio e r.slot < s.mxePrio e p.slot)

/-- A stalled LDH, STH or LDEFT gives way at once to a run of higher priority (R208, R209): its transfer ends and the save
begins. One whose transfer is complete is complete itself, and gives way after it. The stall cycles since its last event are free. -/
def State.mxeYieldStall (s : State) (e : Nat) : State :=
  match (s.mx e).run with
  | none => s
  | some r =>
    let op := (((s.mx e).imem.getD (((s.mx e).slot r.slot).imemBase + r.index) 0).toNat) / 2 ^ 120
    if (s.mx e).mode = 2 ∧ (op = 0x40 ∨ op = 0x41 ∨ op = 0x43) ∧ s.mxePreempted e ∧ (s.carried 3 e).isNone then
      let (w, s) := s.draw
      have s := s.setMx e { s.mx e with mode := 3, run := some { r with stall := r.stall + w.toNat % 2 ^ 32 } }
      s.endXfer 3 e
    else s

/-- A run is launched: it is pending, and the MXE voter votes (R207). -/
def State.mxeLaunch (s : State) (e : Nat) (r : MRun) : State :=
  ((s.setMx e { s.mx e with pend := (s.mx e).pend ++ [r] }).voteUp .mxe).mxeYieldStall e

/-! ### TRE -/

/-- An empty slot. -/
def TSlot.rest : TSlot :=
  { valid := false, imageVa := 0, inVa := 0, outVa := 0, xltCtx := 0, cls := 0, epochTrg := false, nodeBase := 0, setBase := 0
    emitMax := 0, nVec := 0, src := 0, nOut := 0, vcode := 0, nNodes := 0, nSets := 0, featN := 0, emitMin := 0, crc := 0
    trees := [], bias := [], fmap := [] }

/-- A TRE at reset. -/
def Tre.rest : Tre :=
  { nodes := [], sets := [], slots := [], pend := [], run := none, vq := [], loading := none, abortRes := 0 }

def State.tr (s : State) (e : Nat) : Tre := s.tre.getD e Tre.rest
def State.setTr (s : State) (e : Nat) (t : Tre) : State := { s with tre := s.tre.set e t }
def Tre.slot (t : Tre) (k : Nat) : TSlot := t.slots.getD k TSlot.rest

/-- TREs fitted. -/
def State.treCount (s : State) : Nat := if s.isTray then (if s.chip.full then 4 else 2) else 1

/-- A slot has a pending or running run (R233). -/
def Tre.hasRun (t : Tre) (k : Nat) : Bool := t.pend.any (·.slot == k) || t.run.any (·.slot == k)

/-- Results of a run end (R235). A pattern's hidden slot owns no result of the page; its end is the pattern's (R457). -/
def State.treEnd (s : State) (e : Nat) (r : TRun) (status code : Nat) : State :=
  if r.pattern then s.scrEnded (status * 256 + code) [r.featSat, r.catRange, r.missing, r.drop] else
  let m16 := fun n => min n 0xFFFF
  have s := s.setReg Rg.TRE_RUN_LAST e (BitVec.ofNat 64
    (2 ^ 63 + r.slot % 4 * 2 ^ 60 + status * 2 ^ 56 + code * 2 ^ 48 + r.epoch % 2 ^ 40))
  have s := s.setReg Rg.TRE_RUN_CYC e (BitVec.ofNat 64 (r.vectors % 2 ^ 32 * 2 ^ 32 + r.cycles % 2 ^ 32))
  have s := if status = 0 then s.bump Fd.TRE_RUN_CNT_DONE e
    else if status = 1 then s.bump Fd.TRE_RUN_CNT_ABORTED e
    else if status = 2 then s.bump Fd.TRE_RUN_CNT_FAULTED e else s
  (s.pendBit 6 e).logRun
    [2 * 2 ^ 60 + e * 2 ^ 56 + r.slot * 2 ^ 52 + status * 2 ^ 48 + code * 2 ^ 40 + r.epoch % 2 ^ 40,
     ((s.tr e).slot r.slot).crc, r.cycles % 2 ^ 32, 0,
     m16 r.featSat * 2 ^ 48 + m16 r.catRange * 2 ^ 32 + m16 r.missing * 2 ^ 16 + m16 r.drop]

/-- The running run ends. -/
def State.treEndRun (s : State) (e status code : Nat) : State :=
  match (s.tr e).run with
  | none => s
  | some r => ((s.setTr e { s.tr e with run := none }).endXfer 5 e).treEnd e r status code

/-- A run fault (R235, Table 09-3): NODE reads 0xF_FFFF where the fault is not at a node. -/
def State.treFault (s : State) (e code node : Nat) : State :=
  match (s.tr e).run with
  | none => s
  | some r =>
    have s := if r.pattern then s else s.setReg Rg.TRE_FAULT_LAST e (BitVec.ofNat 64 (2 ^ 63 + r.slot % 4 * 2 ^ 56 + code * 2 ^ 48 + node))
    have s := s.fault .tre e (if code = 19 then 2 else 1)
    s.treEndRun e 2 code

/-- Every run of a TRE ends with a status (R235, R463). -/
def State.treEndAll (s : State) (e status : Nat) : State :=
  let t := s.tr e
  have s := (s.setTr e { t with run := none, pend := [] }).endXfer 5 e
  (t.run.toList ++ t.pend).foldl (fun s r => s.treEnd e r status 0) s

/-- A run as it is launched (R233). -/
def State.newTRun (s : State) (slot epoch : Nat) : TRun :=
  let (job, gen) := s.job
  { slot, epoch, job, gen, pattern := false, pos := 0, vectors := 0, cycles := 0, emitted := 0, featSat := 0, catRange := 0
    missing := 0, drop := 0 }

/-- A run is launched: it waits its turn, and the TRE voter votes. -/
def State.treLaunch (s : State) (e : Nat) (r : TRun) : State :=
  (s.setTr e { s.tr e with pend := (s.tr e).pend ++ [r] }).voteUp .tre

/-- EPOCH slots of a TRE launch (R233): those `p` picks, in slot order. -/
def State.treEpoch (s : State) (e n : Nat) (p : TSlot → Bool) : State :=
  if !s.live .tre e then s
  else (s.tr e).slots.foldl (fun s (k, t) =>
    if t.valid && t.epochTrg && p t then
      if (s.tr e).hasRun k then (s.bump Fd.TRE_RUN_CNT_OVERRUN e).fault .tre e 0
      else s.treLaunch e (s.newTRun k n)
    else s) s

/-- EPOCH slots of an MXE launch at the boundary edge that closes epoch `n` (R206, R207). -/
def State.mxeEpoch (s : State) (e n : Nat) : State :=
  if !s.live .mxe e then s
  else (s.mx e).slots.foldl (fun s (k, t) =>
    if t.valid && t.epochTrg then
      if (s.mx e).hasRun k then (s.bump Fd.MXE_RUN_CNT_OVERRUN e).fault .mxe e 6
      else s.mxeLaunch e (s.newRun e k n)
    else s) s

/-- The engines' launches at a boundary edge that closes epoch `n`. -/
def State.enginesBoundary (s : State) (n : Nat) : State :=
  have s := (List.range s.mxeCount).foldl (fun s e => s.mxeEpoch e n) s
  (List.range s.treCount).foldl (fun s e => s.treEpoch e n fun t => t.src != 0) s

/-- The TREs' launches at the close of the record of epoch `n`. -/
def State.recordClosed (s : State) (n : Nat) : State :=
  (List.range s.treCount).foldl (fun s e => s.treEpoch e n fun t => t.src == 0) s

end Sys2Proof.Machine
end

