-- ==== Sys2Proof/Machine/Up.lean ====
section
/-! DEFINITION. The tray's two upstream ports as other units use them (chapter 15): frames, the fixed queues 0 to 3, the records
of the tray's state, and violations at a port. -/

namespace Sys2Proof.Machine

/-- An UP port at rest. -/
def UpPort.rest : UpPort :=
  { queues := [], defs := [], drr := [], visited := false, roundLeft := 0, gateIdx := 0, gateEnd := none, quars := []
    strikes := [], quarFull := 0, emptied := none }

def State.up (s : State) (p : Nat) : UpPort := s.ups.ports.getD p UpPort.rest
def State.setUp (s : State) (p : Nat) (u : UpPort) : State := { s with ups := { s.ups with ports := s.ups.ports.set p u } }

/-- The port can be used: its Ethernet link is up and its unit in service. -/
def State.upLink (s : State) (p : Nat) : Bool := s.fld Fd.UP_STAT_LINK p == 1 && s.live .up p

/-- Bytes in a list of queued frames. -/
def queueBytes : List UpItem → Nat
  | [] => 0
  | i :: r => i.frame.length + queueBytes r

/-! ### Frames -/

/-- An Ethernet frame without its FCS: addresses and EtherType in network order, payload padded to the least length. -/
def ethFrame (dst src etype : Nat) (payload : Bytes) : Bytes :=
  beBytes 6 dst ++ beBytes 6 src ++ beBytes 2 etype ++ payload ++ List.replicate (46 - payload.length) 0

/-- A frame of the UPS EtherType (R402) from port `p`: VERSION 1, its KIND, and what follows. -/
def State.upsFrame (s : State) (p dst kind : Nat) (body : Bytes) : Bytes :=
  ethFrame dst (s.fld Fd.UP_CFG_MAC p) (s.fld Fd.UPS_CFG_ETHERTYPE) (leBytes 1 1 ++ leBytes 1 kind ++ body)

/-- A message in a MSG frame: the 8-byte envelope and the message (R402). -/
def State.msgFrame (s : State) (p dst : Nat) (m : Bytes) : Bytes :=
  s.upsFrame p dst 48 (leBytes 2 m.length ++ leBytes 4 0 ++ m)

/-- The payload of a frame, its two addresses and its EtherType apart. -/
def payloadLen (f : Bytes) : Nat := f.length - 14

/-! ### The fixed queues -/

/-- The space of queues 0 to 3 (Table 15-3). -/
def fixedSpace (q : Nat) : Nat := if q = 0 then 65536 else if q = 2 then 8 * 2 ^ 20 else 2 ^ 20

/-- A frame of the reserved queues is lost (R398, R401). -/
def State.resvDrop (s : State) : State := (s.bump Fd.UPS_CNT_RESV_DROP).fault .ups 0 0

/-- The oldest frames leave a full reserved queue until `n` bytes fit (R398). -/
def State.makeRoom (s : State) (p q n : Nat) : List UpItem → State
  | [] => s
  | i :: r =>
    if queueBytes (i :: r) + n ≤ fixedSpace q then s
    else
      let u := s.up p
      (((s.setUp p { u with queues := u.queues.set q r }).resvDrop)).makeRoom p q n r

/-- A frame joins a fixed queue of port `p` (Table 15-3): a full queue 1 or 2 discards its oldest, a full queue 0 or 3 the new
one. -/
def State.putFixed (s : State) (p q : Nat) (it : UpItem) : State :=
  let n := it.frame.length
  have s := if q = 1 ∨ q = 2 then s.makeRoom p q n ((s.up p).queues.getD q []) else s
  let u := s.up p
  let l := u.queues.getD q []
  if queueBytes l + n ≤ fixedSpace q then s.setUp p { u with queues := u.queues.set q (l ++ [it]) } else s

/-- The port a frame of queues 1 to 3 takes: UP0 unless only UP1 has its link. -/
def State.fixedPort (s : State) : Nat := if !s.upLink 0 && s.upLink 1 then 1 else 0

/-- A frame built for a port joins queue `q` of 1 to 3: one that exceeds the MTU of its port takes the other port, or is lost
(R401). -/
def State.sendFixed (s : State) (q : Nat) (frame : Nat → Bytes) : State :=
  let fits := fun p => decide (payloadLen (frame p) ≤ s.fld Fd.UP_CFG_MTU p)
  let p := s.fixedPort
  if fits p then s.putFixed p q ⟨frame p, none, none⟩
  else if s.upLink (1 - p) && fits (1 - p) then s.putFixed (1 - p) q ⟨frame (1 - p), none, none⟩
  else s.resvDrop

/-- A message to the collector in queue `q`. -/
def State.toCollector (s : State) (q : Nat) (m : Bytes) : State :=
  s.sendFixed q fun p => s.msgFrame p (s.fld Fd.UPS_CFG_COLLECTOR_MAC) m

/-! ### The tray's state records (Table 15-4) -/

/-- The header of a tray state record; the manual gives it no TEMPLATE, which is a free value. -/
def State.trayHeader (s : State) (type : Nat) : Bytes × State :=
  let (w, s) := s.draw
  let (j, g) := s.job
  (commonHeader type w.toNat s.nodeId j g s.epochNow s.holdFlag, s)

/-- The sump's size in bytes and its fill in sixteenths. -/
def State.sumpSize (s : State) : Nat := s.fld Fd.CIS_SUMP_SIZE_MIB * 2 ^ 20
def State.sumpSixteenths (s : State) : Nat := if s.sumpSize = 0 then 0 else s.cis.fill * 16 / s.sumpSize

/-- A wellhead's link code (Table 15-4). -/
def State.linkCode (s : State) (w : Nat) : Nat :=
  let l := s.fld Fd.SLK_STATE_LSTATE w
  if l = 4 ∨ l = 5 then 1 else if s.fld Fd.SLK_ALT_CFG_ENABLE w = 1 then 2 else if 6 ≤ l then 3 else 0

/-- Two-bit codes of the wellheads, packed. -/
def packCodes (l : List Nat) : Nat := l.foldr (fun c a => c % 4 + 4 * a) 0

/-- The wellheads fitted. -/
def State.wellheads (s : State) : Nat := if s.isTray then (if s.chip.full then 128 else 64) else 0

/-- A HEALTH record goes to the controller (R411). -/
def State.health (s : State) : State :=
  if s.live .mgr then
    let (h, s) := s.trayHeader 0x60
    let ws := List.range s.wellheads
    let m := h ++ leBytes 1 (s.rstat .okay).toNat
      ++ leBytes 1 (s.fld Fd.CIS_STAT_SATURATED + b2n (s.fld Fd.BUD_STATE_RSTATE == 3) * 2 + s.fld Fd.BUD_STATE_MIRROR * 4)
      ++ leBytes 2 s.sumpSixteenths ++ leBytes 4 0 ++ leBytes 32 (packCodes (ws.map s.linkCode))
      ++ leBytes 32 (packCodes (ws.map fun w => ((s.lanes.get? w).map (·.lastAttn)).getD 0))
    (s.sendFixed 3 fun p => s.msgFrame p (s.fld Fd.MGR_CFG_CONTROLLER_MAC) m).bump Fd.MGR_CNT_HEALTH
  else s

/-- A HEALTH record goes out at once when a wellhead's link code has changed (R411). -/
def State.linkCheck (s : State) (w : Nat) : State :=
  let c := s.linkCode w
  if s.isTray = false ∨ s.mgr.codes.getD w 0 = c then s
  else { s with mgr := { s.mgr with codes := s.mgr.codes.set w c } }.health

/-! ### Violations at a port -/

/-- The counter of an upstream violation code (Table 15-6). -/
def upViolFld (code : Nat) : Fld :=
  let k := (code - 1) / 4
  let j := (code - 1) % 4
  ⟨Rg.UP_VIOL.nth k, 63 - 16 * j, 48 - 16 * j⟩

/-- The codes of Table 15-5 that count as strikes. -/
def upStrike (code : Nat) : Bool := decide (7 ≤ code ∧ code ≤ 11)

/-- A violation at a port (R412): counted, shown, recorded; strikes of one source may quarantine it. -/
def State.upViol (s : State) (p code src : Nat) : State :=
  have s := (s.bump (upViolFld code) p).setReg Rg.UP_VIOL_LAST p (BitVec.ofNat 64 (2 ^ 63 + code * 2 ^ 48 + src % 2 ^ 48))
  have s := s.event 0x2601 (leBytes 1 code ++ leBytes 1 p ++ leBytes 6 0 ++ leBytes 6 src)
  if upStrike code then
    have s := s.fault .up p 0
    let u := s.up p
    let win := s.fld Fd.UP_QUAR_CFG_STRIKE_WIN_MS p * cyMs
    let mac := BitVec.ofNat 48 src
    let st := (mac, s.aon) :: u.strikes.filter fun (e : BitVec 48 × Nat) => decide (s.aon < e.2 + win)
    have s := s.setUp p { u with strikes := st }
    if s.fld Fd.UP_QUAR_CFG_STRIKE_N p ≤ (st.filter fun (e : BitVec 48 × Nat) => e.1 == mac).length then
      if u.quars.length < 8 then
        have s := s.setUp p { s.up p with quars := u.quars ++ [(mac, s.aon)],
                                          strikes := st.filter fun (e : BitVec 48 × Nat) => e.1 != mac }
        (s.setFld Fd.UP_STAT_QUAR p (u.quars.length + 1)).fault .up p 1
      else s.setUp p { s.up p with quarFull := u.quarFull + 1 }
    else s
  else s

end Sys2Proof.Machine
end

