-- ==== Sys2Proof/Machine/Lane.lean ====
section
/-! DEFINITION. The SolsoLink lane (chapter 12) as the other units use it: lane states and their changes, the send
queues of the virtual channels, link-down events, strikes and quarantine, and the move of telemetry to HPA. -/

namespace Sys2Proof.Machine

/-- A lane right after power-on. -/
def Lane.rest : Lane :=
  { since := 0, reqOwn := 0, reqPeer := 0, txq := [], seq := 0, replay := [], replayPos := none, replays := 0, replaySeq := 0
    ackAt := 0, exp := 0, gapOpen := false, nakDue := false, nakAt := 0, expAt := 0, crRot := 0, freed := [], crLast := []
    peerBufs := [], rxUsed := [], syncDue := none, syncWait := none, syncTries := 0, rxMsg := [], strikes := [], flaps := []
    uncorr := [], holdS := 60, holdFrom := 0, lastUp := none, hasState := false, outSince := some 0, rrLeft := (0, 0)
    rxApp := [], appQ := 0, noise := false, out := [], held := [], lastAttn := 0, altCons := 0, altSeq := none
    altMsg := [], ahead := false, idAt := none, downed := false, ansDue := false, peerPkg := 0, rxCount := 0, rxHeld := [] }

/-- The lane of a leaf (`w` 0) or of wellhead `w`. -/
def State.lane (s : State) (w : Nat) : Lane := s.lanes.getD w Lane.rest
def State.setLane (s : State) (w : Nat) (l : Lane) : State := { s with lanes := s.lanes.set w l }

/-- A change of a lane's own data. -/
def State.modLane (s : State) (w : Nat) (f : Lane → Lane) : State := s.setLane w (f (s.lane w))

/-- The lanes of the instance: one on a leaf, one per wellhead on a tray. -/
def State.laneTotal (s : State) : Nat := if s.isTray then s.wellheads else 1

/-- The lane state (Table 12-2). -/
def State.lstate (s : State) (w : Nat) : Nat := s.fld Fd.SLK_STATE_LSTATE w

/-- Flits flow: the lane is ACTIVE. -/
def State.laneActive (s : State) (w : Nat) : Bool := s.lstate w == 4

/-- The lane is trained (R20, R66): ACTIVE, RATE_SWITCH, in which flits only pause, or HELD, "trained but not admitted" (Table 12-2).
Which states count is DEDUCED (log entry 113). -/
def State.laneTrained (s : State) (w : Nat) : Bool := s.lstate w == 4 || s.lstate w == 5 || s.lstate w == 7

/-- Codewords arrive: the lane is aligned (R307, Table 12-3). -/
def State.laneAligned (s : State) (w : Nat) : Bool := s.lstate w == 3 || s.laneTrained w

/-- The replay buffer's size in flits (R322) and the receive buffers of a VC (Table 12-6). -/
def State.replayMax (s : State) : Nat := if s.isTray then 256 else 64
def State.rxBufs (s : State) (vc : Nat) : Nat :=
  if vc = 1 then 16 else if s.isTray ∧ vc = 2 then 96 else if s.isTray ∧ vc = 3 then 64 else 8

/-! ### Sending -/

/-- An item joins the send queue of a virtual channel. -/
def State.sendItem (s : State) (w vc : Nat) (it : TxItem) : State :=
  s.modLane w fun l => { l with txq := l.txq.set vc (l.txq.getD vc [] ++ [it]) }

/-- A message joins the send queue of a virtual channel as DATA flits (R316). -/
def State.sendMsg (s : State) (w vc : Nat) (body : Bytes) : State :=
  s.sendItem w vc { ftype := 1, body, off := 0, mark := none }

/-- A one-flit item of a type of Table 12-5 joins the send queue of a virtual channel. -/
def State.sendFlit (s : State) (w ftype vc : Nat) (body : Bytes) : State :=
  s.sendItem w vc { ftype, body, off := 0, mark := none }

/-- A LINK_MSG on VC1 (Table 12-7). -/
def State.linkMsg (s : State) (w : Nat) (body : Bytes) : State := s.sendFlit w 0x22 1 (padTo 8 body)

/-! ### Uploads of capture rings, as far as the lane ends or restarts them (R440) -/

/-- The header fields and first bytes CAP_DATA and CAP_END share (R439, Table 17-4). -/
def State.capHead (s : State) (r type : Nat) (g : Ring) (u : Upload) : Bytes :=
  commonHeader type r s.nodeId g.trigJob g.trigGen g.trigEp s.holdFlag ++ leBytes 4 g.capSeq ++ leBytes 1 u.tries ++
    leBytes 1 g.cause

/-- The CAP_END of an upload. -/
def State.capEnd (s : State) (r status : Nat) (g : Ring) (u : Upload) : Bytes :=
  s.capHead r 0x51 g u ++ leBytes 2 status ++ leBytes 8 u.total ++ leBytes 4 (Nat.xor u.crc.toNat 0xFFFFFFFF) ++
    timeBytes g.trigTime

def State.setRing (s : State) (r : Nat) (g : Ring) : State := { s with cap := { s.cap with rings := s.cap.rings.set r g } }

/-- An upload ends with a STATUS (Table 17-3, R440). -/
def State.uploadClose (s : State) (r status : Nat) (g : Ring) : State :=
  let again := g.autoRe && status == 0
  have g := { g with up := none, st := if again then 1 else 3, uploaded := g.uploaded || status == 0 }
  have s := (s.setRing r g).pendBit 9 r
  if status = 0 then s else (s.bump Fd.CAP_CNT_UPLOAD_FAIL).fault .cap 0 1

/-- A lost message restarts each upload of a leaf from OFFSET 0 with TRY + 1, or ends it after TRY 15 (R440). -/
def State.uploadRestart (s : State) : State :=
  s.cap.rings.foldl (fun s (r, g) =>
    match g.up with
    | some u =>
      if u.tries < 15 then
        s.setRing r { g with up := some { u with offset := 0, tries := u.tries + 1, crc := 0xFFFFFFFF } }
      else (s.sendMsg 0 3 (s.capEnd r 2 g u)).uploadClose r 2 g
    | none => s) s

/-! ### What is lost with the link state -/

/-- Messages of a VC with an unacknowledged flit (R311): the replay buffer's messages, and one whose later flits wait. -/
def Lane.unacked (l : Lane) (vc : Nat) : Nat :=
  let fs := l.replay.filter fun f => f.ftype == 1 && f.vc == vc
  let cut := match fs.head? with | some f => b2n (!f.som) | none => 0
  let part := match l.txq.getD vc [] with | it :: _ => b2n (decide (0 < it.off) && fs.isEmpty) | [] => 0
  (fs.filter (·.som)).length + cut + part

/-- A message whose first flits have gone is dropped from its queue. -/
def dropPartial : List TxItem → List TxItem
  | it :: r => if 0 < it.off then r else it :: r
  | [] => []

/-- The replay buffer is emptied and the messages with unacknowledged flits count as lost (R311, R329). -/
def State.laneLose (s : State) (w : Nat) : State :=
  let l := s.lane w
  let n := (List.range 4).foldl (fun n vc => n + l.unacked vc) 0
  have s := s.bump Fd.SLK_MSG_CNT_MSG_LOST w n
  have s := s.setLane w { l with replay := [], replayPos := none, replays := 0, hasState := false
                                 txq := l.txq.mapV fun _ q => dropPartial q }
  if 0 < n ∧ s.isTray = false then s.uploadRestart else s

/-! ### Routes -/

/-- A write of `CMP_KEY_REQ` with ALL (R163): the next frame of every group is KEY. -/
def State.keyAll (s : State) : State :=
  { s with cmp := { s.cmp with enc := s.cmp.enc.mapV fun _ e => { e with keyReq := true } } }

/-- Telemetry moves to HPA (R329). -/
def State.hpaRoute (s : State) : State :=
  if !s.isTray ∧ s.enabled .hpa ∧ s.fld Fd.HPA_STAT_ROUTED = 0 then
    have s := (s.laneLose 0).keyAll
    have s := (s.setFld Fd.HPA_STAT_ROUTED 0 1).setFld Fd.SLK_STATE_HPA 0 1
    (s.bump Fd.HPA_CNT_ROUTE_CHANGES).pendBit 10 3
  else s

/-- New messages go on the lane again (R333). -/
def State.hpaUnroute (s : State) : State :=
  if s.fld Fd.HPA_STAT_ROUTED = 1 then
    have s := (s.setFld Fd.HPA_STAT_ROUTED 0 0).setFld Fd.SLK_STATE_HPA 0 0
    ((s.bump Fd.HPA_CNT_ROUTE_CHANGES).pendBit 10 3).keyAll
  else s

/-! ### Lane states -/

/-- The lane enters a state (Table 12-3); leaving and reaching ACTIVE set IRC bits (Table 19-7). -/
def State.laneTo (s : State) (w st : Nat) : State :=
  let old := s.lstate w
  have s := s.setFld Fd.SLK_STATE_LSTATE w st
  have s := if st = 6 then s else s.setFld Fd.SLK_STATE_QCAUSE w 0
  have s := if old = 4 ∧ st ≠ 4 then s.pendBit 10 0 else if old ≠ 4 ∧ st = 4 then s.pendBit 10 1 else s
  have s := s.modLane w fun l =>
    { l with since := s.aon
             outSince := if st = 4 ∨ st = 5 then none else some (l.outSince.getD s.aon) }
  have s := if st = 4 then s.hpaUnroute else s
  s.linkCheck w

/-- The lane trains at a rate. -/
def State.toTrain (s : State) (w rate : Nat) : State := (s.laneTo w 2).setFld Fd.SLK_STATE_RATE w rate

/-- The lane is quarantined (R328): any state but DOWN. A leaf's telemetry takes HPA at once (R329). -/
def State.quarantine (s : State) (w cause : Nat) : State :=
  if s.lstate w = 0 ∨ s.lstate w = 6 then s
  else
    have s := ((s.laneTo w 6).setFld Fd.SLK_STATE_QCAUSE w cause).bump Fd.SLK_LINK_CNT_QUARANTINES w
    have s := s.modLane w fun l => { l with hasState := false, strikes := [], flaps := [] }
    have s := if cause = 3 then s else s.fault .slk w 3
    s.hpaRoute

/-- A link-down event (R309), with flap detection (R328). -/
def State.linkDown (s : State) (w : Nat) : State :=
  have s := ((s.bump Fd.SLK_LINK_CNT_DOWN w).item 11).modLane w fun l => { l with downed := true }
  have s := if s.isTray then s.fault .slk w 1 else s
  let win := s.fld Fd.SLK_FLAP_CFG_FLAP_WIN_S w * 1000 * cyMs
  have s := s.modLane w fun l => { l with flaps := s.aon :: l.flaps.filter fun e => decide (s.aon < e + win) }
  if s.fld Fd.SLK_FLAP_CFG_FLAP_N w ≤ (s.lane w).flaps.length then s.quarantine w 1 else s

/-- The counter of a violation code (Table 12-10). -/
def violFld (code : Nat) : Fld :=
  let k := (code - 1) / 4
  let j := (code - 1) % 4
  ⟨Rg.SLK_VIOL.nth k, 63 - 16 * j, 48 - 16 * j⟩

/-- A protocol violation (R327): counted, shown, recorded; a strike class may quarantine the lane. -/
def State.slkViol (s : State) (w code ftype vc seq : Nat) : State :=
  have s := s.bump (violFld code) w
  have s := s.setReg Rg.SLK_VIOL_LAST w (BitVec.ofNat 64 (2 ^ 63 + code * 2 ^ 48 + ftype % 256 * 2 ^ 40 + vc % 4 * 2 ^ 32
    + seq % 4096))
  have s := s.event 0x1701 (leBytes 1 code ++ leBytes 1 ftype ++ leBytes 2 vc ++ leBytes 2 seq ++
    leBytes 1 (if s.isTray then w else 0xFF))
  if 5 ≤ code ∧ code ≤ 15 then
    have s := s.fault .slk w 2
    let win := s.fld Fd.SLK_FLAP_CFG_STRIKE_WIN_MS w * cyMs
    have s := s.modLane w fun l => { l with strikes := s.aon :: l.strikes.filter fun e => decide (s.aon < e + win) }
    if s.fld Fd.SLK_FLAP_CFG_STRIKE_N w ≤ (s.lane w).strikes.length then s.quarantine w 2 else s
  else s

/-! ### Counting and taking flits -/

/-- Bytes received or sent on a port count in its bandwidth window (R507). -/
def State.portRx (s : State) (port n : Nat) : State :=
  let b := s.pmu.bw.getD port ⟨0, 0, 0, 0, 0, 0, 0⟩
  { s with pmu := { s.pmu with bw := s.pmu.bw.set port { b with rx := b.rx + n } } }

def State.portTx (s : State) (port n : Nat) : State :=
  let b := s.pmu.bw.getD port ⟨0, 0, 0, 0, 0, 0, 0⟩
  { s with pmu := { s.pmu with bw := s.pmu.bw.set port { b with tx := b.tx + n } } }

/-- A flit leaves on a lane (Tables 20-2, 20-4, 20-5); NULL flits carry no bytes. -/
def State.countSent (s : State) (w ftype vc : Nat) : State :=
  have s := (s.item 8).ev .slk w 1
  if ftype = 0 then s.ev .slk w 4
  else (s.bytes (if s.isTray then 64 + 2 * w else 16 + vc) 256).portTx w 256

/-- A sequenced flit with SEQ = EXP is accepted (R321): EXP advances, the gap closes, and its buffer is freed, but for VC3 on a
tray, whose buffers wait for ingest (R392). -/
def State.takeFlit (s : State) (w vc : Nat) : State :=
  have s := (((s.item 9).ev .slk w 2).bytes (if s.isTray then 65 + 2 * w else 20 + vc) 256).portRx w 256
  let hold := s.isTray && vc == 3
  s.modLane w fun l => { l with exp := (l.exp + 1) % 4096, expAt := s.aon, gapOpen := false, ahead := false
                                freed := if hold then l.freed else l.freed.set vc ((l.freed.getD vc 0 + 1) % 256)
                                rxUsed := if hold then l.rxUsed.set 3 (l.rxUsed.getD 3 0 + 1) else l.rxUsed
                                rxCount := if hold then l.rxCount + 1 else l.rxCount }

end Sys2Proof.Machine
end

