-- ==== Sys2Proof/Machine/Tkp.lean ====
section
/-! DEFINITION. TKP (chapter 04): time states, exchanges over SolsoLink and PTP, the servo, refusal and slews, the change of the
epoch grid, TX timestamps and timed items. -/

namespace Sys2Proof.Machine

/-! ### States -/

/-- Time is before the origin while it is valid (`TKP_STATE.PRE_ORIGIN`, R100). -/
def State.preOrigin (s : State) : Bool := decide (s.now < s.origin)

/-- The greatest epoch index (R14). -/
def epochMax : Nat := 2 ^ 40 - 1

/-- EPOCH_LIMIT: the index is held, and no epoch closes any more (R14). -/
def State.epochLimit (s : State) : State :=
  if s.tkp.limit then s else { s with tkp := { s.tkp with limit := true } }.fault .tkp 0 4

/-- Epochs stop (R100): the record of the epoch in progress cannot close any more, and its epoch answers OPEN_LOST (DEDUCED, log entry
115). -/
def State.epochsStop (s : State) : State :=
  { s with epr := { s.epr with openRec := none, lost := s.epr.lost ++ (s.epr.openRec.map (·.epoch)).toList } }

/-- The bandwidth windows stop: the counts of one that ran are no window's (R507). -/
def State.windowsStop (s : State) : State :=
  { s with pmu := { s.pmu with winUs := 0, bw := s.pmu.bw.mapV fun _ b => { b with tx := 0, rx := 0 } } }

/-- TKP enters a time state (Table 04-2): IRC, EVR, and the index of the epoch in progress when time becomes valid. -/
def State.tkpTo (s : State) (st : Nat) : State :=
  let old := s.fld Fd.TKP_STATE_STATE
  if old = st then s
  else
    have s := (s.setFld Fd.TKP_STATE_STATE 0 st).event 0x0403 (leBytes 1 old ++ leBytes 1 st)
    have s := if old < 2 ∧ 2 ≤ st then
        have s := { s.pendBit 1 0 with tkp := { s.tkp with epoch := min (s.epochOf s.now) epochMax, limit := false } }
        if epochMax < s.epochOf s.now then s.epochLimit else s
      else if 2 ≤ old ∧ st < 2 then (s.pendBit 1 1).epochsStop.windowsStop else s
    if st = 3 then (s.pendBit 1 2).fault .tkp 0 1 else s

/-- RATE takes FREQ. -/
def State.rateIsFreq (s : State) : State := s.setFld Fd.TKP_RATE_RATE 0 (s.fld Fd.TKP_FREQ_FREQ)

/-- SLEWING is set. -/
def State.slewing (s : State) : Bool := s.fld Fd.TKP_STATE_SLEWING == 1

/-- LOCKED is left for HOLDOVER (Table 04-2): RATE takes FREQ unless a slew runs. -/
def State.toHoldover (s : State) : State :=
  if s.fld Fd.TKP_STATE_STATE = 2 then (if s.slewing then s else s.rateIsFreq).tkpTo 3 else s

/-! ### The servo (R86, R96) -/

/-- The rate limit of R86. -/
def rateMax : Int := (2 ^ 29 : Nat) - 1

def clampRate (x : Int) : Int := max (-rateMax) (min rateMax x)

/-- FREQ and RATE after an accepted θ (in 2^-16 ns) over an interval in ns, and whether a result was clamped. -/
def servo (theta : Int) (intervalNs : Nat) (freq : Int) (kp ki : Nat) : Int × Int × Bool :=
  let e := theta * (2 ^ 24 : Nat) / intervalNs
  let f := freq + e * ki / 256
  let r := clampRate f + e * kp / 256
  (clampRate f, clampRate r, decide (clampRate f ≠ f ∨ clampRate r ≠ r))

/-- A field of `TKP_SERVO_CFG` as the exchange in progress took it: a change takes effect at the next exchange (R109). -/
def State.servoFld (s : State) (f : Fld) : Nat := bits s.tkp.cfg.toNat f.hi f.lo

/-- An exchange of the selected source begins: its interval in ns and the settings it runs under (R93, R109). -/
def State.exchangeStart (s : State) (interval : Nat) : State :=
  { s with tkp := { s.tkp with interval, cfg := s.reg Rg.TKP_SERVO_CFG } }

/-- The servo takes an accepted θ. -/
def State.servoStep (s : State) (theta : Int) : State :=
  let (f, r, lim) := servo theta (max 1 s.tkp.interval) (sext (s.fld Fd.TKP_FREQ_FREQ) 30) (s.servoFld Fd.TKP_SERVO_CFG_KP)
    (s.servoFld Fd.TKP_SERVO_CFG_KI)
  have s := (s.setFld Fd.TKP_FREQ_FREQ 0 (wrapI f 30)).setFld Fd.TKP_RATE_RATE 0 (wrapI r 30)
  have s := s.setFld Fd.TKP_STATE_RATE_LIMIT 0 (b2n lim)
  if lim then s.fault .tkp 0 0 else s

/-- Time moves by θ at once. -/
def State.timeAdd (s : State) (theta : Int) : State :=
  { s with tkp := { s.tkp with t := ((s.tkp.t + theta * (2 ^ 32 : Nat)) % timeMod).toNat } }

/-- `x` within 48 signed bits. -/
def sat48 (x : Int) : Int := max (-(2 ^ 47 : Nat)) (min ((2 ^ 47 : Nat) - 1) x)

/-- A measurement is refused (R97). -/
def State.refuseTheta (s : State) (theta : Int) : State :=
  have s := (s.setFld Fd.TKP_PENDING_DELTA 0 (wrapI (sat48 theta) 48)).bump Fd.TKP_CNT_REFUSED
  have s := { s with tkp := { s.tkp with refusals := s.tkp.refusals + 1 } }
  if s.fld Fd.TKP_JUMP_CFG_PERSIST ≤ s.tkp.refusals then
    (((s.setFld Fd.TKP_STATE_JUMP_PENDING 0 1).pendBit 1 3).fault .tkp 0 2).toHoldover
  else s

/-- A complete exchange of the selected source yields θ and the mean path delay (Table 04-2, R96 to R98). `asym` is in θ. -/
def State.exchanged (s : State) (theta mean : Int) : State :=
  have s := (s.setFld Fd.TKP_OFFSET_THETA 0 (wrapI (sat48 theta) 48)).setFld Fd.TKP_PATH_MEAN 0 (wrapI mean 32)
  have s := { s with tkp := { s.tkp with lastC := some s.now, missedRun := 0, missAt := s.now } }
  let st := s.fld Fd.TKP_STATE_STATE
  if st = 0 ∨ (st = 1 ∧ s.tkp.setAtOnce) then
    have s := (s.timeAdd theta).tkpTo 1
    { s with tkp := { s.tkp with lastC := some s.now, missAt := s.now, setAtOnce := false, inWindow := 0 } }
  else if st = 1 then
    have s := s.servoStep theta
    let n := if theta.natAbs ≤ s.servoFld Fd.TKP_SERVO_CFG_LOCK_NS * 65536 then s.tkp.inWindow + 1 else 0
    have s := { s with tkp := { s.tkp with inWindow := n } }
    if s.servoFld Fd.TKP_SERVO_CFG_LOCK_CNT ≤ n then s.tkpTo 2 else s
  else if s.slewing then s
  else if s.fld Fd.TKP_STATE_JUMP_PENDING = 1 then s.setFld Fd.TKP_PENDING_DELTA 0 (wrapI (sat48 theta) 48)
  else if s.fld Fd.TKP_JUMP_CFG_THR_NS * 65536 < theta.natAbs then s.refuseTheta theta
  else
    have s := { s with tkp := { s.tkp with refusals := 0 } }
    (s.tkpTo 2).servoStep theta

/-- θ and the mean path delay of four timestamps and the asymmetry (R92). -/
def exchangeOf (t1 t2 t3 t4 asym : Int) : Int × Int :=
  let mean := ((t2 - t1) + (t4 - t3)) / 2
  (mean + asym - (t2 - t1), mean)

/-- An exchange of the selected source ends: incomplete when T3 − T2 passes the interval or the mean is negative (R93). -/
def State.endExchange (s : State) (t1 t2 t3 t4 asym : Int) : State :=
  let (theta, mean) := exchangeOf t1 t2 t3 t4 asym
  if ((s.tkp.interval * 65536 : Nat) : Int) < t3 - t2 ∨ mean < 0 then s.bump Fd.TKP_CNT_MISSED
  else s.exchanged theta mean

/-! ### Exchanges on SolsoLink (R90 to R93, R324) -/

/-- The port time entry of a port (Table 04-8). -/
def State.portTime (s : State) (p : Nat) : PortTime := s.tkp.portTimes.getD p ⟨0, 0, 0⟩

/-- The pin-plane times of a flit or frame that leaves or arrives `sub` (2^-16 ns) after the last AON edge (R91). -/
def State.txTime (s : State) (p sub : Nat) : Nat := s.now + sub + (s.portTime p).txLat
def State.rxTime (s : State) (p sub : Nat) : Nat := s.now + sub - (s.portTime p).rxLat

/-- TIME_SYNC_SEND (R90, R93): a wellhead's interval elapses. The port fills in t1 as the flit leaves. -/
def timeSyncSend (w : Nat) (s : State) : State :=
  if s.isTray ∧ s.enabled .tkp ∧ s.timeValid ∧ s.laneActive w then
    let y := s.tkp.sync.getD w ⟨0, none, 0⟩
    have s := s.reach y.due
    let y := { y with nextId := (y.nextId + 1) % 65536, open_ := some y.nextId
                      due := s.aon + s.fld Fd.TKP_SERVO_CFG_SYNC_US * cyUs }
    have s := { s with tkp := { s.tkp with sync := s.tkp.sync.set w y } }
    (s.modLane w fun l => { l with noise := false }).sendFlit w 0x10 0
      (leBytes 12 0 ++ leBytes 2 (s.fld Fd.TKP_STATE_STATE) ++ leBytes 2 (s.fld Fd.TKP_SERVO_CFG_SYNC_US) ++
        leBytes 4 (wrapI (s.portTime w).asym 32) ++ leBytes 4 (y.open_.getD 0))
  else s

def execTimeSyncSend (w : Nat) (s : State) : Host.Outcome State Fault Refusal := done (timeSyncSend w s)

/-- What a leaf does with the content of a TIME_SYNC (R90, R92): t2, and TIME_DREQ, whose t3 the port captures as it leaves. -/
def State.syncTaken (s : State) (f : TimeSyncFlit) (sub : Nat) : State :=
  if s.enabled .tkp then
    have s := if s.tkp.exch.isSome then s.bump Fd.TKP_CNT_MISSED else s
    let h := b2n (f.state == 3)
    have s := if s.fld Fd.TKP_STATE_UPSTREAM_HOLDOVER = h then s
      else (s.setFld Fd.TKP_STATE_UPSTREAM_HOLDOVER 0 h).pendBit 1 5
    have s := s.modLane 0 fun l => { l with noise := f.replayed }
    have s := { s.exchangeStart (f.syncUs * 1000) with tkp := { (s.exchangeStart (f.syncUs * 1000)).tkp with
      exch := some { exId := f.exId, t1 := f.t1, t2 := s.rxTime 0 sub, t3 := 0, asym := f.asym, syncUs := f.syncUs } } }
    s.sendFlit 0 0x11 0 (leBytes 4 f.exId)
  else s

/-- TIME_SYNC_RX: the flit is the next in sequence. -/
def timeSyncRx (f : TimeSyncFlit) (sub : Nat) (s : State) : State :=
  if !s.isTray ∧ s.laneActive 0 then (s.takeFlit 0 0).syncTaken f sub else s

def execTimeSyncRx (f : TimeSyncFlit) (sub : Nat) (s : State) : Host.Outcome State Fault Refusal := done (timeSyncRx f sub s)

/-- The content of a TIME_DREQ at a wellhead (R324): t4 returns in TIME_DRESP, or the flit is TIME_BAD. -/
def State.dreqTaken (s : State) (w exId sub : Nat) : State :=
  let y := s.tkp.sync.getD w ⟨0, none, 0⟩
  if y.open_ = some exId then
    have s := { s with tkp := { s.tkp with sync := s.tkp.sync.set w { y with open_ := none } } }
    if s.enabled .tkp ∧ s.timeValid then s.sendFlit w 0x12 0 (timeBytes (s.rxTime w sub) ++ leBytes 4 exId) else s
  else
    have s := { s with tkp := { s.tkp with sync := s.tkp.sync.set w { y with open_ := none } } }
    s.slkViol w 15 0x11 0 (s.lane w).exp

/-- TIME_DREQ_RX: the flit is the next in sequence. -/
def timeDreqRx (w exId sub : Nat) (s : State) : State :=
  if s.isTray ∧ s.laneActive w then (s.takeFlit w 0).dreqTaken w exId sub else s

def execTimeDreqRx (w exId sub : Nat) (s : State) : Host.Outcome State Fault Refusal := done (timeDreqRx w exId sub s)

/-- The content of a TIME_DRESP at a leaf (R92, R93, R324). -/
def State.drespTaken (s : State) (exId t4 : Nat) (replayed : Bool) : State :=
  match s.tkp.exch with
  | none => s.slkViol 0 15 0x12 0 (s.lane 0).exp
  | some x =>
    have s := { s with tkp := { s.tkp with exch := none } }
    if x.exId ≠ exId then (s.slkViol 0 15 0x12 0 (s.lane 0).exp).bump Fd.TKP_CNT_MISSED
    else if replayed ∨ (s.lane 0).noise then s.bump Fd.TKP_CNT_MISSED
    else
      have s := { s.setFld Fd.TKP_STATE_SOURCE 0 0 with tkp := { s.tkp with exch := none } }
      s.endExchange x.t1 x.t2 x.t3 t4 ((s.portTime 0).asym + x.asym)

/-- TIME_DRESP_RX: the flit is the next in sequence. -/
def timeDrespRx (exId t4 : Nat) (replayed : Bool) (s : State) : State :=
  if !s.isTray ∧ s.laneActive 0 then
    have s := s.takeFlit 0 0
    if s.enabled .tkp then s.drespTaken exId t4 replayed else s
  else s

def execTimeDrespRx (exId t4 : Nat) (replayed : Bool) (s : State) : Host.Outcome State Fault Refusal :=
  done (timeDrespRx exId t4 replayed s)

/-- The next instant t_c + m × I, m ≥ 2, after the last one counted (R93). -/
def nextMiss (c at_ i : Nat) : Nat := c + max 2 ((at_ - c) / i + 1) * i

/-- MISSED_INTERVAL (R93): the next instant t_c + m × I, m ≥ 2, passes without a complete exchange. -/
def missedInterval (s : State) : State :=
  match s.tkp.lastC with
  | some c =>
    if s.enabled .tkp ∧ 0 < s.tkp.interval then
      let u := nextMiss c s.tkp.missAt (s.tkp.interval * 65536)
      have s := s.reachTime u
      have s := { s.bump Fd.TKP_CNT_MISSED with tkp := { s.tkp with missedRun := s.tkp.missedRun + 1, missAt := u } }
      if s.servoFld Fd.TKP_SERVO_CFG_LOSS_CNT ≤ s.tkp.missedRun then s.toHoldover else s
    else s
  | none => s

def execMissedInterval (s : State) : Host.Outcome State Fault Refusal := done (missedInterval s)

/-! ### Slews and commands -/

/-- What a slew takes off the time at each edge, in 2^-48 ns (R99). -/
def slewPerEdge : Nat := 2560 * (2 ^ 29 - 1)

/-- TIME_STEPPED joins what is open of the epoch in progress, whose time a step or slew changes (R99): a leaf's open record, a tray's
on-time accumulators. -/
def State.markStepped (s : State) : State :=
  { s with
    epr := { s.epr with openRec := s.epr.openRec.map fun (r : OpenRec) => { r with flags := r.flags ||| 2 } }
    rdx := { s.rdx with onTime := s.rdx.onTime.map fun (a : Accum) =>
      if a.epoch = s.tkp.epoch then { a with own := a.own ||| 2 } else a } }

/-- A slew by Δ < 0 begins (R99): the record of the epoch it overlaps carries TIME_STEPPED. -/
def State.slewStart (s : State) (delta : Int) : State :=
  have s := (s.setFld Fd.TKP_STATE_SLEWING 0 1).setFld Fd.TKP_RATE_RATE 0 (wrapI (-rateMax) 30)
  { s with tkp := { s.tkp with slewLeft := s.aon + ceilDiv (delta.natAbs * 2 ^ 32) slewPerEdge } }.markStepped

/-- SLEWING clears and RATE takes FREQ (R97, R99). -/
def State.slewStop (s : State) : State :=
  if s.slewing then ((s.setFld Fd.TKP_STATE_SLEWING 0 0).rateIsFreq).pendBit 1 4 else s

/-- SLEW_END (R99). -/
def slewEnd (s : State) : State := if s.slewing then (s.reach s.tkp.slewLeft).slewStop else s

def execSlewEnd (s : State) : Host.Outcome State Fault Refusal := done (slewEnd s)

/-- A refused offset is no longer pending. After an accepted ACCEPT_JUMP too `TKP_PENDING` and the count of refusals are cleared, of which
Table 04-2 speaks for REACQUIRE only (DESIGN CHOICE, log entry 116). -/
def State.noJump (s : State) : State :=
  have s := (s.setFld Fd.TKP_STATE_JUMP_PENDING 0 0).setReg Rg.TKP_PENDING 0 0
  { s with tkp := { s.tkp with refusals := 0 } }

/-- A write of `TKP_CTRL.REACQUIRE` (Table 04-2). -/
def State.reacquire (s : State) : State :=
  if 2 ≤ s.fld Fd.TKP_STATE_STATE then
    have s := ((s.slewStop).noJump).tkpTo 1
    { s with tkp := { s.tkp with setAtOnce := true, inWindow := 0 } }
  else s

/-- TKP is disabled (Table 04-2): FREE at RATE = FREQ, no exchanges. -/
def State.tkpDisable (s : State) : State :=
  have s := (((s.slewStop).rateIsFreq).noJump).tkpTo 0
  { s.setFld Fd.TKP_STATE_SOURCE 0 0xF with tkp := { s.tkp with
      exch := none, lastC := none, missedRun := 0, missAt := 0, inWindow := 0, setAtOnce := false, ptp := []
      sync := s.tkp.sync.mapV (fun _ y => { y with open_ := none }) } }

/-! ### PTP on the upstream ports (R94, R95) -/

def State.ptpPort (s : State) (p : Nat) : PtpPort := s.tkp.ptp.getD p
  { syncSeq := none, syncFrom := 0, t1 := none, t2 := 0, syncCorr := 0, reqSeq := 0, reqId := 0, t3 := none, pdT2 := none, pdT4 := 0, pdCorr := 0
    meanDelay := none, rank := none, missed := 0, interval := 0 }

def State.setPtp (s : State) (p : Nat) (x : PtpPort) : State := { s with tkp := { s.tkp with ptp := s.tkp.ptp.set p x } }

/-- The port takes part in PTP. -/
def State.ptpOn (s : State) (p : Nat) : Bool :=
  s.isTray && s.enabled .tkp && decide (p < 2) && bit (s.fld Fd.TKP_PTP_CFG_PORT_EN) p

/-- P2P delay mechanism. -/
def State.p2p (s : State) : Bool := s.fld Fd.TKP_PTP_CFG_DELAY_MECH == 1

/-- A message within the options of Table 04-3. -/
def State.ptpTakes (s : State) (m : PtpMsg) : Bool :=
  m.version == 2 && decide (m.minor ≤ 1) && decide (m.domain.toNat = s.fld Fd.TKP_PTP_CFG_DOMAIN)

/-- A PTP message reaches its port's engine, or is discarded and counted (R94). Its source address is not the operand's. -/
def State.ptpRx (s : State) (p : Nat) (m : PtpMsg) (ok : Bool) (f : PtpPort → State → State) : State :=
  if s.ptpOn p then
    if s.ptpTakes m && ok then f (s.ptpPort p) s
    else
      let (w, s) := s.draw
      s.upViol p 4 (w.toNat % 2 ^ 48)
  else s

/-- A PTP exchange of port `p` ends; the servo uses the selected port's only (R95). -/
def State.ptpEnd (s : State) (p : Nat) (x : PtpPort) (t1 t3 t4 : Int) : State :=
  if s.fld Fd.TKP_STATE_SOURCE = p then s.endExchange t1 x.t2 t3 t4 (s.portTime (128 + p)).asym else s

/-- In P2P a Sync with its origin time completes the exchange: the mean is the peer delay. -/
def State.p2pEnd (s : State) (p : Nat) : State :=
  let x := s.ptpPort p
  match s.p2p, x.t1, x.meanDelay with
  | true, some t1, some d =>
    have s := s.setPtp p { x with t1 := none }
    s.ptpEnd p x (t1 + x.syncCorr) x.t2 (x.t2 + d + d - ((x.t2 : Int) - (t1 + x.syncCorr)))
  | _, _, _ => s

/-- PTP_SYNC_RX. -/
def ptpSyncRx (p : Nat) (m : PtpMsg) (sub : Nat) (s : State) : State :=
  s.ptpRx p m (decide (-7 ≤ m.logInt ∧ m.logInt ≤ 0)) fun x s =>
    let iv := 1000000000 / 2 ^ m.logInt.natAbs
    have s := if s.fld Fd.TKP_STATE_SOURCE = p then s.exchangeStart iv else s
    have s := s.setPtp p { x with
      syncSeq := some m.seq, syncFrom := m.ident, t1 := if m.twoStep then none else some m.ts, t2 := s.rxTime (128 + p) sub, t3 := none
      syncCorr := m.corr, interval := iv }
    s.p2pEnd p

def execPtpSyncRx (p : Nat) (m : PtpMsg) (sub : Nat) (s : State) : Host.Outcome State Fault Refusal := done (ptpSyncRx p m sub s)

/-- PTP_FOLLOW_UP_RX. -/
def ptpFollowUpRx (p : Nat) (m : PtpMsg) (s : State) : State :=
  s.ptpRx p m true fun x s =>
    if x.syncSeq = some m.seq ∧ x.syncFrom = m.ident ∧ x.t1 = none then
      (s.setPtp p { x with t1 := some m.ts, syncCorr := x.syncCorr + m.corr }).p2pEnd p
    else s

def execPtpFollowUpRx (p : Nat) (m : PtpMsg) (s : State) : Host.Outcome State Fault Refusal := done (ptpFollowUpRx p m s)

/-- A PTP event message of the tray, from the public standard (PRESUMED, log entry 35): header fields, then a zero time and `tail`. Its
port identity is a constant the manual does not give. -/
def State.ptpSend (s : State) (p dst type len : Nat) (seq : BitVec 16) (tail : Bytes) (tx : PtpTx) : State :=
  s.putFixed p 0 ⟨ethFrame dst (s.fld Fd.UP_CFG_MAC p) 0x88F7
    (leBytes 1 type ++ leBytes 1 2 ++ beBytes 2 len ++ leBytes 1 (s.fld Fd.TKP_PTP_CFG_DOMAIN) ++ leBytes 15 0 ++
      beBytes 10 (Config.ptpIdentity p).toNat ++ beBytes 2 seq.toNat ++ leBytes 1 0 ++ leBytes 1 0x7F ++ tail), none, some tx⟩

/-- The delay request's destination: 01-1B-19-00-00-00, or 01-80-C2-00-00-0E for the peer mechanism (Table 04-3). -/
def ptpDst (peer : Bool) : Nat := if peer then 0x0180C200000E else 0x011B19000000

/-- PTP_DELAY_REQ_SEND: Delay_Req or Pdelay_Req joins the port's queue; t3 is taken at the pins as it leaves (R91). -/
def ptpDelayReqSend (p _sub : Nat) (s : State) : State :=
  if s.ptpOn p then
    let x := s.ptpPort p
    let n := x.reqSeq + 1
    have s := s.setPtp p { x with reqSeq := n, reqId := Config.ptpIdentity p, t3 := none, pdT2 := none }
    if s.p2p then s.ptpSend p (ptpDst true) 2 54 n (leBytes 20 0) (.request n)
    else s.ptpSend p (ptpDst false) 1 44 n (leBytes 10 0) (.request n)
  else s

def execPtpDelayReqSend (p sub : Nat) (s : State) : Host.Outcome State Fault Refusal := done (ptpDelayReqSend p sub s)

/-- A response answers the request in progress: its sequenceId and the requesting port's identity are that request's. -/
def PtpPort.answers (x : PtpPort) (m : PtpMsg) : Bool := m.seq == x.reqSeq && m.reqId == x.reqId

/-- PTP_DELAY_RESP_RX: an E2E exchange completes. -/
def ptpDelayRespRx (p : Nat) (m : PtpMsg) (s : State) : State :=
  s.ptpRx p m true fun x s =>
    match s.p2p, x.t1, x.t3 with
    | false, some t1, some t3 =>
      if x.answers m then
        (s.setPtp p { x with t1 := none, t3 := none }).ptpEnd p x (t1 + x.syncCorr) t3 (m.ts - m.corr)
      else s
    | _, _, _ => s

def execPtpDelayRespRx (p : Nat) (m : PtpMsg) (s : State) : Host.Outcome State Fault Refusal := done (ptpDelayRespRx p m s)

/-- PTP_PDELAY_REQ_RX: a one-step Pdelay_Resp to the requesting port answers. Its correction, the request's and the turnaround, goes in
as the frame leaves (R94). -/
def ptpPdelayReqRx (p : Nat) (m : PtpMsg) (sub : Nat) (s : State) : State :=
  s.ptpRx p m true fun _ s =>
    s.ptpSend p (ptpDst true) 3 54 m.seq (leBytes 10 0 ++ beBytes 10 m.ident.toNat) (.response (s.rxTime (128 + p) sub) m.corr)

def execPtpPdelayReqRx (p : Nat) (m : PtpMsg) (sub : Nat) (s : State) : Host.Outcome State Fault Refusal :=
  done (ptpPdelayReqRx p m sub s)

/-- The peer delay from t1 (our request), t4 and the peer's turnaround; a negative mean is no measurement (R93). -/
def State.peerDelay (s : State) (p : Nat) (x : PtpPort) (t1 t4 turn : Int) : State :=
  let d := (t4 - t1 - turn) / 2
  if d < 0 then (s.setPtp p { x with t3 := none, pdT2 := none }).bump Fd.TKP_CNT_MISSED
  else s.setPtp p { x with t3 := none, pdT2 := none, meanDelay := some d }

/-- PTP_PDELAY_RESP_RX: of one step it completes the peer delay, of two it waits for its Follow_Up. -/
def ptpPdelayRespRx (p : Nat) (m : PtpMsg) (sub : Nat) (s : State) : State :=
  s.ptpRx p m true fun x s =>
    match s.p2p, x.t3 with
    | true, some t1 =>
      if !x.answers m then s
      else if m.twoStep then s.setPtp p { x with pdT2 := some m.ts, pdT4 := s.rxTime (128 + p) sub, pdCorr := m.corr }
      else s.peerDelay p x t1 (s.rxTime (128 + p) sub) m.corr
    | _, _ => s

def execPtpPdelayRespRx (p : Nat) (m : PtpMsg) (sub : Nat) (s : State) : Host.Outcome State Fault Refusal :=
  done (ptpPdelayRespRx p m sub s)

/-- PTP_PDELAY_RESP_FU_RX. -/
def ptpPdelayRespFuRx (p : Nat) (m : PtpMsg) (s : State) : State :=
  s.ptpRx p m true fun x s =>
    match x.t3, x.pdT2 with
    | some t1, some t2 =>
      if x.answers m then s.peerDelay p x t1 x.pdT4 ((m.ts : Int) - t2 + x.pdCorr + m.corr) else s
    | _, _ => s

def execPtpPdelayRespFuRx (p : Nat) (m : PtpMsg) (s : State) : Host.Outcome State Fault Refusal :=
  done (ptpPdelayRespFuRx p m s)

/-- The rank of a port's master, none while it has no qualified one. -/
def State.masterRank (s : State) (p : Nat) : Option Nat := if s.ptpOn p then (s.ptpPort p).rank else none

/-- The port TKP selects (R95): the better-ranked master, the selected port keeping a tie. I becomes its Sync interval (R93). -/
def State.selectPort (s : State) : State :=
  let cur := s.fld Fd.TKP_STATE_SOURCE
  let new := match s.masterRank 0, s.masterRank 1 with
    | some a, some b => if a < b then 0 else if b < a then 1 else if cur < 2 then cur else 0
    | some _, none => 0
    | none, some _ => 1
    | none, none => cur
  if new = cur then s
  else (s.setFld Fd.TKP_STATE_SOURCE 0 new).exchangeStart (s.ptpPort new).interval

/-- PTP_ANNOUNCE_RX. -/
def ptpAnnounceRx (p : Nat) (m : PtpMsg) (s : State) : State :=
  s.ptpRx p m true fun x s => (s.setPtp p { x with rank := some m.rank, missed := 0 }).selectPort

def execPtpAnnounceRx (p : Nat) (m : PtpMsg) (s : State) : Host.Outcome State Fault Refusal := done (ptpAnnounceRx p m s)

/-- ANNOUNCE_TIMEOUT: port `p` has missed ANNOUNCE_TIMEOUT intervals; with no master left TKP goes to HOLDOVER. -/
def announceTimeout (p : Nat) (s : State) : State :=
  if s.ptpOn p then
    have s := s.setPtp p { s.ptpPort p with rank := none, missed := s.fld Fd.TKP_PTP_CFG_ANNOUNCE_TIMEOUT }
    have s := s.selectPort
    if s.masterRank 0 = none ∧ s.masterRank 1 = none then s.toHoldover else s
  else s

def execAnnounceTimeout (p : Nat) (s : State) : Host.Outcome State Fault Refusal := done (announceTimeout p s)

/-! ### TX timestamps, port times and timed items (R104 to R110) -/

/-- A port with timestamping is fitted (R104). -/
def State.portFitted (s : State) (p : Nat) : Bool :=
  if s.isTray then decide (p < s.wellheads ∨ p = 128 ∨ p = 129) else p == 0

/-- A marked item leaves a port (R104, R105). -/
def State.txtsPut (s : State) (p : Nat) (ident : BitVec 16) (time : Nat) : State :=
  let q := s.tkp.txts.getD p []
  if 64 ≤ q.length then
    { s.bump Fd.TKP_CNT_TXTS_OVF with tkp := { s.tkp with
        txtsOvf := if s.tkp.txtsOvf.contains p then s.tkp.txtsOvf else p :: s.tkp.txtsOvf } }
  else
    let locked := s.fld Fd.TKP_STATE_STATE == 2 && s.fld Fd.TKP_STATE_UPSTREAM_HOLDOVER == 0
    let e : TxTs := { time, ident, ovfBefore := s.tkp.txtsOvf.contains p, notLocked := !locked }
    { s with tkp := { s.tkp with txts := s.tkp.txts.set p (q ++ [e]), txtsOvf := s.tkp.txtsOvf.filter (· != p) } }

/-- POP of a TX timestamp queue (Table 04-8). -/
def txtsPop (p : Nat) (s : State) : WinOut :=
  if !s.portFitted p then s.win 2
  else match s.tkp.txts.getD p [] with
  | [] => s.win 1
  | e :: r =>
    { s with tkp := { s.tkp with txts := s.tkp.txts.set p r } }.winData
      [BitVec.ofNat 64 (time96 e.time), BitVec.ofNat 64 (time96 e.time / 2 ^ 64 + e.ident.toNat * 2 ^ 32 +
        b2n e.ovfBefore * 2 ^ 48 + b2n e.notLocked * 2 ^ 49)]

def execTxtsPop (q : Req) (port : Nat) (s : State) : Host.Outcome State Fault Refusal :=
  done (s.winCmd q .tkp 0 0 3 port (txtsPop port))

/-- READ of the port time table. -/
def portTimeRead (p : Nat) (s : State) : WinOut :=
  if !s.portFitted p then s.win 2
  else
    let e := s.portTime p
    s.winData [BitVec.ofNat 64 (wrapI e.asym 32), BitVec.ofNat 64 (e.txLat % 2 ^ 32 + e.rxLat % 2 ^ 32 * 2 ^ 32)]

def execPortTimeRead (q : Req) (port : Nat) (s : State) : Host.Outcome State Fault Refusal :=
  done (s.winCmd q .tkp 0 1 1 port (portTimeRead port))

/-- WRITE of the port time table: ASYM. -/
def portTimeWrite (p : Nat) (s : State) : WinOut :=
  if !s.portFitted p then s.win 2
  else
    let e := { s.portTime p with asym := sext (s.data .tkp 0 0).toNat 32 }
    { s with tkp := { s.tkp with portTimes := s.tkp.portTimes.set p e } }.win 0

def execPortTimeWrite (q : Req) (port : Nat) (s : State) : Host.Outcome State Fault Refusal :=
  done (s.winCmd q .tkp 0 1 2 port (portTimeWrite port))

/-- A timed item joins a list kept in order of launch, after those of the same instant. -/
def insertTimed (it : TimedItem) : List TimedItem → List TimedItem
  | [] => [it]
  | x :: r => if it.launch < x.launch then it :: x :: r else x :: insertTimed it r

/-- How a submitted timed item fares (R106, R107). -/
inductive Submit where
  | tooFar | full | timed | dropped | now
  deriving DecidableEq, Repr

/-- A timed item is submitted to a port: a late one is dropped or goes at once, as its policy says. -/
def State.submitTimed (s : State) (p : Nat) (it : TimedItem) (sendLate : Bool) : State × Submit :=
  if s.now + secUnits < it.launch then (s, .tooFar)
  else if it.launch < s.now + 2000 * 65536 then
    (s.bump Fd.TKP_CNT_LAUNCH_LATE, if sendLate then .now else .dropped)
  else
    let l := s.tkp.timed.getD p []
    if 16 ≤ l.length then (s, .full)
    else ({ s with tkp := { s.tkp with timed := s.tkp.timed.set p (insertTimed it l) } }, .timed)

/-! ### Reads, the grid, reset -/

/-- The latch of `TKP_NOW_HI` a requester reads (R87). -/
def latchKey : Path → Nat
  | .host => 0
  | .mgmt => 1
  | .core c => 2 + c

/-- A read of `TKP_NOW_LO` (R87). -/
def tkpNowLo (p : Path) (s : State) : AccOut :=
  let t := time96 s.now
  { s with tkp := { s.tkp with latches := s.tkp.latches.set (latchKey p) (BitVec.ofNat 32 (t / 2 ^ 64)) } }.gives
    (BitVec.ofNat 64 t)

def execTkpNowLoRead (q : Req) (s : State) : Host.Outcome State Fault Refusal :=
  done (s.rowRead q .tkp 0 0x48 (tkpNowLo q.path))

/-- A read of `TKP_NOW_HI`: the requester's latch. -/
def tkpNowHi (p : Path) (s : State) : Word := BitVec.ofNat 64 (s.tkp.latches.getD (latchKey p) 0).toNat

/-- The grid as the staged values would have it: origin and length in 2^-16 ns. -/
def State.stagedGrid (s : State) : Nat × Nat :=
  (ofTime96 ((s.stagedReg Rg.TKP_ORIGIN_LO).toNat + bits (s.stagedReg Rg.TKP_ORIGIN_HI).toNat 31 0 * 2 ^ 64),
   bits (s.stagedReg Rg.TKP_EPOCH_CFG).toNat 16 0 * 10000 * 65536)

/-- The staged values of the grid are in force. -/
def State.gridTake (s : State) : State :=
  (((s.setReg Rg.TKP_ORIGIN_LO 0 (s.stagedReg Rg.TKP_ORIGIN_LO)).setReg Rg.TKP_ORIGIN_HI 0 (s.stagedReg Rg.TKP_ORIGIN_HI)).setReg
    Rg.TKP_EPOCH_CFG 0 (s.stagedReg Rg.TKP_EPOCH_CFG)).unstage .tkp 0

/-- A refused change of the grid (R102). -/
def State.gridRefuse (s : State) : State := (s.unstage .tkp 0).fault .tkp 0 3

/-- The commit of a change of the grid at the boundary into epoch `n` (R102), and whether it was refused. An index of 2^40 or more is held
at 2^40 - 1 (R14); the skipped epochs do not count for the primary's 64 (R22). -/
def State.gridCommit (s : State) (n : Nat) : State × Bool :=
  let b := s.boundary n
  let (o, len) := s.stagedGrid
  let staged := fun (r : Reg) => (s.staged.get? (regKey r 0)).isSome
  if staged Rg.TKP_ORIGIN_LO || staged Rg.TKP_ORIGIN_HI then
    let at_ := (b - o) / len
    if o ≤ b ∧ 0 < len ∧ (b - o) % len = 0 ∧ n ≤ at_ then
      let m := min at_ epochMax
      have s := s.gridTake
      have s := { s with tkp := { s.tkp with epoch := m }, pkg := { s.pkg with since := s.pkg.since + (m - n) } }
      have s := if n < m then s.event 0x0402 (leBytes 8 n ++ leBytes 5 m) else s
      (if epochMax < at_ then s.epochLimit else s, false)
    else (s.gridRefuse, true)
  else if staged Rg.TKP_EPOCH_CFG then
    if n * len ≤ b then
      let t := time96 (b - n * len)
      have s := s.gridTake
      ((s.setReg Rg.TKP_ORIGIN_LO 0 (BitVec.ofNat 64 t)).setReg Rg.TKP_ORIGIN_HI 0 (BitVec.ofNat 64 (t / 2 ^ 64)), false)
    else (s.gridRefuse, true)
  else (s.unstage .tkp 0, false)

/-- `PG_CTRL.UNIT_RESET` of TKP (R51, R104, R110), after its registers have been reset: time counts on. -/
def tkpReset (old s : State) : State :=
  have s := s.setFld Fd.TKP_STATE_STATE 0 (old.fld Fd.TKP_STATE_STATE)
  have s := (s.tkpTo 0)
  { s with tkp := { s.tkp with
      inWindow := 0, refusals := 0, setAtOnce := false, lastC := none, interval := 0, missedRun := 0, missAt := 0, cfg := 0, exch := none
      slewLeft := 0, latches := [], txts := [], txtsOvf := [], timed := [], busyTo := [], ptp := []
      portTimes := s.tkp.portTimes.mapV (fun _ e => { e with asym := 0 })
      sync := s.tkp.sync.mapV (fun _ y => { y with open_ := none }) } }

end Sys2Proof.Machine
end

