-- ==== Sys2Proof/Machine/Ring.lean ====
section
/-! DEFINITION. The capture rings as rows reach them (R433 to R437): entries, wrapping, the leaf's buffer, triggers by value. -/

namespace Sys2Proof.Machine

/-! ### Sample rows -/

/-- Numbers of a sample row's values. -/
def Row.count (r : Row) : Nat := r.vals.length

/-- A sample row in the form of R132 (Table 05-4). -/
def Row.bytes (r : Row) : Bytes :=
  timeBytes r.time ++ leBytes 1 r.group ++ leBytes 1 r.flags.toNat ++ leBytes 2 r.count ++ leBytes 4 r.seq ++
    leBytes 2 r.planVer ++ leBytes 2 r.nextVer ++ leBytes 8 r.stale.toNat ++ leBytes 8 r.skew.toNat ++ wordBytes r.vals

/-- The flag bits of ROW_FLAGS (Table 05-4). -/
def rfGap : BitVec 8 := 1
def rfMixed : BitVec 8 := 2
def rfSpring : BitVec 8 := 4
def rfPriming : BitVec 8 := 8
def rfHold : BitVec 8 := 16

/-- A row whose loss of rows before it shows (R133). -/
def Row.gapped (r : Row) : Row := { r with flags := r.flags ||| rfGap }

/-- FLAGS of the frame of a row (R340). -/
def Row.headerFlags (r : Row) : Nat :=
  b2n (r.flags.getLsbD 4) + b2n (r.flags.getLsbD 1) * 4 + b2n (r.stale != 0) * 8 + b2n (r.skew != 0) * 16 +
    b2n (r.flags.getLsbD 0) * 64 + b2n (r.flags.getLsbD 2) * 128 + b2n (r.flags.getLsbD 3) * 256

/-! ### Entries -/

/-- An entry: its head (Table 17-1) and its payload, padded. -/
def ringEntry (kind count : Nat) (payload : Bytes) : Bytes :=
  leBytes 4 payload.length ++ leBytes 1 kind ++ leBytes 3 (min count 0xFFFFFF) ++ padTo 8 payload

/-- The heads left after `n` bytes from `off` are written. -/
def headsLeft (hs : List (Nat × Nat)) (off n : Nat) : List (Nat × Nat) := hs.filter fun h => !meets h.1 h.2 off n

/-- Bytes go to the memory of a ring: HBM on a tray, on a leaf the transfer of client 9, which begins with them or goes on with them
(R433, R435). -/
def State.ringBytes (s : State) (r : Nat) (g : Ring) (off : Nat) (b : Bytes) : State :=
  if s.isTray then { s.bytes 3 b.length with hbm := Mem.write s.hbm (g.base + off) b }
  else if (s.xfer? 9 r).isSome then
    s.modXfer 9 r fun x => { x with ranges := x.ranges ++ [(g.base + off, b.length)], data := x.data ++ b }
  else s.beginWrite 9 r (s.fld Fd.CAP_CFG_PUMP_CH) (s.fld Fd.CAP_CFG_XLT_CTX) (g.base + off) b

/-- An entry is placed at WP, the end of the ring padded first when it does not fit there (R434). -/
def State.ringPut (s : State) (r : Nat) (g : Ring) (e : Bytes) : State × Ring :=
  let size := 2 ^ g.log2
  let left := size - g.wp
  let g := if s.isTray ∨ 0 < g.txHeads then g else { g with txWp := g.wp }
  let (s, g) :=
    if left < e.length ∧ 8 ≤ left then
      (s.ringBytes r g g.wp (ringEntry 0 0 (List.replicate (left - 8) 0)),
        { g with heads := headsLeft g.heads g.wp left ++ [(g.wp, left)], wp := 0, wrapped := true, txHeads := g.txHeads + 1 })
    else (s, g)
  let hs := headsLeft g.heads g.wp e.length ++ [(g.wp, e.length)]
  let wp := g.wp + e.length
  let g' := { g with heads := hs, oldest := (hs.head?.map (·.1)).getD 0, wp := if wp = size then 0 else wp
                     wrapped := g.wrapped || wp == size, txHeads := g.txHeads + 1 }
  (s.ringBytes r g g.wp e, g')

/-- An upload starts at the capture's first byte (Table 17-3). -/
def Ring.startUpload (g : Ring) : Ring :=
  let total := if g.wrapped then (2 ^ g.log2 - g.oldest) + g.wp else g.wp
  { g with st := 4, up := some { offset := 0, tries := 0, total, crc := 0xFFFFFFFF } }

/-- A row counts toward POST_ROWS; the last one freezes the ring, and an AUTO_UPLOAD ring goes on to its upload. -/
def State.postRow (s : State) (r : Nat) (g : Ring) : State :=
  if g.st = 2 then
    if g.postLeft ≤ 1 then
      (s.setRing r (if g.autoUp then { g with postLeft := 0 }.startUpload else { g with postLeft := 0, st := 3 })).pendBit 9 r
    else s.setRing r { g with postLeft := g.postLeft - 1 }
  else s.setRing r g

/-- An entry of a ring is written, a GAP entry first when rows were lost (R435). KIND 1 entries are rows. -/
def State.ringWrite (s : State) (r kind : Nat) (payload : Bytes) : State :=
  match s.cap.rings.get? r with
  | none => s
  | some g =>
    if g.st = 1 ∨ g.st = 2 then
      let (s, g) := if 0 < g.lostRows then
          let (s, g') := (s.bump Fd.CAP_CNT_GAP_ROWS 0 g.lostRows).ringPut r g (ringEntry 3 g.lostRows [])
          (s.fault .cap 0 0, { g' with lostRows := 0 })
        else (s, g)
      let (s, g) := s.ringPut r g (ringEntry kind 0 payload)
      let g := { g with txRows := g.txRows + 1 }
      if kind = 1 then s.postRow r g else s.setRing r g
    else s

/-- A ring's write is stalled on a translation fault. -/
def State.ringStalled (s : State) (r : Nat) : Bool := (s.xfer? 9 r).any (·.stalled)

/-- Bytes of rows a leaf keeps for stalled rings. -/
def State.capBuf (s : State) : Nat := s.cap.buf.foldl (fun n b => n + b.2.length) 0

/-- A row goes to a leaf ring, or to the buffer while the ring's write is stalled (R435). -/
def State.ringRow (s : State) (r : Nat) (b : Bytes) : State :=
  if s.isTray ∨ !s.ringStalled r then s.ringWrite r 1 b
  else if s.capBuf + b.length ≤ 262144 then { s with cap := { s.cap with buf := s.cap.buf ++ [(r, b)] } }
  else match s.cap.rings.get? r with
  | some g => s.setRing r { g with lostRows := g.lostRows + 1 }
  | none => s

/-- The rows kept for a ring are written, its write having been answered. -/
def State.ringFlush (s : State) (r : Nat) : State :=
  let mine := s.cap.buf.filter fun (b : Nat × Bytes) => b.1 == r
  mine.foldl (fun s b => s.ringWrite r 1 b.2)
    { s with cap := { s.cap with buf := s.cap.buf.filter fun (b : Nat × Bytes) => b.1 != r } }

/-- A ring's transfer is complete: the next one starts at WP. -/
def State.ringSent (s : State) (r : Nat) : State :=
  match s.cap.rings.get? r with
  | some g => (s.endXfer 9 r).setRing r { g with txHeads := 0, txRows := 0 }
  | none => s.endXfer 9 r

/-- The transfer of a ring ended by ABORT or a timeout: its rows are lost and WP stands where it started (R435). -/
def State.ringLost (s : State) (r : Nat) : State :=
  match s.cap.rings.get? r with
  | some g =>
    let g' := if g.txHeads = 0 then g
      else { g with heads := g.heads.take (g.heads.length - g.txHeads), wp := g.txWp, lostRows := g.lostRows + g.txRows
                    txHeads := 0, txRows := 0 }
    (s.setRing r g').ringFlush r
  | none => s

/-! ### Rows -/

/-- The kind of a counter's slot (R115). -/
def State.slotOf (s : State) (ctr : Nat) : Slot :=
  match s.wells.get? (ctr / 256) with
  | some w => w.active.getD (ctr % 256) ⟨0, 0⟩
  | none => ⟨0, 0⟩

/-- The THRESH condition of a ring on a row (R437). -/
def State.thresh (s : State) (g : Ring) (row : Row) : Bool :=
  g.trigEn.getLsbD 2 && row.group == g.thGroup &&
    match (row.ctrs.zip row.vals).find? fun p => p.1 == g.thCtr with
    | some (c, v) =>
      let signed := (s.slotOf c).kind == 2
      let ge := if signed then decide (sext g.thValue.toNat 64 ≤ sext v.toNat 64) else decide (g.thValue.toNat ≤ v.toNat)
      let le := if signed then decide (sext v.toNat 64 ≤ sext g.thValue.toNat 64) else decide (v.toNat ≤ g.thValue.toNat)
      if g.thCmp = 0 then ge else le
    | none => false

/-- CAP takes a row of wellhead `w` (0xFF on a leaf): every ring whose mask names its group (R433). -/
def State.capRow (s : State) (w : Nat) (row : Row) : State :=
  if s.live .cap then
    s.cap.rings.foldl (fun s (r, g) =>
      if g.valid ∧ (g.st = 1 ∨ g.st = 2) ∧ g.groups.getLsbD row.group ∧
          (s.isTray = false ∨ g.wellhead = 0xFF ∨ g.wellhead = w) then
        have s := s.ringRow r row.bytes
        if s.thresh g row then s.capTrigger r 4 else s
      else s) s
  else s

/-- A message of route class `c` goes to the tray rings that take the class (R433, R400). -/
def State.capMsg (s : State) (c : Nat) (m : Bytes) : State :=
  if s.live .cap then
    s.cap.rings.foldl (fun s (r, g) =>
      if g.valid ∧ (g.st = 1 ∨ g.st = 2) ∧ g.classes.getLsbD c then s.ringWrite r 2 m else s) s
  else s

end Sys2Proof.Machine
end

