-- ==== Sys2Proof/Machine/Cis.lean ====
section
/-! DEFINITION. CIS and the shared upstream queues (chapter 15): policers, the sump and LEVEL_SATURATED, ingest credit, the DRR
queues' put side with its spill, and the route table. -/

namespace Sys2Proof.Machine

/-! ### The shift S and saturation (R396, R397) -/

/-- S changes and goes to every ACTIVE wellhead as SLOW_DOWN. -/
def State.shiftTo (s : State) (v : Nat) : State :=
  if s.fld Fd.CIS_STAT_S = v then s
  else (List.range s.wellheads).foldl (fun s w =>
      if s.laneActive w then (s.linkMsg w (leBytes 1 2 ++ leBytes 1 v)).bump Fd.CIS_CNT_SLOW_DOWN else s)
    (s.setFld Fd.CIS_STAT_S 0 v)

/-- SATURATED is set or cleared: record, EVR, and at the set the fault and a step of S. -/
def State.saturate (s : State) (on : Bool) : State :=
  have s := (s.setFld Fd.CIS_STAT_SATURATED 0 (b2n on)).pendBit 12 (if on then 0 else 1)
  have s := { s with cis := { s.cis with stepAt := s.aon, stepFill := s.cis.fill } }
  have s := if on then (s.bump Fd.CIS_CNT_SATURATIONS).shiftTo
    (min (s.fld Fd.CIS_STAT_S + 1) (s.fld Fd.CIS_SAT_SHIFT_MAX)) else s
  let v := s.fld Fd.CIS_STAT_S
  let (h, s) := s.trayHeader 0x61
  have s := s.toCollector 3 (h ++ leBytes 1 (b2n on) ++ leBytes 1 v ++ leBytes 6 0 ++ leBytes 8 s.cis.fill)
  have s := s.event 0x2301 (leBytes 1 (b2n on) ++ leBytes 1 v ++ leBytes 6 0 ++ leBytes 8 s.cis.fill)
  (if on then s.fault .cis 0 1 else s).health

/-- The sump's fill changes (R396). -/
def State.setFill (s : State) (n : Nat) : State :=
  have s := { s with cis := { s.cis with fill := n } }.setFld Fd.CIS_STAT_SUMP_FILL_MIB 0 (n / 2 ^ 20)
  let z := s.sumpSize
  if s.fld Fd.CIS_STAT_SATURATED = 0 ∧ s.fld Fd.CIS_SAT_SAT_HI * z ≤ n * 16 ∧ 0 < n then s.saturate true
  else if s.fld Fd.CIS_STAT_SATURATED = 1 ∧ n * 16 ≤ s.fld Fd.CIS_SAT_SAT_LO * z then s.saturate false
  else s

/-- Bytes leave the sump. -/
def State.drainFill (s : State) (n : Nat) : State := (s.setFld Fd.CIS_STAT_SUMP_FULL 0 0).setFill (s.cis.fill - n)

/-- SLOW_STEP_TIMER (R397). -/
def slowStepTimer (s : State) : State :=
  if s.fld Fd.CIS_STAT_SATURATED = 1 then
    have s := s.reach (s.cis.stepAt + s.fld Fd.CIS_SAT_SLOW_STEP_MS * cyMs)
    let fell := decide (s.cis.fill < s.cis.stepFill)
    have s := { s with cis := { s.cis with stepAt := s.aon, stepFill := s.cis.fill } }
    if fell then s else s.shiftTo (min (s.fld Fd.CIS_STAT_S + 1) (s.fld Fd.CIS_SAT_SHIFT_MAX))
  else s

def execSlowStepTimer (s : State) : Host.Outcome State Fault Refusal := done (slowStepTimer s)

/-- RECOVER_TIMER (R397). -/
def recoverTimer (s : State) : State :=
  if s.fld Fd.CIS_STAT_SATURATED = 0 ∧ 0 < s.fld Fd.CIS_STAT_S then
    have s := s.reach (s.cis.stepAt + s.fld Fd.CIS_SAT_RECOVER_MS * cyMs)
    { s with cis := { s.cis with stepAt := s.aon } }.shiftTo (s.fld Fd.CIS_STAT_S - 1)
  else s

def execRecoverTimer (s : State) : Host.Outcome State Fault Refusal := done (recoverTimer s)

/-! ### Policers (R391) -/

/-- The policer of a wellhead's VC; without an entry RATE is 0, which disables it. -/
def State.policer (s : State) (k : Nat) : Policer := s.cis.policers.getD k ⟨0, 0, 0, 0, 0⟩

/-- A policer with its tokens at edge `now`. -/
def Policer.refill (p : Policer) (now : Nat) : Policer :=
  { p with tokens := min (p.burst * 1024) (p.tokens + p.rate * (now - p.last)), last := now }

/-- A message of `n` bytes meets the policer of its wellhead and VC: it passes, or is dropped and counted. -/
def State.police (s : State) (w vc n : Nat) : State × Bool :=
  let k := 3 * w + vc - 1
  let p := (s.policer k).refill s.aon
  let set := fun (p : Policer) => { s with cis := { s.cis with policers := s.cis.policers.set k p } }
  if p.rate = 0 then (s, true)
  else if n ≤ p.tokens then (set { p with tokens := p.tokens - n }, true)
  else ((set { p with drops := (p.drops + 1) % 2 ^ 32 }).bump Fd.CIS_CNT_POLICE_DROP, false)

/-- Every bucket is full when CIS is enabled. -/
def State.policersFull (s : State) : State :=
  { s with cis := { s.cis with policers := s.cis.policers.mapV fun _ p => { p with tokens := p.burst * 1024, last := s.aon } } }

/-- READ of a policer (Table 15-7). -/
def policerRead (k : Nat) (s : State) : WinOut :=
  if k < 3 * s.wellheads then
    let p := s.policer k
    s.winData [BitVec.ofNat 64 (p.rate * 2 ^ 56 + p.burst), BitVec.ofNat 64 p.drops]
  else s.win 2

def execPolicerRead (q : Req) (w v : Nat) (s : State) : Host.Outcome State Fault Refusal :=
  done (s.winCmd q .cis 0 0 1 (3 * w + v - 1) (policerRead (3 * w + v - 1)))

/-- WRITE of a policer: its bucket starts full. -/
def policerWrite (k : Nat) (s : State) : WinOut :=
  if k < 3 * s.wellheads then
    let d := (s.data .cis 0 0).toNat
    let p : Policer := { rate := bits d 63 56, burst := bits d 15 0, tokens := bits d 15 0 * 1024, last := s.aon
                         drops := (s.policer k).drops }
    { s with cis := { s.cis with policers := s.cis.policers.set k p } }.win 0
  else s.win 2

def execPolicerWrite (q : Req) (w v : Nat) (s : State) : Host.Outcome State Fault Refusal :=
  done (s.winCmd q .cis 0 0 2 (3 * w + v - 1) (policerWrite (3 * w + v - 1)))

/-! ### The DRR queues' put side (R398, R399) -/

/-- A queue's configuration in force; LIMIT_KIB has no reset value in the manual. -/
def State.qcfg (s : State) (key : Nat) : QCfg := s.ups.active.queues.getD key ⟨1, 0, 1, false⟩

/-- One place of the list's round has passed: the rounds completed by it (0 or 1). -/
def UpPort.turn (u : UpPort) : UpPort × Nat :=
  if u.roundLeft ≤ 1 then ({ u with roundLeft := u.drr.length }, 1) else ({ u with roundLeft := u.roundLeft - 1 }, 0)

/-- An emptied queue leaves the list with DEF = min(DEF, BURST). -/
def UpPort.leave (u : UpPort) (q burst : Nat) : UpPort :=
  let head := u.drr.head? == some q
  ({ u with drr := u.drr.filter (· != q), visited := u.visited && !head, emptied := none
            defs := u.defs.set q (min (u.defs.getD q 0) burst) }).turn.1

/-- A frame joins a DRR queue; a queue that becomes non-empty joins the tail of the list with its held DEF. A queue whose last
packet left at this edge stays in the list. -/
def State.joinQueue (s : State) (p q : Nat) (it : UpItem) : State :=
  let u := s.up p
  let u := match u.emptied with
    | some (k, e) => if k ≠ q then u else if e = s.aon then { u with emptied := none } else u.leave q (s.qcfg (32 * p + q)).burst
    | none => u
  let u := { u with queues := u.queues.set q (u.queues.getD q [] ++ [it]) }
  s.setUp p (if u.drr.contains q then u else { u with drr := u.drr ++ [q], roundLeft := u.roundLeft + 1 })

/-- Items of a queue that are in the sump or wait for ingest credit to enter it. -/
def State.spilled (s : State) (key : Nat) : Bool :=
  !(s.cis.spill.getD key []).isEmpty || s.cis.waiting.any fun (i : Ingest) => i.cls == 0 && i.w == 128 + key

/-- Bytes that wait for credit to enter the sump. -/
def State.parking (s : State) : Nat := s.cis.waiting.foldl (fun n (i : Ingest) => if i.cls = 0 then n + i.body.length else n) 0

/-- The sump has room for `n` more bytes. -/
def State.sumpRoom (s : State) (n : Nat) : Bool := decide (s.cis.fill + s.parking + n ≤ s.sumpSize)

/-- Spilled items return to their queue in order, as far as its limit takes them (R395). -/
def State.unspill (s : State) (p q : Nat) : List Bytes → State
  | [] => { s with cis := { s.cis with spill := s.cis.spill.erase (32 * p + q) } }
  | b :: r =>
    if queueBytes ((s.up p).queues.getD q []) + b.length ≤ (s.qcfg (32 * p + q)).limit * 1024 then
      (((s.joinQueue p q ⟨b, none, none⟩).bytes 2 b.length).drainFill b.length).unspill p q r
    else { s with cis := { s.cis with spill := s.cis.spill.set (32 * p + q) (b :: r) } }

/-- Items of the sump return to every queue that has room for them (R395). -/
def State.unspillAll (s : State) : State :=
  s.cis.spill.foldl (fun s (x : Nat × List Bytes) => s.unspill (x.1 / 32) (x.1 % 32) x.2) s

/-- The sump cannot hold an item (R395). -/
def State.sumpOver (s : State) : State := (s.setFld Fd.CIS_STAT_SUMP_FULL 0 1).fault .cis 0 0

/-! ### Ingest credit (R394) -/

/-- The credit at this edge: BUDGET_B for each of the 20 fast cycles of an AON cycle, at most 4 × BUDGET_B. -/
def State.ingestCredit (s : State) : Nat :=
  min (4 * s.fld Fd.CIS_INGEST_BUDGET_B) (s.cis.credit + (s.aon - s.cis.creditAt) * 20 * s.fld Fd.CIS_INGEST_BUDGET_B)

/-- The first capture message at or after wellhead `rr`, round robin. -/
def pickCapture (rr : Nat) (l : List Ingest) : Option Ingest :=
  let caps := l.filter fun i => i.cls == 2
  let best := fun (p : Ingest → Bool) =>
    (caps.filter p).foldl (fun (b : Option Ingest) i => match b with
      | some x => if i.w < x.w then some i else some x
      | none => some i) none
  (best fun i => decide (rr ≤ i.w)).orElse fun _ => best fun _ => true

/-- The waiting write that is served next: sump parks, then cistern rows, then capture. -/
def State.nextIngest (s : State) : Option Ingest :=
  ((s.cis.waiting.find? fun i => i.cls == 0).orElse fun _ => s.cis.waiting.find? fun i => i.cls == 1).orElse fun _ =>
    pickCapture s.cis.rr s.cis.waiting

/-- A row written to the tray rings that take its wellhead and group (R160, R433). -/
def State.cisternRow (s : State) (w : Nat) (b : Bytes) : State :=
  if s.live .cap then
    s.cap.rings.foldl (fun s (r, g) =>
      if g.valid ∧ (g.st = 1 ∨ g.st = 2) ∧ g.groups.getLsbD (bits (rdLE b 12 1) 5 0) ∧ (g.wellhead = 0xFF ∨ g.wellhead = w) then
        s.ringWrite r 1 b else s) s
  else s

/-- Whether a queue takes a frame now. -/
def State.queueTakes (s : State) (p q n : Nat) : Bool :=
  !s.spilled (32 * p + q) &&
    decide (queueBytes ((s.up p).queues.getD q []) + n ≤ (s.qcfg (32 * p + q)).limit * 1024)

/-- A granted write, what credit is left after it, and, for what does not go on upstream, its effect. -/
def State.ingestTake (s : State) (it : Ingest) (left : Nat) : State :=
  let n := it.body.length
  have s := { s with cis := { s.cis with credit := left, creditAt := s.aon, waiting := s.cis.waiting.erase it } }
  have s := s.addReg Rg.CIS_BYTES 0 n
  if it.cls = 0 then
    have s := s.bytes 3 n
    if it.w < 128 then { s with cmp := { s.cmp with parked := s.cmp.parked ++ [(it.w, it.body)] } }.setFill (s.cis.fill + n)
    else
      let k := it.w - 128
      have s := { s with cis := { s.cis with spill := s.cis.spill.set k (s.cis.spill.getD k [] ++ [it.body]) } }.setFill
        (s.cis.fill + n)
      s.unspill (k / 32) (k % 32) (s.cis.spill.getD k [])
  else if it.cls = 1 then
    if 256 ≤ it.w then s.cisternRow (it.w - 256) it.body else s.capMsg it.w it.body
  else s

/-- A write asks for ingest credit; with none before it and credit enough it is granted at once. -/
def State.ingest (s : State) (it : Ingest) : State :=
  if s.cis.waiting.isEmpty ∧ s.live .cis ∧ it.cls < 2 ∧ it.body.length ≤ s.ingestCredit then
    s.ingestTake it (s.ingestCredit - it.body.length)
  else { s with cis := { s.cis with waiting := s.cis.waiting ++ [it] } }

/-- A frame joins a DRR queue of a port, or goes to the sump, or is dropped (R398). -/
def State.putDrr (s : State) (p q : Nat) (frame : Bytes) : State :=
  if s.queueTakes p q frame.length then s.joinQueue p q ⟨frame, none, none⟩
  else if (s.qcfg (32 * p + q)).spill then
    if s.sumpRoom frame.length then
      ((s.bump Fd.UPS_CNT_SPILLS).addReg Rg.UPS_SPILLED 0 frame.length).ingest ⟨0, 128 + 32 * p + q, frame⟩
    else (s.bump Fd.UPS_CNT_SPILL_DROP).sumpOver
  else s.bump Fd.UPS_CNT_SPILL_DROP

/-! ### Routes (R400) -/

/-- The entry in force of a route class. -/
def State.routeOf (s : State) (c : Nat) : Route := s.ups.active.routes.getD c ⟨false, false, 0, 0, 0⟩

/-- The upstream side of a route: one MSG frame in the class's queue, or ROUTE_DROP when it exceeds the MTU. -/
def State.routeUp (s : State) (r : Route) (m : Bytes) : State :=
  let dst := if r.dest = 0 then s.fld Fd.UPS_CFG_COLLECTOR_MAC else r.dest.toNat
  if s.fld Fd.UP_CFG_MTU r.port < m.length + 8 then s.bump Fd.UPS_CNT_ROUTE_DROP
  else s.putDrr r.port r.queue (s.msgFrame r.port dst m)

/-- A write of a route class waits for credit and holds its route (R394). -/
def State.routeHeld (s : State) (c : Nat) : Bool := s.cis.waiting.any fun (i : Ingest) => i.cls == 1 && i.w == c

/-- A message of a route class is placed. -/
def State.route (s : State) (c : Nat) (m : Bytes) : State :=
  let r := s.routeOf c
  if !r.up && !r.cistern then s.bump Fd.UPS_CNT_ROUTE_DROP
  else
    have s := if r.up then s.routeUp r m else s
    if r.cistern then s.ingest ⟨1, c, m⟩ else s

/-- A message that arrives for a route: one that is held has no place for it (R392, R394). -/
def State.routeIn (s : State) (c : Nat) (m : Bytes) : State := if s.routeHeld c then s else s.route c m

/-- Capture messages of a wellhead hold VC3 receive buffers until their ingest is granted (R392). -/
def State.freeVc3 (s : State) (w n : Nat) : State :=
  s.modLane w fun l => { l with rxUsed := l.rxUsed.set 3 (l.rxUsed.getD 3 0 - n), freed := l.freed.set 3 ((l.freed.getD 3 0 + n) % 256) }

/-- The oldest capture message of a wellhead has its ingest: the buffers of its flits are freed. -/
def State.freeHeld (s : State) (w : Nat) : State :=
  match (s.lane w).rxHeld with
  | n :: r => (s.modLane w fun l => { l with rxHeld := r }).freeVc3 w n
  | [] => s

/-- A granted ingest write: a capture message goes where route class 3 places it (R440) and its buffers are freed. -/
def State.grant (s : State) (it : Ingest) (left : Nat) : State :=
  have s := s.ingestTake it left
  if it.cls = 2 then
    let r := s.routeOf 3
    have s := { s with cis := { s.cis with rr := it.w + 1 } }.freeHeld it.w
    if !r.up && !r.cistern then s.bump Fd.UPS_CNT_ROUTE_DROP
    else
      have s := if r.up then s.routeUp r it.body else s
      if r.cistern then s.capMsg 3 it.body else s
  else s

/-- INGEST_GRANT: the edge at which the next waiting write has its credit. -/
def ingestGrant (s : State) : State :=
  match s.nextIngest with
  | some it =>
    if s.live .cis then
      let b := s.fld Fd.CIS_INGEST_BUDGET_B
      let c := s.ingestCredit
      let n := it.body.length
      let k := ceilDiv (n - c) (20 * b)
      (s.advance k).grant it (min (4 * b) (c + k * 20 * b - n))
    else s
  | none => s

def execIngestGrant (s : State) : Host.Outcome State Fault Refusal := done (ingestGrant s)

/-! ### Parking frames (R159, R395) -/

/-- A frame of a wellhead is parked, or waits to be. -/
def State.frameParked (s : State) (w : Nat) : Bool :=
  (s.cmp.parked.any fun x => x.1 == w) || (s.cis.waiting.any fun i => i.cls == 0 && i.w == w)

/-- A frame to be parked goes to the sump, or is dropped, and then later frames of its wellhead with it until what it has parked is
gone. -/
def State.park (s : State) (w : Nat) (m : Bytes) : State :=
  if s.cis.blocked.contains w ∧ s.frameParked w then s.bump Fd.CIS_CNT_SUMP_DROP
  else if s.sumpRoom m.length then
    { s with cis := { s.cis with blocked := s.cis.blocked.filter (· != w) } }.ingest ⟨0, w, m⟩
  else { s with cis := { s.cis with blocked := w :: s.cis.blocked.filter (· != w) } }.bump Fd.CIS_CNT_SUMP_DROP |>.sumpOver

/-- `PG_CTRL.UNIT_RESET` of CIS, after its registers have been reset (R51): tables and the sump's contents stay; what S and SATURATED
were is gone, and the wellheads and the controller are told (R397, R411). -/
def cisReset (old s : State) : State :=
  have s := { s.policersFull with cis := { s.policersFull.cis with credit := 0, creditAt := s.aon, rr := 0, blocked := [] } }.setFld
    Fd.CIS_STAT_SUMP_FILL_MIB 0 (s.cis.fill / 2 ^ 20)
  have s := (s.setFld Fd.CIS_STAT_S 0 (old.fld Fd.CIS_STAT_S)).shiftTo 0
  if old.fld Fd.CIS_STAT_SATURATED = 1 then s.health else s

end Sys2Proof.Machine
end

