-- ==== Sys2Proof/Machine/Xrf.lean ====
section
/-! DEFINITION. Exact reduction (chapter 13): slot descriptors and templates, the class A and class B operations, XRF frames and
the tray tree (R341 to R350, R356 to R361). -/

namespace Sys2Proof.Machine

/-! ### Descriptors (Tables 13-4, 13-5) -/

/-- The OP of a descriptor; a slot not in use is NONE. -/
def descOp (d : BitVec 32) : Nat := if d.getLsbD 31 then bits d.toNat 29 24 else 0

/-- The operands of a slot are two's complement. -/
def descSigned (d : BitVec 32) : Bool := d.getLsbD 31 && d.getLsbD 30

/-- The PARAM of a descriptor. -/
def descParam (d : BitVec 32) : Nat := bits d.toNat 7 0

/-- Class B operations. -/
def classB (op : Nat) : Bool := op == 16 || op == 17 || op == 18

/-- Slots a field takes by its head. -/
def descSpan (d : BitVec 32) : Nat :=
  let op := descOp d
  if op = 5 ∨ op = 6 then 2 else if op = 16 ∨ op = 18 then descParam d + 1 else if op = 17 then 8 * descParam d + 1 else 1

/-- The OPMAP byte of a descriptor (Table 13-9). -/
def opByte (d : BitVec 32) : Nat := descOp d + 64 * b2n (descSigned d)

/-- The OPMAP byte in an ADD frame: class B and SPAN slots are NONE (R357). -/
def addByte (d : BitVec 32) : Nat := if classB (descOp d) || descOp d == 19 then 0 else opByte d

/-- The conditions on one descriptor alone (R342). -/
def descOk (d : BitVec 32) : Bool :=
  let op := descOp d
  let p := descParam d
  decide (bits d.toNat 23 18 = 0 ∧ bits d.toNat 15 8 = 0) &&
    (if classB op then decide (bits d.toNat 17 16 ≤ 2) &&
        (if op = 17 then decide (10 ≤ p ∧ p ≤ 16 ∧ p % 2 = 0) else decide (1 ≤ p ∧ p ≤ 63))
      else decide (p = 0 ∧ bits d.toNat 17 16 = 0 ∧ (op ≤ 9 ∨ op = 19)))

/-- The slots from index `i` form whole fields, `owed` slots of the running field (kind 7 ARG_ID or 19 SPAN) still to come. -/
def fieldsOk : Nat → Nat → Nat → List (BitVec 32) → Bool
  | _, _, owed, [] => owed == 0
  | i, kind, owed, d :: ds =>
    let op := descOp d
    descOk d &&
      (if owed = 0 then op != 7 && op != 19 && fieldsOk (i + 1) (if op = 5 ∨ op = 6 then 7 else 19) (descSpan d - 1) ds
       else op == kind && i % 256 != 0 && fieldsOk (i + 1) kind (owed - 1) ds)

/-- A template is valid (R342): its FIELDS descriptors. -/
def templateOk (ds : List (BitVec 32)) : Bool := fieldsOk 0 0 0 ds

/-- DESC_CRC of a template (Table 13-9). -/
def descCrc (ds : List (BitVec 32)) : Nat := crc32c (ds.flatMap fun d => leBytes 4 d.toNat)

/-! ### Class A (R347, R348) -/

abbrev Slot128 := BitVec 128

/-- A 64-bit leaf slot as the tray's 128-bit word. -/
def ext128 (sg : Bool) (v : Nat) : Slot128 := BitVec.ofNat 128 (wrapI (if sg then sext v 64 else v) 128)

/-- The leaf identity of a slot (Table 13-5); ARG_ID takes `node`. -/
def leafIdentity (op : Nat) (sg : Bool) (fold node : Nat) : Nat :=
  let op := if classB op then (if fold = 1 then 3 else if fold = 2 then 4 else 1) else op
  if op = 3 ∨ op = 5 then (if sg then 2 ^ 63 - 1 else 2 ^ 64 - 1)
  else if op = 4 ∨ op = 6 then (if sg then 2 ^ 63 else 0)
  else if op = 7 then node
  else if op = 9 then 2 ^ 64 - 1 else 0

/-- What a member's leaf slot contributes (R347). -/
def contribution (d : BitVec 32) (node v : Nat) : Slot128 :=
  let op := descOp d
  if op = 2 then ext128 false v
  else if op = 7 then BitVec.ofNat 128 node
  else if op = 0 ∨ 10 ≤ op then 0
  else ext128 (descSigned d) v

/-- The identity of a slot at the tray. -/
def trayIdentity (d : BitVec 32) : Slot128 :=
  let op := descOp d
  if op = 7 then 0xFFFFF else if op = 0 ∨ 10 ≤ op then 0 else ext128 (descSigned d) (leafIdentity op (descSigned d) 0 0)

/-- A slot's value as `merge_add` compares it. -/
def slotVal (sg : Bool) (w : Slot128) : Int := if sg then w.toInt else w.toNat

/-- `merge_add` (R348), slot by slot; a pair of ARGMIN or ARGMAX with its ARG_ID is chosen together. -/
def mergeAdd : List Nat → List Slot128 → List Slot128 → List Slot128
  | c :: cs, a :: as, b :: bs =>
    let op := c % 64
    let x := slotVal (bit c 6) a
    let y := slotVal (bit c 6) b
    if op = 5 ∨ op = 6 then
      match cs, as, bs with
      | _ :: cs, a' :: as, b' :: bs =>
        if (if op = 5 then x < y else y < x) ∨ (x = y ∧ a'.toNat ≤ b'.toNat) then a :: a' :: mergeAdd cs as bs
        else b :: b' :: mergeAdd cs as bs
      | _, _, _ => [a]
    else
      (if op = 1 ∨ op = 2 then a + b
       else if op = 3 then (if x ≤ y then a else b)
       else if op = 4 then (if y ≤ x then a else b)
       else if op = 8 then a ||| b
       else if op = 9 then a &&& b
       else if op = 7 then a else 0) :: mergeAdd cs as bs
  | _, as, _ => as

/-! ### Class B (R349) -/

/-- Counts of a class B state saturate. -/
def sat32 (n : Nat) : Nat := min n (2 ^ 32 - 1)

/-- A TOPK state: SEEN and the entries as (key, count, err). -/
abbrev TopK := Nat × List (Nat × Nat × Nat)

/-- A TOPK state as its slots hold it. -/
def topDecode (l : List Slot128) : TopK :=
  match l with
  | [] => (0, [])
  | h :: r => (bits h.toNat 63 32, (r.take (bits h.toNat 31 0)).map fun e => (bits e.toNat 63 0, bits e.toNat 95 64, bits e.toNat 127 96))

/-- The slots of a TOPK state of `k` entries. -/
def topEncode (k : Nat) (t : TopK) : List Slot128 :=
  BitVec.ofNat 128 (t.2.length + t.1 * 2 ^ 32) ::
    ((t.2.map fun (key, c, e) => BitVec.ofNat 128 (key + c * 2 ^ 64 + e * 2 ^ 96)) ++ List.replicate (k - t.2.length) 0)

/-- The entry with the least count, the first of equals. -/
def leastCount : List (Nat × Nat × Nat) → Option (Nat × Nat)
  | [] => none
  | (_, c, _) :: r => match leastCount r with
    | none => some (0, c)
    | some (i, m) => if c ≤ m then some (0, c) else some (i + 1, m)

/-- `topk_add`. -/
def topAdd (k : Nat) (t : TopK) (key w : Nat) : TopK :=
  let es := t.2
  (sat32 (t.1 + w),
    if es.any (fun e => e.1 == key) then es.map fun (x, c, e) => if x = key then (x, sat32 (c + w), e) else (x, c, e)
    else if es.length < k then es ++ [(key, w, 0)]
    else match leastCount es with
    | some (j, m) => es.set j (key, sat32 (m + w), m)
    | none => es)

/-- A QSKETCH state: SEEN, TOGGLE, OVERFLOW and the 16 levels of values in stored order. -/
structure QSt where
  seen   : Nat
  toggle : Bool
  ovfl   : Bool
  lv     : List (List Nat)
  deriving DecidableEq, Repr

/-- A QSKETCH state as its slots hold it; `c` values a level. -/
def qsDecode (c : Nat) (l : List Slot128) : QSt :=
  let h := (l.headD 0).toNat
  { seen := bits h 31 0, toggle := bit h 32, ovfl := bit h 33
    lv := (List.range 16).map fun i =>
      let n := if i = 15 ∧ bit h 34 then c else bits h (67 + 4 * i) (64 + 4 * i)
      (((l.drop (1 + i * (c / 2))).take (c / 2)).flatMap fun w => [bits w.toNat 63 0, bits w.toNat 127 64]).take n }

/-- Two values to a slot, low half first. -/
def pairSlots : Nat → List Nat → List Slot128
  | 0, _ => []
  | n + 1, l => BitVec.ofNat 128 (l.headD 0 + l.tail.headD 0 * 2 ^ 64) :: pairSlots n (l.drop 2)

/-- The slots of a QSKETCH state. -/
def qsEncode (c : Nat) (q : QSt) : List Slot128 :=
  let full := decide (c = 16 ∧ (q.lv.getD 15 []).length = 16)
  let fills := (List.range 16).foldl (fun n i => n + (q.lv.getD i []).length % 16 * 2 ^ (64 + 4 * i)) 0
  BitVec.ofNat 128 (q.seen + b2n q.toggle * 2 ^ 32 + b2n q.ovfl * 2 ^ 33 + b2n full * 2 ^ 34 + fills) ::
    (List.range 16).flatMap fun i => pairSlots (c / 2) (q.lv.getD i [])

/-- A value of a sketch as it is compared. -/
def val64 (sg : Bool) (v : Nat) : Int := if sg then sext v 64 else v

/-- A value put in its place in a sorted list, after its equals. -/
def sortIns (sg : Bool) (v : Nat) : List Nat → List Nat
  | [] => [v]
  | x :: r => if val64 sg v < val64 sg x then v :: x :: r else x :: sortIns sg v r

/-- Every second value, from the first or the second. -/
def everyOther : Bool → List Nat → List Nat
  | _, [] => []
  | skip, v :: r => if skip then everyOther false r else v :: everyOther true r

/-- `qs_add` at level `lvl`; the fuel is the levels left. -/
def qsAdd (c : Nat) (sg : Bool) : Nat → Nat → QSt → Nat → QSt
  | 0, _, q, _ => q
  | n + 1, lvl, q, v =>
    let l := q.lv.getD lvl []
    if l.length = c then { q with ovfl := true }
    else if l.length + 1 < c ∨ lvl = 15 then { q with lv := q.lv.set lvl (l ++ [v]) }
    else
      let keep := everyOther q.toggle ((l ++ [v]).foldl (fun a x => sortIns sg x a) [])
      keep.foldl (qsAdd c sg n (lvl + 1)) { q with toggle := !q.toggle, lv := q.lv.set lvl [] }

/-- A RESERVOIR state: its random word, SEEN, and the entries held as (value, ID). -/
structure RSt where
  rng  : BitVec 64
  seen : Nat
  es   : List (Nat × Nat)
  deriving DecidableEq, Repr

def resDecode (r : Nat) (l : List Slot128) : RSt :=
  let h := (l.headD 0).toNat
  { rng := BitVec.ofNat 64 h, seen := bits h 95 64
    es := ((l.drop 1).take (min r (bits h 95 64))).map fun e => (bits e.toNat 63 0, bits e.toNat 83 64) }

def resEncode (r : Nat) (t : RSt) : List Slot128 :=
  BitVec.ofNat 128 (t.rng.toNat + t.seen * 2 ^ 64) ::
    ((t.es.map fun (v, i) => BitVec.ofNat 128 (v + i * 2 ^ 64)) ++ List.replicate (r - t.es.length) 0)

/-- `res_add`. -/
def resAdd (r : Nat) (t : RSt) (v node : Nat) : RSt :=
  let seen := sat32 (t.seen + 1)
  if seen ≤ r then { t with seen, es := t.es ++ [(v, node)] }
  else
    let x := t.rng ^^^ (t.rng <<< 13)
    let x := x ^^^ (x >>> 7)
    let x := x ^^^ (x <<< 17)
    let j := x.toNat % seen
    { rng := x, seen, es := if j < r then t.es.set j (v, node) else t.es }

/-- The empty state of a class B field. -/
def emptyB (d : BitVec 32) (epoch : Nat) : List Slot128 :=
  let h := if descOp d = 18 then BitVec.ofNat 128 ((BitVec.ofNat 64 (epoch * 0x9E3779B97F4A7C15) ||| 1).toNat) else 0
  h :: List.replicate (descSpan d - 1) 0

/-- One member's value enters a class B state. -/
def insertB (d : BitVec 32) (st : List Slot128) (v : Slot128) (node : Nat) : List Slot128 :=
  let p := descParam d
  let v := bits v.toNat 63 0
  if descOp d = 16 then topEncode p (topAdd p (topDecode st) v 1)
  else if descOp d = 17 then
    let q := qsDecode p st
    qsEncode p (qsAdd p (descSigned d) 16 0 { q with seen := sat32 (q.seen + 1) } v)
  else resEncode p (resAdd p (resDecode p st) v node)

/-- A class B state `b` is merged into `a`. -/
def mergeB (d : BitVec 32) (a b : List Slot128) : List Slot128 :=
  let p := descParam d
  if descOp d = 16 then
    topEncode p ((topDecode b).2.foldl (fun t (key, c, _) => topAdd p t key c) (topDecode a))
  else if descOp d = 17 then
    let qa := qsDecode p a
    let qb := qsDecode p b
    qsEncode p (qb.lv.zipIdx.foldl (fun q (vs, lvl) => vs.foldl (qsAdd p (descSigned d) (16 - lvl) lvl) q)
      { qa with seen := sat32 (qa.seen + qb.seen) })
  else resEncode p ((resDecode p b).es.foldl (fun t (v, i) => resAdd p t v i) (resDecode p a))

/-! ### XRF frames (R356 to R360) -/

/-- The 304 bytes before OPMAP, OPMAP and SLOTS (Table 13-9). -/
def Xrf.payload (x : Xrf) : Bytes :=
  leBytes 1 x.version ++ leBytes 1 x.kind ++ leBytes 1 x.template ++ leBytes 1 x.part ++
    leBytes 4 (x.job % 2 ^ 24 + x.gen * 2 ^ 24) ++ leBytes 5 x.epoch ++ leBytes 3 x.flags.toNat ++ leBytes 2 x.first ++
    leBytes 2 x.n ++ leBytes 4 x.descCrc ++ leBytes 4 x.leaves ++ leBytes 2 x.trays ++ leBytes 2 0 ++ timeBytes x.deadline ++
    leBytes 4 0 ++ leBytes 256 x.presence.toNat ++ padTo 16 (x.opmap.flatMap fun c => leBytes 1 c) ++
    x.slots.flatMap fun w => leBytes 16 w.toNat

/-- A payload read as an XRF frame; one shorter than its head has N 0. -/
def xrfParse (dst : BitVec 48) (vlan : Option (BitVec 16)) (m : Bytes) : Xrf :=
  let n := rdLE m 18 2
  let so := 304 + 16 * ceilDiv n 16
  { dst, vlan, version := rdLE m 0 1, kind := rdLE m 1 1, template := rdLE m 2 1, part := rdLE m 3 1, job := rdLE m 4 3
    gen := rdLE m 7 1, epoch := rdLE m 8 5, flags := BitVec.ofNat 20 (rdLE m 13 3), first := rdLE m 16 2, n
    descCrc := rdLE m 20 4, leaves := rdLE m 24 4, trays := rdLE m 28 2, deadline := ofTime96 (rdLE m 32 12)
    presence := BitVec.ofNat 2048 (rdLE m 48 256), opmap := (List.range n).map fun i => rdLE m (304 + i) 1
    slots := (List.range n).map fun i => BitVec.ofNat 128 (rdLE m (so + 16 * i) 16) }

/-- Every ARGMIN and ARGMAX of an OPMAP has its ARG_ID, every ARG_ID stands after one, and every byte is an operation of
Table 13-5 (`arg` tells that an ARG_ID is due). -/
def opmapOk : Bool → List Nat → Bool
  | arg, [] => !arg
  | arg, c :: cs =>
    let op := c % 64
    c < 128 && (decide (op ≤ 9) || classB op || op == 19) && (if arg then op == 7 else op != 7) &&
      opmapOk (op == 5 || op == 6) cs

/-- Two frames may be added (R358): the frames of one stream epoch's late close are apart, and a frame this tray builds (destination 0)
goes with the frames that its children addressed to it. -/
def Xrf.sameKey (a b : Xrf) : Bool :=
  (a.dst == b.dst || a.dst == 0 || b.dst == 0) && a.kind == b.kind && a.vlan == b.vlan && a.version == b.version && a.template == b.template && a.part == b.part &&
    a.job == b.job && a.gen == b.gen && a.epoch == b.epoch && a.first == b.first && a.n == b.n && a.descCrc == b.descCrc &&
    a.opmap == b.opmap && a.flags.getLsbD 10 == b.flags.getLsbD 10

/-- The sum of two frames (R358), their slots merged by `f`. -/
def Xrf.sum (f : List Slot128 → List Slot128 → List Slot128) (a b : Xrf) : Xrf :=
  { a with dst := a.dst ||| b.dst, slots := f a.slots b.slots, presence := a.presence ||| b.presence, leaves := (a.leaves + b.leaves) % 2 ^ 32
           trays := (a.trays + b.trays) % 2 ^ 16, flags := a.flags ||| b.flags, deadline := min a.deadline b.deadline }

/-! ### The tray tree (R361, R424) -/

/-- Tray-tree mode. -/
def State.treeOn (s : State) : Bool := s.fld Fd.RDX_TREE_CFG_ENABLE == 1

/-- This tray ends the reduction. -/
def State.treeRoot (s : State) : Bool := s.fld Fd.RDX_TREE_CFG_ROOT == 1

/-- Where XRF frames go: the parent in tray-tree mode, else the collector. -/
def State.xrfDst (s : State) : Nat :=
  if s.treeOn && !s.treeRoot then s.fld Fd.RDX_PARENT_MAC else s.fld Fd.UPS_CFG_COLLECTOR_MAC

/-- An Ethernet frame of the UPS EtherType with an optional tag (R356). -/
def State.tagged (s : State) (p : Nat) (vlan : Option (BitVec 16)) (m : Bytes) : Bytes :=
  match vlan with
  | none => ethFrame s.xrfDst (s.fld Fd.UP_CFG_MAC p) (s.fld Fd.UPS_CFG_ETHERTYPE) m
  | some t => ethFrame s.xrfDst (s.fld Fd.UP_CFG_MAC p) 0x8100 (beBytes 2 t.toNat ++ beBytes 2 (s.fld Fd.UPS_CFG_ETHERTYPE) ++ m)

/-- An XRF frame leaves: step frames in queue 1, the others in queue 2. -/
def State.xrfSend (s : State) (step : Bool) (x : Xrf) : State :=
  s.sendFixed (if step then 1 else 2) fun p => s.tagged p x.vlan x.payload

/-- A received payload that is not added is sent on unchanged, to the next node of the tree (DESIGN CHOICE, log entry 135). -/
def State.xrfForward (s : State) (step : Bool) (vlan : Option (BitVec 16)) (m : Bytes) : State :=
  (s.bump Fd.RDX_XRF_CNT_FORWARDED).sendFixed (if step then 1 else 2) fun p => s.tagged p vlan m

/-- The descriptor of the class B field of a PASS frame, as far as its merge needs it: OP, SIGNED and PARAM (R357). -/
def Xrf.passDesc (x : Xrf) : BitVec 32 :=
  let c := x.opmap.headD 0
  BitVec.ofNat 32 (2 ^ 31 + b2n (bit c 6) * 2 ^ 30 + c % 64 * 2 ^ 24 + (if c % 64 = 17 then (x.n - 1) / 8 else x.n - 1))

/-- The lowest `TRAY_ID` of a PRESENCE map. -/
def trayOf (p : BitVec 2048) : Nat := ((List.range 2048).find? fun t => p.getLsbD t).getD 2048

/-- A frame put among others in rising `TRAY_ID`. -/
def insTray (x : Xrf) : List Xrf → List Xrf
  | [] => [x]
  | y :: r => if trayOf x.presence < trayOf y.presence then x :: y :: r else y :: insTray x r

/-- The tray states of an ORDERED stream merged in rising `TRAY_ID` (R350, R360). -/
def orderedSum (l : List Xrf) : Option Xrf :=
  match l.foldl (fun l x => insTray x l) [] with
  | [] => none
  | x :: r => some (r.foldl (fun a b => a.sum (mergeB x.passDesc) b) x)

/-- A held sum leaves, with the tray's TIME_HOLDOVER (R89); it stays listed until its time so that later frames pass on. -/
def State.treeEmit (s : State) (h : Held) : State :=
  let x := (orderedSum h.parts).getD h.frame
  ({ s with rdx := { s.rdx with tree := s.rdx.tree.map fun y => if y = h then { h with sent := true } else y } }).xrfSend
    h.step { x with flags := x.flags ||| BitVec.ofNat 20 s.holdFlag }

/-- A held sum is complete: its own frame and FANIN children are in. ORDERED states wait for the deadline (R350). -/
def State.treeFull (s : State) (h : Held) : Bool :=
  h.parts.isEmpty && h.own && decide (s.fld Fd.RDX_TREE_CFG_FANIN ≤ h.kids)

/-- What comes of a frame that is put into the tree. -/
inductive TreePut where
  | merged | late | overlap
  deriving DecidableEq, Repr

/-- What a held sum becomes with one more frame. -/
def Held.join (h : Held) (x : Xrf) (own ordered : Bool) (due : Nat) (f : List Slot128 → List Slot128 → List Slot128) : Held :=
  let frame := if ordered then { h.frame with dst := h.frame.dst ||| x.dst, presence := h.frame.presence ||| x.presence }
    else h.frame.sum f x
  { h with frame, parts := if ordered then h.parts ++ [x] else h.parts, kids := h.kids + b2n (!own), own := h.own || own
           due := min (if own then due else h.due) (min h.frame.deadline x.deadline) }

/-- A frame enters the tree: it joins the held sum of its key, or opens one that is due at `due`. A received frame past its own DEADLINE
does not (R359). -/
def State.treePut (s : State) (x : Xrf) (own step ordered : Bool) (due : Nat)
    (f : List Slot128 → List Slot128 → List Slot128) : State × TreePut :=
  have s := { s with rdx := { s.rdx with tree := s.rdx.tree.filter fun (h : Held) => !h.sent || decide (s.now < h.due) } }
  if !own ∧ x.deadline < s.now then (s, .late)
  else match s.rdx.tree.find? fun h => h.frame.sameKey x with
  | some h =>
    if h.sent then (s, .late)
    else if h.frame.presence &&& x.presence ≠ 0 then (s, .overlap)
    else
      let h' := h.join x own ordered due f
      have s := { s with rdx := { s.rdx with tree := s.rdx.tree.map fun y => if y = h then h' else y } }
      (if s.treeFull h' then s.treeEmit h' else s, .merged)
  | none =>
    let due := min due x.deadline
    if due ≤ s.now ∧ !own then (s, .late)
    else
      let h : Held := { frame := x, parts := if ordered then [x] else [], kids := b2n (!own), own, due, sent := false, step }
      have s := { s with rdx := { s.rdx with tree := s.rdx.tree ++ [h] } }
      (if s.treeFull h then s.treeEmit h else s, .merged)

/-- A frame this tray builds: it joins the tree's sum or leaves at once. -/
def State.xrfOwn (s : State) (x : Xrf) (step ordered : Bool) (due : Nat) (f : List Slot128 → List Slot128 → List Slot128) : State :=
  if s.treeOn then
    match s.treePut x true step ordered due f with
    | (s, .merged) => s
    | (s, _) => s.xrfSend step x
  else s.xrfSend step x

/-- TREE_SEND_TIMER: the held sum that is due first leaves, and with it every other of that instant. -/
def treeSendTimer (s : State) : State :=
  let open_ := s.rdx.tree.filter fun h => !h.sent
  match open_.map (·.due) with
  | [] => s
  | d :: ds =>
    have s := s.reachTime (ds.foldl min d)
    (open_.filter fun h => decide (h.due ≤ s.now)).foldl (fun s h => s.treeEmit h) s

def execTreeSendTimer (s : State) : Host.Outcome State Fault Refusal := done (treeSendTimer s)

end Sys2Proof.Machine
end

