-- ==== Sys2Proof/Machine/Stm.lean ====
section
/-! DEFINITION. STM (chapter 16): step marks at the leaf, arrival rows and verdicts at the tray, FLEET_STRAGGLER, drift
baselines. -/

namespace Sys2Proof.Machine

/-! ### Marks at the leaf (R414, R415) -/

/-- A step mark is captured: kept in the mark queue as its message, or dropped and counted. -/
def stepMark (d : Word) (s : State) : State :=
  if s.isTray ∨ !s.live .stm then s
  else if s.fld Fd.LCM_JOB_VALID = 0 ∨ bits d.toNat 55 32 ≠ s.job.1 then s.bump Fd.STM_CNT0_WRONG_JOB
  else if !s.timeValid then s.bump Fd.STM_CNT0_NO_TIME
  else if 16 ≤ s.stm.mq.length then s.bump Fd.STM_CNT0_MQ_OVF
  else
    let (j, g) := s.job
    let m := commonHeader 0x40 (bits d.toNat 63 62) s.nodeId j g (s.epochOf s.now) s.holdFlag ++ timeBytes s.now ++
      leBytes 4 (bits d.toNat 31 0)
    { s with stm := { s.stm with mq := s.stm.mq ++ [(m, s.aon)] } }

def execStepMarkPort (d : Word) (s : State) : Host.Outcome State Fault Refusal := done (stepMark d s)

/-- STM_MARK_WRITE: a write of `STM_MARK`, a register of the leaf. -/
def execStmMarkWrite (q : Req) (d : Word) (s : State) : Host.Outcome State Fault Refusal :=
  done (s.rowWrite q .stm 0 0x48 d fun s => (stepMark d s).okay)

/-- The oldest mark goes to the sender of VC0 (R415): counted, its latency shown. -/
def State.pullMark (s : State) : Option (Bytes × State) :=
  match s.stm.mq with
  | [] => none
  | (m, e) :: r =>
    have s := { s with stm := { s.stm with mq := r } }
    have lat := min (s.aon - e) 0xFFFF
    have s := (s.setFld Fd.STM_LAT_LAST 0 lat).setFld Fd.STM_LAT_WORST 0 (max lat (s.fld Fd.STM_LAT_WORST))
    some (m, (s.bump Fd.STM_CNT0_SENT).item 12)

/-! ### Rows at the tray (R416 to R421) -/

/-- The tray's counters of Table 16-9 that share a register with a leaf's. -/
abbrev stmAccepted : Fld := ⟨Rg.STM_CNT0, 63, 48⟩
abbrev stmNoJob : Fld := ⟨Rg.STM_CNT0, 47, 32⟩
abbrev stmStaleGen : Fld := ⟨Rg.STM_CNT0, 31, 16⟩
abbrev stmNotExpected : Fld := ⟨Rg.STM_CNT0, 15, 0⟩
abbrev stmBad : Fld := ⟨Rg.STM_CNT1, 63, 48⟩
abbrev stmTooOld : Fld := ⟨Rg.STM_CNT1, 47, 32⟩
abbrev stmLateMark : Fld := ⟨Rg.STM_CNT1, 31, 16⟩
abbrev stmDup : Fld := ⟨Rg.STM_CNT1, 15, 0⟩

/-- The bits set in a mask. -/
def popcount {n : Nat} (x : BitVec n) : Nat := (List.range n).foldl (fun c i => c + b2n (x.getLsbD i)) 0

/-- Qe (R419). -/
def StmJob.qe (j : StmJob) : Nat := min j.quorum (popcount j.expected)

/-- MISSING_A. -/
def missingA : Int := 2 ^ 63 - 1

/-- The marks of a row that are on time, as (A, LEAF_ID, wellhead, FLAGS). -/
def StepRow.onTime (r : StepRow) : List (Int × Nat × Nat × BitVec 20) :=
  r.marks.filterMap fun (w, l, a, t, f) => if t then some (a, l, w, f) else none

/-- An integer in its place in a rising list. -/
def insInt (x : Int) : List Int → List Int
  | [] => [x]
  | y :: r => if x < y then x :: y :: r else y :: insInt x r

def sortInts (l : List Int) : List Int := l.foldl (fun a x => insInt x a) []

/-- A member of the verdict: A (MISSING_A for one that is missing), LEAF_ID, wellhead. -/
abbrev Member := Int × Nat × Nat

/-- One member stands before another: larger A, then lower LEAF_ID (R422). -/
def memberBefore (x y : Member) : Bool := decide (y.1 < x.1 ∨ (x.1 = y.1 ∧ x.2.1 < y.2.1))

def insMember (x : Member) : List Member → List Member
  | [] => [x]
  | y :: r => if memberBefore x y then x :: y :: r else y :: insMember x r

/-- What a row's verdict finds (R421). -/
structure StepFix where
  missing : List Member
  aRef    : Int
  strag   : List Member
  noq     : Bool
  deriving DecidableEq, Repr

/-- The `LEAF_ID` of a missing member: what it announced on its lane. -/
def State.leafAt (s : State) (w : Nat) : Nat := s.fld Fd.SLK_STATE_PEER_ID w

/-- The values fixed at V. `free` stands for an A_ref the manual does not give: fewer members on time than Qe. -/
def State.verdictOf (s : State) (j : StmJob) (r : StepRow) (free : Int) : StepFix :=
  let on := r.onTime
  let as := sortInts (on.map (·.1))
  let noq := r.tq.isNone
  let aRef := if noq then as.getLast?.getD free else (as[j.qe - 1]?).getD free
  let missing := (List.range 128).filterMap fun w =>
    if j.expected.getLsbD w ∧ !(on.any fun m => m.2.2.1 == w) then some (missingA, s.leafAt w, w) else none
  let late := (on.map fun (m : Int × Nat × Nat × BitVec 20) => ((m.1, m.2.1, m.2.2.1) : Member)).filter fun m =>
    decide ((j.lateNs : Int) < m.1 - aRef)
  { missing, aRef, noq, strag := (missing ++ late).foldl (fun l m => insMember m l) [] }

/-- One 16-byte entry of a LIST (Table 16-3). -/
def listEntry (aRef : Int) (m : Member) : Bytes :=
  let l := if m.1 = missingA then 0x7FFFFFFF else max (-(2 ^ 31)) (min (2 ^ 31 - 1) (m.1 - aRef))
  leBytes 8 (wrapI m.1 64) ++ leBytes 3 (m.2.1 % 2 ^ 20) ++ leBytes 1 m.2.2 ++ leBytes 4 (wrapI l 32)

/-- A set of wellheads as a mask. -/
def maskOf (l : List Nat) : Nat := l.foldl (fun n w => Nat.lor n (2 ^ w)) 0

/-- The epoch field of a step frame (R423). -/
def stepEpoch (phase step : Nat) : Nat := phase * 2 ^ 32 + step

/-- The descriptors of Table 16-4. -/
def stepDescs : List (BitVec 32) :=
  [0xC6000000, 0x87000000, 0xC5000000, 0x87000000, 0x81000000, 0x81000000, 0xC3000000, 0xC4000000]

/-- The least A among members on time with the lowest LEAF_ID of equals, as slots 2 and 3. -/
def leastMember : List Member → Option (Int × Nat)
  | [] => none
  | (a, l, _) :: r => match leastMember r with
    | some (b, k) => if a < b ∨ (a = b ∧ l < k) then some (a, l) else some (b, k)
    | none => some (a, l)

/-- The step frame of a row, its verdict at `t` (R423). -/
def State.stepFrame (s : State) (j : StmJob) (r : StepRow) (v : StepFix) (flags : BitVec 20) (t : Nat) : Xrf :=
  let on := r.onTime.filter fun m => j.expected.getLsbD m.2.2.1
  let w128 := fun (x : Int) => BitVec.ofInt 128 x
  let top := ((v.missing ++ on.map fun (m : Int × Nat × Nat × BitVec 20) => ((m.1, m.2.1, m.2.2.1) : Member)).foldl (fun l m => insMember m l) []).head?
  let (a0, l0) := match top with | some (a, l, _) => (a, l) | none => (-(2 ^ 63), 0xFFFFF)
  let (a2, l2) := (leastMember (r.onTime.map fun (m : Int × Nat × Nat × BitVec 20) => ((m.1, m.2.1, m.2.2.1) : Member))).getD (2 ^ 63 - 1, 0xFFFFF)
  { dst := 0, vlan := none, version := 1, kind := 0, template := s.fld Fd.STM_CFG_XRF_TEMPLATE, part := 0, job := j.job
    gen := j.gen, epoch := stepEpoch j.phase r.step, flags, first := 0, n := 8, descCrc := descCrc stepDescs
    leaves := r.onTime.length, trays := 1, deadline := t + s.fld Fd.STM_CFG_STEP_HOLD_US * 65536000
    presence := BitVec.ofNat 2048 (2 ^ s.nodeId), opmap := stepDescs.map opByte
    slots := [w128 a0, BitVec.ofNat 128 l0, w128 a2, BitVec.ofNat 128 l2, BitVec.ofNat 128 r.onTime.length,
              BitVec.ofNat 128 v.missing.length, w128 v.aRef, w128 v.aRef] }

/-- The STRAGGLER record (Table 16-3), its verdict at `t`. -/
def State.stragglerRec (s : State) (j : StmJob) (r : StepRow) (v : StepFix) (forced : Bool) (flags t : Nat) : Bytes :=
  let list := v.strag.take 8
  commonHeader 0x31 j.phase s.nodeId j.job j.gen (s.epochOf t) flags ++ leBytes 4 r.step ++
    leBytes 1 (b2n v.noq + 2 * b2n forced) ++ leBytes 1 list.length ++ leBytes 2 r.onTime.length ++
    leBytes 2 v.missing.length ++ leBytes 2 v.strag.length ++ leBytes 4 0 ++
    (match r.tq with | some t => timeBytes t | none => leBytes 12 0) ++ leBytes 4 0 ++ leBytes 8 (wrapI v.aRef 64) ++
    leBytes 16 (maskOf (v.missing.map fun m => m.2.2)) ++
    ((list.flatMap (listEntry v.aRef)) ++ List.replicate 128 0).take 128

def State.stmJob (s : State) (e : Nat) : StmJob := s.stm.jobs.getD e ⟨false, 0, 0, 0, 0, 0, 0, 0, 0⟩

/-- A job entry is valid: its row stands in the table. -/
def State.stmRows (s : State) (e : Nat) : List StepRow := s.stm.rows.getD e []
def State.setStmRows (s : State) (e : Nat) (l : List StepRow) : State :=
  { s with stm := { s.stm with rows := if l.isEmpty then s.stm.rows.erase e else s.stm.rows.set e l } }

/-- A row reaches its verdict (R421 to R423): STRAGGLER record, step frame, `STM_LAST`, IRC. -/
def State.verdictRow (s : State) (e : Nat) (j : StmJob) (r : StepRow) (forced : Bool) : State :=
  let (x, s) := s.draw
  let v := s.verdictOf j r (sext x.toNat 64)
  have flags := r.onTime.foldl (fun (f : BitVec 20) m => f ||| m.2.2.2) (BitVec.ofNat 20 s.holdFlag)
  have s := s.setStmRows e ((s.stmRows e).map fun (y : StepRow) => if y.order = r.order then { y with done := true, aRef := v.aRef } else y)
  have s := s.bump Fd.STM_CNT2_STRAGGLER
  have s := if v.noq then s.bump Fd.STM_CNT2_NO_QUORUM else s
  have s := if forced then s.bump Fd.STM_CNT2_FORCED else s
  have first := match v.strag.head? with | some m => m.2.1 | none => 0xFFFFF
  have s := s.setReg Rg.STM_LAST 0 (BitVec.ofNat 64 (2 ^ 63 + e * 2 ^ 56 + j.phase * 2 ^ 54 + first * 2 ^ 34 + r.step))
  let t := if forced then s.now else r.v
  let lat := min ((s.now - t) / 655360) 0xFFFF
  have s := (s.setFld Fd.STM_LAT_LAST 0 lat).setFld Fd.STM_LAT_WORST 0 (max lat (s.fld Fd.STM_LAT_WORST))
  let rec_ := s.stragglerRec j r v forced flags.toNat t
  have s := (s.toCollector 1 rec_).route 1 rec_
  have s := s.xrfOwn (s.stepFrame j r v flags t) true false (t + s.fld Fd.RDX_TREE_CFG_LEVEL * s.fld Fd.RDX_TREE_CFG_HOP_US * 65536000)
    (mergeAdd (stepDescs.map opByte))
  s.pendBit 8 1

/-- STEP_VERDICT: the verdict instant V of a row. -/
def stepVerdict (e step : Nat) (s : State) : State :=
  match (s.stmRows e).find? fun r => r.step == step && !r.done with
  | some r =>
    if s.isTray ∧ s.live .stm then (s.reachTime r.v).verdictRow e (s.stmJob e) r false else s
  | none => s

def execStepVerdict (e step : Nat) (s : State) : Host.Outcome State Fault Refusal := done (stepVerdict e step s)

/-- The row of a new step (R418): it takes a free place, or that of the oldest row, whose verdict falls at once if it still stands
open. -/
def State.openRow (s : State) (e : Nat) (j : StmJob) (step : Nat) : State :=
  let rows := s.stmRows e
  let place := ((List.range 8).find? fun p => !(rows.any fun r => r.order == p))
  have s := match place, rows with
    | none, r :: _ => if r.done then s else s.verdictRow e j r true
    | _, _ => s
  let rows := s.stmRows e
  let (rows, place) := match place, rows with
    | some p, _ => (rows, p)
    | none, r :: rs => (rs, r.order)
    | none, [] => ([], 0)
  s.setStmRows e (rows ++ [{ step, order := place, openAt := s.now, marks := [], tq := none
                             v := s.now + j.rowTmo * 65536000000, done := false, aRef := 0 }])

/-- The first valid job entry that `p` picks. -/
def State.findJob (s : State) (p : StmJob → Bool) : Option (Nat × StmJob) := s.stm.jobs.find? fun x => x.2.valid && p x.2

/-- The marks of EXPECTED members that a row holds. -/
def StepRow.counted (r : StepRow) (j : StmJob) : Nat := (r.marks.filter fun m => j.expected.getLsbD m.1).length

/-- A mark enters the row of its step: one accepted before V may complete the quorum (R419); at or after V it is late (R420). -/
def State.enterMark (s : State) (e : Nat) (j : StmJob) (r : StepRow) (w leaf : Nat) (a : Int) (flags : Nat) : State :=
  let met := r.tq.isNone ∧ !r.done ∧ s.now < r.v ∧ j.qe ≤ r.counted j + 1
  let v := if met then s.now + j.slackUs * 65536000 else r.v
  let onT := !r.done && decide (s.now < v)
  let r' := { r with marks := r.marks ++ [(w, leaf, a, onT, BitVec.ofNat 20 flags)], v
                     tq := if met then some s.now else r.tq }
  have s := s.setStmRows e ((s.stmRows e).map fun (y : StepRow) => if y.order = r.order then r' else y)
  have s := (s.bump stmAccepted).item 12
  if onT then s else s.bump stmLateMark

/-- The arrival value of a stamp (R416); one that a signed 64-bit integer cannot hold is a free value (log 83). -/
def State.arrival (s : State) (stamp : Nat) : Int × State :=
  let a : Int := ((ofTime96 stamp : Int) - s.origin) / 65536
  if -(2 ^ 63) ≤ a ∧ a < 2 ^ 63 then (a, s)
  else
    let (x, s) := s.draw
    (sext x.toNat 64, s)

/-- The content of a STEP_MARK at wellhead `w` (R416 to R418, Table 16-2). -/
def State.stepMarkTaken (s : State) (w : Nat) (m : Bytes) : State :=
  let h := rdLE m 0 16
  let stamp := rdLE m 16 12
  let job := bits h 59 36
  let phase := bits h 15 8
  let step := rdLE m 28 4
  if s.live .stm = false then s
  else if m.length ≠ 32 ∨ 1000000000 ≤ bits stamp 47 16 then s.bump stmBad
  else match s.findJob fun j => j.job == job && j.phase == phase with
  | none => s.bump stmNoJob
  | some _ =>
    match s.findJob fun j => j.job == job && j.phase == phase && j.gen == bits h 67 60 with
    | none => s.bump stmStaleGen
    | some (e, j) =>
      if j.expected.getLsbD w = false then s.bump stmNotExpected
      else
        let (a, s) := s.arrival stamp
        let rows := s.stmRows e
        let enter := fun (s : State) (r : StepRow) => s.enterMark e j r w (bits h 35 16) a (bits h 127 108)
        match rows.find? fun r => r.step == step with
        | some r => if r.marks.any fun x => x.1 == w then s.bump stmDup else enter s r
        | none =>
          let newer := match rows.getLast? with
            | some n => let k := wrapI ((step : Int) - n.step) 32; decide (1 ≤ k ∧ k < 2 ^ 31)
            | none => true
          if newer then
            have s := s.openRow e j step
            match (s.stmRows e).getLast? with
            | some r => enter s r
            | none => s
          else s.bump stmTooOld

/-- STEP_MARK_RX: a whole STEP_MARK message of a wellhead. -/
def stepMarkRx (w : Nat) (m : Bytes) (s : State) : State := if s.isTray then s.stepMarkTaken w m else s

def execStepMarkRx (w : Nat) (m : List Byte) (s : State) : Host.Outcome State Fault Refusal := done (stepMarkRx w m s)

/-! ### FLEET_STRAGGLER (R425, R426) -/

/-- A FLEET_STRAGGLER message from source MAC `src` at the tray. -/
def State.fleetTray (s : State) (src : Nat) (m : Bytes) : State :=
  let h := rdLE m 0 16
  match s.findJob fun j => j.job == bits h 59 36 && j.gen == bits h 67 60 && j.phase == bits h 15 8 with
  | some (_, j) =>
    if s.live .stm ∧ src = s.fld Fd.UPS_CFG_COLLECTOR_MAC ∧ m.length = 48 then
      (List.range s.wellheads).foldl (fun s w =>
        if j.expected.getLsbD w ∧ s.laneActive w then s.sendMsg w 0 m else s) s
    else s.bump Fd.STM_CNT3_FLEET_DROP
  | none => s.bump Fd.STM_CNT3_FLEET_DROP

/-- FLEET_STRAGGLER_TRAY_RX: a MSG frame (R402) with the record, whole without its FCS. -/
def fleetStragglerTrayRx (p : Nat) (f : Bytes) (s : State) : State :=
  if s.isTray ∧ p < 2 then s.fleetTray (rdBE f 6 6) ((f.drop 22).take (rdLE f 16 2)) else s

def execFleetStragglerTrayRx (p : Nat) (f : List Byte) (s : State) : Host.Outcome State Fault Refusal :=
  done (fleetStragglerTrayRx p f s)

/-- A FLEET_STRAGGLER record at the leaf. -/
def State.fleetLeaf (s : State) (m : Bytes) : State :=
  let h := rdLE m 0 16
  if s.live .stm ∧ m.length = 48 ∧ (bits h 59 36, bits h 67 60) = s.job then
    if 16 ≤ s.stm.nq.length then s.bump Fd.STM_CNT1_NQ_OVF
    else { s with stm := { s.stm with nq := s.stm.nq ++ [m] } }.level 8
  else s.bump Fd.STM_CNT1_FLEET_DROP

/-- FLEET_STRAGGLER_LEAF_RX. -/
def fleetStragglerLeafRx (m : Bytes) (s : State) : State := if s.isTray then s else s.fleetLeaf m

def execFleetStragglerLeafRx (m : List Byte) (s : State) : Host.Outcome State Fault Refusal := done (fleetStragglerLeafRx m s)

/-! ### Drift baselines (R428, R429) -/

/-- One step of a baseline, and z when it emits. -/
def baselineStep (c : BaseCfg) (b : BaseSt) (x : Int) : BaseSt × Option Nat :=
  let y := x * 65536
  let b := if b.n = 0 then { b with m := y, d := 0 } else b
  let dev : Int := (y - b.m).natAbs
  let z := min ((dev * 256) / (max b.d 65536)).toNat (2 ^ 32 - 1)
  let hit := decide (c.warm ≤ b.n ∧ c.zHi ≤ z)
  let run := if hit then min (b.run + 1) 255 else 0
  let emit := if hit ∧ run = c.consec then some z else none
  let b' := if c.freeze ∧ 0 < run then b
    else { b with m := b.m + shiftRne (y - b.m) (-(c.k : Int)), d := b.d + shiftRne (dev - b.d) (-(c.k : Int)) }
  ({ b' with run, n := min (b.n + 1) 65535 }, emit)

/-- The DRIFT record of entry `i` (R429), with the baseline as it stood. -/
def State.driftRec (s : State) (i n : Nat) (c : BaseCfg) (b : BaseSt) (run z : Nat) (x : Int) : Bytes :=
  let (j, g) := s.job
  let (m, d) := if b.n = 0 then (x * 65536, 0) else (b.m, b.d)
  commonHeader 0x32 i s.nodeId j g n s.holdFlag ++ leBytes 2 c.field ++ leBytes 1 run ++ leBytes 1 0 ++ leBytes 4 z ++
    leBytes 8 (wrapI x 64) ++ leBytes 10 (wrapI m 80) ++ leBytes 2 0 ++ leBytes 10 (wrapI d 80) ++ leBytes 2 0

/-- A verdict leaves: on VC2 from a leaf, by route class 1 on a tray. -/
def State.sendVerdict (s : State) (m : Bytes) : State := if s.isTray then s.route 1 m else s.sendMsg 0 2 m

/-- One valid entry takes its field of the record of epoch `n`; a field the record does not have is a free value. -/
def State.baseline (s : State) (n : Nat) (fs : List Int) (i : Nat) (c : BaseCfg) : State :=
  let (x, s) := match fs[c.field]? with
    | some v => (v, s)
    | none => let (w, s) := s.draw; (sext w.toNat 64, s)
  let y := satI x (-(2 ^ 63)) (2 ^ 63 - 1)
  have s := if y = x then s else s.bump Fd.STM_CNT2_FIELD_SAT
  let b := s.stm.state.getD i ⟨0, 0, 0, 0⟩
  let (b', e) := baselineStep c b y
  have s := { s with stm := { s.stm with state := s.stm.state.set i b' } }
  match e with
  | some z => (s.bump Fd.STM_CNT2_DRIFT).sendVerdict (s.driftRec i n c b b'.run z y)
  | none => s

/-- The record of epoch `n` closes: every valid baseline takes its field, unless the record carries TIME_STEPPED. -/
def State.baselines (s : State) (n flags : Nat) (fs : List Int) : State :=
  if s.live .stm ∧ !bit flags 1 then s.stm.bases.foldl (fun s (i, c) => if c.valid then s.baseline n fs i c else s) s else s

/-! ### The window (Table 16-11) -/

/-- Baseline entries of the role. -/
def State.stmBases (s : State) : Nat := if s.isTray then 256 else 32

def StmJob.words (j : StmJob) : List Word :=
  [BitVec.ofNat 64 (b2n j.valid * 2 ^ 63 + j.phase * 2 ^ 60 + j.job * 2 ^ 32 + j.gen * 2 ^ 24 + j.quorum),
   BitVec.ofNat 64 j.expected.toNat, BitVec.ofNat 64 (j.expected.toNat / 2 ^ 64),
   BitVec.ofNat 64 (j.lateNs * 2 ^ 32 + j.slackUs * 2 ^ 16 + j.rowTmo)]

def jobRead (t : SMap StmJob) (idx : Nat) (s : State) : WinOut :=
  if !s.isTray then s.win 3
  else if idx < 16 then s.winData (match t.get? idx with | some j => j.words | none => [])
  else s.win 2

def execStmJobRead (q : Req) (idx : Nat) (s : State) : Host.Outcome State Fault Refusal :=
  done (s.winCmd q .stm 0 0 1 idx fun s => jobRead s.stm.jobsSt idx s)

def execStmJobReadActive (q : Req) (idx : Nat) (s : State) : Host.Outcome State Fault Refusal :=
  done (s.winCmd q .stm 0 0 4 idx fun s => jobRead s.stm.jobs idx s)

/-- WRITE of a staged job entry (R431): every field is in its range, VALID or not. -/
def jobWrite (idx : Nat) (s : State) : WinOut :=
  let d := (s.data .stm 0 0).toNat
  let t := (s.data .stm 0 3).toNat
  if !s.isTray then s.win 3
  else if 16 ≤ idx then s.win 2
  else if s.stm.pending then s.win 5
  else if bits d 7 0 = 0 ∨ 128 < bits d 7 0 ∨ bits t 15 0 = 0 then s.win 6
  else
    let j : StmJob := { valid := bit d 63, phase := bits d 61 60, job := bits d 55 32, gen := bits d 31 24, quorum := bits d 7 0
                        expected := BitVec.ofNat 128 ((s.data .stm 0 1).toNat + (s.data .stm 0 2).toNat * 2 ^ 64)
                        lateNs := bits t 63 32, slackUs := bits t 31 16, rowTmo := bits t 15 0 }
    { s with stm := { s.stm with jobsSt := s.stm.jobsSt.set idx j } }.win 0

def execStmJobWrite (q : Req) (idx : Nat) (s : State) : Host.Outcome State Fault Refusal :=
  done (s.winCmd q .stm 0 0 2 idx (jobWrite idx))

/-- POP of the leaf's notify queue. -/
def notifyPop (s : State) : WinOut :=
  if s.isTray then s.win 3
  else match s.stm.nq with
  | [] => s.win 1
  | m :: r => { s with stm := { s.stm with nq := r } }.winData (toWords 6 m)

def execNotifyPop (q : Req) (s : State) : Host.Outcome State Fault Refusal := done (s.winCmd q .stm 0 0 3 0 notifyPop)

/-- READ of a step row; a place without a row reads 0. -/
def rowTblRead (idx : Nat) (s : State) : WinOut :=
  if !s.isTray then s.win 3
  else if 128 ≤ idx then s.win 2
  else match (s.stmRows (idx / 8)).find? fun r => r.order == idx % 8 with
  | none => s.winData []
  | some r =>
    let p := maskOf (r.marks.map (·.1))
    s.winData [BitVec.ofNat 64 (b2n (!r.done) * 2 ^ 63 + b2n r.tq.isSome * 2 ^ 62 + r.step), BitVec.ofNat 64 p,
      BitVec.ofNat 64 (p / 2 ^ 64), BitVec.ofNat 64 (wrapI r.aRef 64)]

def execStmRowRead (q : Req) (idx : Nat) (s : State) : Host.Outcome State Fault Refusal :=
  done (s.winCmd q .stm 0 1 1 idx (rowTblRead idx))

def BaseCfg.word (c : BaseCfg) : Word :=
  BitVec.ofNat 64 (b2n c.valid * 2 ^ 63 + b2n c.freeze * 2 ^ 62 + c.field * 2 ^ 48 + c.k * 2 ^ 40 + c.warm * 2 ^ 32 + c.zHi * 2 ^ 16 + c.consec)

/-- READ of a staged baseline entry. -/
def baseRead (idx : Nat) (s : State) : WinOut :=
  if idx < s.stmBases then s.winData (match s.stm.basesSt.get? idx with | some c => [c.word] | none => []) else s.win 2

def execStmBaseRead (q : Req) (idx : Nat) (s : State) : Host.Outcome State Fault Refusal :=
  done (s.winCmd q .stm 0 2 1 idx (baseRead idx))

/-- WRITE of a staged baseline entry. -/
def baseWrite (idx : Nat) (s : State) : WinOut :=
  let d := (s.data .stm 0 0).toNat
  if s.stmBases ≤ idx then s.win 2
  else if s.stm.pending then s.win 5
  else if bits d 44 40 = 0 ∨ 16 < bits d 44 40 ∨ bits d 3 0 = 0 then s.win 6
  else
    let c : BaseCfg := { valid := bit d 63, freeze := bit d 62, field := bits d 57 48, k := bits d 44 40, warm := bits d 39 32
                         zHi := bits d 31 16, consec := bits d 3 0 }
    { s with stm := { s.stm with basesSt := s.stm.basesSt.set idx c } }.win 0

def execStmBaseWrite (q : Req) (idx : Nat) (s : State) : Host.Outcome State Fault Refusal :=
  done (s.winCmd q .stm 0 2 2 idx (baseWrite idx))

/-- READ_ACTIVE of a baseline with its state. -/
def baseReadActive (idx : Nat) (s : State) : WinOut :=
  if s.stmBases ≤ idx then s.win 2
  else match s.stm.bases.get? idx with
  | none => s.winData []
  | some c =>
    let b := s.stm.state.getD idx ⟨0, 0, 0, 0⟩
    let m := wrapI b.m 80
    let d := wrapI b.d 80
    s.winData [c.word, BitVec.ofNat 64 m, BitVec.ofNat 64 (m / 2 ^ 64), BitVec.ofNat 64 d, BitVec.ofNat 64 (d / 2 ^ 64),
      BitVec.ofNat 64 (b.n * 256 + b.run)]

def execStmBaseReadActive (q : Req) (idx : Nat) (s : State) : Host.Outcome State Fault Refusal :=
  done (s.winCmd q .stm 0 2 4 idx (baseReadActive idx))

/-! ### Commit and reset -/

/-- A job entry's key, none of one that is not VALID (R431). -/
def jobKey (j : Option StmJob) : Option (Nat × Nat × Nat) :=
  (j.filter (·.valid)).map fun j => (j.job, j.gen, j.phase)

/-- The rows of an entry whose key changes reach their verdict at once, FORCED, and go. -/
def State.forceRows (s : State) (e : Nat) : State :=
  let j := s.stmJob e
  have s := (s.stmRows e).foldl (fun s r => if r.done then s else s.verdictRow e j r true) s
  s.setStmRows e []

/-- A lower Qe that an open row's marks already meet is met at the commit (log 83). -/
def StepRow.recount (now : Nat) (j : StmJob) (r : StepRow) : StepRow :=
  if r.tq.isNone ∧ !r.done ∧ now < r.v ∧ 0 < j.qe ∧ j.qe ≤ r.counted j then { r with tq := some now, v := now + j.slackUs * 65536000 } else r

/-- The tables' commit (R431). -/
def State.stmCommit (s : State) : State :=
  have s := (List.range 16).foldl (fun s e =>
    if jobKey (s.stm.jobs.get? e) = jobKey (s.stm.jobsSt.get? e) then s else s.forceRows e) s
  let state := s.stm.state.filter fun x => s.stm.bases.get? x.1 = s.stm.basesSt.get? x.1
  have s := { s with stm := { s.stm with jobs := s.stm.jobsSt, bases := s.stm.basesSt, state, pending := false } }
  (List.range 16).foldl (fun s e => s.setStmRows e ((s.stmRows e).map (StepRow.recount s.now (s.stmJob e)))) s

/-- `PG_CTRL.UNIT_RESET` of STM: what waits and the rows are dropped; the tables stay. -/
def stmReset (s : State) : State := { s with stm := { s.stm with mq := [], nq := [], rows := [], pending := false } }

end Sys2Proof.Machine
end

