-- ==== Sys2Proof/Machine/Mirror.lean ====
section
/-! DEFINITION. The mirror's sending side (R407) and the report of a lost state (R409, Table 15-4), as RDX and the boundary use
them. -/

namespace Sys2Proof.Machine

/-- BUD mirrors this tray's state. -/
def State.mirrorOn (s : State) : Bool := s.isTray && s.live .bud && s.fld Fd.BUD_CFG_MIRROR_EN == 1

/-- A frame of BUD in queue 4: VERSION, KIND, CLASS, a mark (1 the first frame of a whole class, 2 an acknowledgement), SEQ or a
count, and a body. The manual names CLASS and SEQ and gives them no places. -/
def State.budFrame (s : State) (dst kind cls mark : Nat) (sq : Nat) (body : Bytes) : State :=
  let p := s.fixedPort
  s.putDrr p 4 (s.upsFrame p dst kind (leBytes 1 cls ++ leBytes 1 mark ++ leBytes 4 sq ++ leBytes 2 body.length ++ body))

/-- One MIRROR frame of a class. -/
def State.mirrorFrame (s : State) (cls : Nat) (first : Bool) (body : Bytes) : State :=
  let sq := s.bud.seqTx.getD cls 0
  have s := { s with bud := { s.bud with seqTx := s.bud.seqTx.set cls ((sq + 1) % 2 ^ 32) } }
  s.budFrame (s.fld Fd.BUD_CFG_BUDDY_MAC) 16 cls (b2n first) sq body

/-- Frames of a class that the mirror sends while it is on. -/
def State.mirror (s : State) (cls : Nat) (first : Bool) (bodies : List Bytes) : State :=
  if s.mirrorOn then (bodies.zipIdx).foldl (fun s (b, i) => s.mirrorFrame cls (first && i == 0) b) s else s

/-- A member record as the mirror carries it: its wellhead in 8 bytes, then the record. -/
def recordBody (w : Nat) (m : Bytes) : Bytes := leBytes 8 w ++ m

/-- A merged member record of epoch `e` is kept while its window lasts, and mirrored (R407). -/
def State.mirrorRecord (s : State) (w e : Nat) (m : Bytes) : State :=
  { s with bud := { s.bud with recs := s.bud.recs ++ [(e, recordBody w m)] } }.mirror 2 false [recordBody w m]

/-- A STATE_LOST record goes to the collector: classes lost and the oldest epoch asked for. -/
def State.stateLost (s : State) (classes oldest : Nat) : State :=
  let (h, s) := s.trayHeader 0x62
  s.toCollector 3 (h ++ leBytes 1 classes ++ leBytes 3 s.nodeId ++ leBytes 4 0 ++ leBytes 5 oldest ++ leBytes 3 0)

/-- A RESEND for `count` epochs from `first` to a wellhead (Table 12-7). -/
def State.sendResend (s : State) (w first count : Nat) : State :=
  if count = 0 then s else s.linkMsg w (leBytes 1 3 ++ leBytes 5 first ++ leBytes 1 count)

/-- RDX rebuilds (R409): LATE_EPOCHS rises to 64 and every ACTIVE wellhead is asked for the 64 epochs before the current one.
The oldest epoch asked for is returned. -/
def State.rebuild (s : State) : Nat × State :=
  let n := min 64 s.epochNow
  have s := s.setFld Fd.RDX_CFG_LATE_EPOCHS 0 64
  (s.epochNow - n, (List.range s.wellheads).foldl (fun s w =>
    if s.laneActive w then s.sendResend w (s.epochNow - n) n else s) s)

end Sys2Proof.Machine
end

