-- ==== Sys2Proof/Machine/Rdx.lean ====
section
/-! DEFINITION. RDX (chapter 13): member records, accumulators, the close of an epoch, late members, RESEND, the tray tree's
receive side, the tables and their commit. -/

namespace Sys2Proof.Machine

/-! ### Time (R352, R354) -/

/-- T_LATE in 2^-16 ns. -/
def State.tLate (s : State) : Nat := s.fld Fd.RDX_CFG_T_LATE_US * 65536000

/-- The close instant of epoch `n`: its end plus T_LATE; for an epoch that the last forward step closed or passed over, the step edge
plus T_LATE (R555). -/
def State.closeAt (s : State) (n : Nat) : Nat :=
  match s.rdx.stepped with
  | some (o, l, c) => if o ≤ n ∧ n < l then c else s.boundary (n + 1) + s.tLate
  | none => s.boundary (n + 1) + s.tLate

/-- The newest epoch whose close instant has come; -1 for none. The epochs of a forward step have none of their own (R555). -/
def State.rdxClosed (s : State) : Int :=
  let n : Int := if s.epochLen = 0 ∨ s.now < s.origin + s.tLate then -1 else (((s.now - s.origin - s.tLate) / s.epochLen : Nat) : Int) - 1
  match s.rdx.stepped with
  | some (o, _, c) => if s.now < c then min n ((o : Int) - 1) else n
  | none => n

/-- The oldest epoch of the late window. -/
def State.lateFrom (s : State) : Int := s.rdxClosed + 1 - s.fld Fd.RDX_CFG_LATE_EPOCHS

/-! ### Configuration versions (R530) -/

/-- Background work of a commit runs. -/
def State.bgPending (s : State) : Bool := s.eft.rehash || s.smp.runs.any fun x => x.2.rebuild.isSome

/-- Background work that a page's own commit starts runs under the version in force, before and after it alike. -/
def State.bgAlone (s : State) (was : Bool) : State :=
  if s.bgPending ∧ !was then
    { s with lcm := { s.lcm with prevVer := s.fld Fd.LCM_STAT_CFG_VER } }.setFld Fd.LCM_STAT_NEXT_VER 0 (s.fld Fd.LCM_STAT_CFG_VER)
  else s

/-- CFG_VER, NEXT_VER and the CFG_MIXED flag of a record opened now. -/
def State.versions (s : State) : Nat × Nat × Nat :=
  if s.bgPending then (s.lcm.prevVer, s.fld Fd.LCM_STAT_NEXT_VER, 4) else (s.fld Fd.LCM_STAT_CFG_VER, 0, 0)

/-! ### Accumulators -/

/-- A stream in force, with its template and descriptors. -/
def RdxBank.stream? (b : RdxBank) (i : Nat) : Option (Stream × TmplEnt × List (BitVec 32)) :=
  match b.streams.get? i with
  | some st =>
    if st.valid then
      match b.tmpls.get? st.entry with
      | some t => some (st, t, (List.range t.fields).map fun k => b.descs.getD (st.entry * 1024 + k) 0)
      | none => none
    else none
  | none => none

/-- The valid streams of a bank. -/
def RdxBank.live (b : RdxBank) : List Stream := (b.streams.map (·.2)).filter (·.valid)

/-- The slots of an accumulator before any member. -/
def emptySlots (ds : List (BitVec 32)) (epoch : Nat) : List Slot128 :=
  ds.map fun d => if classB (descOp d) then (emptyB d epoch).headD 0 else trayIdentity d

/-- An accumulator of stream `i` for epoch `n`. -/
def State.newAccum (s : State) (i n : Nat) (st : Stream) (t : TmplEnt) (ds : List (BitVec 32)) : Accum :=
  let (v, x, mix) := s.versions
  { idx := i, str := st, tmpl := t, descs := ds, epoch := n, close := s.closeAt n, slots := emptySlots ds n, present := 0
    flags := 0, own := BitVec.ofNat 20 (mix + 2 * b2n (s.slewing && n == s.epochNow)), held := [], cfgVer := v, nextVer := x }

/-- At the boundary edge into epoch `n` every valid stream opens its accumulator. -/
def State.rdxOpen (s : State) (n : Nat) : State :=
  if s.isTray ∧ s.live .rdx ∧ s.timeValid then
    (List.range 16).foldl (fun s i =>
      match s.rdx.active.stream? i with
      | some (st, t, ds) =>
        if s.rdx.onTime.any fun (a : Accum) => a.idx == i && a.epoch == n then s
        else { s with rdx := { s.rdx with onTime := s.rdx.onTime ++ [s.newAccum i n st t ds] } }
      | none => s) s
  else s

/-- The accumulator is of this job and epoch. -/
def Accum.of (a : Accum) (job gen n : Nat) : Bool := a.str.job == job && a.str.gen == gen && a.epoch == n

/-- `f` applied to every class B field's slots, by the field's place and descriptor. -/
def onClassB (ds : List (BitVec 32)) (slots : List Slot128) (f : Nat → BitVec 32 → List Slot128 → List Slot128) :
    List Slot128 :=
  ds.zipIdx.foldl (fun acc (d, i) =>
    if classB (descOp d) then acc.take i ++ f i d ((acc.drop i).take (descSpan d)) ++ acc.drop (i + descSpan d) else acc) slots

/-- A member's record joins an accumulator (R347 to R350). -/
def Accum.merge (a : Accum) (w node : Nat) (vals : List Nat) (flags : Nat) : Accum :=
  let contr := a.descs.zipIdx.map fun (d, i) => contribution d node (vals.getD i 0)
  let sum := mergeAdd (a.descs.map addByte) a.slots contr
  let b := fun (i : Nat) (d : BitVec 32) => ext128 (descSigned d) (vals.getD i 0)
  let old := fun (i : Nat) (d : BitVec 32) => (a.slots.drop i).take (descSpan d)
  let slots := onClassB a.descs sum fun i d _ => if a.str.ordered then old i d else insertB d (old i d) (b i d) node
  { a with slots, present := a.present ||| BitVec.ofNat 128 (2 ^ w), flags := a.flags ||| BitVec.ofNat 20 flags
           held := if a.str.ordered then a.held ++ [(node, a.descs.zipIdx.map fun (d, i) => b i d)] else a.held }

/-- Held members in rising NODE_ID. -/
def insHeld (x : Nat × List Slot128) : List (Nat × List Slot128) → List (Nat × List Slot128)
  | [] => [x]
  | y :: r => if x.1 < y.1 then x :: y :: r else y :: insHeld x r

/-- The slots at the close: an ORDERED stream inserts its held values in rising NODE_ID (R350). -/
def Accum.final (a : Accum) : List Slot128 :=
  if a.str.ordered then
    let ms := a.held.foldl (fun l m => insHeld m l) []
    onClassB a.descs a.slots fun i d st => ms.foldl (fun st (n, vs) => insertB d st (vs.getD i 0) n) st
  else a.slots

/-! ### A record arrives (R351) -/

/-- The RDX counter, FLT source and CAUSE of a check that fails (Table 13-6). -/
def recCause (cause : Nat) : Fld × Nat :=
  if cause = 2 then (Fd.RDX_CNT1_NO_TIME, 0)
  else if cause = 3 then (Fd.RDX_CNT1_NO_STREAM, 1)
  else if cause = 4 then (Fd.RDX_CNT1_STALE_GEN, 1)
  else if cause = 7 then (Fd.RDX_CNT0_TOO_LATE, 1)
  else if cause = 8 then (Fd.RDX_CNT0_DUP, 1)
  else (Fd.RDX_CNT1_BAD_RECORD, 0)

/-- A record is discarded. -/
def State.recReject (s : State) (cause w epoch : Nat) : State :=
  let (f, l) := recCause cause
  ((s.bump f).setReg Rg.RDX_LAST 0 (BitVec.ofNat 64 (2 ^ 63 + cause * 2 ^ 56 + w % 128 * 2 ^ 48 + epoch))).fault .rdx 0 l

/-- The record types of Table 13-2. -/
def typeKnown (t : Nat) : Bool := decide ((1 ≤ t ∧ t ≤ 5) ∨ t = 0x20 ∨ t = 0x21 ∨ (0x30 ≤ t ∧ t < 0x70))

/-- The member's field as a feed rule reads it; a field the record does not have is a free value. -/
def feedField (vals : List Nat) (free : Int) (i : Nat) : Int :=
  match vals[i]? with
  | some v => sext v 64
  | none => free

/-- A record that passed every check is merged on time or late; `lost` are the EFT keys whose read by the feed rules hits an error. -/
def State.recMerge (s : State) (w : Nat) (m : Bytes) (lost : List Word) (a : Accum) (late : Bool) : State :=
  let h := rdLE m 0 16
  let n := rdLE m 16 2
  let vals := (List.range n).map fun i => rdLE m (32 + 8 * i) 8
  let a' := a.merge w (bits h 35 16) vals (bits h 127 108)
  let put := fun (l : List Accum) => if l.contains a then l.map fun (x : Accum) => if x = a then a' else x else l ++ [a']
  have s := if late then { s.bump Fd.RDX_CNT0_LATE with rdx := { s.rdx with late := put s.rdx.late } }
    else { s with rdx := { s.rdx with onTime := put s.rdx.onTime } }
  have s := (s.ev .rdx 0 1).ev .rdx 0 2 n
  let (x, s) := s.draw
  have s := s.feedRecord (bits h 35 16) a.str.gen (feedField vals (sext x.toNat 64)) lost
  s.mirrorRecord w (bits h 107 68) m

/-- A late accumulator of an epoch already closed: what its on-time accumulator was opened with. -/
def State.lateAccum (s : State) (fresh : Accum) : Accum :=
  match (s.rdx.closed ++ s.rdx.onTime).find? fun a => a.of fresh.str.job fresh.str.gen fresh.epoch with
  | some c => { c with slots := emptySlots c.descs c.epoch, present := 0, flags := 0, held := [] }
  | none => fresh

/-- A record whose job a loaded stream accumulates: checks 4 to 8 and the merge. A `restored` one is a late member (R408). -/
def State.recordAt (s : State) (w : Nat) (m : Bytes) (lost : List Word) (restored : Bool)
    (x : Nat × Stream × TmplEnt × List (BitVec 32)) : State :=
  let h := rdLE m 0 16
  let type := bits h 7 0
  let e := bits h 107 68
  let job := bits h 59 36
  let gen := bits h 67 60
  let here := s.rdx.onTime.find? fun a => a.of job gen e
  let late? := s.rdx.late.find? fun a => a.of job gen e
  let t := (here.map (·.tmpl)).getD x.2.2.1
  let onTime : Bool := !restored && match here with
    | some a => decide (s.now < a.close)
    | none => decide (s.rdxClosed < e)
  if x.2.1.gen ≠ gen then s.recReject 4 w e
  else if type = 1 ∧ (bits h 15 8 ≠ t.template ∨ rdLE m 16 2 ≠ t.fields) then s.recReject 5 w e
  else if s.epochNow < e then s.recReject 6 w e
  else if !onTime ∧ (e : Int) < s.lateFrom then s.recReject 7 w e
  else if type = 5 then s.bump Fd.RDX_CNT2_LOST
  else
    let present := fun (l : List Accum) => l.any fun (a : Accum) => a.of job gen e && a.present.getLsbD w
    let fresh := s.newAccum x.1 e x.2.1 t x.2.2.2
    if present s.rdx.onTime || present s.rdx.late || present s.rdx.closed then s.recReject 8 w e
    else if onTime then s.recMerge w m lost (here.getD fresh) false
    else s.recMerge w m lost (late?.getD (s.lateAccum fresh)) true

/-- RDX takes a record of wellhead `w`: the checks of Table 13-6 in their order. -/
def State.recordTaken (s : State) (w : Nat) (m : Bytes) (lost : List Word := []) (restored : Bool := false) : State :=
  let h := rdLE m 0 16
  let type := bits h 7 0
  let e := bits h 107 68
  let job := bits h 59 36
  if s.live .rdx = false then s
  else if !typeKnown type || decide (type = 1 ∧ (m.length < 32 ∨ m.length ≠ 32 + 8 * rdLE m 16 2)) ||
      decide (type = 5 ∧ m.length ≠ 32) then s.recReject 1 w e
  else if type = 2 then s.toCollector 2 m
  else if type ≠ 1 ∧ type ≠ 5 then s
  else if !s.timeValid then s.recReject 2 w e
  else
    let all := (List.range 16).filterMap fun i => (s.rdx.active.stream? i).map fun x => (i, x)
    match all.find? fun x => x.2.1.job == job with
    | none => s.recReject 3 w e
    | some x => s.recordAt w m lost restored x

/-- RECORD_ARRIVAL. A HELD wellhead carries no records (R17). -/
def recordArrival (w : Nat) (m : Bytes) (lost : List Word) (s : State) : State :=
  if s.isTray ∧ s.lstate w ≠ 7 then s.recordTaken w m lost else s

def execRecordArrival (w : Nat) (m : List Byte) (lost : List Word) (s : State) : Host.Outcome State Fault Refusal :=
  done (recordArrival w m lost s)

/-! ### The close (R353, R354, R357) -/

/-- The XRF frames of an accumulator: one ADD frame a part, one PASS frame a class B field. -/
def State.accumFrames (s : State) (a : Accum) (slots : List Slot128) (late : Bool) (flags deadline : Nat) : List Xrf :=
  let f := a.tmpl.fields
  let parts := ceilDiv f 256
  let base : Xrf :=
    { dst := 0, vlan := none, version := 1, kind := b2n late, template := a.tmpl.template, part := 0, job := a.str.job
      gen := a.str.gen, epoch := a.epoch, flags := BitVec.ofNat 20 flags, first := 0, n := 0, descCrc := descCrc a.descs
      leaves := popcount a.present, trays := 1, deadline, presence := BitVec.ofNat 2048 (2 ^ s.nodeId), opmap := [], slots := [] }
  let masked := (slots.zip a.descs).map fun (x, d) => if addByte d = 0 then 0 else x
  let adds := (List.range parts).map fun p =>
    let n := min 256 (f - 256 * p)
    { base with part := p + (parts - 1) * 16, first := 256 * p, n, opmap := ((a.descs.drop (256 * p)).take n).map addByte
                slots := (masked.drop (256 * p)).take n }
  let passes := a.descs.zipIdx.filterMap fun (d, i) =>
    if classB (descOp d) then
      some { base with kind := 2, part := i / 256 + (parts - 1) * 16, first := i, n := descSpan d
                       opmap := ((a.descs.drop i).take (descSpan d)).map opByte, slots := (slots.drop i).take (descSpan d) }
    else none
  adds ++ passes

/-- The record of an accumulator (Table 13-7). -/
def State.accumRec (s : State) (a : Accum) (slots : List Slot128) (late : Bool) (flags : Nat) : Bytes :=
  commonHeader (if late then 4 else 3) a.tmpl.template s.nodeId a.str.job a.str.gen a.epoch flags ++
    leBytes 2 a.tmpl.fields ++ leBytes 2 a.cfgVer ++ leBytes 2 a.nextVer ++ leBytes 1 a.idx ++ leBytes 1 0 ++
    leBytes 2 (popcount a.present) ++ leBytes 2 (popcount (a.str.expected &&& ~~~a.present)) ++ leBytes 4 0 ++
    leBytes 16 a.present.toNat ++ leBytes 16 a.str.expected.toNat ++ slots.flatMap fun w => leBytes 16 w.toNat

/-- How two frames of a stream's kind merge in the tree. -/
def xrfMerge (x : Xrf) (ds : List (BitVec 32)) : List Slot128 → List Slot128 → List Slot128 :=
  if x.kind = 2 then mergeB (ds.getD x.first 0) else mergeAdd x.opmap

/-- The time a stream's sum leaves a tree node (R361). -/
def State.treeDue (s : State) (close : Nat) : Nat :=
  close + s.fld Fd.RDX_TREE_CFG_LEVEL * s.fld Fd.RDX_TREE_CFG_HOP_US * 65536000

/-- FLAGS of an accumulator's record and frames (R340). -/
def State.accumFlags (s : State) (a : Accum) (late : Bool) : Nat :=
  Nat.lor (a.flags ||| a.own).toNat (s.holdFlag +
    (if late then 1024 else if a.str.expected &&& ~~~a.present = 0 then 0 else 2048) + (if a.str.ordered then 4096 else 0))

/-- An accumulator goes out, closed at `close`: its record, then its frames. The PASS frames of an ORDERED stream travel unmerged, but at
the root, where they wait for its deadline (R350). -/
def State.accumEmit (s : State) (a : Accum) (late : Bool) (close : Nat) : State :=
  let slots := a.final
  let flags := s.accumFlags a late
  have s := s.toCollector 2 (s.accumRec a slots late flags)
  (s.accumFrames a slots late flags (close + s.fld Fd.RDX_CFG_XRF_HOLD_US * 65536000)).foldl (fun s x =>
    let ordered := x.kind == 2 && a.str.ordered
    if ordered && !s.treeRoot then s.xrfSend false x
    else s.xrfOwn x false ordered (s.treeDue close) (xrfMerge x a.descs)) s

/-- The closed record of MODEL_STREAM reaches the engines and the baselines (R206, R233, R428). -/
def State.modelClosed (s : State) (a : Accum) : State :=
  let slots := a.final
  let flags := s.accumFlags a false
  have s := { s with rdx := { s.rdx with model := some (a.epoch, (s.accumRec a slots false flags).take 16, slots) } }
  (s.recordClosed a.epoch).baselines a.epoch flags (slots.map fun w => w.toInt)

/-- The stream's EXPECTED mask as it stands at the close (Table 13-7). -/
def State.atClose (s : State) (a : Accum) : Accum :=
  match s.rdx.active.live.find? fun st => st.job == a.str.job && st.gen == a.str.gen with
  | some st => { a with str := { a.str with expected := st.expected } }
  | none => a

/-- The on-time accumulators of epoch `n` close at their instant. -/
def State.closeEpoch (s : State) (n : Nat) : State :=
  let l := (s.rdx.onTime.filter fun (a : Accum) => a.epoch == n).map s.atClose
  have s := { s with rdx := { s.rdx with onTime := s.rdx.onTime.filter fun (a : Accum) => a.epoch != n
                                         closed := s.rdx.closed ++ l.map fun (a : Accum) => { a with slots := [], held := [] } } }
  have s := if l.isEmpty then s else s.setFld Fd.RDX_STAT_CLOSED 0 n
  let missing := l.foldl (fun k (a : Accum) => k + popcount (a.str.expected &&& ~~~a.present)) 0
  have s := s.bump Fd.RDX_CNT0_MISSING 0 missing
  have s := if 0 < missing then s.fault .rdx 0 2 else s
  have s := l.foldl (fun s a => s.accumEmit a false a.close) s
  match l.find? fun a => a.idx == s.fld Fd.RDX_CFG_MODEL_STREAM with
  | some a => s.modelClosed a
  | none => s

/-- Epochs that have left the late window at the close of `n`, at its instant `close`: their late accumulators go out. -/
def State.leaveWindow (s : State) (n close : Nat) : State :=
  let old := fun (a : Accum) => decide (a.epoch + s.fld Fd.RDX_CFG_LATE_EPOCHS ≤ n)
  let l := s.rdx.late.filter old
  have s := { s with rdx := { s.rdx with late := s.rdx.late.filter (fun a => !old a)
                                         closed := s.rdx.closed.filter (fun a => !old a) } }
  l.foldl (fun s a => s.accumEmit a true close) s

/-- The epochs whose close has something to do: those of the on-time accumulators, and those that take a late accumulator out of the
window. -/
def State.closesDue (s : State) : List Nat :=
  s.rdx.onTime.map (·.epoch) ++ s.rdx.late.map fun (a : Accum) => a.epoch + s.fld Fd.RDX_CFG_LATE_EPOCHS

/-- RDX_CLOSE of epoch `n`, the oldest that has something to do. -/
def rdxClose (n : Nat) (s : State) : State :=
  if s.live .rdx ∧ s.timeValid ∧ s.closesDue.contains n ∧ s.closesDue.all (fun k => n ≤ k) then
    let close := match s.rdx.onTime.find? fun a => a.epoch == n with
      | some a => a.close
      | none => s.closeAt n
    ((s.reachTime close).closeEpoch n).leaveWindow n close
  else s

def execRdxClose (n : Nat) (s : State) : Host.Outcome State Fault Refusal := done (rdxClose n s)

/-- A forward step of time from epoch `old` to `landed` (R555): the accumulators of the closed epoch, and of those passed over as their
records arrive, close at the step edge plus T_LATE. -/
def State.rdxStepped (s : State) (old : Option Nat) (landed : Nat) : State :=
  match old with
  | none => s
  | some o =>
    let c := s.now + s.tLate
    { s with rdx := { s.rdx with
        stepped := some (o, landed, c)
        onTime := s.rdx.onTime.map fun (a : Accum) => if o ≤ a.epoch ∧ a.epoch < landed then { a with close := c } else a } }

/-! ### RESEND (R355) -/

/-- The epochs of the on-time and late windows for which a member is expected and missing, rising. -/
def State.missingEpochs (s : State) (w : Nat) : List Nat :=
  let miss := fun (a : Accum) => a.str.expected.getLsbD w && !a.present.getLsbD w &&
    !(s.rdx.late.any fun (b : Accum) => b.of a.str.job a.str.gen a.epoch && b.present.getLsbD w)
  let l := (s.rdx.closed ++ s.rdx.onTime).filter fun (a : Accum) => miss a && decide (a.epoch < s.epochNow)
  let lo := l.foldl (fun k (a : Accum) => min k a.epoch) s.epochNow
  ((List.range (min 128 (s.epochNow - lo))).map (· + lo)).filter fun e => l.any fun a => a.epoch == e

/-- A wellhead is back with RESUME 0: one RESEND for each run of epochs, at most 64 epochs in all. -/
def State.rdxRejoin (s : State) (w : Nat) : State :=
  if s.isTray ∧ s.live .rdx then
    let es := (s.missingEpochs w).take 64
    let starts := es.filter fun e => !(es.any fun x => x + 1 == e)
    starts.foldl (fun s e => s.sendResend w e (((List.range 64).takeWhile fun k => es.contains (e + k)).length)) s
  else s

/-- A write of `RDX_RESEND`. -/
def rdxResendWrite (d : Word) (s : State) : State :=
  let w := bits d.toNat 6 0
  if w < s.wellheads then s.sendResend w (bits d.toNat 63 24) (bits d.toNat 21 16 + 1) else s

def execRdxResendWrite (q : Req) (d : Word) (s : State) : Host.Outcome State Fault Refusal :=
  done (s.rowWrite q .rdx 0 0x78 d fun s => (rdxResendWrite d s).okay)

/-! ### XRF frames received (R361, Table 13-10) -/

/-- A cause is counted, shown and raised. -/
def State.xrfReject (s : State) (cause epoch : Nat) : State :=
  have s := s.bump (if cause = 5 then Fd.RDX_XRF_CNT_OVERLAP else Fd.RDX_XRF_CNT_REJECTED)
  (s.setReg Rg.RDX_LAST 0 (BitVec.ofNat 64 (2 ^ 63 + 2 ^ 62 + cause * 2 ^ 56 + epoch))).fault .rdx 0 3

/-- A step frame is of this tray's step template (R424). -/
def State.isStep (s : State) (x : Xrf) : Bool := x.template == s.fld Fd.STM_CFG_XRF_TEMPLATE

/-- What a child's frame belongs to: its descriptors, whether the stream is ORDERED, when its sum is due, and the oldest epoch
taken; or the cause that refuses it. -/
def State.xrfStream (s : State) (x : Xrf) : Except Nat (List (BitVec 32) × Bool × Nat × Int) :=
  if s.isStep x then
    match s.findJob fun j => j.job == x.job && j.phase == x.epoch / 2 ^ 32 with
    | none => .error 7
    | some _ =>
      if (s.findJob fun j => j.job == x.job && j.phase == x.epoch / 2 ^ 32 && j.gen == x.gen).isSome then
        .ok (stepDescs, false, x.deadline, 0)
      else .error 8
  else
    let all := (List.range 16).filterMap fun i => s.rdx.active.stream? i
    match all.find? fun y => y.1.job == x.job with
    | none => .error 7
    | some (st, t, ds) =>
      if st.gen ≠ x.gen then .error 8
      else if t.template ≠ x.template then .error 4
      else
        let lateBy := if x.kind = 1 ∨ x.flags.getLsbD 10 then s.fld Fd.RDX_CFG_LATE_EPOCHS else 0
        .ok (ds, st.ordered, s.treeDue (s.closeAt (x.epoch + lateBy)), s.lateFrom - (if lateBy = 0 then 0 else 1))

/-- A frame that is not added: the root discards what it cannot use, another node sends it on. -/
def State.xrfPass (s : State) (x : Xrf) (m : Bytes) : State := if s.treeRoot then s else s.xrfForward (s.isStep x) x.vlan m

/-- An XRF payload arrives in tray-tree mode, addressed to this tray. -/
def State.xrfTaken (s : State) (dst : Nat) (vlan : Option (BitVec 16)) (m : Bytes) : State :=
  let x := xrfParse (BitVec.ofNat 48 dst) vlan m
  let forward := fun (s : State) => s.xrfForward (s.isStep x) vlan m
  if x.version ≠ 1 then forward (s.xrfReject 1 x.epoch)
  else if x.n = 0 ∨ 256 < x.n ∨ 1024 < x.first + x.n ∨ m.length ≠ 304 + 16 * ceilDiv x.n 16 + 16 * x.n then s.xrfReject 2 x.epoch
  else if !opmapOk false x.opmap then s.xrfReject 3 x.epoch
  else match s.xrfStream x with
  | .error c => if c = 8 then s.xrfReject 8 x.epoch else (s.xrfReject c x.epoch).xrfPass x m
  | .ok (ds, ordered, due, oldest) =>
    let want := ((ds.drop x.first).take x.n).map (if x.kind = 2 then opByte else addByte)
    let ordered := x.kind == 2 && ordered
    if x.descCrc ≠ descCrc ds ∨ x.opmap ≠ want then (s.xrfReject 4 x.epoch).xrfPass x m
    else if (x.epoch : Int) < oldest then (s.xrfReject 6 x.epoch).xrfPass x m
    else if ordered && !s.treeRoot then forward s
    else match s.treePut x false (s.isStep x) ordered due (xrfMerge x ds) with
      | (s, .merged) => s.bump Fd.RDX_XRF_CNT_MERGED
      | (s, .late) => forward s
      | (s, .overlap) => (s.xrfReject 5 x.epoch).xrfPass x m

/-- The parts of an Ethernet frame without its FCS: destination, source, tag, EtherType and payload. -/
structure Eth where
  dst   : Nat
  src   : Nat
  vlan  : Option (BitVec 16)
  etype : Nat
  body  : Bytes
  deriving DecidableEq, Repr

/-- A frame taken apart. -/
def ethParse (f : Bytes) : Eth :=
  let et := rdBE f 12 2
  if et = 0x8100 then
    { dst := rdBE f 0 6, src := rdBE f 6 6, vlan := some (BitVec.ofNat 16 (rdBE f 14 2)), etype := rdBE f 16 2, body := f.drop 18 }
  else { dst := rdBE f 0 6, src := rdBE f 6 6, vlan := none, etype := et, body := f.drop 14 }

/-- XRF_RX: a frame that passed the checks of its port. One that is not addressed to the tray is none of its own (R361) and is discarded
(DESIGN CHOICE, log entry 135). -/
def xrfRx (p : Nat) (f : Bytes) (s : State) : State :=
  let e := ethParse f
  if s.isTray ∧ p < 2 ∧ s.live .rdx ∧ s.treeOn ∧ e.dst = s.fld Fd.UP_CFG_MAC p then s.xrfTaken e.dst e.vlan e.body else s

def execXrfRx (p : Nat) (f : List Byte) (s : State) : Host.Outcome State Fault Refusal := done (xrfRx p f s)

/-! ### The tables (R363) -/

def TmplEnt.word (t : TmplEnt) : Word := BitVec.ofNat 64 (b2n t.valid * 2 ^ 63 + t.template * 2 ^ 40 + t.fields)

/-- READ of a staged entry; DESC_CRC is computed over the entry's descriptors. -/
def rdxTblRead (t idx : Nat) (s : State) : WinOut :=
  let b := s.rdx.staged
  if t = 0 then
    if idx < 16384 then s.winData [BitVec.ofNat 64 (b.descs.getD idx 0).toNat] else s.win 2
  else if t = 1 then
    if 16 ≤ idx then s.win 2
    else
      let e := b.tmpls.getD idx ⟨false, 0, 0⟩
      s.winData [e.word, BitVec.ofNat 64 (descCrc ((List.range e.fields).map fun k => b.descs.getD (idx * 1024 + k) 0))]
  else if t = 2 then
    if 16 ≤ idx then s.win 2
    else
      let e := b.streams.getD idx ⟨false, false, 0, 0, 0, 0⟩
      s.winData [BitVec.ofNat 64 (b2n e.valid * 2 ^ 63 + b2n e.ordered * 2 ^ 62 + e.job * 2 ^ 32 + e.gen * 2 ^ 24 + e.entry),
        BitVec.ofNat 64 e.expected.toNat, BitVec.ofNat 64 (e.expected.toNat / 2 ^ 64)]
  else s.win 2

def execRdxTblRead (q : Req) (t idx : Nat) (s : State) : Host.Outcome State Fault Refusal :=
  done (s.winCmd q .rdx 0 t 1 idx (rdxTblRead t idx))

def State.setRdxStaged (s : State) (b : RdxBank) : State := { s with rdx := { s.rdx with staged := b } }

/-- WRITE of a staged entry. -/
def rdxTblWrite (t idx : Nat) (s : State) : WinOut :=
  let b := s.rdx.staged
  let d := (s.data .rdx 0 0).toNat
  if 2 < t ∨ (if t = 0 then 16384 else 16) ≤ idx then s.win 2
  else if s.rdx.pending then s.win 5
  else if t = 0 then
    let v := BitVec.ofNat 32 d
    (s.setRdxStaged { b with descs := if v = 0 then b.descs.erase idx else b.descs.set idx v }).win 0
  else if t = 1 then
    (s.setRdxStaged { b with tmpls := b.tmpls.set idx ⟨bit d 63, bits d 47 40, bits d 10 0⟩ }).win 0
  else
    let x := BitVec.ofNat 128 ((s.data .rdx 0 1).toNat + (s.data .rdx 0 2).toNat * 2 ^ 64)
    (s.setRdxStaged { b with streams := b.streams.set idx ⟨bit d 63, bit d 62, bits d 55 32, bits d 31 24, bits d 3 0, x⟩ }).win 0

def execRdxTblWrite (q : Req) (t idx : Nat) (s : State) : Host.Outcome State Fault Refusal :=
  done (s.winCmd q .rdx 0 t 2 idx (rdxTblWrite t idx))

/-! ### Commit and reset -/

/-- The staged tables and deadlines may be committed (R342, R352, R363, R532). -/
def State.rdxCommitOk (s : State) : Bool :=
  let b := s.rdx.staged
  let jobs := b.live.map (·.job)
  let late := bits (s.stagedReg Rg.RDX_CFG).toNat 19 0 * 65536000
  b.live.all (fun st => (b.tmpls.get? st.entry).any (·.valid)) && decide (jobs.eraseDups.length = jobs.length) &&
    b.tmpls.all (fun (i, t) => !t.valid || (decide (t.fields ≤ 1024) &&
      templateOk ((List.range t.fields).map fun k => b.descs.getD (i * 1024 + k) 0))) &&
    decide (s.epochLen ≠ 0 ∧ ceilDiv late s.epochLen ≤ 7)

/-- The staged tables take effect; the first one with a stream after a loss of state makes RDX rebuild (R522). -/
def State.rdxApply (s : State) : State :=
  have s := { s with rdx := { s.rdx with active := s.rdx.staged, pending := false } }
  if s.rdx.rebuildDue ∧ !s.rdx.active.live.isEmpty then
    have s := { s with rdx := { s.rdx with rebuildDue := false } }
    let (old, s) := s.rebuild
    s.stateLost 4 old
  else s

/-- The staged tables are refused (R363). -/
def State.rdxRefuse (s : State) : State := { s with rdx := { s.rdx with pending := false } }.fault .rdx 0 4

/-- Open accumulators are discarded: one OPEN_LOST record a stream (R522). -/
def State.rdxDiscard (s : State) : State :=
  let l := s.rdx.onTime ++ s.rdx.late
  have s := (List.range 16).foldl (fun s i =>
    match (l.filter fun (a : Accum) => a.idx == i).map (·.epoch) with
    | [] => s
    | e :: es => s.event 0x0205 (leBytes 1 i ++ leBytes 3 0 ++ leBytes 4 0 ++ leBytes 5 (es.foldl min e) ++ leBytes 3 0 ++
        leBytes 5 (es.foldl max e)) true) s
  { s with rdx := { s.rdx with onTime := [], late := [], closed := [], tree := [], model := none, stepped := none, rebuildDue := true } }

/-- `PG_CTRL.UNIT_RESET` of RDX (R364). -/
def rdxReset (s : State) : State := { s.rdxDiscard with rdx := { s.rdxDiscard.rdx with pending := false } }

end Sys2Proof.Machine
end

