-- ==== Sys2Proof/Machine/Epr.lean ====
section
/-! DEFINITION. EPR (05.6, 13.2): folding samples into the open epoch record, its close, retention and re-sending, the map and
template banks and their commit. -/

namespace Sys2Proof.Machine

/-! ### Folding (R134, R135, R343) -/

/-- A sample folded into a slot under its descriptor (R343). -/
def foldSlot (d : BitVec 32) (slot x : Nat) : Nat :=
  let op := descOp d
  let f := bits d.toNat 17 16
  let op := if classB op then (if f = 1 then 3 else if f = 2 then 4 else 1) else op
  let sg := descSigned d
  let v := slotOf sg x
  let w := slotOf sg slot
  if op = 1 then (slot + x) % 2 ^ 64
  else if op = 2 then (slot + 1) % 2 ^ 64
  else if op = 3 ∨ op = 5 then (if v < w then x else slot)
  else if op = 4 ∨ op = 6 then (if v > w then x else slot)
  else if op = 8 then Nat.lor slot x
  else if op = 9 then Nat.land slot x
  else slot
where
  slotOf (sg : Bool) (y : Nat) : Int := if sg then sext y 64 else y

/-- The key of a counter's previous sample in a group. -/
def prevKey (g ctr : Nat) : Nat := g * 16384 + ctr

/-- A group starts, or has been rebuilt: its next sample of each counter only sets prev (R135). A row of its ticks before that is
still folded against the samples it follows. -/
def State.eprForget (s : State) (g : Nat) : State :=
  let mine := s.epr.prev.filter fun x => x.1 / 16384 == g
  have runs := s.smp.runs.mapV fun k r =>
    if k = g then { r with gather := r.gather.map fun x => { x with prev := x.prev.orElse fun _ => some mine } } else r
  { s with epr := { s.epr with prev := s.epr.prev.drop fun k => k / 16384 == g }, smp := { s.smp with runs } }

/-- The WIDTH of a counter in the slot table in force. -/
def State.ctrWidth (s : State) (ctr : Nat) : Nat :=
  match s.wells.get? (ctr / 256) with
  | some w => (w.active.getD (ctr % 256) ⟨0, 0⟩).width
  | none => 0

/-- One valid map entry `e` of field `k` meets the row, whose group's previous samples are `prev`: its sample is folded, or skipped and counted. -/
def State.eprField (s : State) (prev : SMap Word) (row : Row) (r : OpenRec) (k : Nat) (e : MapEnt) : State × OpenRec :=
  match row.ctrs.findIdx? (· == e.ctr) with
  | none => (s, r)
  | some i =>
    let w := e.ctr / 256
    if row.stale.getLsbD w then (s.bump Fd.EPR_CNT_STALE_SKIPPED, { r with stale := r.stale + 1, flags := r.flags ||| 8 })
    else
      let x := (row.vals.getD i 0).toNat
      let r := if row.skew.getLsbD w then { r with flags := r.flags ||| 16 } else r
      let put := fun (y : Nat) =>
        { r with slots := r.slots.set k (BitVec.ofNat 64 (foldSlot (r.bank.tmpl.getD k 0) (r.slots.getD k 0).toNat y)) }
      if e.delta then
        match prev.get? (prevKey row.group e.ctr) with
        | some p => (s, put (wrapI ((x : Int) - p.toNat) (s.ctrWidth e.ctr)))
        | none => (s, r)
      else (s, put x)

/-- The map entries in force of a record's bank. -/
def EprBank.entries (b : EprBank) : SMap MapEnt := b.map.filter fun x => decide (x.1 < b.fields) && x.2.valid

/-- A completed row is folded into the record of its epoch (R135), and its samples become the previous ones; a row of ticks before its
group started anew is folded against `old` and leaves none. -/
def State.eprFold (s : State) (row : Row) (old : Option (SMap Word)) : State :=
  let prev := old.getD s.epr.prev
  let fold := fun (s : State) (r : OpenRec) =>
    (r.bank.entries.filter fun x => x.2.group == row.group).foldl (fun (a : State × OpenRec) x =>
      a.1.eprField prev row a.2 x.1 x.2) (s, r)
  have s := match s.epr.openRec with
    | some r => if r.epoch = row.epoch then
        let (s, r) := fold s r
        { s with epr := { s.epr with openRec := some r } } else s
    | none => s
  have s := match s.epr.closing.find? fun r => r.epoch == row.epoch with
    | some r =>
      let (s, r) := fold s r
      { s with epr := { s.epr with closing := s.epr.closing.map fun (c : OpenRec) => if c.epoch = r.epoch then r else c } }
    | none => s
  if old.isSome then s
  else
    { s with epr := { s.epr with prev := (row.ctrs.zip row.vals).foldl (fun (m : SMap Word) (x : Nat × Word) =>
        if row.stale.getLsbD (x.1 / 256) then m else m.set (prevKey row.group x.1) x.2) prev } }

/-! ### Close (R136, R344, R345) -/

/-- A leaf epoch record (R344): its header identifier and TYPE are given, the rest is the record's. -/
def OpenRec.bytes (r : OpenRec) (type node flags : Nat) (slots : Bytes) : Bytes :=
  commonHeader type r.template node r.job r.gen r.epoch flags ++ leBytes 2 r.fields ++ leBytes 2 r.cfgVer ++ leBytes 2 r.nextVer
    ++ leBytes 2 r.planVer ++ leBytes 4 (min r.stale (2 ^ 32 - 1)) ++ leBytes 4 0 ++ slots

/-- The primary leaf's package record (R16, R20, R344). The manual gives its layout and no rule for its slots, which are free
values. -/
def State.pkgRecord (s : State) (r : OpenRec) (flags : Nat) : State :=
  if s.pkg.primary = some s.chip.pkgDieIdx then
    let (b, s) := s.freeBytes (8 * r.fields)
    have s := s.sendMsg 0 2 (r.bytes 2 (s.fld Fd.DIR_NODE_PKG_ID) (flags + b2n s.pkg.changed * 2 ^ 13) b)
    { s with pkg := { s.pkg with changed := false } }
  else s

/-- EPR closes a record: it is queued for VC2 and retained, the baselines score it, and slots that wait for it launch (R136, R206,
R233, R345, R428). -/
def State.eprClose (s : State) (r : OpenRec) : State :=
  let flags := Nat.lor r.flags.toNat s.holdFlag
  let m := r.bytes 1 s.nodeId flags (wordBytes r.slots)
  let kept := s.epr.retained.filter (fun (x : Nat × Bytes) => x.1 != r.epoch) ++ [(r.epoch, m)]
  have s := { s with epr := { s.epr with retained := kept.drop (kept.length - 64) } }
  have s := (s.sendMsg 0 2 m).pkgRecord r flags
  (s.baselines r.epoch flags (r.slots.map fun w => w.toInt)).recordClosed r.epoch

/-- A row stamped in epoch `n` is still being gathered. -/
def State.gathering (s : State) (n : Nat) : Bool := s.smp.runs.any fun x => x.2.gather.any fun g => g.row.epoch == n

/-- The open record closes at a boundary edge, or waits for its rows (R136). -/
def State.eprCloseOpen (s : State) : State :=
  match s.epr.openRec with
  | none => s
  | some r =>
    have s := { s with epr := { s.epr with openRec := none } }
    if s.gathering r.epoch then { s with epr := { s.epr with closing := s.epr.closing ++ [r] } } else s.eprClose r

/-- Records that waited and whose rows are all complete close now (R136). -/
def State.eprLate (s : State) : State :=
  let ready := s.epr.closing.filter fun r => !s.gathering r.epoch
  have s := { s with epr := { s.epr with closing := s.epr.closing.filter fun r => s.gathering r.epoch } }
  ready.foldl (fun s r => (s.bump Fd.EPR_CNT_CLOSE_LATE).eprClose r) s

/-- A record opens for epoch `n` when the conditions of R549 hold: every slot at its identity (R343). -/
def State.eprOpen (s : State) (n : Nat) : State :=
  let b := s.epr.active
  if s.isTray = false ∧ s.live .epr ∧ s.epr.accepted ∧ 1 ≤ b.fields then
    let (job, gen) := s.job
    let (cfgVer, nextVer, mix) := s.versions
    let slots := (List.range b.fields).map fun k =>
      let d := b.tmpl.getD k 0
      BitVec.ofNat 64 (leafIdentity (descOp d) (descSigned d) (bits d.toNat 17 16) s.nodeId)
    let slew := s.fld Fd.TKP_STATE_SLEWING
    let r : OpenRec := { epoch := n, slots, fields := b.fields, template := b.template, stale := 0
                         flags := BitVec.ofNat 20 (s.holdFlag + slew * 2 + mix), job, gen, cfgVer, nextVer
                         planVer := s.smp.active.ver, bank := b }
    { s with epr := { s.epr with openRec := some r, firstEp := some (s.epr.firstEp.getD n) } }
  else s

/-! ### RESEND (R346) -/

/-- CAUSE of an epoch that is not retained. -/
def State.lostCause (s : State) (e : Nat) : Nat :=
  if (s.epr.openRec.any fun r => r.epoch == e) || (s.epr.closing.any fun r => r.epoch == e) || decide (s.epochNow < e) then 3
  else if s.epr.lost.contains e then 4
  else if (s.epr.retained.any fun x => decide (e < x.1)) && !(s.epr.retained.any fun x => decide (x.1 ≤ e)) then 1
  else match s.epr.firstEp with
    | none => 1
    | some f => if e < f then 1 else 2

/-- What answers one requested epoch: the retained record with REBUILT, or an EPOCH_LOST record. The manual gives EPOCH_LOST no
TEMPLATE: a free value. -/
def State.resendOne (s : State) (e : Nat) : State :=
  match s.epr.retained.find? fun x => x.1 == e with
  | some (_, m) =>
    let h := Nat.lor (leNat (m.take 16)) (2 ^ 117)
    (s.bump Fd.EPR_RESEND_CNT_REBUILT).sendMsg 0 2 (leBytes 16 h ++ m.drop 16)
  | none =>
    let (w, s) := s.draw
    let (j, g) := s.job
    (s.bump Fd.EPR_RESEND_CNT_LOST).sendMsg 0 2
      (commonHeader 5 w.toNat s.nodeId j g e s.holdFlag ++ leBytes 1 (s.lostCause e) ++ leBytes 15 0)

/-- The next epoch of the request in service is answered once VC2 has nothing queued. -/
def State.eprServe (s : State) : State :=
  match s.epr.resends with
  | (e, n) :: r =>
    if ((s.lane 0).txq.getD 2 []).isEmpty then
      have s := { s with epr := { s.epr with resends := if n ≤ 1 then r else (e + 1, n - 1) :: r } }
      if n = 0 then s else s.resendOne e
    else s
  | [] => s

/-- RESEND_MSG: a request joins the queue of 4, or is dropped (R346). -/
def resendMsg (first count : Nat) (s : State) : State :=
  if s.isTray then s
  else
    have s := s.bump Fd.EPR_RESEND_CNT_REQUESTS
    if s.epr.resends.length < 4 then
      { s with epr := { s.epr with resends := s.epr.resends ++ [(first % 2 ^ 40, count)] } }.eprServe
    else s.bump Fd.EPR_RESEND_CNT_DROPPED

def execResendMsg (first count : Nat) (s : State) : Host.Outcome State Fault Refusal := done (resendMsg first count s)

/-! ### Commit (R137, R342) -/

/-- A sum of fractions numerator over denominator; a denominator 0 adds nothing. -/
def sumFrac (l : List (Nat × Nat)) : Nat × Nat :=
  l.foldl (fun (a : Nat × Nat) (x : Nat × Nat) => if x.2 = 0 then a else (a.1 * x.2 + x.1 * a.2, a.2 * x.2)) (0, 1)

/-- The members of a group. -/
def Plan.membersOf (p : Plan) (d : GDesc) : List Nat := (List.range d.count).map fun j => p.members.getD (d.first + j) 0

/-- A map entry may be committed over the plan in force. -/
def State.mapOk (s : State) (tmpl : SMap (BitVec 32)) (k : Nat) (e : MapEnt) : Bool :=
  let op := descOp (tmpl.getD k 0)
  let slot := ((s.wells.get? (e.ctr / 256)).map fun w => w.active.getD (e.ctr % 256) ⟨0, 0⟩).getD ⟨0, 0⟩
  op != 0 && op != 7 && op != 19 &&
    (match s.smp.active.groups.get? e.group with
      | some d => d.valid && (s.smp.active.membersOf d).contains e.ctr
      | none => false) && (!e.delta || slot.kind == 0)

/-- The staged map and template may be committed with the FIELDS now in `EPR_CFG` (R137, R342). -/
def State.eprCommitOk (s : State) : Bool :=
  let f := bits (s.stagedReg Rg.EPR_CFG).toNat 18 8
  let b := s.epr.staged
  let es := b.map.filter fun x => decide (x.1 < f) && x.2.valid
  let rate := sumFrac (es.map fun x => (100000, ((s.smp.active.groups.get? x.2.group).map (·.period)).getD 0))
  decide (1 ≤ f ∧ f ≤ 1024) && templateOk ((List.range f).map fun k => b.tmpl.getD k 0) &&
    es.all (fun x => s.mapOk b.tmpl x.1 x.2) && decide (rate.1 ≤ 50000000 * rate.2)

/-- The staged map and template take effect (R137). -/
def State.eprApply (s : State) : State :=
  let b := { s.epr.staged with fields := s.fld Fd.EPR_CFG_FIELDS, template := s.fld Fd.EPR_CFG_TEMPLATE }
  { s with epr := { s.epr with active := b, staged := b, accepted := true, pending := false } }

/-- A rejected map leaves the old one in force. -/
def State.eprRefuse (s : State) : State :=
  ({ s with epr := { s.epr with pending := false } }.bump Fd.EPR_CNT_REJECT).fault .epr 0 0

/-- A commit of the page alone: COMMIT_MODE DIRECT (Table 02-11). -/
def State.eprDirect (s : State) : State :=
  if s.eprCommitOk then
    ((s.setReg Rg.EPR_CFG 0 (s.stagedReg Rg.EPR_CFG)).unstage .epr 0).eprApply
  else (s.unstage .epr 0).eprRefuse

/-- EPR_CFG_WRITE (R140): an accepted write marks the staged map for commit. -/
def eprCfgWrite (d : Word) (s : State) : State :=
  let ok := decide (1 ≤ bits d.toNat 18 8 ∧ bits d.toNat 18 8 ≤ 1024)
  have s := if ok then { s with epr := { s.epr with pending := true } } else s
  s.plainWrite .epr 0 0x40 0 d State.eprDirect

def execEprCfgWrite (q : Req) (d : Word) (s : State) : Host.Outcome State Fault Refusal :=
  done (s.rowWrite q .epr 0 0x40 d fun s => (eprCfgWrite d s).okay)

/-! ### The window (R141, R362, Table 05-12) -/

/-- A map entry as a window word. -/
def MapEnt.word (e : MapEnt) : Word := BitVec.ofNat 64 (b2n e.valid * 2 ^ 31 + b2n e.delta * 2 ^ 24 + e.group * 2 ^ 16 + e.ctr)

/-- The word of a map or template entry of a bank. -/
def EprBank.word (b : EprBank) (t idx : Nat) : Word :=
  if t = 0 then (b.map.getD idx ⟨false, false, 0, 0⟩).word else BitVec.ofNat 64 (b.tmpl.getD idx 0).toNat

/-- READ of a bank. -/
def eprTblRead (b : EprBank) (t idx : Nat) (s : State) : WinOut :=
  if 1 < t then s.win 3 else if 1024 ≤ idx then s.win 2 else s.winData [b.word t idx]

def execEprTblRead (q : Req) (t idx : Nat) (s : State) : Host.Outcome State Fault Refusal :=
  done (s.winCmd q .epr 0 t 1 idx fun s => eprTblRead s.epr.staged t idx s)

def execEprTblReadActive (q : Req) (t idx : Nat) (s : State) : Host.Outcome State Fault Refusal :=
  done (s.winCmd q .epr 0 t 4 idx fun s => eprTblRead s.epr.active t idx s)

/-- WRITE of a staged entry. -/
def eprTblWrite (t idx : Nat) (s : State) : WinOut :=
  let d := (s.data .epr 0 0).toNat
  let b := s.epr.staged
  if 1 < t then s.win 3
  else if 1024 ≤ idx then s.win 2
  else if s.epr.pending then s.win 5
  else
    have b := if t = 0 then
        { b with map := b.map.set idx ⟨bit d 31, bit d 24, bits d 21 16, bits d 13 0⟩ }
      else { b with tmpl := b.tmpl.set idx (BitVec.ofNat 32 d) }
    { s with epr := { s.epr with staged := b } }.win 0

def execEprTblWrite (q : Req) (t idx : Nat) (s : State) : Host.Outcome State Fault Refusal :=
  done (s.winCmd q .epr 0 t 2 idx (eprTblWrite t idx))

/-! ### Resets -/

/-- The open records are dropped unsent, and their epochs answer OPEN_LOST (R518, R553). -/
def State.eprDrop (s : State) : State :=
  let es := (s.epr.closing ++ s.epr.openRec.toList).map fun (r : OpenRec) => r.epoch
  { s with epr := { s.epr with openRec := none, closing := [], lost := (s.epr.lost ++ es), resends := [] } }

/-- `PG_CTRL.UNIT_RESET` of EPR (R553). -/
def eprReset (s : State) : State :=
  { s.eprDrop with epr := { s.eprDrop.epr with accepted := false, pending := false } }

end Sys2Proof.Machine
end

