-- ==== Sys2Proof/Machine/Smp.lean ====
section
/-! DEFINITION. Wells and SMP (05.1 to 05.5): the slot tables, the snapshot handshake with STALE and SKEW, the grid ticks, rows in
gathering and where they go, springs and their votes. -/

namespace Sys2Proof.Machine

/-! ### Wells -/

/-- A captured sample (R115). KIND 3, which has no meaning there, is zero-extended like a COUNTER (DESIGN CHOICE, log entry 120). -/
def Slot.capture (d : Slot) (x : Word) : Word :=
  let v := x.toNat % 2 ^ d.width
  BitVec.ofNat 64 (if d.kind = 2 then wrapI (sext v d.width) 64 else v)

/-- A STALE tick of a well (R121, R123). -/
def State.wellStale (s : State) (w : Nat) : State :=
  have s := (s.bump Fd.WEL_CNT_STALE_TICKS w).setFld Fd.WEL_STAT_STALE w 1
  if (s.well w).lastOk then (s.setWell w { s.well w with lastOk := false }).fault .wel w 0 else s

/-- A tick needs a well: REQ rises, or the tick joins the image asked for at this edge, or its samples are STALE (R119 to R123,
R548). Answers whether the well owes the samples. -/
def State.wellTick (s : State) (w : Nat) : State × Bool :=
  let x := s.well w
  let again := x.tickEdge == s.aon + 1
  have s := s.setWell w { x with tickEdge := s.aon + 1 }
  have s := if s.fld Fd.WEL_STAT_SKEW w = 1 ∧ !again then s.bump Fd.WEL_CNT_SKEW_TICKS w else s
  if !s.live .wel w then (s.setFld Fd.WEL_STAT_STALE w 1, false)
  else if x.req ∧ !x.discard ∧ x.reqEdge = s.aon then (s, true)
  else if x.req ∨ x.closing then (if again then s else s.wellStale w, false)
  else (s.setWell w { s.well w with req := true, discard := false, late := false, reqEdge := s.aon }, true)

/-! ### Gathering -/

/-- A group that has never run. -/
def GRun.rest : GRun :=
  { on := false, nextK := 0, counted := 0, done := false, gapOwed := false, lead := false, old := none, rebuild := none
    gather := none }

def State.grun (s : State) (g : Nat) : GRun := s.smp.runs.getD g GRun.rest
def State.setGrun (s : State) (g : Nat) (r : GRun) : State := { s with smp := { s.smp with runs := s.smp.runs.set g r } }

/-- The slots a well owes to rows in gathering. -/
def State.owedSlots (s : State) (w : Nat) : List Nat :=
  s.smp.runs.foldl (fun l x => match x.2.gather with
    | some g => if g.owed.contains w then l ++ (g.row.ctrs.filter fun c => c / 256 == w).map (· % 256) else l
    | none => l) []

/-- A row with the values a well has just captured. -/
def Row.filled (r : Row) (w : Nat) (last : SMap Word) : Row :=
  { r with vals := (r.ctrs.zip r.vals).map fun x => if x.1 / 256 = w then last.getD (x.1 % 256) x.2 else x.2 }

/-- STALE_TMO cycles have passed without ACK (R121). -/
def State.wellTimeout (s : State) (w : Nat) : State :=
  let x := s.well w
  if x.req ∧ !x.discard then
    have s := (s.setWell w { x with discard := true, late := true }).giveStale w
    if s.live .wel w then s.wellStale w else s
  else s

/-- STALE_TIMEOUT. -/
def staleTimeout (w : Nat) (s : State) : State :=
  let x := s.well w
  if x.req ∧ !x.discard then (s.reach (x.reqEdge + s.fld Fd.WEL_CFG_STALE_TMO w)).wellTimeout w else s

def execStaleTimeout (w : Nat) (s : State) : Host.Outcome State Fault Refusal := done (staleTimeout w s)

/-- WELL_SNAP_ACK (R119 to R121): the slots the tick needs are read from the image `img` (a slot it does not list is 0), or a late or
unwanted image is discarded; REQ falls. WEL_STAT.STALE tells of the last tick, which may have fallen in the handshake (Table 05-9). -/
def wellSnapAck (w : Nat) (img : List (Nat × Word)) (s : State) : State :=
  if (s.well w).req = false then s
  else
    have s := if s.fld Fd.WEL_CFG_STALE_TMO w < s.aon - (s.well w).reqEdge then s.wellTimeout w else s
    let x := s.well w
    let lat := min (s.aon - x.reqEdge) 0xFFFF
    have s := (s.setFld Fd.WEL_LAT_LAST w lat).setFld Fd.WEL_LAT_WORST w (max lat (s.fld Fd.WEL_LAT_WORST w))
    if x.discard ∨ !s.live .wel w then
      have s := if x.late then s.bump Fd.WEL_CNT_LATE_ACK w else s
      (s.setWell w { x with req := false, closing := true, discard := false, late := false }).giveStale w
    else
      let last := (s.owedSlots w).foldl (fun (m : SMap Word) k =>
        m.set k ((x.active.getD k ⟨0, 0⟩).capture (((img.find? fun i => i.1 == k).map (·.2)).getD 0))) x.last
      have s := s.setWell w { x with req := false, closing := true, last, lastOk := true }
      have s := s.bump Fd.WEL_CNT_SNAPSHOTS w
      have s := if x.tickEdge = x.reqEdge + 1 then s.setFld Fd.WEL_STAT_STALE w 0 else s
      s.mapGathers w fun g => { g with owed := g.owed.filter (· != w), row := g.row.filled w last }

def execWellSnapAck (w : Nat) (img : List (Nat × Word)) (s : State) : Host.Outcome State Fault Refusal :=
  done (wellSnapAck w img s)

/-- WELL_ACK_LOW (R119): the handshake is over. -/
def wellAckLow (w : Nat) (s : State) : State :=
  if (s.well w).closing then s.setWell w { s.well w with closing := false } else s

def execWellAckLow (w : Nat) (s : State) : Host.Outcome State Fault Refusal := done (wellAckLow w s)

/-- SKEW_WINDOW_END (R122, R123): the windows run back to back from the release of reset, so one ends 1,024 cycles after the last. -/
def skewWindowEnd (w edges : Nat) (s : State) : State :=
  if s.isTray ∨ 48 ≤ w then s
  else
    let due := (s.well w).winAt + 1024
    have s := s.reach due
    have s := s.setWell w { s.well w with winAt := due }
    let p := s.fld Fd.WEL_CFG_MAX_PERIOD_PS w
    let bad := decide (p ≠ 0 ∧ edges * p < 10240000)
    let was := s.fld Fd.WEL_STAT_SKEW w
    have s := (s.setFld Fd.WEL_STAT_EDGES w (min edges (2 ^ 32 - 1))).setFld Fd.WEL_STAT_SKEW w (b2n bad)
    if bad ∧ was = 0 then s.fault .wel w 1 else s

def execSkewWindowEnd (w edges : Nat) (s : State) : Host.Outcome State Fault Refusal := done (skewWindowEnd w edges s)

/-! ### The slot tables' window and commit (R116, R141) -/

/-- The staged bank takes effect. -/
def State.welApply (s : State) (w : Nat) : State := s.setWell w { s.well w with active := (s.well w).staged }

/-- A commit of the page alone: COMMIT_MODE DIRECT. -/
def State.welDirect (s : State) (w : Nat) : State :=
  ((s.setReg Rg.WEL_CFG w (s.stagedReg Rg.WEL_CFG w)).unstage .wel w).welApply w

/-- A bank of a page has been marked by a window write: the commit its COMMIT_MODE selects (R39, R116). -/
def State.markBank (s : State) (u : UnitKind) (i : Nat) (direct : State → State) : State :=
  have s := s.mark u i
  if s.fld (Fd.PG_CTRL_COMMIT_MODE u) i = 2 then direct s
  else if s.fld (Fd.PG_CTRL_COMMIT_MODE u) i = 1 then
    (s.setFld (Fd.PG_SHADOW_VALID u) i 1).setFld (Fd.PG_SHADOW_EPOCH u) i (s.epochNow + 1)
  else s

/-- READ of a bank. -/
def welSlotRead (m : SMap Slot) (idx : Nat) (s : State) : WinOut :=
  if 256 ≤ idx then s.win 2
  else
    let d := m.getD idx ⟨0, 0⟩
    s.winData [BitVec.ofNat 64 (d.kind * 256 + d.width)]

def execWelSlotRead (q : Req) (w idx : Nat) (s : State) : Host.Outcome State Fault Refusal :=
  done (s.winCmd q .wel w 0 1 idx fun s => welSlotRead (s.well w).staged idx s)

def execWelSlotReadActive (q : Req) (w idx : Nat) (s : State) : Host.Outcome State Fault Refusal :=
  done (s.winCmd q .wel w 0 4 idx fun s => welSlotRead (s.well w).active idx s)

/-- WRITE of a staged descriptor, only while the well is disabled; a WIDTH above 64 is stored as 0. -/
def welSlotWrite (w idx : Nat) (s : State) : WinOut :=
  let d := (s.data .wel w 0).toNat
  if 256 ≤ idx then s.win 2
  else if s.enabled .wel w then s.win 4
  else
    let x := s.well w
    let sl : Slot := ⟨bits d 9 8, if 64 < bits d 6 0 then 0 else bits d 6 0⟩
    ((s.setWell w { x with staged := x.staged.set idx sl }).markBank .wel w fun s => s.welDirect w).win 0

def execWelSlotWrite (q : Req) (w idx : Nat) (s : State) : Host.Outcome State Fault Refusal :=
  done (s.winCmd q .wel w 0 2 idx (welSlotWrite w idx))

/-- `PG_CTRL.UNIT_RESET` of a well (R551): the tables and the last values stay. -/
def welReset (w : Nat) (s : State) : State :=
  have s := s.welAbandon w
  s.setWell w { s.well w with lastOk := true }

/-! ### The grid -/

/-- 10 µs in 2^-16 ns. -/
def units10us : Nat := 10000 * 65536

/-- Tick `k` of a group (R124). -/
def State.tickAt (s : State) (d : GDesc) (k : Nat) : Nat := s.origin + (d.phase + k * d.period) * units10us

/-- The first tick index whose instant is at or after `t`. -/
def State.tickFrom (s : State) (d : GDesc) (t : Nat) : Nat :=
  let b := s.tickAt d 0
  if t ≤ b then 0 else ceilDiv (t - b) (d.period * units10us)

/-- The first time that no earlier edge has reached. -/
def State.freshTime (s : State) : Nat := if s.tkp.t < s.inc then 0 else (s.tkp.t - s.inc) / 2 ^ 32 + 1

/-- The definition a group ticks under: descriptor, members, PLAN_VER, NEXT_VER and whether it is the old one (R128). -/
def State.groupDef (s : State) (g : Nat) : Option (GDesc × List Nat × Nat × Nat × Bool) :=
  match (s.grun g).old with
  | some (d, m, v) => some (d, m, v, s.smp.active.ver, true)
  | none =>
    if (s.grun g).rebuild.isSome then none
    else match s.smp.active.groups.get? g with
      | some d => if d.valid then some (d, s.smp.active.membersOf d, s.smp.active.ver, 0, false) else none
      | none => none

/-- Groups tick (R124). -/
def State.ticking (s : State) : Bool := s.timeValid && !s.preOrigin && s.live .smp

/-! ### The SMP vote (R73, Table 03-4) -/

/-- A spring stands before CMP: it runs with its lead begun, its row is being gathered, or rows wait in the priming buffer. -/
def State.springWaits (s : State) : Bool :=
  !s.cmp.springB.isEmpty || s.smp.runs.any fun x =>
    (x.2.on && x.2.lead) || x.2.gather.any fun g => g.row.flags.getLsbD 2

/-- SMP drops its vote once no spring stands before CMP. -/
def State.smpVote (s : State) : State := if s.springWaits then s else s.voteDown .smp

/-- SPRING_PRIME_LEAD: PRIME_LEAD_US before the scheduled start of a spring. -/
def springPrimeLead (g : Nat) (s : State) : State :=
  let r := s.grun g
  let d? := (s.groupDef g).map (·.1)
  let d? := if d?.isSome then d? else s.smp.active.groups.get? g
  match d? with
  | some d =>
    if d.valid ∧ d.spring ∧ d.mode ≠ 2 ∧ !r.lead ∧ r.counted = 0 ∧ (r.on ∨ r.rebuild.isSome) ∧ s.live .smp ∧ s.timeValid then
      have s := if r.on then
          let at' := s.tickAt d (max r.nextK (s.tickFrom d s.freshTime))
          s.reachTime (at' - s.fld Fd.PWR_CFG_PRIME_LEAD_US * 1000 * 65536)
        else s
      (s.setGrun g { s.grun g with lead := true }).voteUp .smp
    else s
  | none => s

def execSpringPrimeLead (g : Nat) (s : State) : Host.Outcome State Fault Refusal := done (springPrimeLead g s)

/-! ### Ticks (R124, R129 to R131) -/

/-- A row begins to be gathered at a tick. -/
def State.gatherStart (s : State) (g k shift : Nat) (r : GRun) (d : GDesc) (ms : List Nat) (ver next : Nat) (mixed : Bool) :
    State :=
  let ws := (ms.map (· / 256)).eraseDups
  let (s, owed) := ws.foldl (fun (a : State × List Nat) w =>
    let (s, o) := a.1.wellTick w
    (s, if o then a.2 ++ [w] else a.2)) (s, [])
  let mask := fun (p : Nat → Bool) => (ws.filter p).foldl (fun (m : BitVec 64) w => m ||| BitVec.ofNat 64 (2 ^ w)) 0
  let (job, gen) := s.job
  let flags := b2n r.gapOwed + b2n mixed * 2 + b2n d.spring * 4 + b2n (d.spring && !s.primed) * 8 + s.holdFlag * 16 + shift * 32
  let row : Row := { time := s.now, group := g, flags := BitVec.ofNat 8 flags, seq := k % 2 ^ 32, planVer := ver, nextVer := next
                     stale := mask fun w => !owed.contains w, skew := mask fun w => s.fld Fd.WEL_STAT_SKEW w == 1
                     vals := ms.map fun c => (s.well (c / 256)).last.getD (c % 256) 0
                     job, gen, first := d.first, ctrs := ms, epoch := s.epochOf s.now }
  (s.ev .smp 0 1).setGrun g { r with gapOwed := false, gather := some { row, owed, prev := none } }

/-- Rows that the priming buffer of 4 holds or, being gathered, has kept room for (R80). -/
def State.springHeld (s : State) : Nat :=
  s.cmp.springB.length + (s.smp.runs.filter fun x => x.2.gather.any fun g => g.row.flags.getLsbD 3).length

/-- A spring tick before PRIMED that finds the priming buffer full is not captured (R80). -/
def State.springMissed (s : State) (g : Nat) : State :=
  ((s.bump Fd.PWR_SPRING_MISSED).item 7).setGrun g { s.grun g with gapOwed := true }

/-- GROUP_TICK: the group's next grid instant. -/
def groupTick (g : Nat) (s : State) : State :=
  match s.groupDef g with
  | some (d, ms, ver, next, mixed) =>
    let r := s.grun g
    if r.on ∧ s.ticking then
      let k := max r.nextK (s.tickFrom d s.freshTime)
      have s := s.reachTime (s.tickAt d k)
      let n := r.counted + 1
      let fin := d.spring && decide (d.ticks ≠ 0 ∧ d.ticks ≤ n)
      have r := { r with nextK := k + 1, counted := n, done := fin, on := !fin, lead := r.lead || d.spring }
      let shift := if d.spring then s.fld Fd.SMP_SLOW_SHIFT else 0
      have s := s.setGrun g r
      if k % 2 ^ shift ≠ 0 then s.smpVote
      else if r.gather.isSome then
        ((s.setGrun g { r with gapOwed := true }).bump Fd.SMP_CNT_OVERRUN).fault .smp 0 1
      else
        have s := if d.spring then s.voteUp .smp else s
        if d.spring ∧ !s.primed ∧ 4 ≤ s.springHeld then s.springMissed g else s.gatherStart g k shift r d ms ver next mixed
    else s
  | none => s

def execGroupTick (g : Nat) (s : State) : Host.Outcome State Fault Refusal := done (groupTick g s)

/-! ### Rows complete (R132, R79, R80, R152) -/

/-- Bytes of the rows in a buffer, in the form of R132. -/
def rowsBytes (l : List Row) : Nat := l.foldl (fun n r => n + 40 + 8 * r.count) 0

/-- `PWR_STAGE.FILL` follows the staging buffer, in units of 512 bytes rounded up. -/
def State.stageFill (s : State) : State := s.setFld Fd.PWR_STAGE_FILL 0 (ceilDiv (rowsBytes s.cmp.stage) 512)

/-- CMP's vote by staging fill (Table 03-4). -/
def State.cmpVote (s : State) : State :=
  if s.live .cmp ∧ s.fld Fd.PWR_CFG_STAGE_LEVEL * 65536 ≤ rowsBytes s.cmp.stage then s.voteUp .cmp else s

/-- A row is lost: the group's next row carries GAP. -/
def State.rowLost (s : State) (g : Nat) : State := s.setGrun g { s.grun g with gapOwed := true }

/-- A base row enters the staging buffer of 1 MiB (R79). -/
def State.stageRow (s : State) (row : Row) : State :=
  if rowsBytes s.cmp.stage + 40 + 8 * row.count ≤ 2 ^ 20 then
    { s with cmp := { s.cmp with stage := s.cmp.stage ++ [row] } }.stageFill.cmpVote
  else (((s.bump Fd.PWR_STAGE_OVF_ROWS).item 7).rowLost row.group).fault .cmp 0 0

/-- A spring row taken before PRIMED enters the priming buffer, which kept room for it at its tick; a later one the live queue of 2
(R80, R152). -/
def State.springRow (s : State) (row : Row) : State :=
  if row.flags.getLsbD 3 then
    have s := { s with cmp := { s.cmp with springB := s.cmp.springB ++ [row] } }
    s.setFld Fd.PWR_SPRING_HWM 0 (max (s.fld Fd.PWR_SPRING_HWM) s.cmp.springB.length)
  else if s.cmp.liveQ.length < 2 then { s with cmp := { s.cmp with liveQ := s.cmp.liveQ ++ [row] } }
  else (s.bump Fd.CMP_ENC_CNT_SPRING_DROP).rowLost row.group

/-- ROW_COMPLETE: every well has given its samples. EPR folds the row, then it goes to its buffer. -/
def rowComplete (g : Nat) (s : State) : State :=
  match (s.grun g).gather with
  | some x =>
    if x.owed.isEmpty then
      let row := x.row
      let spring := row.flags.getLsbD 2
      have s := s.setGrun g { s.grun g with gather := none }
      let stale := (row.ctrs.filter fun c => row.stale.getLsbD (c / 256)).length
      have s := ((s.item (if spring then 4 else 3)).item 5 row.count).item 6 stale
      have s := (s.ev .smp 0 2 row.count).ev .smp 0 3 stale
      have s := (s.eprFold row x.prev).eprLate
      (if spring then s.springRow row else s.stageRow row).smpVote
    else s
  | none => s

def execRowComplete (g : Nat) (s : State) : Host.Outcome State Fault Refusal := done (rowComplete g s)

/-- STAGE_AGE_VOTE: the oldest staged row has become older than STAGE_AGE (Table 03-4). -/
def stageAgeVote (s : State) : State :=
  match s.cmp.stage with
  | r :: _ =>
    if s.live .cmp then (s.reachTime (r.time + s.fld Fd.PWR_CFG_STAGE_AGE * units10us + 1)).voteUp .cmp else s
  | [] => s

def execStageAgeVote (s : State) : Host.Outcome State Fault Refusal := done (stageAgeVote s)

/-! ### Spring commands (R129) -/

/-- A refused spring command. -/
def State.springRefused (s : State) : State := (s.pgErr .smp 0 .unit 0x60 1).bump Fd.SMP_CNT_CMD_REFUSED

/-- A write of `SMP_SPRING_CMD`. -/
def springCmd (d : Word) (s : State) : State :=
  let op := bits d.toNat 9 8
  let g := bits d.toNat 5 0
  let r := s.grun g
  match s.smp.active.groups.get? g with
  | some x =>
    if !x.valid ∨ !x.spring then s.springRefused
    else if op = 1 ∧ !r.on then
      have s := s.setGrun g { r with on := true, counted := 0, done := false, lead := true, nextK := s.tickFrom x (s.now + 1) }
      (s.eprForget g).voteUp .smp
    else if op = 2 ∧ r.on then (s.setGrun g { r with on := false, lead := false, old := none }).smpVote
    else s.springRefused
  | none => s.springRefused

def execSpringStart (q : Req) (g : Nat) (s : State) : Host.Outcome State Fault Refusal :=
  let d := BitVec.ofNat 64 (256 + g % 64)
  done (s.rowWrite q .smp 0 0x60 d fun s => (springCmd d s).okay)

def execSpringStop (q : Req) (g : Nat) (s : State) : Host.Outcome State Fault Refusal :=
  let d := BitVec.ofNat 64 (512 + g % 64)
  done (s.rowWrite q .smp 0 0x60 d fun s => (springCmd d s).okay)

/-- SLOW_DOWN_MSG (R130). -/
def slowDownMsg (shift : Nat) (s : State) : State :=
  if s.isTray then s else (s.setFld Fd.SMP_SLOW_SHIFT 0 shift).bumpW Fd.SMP_SLOW_MSGS

def execSlowDownMsg (shift : Nat) (s : State) : Host.Outcome State Fault Refusal := done (slowDownMsg shift s)

end Sys2Proof.Machine
end

