-- ==== Sys2Proof/Machine/Plans.lean ====
section
/-! DEFINITION. Sampling plans (05.4): validation, the commit and the background rebuild of the plan bank, SMP's window and
reset. -/

namespace Sys2Proof.Machine

/-! ### Validation (R125, R126, Table 05-3) -/

/-- The valid groups of a plan. -/
def Plan.live (p : Plan) : List (Nat × GDesc) := p.groups.filter fun x => x.2.valid

/-- Causes 1 to 4 of one descriptor. -/
def GDesc.bad (d : GDesc) (cause : Nat) : Bool :=
  if cause = 1 then
    (if d.spring then decide (d.period < 1 ∨ 100000 < d.period) else decide (d.period < 100 ∨ 10000000 < d.period))
  else if cause = 2 then decide (d.period ≤ d.phase)
  else if cause = 3 then d.mode == 3 || (!d.spring && (d.mode == 2 || d.ticks != 0))
  else decide (d.count < 1 ∨ 1024 < d.count ∨ 13312 < d.first + d.count)

/-- The lowest group that fails a test. -/
def groupBad (gs : List (Nat × GDesc)) (f : GDesc → Bool) : Option Nat := (gs.find? fun x => f x.2).map (·.1)

/-- The lowest group with a counter met before in a group of its kind, or twice in itself (cause 6). -/
def firstDup (p : Plan) : List (Nat × GDesc) → List Nat → List Nat → Option Nat
  | [], _, _ => none
  | (g, d) :: r, base, spring =>
    let ms := p.membersOf d
    let seen := if d.spring then spring else base
    if ms.eraseDups.length ≠ ms.length ∨ ms.any (fun c => seen.contains c) then some g
    else if d.spring then firstDup p r base (spring ++ ms) else firstDup p r (base ++ ms) spring

/-- A member that a plan may not name (cause 5). -/
def unfitted (tie : BitVec 48) (slots : Nat → SMap Slot) (c : Nat) : Bool :=
  let w := c / 256
  decide (48 ≤ w) || tie.getLsbD w || ((slots w).getD (c % 256) ⟨0, 0⟩).width == 0

/-- Bus load of groups in AON cycles a second, as a fraction (check 9). -/
def busLoad (gs : List (Nat × GDesc)) : Nat × Nat := sumFrac (gs.map fun x => (ceilDiv x.2.count 4 * 100000, x.2.period))

/-- The whole-plan causes 7, 8 and 9; 0 when none fails. -/
def planTotals (gs : List (Nat × GDesc)) : Nat :=
  let sp := gs.filter fun x => x.2.spring
  let count := fun (l : List (Nat × GDesc)) => (l.map fun x => x.2.count).sum
  let rate := sumFrac (sp.map fun x => (x.2.count * 100000, x.2.period))
  let load := busLoad gs
  if 12288 < count (gs.filter fun x => !x.2.spring) then 7
  else if 1024 < count sp ∨ 102400000 * rate.2 < rate.1 then 8
  else if 50000000 * load.2 < load.1 then 9 else 0

/-- The lowest cause and, for it, the lowest group; cause 0 for a valid plan. -/
def validate (tie : BitVec 48) (slots : Nat → SMap Slot) (p : Plan) : Nat × Nat :=
  let gs := p.live
  match [1, 2, 3, 4].findSome? fun c => (groupBad gs fun d => d.bad c).map fun g => (c, g) with
  | some r => r
  | none => match groupBad gs fun d => (p.membersOf d).any (unfitted tie slots) with
    | some g => (5, g)
    | none => match firstDup p gs [] [] with
      | some g => (6, g)
      | none => (planTotals gs, 0)

/-- The staged plan is validated and `SMP_CHECK` reports (R126); the cause. LOAD is rounded down (DESIGN CHOICE, log entry 121). -/
def State.smpCheck (s : State) (slots : Nat → SMap Slot) : Nat × State :=
  let (c, g) := validate s.chip.wellTie slots s.smp.staged
  let load := busLoad s.smp.staged.live
  let v := 2 ^ 63 + b2n (c == 0) * 2 ^ 62 + c * 2 ^ 48 + g * 2 ^ 40 + load.1 / (load.2 * 1000) % 2 ^ 32
  (c, s.setReg Rg.SMP_CHECK 0 (BitVec.ofNat 64 v))

/-- A write of `SMP_VALIDATE` (R126). DONE falls at GO and the other fields stay until the validation ends (DESIGN CHOICE, log
entry 122). -/
def smpValidate (d : Word) (s : State) : State :=
  if d.getLsbD 0 then { s with smp := { s.smp with valDue := some (s.aon + 13312) } }.setFld Fd.SMP_CHECK_DONE 0 0 else s

def execSmpValidate (q : Req) (d : Word) (s : State) : Host.Outcome State Fault Refusal :=
  done (s.rowWrite q .smp 0 0x48 d fun s => (smpValidate d s).okay)

/-- SMP_VALIDATE_DONE: the check reads the staged bank of wells whose page holds staged values, the active one of the others. -/
def smpValidateDone (s : State) : State :=
  if s.smp.valDue.isSome then
    { (s.smpCheck fun w => if s.isMarked .wel w then (s.well w).staged else (s.well w).active).2 with
      smp := { s.smp with valDue := none } }
  else s

def execSmpValidateDone (s : State) : Host.Outcome State Fault Refusal := done (smpValidateDone s)

/-! ### Commit and rebuild (R127, R128) -/

/-- What one group does at a commit from plan `a` to plan `b`. -/
def GRun.replan (r : GRun) (a b : Plan) (g due : Nat) : GRun :=
  let da := (a.groups.get? g).filter (·.valid)
  let db := (b.groups.get? g).filter (·.valid)
  match da, db with
  | _, none => { r with on := false, lead := false, old := none, rebuild := none }
  | none, some _ => { r with on := false, lead := false, old := none, counted := 0, done := false, rebuild := some due }
  | some x, some y =>
    if x = y ∧ a.membersOf x = b.membersOf y then r
    else if x.mode ≠ y.mode then
      { r with on := false, lead := false, old := none, counted := 0, done := false, rebuild := some due }
    else
      { r with rebuild := some due, old := if r.on then r.old.orElse fun _ => some (x, a.membersOf x, a.ver) else none }

/-- A valid staged plan becomes active (R127, R128): changed groups rebuild in the background. -/
def State.smpApply (s : State) : State :=
  let a := s.smp.active
  let b := { s.smp.staged with ver := s.fld Fd.SMP_PLAN_PLAN_VER }
  let gs := ((a.groups.map (·.1)) ++ (b.groups.map (·.1))).eraseDups
  let runs := gs.foldl (fun (m : SMap GRun) g => m.set g ((m.getD g GRun.rest).replan a b g (s.aon + 13312))) s.smp.runs
  let busy := runs.any fun x => x.2.rebuild.isSome
  { s with smp := { s.smp with active := b, staged := b, runs, pending := busy } }.smpVote

/-- An invalid plan leaves the active one in force (R127). -/
def State.smpRefuse (s : State) : State :=
  ({ s with smp := { s.smp with pending := false } }.bump Fd.SMP_CNT_REJECT).fault .smp 0 0

/-- The staged plan is valid at its commit, over the slot tables as they stand after it (R126); `SMP_CHECK` reports. -/
def State.smpCommitOk (s : State) : Bool × State :=
  let (c, s) := s.smpCheck fun w => (s.well w).active
  (c == 0, s)

/-- A commit of the page alone: COMMIT_MODE DIRECT. A rebuild makes the record that is open CFG_MIXED (R530). -/
def State.smpDirect (s : State) : State :=
  let (ok, s) := s.smpCommitOk
  if ok then
    have s := (((s.setReg Rg.SMP_PLAN 0 (s.stagedReg Rg.SMP_PLAN)).unstage .smp 0).smpApply).bgAlone s.bgPending
    have o := if s.smp.pending then s.epr.openRec.map fun (r : OpenRec) => { r with flags := r.flags ||| 4 } else s.epr.openRec
    { s with epr := { s.epr with openRec := o } }
  else (s.unstage .smp 0).smpRefuse

/-- SMP_PLAN_WRITE (R127): the staged bank is marked for commit. -/
def smpPlanWrite (d : Word) (s : State) : State :=
  { s with smp := { s.smp with pending := true } }.plainWrite .smp 0 0x40 0 d State.smpDirect

def execSmpPlanWrite (q : Req) (d : Word) (s : State) : Host.Outcome State Fault Refusal :=
  done (s.rowWrite q .smp 0 0x40 d fun s => (smpPlanWrite d s).okay)

/-- The first tick of a rebuilt group: after now, and for AT_EPOCH not before its START_EPOCH (R128). -/
def State.firstTick (s : State) (d : GDesc) : Nat :=
  let k := s.tickFrom d (s.now + 1)
  if d.mode = 1 then max k (s.tickFrom d (s.boundary d.startEp)) else k

/-- PLAN_REBUILD_DONE: the group's rebuild completes. A spring of START_MODE 0 or 1 that a STOP stopped during the rebuild starts here
without a START, as every group started by commit does (DESIGN CHOICE, log entry 123). -/
def planRebuildDone (g : Nat) (s : State) : State :=
  let r := s.grun g
  if r.rebuild.isSome then
    have s := s.eprForget g
    have r' := match s.smp.active.groups.get? g with
      | some d =>
        if d.mode ≠ 2 then
          { r with rebuild := none, old := none, on := true, counted := 0, done := false, nextK := s.firstTick d }
        else if r.on ∧ (d.ticks = 0 ∨ r.counted < d.ticks) then
          { r with rebuild := none, old := none, nextK := s.tickFrom d (s.now + 1) }
        else { r with rebuild := none, old := none, on := false, lead := false }
      | none => { r with rebuild := none, old := none, on := false, lead := false }
    have s := s.setGrun g r'
    let busy := s.smp.runs.any fun x => x.2.rebuild.isSome
    { s with smp := { s.smp with pending := busy } }.smpVote
  else s

def execPlanRebuildDone (g : Nat) (s : State) : Host.Outcome State Fault Refusal := done (planRebuildDone g s)

/-! ### The grid moves (R99, R124) -/

/-- After a forward step no group ticks for the instants passed over. -/
def State.smpStepped (s : State) : State :=
  have runs := s.smp.runs.mapV fun g r =>
    match s.groupDef g with
    | some (d, _) => { r with nextK := max r.nextK (s.tickFrom d s.now) }
    | none => r
  { s with smp := { s.smp with runs } }

/-- After a commit of a new grid the tick indexes are those of the new origin (R12, R124). -/
def State.smpRegrid (s : State) : State :=
  have runs := s.smp.runs.mapV fun g r =>
    match s.groupDef g with
    | some (d, _) => { r with nextK := s.tickFrom d s.freshTime }
    | none => r
  { s with smp := { s.smp with runs } }

/-! ### The window (R141, Table 05-12) -/

/-- An empty group entry. -/
def GDesc.rest : GDesc :=
  { valid := false, spring := false, mode := 0, period := 0, phase := 0, first := 0, count := 0, startEp := 0, ticks := 0 }

/-- A group entry as window words. -/
def GDesc.words (d : GDesc) : List Word :=
  [BitVec.ofNat 64 (b2n d.valid * 2 ^ 63 + b2n d.spring * 2 ^ 62 + d.mode * 2 ^ 60 + d.period * 2 ^ 32 + d.phase),
   BitVec.ofNat 64 (d.first * 2 ^ 32 + d.count), BitVec.ofNat 64 d.startEp, BitVec.ofNat 64 d.ticks]

/-- READ of a bank. -/
def smpTblRead (p : Plan) (t idx : Nat) (s : State) : WinOut :=
  if 1 < t then s.win 3
  else if (if t = 0 then 64 else 13312) ≤ idx then s.win 2
  else if t = 0 then s.winData (p.groups.getD idx GDesc.rest).words
  else s.winData [BitVec.ofNat 64 (p.members.getD idx 0)]

def execSmpTblRead (q : Req) (t idx : Nat) (s : State) : Host.Outcome State Fault Refusal :=
  done (s.winCmd q .smp 0 t 1 idx fun s => smpTblRead s.smp.staged t idx s)

def execSmpTblReadActive (q : Req) (t idx : Nat) (s : State) : Host.Outcome State Fault Refusal :=
  done (s.winCmd q .smp 0 t 4 idx fun s => smpTblRead s.smp.active t idx s)

/-- WRITE of a staged entry. -/
def smpTblWrite (t idx : Nat) (s : State) : WinOut :=
  let w := fun k => (s.data .smp 0 k).toNat
  let p := s.smp.staged
  if 1 < t then s.win 3
  else if (if t = 0 then 64 else 13312) ≤ idx then s.win 2
  else if s.smp.pending then s.win 5
  else
    have d : GDesc :=
      { valid := bit (w 0) 63, spring := bit (w 0) 62, mode := bits (w 0) 61 60, period := bits (w 0) 55 32
        phase := bits (w 0) 31 0, first := bits (w 1) 45 32, count := bits (w 1) 10 0, startEp := bits (w 2) 39 0
        ticks := bits (w 3) 31 0 }
    have p := if t = 0 then { p with groups := p.groups.set idx d } else { p with members := p.members.set idx (bits (w 0) 13 0) }
    { s with smp := { s.smp with staged := p } }.win 0

def execSmpTblWrite (q : Req) (t idx : Nat) (s : State) : Host.Outcome State Fault Refusal :=
  done (s.winCmd q .smp 0 t 2 idx (smpTblWrite t idx))

/-! ### Reset -/

/-- `PG_CTRL.UNIT_RESET` of SMP (R552). -/
def smpReset (s : State) : State :=
  have s := (List.range 48).foldl (fun s w => if (s.owedSlots w).isEmpty then s else s.welAbandon w) s
  have s := s.smp.runs.foldl (fun s (x : Nat × GRun) => s.eprForget x.1) s
  have runs := s.smp.runs.mapV fun g r =>
    let cmd := ((s.smp.active.groups.get? g).map fun d => d.mode == 2).getD true
    { r with gather := none, gapOwed := true, lead := false, old := none
             on := !cmd && !r.done && r.rebuild.isNone }
  ({ s with smp := { s.smp with runs, pending := runs.any fun x => x.2.rebuild.isSome, valDue := none } }.eprLate).smpVote

end Sys2Proof.Machine
end

