-- ==== Sys2Proof/Machine/Crypto.lean ====
section
/-! DEFINITION. The check functions the manual names for signed images (R261, R454): SHA-384 and ECDSA P-384 verification, as
their public standards define them. -/

namespace Sys2Proof.Machine

/-! ### SHA-384 -/

/-- `r` with the bits below bit `b` that make it the largest whole number whose `k`-th power is at most `n`. -/
def rootBits (k n : Nat) : Nat → Nat → Nat
  | 0, r => r
  | b + 1, r => rootBits k n b (if (r + 2 ^ b) ^ k ≤ n then r + 2 ^ b else r)

/-- The first 64 bits of the fraction of the `k`-th root of a prime below 512. -/
def rootWord (k p : Nat) : BitVec 64 := BitVec.ofNat 64 (rootBits k (p * 2 ^ (64 * k)) 69 0)

/-- The first 80 primes. -/
def shaPrimes : List Nat := (List.range 410).filter fun n => decide (2 ≤ n) && (List.range 19).all fun d => n % (d + 2) ≠ 0 || n == d + 2

/-- The round constants are cube roots of the first 80 primes. -/
def shaK : List (BitVec 64) := shaPrimes.map (rootWord 3)

/-- The exclusive or of two rotations of a word and a third word. -/
def turned (x : BitVec 64) (i j : Nat) (y : BitVec 64) : BitVec 64 := x.rotateRight i ^^^ (x.rotateRight j ^^^ y)

/-- The working variables: what the first four, and the last four, have been in the latest four rounds, newest first. -/
structure ShaVars where
  top : List (BitVec 64)
  low : List (BitVec 64)
  deriving DecidableEq, Repr

/-- The initial hash value is square roots of the 9th to 16th primes. -/
def shaInit : ShaVars :=
  let h := ((shaPrimes.drop 8).take 8).map (rootWord 2)
  ⟨h.take 4, h.drop 4⟩

/-- A round with message word `m` and constant `k`. -/
def ShaVars.round (v : ShaVars) (m k : BitVec 64) : ShaVars :=
  match v.top, v.low with
  | [a, b, c, d], [e, f, g, h] =>
    let t := k + m + h + ((f &&& e) ||| (g &&& ~~~e)) + turned e 14 18 (e.rotateRight 41)
    ⟨[turned a 28 34 (a.rotateRight 39) + ((b &&& (a ||| c)) ||| (a &&& c)) + t, a, b, c], [t + d, e, f, g]⟩
  | _, _ => v

/-- Rounds with the constants left; the window is the 16 message words from the round's own on, and the word that enters it follows from
them. -/
def ShaVars.rounds (v : ShaVars) : List (BitVec 64) → List (BitVec 64) → ShaVars
  | [], _ => v
  | k :: ks, win =>
    let w := fun (i : Nat) => win.getD i 0
    let enter := w 0 + turned (w 1) 1 8 (w 1 >>> 7) + w 9 + turned (w 14) 19 61 (w 14 >>> 6)
    (v.round (w 0) k).rounds ks (win.tail ++ [enter])

/-- Blocks of 128 bytes of a padded message, `n` of them. -/
def ShaVars.blocks (v : ShaVars) : Nat → Bytes → ShaVars
  | 0, _ => v
  | n + 1, m =>
    let r := v.rounds shaK ((List.range 16).map fun i => BitVec.ofNat 64 (rdBE m (8 * i) 8))
    ShaVars.blocks ⟨List.zipWith (· + ·) v.top r.top, List.zipWith (· + ·) v.low r.low⟩ n (m.drop 128)

/-- SHA-384 of a byte string, as a big-endian number: the first six of the eight words. -/
def sha384 (m : Bytes) : Nat :=
  let whole := (m.length + 16) / 128 + 1
  let fill := 128 * whole - 17 - m.length
  let v := shaInit.blocks whole (m ++ 0x80 :: (List.replicate fill 0 ++ beBytes 16 (8 * m.length)))
  (v.top ++ v.low.take 2).foldl (fun n x => n * 2 ^ 64 + x.toNat) 0

/-! ### ECDSA P-384 -/

/-- The prime, the coefficient b, the group order and the base point of P-384. -/
def ecP : Nat := 2 ^ 384 - 2 ^ 128 - 2 ^ 96 + 2 ^ 32 - 1
def ecB : Nat := 0xb3312fa7e23ee7e4988e056be3f82d19181d9c6efe8141120314088f5013875ac656398d8a2ed19d2a85c8edd3ec2aef
def ecN : Nat := 0xffffffffffffffffffffffffffffffffffffffffffffffffc7634d81f4372ddf581a0db248b0a77aecec196accc52973
def ecG : Nat × Nat := (0xaa87ca22be8b05378eb1c71ef320ad746e1d3b628ba79b9859f741e082542a385502f25dbf55296c3a545e3872760ab7,
  0x3617de4a96262c6f5d9e98bf9292dc29f8f41dbd289a147ce9da3113b5f0b8c00a60b1ce1d7e819d7a431d7c90ea0e5f)

/-- `b` to the power `e` modulo `m`, by the bits of `e`. -/
def powMod (m : Nat) : Nat → Nat → Nat → Nat
  | 0, _, _ => 1
  | n + 1, b, e =>
    let r := powMod m n (b * b % m) (e / 2)
    if e % 2 = 1 then r * b % m else r

/-- The inverse modulo a prime of 384 bits. -/
def invMod (m x : Nat) : Nat := powMod m 384 (x % m) (m - 2)

/-- A point in Jacobian coordinates: (X/Z², Y/Z³), the point at infinity where Z is 0. -/
abbrev EcPoint := Nat × Nat × Nat

/-- The difference modulo the prime. -/
def ecSub (a b : Nat) : Nat := (a + (ecP - b % ecP)) % ecP

/-- Twice a point. -/
def ecDbl : EcPoint → EcPoint
  | (x, y, z) =>
    let yy := y * y % ecP
    let zz := z * z % ecP
    let s := 4 * x * yy % ecP
    let m := 3 * ecSub x zz * (x + zz) % ecP
    let u := ecSub (m * m) (2 * s)
    (u, ecSub (m * ecSub s u) (8 * yy * yy), 2 * y * z % ecP)

/-- The sum of two points. -/
def ecAdd : EcPoint → EcPoint → EcPoint
  | (x, y, z), (a, b, c) =>
    if z = 0 then (a, b, c)
    else if c = 0 then (x, y, z)
    else
      let zz := z * z % ecP
      let cc := c * c % ecP
      let u := x * cc % ecP
      let s := y * cc % ecP * c % ecP
      let h := ecSub (a * zz) u
      let r := ecSub (b * zz % ecP * z) s
      if h = 0 then (if r = 0 then ecDbl (x, y, z) else (1, 1, 0))
      else
        let hh := h * h % ecP
        let v := u * hh % ecP
        let e := ecSub (r * r) (h * hh + 2 * v)
        (e, ecSub (r * ecSub v e) (s * h % ecP * hh), h * z % ecP * c % ecP)

/-- `k` times a point, by the bits of `k`. -/
def ecMul : Nat → Nat → EcPoint → EcPoint
  | 0, _, _ => (1, 1, 0)
  | n + 1, k, p =>
    let r := ecMul n (k / 2) (ecDbl p)
    if k % 2 = 1 then ecAdd r p else r

/-- ECDSA P-384 verification of signature (r, s) of hash `h` under public key (x, y). -/
def ecdsaOk (h x y r s : Nat) : Bool :=
  decide (x < ecP ∧ y < ecP ∧ (y * y) % ecP = (x * x * x + (ecP - 3) * x + ecB) % ecP ∧ 0 < r ∧ r < ecN ∧ 0 < s ∧ s < ecN) &&
    (let w := invMod ecN s
     let g : EcPoint := (ecG.1, ecG.2, 1)
     match ecAdd (ecMul 384 (h * w % ecN) g) (ecMul 384 (r * w % ecN) (x, y, 1)) with
     | (u, _, z) => z != 0 && u * invMod ecP (z * z) % ecP % ecN == r)

end Sys2Proof.Machine
end

