-- ==== Sys2Proof/Machine/Degrade.lean ====
section
/-! DEFINITION. A core's reset and traps (R262, R268), the journal of the NV state (R470 to R472), transients and degradation
(R462, R463): what follows when a fault counts against a unit. -/

namespace Sys2Proof.Machine

/-! ### Cores -/

/-- A core at reset (Table 10-4). -/
def CoreSt.rest : CoreSt :=
  { imem := [], dmem := [], entry := 0, pc := 0, inTrap := false, mcause := 0, mtval := 0, mepc := 0, regHi := 0, rstat := 0
    rdata := 0, mbxOut := 0, inQ := [], outQ := [], eftOpt := 0, eftKey := 0, eftBuf := 0, eftRes := 0, eftIdx := 0
    eftBusy := false, mtimecmp := BitVec.allOnes 64, resv := none, irq := 0, host := none, kickAt := 0, counted := 0
    barked := false }

def State.core (s : State) (c : Nat) : CoreSt := s.cor.cores.getD c CoreSt.rest
def State.setCore (s : State) (c : Nat) (k : CoreSt) : State := { s with cor := { s.cor with cores := s.cor.cores.set c k } }

/-- Bit `c` of a core mask register. -/
def State.coreBit (s : State) (r : Reg) (c : Nat) : Bool := (s.reg r).getLsbD c

/-- A core mask register with bit `c` set or clear. -/
def State.setCoreBit (s : State) (r : Reg) (c : Nat) (b : Bool) : State :=
  s.setReg r 0 (BitVec.ofNat 64 (putBits (s.reg r).toNat c c (b2n b)))

/-- A core executes: its RUN bit is set, it is not halted, the fast domain is primed. -/
def State.coreRuns (s : State) (c : Nat) : Bool :=
  s.coreBit Rg.COR_RUN c && !s.coreBit Rg.COR_HALTED c && s.primed && !s.inReset .cor 0

/-- A core is reset (R262): accesses dropped, mailboxes emptied, local registers at reset; its memories are kept. -/
def State.coreReset (s : State) (c : Nat) : State :=
  let k := s.core c
  (s.setCore c { CoreSt.rest with imem := k.imem, dmem := k.dmem, entry := k.entry }).endXfer 7 c

/-- A core begins at ENTRY (R262). -/
def State.coreStart (s : State) (c : Nat) : State :=
  have s := s.coreReset c
  s.setCore c { s.core c with pc := BitVec.ofNat 32 (s.core c).entry, kickAt := s.aon }

/-- `COR_LAST` (Table 10-8). -/
def State.corLast (s : State) (c cause : Nat) (pc : BitVec 32) : State :=
  s.setReg Rg.COR_LAST 0 (BitVec.ofNat 64 (2 ^ 63 + c * 2 ^ 48 + cause * 2 ^ 40 + pc.toNat))

/-- A core takes a trap (R268): a synchronous exception in a trap halts it. -/
def State.coreTrap (s : State) (c : Nat) (pc cause tval : BitVec 32) : State :=
  let k := s.core c
  if cause.getLsbD 31 = false ∧ k.inTrap then
    have s := (s.setCoreBit Rg.COR_HALTED c true).endXfer 7 c
    (s.corLast c 1 pc).fault .cor 0 2
  else s.setCore c { k with inTrap := true, mcause := cause, mepc := pc, mtval := tval, pc }

/-! ### The journal -/

/-- The first step of a commit: the state as it stands now, with GEN + 1, in the partition of `die` (R471). -/
def State.jourStart (s : State) (die : Nat) (st : NvState) : State :=
  { s with nvh := { s.nvh with commit := some { st with gen := (st.gen + 1) % 2 ^ 32 }, commitDie := die, jstep := 0 } }.emit
    (.nor "erase" die)

/-- The key of this instance's own partition. -/
def State.ownDie (s : State) : Nat := if s.isTray then 0 else s.chip.pkgDieIdx

/-- The state of a die as this owner holds it. -/
def State.dieState (s : State) (die : Nat) : NvState :=
  if die = s.ownDie then s.nvh.st else s.nvh.dieStates.getD die NvState.empty

/-- A change of a die's NV state is journaled (R470, R472): at once, or merged into a follow-on commit. A leaf that does not own the
NOR journals nothing. -/
def State.journalDie (s : State) (die : Nat) : State :=
  if !s.nvOwner ∨ !s.nvh.norOk then s
  else match s.nvh.commit with
  | none => s.jourStart die (s.dieState die)
  | some _ => if s.nvh.followOn.contains die then s else { s with nvh := { s.nvh with followOn := s.nvh.followOn ++ [die] } }

/-- A change of this die's NV state is journaled. -/
def State.journal (s : State) : State := s.journalDie s.ownDie

/-! ### Transients and degradation -/

/-- A unit's work ends as its UNIT_RESET would end it (R463, Table 18-2); a decoder goes on until the next boundary rebinds its
wellheads (R156). -/
def State.degradeStop (s : State) (u : Nat) : State :=
  if u < 8 then s.mxeEndAll u 3
  else if u < 12 then s.treEndAll (u - 8) 3
  else if 32 ≤ u then (s.setCoreBit Rg.COR_RUN (u - 32) false).coreReset (u - 32)
  else s

/-- A PERMANENT or SUSPECT unit (R463). -/
def State.degrade (s : State) (u : Nat) : State :=
  if s.fld Fd.SCR_CFG_AUTO_DEGRADE = 0 then s.fault .scr 0 2
  else
    let bit := BitVec.ofNat 64 (2 ^ u)
    have s := { s with scr := { s.scr with degAt := s.aon, degUnits := (if s.scr.degAt = s.aon then s.scr.degUnits else 0) ||| bit } }
    have s := s.setReg Rg.SCR_DEGRADED 0 (s.reg Rg.SCR_DEGRADED ||| bit)
    have s := { s with nvh := { s.nvh with st := { s.nvh.st with degraded := s.nvh.st.degraded ||| bit } } }
    have s := (s.degradeStop u).nvLog 7 u 0 0
    (s.fault .scr 0 2).journal

/-- One TRANSIENT of a unit (R462). -/
def State.transient (s : State) (u : Nat) : State :=
  let m := s.nvh.st.opMinutes
  let (cnt, start) := s.nvh.st.windows.getD u (0, 0)
  let (cnt, start) := if cnt = 0 ∨ s.fld Fd.SCR_CFG_TRANS_WIN_H * 60 ≤ m - start then (1, m) else (cnt + 1, start)
  have s := { s with nvh := { s.nvh with st := { s.nvh.st with windows := s.nvh.st.windows.set u (min cnt 0xFFFF, start) } } }
  if s.fld Fd.SCR_CFG_TRANS_LIMIT ≤ cnt ∧ (s.reg Rg.SCR_DEGRADED).getLsbD u = false then
    have s := (s.nvLog 11 u 0 0).degrade u
    if s.fld Fd.SCR_CFG_AUTO_DEGRADE = 0 then s.journal else s
  else s.journal

/-- The MXE patterns of an engine, to run ahead of the pass (R462). -/
def Scr.patternsOf (r : Scr) (e : Nat) : List (Nat × Nat) :=
  (r.pats.zipIdx.filter fun (p, _) => p.kind = 1 ∧ (p.inst = e ∨ p.inst = 0xFF)).map fun (_, i) => (i, e)

/-- The transients a command counted take their effect (R462). -/
def State.settleList (s : State) : List Nat → State
  | [] => s
  | c :: cs =>
    have s := s.transient (c % 256)
    have s := if 256 ≤ c ∧ s.enabled .scr ∧ s.fld Fd.SCR_CFG_RUN_EN = 1 then
        { s with scr := { s.scr with early := s.scr.early ++ s.scr.patternsOf (c % 256) } } else s
    s.settleList cs

/-- What a command left for screening is settled. -/
def State.settle (s : State) : State :=
  ({ s with scr := { s.scr with suspects := [] } }).settleList s.scr.suspects

end Sys2Proof.Machine
end

