-- ==== Sys2Proof/Machine/Mxe.lean ====
section
/-! DEFINITION. The MXE instructions (08.3, with the arithmetic of chapter 07): one command executes the instruction at which
the engine's run stands. -/

namespace Sys2Proof.Machine

/-! ### Instruction words (Tables 08-4, 08-5) -/

def opOf (w : Nat) : Nat := bits w 127 120
def vOf (w : Nat) : Bool := bit w 119
def ypOf (w : Nat) : Bool := bit w 118
def fOf (w : Nat) : Nat := bits w 105 100
def nbOf (w : Nat) : Nat := bits w 31 24 + 1
def accBase (w : Nat) : Nat := bits w 13 0
def opaAddr (w : Nat) : Nat := bits w 95 72
def opbAddr (w : Nat) : Nat := bits w 63 40
def rowsOf (w : Nat) : Nat := bits w 71 64 + 1
def kbOf (w : Nat) : Nat := bits w 39 32 + 1
def fmtHi (w : Nat) : Nat := bits w 111 109
def fmtLo (w : Nat) : Nat := bits w 108 106
def srcSel (w : Nat) : Nat := bits w 97 96

/-- KS of a format (Table 08-1). -/
def State.ks (s : State) (fmt : Nat) : Nat :=
  (if s.isTray then 2 else 1) * (if fmt = 0 then 16 else if fmt ≤ 2 then 64 else if fmt ≤ 4 then 128 else 256)

/-- Base cycles of an instruction (Table 08-6). -/
def State.baseCycles (s : State) (w : Nat) : Nat :=
  let bw := if s.isTray then 1024 else 256
  let ns := if s.isTray then 128 else 64
  match opOf w with
  | 0x00 => 1
  | 0x01 => 1
  | 0x10 => 2 + ceilDiv (32 * nbOf w) (if s.isTray then 1024 else 256)
  | 0x11 => 4 + ceilDiv ((if srcSel w = 1 then 4 else 8) * 32 * nbOf w) bw
  | 0x12 => (if s.isTray then 24 else 16) +
      rowsOf w * ceilDiv (32 * nbOf w) ns * ceilDiv (32 * kbOf w) (min (s.ks (fmtHi w)) (s.ks (fmtLo w)))
  | 0x20 => 8 + 2 * nbOf w
  | 0x21 => 4 + rowsOf w
  | 0x30 => 4 + ceilDiv (bits w 23 0) bw
  | _ => 0

/-! ### The run's position -/

/-- The run, its slot and the instruction it stands at, when the engine executes: in service, primed, in RUN or STALL_V, and
the instruction has opcode `op`. -/
def State.mxeAt (s : State) (e op : Nat) : Option (MRun × MSlot × Nat) :=
  let m := s.mx e
  match m.run with
  | none => none
  | some r =>
    let sl := m.slot r.slot
    let w := (m.imem.getD (sl.imemBase + r.index) 0).toNat
    if (m.mode = 1 ∨ m.mode = 2) ∧ s.primed ∧ (!s.outOfService .mxe e ∨ r.pattern) ∧ !s.inReset .mxe e ∧ r.index < sl.nInstr ∧
        opOf w = op then some (r, sl, w) else none

/-- The engine with its run changed. -/
def State.setRun (s : State) (e : Nat) (r : MRun) : State := s.setMx e { s.mx e with run := some r }

/-- An instruction retires (R203, R208, R513): its cycles, the next instruction, then STOP_AT, HALT's end or a yield point. -/
def State.mxeRetire (s : State) (e : Nat) (r : MRun) (w : Nat) (sent : Nat := 0) : State :=
  let b := s.baseCycles w
  have s := ((s.ev .mxe e 1 (b + sent)).ev .mxe e 3 b).ev .mxe e 4 sent
  have s := s.setMx e { s.mx e with
    mode := 1, run := some { r with index := r.index + 1, base := r.base + b, sent := r.sent + sent } }
  if opOf w = 0x01 then s.mxeEndRun e 0 0
  else if r.replay ∧ r.stop = r.index then s.setMx e { s.mx e with mode := 3 }
  else if ypOf w ∧ s.mxePreempted e then s.setMx e { s.mx e with mode := 3 }
  else s

/-- An instruction that executes: an uncorrectable read of its memories ends the run (Table 08-9 code 19). -/
def State.mxeDo (s : State) (e op : Nat) (ecc : Bool) (body : State → MRun → MSlot → Nat → State) : State :=
  match s.mxeAt e op with
  | none => s
  | some (r, sl, w) => (if ecc then s.mxeFault e 19 else body s r sl w).settle

/-- The time a V instruction has taken since its last event counts as stall (R203). -/
def State.mxeStall (s : State) (e : Nat) (r : MRun) (cyc : Nat) : State × MRun :=
  let r := { r with stall := r.stall + cyc }
  (((s.ev .mxe e 1 cyc).ev .mxe e 2 cyc).setRun e r, r)

/-- A V instruction waits in STALL_V (R208): an interruptible one gives way to a run of higher priority. -/
def State.mxeWait (s : State) (e : Nat) : State := (s.setMx e { s.mx e with mode := 2 }).mxeYieldStall e

/-! ### Counts and monitors (R183, R184) -/

/-- The events of an instruction join the engine's counters and the run's, and raise each limit once (R183, Table 07-9). -/
def State.mxeCounts (s : State) (e : Nat) (r : MRun) (c : ACnt) : State × MRun :=
  have s := (((s.bump Fd.MXE_SAT_CNT_SATURATIONS e c.sat).bump Fd.MXE_CLIP_CNT_CLIPPED e c.clip).bump
    Fd.MXE_LOSS_CNT_PRODUCTS e c.loss).bump Fd.MXE_FMT_CNT_MALFORMED e c.fmt
  let r1 := { r with sat := r.sat + c.sat, clip := r.clip + c.clip, loss := r.loss + c.loss, fmt := r.fmt + c.fmt }
  let hit := fun (lim n : Nat) (b : Nat) => decide (lim ≠ 0 ∧ lim ≤ n) && !r.raised.getLsbD b
  let a := r.acfg.toNat
  let h0 := hit (bits a 15 0) r1.sat 0
  let h1 := hit (bits a 31 16) r1.clip 1
  let h2 := hit (bits a 47 32) r1.loss 2
  have s := if h0 then s.fault .mxe e 0 else s
  have s := if h1 then s.fault .mxe e 1 else s
  have s := if h2 then s.fault .mxe e 2 else s
  have s := if r.fmt = 0 ∧ r1.fmt ≠ 0 then s.fault .mxe e 3 else s
  (s, { r1 with raised := r.raised ||| BitVec.ofNat 3 (b2n h0 + b2n h1 * 2 + b2n h2 * 4) })

/-- A requantisation updates the range monitor it names (R184): `ex` is the block's E, none for I32 output. -/
def State.rmon (s : State) (e j : Nat) (cfg : Word) (ex : Option Int) (width : Nat) : State :=
  if !cfg.getLsbD 63 then s
  else
    let c := cfg.toNat
    let g := Rg.MXE_RMON_STAT.nth j
    let v := (s.reg g e).toNat
    let seen := (s.mx e).eSeen.getLsbD j
    let out := match ex with
      | some x => decide (x < sext (bits c 5 0) 6 ∨ sext (bits c 13 8) 6 < x)
      | none => false
    let exc := out || decide (bits c 22 16 < width)
    let v1 := putBits v 31 0 (min (bits v 31 0 + 1) 0xFFFFFFFF)
    let v2 := putBits (putBits v1 50 44 (max (bits v 50 44) width)) 51 51 1
    let v3 := match ex with
      | some x =>
        let lo := if seen then min (sext (bits v 57 52) 6) x else x
        let hi := if seen then max (sext (bits v 63 58) 6) x else x
        putBits (putBits v2 57 52 (wrapI lo 6)) 63 58 (wrapI hi 6)
      | none => v2
    let v4 := if exc then putBits v3 43 32 (min (bits v 43 32 + 1) 0xFFF) else v3
    have s := s.setReg g e (BitVec.ofNat 64 v4)
    have s := if ex.isSome then s.setMx e { s.mx e with eSeen := (s.mx e).eSeen ||| BitVec.ofNat 16 (2 ^ j) } else s
    if exc ∧ bits v 43 32 = 0 then s.fault .mxe e 4 else s

/-! ### Memories -/

/-- Bytes of the slot's scratch region. -/
def Mxe.scr (m : Mxe) (sl : MSlot) (off n : Nat) : Bytes := Mem.read m.scratch (sl.scrBase + off) n

/-- Bytes written into the slot's scratch region. -/
def State.scrPut (s : State) (e : Nat) (sl : MSlot) (off : Nat) (b : Bytes) : State :=
  s.setMx e { s.mx e with scratch := Mem.write (s.mx e).scratch (sl.scrBase + off) b }

/-- A block record of scratch. -/
def Mxe.blk (m : Mxe) (sl : MSlot) (fmt off : Nat) : Blk := decodeBlk fmt (m.scr sl off (recBytes fmt))

/-- A lane, cleared where it was never written. -/
def Mxe.lane (m : Mxe) (l : Nat) : ALane := m.acc.getD l { acc := 0, sat := false }

/-- A signed word of scratch as an ACC value (R196): with I32, −2^31 is taken as 0. -/
def Mxe.word (m : Mxe) (sl : MSlot) (off k width : Nat) : Int :=
  let v := sext (leNat (m.scr sl (off + width * k) width)) (8 * width)
  if width = 4 ∧ v = -(2 ^ 31) then 0 else v

/-- Every group of a range has F state `f` (R191). -/
def Mxe.fOk (m : Mxe) (base groups f : Nat) : Bool :=
  (List.range groups).all fun g => m.fst.get? (base / 32 + g) == some f

/-! ### The instructions -/

/-- MXE_NOP (R193). -/
def execMxeNop (e : Nat) (ecc : Bool) (s : State) : Host.Outcome State Fault Refusal :=
  done (s.mxeDo e 0x00 ecc fun s r _ w => s.mxeRetire e r w)

/-- MXE_HALT (R213). -/
def execMxeHalt (e : Nat) (ecc : Bool) (s : State) : Host.Outcome State Fault Refusal :=
  done (s.mxeDo e 0x01 ecc fun s r _ w => s.mxeRetire e r w)

/-- Groups take an F state and lose their feed entries (R191, R205). -/
def Mxe.setGroups (m : Mxe) (base groups f : Nat) : Mxe :=
  (List.range groups).foldl (fun m g => { m with fst := m.fst.set (base / 32 + g) f, feed := m.feed.erase (base / 32 + g) }) m

/-- ACCLR (R195). -/
def mxeAcclr (e : Nat) (s : State) (r : MRun) (_ : MSlot) (w : Nat) : State :=
  let n := nbOf w
  let m := s.mx e
  let acc := (List.range (32 * n)).foldl (fun a i => SMap.erase a (accBase w + i)) m.acc
  (s.setMx e ({ m with acc }.setGroups (accBase w) n (fOf w))).mxeRetire e r w

def execMxeAcclr (e : Nat) (ecc : Bool) (s : State) : Host.Outcome State Fault Refusal :=
  done (s.mxeDo e 0x10 ecc (mxeAcclr e))

/-- ACCLD (R195). -/
def mxeAccld (e : Nat) (s : State) (r : MRun) (sl : MSlot) (w : Nat) : State :=
  let n := nbOf w
  let m := s.mx e
  let width := if srcSel w = 1 then 4 else 8
  let acc := (List.range (32 * n)).foldl (fun a i =>
    SMap.set a (accBase w + i) { acc := sext (leNat (m.scr sl (opaAddr w + width * i) width)) (8 * width), sat := false }) m.acc
  (s.setMx e ({ m with acc }.setGroups (accBase w) n (fOf w))).mxeRetire e r w

def execMxeAccld (e : Nat) (ecc : Bool) (s : State) : Host.Outcome State Fault Refusal :=
  done (s.mxeDo e 0x11 ecc (mxeAccld e))

/-- One lane of MMUL (R194, R174): the products over ascending k. -/
def mmulLane (f : Nat) (l : ALane) (c : ACnt) (xs ws : List Blk) : ALane × ACnt :=
  (xs.zip ws).foldl (fun (l, c) (a, b) =>
    let (p, lost) := blockProduct a b f
    let (l, sat) := accAdd l p
    (l, { c with loss := c.loss + b2n lost, sat := c.sat + b2n sat })) (l, c)

/-- MMUL (R194): a malformed operand block counts once for the instruction. -/
def mxeMmul (e : Nat) (s : State) (r : MRun) (sl : MSlot) (w : Nat) : State :=
  let m := s.mx e
  let (rows, kb, nb, f) := (rowsOf w, kbOf w, nbOf w, fOf w)
  if !m.fOk (accBase w) (rows * nb) f then s.mxeFault e 16
  else
    let xs := (List.range rows).map fun i => (List.range kb).map fun k => m.blk sl (fmtHi w) (opaAddr w + (i * kb + k) * recBytes (fmtHi w))
    let ws := (List.range (32 * nb)).map fun n => (List.range kb).map fun k => m.blk sl (fmtLo w) (opbAddr w + (n * kb + k) * recBytes (fmtLo w))
    let bad := (xs.flatten.filter (·.bad)).length + (ws.flatten.filter (·.bad)).length
    let (acc, c) := xs.zipIdx.foldl (fun st (x, i) =>
      ws.zipIdx.foldl (fun (a, c) (wt, n) =>
        let l := accBase w + i * 32 * nb + n
        let (v, c) := mmulLane f (SMap.getD a l { acc := 0, sat := false }) c x wt
        (SMap.set a l v, c)) st) (m.acc, { sat := 0, clip := 0, loss := 0, fmt := bad : ACnt })
    let feed := (List.range (rows * nb)).foldl (fun fd g =>
      SMap.set fd (accBase w / 32 + g) (SMap.getD fd (accBase w / 32 + g) [] ++ [kb])) m.feed
    have s := (s.setMx e { m with acc, feed }).ev .mxe e 6 (rows * 32 * nb * kb)
    let (s, r) := s.mxeCounts e r c
    s.mxeRetire e r w

def execMxeMmul (e : Nat) (ecc : Bool) (s : State) : Host.Outcome State Fault Refusal :=
  done (s.mxeDo e 0x12 ecc (mxeMmul e))

/-- One output block of RQ (R196): its bytes, clipped lanes, E (none for I32) and the largest bit length of |ACC|. -/
def rqBlock (w : Nat) (acc : List Int) : Bytes × Nat × Option Int × Nat :=
  let width := acc.foldl (fun a x => max a (accBits x)) 0
  if fmtHi w = 6 then
    let q := acc.map fun x => quant32 x (fOf w) (bits w 36 32)
    (q.flatMap fun x => leBytes 4 (wrapI x.1 32), (q.filter (·.2)).length, none, width)
  else
    let (m, ex, outl, q, clip) := requantise acc (fOf w) (fmtHi w) (bits w 108 107) (bits w 99 98) (bits w 55 48) (sext (bits w 45 40) 6)
    (encodeBlk (fmtHi w) m ex outl q, clip, some ex, width)

/-- The inputs of output block `b` of RQ (R196). -/
def rqInput (m : Mxe) (sl : MSlot) (w b : Nat) : List Int :=
  let width := if srcSel w = 1 then 4 else 8
  (List.range 32).map fun i =>
    if srcSel w = 0 then (m.lane (accBase w + 32 * b + i)).acc else m.word sl (bits w 23 0) (32 * b + i) width

/-- One output block of RQ is written and counted. -/
def State.rqPut (s : State) (e : Nat) (sl : MSlot) (w b : Nat) (r : MRun) (m : Mxe) : State × MRun :=
  let (bs, clip, ex, width) := rqBlock w (rqInput m sl w b)
  have s := s.scrPut e sl (opaAddr w + b * recBytes (fmtHi w)) bs
  let mon := bits w 59 56
  have s := if bit w 63 then s.rmon e mon (r.rcfg.getD mon 0) ex width else s
  let (s, r) := s.mxeCounts e r { sat := 0, clip, loss := 0, fmt := 0 }
  (s.ev .mxe e 5, { r with block := r.block + 1 })

/-- Blocks `b`, `b` + 1, … of RQ, `n` of them: `sent` collects replay cycles. A sentinel mismatch (`miss`: block, lane) ends the
run before its block is written (R185, R186, R205). -/
def rqBlocks (e : Nat) (sl : MSlot) (w : Nat) (miss : Option (Nat × Nat)) :
    Nat → Nat → Nat → State → MRun → State × MRun × Nat × Bool
  | 0, _, sent, s, r => (s, r, sent, true)
  | n + 1, b, sent, s, r =>
    let m := s.mx e
    let per := bits r.acfg.toNat 63 48
    let isSent := decide (per ≠ 0 ∧ (r.block + 1) % per = 0)
    let cost := if isSent ∧ srcSel w = 0 then
        ((m.feed.getD (accBase w / 32 + b) []).map fun kb => ceilDiv kb (if s.isTray then 4 else 1)).sum else 0
    have s := if isSent then s.bump Fd.MXE_SENT_CNT_CHECKED e else s
    match (if isSent then miss.filter fun x => x.1 == b else none) with
    | some (_, lane) =>
      have s := (s.bump Fd.MXE_SENT_CNT_MISMATCH e).setReg Rg.MXE_SENT_LAST e
        (BitVec.ofNat 64 (2 ^ 63 + lane % 32 * 2 ^ 32 + r.block % 2 ^ 32))
      (s.setRun e { r with sent := r.sent + sent + cost }, r, sent, false)
    | none =>
      let x := s.rqPut e sl w b r m
      rqBlocks e sl w miss n (b + 1) (sent + cost) x.1 x.2

/-- RQ (R196). -/
def mxeRq (e : Nat) (miss : Option (Nat × Nat)) (s : State) (r : MRun) (sl : MSlot) (w : Nat) : State :=
  if srcSel w = 0 ∧ !(s.mx e).fOk (accBase w) (nbOf w) (fOf w) then s.mxeFault e 16
  else
    let (s, r, sent, ok) := rqBlocks e sl w miss (nbOf w) 0 0 s r
    if ok then s.mxeRetire e r w sent else s.mxeFault e 20

def execMxeRq (e : Nat) (ecc : Bool) (miss : Option (Nat × Nat)) (s : State) : Host.Outcome State Fault Refusal :=
  done (s.mxeDo e 0x20 ecc (mxeRq e miss))

/-- An entry of a LUT. -/
def Mxe.lut (m : Mxe) (table i : Nat) : Int := sext (m.luts.getD (table * 256 + i) 0).toNat 8

/-- One block of ACT (R197): its bytes and clipped values. -/
def actBlock (m : Mxe) (sl : MSlot) (w : Nat) (b : Blk) : Bytes × Nat :=
  let t := b.v.map fun v => m.lut (sl.lutBase + bits w 103 100) (v + 128).toNat
  let fmt := fmtHi w
  let q := t.zipIdx.map fun (x, i) =>
    if b.idxs.contains i then x else if fmt = 5 then (if x < 0 then -1 else 1) else satI x (qMin fmt) (qMax fmt)
  let clip := (t.zipIdx.filter fun (x, i) => !b.idxs.contains i && fmt != 5 && decide (x < qMin fmt ∨ qMax fmt < x)).length
  (encodeBlk fmt (bits w 15 8) (sext (bits w 5 0) 6) b.idxs q, clip)

/-- Blocks of ACT in order; false where a block's scale is not the instruction's. -/
def actBlocks (e : Nat) (sl : MSlot) (w : Nat) : Nat → Nat → State → MRun → State × MRun × Bool
  | 0, _, s, r => (s, r, true)
  | n + 1, i, s, r =>
    let b := (s.mx e).blk sl (fmtLo w) (opbAddr w + i * recBytes (fmtLo w))
    let bad := b2n b.bad
    if b.m ≠ bits w 31 24 ∨ b.e ≠ sext (bits w 21 16) 6 then
      let (s, r) := s.mxeCounts e r { sat := 0, clip := 0, loss := 0, fmt := bad }
      (s.setRun e r, r, false)
    else
      let (bs, clip) := actBlock (s.mx e) sl w b
      let (s, r) := (s.scrPut e sl (opaAddr w + i * recBytes (fmtHi w)) bs).mxeCounts e r { sat := 0, clip, loss := 0, fmt := bad }
      actBlocks e sl w n (i + 1) s r

/-- ACT (R197). -/
def mxeAct (e : Nat) (s : State) (r : MRun) (sl : MSlot) (w : Nat) : State :=
  let (s, r, ok) := actBlocks e sl w (rowsOf w) 0 s r
  if ok then s.mxeRetire e r w else s.mxeFault e 17

def execMxeAct (e : Nat) (ecc : Bool) (s : State) : Host.Outcome State Fault Refusal :=
  done (s.mxeDo e 0x21 ecc (mxeAct e))

/-- CPY (R198). -/
def mxeCpy (e : Nat) (s : State) (r : MRun) (sl : MSlot) (w : Nat) : State :=
  (s.scrPut e sl (opaAddr w) ((s.mx e).scr sl (opbAddr w) (bits w 23 0))).mxeRetire e r w

def execMxeCpy (e : Nat) (ecc : Bool) (s : State) : Host.Outcome State Fault Refusal :=
  done (s.mxeDo e 0x30 ecc (mxeCpy e))

/-- The host address of LDH and STH (R199). -/
def hostLine (sl : MSlot) (w : Nat) : Nat := sl.hostVa + 256 * bits w 31 0

/-- LDH and STH (R199): the transfer begins and the engine waits, or goes on waiting; once every line has moved (`fin` takes the lines
read), the instruction retires, and gives way to a run of higher priority launched meanwhile (R209). -/
def State.mxeLines (s : State) (e cyc : Nat) (r : MRun) (w : Nat) (start : State → State) (fin : Bytes → State → State) :
    State :=
  let waiting := (s.mx e).mode = 2
  let (s, r) := s.mxeStall e r cyc
  if !waiting then (start s).mxeWait e
  else match s.carried 3 e with
  | none => s
  | some b =>
    have s := ((fin b s).endXfer 3 e).mxeRetire e r w
    if (s.mx e).mode = 1 ∧ s.mxePreempted e then s.setMx e { s.mx e with mode := 3 } else s

/-- LDH (R199). -/
def mxeLdh (e cyc : Nat) (s : State) (r : MRun) (sl : MSlot) (w : Nat) : State :=
  s.mxeLines e cyc r w
    (fun s => s.beginRead 3 e (s.fld Fd.MXE_CFG_PUMP_CH e) sl.xltCtx (hostLine sl w) (256 * bits w 55 32))
    fun b s => s.scrPut e sl (opaAddr w) b

def execMxeLdh (e : Nat) (ecc : Bool) (cyc : Nat) (s : State) : Host.Outcome State Fault Refusal :=
  done (s.mxeDo e 0x40 ecc (mxeLdh e cyc))

/-- STH (R199). -/
def mxeSth (e cyc : Nat) (s : State) (r : MRun) (sl : MSlot) (w : Nat) : State :=
  s.mxeLines e cyc r w
    (fun s => s.beginWrite 3 e (s.fld Fd.MXE_CFG_PUMP_CH e) sl.xltCtx (hostLine sl w)
      ((s.mx e).scr sl (opaAddr w) (256 * bits w 55 32)))
    fun _ s => s

def execMxeSth (e : Nat) (ecc : Bool) (cyc : Nat) (s : State) : Host.Outcome State Fault Refusal :=
  done (s.mxeDo e 0x41 ecc (mxeSth e cyc))

/-- The record of epoch `n` as LDREC reads it (R200): header and fields; `inl true` while it is still closing, `inl false` where
it is not held. -/
def State.recordOf (s : State) (n : Nat) : Sum Bool (Bytes × List Int) :=
  if s.isTray then
    match s.rdx.model with
    | some (m, h, fs) => if m = n then .inr (h, fs.map fun v => sext v.toNat 128) else .inl false
    | none => .inl false
  else
    match s.epr.retained.find? fun x => x.1 = n with
    | some (_, b) => .inr (b.take 16, (List.range (rdLE b 16 2)).map fun i => sext (rdLE b (32 + 8 * i) 8) 64)
    | none => .inl (s.epr.closing.any fun o => o.epoch = n)

/-- The fields LDREC writes, from `first`: a field the record does not have is a free value; a 128-bit field saturates. -/
def ldrecFields (fs : List Int) (first : Nat) : Nat → State → Bytes × Nat × State
  | 0, s => ([], 0, s)
  | n + 1, s =>
    let (v, s) := match fs[first]? with
      | some v => (v, s)
      | none => let (x, s) := s.draw; (sext x.toNat 64, s)
    let y := satI v (-(2 ^ 63)) (2 ^ 63 - 1)
    let (b, c, s) := ldrecFields fs (first + 1) n s
    (leBytes 8 (wrapI y 64) ++ b, c + b2n (y != v), s)

/-- LDREC (R200). -/
def mxeLdrec (e cyc : Nat) (s : State) (r : MRun) (sl : MSlot) (w : Nat) : State :=
  let (s, r) := s.mxeStall e r cyc
  let age := bits w 5 0
  match (if r.epoch < age then .inl false else s.recordOf (r.epoch - age)) with
  | .inl true => s.mxeWait e
  | .inl false => s.mxeFault e 18
  | .inr (h, fs) =>
    let (b, c, s) := ldrecFields fs (bits w 57 48) (bits w 41 32 + 1) s
    let (s, r) := (s.scrPut e sl (opaAddr w) (h ++ b)).mxeCounts e r { sat := 0, clip := c, loss := 0, fmt := 0 }
    s.mxeRetire e r w

def execMxeLdrec (e : Nat) (ecc : Bool) (cyc : Nat) (s : State) : Host.Outcome State Fault Refusal :=
  done (s.mxeDo e 0x42 ecc (mxeLdrec e cyc))

/-- The features LDEFT writes (R201); `lost` lists the keys whose entry read hit an uncorrectable error (R249). -/
def ldeftKeys (first cnt : Nat) (lost : List Nat) : Nat → List Nat → State → Bytes × State
  | _, [], s => ([], s)
  | i, k :: ks, s =>
    let (s, ent) := s.eftGet k (lost.contains i)
    let fs := match ent with
      | some (_, x) => (List.range cnt).map fun j => x.feats.getD (first + j) featMissing
      | none => List.replicate cnt featMissing
    let (b, s) := ldeftKeys first cnt lost (i + 1) ks s
    ((fs.flatMap fun f => leBytes 4 f.toNat) ++ b, s)

/-- LDEFT (R201): `fin` false where it stalls. -/
def mxeLdeft (e cyc : Nat) (fin : Bool) (lost : List Nat) (s : State) (r : MRun) (sl : MSlot) (w : Nat) : State :=
  let (s, r) := s.mxeStall e r cyc
  if fin then
    let keys := (List.range (rowsOf w)).map fun i => leNat ((s.mx e).scr sl (opbAddr w + 8 * i) 8)
    let (b, s) := ldeftKeys (bits w 37 32) (bits w 5 0 + 1) lost 0 keys s
    (s.scrPut e sl (opaAddr w) b).mxeRetire e r w
  else s.mxeWait e

def execMxeLdeft (e : Nat) (ecc : Bool) (cyc : Nat) (fin : Bool) (lost : List Nat) (s : State) :
    Host.Outcome State Fault Refusal := done (s.mxeDo e 0x43 ecc (mxeLdeft e cyc fin lost))

/-- VOUT (R202, R513): a replay run queues nothing and takes no cycles. -/
def mxeVout (e cyc : Nat) (s : State) (r : MRun) (sl : MSlot) (w : Nat) : State :=
  if r.replay then s.mxeRetire e r w
  else
    let (s, r) := s.mxeStall e r cyc
    if 32 ≤ (s.mx e).vq.length then s.mxeWait e
    else
      let vc := bits w 47 40
      let rec_ := s.verdict vc r.job r.gen r.epoch (r.raised != 0) ((s.mx e).scr sl (opaAddr w) (8 * (bits w 36 32 + 1)))
      ((s.setMx e { s.mx e with vq := (s.mx e).vq ++ [rec_] }).capVerdict vc).mxeRetire e r w

def execMxeVout (e : Nat) (ecc : Bool) (cyc : Nat) (s : State) : Host.Outcome State Fault Refusal :=
  done (s.mxeDo e 0x44 ecc (mxeVout e cyc))

end Sys2Proof.Machine
end

