-- ==== Sys2Proof/Machine/MxeLoad.lean ====
section
/-! DEFINITION. MXE programs: the load-time checks of an image (R219, R220, Table 08-9), launch, preemption, abort, the slot
table and the program window (R206 to R218, R221 to R224). -/

namespace Sys2Proof.Machine

/-! ### Load-time checks -/

/-- Bits [hi:lo] as a mask. -/
def maskBits (hi lo : Nat) : Nat := (2 ^ (hi + 1 - lo) - 1) * 2 ^ lo

/-- The bits of an instruction word that its opcode names (Tables 08-4, 08-5); none for an unknown opcode. -/
def mxeMask (w : Nat) : Option Nat :=
  let head := maskBits 127 118
  let acc := maskBits 31 24 + maskBits 13 0
  match opOf w with
  | 0x00 => some head
  | 0x01 => some head
  | 0x10 => some (head + maskBits 105 100 + acc)
  | 0x11 => some (head + maskBits 105 100 + maskBits 97 96 + maskBits 95 72 + acc)
  | 0x12 => some (head + maskBits 111 100 + maskBits 95 64 + maskBits 63 32 + acc)
  | 0x20 => some (head + maskBits 111 107 + maskBits 105 96 + maskBits 95 72 + maskBits 63 63 + maskBits 59 48 + maskBits 45 40 + maskBits 36 32
      + (if srcSel w = 0 then acc else maskBits 31 0))
  | 0x21 => some (head + maskBits 111 106 + maskBits 103 100 + maskBits 95 64 + maskBits 63 40 + maskBits 31 24 + maskBits 21 8
      + maskBits 5 0)
  | 0x30 => some (head + maskBits 95 72 + maskBits 63 40 + maskBits 23 0)
  | 0x40 => some (head + maskBits 95 72 + maskBits 55 32 + maskBits 31 0)
  | 0x41 => some (head + maskBits 95 72 + maskBits 55 32 + maskBits 31 0)
  | 0x42 => some (head + maskBits 95 72 + maskBits 57 48 + maskBits 41 32 + maskBits 5 0)
  | 0x43 => some (head + maskBits 95 64 + maskBits 63 40 + maskBits 37 32 + maskBits 5 0)
  | 0x44 => some (head + maskBits 95 72 + maskBits 47 40 + maskBits 36 32)
  | _ => none

/-- BAD_OP: the opcode is unknown or a reserved bit is set. -/
def badOp (w : Nat) : Bool :=
  match mxeMask w with
  | some m => Nat.land w m != w
  | none => true

/-- V_MARK (R193). -/
def badV (w : Nat) : Bool := vOf w != decide (0x40 ≤ opOf w)

/-- BAD_MODE: RQ MODE 3, NOUT_MAX 3 or SRC 3, an ACCLD SRC of 0 or 3, a format code outside its instruction's range. -/
def badMode (w : Nat) : Bool :=
  match opOf w with
  | 0x11 => decide (srcSel w = 0 ∨ srcSel w = 3)
  | 0x12 => decide (5 < fmtHi w ∨ 5 < fmtLo w)
  | 0x20 => decide (bits w 108 107 = 3 ∨ bits w 99 98 = 3 ∨ srcSel w = 3 ∨ fmtHi w = 7)
  | 0x21 => decide (5 < fmtHi w ∨ 5 < fmtLo w)
  | _ => false

/-- BAD_SCALE: a FIXED mantissa of 0 (R180), an ACT OUT_M of 0 (R197). -/
def badScale (w : Nat) : Bool :=
  match opOf w with
  | 0x20 => decide (bits w 108 107 = 0 ∧ bits w 55 48 = 0 ∧ fmtHi w ≠ 6)
  | 0x21 => decide (bits w 15 8 = 0)
  | _ => false

/-- RANGE: addresses, lengths and lanes against a region of `size` bytes, the lanes, the image's LUT_COUNT and the limits of R200
and R201. -/
def badRange (lanes size luts : Nat) (tray : Bool) (w : Nat) : Bool :=
  let out := fun (a n al : Nat) => decide (size < a + n ∨ a % al ≠ 0)
  let lane := fun (n : Nat) => decide (lanes < accBase w + n ∨ accBase w % 32 ≠ 0 ∨ 48 < fOf w)
  match opOf w with
  | 0x10 => lane (32 * nbOf w)
  | 0x11 => lane (32 * nbOf w) || out (opaAddr w) ((if srcSel w = 1 then 4 else 8) * 32 * nbOf w) 1
  | 0x12 => lane (rowsOf w * 32 * nbOf w) || out (opaAddr w) (rowsOf w * kbOf w * recBytes (fmtHi w)) 4 ||
      out (opbAddr w) (32 * nbOf w * kbOf w * recBytes (fmtLo w)) 4
  | 0x20 => decide (48 < fOf w) || out (opaAddr w) (nbOf w * recBytes (fmtHi w)) 4 ||
      (if srcSel w = 0 then lane (32 * nbOf w) else out (bits w 23 0) ((if srcSel w = 1 then 4 else 8) * 32 * nbOf w) 1)
  | 0x21 => out (opaAddr w) (rowsOf w * recBytes (fmtHi w)) 4 || out (opbAddr w) (rowsOf w * recBytes (fmtLo w)) 4 ||
      decide (luts ≤ bits w 103 100)
  | 0x30 => out (opaAddr w) (bits w 23 0) 1 || out (opbAddr w) (bits w 23 0) 1 || decide (bits w 23 0 % 4 ≠ 0)
  | 0x40 => out (opaAddr w) (256 * bits w 55 32) 256
  | 0x41 => out (opaAddr w) (256 * bits w 55 32) 256
  | 0x42 => out (opaAddr w) (16 + 8 * (bits w 41 32 + 1)) 1 || decide (1024 < bits w 57 48 + bits w 41 32 + 1) ||
      (tray && bits w 5 0 != 0)
  | 0x43 => out (opaAddr w) (4 * rowsOf w * (bits w 5 0 + 1)) 1 || out (opbAddr w) (8 * rowsOf w) 1 ||
      decide (56 < bits w 37 32 + bits w 5 0 + 1)
  | 0x44 => out (opaAddr w) (8 * (bits w 36 32 + 1)) 1
  | _ => false

/-- The index of the first instruction that `p` finds. -/
def firstBad (p : Nat → Bool) (ws : List Nat) : Option Nat := ws.findIdx? p

/-- The index of the seventeenth VOUT (R202). -/
def voutOver (ws : List Nat) : Option Nat := ((ws.zipIdx.filter fun (w, _) => opOf w = 0x44)[16]?).map (·.2)

/-- GAP (R211): the index at which a stretch without a yield point passes `limit` base cycles. -/
def gapAt (cost : Nat → Nat) (limit : Nat) : Nat → Nat → List Nat → Option Nat
  | _, _, [] => none
  | i, n, w :: ws =>
    if limit < n + cost w then some i
    else if opOf w = 0x01 then none
    else gapAt cost limit (i + 1) (if ypOf w then 0 else n + cost w) ws

/-- FEED_LOG (R205): the index at which the feed chains need more entries than `size`. -/
def feedAt (size : Nat) : Nat → SMap Nat → List Nat → Option Nat
  | _, _, [] => none
  | i, m, w :: ws =>
    let g := accBase w / 32
    let m := match opOf w with
      | 0x10 => (List.range (nbOf w)).foldl (fun m k => SMap.erase m (g + k)) m
      | 0x11 => (List.range (nbOf w)).foldl (fun m k => SMap.erase m (g + k)) m
      | 0x12 => (List.range (rowsOf w * nbOf w)).foldl (fun m k => SMap.set m (g + k) (SMap.getD m (g + k) 0 + 1)) m
      | _ => m
    if size < (m.map (·.2)).sum then some i else feedAt size (i + 1) m ws

/-- NO_SPACE (R190): the slot's regions against the memories, the loaded slots and every context area. -/
def State.mxeNoSpace (s : State) (e k n scr luts : Nat) : Bool :=
  let m := s.mx e
  let sl := m.slot k
  let ctx := s.ctxSize
  decide (s.imemSize < sl.imemBase + n ∨ s.scratchSize < sl.scrBase + scr ∨ 16 < sl.lutBase + luts) ||
    (sl.hasCtx && decide (s.scratchSize < sl.ctxAddr + ctx)) ||
    m.slots.any fun (j, o) =>
      (o.hasCtx && (meets sl.scrBase scr o.ctxAddr ctx || (j != k && sl.hasCtx && meets sl.ctxAddr ctx o.ctxAddr ctx))) ||
      (j != k && o.valid && (meets sl.imemBase n o.imemBase o.nInstr || meets sl.scrBase scr o.scrBase o.scrBytes ||
        meets sl.lutBase luts o.lutBase o.lutCount || (sl.hasCtx && meets sl.ctxAddr ctx o.scrBase o.scrBytes)))

/-- The words of a header. -/
structure MHead where
  n     : Nat
  scr   : Nat
  init  : Nat
  luts  : Nat
  cyc   : Nat
  crc   : Nat

/-- The header of an MXE image (Table 08-10). -/
def mxeHead (img : Bytes) : MHead :=
  { n := rdLE img 8 4, scr := rdLE img 12 4, init := rdLE img 16 4, luts := rdLE img 20 1, cyc := rdLE img 24 4
    crc := rdLE img 28 4 }

/-- The image with a field of the header taken as 0. -/
def zeroAt (img : Bytes) (off n : Nat) : Bytes := img.take off ++ List.replicate n 0 ++ img.drop (off + n)

/-- The instruction words of an image. -/
def mxeWords (img : Bytes) (n : Nat) : List Nat := (List.range n).map fun i => rdLE img (64 + 16 * i) 16

/-- BAD_IMAGE (R219). -/
def State.mxeBadImage (s : State) (img : Bytes) : Bool :=
  let h := mxeHead img
  decide (rdLE img 0 4 ≠ 0x3149574B ∨ rdLE img 4 2 ≠ 1 ∨ rdLE img 6 1 ≠ b2n s.isTray ∨ rdLE img 7 1 ≠ 0 ∨ rdLE img 21 3 ≠ 0 ∨
    rdLE img 32 32 ≠ 0 ∨ h.n = 0 ∨ h.scr % 256 ≠ 0 ∨ h.scr < h.init ∨ 16 < h.luts) ||
  (let size := 64 + 16 * h.n + 256 * h.luts + h.init
   decide (img.length < size) || crc32c (zeroAt (img.take size) 28 4) != h.crc)

/-- The first load-time failure of Table 08-9 in CODE order: the code and the instruction index, none for a header fault. -/
def State.mxeCheck (s : State) (e k : Nat) (img : Bytes) : Option (Nat × Option Nat) :=
  if s.mxeBadImage img then some (1, none)
  else
    let h := mxeHead img
    let ws := mxeWords img h.n
    let at_ := fun (code : Nat) (p : Nat → Bool) => (firstBad p ws).map fun i => (code, some i)
    (at_ 2 badOp).orElse fun _ => (at_ 3 badV).orElse fun _ => (at_ 4 badMode).orElse fun _ => (at_ 5 badScale).orElse fun _ =>
    (at_ 6 (badRange s.laneCount h.scr h.luts s.isTray)).orElse fun _ => ((voutOver ws).map fun i => (6, some i)).orElse fun _ =>
    (if ((s.mx e).slot k).prio < 3 then
        (gapAt s.baseCycles (s.fld Fd.MXE_CFG_GAP_LIMIT e) 0 0 ws).map fun i => (7, some i) else none).orElse fun _ =>
    (if (ws.map s.baseCycles).sum ≠ h.cyc then some (8, none) else none).orElse fun _ =>
    ((feedAt s.feedSize 0 [] ws).map fun i => (9, some i)).orElse fun _ =>
    if s.mxeNoSpace e k h.n h.scr h.luts then some (10, none) else none

/-- A checked image enters the engine's memories and its slot is VALID (R220). -/
def State.mxePut (s : State) (e k : Nat) (img : Bytes) : State :=
  let m := s.mx e
  let sl := m.slot k
  let h := mxeHead img
  let imem := (mxeWords img h.n).zipIdx.foldl (fun t (w, i) => SMap.set t (sl.imemBase + i) (BitVec.ofNat 128 w)) m.imem
  let lutOff := 64 + 16 * h.n
  let luts := Mem.write m.luts (256 * sl.lutBase) ((img.drop lutOff).take (256 * h.luts))
  let scratch := Mem.write m.scratch sl.scrBase ((img.drop (lutOff + 256 * h.luts)).take h.init)
  s.setMx e { m with
    imem, luts, scratch
    slots := m.slots.set k { sl with valid := true, cycles := h.cyc, nInstr := h.n, scrBytes := h.scr, lutCount := h.luts
                                     crc := h.crc } }

/-! ### Launch and preemption -/

/-- One slot named by a write of `MXE_LAUNCH` (R206, R207): a slot that has a run counts OVERRUN, and one that a SW launch cannot start
sets `PG_ERR.UNIT`, each whatever the other. -/
def State.mxeLaunchSw (s : State) (e k : Nat) : State :=
  let sl := (s.mx e).slot k
  let has := (s.mx e).hasRun k
  have s := if has then s.bump Fd.MXE_RUN_CNT_OVERRUN e else s
  if !sl.valid ∨ sl.epochTrg ∨ !s.live .mxe e then s.pgErr .mxe e .unit 0x50 1
  else if has then s else s.mxeLaunch e (s.newRun e k s.lastClosed)

/-- A write of `MXE_LAUNCH`. -/
def mxeLaunchWrite (e : Nat) (d : Word) (s : State) : State :=
  (List.range 8).foldl (fun s k => if d.getLsbD k then s.mxeLaunchSw e k else s) s

/-- MXE_LAUNCH_WRITE. -/
def execMxeLaunchWrite (q : Req) (e : Nat) (d : Word) (s : State) : Host.Outcome State Fault Refusal :=
  done (s.rowWrite q .mxe e 0x50 d fun s => (mxeLaunchWrite e d s).okay)

/-- A pending run takes the engine: every group NONE, an empty feed log (R191). -/
def State.mxeBegin (s : State) (e : Nat) (r : MRun) : State :=
  let m := s.mx e
  s.setMx e { m with pend := m.pend.filter (·.slot != r.slot), run := some { r with started := true }, mode := 1, fst := [], feed := [] }

/-- The next run starts or, standing no lower, the preempted one is restored (R207, R210). -/
def mxeRunStart (e : Nat) (s : State) : State :=
  let m := s.mx e
  if m.mode ≠ 0 ∨ !s.primed ∨ s.inReset .mxe e then s
  else match bestRun (s.mxePrio e) m.pend, bestRun (s.mxePrio e) m.saved with
  | some p, none => if s.live .mxe e ∨ p.pattern then s.mxeBegin e p else s
  | some p, some r =>
    if s.live .mxe e then (if s.mxePrio e r.slot < s.mxePrio e p.slot then s.mxeBegin e p else s.mxeNext e) else s
  | none, _ => if s.live .mxe e then s.mxeNext e else s

/-- MXE_RUN_START. -/
def execMxeRunStart (e : Nat) (s : State) : Host.Outcome State Fault Refusal := done (mxeRunStart e s)

/-- A lane of a context image (Table 08-3). -/
def laneBytes (l : ALane) (f : Nat) : Bytes := leBytes 16 (wrapI l.acc 80 + b2n l.sat * 2 ^ 80 + f % 128 * 2 ^ 81)

/-- The context image of the running run, at its slot's CTX_ADDR (R208, Table 08-3). How the engine state and the feed log stand
in their bytes the manual leaves open: free values. -/
def State.mxeSaveImage (s : State) (e : Nat) (sl : MSlot) : State :=
  let (free, s) := s.freeBytes (4096 + 4 * s.feedSize)
  let m := s.mx e
  let lanes := (List.range s.laneCount).flatMap fun l => laneBytes (m.lane l) (m.fst.getD (l / 32) 0x7F)
  let image := free ++ lanes
  s.setMx e { m with scratch := Mem.write m.scratch sl.ctxAddr (image ++ List.replicate (s.ctxSize - image.length) 0) }

/-- A save ends (R208): 256 SWITCH cycles; a replay run that reached STOP_AT ends (R513), a preempted run is kept, and the
pending run that stands highest begins. -/
def mxeSaveDone (e : Nat) (s : State) : State :=
  match (s.mx e).run with
  | none => s
  | some r =>
    if (s.mx e).mode ≠ 3 then s
    else
      have s := (s.mxeSaveImage e ((s.mx e).slot r.slot)).ev .mxe e 1 256
      let r := { r with switch := r.switch + 256, feed := (s.mx e).feed }
      if r.replay ∧ r.stop + 1 = r.index then (s.setRun e r).mxeEndRun e 1 0
      else
        let r := { r with preempts := r.preempts + 1 }
        have s := (s.setMx e { s.mx e with run := none, mode := 0, saved := (s.mx e).saved ++ [r] }).bump Fd.MXE_SWITCH_CNT_PREEMPTIONS e
        mxeRunStart e s

/-- MXE_CONTEXT_SAVE_DONE. -/
def execMxeContextSaveDone (e : Nat) (s : State) : Host.Outcome State Fault Refusal := done (mxeSaveDone e s)

/-- A restore ends (R210): lanes and F states come from the image, the run goes on. -/
def mxeRestoreDone (e : Nat) (s : State) : State :=
  let m := s.mx e
  match m.run with
  | none => s
  | some r =>
    if m.mode ≠ 4 then s
    else
      let base := (m.slot r.slot).ctxAddr + 4096 + 4 * s.feedSize
      let img := (List.range s.laneCount).map fun l => (l, leNat (Mem.read m.scratch (base + 16 * l) 16))
      let acc : SMap ALane := (img.filter fun (_, v) => bits v 80 0 != 0).map fun (l, v) =>
        (l, { acc := sext (bits v 79 0) 80, sat := bit v 80 })
      let fst : SMap Nat := (img.filter fun (l, v) => decide (l % 32 = 0 ∧ bits v 87 81 ≠ 0x7F)).map fun (l, v) => (l / 32, bits v 87 81)
      (s.ev .mxe e 1 256).setMx e { m with acc, fst, feed := r.feed, mode := 1, run := some { r with switch := r.switch + 256, feed := [] } }

/-- MXE_CONTEXT_RESTORE_DONE. -/
def execMxeContextRestoreDone (e : Nat) (s : State) : Host.Outcome State Fault Refusal := done (mxeRestoreDone e s)

/-- A write of `MXE_ABORT` (R214, R215): a save in progress completes first. -/
def mxeAbortWrite (e : Nat) (d : Word) (s : State) : State :=
  let k := bits d.toNat 3 0
  let res := fun (s : State) (n : Nat) => s.setMx e { s.mx e with abortRes := n }
  let m := s.mx e
  if 7 < k then res s 3
  else if m.run.any (·.slot == k) then
    match m.run with
    | none => s
    | some r =>
      have s := if m.mode = 3 then
          (s.mxeSaveImage e (m.slot k)).setRun e { r with switch := r.switch + 256 } else s
      (res s 1).mxeEndRun e 1 0
  else match (m.pend ++ m.saved).find? (·.slot == k) with
  | none => res s 2
  | some r =>
    have s := s.setMx e { m with pend := m.pend.filter (·.slot != k), saved := m.saved.filter (·.slot != k), abortRes := 1 }
    s.mxeEnd e r 1 0

/-- MXE_ABORT. -/
def execMxeAbort (q : Req) (e : Nat) (d : Word) (s : State) : Host.Outcome State Fault Refusal :=
  done (s.rowWrite q .mxe e 0x58 d fun s => (mxeAbortWrite e d s).okay)

/-! ### The slot table -/

/-- READ (Table 08-16). -/
def mxeSlotRead (e k : Nat) (s : State) : WinOut :=
  if 8 ≤ k then s.win 2
  else
    let sl := (s.mx e).slot k
    s.winData [BitVec.ofNat 64 sl.imageVa, BitVec.ofNat 64 sl.hostVa, BitVec.ofNat 64 (sl.ctxAddr * 2 ^ 24 + sl.scrBase),
      BitVec.ofNat 64 (b2n sl.valid * 2 ^ 63 + sl.xltCtx * 2 ^ 32 + b2n sl.epochTrg * 2 ^ 22 + sl.prio * 2 ^ 20 + sl.lutBase * 2 ^ 16 +
        sl.imemBase), BitVec.ofNat 64 sl.cycles]

/-- MXE_SLOT_READ. -/
def execMxeSlotRead (q : Req) (e k : Nat) (s : State) : Host.Outcome State Fault Refusal :=
  done (s.winCmd q .mxe e 0 1 k (mxeSlotRead e k))

/-- WRITE (R223): the configuration words of a slot without a run. TRIGGER 2 and 3 are kept as EPOCH is read: bit 0. -/
def mxeSlotWrite (e k : Nat) (s : State) : WinOut :=
  if 8 ≤ k then s.win 2
  else if (s.mx e).hasRun k then s.win 7
  else
    let w := fun i => (s.data .mxe e i).toNat
    let sl := { (s.mx e).slot k with
      imageVa := bits (w 0) 47 0, hostVa := bits (w 1) 47 0, ctxAddr := bits (w 2) 47 24, scrBase := bits (w 2) 23 0
      xltCtx := bits (w 3) 41 32, epochTrg := bit (w 3) 22, prio := bits (w 3) 21 20, lutBase := bits (w 3) 19 16
      imemBase := bits (w 3) 15 0 }
    (s.setMx e { s.mx e with slots := (s.mx e).slots.set k sl }).win 0

/-- MXE_SLOT_WRITE. -/
def execMxeSlotWrite (q : Req) (e k : Nat) (s : State) : Host.Outcome State Fault Refusal :=
  done (s.winCmd q .mxe e 0 2 k (mxeSlotWrite e k))

/-- A slot loses its program. -/
def State.mxeEmpty (s : State) (e k : Nat) : State :=
  s.setMx e { s.mx e with slots := (s.mx e).slots.set k { (s.mx e).slot k with valid := false } }

/-- The longest image: header, instructions, LUTs, initial scratch. -/
def State.mxeImageMax (s : State) : Nat := 64 + 16 * s.imemSize + 4096 + s.scratchSize

/-- LOAD (R220): the slot is empty while its image is fetched, its first segment first (log entry 129). -/
def mxeLoadWin (e k : Nat) (s : State) : WinOut :=
  if 8 ≤ k then s.win 2
  else if (s.mx e).hasRun k then s.win 7
  else
    let sl := (s.mx e).slot k
    have s := s.mxeEmpty e k
    have s := s.setMx e { s.mx e with loading := some k }
    (s.beginRead 2 e (s.fld Fd.MXE_CFG_PUMP_CH e) sl.xltCtx sl.imageVa 256).winBusy

/-- MXE_LOAD. -/
def execMxeLoad (q : Req) (e k : Nat) (s : State) : Host.Outcome State Fault Refusal :=
  done (s.winCmd q .mxe e 0 5 k (mxeLoadWin e k))

/-- A load ends with a code of Table 08-9: the slot stays empty, `MXE_FAULT_LAST` takes it, RESULT 6. -/
def State.mxeLoadFail (s : State) (e k code : Nat) (idx : Option Nat) : State :=
  have s := s.setReg Rg.MXE_FAULT_LAST e (BitVec.ofNat 64 (2 ^ 63 + k * 2 ^ 56 + code * 2 ^ 48 + min (idx.getD 0xFFFF) 0xFFFF))
  s.winEnd .mxe e 6 (code * 2 ^ 24 + idx.getD 0xFFFFFF)

/-- The image of a LOAD has arrived (R220). -/
def mxeLoadDone (e : Nat) (s : State) : State :=
  match (s.mx e).loading, s.carried 2 e with
  | some k, some img =>
    have s := (s.setMx e { s.mx e with loading := none }).endXfer 2 e
    match s.mxeCheck e k img with
    | some (code, idx) => s.mxeLoadFail e k code idx
    | none => (s.mxePut e k img).winEnd .mxe e 0
  | _, _ => s

/-- MXE_LOAD_DONE. -/
def execMxeLoadDone (e : Nat) (s : State) : Host.Outcome State Fault Refusal := done (mxeLoadDone e s)

/-- UNLOAD (R223). -/
def mxeUnload (e k : Nat) (s : State) : WinOut :=
  if 8 ≤ k then s.win 2 else if (s.mx e).hasRun k then s.win 7 else (s.mxeEmpty e k).win 0

/-- MXE_UNLOAD. -/
def execMxeUnload (q : Req) (e k : Nat) (s : State) : Host.Outcome State Fault Refusal :=
  done (s.winCmd q .mxe e 0 6 k (mxeUnload e k))

/-! ### The program window (R224) -/

/-- Entries of a table of the program window. -/
def State.progSize (s : State) (t : Nat) : Nat :=
  match t with
  | 0 => s.imemSize
  | 1 => s.scratchSize / 256
  | 2 => 16
  | _ => s.laneCount

/-- ESTATE (Table 08-15). -/
def State.mxeEstate (s : State) (e : Nat) : Nat :=
  if s.outOfService .mxe e ∧ !((s.mx e).run.any (·.pattern)) then 5 else (s.mx e).mode

/-- The program window answers SLOT_BUSY unless the engine is IDLE or STOPPED. -/
def State.progBusy (s : State) (e : Nat) : Bool := !(s.mxeEstate e == 0 || s.mxeEstate e == 5)

/-- READ (Table 08-17). -/
def mxeProgRead (e t idx : Nat) (s : State) : WinOut :=
  let m := s.mx e
  if s.progBusy e then s.win 7
  else if 3 < t then s.win 3
  else if s.progSize t ≤ idx then s.win 2
  else match t with
  | 0 => s.winData [(m.imem.getD idx 0).truncate 64, ((m.imem.getD idx 0) >>> 64).truncate 64]
  | 1 => s.winData (toWords 32 (Mem.read m.scratch (256 * idx) 256))
  | 2 => s.winData (toWords 32 (Mem.read m.luts (256 * idx) 256))
  | _ =>
    let v := wrapI (m.lane idx).acc 80
    s.winData [BitVec.ofNat 64 v, BitVec.ofNat 64 (v / 2 ^ 64 + b2n (m.lane idx).sat * 2 ^ 16 + m.fst.getD (idx / 32) 0x7F * 2 ^ 17)]

/-- MXE_PROG_READ. -/
def execMxeProgRead (q : Req) (e t idx : Nat) (s : State) : Host.Outcome State Fault Refusal :=
  done (s.winCmd q .mxew e t 1 idx (mxeProgRead e t idx))

/-- The loaded slots whose region a write of a table entry meets lose VALID (R224). -/
def Mxe.spoil (m : Mxe) (t idx : Nat) : SMap MSlot :=
  m.slots.mapV fun _ sl =>
    let hit := match t with
      | 0 => meets sl.imemBase sl.nInstr idx 1
      | 1 => meets sl.scrBase sl.scrBytes (256 * idx) 256
      | _ => meets sl.lutBase sl.lutCount idx 1
    if sl.valid && hit then { sl with valid := false } else sl

/-- WRITE (Table 08-17): the accumulator is read only. -/
def mxeProgWrite (e t idx : Nat) (s : State) : WinOut :=
  let m := s.mx e
  if s.progBusy e then s.win 7
  else if 2 < t then s.win 3
  else if s.progSize t ≤ idx then s.win 2
  else
    let m := { m with slots := m.spoil t idx }
    (s.setMx e (match t with
      | 0 => { m with imem := m.imem.set idx (((s.data .mxew e 1).setWidth 128 <<< 64) ||| (s.data .mxew e 0).setWidth 128) }
      | 1 => { m with scratch := Mem.write m.scratch (256 * idx) (s.dataBytes .mxew e 256) }
      | _ => { m with luts := Mem.write m.luts (256 * idx) (s.dataBytes .mxew e 256) })).win 0

/-- MXE_PROG_WRITE. -/
def execMxeProgWrite (q : Req) (e t idx : Nat) (s : State) : Host.Outcome State Fault Refusal :=
  done (s.winCmd q .mxew e t 2 idx (mxeProgWrite e t idx))

/-! ### Registers -/

/-- `MXE_STAT` (Table 08-15). -/
def mxeStat (e : Nat) (s : State) : Nat :=
  let m := s.mx e
  let mask := fun (l : List Nat) => l.foldl (fun a k => Nat.lor a (2 ^ k)) 0
  mask (m.pend.map (·.slot)) * 2 ^ 56 + mask (m.saved.map (·.slot)) * 2 ^ 48 +
    mask ((m.slots.filter fun x => x.2.valid).map (·.1)) * 2 ^ 40 + m.abortRes * 2 ^ 16 +
    (match m.run with | some r => r.slot | none => 15) * 16 + s.mxeEstate e

/-- A read of a monitor's status returns and clears it, and re-arms ARITH_RANGE (R188). -/
def rmonStatRead (e k : Nat) (s : State) : AccOut :=
  let g := Rg.MXE_RMON_STAT.nth k
  let v := s.reg g e
  have s := s.setMx e { s.mx e with eSeen := (s.mx e).eSeen &&& ~~~(BitVec.ofNat 16 (2 ^ k)) }
  (s.setReg g e 0).gives v

/-- MXE_RMON_STAT_READ. -/
def execMxeRmonStatRead (q : Req) (e k : Nat) (s : State) : Host.Outcome State Fault Refusal :=
  done (s.rowRead q .mxe e (0x380 + 8 * (k % 16)) (rmonStatRead e (k % 16)))

/-- `PG_CTRL.UNIT_RESET` of an MXE page (R218): runs end RESET, slots are empty, the verdict queue is emptied, a load ends. -/
def mxeReset (e : Nat) (s : State) : State :=
  have s := (s.mxeEndAll e 3).endXfer 2 e
  let m := s.mx e
  s.setMx e { m with slots := m.slots.mapV fun _ sl => { sl with valid := false }
                     vq := [], loading := none, abortRes := 0, eSeen := 0 }

end Sys2Proof.Machine
end

