-- ==== Sys2Proof/Machine/Tre.lean ====
section
/-! DEFINITION. TRE (09.1 to 09.4): image checks, launch, the walk of the trees over one feature vector, abort, the slot table. -/

namespace Sys2Proof.Machine

/-! ### Images -/

/-- The next 16-byte boundary. -/
def align16 (n : Nat) : Nat := (n + 15) / 16 * 16

/-- The header of a TRE image (Table 09-1) and where its sections stand (R225). -/
structure THead where
  src   : Nat
  nt    : Nat
  nOut  : Nat
  vcode : Nat
  nn    : Nat
  ns    : Nat
  featN : Nat
  emit  : Int
  crc   : Nat
  bias  : Nat
  fmap  : Nat
  nodes : Nat
  sets  : Nat
  size  : Nat

def treHead (m : Bytes) : THead :=
  let src := rdLE m 7 1
  let nt := rdLE m 8 2
  let nOut := rdLE m 10 1
  let nn := rdLE m 12 4
  let ns := rdLE m 16 2
  let featN := rdLE m 18 2
  let bias := align16 (64 + 4 * nt)
  let fmap := align16 (bias + 8 * nOut)
  let nodes := if src = 0 then align16 (fmap + 4 * featN) else fmap
  let sets := nodes + 16 * nn
  { src, nt, nOut, vcode := rdLE m 11 1, nn, ns, featN, emit := sext (rdLE m 20 6) 48, crc := rdLE m 28 4, bias, fmap, nodes, sets
    size := sets + 32 * ns }

/-- Node and set capacity (Table 09-11). -/
def State.treNodes (s : State) : Nat := if s.isTray then 1048576 else 65536
def State.treSets (s : State) : Nat := if s.isTray then 16384 else 1024

/-- Node fields (Table 09-2). -/
def ndKind (n : Nat) : Nat := bits n 127 126
def ndDef (n : Nat) : Bool := bit n 125
def ndFeat (n : Nat) : Nat := bits n 121 112
def ndVal (n : Nat) : Int := sext (bits n 95 64) 32
def ndSet (n : Nat) : Nat := bits n 77 64
def ndLeft (n : Nat) : Nat := bits n 51 32
def ndRight (n : Nat) : Nat := bits n 19 0

/-- BAD_IMAGE (Table 09-3). -/
def State.treBadImage (s : State) (m : Bytes) : Bool :=
  let h := treHead m
  let zero := fun (a b : Nat) => rdLE m a (b - a) == 0
  decide (rdLE m 0 4 ≠ 0x31455254 ∨ rdLE m 4 2 ≠ 1 ∨ rdLE m 6 1 ≠ b2n s.isTray ∨ 2 < h.src ∨ m.length < h.size ∨
    (if h.src = 1 then h.featN ≠ 57 else h.featN = 0 ∨ 1024 < h.featN)) ||
  !zero 32 64 || !zero (64 + 4 * h.nt) h.bias || !zero (h.bias + 8 * h.nOut) h.fmap ||
  (h.src == 0 && !zero (h.fmap + 4 * h.featN) h.nodes) ||
  (List.range h.nt).any (fun t => Nat.land (rdLE m (64 + 4 * t) 4) 0xF0F00000 != 0) ||
  (List.range h.nOut).any (fun o => let b := sext (rdLE m (h.bias + 8 * o) 8) 64; decide (b < -(2 ^ 47) ∨ 2 ^ 47 ≤ b)) ||
  crc32c (zeroAt (m.take h.size) 28 4) != h.crc

/-- The nodes of an image. -/
def treNodeWords (m : Bytes) (h : THead) : List Nat := (List.range h.nn).map fun i => rdLE m (h.nodes + 16 * i) 16

/-- BAD_NODE at one node (Table 09-3). -/
def badNode (h : THead) (i n : Nat) : Bool :=
  let resv := bits n 124 122 != 0 || bits n 111 96 != 0 || bits n 63 52 != 0 || bits n 31 20 != 0
  let child := fun (c : Nat) => decide (c ≤ i ∨ h.nn ≤ c)
  resv || (match ndKind n with
    | 0 => child (ndLeft n) || child (ndRight n) || decide (h.featN ≤ ndFeat n) || bits n 95 64 == 0x80000000
    | 1 => child (ndLeft n) || child (ndRight n) || decide (h.featN ≤ ndFeat n) || bits n 95 78 != 0 || decide (h.ns ≤ ndSet n)
    | 2 => ndDef n || ndFeat n != 0 || ndLeft n != 0 || ndRight n != 0
    | _ => true)

/-- The depth of every node, from the last node down (R227). -/
def treDepths (ws : List Nat) : SMap Nat :=
  ws.zipIdx.foldr (fun (n, i) m =>
    SMap.set m i (if ndKind n = 2 then 0 else 1 + max (SMap.getD m (ndLeft n) 0) (SMap.getD m (ndRight n) 0))) []

/-- NO_SPACE (Table 09-3). -/
def State.treNoSpace (s : State) (e k : Nat) (h : THead) : Bool :=
  let t := s.tr e
  let sl := t.slot k
  k < 4 && (decide (s.treNodes < sl.nodeBase + h.nn ∨ s.treSets < sl.setBase + h.ns) ||
    t.slots.any fun (j, o) => decide (j < 4) && j != k && o.valid &&
      (meets sl.nodeBase h.nn o.nodeBase o.nNodes || meets sl.setBase h.ns o.setBase o.nSets))

/-- The first load-time failure of Table 09-3: code and node index. -/
def State.treCheck (s : State) (e k : Nat) (m : Bytes) : Option (Nat × Option Nat) :=
  if s.treBadImage m then some (1, none)
  else
    let h := treHead m
    let ws := treNodeWords m h
    let roots := (List.range h.nt).map fun t => bits (rdLE m (64 + 4 * t) 4) 19 0
    match (ws.zipIdx.find? fun (n, i) => badNode h i n) with
    | some (_, i) => some (2, some i)
    | none =>
      if roots.any (h.nn ≤ ·) then some (2, none)
      else
        let d := treDepths ws
        match roots.find? (fun r => 16 < SMap.getD d r 0) with
        | some r => some (3, some r)
        | none =>
          if h.nt = 0 ∨ 4096 < h.nt ∨ h.nOut = 0 ∨ 16 < h.nOut ∨ s.treSets < h.ns ∨
              ((List.range h.nt).any fun t => h.nOut ≤ bits (rdLE m (64 + 4 * t) 4) 27 24) then some (6, none)
          else if s.treNoSpace e k h then some (10, none) else none

/-- A checked image enters the TRE's memories. -/
def State.trePut (s : State) (e k : Nat) (m : Bytes) : State :=
  let t := s.tr e
  let sl := t.slot k
  let h := treHead m
  let nodes := (treNodeWords m h).zipIdx.foldl (fun a (w, i) => SMap.set a (sl.nodeBase + i) (BitVec.ofNat 128 w)) t.nodes
  let sets := (List.range h.ns).foldl (fun a i => SMap.set a (sl.setBase + i) (BitVec.ofNat 256 (rdLE m (h.sets + 32 * i) 32))) t.sets
  let sl := { sl with
    valid := true, src := h.src, nOut := h.nOut, vcode := h.vcode, nNodes := h.nn, nSets := h.ns, featN := h.featN, emitMin := h.emit
    crc := h.crc
    trees := (List.range h.nt).map fun i => let w := rdLE m (64 + 4 * i) 4; (bits w 19 0, bits w 27 24)
    bias := (List.range h.nOut).map fun o => sext (rdLE m (h.bias + 8 * o) 8) 64
    fmap := if h.src = 0 then (List.range h.featN).map fun f => rdLE m (h.fmap + 4 * f) 4 else [] }
  s.setTr e { t with nodes, sets, slots := t.slots.set k sl }

/-! ### The walk (R230) -/

/-- The counts of a walk: missing, out of range, nodes visited. -/
structure WalkCnt where
  missing : Nat
  cat     : Nat
  seen    : Nat

/-- Walk one tree from node `i`; the fuel is past any depth a load admits. -/
def treWalk (t : Tre) (sl : TSlot) (x : List Int) : Nat → Nat → WalkCnt → Int × WalkCnt
  | 0, _, c => (0, c)
  | f + 1, i, c =>
    let n := (t.nodes.getD (sl.nodeBase + i) 0).toNat
    let c := { c with seen := c.seen + 1 }
    if ndKind n = 2 then (ndVal n, c)
    else
      let v := x.getD (ndFeat n) 0
      let go := fun (left : Bool) (c : WalkCnt) => treWalk t sl x f (if left then ndLeft n else ndRight n) c
      if v = -(2 ^ 31) then go (ndDef n) { c with missing := c.missing + 1 }
      else if ndKind n = 0 then go (decide (v ≤ ndVal n)) c
      else if 0 ≤ v ∧ v ≤ 255 then go ((t.sets.getD (sl.setBase + ndSet n) 0).getLsbD v.toNat) c
      else go false { c with cat := c.cat + 1 }

/-- Every tree over a vector (R231): the outputs, the counts, and the nodes each of `lanes` lanes visits (R232). -/
def treEvaluate (t : Tre) (sl : TSlot) (x : List Int) (lanes : Nat) : List Int × WalkCnt × SMap Nat :=
  sl.trees.zipIdx.foldl (fun (y, c, m) ((root, out), i) =>
    let (v, k) := treWalk t sl x 18 root { c with seen := 0 }
    (y.zipIdx.map (fun (a, o) => if o = out then a + v else a), k, SMap.set m (i % lanes) (SMap.getD m (i % lanes) 0 + k.seen)))
    (sl.bias, { missing := 0, cat := 0, seen := 0 }, [])

/-! ### Launch and run -/

/-- The epoch of a SW launch (R228): the latest closed record's for SRC 0, else the launch epoch. -/
def State.treSwEpoch (s : State) (sl : TSlot) : Nat :=
  if sl.src ≠ 0 then s.epochNow
  else if s.isTray then s.lastClosed
  else match s.epr.retained.getLast? with
  | some (n, _) => n
  | none => s.epochNow - 1

/-- One slot named by a write of `TRE_LAUNCH` (R233): a slot that has a run counts OVERRUN, and one that a SW launch cannot start sets
`PG_ERR.UNIT`, each whatever the other. -/
def State.treLaunchSw (s : State) (e k : Nat) : State :=
  let sl := (s.tr e).slot k
  let has := (s.tr e).hasRun k
  have s := if has then s.bump Fd.TRE_RUN_CNT_OVERRUN e else s
  if !sl.valid ∨ sl.epochTrg ∨ !s.live .tre e then s.pgErr .tre e .unit 0x50 1
  else if has then s else s.treLaunch e (s.newTRun k (s.treSwEpoch sl))

/-- A write of `TRE_LAUNCH`. -/
def treLaunchWrite (e : Nat) (d : Word) (s : State) : State :=
  (List.range 4).foldl (fun s k => if d.getLsbD k then s.treLaunchSw e k else s) s

/-- TRE_LAUNCH_WRITE. -/
def execTreLaunchWrite (q : Req) (e : Nat) (d : Word) (s : State) : Host.Outcome State Fault Refusal :=
  done (s.rowWrite q .tre e 0x50 d fun s => (treLaunchWrite e d s).okay)

/-- The next launched run starts (R233). -/
def treRunStart (e : Nat) (s : State) : State :=
  let t := s.tr e
  match t.run, t.pend with
  | none, r :: rs =>
    if s.primed ∧ !s.inReset .tre e ∧ (s.live .tre e ∨ r.pattern) then s.setTr e { t with run := some r, pend := rs } else s
  | _, _ => s

/-- TRE_RUN_START. -/
def execTreRunStart (e : Nat) (s : State) : Host.Outcome State Fault Refusal := done (treRunStart e s)

/-- The feature vector of a record (R228, R229) and the conversions that saturated; a FIELD the record does not have is free. -/
def recordVector (fs : List Int) : List Nat → State → List Int × Nat × State
  | [], s => ([], 0, s)
  | w :: ws, s =>
    if bit w 31 then
      let (v, s) := match fs[bits w 9 0]? with
        | some v => (v, s)
        | none => let (x, s) := s.draw; (sext x.toNat 64, s)
      let (x, sat) := featureOf v (bits w 25 20)
      let (xs, n, s) := recordVector fs ws s
      (x :: xs, n + b2n sat, s)
    else
      let (xs, n, s) := recordVector fs ws s
      (-(2 ^ 31) :: xs, n, s)

/-- What a run finds for its next vector. -/
inductive VecIn where
  | vec (x : List Int) (featSat : Nat) (key : Option Word) (next : Nat) (last : Bool)
  | wait
  | fin
  | fault (code : Nat)
  deriving DecidableEq, Repr

/-- The words of a vector as the run reads them: `n` little-endian INT32. -/
def intWords (m : Bytes) (n : Nat) : List Int := (List.range n).map fun i => sext (rdLE m (4 * i) 4) 32

/-- The age of an entry as a feature (R228, R245). -/
def State.entryAge (s : State) (e : EftEnt) : Int := min (wrapI ((s.epochNow : Int) - e.stamp) 32) (2 ^ 31 - 1)

/-- Initial data of the screening pattern in progress (Table 18-1), from byte `off`. -/
def State.patInput (s : State) (off n : Nat) : Bytes :=
  match s.scr.run with
  | some r => match s.scr.pats[r.pat]? with
    | some p => (s.scr.region.drop (p.inputOff + off)).take n
    | none => []
  | none => []

/-- The next vector of a SRC 2 run (R228, R234): its block is read from host memory once the outputs of the one before are written. -/
def State.treHostIn (s : State) (e : Nat) (r : TRun) (sl : TSlot) : State × VecIn :=
  let n := 4 * sl.featN
  let next := if sl.nVec ≤ r.pos then (s, .fin)
    else (s.beginRead 5 e (s.fld Fd.TRE_CFG_PUMP_CH e) sl.xltCtx (sl.inVa + n * r.pos) n, .wait)
  match s.xfer? 5 e with
  | none => next
  | some x =>
    if !x.full then (s, .wait)
    else if x.write then next
    else (s, .vec (intWords x.bytes sl.featN) 0 none (r.pos + 1) false)

/-- The next vector of a run (R228); `lost` tells that the entry's read was uncorrectable. -/
def State.treInput (s : State) (e : Nat) (r : TRun) (sl : TSlot) (lost : Bool) : State × VecIn :=
  if sl.src = 1 ∧ !r.pattern then
    match s.eftAll.find? (fun (p, e) => decide (r.pos ≤ p ∧ (sl.cls = 0 ∨ bits e.key.toNat 63 56 = sl.cls))) with
    | none => (s, .fin)
    | some (p, e) =>
      let new := decide (p < s.eftCap + 64)
      if lost then (s.eftEcc new (if new then p else p - (s.eftCap + 64)), .wait)
      else (s.eftCount, .vec (e.feats.map (fun f => sext f.toNat 32) ++ [s.entryAge e]) 0 (some e.key) (p + 1) false)
  else if sl.src = 0 ∧ !r.pattern then
    match s.recordOf r.epoch with
    | .inl true => (s, .wait)
    | .inl false => (s, .fault 18)
    | .inr (_, fs) =>
      let (x, n, s) := recordVector fs sl.fmap s
      (s, .vec x n none 1 true)
  else if !r.pattern then s.treHostIn e r sl
  else if sl.nVec ≤ r.pos then (s, .fin)
  else
    let din := s.patInput (4 * sl.featN * r.pos) (4 * sl.featN)
    (s, .vec (intWords din sl.featN) 0 none (r.pos + 1) (decide (sl.nVec ≤ r.pos + 1)))

/-- What a run emits for a vector's outputs (R234): none where it must stall on a full queue. -/
def State.treEmit (s : State) (e : Nat) (r : TRun) (sl : TSlot) (key : Option Word) (y : List Int) : Option (State × TRun) :=
  let words := y.flatMap fun v => leBytes 8 (wrapI v 64)
  if r.pattern then some (s, r)
  else if sl.src = 2 then
    some (s.beginWrite 5 e (s.fld Fd.TRE_CFG_PUMP_CH e) sl.xltCtx (sl.outVa + 8 * sl.nOut * r.pos) words, r)
  else if sl.src = 1 ∧ y.getD 0 0 < sl.emitMin then some (s, r)
  else if sl.src = 1 ∧ (if sl.emitMax = 0 then 256 else sl.emitMax) ≤ r.emitted then
    some (s.bump Fd.TRE_CNT_EMIT_DROP e, { r with drop := r.drop + 1 })
  else if 32 ≤ (s.tr e).vq.length then none
  else
    let body := (match key with | some k => leBytes 8 k.toNat | none => []) ++ words
    let v := s.verdict sl.vcode r.job r.gen r.epoch (r.featSat != 0) body
    some (((s.setTr e { s.tr e with vq := (s.tr e).vq ++ [v] }).ev .tre e 4).capVerdict sl.vcode, { r with emitted := r.emitted + 1 })

/-- One vector of a run (R228 to R234). -/
def treVector (e : Nat) (lost : Bool) (ecc : Option Nat) (s : State) : State :=
  match (s.tr e).run with
  | none => s
  | some r =>
    if !s.primed ∨ s.inReset .tre e ∨ (s.outOfService .tre e ∧ !r.pattern) then s
    else match ecc with
    | some n => s.treFault e 19 (n % 2 ^ 20)
    | none =>
      let sl := (s.tr e).slot r.slot
      match s.treInput e r sl lost with
      | (s, .wait) => s
      | (s, .fin) => s.treEndRun e 0 0
      | (s, .fault code) => s.treFault e code 0xFFFFF
      | (s1, .vec x fs key next last) =>
        let lanes := if s.isTray then 64 else 16
        let (y, c, lane) := treEvaluate (s.tr e) sl x lanes
        let r1 := { r with featSat := r.featSat + fs, catRange := r.catRange + c.cat, missing := r.missing + c.missing
                           cycles := r.cycles + ceilDiv sl.featN lanes + (lane.map (·.2)).foldl max 0 + 8, vectors := r.vectors + 1 }
        match s1.treEmit e r1 sl key y with
        | none => s
        | some (s2, r2) =>
          have s := ((s2.bump Fd.TRE_CNT_FEAT_SAT e fs).bump Fd.TRE_CNT_CAT_RANGE e c.cat).bump Fd.TRE_CNT_MISSING e c.missing
          have s := ((s.ev .tre e 1 (r2.cycles - r.cycles)).ev .tre e 2 (lane.map (·.2)).sum).ev .tre e 3
          have s := s.setTr e { s.tr e with run := some { r2 with pos := next } }
          if last then s.treEndRun e 0 0 else s

/-- TRE_VECTOR. -/
def execTreVector (e : Nat) (lost : Bool) (ecc : Option Nat) (s : State) : Host.Outcome State Fault Refusal :=
  done (treVector e lost ecc s).settle

/-- A write of `TRE_ABORT` (R235). -/
def treAbortWrite (e : Nat) (d : Word) (s : State) : State :=
  let k := bits d.toNat 3 0
  let res := fun (s : State) (n : Nat) => s.setTr e { s.tr e with abortRes := n }
  let t := s.tr e
  if 3 < k then res s 3
  else if t.run.any (·.slot == k) then (res s 1).treEndRun e 1 0
  else match t.pend.find? (·.slot == k) with
  | none => res s 2
  | some r => (s.setTr e { t with pend := t.pend.filter (·.slot != k), abortRes := 1 }).treEnd e r 1 0

/-- TRE_ABORT. -/
def execTreAbort (q : Req) (e : Nat) (d : Word) (s : State) : Host.Outcome State Fault Refusal :=
  done (s.rowWrite q .tre e 0x58 d fun s => (treAbortWrite e d s).okay)

/-! ### The slot table (Table 09-12) -/

/-- READ. -/
def treSlotRead (e k : Nat) (s : State) : WinOut :=
  if 4 ≤ k then s.win 2
  else
    let sl := (s.tr e).slot k
    s.winData ([sl.imageVa, sl.inVa, sl.outVa,
      b2n sl.valid * 2 ^ 63 + sl.xltCtx * 2 ^ 32 + sl.cls * 2 ^ 24 + b2n sl.epochTrg * 2 ^ 22 + sl.nodeBase,
      sl.setBase * 2 ^ 32 + sl.emitMax * 2 ^ 16, sl.nVec, sl.trees.length * 2 ^ 48 + sl.nNodes].map (BitVec.ofNat 64))

/-- TRE_SLOT_READ. -/
def execTreSlotRead (q : Req) (e k : Nat) (s : State) : Host.Outcome State Fault Refusal :=
  done (s.winCmd q .tre e 0 1 k (treSlotRead e k))

/-- WRITE: the configuration words of a slot without a run. -/
def treSlotWrite (e k : Nat) (s : State) : WinOut :=
  if 4 ≤ k then s.win 2
  else if (s.tr e).hasRun k then s.win 7
  else
    let w := fun i => (s.data .tre e i).toNat
    let sl := { (s.tr e).slot k with
      imageVa := bits (w 0) 47 0, inVa := bits (w 1) 47 0, outVa := bits (w 2) 47 0, xltCtx := bits (w 3) 41 32
      cls := bits (w 3) 31 24, epochTrg := bit (w 3) 22, nodeBase := bits (w 3) 21 0, setBase := bits (w 4) 46 32
      emitMax := bits (w 4) 31 16, nVec := bits (w 5) 31 0 }
    (s.setTr e { s.tr e with slots := (s.tr e).slots.set k sl }).win 0

/-- TRE_SLOT_WRITE. -/
def execTreSlotWrite (q : Req) (e k : Nat) (s : State) : Host.Outcome State Fault Refusal :=
  done (s.winCmd q .tre e 0 2 k (treSlotWrite e k))

/-- A slot loses its ensemble. -/
def State.treEmpty (s : State) (e k : Nat) : State :=
  s.setTr e { s.tr e with slots := (s.tr e).slots.set k { (s.tr e).slot k with valid := false } }

/-- LOAD (R227). -/
def treLoadWin (e k : Nat) (s : State) : WinOut :=
  if 4 ≤ k then s.win 2
  else if (s.tr e).hasRun k then s.win 7
  else
    let sl := (s.tr e).slot k
    have s := s.treEmpty e k
    have s := s.setTr e { s.tr e with loading := some k }
    (s.beginRead 4 e (s.fld Fd.TRE_CFG_PUMP_CH e) sl.xltCtx sl.imageVa 256).winBusy

/-- TRE_LOAD. -/
def execTreLoad (q : Req) (e k : Nat) (s : State) : Host.Outcome State Fault Refusal :=
  done (s.winCmd q .tre e 0 5 k (treLoadWin e k))

/-- A load ends with a code of Table 09-3. -/
def State.treLoadFail (s : State) (e k code : Nat) (idx : Option Nat) : State :=
  have s := s.setReg Rg.TRE_FAULT_LAST e (BitVec.ofNat 64 (2 ^ 63 + k % 4 * 2 ^ 56 + code * 2 ^ 48 + idx.getD 0xFFFFF % 2 ^ 20))
  s.winEnd .tre e 6 (code * 2 ^ 24 + idx.getD 0xFFFFFF)

/-- The image of a LOAD has arrived. -/
def treLoadDone (e : Nat) (s : State) : State :=
  match (s.tr e).loading, s.carried 4 e with
  | some k, some img =>
    have s := (s.setTr e { s.tr e with loading := none }).endXfer 4 e
    match s.treCheck e k img with
    | some (code, idx) => s.treLoadFail e k code idx
    | none => (s.trePut e k img).winEnd .tre e 0
  | _, _ => s

/-- TRE_LOAD_DONE. -/
def execTreLoadDone (e : Nat) (s : State) : Host.Outcome State Fault Refusal := done (treLoadDone e s)

/-- UNLOAD (R253). -/
def treUnload (e k : Nat) (s : State) : WinOut :=
  if 4 ≤ k then s.win 2 else if (s.tr e).hasRun k then s.win 7 else (s.treEmpty e k).win 0

/-- TRE_UNLOAD. -/
def execTreUnload (q : Req) (e k : Nat) (s : State) : Host.Outcome State Fault Refusal :=
  done (s.winCmd q .tre e 0 6 k (treUnload e k))

/-- `TRE_STAT` (Table 09-11); a pattern's hidden slot shows in none of its bits. -/
def treStat (e : Nat) (s : State) : Nat :=
  let t := s.tr e
  let mask := fun (l : List Nat) => l.foldl (fun a k => if k < 4 then Nat.lor a (2 ^ k) else a) 0
  let run := match t.run with
    | some r => if r.pattern then none else some r.slot
    | none => none
  mask (t.pend.map (·.slot)) * 2 ^ 60 + mask ((t.slots.filter fun x => x.2.valid).map (·.1)) * 2 ^ 56 + t.abortRes * 2 ^ 16 +
    run.getD 15 * 16 + (if s.outOfService .tre e then 2 else b2n run.isSome)

/-- `PG_CTRL.UNIT_RESET` of a TRE page (R235). -/
def treReset (e : Nat) (s : State) : State :=
  have s := (s.treEndAll e 3).endXfer 4 e
  let t := s.tr e
  s.setTr e { t with slots := t.slots.mapV fun _ sl => { sl with valid := false }
                     vq := [], loading := none, abortRes := 0 }

end Sys2Proof.Machine
end

