-- ==== Sys2Proof/Machine/Cor.lean ====
section
/-! DEFINITION. COR (chapter 10): start and stop, authenticated firmware (R260 to R262), the mailboxes, the EFT command ports, host
accesses, the address map and local registers, traps, interrupts and watchdogs. A core's RV32IMAC instructions are no commands of the
block; the accesses they make are. -/

namespace Sys2Proof.Machine

/-! ### RUN -/

/-- One bit of a write of `COR_RUN` (R262, Table 18-2). -/
def State.coreRunBit (s : State) (c : Nat) (b : Bool) : State :=
  let old := s.coreBit Rg.COR_RUN c
  if b ∧ !old then
    if (s.reg Rg.SCR_DEGRADED).getLsbD (32 + c) then s.pgErr .cor 0 .unit 0x58 3
    else if !s.coreBit Rg.COR_LOADED c then s.pgErr .cor 0 .unit 0x58 2
    else ((s.setCoreBit Rg.COR_RUN c true).setCoreBit Rg.COR_HALTED c false).coreStart c
  else if !b ∧ old then (s.setCoreBit Rg.COR_RUN c false).coreReset c
  else s

/-- A write of `COR_RUN`. -/
def corRunWrite (d : Word) (s : State) : State :=
  (List.range s.coreCount).foldl (fun s c => s.coreRunBit c (d.getLsbD c)) s

/-- CORE_START. -/
def execCoreStart (q : Req) (d : Word) (s : State) : Host.Outcome State Fault Refusal :=
  done (s.rowWrite q .cor 0 0x58 d fun s => (corRunWrite d s).okay)

/-- CORE_STOP. -/
def execCoreStop (q : Req) (d : Word) (s : State) : Host.Outcome State Fault Refusal :=
  done (s.rowWrite q .cor 0 0x58 d fun s => (corRunWrite d s).okay)

/-- A write of `COR_SHARED` (R258, R273). -/
def corSharedWrite (d : Word) (s : State) : State :=
  if s.reg Rg.COR_RUN ≠ 0 then s.pgErr .cor 0 .unit 0x50 1 else s.plainWrite .cor 0 0x50 0 d id

/-- COR_SHARED_WRITE. -/
def execCorSharedWrite (q : Req) (d : Word) (s : State) : Host.Outcome State Fault Refusal :=
  done (s.rowWrite q .cor 0 0x50 d fun s => (corSharedWrite d s).okay)

/-! ### Firmware -/

/-- The checks 2 to 6 of Table 10-3 on a signed image of `size` bytes; 0 when all pass. In RETURN every slot but 0 counts as revoked
(R527). -/
def State.authCheck (s : State) (m : Bytes) (size : Nat) : Nat :=
  let slot := rdLE m 7 1
  let be := fun (off n : Nat) => rdBE m off n
  match s.lcm.otp.keys.get? slot with
  | none => 2
  | some h =>
    if s.lcm.lcState = 0 then 2
    else if s.lcm.otp.revoked.getLsbD slot ∨ (s.lcm.lcState = 3 ∧ slot ≠ 0) then 3
    else if sha384 ((m.drop 32).take 96) ≠ h.toNat then 4
    else if rdLE m 16 4 < s.lcm.otp.svnMin then 5
    else if ecdsaOk (sha384 (zeroAt (m.take size) 128 96)) (be 32 48) (be 80 48) (be 128 48) (be 176 48) then 0 else 6

/-- BAD_IMAGE of a firmware image (Tables 10-2, 10-3). -/
def State.fwBadImage (s : State) (m : Bytes) : Bool :=
  let code := rdLE m 8 4
  let data := rdLE m 12 4
  decide (rdLE m 0 4 ≠ 0x31524F43 ∨ rdLE m 4 2 ≠ 1 ∨ rdLE m 6 1 ≠ b2n s.isTray ∨ 3 < rdLE m 7 1 ∨ code < 4 ∨ 65536 < code ∨ code % 4 ≠ 0 ∨
    65536 < data ∨ data % 4 ≠ 0 ∨ rdLE m 20 4 % 4 ≠ 0 ∨ code ≤ rdLE m 20 4 ∨ rdLE m 24 8 ≠ 0 ∨ rdLE m 224 32 ≠ 0 ∨
    m.length < 256 + code + data)

/-- The CODE of a firmware load, 0 when every check passes. -/
def State.fwCheck (s : State) (m : Bytes) : Nat :=
  if s.fwBadImage m then 1 else s.authCheck m (256 + rdLE m 8 4 + rdLE m 12 4)

/-- Every core of a mask, changed. -/
def State.eachCore (s : State) (mask : Nat) (f : State → Nat → State) : State :=
  (List.range s.coreCount).foldl (fun s c => if bit mask c then f s c else s) s

/-- COR LOAD (R261, R262, R266). -/
def fwLoadWin (s : State) : WinOut :=
  let mask := bits (s.data .cor 0 2).toNat 31 0
  if mask = 0 ∨ 2 ^ s.coreCount ≤ mask then s.win 2
  else if Nat.land (s.reg Rg.COR_RUN).toNat mask ≠ 0 then s.win 7
  else
    have s := { s with cor := { s.cor with load := some mask } }
    (s.beginRead 6 0 (s.fld Fd.COR_CFG_PUMP_CH) (bits (s.data .cor 0 1).toNat 41 32) (bits (s.data .cor 0 0).toNat 47 0) 256).winBusy

/-- FW_LOAD. -/
def execFwLoad (q : Req) (s : State) : Host.Outcome State Fault Refusal := done (s.winCmd q .cor 0 0 5 0 fwLoadWin)

/-- A LOAD fails with a CODE of Table 10-3 (R261). -/
def State.fwFail (s : State) (mask code : Nat) : State :=
  have s := s.eachCore mask fun s c =>
    (s.setCore c { s.core c with imem := [], dmem := [] }).setCoreBit Rg.COR_LOADED c false
  ((s.bump Fd.COR_CNT_AUTH_FAIL).fault .cor 0 1).winEnd .cor 0 6 (code * 2 ^ 24)

/-- Verification ends (R261): the memories of the selected cores are written, or zero-filled. -/
def fwLoadDone (s : State) : State :=
  match s.cor.load, s.carried 6 0 with
  | some mask, some img =>
    have s := ({ s with cor := { s.cor with load := none } }).endXfer 6 0
    let code := s.fwCheck img
    if code ≠ 0 then s.fwFail mask code
    else
      let n := rdLE img 8 4
      have s := s.eachCore mask fun s c =>
        let k := s.core c
        (s.setCore c { k with imem := Mem.write k.imem 0 ((img.drop 256).take n), entry := rdLE img 20 4
                              dmem := Mem.write k.dmem 0 ((img.drop (256 + n)).take (rdLE img 12 4)) }
          ).setCoreBit Rg.COR_LOADED c true
      s.winEnd .cor 0 0
  | _, _ => s

/-- FW_LOAD_DONE. -/
def execFwLoadDone (s : State) : Host.Outcome State Fault Refusal := done (fwLoadDone s)

/-! ### Mailboxes (R264, R265) -/

/-- The driver pushes into a core's inbound FIFO. -/
def mbxPush (c : Nat) (s : State) : WinOut :=
  if s.coreCount ≤ c then s.win 2
  else
    let k := s.core c
    if 16 ≤ k.inQ.length then s.win 4 else (s.setCore c { k with inQ := k.inQ ++ [s.dataBytes .cor 0 32] }).win 0

/-- MBX_PUSH_DRIVER. -/
def execMbxPushDriver (q : Req) (c : Nat) (s : State) : Host.Outcome State Fault Refusal := done (s.winCmd q .cor 0 1 2 c (mbxPush c))

/-- The driver pops a core's outbound FIFO. -/
def mbxPop (c : Nat) (s : State) : WinOut :=
  if s.coreCount ≤ c then s.win 2
  else
    let k := s.core c
    match k.outQ with
    | [] => s.win 1
    | m :: ms => (s.setCore c { k with outQ := ms }).winData (toWords 4 m)

/-- MBX_POP_DRIVER. -/
def execMbxPopDriver (q : Req) (c : Nat) (s : State) : Host.Outcome State Fault Refusal := done (s.winCmd q .cor 0 1 1 c (mbxPop c))

/-- A core executes and no host access holds it (R269). -/
def State.coreFree (s : State) (c : Nat) : Bool := s.coreRuns c && (s.core c).host.isNone

/-- CORE_MBX_POP: an empty FIFO has no head to remove. -/
def coreMbxPop (c : Nat) (s : State) : State :=
  if s.coreFree c then s.setCore c { s.core c with inQ := (s.core c).inQ.tail } else s

def execCoreMbxPop (c : Nat) (s : State) : Host.Outcome State Fault Refusal := done (coreMbxPop c s)

/-- A write of `CL_MBX_PUSH`: `CL_MBX_OUT0` to `OUT3` hold 16 bytes of the 32; the manual does not say what fills the rest: free
values. -/
def State.mbxSend (s : State) (c : Nat) (pc : BitVec 32) : State :=
  let msg := (s.core c).mbxOut
  if 16 ≤ (s.core c).outQ.length then s.coreTrap c pc 7 0x20000040
  else
    let (rest, s) := s.freeBytes 16
    (s.setCore c { s.core c with outQ := (s.core c).outQ ++ [leBytes 16 msg.toNat ++ rest] }).level 7

/-- CORE_MBX_PUSH: the core writes its message to `CL_MBX_OUT0` to `OUT3` and then `CL_MBX_PUSH`. -/
def coreMbxPush (c : Nat) (pc : BitVec 32) (msg : BitVec 128) (s : State) : State :=
  if s.coreFree c then (s.setCore c { s.core c with mbxOut := msg }).mbxSend c pc else s

def execCoreMbxPush (c : Nat) (pc : BitVec 32) (msg : BitVec 128) (s : State) : Host.Outcome State Fault Refusal :=
  done (coreMbxPush c pc msg s)

/-! ### The EFT command port (R263) -/

/-- A write of `CL_EFT_CMD`: ignored while BUSY. The command's outcome stands until CORE_EFT_DONE shows it. -/
def State.coreEft (s : State) (c : Nat) (key : Word) (opt buf : Nat) (op : State → EftOut) : State :=
  if !s.coreFree c ∨ (s.core c).eftBusy then s
  else
    let o := op (s.setCore c { s.core c with eftKey := key, eftOpt := BitVec.ofNat 16 opt, eftBuf := buf })
    let k := o.st.core c
    let dmem := match o.ent with
      | some m => Mem.write k.dmem (256 * (buf % 256)) m
      | none => k.dmem
    o.st.setCore c { k with dmem, eftRes := o.res, eftIdx := BitVec.ofNat 32 o.pos, eftBusy := true }

/-- CORE_EFT_READ. -/
def execCoreEftRead (c : Nat) (key : Word) (buf : Nat) (ecc : Bool) (s : State) : Host.Outcome State Fault Refusal :=
  done (s.coreEft c key (s.core c).eftOpt.toNat buf (eftRead key.toNat ecc))

/-- CORE_EFT_WRITE: `ent` is what the core's stores have put into DMEM at BUF × 256. -/
def coreEftWrite (c : Nat) (key : Word) (opt buf : Nat) (ent : Bytes) (ecc : Bool) (s : State) : State :=
  if !s.coreFree c then s
  else
    let m := (ent ++ List.replicate 256 0).take 256
    have s := s.setCore c { s.core c with dmem := Mem.write (s.core c).dmem (256 * (buf % 256)) m }
    s.coreEft c key opt buf (eftWrite key.toNat opt m ecc)

def execCoreEftWrite (c : Nat) (key : Word) (opt buf : Nat) (ent : List Byte) (ecc : Bool) (s : State) :
    Host.Outcome State Fault Refusal := done (coreEftWrite c key opt buf ent ecc s)

/-- CORE_EFT_DELETE. -/
def execCoreEftDelete (c : Nat) (key : Word) (ecc : Bool) (s : State) : Host.Outcome State Fault Refusal :=
  done (s.coreEft c key (s.core c).eftOpt.toNat (s.core c).eftBuf (eftDelete key.toNat ecc))

/-- CORE_EFT_READ_POS: the port has no INDEX register of its own; the position is the low half of the key (DEDUCED, log entry 53). -/
def execCoreEftReadPos (c : Nat) (key : Word) (buf : Nat) (ecc : Bool) (s : State) : Host.Outcome State Fault Refusal :=
  done (s.coreEft c key (s.core c).eftOpt.toNat buf (eftReadPos (bits key.toNat 31 0) ecc))

/-- CORE_EFT_PURGE_GEN. -/
def execCoreEftPurgeGen (c : Nat) (opt : Nat) (s : State) : Host.Outcome State Fault Refusal :=
  done (s.coreEft c (s.core c).eftKey opt (s.core c).eftBuf fun s => ⟨eftPurge (bits opt 15 8) (.core c) s, 0, 0, none⟩)

/-- A write of `CL_EFT_CMD` with the port's key, options and the entry its BUF names in DMEM (R263): OP 6 and any other OP complete with
BAD_OP. -/
def State.coreEftCmd (s : State) (c op buf : Nat) (ecc : Bool) : State :=
  let k := s.core c
  let key := k.eftKey.toNat
  s.coreEft c k.eftKey k.eftOpt.toNat buf fun s =>
    match op with
    | 1 => eftRead key ecc s
    | 2 => eftWrite key k.eftOpt.toNat (Mem.read k.dmem (256 * (buf % 256)) 256) ecc s
    | 3 => eftDelete key ecc s
    | 4 => eftReadPos (bits key 31 0) ecc s
    | 5 => ⟨eftPurge (bits k.eftOpt.toNat 15 8) (.core c) s, 0, 0, none⟩
    | _ => ⟨s, 3, 0, none⟩

/-- A purge of core `c` runs. -/
def State.purging (s : State) (c : Nat) : Bool := s.eft.purge.any fun p => p.2 == EftBy.core c

/-- CORE_EFT_DONE: BUSY falls and interrupt 18 is pending. -/
def coreEftDone (c : Nat) (s : State) : State :=
  let k := s.core c
  if k.eftBusy ∧ !s.purging c then s.setCore c { k with eftBusy := false, irq := k.irq ||| 4 } else s

def execCoreEftDone (c : Nat) (s : State) : Host.Outcome State Fault Refusal := done (coreEftDone c s)

/-- EFT_PURGE_DONE: the oldest PURGE_GEN has visited every entry. The window's command ends here, a core's at CORE_EFT_DONE. -/
def eftPurgeDone (s : State) : State :=
  match s.eft.purge with
  | [] => s
  | (gen, b) :: r =>
    have s := ({ s with eft := { s.eft with purge := r } }).eftPurgeAll gen
    match b with
    | .window => s.winEnd .eft 0 0
    | .core _ => s

def execEftPurgeDone (s : State) : Host.Outcome State Fault Refusal := done (eftPurgeDone s)

/-! ### Host accesses (R259, R269) -/

/-- An instruction of a core retires, `stall` fast cycles of which it was held up (Table 20-2). -/
def State.coreDone (s : State) (stall : Nat := 0) : State := (s.ev .cor 0 1).ev .cor 0 2 stall

/-- A core's access to the host window: `off` is the offset in it. An atomic access takes the store/AMO access fault; an access that
the TLB does not serve stalls the core until its walk has answered. -/
def coreHostAccess (c : Nat) (pc : BitVec 32) (off : Nat) (write atomic : Bool) (data : Bytes) (s : State) : State :=
  let k := s.core c
  let same := match k.host with
    | some (o, w, _) => o == off && w == write
    | none => true
  if !s.coreRuns c ∨ !same ∨ 2 ^ 31 ≤ off then s
  else if atomic then s.coreTrap c pc 7 (BitVec.ofNat 32 (2 ^ 31 + off))
  else
    let va := (s.fld Fd.COR_HOSTWIN_BASE + off) % 2 ^ 48
    let ctx := s.fld Fd.COR_CFG_XLT_CTX
    if s.tlbHas ctx va write then
      let stall := (k.host.map fun x => (s.aon - x.2.2) * s.fastRatio).getD 0
      have s := (((s.tlbUse ctx va).setCore c { k with host := none, pc }).endXfer 7 c).coreDone stall
      if write then (s.hostPut ctx va data).bytes 5 data.length
      else
        have s := (s.hostGet ctx va data.length).bytes 4 data.length
        s.setCore c { s.core c with rdata := BitVec.ofNat 32 (leNat data) }
    else if k.host.isSome then s
    else (s.setCore c { k with host := some (off, write, s.aon), pc }).beginRanges 7 c 0x3F ctx [(va, max 1 data.length)] write data false

def execCoreHostAccess (c : Nat) (pc : BitVec 32) (off : Nat) (write atomic : Bool) (data : List Byte) (s : State) :
    Host.Outcome State Fault Refusal := done (coreHostAccess c pc off write atomic data s)

/-- A stalled host access ends with its access fault (R269): an abort, or the stall limit. -/
def State.coreXltAbort (s : State) (c : Nat) : State :=
  let k := s.core c
  match k.host with
  | none => s
  | some (off, write, _) =>
    have s := (s.setCore c { k with host := none }).endXfer 7 c
    have s := (s.corLast c 4 k.pc).bump Fd.COR_CNT_XLT_ABORT
    s.coreTrap c k.pc (if write then 7 else 5) (BitVec.ofNat 32 (2 ^ 31 + off))

/-- CORE_XLT_STALL_TIMEOUT: `COR_CFG.XLT_STALL_US` after the fault. -/
def coreXltStallTimeout (c : Nat) (s : State) : State :=
  match s.xlt.faults.find? (fun f => f.client = 7 ∧ f.inst = c) with
  | none => s
  | some f => if s.coreRuns c then (s.reach (f.edge + s.fld Fd.COR_CFG_XLT_STALL_US * cyUs)).coreXltAbort c else s

def execCoreXltStallTimeout (c : Nat) (s : State) : Host.Outcome State Fault Refusal := done (coreXltStallTimeout c s)

/-! ### Traps and interrupts -/

/-- A core's timer interrupt stands (R267): mtime is the AON cycle. -/
def State.mtip (s : State) (c : Nat) : Bool := decide ((s.core c).mtimecmp.toNat ≤ s.aon)

/-- The condition of an interrupt cause (Table 10-7); its edge sources are pending bits, taken by the trap. -/
def State.coreWants (s : State) (c cause : Nat) : Bool :=
  let k := s.core c
  if cause = 11 then !k.inQ.isEmpty else if cause = 7 then s.mtip c
  else if 16 ≤ cause ∧ cause ≤ 18 then k.irq.getLsbD (cause - 16) else false

/-- A core takes an interrupt that stands, unless it is in a trap. -/
def State.coreInterrupt (s : State) (c : Nat) (pc : BitVec 32) (n : Nat) : State :=
  let k := s.core c
  if k.inTrap ∨ !s.coreWants c n then s
  else
    let k := if 16 ≤ n then { k with irq := k.irq &&& ~~~(BitVec.ofNat 3 (2 ^ (n - 16))) } else k
    (s.setCore c k).coreTrap c pc (BitVec.ofNat 32 (2 ^ 31 + n)) 0

/-! ### The address map (R256 to R259, Table 10-1) -/

/-- The ranges of Table 10-1. -/
inductive CoreMem where
  | imem | dmem | local | regs | shared | host
  deriving DecidableEq, Repr

/-- Bytes an access covers; a fetch goes by the 2 bytes of a compressed instruction. -/
def accSize : CoreOp → Nat
  | .fetch => 2
  | .load n => n
  | .store n => n
  | _ => 4

/-- The range that holds the `n` bytes at core address `a` whole, and their offset in it; `shared` is what COR_SHARED opens. -/
def coreMem (shared a n : Nat) : Option (CoreMem × Nat) :=
  let within := fun (m : CoreMem) (base size : Nat) => if base ≤ a ∧ a + n ≤ base + size then some (m, a - base) else none
  within .imem 0 0x10000 <|> within .dmem 0x10000000 0x10000 <|> within .local 0x20000000 0x100 <|>
    within .regs 0x30000000 0x400000 <|> within .shared 0x40000000 (min shared 0x1000000) <|> within .host 0x80000000 0x80000000

/-- What Table 10-1 allows in a range. An AMO, load-reserved or store-conditional must be aligned (PRESUMED, as RV32A has it, log
entry 126). -/
def CoreMem.allows (m : CoreMem) (off : Nat) (op : CoreOp) : Bool :=
  match m, op with
  | .imem, .fetch => true
  | .imem, .load _ => true
  | .dmem, .fetch => false
  | .shared, .fetch => false
  | .dmem, .load _ => true
  | .dmem, .store _ => true
  | .dmem, _ => off % 4 == 0
  | .shared, .load _ => true
  | .shared, .store _ => true
  | .shared, _ => off % 4 == 0
  | .host, .load _ => true
  | .host, .store _ => true
  | .local, .load n => n == 4 && off % 4 == 0
  | .local, .store n => n == 4 && off % 4 == 0
  | .regs, .load n => n == 4 && off % 4 == 0
  | .regs, .store n => n == 4 && off % 4 == 0
  | _, _ => false

/-- The access fault of an access's kind: instruction, load or store/AMO (R256, R259). -/
def accFault : CoreOp → BitVec 32
  | .fetch => 1
  | .load _ => 5
  | _ => 7

/-- Bytes of the shared window that COR_SHARED opens. -/
def State.sharedSize (s : State) : Nat := s.fld Fd.COR_SHARED_SIZE * 65536

/-- Where an access of a core goes; none where it takes its access fault. -/
def State.coreAt (s : State) (a : Nat) (op : CoreOp) : Option (CoreMem × Nat) :=
  (coreMem s.sharedSize a (accSize op)).filter fun x => x.1.allows x.2 op

/-- An access reads a memory with ECC: IMEM, DMEM or the shared window (R258). -/
def CoreMem.ecc (m : CoreMem) (op : CoreOp) : Bool :=
  (m == .imem || m == .dmem || m == .shared) && match op with | .store _ => false | .sc => false | _ => true

/-- An uncorrectable read of a core's memory (R258). -/
def State.coreUncorr (s : State) (c : Nat) (pc addr : BitVec 32) (op : CoreOp) : State :=
  ((s.corLast c 3 pc).fault .cor 0 0 (some (32 + c))).coreTrap c pc (accFault op) addr

/-- The operations of RV32A. -/
def amoEval (f : AmoOp) (old x : BitVec 32) : BitVec 32 :=
  match f with
  | .swap => x
  | .add => old + x
  | .xor => old ^^^ x
  | .and => old &&& x
  | .or => old ||| x
  | .min => if old.toInt ≤ x.toInt then old else x
  | .max => if old.toInt ≤ x.toInt then x else old
  | .minu => if old.toNat ≤ x.toNat then old else x
  | .maxu => if old.toNat ≤ x.toNat then x else old

/-- Bytes of IMEM, DMEM or the shared window. -/
def State.coreRead (s : State) (c : Nat) (m : CoreMem) (off n : Nat) : BitVec 32 :=
  BitVec.ofNat 32 (leNat (match m with
    | .imem => Mem.read (s.core c).imem off n
    | .dmem => Mem.read (s.core c).dmem off n
    | _ => Mem.read s.sram (s.fld Fd.COR_SHARED_BASE * 65536 + off) n))

/-- `n` bytes stored in DMEM or the shared window; a store to the 64 bytes of a reservation in the window ends every other core's
(R258). -/
def State.coreWrite (s : State) (c : Nat) (m : CoreMem) (addr off n : Nat) (v : BitVec 32) : State :=
  let b := leBytes n v.toNat
  match m with
  | .dmem => s.setCore c { s.core c with dmem := Mem.write (s.core c).dmem off b }
  | .shared =>
    have cores := s.cor.cores.mapV fun d k =>
      if d ≠ c ∧ (k.resv = some (addr / 64) ∨ k.resv = some ((addr + n - 1) / 64)) then { k with resv := none } else k
    { s.bytes 1 n with sram := Mem.write s.sram (s.fld Fd.COR_SHARED_BASE * 65536 + off) b, cor := { s.cor with cores } }
  | _ => s

/-- An access to IMEM, DMEM or the shared window, one step for all cores: a load, AMO or load-reserved returns the old value, a
store-conditional 0 where it stored and 1 where it did not. -/
def State.coreData (s : State) (c : Nat) (m : CoreMem) (addr off : Nat) (op : CoreOp) (data : BitVec 32) : State :=
  let give := fun (s : State) (v : BitVec 32) (r : Option Nat) => s.setCore c { s.core c with rdata := v, resv := r }
  let old := s.coreRead c m off (accSize op)
  let held := (s.core c).resv
  let reads : Bool := match op with | .load _ => true | .amo _ => true | .lr => true | _ => false
  have s := if m = .shared ∧ reads = true then s.bytes 0 (accSize op) else s
  match op with
  | .fetch => s
  | .load _ => give s old held
  | .store n => s.coreWrite c m addr off n data
  | .amo f => give (s.coreWrite c m addr off 4 (amoEval f old data)) old held
  | .lr => give s old (some (addr / 64))
  | .sc => if held = some (addr / 64) then give (s.coreWrite c m addr off 4 data) 0 none else give s 1 none

/-! ### The core-local registers (Table 10-4) -/

/-- What a core reads in its local registers. The four words of CL_MBX_IN are the first 16 bytes of the 32 of the head message (DESIGN
CHOICE, log entry 126). -/
def State.clRead (s : State) (c off : Nat) : BitVec 32 :=
  let k := s.core c
  let v : Nat :=
    if off = 0x00 then c
    else if off = 0x04 then k.rstat.toNat
    else if off = 0x08 then k.regHi.toNat
    else if 0x10 ≤ off ∧ off < 0x20 then rdLE (k.inQ.headD []) (off - 0x10) 4
    else if off = 0x24 then k.outQ.length * 256 + k.inQ.length
    else if 0x30 ≤ off ∧ off < 0x40 then k.mbxOut.toNat / 2 ^ (8 * (off - 0x30))
    else if off = 0x88 then k.eftOpt.toNat
    else if off = 0x90 then k.eftKey.toNat
    else if off = 0x94 then k.eftKey.toNat / 2 ^ 32
    else if off = 0x98 then k.eftRes * 256 + b2n k.eftBusy
    else if off = 0x9C then k.eftIdx.toNat
    else if off = 0xA0 then k.mtimecmp.toNat
    else if off = 0xA4 then k.mtimecmp.toNat / 2 ^ 32
    else if off = 0xA8 then s.aon
    else if off = 0xAC then s.aon / 2 ^ 32 else 0
  BitVec.ofNat 32 v

/-- A core restarts its watchdog by 0x5EED (R271); other values are ignored. -/
def State.kicked (s : State) (c : Nat) (v : BitVec 32) : State :=
  if v = 0x5EED then s.setCore c { s.core c with kickAt := s.aon, barked := false } else s

/-- A core writes a local register; one that is read only, or that Table 10-4 does not list, takes no write (DESIGN CHOICE, log entry
126). `ecc` is the entry read of a command that CL_EFT_CMD starts. -/
def State.clWrite (s : State) (c : Nat) (pc : BitVec 32) (off : Nat) (v : BitVec 32) (ecc : Bool) : State :=
  let k := s.core c
  let put := fun (k : CoreSt) => s.setCore c k
  if off = 0x08 then put { k with regHi := v }
  else if off = 0x20 then put { k with inQ := k.inQ.tail }
  else if 0x30 ≤ off ∧ off < 0x40 then
    put { k with mbxOut := BitVec.ofNat 128 (putBits k.mbxOut.toNat (8 * (off - 0x30) + 31) (8 * (off - 0x30)) v.toNat) }
  else if off = 0x40 then s.mbxSend c pc
  else if off = 0x50 then s.kicked c v
  else if off = 0x80 then s.coreEftCmd c (bits v.toNat 7 0) (bits v.toNat 23 16) ecc
  else if off = 0x88 then put { k with eftOpt := v.truncate 16 }
  else if off = 0x90 then put { k with eftKey := BitVec.ofNat 64 (putBits k.eftKey.toNat 31 0 v.toNat) }
  else if off = 0x94 then put { k with eftKey := BitVec.ofNat 64 (putBits k.eftKey.toNat 63 32 v.toNat) }
  else if off = 0xA0 then put { k with mtimecmp := BitVec.ofNat 64 (putBits k.mtimecmp.toNat 31 0 v.toNat) }
  else if off = 0xA4 then put { k with mtimecmp := BitVec.ofNat 64 (putBits k.mtimecmp.toNat 63 32 v.toNat) }
  else s

/-- An access to a core's local registers; a push to a full mailbox traps and does not retire. -/
def State.coreLocal (s : State) (c : Nat) (pc : BitVec 32) (off : Nat) (op : CoreOp) (data : BitVec 32) (ecc : Bool) : State :=
  match op with
  | .store _ => if off = 0x40 ∧ 16 ≤ (s.core c).outQ.length then s.mbxSend c pc else (s.clWrite c pc off data ecc).coreDone
  | _ => (s.setCore c { s.core c with rdata := s.clRead c off }).coreDone

/-! ### Traps -/

/-- CORE_TRAP (R256, R258, R267, R268): an access traps where Table 10-1 or an uncorrectable read stops it; the access faults are no
exceptions that RISC-V leaves to the program. -/
def coreTrapRow (c : Nat) (pc : BitVec 32) (why : TrapWhy) (s : State) : State :=
  if !s.coreFree c then s
  else match why with
  | .interrupt n => s.coreInterrupt c pc n
  | .access addr op ecc =>
    match s.coreAt addr.toNat op with
    | none => s.coreTrap c pc (accFault op) addr
    | some (m, _) => if ecc && m.ecc op then s.coreUncorr c pc addr op else s
  | .exception cause tval =>
    if cause.getLsbD 31 ∨ cause = 1 ∨ cause = 5 ∨ cause = 7 then s else s.coreTrap c pc cause tval

/-- CORE_TRAP. -/
def execCoreTrap (c : Nat) (pc : BitVec 32) (why : TrapWhy) (s : State) : Host.Outcome State Fault Refusal :=
  done (coreTrapRow c pc why s).settle

/-- CORE_MRET (R268). -/
def coreMret (c : Nat) (s : State) : State :=
  if s.coreFree c then s.setCore c { s.core c with inTrap := false, pc := (s.core c).mepc } else s

def execCoreMret (c : Nat) (s : State) : Host.Outcome State Fault Refusal := done (coreMret c s)

/-- MTIME_MATCH (R267): mtime, the AON cycle, reaches the core's mtimecmp, from where on MTIP stands. -/
def mtimeMatch (c : Nat) (s : State) : State :=
  if s.coreCount ≤ c then s else s.reach (s.core c).mtimecmp.toNat

def execMtimeMatch (c : Nat) (s : State) : Host.Outcome State Fault Refusal := done (mtimeMatch c s)

/-- The edge of an epoch boundary is interrupt 17 of every running core (R267). -/
def State.coresBoundary (s : State) : State :=
  (List.range s.coreCount).foldl (fun s c =>
    if s.coreBit Rg.COR_RUN c then s.setCore c { s.core c with irq := (s.core c).irq ||| 2 } else s) s

/-! ### Watchdogs (R271) -/

/-- WDOG_KICK. -/
def wdogKick (c : Nat) (v : BitVec 32) (s : State) : State := if s.coreFree c then s.kicked c v else s

def execWdogKick (c : Nat) (val : BitVec 32) (s : State) : Host.Outcome State Fault Refusal := done (wdogKick c val s)

/-- A watchdog counts: enabled, its core runs, the domain is primed. -/
def State.wdogOn (s : State) (c : Nat) : Bool := s.fld Fd.COR_WDOG_CFG_ENABLE == 1 && s.coreRuns c

/-- The edge at which the period in progress is over; `kickAt` has moved on by the time the domain was unprimed. -/
def State.wdogEdge (s : State) (c : Nat) : Nat := (s.core c).kickAt + s.fld Fd.COR_WDOG_CFG_PERIOD_US * cyUs

/-- WDOG_BARK: one period without a kick. -/
def wdogBark (c : Nat) (s : State) : State :=
  if s.wdogOn c ∧ !(s.core c).barked then
    have s := s.reach (s.wdogEdge c)
    (s.setCore c { s.core c with irq := (s.core c).irq ||| 1, barked := true, kickAt := s.aon }).bump Fd.COR_CNT_WDOG_BARK
  else s

def execWdogBark (c : Nat) (s : State) : Host.Outcome State Fault Refusal := done (wdogBark c s)

/-- WDOG_BITE: a second period; the core is reset and starts again at ENTRY. -/
def wdogBite (c : Nat) (pc : BitVec 32) (s : State) : State :=
  if s.wdogOn c ∧ (s.core c).barked then
    have s := (s.reach (s.wdogEdge c)).coreStart c
    have s := ((s.bump Fd.COR_CNT_WDOG_BITE).corLast c 2 pc).fault .cor 0 3 (some (32 + c))
    s.event 0x0D01 (leBytes 1 c ++ leBytes 3 0 ++ leBytes 4 pc.toNat)
  else s

/-- WDOG_BITE. -/
def execWdogBite (c : Nat) (pc : BitVec 32) (s : State) : Host.Outcome State Fault Refusal := done (wdogBite c pc s).settle

/-! ### Registers -/

/-- `COR_OTP` (Table 10-8). -/
def corOtp (s : State) : Nat :=
  let o := s.lcm.otp
  let prog := (List.range 4).foldl (fun a k => a + b2n (o.keys.get? k).isSome * 2 ^ k) 0
  o.svnMin % 2 ^ 16 * 2 ^ 16 + o.revoked.toNat * 16 + prog

/-- `PG_CTRL.UNIT_RESET` of COR (R273): every core is reset and its firmware forgotten; a load ends. -/
def corReset (s : State) : State :=
  have s := (List.range s.coreCount).foldl (fun s c => s.coreReset c) s
  ({ s with cor := { s.cor with load := none } }).endXfer 6 0

end Sys2Proof.Machine
end

