-- ==== Sys2Proof/Machine/Nvh.lean ====
section
/-! DEFINITION. NVH (18.4, 18.5): history records and state copies as bytes, the log, forwarding between dies, the journaled commit. -/

namespace Sys2Proof.Machine

/-! ### Bytes -/

/-- A string followed by its CRC-32C. -/
def withCrc (m : Bytes) : Bytes := m ++ leBytes 4 (crc32c m)

/-- A history record (Table 18-3). -/
def NvRec.bytes (r : NvRec) : Bytes :=
  withCrc (leBytes 4 r.seq ++ leBytes 1 r.kind ++ leBytes 1 r.die ++ leBytes 1 r.unit ++ leBytes 1 0 ++ leBytes 5 r.opMinutes ++
    leBytes 3 0 ++ leBytes 4 r.powerCycles ++ leBytes 4 r.detail.toNat ++ leBytes 4 r.data.toNat)

/-- A record read from its 32 bytes; none where its CRC is bad. -/
def NvRec.ofBytes? (m : Bytes) : Option NvRec :=
  if crc32c (m.take 28) ≠ rdLE m 28 4 then none
  else some { seq := rdLE m 0 4, kind := rdLE m 4 1, die := rdLE m 5 1, unit := rdLE m 6 1, opMinutes := rdLE m 8 5
              powerCycles := rdLE m 16 4, detail := BitVec.ofNat 32 (rdLE m 20 4), data := BitVec.ofNat 32 (rdLE m 24 4) }

/-- A state copy (R470). -/
def NvState.bytes (t : NvState) : Bytes :=
  let win := (List.range 64).flatMap fun u => let (c, st) := t.windows.getD u (0, 0); leBytes 2 c ++ leBytes 5 st ++ leBytes 1 0
  withCrc (leBytes 4 0x3148564E ++ leBytes 4 t.gen ++ leBytes 5 t.opMinutes ++ leBytes 3 0 ++ leBytes 4 t.powerCycles ++ leBytes 1 t.lc ++
    leBytes 3 0 ++ leBytes 8 t.degraded.toNat ++ win ++ List.replicate 476 0)

/-- A state copy read from its bytes; none where MAGIC or CRC is bad. -/
def NvState.ofBytes? (m : Bytes) : Option NvState :=
  if rdLE m 0 4 ≠ 0x3148564E ∨ crc32c (m.take 1020) ≠ rdLE m 1020 4 then none
  else
    let win : SMap (Nat × Nat) := (List.range 64).filterMap fun u =>
      let c := rdLE m (32 + 8 * u) 2
      if c = 0 then none else some (u, (c, rdLE m (34 + 8 * u) 5))
    some { gen := rdLE m 4 4, opMinutes := rdLE m 8 5, powerCycles := rdLE m 16 4, lc := rdLE m 20 1
           degraded := BitVec.ofNat 64 (rdLE m 24 8), windows := win }

/-! ### Partitions -/

/-- An erased partition. -/
def NorPart.empty : NorPart :=
  { copyA := none, copyB := none, jour0 := none, jour1 := none, mark0 := none, mark1 := none, log := [] }

def State.part (s : State) (die : Nat) : NorPart := s.nvh.parts.getD die NorPart.empty
def State.setPart (s : State) (die : Nat) (p : NorPart) : State := { s with nvh := { s.nvh with parts := s.nvh.parts.set die p } }

/-- GEN of a state, none below every GEN. -/
def genOf : Option NvState → Nat
  | some t => t.gen + 1
  | none => 0

/-- The valid copy: the one with the higher GEN (R470). -/
def NorPart.valid (p : NorPart) : Option NvState := if genOf p.copyA < genOf p.copyB then p.copyB else p.copyA

/-- The valid copy is A. -/
def NorPart.validA (p : NorPart) : Bool := decide (genOf p.copyB ≤ genOf p.copyA ∧ p.copyA.isSome)

/-- The journal sector the next commit uses: the one the last commit did not. -/
def NorPart.nextJour (p : NorPart) : Nat :=
  match p.mark0, p.mark1 with
  | some a, some b => if b < a then 1 else 0
  | some _, none => 1
  | _, _ => 0

/-- A journal sector set: its state and its mark. -/
def NorPart.setJour (p : NorPart) (j : Nat) (st : Option NvState) (mark : Option Nat) : NorPart :=
  if j = 0 then { p with jour0 := st, mark0 := mark } else { p with jour1 := st, mark1 := mark }

/-- The state copy that is not valid, set. -/
def NorPart.setCopy (p : NorPart) (toB : Bool) (st : Option NvState) : NorPart :=
  if toB then { p with copyB := st } else { p with copyA := st }

/-! ### The journaled commit (R471, R472) -/

/-- The journal of this die's state is decided: a unit that was restored accepts work again (R464); decoders that come back are bound at the
next boundary (R156). -/
def State.regain (s : State) (degraded : BitVec 64) : State :=
  let old := s.reg Rg.SCR_DEGRADED
  let new := old &&& (degraded ||| s.nvh.st.degraded)
  s.setReg Rg.SCR_DEGRADED 0 new

/-- A NOR operation of a commit has ended: what stands in the NOR now, and the next operation. Steps 0 to 2 are JOURNAL (erase,
program, read back), 3 and 4 COMMIT, 5 to 7 APPLY. -/
def nvPhaseDone (s : State) : State :=
  match s.nvh.commit with
  | none => s
  | some st =>
    let die := s.nvh.commitDie
    let p := s.part die
    let step := s.nvh.jstep
    let j := p.nextJour
    let next := fun (s : State) (what : String) => ({ s with nvh := { s.nvh with jstep := step + 1 } }).emit (.nor what die)
    if step = 0 then next (s.setPart die (p.setJour j none none)) "program"
    else if step = 1 then next ((s.setPart die (p.setJour j (some st) none)).bytes 7 1024) "read"
    else if step = 2 then next s "mark"
    else if step = 3 then next s "read"
    else if step = 4 then
      have s := s.setPart die (p.setJour j (some st) (some st.gen))
      have s := if die = s.ownDie then s.regain st.degraded else s
      next (((s.bump Fd.NVH_CNT_COMMITS).pendBit 13 2).bytes 7 8) "erase"
    else if step = 5 then next (s.setPart die (p.setCopy p.validA none)) "program"
    else if step = 6 then next ((s.setPart die (p.setCopy p.validA (some st))).bytes 7 1024) "read"
    else
      have s := { s with nvh := { s.nvh with commit := none, jstep := 0 } }
      have s := if die = s.ownDie then { s with nvh := { s.nvh with st := { s.nvh.st with gen := st.gen } } }
        else { s with nvh := { s.nvh with dieStates := s.nvh.dieStates.set die { s.dieState die with gen := st.gen } } }
      match s.nvh.followOn with
      | [] => s
      | d :: ds => { s with nvh := { s.nvh with followOn := ds } }.journalDie d

/-- NV_PHASE_DONE. -/
def execNvPhaseDone (s : State) : Host.Outcome State Fault Refusal := done (nvPhaseDone s)

/-- JSTATE (Table 18-8). -/
def State.jstate (s : State) : Nat :=
  if s.nvh.commit.isNone then 0 else if s.nvh.jstep ≤ 2 then 1 else if s.nvh.jstep ≤ 4 then 2 else 3

/-- NVH_CHECKPOINT: `NVH_CFG.CKPT_MIN` minutes after the last one (R465). -/
def nvhCheckpoint (s : State) : State :=
  let due := s.nvh.ckptAt + s.fld Fd.NVH_CFG_CKPT_MIN
  have s := s.reach (s.nvh.minuteAt + (due - s.nvh.st.opMinutes) * cyMin)
  have s := { s with nvh := { s.nvh with ckptAt := s.nvh.st.opMinutes } }
  (s.nvLog 2 0xFF 0 0).journal

def execNvhCheckpoint (s : State) : Host.Outcome State Fault Refusal := done (nvhCheckpoint s)

/-! ### The log (R467) -/

/-- Log sectors of a partition. -/
def State.logSectors (s : State) : Nat := if s.isTray then 16380 else 252

/-- A position is written: the first of a sector erases it, and the 128 oldest records with it once the ring has come round. -/
def State.logPut (s : State) (die : Nat) (r : Option NvRec) : State :=
  let p := s.part die
  let log := if p.log.length % 128 = 0 then p.log.take ((s.logSectors - 1) * 128) else p.log
  s.setPart die { p with log := r :: log }

/-- NVH_LOG_WRITE_DONE: the oldest waiting record's program and read-back have ended. -/
def nvhLogWriteDone (ok : Bool) (s : State) : State :=
  match s.nvh.logQ with
  | [] => s
  | (die, r) :: rest =>
    have s := s.bytes 7 32
    if ok then (({ s with nvh := { s.nvh with logQ := rest } }).logPut die (some r)).bump Fd.NVH_CNT_RECORDS
    else ((s.logPut die none).bump Fd.NVH_CNT_NOR_ERR).fault .nvh 0 0

def execNvhLogWriteDone (ok : Bool) (s : State) : Host.Outcome State Fault Refusal := done (nvhLogWriteDone ok s)

/-- Dies of the package whose partitions this instance's NOR holds. -/
def State.dieOk (s : State) (die : Nat) : Bool := if s.isTray then die == 0 else decide (die < s.chip.pkgDies)

/-- READ of TABLE 0 (R475). -/
def nvhLogRead (die idx : Nat) (s : State) : WinOut :=
  if !s.nvOwner then s.win 8
  else if !s.dieOk die ∨ s.logSectors * 128 ≤ idx then s.win 2
  else match (s.part die).log[idx]? with
  | none => s.win 1
  | some none => s.win 6
  | some (some r) => (s.bytes 6 32).winData (toWords 4 r.bytes)

/-- NVH_LOG_READ. -/
def execNvhLogRead (q : Req) (die idx : Nat) (s : State) : Host.Outcome State Fault Refusal :=
  done (s.winCmd q .nvh 0 (die % 16 * 16) 1 idx (nvhLogRead (die % 16) idx))

/-! ### Forwarding (R468, R469) -/

/-- POP of TABLE 1: the oldest queued record. -/
def nvhFwdPop (s : State) : WinOut :=
  match s.nvh.fwdQ with
  | [] => s.win 1
  | r :: rs => ({ s with nvh := { s.nvh with fwdQ := rs } }).winData (toWords 4 r.bytes)

/-- NVH_FWD_POP. -/
def execNvhFwdPop (q : Req) (s : State) : Host.Outcome State Fault Refusal := done (s.winCmd q .nvh 0 1 3 0 nvhFwdPop)

/-- One TRANSIENT of a unit in a state, at operating minute `m` (R462). -/
def NvState.transient (t : NvState) (u m winH : Nat) : NvState :=
  let (c, st) := t.windows.getD u (0, 0)
  { t with windows := t.windows.set u (if c = 0 ∨ winH * 60 ≤ m - st then (1, m) else (min (c + 1) 0xFFFF, st)) }

/-- A leaf's FLT source that counts as a TRANSIENT of its unit (R462). -/
def countsTransient (n : Nat) : Bool :=
  match srcOf .leaf n with
  | some (u, i, l) => (transientCode u i l).isSome || (u == .cor && (l == 0 || l == 3))
  | none => false

/-- The effect of a forwarded record on its die's state (R468). The BOOT record of a leaf that holds no state yet counts its power
cycle from 0. -/
def NvState.apply (t : NvState) (r : NvRec) (winH : Nat) : NvState :=
  let bit := BitVec.ofNat 64 (2 ^ r.unit)
  match r.kind with
  | 1 => { t with powerCycles := (t.powerCycles + r.powerCycles) % 2 ^ 32 }
  | 2 => { t with opMinutes := max t.opMinutes r.opMinutes }
  | 4 => if r.unit < 64 then t.transient r.unit r.opMinutes winH else t
  | 5 => if r.unit < 64 then (t.transient r.unit r.opMinutes winH).transient r.unit r.opMinutes winH else t
  | 7 => if r.unit < 64 then { t with degraded := t.degraded ||| bit } else t
  | 8 => if r.unit < 64 then { t with degraded := t.degraded &&& ~~~bit, windows := t.windows.erase r.unit } else t
  | 9 => if r.unit < 64 ∧ countsTransient r.detail.toNat then t.transient r.unit r.opMinutes winH else t
  | 10 => { t with lc := r.data.toNat % 256 }
  | _ => t

/-- WRITE of TABLE 1: the owner appends another die's record and applies it. -/
def nvhFwdWrite (s : State) : WinOut :=
  if !s.nvOwner then s.win 8
  else match NvRec.ofBytes? (s.dataBytes .nvh 0 32) with
  | none => s.win 6
  | some r =>
    if s.isTray ∨ r.die = s.ownDie ∨ !s.dieOk r.die then s.win 6
    else if r.seq < s.nvh.lastSeq.getD r.die 0 then s.win 7
    else
      have n := { s.nvh with
        lastSeq := s.nvh.lastSeq.set r.die (r.seq + 1)
        logQ := s.nvh.logQ ++ [(r.die, r)]
        dieStates := s.nvh.dieStates.set r.die ((s.dieState r.die).apply r (s.fld Fd.SCR_CFG_TRANS_WIN_H)) }
      have s := { s with nvh := n }
      (if r.kind ∈ [1, 2, 4, 5, 7, 8, 9, 10] then s.journalDie r.die else s).win 0

/-- NVH_FWD_WRITE. -/
def execNvhFwdWrite (q : Req) (s : State) : Host.Outcome State Fault Refusal := done (s.winCmd q .nvh 0 1 2 0 nvhFwdWrite)

/-- READ of TABLE 2: a line of the valid state copy. -/
def nvhStateRead (idx : Nat) (s : State) : WinOut :=
  if !s.nvOwner then s.win 8
  else if !s.dieOk (idx / 4) then s.win 2
  else match (s.part (idx / 4)).valid with
  | none => s.win 6
  | some t => (s.bytes 6 256).winData (toWords 32 ((t.bytes.drop (256 * (idx % 4))).take 256))

/-- NVH_STATE_READ. -/
def execNvhStateRead (q : Req) (idx : Nat) (s : State) : Host.Outcome State Fault Refusal :=
  done (s.winCmd q .nvh 0 2 1 idx (nvhStateRead idx))

/-- The decided state takes force on this die: the degradations of its mask end the units' work (R463, R469, R520). -/
def State.takeNv (s : State) (t : NvState) : State :=
  have s := { s with nvh := { s.nvh with st := t, minuteAt := s.aon, ckptAt := t.opMinutes } }
  have s := s.setReg Rg.SCR_DEGRADED 0 t.degraded
  (List.range 64).foldl (fun s u => if t.degraded.getLsbD u then s.degradeStop u else s) s

/-- WRITE of TABLE 2 on a leaf that does not own the NOR (R469): the fourth line completes the copy. -/
def nvhStateWrite (idx : Nat) (s : State) : WinOut :=
  if s.nvOwner ∨ s.nvh.written then s.win 7
  else if idx / 4 ≠ s.chip.pkgDieIdx then s.win 2
  else
    have s := { s with nvh := { s.nvh with stage := s.nvh.stage.set (idx % 4) (s.dataBytes .nvh 0 256) } }
    if s.nvh.stage.length < 4 then s.win 0
    else
      let m := s.nvh.stage.flatMap (·.2)
      have s := { s with nvh := { s.nvh with stage := [] } }
      match NvState.ofBytes? m with
      | none => s.win 6
      | some t => (({ s with nvh := { s.nvh with written := true } }).takeNv t).win 0

/-- NVH_STATE_WRITE. -/
def execNvhStateWrite (q : Req) (idx : Nat) (s : State) : Host.Outcome State Fault Refusal :=
  done (s.winCmd q .nvh 0 2 2 idx (nvhStateWrite idx))

/-- `NVH_PHASE` (Table 18-8): on the owner the forwarding queue is empty. -/
def nvhPhase (s : State) : Nat :=
  b2n s.nvOwner * 256 + b2n s.nvh.norOk * 128 + min 7 (s.nvh.fwdQ.length / 8) * 16 + s.jstate

/-- `NVH_STAT` (Table 18-7). -/
def nvhStat (s : State) : Nat := s.nvh.st.powerCycles % 2 ^ 32 * 2 ^ 32 + s.nvh.st.gen % 2 ^ 32

end Sys2Proof.Machine
end

