-- ==== Sys2Proof/Machine/Scr.lean ====
section
/-! DEFINITION. SCR (18.1 to 18.3): pattern bundles, passes, patterns on each kind of unit, the classes of a FAIL, the host queue. -/

namespace Sys2Proof.Machine

/-! ### Bundles (R453 to R455) -/

/-- The SCR region (R453). -/
def State.scrRegion (s : State) : Nat := if s.isTray then 4 * 2 ^ 20 else 256 * 1024

/-- BAD_IMAGE of a bundle; a KIND 2 pattern may have a BUDGET of 8 at most (R457). -/
def State.bundleBad (s : State) (m : Bytes) : Bool :=
  let total := rdLE m 8 4
  let n := rdLE m 20 2
  decide (rdLE m 0 4 ≠ 0x31524353 ∨ rdLE m 4 2 ≠ 1 ∨ rdLE m 6 1 ≠ b2n s.isTray ∨ 3 < rdLE m 7 1 ∨ s.scrRegion < total ∨ n = 0 ∨
    1024 < n ∨ rdLE m 22 2 ≠ 0 ∨ rdLE m 24 8 ≠ 0 ∨ rdLE m 224 32 ≠ 0 ∨ total < 256 + 32 * n ∨ m.length < total ∨
    (List.range n).any fun i => rdLE m (256 + 32 * i) 1 == 2 && decide (8 < rdLE m (258 + 32 * i) 2))

/-- The pattern table (Table 18-1). -/
def bundlePats (m : Bytes) : List ScrPat :=
  (List.range (rdLE m 20 2)).map fun i =>
    let f := fun (o n : Nat) => rdLE m (256 + 32 * i + o) n
    { kind := f 0 1, inst := f 1 1, budget := f 2 2, imageOff := f 4 4, imageLen := f 8 4, inputOff := f 12 4, inputLen := f 16 4
      golden := BitVec.ofNat 32 (f 20 4), outLen := f 24 4, hostId := BitVec.ofNat 32 (f 28 4) }

/-- Decoders fitted (R156). -/
def State.decFitted (s : State) : Nat := if s.isTray then (if s.chip.full then 16 else 8) else 0

/-- Instances of the unit a KIND names. -/
def State.kindCount (s : State) (kind : Nat) : Nat :=
  match kind with
  | 1 => s.mxeCount
  | 2 => s.treCount
  | 3 => 1
  | 4 => s.decFitted
  | 5 => 1
  | _ => 0

/-- Every pattern on every instance it names, in table order (R455, R456). -/
def State.passList (s : State) : List (Nat × Nat) :=
  s.scr.pats.zipIdx.flatMap fun (p, i) =>
    let n := s.kindCount p.kind
    if p.kind = 3 ∨ p.kind = 5 then [(i, 0)]
    else if p.inst = 0xFF then (List.range n).map fun k => (i, k)
    else if p.inst < n then [(i, p.inst)] else []

/-- The unit code of a pattern's instance (Tables 18-2, 18-3): 0xFE SRAM, 0xFF none. -/
def patUnit (kind inst : Nat) : Nat :=
  match kind with
  | 1 => inst
  | 2 => 8 + inst
  | 3 => 0xFE
  | 4 => 16 + inst
  | _ => 0xFF

/-! ### Passes (R456) -/

/-- A pass ends: PASSES, the PASS_END record, IRC. -/
def State.passEnd (s : State) : State :=
  have s := (s.bumpW Fd.SCR_STAT_PASSES).nvLog 3 0xFF (BitVec.ofNat 32 s.scr.fails) 0
  { s.pendBit 13 0 with scr := { s.scr with passOn := false, queue := [], retry := [], fails := 0 } }

/-- A pass starts from its first pattern. -/
def State.passStart (s : State) : State :=
  { s with scr := { s.scr with passOn := true, passDue := false, fails := 0, queue := s.passList } }

/-- A pass with nothing left to run or to wait for ends, and the next one that fell due starts. -/
def State.passCheck (s : State) : State :=
  if s.scr.passOn ∧ s.scr.run = none ∧ s.scr.queue = [] ∧ s.scr.retry = [] ∧ s.scr.hostOut = [] then
    let due := s.scr.passDue
    have s := s.passEnd
    if due then s.passStart else s
  else s

/-- A pass falls due (R456). -/
def State.passFalls (s : State) : State :=
  if !s.live .scr ∨ s.fld Fd.SCR_CFG_RUN_EN = 0 then s
  else if s.scr.passOn then { s with scr := { s.scr with passDue := true } }
  else s.passStart.passCheck

/-- SCR_PASS_TIMER: CADENCE_MIN minutes of operating time after RUN_EN was set or the timer last expired. -/
def scrPassTimer (s : State) : State :=
  match s.scr.nextDue with
  | none => s
  | some due =>
    if s.fld Fd.SCR_CFG_RUN_EN = 0 then s
    else
      have s := s.reach (s.nvh.minuteAt + (due - s.nvh.st.opMinutes) * cyMin)
      ({ s with scr := { s.scr with nextDue := some (s.nvh.st.opMinutes + s.fld Fd.SCR_CFG_CADENCE_MIN) } }).passFalls

def execScrPassTimer (s : State) : Host.Outcome State Fault Refusal := done (scrPassTimer s)

/-- What a write of `SCR_CFG` that set RUN_EN starts: the cadence counts from here. -/
def State.scrRunEn (s : State) (was : Bool) : State :=
  if s.fld Fd.SCR_CFG_RUN_EN = 1 ∧ !was then
    { s with scr := { s.scr with nextDue := some (s.nvh.st.opMinutes + s.fld Fd.SCR_CFG_CADENCE_MIN) } }
  else if s.fld Fd.SCR_CFG_RUN_EN = 0 then { s with scr := { s.scr with nextDue := none } } else s

/-! ### A new bundle -/

/-- A LOAD that passed replaces the bundle when no pattern is in progress; a pass restarts from its first pattern (R454). -/
def State.takeBundle (s : State) : State :=
  match s.scr.newBundle, s.scr.run with
  | some (id, svn, pats, m), none =>
    have s := s.setReg Rg.SCR_BUNDLE 0 (BitVec.ofNat 64 (id * 2 ^ 32 + svn % 2 ^ 16 * 2 ^ 16 + pats.length))
    have s := { s with scr := { s.scr with pats, region := m, newBundle := none, early := [], retry := [], hostQ := [], hostOut := [] } }
    if s.scr.passOn then { s with scr := { s.scr with fails := 0, queue := s.passList } } else s
  | _, _ => s

/-- The pattern in progress is over, whatever comes of it. -/
def State.patOver (s : State) : State :=
  (({ s with scr := { s.scr with run := none } }).takeBundle).passCheck

/-- SCR LOAD (R454, R474): the bundle comes over the firmware channel. -/
def scrLoadWin (s : State) : WinOut :=
  if s.scr.load.isSome then s.win 7
  else
    let va := bits (s.data .scr 0 0).toNat 47 0
    let ctx := bits (s.data .scr 0 1).toNat 41 32
    have s := { s with scr := { s.scr with load := some (va, ctx) } }
    (s.beginRead 6 1 (s.fld Fd.COR_CFG_PUMP_CH) ctx va 256).winBusy

/-- SCR_BUNDLE_LOAD. -/
def execScrBundleLoad (q : Req) (s : State) : Host.Outcome State Fault Refusal := done (s.winCmd q .scr 0 0 5 0 scrLoadWin)

/-- A LOAD of a bundle fails with a CODE of Table 10-3. -/
def State.bundleFail (s : State) (code : Nat) : State :=
  ((s.bump Fd.SCR_CNT_BAD_BUNDLE).fault .scr 0 0).winEnd .scr 0 6 (code * 2 ^ 24)

/-- The bundle has arrived and been checked. -/
def scrBundleDone (s : State) : State :=
  match s.scr.load, s.carried 6 1 with
  | some _, some m =>
    have s := ({ s with scr := { s.scr with load := none } }).endXfer 6 1
    let code := if s.bundleBad m then 1 else s.authCheck m (rdLE m 8 4)
    if code ≠ 0 then s.bundleFail code
    else
      have s := { s with scr := { s.scr with newBundle := some (rdLE m 12 4, rdLE m 16 4, bundlePats m, m.take (rdLE m 8 4)) } }
      (s.takeBundle).winEnd .scr 0 0
  | _, _ => s

/-- SCR_BUNDLE_LOAD_DONE. -/
def execScrBundleLoadDone (s : State) : Host.Outcome State Fault Refusal := done (scrBundleDone s)

/-! ### Running a pattern (R457) -/

/-- A slice of the bundle. -/
def State.bundle (s : State) (off n : Nat) : Bytes := (s.scr.region.drop off).take n

/-- A pattern of KIND 1 loads and launches slot 7; its initial data stands from the start of the slot's scratch region. -/
def State.patMxe (s : State) (p : ScrPat) (e : Nat) : State :=
  let img := s.bundle p.imageOff p.imageLen
  match s.mxeCheck e 7 img with
  | some (code, _) => s.scrEnded (512 + code) []
  | none =>
    have s := s.mxePut e 7 img
    have s := s.scrPut e ((s.mx e).slot 7) 0 (s.bundle p.inputOff p.inputLen)
    s.mxeLaunch e { s.newRun e 7 s.epochNow with pattern := true }

/-- A pattern of KIND 2 runs as the hidden slot, whose nodes and sets stand past the TRE's own. -/
def State.patTre (s : State) (p : ScrPat) (e : Nat) : State :=
  let img := s.bundle p.imageOff p.imageLen
  match s.treCheck e 4 img with
  | some (code, _) => s.scrEnded (512 + code) []
  | none =>
    let sl := { TSlot.rest with nodeBase := s.treNodes, setBase := s.treSets, nVec := p.inputLen / (4 * (treHead img).featN) }
    have s := (s.setTr e { s.tr e with slots := (s.tr e).slots.set 4 sl }).trePut e 4 img
    s.treLaunch e { s.newTRun 4 s.epochNow with pattern := true }

/-- A pattern starts, or starts again as a rerun. -/
def State.patLaunch (s : State) (r : ScrRun) : State :=
  match s.scr.pats[r.pat]? with
  | none => s
  | some p =>
    have s := { s with scr := { s.scr with run := some { r with start := s.aon, ended := none } } }
    match p.kind with
    | 1 => s.patMxe p r.inst
    | 2 => s.patTre p r.inst
    | _ => s

/-- The idle window of a pattern's unit. `forced` patterns and reruns run even on a unit that an URGENT fault has stopped (R461). -/
def State.patIdle (s : State) (p : ScrPat) (inst : Nat) (forced : Bool) : Bool :=
  match p.kind with
  | 1 => (s.mx inst).pend.isEmpty && (s.mx inst).saved.isEmpty && (s.mx inst).run.isNone && s.fld Fd.MXE_CFG_SCR_SLOT_EN inst == 1 &&
      (forced || !s.stopped .mxe inst) && !s.flt.faulted
  | 2 => (s.tr inst).pend.isEmpty && (s.tr inst).run.isNone && (forced || !s.stopped .tre inst) && !s.flt.faulted
  | 3 => s.primed
  | 4 => (s.cmp.inQ.getD inst []).isEmpty
  | 5 => s.primed && decide (s.scr.hostQ.length < 8)
  | _ => false

/-- A HOST pattern is posted to the host queue, which has room for it (R459). -/
def State.patPost (s : State) (i : Nat) (p : ScrPat) (r : ScrRun) : State :=
  ({ s with scr := { s.scr with hostQ := s.scr.hostQ ++ [(i, p.hostId)], hostOut := s.scr.hostOut ++ [{ r with start := s.aon }] } }).level 13

/-- A first run of pattern `i` on an instance. -/
def newPat (i inst unit : Nat) : ScrRun :=
  { pat := i, inst, unit, rerun := 0, failed := none, start := 0, retries := 0, ended := none }

/-- SCR_PATTERN_START: the next pattern, those queued by a sentinel first, starts if its unit is idle; one whose unit is degraded is
skipped. -/
def scrPatternStart (s : State) : State :=
  if s.scr.run.isSome ∨ !s.live .scr then s
  else
    let drop := fun (s : State) => if !s.scr.early.isEmpty then { s with scr := { s.scr with early := s.scr.early.tail } }
      else if !s.scr.retry.isEmpty then { s with scr := { s.scr with retry := s.scr.retry.tail } }
      else { s with scr := { s.scr with queue := s.scr.queue.tail } }
    let first := match s.scr.early, s.scr.retry, s.scr.queue with
      | (i, k) :: _, _, _ => some (newPat i k 0, true)
      | [], r :: _, _ => some (r, r.failed.isSome)
      | [], [], (i, k) :: _ => some (newPat i k 0, false)
      | [], [], [] => none
    match first with
    | none => s
    | some (r, forced) =>
      match s.scr.pats[r.pat]? with
      | none => drop s
      | some p =>
        let u := patUnit p.kind r.inst
        let r := { r with unit := u }
        if u < 64 ∧ (s.reg Rg.SCR_DEGRADED).getLsbD u then (drop s).passCheck
        else if !s.patIdle p r.inst forced then s
        else if p.kind = 5 then (drop s).patPost r.pat p r
        else (drop s).patLaunch r

def execScrPatternStart (s : State) : Host.Outcome State Fault Refusal := done (scrPatternStart s)

/-! ### Results (R458 to R461) -/

/-- The signature of KIND 1, 2 and 4 (R458). -/
def patSignature (p : ScrPat) (out : Bytes) (cnt : List Nat) : BitVec 32 :=
  BitVec.ofNat 32 (crc32c (out.take p.outLen ++ (List.range 4).flatMap fun i => leBytes 4 (cnt.getD i 0)))

/-- `SCR_LAST` (Table 18-6). -/
def State.scrLast (s : State) (cls unit pat : Nat) (sig : BitVec 32) : State :=
  s.setReg Rg.SCR_LAST 0 (BitVec.ofNat 64 (2 ^ 63 + cls * 2 ^ 60 + unit * 2 ^ 48 + pat % 1024 * 2 ^ 32 + sig.toNat))

/-- A FAIL is classed (R461): 1 TRANSIENT, 2 INTERMITTENT, 3 PERMANENT; `f` is its first signature. -/
def State.patClass (s : State) (r : ScrRun) (cls : Nat) (f : BitVec 32) : State :=
  have s := (s.scrLast cls r.unit r.pat f).fault .scr 0 1
  have s := s.nvLog (cls + 3) r.unit (BitVec.ofNat 32 (r.pat % 65536 + s.fld Fd.SCR_BUNDLE_BUNDLE_ID % 65536 * 65536)) f
  have s := if cls = 3 then s.bump Fd.SCR_CNT_PERMANENT else s.bump Fd.SCR_CNT_TRANSIENT 0 cls
  if r.unit < 64 then
    if cls = 3 then s.degrade r.unit
    else { s with scr := { s.scr with suspects := s.scr.suspects ++ List.replicate cls r.unit } }
  else if r.unit = 0xFE ∧ cls = 3 then s.fault .scr 0 3
  else s

/-- What a completed run decides: a pass, a class of the FAIL, or a rerun. -/
inductive Verdict where
  | pass
  | cls (c : Nat) (f : BitVec 32)
  | again (r : ScrRun)
  deriving DecidableEq, Repr

/-- A result against GOLDEN (R461). -/
def ScrRun.judge (r : ScrRun) (good : Bool) (sig : BitVec 32) (retryN : Nat) : Verdict :=
  match r.failed with
  | none => if good then .pass else .again { r with failed := some sig, rerun := 1 }
  | some f =>
    if good then .cls 1 f
    else if sig = f then .cls 3 f
    else if retryN ≤ r.rerun then .cls 2 f
    else .again { r with rerun := r.rerun + 1 }

/-- A FAIL counts once, at its first run. -/
def State.countFail (s : State) (r : ScrRun) : State :=
  if r.rerun = 1 then { s.bump Fd.SCR_CNT_FAIL with scr := { s.scr with fails := s.scr.fails + 1 } } else s

/-- A run of a pattern has completed. -/
def State.patResult (s : State) (r : ScrRun) (good : Bool) (sig : BitVec 32) : State :=
  match r.judge good sig (s.fld Fd.SCR_CFG_RETRY_N) with
  | .pass => s.patOver
  | .cls c f => (s.patClass r c f).patOver
  | .again r => (s.countFail r).patLaunch r

/-- A pattern that did not complete is INCONCLUSIVE: tried again at the next idle window, at most 3 times in a pass (R460). -/
def State.patBroken (s : State) (r : ScrRun) : State :=
  have s := if r.retries < 3 then { s with scr := { s.scr with retry := s.scr.retry ++ [{ r with retries := r.retries + 1, ended := none }] } } else s
  s.patOver

/-- A pattern's run on its engine, wherever it stands, ends ABORTED (R213, R235). -/
def State.patStop (s : State) (r : ScrRun) : State :=
  if r.unit < 8 then
    let m := s.mx r.unit
    if m.run.any (·.pattern) then s.mxeEndRun r.unit 1 0
    else
      have s := s.setMx r.unit { m with pend := m.pend.filter fun (x : MRun) => !x.pattern
                                        saved := m.saved.filter fun (x : MRun) => !x.pattern }
      ((m.pend ++ m.saved).filter (·.pattern)).foldl (fun s (x : MRun) => s.mxeEnd r.unit x 1 0) s
  else if r.unit < 12 then
    let t := s.tr (r.unit - 8)
    if t.run.any (·.pattern) then s.treEndRun (r.unit - 8) 1 0
    else
      have s := s.setTr (r.unit - 8) { t with pend := t.pend.filter fun (x : TRun) => !x.pattern }
      (t.pend.filter (·.pattern)).foldl (fun s (x : TRun) => s.treEnd (r.unit - 8) x 1 0) s
  else s

/-- SCR_PATTERN_END. A sentinel mismatch is a FAIL; any other end of the run than DONE is INCONCLUSIVE. -/
def scrPatternEnd (e : PatEnd) (s : State) : State :=
  match s.scr.run with
  | none => s
  | some r =>
    match s.scr.pats[r.pat]? with
    | none => s.patOver
    | some p =>
      match e with
      | .broken => (s.patStop r).patBroken r
      | .budget => (((s.patStop r).scrLast 5 r.unit r.pat 0).fault .scr 0 1).patBroken r
      | .scrub worst => if p.kind = 3 then s.patResult r (decide (worst ≤ p.golden.toNat)) 0 else s
      | .out b =>
        if p.kind = 4 then let sig := patSignature p b []; s.patResult r (sig == p.golden) sig
        else if p.kind = 1 ∨ p.kind = 2 then
          match r.ended with
          | none => s
          | some (code, cnt) =>
            let sig := patSignature p b cnt
            if code / 256 = 0 then s.patResult r (sig == p.golden) sig
            else if code = 512 + 20 then s.patResult r false sig
            else s.patBroken r
        else s

def execScrPatternEnd (e : PatEnd) (s : State) : Host.Outcome State Fault Refusal := done (scrPatternEnd e s).settle

/-! ### The host queue (R459, R474) -/

/-- POP of TABLE 1. -/
def scrHostPop (s : State) : WinOut :=
  match s.scr.hostQ with
  | [] => s.win 1
  | (i, h) :: r => ({ s with scr := { s.scr with hostQ := r } }).winData [BitVec.ofNat 64 (h.toNat * 2 ^ 16 + i % 2 ^ 16)]

/-- SCR_HOST_POP. -/
def execScrHostPop (q : Req) (s : State) : Host.Outcome State Fault Refusal := done (s.winCmd q .scr 0 1 3 0 scrHostPop)

/-- The host pattern `i` is taken out of both lists. -/
def State.hostTake (s : State) (i : Nat) : State :=
  { s with scr := { s.scr with hostQ := s.scr.hostQ.filter (fun (x : Nat × BitVec 32) => x.1 != i)
                               hostOut := s.scr.hostOut.filter fun (x : ScrRun) => x.pat != i } }

/-- WRITE of TABLE 1: the signature host firmware computed. A rerun that finds the queue full waits for room in it. -/
def scrHostResult (s : State) : WinOut :=
  let i := bits (s.data .scr 0 0).toNat 15 0
  let sig := BitVec.ofNat 32 (s.data .scr 0 1).toNat
  match s.scr.hostOut.find? (·.pat == i), s.scr.pats[i]? with
  | some r, some p =>
    have s := s.hostTake i
    (match r.judge (sig == p.golden) sig (s.fld Fd.SCR_CFG_RETRY_N) with
      | .pass => s.passCheck
      | .cls c f => (s.patClass r c f).passCheck
      | .again r =>
        have s := s.countFail r
        if s.scr.hostQ.length < 8 then s.patPost i p r else { s with scr := { s.scr with retry := r :: s.scr.retry } }).win 0
  | _, _ => s.win 2

/-- SCR_HOST_RESULT. -/
def execScrHostResult (q : Req) (s : State) : Host.Outcome State Fault Refusal := done (s.winCmd q .scr 0 1 2 0 scrHostResult)

/-- SCR_HOST_TIMEOUT: TIMEOUT is recorded and is no FAIL. -/
def scrHostTimeout (i : Nat) (s : State) : State :=
  match s.scr.hostOut.find? (·.pat == i) with
  | none => s
  | some r =>
    have s := s.reach (r.start + s.fld Fd.SCR_CFG_HOST_TMO_S * 100000000)
    ((s.hostTake i).scrLast 4 r.unit i 0).passCheck

def execScrHostTimeout (i : Nat) (s : State) : Host.Outcome State Fault Refusal := done (scrHostTimeout i s)

/-! ### Registers -/

/-- A write of `SCR_CTRL`: PASS_NOW; ABORT_PASS ends the pass at the current pattern, which is INCONCLUSIVE (R460). -/
def scrCtrlWrite (d : Word) (s : State) : State :=
  have s := if d.getLsbD 0 ∧ s.scr.passOn then
      have s := match s.scr.run with
        | some r => { s.patStop r with scr := { (s.patStop r).scr with run := none } }
        | none => s
      have s := { s with scr := { s.scr with queue := [], retry := [], hostQ := [], hostOut := [] } }
      (s.takeBundle).passCheck
    else s
  if d.getLsbD 1 then s.passFalls else s

/-- SCR_PASS_NOW. -/
def execScrPassNow (q : Req) (d : Word) (s : State) : Host.Outcome State Fault Refusal :=
  done (s.rowWrite q .scr 0 0x50 d fun s => (scrCtrlWrite d s).okay)

/-- SCR_ABORT_PASS. -/
def execScrAbortPass (q : Req) (d : Word) (s : State) : Host.Outcome State Fault Refusal :=
  done (s.rowWrite q .scr 0 0x50 d fun s => (scrCtrlWrite d s).okay)

/-- The units degraded in this AON cycle. -/
def State.degradedNow (s : State) : BitVec 64 := if s.scr.degAt = s.aon then s.scr.degUnits else 0

/-- A write of `SCR_RESTORE` (R464): the NV state loses the degradation at once; `SCR_DEGRADED` and the page follow when the
journal is decided, or at once where nothing is journaled. A unit degraded in this AON cycle stays degraded. -/
def scrRestoreWrite (d : Word) (s : State) : State :=
  let u := bits d.toNat 5 0
  if !d.getLsbD 63 then s
  else
    let keep := s.degradedNow.getLsbD u
    have t := { s.nvh.st with degraded := if keep then s.nvh.st.degraded else s.nvh.st.degraded &&& ~~~(BitVec.ofNat 64 (2 ^ u))
                              windows := s.nvh.st.windows.erase u }
    have s := ({ s with nvh := { s.nvh with st := t } }).nvLog 8 u 0 0
    have s := if keep then s.nvLog 7 u 0 0 else s
    if s.nvOwner ∧ s.nvh.norOk then s.journal else s.regain 0

/-- SCR_RESTORE_WRITE. -/
def execScrRestoreWrite (q : Req) (d : Word) (s : State) : Host.Outcome State Fault Refusal :=
  done (s.rowWrite q .scr 0 0x78 d fun s => (scrRestoreWrite d s).okay)

/-- `SCR_STAT` (Table 18-6). -/
def scrStat (s : State) : Nat :=
  let st := match s.scr.run with
    | some r => if r.failed.isSome then 4 else 2
    | none => if !s.scr.passOn ∧ s.scr.early.isEmpty then 0
      else if s.scr.queue.isEmpty ∧ s.scr.retry.isEmpty ∧ s.scr.early.isEmpty then 3 else 1
  s.fld Fd.SCR_STAT_PASSES * 2 ^ 32 + (match s.scr.run with | some r => r.pat % 1024 | none => 0) * 2 ^ 16 + st

/-- `PG_CTRL.UNIT_RESET` of SCR (R476): the pass ends; the bundle and every degradation stay. `old` is the state before. -/
def scrReset (old s : State) : State :=
  have s := match s.scr.run with
    | some r => s.patStop r
    | none => s
  have s := ({ s with scr := { s.scr with
    load := none, newBundle := none, passOn := false, passDue := false, nextDue := none, queue := [], early := [], retry := [], run := none
    fails := 0, hostQ := [], hostOut := [] } }).endXfer 6 1
  (s.setReg Rg.SCR_DEGRADED 0 (old.reg Rg.SCR_DEGRADED)).setReg Rg.SCR_BUNDLE 0 (old.reg Rg.SCR_BUNDLE)

end Sys2Proof.Machine
end

