-- ==== Sys2Proof/Machine/Cmp.lean ====
section
/-! DEFINITION. CMP (chapter 06): prediction, residue coding and frames, the leaf's encoder, the tray's decoders with their key
requests and binding, the predictor table. -/

namespace Sys2Proof.Machine

/-! ### Prediction (R145, R147) -/

/-- PRED and NBR of a map entry. -/
def mapPred (e : Nat) : Nat := bits e 15 14
def mapNbr (e : Nat) : Nat := bits e 9 0

/-- The prediction of member `j` (R145); `xs` are the row's values, of which only earlier ones are used. -/
def predict (j : Nat) (key : Bool) (m : List Nat) (xs : List Word) (hist : List (Word × Word)) : Nat :=
  let e := m.getD j 0
  let x := fun (n : Nat) => (xs.getD n 0).toNat
  let h := fun (n : Nat) => hist.getD n (0, 0)
  if mapPred e = 0 then 0
  else if key then (if mapPred e = 3 then x (mapNbr e) else 0)
  else if mapPred e = 1 then (h j).1.toNat
  else if mapPred e = 2 then wrapI (2 * (h j).1.toNat - (h j).2.toNat : Int) 64
  else wrapI ((h j).1.toNat + x (mapNbr e) - (h (mapNbr e)).1.toNat : Int) 64

/-- The history after a frame (R145). -/
def histNext (key : Bool) (hist : List (Word × Word)) (xs : List Word) : List (Word × Word) :=
  (List.range xs.length).map fun j =>
    let x := xs.getD j 0
    (x, if key then x else (hist.getD j (0, 0)).1)

/-- The map of a row from the predictor table, and the entries that had to be taken as P1 (R147). -/
def rowMap (table : SMap Nat) (first count : Nat) : List Nat × Nat :=
  let l := (List.range count).map fun j =>
    let e := table.getD (first + j) 0
    let e := mapPred e * 2 ^ 14 + mapNbr e
    if mapPred e = 3 ∧ j ≤ mapNbr e then (2 ^ 14 + mapNbr e, 1) else (e, 0)
  (l.map (·.1), (l.map (·.2)).sum)

/-! ### Residue coding (R148, R149) -/

/-- The zigzag map of a residue. -/
def zigzag (r : Nat) : Nat :=
  let i := sext r 64
  if 0 ≤ i then 2 * i.toNat else 2 * i.natAbs - 1

/-- Its inverse. -/
def unzigzag (z : Nat) : Nat := if z % 2 = 0 then z / 2 else 2 ^ 64 - (z + 1) / 2

/-- The code of `z` with parameter `k`: its bits as a number and how many they are. -/
def riceCode (k z : Nat) : Nat × Nat :=
  let q := z / 2 ^ k
  if q < 24 then ((2 ^ q - 1) * 2 ^ (k + 1) + z % 2 ^ k, q + 1 + k)
  else
    let l := bitLength z - 1
    (((2 ^ 24 - 1) * 64 + l) * 2 ^ l + z % 2 ^ l, 30 + l)

/-- The parameter after a value. -/
def riceAdapt (k z : Nat) : Nat :=
  let b := bitLength z
  if k < b then min 63 (k + (b - k + 1) / 2) else if b + 1 < k then k - 1 else k

/-- The coded stream of the members from `j` on: the bits so far as a number, how many, and the final parameter; none once it exceeds
`lim` bits (R151). -/
def codeVals (lim : Nat) (key : Bool) (m : List Nat) (xs : List Word) (hist : List (Word × Word)) :
    List Word → Nat → Nat → Nat → Nat → Option (Nat × Nat × Nat)
  | [], _, k, acc, n => some (acc, n, k)
  | x :: r, j, k, acc, n =>
    let z := zigzag (wrapI ((x.toNat : Int) - predict j key m xs hist) 64)
    let c := riceCode k z
    if lim < n + c.2 then none else codeVals lim key m xs hist r (j + 1) (riceAdapt k z) (acc * 2 ^ c.2 + c.1) (n + c.2)

/-- A bit stream as payload bytes: 0 bits to a byte, 0 bytes to a word (R149). -/
def streamBytes (acc n : Nat) : Bytes :=
  let nb := ceilDiv n 8
  padTo 8 (beBytes nb (acc * 2 ^ (8 * nb - n)))

/-! ### Frames (R142 to R151) -/

/-- An encoder with no history. -/
def EncSt.rest : EncSt :=
  { hist := [], seq := 0, k := none, since := 0, planVer := 0, map := [], live := false, keyReq := false }

/-- The next frame is KEY (R146). -/
def EncSt.keyDue (e : EncSt) (interval planVer : Nat) (m : List Nat) : Bool :=
  !e.live || decide (interval ≤ e.since) || e.planVer != planVer || e.map != m || e.keyReq

/-- A row coded as a frame under common header `h`: the frame, the encoder after it, and whether it is KEY and RAW. -/
def EncSt.encode (e : EncSt) (h : Bytes) (row : Row) (m : List Nat) (interval kInit : Nat) (rawOnly : Bool) :
    Bytes × EncSt × Bool × Bool :=
  let key := e.keyDue interval row.planVer m
  let k0 := e.k.getD kInit
  let coded := if rawOnly then none else codeVals (64 * row.count) key m row.vals e.hist row.vals 0 k0 0 0
  let pay := match coded with
    | some (acc, n, _) => streamBytes acc n
    | none => wordBytes row.vals
  let raw := coded.isNone
  let masks := (if row.stale = 0 then [] else leBytes 8 row.stale.toNat) ++ (if row.skew = 0 then [] else leBytes 8 row.skew.toNat)
  let fixed := timeBytes row.time ++ leBytes 1 row.group ++ leBytes 1 row.flags.toNat ++ leBytes 2 row.count ++ leBytes 4 row.seq
    ++ leBytes 2 row.planVer ++ leBytes 2 row.nextVer ++ leBytes 2 e.seq ++ leBytes 1 (b2n key * 128 + b2n raw * 64 + k0 % 64)
    ++ leBytes 1 (b2n (row.stale != 0) + b2n (row.skew != 0) * 2) ++ leBytes 4 (crc32c row.bytes) ++ leBytes 2 (pay.length / 8)
    ++ leBytes 6 0
  let map := if key then padTo 8 (m.flatMap fun x => leBytes 2 x) else []
  (h ++ fixed ++ masks ++ map ++ pay,
   { hist := histNext key e.hist row.vals, seq := (e.seq + 1) % 2 ^ 16, k := coded.map fun c => c.2.2
     since := if key then 0 else e.since + 1, planVer := row.planVer, map := m, live := true, keyReq := false },
   key, raw)

/-- The common header of a leaf's frame (R144). -/
def State.rowHeader (s : State) (row : Row) : Bytes :=
  commonHeader 0x20 1 s.nodeId row.job row.gen row.epoch row.headerFlags

def State.setEnc (s : State) (k : Nat) (e : EncSt) : State := { s with cmp := { s.cmp with enc := s.cmp.enc.set k e } }

/-- A frame has been encoded under key `k`: counters and events. -/
def State.encoded (s : State) (k : Nat) (row : Row) (f : Bytes × EncSt × Bool × Bool) : State :=
  have s := s.setEnc k f.2.1
  have s := (s.addReg Rg.CMP_BYTES_IN 0 (40 + 8 * row.count)).addReg Rg.CMP_BYTES_OUT 0 f.1.length
  have s := (s.bumpW Fd.CMP_FRAMES_ALL).bumpW Fd.CMP_FRAMES_KEY 0 (b2n f.2.2.1)
  have s := s.bump Fd.CMP_ENC_CNT_RAW 0 (b2n f.2.2.2)
  (((s.ev .cmp 0 1 (ceilDiv row.count 2 + 4)).ev .cmp 0 2 row.count).ev .cmp 0 3).ev .cmp 0 4 (b2n f.2.2.2)

/-- The encoder codes a row with the settings in force. -/
def State.encode (s : State) (k : Nat) (h : Bytes) (row : Row) (m : List Nat) : Bytes × EncSt × Bool × Bool :=
  (s.cmp.enc.getD k EncSt.rest).encode h row m (s.fld Fd.CMP_CFG_KEY_INTERVAL) (s.fld Fd.CMP_CFG_K_INIT)
    (s.fld Fd.CMP_CFG_RAW_ONLY == 1)

/-- A CMP_ERROR record (R155): `h` is the named frame's header, of which identifier, job, epoch and FLAGS are kept. -/
def cmpError (h : Bytes) (cause group seq rowSeq site w : Nat) : Bytes :=
  leBytes 1 0x21 ++ leBytes 1 1 ++ (h.drop 2).take 14 ++ leBytes 1 cause ++ leBytes 1 group ++ leBytes 2 seq ++ leBytes 4 rowSeq
    ++ leBytes 1 site ++ leBytes 1 w ++ leBytes 6 0

/-! ### The leaf's encoder (R152 to R154) -/

/-- Bytes the output buffers hold: the frames not yet taken, from the start of the first buffer. -/
def State.outBytes (s : State) : Nat := s.cmp.outUsed + (s.cmp.outQ.map (·.1.length)).sum

/-- A frame or record is written to the output buffers; `hit` is what SLK's read of it will meet. -/
def State.cmpOut (s : State) (f : Bytes) (hit : EccHit := .none) : State :=
  { s with cmp := { s.cmp with outQ := s.cmp.outQ ++ [(f, hit)] } }

/-- The header of a record about something whose own header was not read (Table 06-5). -/
def State.errHead (s : State) (node : Nat) : Bytes :=
  let (j, g) := s.job
  commonHeader 0x21 1 node j g s.epochNow 0

/-- A row or frame of a group is lost at the leaf: its CMP_ERROR record, and the group's next frame is KEY (R154). -/
def State.leafError (s : State) (head : Bytes) (group seq rowSeq site : Nat) : Bytes × State :=
  have s := s.setEnc group { s.cmp.enc.getD group EncSt.rest with keyReq := true }
  have s := (s.addReg Rg.CMP_BYTES_OUT 0 32).bump Fd.CMP_ENC_CNT_MEM_UNCORR
  (cmpError head 7 group seq rowSeq site 0xFF, s.fault .cmp 0 1)

/-- What SLK reads of a buffered frame: the frame, or the CMP_ERROR record that replaces it (R154). The group is known even where the
header is lost, FRAME_SEQ is then 0 (DESIGN CHOICE, log entry 124). -/
def State.frameRead (s : State) (f : Bytes) (hit : EccHit) : Bytes × State :=
  match hit with
  | .frame => s.leafError f (rdLE f 28 1) (rdLE f 40 2) (rdLE f 32 4) 1
  | .frameHead => s.leafError (s.errHead s.nodeId) (rdLE f 28 1) 0 0xFFFFFFFF 1
  | _ => (f, s)

/-- SLK takes the oldest whole frame (R153). -/
def State.cmpTake (s : State) : Option (Bytes × State) :=
  match s.cmp.outQ with
  | (f, hit) :: r =>
    let used := if r.isEmpty then 0 else (s.cmp.outUsed + f.length) % 4096
    some ({ s with cmp := { s.cmp with outQ := r, outUsed := used } }.frameRead f hit)
  | [] => none

/-- The oldest row of a group among the encoder's sources; `r` is one of them. -/
def State.oldestRow (s : State) (r : Row) : Row :=
  (s.cmp.springB ++ s.cmp.liveQ ++ s.cmp.stage).foldl (fun (a x : Row) => if x.group = r.group ∧ x.time < a.time then x else a) r

/-- A row leaves its source. -/
def State.rowGone (s : State) (r : Row) : State :=
  if s.cmp.springB.contains r then { s with cmp := { s.cmp with springB := s.cmp.springB.erase r } }
  else if s.cmp.liveQ.contains r then { s with cmp := { s.cmp with liveQ := s.cmp.liveQ.erase r } }
  else { s with cmp := { s.cmp with stage := s.cmp.stage.erase r } }.stageFill

/-- The next row of the encoder's sources, and the state without it (R152): the priming buffer goes before the live queue and that
before staging, but no row goes before an older one of its group. -/
def State.nextRow (s : State) : Option (Row × State) :=
  (s.cmp.springB ++ s.cmp.liveQ ++ s.cmp.stage).head?.map fun r => (s.oldestRow r, s.rowGone (s.oldestRow r))

/-- The votes that end once the rows have reached the encoder and left it. -/
def State.drained (s : State) : State :=
  have s := if s.cmp.stage.isEmpty && s.cmp.springB.isEmpty && s.cmp.liveQ.isEmpty && s.cmp.held.isNone then s.voteDown .cmp else s
  s.smpVote

/-- The encoder takes the next row, with its GAP and the predictor table in force (R147, R152). -/
def State.encTake (s : State) (ecc : EccHit) : State :=
  match s.nextRow with
  | none => s
  | some (row, s) =>
    let row := if s.cmp.gapOwed.contains row.group then row.gapped else row
    let (map, fix) := rowMap s.cmp.active row.first row.count
    let lost := if ecc = .row then some true else if ecc = .rowHead then some false else none
    have s := { s with cmp := { s.cmp with gapOwed := s.cmp.gapOwed.filter (· != row.group), held := some { row, map, lost } } }
    if lost.isSome then s else s.bump Fd.CMP_ENC_CNT_PRED_FIXUP 0 fix

/-- The row in the encoder is coded and its frame written, or its CMP_ERROR record, once the output buffers have room (R153, R154). -/
def State.encGive (s : State) (h : EncRow) (ecc : EccHit) : State :=
  let row := h.row
  let e := s.cmp.enc.getD row.group EncSt.rest
  have s := if ecc = .history then s.setEnc row.group { e with live := false, k := none } else s
  let f := s.encode row.group (s.rowHeader row) row h.map
  if s.fld Fd.CMP_OUT_CFG_BUFS * 4096 < s.outBytes + (if h.lost.isSome then 32 else f.1.length) then s.setFld Fd.CMP_STAT_STALLED 0 1
  else
    have s := { s.setFld Fd.CMP_STAT_STALLED 0 0 with cmp := { s.cmp with held := none } }
    match h.lost with
    | some intact =>
      let (m, s) := s.leafError (if intact then s.rowHeader row else s.errHead s.nodeId) row.group e.seq
        (if intact then row.seq else 0xFFFFFFFF) 0
      (s.cmpOut m).drained
    | none => (((s.encoded row.group row f).cmpOut f.1 ecc).capRow 0xFF row).drained

/-- ENCODE_ROW: the encoder takes the next row unless it holds one; `ecc` says which read hits an uncorrectable error. A row it holds
when CMP is disabled or stopped is finished (R550). -/
def encodeRow (ecc : EccHit) (s : State) : State :=
  if s.isTray ∨ !s.primed then s
  else
    have s := if s.cmp.held.isNone ∧ s.live .cmp then s.encTake ecc else s
    match s.cmp.held with
    | some h => s.encGive h ecc
    | none => s

def execEncodeRow (ecc : EccHit) (s : State) : Host.Outcome State Fault Refusal := done (encodeRow ecc s)

/-- A write of `CMP_KEY_REQ` (R163): the streams of a group, or of every group, are KEY next. -/
def keyReqWrite (d : Word) (s : State) : State :=
  let enc := s.cmp.enc.mapV fun k e => if d.getLsbD 63 ∨ k % 64 = bits d.toNat 5 0 then { e with keyReq := true } else e
  { s with cmp := { s.cmp with enc } }

def execCmpKeyReqWrite (q : Req) (d : Word) (s : State) : Host.Outcome State Fault Refusal :=
  done (s.rowWrite q .cmp 0 0x78 d fun s => (keyReqWrite d s).okay)

/-- KEY_REQUEST_MSG (R158, R325). -/
def keyRequestMsg (all : Bool) (g : Nat) (s : State) : State :=
  if s.isTray then s else keyReqWrite (BitVec.ofNat 64 (b2n all * 2 ^ 63 + g % 64)) s

def execKeyRequestMsg (all : Bool) (g : Nat) (s : State) : Host.Outcome State Fault Refusal := done (keyRequestMsg all g s)

/-- A write of `CMP_OUT_CFG` (R162, R163). -/
def outCfgWrite (d : Word) (s : State) : State :=
  if s.isTray then s
  else if s.enabled .cmp then s.pgErr .cmp 0 .unit 0x48 1
  else s.plainWrite .cmp 0 0x48 0 d id

def execCmpOutCfgWrite (q : Req) (d : Word) (s : State) : Host.Outcome State Fault Refusal :=
  done (s.rowWrite q .cmp 0 0x48 d fun s => (outCfgWrite d s).okay)

/-! ### The tray's decoders (R156 to R159) -/

/-- Decoders that wellheads are bound to. -/
def State.decBound (s : State) : List Nat := (List.range s.decFitted).filter fun d => !s.cmp.dropped.contains d

/-- Decoders that screening has taken out (Table 18-2). -/
def State.decOut (s : State) : List Nat :=
  (List.range s.decFitted).filter fun d => (s.reg Rg.SCR_DEGRADED).getLsbD (16 + d)

/-- The decoder of a wellhead. -/
def State.decOf (s : State) (w : Nat) : Option Nat :=
  let l := s.decBound
  l[w % max 1 l.length]?

/-- A rebinding that a boundary has started takes effect once the queues have drained (R156). -/
def State.decRebind (s : State) : State :=
  if s.cmp.rebind ∧ s.cmp.inQ.all (fun x => x.2.isEmpty) then
    { s with cmp := { s.cmp with dropped := s.decOut, rebind := false } }
  else s

/-- The rebinding a boundary starts. -/
def State.decBoundary (s : State) : State :=
  if s.isTray ∧ s.decOut ≠ s.cmp.dropped then { s with cmp := { s.cmp with rebind := true } }.decRebind else s

/-- Bytes of a decoder's input queue. -/
def framesBytes (l : List (Nat × Bytes)) : Nat := (l.map fun x => x.2.length).sum

/-- A row frame of a wellhead reaches its decoder's queue of 64 KiB, or is parked behind it (R159). -/
def State.frameIn (s : State) (w : Nat) (m : Bytes) : State :=
  match s.decOf w with
  | some d =>
    let q := s.cmp.inQ.getD d []
    if s.frameParked w ∨ 65536 < framesBytes q + m.length then s.park w m
    else { s with cmp := { s.cmp with inQ := s.cmp.inQ.set d (q ++ [(w, m)]) } }
  | none => s.park w m

/-- Parked frames enter a decoder's queue in order as far as it takes them (R159, R395). -/
def State.unpark (s : State) (d : Nat) : List (Nat × Bytes) → State
  | [] => s
  | (w, m) :: r =>
    if s.decOf w = some d then
      let q := s.cmp.inQ.getD d []
      if 65536 < framesBytes q + m.length then s
      else
        have s := { s with cmp := { s.cmp with inQ := s.cmp.inQ.set d (q ++ [(w + 256, m)]), parked := s.cmp.parked.erase (w, m) } }
        have s := (s.bytes 2 m.length).drainFill m.length
        (if s.frameParked w then s else { s with cis := { s.cis with blocked := s.cis.blocked.filter (· != w) } }).unpark d r
    else s.unpark d r

/-- A decoder state with no history. -/
def DecSt.rest : DecSt := { hist := [], map := [], seq := 0, planVer := 0, valid := false, keyOut := false, keyAt := 0 }

/-- The key of a frame's decoder state. -/
def decKey (f : Bytes) (w : Nat) : Nat := bits (leNat (f.take 16)) 35 16 * 8192 + w * 64 + bits (rdLE f 28 1) 5 0

def State.setDec (s : State) (k : Nat) (d : DecSt) : State := { s with cmp := { s.cmp with dec := s.cmp.dec.set k d } }

/-- KEY_REQUEST for a group goes to its leaf on VC1 (R158, Table 12-7). -/
def State.askKey (s : State) (w g : Nat) : State := s.linkMsg w (leBytes 1 1 ++ leBytes 1 g)

/-- VALID falls, with a key request; a VALID of 0 stays 0 (R158). -/
def State.decInvalid (s : State) (k w : Nat) : State :=
  let d := s.cmp.dec.getD k DecSt.rest
  if d.valid then (s.setDec k { d with valid := false, keyOut := true, keyAt := s.aon }).askKey w (k % 64) else s

/-- KEY_REQUEST_REPEAT: 1 ms has passed since the group's last request (R158). -/
def keyRequestRepeat (w g : Nat) (s : State) : State :=
  match s.cmp.dec.find? fun x => x.2.keyOut && x.1 % 8192 == w * 64 + g with
  | some (k, d) =>
    have s := s.reach (d.keyAt + cyMs)
    (s.setDec k { d with keyAt := s.aon }).askKey w g
  | none => s

def execKeyRequestRepeat (w g : Nat) (s : State) : Host.Outcome State Fault Refusal := done (keyRequestRepeat w g s)

/-- Counter of a decoder error. -/
def decErrFld (c : Nat) : Fld :=
  if c ≤ 4 then ⟨Rg.CMP_DEC_ERR0, 63 - 16 * (c - 1), 48 - 16 * (c - 1)⟩ else ⟨Rg.CMP_DEC_ERR1, 63 - 16 * (c - 5), 48 - 16 * (c - 5)⟩

/-- A failing frame is dropped, and a CMP_ERROR record takes its place in the telemetry (R157): `d` is its decoder, `f` what could be
read of it and `group` its group. -/
def State.decFail (s : State) (d w cause site group : Nat) (f : Bytes) : State :=
  let n := f.length
  let seq := if 42 ≤ n then rdLE f 40 2 else 0
  let rowSeq := if 36 ≤ n then rdLE f 32 4 else 0xFFFFFFFF
  let epoch := if 28 ≤ n then s.epochOf (ofTime96 (rdLE f 16 12)) else s.epochNow
  let h := leNat (f.take 16)
  let head := if 16 ≤ n then commonHeader 0x21 1 (bits h 35 16) (bits h 59 36) (bits h 67 60) epoch (bits h 127 108)
    else s.errHead (s.fld Fd.SLK_STATE_PEER_ID w)
  let m := cmpError head cause group seq rowSeq site w
  have s := ((s.bump (decErrFld cause)).ev .cmp 0 6).setReg Rg.CMP_DEC_LAST 0 (BitVec.ofNat 64
    (2 ^ 63 + cause * 2 ^ 40 + w * 2 ^ 32 + group % 64 * 2 ^ 24 + seq))
  have s := if cause = 6 then
      (s.event 0x0E01 (leBytes 1 w ++ leBytes 1 group ++ leBytes 2 seq ++ leBytes 4 rowSeq)).fault .cmp 0 3 (some (16 + d))
    else if cause = 7 then s.fault .cmp 0 1
    else if cause = 8 then s else s.fault .cmp 0 2
  (s.addReg Rg.CMP_BYTES_OUT 0 m.length).route 2 m

/-- The bits of a payload taken by the coded values: each value's z, the final parameter, the rest of the stream, and whether an
escape was too small; none when the stream runs past its end. -/
def readVals : Nat → Nat → List Bool → Option (List Nat × List Bool × Bool)
  | 0, _, bs => some ([], bs, false)
  | n + 1, k, bs =>
    let q := (bs.take 24).takeWhile id |>.length
    let num := fun (l : List Bool) => l.foldl (fun a b => 2 * a + b2n b) 0
    let one : Option (Nat × List Bool × Bool) :=
      if q < 24 then
        if bs.length < q + 1 + k then none else some (q * 2 ^ k + num ((bs.drop (q + 1)).take k), bs.drop (q + 1 + k), false)
      else
        let l := num ((bs.drop 24).take 6)
        if bs.length < 30 + l then none
        else
          let z := 2 ^ l + num ((bs.drop 30).take l)
          some (z, bs.drop (30 + l), decide (z < 24 * 2 ^ k))
    match one with
    | none => none
    | some (z, r, bad) => match readVals n (riceAdapt k z) r with
      | none => none
      | some (zs, r, b) => some (z :: zs, r, bad || b)

/-- A byte string as bits, most significant first (R149). -/
def bitsOf (m : Bytes) : List Bool := m.flatMap fun b => (List.range 8).map fun i => b.getLsbD (7 - i)

/-- Values rebuilt from their codes. -/
def rebuildVals (key : Bool) (m : List Nat) (hist : List (Word × Word)) (zs : List Nat) : List Word :=
  zs.foldl (fun (xs : List Word) z =>
    xs ++ [BitVec.ofNat 64 (predict xs.length key m xs hist + unzigzag z)]) []

/-- What a frame decodes to: an error cause, or the row with the decoder's next state. -/
inductive Decoded where
  | error (cause : Nat)
  | row (r : Row) (d : DecSt)
  deriving DecidableEq, Repr

/-- A frame of at least 56 bytes has a good header (code 1). -/
def frameHeadOk (f : Bytes) : Bool :=
  rdLE f 0 1 == 0x20 && rdLE f 1 1 == 1 && decide (1 ≤ rdLE f 30 2 ∧ rdLE f 30 2 ≤ 1024) && decide (rdLE f 28 1 < 64)
    && decide (rdLE f 43 1 < 4) && rdLE f 50 6 == 0 && decide (bits (leNat (f.take 16)) 127 122 = 0)

/-- Decoding a frame against the state of its group (R157, R158), in the order of Table 06-6. -/
def decodeFrameOf (f : Bytes) (d : DecSt) : Decoded :=
  if f.length < 56 ∨ !frameHeadOk f then .error 1
  else
    let n := rdLE f 30 2
    let key := bit (rdLE f 42 1) 7
    let raw := bit (rdLE f 42 1) 6
    let k0 := bits (rdLE f 42 1) 5 0
    let ms := rdLE f 43 1
    let mapAt := 56 + 8 * (b2n (bit ms 0) + b2n (bit ms 1))
    let payAt := mapAt + (if key then ceilDiv (2 * n) 8 * 8 else 0)
    let m := if key then (List.range n).map fun j => rdLE f (mapAt + 2 * j) 2 else d.map
    let badMap := key && (List.range n).any fun j =>
      let e := m.getD j 0
      decide (mapAt + 2 * j + 2 ≤ f.length) && (bits e 13 10 != 0 || (mapPred e == 3 && decide (j ≤ mapNbr e)))
    if badMap then .error 2
    else
      let pw := rdLE f 48 2
      let pay := f.drop payAt
      let lenBad := f.length != payAt + 8 * pw || (if raw then pw != n else decide (n < pw)) ||
        (key && ((f.drop (mapAt + 2 * n)).take (payAt - mapAt - 2 * n)).any (· != 0))
      let seq := rdLE f 40 2
      let ver := rdLE f 36 2
      let next := d.valid && seq == (d.seq + 1) % 2 ^ 16 && decide (n = d.hist.length) && ver == d.planVer
      let vals := if raw then some ([], [], false) else readVals n k0 (bitsOf pay)
      match lenBad, vals with
      | true, _ => .error 3
      | _, none => .error 3
      | false, some (zs, rest, esc) =>
        if rest.any id then .error 3
        else if !key && !raw && !next && !(!d.valid && d.keyOut) then .error 4
        else if esc then .error 5
        else if !key && !raw && !d.valid then .error 8
        else
          let xs := if raw then toWords n pay else rebuildVals key m d.hist zs
          let h := leNat (f.take 16)
          let mask := fun (i at' : Nat) => BitVec.ofNat 64 (if bit ms i then rdLE f at' 8 else 0)
          let row : Row :=
            { time := ofTime96 (rdLE f 16 12), group := rdLE f 28 1, flags := BitVec.ofNat 8 (rdLE f 29 1), seq := rdLE f 32 4
              planVer := ver, nextVer := rdLE f 38 2, stale := mask 0 56, skew := mask 1 (56 + 8 * b2n (bit ms 0)), vals := xs
              job := bits h 59 36, gen := bits h 67 60, first := 0, ctrs := [], epoch := bits h 107 68 }
          if leBytes 12 (rdLE f 16 12) = timeBytes row.time ∧ crc32c row.bytes = rdLE f 44 4 then
            if key then .row row { d with hist := histNext true [] xs, map := m, seq, planVer := ver, valid := true, keyOut := false }
            else if next then .row row { d with hist := histNext false d.hist xs, seq }
            else .row row { d with valid := false }
          else .error 6

/-- A decoded row goes to the consumers of route class 0 (R160, R400, R433): `f` is its frame, `hit` an error of the history it would
be coded against, which resets that (R154). -/
def State.rowOut (s : State) (w : Nat) (f : Bytes) (row : Row) (m : List Nat) (hit : Bool) : State :=
  let r := s.routeOf 0
  if !r.up && !r.cistern then s.bump Fd.UPS_CNT_ROUTE_DROP
  else
    have s := if r.up then
        let k := decKey f w
        have s := if hit then s.setEnc k { s.cmp.enc.getD k EncSt.rest with live := false, k := none } else s
        let g := s.encode k (f.take 16) row m
        (s.encoded k row g).routeUp r g.1
      else s
    if r.cistern then s.ingest ⟨1, 256 + w, row.bytes⟩ else s

/-- What the decoder makes of a frame under an ECC hit (R154, R157): a frame whose header was read is checked for causes 1 to 6 first, as
Table 06-6 orders them, and then fails by 7. -/
def decodeUnder (ecc : EccHit) (f : Bytes) (st : DecSt) : Decoded :=
  match ecc, decodeFrameOf f st with
  | .frameHead, _ => .error 7
  | .frame, .error c => if c ≤ 6 then .error c else .error 7
  | .frame, .row _ _ => .error 7
  | _, r => r

/-- A frame fails at its decoder with cause `c`: the record, and what becomes of its group's history (Table 06-6, R158). `head` tells
whether its header was read; its group is known without it (DESIGN CHOICE, log entry 124). -/
def State.decReject (s : State) (d w' c : Nat) (head : Bool) (f : Bytes) : State :=
  let w := w' % 256
  let k := decKey f w
  let st := s.cmp.dec.getD k DecSt.rest
  have s := s.decFail d w c (if c ≠ 7 then 4 else if 256 ≤ w' then 3 else 2) (if 29 ≤ f.length then rdLE f 28 1 else 0)
    (if head then f else [])
  if c = 1 ∨ c = 8 then s
  else if c = 4 ∧ !st.valid then (s.setDec k { st with keyOut := true, keyAt := s.aon }).askKey w (k % 64)
  else s.decInvalid k w

/-- A row of a decoder waits for ingest credit and holds its queue (R394). -/
def State.decHeld (s : State) (d : Nat) : Bool :=
  s.cis.waiting.any fun (i : Ingest) => i.cls == 1 && decide (256 ≤ i.w) && s.decOf (i.w - 256) == some d

/-- DECODE_FRAME: decoder `d` takes the next frame of its queue; `ecc` says which read hits an uncorrectable error. A decoder whose row,
or the route its CMP_ERROR would take, waits for ingest credit takes none (R394). -/
def decodeFrame (d : Nat) (ecc : EccHit) (s : State) : State :=
  have s := if (s.cmp.inQ.getD d []).isEmpty ∧ s.live .cmp then s.unpark d s.cmp.parked else s
  match s.cmp.inQ.getD d [] with
  | (w', f) :: q =>
    if !s.live .cmp ∨ s.decHeld d ∨ s.routeHeld 2 then s
    else
      let w := w' % 256
      have s := { s with cmp := { s.cmp with inQ := s.cmp.inQ.set d q } }
      let k := decKey f w
      have s := if ecc = .history then s.decInvalid k w else s
      let st := s.cmp.dec.getD k DecSt.rest
      have s := match decodeUnder ecc f st with
        | .error c => s.decReject d w' c (ecc != EccHit.frameHead) f
        | .row row st' =>
          let m := if st'.valid then st'.map else if st.map.length = row.count then st.map else List.replicate row.count 0
          have s := (s.ev .cmp 0 5 row.count).setDec k { st' with valid := st'.valid || st.valid }
          have s := if st.valid && !st'.valid then s.decInvalid k w else s
          s.rowOut w f row m (ecc == EccHit.recode)
      (s.unpark d s.cmp.parked).decRebind
  | [] => s

def execDecodeFrame (d : Nat) (ecc : EccHit) (s : State) : Host.Outcome State Fault Refusal := done (decodeFrame d ecc s).settle

/-! ### The predictor table (R164) -/

/-- The staged table takes effect with `CMP_CFG`. -/
def State.cmpApply (s : State) : State := { s with cmp := { s.cmp with active := s.cmp.staged } }

/-- READ of a bank; on a tray every command answers BAD_OP. -/
def cmpTblRead (m : SMap Nat) (idx : Nat) (s : State) : WinOut :=
  if s.isTray then s.win 3 else if 13312 ≤ idx then s.win 2 else s.winData [BitVec.ofNat 64 (m.getD idx 0)]

def execCmpTblRead (q : Req) (idx : Nat) (s : State) : Host.Outcome State Fault Refusal :=
  done (s.winCmd q .cmp 0 0 1 idx fun s => cmpTblRead s.cmp.staged idx s)

def execCmpTblReadActive (q : Req) (idx : Nat) (s : State) : Host.Outcome State Fault Refusal :=
  done (s.winCmd q .cmp 0 0 4 idx fun s => cmpTblRead s.cmp.active idx s)

/-- WRITE of a staged entry. -/
def cmpTblWrite (idx : Nat) (s : State) : WinOut :=
  if s.isTray then s.win 3
  else if 13312 ≤ idx then s.win 2
  else { s with cmp := { s.cmp with staged := s.cmp.staged.set idx (bits (s.data .cmp 0 0).toNat 15 0) } }.win 0

def execCmpTblWrite (q : Req) (idx : Nat) (s : State) : Host.Outcome State Fault Refusal :=
  done (s.winCmd q .cmp 0 0 2 idx (cmpTblWrite idx))

/-! ### Reset (R554) -/

/-- `PG_CTRL.UNIT_RESET` of CMP: work in flight is abandoned, both banks and the rows in AON buffers stay. -/
def cmpReset (s : State) : State :=
  let lost := ((s.cmp.held.toList.map (·.row)) ++ s.cmp.liveQ).map (fun (r : Row) => r.group) ++
    (s.cmp.outQ.filter fun f => rdLE f.1 0 1 == 0x20).map fun f => rdLE f.1 28 1
  let left := framesBytes s.cmp.parked
  let enc := if s.isTray then [] else s.cmp.enc.mapV fun _ e => { EncSt.rest with seq := e.seq }
  have s := { s with cmp := { s.cmp with liveQ := [], held := none, outQ := [], outUsed := 0, enc, dec := [], inQ := [], parked := []
                                         gapOwed := (s.cmp.gapOwed ++ lost).eraseDups } }
  have s := { s with cis := { s.cis with waiting := s.cis.waiting.filter fun i => !(i.cls == 0 && decide (i.w < 128)), blocked := [] } }
  (if left = 0 then s else s.drainFill left).drained

end Sys2Proof.Machine
end

