-- ==== Sys2Proof/Machine/Slk.lean ====
section
/-! DEFINITION. The SolsoLink link level (12.1 to 12.5): the wire form of a flit, acknowledgement, credits, replay, retraining,
lane states, identity, rates, and the writes of `SLK_CTRL`. -/

namespace Sys2Proof.Machine

/-! ### The wire form (R314) -/

/-- A flit's bytes but its CRC. -/
def Flit.body (f : Flit) : Bytes :=
  leBytes 8 (f.ftype % 256 * 2 ^ 56 + f.vc % 4 * 2 ^ 54 + b2n f.som * 2 ^ 53 + b2n f.eom * 2 ^ 52 + f.seq % 4096 * 2 ^ 40
    + f.ack % 4096 * 2 ^ 28 + f.crVc % 4 * 2 ^ 26 + f.crCum % 256 * 2 ^ 18 + f.payload.length % 256 * 2 ^ 10 + f.resv % 1024)
    ++ f.payload ++ List.replicate (244 - f.payload.length) 0

/-- The 256 bytes of a flit. -/
def Flit.bytes (f : Flit) : Bytes := f.body ++ leBytes 4 (crc32c f.body)

/-- A flit as its bytes spell it, and its LEN. -/
def flitOf (b : Bytes) : Flit × Nat :=
  let h := leNat (b.take 8)
  let len := bits h 17 10
  ({ ftype := bits h 63 56, vc := bits h 55 54, som := bit h 53, eom := bit h 52, seq := bits h 51 40, ack := bits h 39 28
     crVc := bits h 27 26, crCum := bits h 25 18, resv := bits h 9 0, payload := ((b.drop 8).take 244).take len }, len)

/-- The CRC of a flit's bytes holds. -/
def flitCrcOk (b : Bytes) : Bool := b.length == 256 && crc32c (b.take 252) == rdLE b 252 4

/-- A control flit (R315) to send. -/
def ctlFlit (ftype : Nat) (payload : Bytes) : Flit :=
  { ftype, vc := 0, som := false, eom := false, seq := 0, ack := 0, crVc := 0, crCum := 0, resv := 0, payload }

/-- The types of Table 12-5, those that are sequenced, and the LEN each admits. -/
def flitSeqd (t : Nat) : Bool := t == 1 || (decide (0x10 ≤ t) && decide (t ≤ 0x12)) || (decide (0x20 ≤ t) && decide (t ≤ 0x22))
def flitKnown (t : Nat) : Bool := decide (t ≤ 4) || flitSeqd t
def flitLenOk (t len : Nat) : Bool :=
  if t = 0 then len == 0
  else if t = 1 then decide (1 ≤ len ∧ len ≤ 244)
  else if t = 2 then len == 2
  else if t = 3 then len == 5
  else if t = 4 ∨ t = 0x10 then len == 24
  else if t = 0x11 then len == 4
  else if t = 0x12 then len == 16
  else if t = 0x20 ∨ t = 0x21 then len % 16 == 0 && decide (1 ≤ len / 16 ∧ len / 16 ≤ 15)
  else if t = 0x22 then len == 8 || len == 40 else false

/-! ### Rates (R312) -/

/-- The end's request steps slower, to `rate`: a step down within 60 s of a step up doubles the hold time. -/
def State.slower (s : State) (w rate : Nat) : State :=
  let l := s.lane w
  let quick := l.lastUp.any fun e => decide (s.aon < e + 60000 * cyMs)
  ((s.bump Fd.SLK_LINK_CNT_RATE_DOWN w).setLane w
    { l with reqOwn := rate, holdS := if quick then min (2 * l.holdS) 3600 else l.holdS, holdFrom := s.aon, uncorr := []
             lastUp := none }).emit (.rateReq w rate)

/-- An ACTIVE lane moves to RATE_SWITCH when the lower of the two requests is another rate (R312). A request that changes in any other
state is met as the lane becomes ACTIVE. -/
def State.rateCheck (s : State) (w : Nat) : State :=
  let r := max (s.lane w).reqOwn (s.lane w).reqPeer
  if s.laneActive w ∧ r ≠ s.fld Fd.SLK_STATE_RATE w then (s.laneTo w 5).setFld Fd.SLK_STATE_RATE w r else s

/-- Uncorrectable codewords (R307, R312): more than 4 within 1 ms step the request slower. -/
def State.uncorrectable (s : State) (w n : Nat) : State :=
  have s := s.bumpW Fd.SLK_FEC_UNCORR w n
  have s := s.modLane w fun l =>
    { l with uncorr := List.replicate n s.aon ++ l.uncorr.filter (fun e => decide (s.aon < e + cyMs)), holdFrom := s.aon }
  let l := s.lane w
  if 4 < l.uncorr.length ∧ l.reqOwn < s.fld Fd.SLK_CFG_RATE_MIN w then (s.slower w (l.reqOwn + 1)).rateCheck w else s

/-- A write of `SLK_CFG` applies RATE_TARGET at once and returns the hold time to 60 s (R312). -/
def State.rateTarget (s : State) (w : Nat) : State :=
  ((s.modLane w fun l => { l with reqOwn := s.fld Fd.SLK_CFG_RATE_TARGET w, holdS := 60, holdFrom := s.aon, lastUp := none }
    ).emit (.rateReq w (s.fld Fd.SLK_CFG_RATE_TARGET w))).rateCheck w

/-- RATE_HOLD_EXPIRE: a hold time has passed without an uncorrectable codeword. -/
def rateHoldExpire (w : Nat) (s : State) : State :=
  let l := s.lane w
  if s.fld Fd.SLK_CFG_RATE_TARGET w < l.reqOwn then
    have s := s.reach (l.holdFrom + l.holdS * 1000 * cyMs)
    have s := s.setLane w { l with reqOwn := l.reqOwn - 1, holdFrom := s.aon, lastUp := some s.aon }
    ((s.bump Fd.SLK_LINK_CNT_RATE_UP w).emit (.rateReq w (l.reqOwn - 1))).rateCheck w
  else s

def execRateHoldExpire (w : Nat) (s : State) : Host.Outcome State Fault Refusal := done (rateHoldExpire w s)

/-- LANE_RATE_REQ_RX: the partner's request of the lane control blocks. -/
def laneRateReqRx (w code : Nat) (s : State) : State :=
  if code ≤ 2 then (s.modLane w fun l => { l with reqPeer := code }).rateCheck w else s

def execLaneRateReqRx (w code : Nat) (s : State) : Host.Outcome State Fault Refusal := done (laneRateReqRx w code s)

/-- The port's latencies as measured at a training or a rate switch (R91). -/
def State.setLat (s : State) (p tx rx : Nat) : State :=
  { s with tkp := { s.tkp with portTimes := s.tkp.portTimes.set p { s.portTime p with txLat := tx, rxLat := rx } } }

/-- RATE_SWITCH_DONE: aligned at the new rate; a time exchange that spans the switch is incomplete (R313). A request that changed
meanwhile starts the next switch (R312). -/
def rateSwitchDone (w tx rx : Nat) (s : State) : State :=
  if s.lstate w = 5 then (((s.setLat w tx rx).modLane w fun l => { l with noise := true }).laneTo w 4).rateCheck w else s

def execRateSwitchDone (w tx rx : Nat) (s : State) : Host.Outcome State Fault Refusal := done (rateSwitchDone w tx rx s)

/-! ### Training (R308 to R311) -/

/-- LANE_DETECT. -/
def laneDetect (w : Nat) (s : State) : State :=
  if s.lstate w = 1 then s.toTrain w (max (s.lane w).reqOwn (s.lane w).reqPeer) else s

def execLaneDetect (w : Nat) (s : State) : Host.Outcome State Fault Refusal := done (laneDetect w s)

/-- TRAIN_ALIGN_DONE: IDENTIFY, with TX_LAT and RX_LAT measured. -/
def trainAlignDone (w tx rx : Nat) (s : State) : State := if s.lstate w = 2 then (s.setLat w tx rx).laneTo w 3 else s

def execTrainAlignDone (w tx rx : Nat) (s : State) : Host.Outcome State Fault Refusal := done (trainAlignDone w tx rx s)

/-- TRAIN_TIMEOUT: 2 ms without alignment. -/
def trainTimeout (w : Nat) (s : State) : State :=
  if s.lstate w = 2 then
    have s := s.reach ((s.lane w).since + 2 * cyMs)
    let r := s.fld Fd.SLK_STATE_RATE w
    if r < s.fld Fd.SLK_CFG_RATE_MIN w then (s.slower w (r + 1)).toTrain w (r + 1) else s.laneTo w 1
  else s

def execTrainTimeout (w : Nat) (s : State) : Host.Outcome State Fault Refusal := done (trainTimeout w s)

/-- RATE_SWITCH_TIMEOUT: 50 µs without alignment are a link-down event (R309). -/
def rateSwitchTimeout (w : Nat) (s : State) : State :=
  if s.lstate w = 5 then
    have s := s.reach ((s.lane w).since + 50 * cyUs)
    (s.toTrain w (s.fld Fd.SLK_STATE_RATE w)).linkDown w
  else s

def execRateSwitchTimeout (w : Nat) (s : State) : Host.Outcome State Fault Refusal := done (rateSwitchTimeout w s)

/-- LOSS_OF_SIGNAL. -/
def lossOfSignal (w : Nat) (s : State) : State :=
  let st := s.lstate w
  if 2 ≤ st ∧ st ≤ 5 then
    have s := s.laneTo w 1
    if 4 ≤ st then s.linkDown w else s
  else s

def execLossOfSignal (w : Nat) (s : State) : Host.Outcome State Fault Refusal := done (lossOfSignal w s)

/-- QUARANTINE_EXPIRE: QUAR_S has elapsed. -/
def quarantineExpire (w : Nat) (s : State) : State :=
  let q := s.fld Fd.SLK_FLAP_CFG_QUAR_S w
  if s.lstate w = 6 ∧ 0 < q then (s.reach ((s.lane w).since + q * 1000 * cyMs)).laneTo w 1 else s

def execQuarantineExpire (w : Nat) (s : State) : Host.Outcome State Fault Refusal := done (quarantineExpire w s)

/-- A write of `SLK_CTRL`: CLEAR_QUAR, RETRAIN, QUARANTINE. -/
def slkCtrlWrite (w : Nat) (d : Word) (s : State) : State :=
  have s := if d.getLsbD 1 ∧ s.lstate w = 6 then s.laneTo w 1 else s
  have s := if d.getLsbD 0 ∧ s.lstate w = 4 then s.toTrain w (s.fld Fd.SLK_STATE_RATE w)
    else if d.getLsbD 0 ∧ s.lstate w = 7 then s.laneTo w 1 else s
  if d.getLsbD 2 then s.quarantine w 3 else s

def execSlkRetrain (q : Req) (w : Nat) (d : Word) (s : State) : Host.Outcome State Fault Refusal :=
  done (s.rowWrite q .slk w 0x58 d fun s => (slkCtrlWrite w d s).okay)

def execSlkClearQuar (q : Req) (w : Nat) (d : Word) (s : State) : Host.Outcome State Fault Refusal :=
  done (s.rowWrite q .slk w 0x58 d fun s => (slkCtrlWrite w d s).okay)

def execSlkQuarantine (q : Req) (w : Nat) (d : Word) (s : State) : Host.Outcome State Fault Refusal :=
  done (s.rowWrite q .slk w 0x58 d fun s => (slkCtrlWrite w d s).okay)

/-! ### Acknowledgement, credits, replay (R319 to R322) -/

/-- The transmit credits of a VC (`SLK_CREDIT`). -/
def creditFld (vc : Nat) : Fld := ⟨Rg.SLK_CREDIT, 8 * vc + 7, 8 * vc⟩

/-- An ACK_SEQ covers the flits up to it; none when it names a SEQ not yet sent (R322). -/
def Lane.acked (l : Lane) (a now : Nat) : Option Lane :=
  let d := wrapI ((l.seq : Int) - 1 - a) 12
  if d < l.replay.length then
    let k := l.replay.length - d
    let pos := match l.replayPos with
      | some p => if d = 0 then none else if k ≤ p then (if p - k < d then some (p - k) else none) else some 0
      | none => none
    some { l with replay := l.replay.drop k, replayPos := pos, ackAt := now }
  else if d < 2048 then some l else none

/-- The lane leaves ACTIVE to train again, which is a link-down event (R309). -/
def State.retrain (s : State) (w rate : Nat) : State := if s.laneActive w then (s.toTrain w rate).linkDown w else s

/-- A credit resync is asked for: sequenced flits stop until it is answered (R320). -/
def State.resync (s : State) (w : Nat) : State :=
  s.modLane w fun l => if l.syncDue.isSome || l.syncWait.isSome then l else { l with syncDue := some true, syncTries := 0 }

/-- A CR_CUM is taken: credits added, or CREDIT_OVER (R319). -/
def State.creditTaken (s : State) (w : Nat) (f : Flit) : State :=
  let l := s.lane w
  let c := s.fld (creditFld f.crVc) w + (f.crCum + 256 - l.crLast.getD f.crVc 0) % 256
  have s := s.setLane w { l with crLast := l.crLast.set f.crVc f.crCum }
  if l.peerBufs.getD f.crVc 0 < c then (s.slkViol w 8 f.ftype f.vc f.seq).resync w else s.setFld (creditFld f.crVc) w c

/-- A discard leaves a gap: the first sends a NAK (R321). -/
def State.gap (s : State) (w : Nat) : State :=
  s.modLane w fun l => if l.gapOpen then l else { l with gapOpen := true, nakDue := true }

/-- BAD_ACK (R322): the lane retrains with RESUME. -/
def State.badAck (s : State) (w : Nat) (f : Flit) : State :=
  (s.slkViol w 9 f.ftype f.vc f.seq).retrain w (s.fld Fd.SLK_STATE_RATE w)

/-- A replay from place `k` of the replay buffer; REPLAY_MAX in a row from one SEQ are REPLAY_EXHAUST (R322). -/
def State.startReplay (s : State) (w k : Nat) : State :=
  let l := s.lane w
  match l.replay[k]? with
  | none => s
  | some f =>
    let n := if l.replaySeq = f.seq ∧ 0 < l.replays then l.replays + 1 else 1
    have s := (s.bump Fd.SLK_RETRY_REPLAYS w).setLane w
      { l with replayPos := some k, replays := n, replaySeq := f.seq, ackAt := s.aon, noise := true }
    if s.fld Fd.SLK_CFG_REPLAY_MAX w ≤ n then
      have s := (s.modLane w fun l => { l with replays := 0 }).slkViol w 16 f.ftype f.vc f.seq
      let r := s.fld Fd.SLK_STATE_RATE w
      if r < s.fld Fd.SLK_CFG_RATE_MIN w then (s.slower w (r + 1)).retrain w (r + 1) else s.retrain w r
    else s

/-! ### Identity (R17, R310, R311) -/

/-- The payload of this end's TRAIN flit (Table 12-7): the buffers named are the sizes of Table 12-6 (R317). -/
def State.trainBody (s : State) (w : Nat) : Bytes :=
  let l := s.lane w
  leBytes 1 (b2n s.isTray) ++ leBytes 1 1 ++ leBytes 3 (s.nodeId + s.fld Fd.DIR_NODE_VALID * 2 ^ 23) ++
    leBytes 1 (if s.isTray then w else 0xFF) ++ leBytes 2 (s.fld Fd.DIR_NODE_PKG_ID) ++
    leBytes 1 (s.chip.pkgDieIdx + s.chip.pkgDies * 16) ++ leBytes 1 (l.reqOwn + b2n l.hasState * 128) ++
    (List.range 4).flatMap (fun v => leBytes 1 (s.rxBufs v)) ++
    leBytes 2 l.exp ++ leBytes 8 0

/-- Another wellhead that holds a LEAF_ID: one that runs. -/
def State.idTwin (s : State) (w id : Nat) : Option Nat :=
  (List.range s.wellheads).find? fun o => o != w && (s.lstate o == 4 || s.lstate o == 5) &&
    s.fld Fd.SLK_STATE_MGMT_ONLY o == 0 && s.fld Fd.SLK_STATE_PEER_ID o == id

/-- A refused partner: HELD, with SLK_ID_CONFLICT (R310). -/
def State.hold (s : State) (w : Nat) : State :=
  ((s.laneTo w 7).modLane w fun l => { l with hasState := false }).fault .slk w 0

/-- The partner's identity is taken and the lane becomes ACTIVE: sequence and replay state are kept when both ends resume with
the same partner, and begin anew otherwise (R311). A resumed end asks for a CREDIT_SYNC, which sets its credits (R311, R320): TRAIN
names buffer sizes and not the buffers free (DEDUCED, log entry 114). -/
def State.letIn (s : State) (w : Nat) (b : Bytes) : State :=
  let l := s.lane w
  let id := bits (rdLE b 2 3) 19 0
  let port := if s.isTray then 0 else rdLE b 5 1
  let same := s.fld Fd.SLK_STATE_PEER_VALID w == 1 && s.fld Fd.SLK_STATE_PEER_ID w == id && s.fld Fd.SLK_STATE_PEER_PORT w == port
  let kept := if l.hasState && bit (rdLE b 9 1) 7 && same then l.acked ((rdLE b 14 2 + 4095) % 4096) s.aon else none
  have s := match kept with
    | some k => (s.bump Fd.SLK_RETRY_REPLAYS w (b2n (!k.replay.isEmpty))).setLane w
        { k with replayPos := if k.replay.isEmpty then none else some 0 }
    | none =>
      have s := s.laneLose w
      s.modLane w fun l => { l with
        seq := 0, exp := 0, rxMsg := [], rxUsed := l.rxUsed.erase 3, rxCount := 0, rxHeld := []
        peerBufs := (List.range 4).map fun v => (v, rdLE b (10 + v) 1) }
  have s := s.modLane w fun l => { l with
    gapOpen := false, ahead := false, nakDue := false, freed := [], crLast := [], syncDue := if kept.isSome then some true else none, syncWait := none, syncTries := 0
    ansDue := false, replays := 0, ackAt := s.aon, expAt := s.aon, reqPeer := min 2 (bits (rdLE b 9 1) 1 0), hasState := true
    idAt := some s.aon, peerPkg := bits (rdLE b 6 2) 14 0, noise := true }
  have s := (List.range 4).foldl (fun s v =>
    s.setFld (creditFld v) w (rdLE b (10 + v) 1 - ((s.lane w).replay.filter fun f => f.vc == v).length)) s
  have s := ((s.setFld Fd.SLK_STATE_PEER_VALID w 1).setFld Fd.SLK_STATE_PEER_ID w id).setFld Fd.SLK_STATE_PEER_PORT w port
  have s := s.setFld Fd.SLK_STATE_MGMT_ONLY w (b2n (s.isTray && !bit (rdLE b 2 3) 23))
  let down := (s.lane w).downed
  have s := (s.modLane w fun l => { l with downed := false }).laneTo w 4
  have s := if s.isTray ∧ 0 < s.fld Fd.CIS_STAT_S then
    (s.linkMsg w (leBytes 1 2 ++ leBytes 1 (s.fld Fd.CIS_STAT_S))).bump Fd.CIS_CNT_SLOW_DOWN else s
  have s := if kept.isNone && down then s.rdxRejoin w else s
  s.rateCheck w

/-- TRAIN_FLIT_RX (R310, R17): the partner's TRAIN flit in IDENTIFY. Of two wellheads that report one LEAF_ID in the same AON
cycle the lower-numbered one is admitted. -/
def trainFlitRx (w : Nat) (b : Bytes) (s : State) : State :=
  if s.lstate w ≠ 3 then s
  else
    let fits := rdLE b 0 1 == b2n (!s.isTray) && rdLE b 1 1 == 1
    if !s.isTray then (if fits then s.letIn w b else s)
    else if !fits then s.hold w
    else if !bit (rdLE b 2 3) 23 then s.letIn w b
    else match s.idTwin w (bits (rdLE b 2 3) 19 0) with
    | none => s.letIn w b
    | some o => if w < o ∧ (s.lane o).idAt = some s.aon then (s.hold o).letIn w b else s.hold w

def execTrainFlitRx (w : Nat) (body : List Byte) (s : State) : Host.Outcome State Fault Refusal := done (trainFlitRx w body s)

end Sys2Proof.Machine
end

