-- ==== Sys2Proof/Machine/Flits.lean ====
section
/-! DEFINITION. SolsoLink flits sent and control flits received (12.4, 12.5), the lane's timers, HPA (12.8), and the window's APP
items (R326, R336). -/

namespace Sys2Proof.Machine

/-! ### What a slot sends (R318, R319) -/

/-- While SLK is stopped it carries only VC1 and time flits (R482, R483). -/
def State.laneCarries (s : State) (w ftype vc : Nat) : Bool :=
  !s.outOfService .slk w || vc == 1 || (decide (0x10 ≤ ftype) && decide (ftype ≤ 0x12))

/-- A flit leaves: ACK_SEQ and the rotating credit field are filled in. -/
def State.txFlit (s : State) (w : Nat) (f : Flit) : State :=
  let l := s.lane w
  let f := { f with ack := (l.exp + 4095) % 4096, crVc := l.crRot, crCum := l.freed.getD l.crRot 0 }
  ((s.modLane w fun l => { l with crRot := (l.crRot + 1) % 4 }).emit (.flit w f)).countSent w f.ftype f.vc

/-- What waits outside the lane for a VC moves into its queue: a leaf's oldest mark, or on VC2 a retained record asked for, then
the oldest row frame (R153, R344, R415). -/
def State.fillVc (s : State) (w vc : Nat) : State :=
  if s.isTray ∨ (((s.lane w).txq.getD vc []).any fun (it : TxItem) => it.ftype == 1) then s
  else if vc = 0 then
    match s.pullMark with
    | some (m, t) => if s.outOfService .stm 0 then s else t.sendMsg w 0 m
    | none => s
  else if vc = 2 then
    have s := s.eprServe
    if ((s.lane w).txq.getD 2 []).isEmpty then
      match s.cmpTake with
      | some (m, t) => t.sendMsg w 2 m
      | none => s
    else s
  else s

/-- The next flit of an item, and what is left of the item. -/
def TxItem.next (it : TxItem) (vc : Nat) : Flit × Option TxItem :=
  if it.ftype = 1 then
    let c := (it.body.drop it.off).take 244
    let fin := it.body.length ≤ it.off + 244
    ({ ctlFlit 1 c with vc, som := it.off == 0, eom := fin }, if fin then none else some { it with off := it.off + 244 })
  else ({ ctlFlit it.ftype it.body with vc }, none)

/-- A timestamped or marked flit as it passes the pins: t1 goes into TIME_SYNC, t3 is kept, a mark enters the port's queue
(R104, R324). -/
def State.stampTx (s : State) (w sub : Nat) (it : TxItem) (f : Flit) : State × Flit :=
  let t := s.txTime w sub
  let f := if it.ftype = 0x10 then { f with payload := timeBytes t ++ f.payload.drop 12 } else f
  have s := if it.ftype = 0x11 then
      { s with tkp := { s.tkp with exch := s.tkp.exch.map fun (x : Exchange) => { x with t3 := t } } } else s
  match it.mark with
  | some i => (s.txtsPut w i t, f)
  | none => (s, f)

/-- A sequenced flit of an item leaves: it takes a credit and is kept for replay (R315, R322). -/
def State.sendSeq (s : State) (w vc sub : Nat) (it : TxItem) (f : Flit) : State :=
  let (s, f) := s.stampTx w sub it f
  let l := s.lane w
  let f := { f with seq := l.seq }
  have s := s.setLane w { l with seq := (l.seq + 1) % 4096, replay := l.replay ++ [f]
                                 ackAt := if l.replay.isEmpty then s.aon else l.ackAt }
  (s.setFld (creditFld vc) w (s.fld (creditFld vc) w - 1)).txFlit w f

/-- A sequenced flit may go on a VC: credit, replay space, and no resync outstanding. -/
def State.mayGo (s : State) (w vc : Nat) : Bool :=
  let l := s.lane w
  decide (0 < s.fld (creditFld vc) w) && decide (l.replay.length < s.replayMax) && l.syncWait.isNone && l.syncDue.isNone

/-- An item of the VC that the lane may carry now. -/
def State.vcReady (s : State) (w vc : Nat) : Bool :=
  ((s.lane w).txq.getD vc []).any fun (it : TxItem) => s.laneCarries w it.ftype vc

/-- The VC with what waits outside the lane drawn on, where its own queue has nothing to send. -/
def State.vcDrawn (s : State) (w vc : Nat) : State :=
  if s.vcReady w vc ∨ !s.laneCarries w 1 vc then s else s.fillVc w vc

/-- The VC may send in this slot. Nothing is drawn on before it is picked, so that a record queued meanwhile goes first (R344). -/
def State.vcTurn (s : State) (w vc : Nat) : Bool := s.mayGo w vc && (s.vcDrawn w vc).vcReady w vc

/-- A leaf's MGMT_RESP leaves: the `LCM_CMD` of the management path whose reply it carries takes effect 2 µs later (R517). -/
def State.respLeft (s : State) : State :=
  let left := fun (c : LcmCmd) => if c.ahead = 1 then { c with ahead := 0, due := max c.due (s.aon + 2 * cyUs) } else { c with ahead := c.ahead - 1 }
  { s with lcm := { s.lcm with cmd := s.lcm.cmd.map left } }

/-- The next flit of a VC's queue leaves. -/
def State.sendHead (s : State) (w vc sub : Nat) : State :=
  let q := (s.lane w).txq.getD vc []
  let (pre, post) := q.span fun (it : TxItem) => !s.laneCarries w it.ftype vc
  match post with
  | it :: r =>
    let (f, left) := it.next vc
    let rest := match left with | some i => i :: r | none => r
    let app := it.ftype == 0x22 && rdLE it.body 0 1 == 4
    have s := s.modLane w fun l => { l with txq := l.txq.set vc (pre ++ rest), appQ := if app then l.appQ - 1 else l.appQ }
    (if it.ftype = 0x21 then s.respLeft else s).sendSeq w vc sub it f
  | [] => s

/-- The VC picked sends its next flit. -/
def State.sendVc (s : State) (w vc sub : Nat) : State := (s.vcDrawn w vc).sendHead w vc sub

/-- VC2 and VC3 by weighted round robin: which one of those ready sends, and what is left of the round. -/
def wrrPick (r2 r3 : Bool) (left : Nat × Nat) (w2 w3 : Nat) : Nat × (Nat × Nat) :=
  if r2 ∧ 0 < left.1 then (2, (left.1 - 1, left.2))
  else if r3 ∧ 0 < left.2 then (3, (left.1, left.2 - 1))
  else if r2 then (2, (w2 - 1, w3))
  else (3, (w2, w3 - 1))

/-- A NAK leaves (R321). -/
def State.sendNak (s : State) (w : Nat) : State :=
  have s := (s.bump Fd.SLK_RETRY_NAK_SENT w).modLane w fun l => { l with nakDue := false, nakAt := s.aon, noise := true }
  s.txFlit w (ctlFlit 2 (leBytes 2 (s.lane w).exp))

/-- A CREDIT_SYNC leaves, as the answer or the request (R320). The answer restarts this end's cumulative counts. -/
def State.sendSync (s : State) (w : Nat) (request : Bool) : State :=
  have s := (s.bump Fd.SLK_RETRY_CREDIT_SYNCS w).modLane w fun l =>
    if request then { l with syncDue := none, syncWait := some s.aon } else { l with ansDue := false, freed := [] }
  s.txFlit w (ctlFlit 3 ((List.range 4).flatMap (fun v => leBytes 1 (s.rxBufs v - (s.lane w).rxUsed.getD v 0)) ++
    leBytes 1 (b2n request)))

/-- The next flit due for replay leaves. -/
def State.sendReplay (s : State) (w k : Nat) (f : Flit) : State :=
  have s := s.modLane w fun l =>
    { l with replayPos := if k + 1 < l.replay.length then some (k + 1) else none, noise := true }
  ((s.item 10).ev .slk w 3).txFlit w f

/-! ### Timed items (R106) -/

/-- The time a flit takes at the rate of the lane (Table 12-1), and a frame with FCS, preamble and gap on its port, in 2^-16 ns, rounded
up. -/
def State.flitTime (s : State) (w : Nat) : Nat := ceilDiv (1024 * 65536 * 2 ^ s.fld Fd.SLK_STATE_RATE w) 100
def frameTime (n : Nat) : Nat := ceilDiv (5 * (n + 24) * 65536) 1000

/-- The time a timed item takes on its port. -/
def State.itemTime (s : State) (port : Nat) (it : TimedItem) : Nat :=
  if s.isTray ∧ 128 ≤ port then frameTime it.item.length else s.flitTime port

/-- When a timed item starts inside the block, so that it is at the pins at its launch time, or once the timed item before it has left. -/
def State.launchStart (s : State) (port : Nat) (it : TimedItem) : Nat :=
  max (it.launch - (s.portTime port).txLat) (s.tkp.busyTo.getD port 0)

/-- A flit or frame that starts at `u` and takes `d` leaves the lane free for the timed items of its port: none is still leaving and the
next does not start before it has left (R106). -/
def State.clearOf (s : State) (port u d : Nat) : Bool :=
  decide (s.tkp.busyTo.getD port 0 ≤ u) &&
    match s.tkp.timed.getD port [] with
    | [] => true
    | it :: _ => decide (u + d ≤ s.launchStart port it)

/-- What a slot of an ACTIVE lane sends (R318). -/
def State.slotSend (s : State) (w sub : Nat) : State :=
  let l := s.lane w
  if l.nakDue then s.sendNak w
  else if l.ansDue then s.sendSync w false
  else if l.syncDue.isSome then s.sendSync w true
  else match l.replayPos.bind fun k => (l.replay[k]?).map fun f => (k, f) with
  | some (k, f) => if l.syncWait.isSome then s.txFlit w (ctlFlit 0 []) else s.sendReplay w k f
  | none =>
    if s.vcTurn w 0 then s.sendVc w 0 sub
    else if s.vcTurn w 1 then s.sendVc w 1 sub
    else
      let r2 := s.vcTurn w 2
      let r3 := s.vcTurn w 3
      if r2 || r3 then
        let (vc, left) := wrrPick r2 r3 l.rrLeft (s.fld Fd.SLK_CFG_VC2_W w) (s.fld Fd.SLK_CFG_VC3_W w)
        (s.modLane w fun l => { l with rrLeft := left }).sendVc w vc sub
      else s.txFlit w (ctlFlit 0 [])

/-- FLIT_SLOT: one slot of the lane. In IDENTIFY it sends TRAIN; a slot that a timed item needs stays empty. -/
def flitSlot (w sub : Nat) (s : State) : State :=
  if s.lstate w = 3 then (s.emit (.flit w (ctlFlit 4 (s.trainBody w)))).countSent w 4 0
  else if s.laneActive w ∧ s.clearOf w (s.now + sub) (s.flitTime w) then s.slotSend w sub
  else s

def execFlitSlot (w sub : Nat) (s : State) : Host.Outcome State Fault Refusal := done (flitSlot w sub s)

/-! ### Receiving: what every flit goes through, and control flits -/

/-- A flit reaches the receiver: FEC counts, the CRC, then ACK_SEQ and the credit field of any type but TRAIN (R307, R315). None
when it is discarded. -/
def State.flitIn (s : State) (w : Nat) (b : Bytes) (corr : Nat) (uncorr : Option Nat) : State × Option (Flit × Nat) :=
  let (f, len) := flitOf b
  have s := s.bumpW Fd.SLK_FEC_CORRECTED w corr
  match uncorr with
  | some n => (((s.slkViol w 2 f.ftype f.vc f.seq).gap w).uncorrectable w n, none)
  | none =>
    if !flitCrcOk b then ((s.slkViol w 1 f.ftype f.vc f.seq).gap w, none)
    else if f.ftype = 4 ∨ !flitKnown f.ftype then (s, some (f, len))
    else match (s.lane w).acked f.ack s.aon with
    | none => (s.badAck w f, none)
    | some l =>
      have s := s.setLane w l
      let answer := f.ftype == 3 && l.syncWait.isSome && !bit (rdLE f.payload 4 1) 0
      (if answer then s else s.creditTaken w f, some (f, len))

/-- Codewords of an aligned lane that runs no flits (R307): corrected symbols and uncorrectable codewords count; a TRAIN flit that one of
these overlaps, or whose CRC fails, is discarded and counts. -/
def State.fecOnly (s : State) (w : Nat) (b : Bytes) (corr : Nat) (uncorr : Option Nat) : State :=
  let (f, _) := flitOf b
  have s := s.bumpW Fd.SLK_FEC_CORRECTED w corr
  match uncorr with
  | some n => (if s.lstate w = 3 then s.slkViol w 2 f.ftype f.vc f.seq else s).uncorrectable w n
  | none => if s.lstate w = 3 ∧ !flitCrcOk b then s.slkViol w 1 f.ftype f.vc f.seq else s

/-- A NAK is taken (R322). -/
def State.nakTaken (s : State) (w : Nat) (f : Flit) : State :=
  have s := (s.bump Fd.SLK_RETRY_NAK_RCVD w).modLane w fun l => { l with noise := true }
  let e := rdLE f.payload 0 2
  match (s.lane w).replay.findIdx? fun (x : Flit) => x.seq == e with
  | some k => s.startReplay w k
  | none => s.badAck w f

/-- A CREDIT_SYNC is taken (R320): answered, or the answer that sets the credits. -/
def State.syncIn (s : State) (w : Nat) (f : Flit) : State :=
  if bit (rdLE f.payload 4 1) 0 then s.modLane w fun l => { l with ansDue := true }
  else if (s.lane w).syncWait.isSome then
    have s := s.modLane w fun l => { l with syncWait := none, syncTries := 0, crLast := [] }
    (List.range 4).foldl (fun s v => s.setFld (creditFld v) w
      (rdLE f.payload v 1 - ((s.lane w).replay.filter fun x => x.vc == v).length)) s
  else s

/-- A flit that is not sequenced (Tables 12-5, 12-9). -/
def State.controlIn (s : State) (w : Nat) (f : Flit) (len : Nat) : State :=
  if !flitKnown f.ftype ∨ f.resv ≠ 0 ∨ !flitLenOk f.ftype len then s.slkViol w 5 f.ftype f.vc f.seq
  else if f.vc ≠ 0 ∨ f.ftype = 4 then s.slkViol w 6 f.ftype f.vc f.seq
  else if f.ftype = 2 then s.nakTaken w f
  else if f.ftype = 3 then s.syncIn w f
  else s

/-- A control flit of one type by a row of its own. -/
def State.controlRow (s : State) (w ftype : Nat) (b : Bytes) : State :=
  if s.laneActive w ∧ (flitOf b).1.ftype = ftype then
    match s.flitIn w b 0 none with
    | (s, some (f, len)) => s.controlIn w f len
    | (s, none) => s
  else s

/-- NAK_RX. -/
def execNakRx (w : Nat) (f : List Byte) (s : State) : Host.Outcome State Fault Refusal := done (s.controlRow w 2 f)

/-- CREDIT_SYNC_RX. -/
def execCreditSyncRx (w : Nat) (f : List Byte) (s : State) : Host.Outcome State Fault Refusal := done (s.controlRow w 3 f)

/-- NULL_FLIT_RX. -/
def execNullFlitRx (w : Nat) (f : List Byte) (s : State) : Host.Outcome State Fault Refusal := done (s.controlRow w 0 f)

/-! ### Timers -/

/-- REPLAY_TMO_NS in AON cycles, rounded up to an edge. -/
def State.replayTmo (s : State) (w : Nat) : Nat := ceilDiv (s.fld Fd.SLK_CFG_REPLAY_TMO_NS w) 10

/-- REPLAY_TIMEOUT (R322). -/
def replayTimeout (w : Nat) (s : State) : State :=
  if s.laneActive w ∧ !(s.lane w).replay.isEmpty then (s.reach ((s.lane w).ackAt + s.replayTmo w)).startReplay w 0 else s

def execReplayTimeout (w : Nat) (s : State) : Host.Outcome State Fault Refusal := done (replayTimeout w s)

/-- NAK_REPEAT (R321). -/
def nakRepeat (w : Nat) (s : State) : State :=
  if s.laneActive w ∧ (s.lane w).gapOpen ∧ (s.lane w).nakDue = false then
    (s.reach ((s.lane w).nakAt + s.replayTmo w)).modLane w fun l => { l with nakDue := true }
  else s

def execNakRepeat (w : Nat) (s : State) : Host.Outcome State Fault Refusal := done (nakRepeat w s)

/-- CREDIT_SYNC_TIMEOUT (R320): the request repeats, and after 8 repeats the lane retrains. -/
def creditSyncTimeout (w : Nat) (s : State) : State :=
  match (s.lane w).syncWait with
  | some e =>
    if s.laneActive w then
      have s := s.reach (e + cyUs)
      let l := s.lane w
      if 8 ≤ l.syncTries then
        (s.setLane w { l with syncWait := none, syncTries := 0 }).retrain w (s.fld Fd.SLK_STATE_RATE w)
      else s.setLane w { l with syncWait := none, syncDue := some true, syncTries := l.syncTries + 1 }
    else s
  | none => s

def execCreditSyncTimeout (w : Nat) (s : State) : Host.Outcome State Fault Refusal := done (creditSyncTimeout w s)

/-! ### HPA (R329, R330) -/

/-- HPA_ROUTE_DELAY: the lane has been out of ACTIVE and RATE_SWITCH for DELAY_US. -/
def hpaRouteDelay (s : State) : State :=
  match (s.lane 0).outSince with
  | some e =>
    if !s.isTray ∧ s.enabled .hpa ∧ s.lstate 0 ≠ 4 ∧ s.lstate 0 ≠ 5 ∧ s.fld Fd.HPA_STAT_ROUTED = 0 then
      (s.reach (e + s.fld Fd.HPA_CFG_DELAY_US * cyUs)).hpaRoute
    else s
  | none => s

def execHpaRouteDelay (s : State) : Host.Outcome State Fault Refusal := done (hpaRouteDelay s)

/-- The ring's slots, and whether it is full. -/
def State.hpaSlots (s : State) : Nat := 2 ^ (s.fld Fd.HPA_CFG_LOG2_FLITS + 8)
def State.hpaFull (s : State) : Bool := decide (s.hpaSlots ≤ (s.fld Fd.HPA_STAT_PROD + 2 ^ 32 - s.hpa.cons) % 2 ^ 32)

/-- The message HPA sends next on a VC: the one in progress, or the next DATA item of the lane's queue while routed. -/
def State.hpaItem (s : State) (vc : Nat) : Option (TxItem × State) :=
  match s.hpa.txq.getD vc [] with
  | it :: r => some (it, { s with hpa := { s.hpa with txq := s.hpa.txq.set vc r } })
  | [] =>
    if s.fld Fd.HPA_STAT_ROUTED = 1 ∧ s.laneCarries 0 1 vc then
      have s := s.fillVc 0 vc
      let (pre, post) := ((s.lane 0).txq.getD vc []).span fun (it : TxItem) => it.ftype != 1
      match post with
      | it :: r => some (it, s.modLane 0 fun l => { l with txq := l.txq.set vc (pre ++ r) })
      | [] => none
    else none

/-- A flit goes to the ring, then PROD (R330): one transfer of client 11. -/
def State.hpaPut (s : State) (vc : Nat) (it : TxItem) : State :=
  let (f, left) := it.next vc
  let prod := s.fld Fd.HPA_STAT_PROD
  let va := s.fld Fd.HPA_RING_RING_VA * 4096 + prod % s.hpaSlots * 256
  let b := { f with seq := s.hpa.seq }.bytes
  have s := { s with hpa := { s.hpa with
    seq := (s.hpa.seq + 1) % 4096, lastVc := vc, txq := match left with | some i => s.hpa.txq.set vc [i] | none => s.hpa.txq } }
  s.beginRanges 11 0 (s.fld Fd.HPA_CFG_PUMP_CH) (s.fld Fd.HPA_CFG_XLT_CTX)
    [(va, b.length), (s.fld Fd.HPA_PTRS_PTRS_VA * 8, 8)] true (b ++ leBytes 8 ((prod + 1) % 2 ^ 32)) true

/-- HPA's flit and PROD are in the ring. -/
def State.hpaSent (s : State) : State :=
  (((s.setFld Fd.HPA_STAT_PROD 0 (s.fld Fd.HPA_STAT_PROD + 1)).addReg Rg.HPA_BYTES 0 256).bytes 24 256).endXfer 11 0

/-- HPA_FLIT_SEND (R74, R330): VC0 goes first; a full ring stalls, and so does a transfer in progress. -/
def hpaFlitSend (s : State) : State :=
  if s.isTray ∨ !s.live .hpa ∨ !s.primed ∨ (s.xfer? 11 0).isSome then s
  else if s.hpaFull then
    if s.fld Fd.HPA_STAT_RING_FULL = 1 then s else (s.setFld Fd.HPA_STAT_RING_FULL 0 1).bump Fd.HPA_CNT_RING_FULL
  else match s.hpaItem 0 with
  | some (it, s) => s.hpaPut 0 it
  | none => match s.hpaItem 2 with
    | some (it, s) => s.hpaPut 2 it
    | none => s

def execHpaFlitSend (s : State) : Host.Outcome State Fault Refusal := done (hpaFlitSend s)

/-- HPA_CONS_POLL. -/
def hpaConsPoll (cons : Nat) (s : State) : State :=
  if s.isTray ∨ !s.enabled .hpa then s
  else
    have s := { s with hpa := { s.hpa with cons := cons % 2 ^ 32 } }
    if s.hpaFull then s else s.setFld Fd.HPA_STAT_RING_FULL 0 0

def execHpaConsPoll (cons : Nat) (s : State) : Host.Outcome State Fault Refusal := done (hpaConsPoll cons s)

/-- The transfer of HPA's last flit ended by ABORT: the flit and its message are lost (R330). -/
def State.hpaLost (s : State) : State :=
  have s := (s.bump Fd.HPA_CNT_XLATE).bump Fd.HPA_CNT_MSG_LOST
  { s with hpa := { s.hpa with txq := s.hpa.txq.set s.hpa.lastVc (dropPartial (s.hpa.txq.getD s.hpa.lastVc [])) } }

/-! ### APP items (R326, R336) -/

/-- An APP item joins the send queue of 16. -/
def State.appQueue (s : State) (w vc : Nat) (body : Bytes) (mark : Option (BitVec 16)) : WinOut :=
  if 16 ≤ (s.lane w).appQ then s.win 4
  else ((s.sendItem w vc { ftype := 0x22, body, off := 0, mark }).modLane w fun l => { l with appQ := l.appQ + 1 }).win 0

/-- WRITE of the send queue (Table 12-12). -/
def appSend (w : Nat) (s : State) : WinOut :=
  let d := (s.data .slk w 1).toNat
  let t := ofTime96 ((s.data .slk w 0).toNat + bits d 31 0 * 2 ^ 64)
  let vc := bits d 51 51
  let mark := if bit d 48 then some (BitVec.ofNat 16 (bits d 47 32)) else none
  let body := leBytes 8 4 ++ (List.range 4).flatMap fun k => leBytes 8 (s.data .slk w (2 + k)).toNat
  if bit d 49 then
    match s.submitTimed w { launch := t, vc, item := body, mark } (bit d 50) with
    | (s, .tooFar) => s.win 9
    | (s, .full) => s.win 4
    | (s, .timed) => s.win 0
    | (s, .dropped) => s.win 0
    | (s, .now) => s.appQueue w vc body mark
  else s.appQueue w vc body mark

def execAppSend (q : Req) (w : Nat) (s : State) : Host.Outcome State Fault Refusal :=
  done (s.winCmd q .slk w 1 2 0 (appSend w))

/-- POP of the receive queue. -/
def appRxPop (w : Nat) (s : State) : WinOut :=
  match (s.lane w).rxApp with
  | [] => s.win 1
  | (m, t) :: r =>
    (s.modLane w fun l => { l with rxApp := r }).winData
      (toWords 4 m ++ [BitVec.ofNat 64 (time96 t), BitVec.ofNat 64 (time96 t / 2 ^ 64)])

def execAppRxPop (q : Req) (w : Nat) (s : State) : Host.Outcome State Fault Refusal :=
  done (s.winCmd q .slk w 2 3 0 (appRxPop w))

/-- A received APP message of 32 bytes enters the queue of 16, stamped at an AON edge (R113). -/
def State.appTaken (s : State) (w : Nat) (m : Bytes) : State :=
  if 16 ≤ (s.lane w).rxApp.length then s.bump Fd.SLK_MSG_CNT_APP_DROP w
  else (s.modLane w fun l => { l with rxApp := l.rxApp ++ [((m ++ List.replicate 32 0).take 32, s.now)] }).pendBit 10 2

/-- APP_MSG: an APP message is received on a running lane. -/
def appMsg (w : Nat) (m : Bytes) (s : State) : State := if s.laneActive w then s.appTaken w m else s

def execAppMsg (w : Nat) (body : List Byte) (s : State) : Host.Outcome State Fault Refusal := done (appMsg w body s)

/-- The oldest timed item of a lane's port leaves at its launch time (R106). Where the lane cannot send then, it waits first in
its VC's queue. -/
def State.launchLane (s : State) (w sub : Nat) (it : TimedItem) : State :=
  let x : TxItem := { ftype := 0x22, body := it.item, off := 0, mark := it.mark }
  if s.laneActive w && s.mayGo w it.vc then s.sendSeq w it.vc sub x (x.next it.vc).1
  else
    let q := (s.lane w).txq.getD it.vc []
    let q := match q with
      | h :: r => if 0 < h.off then h :: x :: r else x :: q
      | [] => [x]
    s.modLane w fun l => { l with txq := l.txq.set it.vc q, appQ := l.appQ + 1 }

end Sys2Proof.Machine
end

