-- ==== Sys2Proof/Machine/Ingress.lean ====
section
/-! DEFINITION. What arrives on a lane or an ALT ring and where it goes (12.3, 12.6, 12.8, 15.1): messages put together, policed and
dispatched by class, link messages, time flits, and the ALT ring's poll. -/

namespace Sys2Proof.Machine

/-! ### Dispatch (R390, Table 15-1) -/

/-- A verdict of codes 0x80 to 0x85 counts at a tray (R430). -/
def State.countVerdict (s : State) (m : Bytes) : State :=
  let c := bits (leNat (m.take 16)) 15 8
  if 0x80 ≤ c ∧ c ≤ 0x85 then s.bump ⟨Rg.STM_VCNT, 8 * (c - 0x80) + 7, 8 * (c - 0x80)⟩ else s

/-- A policed message: `f` places it unless its policer drops it (R391). -/
def State.policed (s : State) (w vc n : Nat) (f : State → State) : State :=
  match s.police w vc n with
  | (s, true) => f s
  | (s, false) => s

/-- The identifier a message must carry at a wellhead: a package record its PKG_ID, any other the peer's (R16, MSG_ID). -/
def State.idMatches (s : State) (w : Nat) (m : Bytes) : Bool :=
  let h := leNat (m.take 16)
  if bits h 7 0 = 2 then bits h 35 16 == (s.lane w).peerPkg else bits h 35 16 == s.fld Fd.SLK_STATE_PEER_ID w

/-- A whole message of VC0 or VC2 at a wellhead goes to its destination. -/
def State.trayMessage (s : State) (w vc : Nat) (m : Bytes) : State :=
  let t := rdLE m 0 1
  if vc = 0 then (if t = 0x40 then s.stepMarkTaken w m else if typeKnown t then s else s.recordTaken w m)
  else if t = 0x20 then s.policed w 2 m.length fun s => s.frameIn w m
  else if t = 0x21 then s.policed w 2 m.length fun s => s.routeIn 2 m
  else if 0x30 ≤ t ∧ t ≤ 0x3F then
    s.policed w 2 m.length fun s => (if t = 0x30 then s.countVerdict m else s).routeIn 1 m
  else s.recordTaken w m

/-- A whole message of VC3 at a wellhead: capture bulk waits for its ingest and holds the buffers of its flits till then
(R392); anything else is dropped and they are freed, an unassigned TYPE counting as BAD_TYPE (R339). -/
def State.captureMessage (s : State) (w : Nat) (m : Bytes) : State :=
  let n := (s.lane w).rxCount
  have s := s.modLane w fun l => { l with rxCount := 0 }
  let free := fun (s : State) => s.freeVc3 w n
  if 0x50 ≤ rdLE m 0 1 ∧ rdLE m 0 1 ≤ 0x5F ∧ s.live .cis then
    match s.police w 3 m.length with
    | (s, true) => (s.modLane w fun l => { l with rxHeld := l.rxHeld ++ [n] }).ingest ⟨2, w, m⟩
    | (s, false) => free s
  else if typeKnown (rdLE m 0 1) then free s
  else (free s).recordTaken w m

/-- A whole message is delivered (R316): at a tray its identifier is checked first (MSG_ID). A leaf takes FLEET_STRAGGLER. -/
def State.deliver (s : State) (w vc seq : Nat) (m : Bytes) : State :=
  if !s.isTray then (if vc = 0 ∧ rdLE m 0 1 = 0x41 then s.fleetLeaf m else s)
  else if !s.idMatches w m then
    have s := s.slkViol w 11 1 vc seq
    if vc = 3 then (s.freeVc3 w (s.lane w).rxCount).modLane w fun l => { l with rxCount := 0 } else s
  else if vc = 3 then s.captureMessage w m
  else s.trayMessage w vc m

/-! ### Putting messages together (R316, MSG_FRAMING) -/

/-- The open message of a VC is discarded, but for the last `keep` flits of VC3 received. -/
def State.dropMsg (s : State) (w vc keep : Nat) : State :=
  have s := s.modLane w fun l => { l with rxMsg := l.rxMsg.erase vc }
  if s.isTray ∧ vc = 3 then
    (s.freeVc3 w ((s.lane w).rxCount - keep)).modLane w fun l => { l with rxCount := min keep l.rxCount }
  else s

/-- A DATA flit joins the open message of its VC; at its EOM the message is delivered. -/
def State.dataIn (s : State) (w : Nat) (f : Flit) : State :=
  let bad := fun (s : State) => s.slkViol w 10 1 f.vc f.seq
  let part := (s.lane w).rxMsg.get? f.vc
  if part.isNone ∧ f.som = false then (bad s).dropMsg w f.vc 0
  else
    have s := if part.isSome ∧ f.som then (bad s).dropMsg w f.vc 1 else s
    let m := if f.som then f.payload else part.getD [] ++ f.payload
    if 16384 < m.length ∨ (f.eom ∧ m.length < 16) then (bad s).dropMsg w f.vc 0
    else if f.eom then (s.modLane w fun l => { l with rxMsg := l.rxMsg.erase f.vc }).deliver w f.vc f.seq m
    else s.modLane w fun l => { l with rxMsg := l.rxMsg.set f.vc m }

/-! ### Link messages and time flits (R323 to R325) -/

/-- The content of a LINK_MSG. A tray acts on APP only. -/
def State.linkIn (s : State) (w : Nat) (f : Flit) : State :=
  let c := rdLE f.payload 0 1
  let b := rdLE f.payload 1 1
  let n := rdLE f.payload 6 1
  if c = 0 ∨ 4 < c ∨ (c = 2 ∧ 7 < b) ∨ (c = 3 ∧ (n = 0 ∨ 64 < n)) then s.slkViol w 14 0x22 f.vc f.seq
  else
    let act := fun (s : State) =>
      if c = 4 then s.appTaken w (f.payload.drop 8)
      else if c = 1 then keyRequestMsg (bit b 7) (bits b 5 0) s
      else if c = 2 then slowDownMsg b s
      else resendMsg (rdLE f.payload 1 5) n s
    if s.isTray then s.policed w 1 f.payload.length act else act s

/-- The content of a time flit; `again` tells that it is a replay. A t1 or t4 that is no time is TIME_BAD and spoils its exchange
(R324). -/
def State.timeIn (s : State) (w : Nat) (f : Flit) (sub : Nat) (again : Bool) : State :=
  let p := f.payload
  let t := rdLE p 0 12
  let bad := decide (1000000000 ≤ bits t 47 16)
  if f.ftype = 0x11 then
    have s := if again then s.modLane w fun l => { l with noise := true } else s
    s.dreqTaken w (rdLE p 0 2) sub
  else if bad then
    have s := s.slkViol w 15 f.ftype f.vc f.seq
    let n := if f.ftype = 0x10 then 1 + b2n s.tkp.exch.isSome else b2n s.tkp.exch.isSome
    if s.enabled .tkp then { s.bump Fd.TKP_CNT_MISSED 0 n with tkp := { s.tkp with exch := none } } else s
  else if f.ftype = 0x10 then
    s.syncTaken { exId := rdLE p 20 2, t1 := ofTime96 t, state := rdLE p 12 1, syncUs := rdLE p 14 2
                  asym := sext (rdLE p 16 4) 32, replayed := again } sub
  else if s.enabled .tkp then s.drespTaken (rdLE p 12 2) (ofTime96 t) again else s

/-! ### The ALT ring (R331, R332) -/

/-- A flit of an ALT ring: its CRC, its place in the ring's sequence, then its message. HPA carries DATA of VC0 and VC2 only. -/
def State.altFlit (s : State) (w : Nat) (b : Bytes) : State :=
  let (f, len) := flitOf b
  if !flitCrcOk b then s.slkViol w 1 f.ftype f.vc f.seq
  else
    let gap := (s.lane w).altSeq.any fun e => e != f.seq
    have s := if gap then (s.bump Fd.SLK_MSG_CNT_ALT_GAP w).modLane w fun l => { l with altMsg := [] } else s
    have s := s.modLane w fun l => { l with altSeq := some ((f.seq + 1) % 4096) }
    let bad := fun (s : State) (c : Nat) => s.slkViol w c f.ftype f.vc f.seq
    let drop := fun (s : State) => s.modLane w fun l => { l with altMsg := l.altMsg.erase f.vc }
    if !flitKnown f.ftype ∨ f.resv ≠ 0 ∨ !flitLenOk f.ftype len then bad s 5
    else if f.ftype ≠ 1 ∨ (f.vc ≠ 0 ∧ f.vc ≠ 2) then bad s 6
    else
      let part := (s.lane w).altMsg.get? f.vc
      if part.isNone ∧ f.som = false then (if gap then s else bad s 10)
      else
        have s := if part.isSome ∧ f.som then bad s 10 else s
        let m := if f.som then f.payload else part.getD [] ++ f.payload
        if 16384 < m.length ∨ (f.eom ∧ m.length < 16) then drop (bad s 10)
        else if f.eom then (drop s).deliver w f.vc f.seq m
        else s.modLane w fun l => { l with altMsg := l.altMsg.set f.vc m }

/-- ALT_RING_POLL: `prod` is PROD as read, `flits` the slots from the consumer's place on; CONS moves on past them.
A HELD wellhead takes no records (R17). -/
def altRingPoll (w prod : Nat) (flits : List Bytes) (s : State) : State :=
  if s.isTray ∧ w < s.wellheads ∧ s.enabled .slk w ∧ s.fld Fd.SLK_ALT_CFG_ENABLE w = 1 ∧ s.lstate w ≠ 7 then
    let n := min ((prod + 2 ^ 32 - (s.lane w).altCons) % 2 ^ 32) (min flits.length (2 ^ (s.fld Fd.SLK_ALT_CFG_LOG2_FLITS w + 8)))
    have s := (flits.take n).foldl (fun s b => s.altFlit w b) s
    let c := ((s.lane w).altCons + n) % 2 ^ 32
    have s := s.modLane w fun l => { l with altCons := c }
    if n = 0 then s
    else s.emit (.ringWrite (s.fld Fd.SLK_ALT_CFG_XLT_CTX w) (s.fld Fd.SLK_ALT_PTRS_PTRS_VA w * 8 + 8) (leBytes 8 c))
  else s

def execAltRingPoll (w prod : Nat) (flits : List (List Byte)) (s : State) : Host.Outcome State Fault Refusal :=
  done (altRingPoll w prod flits s)

end Sys2Proof.Machine
end

