-- ==== Sys2Proof/Machine/Ups.lean ====
section
/-! DEFINITION. The upstream ports' sending side (15.4 to 15.6) and the UPS window: strict queues and deficit round robin, time
gates, software frames, links and MAC quarantines. -/

namespace Sys2Proof.Machine

/-! ### Gates (R403, R404) -/

/-- A gate entry in force. -/
def UpsBank.gate (b : UpsBank) (p e : Nat) : Nat := (b.gates.getD (16 * p + e) 0).toNat
def UpsBank.gateValid (b : UpsBank) (p e : Nat) : Bool := decide (e < 16) && bit (b.gate p e) 63
def UpsBank.gateDur (b : UpsBank) (p e : Nat) : Nat := bits (b.gate p e) 26 0

/-- The time an entry lasts in ps, none for the last valid one. -/
def UpsBank.gateSpan (b : UpsBank) (p e : Nat) : Option Nat :=
  if b.gateValid p (e + 1) then some (b.gateDur p e * 10000) else none

/-- A queue's gate stays open for `need` ps: `idx` is the entry in force, `left` the ps it still has, `bound` those to the next
boundary. -/
def gateStays (b : UpsBank) (p q len : Nat) : Nat → Nat → Option Nat → Nat → Nat → Bool
  | 0, idx, _, _, _ => bit (b.gate p idx) (31 + q)
  | n + 1, idx, left, bound, need =>
    let e := min (left.getD bound) bound
    bit (b.gate p idx) (31 + q) &&
      (decide (need ≤ e) ||
        if e = bound then gateStays b p q len n 0 (b.gateSpan p 0) len (need - e)
        else gateStays b p q len n (idx + 1) (b.gateSpan p (idx + 1)) (bound - e) (need - e))

/-- A queue of a port may start something that takes `need` ps. Queue 0 ignores gates. -/
def State.gateOpen (s : State) (p q sub need : Nat) : Bool :=
  let b := s.ups.active
  if q = 0 ∨ !b.gateValid p 0 ∨ !bit (b.gate p 0) 31 then true
  else
    let ps := sub * 1000 / 65536
    let u := s.up p
    let bound := if s.timeValid then s.edgesTo (s.boundary (s.epochNow + 1)) * 10000 - ps else 2 ^ 64
    gateStays b p q (s.epochLen / 65536 * 1000) 17 u.gateIdx (u.gateEnd.map fun e => (e - s.aon) * 10000 - ps) bound need

/-- The ps a frame takes on the port with its FCS, preamble and gap. -/
def framePs (n : Nat) : Nat := 5 * (n + 24)

/-- Entry 0 starts, at an epoch boundary edge. -/
def State.gatesStart (s : State) : State :=
  [0, 1].foldl (fun s p =>
    s.setUp p { s.up p with gateIdx := 0, gateEnd := (s.ups.active.gateSpan p 0).map fun d => s.aon + d / 10000 }) s

/-- GATE_ADVANCE: the entry in force ends. -/
def gateAdvance (p : Nat) (s : State) : State :=
  let u := s.up p
  match u.gateEnd with
  | some e =>
    have s := s.reach e
    let i := u.gateIdx + 1
    s.setUp p { s.up p with gateIdx := i, gateEnd := (s.ups.active.gateSpan p i).map fun d => e + d / 10000 }
  | none => s

def execGateAdvance (p : Nat) (s : State) : Host.Outcome State Fault Refusal := done (gateAdvance p s)

/-! ### Sending (R398, R399) -/

/-- PTP at the pins (R91, R94): t3 of the delay request in progress; the correction of a Pdelay_Resp, the request's and its turnaround. -/
def State.ptpPins (s : State) (p t : Nat) (it : UpItem) : State × Bytes :=
  match it.ptp with
  | none => (s, it.frame)
  | some (.request n) =>
    let x := s.ptpPort p
    (if x.reqSeq = n then s.setPtp p { x with t3 := some t } else s, it.frame)
  | some (.response t2 c) => (s, it.frame.take 22 ++ beBytes 8 (wrapI (c + ((t : Int) - t2)) 64) ++ it.frame.drop 30)

/-- A frame leaves a port. -/
def State.upSend (s : State) (p sub : Nat) (it : UpItem) : State :=
  let t := s.txTime (128 + p) sub
  let n := it.frame.length + 4
  let (s, b) := s.ptpPins p t it
  have s := (((s.emit (.frame p b)).bytes (320 + 2 * p) n).portTx (128 + p) n).ev .ups 0 1
  match it.mark with
  | some i => s.txtsPut (128 + p) i t
  | none => s

/-- A frame of `n` bytes of a queue may start: its gate stays open, and it has left before a timed item needs the port (R404, R106). -/
def State.frameMayGo (s : State) (p q sub n : Nat) : Bool :=
  s.gateOpen p q sub (framePs n) && s.clearOf (128 + p) (s.now + sub) (frameTime n)

/-- The strict queue that is served: the first of 0 to 3 whose head may start. -/
def State.strictPick (s : State) (p sub : Nat) : Option Nat :=
  [0, 1, 2, 3].find? fun q =>
    match (s.up p).queues.getD q [] with
    | it :: _ => (!s.flt.faulted || q == 3) && s.frameMayGo p q sub it.frame.length
    | [] => false

/-- The deficit round robin from the head of the list on: the packet sent, with its queue, the port after it and the rounds
completed, or none when no queue may send. `now` is the edge, `ok q none` whether the gate of `q` is open, and with a length whether a
frame of that length may start. -/
def drrServe (cfg : Nat → QCfg) (ok : Nat → Option Nat → Bool) (now : Nat) : Nat → UpPort → Nat → Option (Nat × UpItem × UpPort × Nat)
  | 0, _, _ => none
  | n + 1, u, k =>
    match u.drr with
    | [] => none
    | q :: rest =>
      let pass := fun (u : UpPort) =>
        let (u, j) := ({ u with drr := rest ++ [q], visited := false }).turn
        drrServe cfg ok now n u (k + j)
      match u.queues.getD q [] with
      | [] => drrServe cfg ok now n (u.leave q (cfg q).burst) k
      | it :: l =>
        if !u.visited && !ok q none then pass u
        else
          let d := u.defs.getD q 0 + (if u.visited then 0 else (cfg q).quantum)
          let u := { u with defs := u.defs.set q d, visited := true }
          if 0 < d ∧ ok q (some it.frame.length) then
            let u := { u with queues := u.queues.set q l, defs := u.defs.set q (d - 1)
                              emptied := if l.isEmpty then some (q, now) else u.emptied }
            if d = 1 ∧ !l.isEmpty then
              let (u, j) := ({ u with drr := rest ++ [q], visited := false }).turn
              some (q, it, u, k + j)
            else some (q, it, u, k)
          else pass u

/-- Whether a DRR queue's gate is open, or a frame of its length may start. -/
def State.drrOk (s : State) (p sub q : Nat) : Option Nat → Bool
  | none => s.gateOpen p q sub 0
  | some n => s.frameMayGo p q sub n

/-- UP_TX: the port serves its next eligible queue. While FAULTED only queue 3 is served (R483). -/
def upTx (p sub : Nat) (s : State) : State :=
  if !s.isTray ∨ 2 ≤ p ∨ s.fld Fd.UP_STAT_LINK p = 0 ∨ !s.enabled .up p ∨ !s.enabled .ups then s
  else
    let u := s.up p
    match s.strictPick p sub with
    | some q =>
      match u.queues.getD q [] with
      | it :: r => (s.setUp p { u with queues := u.queues.set q r }).upSend p sub it
      | [] => s
    | none =>
      if s.flt.faulted then s
      else match drrServe (fun q => s.qcfg (32 * p + q)) (s.drrOk p sub) s.aon (2 * u.drr.length + 2) u 0 with
      | some (q, it, u, k) =>
        have s := ((s.setUp p u).ev .ups 0 2 k).upSend p sub it
        s.unspill p q (s.cis.spill.getD (32 * p + q) [])
      | none => s

def execUpTx (p sub : Nat) (s : State) : Host.Outcome State Fault Refusal := done (upTx p sub s)

/-- A timed frame of a port leaves at its launch time (R106): it goes first of queue 0 where the port cannot send. -/
def State.launchUp (s : State) (p sub : Nat) (it : TimedItem) : State :=
  if s.upLink p then s.upSend p sub ⟨it.item, it.mark, none⟩
  else
    let u := s.up p
    s.setUp p { u with queues := u.queues.set 0 (⟨it.item, it.mark, none⟩ :: u.queues.getD 0 []) }

/-! ### Links (R398, R401) -/

/-- A frame under the address of another port. -/
def State.remac (s : State) (p : Nat) (f : Bytes) : Bytes := f.take 6 ++ beBytes 6 (s.fld Fd.UP_CFG_MAC p) ++ f.drop 12

/-- The frames of queues 1 to 3 of a port move to the other where its MTU admits them. -/
def State.moveFixed (s : State) (p o : Nat) : State :=
  [1, 2, 3].foldl (fun s q =>
    let l := (s.up p).queues.getD q []
    let fits := fun (i : UpItem) => decide (payloadLen i.frame ≤ s.fld Fd.UP_CFG_MTU o)
    have s := s.setUp p { s.up p with queues := (s.up p).queues.set q (l.filter fun i => !fits i) }
    (l.filter fits).foldl (fun s i => s.putFixed o q { i with frame := s.remac o i.frame }) s) s

/-- UP_LINK_DOWN. -/
def upLinkDown (p : Nat) (s : State) : State :=
  if s.isTray ∧ p < 2 ∧ s.fld Fd.UP_STAT_LINK p = 1 then
    have s := (s.setFld Fd.UP_STAT_LINK p 0).pendBit 10 3
    if s.upLink (1 - p) then s.moveFixed p (1 - p) else s
  else s

def execUpLinkDown (p : Nat) (s : State) : Host.Outcome State Fault Refusal := done (upLinkDown p s)

/-- UP_LINK_UP. The port measures its latencies (R91), which are free values: no operand of the row carries them. -/
def upLinkUp (p : Nat) (s : State) : State :=
  if s.isTray ∧ p < 2 ∧ s.fld Fd.UP_STAT_LINK p = 0 then
    let (w, s) := s.draw
    have s := ((s.setLat (128 + p) (bits w.toNat 31 0) (bits w.toNat 63 32)).setFld Fd.UP_STAT_LINK p 1).pendBit 10 3
    if s.upLink p ∧ !s.upLink (1 - p) then s.moveFixed (1 - p) p else s
  else s

def execUpLinkUp (p : Nat) (s : State) : Host.Outcome State Fault Refusal := done (upLinkUp p s)

/-! ### MAC quarantines (R412) -/

/-- The quarantines of a port, with the count that `UP_STAT` shows. -/
def State.setQuars (s : State) (p : Nat) (l : List (BitVec 48 × Nat)) : State :=
  (s.setUp p { s.up p with quars := l }).setFld ⟨Rg.UP_STAT, 11, 8⟩ p l.length

/-- A write of `UP_CTRL`. -/
def upCtrlWrite (p : Nat) (d : Word) (s : State) : State :=
  have s := if d.getLsbD 0 then s.setQuars p [] else s
  if d.getLsbD 1 then s.setUp p { s.up p with quarFull := 0 } else s

def execUpClearQuar (q : Req) (p : Nat) (d : Word) (s : State) : Host.Outcome State Fault Refusal :=
  done (s.rowWrite q .up p 0x78 d fun s => (upCtrlWrite p d s).okay)

def execUpQuarFullClear (q : Req) (p : Nat) (d : Word) (s : State) : Host.Outcome State Fault Refusal :=
  done (s.rowWrite q .up p 0x78 d fun s => (upCtrlWrite p d s).okay)

/-- UP_QUAR_EXPIRE: the quarantine of a source MAC ends. -/
def upQuarExpire (p : Nat) (mac : BitVec 48) (s : State) : State :=
  let k := s.fld Fd.UP_QUAR_CFG_QUAR_S p
  match (s.up p).quars.find? fun (e : BitVec 48 × Nat) => e.1 == mac with
  | some (_, e) =>
    if k = 0 then s
    else
      have s := s.reach (e + k * 1000 * cyMs)
      s.setQuars p ((s.up p).quars.filter fun (x : BitVec 48 × Nat) => x.1 != mac)
  | none => s

def execUpQuarExpire (p : Nat) (mac : BitVec 48) (s : State) : Host.Outcome State Fault Refusal := done (upQuarExpire p mac s)

/-! ### Software frames (R405, R406) -/

/-- Bytes of the shared window, and whether a range lies in it (R258). -/
def State.sharedBase (s : State) : Nat := s.fld Fd.COR_SHARED_BASE * 65536
def State.inShared (s : State) (off n : Nat) : Bool := decide (off + n ≤ s.fld Fd.COR_SHARED_SIZE * 65536)

/-- WRITE of table 3: a frame is submitted. -/
def swFrameSend (s : State) : WinOut :=
  let d := (s.data .ups 0 1).toNat
  let e := (s.data .ups 0 2).toNat
  let len := bits e 47 32
  let buf := bits e 23 0
  let p := bits d 51 51
  let t := ofTime96 ((s.data .ups 0 0).toNat + bits d 31 0 * 2 ^ 64)
  let mark := if bit d 48 then some (BitVec.ofNat 16 (bits d 47 32)) else none
  if len < 14 ∨ s.fld Fd.UP_CFG_MTU p + 14 < len ∨ !s.inShared buf len then s.win 6
  else
    let f := Mem.read s.sram (s.sharedBase + buf) len
    have s := s.bytes 0 len
    let first := fun (s : State) =>
      if fixedSpace 0 < queueBytes ((s.up p).queues.getD 0 []) + len then s.win 4 else (s.putFixed p 0 ⟨f, mark, none⟩).win 0
    if bit d 49 then
      match s.submitTimed (128 + p) { launch := t, vc := 0, item := f, mark } (bit d 50) with
      | (s, .tooFar) => s.win 9
      | (s, .full) => s.win 4
      | (s, .timed) => s.win 0
      | (s, .dropped) => s.win 0
      | (s, .now) => first s
    else if bit d 48 then first s
    else (s.putDrr p 6 f).win 0

def execSwFrameSend (q : Req) (s : State) : Host.Outcome State Fault Refusal := done (s.winCmd q .ups 0 3 2 0 swFrameSend)

/-- A received frame goes into the software ring where there is room (R406): after the last one, or from the ring's start when
the end is too near. Whether it fitted. -/
def State.swReceive (s : State) (p : Nat) (f : Bytes) : State × Bool :=
  let base := s.fld ⟨Rg.UPS_SWRX, 23, 0⟩
  let size := s.fld ⟨Rg.UPS_SWRX, 47, 24⟩ * 256
  let n := f.length
  let off := if s.ups.swHead + n ≤ size then s.ups.swHead else 0
  if size < n ∨ !s.inShared (base + off) n ∨
      (s.ups.swRx.any fun (r : Nat × Nat × Nat × Nat) => meets r.2.2.1 r.2.1 (base + off) n) then (s, false)
  else
    have s := { s.bytes 1 n with
      sram := Mem.write s.sram (s.sharedBase + base + off) f
      ups := { s.ups with swRx := s.ups.swRx ++ [(p, n, base + off, s.now)], swHead := off + n } }
    (s.level 12, true)

/-- POP of table 4: the oldest frame received. -/
def swFramePop (s : State) : WinOut :=
  match s.ups.swRx with
  | [] => s.win 1
  | (p, n, buf, t) :: r =>
    { s with ups := { s.ups with swRx := r } }.winData
      [BitVec.ofNat 64 (p * 2 ^ 48 + n * 2 ^ 32 + buf), BitVec.ofNat 64 (time96 t), BitVec.ofNat 64 (time96 t / 2 ^ 64)]

def execSwFramePop (q : Req) (s : State) : Host.Outcome State Fault Refusal := done (s.winCmd q .ups 0 4 3 0 swFramePop)

/-! ### The banked tables (Table 15-7, R413) -/

def State.setUpsStaged (s : State) (b : UpsBank) : State := { s with ups := { s.ups with staged := b } }

/-- A queue number the queue table has. -/
def upsQueueIdx (k : Nat) : Bool := decide (k < 64 ∧ 4 ≤ k % 32)

/-- READ of a staged queue entry. -/
def upsQueueRead (k : Nat) (s : State) : WinOut :=
  if upsQueueIdx k then
    let c := s.ups.staged.queues.getD k ⟨1, 0, 1, false⟩
    s.winData [BitVec.ofNat 64 (c.quantum * 2 ^ 40 + c.burst * 2 ^ 32 + c.limit * 2 ^ 16 + b2n c.spill)]
  else s.win 2

def execUpsQueueRead (q : Req) (idx : Nat) (s : State) : Host.Outcome State Fault Refusal :=
  done (s.winCmd q .ups 0 0 1 idx (upsQueueRead idx))

/-- WRITE of a staged queue entry. -/
def upsQueueWrite (k : Nat) (s : State) : WinOut :=
  let d := (s.data .ups 0 0).toNat
  if !upsQueueIdx k then s.win 2
  else if s.ups.pending then s.win 5
  else if bits d 47 40 = 0 ∨ bits d 29 16 = 0 then s.win 6
  else
    let b := s.ups.staged
    (s.setUpsStaged { b with queues := b.queues.set k ⟨bits d 47 40, bits d 39 32, bits d 29 16, bit d 0⟩ }).win 0

def execUpsQueueWrite (q : Req) (idx : Nat) (s : State) : Host.Outcome State Fault Refusal :=
  done (s.winCmd q .ups 0 0 2 idx (upsQueueWrite idx))

/-- READ of a staged gate entry. -/
def upsGateRead (k : Nat) (s : State) : WinOut := if k < 32 then s.winData [s.ups.staged.gates.getD k 0] else s.win 2

def execUpsGateRead (q : Req) (idx : Nat) (s : State) : Host.Outcome State Fault Refusal :=
  done (s.winCmd q .ups 0 1 1 idx (upsGateRead idx))

/-- WRITE of a staged gate entry; GATES_EN is reserved but in entry 0. -/
def upsGateWrite (k : Nat) (s : State) : WinOut :=
  let m : Nat := if k % 16 = 0 then 0xFFFFFFFF87FFFFFF else 0xFFFFFFFF07FFFFFF
  if 32 ≤ k then s.win 2
  else if s.ups.pending then s.win 5
  else
    let b := s.ups.staged
    (s.setUpsStaged { b with gates := b.gates.set k (s.data .ups 0 0 &&& BitVec.ofNat 64 m) }).win 0

def execUpsGateWrite (q : Req) (idx : Nat) (s : State) : Host.Outcome State Fault Refusal :=
  done (s.winCmd q .ups 0 1 2 idx (upsGateWrite idx))

/-- READ of a staged route entry. -/
def upsRouteRead (k : Nat) (s : State) : WinOut :=
  if k < 8 then
    let r := s.ups.staged.routes.getD k ⟨false, false, 0, 0, 0⟩
    s.winData [BitVec.ofNat 64 (b2n r.up * 2 ^ 63 + b2n r.cistern * 2 ^ 62 + r.port * 2 ^ 60 + r.queue * 2 ^ 48 + r.dest.toNat)]
  else s.win 2

def execUpsRouteRead (q : Req) (idx : Nat) (s : State) : Host.Outcome State Fault Refusal :=
  done (s.winCmd q .ups 0 2 1 idx (upsRouteRead idx))

/-- WRITE of a staged route entry: QUEUE is 7 to 31 (Table 15-7). -/
def upsRouteWrite (k : Nat) (s : State) : WinOut :=
  let d := (s.data .ups 0 0).toNat
  if 8 ≤ k then s.win 2
  else if s.ups.pending then s.win 5
  else if bits d 52 48 < 7 then s.win 6
  else
    let b := s.ups.staged
    let r : Route := ⟨bit d 63, bit d 62, bits d 60 60, bits d 52 48, BitVec.ofNat 48 (bits d 47 0)⟩
    (s.setUpsStaged { b with routes := b.routes.set k r }).win 0

def execUpsRouteWrite (q : Req) (idx : Nat) (s : State) : Host.Outcome State Fault Refusal :=
  done (s.winCmd q .ups 0 2 2 idx (upsRouteWrite idx))

/-- The staged tables take effect (R127, R403, R413). -/
def State.upsApply (s : State) : State := { s with ups := { s.ups with active := s.ups.staged, pending := false } }.unspillAll

/-- `PG_CTRL.UNIT_RESET` of UPS: every queue but 1 and 2 is emptied, the sump stays and goes on draining. -/
def upsReset (s : State) : State :=
  let clear := fun (u : UpPort) => { u with
    queues := u.queues.drop fun q => decide (q ≠ 1 ∧ q ≠ 2), defs := [], drr := [], visited := false, roundLeft := 0
    emptied := none }
  { s with ups := { s.ups with ports := s.ups.ports.mapV (fun _ u => clear u), swRx := [], swHead := 0, pending := false } }.unspillAll

/-- `PG_CTRL.UNIT_RESET` of an UP port, after its registers have been reset: the link stays as it is; quarantines, strikes, timed
items and timestamps go (R104). -/
def upReset (p link : Nat) (s : State) : State :=
  have s := (s.setFld Fd.UP_STAT_LINK p link).setUp p { s.up p with quars := [], strikes := [], quarFull := 0 }
  { s with tkp := { s.tkp with txts := s.tkp.txts.erase (128 + p), timed := s.tkp.timed.erase (128 + p), busyTo := s.tkp.busyTo.erase (128 + p)
                               txtsOvf := s.tkp.txtsOvf.filter (· != 128 + p) } }

end Sys2Proof.Machine
end

