-- ==== Sys2Proof/Machine/Col.lean ====
section
/-! DEFINITION. COL, the collectives of XEM-T1 (chapter 14): groups, frames, the signature exchange, steps, retransmission,
timeouts and ends (R365 to R389). Offsets and lengths of an entry are in 256-byte units. -/

namespace Sys2Proof.Machine

/-! ### Groups and runs -/

def State.colGrp? (s : State) (g : Nat) : Option ColGrp := (s.col.groups.get? g).filter (·.valid)

def State.setColGrp (s : State) (g : Nat) (e : ColGrp) : State := { s with col := { s.col with groups := s.col.groups.set g e } }

def State.setColRun (s : State) (g : Nat) (r : ColRun) : State := { s with col := { s.col with runs := s.col.runs.set g r } }

/-- The run of a group that is in progress. -/
def State.colRun? (s : State) (g : Nat) : Option ColRun := (s.col.runs.get? g).filter fun r => !r.ended

/-- `COL_STAT.RUNNING`. -/
def State.colRunning (s : State) : Nat := ((List.range 16).map fun g => b2n (s.colRun? g).isSome * 2 ^ g).sum

/-- The MAC address and the TRAY_ID of a rank (R365, Table 14-10). -/
def State.colMember (s : State) (e : ColGrp) (r : Nat) : Nat := (s.col.members.getD (e.first + r) 0).toNat
def State.colMac (s : State) (e : ColGrp) (r : Nat) : Nat := bits (s.colMember e r) 47 0

/-- MEMBERS_CRC (R374). -/
def State.colMembersCrc (s : State) (e : ColGrp) : Nat :=
  crc32c ((List.range e.n).flatMap fun r =>
    leBytes 8 (bits (s.colMember e r) 58 48 * 2 ^ 48 + s.colMac e r))

/-- The ranks of a group but its own. -/
def ColGrp.others (e : ColGrp) : List Nat := (List.range e.n).filter (· != e.myRank)

/-! ### Frames (Table 14-2) -/

/-- What a COL payload says. -/
structure ColFrame where
  kind  : Nat
  step  : Nat
  src   : Nat
  frag  : Nat
  frags : Nat
  dcrc  : Nat
  sig   : Bytes
  count : Nat
  data  : Bytes

/-- The payload of a frame of a group to rank `dst`. -/
def colPayload (e : ColGrp) (seq dst : Nat) (f : ColFrame) : Bytes :=
  leBytes 1 1 ++ leBytes 1 f.kind ++ leBytes 2 f.step ++ leBytes 3 e.job ++ leBytes 1 e.gen ++ leBytes 2 e.tag ++
    leBytes 2 f.src ++ leBytes 2 dst ++ leBytes 2 e.n ++ leBytes 4 seq ++ leBytes 2 f.frag ++ leBytes 2 f.frags ++
    leBytes 4 f.data.length ++ leBytes 4 f.dcrc ++ f.sig ++ leBytes 4 f.count ++ leBytes 8 0 ++ f.data

def zeros (n : Nat) : Bytes := List.replicate n 0

/-- A SIG, an ACK of a step, an ABORT, a fragment. STEP of an ABORT is 0. -/
def colSig (e : ColGrp) (seq dst : Nat) (sig : Bytes) (count : Nat) : Bytes :=
  colPayload e seq dst { kind := 0, step := 0, src := e.myRank, frag := 0, frags := 0, dcrc := 0, sig, count, data := [] }
def colAck (e : ColGrp) (seq dst step : Nat) : Bytes :=
  colPayload e seq dst { kind := 2, step, src := e.myRank, frag := 0, frags := 0, dcrc := 0, sig := zeros 20, count := 0, data := [] }
def colAbort (e : ColGrp) (seq dst status named : Nat) : Bytes :=
  colPayload e seq dst { kind := 3, step := 0, src := e.myRank, frag := 0, frags := 0, dcrc := 0
                         sig := leBytes 1 status ++ zeros 1 ++ leBytes 2 named ++ zeros 16, count := 0, data := [] }

/-- The data of a step to one destination in fragments of 4,096 bytes (14.3). -/
def colFrags (e : ColGrp) (seq dst step : Nat) (data : Bytes) : List Bytes :=
  let n := max 1 (ceilDiv data.length 4096)
  (List.range n).map fun k =>
    let d := (data.drop (4096 * k)).take 4096
    colPayload e seq dst { kind := 1, step, src := e.myRank, frag := k, frags := n, dcrc := crc32c d, sig := zeros 20
                           count := 0, data := d }

/-- A frame leaves over the enabled upstream ports alternately, in queue 5 (R372, Table 15-3). -/
def State.colSend (s : State) (etype mac : Nat) (payload : Bytes) : State :=
  let ports := [s.col.port, 1 - s.col.port].filter fun p => s.enabled .up p
  match ports with
  | [] => s
  | p :: _ => { s with col := { s.col with port := 1 - p } }.putDrr p 5 (ethFrame mac (s.fld Fd.UP_CFG_MAC p) etype payload)

def State.colSendAll (s : State) (etype mac : Nat) (ps : List Bytes) : State := ps.foldl (fun s m => s.colSend etype mac m) s

/-! ### Buffers and steps (Tables 14-1, 14-4) -/

def up16 (n : Nat) : Nat := (n + 15) / 16 * 16
def up256 (n : Nat) : Nat := (n + 255) / 256 * 256

/-- First bytes of the send and the receive range in HBM. -/
def ColRun.sendAt (r : ColRun) (e : ColGrp) : Nat := r.base + 256 * e.sendOff
def ColRun.recvAt (r : ColRun) (e : ColGrp) : Nat := r.base + 256 * e.recvOff

/-- Where block `k` begins in a range of ALLTOALLV whose counts are `c`. -/
def blockAt (c : List Nat) (n k : Nat) : Nat := up256 (4 * n) + ((c.take k).map up16).sum

/-- The byte counts received, by rank, once every signature is held. -/
def ColRun.inCounts (r : ColRun) (e : ColGrp) : List Nat :=
  (List.range e.n).map fun k => if k = e.myRank then r.counts.getD k 0 else (r.sigs.getD k ([], 0)).2

/-- Where the block from rank `k` goes, and its length. -/
def ColRun.recvBlock (r : ColRun) (e : ColGrp) (k : Nat) : Nat × Nat :=
  if e.op = 1 then (r.recvAt e + k * e.block, e.block)
  else (r.recvAt e + blockAt (r.inCounts e) e.n k, (r.inCounts e).getD k 0)

/-- Chunk boundaries (R378): chunk `c` of `fields` slots over `n` ranks begins here. -/
def colBound (opmap : List Nat) (fields n c : Nat) : Nat :=
  let x := c * fields / n
  let o := opmap.getD (x - 1) 0 % 64
  if 0 < x ∧ x < fields ∧ (o = 5 ∨ o = 6) then x + 1 else x

/-- First slot and number of slots of a chunk. -/
def ColRun.chunk (r : ColRun) (e : ColGrp) (c : Nat) : Nat × Nat :=
  let b := colBound r.opmap r.fields e.n
  (b c, b (c + 1) - b c)

/-- The chunk sent, the chunk received and whether it is merged, in step `t` of an ALLREDUCE ring (R378). -/
def ringAllreduce (r n t : Nat) : Nat × Nat × Bool :=
  if t < n then ((r + n - t + 1) % n, (r + n - t) % n, true)
  else
    let k := t - n + 1
    ((r + n - k + 2) % n, (r + n - k + 1) % n, false)

/-- Steps after step 0, and the ranks a step sends to and receives from (R377). -/
def ColGrp.steps (e : ColGrp) : Nat :=
  if e.op = 3 then (if e.ring then 2 * e.n - 2 else 2) else if e.ring then e.n - 1 else 1
def ColGrp.dests (e : ColGrp) (t : Nat) : List Nat :=
  if !e.ring || t == 0 then e.others else if e.op = 3 then [(e.myRank + 1) % e.n] else [(e.myRank + t) % e.n]
def ColGrp.sources (e : ColGrp) (t : Nat) : List Nat :=
  if !e.ring || t == 0 then e.others else if e.op = 3 then [(e.myRank + e.n - 1) % e.n] else [(e.myRank + e.n - t) % e.n]

def slotBytes (l : List (BitVec 128)) : Bytes := l.flatMap fun w => leBytes 16 w.toNat
def slotsOf (n : Nat) (m : Bytes) : List (BitVec 128) := (List.range n).map fun k => BitVec.ofNat 128 (rdLE m (16 * k) 16)

/-- What step `t` sends to rank `d`. -/
def State.colData (s : State) (e : ColGrp) (r : ColRun) (t d : Nat) : Bytes :=
  if e.op = 1 then Mem.read s.hbm (r.sendAt e + d * e.block) e.block
  else if e.op = 2 then Mem.read s.hbm (r.sendAt e + blockAt r.counts e.n d) (r.counts.getD d 0)
  else
    let c := if e.ring then (ringAllreduce e.myRank e.n t).1 else if t = 1 then d else e.myRank
    let (o, k) := r.chunk e c
    slotBytes ((r.part.drop o).take k)

def colKey (step src : Nat) : Nat := step * 4096 + src

/-- What was received in a step from a source. -/
def ColRun.from (r : ColRun) (t src : Nat) : Bytes := (r.got.getD (colKey t src) []).flatMap fun (x : Nat × Bytes) => x.2

/-- A received chunk is merged into the partial result, or stored in it. -/
def ColRun.takeChunk (r : ColRun) (e : ColGrp) (t src c : Nat) (merge : Bool) : ColRun :=
  let (o, k) := r.chunk e c
  let x := slotsOf k (r.from t src)
  let y := (r.part.drop o).take k
  let z := if merge then mergeAdd ((r.opmap.drop o).take k) y x else x
  { r with part := r.part.take o ++ z ++ r.part.drop (o + k) }

/-- The chunks of a complete ALLREDUCE step (R377, R379). -/
def ColRun.reduceStep (r : ColRun) (e : ColGrp) (t : Nat) : ColRun :=
  if e.ring then
    let (_, c, m) := ringAllreduce e.myRank e.n t
    (e.sources t).foldl (fun (r : ColRun) k => r.takeChunk e t k c m) r
  else (e.sources t).foldl (fun (r : ColRun) k => r.takeChunk e t k (if t = 1 then e.myRank else k) (t == 1)) r

/-- A fragment's data goes to its place in the receive range, within the block. -/
def State.colPlace (s : State) (e : ColGrp) (r : ColRun) (src frag : Nat) (d : Bytes) : State :=
  let (a, n) := r.recvBlock e src
  { s.bytes 3 (d.take (n - 4096 * frag)).length with hbm := Mem.write s.hbm (a + 4096 * frag) (d.take (n - 4096 * frag)) }

/-! ### Ends (14.7) -/

/-- Ties of the longest wait go to the lower rank. -/
def longest (m : SMap Nat) : Option (Nat × Nat) :=
  m.foldl (fun b (x : Nat × Nat) => match b with | some y => if y.2 < x.2 then some x else b | none => some x) none

def State.colSlow (s : State) (i : Nat) : ColSlow := s.col.slow.getD i ⟨0, 0, 0⟩
def State.setColSlow (s : State) (i : Nat) (c : ColSlow) : State := { s with col := { s.col with slow := s.col.slow.set i c } }

/-- The fault of an end (Table 14-5). -/
def State.colFault (s : State) (status : Nat) : State :=
  if status = 2 ∨ status = 4 then s.fault .col 0 1
  else if status = 3 then s.fault .col 0 2
  else if status = 5 then s.fault .col 0 3 else s

/-- The counter of an end. -/
def colEndFld (status : Nat) : Fld :=
  if status = 0 then Fd.COL_CNT_DONE else if status = 3 then Fd.COL_CNT_STALLED
  else if status = 2 then Fd.COL_CNT_MISMATCH else Fd.COL_CNT_OTHER

/-- The receive range at an end: the results of one that is `complete`, of any other undefined bytes (R383). -/
def State.colBytes (s : State) (e : ColGrp) (r : ColRun) (complete : Bool) : State :=
  if complete then if e.op = 3 then { s.bytes 3 (16 * r.part.length) with hbm := Mem.write s.hbm (r.recvAt e) (slotBytes r.part) } else s
  else
    let (b, s) := s.freeBytes (256 * e.recvLen)
    { s with hbm := Mem.write s.hbm (r.recvAt e) b }

/-- The longest waits in any step after step 0, of a destination without its ACK up to now (R385). -/
def ColRun.longWaits (r : ColRun) (now : Nat) : SMap Nat :=
  r.sends.foldl (fun (m : SMap Nat) x => if x.step = 0 then m else m.set x.dst (max (m.getD x.dst 0) (now - x.first))) r.waits

/-- A DONE adds to STEP_CNT of the rank waited for longest. -/
def State.colSlowest (s : State) (e : ColGrp) (r : ColRun) : State :=
  match longest (r.longWaits s.aon) with
  | some (k, _) =>
    let c := s.colSlow (e.first + k)
    s.setColSlow (e.first + k) { c with stepCnt := min (c.stepCnt + 1) 0xFFFFFFFF }
  | none => s

/-- What an end records and tells (R382, R383). What was sent is kept on for its ACKs (R380). -/
def State.colClose (s : State) (g : Nat) (e : ColGrp) (r : ColRun) (status named : Nat) (tell : Bool) : State :=
  have s := (s.setColGrp g { e with status := status % 16, named := named % 4096 }).setColRun g { r with ended := true, applying := false }
  have s := s.setReg Rg.COL_LAST 0 (BitVec.ofNat 64
    (2 ^ 63 + g * 2 ^ 56 + status % 16 * 2 ^ 52 + named % 4096 * 2 ^ 32 + r.seq % 2 ^ 32))
  have s := ((s.bump (colEndFld (status % 16))).colFault (status % 16)).pendBit 11 g
  if tell then e.others.foldl (fun s d => s.colSend r.etype (s.colMac e d) (colAbort e r.seq d status named)) s else s

/-- The collective of a group ends by what this member met (R382, R383); `tell` that the peers get an ABORT. -/
def State.colEnd (s : State) (g : Nat) (e : ColGrp) (r : ColRun) (status named : Nat) (tell : Bool) : State :=
  have s := s.colBytes e r (status == 0)
  have s := if status = 0 then s.colSlowest e r else s
  s.colClose g e r status named tell

/-! ### Progress -/

/-- The steps a member has sent without every ACK. -/
def ColRun.unacked (r : ColRun) : Nat :=
  (r.sends.foldl (fun (l : List Nat) (x : ColSend) => if l.contains x.step then l else x.step :: l) []).length

/-- Frames sent to a rank in a step, kept until their ACK (R380). -/
def State.colKeep (s : State) (r : ColRun) (e : ColGrp) (t d : Nat) (frags : List Bytes) : State × ColRun :=
  (s.colSendAll r.etype (s.colMac e d) frags,
   { r with sends := r.sends ++ [{ step := t, dst := d, frags, first := s.aon, resend := s.aon + r.retx }] })

/-- The member enters step `t` of those after step 0; a source that is whole already is waited for no longer than 0 (R385). -/
def State.colEnter (s : State) (g : Nat) (e : ColGrp) (r : ColRun) (t : Nat) : State :=
  let early := (e.sources t).filter fun k => r.whole.contains (colKey t k)
  let r := { r with step := t, entered := s.aon, waits := early.foldl (fun (m : SMap Nat) k => m.set k (m.getD k 0)) r.waits }
  let (s, r) := (e.dests t).foldl (fun (p : State × ColRun) d =>
    let b := p.1.colData e p.2 t d
    (if e.op = 3 then p.1 else p.1.bytes 2 b.length).colKeep p.2 e t d (colFrags e p.2.seq d t b)) (s, r)
  s.setColRun g r

/-- The reference signature (R375): the commonest, of equals the one the lowest rank holds. -/
def refSig (l : List Bytes) : Bytes :=
  (l.foldl (fun (b : Bytes × Nat) x => let n := l.count x; if b.2 < n then (x, n) else b) ([], 0)).1

/-- Step 0 completes (R375, R376, R385): whether the collective goes on. -/
def State.colSigsDone (s : State) (g : Nat) (e : ColGrp) (r : ColRun) : State × Bool :=
  let wait := r.waits.getD e.n 0 / cyUs
  let i := e.first + r.lastSig
  let c := s.colSlow i
  have s := (s.setColSlow i { c with lastCnt := min (c.lastCnt + 1) 0xFFFFFFFF, waitSum := min (c.waitSum + wait) 0xFFFFFFFF }).setReg
    Rg.COL_SLOW_LAST 0 (BitVec.ofNat 64 (2 ^ 63 + g * 2 ^ 56 + r.lastSig * 2 ^ 32 + min wait 0xFFFFFFFF))
  let r := { r with waits := [] }
  let sigs := (List.range e.n).map fun k => (r.sigs.getD k ([], 0)).1
  let ref := refSig sigs
  match (List.range e.n).find? fun k => sigs.getD k [] != ref with
  | some k => (s.colEnd g e r 2 k false, false)
  | none =>
    if e.op ≠ 2 then (s.setColRun g r, true)
    else
      let c := r.inCounts e
      if 256 * e.recvLen < blockAt c e.n e.n then (s.colEnd g e r 4 e.myRank true, false)
      else
        let own := Mem.read s.hbm (r.sendAt e + blockAt r.counts e.n e.myRank) (r.counts.getD e.myRank 0)
        have s := (s.bytes 2 own.length).bytes 3 (4 * c.length + own.length)
        have s := { s with hbm := Mem.write (Mem.write s.hbm (r.recvAt e) (c.flatMap fun n => leBytes 4 n))
                                    (r.recvBlock e e.myRank).1 own }
        have s := r.got.foldl (fun (s : State) (x : Nat × SMap Bytes) =>
          x.2.foldl (fun (s : State) (y : Nat × Bytes) => s.colPlace e r (x.1 % 4096) y.1 y.2) s) s
        (s.setColRun g r, true)

/-- Every source of a step is complete. -/
def ColRun.stepDone (r : ColRun) (e : ColGrp) : Bool :=
  if r.step = 0 then decide (r.sigs.length = e.n) else (e.sources r.step).all fun k => r.whole.contains (colKey r.step k)

/-- The member goes on as far as it can: a complete step is merged, and the next one entered while fewer than 4 steps lack an
ACK (R380); after the last one it ends, or applies what it received to the EFT (R370). `ecc`: what is read on the way is
uncorrectable. -/
def State.colGo (s : State) (g : Nat) (ecc : Bool) : Nat → State
  | 0 => s
  | n + 1 =>
    match s.colGrp? g, s.colRun? g with
    | some e, some r =>
      if r.applying || !r.stepDone e then s
      else if r.step ≠ 0 ∧ r.step < e.steps ∧ 4 ≤ r.unacked then s
      else
        let (s, on) := if r.step = 0 then s.colSigsDone g e r else (s, true)
        match on, s.colRun? g with
        | true, some r =>
          if ecc then s.colEnd g e r 5 e.myRank true
          else
            let r := if r.step ≠ 0 ∧ e.op = 3 then r.reduceStep e r.step else r
            if r.step = e.steps then
              if e.dstEft then s.setColRun g { r with applying := true }
              else s.colEnd g e r 0 0xFFF false
            else (s.colEnter g e r (r.step + 1)).colGo g ecc n
        | _, _ => s
    | _, _ => s

/-- A cascade passes at most the 4 steps staged ahead, the current one and the last. -/
def colDepth : Nat := 8

/-! ### Start (R366 to R371, R374) -/

/-- The rank that owns a key (R369). -/
def colOwner (k n : Nat) : Nat := (k * 0xA3D15B279C4E6F8B % 2 ^ 64 / 2 ^ 32) * n / 2 ^ 32

/-- The EFT entries of the class by owner, in visiting order. -/
def State.colClass (s : State) (e : ColGrp) : List (List Bytes) :=
  let all := s.eftAll.filter fun (x : Nat × EftEnt) => bits x.2.key.toNat 63 56 == e.cls
  (List.range e.n).map fun d => (all.filter fun (x : Nat × EftEnt) => colOwner x.2.key.toNat e.n == d).map fun x => x.2.bytes

/-- The template of an ALLREDUCE: FIELDS and descriptors, of an entry that is VALID. -/
def State.colTemplate (s : State) (e : ColGrp) : Option (Nat × List (BitVec 32)) :=
  match s.rdx.active.tmpls.get? e.template with
  | some t => if t.valid then
      some (t.fields, (List.range t.fields).map fun k => s.rdx.active.descs.getD (e.template * 1024 + k) 0) else none
  | none => none

/-- The send range that SRC_EFT builds; none where it exceeds SEND_LEN. -/
def State.colBuild (s : State) (e : ColGrp) : Option (Bytes × List Nat) :=
  let by_ := s.colClass e
  let counts := by_.map fun l => 256 * l.length
  if 256 * e.sendLen < blockAt counts e.n e.n then none
  else
    let head := counts.flatMap fun n => leBytes 4 n
    some (head ++ zeros (up256 head.length - head.length) ++ by_.flatten.flatten, counts)

/-- LOCAL_ERR as far as the buffers and the template tell (R374). -/
def State.colErr (s : State) (e : ColGrp) (t : Option (Nat × List (BitVec 32))) : Nat :=
  let size := s.fld Fd.COL_AREA_SIZE_MIB * 4096
  let need := if e.op = 1 then e.n * e.block else if e.op = 3 then 16 * (t.map (·.1)).getD 0 else 0
  if size < e.sendOff + e.sendLen ∨ size < e.recvOff + e.recvLen ∨ 256 * e.sendLen < need ∨ 256 * e.recvLen < need then 1
  else if e.op = 3 ∧ (t.map fun x => x.2.any fun d => classB (descOp d) || descOp d == 19).getD true then 2
  else 0

/-- The signature (R374). -/
def State.colSignature (s : State) (e : ColGrp) (err fields crc : Nat) : Bytes :=
  leBytes 1 e.op ++ leBytes 1 (b2n e.ring + b2n e.srcEft * 2 + b2n e.dstEft * 4) ++ leBytes 1 err ++ leBytes 1 e.cls ++
    leBytes 4 (if e.op = 1 then e.block else if e.op = 3 then fields else 0) ++ leBytes 4 crc ++
    leBytes 4 (s.colMembersCrc e) ++ leBytes 2 e.n ++ zeros 2

/-- A collective starts. -/
def State.colStart (s : State) (g : Nat) (e : ColGrp) (ecc : Bool) : State :=
  let t := if e.op = 3 then s.colTemplate e else none
  let fields := (t.map (·.1)).getD 0
  let ds := (t.map (·.2)).getD []
  let base := s.fld Fd.COL_AREA_BASE_MIB * 2 ^ 20
  let sendAt := base + 256 * e.sendOff
  let err := s.colErr e t
  let built := if err = 0 ∧ e.srcEft then s.colBuild e else none
  let err := if err = 0 ∧ e.srcEft ∧ built.isNone then 3 else err
  have s := match built with
    | some (b, _) => { s.bytes 3 b.length with hbm := Mem.write s.hbm sendAt b }
    | none => s
  let counts := match built with
    | some (_, c) => c
    | none => if e.op = 2 ∧ err = 0 then (List.range e.n).map fun d => leNat (Mem.read s.hbm (sendAt + 4 * d) 4)
              else List.replicate e.n 0
  let sig := s.colSignature e err fields (if e.op = 3 ∧ t.isSome then descCrc ds else 0)
  let held := (s.col.heldSig.filter fun x => x.1 / 4096 == g && x.2.1 == e.seq).map fun x => (x.1 % 4096, x.2.2)
  let r : ColRun :=
    { seq := e.seq, etype := s.fld Fd.COL_CFG_ETHERTYPE, retx := s.fld Fd.COL_CFG_RETX_US * cyUs
      tmo := s.fld Fd.COL_CFG_STEP_TMO_US * cyUs, base, start := s.aon, err, step := 0, entered := s.aon, counts
      sigs := SMap.set held e.myRank (sig, 0), lastSig := e.myRank, fields, opmap := ds.map addByte
      part := if e.op = 3 then slotsOf fields (Mem.read s.hbm sendAt (16 * fields)) else []
      sends := [], got := [], want := [], whole := [], waits := [], applying := false, ended := false }
  have s := if e.op = 3 then s.bytes 2 (16 * fields) else if e.op = 2 ∧ err = 0 ∧ built.isNone then s.bytes 2 (4 * e.n) else s
  have s := if e.op = 1 ∧ err = 0 then
      { (s.bytes 2 e.block).bytes 3 e.block with hbm := Mem.write s.hbm (r.recvAt e + e.myRank * e.block) (Mem.read s.hbm (sendAt + e.myRank * e.block) e.block) }
    else s
  let e := { e with seq := (e.seq + 1) % 2 ^ 32 }
  have s := { s.setColGrp g e with col := { (s.setColGrp g e).col with heldSig := s.col.heldSig.drop fun k => k / 4096 == g } }
  if ecc then (s.setColRun g r).colEnd g e r 5 e.myRank true
  else
    let (s, r) := e.others.foldl (fun (p : State × ColRun) d =>
      p.1.colKeep p.2 e 0 d [colSig e p.2.seq d sig (if e.op = 2 then p.2.counts.getD d 0 else 0)]) (s, r)
    have s := held.foldl (fun (s : State) x => s.colSend r.etype (s.colMac e x.1) (colAck e r.seq x.1 0)) (s.setColRun g r)
    s.colGo g ecc colDepth

/-- COL_START: a group that is not VALID or already running is refused (R388). -/
def colStartWrite (d : Word) (ecc : Bool) (s : State) : State :=
  let g := bits d.toNat 3 0
  match s.colGrp? g with
  | some e =>
    if (s.colRun? g).isSome then s.pgErr .col 0 .unit 0x50 1
    else if s.live .col then s.colStart g e ecc else s
  | none => s.pgErr .col 0 .unit 0x50 1

def execColStart (q : Req) (d : Word) (ecc : Bool) (s : State) : Host.Outcome State Fault Refusal :=
  done (s.rowWrite q .col 0 0x50 d fun s => (colStartWrite d ecc s).okay)

/-- COL_ABORT_WRITE (R384). -/
def colAbortWrite (d : Word) (s : State) : State :=
  let g := bits d.toNat 3 0
  let res := fun (s : State) n => { s with col := { s.col with abortRes := n } }
  match s.colGrp? g, s.colRun? g with
  | none, _ => res s 3
  | some _, none => res s 2
  | some e, some r => res (s.colEnd g e r 1 e.myRank true) 1

def execColAbortWrite (q : Req) (d : Word) (s : State) : Host.Outcome State Fault Refusal :=
  done (s.rowWrite q .col 0 0x58 d fun s => (colAbortWrite d s).okay)

/-! ### Receive (R373) -/

/-- All bytes of a stretch are 0. -/
def allZero (m : Bytes) : Bool := m.all (· == 0)

/-- The payload is a COL frame by its form alone (Table 14-3, cause 1): bytes Table 14-2 does not name for the KIND are 0. -/
def colFormOk (m : Bytes) : Bool :=
  let kind := rdLE m 1 1
  let len := rdLE m 24 4
  let z := fun o n => allZero ((m.drop o).take n)
  rdLE m 0 1 == 1 && decide (kind ≤ 3) && decide (len ≤ 4096) && m.length == 64 + len && z 56 8 &&
    (if kind = 0 then z 20 12 && z 50 2
     else if kind = 1 then z 32 24
     else if kind = 2 then z 20 36
     else z 20 12 && z 33 1 && z 36 20)

/-- The frame is a COL frame this tray takes up: the unit in service, and the EtherType of `COL_CFG` or the one a collective
started with (R388). -/
def State.colTakes (s : State) (f : Bytes) : Bool :=
  s.isTray && s.chip.fitted .col 0 && s.live .col &&
    ((ethParse f).etype == s.fld Fd.COL_CFG_ETHERTYPE || s.col.runs.any fun (x : Nat × ColRun) => x.2.etype == (ethParse f).etype)

/-- An ACK for a step to a source. -/
def State.colAckTo (s : State) (e : ColGrp) (r : ColRun) (src step : Nat) : State :=
  s.colSend r.etype (s.colMac e src) (colAck e r.seq src step)

/-- A SIG of the running collective. -/
def State.colSigIn (s : State) (g : Nat) (e : ColGrp) (r : ColRun) (src : Nat) (sig : Bytes) (count : Nat) (ecc : Bool) :
    State :=
  if (r.sigs.get? src).isSome then
    (s.bump Fd.COL_RX_CNT1_DUP).colAckTo e r src 0
  else if r.ended then s
  else
    have s := s.setColRun g { r with sigs := r.sigs.set src (sig, count), lastSig := src
                                     waits := r.waits.set e.n (s.aon - r.start) }
    (s.colAckTo e r src 0).colGo g ecc colDepth

/-- A fragment of the running collective (R379). -/
def State.colDataIn (s : State) (g : Nat) (e : ColGrp) (r : ColRun) (m : Bytes) (ecc : Bool) : State :=
  let step := rdLE m 2 2
  let src := rdLE m 10 2
  let frag := rdLE m 20 2
  let data := m.drop 64
  let k := colKey step src
  let held := r.got.getD k []
  if (held.get? frag).isSome then
    have s := s.bump Fd.COL_RX_CNT1_DUP
    if r.whole.contains k then s.colAckTo e r src step else s
  else if crc32c data ≠ rdLE m 28 4 then (s.bump Fd.COL_RX_CNT1_DATA_CRC).fault .col 0 0
  else if r.ended ∨ step = 0 ∨ e.steps < step ∨ !(e.sources step).contains src then s
  else
    let held := held.set frag (if e.op = 3 ∨ r.step = 0 then data else [])
    let all := decide (r.want.getD k (rdLE m 22 2) ≤ held.length)
    let r := { r with got := r.got.set k held, want := r.want.set k (r.want.getD k (rdLE m 22 2))
                      whole := if all then r.whole ++ [k] else r.whole
                      waits := if all ∧ step = r.step then r.waits.set src (max (r.waits.getD src 0) (s.aon - r.entered))
                               else r.waits }
    have s := if e.op = 1 ∨ (e.op = 2 ∧ r.step ≠ 0) then s.colPlace e r src frag data else s
    have s := s.setColRun g r
    have s := if all then s.colAckTo e r src step else s
    s.colGo g ecc colDepth

/-- An ACK: the fragments kept for that step and destination go (R380). -/
def State.colAckIn (s : State) (g : Nat) (r : ColRun) (step src : Nat) (ecc : Bool) : State :=
  let mine := fun (x : ColSend) => x.step == step && x.dst == src
  match r.sends.find? mine with
  | none => s
  | some x =>
    let waits := if step = 0 then r.waits else r.waits.set src (max (r.waits.getD src 0) (s.aon - x.first))
    (s.setColRun g { r with sends := r.sends.filter fun x => !mine x, waits }).colGo g ecc colDepth

/-- A frame that passed the checks of its port (R373). A frame of the group's collective carries the EtherType it started with
(R388). -/
def State.colFrame (s : State) (f : Bytes) (ecc : Bool) : State :=
  let h := ethParse f
  let m := h.body
  let job := rdLE m 4 3
  let tag := rdLE m 8 2
  let step := rdLE m 2 2
  let src := rdLE m 10 2
  if !colFormOk m then (s.bump Fd.COL_RX_CNT0_BAD_FRAME).fault .col 0 0
  else match s.col.groups.find? fun (x : Nat × ColGrp) => x.2.valid && x.2.job == job && x.2.tag == tag && x.2.gen == rdLE m 7 1 with
  | none =>
    if s.col.groups.any fun (x : Nat × ColGrp) => x.2.valid && x.2.job == job && x.2.tag == tag then s.bump Fd.COL_RX_CNT0_STALE_GEN
    else s.bump Fd.COL_RX_CNT0_NO_GROUP
  | some (g, e) =>
    if rdLE m 14 2 ≠ e.n ∨ e.n ≤ src ∨ rdLE m 12 2 ≠ e.myRank ∨ h.src ≠ s.colMac e src then
      (s.bump Fd.COL_RX_CNT0_BAD_SOURCE).fault .col 0 0
    else
      let cur := wrapI ((e.seq : Int) - 1) 32
      let ahead := wrapI ((rdLE m 16 4 : Int) - cur) 32
      let run := s.col.runs.get? g
      let at_ := (run.map (·.step)).getD 0
      if 2 ^ 31 ≤ ahead then s.bump Fd.COL_RX_CNT1_STALE_SEQ
      else if 1 < ahead ∨ (ahead = 1 ∧ step ≠ 0) ∨ (ahead = 0 ∧ at_ + 4 < step) then s.bump Fd.COL_RX_CNT1_AHEAD
      else
        let kind := rdLE m 1 1
        let sig := (m.drop 32).take 20
        if ahead = 1 then
          if kind ≠ 0 then s
          else if (s.col.heldSig.get? (g * 4096 + src)).isSome then s.bump Fd.COL_RX_CNT1_DUP
          else { s with col := { s.col with heldSig := s.col.heldSig.set (g * 4096 + src) (rdLE m 16 4, sig, rdLE m 52 4) } }
        else match run with
          | none => s
          | some r =>
            if r.etype ≠ h.etype then s
            else if kind = 0 then s.colSigIn g e r src sig (rdLE m 52 4) ecc
            else if kind = 1 then s.colDataIn g e r m ecc
            else if kind = 2 then s.colAckIn g r step src ecc
            else if r.ended then s
            else (s.colBytes e r false).colClose g e r (rdLE m 32 1) (rdLE m 34 2) false

/-- A received frame of one KIND. -/
def colRx (kind : Nat) (f : Bytes) (ecc : Bool) (s : State) : State :=
  if s.colTakes f ∧ rdLE (ethParse f).body 1 1 = kind then s.colFrame f ecc else s

/-- COL_SIG_RX. -/
def execColSigRx (p : Nat) (f : List Byte) (ecc : Bool) (s : State) : Host.Outcome State Fault Refusal :=
  done (if p < 2 then colRx 0 f ecc s else s)

/-- COL_DATA_RX. -/
def execColDataRx (p : Nat) (f : List Byte) (ecc : Bool) (s : State) : Host.Outcome State Fault Refusal :=
  done (if p < 2 then colRx 1 f ecc s else s)

/-- COL_ACK_RX. -/
def execColAckRx (p : Nat) (f : List Byte) (ecc : Bool) (s : State) : Host.Outcome State Fault Refusal :=
  done (if p < 2 then colRx 2 f ecc s else s)

/-- COL_ABORT_RX. -/
def execColAbortRx (p : Nat) (f : List Byte) (s : State) : Host.Outcome State Fault Refusal :=
  done (if p < 2 then colRx 3 f false s else s)

/-! ### Timers (R380, R381) -/

/-- COL_RETX_TIMER: what is due for re-sending is re-sent whole. -/
def colRetx (g : Nat) (s : State) : State :=
  match s.colGrp? g, s.col.runs.get? g with
  | some e, some r =>
    match (r.sends.map fun (x : ColSend) => x.resend).min? with
    | none => s
    | some t =>
      have s := s.reach t
      let due := r.sends.filter fun (x : ColSend) => decide (x.resend ≤ s.aon)
      have s := due.foldl (fun (s : State) (x : ColSend) =>
        (s.bump Fd.COL_RETX_FRAGMENTS 0 x.frags.length).colSendAll r.etype (s.colMac e x.dst) x.frags) s
      s.setColRun g { r with sends := r.sends.map fun (x : ColSend) =>
        if x.resend ≤ s.aon then { x with resend := s.aon + r.retx } else x }
  | _, _ => s

def execColRetxTimer (g : Nat) (s : State) : Host.Outcome State Fault Refusal := done (colRetx g s)

/-- The sources a member still waits for in its step. -/
def ColRun.missing (r : ColRun) (e : ColGrp) : List Nat :=
  if r.step = 0 then e.others.filter fun k => (r.sigs.get? k).isNone
  else (e.sources r.step).filter fun k => !r.whole.contains (colKey r.step k)

/-- A timer expires: the member ends STALLED, naming the lowest rank among those whose timers have expired by now. -/
def State.colStall (s : State) (g : Nat) (e : ColGrp) (r : ColRun) : State :=
  let late := (if r.entered + r.tmo ≤ s.aon then r.missing e else []) ++
    (r.sends.filter fun (x : ColSend) => decide (x.first + r.tmo ≤ s.aon)).map fun x => x.dst
  match late.min? with
  | some k => s.colEnd g e r 3 k true
  | none => s

/-- COL_RX_TIMEOUT. -/
def colRxTimeout (g : Nat) (s : State) : State :=
  match s.colGrp? g, s.colRun? g with
  | some e, some r => if (r.missing e).isEmpty then s else (s.reach (r.entered + r.tmo)).colStall g e r
  | _, _ => s

def execColRxTimeout (g : Nat) (s : State) : Host.Outcome State Fault Refusal := done (colRxTimeout g s)

/-- COL_TX_TIMEOUT. -/
def colTxTimeout (g : Nat) (s : State) : State :=
  match s.colGrp? g, s.colRun? g with
  | some e, some r =>
    match (r.sends.map fun (x : ColSend) => x.first).min? with
    | some t => (s.reach (t + r.tmo)).colStall g e r
    | none => s
  | _, _ => s

def execColTxTimeout (g : Nat) (s : State) : Host.Outcome State Fault Refusal := done (colTxTimeout g s)

/-! ### The received entries (R370) -/

/-- One received entry is written to the EFT with KEEP_STAMP and IF_NEWER. -/
def State.colApply (s : State) (m : Bytes) : State :=
  let o := eftWrite (rdLE m 0 8) 12 m false s
  if o.res = 0 then o.st.bump Fd.COL_EFT_CNT_APPLIED
  else if o.res = 7 then o.st.bump Fd.COL_EFT_CNT_STALE
  else if o.res = 5 then o.st.bump Fd.COL_EFT_CNT_FULL else o.st

/-- The entries of one received block, in received order. -/
def State.colApplyBlock (s : State) (a n : Nat) : State :=
  (List.range (n / 256)).foldl (fun (s : State) j => (s.bytes 2 256).colApply (Mem.read s.hbm (a + 256 * j) 256)) s

/-- A local error of DATA: the member ends, names itself and tells the group. R370 gives it no code in Table 14-5, so which
status but DONE it ends with is a free value (log 73). -/
def State.colDataErr (s : State) (g : Nat) (e : ColGrp) (r : ColRun) : State :=
  let (w, s) := s.draw
  s.colEnd g e r (1 + w.toNat % 15) e.myRank true

/-- COL_EFT_APPLY_DONE: in ascending source rank, within a source in received order, then DONE. A block whose length is not a
multiple of 256 bytes is a local error of DATA, and no block is applied from there on (R370). -/
def colEftApplyDone (g : Nat) (ecc : Bool) (s : State) : State :=
  match s.colGrp? g, s.colRun? g with
  | some e, some r =>
    if !r.applying then s
    else if ecc then s.colEnd g e r 5 e.myRank true
    else
      let good := (List.range e.n).takeWhile fun k => (r.recvBlock e k).2 % 256 == 0
      have s := good.foldl (fun (s : State) k => s.colApplyBlock (r.recvBlock e k).1 (r.recvBlock e k).2) s
      if good.length = e.n then s.colEnd g e r 0 0xFFF false else s.colDataErr g e r
  | _, _ => s

def execColEftApplyDone (g : Nat) (ecc : Bool) (s : State) : Host.Outcome State Fault Refusal := done (colEftApplyDone g ecc s)

/-! ### Tables (R389, Tables 14-9 and 14-10) -/

/-- The words of a group entry; word 6 shows the COLL_SEQ of the running collective, or of the next. -/
def ColGrp.words (e : ColGrp) (running : Option ColRun) : List Word :=
  [BitVec.ofNat 64 (b2n e.valid * 2 ^ 63 + e.job * 2 ^ 32 + e.gen * 2 ^ 24 + e.tag),
   BitVec.ofNat 64 (e.myRank * 2 ^ 48 + e.n * 2 ^ 32 + e.first),
   BitVec.ofNat 64 (e.template * 2 ^ 24 + e.cls * 2 ^ 16 + b2n e.dstEft * 512 + b2n e.srcEft * 256 + b2n e.ring * 16 + e.op),
   BitVec.ofNat 64 e.block, BitVec.ofNat 64 (e.sendOff * 2 ^ 32 + e.recvOff), BitVec.ofNat 64 (e.sendLen * 2 ^ 32 + e.recvLen),
   BitVec.ofNat 64 ((match running with | some r => r.seq | none => e.seq) % 2 ^ 32 * 2 ^ 32 + e.status % 16 * 2 ^ 24 +
     e.named % 4096)]

/-- READ of a group entry. -/
def colGroupRead (k : Nat) (s : State) : WinOut :=
  if 16 ≤ k then s.win 2
  else match s.col.groups.get? k with
    | some e => s.winData (e.words (s.colRun? k)) k
    | none => s.winData [] k

def execColGroupRead (q : Req) (idx : Nat) (s : State) : Host.Outcome State Fault Refusal :=
  done (s.winCmd q .col 0 0 1 idx (colGroupRead idx))

/-- The group entry the data words spell. -/
def State.colEntry (s : State) (k : Nat) : ColGrp :=
  let d := fun n => (s.data .col 0 n).toNat
  let old := s.col.groups.get? k
  { valid := bit (d 0) 63, job := bits (d 0) 55 32, gen := bits (d 0) 31 24, tag := bits (d 0) 15 0
    myRank := bits (d 1) 59 48, n := bits (d 1) 43 32, first := bits (d 1) 11 0
    template := bits (d 2) 27 24, cls := bits (d 2) 23 16, dstEft := bit (d 2) 9, srcEft := bit (d 2) 8
    ring := bit (d 2) 4, op := bits (d 2) 2 0, block := bits (d 3) 31 0, sendOff := bits (d 4) 63 32, recvOff := bits (d 4) 31 0
    sendLen := bits (d 5) 63 32, recvLen := bits (d 5) 31 0, seq := 0, status := (old.map (·.status)).getD 0
    named := (old.map (·.named)).getD 0 }

/-- The conditions of Table 14-9. -/
def ColGrp.ok (e : ColGrp) : Bool :=
  decide (e.myRank < e.n ∧ 2 ≤ e.n ∧ e.n ≤ 2048 ∧ e.first + e.n ≤ 4096 ∧ 1 ≤ e.op ∧ e.op ≤ 3) &&
    ((!e.dstEft && !e.srcEft) || e.op == 2) &&
    (if e.op = 1 then decide (e.block % 16 = 0 ∧ 16 ≤ e.block ∧ e.block ≤ 16777216) else e.block == 0)

/-- WRITE of a group entry (R366): its COLL_SEQ restarts at 0. -/
def colGroupWrite (k : Nat) (s : State) : WinOut :=
  if 16 ≤ k then s.win 2
  else if (s.colRun? k).isSome then s.win 7
  else
    let e := s.colEntry k
    if !e.ok then s.win 6
    else
      have s := s.setColGrp k e
      { s with col := { s.col with runs := s.col.runs.erase k
                                   heldSig := s.col.heldSig.drop fun x => x / 4096 == k } }.win 0 k

def execColGroupWrite (q : Req) (idx : Nat) (s : State) : Host.Outcome State Fault Refusal :=
  done (s.winCmd q .col 0 0 2 idx (colGroupWrite idx))

/-- READ of a member entry. -/
def colMemberRead (k : Nat) (s : State) : WinOut := if k < 4096 then s.winData [s.col.members.getD k 0] k else s.win 2

def execColMemberRead (q : Req) (idx : Nat) (s : State) : Host.Outcome State Fault Refusal :=
  done (s.winCmd q .col 0 1 1 idx (colMemberRead idx))

/-- WRITE of a member entry, outside the ranges of running groups. -/
def colMemberWrite (k : Nat) (s : State) : WinOut :=
  if 4096 ≤ k then s.win 2
  else if s.col.groups.any fun (x : Nat × ColGrp) =>
      (s.colRun? x.1).isSome && decide (x.2.first ≤ k ∧ k < x.2.first + x.2.n) then s.win 7
  else { s with col := { s.col with members := s.col.members.set k (s.data .col 0 0 &&& 0x07FFFFFFFFFFFFFF) } }.win 0 k

def execColMemberWrite (q : Req) (idx : Nat) (s : State) : Host.Outcome State Fault Refusal :=
  done (s.winCmd q .col 0 1 2 idx (colMemberWrite idx))

/-- READ of a slow-table entry. -/
def colSlowRead (k : Nat) (s : State) : WinOut :=
  if k < 4096 then
    let c := s.colSlow k
    s.winData [BitVec.ofNat 64 (c.lastCnt * 2 ^ 32 + c.waitSum), BitVec.ofNat 64 c.stepCnt] k
  else s.win 2

def execColSlowRead (q : Req) (idx : Nat) (s : State) : Host.Outcome State Fault Refusal :=
  done (s.winCmd q .col 0 2 1 idx (colSlowRead idx))

/-- `PG_CTRL.UNIT_RESET` of COL: every running collective ends RESET (R384), then what the unit still kept goes. -/
def colReset (s : State) : State :=
  have s := (List.range 16).foldl (fun (s : State) g =>
    match s.colGrp? g, s.colRun? g with
    | some e, some r => s.colEnd g e r 6 e.myRank false
    | _, _ => s) s
  { s with col := { s.col with runs := [], heldSig := [], abortRes := 0, port := 0 } }

end Sys2Proof.Machine
end

