-- ==== Sys2Proof/Machine/Bud.lean ====
section
/-! DEFINITION. BUD (15.7): what the mirror carries, the image a buddy holds, RESYNC and acknowledgements, the restore of a spare
and the loss of a state (R407 to R409). The classes are 0 CONFIG, 1 EFT, 2 RECORDS. -/

namespace Sys2Proof.Machine

/-! ### The CONFIG class: 64-byte items of a tag, an index and words -/

def cfgItem (tag idx : Nat) (ws : List Word) : Bytes := leBytes 4 tag ++ leBytes 4 idx ++ padTo 56 (wordBytes ws)

def Stream.words (e : Stream) : List Word :=
  [BitVec.ofNat 64 (b2n e.valid * 2 ^ 63 + b2n e.ordered * 2 ^ 62 + e.job * 2 ^ 32 + e.gen * 2 ^ 24 + e.entry),
   BitVec.ofNat 64 e.expected.toNat, BitVec.ofNat 64 (e.expected.toNat / 2 ^ 64)]

/-- The configuration registers that go with the banks, by the place that names each in a CONFIG item. CIS and COL have no banks
(log 81). -/
def configRegs : List Reg :=
  [Rg.RDX_CFG, Rg.UPS_CFG, Rg.EFT_CFG, Rg.STM_CFG, Rg.CIS_STORE, Rg.CIS_SUMP, Rg.CIS_INGEST, Rg.CIS_SAT, Rg.COL_CFG, Rg.COL_AREA]

/-- The items of the active banks and of `EFT_CFG` (R407). -/
def State.configItems (s : State) : List Bytes :=
  let each := fun {α : Type} (tag : Nat) (m : SMap α) (f : α → List Word) =>
    m.map fun (x : Nat × α) => cfgItem tag x.1 (f x.2)
  configRegs.zipIdx.map (fun x => cfgItem 0 x.2 [s.reg x.1]) ++
    each 1 s.rdx.active.descs (fun d => [BitVec.ofNat 64 d.toNat]) ++
    each 2 s.rdx.active.tmpls (fun t => [BitVec.ofNat 64 (b2n t.valid * 2 ^ 63 + t.template * 2 ^ 40 + t.fields)]) ++
    each 3 s.rdx.active.streams Stream.words ++
    each 4 s.ups.active.queues (fun c =>
      [BitVec.ofNat 64 (c.quantum * 2 ^ 40 + c.burst * 2 ^ 32 + c.limit * 2 ^ 16 + b2n c.spill)]) ++
    each 5 s.ups.active.gates (fun g => [g]) ++
    each 6 s.ups.active.routes (fun r =>
      [BitVec.ofNat 64 (b2n r.up * 2 ^ 63 + b2n r.cistern * 2 ^ 62 + r.port * 2 ^ 60 + r.queue * 2 ^ 48 + r.dest.toNat)]) ++
    each 7 s.cis.policers (fun p => [BitVec.ofNat 64 (p.rate * 2 ^ 56 + p.burst)]) ++
    each 8 s.stm.jobs StmJob.words ++ each 9 s.stm.bases (fun c => [c.word]) ++
    each 10 s.col.groups (fun e => e.words none) ++ each 11 s.col.members (fun w => [w])

/-- CONFIG as the mirror carries it: 64 items a frame. -/
def State.configBodies (s : State) : List Bytes :=
  let l := s.configItems
  (List.range (ceilDiv l.length 64)).map fun k => ((l.drop (64 * k)).take 64).flatten

/-- A staged word of an RWS register; its page's staged tables wait for the commit with it. -/
def State.stageWord (s : State) (r : Reg) (v : Word) : State :=
  have s := { s with staged := s.staged.set (regKey r 0) v }.mark r.unit 0
  match r.unit with
  | .ups => { s with ups := { s.ups with pending := true } }
  | .rdx => { s with rdx := { s.rdx with pending := true } }
  | .stm => { s with stm := { s.stm with pending := true } }
  | _ => s

/-- A restored configuration register: staged where it is RWS. The store and the sump move only while CIS is disabled (R393). -/
def State.restoreReg (s : State) (r : Reg) (v : Word) : State :=
  if r.unit = .cis ∧ r.off < 0x50 ∧ s.enabled .cis then s
  else if r.unit = .cis ∨ r.unit = .col then s.setReg r 0 v else s.stageWord r v

/-- One item of a restored CONFIG: into the staged banks; CIS and COL have none and take it at once (R408). -/
def State.restoreItem (s : State) (m : Bytes) : State :=
  let idx := rdLE m 4 4
  let w := fun k => BitVec.ofNat 64 (rdLE m (8 + 8 * k) 8)
  let v := fun k => rdLE m (8 + 8 * k) 8
  let rs := s.rdx.staged
  let us := s.ups.staged
  match rdLE m 0 4 with
  | 0 => match configRegs[idx]? with
    | some r => s.restoreReg r (w 0)
    | none => s
  | 1 => s.setRdxStaged { rs with descs := rs.descs.set idx (BitVec.ofNat 32 (v 0)) }
  | 2 => s.setRdxStaged { rs with tmpls := rs.tmpls.set idx ⟨bit (v 0) 63, bits (v 0) 47 40, bits (v 0) 10 0⟩ }
  | 3 =>
    let x : Stream := ⟨bit (v 0) 63, bit (v 0) 62, bits (v 0) 55 32, bits (v 0) 31 24, bits (v 0) 3 0, BitVec.ofNat 128 (v 1 + v 2 * 2 ^ 64)⟩
    s.setRdxStaged { rs with streams := rs.streams.set idx x }
  | 4 => s.setUpsStaged { us with queues := us.queues.set idx ⟨bits (v 0) 47 40, bits (v 0) 39 32, bits (v 0) 29 16, bit (v 0) 0⟩ }
  | 5 => s.setUpsStaged { us with gates := us.gates.set idx (w 0) }
  | 6 =>
    let x : Route := ⟨bit (v 0) 63, bit (v 0) 62, bits (v 0) 60 60, bits (v 0) 52 48, BitVec.ofNat 48 (bits (v 0) 47 0)⟩
    s.setUpsStaged { us with routes := us.routes.set idx x }
  | 7 =>
    let x : Policer := { rate := bits (v 0) 63 56, burst := bits (v 0) 15 0, tokens := bits (v 0) 15 0 * 1024, last := s.aon, drops := 0 }
    { s with cis := { s.cis with policers := s.cis.policers.set idx x } }
  | 8 =>
    let x : StmJob :=
      { valid := bit (v 0) 63, phase := bits (v 0) 61 60, job := bits (v 0) 55 32, gen := bits (v 0) 31 24, quorum := bits (v 0) 7 0
        expected := BitVec.ofNat 128 (v 1 + v 2 * 2 ^ 64), lateNs := bits (v 3) 63 32, slackUs := bits (v 3) 31 16
        rowTmo := bits (v 3) 15 0 }
    { s with stm := { s.stm with jobsSt := s.stm.jobsSt.set idx x } }
  | 9 =>
    let x : BaseCfg :=
      { valid := bit (v 0) 63, freeze := bit (v 0) 62, field := bits (v 0) 57 48, k := bits (v 0) 44 40, warm := bits (v 0) 39 32
        zHi := bits (v 0) 31 16, consec := bits (v 0) 3 0 }
    { s with stm := { s.stm with basesSt := s.stm.basesSt.set idx x } }
  | 10 => s.setColGrp idx
      { valid := bit (v 0) 63, job := bits (v 0) 55 32, gen := bits (v 0) 31 24, tag := bits (v 0) 15 0
        myRank := bits (v 1) 59 48, n := bits (v 1) 43 32, first := bits (v 1) 11 0, template := bits (v 2) 27 24
        cls := bits (v 2) 23 16, dstEft := bit (v 2) 9, srcEft := bit (v 2) 8, ring := bit (v 2) 4, op := bits (v 2) 2 0
        block := bits (v 3) 31 0, sendOff := bits (v 4) 63 32, recvOff := bits (v 4) 31 0, sendLen := bits (v 5) 63 32
        recvLen := bits (v 5) 31 0, seq := bits (v 6) 63 32, status := bits (v 6) 27 24, named := bits (v 6) 11 0 }
  | 11 => { s with col := { s.col with members := s.col.members.set idx (w 0) } }
  | _ => s

/-- A restored CONFIG, item by item, over empty staged banks. -/
def State.restoreConfig (s : State) (frames : List Bytes) : State :=
  have s := (s.setRdxStaged { descs := [], tmpls := [], streams := [] }).setUpsStaged { queues := [], gates := [], routes := [] }
  have s := { s with stm := { s.stm with jobsSt := [], basesSt := [] } }
  let all := frames.flatten
  (List.range (all.length / 64)).foldl (fun (s : State) k => s.restoreItem ((all.drop (64 * k)).take 64)) s

/-! ### The mirror's sending side (R407) -/

/-- CONFIG whole, after a commit that changed it. -/
def State.mirrorConfig (s : State) : State := s.mirror 0 true s.configBodies

/-- The EFT entries written since the boundary before, and what has left the late window goes from the records kept. -/
def State.mirrorBoundary (s : State) : State :=
  let keys := s.bud.dirty
  let bodies := keys.filterMap fun k => (s.eftFind k).map fun (x : Bool × Nat × EftEnt) => x.2.2.bytes
  let recs := s.bud.recs.filter fun (x : Nat × Bytes) => decide (s.lateFrom ≤ (x.1 : Int))
  have s := { s with bud := { s.bud with dirty := [], recs } }
  s.mirror 1 false bodies

/-- Frames of a class sent whole; an empty class is one frame without content. -/
def whole (l : List Bytes) : List Bytes := if l.isEmpty then [[]] else l

/-- Every class whole, and the mirror goes on from there. -/
def State.mirrorWhole (s : State) : State :=
  ((s.mirror 0 true (whole s.configBodies)).mirror 1 true
    (whole (s.eftAll.map fun (x : Nat × EftEnt) => x.2.bytes))).mirror 2 true
    (whole (s.bud.recs.map fun (x : Nat × Bytes) => x.2))

/-- BUD_STATE.MIRROR as `MIRROR_EN` is written: off, or waiting for the buddy. -/
def State.mirrorEnable (s : State) (was : Bool) : State :=
  let on := s.fld Fd.BUD_CFG_MIRROR_EN == 1
  if on && !was then { s.setFld Fd.BUD_STATE_MIRROR 0 2 with bud := { s.bud with ackAt := s.aon } }
  else if !on then s.setFld Fd.BUD_STATE_MIRROR 0 0 else s

/-! ### BUD frames received -/

/-- What a BUD frame says. -/
structure BudFrame where
  src  : Nat
  kind : Nat
  cls  : Nat
  flag : Nat
  sq   : Nat
  body : Bytes

def budParse (f : Bytes) : BudFrame :=
  let e := ethParse f
  let m := e.body
  ⟨e.src, rdLE m 1 1, rdLE m 2 1, rdLE m 3 1, rdLE m 4 4, (m.drop 10).take (rdLE m 8 2)⟩

/-- The frame is a BUD frame of this kind that this tray takes: from `BUDDY_MAC`, `WARD_MAC` or the buddy of a restore. -/
def State.budTakes (s : State) (f : Bytes) (kind : Nat) : Bool :=
  s.isTray && s.live .bud && (ethParse f).etype == s.fld Fd.UPS_CFG_ETHERTYPE && (budParse f).kind == kind

def State.fromBuddy (s : State) (b : BudFrame) : Bool := b.src == s.fld Fd.BUD_CFG_BUDDY_MAC
def State.fromWard (s : State) (b : BudFrame) : Bool := b.src == s.fld Fd.BUD_WARD_WARD_MAC
def State.restoring (s : State) : Bool := s.fld Fd.BUD_STATE_RSTATE == 1
def State.fromSource (s : State) (b : BudFrame) : Bool := s.restoring && b.src == s.bud.source

/-- The image held is valid when every class has been received whole. -/
def State.holdValid (s : State) : State :=
  s.setFld Fd.BUD_STATE_HOLD_VALID 0 (b2n ((List.range 3).all fun c => (s.bud.img.get? c).isSome))

/-- The BUD region in thirds, one a class: where the image of class `c` begins in HBM, and its room (log 82). -/
def State.imgRoom (s : State) : Nat := s.fld Fd.BUD_REGION_SIZE_MIB * 2 ^ 20 / 3
def State.imgAt (s : State) (c : Nat) : Nat := s.fld Fd.BUD_REGION_BASE_MIB * 2 ^ 20 + c * s.imgRoom

/-- A stretch of bytes cut into pieces of the given lengths. -/
def cutBytes : List Nat → Bytes → List Bytes
  | [], _ => []
  | n :: r, m => m.take n :: cutBytes r (m.drop n)

/-- The frames of the image held of a class, read from the BUD region. -/
def State.imgFrames (s : State) (c : Nat) : List Bytes :=
  let l := s.bud.img.getD c []
  cutBytes l (Mem.read s.hbm (s.imgAt c) l.sum)

/-- The image of a class is written to the BUD region; one that does not fit there is not held. -/
def State.setImg (s : State) (c : Nat) (l : List Bytes) : State :=
  let n := l.flatten.length
  if n ≤ s.imgRoom ∧ s.fld Fd.BUD_REGION_BASE_MIB + s.fld Fd.BUD_REGION_SIZE_MIB ≤ s.hbmMib then
    { s.bytes 3 n with hbm := Mem.write s.hbm (s.imgAt c) l.flatten, bud := { s.bud with img := s.bud.img.set c (l.map (·.length)) } }
  else { s with bud := { s.bud with img := s.bud.img.erase c } }

/-- The epoch of a record as the mirror carries it. -/
def bodyEpoch (b : Bytes) : Nat := bits (rdLE b 8 16) 107 68

/-- The latest image of a class with one more frame: an EFT entry takes the place of its key's older one, records that have left every
late window go. -/
def State.imgAdd (s : State) (c : Nat) (b : Bytes) : List Bytes :=
  let l := s.imgFrames c
  (if c = 1 then l.filter fun f => f.take 8 != b.take 8
   else if c = 2 then l.filter fun f => decide (s.rdxClosed < (bodyEpoch f : Int) + 64)
   else l) ++ [b]

/-- A frame of the ward's mirror: kept and acknowledged, or RESYNC on a gap. -/
def State.mirrorIn (s : State) (b : BudFrame) : State :=
  if s.fld Fd.BUD_CFG_HOLD_EN = 0 ∨ 3 ≤ b.cls then s
  else
    let keep := fun (s : State) =>
      let sq := s.bud.seqRx.set b.cls ((b.sq + 1) % 2 ^ 32)
      have s := { s with bud := { s.bud with seqRx := sq, resync := s.bud.resync && sq.length < 3 } }
      s.holdValid.budFrame b.src 16 b.cls 2 b.sq []
    let due := s.bud.seqRx.get? b.cls
    if b.flag = 1 ∧ (due = none ∨ due = some b.sq) then keep (s.setImg b.cls [b.body])
    else if due = some b.sq then
      keep (if (s.bud.img.get? b.cls).isSome then s.setImg b.cls (s.imgAdd b.cls b.body) else s)
    else if s.bud.resync then s
    else
      have s := if s.bud.seqRx.isEmpty then s else s.bump Fd.BUD_CNT_GAPS
      { s with bud := { s.bud with seqRx := [], resync := true } }.budFrame b.src 19 0 0 0 []

/-- MIRROR_RX. -/
def mirrorRx (f : Bytes) (s : State) : State :=
  let b := budParse f
  if s.budTakes f 16 ∧ b.flag < 2 ∧ s.fromWard b ∧ !s.fromSource b then s.mirrorIn b else s

def execMirrorRx (p : Nat) (f : List Byte) (s : State) : Host.Outcome State Fault Refusal :=
  done (if p < 2 then mirrorRx f s else s)

/-- RESYNC_RX: the buddy asks for everything. -/
def resyncRx (f : Bytes) (s : State) : State :=
  if s.budTakes f 19 ∧ s.fromBuddy (budParse f) ∧ s.mirrorOn then
    ((s.bump Fd.BUD_CNT_RESYNCS).setFld Fd.BUD_STATE_MIRROR 0 2).mirrorWhole
  else s

def execResyncRx (p : Nat) (f : List Byte) (s : State) : Host.Outcome State Fault Refusal :=
  done (if p < 2 then resyncRx f s else s)

/-- MIRROR_ACK_RX. -/
def mirrorAckRx (f : Bytes) (s : State) : State :=
  let b := budParse f
  if s.budTakes f 16 ∧ b.flag = 2 ∧ s.fromBuddy b ∧ s.mirrorOn then
    { s.setFld Fd.BUD_STATE_MIRROR 0 1 with bud := { s.bud with ackAt := s.aon } }
  else s

def execMirrorAckRx (p : Nat) (f : List Byte) (s : State) : Host.Outcome State Fault Refusal :=
  done (if p < 2 then mirrorAckRx f s else s)

/-- TMO_US in AON cycles. -/
def State.budTmo (s : State) : Nat := s.fld Fd.BUD_TMO_TMO_US * cyUs

/-- MIRROR_ACK_TIMEOUT. -/
def mirrorAckTimeout (s : State) : State :=
  if s.mirrorOn ∧ s.fld Fd.BUD_STATE_MIRROR ≠ 3 then
    (((s.reach (s.bud.ackAt + s.budTmo)).setFld Fd.BUD_STATE_MIRROR 0 3).fault .bud 0 0)
  else s

def execMirrorAckTimeout (s : State) : Host.Outcome State Fault Refusal := done (mirrorAckTimeout s)

/-! ### Restore (R408, R409) -/

/-- RSTATE changes: HEALTH at once (R411), and the interrupt source of a restore that ends. -/
def State.setRstate (s : State) (n : Nat) : State :=
  have s := s.setFld Fd.BUD_STATE_RSTATE 0 n
  (if 2 ≤ n then s.pendBit 12 2 else s).health

/-- `BUD_RESTORE` with GO: RESTORE_REQ goes to the buddy. -/
def budRestoreWrite (d : Word) (s : State) : State :=
  if bit d.toNat 63 ∧ s.live .bud then
    have s := { s with bud := { s.bud with rx := [], rxAt := s.aon, source := bits d.toNat 47 0 } }
    (((s.bump Fd.BUD_CNT_RESTORES).setFld Fd.BUD_STATE_CLASSES 0 0).setRstate 1).budFrame (bits d.toNat 47 0) 17 0 0 0 []
  else s

def execBudRestore (q : Req) (d : Word) (s : State) : Host.Outcome State Fault Refusal :=
  done (s.rowWrite q .bud 0 0x60 d fun s => (budRestoreWrite d s).okay)

/-- A class goes to a spare, and its END. -/
def State.restoreClass (s : State) (dst cls : Nat) (l : List Bytes) : State :=
  have s := l.zipIdx.foldl (fun (s : State) (x : Bytes × Nat) => s.budFrame dst 16 cls (b2n (x.2 == 0)) x.2 x.1) s
  s.budFrame dst 18 cls 0 l.length (leBytes 4 (crc32c l.flatten))

/-- RESTORE_REQ_RX: CONFIG, then EFT, then RECORDS; a buddy that holds no image sends nothing. -/
def restoreReqRx (f : Bytes) (s : State) : State :=
  let b := budParse f
  if s.budTakes f 17 ∧ s.fromWard b ∧ s.fld Fd.BUD_STATE_HOLD_VALID = 1 then
    (List.range 3).foldl (fun (s : State) c => (s.bytes 2 (s.bud.img.getD c []).sum).restoreClass b.src c (s.imgFrames c)) s
  else s

def execRestoreReqRx (p : Nat) (f : List Byte) (s : State) : Host.Outcome State Fault Refusal :=
  done (if p < 2 then restoreReqRx f s else s)

/-- The restore fails (R409): the state is lost, incomplete classes are discarded, RDX rebuilds, at the first commit of a stream
table where CONFIG was lost. -/
def State.restoreFail (s : State) : State :=
  let got := s.fld Fd.BUD_STATE_CLASSES
  let lost := 7 - got
  have s := { s with bud := { s.bud with rx := s.bud.rx.drop fun c => !bit got c } }
  have s := ((s.bump Fd.BUD_CNT_STATE_LOST).fault .bud 0 1).setRstate 3
  have s := s.event 0x2401 (leBytes 1 lost) false
  if bit lost 0 then
    { s with rdx := { s.rdx with rebuildDue := true } }.stateLost lost (s.epochNow - min 64 s.epochNow)
  else
    let (oldest, s) := s.rebuild
    s.stateLost lost oldest

/-- RESTORE_TIMEOUT: the cycle of the timeout passes. An END of that cycle is one commanded before this row (R409). -/
def restoreTimeout (s : State) : State :=
  if s.isTray ∧ s.restoring then
    let e := s.bud.rxAt + s.budTmo
    (s.reach e).restoreFail.reach (e + 1)
  else s

def execRestoreTimeout (s : State) : Host.Outcome State Fault Refusal := done (restoreTimeout s)

/-- RESTORE_DATA_RX: a frame of a class not yet complete. -/
def restoreDataRx (f : Bytes) (s : State) : State :=
  let b := budParse f
  if s.budTakes f 16 ∧ b.flag < 2 ∧ s.fromSource b then
    if 3 ≤ b.cls ∨ bit (s.fld Fd.BUD_STATE_CLASSES) b.cls then s
    else { s with bud := { s.bud with rx := s.bud.rx.set b.cls (s.bud.rx.getD b.cls [] ++ [b.body]), rxAt := s.aon } }
  else s

def execRestoreDataRx (p : Nat) (f : List Byte) (s : State) : Host.Outcome State Fault Refusal :=
  done (if p < 2 then restoreDataRx f s else s)

/-- Restored records wait for a stream table in force, and merge as late members (R354). -/
def State.mergeRestored (s : State) : State :=
  if bit (s.fld Fd.BUD_STATE_CLASSES) 2 ∧ !s.rdx.active.live.isEmpty then
    let l := s.bud.rx.getD 2 []
    have s := { s with bud := { s.bud with rx := s.bud.rx.erase 2 } }
    l.foldl (fun (s : State) m => if m.isEmpty then s else s.recordTaken (rdLE m 0 8) (m.drop 8) [] true) s
  else s

/-- A class whose END matches is applied whole. -/
def State.restoreApply (s : State) (cls : Nat) : State :=
  let l := s.bud.rx.getD cls []
  let drop := fun (s : State) => { s with bud := { s.bud with rx := s.bud.rx.erase cls } }
  if cls = 0 then drop (s.restoreConfig l)
  else if cls = 1 then
    drop (l.foldl (fun (s : State) m => if m.length = 256 then (eftWrite (rdLE m 0 8) 12 m false s).st else s) s)
  else s.mergeRestored

/-- RESTORE_END_RX. -/
def restoreEndRx (f : Bytes) (s : State) : State :=
  let b := budParse f
  if s.budTakes f 18 ∧ s.fromSource b ∧ b.cls < 3 then
    let l := s.bud.rx.getD b.cls []
    if l.length ≠ b.sq ∨ crc32c l.flatten ≠ rdLE b.body 0 4 then s.restoreFail
    else
      let got := Nat.lor (s.fld Fd.BUD_STATE_CLASSES) (2 ^ b.cls)
      have s := ({ s with bud := { s.bud with rxAt := s.aon } }.setFld Fd.BUD_STATE_CLASSES 0 got).restoreApply b.cls
      if got = 7 then s.setRstate 2 else s
  else s

def execRestoreEndRx (p : Nat) (f : List Byte) (s : State) : Host.Outcome State Fault Refusal :=
  done (if p < 2 then restoreEndRx f s else s)

/-- Any KIND of BUD. -/
def State.budRx (s : State) (f : Bytes) : State :=
  let b := budParse f
  if b.kind = 16 then
    if b.flag = 2 then mirrorAckRx f s else if s.fromSource b then restoreDataRx f s else mirrorRx f s
  else if b.kind = 17 then restoreReqRx f s
  else if b.kind = 18 then restoreEndRx f s
  else resyncRx f s

/-- `PG_CTRL.UNIT_RESET` of BUD: the image held, a restore in progress and the mirror's sequence go. -/
def budReset (s : State) : State :=
  { s with bud := { s.bud with seqTx := [], seqRx := [], img := [], resync := false, rx := [], source := 0 } }

end Sys2Proof.Machine
end

