-- ==== Sys2Proof/Machine/Flt.lean ====
section
/-! DEFINITION. FLT, EVR and IRC (chapter 19): recovery, acknowledgement, the windows, the interrupt claim and complete. -/

namespace Sys2Proof.Machine

/-! ### FLT -/

/-- A source recovers (R480, R482): it rests, FLT counts it, EVR records it, and its unit may return to service. -/
def State.recover (s : State) (n : Nat) : State :=
  let r := s.src n
  let was := (srcOf s.chip.role n).any fun (u, i, _) => s.outOfService u i
  have s := s.setSrc n { r with active := false, cur := r.sev, stopping := false }
  have s := (s.bump Fd.FLT_CNT_RECOVERIES).evrWrite n 0x0603 n (leBytes 2 r.episode)
  let is := (srcOf s.chip.role n).any fun (u, i, _) => s.outOfService u i
  if was ∧ !is then s.pendBit 2 3 else s

/-- QUIET_EXPIRE (R480): the first AON edge at which the source is acknowledged and its quiet timer has expired. A fault of that edge
comes before it, so the command passes the edge. -/
def quietExpire (n : Nat) (s : State) : State :=
  if (s.src n).active ∧ (s.src n).acked then ((s.reach (s.src n).quietEnd).recover n).advance 1 else s

def execQuietExpire (src : Nat) (s : State) : Host.Outcome State Fault Refusal := done (quietExpire src s)

/-- One source is acknowledged or made unacknowledged again (R481); a fault of this AON edge wins over its acknowledgement. -/
def State.ackSource (s : State) (n : Nat) (on : Bool) : State :=
  let r := s.src n
  if r.active ∧ n < srcCount s.chip.role ∧ !(on && r.rises.any (·.1 == s.aon)) then
    let g := Rg.FLT_ACK.nth (n / 64)
    let m := BitVec.ofNat 64 (2 ^ (n % 64))
    (s.setSrc n { r with acked := on }).setReg g 0 (if on then s.reg g ||| m else s.reg g &&& ~~~m)
  else s

/-- Acknowledge the sources of register `k` picked by `set`, and undo it for those picked by `clr`. -/
def fltAck (k : Nat) (set clr : Word) (s : State) : State :=
  (List.range 64).foldl (fun s b =>
    if set.getLsbD b then s.ackSource (64 * k + b) true
    else if clr.getLsbD b then s.ackSource (64 * k + b) false else s) s

/-- FLT_ACK_SET. -/
def execFltAckSet (q : Req) (k : Nat) (d : Word) (s : State) : Host.Outcome State Fault Refusal :=
  done (s.rowWrite q .flt 0 (0x500 + 8 * k) d fun s => (fltAck k d 0 s).okay)

/-- FLT_ACK_CLR. -/
def execFltAckClr (q : Req) (k : Nat) (d : Word) (s : State) : Host.Outcome State Fault Refusal :=
  done (s.rowWrite q .flt 0 (0x900 + 8 * k) d fun s => (fltAck k 0 d s).okay)

/-- FLT_ACK_WRITE: a SET of the bits written 1 and a CLR of the bits written 0. -/
def execFltAckWrite (q : Req) (k : Nat) (d : Word) (s : State) : Host.Outcome State Fault Refusal :=
  done (s.rowWrite q .flt 0 (0x100 + 8 * k) d fun s => (fltAck k d (~~~d) s).okay)

/-- Words of a time (TIME96 low, then its upper 32 bits). -/
def timeWords (u : Nat) : List Word := [BitVec.ofNat 64 (time96 u), BitVec.ofNat 64 (time96 u / 2 ^ 64)]

/-- FLT READ of a source (Table 19-2). -/
def fltSrcRead (idx : Nat) (s : State) : WinOut :=
  if idx < srcCount s.chip.role then
    let r := s.src idx
    s.winData (BitVec.ofNat 64 (b2n r.active * 2 ^ 63 + b2n r.acked * 2 ^ 62 + b2n r.stopping * 2 ^ 61 + r.sev * 2 ^ 56
      + r.cur * 2 ^ 52 + r.escCap * 2 ^ 48 + r.count * 2 ^ 32 + r.detail.toNat) :: (timeWords r.time ++
      [BitVec.ofNat 64 r.epoch]))
  else s.win 2

def execFltSrcRead (q : Req) (idx : Nat) (s : State) : Host.Outcome State Fault Refusal :=
  done (s.winCmd q .flt 0 0 1 idx (fltSrcRead idx))

/-- FLT WRITE of a source (R484); an unassigned one takes none (R547). -/
def fltSrcWrite (idx : Nat) (s : State) : WinOut :=
  let d := (s.data .flt 0 0).toNat
  if srcCount s.chip.role ≤ idx then s.win 2
  else if (srcOf s.chip.role idx).isNone ∨ 6 ≤ bits d 58 56 ∨ 6 ≤ bits d 50 48 then s.win 6
  else (s.setSrc idx { s.src idx with sev := bits d 58 56, escCap := bits d 50 48 }).win 0

def execFltSrcWrite (q : Req) (idx : Nat) (s : State) : Host.Outcome State Fault Refusal :=
  done (s.winCmd q .flt 0 0 2 idx (fltSrcWrite idx))

/-- A name of the directory as 16 ASCII bytes. -/
def nameBytes (n : String) : Bytes := ((n.toList.map fun (c : Char) => BitVec.ofNat 8 c.toNat) ++ List.replicate 16 0).take 16

/-- FLT READ of the directory (R477, Table 19-2); an unassigned source reads all zero. -/
def fltDirRead (idx : Nat) (s : State) : WinOut :=
  if idx < srcCount s.chip.role then
    match srcOf s.chip.role idx with
    | some (u, i, l) =>
      let (nm, sev) := ((sources u)[l]?).getD ("", 0)
      s.winData (BitVec.ofNat 64 (unitCode u * 2 ^ 48 + i * 2 ^ 40 + l * 2 ^ 32 + sev) :: toWords 2 (nameBytes nm))
    | none => s.winData []
  else s.win 2

def execFltDirRead (q : Req) (idx : Nat) (s : State) : Host.Outcome State Fault Refusal :=
  done (s.winCmd q .flt 0 1 1 idx (fltDirRead idx))

/-- A write of `FLT_CTRL` (R485). -/
def fltCtrlWrite (d : Word) (s : State) : State := if d.getLsbD 0 then s.setReg Rg.FLT_FIRST 0 0 else s

def execFltClearFirst (q : Req) (d : Word) (s : State) : Host.Outcome State Fault Refusal :=
  done (s.rowWrite q .flt 0 0x70 d fun s => (fltCtrlWrite d s).okay)

/-- A write of `FLT_INJECT` (R485). -/
def fltInjectWrite (d : Word) (s : State) : State :=
  if d.getLsbD 63 then
    let n := bits d.toNat 42 32
    match srcOf s.chip.role n with
    | some (u, i, _) =>
      if s.chip.fitted u i then s.record n (d.truncate 32) else s.pgErr .flt 0 .unit 0x68 1
    | none => s.pgErr .flt 0 .unit 0x68 1
  else s

/-- `FLT_STAT` (Table 19-3). -/
def fltStat (s : State) : Nat :=
  let act := (s.flt.srcs.filter fun x => x.2.active).length
  let un := (s.flt.srcs.filter fun x => x.2.active && !x.2.acked).length
  act * 2 ^ 48 + un * 2 ^ 32 + s.attn * 16 + b2n s.flt.faulted * 4 + b2n (s.flt.srcs.any fun x => x.2.stopping) * 2

/-- `PG_CTRL.UNIT_RESET` of FLT (R486); FAULTED and `FLT_FATAL` stay. `old` is the state before. -/
def fltReset (old s : State) : State :=
  { s.setReg Rg.FLT_FATAL 0 (old.reg Rg.FLT_FATAL) with flt := { s.flt with srcs := [] } }

/-! ### EVR -/

/-- EVR READ of a record (R491, R493). -/
def evrRead (sq : Nat) (s : State) : WinOut :=
  match s.evr.recs.find? fun r => r.seq = sq with
  | some r => s.winData (toWords 8 r.bytes)
  | none => s.win 2

def execEvrRead (q : Req) (sq : Nat) (s : State) : Host.Outcome State Fault Refusal :=
  done (s.winCmd q .evr 0 0 1 sq (evrRead sq))

/-- A write of `EVR_RD` (R493). -/
def evrRdWrite (d : Word) (s : State) : State :=
  let t := s.fld Fd.EVR_TAIL_SEQ
  if wrapI (s.fld Fd.EVR_HEAD_SEQ - t) 32 < wrapI (bits d.toNat 31 0 - t) 32 then s.pgErr .evr 0 .badValue 0x58
  else (s.setReg Rg.EVR_RD 0 (d &&& 0xFFFFFFFF)).level 14

def execEvrRdWrite (q : Req) (d : Word) (s : State) : Host.Outcome State Fault Refusal :=
  done (s.rowWrite q .evr 0 0x58 d fun s => (evrRdWrite d s).okay)

/-- The ring is empty, every bucket full at the reset BURST of 20 records a 100 ms each, and the first record is EVR_RESET (R492, R493). -/
def evrEmpty (s : State) : State :=
  have s := ((s.setReg Rg.EVR_HEAD 0 0).setReg Rg.EVR_TAIL 0 0).setReg Rg.EVR_RD 0 0
  have evr := { recs := [], buckets := [], fresh := { credit := 200000000, last := s.aon, suppressed := 0 }, edge := s.aon, batch := 0 }
  ({ s with evr }).event 0x0701 [] true

/-- `PG_CTRL.UNIT_RESET` of EVR; the epoch stamp in force is the clock's, not the reset's. -/
def evrReset (old s : State) : State := evrEmpty (s.setReg Rg.EVR_EPOCH 0 (old.reg Rg.EVR_EPOCH))

/-! ### IRC -/

/-- The priority and line of a group. -/
def State.prio (s : State) (g : Nat) : Nat := s.fld (Fd.IRC_GCFG_PRIO.nth g)
def State.line (s : State) (g : Nat) : Nat := s.fld (Fd.IRC_GCFG_LINE.nth g)

/-- A group is routed to a line; group 0 signals on all four (R496). -/
def State.routed (s : State) (g n : Nat) : Bool := g == 0 || s.line g == n

/-- A group is eligible (R496). -/
def State.eligible (s : State) (g : Nat) : Bool :=
  (s.reg (Rg.IRC_PEND g) &&& s.reg (Rg.IRC_MASK g)) != 0 &&
    (g == 0 || (s.enabled .irc && (s.irc.holdoffs.get? g).isNone))

/-- The stack of a line, top first. -/
def State.stack (s : State) (n : Nat) : List Nat := s.irc.prioStk.getD n []

/-- A group has a PRIO above the top of a line's stack, or the stack is empty (R496, R497). -/
def aboveTop (st : List Nat) (p : Nat) : Bool :=
  match st with
  | [] => true
  | t :: _ => decide (t < p)

/-- The groups a claim of line `n` may take. -/
def State.claimable (s : State) (n : Nat) : List Nat :=
  (List.range 16).filter fun g => s.eligible g && s.routed g n && aboveTop (s.stack n) (s.prio g)

/-- A line is asserted (R496); in FAULTED every line is while the MASK of FATAL is set (R501). -/
def State.asserted (s : State) (n : Nat) : Bool :=
  !(s.claimable n).isEmpty || (s.flt.faulted && (s.reg (Rg.IRC_MASK 0)).getLsbD 0)

/-- The group of highest PRIO in a rising list, the lowest number among equals (R497). -/
def bestGroup (prio : Nat → Nat) : List Nat → Option Nat
  | [] => none
  | g :: gs => match bestGroup prio gs with
    | some h => if prio g < prio h then some h else some g
    | none => some g

/-- The effect and data of a read of `IRC_CLAIM`n (R497, R499). -/
def ircClaim (n : Nat) (s : State) : AccOut :=
  match bestGroup s.prio (s.claimable n) with
  | some g =>
    let p := s.prio g
    let h := s.fld (Fd.IRC_GCFG_HOLDOFF_US.nth g)
    have s := s.bump Fd.IRC_CNT_CLAIMS
    have irc := { s.irc with prioStk := s.irc.prioStk.set n (p :: s.stack n)
                             holdoffs := if h = 0 then s.irc.holdoffs else s.irc.holdoffs.set g (s.aon + h * cyUs) }
    State.gives { s with irc } (BitVec.ofNat 64 (2 ^ 63 + p * 2 ^ 40 + g))
  | none => (s.bump Fd.IRC_CNT_SPURIOUS).gives 0

def execIrcClaimRead (q : Req) (n : Nat) (s : State) : Host.Outcome State Fault Refusal :=
  done (s.rowRead q .irc 0 (0x1C0 + 8 * n) (ircClaim n))

/-- Sets the priority stack of an interrupt line. -/
def State.setStack (s : State) (n : Nat) (l : List Nat) : State :=
  { s with irc := { s.irc with prioStk := s.irc.prioStk.set n l } }

/-- A stack fault (R498). -/
def State.stackFault (s : State) (n cause g : Nat) : State :=
  let top := ((s.stack n).head?).getD 0
  have s := s.setReg Rg.IRC_STACK_LAST 0 (BitVec.ofNat 64
    (2 ^ 63 + n * 2 ^ 56 + cause * 2 ^ 52 + g * 2 ^ 48 + top * 2 ^ 40))
  ((s.bump Fd.IRC_CNT_STACK_FAULTS).event 0x0501
    (leBytes 1 n ++ leBytes 1 cause ++ leBytes 1 g ++ leBytes 1 top)).fault .irc 0 0

/-- A write of `IRC_COMPLETE` (R498). -/
def ircComplete (d : Word) (s : State) : State :=
  let n := bits d.toNat 9 8
  let g := bits d.toNat 3 0
  match s.stack n with
  | [] => s.stackFault n 1 g
  | t :: rest =>
    if s.prio g = t then s.setStack n rest
    else (s.stackFault n 2 g).setStack n []

def execIrcComplete (q : Req) (d : Word) (s : State) : Host.Outcome State Fault Refusal :=
  done (s.rowWrite q .irc 0 0x1E0 d fun s => (ircComplete d s).okay)

/-- IRC_HOLDOFF_END (R499). -/
def ircHoldoffEnd (g : Nat) (s : State) : State :=
  match s.irc.holdoffs.get? g with
  | some e =>
    have s := s.reach e
    { s with irc := { s.irc with holdoffs := s.irc.holdoffs.erase g, deferred := s.irc.deferred.erase g } }
  | none => s

def execIrcHoldoffEnd (g : Nat) (s : State) : Host.Outcome State Fault Refusal := done (ircHoldoffEnd g s)

/-- A write of a pending register (R495): a W1C clear, after which the bits that hardware set at this AON edge stand (R55) and a level
condition sets its bit again. Groups 0 to 2 are SC and group 15 is plain. -/
def ircPendWrite (g al : Nat) (d : Word) (s : State) : State :=
  have s := s.plainWrite .irc 0 (0x48 + 16 * g) al d id
  (if g < 15 then s.setReg (Rg.IRC_PEND g) 0 (s.reg (Rg.IRC_PEND g) ||| s.risenNow g) else s).level g

def execIrcPendClear (q : Req) (g : Nat) (d : Word) (s : State) : Host.Outcome State Fault Refusal :=
  done (s.rowWrite q .irc 0 (0x48 + 16 * g) d fun s => (ircPendWrite g 0 d s).okay)

/-- `IRC_LINE_STAT` (Table 19-10). -/
def ircLineStat (s : State) : Nat :=
  (List.range 4).foldl (fun a n =>
    a + 2 ^ (16 * n) * (b2n (s.asserted n) * 2 ^ 15 + (s.stack n).length * 2 ^ 8 + (s.stack n).foldl (fun h p => h + 2 ^ p) 0)) 0

/-- `IRC_GCFG`k as read: the register with IN_HOLDOFF. -/
def ircGcfg (k : Nat) (s : State) : Nat :=
  (s.reg (Rg.IRC_GCFG.nth k)).toNat % 2 ^ 63 + b2n (s.irc.holdoffs.get? k).isSome * 2 ^ 63

/-- `PG_CTRL.UNIT_RESET` of IRC (R501): the registers have been reset; FATAL stays pending while the block is FAULTED, and
level conditions set their bits again. -/
def ircReset (s : State) : State :=
  have s := { s with irc := { prioStk := [], holdoffs := [], deferred := [], risen := [] } }
  [0, 7, 8, 12, 13, 14].foldl (fun s g => s.level g) s

end Sys2Proof.Machine
end

