-- ==== Sys2Proof/Machine/Pmu.lean ====
section
/-! DEFINITION. PMU (chapter 20): programmable counters, byte counters, the always-on set, bandwidth windows, the run log, replay
launches (R502 to R509, R512 to R515). -/

namespace Sys2Proof.Machine

/-! ### Commands at PRIV U (R505) -/

/-- RESULT 10 PRIV, data 0. -/
def State.winPriv (s : State) : WinOut := { s.winData [] with res := 10 }

/-- A PMU window command; a requester of PRIV U has `user` only. -/
def State.pmuCmd (s : State) (q : Req) (table op idx : Nat) (user : State → Bool) (body : State → WinOut) : State :=
  s.winCmd q .pmu 0 table op idx fun s => if q.priv.toNat = 0 ∧ !user s then s.winPriv else body s

/-! ### Programmable counters (R502 to R504) -/

/-- Programmable counters of the role. -/
def State.pctrs (s : State) : Nat := if s.isTray then 64 else 16

/-- The last EVENT of a unit type's rows of Table 20-2, and from which EVENT on they are G. -/
def eventRange (tray : Bool) : UnitKind → Nat × Nat
  | .mxe => (6, 7)
  | .tre => (4, 5)
  | .cor => (2, 3)
  | .eft => (if tray then 4 else 3, 5)
  | .cmp => (if tray then 6 else 4, 5)
  | .pmp => (3, 1)
  | .xlt => (4, 1)
  | .smp => (3, 1)
  | .slk => (4, 1)
  | .rdx => (2, 1)
  | .ups => (2, 1)
  | _ => (0, 1)

/-- The unit types that have events. -/
def eventUnits : List UnitKind := [.mxe, .tre, .cor, .eft, .cmp, .pmp, .xlt, .smp, .slk, .rdx, .ups]

/-- A configuration word that an enabled or idle counter may hold (R503). -/
def State.pctrOk (s : State) (c : Nat) : Bool :=
  match eventUnits.find? fun u => unitCode u == bits c 47 32 with
  | none => false
  | some u =>
    let (last, g) := eventRange s.isTray u
    let e := bits c 15 0
    let i := if bits c 31 24 = 0xFF then 0 else bits c 31 24
    (unitPage s.chip.role u i).isSome && s.chip.fitted u i && decide (1 ≤ e ∧ e ≤ last ∧ ¬(bit c 62 = true ∧ g ≤ e))

def State.pctr (s : State) (k : Nat) : PCtr := s.pmu.ctrs.getD k ⟨0, 0, 0⟩

/-- The USER bit of a counter. -/
def State.pctrUser (k : Nat) (s : State) : Bool := (s.pctr k).cfg.getLsbD 62

/-- READ of a counter: its live value and its configuration. -/
def pmuCtrRead (k : Nat) (s : State) : WinOut :=
  if k < s.pctrs then s.winData [BitVec.ofNat 64 (s.pctr k).val, (s.pctr k).cfg] k else s.win 2

def execPmuCtrRead (q : Req) (idx : Nat) (s : State) : Host.Outcome State Fault Refusal :=
  done (s.pmuCmd q 0 1 idx (State.pctrUser idx) (pmuCtrRead idx))

/-- READ_SNAP of a counter. -/
def pmuCtrReadSnap (k : Nat) (s : State) : WinOut :=
  if k < s.pctrs then s.winData [BitVec.ofNat 64 (s.pctr k).snap, (s.pctr k).cfg] k else s.win 2

def execPmuCtrReadSnap (q : Req) (idx : Nat) (s : State) : Host.Outcome State Fault Refusal :=
  done (s.pmuCmd q 0 4 idx (State.pctrUser idx) (pmuCtrReadSnap idx))

/-- WRITE of a counter: its configuration, and it is zeroed. -/
def pmuCtrWrite (k : Nat) (s : State) : WinOut :=
  let c := s.data .pmu 0 0 &&& 0xC000FFFFFF00FFFF
  if s.pctrs ≤ k then s.win 2
  else if !s.pctrOk c.toNat then s.win 6
  else { s with pmu := { s.pmu with ctrs := s.pmu.ctrs.set k ⟨c, 0, (s.pctr k).snap⟩ } }.win 0 k

def execPmuCtrWrite (q : Req) (idx : Nat) (s : State) : Host.Outcome State Fault Refusal :=
  done (s.pmuCmd q 0 2 idx (fun _ => false) (pmuCtrWrite idx))

/-- A write of `PMU_CTRL`: SNAP, then CLEAR. -/
def pmuCtrlWrite (d : Word) (s : State) : State :=
  have s := if d.getLsbD 0 then
      { s.bumpW Fd.PMU_STAT_SNAP_SEQ with
        pmu := { s.pmu with ctrs := s.pmu.ctrs.mapV fun _ (c : PCtr) => { c with snap := c.val } } }
    else s
  if d.getLsbD 1 then { s with pmu := { s.pmu with ctrs := s.pmu.ctrs.mapV fun _ (c : PCtr) => { c with val := 0 } } } else s

/-- PMU_SNAP. -/
def execPmuSnap (q : Req) (d : Word) (s : State) : Host.Outcome State Fault Refusal :=
  done (s.rowWrite q .pmu 0 0x48 (d ||| 1) fun s => (pmuCtrlWrite (d ||| 1) s).okay)

/-- PMU_CLEAR. -/
def execPmuClear (q : Req) (d : Word) (s : State) : Host.Outcome State Fault Refusal :=
  done (s.rowWrite q .pmu 0 0x48 (d ||| 2) fun s => (pmuCtrlWrite (d ||| 2) s).okay)

/-! ### Bytes and items (R506, R509) -/

/-- Wellheads fitted on a tray. -/
def State.pmuWells (s : State) : Nat := if s.isTray then (if s.chip.full then 128 else 64) else 0

/-- READ of a fixed byte counter (Table 20-4). -/
def pmuBytesRead (k : Nat) (s : State) : WinOut :=
  if k < 8 ∨ (16 ≤ k ∧ k ≤ 24) ∨ (s.isTray ∧ ((64 ≤ k ∧ k < 64 + 2 * s.pmuWells) ∨ (320 ≤ k ∧ k < 324))) then
    s.winData [BitVec.ofNat 64 (s.pmu.bytes.getD k 0)] k
  else s.win 2

def execPmuBytesRead (q : Req) (idx : Nat) (s : State) : Host.Outcome State Fault Refusal :=
  done (s.pmuCmd q 1 1 idx (fun _ => false) (pmuBytesRead idx))

/-- READ of an always-on item of a bank. -/
def pmuAonRead (k : Nat) (s : State) : WinOut :=
  let v := (if k < 16 then s.pmu.bank0 else s.pmu.bank1).getD (k % 16) 0
  let e := if k < 16 then s.pmu.ep0 else s.pmu.ep1
  if k < 32 then
    s.winData [if s.isTray ∧ 1 ≤ k % 16 ∧ k % 16 ≤ 7 then 0 else BitVec.ofNat 64 v, BitVec.ofNat 64 (e % 2 ^ 40)] k
  else s.win 2

def execPmuAonRead (q : Req) (idx : Nat) (s : State) : Host.Outcome State Fault Refusal :=
  done (s.pmuCmd q 2 1 idx (fun _ => false) (pmuAonRead idx))

/-- PMU_AON_SNAPSHOT, at the boundary that closes epoch `n` (R509). -/
def State.pmuBoundary (s : State) (n : Nat) : State :=
  { s.setFld Fd.PMU_STAT_AON_EPOCH 0 (n % 2 ^ 32) with
    pmu := { s.pmu with bank1 := s.pmu.bank0, ep1 := s.pmu.ep0, bank0 := s.pmu.cur, ep0 := n, cur := [] } }

/-! ### Bandwidth (R507, R508) -/

/-- The ports of R104 that are fitted. -/
def State.pmuPorts (s : State) : List Nat := if s.isTray then List.range s.pmuWells ++ [128, 129] else [0]

def State.bw (s : State) (p : Nat) : PortBw := s.pmu.bw.getD p ⟨0, 0, 0, 0, 0, 0, 0⟩

/-- READ of a port's windows; both peaks are cleared. -/
def pmuBwRead (p : Nat) (s : State) : WinOut :=
  if s.pmuPorts.contains p then
    let b := s.bw p
    { s with pmu := { s.pmu with bw := s.pmu.bw.set p { b with txPeak := 0, rxPeak := 0 } } }.winData
      [BitVec.ofNat 64 b.txLast, BitVec.ofNat 64 b.rxLast, BitVec.ofNat 64 b.txPeak, BitVec.ofNat 64 b.rxPeak,
       BitVec.ofNat 64 b.last] p
  else s.win 2

def execPmuBwRead (q : Req) (idx : Nat) (s : State) : Host.Outcome State Fault Refusal :=
  done (s.pmuCmd q 3 1 idx (fun _ => false) (pmuBwRead idx))

/-- The next boundary after now on a grid of `us` microseconds from the origin: its index and instant. -/
def State.nextWindow (s : State) (us : Nat) : Nat × Nat :=
  let len := us * 65536000
  let j := if s.now < s.origin then 0 else (s.now - s.origin) / len + 1
  (j, s.origin + j * len)

/-- A window ends: window `j` is stored where it is whole, and the counts restart. -/
def State.closeWindow (s : State) (j : Option Nat) : State :=
  s.pmuPorts.foldl (fun (s : State) p =>
    let b := s.bw p
    let b := match j with
      | some j => { b with txLast := b.tx, rxLast := b.rx, txPeak := max b.txPeak b.tx, rxPeak := max b.rxPeak b.rx, last := j }
      | none => b
    { s with pmu := { s.pmu with bw := s.pmu.bw.set p { b with tx := 0, rx := 0 } } }) s

/-- PMU_WINDOW_END: the next end of a window; a changed WIN_US takes over at the first boundary of the new length. Where no window runs,
the first one begins at the next boundary: a window of which TIME_VALID covers a part is none (DESIGN CHOICE, log entry 92). -/
def pmuWindowEnd (s : State) : State :=
  let us := s.fld Fd.PMU_CFG_WIN_US
  let old := s.pmu.winUs
  if !s.timeValid ∨ us = 0 then s
  else
    let (j, t) := s.nextWindow old
    let (_, t') := s.nextWindow us
    if us ≠ old ∧ (old = 0 ∨ t' ≤ t) then
      have s := (s.reachTime t').closeWindow (if t' = t ∧ 0 < j ∧ 0 < old then some (j - 1) else none)
      { s with pmu := { s.pmu with winUs := us } }
    else (s.reachTime t).closeWindow (if 0 < j then some (j - 1) else none)

def execPmuWindowEnd (s : State) : Host.Outcome State Fault Refusal := done (pmuWindowEnd s)

/-! ### Run log and replay (R512 to R514) -/

/-- READ of a run log entry. -/
def pmuRunlogRead (k : Nat) (s : State) : WinOut :=
  match s.pmu.log.find? fun (x : Nat × List Word) => x.1 % 2 ^ 32 == k with
  | some x => s.winData x.2 k
  | none => s.win 2

def execPmuRunlogRead (q : Req) (idx : Nat) (s : State) : Host.Outcome State Fault Refusal :=
  done (s.pmuCmd q 4 1 idx (fun _ => false) (pmuRunlogRead idx))

/-- RESULT of a replay request (R514). -/
def State.replayResult (s : State) (e k stop : Nat) : Nat :=
  let sl := (s.mx e).slot k
  if s.mxeCount ≤ e ∨ !s.live .mxe e then 2
  else if !sl.valid ∨ !sl.hasCtx ∨ (stop ≠ 0xFFFF ∧ sl.nInstr ≤ stop) then 1
  else if (s.mx e).hasRun k then 3 else 0

/-- A write of `PMU_REPLAY`. -/
def pmuReplayWrite (d : Word) (s : State) : State :=
  if !d.getLsbD 63 then s
  else
    let v := d.toNat
    let e := bits v 59 56
    let k := bits v 62 60
    let res := s.replayResult e k (bits v 55 40)
    have s := (s.setFld Fd.PMU_REPLAY_STAT_VALID 0 1).setFld Fd.PMU_REPLAY_STAT_RESULT 0 res
    if res = 0 then s.mxeLaunch e { s.newRun e k (bits v 39 0) with replay := true, stop := bits v 55 40 } else s

/-- PMU_REPLAY. -/
def execPmuReplay (q : Req) (d : Word) (s : State) : Host.Outcome State Fault Refusal :=
  done (s.rowWrite q .pmu 0 0x60 d fun s => (pmuReplayWrite d s).okay)

/-- `PG_CTRL.UNIT_RESET` of PMU (R515). -/
def pmuReset (s : State) : State :=
  { s with pmu := { ctrs := [], bytes := [], cur := [], bank0 := [], ep0 := 0, bank1 := [], ep1 := 0, bw := []
                    winUs := 0, log := [] } }

end Sys2Proof.Machine
end

