-- ==== Sys2Proof/Machine/Capture.lean ====
section
/-! DEFINITION. CAP's commands, uploads and tables (chapter 17): R436 to R441, R450. -/

namespace Sys2Proof.Machine

/-- Rings of the role (R433). -/
def State.rings (s : State) : Nat := if s.isTray then 16 else 4

/-- A ring whose entry is VALID. -/
def State.ring? (s : State) (r : Nat) : Option Ring := (s.cap.rings.get? r).filter (·.valid)

/-- `CAP_STAT` (Table 17-8). -/
def State.capStat (s : State) : Nat :=
  (s.cap.rings.map fun (x : Nat × Ring) => (x.2.st + b2n x.2.uploaded * 8) * 2 ^ (4 * x.1)).sum

/-! ### `CAP_CTRL` and `CAP_TRIG` (R437, R438) -/

/-- The rows kept for a stalled ring go. -/
def State.dropKept (s : State) (r : Nat) : State :=
  { s with cap := { s.cap with buf := s.cap.buf.filter fun (b : Nat × Bytes) => b.1 != r } }

/-- A ring becomes ARMED (Table 17-3). -/
def State.ringArm (s : State) (r : Nat) (g : Ring) : State :=
  (s.dropKept r).setRing r { g with st := 1, wp := 0, oldest := 0, wrapped := false, heads := [], uploaded := false, lostRows := 0
                                    txHeads := 0, txRows := 0, trigAt := none, offAt := none }

/-- A message of an upload leaves: on a leaf on VC3, on a tray under route class 3 (R440, R441). -/
def State.capSend (s : State) (m : Bytes) : State := if s.isTray then s.route 3 m else s.sendMsg 0 3 m

/-- An operation of `CAP_CTRL` on one ring; none where Table 17-3 gives no transition. -/
def State.capOp (s : State) (op r : Nat) : Option State :=
  match s.ring? r with
  | none => none
  | some g =>
    if op = 1 ∧ (g.st = 0 ∨ g.st = 3) then some (s.ringArm r g)
    else if op = 2 ∧ (g.st = 1 ∨ g.st = 2 ∨ g.st = 3) then some ((s.dropKept r).setRing r { g with st := 0, offAt := if g.st = 1 then some s.aon else none })
    else if op = 3 ∧ g.st = 3 then some (s.setRing r g.startUpload)
    else if op = 4 ∧ g.st = 4 then
      match g.up with
      | some u => some ((((s.capSend (s.capEnd r 2 g u)).uploadClose r 2 g)).endXfer 9 r)
      | none => some (s.setRing r { g with st := 3 })
    else none

/-- A write of `CAP_CTRL`: every ring of the mask is served; one that cannot be sets UNIT_CAUSE 1. -/
def capCtrlWrite (d : Word) (s : State) : State :=
  (List.range 16).foldl (fun (s : State) r =>
    if d.getLsbD r then
      match s.capOp (bits d.toNat 63 60) r with
      | some s => s
      | none => s.pgErr .cap 0 .unit 0x58 1
    else s) s

/-- One OP written to `CAP_CTRL`. -/
def capCtrl (q : Req) (op : Nat) (rings : BitVec 16) (s : State) : State :=
  let d := BitVec.ofNat 64 (op * 2 ^ 60 + rings.toNat)
  s.rowWrite q .cap 0 0x58 d fun s => (capCtrlWrite d s).okay

def execCapArm (q : Req) (rings : BitVec 16) (s : State) : Host.Outcome State Fault Refusal := done (capCtrl q 1 rings s)
def execCapDisarm (q : Req) (rings : BitVec 16) (s : State) : Host.Outcome State Fault Refusal := done (capCtrl q 2 rings s)
def execCapUpload (q : Req) (rings : BitVec 16) (s : State) : Host.Outcome State Fault Refusal := done (capCtrl q 3 rings s)
def execCapCancel (q : Req) (rings : BitVec 16) (s : State) : Host.Outcome State Fault Refusal := done (capCtrl q 4 rings s)

/-- A write of `CAP_TRIG`: cause SW on every ring named. -/
def capTrigWrite (d : Word) (s : State) : State :=
  (List.range s.rings).foldl (fun (s : State) r => if d.getLsbD r then s.capTrigger r 1 else s) s

def execCapTrigWrite (q : Req) (d : Word) (s : State) : Host.Outcome State Fault Refusal :=
  done (s.rowWrite q .cap 0 0x50 d fun s => (capTrigWrite d s).okay)

/-! ### Uploads (R439 to R441) -/

/-- Capture bytes a CAP_DATA carries at most. -/
def State.capChunk (s : State) : Nat :=
  if s.isTray then min 16352 (s.fld Fd.UP_CFG_MTU (s.routeOf 3).port - 40) / 8 * 8 else 16352

/-- The ranges, from BASE, of `n` bytes of a ring's capture from `off` (R434). -/
def Ring.ranges (g : Ring) (off n : Nat) : List (Nat × Nat) :=
  if g.wrapped then
    let first := 2 ^ g.log2 - g.oldest
    let a := if off < first then min n (first - off) else 0
    (if a = 0 then [] else [(g.base + g.oldest + off, a)]) ++ (if a = n then [] else [(g.base + (off + a - first), n - a)])
  else [(g.base + off, n)]

/-- `n` bytes of a tray ring's capture from `off`. -/
def State.captureBytes (s : State) (g : Ring) (off n : Nat) : Bytes := (g.ranges off n).flatMap fun x => Mem.read s.hbm x.1 x.2

/-- The next message of an upload may leave: on a leaf the domain is primed, the lane ACTIVE, VC3 empty and the ring's read not
stalled. -/
def State.mayUpload (s : State) (r : Nat) : Bool :=
  s.live .cap && (s.isTray || (s.primed && s.laneActive 0 && ((s.lane 0).txq.getD 3 []).isEmpty && !s.ringStalled r))

/-- A leaf's read of the capture's next `n` bytes as a transfer of client 9: the bytes once they have arrived, and the state, the read
begun where it was not. A write of the ring still in progress comes first. -/
def State.ringFetch (s : State) (r : Nat) (g : Ring) (off n : Nat) : Option Bytes × State :=
  let start := (s.endXfer 9 r).beginRanges 9 r (s.fld Fd.CAP_CFG_PUMP_CH) (s.fld Fd.CAP_CFG_XLT_CTX) (g.ranges off n) false [] false
  match s.xfer? 9 r with
  | none => (none, start)
  | some x =>
    if x.write then (none, s)
    else if x.ranges ≠ g.ranges off n then (none, start)
    else if x.full then (some x.bytes, s.endXfer 9 r)
    else (none, s)

/-- CAP_UPLOAD_SEND: the next CAP_DATA, once a leaf's read of its bytes has returned, or CAP_END. -/
def capUploadSend (r : Nat) (s : State) : State :=
  match s.ring? r with
  | some g =>
    match g.up with
    | some u =>
      if g.st ≠ 4 ∨ !s.mayUpload r ∨ (s.isTray ∧ s.routeHeld 3) then s
      else if u.total ≤ u.offset then ((s.capSend (s.capEnd r 0 g u)).uploadClose r 0 g).endXfer 9 r
      else
        let n := min s.capChunk (u.total - u.offset)
        match if s.isTray then (some (s.captureBytes g u.offset n), s.bytes 2 n) else s.ringFetch r g u.offset n with
        | (none, s) => s
        | (some b, s) =>
          have s := s.capSend (s.capHead r 0x50 g u ++ leBytes 2 0 ++ leBytes 8 u.offset ++ b)
          s.setRing r { g with up := some { u with offset := u.offset + n, crc := BitVec.ofNat 32 (crc32cFrom u.crc.toNat b) } }
    | none => s
  | none => s

def execCapUploadSend (r : Nat) (s : State) : Host.Outcome State Fault Refusal := done (capUploadSend r s)

/-- The transfer of a ring ended by ABORT or a timeout: an upload ends with STATUS 1; otherwise the rows are lost (R435, R440). -/
def State.capAborted (s : State) (r : Nat) : State :=
  match s.ring? r with
  | some g =>
    match g.up with
    | some u => (s.capSend (s.capEnd r 1 g u)).uploadClose r 1 g
    | none => s.ringLost r
  | none => s

/-! ### The ring table (Table 17-9) -/

def Ring.words (g : Ring) : List Word :=
  [BitVec.ofNat 64 g.base,
   BitVec.ofNat 64 (b2n g.valid * 2 ^ 63 + b2n g.autoUp * 2 ^ 62 + b2n g.autoRe * 2 ^ 61 + g.log2 * 2 ^ 32 + g.postRows),
   BitVec.ofNat 64 g.groups.toNat,
   BitVec.ofNat 64 (g.trigEn.toNat * 2 ^ 60 + g.minSev * 2 ^ 56 + g.vcode * 2 ^ 48 + g.thGroup * 2 ^ 40 + g.thCmp * 2 ^ 32 + g.thCtr),
   g.thValue, BitVec.ofNat 64 (g.classes.toNat * 256 + g.wellhead),
   BitVec.ofNat 64 (g.st * 2 ^ 61 + b2n g.wrapped * 2 ^ 60 + g.wp), BitVec.ofNat 64 (g.capSeq * 2 ^ 32),
   BitVec.ofNat 64 g.oldest, BitVec.ofNat 64 (time96 g.trigTime), BitVec.ofNat 64 (time96 g.trigTime / 2 ^ 64)]

/-- READ of a ring table entry. -/
def capRingRead (k : Nat) (s : State) : WinOut :=
  if s.rings ≤ k then s.win 2
  else s.winData (match s.cap.rings.get? k with | some g => g.words | none => []) k

def execCapRingRead (q : Req) (idx : Nat) (s : State) : Host.Outcome State Fault Refusal :=
  done (s.winCmd q .cap 0 0 1 idx (capRingRead idx))

/-- The ring the data words spell, its state and counts as they were. -/
def State.ringEntryOf (s : State) (k : Nat) : Ring :=
  let d := fun n => (s.data .cap 0 n).toNat
  let g : Ring :=
    { valid := bit (d 1) 63, base := bits (d 0) 47 0, autoUp := bit (d 1) 62, autoRe := bit (d 1) 61, log2 := bits (d 1) 37 32
      postRows := bits (d 1) 31 0, groups := s.data .cap 0 2, trigEn := BitVec.ofNat 3 (bits (d 3) 62 60)
      minSev := bits (d 3) 58 56, vcode := bits (d 3) 55 48, thGroup := bits (d 3) 45 40, thCmp := bits (d 3) 32 32
      thCtr := bits (d 3) 13 0, thValue := s.data .cap 0 4
      classes := if s.isTray then BitVec.ofNat 4 (bits (d 5) 11 8) else 0, wellhead := if s.isTray then bits (d 5) 7 0 else 0
      st := 0, wrapped := false, wp := 0, oldest := 0, capSeq := 0, trigTime := 0, trigEp := 0, trigJob := 0, trigGen := 0, trigAt := none, offAt := none
      cause := 0, postLeft := 0, uploaded := false, lostRows := 0, heads := [], txWp := 0, txHeads := 0, txRows := 0, up := none }
  match s.cap.rings.get? k with
  | none => g
  | some o => { g with wrapped := o.wrapped, wp := o.wp, oldest := o.oldest, capSeq := o.capSeq, trigTime := o.trigTime
                       trigEp := o.trigEp, trigJob := o.trigJob, trigGen := o.trigGen, cause := o.cause, uploaded := o.uploaded
                       heads := o.heads }

/-- The conditions on an entry (R433, R437, R450), for ring `k`: the fields' ranges, and where a VALID ring may lie. -/
def State.ringOk (s : State) (k : Nat) (g : Ring) : Bool :=
  let others := s.cap.rings.filter fun (x : Nat × Ring) => x.1 != k && x.2.valid
  let storeAt := s.fld Fd.CIS_STORE_BASE_MIB * 2 ^ 20
  let storeEnd := storeAt + s.fld Fd.CIS_STORE_SIZE_MIB * 2 ^ 20
  decide (16 ≤ g.log2 ∧ g.log2 ≤ (if s.isTray then 36 else 32) ∧ 2 ≤ g.minSev ∧ g.minSev ≤ 5 ∧
      (!s.isTray ∨ g.wellhead < s.wellheads ∨ g.wellhead = 0xFF)) &&
    (if !g.valid then true
     else if s.isTray then
      decide (g.base % 2 ^ 20 = 0 ∧ storeAt ≤ g.base ∧ g.base + 2 ^ g.log2 ≤ storeEnd) &&
        others.all fun (x : Nat × Ring) => !meets g.base (2 ^ g.log2) x.2.base (2 ^ x.2.log2)
     else decide ((others.map fun (x : Nat × Ring) => 2 ^ x.2.log2).sum + 2 ^ g.log2 ≤ 2 ^ 32))

/-- WRITE of the entry of an OFF ring. -/
def capRingWrite (k : Nat) (s : State) : WinOut :=
  if s.rings ≤ k then s.win 2
  else if (s.cap.rings.get? k).any fun (g : Ring) => g.st != 0 then s.win 7
  else
    let g := s.ringEntryOf k
    if !s.ringOk k g then s.win 6 else (s.setRing k g).win 0 k

def execCapRingCfgWrite (q : Req) (idx : Nat) (s : State) : Host.Outcome State Fault Refusal :=
  done (s.winCmd q .cap 0 0 2 idx (capRingWrite idx))

/-- READ of a 256-byte line of a tray ring. -/
def capLineRead (r k : Nat) (s : State) : WinOut :=
  if !s.isTray ∨ 16 ≤ r then s.win 3
  else match s.ring? r with
  | some g => if 256 * k < 2 ^ g.log2 then (s.bytes 2 256).winData (toWords 32 (Mem.read s.hbm (g.base + 256 * k) 256)) k else s.win 2
  | none => s.win 2

def execCapLineRead (q : Req) (r idx : Nat) (s : State) : Host.Outcome State Fault Refusal :=
  done (s.winCmd q .cap 0 (16 + r) 1 idx (capLineRead r idx))

/-- `PG_CTRL.UNIT_RESET` of CAP: uploads end with STATUS 3 and every ring turns OFF (R440, R452). -/
def capReset (s : State) : State :=
  have s := s.cap.rings.foldl (fun (s : State) (x : Nat × Ring) =>
    match x.2.up with
    | some u =>
      have s := if s.isTray ∨ s.laneActive 0 then s.capSend (s.capEnd x.1 3 x.2 u) else s
      s.uploadClose x.1 3 x.2
    | none => s) s
  have s := (List.range 16).foldl (fun (s : State) r => s.endXfer 9 r) s
  { s with cap := { rings := s.cap.rings.mapV fun _ g => { g with st := 0, lostRows := 0, txHeads := 0, txRows := 0, trigAt := none, offAt := none }, buf := [] } }

end Sys2Proof.Machine
end

