-- ==== Sys2Proof/Machine/Htp.lean ====
section
/-! DEFINITION. HTP, the host trace (17.4 to 17.6, R442 to R449, R451). -/

namespace Sys2Proof.Machine

/-! ### Packets (Table 17-6) -/

/-- LEB128 of a value of at most 64 bits. -/
def lebOf : Nat → Nat → Bytes
  | 0, _ => []
  | n + 1, v => if v < 128 then [BitVec.ofNat 8 v] else BitVec.ofNat 8 (v % 128 + 128) :: lebOf n (v / 128)

def leb (v : Nat) : Bytes := lebOf 10 v

def pktSync (reason src : Nat) (asleep : Bool) (t addr : Nat) : Bytes :=
  leBytes 1 (0x10 + reason) ++ leBytes 1 src ++ leBytes 2 (b2n asleep) ++ timeBytes t ++ leBytes 8 addr

def pktOverflow (cause t lost : Nat) : Bytes :=
  leBytes 1 0x30 ++ leBytes 1 cause ++ leBytes 2 0 ++ timeBytes t ++ leBytes 4 (min lost 0xFFFFFFFF)

def pktPower (st : Nat) (implicit : Bool) (src t : Nat) : Bytes :=
  leBytes 1 (0x40 + st + 2 * b2n implicit) ++ leBytes 1 src ++ leBytes 2 0 ++ timeBytes t

def pktLost (src t : Nat) : Bytes := leBytes 1 0x50 ++ leBytes 1 src ++ leBytes 2 0 ++ timeBytes t

/-! ### The buffer (R448) -/

def htpBuf : Nat := 262144

/-- Less than 64 bytes are free. -/
def State.htpFull (s : State) : Bool := decide (htpBuf < s.htp.buf.length + 64)

/-- Packets are emitted: TRACING or POST. -/
def State.htpEmits (s : State) : Bool := s.htp.est == 1 || s.htp.est == 2

/-- Packets stamped `t` join the buffer; one that leaves it full begins an episode of the MODE in force. -/
def State.htpPut (s : State) (t : Nat) (p : Bytes) : State :=
  have s := { s with htp := { s.htp with buf := s.htp.buf ++ p, lastNs := t / 65536, lastPkt := s.aon } }
  if s.htpFull ∧ !s.htp.dropping then
    if s.fld Fd.HTP_CFG_MODE = 0 then { s with htp := { s.htp with dropping := true, dropped := 0 } }
    else if s.htp.stallAt.isNone then { s with htp := { s.htp with stallAt := some s.aon } } else s
  else s

/-- A packet's stamp, of its fast cycle (R113); packets leave in the order of their stamps. -/
def State.htpStamp (s : State) : Nat × State :=
  let (t, s) := s.fastStamp
  (max t (s.htp.lastNs * 65536), s)

/-- A packet of the stream, with its stamp, unless the machine emits none or beats are being dropped. -/
def State.htpEmit (s : State) (p : Nat → Bytes) : State :=
  if s.htpEmits ∧ !s.htp.dropping then
    let (t, s) := s.htpStamp
    s.htpPut t (p t)
  else s

def State.trSrc (s : State) (i : Nat) : TrSrc := s.htp.srcs.getD i ⟨0, 0, 0, 0, 0, false⟩
def State.setTrSrc (s : State) (i : Nat) (t : TrSrc) : State := { s with htp := { s.htp with srcs := s.htp.srcs.set i t } }

/-- A SYNC is owed by every source. -/
def State.oweAll (s : State) (reason : Nat) : State :=
  { s with htp := { s.htp with srcs := s.htp.srcs.mapV fun _ (r : TrSrc) => { r with owed := reason } } }

/-- An episode of dropped beats ends once 64 KiB are free; a stall ends once the buffer is no longer full. -/
def State.htpRoom (s : State) : State :=
  if s.htp.dropping then
    if s.htp.buf.length + 65536 ≤ htpBuf then
      let n := s.htp.dropped
      let hit := s.htp.stallHit
      have s := { s with htp := { s.htp with dropping := false, dropped := 0, stallHit := false } }
      have s := ((s.htpEmit fun t => pktOverflow (if hit then 3 else 1) t n).oweAll 4).bump Fd.HTP_CNT_DROP_BEATS 0 n
      if hit then s else s.fault .htp 0 1
    else s
  else if s.htpFull then s else { s with htp := { s.htp with stallAt := none } }

/-! ### Sources (R443) -/

/-- Sources follow `HTP_SRC_EN` and `PG_CTRL.ENABLE`: a newly enabled one is AWAKE, a disabled one is forgotten. -/
def State.htpSources (s : State) : State :=
  let en := s.reg Rg.HTP_SRC_EN
  let keep := fun i => s.enabled .htp && en.getLsbD i
  have s := { s with htp := { s.htp with srcs := s.htp.srcs.drop fun i => !keep i } }
  (List.range 64).foldl (fun (s : State) i =>
    if keep i && (s.htp.srcs.get? i).isNone then s.setTrSrc i ⟨1, 0, 0, 0, s.aon, false⟩ else s) s

/-- Bits of the sources in a state. -/
def State.srcsIn (s : State) (st : Nat) : Nat :=
  (s.htp.srcs.map fun (x : Nat × TrSrc) => b2n (x.2.st == st) * 2 ^ x.1).sum

/-- TRACE_SOURCE_TIMEOUT. -/
def traceSourceTimeout (i : Nat) (s : State) : State :=
  let r := s.trSrc i
  if s.live .htp ∧ r.st = 1 then
    have s := s.reach (r.lastBeat + s.fld Fd.HTP_CFG_SRC_TMO_US * cyUs)
    have s := (s.setTrSrc i { r with st := 3, owed := 5 }).htpEmit (pktLost i)
    (s.bump Fd.HTP_CNT_LOST_SOURCE).fault .htp 0 0
  else s

def execTraceSourceTimeout (i : Nat) (s : State) : Host.Outcome State Fault Refusal := done (traceSourceTimeout i s)

/-! ### Beats (R442, R444 to R447) -/

/-- `TRACE_READY`: the domain is PRIMED and the port does not stall. -/
def State.traceReady (s : State) : Bool := s.primed && (s.htp.dropping || s.htp.stallAt.isNone)

/-- A filter matches an access beat. -/
def Filter.hits (f : Filter) (src kind addr : Nat) : Bool :=
  decide (f.mode ≠ 0 ∧ f.lo ≤ addr ∧ addr ≤ f.hi) && f.kinds.getLsbD kind && f.srcs.getLsbD src

/-- The filters that match, in their order. -/
def State.filtersFor (s : State) (src kind addr : Nat) : List Filter :=
  (s.htp.filters.map fun (x : Nat × Filter) => x.2).filter fun f => f.hits src kind addr

/-- A traced access: a SYNC before it where one is due, then ACCESS. -/
def State.traceAccess (s : State) (i kind size addr data : Nat) (val asleep : Bool) : State :=
  let r := s.trSrc i
  let reason := if r.owed ≠ 0 then r.owed else if !r.ever then 2
    else if s.fld Fd.HTP_CFG_SYNC_PERIOD ≤ r.since then 1 else 0
  let (t, s) := s.htpStamp
  let sync := if reason = 0 then [] else pktSync reason i asleep t addr
  let dt := if reason = 0 then t / 65536 - s.htp.lastNs else 0
  let da := if reason = 0 then zigzag (wrapI ((addr : Int) - r.addr) 64) else 0
  let acc := leBytes 1 (0x20 + b2n val * 8 + size) ++ leBytes 1 (kind * 64 + i) ++ leb dt ++ leb da ++
    (if val then leBytes (2 ^ size) data else [])
  (s.setTrSrc i { r with owed := 0, addr, since := if reason = 0 then r.since + 1 else 1, ever := true }).htpPut t (sync ++ acc)

/-- A traced beat counts toward POST_BEATS. -/
def State.postBeat (s : State) : State :=
  if s.htp.est = 2 then
    if s.htp.postLeft ≤ 1 then s.htpStopped else { s with htp := { s.htp with postLeft := s.htp.postLeft - 1 } }
  else s

/-- An access beat that is not dropped. -/
def State.accessBeat (s : State) (i kind size addr data : Nat) (asleep : Bool) : State :=
  let fs := s.filtersFor i kind addr
  have s := if fs.any fun f => f.mode == 4 then s.htpStart else s
  have s := if fs.any fun f => f.mode == 5 then s.htpStop else s
  match fs.find? fun f => f.mode == 1 || f.mode == 2 with
  | some f =>
    if s.htpEmits ∧ !s.htp.dropping ∧ !(fs.any fun f => f.mode == 3) then (s.traceAccess i kind size addr data (f.mode == 2) asleep).postBeat else s
  | none => s

/-- TRACE_BEAT. -/
def traceBeat (i kind size addr data : Nat) (s : State) : State :=
  if !(s.chip.fitted .htp 0) || !s.live .htp || !s.traceReady || decide (64 ≤ i) then s
  else if (s.reg Rg.HTP_SRC_EN).getLsbD i = false ∨ ¬(kind ≤ 2 ∨ kind = 12 ∨ kind = 14 ∨ kind = 15) then s.bump Fd.HTP_CNT_DISCARD
  else
    let r := s.trSrc i
    let asleep := r.st == 2
    let drop := s.htp.dropping && s.htpEmits
    have s := if drop then { s with htp := { s.htp with dropped := s.htp.dropped + 1 } } else s
    if kind = 14 then
      have s := (s.setTrSrc i { r with st := 2, lastBeat := s.aon }).htpEmit (pktPower 0 false i)
      if s.htpEmits ∧ !drop then s.htpFlush.htpRoom else s
    else
      let owed := if kind = 15 ∨ (asleep ∧ kind ≤ 2) then 3 else r.owed
      have s := s.setTrSrc i { r with st := 1, lastBeat := s.aon, owed := if drop then r.owed else owed }
      if kind = 15 then s.htpEmit (pktPower 1 false i)
      else if kind = 12 ∨ drop then s
      else
        have s := if asleep then s.htpEmit (pktPower 1 true i) else s
        s.accessBeat i kind (size % 4) addr data asleep

def execTraceBeat (src : Nat) (kind : Nat) (size : Nat) (addr data : Word) (s : State) : Host.Outcome State Fault Refusal :=
  done (traceBeat src kind size addr.toNat data.toNat s)

/-! ### Drain (R448, R449) -/

/-- HTP_FLUSH_TIMER: a partial line is padded FLUSH_US after the last packet. -/
def htpFlushTimer (s : State) : State :=
  if s.live .htp ∧ s.htp.buf.length % 256 ≠ 0 then (s.reach (s.htp.lastPkt + s.fld Fd.HTP_CFG_FLUSH_US * cyUs)).htpFlush else s

def execHtpFlushTimer (s : State) : Host.Outcome State Fault Refusal := done (htpFlushTimer s)

/-- The ring has room for a line. -/
def State.htpRingRoom (s : State) : Bool :=
  s.fld Fd.HTP_CFG_FILL == 1 ||
    decide (wrapI ((s.htp.prod : Int) - s.htp.cons) 32 + 256 ≤ 2 ^ s.fld Fd.HTP_RING_LOG2_SIZE)

/-- HTP_DRAIN: a whole line goes to the host ring, then PROD: one transfer of client 10, the line waiting in the buffer meanwhile. -/
def htpDrain (s : State) : State :=
  if s.live .htp ∧ s.primed ∧ 256 ≤ s.htp.buf.length ∧ s.htpRingRoom ∧ (s.xfer? 10 0).isNone then
    let va := s.fld Fd.HTP_RING_RING_VA * 4096 + s.htp.prod % 2 ^ s.fld Fd.HTP_RING_LOG2_SIZE
    s.beginRanges 10 0 (s.fld Fd.HTP_XLT_PUMP_CH) (s.fld Fd.HTP_XLT_XLT_CTX) [(va, 256), (s.fld Fd.HTP_PTRS_PTRS_VA * 8, 8)] true
      (s.htp.buf.take 256 ++ leBytes 8 ((s.htp.prod + 256) % 2 ^ 32)) true
  else s

/-- The line and PROD are in the ring. -/
def State.htpDrained (s : State) : State :=
  have s := { s with htp := { s.htp with buf := s.htp.buf.drop 256, prod := (s.htp.prod + 256) % 2 ^ 32 } }
  ((s.addReg Rg.HTP_BYTES 0 256).endXfer 10 0).htpRoom

def execHtpDrain (s : State) : Host.Outcome State Fault Refusal := done (htpDrain s)

/-- The drain's transfer ended by ABORT or a timeout: its line is lost (R449). -/
def State.htpLost (s : State) : State :=
  have s := { s with htp := { s.htp with buf := s.htp.buf.drop 256 } }
  ((s.htpEmit fun t => pktOverflow 2 t 256).oweAll 4).bump Fd.HTP_CNT_DRAIN_ABORT

/-- HTP_CONS_POLL: CONS as the driver has it. -/
def htpConsPoll (cons : Nat) (s : State) : State :=
  if s.live .htp ∧ s.primed then { s with htp := { s.htp with cons := cons % 2 ^ 32 } } else s

def execHtpConsPoll (cons : Nat) (s : State) : Host.Outcome State Fault Refusal := done (htpConsPoll cons s)

/-- HTP_STALL_TIMEOUT. -/
def htpStallTimeout (s : State) : State :=
  match s.htp.stallAt with
  | some t =>
    if s.live .htp ∧ !s.htp.dropping then
      have s := s.reach (t + s.fld Fd.HTP_CFG_STALL_MAX_US * cyUs)
      have s := { s with htp := { s.htp with dropping := true, dropped := 0, stallHit := true, stallAt := none } }
      (s.bump Fd.HTP_CNT_STALL_LIMITS).fault .htp 0 2
    else s
  | none => s

def execHtpStallTimeout (s : State) : Host.Outcome State Fault Refusal := done (htpStallTimeout s)

/-! ### `HTP_CTRL` (R445) -/

/-- A write of `HTP_CTRL`: START, then STOP, then REARM. -/
def htpCtrlWrite (d : Word) (s : State) : State :=
  if !s.live .htp then s
  else
    have s := if d.getLsbD 0 then s.htpStart else s
    have s := if d.getLsbD 1 then s.htpStop else s
    if d.getLsbD 2 ∧ s.htp.est = 3 then { s with htp := { s.htp with est := 0 } } else s

def htpCtrl (q : Req) (d : Word) (s : State) : State := s.rowWrite q .htp 0 0x70 d fun s => (htpCtrlWrite d s).okay

def execHtpStart (q : Req) (s : State) : Host.Outcome State Fault Refusal := done (htpCtrl q 1 s)
def execHtpStop (q : Req) (s : State) : Host.Outcome State Fault Refusal := done (htpCtrl q 2 s)
def execHtpRearm (q : Req) (s : State) : Host.Outcome State Fault Refusal := done (htpCtrl q 4 s)

/-! ### Filters (R451) -/

/-- READ of a filter. -/
def htpFilterRead (k : Nat) (s : State) : WinOut :=
  if 8 ≤ k then s.win 2
  else match s.htp.filters.get? k with
  | some f => s.winData [BitVec.ofNat 64 f.lo, BitVec.ofNat 64 f.hi, BitVec.ofNat 64 (f.kinds.toNat * 256 + f.mode), f.srcs] k
  | none => s.winData [] k

def execHtpFilterRead (q : Req) (idx : Nat) (s : State) : Host.Outcome State Fault Refusal :=
  done (s.winCmd q .htp 0 0 1 idx (htpFilterRead idx))

/-- WRITE of a filter. -/
def htpFilterWrite (k : Nat) (s : State) : WinOut :=
  let d := (s.data .htp 0 2).toNat
  let f : Filter := { lo := (s.data .htp 0 0).toNat, hi := (s.data .htp 0 1).toNat, mode := bits d 2 0
                      kinds := BitVec.ofNat 8 (bits d 15 8), srcs := s.data .htp 0 3 }
  if 8 ≤ k then s.win 2
  else if 5 < f.mode ∨ f.hi < f.lo then s.win 6
  else { s with htp := { s.htp with filters := s.htp.filters.set k f } }.win 0 k

def execHtpFilterWrite (q : Req) (idx : Nat) (s : State) : Host.Outcome State Fault Refusal :=
  done (s.winCmd q .htp 0 0 2 idx (htpFilterWrite idx))

/-- `PG_CTRL.UNIT_RESET` of HTP: the buffer is discarded, the event machine is IDLE (R452); the filters stay. -/
def htpReset (s : State) : State :=
  { s with htp := { filters := s.htp.filters, srcs := [], est := 0, stopAt := none, buf := [], lastNs := 0, postLeft := 0, dropping := false
                    dropped := 0, stallAt := none, stallHit := false, prod := 0, cons := 0, lastPkt := 0 } }.endXfer 10 0

end Sys2Proof.Machine
end

