-- ==== Sys2Proof/Machine/Pmp.lean ====
section
/-! DEFINITION. PMP (11.1 to 11.3, 11.7, 11.8): rings and polling, descriptors, segments, writebacks, aborts, the channel table. -/

namespace Sys2Proof.Machine

/-! ### Descriptors (Table 11-1) -/

def PDesc.src (d : PDesc) : Nat := rdLE d.bytes 0 8
def PDesc.dst (d : PDesc) : Nat := rdLE d.bytes 8 8
def PDesc.len (d : PDesc) : Nat := rdLE d.bytes 16 4
def PDesc.op (d : PDesc) : Nat := rdLE d.bytes 20 1
def PDesc.irq (d : PDesc) : Bool := bit (rdLE d.bytes 21 1) 0
def PDesc.fence (d : PDesc) : Bool := bit (rdLE d.bytes 21 1) 1
def PDesc.pattern (d : PDesc) : Bytes := (d.bytes.drop 24).take 8

/-- Segments of a descriptor (R282). -/
def PDesc.segs (d : PDesc) : Nat := ceilDiv d.len 256

/-- The lowest number below `n` that a list does not hold. -/
def firstNot (l : List Nat) (n : Nat) : Nat := ((List.range n).find? fun k => !l.contains k).getD n

/-- The checkpoint of a transfer (R282). -/
def PDesc.checkpoint (d : PDesc) : Nat := min (256 * firstNot d.seen d.segs) d.len

/-- A descriptor of a channel is BAD_DESC (R279). -/
def badDesc (c : Chan) (d : PDesc) : Bool :=
  let z := fun o n => rdLE d.bytes o n != 0
  let hi := fun a => decide (2 ^ 48 ≤ a)
  let outOf := fun a => decide (c.sramSize * 4096 < a + d.len)
  decide (d.op < 1 ∨ 4 < d.op ∨ d.len = 0 ∨ 2 ^ 30 < d.len) || z 22 2 || z 40 8 || z 56 4 ||
    decide (4 ≤ rdLE d.bytes 21 1) || (d.op == 4 && d.src != 0) ||
    (if d.op = 1 ∨ d.op = 3 then hi d.src else d.op == 2 && outOf d.src) ||
    (if d.op = 1 then outOf d.dst else hi d.dst) ||
    (c.chkDesc && rdLE d.bytes 60 4 != crc32c (d.bytes.take 48 ++ List.replicate 8 0 ++ (d.bytes.drop 56).take 4))

/-- Address of a ring slot (R275). -/
def Chan.slotVa (c : Chan) (i : Nat) : Nat := c.ringVa + 64 * (i % 2 ^ c.log2)

/-! ### Halts and endings -/

/-- A channel halts (R303). -/
def State.haltChan (s : State) (c cause : Nat) : State :=
  have s := s.setChan c { s.chan c with halt := cause }
  let old := s.fld Fd.PMP_LAST_ERR_STATUS
  have st := if cause = 3 then old else 0
  have idx := if cause = 3 then s.fld Fd.PMP_LAST_ERR_INDEX else (s.chan c).cons
  (s.setReg Rg.PMP_LAST_ERR 0 (BitVec.ofNat 64 (2 ^ 63 + c * 2 ^ 56 + st * 2 ^ 48 + cause * 2 ^ 40 + idx))).fault .pmp 0 3

/-- A channel's descriptor with an index, changed. -/
def State.modDesc (s : State) (c idx : Nat) (f : PDesc → PDesc) : State :=
  let ch := s.chan c
  s.setChan c { ch with descs := ch.descs.map fun d => if d.index = idx then f d else d }

/-- A descriptor ends with a status other than OK: counted and raised at once, written back when its segments have returned
(R279, R281, R299). -/
def State.endDesc (s : State) (c idx status : Nat) : State :=
  have s := s.modDesc c idx fun d => { d with ending := some status }
  have s := s.setReg Rg.PMP_LAST_ERR 0 (BitVec.ofNat 64 (2 ^ 63 + c * 2 ^ 56 + status * 2 ^ 48 + idx))
  if status = 1 then s.bump Fd.PMP_CNT_ABORTED
  else if status = 2 then s.bump Fd.PMP_CNT_XLATE
  else if status = 3 then (s.bump Fd.PMP_CNT_HOST_ERR).fault .pmp 0 1
  else if status = 4 then (s.bump Fd.PMP_CNT_BAD_DESC).fault .pmp 0 0
  else if status = 5 then s.fault .pmp 0 2
  else s

/-! ### Polling -/

/-- A channel's housekeeping goes on: the domain is primed and no fault has stopped the ring (R285, R290, R298). -/
def State.houseOk (s : State) (c : Nat) : Bool := s.primed && !(s.chan c).stalled

/-- A housekeeping access is one segment through the TLB (R285): the state after a hit, none where it must wait for a walk, a tag, or, as
the access that halted the ring, for `PMP_CH_RESTART` (R303). -/
def State.house (s : State) (c va : Nat) (write : Bool) : Option State :=
  let x := (s.chan c).xltCtx
  if s.tlbHas x va write ∧ s.tagFree c ∧ (s.chan c).failed ≠ some va then
    some (((s.tlbUse x va).ev .pmp 0 1).tagMark (s.tagsUsed + 1))
  else none

/-- A housekeeping access met a host path error: the ring halts and keeps the access for `PMP_CH_RESTART` (R303). -/
def State.houseErr (s : State) (c va : Nat) : State := (s.setChan c { s.chan c with failed := some va }).haltChan c 4

/-- Descriptors are fetched in index order while a poll has seen more, each through the TLB, and each is judged (R279): none is a read
that met a host path error. One that `PMP_ABORT` has ended moves nothing (R299). -/
def State.fetchDescs (s : State) (c : Nat) : List (Option Bytes) → State
  | [] => s
  | b :: bs =>
    let ch := s.chan c
    if ch.ahead = 0 ∨ b.any (·.length ≠ 64) then s
    else match s.house c (ch.slotVa ch.fetch) false with
    | none => s
    | some s =>
      have s := s.hostGet ch.xltCtx (ch.slotVa ch.fetch) 64
      match b with
      | none => s.houseErr c (ch.slotVa ch.fetch)
      | some b =>
        let gone := ch.aborts.contains ch.fetch
        let d : PDesc := { index := ch.fetch, bytes := b, started := false, next := 0, out := [], seen := []
                           ending := if gone then some 1 else none, wb := false }
        have s := s.bytes 4 64
        have s := s.setChan c { s.chan c with
          fetch := (ch.fetch + 1) % 2 ^ 32, descs := ch.descs ++ [d], ahead := ch.ahead - 1, aborts := ch.aborts.erase ch.fetch }
        have s := if badDesc ch d ∧ !gone then s.endDesc c ch.fetch 4 else s
        s.fetchDescs c bs

/-- A channel's ring is enabled, not halted, and its unit in service (R274, R303). -/
def State.polls (s : State) (c : Nat) : Bool :=
  s.houseOk c && s.live .pmp && (s.reg Rg.PMP_CH_EN).getLsbD c && (s.chan c).halt == 0

/-- RING_POLL (R274, R275): `prod` is the producer word as read, none for a host path error; `descs` the descriptors read. -/
def ringPoll (c : Nat) (prod : Option Nat) (descs : List (Option Bytes)) (s : State) : State :=
  if c < s.channels ∧ s.polls c then
    have s := s.reach (s.chan c).pollAt
    match s.house c (s.chan c).prodVa false with
    | none => s
    | some s =>
      have s := s.hostGet (s.chan c).xltCtx (s.chan c).prodVa 8
      have s := s.setChan c { s.chan c with pollAt := s.aon + (s.chan c).pollUs * cyUs }
      match prod with
      | none => s.houseErr c (s.chan c).prodVa
      | some p =>
        have s := (s.setChan c { s.chan c with prod := p % 2 ^ 32 }).bytes 4 8
        if 2 ^ (s.chan c).log2 < wrapI ((s.chan c).prod - (s.chan c).cons) 32 then s.haltChan c 2
        else (s.setChan c { s.chan c with ahead := wrapI ((s.chan c).prod - (s.chan c).fetch) 32 }).fetchDescs c descs
  else s

def execRingPoll (c : Nat) (prod : Option Nat) (descs : List (Option (List Byte))) (s : State) :
    Host.Outcome State Fault Refusal := done (ringPoll c prod descs s)

/-! ### Segments -/

/-- The first descriptor with segments left, at which the ring's data stands (R277, R284). -/
def Chan.current (c : Chan) : Option PDesc :=
  c.descs.find? fun d => d.ending.isNone && !d.wb && decide (d.next < d.segs)

/-- A descriptor waits to start: a STOP_ON_ERR halt, or a FENCE with an earlier descriptor not yet written back. -/
def Chan.holds (c : Chan) (d : PDesc) : Bool :=
  !d.started && (c.halt == 3 || (d.fence && c.descs.any fun o => o.index != d.index && !o.wb &&
    decide (wrapI (o.index - c.cons) 32 < wrapI (d.index - c.cons) 32)))

/-- The descriptor whose segment the ring issues next. -/
def Chan.issuing (c : Chan) : Option PDesc := c.current.filter fun d => !c.holds d

/-- The host accesses of a range as (byte address, write), one for each 4 KiB page it meets. -/
def pagesOf (va len : Nat) (write : Bool) : List (Nat × Bool) :=
  if va / 4096 = (va + len - 1) / 4096 then [(va, write)] else [(va, write), ((va + len - 1) / 4096 * 4096, write)]

/-- The host accesses of segment `k` of a descriptor (R278, R282). -/
def PDesc.accs (d : PDesc) (k : Nat) : List (Nat × Bool) :=
  let n := segLen d.len k
  (if d.op = 1 ∨ d.op = 3 then pagesOf (d.src + 256 * k) n false else []) ++
    if d.op = 1 then [] else pagesOf (d.dst + 256 * k) n true

/-- The addresses of a channel's housekeeping: the producer word, CONS, the next slot, and the WB words that are due. -/
def State.houseVas (s : State) (c : Nat) : List (Nat × Bool) :=
  let ch := s.chan c
  [(ch.prodVa, false), (ch.consVa, true), (ch.slotVa ch.fetch, false)] ++ ch.descs.map (fun d => (ch.slotVa d.index + 48, true)) ++
    (s.pmp.ends.filter (·.ch == c)).map fun e => (e.wbVa, true)

/-- The context of a channel's housekeeping access: a WB word that a reset still owes keeps its own. -/
def State.houseCtx (s : State) (c va : Nat) : Nat :=
  match s.pmp.ends.find? fun e => e.ch = c ∧ e.wbVa = va with
  | some e => e.xltCtx
  | none => (s.chan c).xltCtx

/-- What a stream does next: its channel, context and the host accesses it needs. -/
def State.nextAcc (s : State) (x : Strm) : Option (Nat × Nat × List (Nat × Bool)) :=
  match x with
  | .ring c =>
    if (s.chan c).stalled then none
    else (s.chan c).issuing.map fun d => (c, (s.chan c).xltCtx, d.accs d.next)
  | .house c va write =>
    if (s.chan c).stalled ∨ !(s.houseVas c).contains (va, write) ∨ (s.chan c).failed = some va then none
    else some (c, s.houseCtx c va, [(va, write)])
  | .unit client inst =>
    match s.xfer? client inst with
    | some y => y.nextSeg.map fun g => (y.ch, y.xltCtx, pagesOf g.1 g.2.1 y.write)
    | none => none

/-- Each access of a segment is a TLB hit. -/
def State.hits (s : State) (ctx : Nat) (l : List (Nat × Bool)) : Bool := l.all fun a => s.tlbHas ctx a.1 a.2

/-- The issue of segment `k` of a ring's descriptor: its tag, and its request to the host. A WRITE whose SRAM read fails moves
nothing (R281). -/
def State.issueDesc (s : State) (c : Nat) (d : PDesc) (ecc : Bool) : State :=
  let k := d.next
  let n := segLen d.len k
  let ctx := (s.chan c).xltCtx
  let base := (s.chan c).sramBase * 4096
  if d.op = 2 ∧ ecc then s.endDesc c d.index 5
  else
    have s := s.modDesc c d.index fun d => { d with started := true, next := k + 1, out := k :: d.out }
    if d.op = 2 then (s.hostPut ctx (d.dst + 256 * k) (Mem.read s.sram (base + d.src + 256 * k) n)).bytes 0 n
    else if d.op = 4 then s.hostPut ctx (d.dst + 256 * k) ((List.range n).map fun j => d.pattern.getD (j % 8) 0)
    else s.hostGet ctx (d.src + 256 * k) n

/-- The issue of a unit transfer's next segment. -/
def State.issueUnit (s : State) (x : Xfer) : State :=
  match x.nextSeg with
  | none => s
  | some (va, n, off) =>
    have s := s.modXfer x.client x.inst fun y => { y with next := y.next + 1, out := y.next :: y.out }
    if x.write then s.hostPut x.xltCtx va ((x.data.drop off).take n) else s.hostGet x.xltCtx va n

/-- A SNAPSHOT copies its next entry, or forms its header once every entry is copied (R250). `ecc` tells that the entry's read met an
uncorrectable error: it is removed and not copied (R249). -/
def State.snapFeed (s : State) (ecc : Bool) : State :=
  match s.eft.snap, s.xfer? 8 0 with
  | some p, some x =>
    if p.closed ∨ x.next < x.segs then s
    else
      let more := fun (s : State) (va : Nat) (b : Bytes) =>
        s.modXfer 8 0 fun y => { y with ranges := y.ranges ++ [(va, b.length)], data := y.data ++ b }
      match s.eftAll.find? fun e => decide (p.pos ≤ e.1) with
      | some (pos, e) =>
        let q := { p with pos := pos + 1 }
        if ecc then ({ s with eft := { s.eft with snap := some q } }).eftHit e.key.toNat
        else more { s with eft := { s.eft with snap := some { q with count := p.count + 1 } } } (p.va + 64 + 256 * p.count) e.bytes
      | none => more { s with eft := { s.eft with snap := some { p with closed := true } } } p.va (s.snapHeader p)
  | _, _ => s

/-- A channel could take a tag now: its ring or one of its unit transfers has a segment whose accesses hit the TLB. -/
def State.chanReady (s : State) (c : Nat) : Bool :=
  let ready := fun x => match s.nextAcc x with
    | some (_, ctx, accs) => s.hits ctx accs
    | none => false
  s.tagsOf c < (s.chan c).tagMax && (ready (.ring c) || s.pmp.xfers.any fun x => x.ch == c && ready (.unit x.client x.inst))

/-- The channels that wait for a tag, oldest first: those that no longer could take one are gone. -/
def State.tagQueue (s : State) : List (Nat × Nat) := s.pmp.waits.filter fun x => s.chanReady x.1

/-- A channel asks for a tag (R283): granted when the pool has one and no other channel is before it; otherwise it waits. A channel
that was served stands behind the others, so the pool serves them round robin. The fast cycles of the wait are PMP's event 2 (Table 20-2). -/
def State.takeTag (s : State) (c : Nat) : Option State × State :=
  let q := s.tagQueue
  let mine := q.find? (·.1 == c)
  if s.tagFree c ∧ (q = [] ∨ (q.head?.map (·.1)) = some c) then
    let waited := (mine.map fun x => (s.aon - x.2) * s.fastRatio).getD 0
    (some ({ s with pmp := { s.pmp with waits := q.filter (·.1 != c) } }.ev .pmp 0 2 waited), s)
  else (none, { s with pmp := { s.pmp with waits := if mine.isSome then q else q ++ [(c, s.aon)] } })

/-- SEGMENT_ISSUE (R282, R283): a tag is free and every access of the stream's next segment hits the TLB. `ecc` tells that
the read of the block's memory for a write met an uncorrectable error. A core's host window and housekeeping issue their accesses
themselves. -/
def segmentIssue (x : Strm) (ecc : Bool) (s : State) : State :=
  if !s.primed then s
  else
    have s := if x = .unit 8 0 then s.snapFeed ecc else s
    match s.nextAcc x with
    | none => s
    | some (c, ctx, accs) =>
      if !s.hits ctx accs then s
      else match x with
      | .house _ _ _ => s
      | .unit 7 _ => s
      | _ =>
        match s.takeTag c with
        | (none, s) => s
        | (some s, _) =>
          have s := accs.foldl (fun s a => s.tlbUse ctx a.1) s
          have s := s.ev .pmp 0 1
          have s := match x with
            | .ring _ => match (s.chan c).issuing with
              | some d => s.issueDesc c d ecc
              | none => s
            | .house _ _ _ => s
            | .unit client inst => match s.xfer? client inst with
              | some y => s.issueUnit y
              | none => s
          s.tagMark s.tagsUsed

def execSegmentIssue (x : Strm) (ecc : Bool) (s : State) : Host.Outcome State Fault Refusal := done (segmentIssue x ecc s)

/-- The bytes of a segment moved (`PMP_BYTES`, Table 20-4). -/
def State.moved (s : State) (n : Nat) (read write : Bool) : State :=
  have s := s.addReg Rg.PMP_BYTES 0 n
  have s := if read then s.bytes 4 n else s
  if write then s.bytes 5 n else s

/-- The last host response of segment `k` of a ring's descriptor returns (R281, R282): a segment carried again after a resume counts
once it has returned. One that a reset ended only gives its tag back (R301). -/
def State.ringDone (s : State) (c idx k : Nat) (data : Bytes) (err : Bool) : State :=
  match (s.chan c).descs.find? fun d => d.index = idx ∧ d.out.contains k with
  | none =>
    { s with pmp := { s.pmp with ends := s.pmp.ends.map fun e =>
        if e.ch = c ∧ e.desc.index = idx then
          { e with desc := { e.desc with out := e.desc.out.erase k
                                         seen := if err ∨ !e.desc.out.contains k then e.desc.seen else k :: e.desc.seen } }
        else e } }
  | some d =>
    have s := s.modDesc c idx fun d => { d with out := d.out.erase k, seen := if err ∨ d.seen.contains k then d.seen else k :: d.seen }
    if err then (if d.ending.isNone then s.endDesc c idx 3 else s)
    else
      let n := segLen d.len k
      let data := (data ++ List.replicate n 0).take n
      have s := s.moved n (d.op == 1 || d.op == 3) (d.op != 1)
      if d.op = 1 then
        { s with sram := Mem.write s.sram ((s.chan c).sramBase * 4096 + d.dst + 256 * k) data }.bytes 1 n
      else if d.op = 3 then s.hostPut (s.chan c).xltCtx (d.dst + 256 * k) data
      else s

/-- The last host response of segment `k` of a unit transfer returns: an ended transfer's only gives its tag back. The bytes of a read
that met a host path error are free values: R281 gives its outcome for a descriptor only (DESIGN CHOICE, log entry 127). -/
def State.unitDone (s : State) (client inst k : Nat) (data : Bytes) (err : Bool) : State :=
  let mine := fun (y : Xfer) => y.client == client && y.inst == inst && y.out.contains k
  if s.pmp.dead.any mine then
    have dead := s.pmp.dead.map fun y => if mine y then { y with out := y.out.erase k } else y
    { s with pmp := { s.pmp with dead := dead.filter fun y => !y.out.isEmpty } }
  else match s.xfer? client inst with
  | none => s
  | some y =>
    match segAt y.ranges k 0 with
    | none => s
    | some (_, n, _) =>
      if !y.out.contains k then s
      else
        let (b, s) := if err ∧ !y.write then s.freeBytes n else ((data ++ List.replicate n 0).take n, s)
        (s.modXfer client inst fun y =>
          { y with out := y.out.erase k, seen := if y.seen.contains k then y.seen else k :: y.seen
                   got := if y.write then y.got else y.got.set k b }).moved n (!y.write) y.write

/-! ### Writeback -/

/-- Retired descriptors leave in index order and CONS advances over them (R284). -/
def Chan.retire (c : Chan) : List PDesc → Chan
  | [] => { c with descs := [] }
  | d :: ds => if d.wb then Chan.retire { c with cons := (d.index + 1) % 2 ^ 32 } ds else { c with descs := d :: ds }

/-- The status a descriptor is written back with, once its segments have returned (R280). -/
def PDesc.ready (d : PDesc) : Option Nat :=
  if d.wb ∨ d.out ≠ [] then none
  else match d.ending with
    | some st => some st
    | none => if d.started ∧ d.segs ≤ d.seen.length then some 0 else none

/-- The WB word (Table 11-2). -/
def wbWord (d : PDesc) (st : Nat) : Nat := 2 ^ 63 + st * 2 ^ 56 + (if st = 0 then d.len else d.checkpoint)

/-- The WB word of a descriptor leaves (R280, R281): the completion source with IRQ = 1; a STOP_ON_ERR channel halts. -/
def State.wbPut (s : State) (c : Nat) (d : PDesc) (st va : Nat) (err : Bool) : State :=
  have s := s.hostPut (s.chan c).xltCtx va (leBytes 8 (wbWord d st))
  if err then s.houseErr c va
  else
    have s := (s.bytes 5 8).ev .pmp 0 3
    have s := s.modDesc c d.index fun d => { d with wb := true }
    let old := (s.chan c).cons
    have s := s.setChan c ((s.chan c).retire (s.chan c).descs)
    have s := s.setChan c { s.chan c with consDue := (s.chan c).consDue || (s.chan c).cons != old }
    have s := if d.irq then s.pendBit 4 c else s
    if st ≠ 0 ∧ (s.chan c).stopErr then
      (s.setReg Rg.PMP_LAST_ERR 0 (BitVec.ofNat 64 (2 ^ 63 + c * 2 ^ 56 + st * 2 ^ 48 + d.index))).haltChan c 3
    else s

/-- The WB access of a descriptor, where it is due and its segments have returned. -/
def State.wbStep (s : State) (c idx : Nat) (err : Bool) : State :=
  match (s.chan c).descs.find? fun d => d.index = idx with
  | none => s
  | some d => match d.ready with
    | none => s
    | some st =>
      let va := (s.chan c).slotVa idx + 48
      match s.house c va true with
      | none => s
      | some s => s.wbPut c d st va err

/-- The CONS access, once CONS has moved (R280). -/
def State.consStep (s : State) (c : Nat) (err : Bool) : State :=
  let va := (s.chan c).consVa
  if !(s.chan c).consDue then s
  else match s.house c va true with
  | none => s
  | some s =>
    have s := s.hostPut (s.chan c).xltCtx va (leBytes 8 (s.chan c).cons)
    if err then s.houseErr c va else (s.setChan c { s.chan c with consDue := false }).bytes 5 8

/-- The WB word, with STATUS 6, of a descriptor that a reset ended, once its tags have returned (R301). -/
def State.endStep (s : State) (c idx : Nat) : State :=
  match s.pmp.ends.find? fun e => e.ch = c ∧ e.desc.index = idx ∧ e.desc.out = [] with
  | none => s
  | some e =>
    if !s.tlbHas e.xltCtx e.wbVa true ∨ !s.tagFree c then s
    else
      have s := (s.tlbUse e.xltCtx e.wbVa).hostPut e.xltCtx e.wbVa (leBytes 8 (wbWord e.desc 6))
      { s with pmp := { s.pmp with ends := s.pmp.ends.erase e } }.bytes 5 8

/-- DESC_WRITEBACK (R280, R281): WB, then CONS where it has moved; `wbErr` and `consErr` tell that the access met a host path error. -/
def descWriteback (c idx : Nat) (wbErr consErr : Bool) (s : State) : State :=
  if !s.houseOk c then s else ((s.endStep c idx).wbStep c idx wbErr).consStep c consErr

def execDescWriteback (c idx : Nat) (wbErr consErr : Bool) (s : State) : Host.Outcome State Fault Refusal :=
  done (descWriteback c idx wbErr consErr s)

/-! ### Registers -/

/-- A descriptor ends ABORTED (R299): it issues nothing further, and a fault at which it stalls the ring is withdrawn (R295). -/
def State.abortDesc (s : State) (c : Nat) (d : PDesc) : State :=
  let mine := fun (e : FqEnt) => e.client == 0 && e.inst == c
  let at_ := (s.chan c).stalled && s.xlt.faults.any mine && ((s.chan c).current.any fun x => x.index == d.index)
  have s := if at_ then (s.setChan c { s.chan c with stalled := false }).fqRemove mine else s
  s.endDesc c d.index 1

/-- A write of `PMP_ABORT` (R299, R300). A descriptor is pending from the poll that saw it to its writeback; one whose last segment has
returned is complete. -/
def pmpAbortWrite (d : Word) (s : State) : State :=
  let c := bits d.toNat 5 0
  let idx := bits d.toNat 63 32
  let ch := s.chan c
  let res := fun (s : State) r => { s with pmp := { s.pmp with abortRes := r } }
  if s.channels ≤ c then res s 3
  else match ch.descs.find? fun d => d.index = idx ∧ !d.wb with
  | some d => if d.ready = some 0 then res s 2 else res (s.abortDesc c d) 1
  | none =>
    if wrapI ((idx : Int) - ch.fetch) 32 < ch.ahead then
      if ch.aborts.contains idx then res s 1
      else res ((s.setChan c { ch with aborts := ch.aborts ++ [idx] }).endDesc c idx 1) 1
    else res s 2

def execPmpAbort (q : Req) (d : Word) (s : State) : Host.Outcome State Fault Refusal :=
  done (s.rowWrite q .pmp 0 0x58 d fun s => (pmpAbortWrite d s).okay)

/-- A write of `PMP_CH_RESTART` (R303): the halt is cleared; the failed access, poll or next descriptor follows. -/
def pmpRestartWrite (d : Word) (s : State) : State :=
  { s with pmp := { s.pmp with chans := s.pmp.chans.mapV fun c v => if d.getLsbD c then { v with halt := 0, failed := none } else v } }

def execPmpChRestart (q : Req) (d : Word) (s : State) : Host.Outcome State Fault Refusal :=
  done (s.rowWrite q .pmp 0 0x50 d fun s => (pmpRestartWrite d s).okay)

/-- A write of `PMP_CH_EN` (R303); bits of channels that are not fitted stay 0. A ring enabled polls from now on. -/
def pmpChEnWrite (d : Word) (s : State) : State :=
  let v := d &&& BitVec.ofNat 64 (2 ^ s.channels - 1)
  let old := s.reg Rg.PMP_CH_EN
  have s := s.setReg Rg.PMP_CH_EN 0 v
  (List.range s.channels).foldl (fun s c =>
    if v.getLsbD c ∧ !old.getLsbD c then s.setChan c { s.chan c with pollAt := s.aon + (s.chan c).pollUs * cyUs } else s) s

def execPmpChEnWrite (q : Req) (d : Word) (s : State) : Host.Outcome State Fault Refusal :=
  done (s.rowWrite q .pmp 0 0x40 d fun s => (pmpChEnWrite d s).okay)

/-- CSTATE of a channel (Table 11-11). -/
def State.cstate (s : State) (c : Nat) : Nat :=
  let v := s.chan c
  if v.halt ≠ 0 then 4
  else if v.stalled then 3
  else if v.descs.any (!·.wb) then 2
  else if (s.reg Rg.PMP_CH_EN).getLsbD c then 1 else 0

/-- PMP READ of a channel entry (Table 11-11). -/
def pmpChRead (c : Nat) (s : State) : WinOut :=
  if c < s.channels then
    let v := s.chan c
    s.winData ([v.ringVa, v.prodVa, v.consVa,
      v.xltCtx * 2 ^ 32 + v.log2 * 2 ^ 24 + v.pollUs * 2 ^ 14 + v.tagMax * 8 + b2n v.chkDesc * 4 + b2n v.stopErr * 2,
      v.sramSize * 2 ^ 32 + v.sramBase, v.fetch * 2 ^ 32 + v.cons,
      v.prod * 2 ^ 32 + v.halt * 256 + s.cstate c].map (BitVec.ofNat 64))
  else s.win 2

def execPmpChRead (q : Req) (idx : Nat) (s : State) : Host.Outcome State Fault Refusal :=
  done (s.winCmd q .pmp 0 0 1 idx (pmpChRead idx))


/-- PMP WRITE of a channel entry (R304). -/
def pmpChWrite (c : Nat) (s : State) : WinOut :=
  if s.channels ≤ c then s.win 2
  else if (s.reg Rg.PMP_CH_EN).getLsbD c then s.win 7
  else
    let w := fun k => (s.data .pmp 0 k).toNat
    let v : Chan := { s.chan c with
      ringVa := bits (w 0) 47 0, prodVa := bits (w 1) 47 0, consVa := bits (w 2) 47 0, xltCtx := bits (w 3) 41 32
      log2 := bits (w 3) 28 24, pollUs := bits (w 3) 23 14, tagMax := bits (w 3) 13 3, chkDesc := bit (w 3) 2
      stopErr := bit (w 3) 1, sramSize := bits (w 4) 48 32, sramBase := bits (w 4) 16 0, cons := bits (w 5) 31 0
      fetch := bits (w 5) 31 0, ahead := 0, aborts := [] }
    if v.ringVa % 4096 ≠ 0 ∨ v.prodVa % 8 ≠ 0 ∨ v.consVa % 8 ≠ 0 ∨ s.contexts ≤ v.xltCtx ∨ v.log2 < 4 ∨ 16 < v.log2 ∨
        v.pollUs < 1 ∨ 1000 < v.pollUs ∨ v.tagMax < 1 ∨ s.tags < v.tagMax ∨ s.sramPages < v.sramBase + v.sramSize then s.win 6
    else (s.setChan c v).win 0

def execPmpChWrite (q : Req) (idx : Nat) (s : State) : Host.Outcome State Fault Refusal :=
  done (s.winCmd q .pmp 0 0 2 idx (pmpChWrite idx))

/-- `PMP_CH_HALTED`. -/
def pmpHalted (s : State) : Nat := s.pmp.chans.foldl (fun a c => if c.2.halt ≠ 0 then a + 2 ^ c.1 else a) 0

/-- The ring side of `PG_CTRL.UNIT_RESET` of PMP (R301): each started descriptor is to be written back RESET once its tags return, CONS is
not written, and every channel returns to reset. -/
def pmpRingReset (s : State) : State :=
  let ends := s.pmp.chans.flatMap fun (c, v) =>
    (v.descs.filter fun d => d.started && !d.wb).map fun d =>
      ({ ch := c, xltCtx := v.xltCtx, wbVa := v.slotVa d.index + 48, desc := d } : RingEnd)
  ({ s with pmp := { s.pmp with chans := [], abortRes := 0, waits := [], ends := s.pmp.ends ++ ends } }).fqRemove fun e =>
    e.client == 0 || e.client == 1

end Sys2Proof.Machine
end

