-- ==== Sys2Proof/Machine/Resume.lean ====
section
/-! DEFINITION. The answers to translation faults (R293 to R297): how each client of Table 11-5 resumes from its checkpoint
and how its transfer ends on an ABORT, a timeout, or a reset of PMP or XLT. -/

namespace Sys2Proof.Machine

/-! ### Ends (Table 11-5, ABORT or timeout) -/

/-- A ring's stalled descriptor ends XLATE. -/
def State.abortRing (s : State) (c : Nat) : State :=
  have s := s.setChan c { s.chan c with stalled := false }
  match (s.chan c).current with
  | some d => s.endDesc c d.index 2
  | none => s

/-- The image of a LOAD of an MXE cannot be fetched. -/
def State.abortMxeLoad (s : State) (e : Nat) : State :=
  match (s.mx e).loading with
  | some k => (s.setMx e { s.mx e with loading := none }).mxeLoadFail e k 11 none
  | none => s

/-- The image of a LOAD of a TRE cannot be fetched. -/
def State.abortTreLoad (s : State) (e : Nat) : State :=
  match (s.tr e).loading with
  | some k => (s.setTr e { s.tr e with loading := none }).treLoadFail e k 11 none
  | none => s

/-- The firmware or, as instance 1, the pattern bundle cannot be fetched. -/
def State.abortCorLoad (s : State) (inst : Nat) : State :=
  if inst = 1 then
    match s.scr.load with
    | some _ => ({ s with scr := { s.scr with load := none } }).bundleFail 11
    | none => s
  else match s.cor.load with
  | some m => ({ s with cor := { s.cor with load := none } }).fwFail m 11
  | none => s

/-- A SNAPSHOT ends XLATE. -/
def State.abortSnap (s : State) : State :=
  match s.eft.snap with
  | some _ => ({ s with eft := { s.eft with snap := none } }).winEnd .eft 0 8
  | none => s

/-- The housekeeping access at `va` halts its ring (Table 11-5). -/
def State.abortHouse (s : State) (c va : Nat) : State :=
  (s.setChan c { s.chan c with stalled := false, failed := some va }).haltChan c 1

/-- The stream of a client instance ends as an ABORT ends it (Table 11-5). Its transfer and fault entry are gone first; `va` is the
address at which it stalled. -/
def State.abortStream (s : State) (client inst va : Nat) : State :=
  have s := s.endXfer client inst
  match client with
  | 0 => s.abortRing inst
  | 1 => s.abortHouse inst va
  | 2 => s.abortMxeLoad inst
  | 3 => s.mxeFault inst 11
  | 4 => s.abortTreLoad inst
  | 5 => s.treFault inst 11 0xFFFFF
  | 6 => s.abortCorLoad inst
  | 7 => s.coreXltAbort inst
  | 8 => s.abortSnap
  | 9 => s.capAborted inst
  | 10 => s.htpLost
  | _ => s.hpaLost

/-! ### Resuming -/

/-- Where a transfer resumes: its checkpoint in segments (R282, R297). -/
def Xfer.restart (x : Xfer) : Xfer :=
  let k := firstNot x.seen x.segs
  { x with stalled := false, next := k, seen := x.seen.filter fun n => decide (n < k) }

/-- A descriptor resumes at its checkpoint. -/
def PDesc.restart (d : PDesc) : PDesc :=
  let k := firstNot d.seen d.segs
  { d with next := k, seen := d.seen.filter fun n => decide (n < k) }

/-- The stream of a client instance re-walks from its resume point (R293, Table 11-5). -/
def State.resumeStream (s : State) (client inst : Nat) : State :=
  match client with
  | 0 =>
    have s := s.setChan inst { s.chan inst with stalled := false }
    match (s.chan inst).current with
    | some d => s.modDesc inst d.index PDesc.restart
    | none => s
  | 1 => s.setChan inst { s.chan inst with stalled := false }
  | 9 => (s.modXfer 9 inst Xfer.restart).ringFlush inst
  | _ => s.modXfer client inst Xfer.restart

/-- The outstanding entry with a token. -/
def State.fqEnt? (s : State) (token : Nat) : Option FqEnt := s.xlt.faults.find? fun e => e.token == some token

/-- An entry leaves the queue. -/
def State.fqDrop (s : State) (token : Nat) : State := s.fqRemove fun e => e.token == some token

/-- A write of `XLT_RESPOND` (R293). -/
def xltRespond (d : Word) (s : State) : State :=
  let token := bits d.toNat 15 0
  let action := bits d.toNat 17 16
  let res := fun (s : State) r => s.setFld Fd.XLT_RESP_STAT_RESULT 0 r
  if action = 0 ∨ action = 3 then res s 3
  else match s.fqEnt? token with
  | none => res s 2
  | some e =>
    have s := res (s.fqDrop token) 1
    if action = 1 then (s.bump Fd.XLT_CNT_RESUMED).resumeStream e.client e.inst
    else (s.bump Fd.XLT_CNT_ABORTED).abortStream e.client e.inst e.va

/-- The data of an `XLT_RESPOND` write. -/
def respondWord (action token : Nat) : Word := BitVec.ofNat 64 (action * 2 ^ 16 + token % 2 ^ 16)

/-- XLT_RESUME. -/
def execXltResume (q : Req) (token : Nat) (s : State) : Host.Outcome State Fault Refusal :=
  done (s.rowWrite q .xlt 0 0x50 (respondWord 1 token) fun s => (xltRespond (respondWord 1 token) s).okay)

/-- XLT_ABORT. -/
def execXltAbort (q : Req) (token : Nat) (s : State) : Host.Outcome State Fault Refusal :=
  done (s.rowWrite q .xlt 0 0x50 (respondWord 2 token) fun s => (xltRespond (respondWord 2 token) s).okay)

/-- XLT_FAULT_TIMEOUT: an entry was outstanding for the FAULT_TMO_US in force at its fault (R294, R306). -/
def xltFaultTimeout (token : Nat) (s : State) : State :=
  match s.fqEnt? token with
  | none => s
  | some e =>
    have s := (s.reach (e.edge + e.tmo * cyUs)).fqDrop token
    ((s.bump Fd.XLT_CNT_TIMEOUTS).fault .xlt 0 0).abortStream e.client e.inst e.va

def execXltFaultTimeout (token : Nat) (s : State) : Host.Outcome State Fault Refusal := done (xltFaultTimeout token s)

/-! ### Segments that return -/

/-- Bytes of an image, as its first segment tells (Tables 08-10, 09-1, 10-2, R454); at most what the unit can hold. -/
def State.imageLen (s : State) (client inst : Nat) (h : Bytes) : Nat :=
  match client, inst with
  | 2, _ => let m := mxeHead h; min s.mxeImageMax (64 + 16 * m.n + 256 * m.luts + m.init)
  | 4, _ => min (24576 + 16 * s.treNodes + 32 * s.treSets) (treHead h).size
  | 6, 1 => min s.scrRegion (rdLE h 8 4)
  | _, _ => min (256 + 131072) (256 + rdLE h 8 4 + rdLE h 12 4)

/-- The first segment of an image tells how much follows (DESIGN CHOICE, log entry 129). -/
def State.imageGrow (s : State) (client inst : Nat) (h : Bytes) : State :=
  s.modXfer client inst fun x => { x with ranges := x.ranges.map fun r => (r.1, max 256 (s.imageLen client inst h)) }

/-- What a unit transfer whose segments have all returned comes to, where no command of its own ends it (Table 11-5 clients 9 to 11). -/
def State.xferDone (s : State) (client inst : Nat) : State :=
  match client, s.xfer? client inst with
  | 9, some x => if x.write ∧ x.full then s.ringSent inst else s
  | 10, some x => if x.full then s.htpDrained else s
  | 11, some x => if x.full then s.hpaSent else s
  | _, _ => s

/-- SEGMENT_DONE (R281, R282): the last host response of segment `k` of a stream (descriptor `idx` of a ring) returns; `data` is what
the host read returned, `err` a host path error. -/
def segmentDone (x : Strm) (idx k : Nat) (data : Bytes) (err : Bool) (s : State) : State :=
  match x with
  | .house _ _ _ => s
  | .ring c => s.ringDone c idx k data err
  | .unit client inst =>
    let first := (s.xfer? client inst).any fun y => y.seen == [] && y.out.contains 0
    have s := s.unitDone client inst k data err
    have s := if (client = 2 ∨ client = 4 ∨ client = 6) ∧ k = 0 ∧ first then
        s.imageGrow client inst ((s.carried client inst).getD []) else s
    s.xferDone client inst

def execSegmentDone (x : Strm) (idx k : Nat) (data : List Byte) (err : Bool) (s : State) :
    Host.Outcome State Fault Refusal := done (segmentDone x idx k data err s)

/-! ### Resets of XLT and PMP -/

/-- `PG_CTRL.UNIT_RESET` of XLT (R296): every entry is withdrawn and its stream ends, the TLB and the contexts are emptied. -/
def xltReset (s : State) : State :=
  let l := s.xlt.faults
  have s := { s with xlt := { s.xlt with faults := [] } }
  have s := l.foldl (fun (s : State) (e : FqEnt) => s.abortStream e.client e.inst e.va) s
  { s with xlt := { ctxs := [], tlb := [], faults := [], invs := [], token := 0 } }

/-- `PG_CTRL.UNIT_RESET` of PMP (R301): unit transfers end as an ABORT, the rings are reset. -/
def pmpReset (s : State) : State :=
  pmpRingReset (s.pmp.xfers.foldl (fun (s : State) (x : Xfer) => s.abortStream x.client x.inst 0) s)

end Sys2Proof.Machine
end

