-- ==== Sys2Proof/Machine/UnitReset.lean ====
section
/-! DEFINITION. `PG_CTRL.UNIT_RESET` (R51): what each unit's reset ends, and the page's registers at reset. A FUNCTION reset
(R516) does the same to its pages. -/

namespace Sys2Proof.Machine

/-- The UNIT_RESET of a lane takes it to DOWN; messages with unacknowledged flits are lost (R311, R335). -/
def slkResetDown (w : Nat) (s : State) : State := (s.laneTo w 0).laneLose w

/-- The lane starts anew: what waits to be sent stays but for APP items, and so do management requests in progress (R66). -/
def slkReset (w : Nat) (s : State) : State :=
  let l := s.lane w
  let keep := fun (q : List TxItem) => q.filter fun it => it.ftype != 0x22 || it.body.head? != some 4
  have s := s.setLane w { Lane.rest with
    txq := l.txq.mapV fun _ q => keep q, since := l.since, outSince := l.outSince, downed := l.downed
    out := l.out, held := l.held, lastAttn := l.lastAttn }
  { s with tkp := { s.tkp with txts := s.tkp.txts.erase w, timed := s.tkp.timed.erase w
                               txtsOvf := s.tkp.txtsOvf.filter (· != w) } }

/-- HPA's reset: its transfer ends, the flit and message in hand are lost, telemetry returns to the lane (R51). -/
def hpaReset (s : State) : State :=
  have s := s.hpaUnroute.endXfer 11 0
  { s with hpa := { seq := 0, cons := 0, txq := [], lastVc := 0 } }

/-- MGR's reset: what it relays, and the frames it forms, are dropped. -/
def mgrReset (s : State) : State :=
  { s with mgr := { s.mgr with relayed := [], own := [], codes := [], asking := false } }

/-- LCM keeps the state of the part, the versions and the job in force; an armed commit is disarmed (R534). -/
def lcmReset (old s : State) : State :=
  have s := s.setReg Rg.LCM_STATE 0 (old.reg Rg.LCM_STATE)
  have s := s.setFld Fd.LCM_STATE_CSTATE 0 0
  have s := (s.setFld Fd.LCM_STAT_CFG_VER 0 (old.fld Fd.LCM_STAT_CFG_VER)).setFld Fd.LCM_STAT_NEXT_VER 0 (old.fld Fd.LCM_STAT_NEXT_VER)
  s.setReg Rg.LCM_JOB 0 (old.reg Rg.LCM_JOB)

/-- `PG_SHADOW` of every page that waits for the LCM commit reads 0 again: no commit is armed (R528). -/
def State.shadowsClear (s : State) : State :=
  { s with regs := s.regs.filter fun (x : Nat × Word) =>
      !(decide (x.1 % 4096 = 0x28) && (s.regs.getD (x.1 - 0x18) 0 &&& 12) == 0) }

/-- What a unit's work in flight comes to, before its registers are reset (R51). -/
def State.endWork (s : State) (u : UnitKind) (i : Nat) : State :=
  match u with
  | .mxe => mxeReset i s
  | .tre => treReset i s
  | .cor => corReset s
  | .col => colReset s
  | .cap => capReset s
  | .xlt => xltReset s
  | .pmp => pmpReset s
  | .slk => slkResetDown i s
  | .hpa => hpaReset s
  | .wel => welReset i s
  | .smp => smpReset s
  | .epr => eprReset s
  | .cmp => cmpReset s
  | .eft => eftReset s
  | .stm => stmReset s
  | .rdx => rdxReset s
  | .ups => upsReset s
  | .bud => budReset s
  | .htp => htpReset s
  | .mgr => mgrReset s
  | _ => s

/-- What a unit keeps or does once its registers are reset; `old` is the state before the reset. -/
def State.afterReset (s old : State) (u : UnitKind) (i : Nat) : State :=
  match u with
  | .slk => slkReset i s
  | .flt => fltReset old s
  | .evr => evrReset old s
  | .irc => ircReset s
  | .pwr => pwrReset old s
  | .scr => scrReset old s
  | .tkp => tkpReset old s
  | .up => upReset i (old.fld Fd.UP_STAT_LINK i) s
  | .pmu => pmuReset s
  | .cis => cisReset old s
  | .lcm => (lcmReset old s).shadowsClear
  | _ => s

/-- The reset of a unit: its work ends, its registers return to reset, staged values and errors go (R51). It completes within
256 AON cycles. -/
def State.resetUnit (s : State) (u : UnitKind) (i : Nat) : State :=
  let old := s
  have s := ((s.endWork u i).resetRegs u i).unstage u i
  have s := (s.setReg (Rg.PG_ERR u) i 0).setFld (Fd.PG_CTRL_ENABLE u) i 0
  have s := s.afterReset old u i
  { s with resetting := s.resetting.set (pageKey u i) (s.aon + 256) }

/-- A page's UNIT_RESET may complete: NVH waits for a commit in progress to be decided and applied (R476). -/
def State.mayEndReset (s : State) (u : UnitKind) : Bool := u != .nvh || s.nvh.commit.isNone

/-! ### FUNCTION reset (R516, Table 21-2) -/

/-- Every fitted page of the instance. -/
def State.fittedPages (s : State) : List (UnitKind × Nat) :=
  (List.range (pageCount s.chip.role)).filterMap fun p =>
    match pageUnit s.chip.role p with
    | some (u, i) => if s.chip.fitted u i then some (u, i) else none
    | none => none

/-- The pages a FUNCTION reset leaves alone. -/
def keptByFunction : UnitKind → Bool
  | .dir | .tkp | .lcm | .nvh | .evr => true
  | _ => false

/-- A page returns to reset at a FUNCTION reset: as by UNIT_RESET, with its control and scratch registers too; `PG_LOCK` is kept. -/
def State.resetPage (s : State) (u : UnitKind) (i : Nat) : State :=
  ((s.resetUnit u i).setReg (Rg.PG_CTRL u) i 0).setReg (Rg.PG_SCRATCH u) i 0

/-- An armed commit is disarmed; values staged in pages that are not reset stay staged (R517). -/
def State.disarm (s : State) : State :=
  have s := (s.setFld Fd.LCM_CTRL_ARM 0 0).setFld Fd.LCM_STATE_CSTATE 0 0
  { s.shadowsClear with lcm := { s.lcm with windowEnd := none, commitNow := false } }

/-- The FUNCTION reset of Table 21-2: BOOT_DONE and `XEM_READY` fall, FAULTED ends, kept replies and the sump's contents go. -/
def State.functionReset (s : State) : State :=
  have s := { s with kept := [], flt := { s.flt with faulted := false, faultedEdge := 0 }
                     lcm := { s.lcm with bootDone := false, funcReset := true } }
  have s := (s.emit (.ready false)).disarm
  have s := (s.fittedPages.filter fun p => !keptByFunction p.1).foldl (fun (s : State) p => s.resetPage p.1 p.2) s
  have s := { s with cis := { s.cis with fill := 0, spill := [], waiting := [], blocked := [] }, cmp := { s.cmp with parked := [] } }
  (s.setFld Fd.CIS_STAT_SUMP_FILL_MIB 0 0).setReg Rg.FLT_FATAL 0 0

end Sys2Proof.Machine
end

