-- ==== Sys2Proof/Machine/Commit.lean ====
section
/-! DEFINITION. The staged commit (21.5): arming, the window, and how each page's staged values take effect at a boundary edge,
at a step edge, at the next epoch, or at once (R13, R39, R528 to R530, Table 02-11). -/

namespace Sys2Proof.Machine

/-! ### One page's commit -/

/-- The staged registers of a page take their values. -/
def State.takeStaged (s : State) (u : UnitKind) (i : Nat) : State :=
  let lo := regKey ⟨u, 0⟩ i
  (s.staged.foldl (fun (t : State) (x : Nat × Word) =>
    if lo ≤ x.1 ∧ x.1 < lo + 4096 then t.setReg ⟨u, x.1 - lo⟩ i x.2 else t) s).unstage u i

/-- The pages that hold RWS registers or banked tables, in the order in which one boundary applies them: the grid, the slot
tables, the plan over them, the map over the plan, the rest. -/
def rwsPages : List (UnitKind × Nat) :=
  (.tkp, 0) :: (List.range 48).map (fun w => (.wel, w)) ++
    [(.smp, 0), (.epr, 0), (.cmp, 0), (.eft, 0), (.pwr, 0), (.rdx, 0), (.ups, 0), (.stm, 0), (.lcm, 0)]

/-- A page applies its staged values at the boundary into epoch `n`, and whether its own checks rejected them (R529). -/
def State.commitPage (s : State) (n : Nat) (u : UnitKind) (i : Nat) : State × Bool :=
  match u with
  | .tkp =>
    let (t, bad) := s.gridCommit n
    (if bad then t else t.smpRegrid, bad)
  | .wel => ((s.takeStaged .wel i).welApply i, false)
  | .smp =>
    let (ok, s) := s.smpCommitOk
    if ok then ((s.takeStaged .smp 0).smpApply, false) else ((s.unstage .smp 0).smpRefuse, true)
  | .epr => if s.eprCommitOk then ((s.takeStaged .epr 0).eprApply, false) else ((s.unstage .epr 0).eprRefuse, true)
  | .cmp => ((s.takeStaged .cmp 0).cmpApply, false)
  | .eft => ((s.takeStaged .eft 0).eftCommit, false)
  | .pwr => ((s.takeStaged .pwr 0).applyVid, false)
  | .rdx =>
    if s.rdxCommitOk then (((s.takeStaged .rdx 0).rdxApply).mergeRestored, false) else ((s.unstage .rdx 0).rdxRefuse, true)
  | .ups => ((s.takeStaged .ups 0).upsApply, false)
  | .stm => ((s.takeStaged .stm 0).stmCommit, false)
  | _ => (s.takeStaged u i, false)

/-- The pages whose banks the mirror carries (R407). -/
def mirrored : UnitKind → Bool
  | .rdx | .ups | .stm | .eft => true
  | _ => false

/-- COMMIT_MODE DIRECT: a page's staged values take effect at once (Table 02-11). TKP takes its grid unchecked (R103). -/
def State.commitDirect (s : State) (u : UnitKind) (i : Nat) : State :=
  match u with
  | .tkp => s.gridTake
  | .wel => s.welDirect i
  | .smp => s.smpDirect
  | .epr => s.eprDirect
  | _ =>
    let (t, _) := s.commitPage (s.epochNow + 1) u i
    have t := t.bgAlone s.bgPending
    if mirrored u then t.mirrorConfig else t

/-- Every marked page that commits at this edge applies: those of COMMIT_MODE NEXT_EPOCH, and with `lcm` those STAGED. Answers the
rejections among the latter. -/
def State.commitPages (s : State) (n : Nat) (lcm : Bool) : State × Nat :=
  let go := rwsPages.filter fun p => s.isMarked p.1 p.2 &&
    (let m := s.fld (Fd.PG_CTRL_COMMIT_MODE p.1) p.2
     m == 1 || (lcm && m == 0))
  let (t, bad) := go.foldl (fun (a : State × Nat) p =>
    let (t, r) := a.1.commitPage n p.1 p.2
    (t, a.2 + b2n (r && s.fld (Fd.PG_CTRL_COMMIT_MODE p.1) p.2 == 0))) (s, 0)
  (if go.any fun p => mirrored p.1 then t.mirrorConfig else t, bad)

/-! ### The LCM commit -/

/-- A commit is refused (R528, R529): ARM clears, RESULT, REFUSED, LCM_COMMIT, EVR COMMIT_REFUSED. -/
def State.commitRefused (s : State) (res : Nat) : State :=
  have s := (s.disarm.setFld Fd.LCM_STAT_RESULT 0 res).bump Fd.LCM_CNT_REFUSED
  have s := s.event 0x0203 (leBytes 1 res ++ leBytes 7 0 ++ leBytes 5 (s.fld Fd.LCM_COMMIT_TARGET)) true
  s.fault .lcm 0 0

/-- The result of arming now: 0 when nothing stands against it (R528). -/
def State.armCheck (s : State) : Nat :=
  let t := s.fld Fd.LCM_COMMIT_TARGET
  if !s.timeValid then 3
  else if s.boundary t < s.now + 4000 * 65536 then 2
  else if s.epochNow + 2 ^ 20 < t then 5 else 0

/-- A commit is armed: every marked page of COMMIT_MODE STAGED shows its epoch (R528). -/
def State.armed (s : State) : State :=
  have s := (s.setFld Fd.LCM_CTRL_ARM 0 1).setFld Fd.LCM_STATE_CSTATE 0 1
  (rwsPages.filter fun p => s.isMarked p.1 p.2 && s.fld (Fd.PG_CTRL_COMMIT_MODE p.1) p.2 == 0).foldl (fun (t : State) p =>
    (t.setFld (Fd.PG_SHADOW_VALID p.1) p.2 1).setFld (Fd.PG_SHADOW_EPOCH p.1) p.2 (s.fld Fd.LCM_COMMIT_TARGET)) s

/-- A write of `LCM_CTRL` by its alias (0 none, 1 SET, 2 CLR): ARM is set, or cleared before the window. -/
def lcmCtrlWrite (al : Nat) (d : Word) (s : State) : State :=
  let was := s.fld Fd.LCM_CTRL_ARM == 1
  let on := if al = 1 then was || d.getLsbD 0 else if al = 2 then was && !d.getLsbD 0 else d.getLsbD 0
  if on && !was then
    let c := s.armCheck
    if c = 0 then s.armed else s.commitRefused c
  else if was && !on then s.disarm else s

/-- COMMIT_ARM. -/
def execCommitArm (q : Req) (s : State) : Host.Outcome State Fault Refusal :=
  done (s.rowWrite q .lcm 0 0x450 1 fun s => (lcmCtrlWrite 1 1 s).okay)

/-- COMMIT_DISARM. -/
def execCommitDisarm (q : Req) (s : State) : Host.Outcome State Fault Refusal :=
  done (s.rowWrite q .lcm 0 0x850 1 fun s => (lcmCtrlWrite 2 1 s).okay)

/-- A write of `LCM_COMMIT`: ignored while a commit is armed (R528). -/
def lcmCommitWrite (d : Word) (s : State) : State :=
  if s.fld Fd.LCM_CTRL_ARM = 1 then s.pgErr .lcm 0 .unit 0x48 1 else s.plainWrite .lcm 0 0x48 0 d id

/-- LCM_COMMIT_WRITE. -/
def execLcmCommitWrite (q : Req) (d : Word) (s : State) : Host.Outcome State Fault Refusal :=
  done (s.rowWrite q .lcm 0 0x48 d fun s => (lcmCommitWrite d s).okay)

/-- COMMIT_WINDOW_OPEN (R529): 200 AON cycles before the boundary edge into TARGET; background work refuses the commit. -/
def commitWindowOpen (s : State) : State :=
  if s.fld Fd.LCM_STATE_CSTATE = 1 ∧ s.timeValid then
    let b := s.aon + s.edgesTo (s.boundary (s.fld Fd.LCM_COMMIT_TARGET))
    have s := s.reach (b - 200)
    if s.bgPending then s.commitRefused 4
    else { s.setFld Fd.LCM_STATE_CSTATE 0 2 with lcm := { s.lcm with windowEnd := some (b + 64), commitNow := false } }
  else s

def execCommitWindowOpen (s : State) : Host.Outcome State Fault Refusal := done (commitWindowOpen s)

/-- The armed commit applies at this edge, the boundary edge into epoch `n` (R529, R530). -/
def State.commitApply (s : State) (n : Nat) : State :=
  let old := s.fld Fd.LCM_STAT_CFG_VER
  let v := s.fld Fd.LCM_COMMIT_VERSION
  let (s, bad) := s.commitPages n true
  have s := (s.setFld Fd.LCM_STAT_CFG_VER 0 v).bump Fd.LCM_CNT_PAGE_REJECTS 0 bad
  have s := if s.bgPending then { s with lcm := { s.lcm with prevVer := old } }.setFld Fd.LCM_STAT_NEXT_VER 0 v else s
  { s.setFld Fd.LCM_STATE_CSTATE 0 2 with lcm := { s.lcm with windowEnd := some (s.aon + 64), rejects := bad, commitNow := true } }

/-- The commits of the boundary edge into epoch `n` after epoch `old` (none before the first): the armed one when its TARGET has come,
and the pages of COMMIT_MODE NEXT_EPOCH. The armed one is refused BG_BUSY when it had no window and background work runs, and LATE
when its TARGET passed while time was not valid. -/
def State.commitAt (s : State) (old : Option Nat) (n : Nat) : State :=
  let c := s.fld Fd.LCM_STATE_CSTATE
  let t := s.fld Fd.LCM_COMMIT_TARGET
  if s.lcm.commitNow = false ∧ (c = 1 ∨ c = 2) ∧ t ≤ n then
    if old.any (fun o => decide (t ≤ o)) then (s.commitRefused 2).commitPages n false |>.1
    else if c = 1 ∧ s.bgPending then (s.commitRefused 4).commitPages n false |>.1
    else s.commitApply n
  else
    let (t, _) := s.commitPages n false
    t.bgAlone s.bgPending

/-- COMMIT_WINDOW_CLOSE (R529): 64 AON cycles after the edge the result stands. -/
def commitWindowClose (s : State) : State :=
  match s.lcm.windowEnd with
  | some e =>
    if s.lcm.commitNow then
      have s := s.reach e
      let r := if s.lcm.rejects = 0 then 1 else 6
      let n := s.lcm.rejects
      have s := ((s.disarm.setFld Fd.LCM_STAT_RESULT 0 r).setFld Fd.LCM_STAT_REJECTS 0 (min n 255)).bump Fd.LCM_CNT_COMMITS
      s.event 0x0202 (leBytes 1 r ++ leBytes 1 (min n 255) ++ leBytes 2 (s.fld Fd.LCM_COMMIT_VERSION) ++ leBytes 4 0 ++
        leBytes 5 (s.fld Fd.LCM_COMMIT_TARGET)) true
    else s
  | none => s

def execCommitWindowClose (s : State) : Host.Outcome State Fault Refusal := done (commitWindowClose s)

end Sys2Proof.Machine
end

