-- ==== Sys2Proof/Machine/Votes.lean ====
section
/-! DEFINITION. VOTE_RAISE and VOTE_CLEAR: the priming votes against the conditions of Table 03-4 (R70, R73). -/

namespace Sys2Proof.Machine

/-- A unit that may vote (R73): fitted and not degraded. An accepted run goes on when the unit is disabled or stopped (R482). -/
def State.votes (s : State) (u : UnitKind) (i : Nat := 0) : Bool := s.chip.fitted u i && !s.degraded u i

/-- A run of MXE waits, runs or is preempted. -/
def State.mxeBusy (s : State) : Bool :=
  (List.range 8).any fun i => s.votes .mxe i && s.mxe.any fun (k, m) => k == i && (m.run.isSome || !m.pend.isEmpty || !m.saved.isEmpty)

/-- An ensemble run waits or runs. -/
def State.treBusy (s : State) : Bool :=
  (List.range 4).any fun i => s.votes .tre i && s.tre.any fun (k, t) => k == i && (t.run.isSome || !t.pend.isEmpty)

/-- The condition under which a voter holds its vote (Table 03-4). -/
def State.voteHolds (s : State) : Voter → Bool
  | .smp => s.live .smp && s.springWaits
  | .cmp => s.live .cmp && !(s.cmp.stage.isEmpty && s.cmp.springB.isEmpty && s.cmp.liveQ.isEmpty && s.cmp.held.isNone)
  | .mxe => s.mxeBusy
  | .tre => s.treBusy
  | .htp => s.live .htp && s.htp.srcs.any fun (x : Nat × TrSrc) => x.2.st == 1 || x.2.st == 2
  | .cap => s.votes .cap && (s.pmp.xfers.any (fun x => x.client == 9) || s.cap.rings.any fun (x : Nat × Ring) => x.2.st == 4)
  | .sw => s.fld Fd.PWR_SW_VOTE_VOTE == 1

/-- The condition that raises a vote: CMP waits for its staging level or age, the others for what they hold it for. -/
def State.voteRises (s : State) (v : Voter) : Bool :=
  s.voteHolds v && (v != .cmp || decide (s.fld Fd.PWR_CFG_STAGE_LEVEL * 65536 ≤ rowsBytes s.cmp.stage) ||
    s.cmp.stage.any fun r => decide (r.time + s.fld Fd.PWR_CFG_STAGE_AGE * units10us < s.now))

/-- VOTE_RAISE: a voter whose condition stands raises its vote. -/
def execVoteRaise (v : Voter) (s : State) : Host.Outcome State Fault Refusal :=
  done (if s.voteRises v then s.voteUp v else s)

/-- VOTE_CLEAR: a voter whose condition has ended drops its vote. -/
def execVoteClear (v : Voter) (s : State) : Host.Outcome State Fault Refusal :=
  done (if s.voteHolds v then s else s.voteDown v)

end Sys2Proof.Machine
end

