-- ==== Sys2Proof/Machine/Boundary.lean ====
section
/-! DEFINITION. The epoch boundary: what happens at its edge in every unit (R12, R14, R20 to R22, R99 to R103, R555), and the
`TKP_CTRL` commands. -/

namespace Sys2Proof.Machine

/-! ### The primary leaf of a package (R20 to R22) -/

/-- This leaf meets the conditions of R20. -/
def State.pkgEligible (s : State) : Bool :=
  s.lcm.bootDone && !s.flt.faulted && s.laneTrained 0 && decide (s.chip.pkgDieIdx < s.chip.pkgDies)

/-- The leaf that is primary from a boundary on: `elig` tells which are eligible, `was` is the primary and `held` the epochs it has
held the role. -/
def nextPrimary (dies : Nat) (elig : Nat → Bool) (was : Option Nat) (held : Nat) : Option Nat :=
  let lowest := (List.range dies).find? elig
  match was with
  | some p =>
    if elig p then (match lowest with | some l => if l < p ∧ 64 ≤ held then some l else some p | none => some p) else lowest
  | none => lowest

/-- PKG_PRIMARY_CHANGE at the boundary into epoch `n`; bit d of `others` says that die d is eligible. The package-level requests that a
primary answers (R20) are named nowhere, and the model has none (log entry 117). -/
def State.pkgBoundary (s : State) (n : Nat) (others : BitVec 8) : State :=
  if s.isTray then s
  else
    let me := s.chip.pkgDieIdx
    let p := nextPrimary s.chip.pkgDies (fun d => if d = me then s.pkgEligible else others.getLsbD d) s.pkg.primary (n - s.pkg.since)
    let same := p == s.pkg.primary
    { s with pkg := { primary := p, since := if same then s.pkg.since else n, others
                      changed := (s.pkg.changed || !same) && p == some me } }

/-! ### The boundary edge -/

/-- The boundary edge into epoch `n`, which ends epoch `old` (none at the origin). What was built before the edge is built first; then
configuration commits; then the new epoch opens, unless a forward step made the edge (`step`). -/
def State.boundaryEdge (s : State) (old : Option Nat) (n : Nat) (others : BitVec 8) (step : Bool) : State :=
  have s := s.eprCloseOpen
  have s := s.coresBoundary
  have s := match old with
    | some o => (s.pmuBoundary o).enginesBoundary o
    | none => s
  have s := { s with tkp := { s.tkp with epoch := n } }
  have s := if step then s.rdxStepped old n else s
  have s := (s.commitAt old n).pkgBoundary n others
  let e := s.tkp.epoch
  have s := ((s.setFld Fd.EVR_EPOCH_EPOCH 0 e).decBoundary).eftBoundary
  have s := if s.isTray then s.mirrorBoundary.gatesStart else s
  if step then s.smpStepped else (s.eprOpen e).rdxOpen e

/-- The epoch in progress, none before the origin. -/
def State.epochIn (s : State) : Option Nat := if s.preOrigin then none else some s.tkp.epoch

/-- EPOCH_BOUNDARY: the first edge at or after the next boundary instant (R100, R101). -/
def epochBoundary (others : BitVec 8) (s : State) : State :=
  if s.timeValid ∧ 0 < s.epochLen then
    let old := s.epochIn
    let n := match old with | some o => o + 1 | none => 0
    have s := s.reachTime (s.boundary n)
    if epochMax < n then s.epochLimit else s.boundaryEdge old n others false
  else s

def execEpochBoundary (others : BitVec 8) (s : State) : Host.Outcome State Fault Refusal := done (epochBoundary others s)

/-! ### TKP_CTRL (R98, R99) -/

/-- FORWARD_STEP: time has stepped forward past `old` (R555). A step inside the epoch in progress only closes its record. -/
def State.stepped (s : State) (old : Option Nat) : State :=
  let e := s.epochOf s.now
  let n := min e epochMax
  have s := s.markStepped
  if s.preOrigin ∨ old.any (fun o => decide (n ≤ o)) then s.eprCloseOpen.smpStepped
  else
    have s := s.boundaryEdge old n s.pkg.others true
    if epochMax < e then s.epochLimit else s

/-- A write of ACCEPT_JUMP: LOCKED again, RATE from FREQ, and the pending offset applied as a step at the next edge or as a slew. -/
def State.acceptJump (s : State) : State :=
  if s.fld Fd.TKP_STATE_JUMP_PENDING = 0 then s
  else
    let d := sext (s.fld Fd.TKP_PENDING_DELTA) 48
    have s := ((s.noJump).tkpTo 2).event 0x0401 (leBytes 8 (wrapI d 64))
    if d < 0 then s.slewStart d
    else if d = 0 then s
    else
      have s := s.advance 1
      let old := s.epochIn
      (s.timeAdd d).stepped old

/-- A write of `TKP_CTRL`. -/
def tkpCtrlWrite (d : Word) (s : State) : State :=
  have s := if d.getLsbD 0 then s.acceptJump else s
  if d.getLsbD 1 then s.reacquire else s

/-- ACCEPT_JUMP. -/
def execAcceptJump (q : Req) (s : State) : Host.Outcome State Fault Refusal :=
  done (s.rowWrite q .tkp 0 0xA8 1 fun s => (tkpCtrlWrite 1 s).okay)

/-- REACQUIRE. -/
def execReacquire (q : Req) (s : State) : Host.Outcome State Fault Refusal :=
  done (s.rowWrite q .tkp 0 0xA8 2 fun s => (tkpCtrlWrite 2 s).okay)

end Sys2Proof.Machine
end

