-- ==== Sys2Proof/Machine/Lcm.lean ====
section
/-! DEFINITION. LCM (chapter 21 without its commits): the resets, the boot with the NV state it decides, life-cycle changes with
their wipes, and the OTP. -/

namespace Sys2Proof.Machine

/-! ### The OTP (R527, R535) -/

/-- What an OTP program changes, by INDEX of Table 21-9. -/
def Otp.program (o : Otp) (idx : Nat) (d : BitVec 384) : Otp :=
  if idx < 4 then { o with keys := o.keys.set idx d }
  else if idx = 4 then { o with revoked := o.revoked ||| d.truncate 4 }
  else { o with svnMin := d.toNat % 65536 }

/-- A key hash from six data words, the first the most significant. -/
def hashOf (ws : List Word) : BitVec 384 := ws.foldl (fun (a : BitVec 384) w => (a <<< 64) ||| w.zeroExtend 384) 0

/-- The six data words of a key hash. -/
def hashWords (d : BitVec 384) : List Word := (List.range 6).map fun k => (d >>> (64 * (5 - k))).truncate 64

/-- READ of the OTP table. -/
def otpRead (idx : Nat) (s : State) : WinOut :=
  let o := s.lcm.otp
  if o.busy.isSome then s.win 7
  else if idx < 4 then
    s.winData (hashWords (o.keys.getD idx 0) ++
      [BitVec.ofNat 64 (b2n (o.revoked.getLsbD idx) * 2 + b2n (o.keys.get? idx).isSome)])
  else if idx = 4 then s.winData [o.revoked.zeroExtend 64]
  else if idx = 5 then s.winData [BitVec.ofNat 64 o.svnMin]
  else s.win 2

/-- OTP_READ_CMD. -/
def execOtpReadCmd (q : Req) (idx : Nat) (s : State) : Host.Outcome State Fault Refusal :=
  done (s.winCmd q .lcm 0 0 1 idx (otpRead idx))

/-- What stands against an OTP write: its RESULT, 0 when it is accepted (R527). -/
def Otp.refuses (o : Otp) (lc idx : Nat) (d : BitVec 384) : Nat :=
  if 5 < idx then 2
  else if lc = 3 then 11
  else if idx < 4 then (if 1 < lc then 11 else if (o.keys.get? idx).isSome then 6 else 0)
  else if idx = 4 then
    if lc = 0 then 11
    else if o.keys.any fun (x : Nat × BitVec 384) => !(o.revoked ||| d.truncate 4).getLsbD x.1 then 0 else 6
  else if d.toNat % 65536 < o.svnMin then 6 else 0

/-- WRITE of the OTP table: a program of 5 ms starts. -/
def otpWrite (idx : Nat) (s : State) : WinOut :=
  let d := if idx < 4 then hashOf ((List.range 6).map fun k => s.data .lcm 0 k) else (s.data .lcm 0 0).zeroExtend 384
  if s.lcm.otp.busy.isSome then s.win 7
  else
    let r := s.lcm.otp.refuses s.lcm.lcState idx d
    if r = 0 then
      let otp := { s.lcm.otp with busy := some (idx, d, s.aon + 5 * cyMs) }
      have s := { s with lcm := { s.lcm with otp } }
      s.winBusy
    else s.win r

/-- OTP_WRITE_CMD. -/
def execOtpWriteCmd (q : Req) (idx : Nat) (s : State) : Host.Outcome State Fault Refusal :=
  done (s.winCmd q .lcm 0 0 2 idx (otpWrite idx))

/-- OTP_PROGRAM_DONE: the 5 ms have passed. -/
def otpProgramDone (s : State) : State :=
  match s.lcm.otp.busy with
  | none => s
  | some (idx, d, e) =>
    have s := s.reach e
    let otp := { s.lcm.otp.program idx d with busy := none }
    have s := { s with lcm := { s.lcm with otp } }
    if s.fld (Fd.TBL_STAT_BUSY .lcm) = 1 then s.winEnd .lcm 0 0 else s

def execOtpProgramDone (s : State) : Host.Outcome State Fault Refusal := done (otpProgramDone s)

/-! ### POR and BLOCK (R516, Table 21-2) -/

/-- The chip with its straps sampled anew: on a tray the package straps are ignored (R1, R19, R538). -/
def Chip.strapped (c : Chip) (st : Straps) : Chip :=
  if st.roleSel then { c with role := .tray, pkgDieIdx := 0, pkgDies := 0, wellTie := 0 }
  else { c with role := .leaf, pkgDieIdx := st.pkgDieIdx.toNat, pkgDies := st.pkgDies.toNat + 1, wellTie := st.wellTie }

/-- The SEQ that the next record of a partition takes: above its newest readable record. -/
def nextSeq (log : List (Option NvRec)) : Nat :=
  match log.findIdx? (·.isSome), log.findSome? id with
  | some k, some r => (r.seq + 1 + k) % 2 ^ 32
  | _, _ => 0

/-- The journals of a partition, each with its mark. -/
def NorPart.journals (p : NorPart) : List (Option NvState × Option Nat) := [(p.jour0, p.mark0), (p.jour1, p.mark1)]

/-- The marked journal whose GEN exceeds every good copy's (Table 21-4, case 1). -/
def NorPart.replayable (p : NorPart) : Option NvState :=
  p.journals.foldl (fun (best : Option NvState) (x : Option NvState × Option Nat) =>
    match x with
    | (some t, some g) => if t.gen = g ∧ max (genOf p.valid) (genOf best) ≤ g then some t else best
    | _ => best) none

/-- GEN of a journal that is ignored: its mark fails its check, or it has none (case 2). -/
def NorPart.discarded (p : NorPart) : Option Nat :=
  p.journals.findSome? fun x => match x with
    | (some t, none) => some t.gen
    | (some t, some g) => if t.gen = g then none else some t.gen
    | (none, some g) => some g
    | (none, none) => none

/-- The state a partition decides at boot, with nothing at all the empty one (Table 21-4). -/
def NorPart.decided (p : NorPart) : NvState := (p.replayable.orElse fun _ => p.valid).getD NvState.empty

/-- A life-cycle change was cut short: its wipes or its NV commit are not done (R526). -/
def State.lcOwed (s : State) : Bool :=
  s.lcm.wipeOwed || (s.lcm.bootDone && s.nvOwner && s.nvh.norOk && (s.part s.ownDie).decided.lc != s.nvh.st.lc)

/-- The package's role after a reset of this die (R20 to R22): the package keeps its primary, and where that was this die the lowest of the
other dies known to be eligible has taken over. The power-on reset of a leaf is the power-up of its package, which has no primary yet
(DESIGN CHOICE, log entry 117). -/
def State.pkgRestart (s : State) (kind : Nat) : Pkg :=
  if kind = 0 then State.reset.pkg
  else if s.pkg.primary = some s.chip.pkgDieIdx then
    { s.pkg with primary := (List.range s.chip.pkgDies).find? fun d => d != s.chip.pkgDieIdx && s.pkg.others.getLsbD d
                 since := s.tkp.epoch + 1, changed := false }
  else { s.pkg with changed := false }

/-- The block as a POR or BLOCK reset leaves it: the OTP, the NOR and the memories that a wipe has still to clear keep their
contents, all else is as after reset. A program of the OTP that the reset cuts short may have taken effect or not. -/
def State.restart (s : State) (c : Chip) (kind : Nat) : State :=
  let (w, s) := s.draw
  let otp := match s.lcm.otp.busy with
    | some (idx, d, _) => { (if w.getLsbD 0 then s.lcm.otp.program idx d else s.lcm.otp) with busy := none }
    | none => s.lcm.otp
  let r := State.reset
  have t := { r with
    chip := c
    lcm := { r.lcm with otp, resetKind := kind, wipeOwed := s.lcOwed }
    nvh := { r.nvh with parts := s.nvh.parts, lastSeq := s.nvh.parts.mapV fun _ p => nextSeq p.log }
    pkg := s.pkgRestart kind
    sram := s.sram, hbm := s.hbm, outbox := s.outbox, free := s.free, pending := s.pending }
  ((t.setFld Fd.LCM_STATE_LAST_RESET 0 kind).setFld Fd.LCM_STATE_PHASE 0 2).emit (.ready false)

/-- POWER_ON_RESET: `PORST_N` rises; the straps are sampled 0.5 µs later (Table 21-3). EVR starts empty (R492). -/
def execPowerOnReset (st : Straps) (s : State) : Host.Outcome State Fault Refusal :=
  done (((s.restart (s.chip.strapped st) 0).event 0x0701 [] true).advance 50)

/-- What a BLOCK reset keeps of EVR (R492), its buckets counting on from the new clock. -/
def State.evrKept (s old : State) : State :=
  have s := [Rg.EVR_HEAD, Rg.EVR_TAIL, Rg.EVR_RD, Rg.EVR_CNT].foldl (fun (s : State) r => s.setReg r 0 (old.reg r)) s
  let kept := fun (b : Bucket) => { b with credit := b.credit + (old.aon - b.last), last := 0 }
  { s with evr := { old.evr with buckets := old.evr.buckets.mapV fun _ b => kept b, fresh := kept old.evr.fresh, batch := 0 } }

/-- The EVR RESET record: kind and path (0 pin, 1 host port, 2 management). -/
def State.resetRecord (s : State) (kind path : Nat) : State := s.event 0x0207 (leBytes 1 kind ++ leBytes 1 path) true

/-- A BLOCK reset. FAST_VID returns to point 0; a level of `FAST_VOK` from another point does not count (R76). -/
def State.blockReset (s : State) (kind path : Nat) : State :=
  have s := s.resetRecord kind path
  have t := (s.restart s.chip kind).evrKept s
  have t := { t with pwr := { t.pwr with vok := s.pwr.vok && s.pwr.vid == 0 } }
  t.bump Fd.LCM_CNT_RESETS

/-- BLOCK_RESET_PIN: `BLK_RST_N` rises after at least 1 µs. -/
def execBlockResetPin (s : State) : Host.Outcome State Fault Refusal := done (s.blockReset 1 0)

/-! ### The boot (Table 21-3) -/

/-- LC_STATE at boot, from the fuses (R525). -/
def Otp.lcAtBoot (o : Otp) : Nat := if o.returnFuse then 3 else if o.provFuse then 1 else 0

/-- Cycles by which a BLOCK reset's boot runs ahead of Table 21-3. -/
def State.bootLead (s : State) : Nat := if s.lcm.resetKind = 0 then 0 else 50

/-- OTP_READ_DONE: the life-cycle state, and on a leaf boot priming; a tray's wipe starts where the leaf's fast domain is up. -/
def otpReadDone (s : State) : State :=
  if s.lcm.bootDone = false ∧ s.fld Fd.LCM_STATE_PHASE = 2 ∧ s.pwr.boot = false then
    have s := s.reach (5050 - s.bootLead)
    have s := { s with lcm := { s.lcm with lcState := s.lcm.otp.lcAtBoot } }
    if s.isTray then { s.setFld Fd.LCM_STATE_PHASE 0 3 with lcm := { s.lcm with wipeFrom := 6250 - s.bootLead } }
    else ({ s with pwr := { s.pwr with boot := true } }).tryPriming
  else s

def execOtpReadDone (s : State) : Host.Outcome State Fault Refusal := done (otpReadDone s)

/-- Cycles of the SRAM and the HBM wipe (Table 21-6). -/
def State.sramWipe (s : State) : Nat := if s.isTray then 9 * cyMs else 120000
def State.hbmWipe (s : State) : Nat := if !s.isTray then 0 else if s.chip.full then 64 * cyMs else 32 * cyMs

/-- The wipes end: SRAM and, with `hbm`, HBM read zero. `wipeFrom` keeps the edge of their end. -/
def State.wiped (s : State) (hbm : Bool) : State :=
  let n := if hbm then max s.sramWipe s.hbmWipe else s.sramWipe
  have s := (s.reach (s.lcm.wipeFrom + n)).setFld Fd.LCM_BOOT_WIPE_US 0 (n / cyUs)
  { s with sram := [], hbm := if hbm then [] else s.hbm, lcm := { s.lcm with wipeFrom := s.lcm.wipeFrom + n } }

/-- A new life-cycle state: its records, and the NV state with it (R523). -/
def State.lcMoves (s : State) (old new : Nat) : State :=
  have s := { s with lcm := { s.lcm with lcState := new }, nvh := { s.nvh with st := { s.nvh.st with lc := new } } }
  (s.nvLog 10 0xFF 0 (BitVec.ofNat 32 new)).event 0x0204 (leBytes 1 old ++ leBytes 1 new) true

/-- The unit memories that the wipes of a life-cycle change clear: models, firmware, EFT entries, the pattern bundle, the mirror image
(R524). -/
def State.memoriesWiped (s : State) : State :=
  have s := { s with
    mxe := [], tre := []
    eft := { s.eft with tbl := [], old := [], oldSeed := 0, rehash := false, sweep := false, sweepDue := false, feeds := [] }
    cor := { cores := s.cor.cores.mapV fun _ k => { k with imem := [], dmem := [], entry := 0 }, load := none }
    scr := { State.reset.scr with suspects := s.scr.suspects }
    bud := { s.bud with img := [] } }
  s.setReg Rg.SCR_BUNDLE 0 0

/-- The end of a life-cycle change's wipes (R524): state and fuse, `DIR_NODE` when DEPLOYED is left, then the NV commit. -/
def State.lcChanged (s : State) (new : Nat) : State :=
  let old := s.lcm.lcState
  let o := s.lcm.otp
  let otp := { o with provFuse := o.provFuse || (old == 0 && new == 1), returnFuse := o.returnFuse || new == 3 }
  have s := { s with lcm := { s.lcm with otp, lcNew := none, wipeOwed := false } }
  have s := if old = 2 then s.setReg Rg.DIR_NODE 0 0 else s
  (s.lcMoves old new).journal

/-- WIPE_DONE. A tray's boot decides its NV state first: it tells whether HBM is wiped (R526). -/
def wipeDone (s : State) : State :=
  if s.lcm.bootDone then s
  else match s.lcm.lcNew with
  | some new => if s.lcm.funcReset then s else ((s.wiped true).memoriesWiped).lcChanged new
  | none =>
    if s.fld Fd.LCM_STATE_PHASE = 3 ∧ (s.isTray → s.lcm.nvCase ≠ 0) then
      (s.wiped (s.isTray && (s.lcm.wipeOwed || s.nvh.st.lc == 2))).setFld Fd.LCM_STATE_PHASE 0 4
    else s

def execWipeDone (s : State) : Host.Outcome State Fault Refusal := done (wipeDone s)

/-- The NV state of this die is decided (Table 21-4), its units' degradations applied. -/
def State.nvDecide (s : State) : State :=
  let p := s.part s.ownDie
  let jrec := fun (s : State) what gen => s.event 0x0206 (leBytes 1 what ++ leBytes 3 0 ++ leBytes 4 gen) true
  let setCase := fun (s : State) n => { s with lcm := { s.lcm with nvCase := n } }
  match p.replayable with
  | some t =>
    have s := { s with nvh := { s.nvh with commit := some t, commitDie := s.ownDie, jstep := 5 } }
    (((jrec s 1 t.gen).emit (.nor "erase" s.ownDie)).takeNv t |> setCase) 1
  | none =>
    let (s, case2) := match p.discarded with
      | some g => (jrec s 2 g, true)
      | none => (s, false)
    match p.valid with
    | some t => setCase (s.takeNv t) (if case2 then 2 else 3)
    | none => setCase ((s.takeNv NvState.empty).fault .nvh 0 1) (if case2 then 2 else 4)

/-- The states of the package's other dies, as their partitions decide them. -/
def State.othersDecide (s : State) : State :=
  let ds := (List.range s.chip.pkgDies).filter fun d => d != s.ownDie
  { s with nvh := { s.nvh with
      dieStates := ds.filterMap fun d => if (s.nvh.parts.get? d).isSome then some (d, (s.part d).decided) else none
      followOn := ds.filter fun d => (s.part d).replayable.isSome } }

/-- NV_STATE_DECIDE: the NOR has been read, or has not answered its identification (`ok` false), 1,900 µs into the boot. -/
def nvStateDecide (ok : Bool) (s : State) : State :=
  let ph := s.fld Fd.LCM_STATE_PHASE
  if s.nvOwner ∧ s.lcm.bootDone = false ∧ s.lcm.nvCase = 0 ∧ (ph = 3 ∨ ph = 4) then
    have s := s.reach (190000 - s.bootLead)
    have s := { s with nvh := { s.nvh with norOk := ok } }
    if ok then s.othersDecide.nvDecide
    else
      have s := (s.takeNv NvState.empty).fault .nvh 0 1
      { s with lcm := { s.lcm with nvCase := 4 } }
  else s

def execNvStateDecide (ok : Bool) (s : State) : Host.Outcome State Fault Refusal := done (nvStateDecide ok s)

/-- At BOOT_DONE a leaf's lane trains and, after a boot, its time is acquired (R519). -/
def State.slkEnable (s : State) : State :=
  have s := s.setFld (Fd.PG_CTRL_ENABLE .slk) 0 1
  if s.lstate 0 = 0 then s.laneTo 0 1 else s

/-- The boot commit: POWER_CYCLES, the LC byte, the BOOT record; a deployment that a reset ended (R465, R523, R526). -/
def State.bootCommit (s : State) : State :=
  let was := s.nvh.st.lc
  let st := { s.nvh.st with
    powerCycles := (s.nvh.st.powerCycles + b2n (s.lcm.resetKind == 0)) % 2 ^ 32, lc := s.lcm.lcState }
  have s := ({ s with nvh := { s.nvh with st } }).nvLog 1 0xFF 0 0
  have s := s.event 0x0201 (leBytes 1 s.lcm.resetKind ++ leBytes 1 s.lcm.nvCase ++ leBytes 2 0 ++ leBytes 4 (s.aon / cyUs)) true
  (if was = 2 then s.lcMoves 2 s.lcm.lcState else s).journal

/-- The block runs: PHASE, BOOT_DONE, `XEM_READY`, BOOT_US (R519). -/
def State.ready (s : State) : State :=
  have s := (s.setFld Fd.LCM_STATE_PHASE 0 0).setFld Fd.LCM_BOOT_BOOT_US 0 ((s.aon - s.lcm.bootStart) / cyUs)
  have s := { s with lcm := { s.lcm with bootDone := true } }
  s.emit (.ready true)

/-- Boot priming is released (Table 21-3). -/
def State.bootPrimingEnd (s : State) : State :=
  have s := { s with pwr := { s.pwr with boot := false } }
  if s.pst = 3 ∧ s.reg Rg.PWR_VOTE = 0 then s.enterHold else s

/-- The end of a boot; a leaf that does not own the NOR waits one cycle in PHASE 4. -/
def State.bootEnd (s : State) : State :=
  have s := if s.nvOwner then s else s.reach (s.lcm.wipeFrom + 1)
  have s := { s with lcm := { s.lcm with wipeOwed := false } }
  have s := s.bootCommit.ready
  if s.isTray then s
  else
    have s := (s.slkEnable.setFld (Fd.PG_CTRL_ENABLE .tkp) 0 1).bootPrimingEnd
    if s.chip.pkgDies ≤ s.chip.pkgDieIdx then s.fault .lcm 0 1 else s

/-- The pages that a FUNCTION reset held answer again. -/
def State.releasePages (s : State) : State :=
  let held := (s.fittedPages.filter fun p => !keptByFunction p.1).foldl
    (fun (m : SMap Nat) (p : UnitKind × Nat) => m.erase (pageKey p.1 p.2)) s.resetting
  { s with resetting := held }

/-- The end of a FUNCTION reset or life-cycle change (R518, R519): TKP was kept, the lane trains again. -/
def State.functionEnd (s : State) : State :=
  have s := s.releasePages.ready
  if s.isTray then s else s.slkEnable.setFld (Fd.PG_CTRL_ENABLE .tkp) 0 1

/-- What BOOT_DONE does: the end of a boot, or of a life-cycle change whose wipes have ended. -/
def bootDone (s : State) : State :=
  if s.lcm.bootDone then s
  else if s.fld Fd.LCM_STATE_PHASE = 4 then (if s.nvOwner ∧ s.lcm.nvCase = 0 then s else s.bootEnd)
  else if s.fld Fd.LCM_STATE_PHASE = 5 ∧ s.lcm.lcNew = none then s.functionEnd
  else s

/-- What FUNCTION_RESET_DONE does: the reset ends, or goes on to the wipes of a life-cycle change (R524). -/
def functionResetDone (s : State) : State :=
  if s.lcm.funcReset then
    have s := { s with lcm := { s.lcm with funcReset := false } }
    match s.lcm.lcNew with
    | some _ => { s with lcm := { s.lcm with wipeFrom := s.aon } }
    | none => s.functionEnd
  else s

/-! ### LCM_CMD (R517, R523) -/

/-- The life-cycle state that OP leads to, none where Table 21-5 refuses it. -/
def State.lcNext (s : State) (op : Nat) : Option Nat :=
  let lc := s.lcm.lcState
  if op = 1 ∧ lc = 0 ∧ !s.lcm.otp.keys.isEmpty then some 1
  else if op = 2 ∧ lc = 1 ∧ s.fld Fd.DIR_NODE_VALID = 1 ∧ s.timeValid then some 2
  else if op = 3 ∧ lc = 2 then some 1
  else if op = 4 ∧ (lc = 1 ∨ lc = 2) then some 3
  else none

/-- A FUNCTION reset starts, by itself (kind 3) or for a life-cycle change (kind 4). -/
def State.startFunction (s : State) (kind path : Nat) : State :=
  have s := ((s.resetRecord kind path).functionReset).setFld Fd.LCM_STATE_LAST_RESET 0 kind
  { s.bump Fd.LCM_CNT_RESETS with lcm := { s.lcm with bootStart := s.aon } }

/-- An accepted command takes effect. -/
def State.lcmTakes (s : State) (c : LcmCmd) : State :=
  let path := match c.path with | .mgmt => 2 | _ => 1
  if c.op = 9 then s.blockReset 2 path
  else if c.op = 8 then s.startFunction 3 path
  else match s.lcNext c.op with
  | none => s.pgErr .lcm 0 .unit 0x58 2
  | some new =>
    have s := (s.startFunction 4 path).setFld Fd.LCM_STATE_PHASE 0 5
    { s with lcm := { s.lcm with lcNew := some new, wipeOwed := true } }

/-- LCM_CMD_TAKE_EFFECT: the oldest command whose reply has left, at its edge; one that came in the commit window waits for its end. -/
def lcmCmdTakeEffect (s : State) : State :=
  let (pre, post) := s.lcm.cmd.span fun (c : LcmCmd) => c.ahead ≠ 0
  match post with
  | [] => s
  | c :: cs =>
    if (match s.lcm.windowEnd with | some e => decide (e < c.due) | none => false) then s
    else ({ s with lcm := { s.lcm with cmd := pre ++ cs } }.reach c.due).lcmTakes c

def execLcmCmdTakeEffect (s : State) : Host.Outcome State Fault Refusal := done (lcmCmdTakeEffect s)

/-- A write of `LCM_CMD` by a path (R517): it takes effect at the next edge, or 2 µs after its MGMT_RESP, which stands behind those that
wait to be sent, has left for the tray. -/
def lcmCmdWrite (p : Path) (d : Word) (s : State) : State :=
  let op := bits d.toNat 7 0
  if bits d.toNat 63 48 = 0xC0DE ∧ ([1, 2, 3, 4, 8, 9].contains op) then
    let ahead := match p with
      | .mgmt => (((s.lane 0).txq.getD 1 []).filter fun (it : TxItem) => it.ftype == 0x21).length + 1
      | _ => 0
    let due := s.aon + (match p with | .mgmt => 2 * cyUs | _ => 1)
    let due := match s.lcm.windowEnd with | some e => max due (e + 1) | none => due
    { s with lcm := { s.lcm with cmd := s.lcm.cmd ++ [{ op, path := p, due, ahead }] } }
  else s.pgErr .lcm 0 .badValue 0x58

/-- An `LCM_CMD` write with an OP and its KEY. -/
def State.lcmCmd (s : State) (q : Req) (op : Nat) : State :=
  let d := BitVec.ofNat 64 (0xC0DE * 2 ^ 48 + op)
  s.rowWrite q .lcm 0 0x58 d fun s => (lcmCmdWrite q.path d s).okay

def execLcmProvision (q : Req) (s : State) : Host.Outcome State Fault Refusal := done (s.lcmCmd q 1)
def execLcmDeploy (q : Req) (s : State) : Host.Outcome State Fault Refusal := done (s.lcmCmd q 2)
def execLcmUndeploy (q : Req) (s : State) : Host.Outcome State Fault Refusal := done (s.lcmCmd q 3)
def execLcmReturn (q : Req) (s : State) : Host.Outcome State Fault Refusal := done (s.lcmCmd q 4)
def execLcmFunctionReset (q : Req) (s : State) : Host.Outcome State Fault Refusal := done (s.lcmCmd q 8)
def execLcmBlockReset (q : Req) (s : State) : Host.Outcome State Fault Refusal := done (s.lcmCmd q 9)

end Sys2Proof.Machine
end

