-- ==== Sys2Proof/Machine/Relay.lean ====
section
/-! DEFINITION. MGR's relay (R64 to R66, R410): requests to the leaves, their replies and timeouts, and the driver's window. -/

namespace Sys2Proof.Machine

/-! ### Entries (R64, R325, R410) -/

/-- Requests that may be outstanding at a leaf (R65). -/
def mgmtMax : Nat := 16

/-- The bytes of a MGMT_REQ entry (Table 12-7). -/
def MgmtEntry.bytes (e : MgmtEntry) : Bytes :=
  leBytes 2 e.seq.toNat ++ leBytes 4 (controlWord e.addr e.write e.size32 e.priv) ++ leBytes 2 0 ++
    leBytes 8 (if e.write then e.wdata.toNat else 0)

/-- The request that a SEQ, a control word of R30 and a data word spell. -/
def mgmtEntry (sq c d : Nat) : MgmtEntry :=
  { seq := BitVec.ofNat 16 sq, addr := BitVec.ofNat 22 c, write := bit c 22, size32 := bit c 23
    priv := BitVec.ofNat 2 (bits c 25 24), wdata := BitVec.ofNat 64 d }

/-- The bytes of a MGMT_RESP entry (Table 12-7), and the reply they spell. -/
def respBytes (r : MgmtReply) : Bytes :=
  leBytes 2 r.seq.toNat ++ leBytes 1 r.rstat.toNat ++ leBytes 5 0 ++ leBytes 8 r.rdata.toNat

def respOf (b : Bytes) : MgmtReply :=
  { seq := BitVec.ofNat 16 (rdLE b 0 2), rstat := BitVec.ofNat 8 (rdLE b 2 1), rdata := BitVec.ofNat 64 (rdLE b 8 8) }

/-- An entry in its place by rising key, before those of the same key. -/
def insertEntry (key : MgmtEntry → Nat) (e : MgmtEntry) : List MgmtEntry → List MgmtEntry
  | [] => [e]
  | x :: r => if key e ≤ key x then e :: x :: r else x :: insertEntry key e r

/-- A list of entries in SEQ order, which runs modulo 2^16 about the first entry's SEQ (R65, R325). -/
def seqSorted (es : List MgmtEntry) : List MgmtEntry :=
  let first := (es.map fun e => e.seq.toNat).headD 0
  es.foldr (insertEntry fun e => (e.seq.toNat + 65536 + 32768 - first) % 65536) []

/-! ### Replies -/

/-- One entry of a KIND 33 frame (R410). -/
def replyEntry (target : Nat) (r : MgmtReply) : Bytes :=
  leBytes 1 target ++ leBytes 1 0 ++ leBytes 2 r.seq.toNat ++ leBytes 1 r.rstat.toNat ++ leBytes 3 0 ++
    leBytes 8 r.rdata.toNat ++ leBytes 8 0

/-- Replies go back to the controller in a KIND 33 frame in queue 3 (R410). -/
def State.mgrReplyFrame (s : State) (target : Nat) (rs : List MgmtReply) : State :=
  if rs.isEmpty then s
  else s.sendFixed 3 fun p => s.upsFrame p (s.fld Fd.MGR_CFG_CONTROLLER_MAC) 33
    (leBytes 2 rs.length ++ leBytes 4 0 ++ rs.flatMap (replyEntry target))

/-- The HEALTH record goes out once no read of its round is outstanding (R411). -/
def State.healthDue (s : State) : State :=
  if s.mgr.asking ∧ s.lanes.all fun (x : Nat × Lane) =>
      (x.2.out.all fun (o : MgmtOut) => o.origin != .health) && x.2.held.all fun (h : RelayFor × MgmtEntry) => h.1 != .health then
    { s with mgr := { s.mgr with asking := false } }.health
  else s

/-- Replies of a wellhead reach who asked for them. -/
def State.mgmtAnswer (s : State) (w : Nat) (o : RelayFor) (rs : List MgmtReply) : State :=
  match o with
  | .driver => { s with mgr := { s.mgr with relayed := s.mgr.relayed.set w (s.mgr.relayed.getD w [] ++ rs) } }
  | .controller => s.mgrReplyFrame w rs
  | .health => s.healthDue

/-- TIMEOUT as MGR forms it: `RSTAT` describes the tray (R66). -/
def State.timeoutReply (s : State) (sq : BitVec 16) : MgmtReply := ⟨sq, s.rstat .timeout, 0⟩

/-- MGR answers TIMEOUT to requests of a wellhead. -/
def State.relayTimeout (s : State) (w : Nat) (o : RelayFor) (sqs : List (BitVec 16)) : State :=
  (s.bump Fd.MGR_CNT_TIMEOUTS 0 sqs.length).mgmtAnswer w o (sqs.map s.timeoutReply)

/-! ### Requests -/

/-- Requests leave in one MGMT_REQ flit (R325). -/
def State.relaySend (s : State) (w : Nat) (es : List (RelayFor × MgmtEntry)) : State :=
  if es.isEmpty then s
  else
    have s := s.modLane w fun l =>
      { l with out := l.out ++ es.map fun e => { seq := e.2.seq, sent := s.aon, origin := e.1 } }
    s.sendFlit w 0x20 1 ((seqSorted (es.map (·.2))).flatMap MgmtEntry.bytes)

/-- Requests held while 16 were outstanding leave. -/
def State.relayNext (s : State) (w : Nat) : State :=
  let l := s.lane w
  let n := min 15 (mgmtMax - l.out.length)
  (s.modLane w fun l => { l with held := l.held.drop n }).relaySend w (l.held.take n)

/-- Requests for a wellhead (R64 to R66): TIMEOUT at once while it is not trained or MGR is out of service; no more than 16 are
outstanding, later ones wait. -/
def State.relay (s : State) (w : Nat) (o : RelayFor) (es : List MgmtEntry) : State :=
  have s := s.bump Fd.MGR_CNT_REQUESTS 0 es.length
  if s.live .mgr ∧ s.laneTrained w then
    (s.modLane w fun l => { l with held := l.held ++ es.map fun e => (o, e) }).relayNext w
  else s.relayTimeout w o (es.map (·.seq))

/-! ### MGMT_RESP (R66) -/

/-- One reply from a leaf: to its requester, with its attention kept for the health summary (Table 15-4). -/
def State.replyTaken (s : State) (w : Nat) (r : MgmtReply) : State :=
  match (s.lane w).out.find? fun (o : MgmtOut) => o.seq == r.seq with
  | none => s.slkViol w 13 0x21 1 ((s.lane w).exp + 4095)
  | some o =>
    let st := r.rstat.toNat
    have s := s.modLane w fun l =>
      { l with out := l.out.filter fun (x : MgmtOut) => x.seq != r.seq
               lastAttn := if bit st 7 then 3 else bits st 5 4 }
    s.mgmtAnswer w o.origin [r]

/-- The replies of a MGMT_RESP flit. -/
def State.respIn (s : State) (w : Nat) (rs : List MgmtReply) : State := (rs.foldl (fun s r => s.replyTaken w r) s).relayNext w

/-- MGMT_RESP_RX: the flit is accepted in sequence, policed on VC1 (Table 15-1), and its replies go to their requesters. -/
def mgmtRespRx (w : Nat) (rs : List MgmtReply) (s : State) : State :=
  if s.isTray ∧ w < s.wellheads ∧ s.laneActive w then (s.takeFlit w 1).policed w 1 (16 * rs.length) fun s => s.respIn w rs else s

def execMgmtRespRx (w : Nat) (rs : List MgmtReply) (s : State) : Host.Outcome State Fault Refusal := done (mgmtRespRx w rs s)

/-- MGMT_TIMEOUT: no reply within 200 µs of sending. -/
def mgmtTimeout (w : Nat) (sq : BitVec 16) (s : State) : State :=
  match (s.lane w).out.find? fun (o : MgmtOut) => o.seq == sq with
  | some o =>
    have s := s.reach (o.sent + 200 * cyUs)
    have s := s.modLane w fun l => { l with out := l.out.filter fun (x : MgmtOut) => x.seq != sq }
    (s.relayTimeout w o.origin [sq]).relayNext w
  | none => s

def execMgmtTimeout (w : Nat) (sq : BitVec 16) (s : State) : Host.Outcome State Fault Refusal := done (mgmtTimeout w sq s)

/-! ### The driver's window (Table 15-7) -/

/-- The next SEQ MGR gives that is not outstanding at the wellhead. -/
def State.nextSeq (s : State) (w : Nat) : Nat → Nat
  | 0 => s.mgr.seq
  | n + 1 =>
    let c := (s.mgr.seq + (mgmtMax - n)) % 65536
    if (s.lane w).out.any fun (o : MgmtOut) => o.seq.toNat == c then s.nextSeq w n else c

/-- A request at MGR's own SEQ. -/
def State.relayOwn (s : State) (w : Nat) (o : RelayFor) (e : MgmtEntry) : State :=
  let c := s.nextSeq w mgmtMax
  { s with mgr := { s.mgr with seq := c } }.relay w o [{ e with seq := BitVec.ofNat 16 c }]

/-- WRITE: a request at PRIV H. -/
def mgrRelayWrite (w : Nat) (s : State) : WinOut :=
  if s.wellheads ≤ w then s.win 2
  else if mgmtMax ≤ (s.lane w).out.length then s.win 4
  else
    let e := mgmtEntry 0 (s.data .mgr 0 0).toNat (s.data .mgr 0 1).toNat
    (s.relayOwn w .driver { e with priv := 1 }).win 0 w

def execMgrRelayWrite (q : Req) (idx : Nat) (s : State) : Host.Outcome State Fault Refusal :=
  done (s.winCmd q .mgr 0 0 2 idx (mgrRelayWrite idx))

/-- POP: the oldest reply of a wellhead. -/
def mgrRelayPop (w : Nat) (s : State) : WinOut :=
  if s.wellheads ≤ w then s.win 2
  else match s.mgr.relayed.getD w [] with
  | [] => s.win 1
  | r :: l =>
    { s with mgr := { s.mgr with relayed := if l.isEmpty then s.mgr.relayed.erase w else s.mgr.relayed.set w l } }.winData
      [r.rdata, BitVec.ofNat 64 (r.rstat.toNat * 65536 + r.seq.toNat)] w

def execMgrRelayPop (q : Req) (idx : Nat) (s : State) : Host.Outcome State Fault Refusal :=
  done (s.winCmd q .mgr 0 0 3 idx (mgrRelayPop idx))

end Sys2Proof.Machine
end

