-- ==== Sys2Proof/Machine/Xlt.lean ====
section
/-! DEFINITION. XLT (11.4, 11.5, 11.8): table walks, the TLB, invalidation, the contexts and the fault queue's window. -/

namespace Sys2Proof.Machine

/-- A context entry: VALID in [63] and ROOT in [51:12] (R305). -/
def State.ctx (s : State) (c : Nat) : Nat := s.xlt.ctxs.getD c 0

/-- An entry of a level is BAD_PTE (R287). -/
def badPte (level e : Nat) : Bool :=
  let leaf := bit e 1
  bits e 63 52 != 0 || bits e 11 4 != 0 || (leaf && level == 4) || (!leaf && level == 1) ||
    (leaf && level == 3 && bits e 29 12 != 0) || (leaf && level == 2 && bits e 20 12 != 0) || (bit e 3 && !bit e 2) ||
    (!leaf && (bit e 2 || bit e 3))

/-- How a walk ends: a leaf (level, entry) or a fault (cause, level, access 2 for the walk itself, entry). -/
inductive WalkEnd where
  | leaf (level pte : Nat)
  | fault (cause level : Nat) (walk : Bool) (pte : Nat)
  deriving DecidableEq, Repr

/-- The walk from level 4 down over the entries read, none for a failed read (R287). -/
def walk (write : Bool) : Nat → List (Option Word) → WalkEnd
  | 0, _ => .fault 3 0 true 0
  | l + 1, [] => .fault 3 (l + 1) true 0
  | l + 1, none :: _ => .fault 3 (l + 1) true 0
  | l + 1, some e :: r =>
    let e := e.toNat
    if !bit e 0 then .fault 4 (l + 1) false e
    else if badPte (l + 1) e then .fault 5 (l + 1) false e
    else if bit e 1 then
      if !write ∧ !bit e 2 then .fault 6 (l + 1) false e
      else if write ∧ !bit e 3 then .fault 7 (l + 1) false e
      else .leaf (l + 1) e
    else walk write l r

/-- Table reads a walk makes. -/
def walkReads : WalkEnd → Nat
  | .leaf l _ => 5 - l
  | .fault _ 0 _ _ => 0
  | .fault _ l _ _ => 5 - l

/-- The physical address of the entry each table read of a walk fetches (R286), from the table at `base` of a level down. -/
def walkAddrs (va : Nat) : Nat → Nat → List (Option Word) → List Nat
  | 0, _, _ => []
  | l + 1, base, ptes =>
    (base + 8 * (va / 2 ^ (12 + 9 * l) % 512)) :: match ptes with
      | some e :: r => walkAddrs va l (bits e.toNat 51 12 * 4096) r
      | _ => []

/-- The table reads of a walk leave for host memory. -/
def State.walkEmit (s : State) (ctx va n : Nat) (ptes : List (Option Word)) : State :=
  ((walkAddrs va 4 (bits (s.ctx ctx) 51 12 * 4096) ptes).take n).foldl (fun s a => s.emit (.hostRead a 8)) s

/-- A stream stalls on a translation fault (R290): its entry is queued. A WB word that a reset of PMP still owes has no ring to stall: it is
given up (DESIGN CHOICE, log entry 128). -/
def State.stallStream (s : State) (x : Strm) (e : FqEnt) : State :=
  match x with
  | .ring c => (s.setChan c { s.chan c with stalled := true }).fqAdd e
  | .house c va _ =>
    let owed := fun (r : RingEnd) => r.ch == c && r.wbVa == va
    if s.pmp.ends.any owed then { s with pmp := { s.pmp with ends := s.pmp.ends.filter fun r => !owed r } }
    else (s.setChan c { s.chan c with stalled := true }).fqAdd e
  | .unit client inst => (s.modXfer client inst fun y => { y with stalled := true }).fqAdd e

/-- The client, instance and channel a stream's fault entry names (Tables 11-5, 11-8). -/
def strmClient : Strm → Nat → Nat × Nat
  | .ring c, _ => (0, c)
  | .house c _ _, _ => (1, c)
  | .unit client inst, _ => (client, inst)

/-- XLT_WALK (R286 to R288, R290): the walk for the first access of the stream's next segment that the TLB does not serve;
`ptes` are the entries read from level 4 down. -/
def xltWalk (x : Strm) (ptes : List (Option Word)) (s : State) : State :=
  if !s.primed then s
  else match s.nextAcc x with
  | none => s
  | some (ch, ctx, accs) =>
    match accs.find? fun a => !s.tlbHas ctx a.1 a.2 with
    | none => s
    | some (va, write) =>
      let w := if !bit (s.ctx ctx) 63 then .fault 1 0 false 0
        else if 2 ^ 48 ≤ va then .fault 2 0 false 0 else walk write 4 ptes
      have s := ((s.bumpW Fd.XLT_TLB_CNT_MISSES).ev .xlt 0 2).ev .xlt 0 3 (walkReads w)
      have s := s.walkEmit ctx va (walkReads w) ptes
      match w with
      | .leaf level pte =>
        s.tlbPut { xltCtx := ctx, level, va := va / 2 ^ pageBits level * 2 ^ pageBits level
                   pa := bits pte 51 12 * 4096, wr := bit pte 3 }
      | .fault cause level isWalk pte =>
        let (client, inst) := strmClient x ch
        s.stallStream x
          { token := none, va, xltCtx := ctx, client, inst, ch, cause, level
            access := if isWalk then 2 else b2n write, pte := if cause ≤ 3 then 0 else BitVec.ofNat 64 pte
            edge := s.aon, tmo := s.fld Fd.XLT_CFG_FAULT_TMO_US, read := false }

def execXltWalk (x : Strm) (ptes : List (Option Word)) (s : State) : Host.Outcome State Fault Refusal :=
  done (xltWalk x ptes s)

/-! ### The fault queue's window -/

/-- XLT POP (R292, Table 11-8). -/
def xltPop (s : State) : WinOut :=
  match s.xlt.faults.find? fun e => e.token.isSome && !e.read with
  | none => s.win 1
  | some e =>
    have l := s.xlt.faults.map fun (f : FqEnt) => if f.token = e.token then { f with read := true } else f
    have s := { s with xlt := { s.xlt with faults := l } }
    let ch := if e.client = 7 then 0x3F else e.ch
    s.winData [BitVec.ofNat 64 e.va, BitVec.ofNat 64 (e.token.getD 0 * 2 ^ 48 + e.xltCtx * 2 ^ 32 + e.client * 2 ^ 24 +
      ch * 2 ^ 16 + e.cause * 2 ^ 8 + e.level * 16 + e.access), e.pte]

def execXltFaultPop (q : Req) (s : State) : Host.Outcome State Fault Refusal := done (s.winCmd q .xlt 0 1 3 0 xltPop)

/-! ### Invalidation -/

/-- An invalidation matches a translation. -/
def Inval.hit (v : Inval) (t : TlbEnt) : Bool :=
  v.scope == 3 || (t.xltCtx == v.xltCtx && (v.scope == 1 || t.covers v.xltCtx v.va))

/-- Matching entries leave the TLB (R289). -/
def State.invalidate (s : State) (v : Inval) : State :=
  let level := ((s.xlt.tlb.find? v.hit).map (·.level)).getD 1
  { s with xlt := { s.xlt with tlb := s.xlt.tlb.filter fun t => !v.hit t, invs := s.xlt.invs ++ [{ v with level }] } }

/-- A write of `XLT_INV` (R289): ignored while BUSY, for whatever invalidation. -/
def xltInvWrite (d : Word) (s : State) : State :=
  let sc := bits d.toNat 63 62
  if !s.xlt.invs.isEmpty then s.pgErr .xlt 0 .unit 0x60 1
  else if sc = 0 then s
  else s.invalidate { scope := sc, xltCtx := bits d.toNat 57 48, va := bits d.toNat 47 12 * 4096, level := 1, window := false }

/-- The data of an `XLT_INV` write. -/
def invWord (scope ctx va : Nat) : Word := BitVec.ofNat 64 (scope * 2 ^ 62 + ctx % 1024 * 2 ^ 48 + va / 4096 % 2 ^ 36 * 4096)

/-- XLT_INV_CONTEXT. -/
def execXltInvContext (q : Req) (ctx : Nat) (s : State) : Host.Outcome State Fault Refusal :=
  done (s.rowWrite q .xlt 0 0x60 (invWord 1 ctx 0) fun s => (xltInvWrite (invWord 1 ctx 0) s).okay)

/-- XLT_INV_PAGE. -/
def execXltInvPage (q : Req) (ctx va : Nat) (s : State) : Host.Outcome State Fault Refusal :=
  done (s.rowWrite q .xlt 0 0x60 (invWord 2 ctx va) fun s => (xltInvWrite (invWord 2 ctx va) s).okay)

/-- XLT_INV_ALL. -/
def execXltInvAll (q : Req) (s : State) : Host.Outcome State Fault Refusal :=
  done (s.rowWrite q .xlt 0 0x60 (invWord 3 0 0) fun s => (xltInvWrite (invWord 3 0 0) s).okay)

/-- A host access of a context was made under a translation that an invalidation removed. -/
def Inval.meets (v : Inval) (ctx : Nat) (accs : List (Nat × Bool)) : Bool :=
  v.scope == 3 || (ctx == v.xltCtx && (v.scope == 1 ||
    accs.any fun a => a.1 / 2 ^ pageBits v.level == v.va / 2 ^ pageBits v.level))

/-- A segment in flight was issued under a translation that the invalidation removed. -/
def State.inFlight (s : State) (v : Inval) : Bool :=
  (s.pmp.chans.any fun c => c.2.descs.any fun d => d.out.any fun k => v.meets c.2.xltCtx (d.accs k)) ||
  (s.pmp.ends.any fun e => e.desc.out.any fun k => v.meets e.xltCtx (e.desc.accs k)) ||
  (s.pmp.xfers ++ s.pmp.dead).any fun x => x.out.any fun k => match segAt x.ranges k 0 with
    | some (va, n, _) => v.meets x.xltCtx (pagesOf va n x.write)
    | none => false

/-- XLT_INV_DONE (R289): once the segments have returned, BUSY falls with no TLB entry matching, a walk made meanwhile included; a context
WRITE's command completes. -/
def xltInvDone (window : Bool) (s : State) : State :=
  match s.xlt.invs.find? fun v => v.window == window with
  | none => s
  | some v =>
    if s.inFlight v then s
    else
      have s := { s with xlt := { s.xlt with invs := s.xlt.invs.erase v, tlb := s.xlt.tlb.filter fun t => !v.hit t } }
      if window then s.winEnd .xlt 0 0 else s

def execXltInvDone (window : Bool) (s : State) : Host.Outcome State Fault Refusal := done (xltInvDone window s)

/-! ### Contexts -/

/-- XLT READ of a context (R305). -/
def xltCtxRead (c : Nat) (s : State) : WinOut :=
  if c < s.contexts then s.winData [BitVec.ofNat 64 (s.ctx c)] else s.win 2

def execXltCtxRead (q : Req) (idx : Nat) (s : State) : Host.Outcome State Fault Refusal :=
  done (s.winCmd q .xlt 0 0 1 idx (xltCtxRead idx))

/-- XLT WRITE of a context (R289, R305): it invalidates the context, and its command stays BUSY until that is done. -/
def xltCtxWrite (c : Nat) (s : State) : WinOut :=
  let d := (s.data .xlt 0 0).toNat
  if s.contexts ≤ c then s.win 2
  else if bits d 62 52 ≠ 0 ∨ bits d 11 0 ≠ 0 then s.win 6
  else
    have s := { s with xlt := { s.xlt with ctxs := if d = 0 then s.xlt.ctxs.erase c else s.xlt.ctxs.set c d } }
    (s.invalidate { scope := 1, xltCtx := c, va := 0, level := 1, window := true }).winBusy

def execXltCtxWrite (q : Req) (idx : Nat) (s : State) : Host.Outcome State Fault Refusal :=
  done (s.winCmd q .xlt 0 0 2 idx (xltCtxWrite idx))

/-- `XLT_FQ_STAT` beside FULL_CNT and HWM. -/
def xltFqStat (s : State) : Nat :=
  let r := (s.reg Rg.XLT_FQ_STAT).toNat
  putBits (putBits r 40 32 s.fqCount) 24 16 (s.xlt.faults.filter fun e => e.token.isSome && !e.read).length

end Sys2Proof.Machine
end

