-- ==== Sys2Proof/Machine/View.lean ====
section
/-! DEFINITION. What a read returns (R37, R39, R49, R59 and the register tables): the values the block computes, over the stored
ones. No read of this file has a side effect. -/

namespace Sys2Proof.Machine

/-! ### The page header (Tables 02-9 to 02-12) -/

/-- UNIT_REV of every unit (DESIGN CHOICE, log entry 18: the manual gives no value). -/
def unitRev : Nat := 0

/-- `PG_ID`. The pages of the MXE program windows carry their engine's number as INSTANCE (DESIGN CHOICE, log entry 119). -/
def pgId (u : UnitKind) (i : Nat) : Nat := unitCode u * 2 ^ 48 + i * 2 ^ 40 + 2 ^ 32 + unitRev

/-- One size of `PG_CAP` in its place: its lowest bit and its value on a leaf and on a tray. -/
def sizeAt (tray : Bool) (lo leaf trayVal : Nat) : Nat := (if tray then trayVal else leaf) * 2 ^ lo

/-- The sizes of `PG_CAP` as the chapters give them. -/
def Chip.capSizes (c : Chip) (u : UnitKind) : Nat :=
  let z := sizeAt c.isTray
  match u with
  | .pwr => z 16 1024 0 + z 8 4 0 + z 4 4 0
  | .tkp => z 24 16 16 + z 16 64 64 + z 8 1 130
  | .wel => z 8 256 256
  | .smp => z 32 13312 13312 + z 16 64 64 + z 4 1024 1024
  | .epr => z 16 1024 1024
  | .cmp => z 40 0 (if c.full then 16 else 8) + z 32 128 0 + z 16 13312 0 + z 9 0 1 + z 8 1 1
  | .mxe | .mxew => z 48 2048 8192 + z 32 8192 32768 + z 20 64 256 + z 12 64 128 + z 8 2 8 + z 4 8 8
  | .tre => z 42 65536 1048576 + z 32 16 64 + z 17 1024 16384 + z 4 4096 4096 + z 1 4 4
  | .eft => z 40 (if c.full then 8192 else 4096) 2097152 + z 32 64 64 + z 24 (if c.full then 11 else 10) 19 + z 8 56 56
  | .cor => z 24 64 64 + z 16 64 64 + z 8 1 16 + z 1 4 32
  | .pmp => z 32 256 1024 + z 16 8 64 + z 8 8 8
  | .xlt => z 48 52 52 + z 40 48 48 + z 36 7 7 + z 24 512 512 + z 12 64 1024 + z 0 32 256
  | .slk => z 32 64 256 + z 16 16 16 + z 1 3 3
  | .rdx => z 48 16 16 + z 40 16 16 + z 16 1024 1024 + z 8 64 64 + z 4 8 8
  | .col => z 48 16 16 + z 32 4095 4095 + z 8 4 4
  | .ups => z 40 32 32 + z 32 2 2 + z 16 16 16 + z 8 8 8
  | .cis => z 32 0 (if c.full then 183105 else 91552)
  | .stm => z 56 0 16 + z 48 0 8 + z 32 32 256 + z 16 16 0 + z 8 16 0
  | .cap => z 16 4 16 + z 0 256 256
  | .htp => z 40 8 8 + z 32 64 64 + z 0 256 256
  | .scr => z 32 256 4096 + z 0 1024 1024
  | .nvh => z 16 1024 65536
  | .flt => z 32 256 2048 + z 8 4 32
  | .evr => z 16 4096 65536 + z 8 64 64
  | .irc => z 16 16 16 + z 8 8 8 + z 4 4 4
  | .pmu => z 40 16 64 + z 32 16 16 + z 16 256 1024 + z 8 1 130
  | .lcm => z 4 4 4
  | .dir | .hpa | .pkg | .bud | .mgr | .up => 0

/-- `PG_CAP`: the sizes, with PRESENT in bit 0 of every page. Four units give a size that starts at bit 0; each is even, so PRESENT
does not change its other bits (DEDUCED, log entry 19). -/
def Chip.pgCap (c : Chip) (u : UnitKind) : Nat := c.capSizes u / 2 * 2 + 1

/-- The unit has work in progress (`PG_STAT.BUSY`): a window command that goes on, or work of the unit's own. PKG runs on the primary leaf
only (R20), so that its page's state says whether the leaf is primary (DESIGN CHOICE, log entry 118). -/
def State.unitBusy (s : State) (u : UnitKind) (i : Nat) : Bool :=
  (hasWindow u && s.fld (Fd.TBL_STAT_BUSY u) i == 1) ||
  match u with
  | .mxe => (s.mx i).run.isSome || !(s.mx i).pend.isEmpty || !(s.mx i).saved.isEmpty
  | .tre => (s.tr i).run.isSome || !(s.tr i).pend.isEmpty
  | .eft => s.eft.rehash || s.eft.sweep || s.eft.snap.isSome || !s.eft.purge.isEmpty
  | .xlt => !s.xlt.invs.isEmpty
  | .pmp => !s.pmp.xfers.isEmpty || s.pmp.chans.any fun c => !c.2.descs.isEmpty
  | .cmp => s.cmp.held.isSome || !s.cmp.stage.isEmpty || !s.cmp.springB.isEmpty || !s.cmp.liveQ.isEmpty || !s.cmp.outQ.isEmpty ||
      s.cmp.inQ.any fun q => !q.2.isEmpty
  | .smp => s.smp.valDue.isSome || s.smp.runs.any fun r => r.2.rebuild.isSome || r.2.gather.isSome
  | .wel => (s.well i).req || (s.well i).closing
  | .epr => s.epr.openRec.isSome || !s.epr.closing.isEmpty
  | .cap => s.cap.rings.any fun r => r.2.up.isSome
  | .htp => s.htp.est == 1 || s.htp.est == 2
  | .col => decide (s.colRunning ≠ 0)
  | .scr => s.scr.passOn || s.scr.run.isSome || !s.scr.hostOut.isEmpty
  | .nvh => decide (s.jstate ≠ 0) || !s.nvh.logQ.isEmpty
  | .pwr => s.fld Fd.PWR_STATE_STATE == 2 || s.fld Fd.PWR_STATE_STATE == 5
  | .lcm => s.lcm.otp.busy.isSome || decide (s.fld Fd.LCM_STATE_PHASE ≠ 0)
  | .cor => decide ((s.reg Rg.COR_RUN).toNat ≠ 0)
  | .rdx => !s.rdx.onTime.isEmpty || !s.rdx.late.isEmpty
  | .ups => s.ups.ports.any fun p => p.2.queues.any fun q => !q.2.isEmpty
  | .bud => s.restoring
  | .pkg => s.pkg.primary == some s.chip.pkgDieIdx
  | _ => false

/-- `PG_STAT`. -/
def State.pgStat (s : State) (u : UnitKind) (i : Nat) : Nat :=
  b2n (s.isMarked u i) * 8 + b2n (s.outOfService u i || s.flt.faulted) * 4 + b2n (bits (s.reg (Rg.PG_ERR u) i).toNat 5 0 != 0) * 2 +
    b2n (s.inReset u i || s.unitBusy u i)

/-! ### DIR (Tables 02-19, 02-21, R60) -/

/-- `DIR_INFO`. -/
def Chip.dirInfo (c : Chip) : Nat :=
  (if c.isTray then 0 else c.pkgDies * 2 ^ 35 + c.pkgDieIdx * 2 ^ 32) + pageCount c.role * 2 ^ 16 + c.stepping * 2 ^ 8 +
    c.variant * 16 + b2n c.isTray

/-- `DIR_STATE`. -/
def State.dirState (s : State) : Nat :=
  b2n s.timeValid * 2 ^ 45 + b2n s.flt.faulted * 2 ^ 44 + b2n (s.isTray || s.primed) * 2 ^ 43 + b2n s.lcm.bootDone * 2 ^ 42 +
    s.lcm.lcState * 2 ^ 40 + s.epochNow % 2 ^ 40

/-- 64 bits, one for each page from `64 k`. -/
def State.pageBits (s : State) (k : Nat) (f : UnitKind → Nat → Bool) : Nat :=
  ((List.range 64).map fun j =>
    match pageUnit s.chip.role (64 * k + j) with
    | some (u, i) => if s.chip.fitted u i && f u i then 2 ^ j else 0
    | none => 0).sum

/-! ### Registers whose value the block computes -/

/-- EPR_RETAIN: COUNT and the oldest retained epoch. -/
def State.eprRetain (s : State) : Nat :=
  match s.epr.retained.map (·.1) with
  | [] => 0
  | e :: r => s.epr.retained.length * 2 ^ 40 + r.foldl min e

/-- CMP_STAT: STALLED stands in the register. -/
def State.cmpStat (s : State) : Nat :=
  let parked := ceilDiv ((s.cmp.parked.map fun p => p.2.length).sum) 1024
  let used := if s.cmp.outQ.isEmpty then 0 else ceilDiv s.outBytes 4096
  parked * 2 ^ 32 + used * 2 ^ 8 + s.fld Fd.CMP_STAT_STALLED * 2 + b2n s.cmp.held.isSome

/-- UPS_QBUSY. -/
def State.qBusy (s : State) : Nat :=
  ((List.range 2).map fun p => ((List.range 32).map fun q =>
    b2n (!((s.up p).queues.getD q []).isEmpty) * 2 ^ (32 * p + q)).sum).sum

/-- STM_STAT. -/
def State.stmStat (s : State) : Nat :=
  if s.isTray then ((s.stm.rows.map fun r => (r.2.filter fun x => !x.done).length).sum) % 256
  else s.stm.mq.length * 2 ^ 32 + s.stm.nq.length * 2 ^ 24

/-- LCM_STATE and LCM_STAT over the stored fields. -/
def State.lcmState (s : State) : Nat :=
  let r := (s.reg Rg.LCM_STATE).toNat
  putBits (putBits (putBits (putBits r 41 40 s.lcm.lcState) 38 38 (b2n s.lcm.otp.provFuse)) 37 37 (b2n s.lcm.otp.returnFuse))
    16 16 (b2n s.bgPending)

def State.lcmStat (s : State) : Nat :=
  let r := (s.reg Rg.LCM_STAT).toNat
  if s.bgPending then r else putBits r 47 32 0

/-- PWR_STATE: a leaf that neither samples nor has a link is DORMANT (Table 03-2); on a tray it reads 0x3 (R82). -/
def State.pwrState (s : State) : Nat :=
  let r := (s.reg Rg.PWR_STATE).toNat
  if s.isTray then 3
  else if s.fld Fd.PWR_STATE_STATE = 0 then putBits r 2 0 (b2n (s.enabled .smp || decide (s.lstate 0 ≠ 0)))
  else r

/-- WEL_STAT. -/
def State.welStat (s : State) (w : Nat) : Nat :=
  putBits (putBits (s.reg Rg.WEL_STAT w).toNat 3 3 (b2n (s.chip.wellTie.getLsbD w))) 2 2
    (b2n ((s.well w).req || (s.well w).closing))

/-- The value of a register that the block computes, none for a stored one. -/
def State.computed? (s : State) (p : Path) (u : UnitKind) (i off : Nat) : Option Nat :=
  if off = 0x00 then some (pgId u i)
  else if off = 0x08 then some (s.chip.pgCap u)
  else if off = 0x10 then some (putBits (s.reg (Rg.PG_CTRL u) i).toNat 1 1 (b2n (s.inReset u i)))
  else if off = 0x18 then some (s.pgStat u i)
  else if off < 0x40 then none
  else match u with
  | .dir =>
    if off = 0x40 then some s.chip.dirInfo
    else if off = 0x50 then some s.dirState
    else if 0x80 ≤ off ∧ off < 0x100 then some (s.pageBits ((off - 0x80) / 8) fun _ _ => true)
    else if 0x100 ≤ off ∧ off < 0x180 then some (s.pageBits ((off - 0x100) / 8) s.degraded)
    else none
  | .lcm => if off = 0x40 then some s.lcmState else if off = 0x60 then some s.lcmStat else none
  | .pwr => if off = 0x40 then some s.pwrState else none
  | .tkp =>
    if off = 0x40 then some (putBits (s.reg Rg.TKP_STATE).toNat 15 15 (b2n s.preOrigin))
    else if off = 0x50 then some (tkpNowHi p s).toNat else none
  | .irc =>
    if 0x140 ≤ off ∧ off < 0x1C0 then some (ircGcfg ((off - 0x140) / 8) s)
    else if off = 0x1E8 then some (ircLineStat s) else none
  | .flt => if off = 0x48 then some (fltStat s) else none
  | .nvh => if off = 0x48 then some (nvhStat s) else if off = 0x50 then some (s.nvh.st.opMinutes % 2 ^ 40)
            else if off = 0x60 then some (nvhPhase s) else none
  | .scr => if off = 0x48 then some (scrStat s) else none
  | .xlt => if off = 0x48 then some (xltFqStat s) else if off = 0x68 then some (b2n (!s.xlt.invs.isEmpty)) else none
  | .pmp => if off = 0x48 then some (pmpHalted s) else if off = 0x60 then some (s.pmp.abortRes * 2 ^ 16)
            else if off = 0x68 then some (s.fld Fd.PMP_TAGS_HWM * 2 ^ 32 + s.tagsUsed) else none
  | .cor => if off = 0x70 then some s.mbxOut else if off = 0x88 then some (corOtp s) else none
  | .cmp => if off = 0x50 then some s.cmpStat else none
  | .smp => if off = 0x58 then some ((List.range 64).map fun g =>
      b2n (s.ticking && (s.grun g).on && (s.groupDef g).isSome) * 2 ^ g).sum else none
  | .epr =>
    if off = 0x48 then some (match s.epr.openRec with | some r => 2 ^ 40 + r.epoch % 2 ^ 40 | none => 0)
    else if off = 0x58 then some s.eprRetain else none
  | .mxe => if off = 0x48 then some (mxeStat i s) else if off = 0x90 then some (s.mx i).vq.length else none
  | .tre => if off = 0x48 then some (treStat i s) else if off = 0x88 then some (s.tr i).vq.length else none
  | .eft => if off = 0x50 then some (eftStat s) else none
  | .cap => if off = 0x48 then some s.capStat else none
  | .htp =>
    if off = 0x78 then some (s.htp.prod % 2 ^ 32 * 2 ^ 32 + s.htp.est * 2 ^ 20 + s.htp.buf.length % 2 ^ 18)
    else if off = 0x80 then some (s.srcsIn 2) else if off = 0x88 then some (s.srcsIn 3) else none
  | .stm => if off = 0x50 then some s.stmStat else none
  | .wel => if off = 0x48 then some (s.welStat i) else none
  | .rdx => if off = 0x58 then some (s.rdx.late.length * 2 ^ 48 + s.rdx.onTime.length * 2 ^ 40 + s.fld Fd.RDX_STAT_CLOSED) else none
  | .col => if off = 0x60 then some (s.col.abortRes * 2 ^ 16 + s.colRunning) else none
  | .ups => if off = 0x50 then some s.qBusy else none
  | _ => none

/-- The value a read of the register at an offset returns, its side effects apart: computed, staged (R39), 0 for a WO register and
for a reserved offset (R8), else stored. `TBL_DATA` reads 0 while BUSY (R57). -/
def State.view (s : State) (p : Path) (u : UnitKind) (i off : Nat) : Word :=
  if roleHidden s.isTray u off then 0
  else match s.computed? p u i off with
  | some v => BitVec.ofNat 64 v
  | none =>
    match rowAt? u off with
    | none => 0
    | some r =>
      if r.acc = .wo then 0
      else if r.acc = .rws then s.stagedReg ⟨u, off⟩ i
      else if hasWindow u ∧ 0xC40 ≤ off ∧ s.fld (Fd.TBL_STAT_BUSY u) i = 1 then 0
      else s.reg ⟨u, off⟩ i

end Sys2Proof.Machine
end

