-- ==== Sys2Proof/Machine/Tables.lean ====
section
/-! DEFINITION. What a write of `TBL_CMD` starts on each page (R56, R57): the command that TABLE, OP and INDEX name, for requesters that
do not use the command's own row. Any other combination of TABLE and OP answers BAD_OP. -/

namespace Sys2Proof.Machine

/-- The windows of the engines, EFT, the cores and the pumps. -/
def engineTable (u : UnitKind) (e t op k : Nat) (s : State) : WinOut :=
  match u, t, op with
  | .mxe, 0, 1 => mxeSlotRead e k s
  | .mxe, 0, 2 => mxeSlotWrite e k s
  | .mxe, 0, 5 => mxeLoadWin e k s
  | .mxe, 0, 6 => mxeUnload e k s
  | .mxew, t, 1 => mxeProgRead e t k s
  | .mxew, t, 2 => mxeProgWrite e t k s
  | .tre, 0, 1 => treSlotRead e k s
  | .tre, 0, 2 => treSlotWrite e k s
  | .tre, 0, 5 => treLoadWin e k s
  | .tre, 0, 6 => treUnload e k s
  | .eft, 0, 1 => eftReadWin false s
  | .eft, 0, 2 => eftWriteWin false s
  | .eft, 0, 3 => eftDeleteWin false s
  | .eft, 0, 4 => eftReadPosWin k false s
  | .eft, 0, 5 => eftPurgeWin s
  | .eft, 0, 6 => eftSnapshotWin s
  | .eft, 1, 1 => eftFeedRead k s
  | .eft, 1, 2 => eftFeedWrite k s
  | .cor, 0, 5 => fwLoadWin s
  | .cor, 1, 1 => mbxPop k s
  | .cor, 1, 2 => mbxPush k s
  | .pmp, 0, 1 => pmpChRead k s
  | .pmp, 0, 2 => pmpChWrite k s
  | .xlt, 0, 1 => xltCtxRead k s
  | .xlt, 0, 2 => xltCtxWrite k s
  | .xlt, 1, 3 => xltPop s
  | .cap, 0, 1 => capRingRead k s
  | .cap, 0, 2 => capRingWrite k s
  | .cap, t, 1 => if 16 ≤ t then capLineRead (t - 16) k s else s.win 3
  | .htp, 0, 1 => htpFilterRead k s
  | .htp, 0, 2 => htpFilterWrite k s
  | _, _, _ => s.win 3

/-- The windows of sampling, records and links. -/
def recordTable (u : UnitKind) (i t op k : Nat) (s : State) : WinOut :=
  match u, t, op with
  | .wel, 0, 1 => welSlotRead (s.well i).staged k s
  | .wel, 0, 2 => welSlotWrite i k s
  | .wel, 0, 4 => welSlotRead (s.well i).active k s
  | .smp, t, 1 => smpTblRead s.smp.staged t k s
  | .smp, t, 2 => smpTblWrite t k s
  | .smp, t, 4 => smpTblRead s.smp.active t k s
  | .epr, t, 1 => eprTblRead s.epr.staged t k s
  | .epr, t, 2 => eprTblWrite t k s
  | .epr, t, 4 => eprTblRead s.epr.active t k s
  | .cmp, 0, 1 => cmpTblRead s.cmp.staged k s
  | .cmp, 0, 2 => cmpTblWrite k s
  | .cmp, 0, 4 => cmpTblRead s.cmp.active k s
  | .slk, 1, 2 => appSend i s
  | .slk, 2, 3 => appRxPop i s
  | .rdx, t, 1 => rdxTblRead t k s
  | .rdx, t, 2 => rdxTblWrite t k s
  | .col, 0, 1 => colGroupRead k s
  | .col, 0, 2 => colGroupWrite k s
  | .col, 1, 1 => colMemberRead k s
  | .col, 1, 2 => colMemberWrite k s
  | .col, 2, 1 => colSlowRead k s
  | .ups, 0, 1 => upsQueueRead k s
  | .ups, 0, 2 => upsQueueWrite k s
  | .ups, 1, 1 => upsGateRead k s
  | .ups, 1, 2 => upsGateWrite k s
  | .ups, 2, 1 => upsRouteRead k s
  | .ups, 2, 2 => upsRouteWrite k s
  | .ups, 3, 2 => swFrameSend s
  | .ups, 4, 3 => swFramePop s
  | .cis, 0, 1 => policerRead k s
  | .cis, 0, 2 => policerWrite k s
  | .mgr, 0, 2 => mgrRelayWrite k s
  | .mgr, 0, 3 => mgrRelayPop k s
  | .stm, 0, 1 => jobRead s.stm.jobsSt k s
  | .stm, 0, 2 => jobWrite k s
  | .stm, 0, 3 => notifyPop s
  | .stm, 0, 4 => jobRead s.stm.jobs k s
  | .stm, 1, 1 => rowTblRead k s
  | .stm, 2, 1 => baseRead k s
  | .stm, 2, 2 => baseWrite k s
  | .stm, 2, 4 => baseReadActive k s
  | _, _, _ => s.win 3

/-- The windows of the infrastructure; `priv` is the requester's. -/
def infraTable (u : UnitKind) (priv t op k : Nat) (s : State) : WinOut :=
  let user := fun (ok : Bool) (o : WinOut) => if priv = 0 ∧ !ok then s.winPriv else o
  match u, t, op with
  | .lcm, 0, 1 => otpRead k s
  | .lcm, 0, 2 => otpWrite k s
  | .tkp, 0, 3 => txtsPop k s
  | .tkp, 1, 1 => portTimeRead k s
  | .tkp, 1, 2 => portTimeWrite k s
  | .flt, 0, 1 => fltSrcRead k s
  | .flt, 0, 2 => fltSrcWrite k s
  | .flt, 1, 1 => fltDirRead k s
  | .evr, 0, 1 => evrRead k s
  | .pmu, 0, 1 => user (State.pctrUser k s) (pmuCtrRead k s)
  | .pmu, 0, 2 => user false (pmuCtrWrite k s)
  | .pmu, 0, 4 => user (State.pctrUser k s) (pmuCtrReadSnap k s)
  | .pmu, 1, 1 => user false (pmuBytesRead k s)
  | .pmu, 2, 1 => user false (pmuAonRead k s)
  | .pmu, 3, 1 => user false (pmuBwRead k s)
  | .pmu, 4, 1 => user false (pmuRunlogRead k s)
  | .nvh, 1, 2 => nvhFwdWrite s
  | .nvh, 1, 3 => nvhFwdPop s
  | .nvh, 2, 1 => nvhStateRead k s
  | .nvh, 2, 2 => nvhStateWrite k s
  | .nvh, t, 1 => if t % 16 = 0 then nvhLogRead (t / 16) k s else s.win 3
  | .scr, 0, 5 => scrLoadWin s
  | .scr, 1, 2 => scrHostResult s
  | .scr, 1, 3 => scrHostPop s
  | _, _, _ => s.win 3

/-- The command a window starts. -/
def tableCmd (u : UnitKind) (i priv t op k : Nat) (s : State) : WinOut :=
  match u with
  | .mxe | .mxew | .tre | .eft | .cor | .pmp | .xlt | .cap | .htp => engineTable u i t op k s
  | .lcm | .tkp | .flt | .evr | .pmu | .nvh | .scr => infraTable u priv t op k s
  | _ => recordTable u i t op k s

/-- A write of `TBL_CMD`; OP 0 starts nothing (Table 02-17). -/
def tblCmdWrite (u : UnitKind) (i priv : Nat) (d : Word) (s : State) : AccOut :=
  let t := bits d.toNat 15 8
  let op := bits d.toNat 7 0
  let k := bits d.toNat 63 32
  if op = 0 then
    if s.fld (Fd.TBL_STAT_BUSY u) i = 1 then s.winBlocked u i 0xC00
    else (s.setReg (Rg.TBL_CMD u) i (d &&& 0xFFFFFFFF0000FFFF)).okay
  else s.winRun u i d (tableCmd u i priv t op k)

end Sys2Proof.Machine
end

