-- ==== Sys2Proof/Machine/Port.lean ====
section
/-! DEFINITION. The register port (chapter 02): what a write of each register does (R35, R37, R46, R51, R52, R54, R61), reads
with their side effects, accesses that wait (R32, R33, R51), and the cores' accesses (R257). -/

namespace Sys2Proof.Machine

/-! ### The page header -/

/-- What a change of `PG_CTRL.ENABLE` does beside the bit itself: a lane starts or goes down (R308), TKP stops (Table 04-2), HPA's
route ends, a well owes its handshake and CMP drops its vote (R548, R550), policers fill, trace sources come and go, MGR's health timer starts. -/
def State.enableWrite (s : State) (u : UnitKind) (i : Nat) (on : Bool) : State :=
  let was := s.enabled u i
  have s := s.setFld (Fd.PG_CTRL_ENABLE u) i (b2n on)
  if on = was then s
  else match u with
  | .slk => if !on then s.laneTo i 0 else if s.lstate i = 0 then s.laneTo i 1 else s
  | .tkp => if on then s else s.tkpDisable
  | .hpa => if !on then s.hpaUnroute else if s.lstate 0 = 6 then s.hpaRoute else s
  | .wel | .cmp => if on then s else s.unitHeld u i
  | .cis => if on then s.policersFull else s
  | .htp => s.htpSources
  | .mgr => if on then { s with mgr := { s.mgr with healthAt := s.aon } } else s
  | _ => s

/-- A write of `PG_CTRL` (Table 02-11). -/
def State.ctrlWrite (s : State) (u : UnitKind) (i : Nat) (d : Word) : State :=
  if bits d.toNat 3 2 = 3 then s.pgErr u i .badValue 0x10
  else
    have s := s.setFld (Fd.PG_CTRL_COMMIT_MODE u) i (bits d.toNat 3 2)
    if d.getLsbD 1 then s.resetUnit u i else s.enableWrite u i (d.getLsbD 0)

/-- An accepted write of `PG_LOCK` (R46, R48). -/
def State.lockWrite (s : State) (u : UnitKind) (i priv : Nat) (d : Word) : State :=
  if u = .dir then s
  else if bits d.toNat 1 0 = 3 ∨ priv < bits d.toNat 1 0 then s.pgErr u i .badValue 0x30
  else s.setReg (Rg.PG_LOCK u) i (d &&& 0x10003)

/-- A write of `PG_ERR` (R52). -/
def State.errWrite (s : State) (u : UnitKind) (i : Nat) (d : Word) : State :=
  s.setReg (Rg.PG_ERR u) i (BitVec.ofNat 64 (pgErrClear (s.reg (Rg.PG_ERR u) i).toNat d.toNat))

/-- A write of the header. -/
def State.headerWrite (s : State) (u : UnitKind) (i off priv : Nat) (d : Word) : State :=
  if off = 0x10 then s.ctrlWrite u i d
  else if off = 0x20 then s.errWrite u i d
  else if off = 0x30 then s.lockWrite u i priv d
  else if off = 0x38 then s.setReg (Rg.PG_SCRATCH u) i d
  else s

/-! ### Registers whose write does more than take the value -/

/-- An accepted write of `DIR_NODE` (R61, Table 02-20): a leaf whose lane is ACTIVE retrains to announce its identity (R15). -/
def State.nodeWrite (s : State) (d : Word) : State :=
  let node := bits d.toNat 19 0
  let pkg := bits d.toNat 34 20
  if (if s.isTray then decide (node < 2 ^ 11 ∧ pkg = 0) else decide (node < 2 ^ 18)) then
    have s := s.setReg Rg.DIR_NODE 0 (BitVec.ofNat 64 (2 ^ 63 + pkg * 2 ^ 20 + node))
    if !s.isTray && s.laneActive 0 then s.toTrain 0 (s.fld Fd.SLK_STATE_RATE 0) else s
  else s.pgErr .dir 0 .badValue 0x48

/-- Registers that take a write only while their unit is disabled: the CIS store and sump (R393), HPA (R337), HTP's ring (R452); and
the ALT registers only until `SLK_ALT_CFG.ENABLE` is set (R335). -/
def State.frozen (s : State) (u : UnitKind) (i off : Nat) : Bool :=
  match u with
  | .cis => decide (off = 0x40 ∨ off = 0x48) && s.enabled .cis
  | .hpa => decide (0x40 ≤ off ∧ off ≤ 0x50) && s.enabled .hpa
  | .htp => decide (0x50 ≤ off ∧ off ≤ 0x60) && s.enabled .htp
  | .slk => decide (0xB0 ≤ off ∧ off ≤ 0xC0) && s.fld Fd.SLK_ALT_CFG_ENABLE i == 1
  | _ => false

/-- A write of an ordinary register of a unit. -/
def State.plain (s : State) (u : UnitKind) (i off al : Nat) (d : Word) : State :=
  s.plainWrite u i off al d fun s => s.commitDirect u i

/-- A plain write would be accepted: every field is in range. -/
def State.takes (s : State) (u : UnitKind) (off : Nat) (d : Word) : Bool :=
  match rowAt? u off with
  | some r => (s.newValue? r u off d).isSome
  | none => false

/-- A write of `UPS_CFG`, `RDX_CFG` or a tray's `STM_CFG`: an accepted one marks the staged tables for commit (R413, R363, R431). -/
def State.bankWrite (s : State) (u : UnitKind) (d : Word) : State :=
  let ok := s.takes u 0x40 d
  have s := match u with
    | .ups => { s with ups := { s.ups with pending := ok || s.ups.pending } }
    | .rdx => { s with rdx := { s.rdx with pending := ok || s.rdx.pending } }
    | .stm => { s with stm := { s.stm with pending := ok || s.stm.pending } }
    | _ => s
  s.plain u 0 0x40 0 d

/-- A write that a register takes no value from in this role (R82, R108, R162, R334): on a leaf a write of `STM_CFG` still marks the
baseline table for commit (R431). -/
def State.hiddenWrite (s : State) (u : UnitKind) : State :=
  if u = .stm then { s with stm := { s.stm with pending := true } }.markBank .stm 0 fun s => s.commitDirect .stm 0 else s

/-- Writes in the pages of time, power, reports and access. -/
def State.infraWrite (s : State) (p : Path) (u : UnitKind) (i off al : Nat) (d : Word) : State :=
  match u with
  | .dir => if off = 0x48 then s.nodeWrite d else s
  | .lcm =>
    if off = 0x48 then lcmCommitWrite d s
    else if off = 0x50 then lcmCtrlWrite al d s
    else if off = 0x58 then lcmCmdWrite p d s else s.plain u i off al d
  | .pwr => if off = 0x50 then swVoteWrite d s else if off = 0x60 then pwrCtrlWrite d s else s.plain u i off al d
  | .tkp => if off = 0xA8 then tkpCtrlWrite d s else s.plain u i off al d
  | .irc =>
    if 0x40 ≤ off ∧ off < 0x140 ∧ (off - 0x40) % 16 = 8 then ircPendWrite ((off - 0x48) / 16) al d s
    else if off = 0x140 then
      s.plain u i off al (BitVec.ofNat 64 (putBits (putBits d.toNat 6 4 (s.fld (Fd.IRC_GCFG_PRIO.nth 0)))
        1 0 (s.fld (Fd.IRC_GCFG_LINE.nth 0))))
    else if off = 0x1E0 then ircComplete d s else s.plain u i off al d
  | .flt =>
    if 0x100 ≤ off ∧ off < 0x200 then
      let k := (off - 0x100) / 8
      if al = 1 then fltAck k d 0 s else if al = 2 then fltAck k 0 d s else fltAck k d (~~~d) s
    else if off = 0x68 then fltInjectWrite d s
    else if off = 0x70 then fltCtrlWrite d s else s.plain u i off al d
  | .evr =>
    if off = 0x58 then evrRdWrite d s
    else if off = 0x40 then (s.plain u i off al d).level 14 else s.plain u i off al d
  | .pmu => if off = 0x48 then pmuCtrlWrite d s else if off = 0x60 then pmuReplayWrite d s else s.plain u i off al d
  | .scr =>
    if off = 0x40 then
      let was := s.fld Fd.SCR_CFG_RUN_EN == 1
      (s.plain u i off al d).scrRunEn was
    else if off = 0x50 then scrCtrlWrite d s
    else if off = 0x78 then scrRestoreWrite d s else s.plain u i off al d
  | _ => s.plain u i off al d

/-- The watchdog counts anew from the write that enables it (R271). -/
def State.wdogWrite (s : State) (d : Word) : State :=
  let was := s.fld Fd.COR_WDOG_CFG_ENABLE == 1
  have s := s.plain .cor 0 0x90 0 d
  if s.fld Fd.COR_WDOG_CFG_ENABLE = 1 ∧ !was then
    (List.range s.coreCount).foldl (fun s c => s.setCore c { s.core c with kickAt := s.aon, barked := false }) s
  else s

/-- Writes in the pages of the engines, the cores, the pumps, capture and trace. -/
def State.engineWrite (s : State) (u : UnitKind) (i off al : Nat) (d : Word) : State :=
  match u with
  | .xlt => if off = 0x50 then xltRespond d s else if off = 0x60 then xltInvWrite d s else s.plain u i off al d
  | .pmp =>
    if off = 0x40 then pmpChEnWrite d s
    else if off = 0x50 then pmpRestartWrite d s
    else if off = 0x58 then pmpAbortWrite d s else s.plain u i off al d
  | .cor =>
    if off = 0x50 then corSharedWrite d s
    else if off = 0x58 then corRunWrite d s
    else if off = 0x90 then s.wdogWrite d else s.plain u i off al d
  | .mxe => if off = 0x50 then mxeLaunchWrite i d s else if off = 0x58 then mxeAbortWrite i d s else s.plain u i off al d
  | .tre => if off = 0x50 then treLaunchWrite i d s else if off = 0x58 then treAbortWrite i d s else s.plain u i off al d
  | .cap => if off = 0x50 then capTrigWrite d s else if off = 0x58 then capCtrlWrite d s else s.plain u i off al d
  | .htp =>
    if off = 0x70 then htpCtrlWrite d s
    else if off = 0x48 then (s.plain u i off al d).htpSources else s.plain u i off al d
  | _ => s.plain u i off al d

/-- Writes in the pages of sampling, records, links and the upstream side. -/
def State.flowWrite (s : State) (u : UnitKind) (i off al : Nat) (d : Word) : State :=
  match u with
  | .cmp => if off = 0x48 then outCfgWrite d s else if off = 0x78 then keyReqWrite d s else s.plain u i off al d
  | .smp =>
    if off = 0x40 then smpPlanWrite d s
    else if off = 0x48 then smpValidate d s
    else if off = 0x60 then springCmd d s else s.plain u i off al d
  | .epr => if off = 0x40 then eprCfgWrite d s else s.plain u i off al d
  | .slk =>
    if off = 0x58 then slkCtrlWrite i d s
    else if off = 0x40 then
      let ok := s.takes u off d
      have s := s.plain u i off al d
      if ok then s.rateTarget i else s
    else s.plain u i off al d
  | .up => if off = 0x78 then upCtrlWrite i d s else s.plain u i off al d
  | .ups => if off = 0x40 then s.bankWrite .ups d else s.plain u i off al d
  | .rdx =>
    if off = 0x40 then s.bankWrite .rdx d
    else if off = 0x78 then rdxResendWrite d s else s.plain u i off al d
  | .stm => if off = 0x40 then s.bankWrite .stm d else if off = 0x48 then stepMark d s else s.plain u i off al d
  | .col => if off = 0x50 then colStartWrite d false s else if off = 0x58 then colAbortWrite d s else s.plain u i off al d
  | .bud =>
    if off = 0x40 then
      let was := s.fld Fd.BUD_CFG_MIRROR_EN == 1
      (s.plain u i off al d).mirrorEnable was
    else if off = 0x60 then budRestoreWrite d s else s.plain u i off al d
  | _ => s.plain u i off al d

/-- A write at 0x040 to 0x3FF, by alias. -/
def State.unitWrite (s : State) (p : Path) (u : UnitKind) (i off al : Nat) (d : Word) : State :=
  if roleHidden s.isTray u off then s.hiddenWrite u
  else if s.frozen u i off then s
  else match u with
  | .dir | .lcm | .pwr | .tkp | .irc | .flt | .evr | .pmu | .scr => s.infraWrite p u i off al d
  | .xlt | .pmp | .cor | .mxe | .tre | .cap | .htp => s.engineWrite u i off al d
  | _ => s.flowWrite u i off al d

/-! ### One access -/

/-- An accepted write at a base offset with its alias; `at_` is the byte offset of the access. -/
def State.writeEff (s : State) (p : Path) (priv : Nat) (u : UnitKind) (i off al at_ : Nat) (d : Word) : AccOut :=
  if hasWindow u ∧ off = 0xC00 then tblCmdWrite u i priv d s
  else if hasWindow u ∧ 0xC08 ≤ off ∧ off < 0xD40 then
    if s.fld (Fd.TBL_STAT_BUSY u) i = 1 then s.winBlocked u i at_
    else if off = 0xC08 then s.okay
    else (s.setReg ⟨u, off⟩ i d).okay
  else if off < 0x40 then (s.headerWrite u i off priv d).okay
  else (s.unitWrite p u i off al d).okay

/-- An accepted read at a base offset, with its side effect (R37, R62, R87, R188, R497). -/
def State.readEff (s : State) (p : Path) (u : UnitKind) (i off : Nat) : AccOut :=
  if u = .irc ∧ 0x1C0 ≤ off ∧ off < 0x1E0 then ircClaim ((off - 0x1C0) / 8) s
  else if u = .mxe ∧ 0x380 ≤ off ∧ off < 0x400 then rmonStatRead i ((off - 0x380) / 8) s
  else if u = .tkp ∧ off = 0x48 then tkpNowLo p s
  else
    let v := s.view p u i off
    if accAt u off = some .rc then (s.setReg ⟨u, off⟩ i 0).gives v else s.gives v

/-- What an accepted access does (R34, R54). -/
def State.accessEff (s : State) (a : Access) (u : UnitKind) (i : Nat) : AccOut :=
  let o := a.addr.toNat % 4096
  let b := aliasOf (o / 8 * 8)
  let upper := bit o 2
  if a.write then
    s.writeEff a.path a.priv.toNat u i b.1 b.2 o (if a.size32 then merge32 (s.reg ⟨u, b.1⟩ i) a.wdata upper else a.wdata)
  else
    let r := s.readEff a.path u i b.1
    if a.size32 then { r with data := if upper then r.data >>> 32 else r.data &&& 0xFFFFFFFF } else r

/-- An access of any requester to any address (R28, R29, R36). -/
def State.access (s : State) (a : Access) : State :=
  match pageUnit s.chip.role (a.addr.toNat / 4096) with
  | some (u, i) => s.gate a u i (a.addr.toNat % 4096) fun s => s.accessEff a u i
  | none =>
    if s.behind a then s.putOff a
    else if a.path = .host ∧ requestCheck a ≠ a.chk then (s.violation Fd.DIR_VIOL_CHKERR_CNT .chkerr a).answer .chkerr 0
    else s.answer .decerr 0

/-! ### Accesses that wait -/

/-- A waiting access is answered: its reply leaves on the host port. -/
def State.emitReply (s : State) : State :=
  match s.reply with
  | some r => s.emit (.reply r)
  | none => s

/-- One waiting access is tried again; one that has to wait on keeps the edge of its arrival. -/
def State.serveOne (s : State) (w : Access × Nat) : State :=
  have t := s.access w.1
  if t.waiting.length = s.waiting.length then t.emitReply.settle else { s with waiting := s.waiting ++ [w] }

/-- The waiting accesses proceed in order of acceptance (R32, R51). -/
def State.serve (s : State) : State := s.waiting.foldl State.serveOne { s with waiting := [] }

/-- A FUNCTION reset or life-cycle change holds the page (R516, R524). -/
def State.held (s : State) (u : UnitKind) : Bool := s.fld Fd.LCM_STATE_PHASE == 5 && !keptByFunction u

/-- A page's UNIT_RESET completes and its waiting accesses proceed. -/
def State.endReset (s : State) (u : UnitKind) (i : Nat) : State :=
  { s with resetting := s.resetting.erase (pageKey u i) }.serve

/-- UNIT_RESET_DONE. -/
def unitResetDone (u : UnitKind) (i : Nat) (s : State) : State :=
  if s.inReset u i ∧ s.mayEndReset u ∧ !s.held u then s.endReset u i else s

def execUnitResetDone (u : UnitKind) (i : Nat) (s : State) : Host.Outcome State Fault Refusal := done (unitResetDone u i s)

/-- PORT_TIMEOUT: the oldest waiting access answers TIMEOUT, 1,024 AON cycles after it came (R33). -/
def portTimeout (s : State) : State :=
  match s.waiting with
  | [] => s
  | w :: rest =>
    have s := s.reach (w.2 + 1024)
    have s := { s with waiting := rest }.violation Fd.DIR_VIOL_TIMEOUT_CNT .timeout w.1
    ((s.fault .dir 0 0).answer .timeout 0).emitReply.serve

def execPortTimeout (s : State) : Host.Outcome State Fault Refusal := done (portTimeout s).settle

/-- An access of a core or of the management path is answered before its requester goes on: one to a page under reset waits for the
reset to complete, or for 1,024 AON cycles when it cannot (R33, R51). -/
def State.accessNow (s : State) (a : Access) : State :=
  have t := s.access a
  if t.waiting.length = s.waiting.length then t
  else match pageUnit s.chip.role (a.addr.toNat / 4096) with
  | none => t
  | some (u, i) =>
    if s.mayEndReset u ∧ !s.held u then
      ((s.reach (s.resetting.getD (pageKey u i) 0)).endReset u i).access a
    else
      have s := (s.reach (s.aon + 1024)).violation Fd.DIR_VIOL_TIMEOUT_CNT .timeout a
      (s.fault .dir 0 0).answer .timeout 0

/-! ### The rows of the port -/

/-- REGISTER_WRITE: a register access; one to a register that has a row of its own does what that row says. -/
def execRegisterWrite (a : Access) (s : State) : Host.Outcome State Fault Refusal := done (s.access a).settle

/-- RC_COUNTER_READ (R37, R62). -/
def execRcCounterRead (q : Req) (u : UnitKind) (i off : Nat) (s : State) : Host.Outcome State Fault Refusal :=
  done (s.rowRead q u i off fun s => s.readEff q.path u i (aliasOf (off / 8 * 8)).1)

/-- UNIT_RESET (R51): a write of `PG_CTRL` with bit 1 set. -/
def execUnitReset (q : Req) (u : UnitKind) (i : Nat) (d : Word) (s : State) : Host.Outcome State Fault Refusal :=
  done (s.rowWrite q u i 0x10 (d ||| 2) fun s => (s.ctrlWrite u i (d ||| 2)).okay).settle

/-- PG_ERR_CLEAR (R52). -/
def execPgErrClear (q : Req) (u : UnitKind) (i : Nat) (d : Word) (s : State) : Host.Outcome State Fault Refusal :=
  done (s.rowWrite q u i 0x20 d fun s => (s.errWrite u i d).okay)

/-- PG_LOCK_WRITE (R46 to R48). -/
def execPgLockWrite (q : Req) (u : UnitKind) (i : Nat) (d : Word) (s : State) : Host.Outcome State Fault Refusal :=
  done (s.rowWrite q u i 0x30 d fun s => (s.lockWrite u i q.priv.toNat d).okay)

/-- ALIAS_SET (R54): a write 0x400 above a base offset. -/
def execAliasSet (q : Req) (u : UnitKind) (i off : Nat) (d : Word) (s : State) : Host.Outcome State Fault Refusal :=
  done (s.rowWrite q u i (off + 0x400) d fun s => s.accessEff (s.rowAccess q u i (off + 0x400) true d) u i).settle

/-- ALIAS_CLR (R54): a write 0x800 above a base offset. -/
def execAliasClr (q : Req) (u : UnitKind) (i off : Nat) (d : Word) (s : State) : Host.Outcome State Fault Refusal :=
  done (s.rowWrite q u i (off + 0x800) d fun s => s.accessEff (s.rowAccess q u i (off + 0x800) true d) u i).settle

/-- DIR_VIOL_READ (R62). -/
def execDirViolRead (q : Req) (s : State) : Host.Outcome State Fault Refusal :=
  done (s.rowRead q .dir 0 0x58 fun s => s.readEff q.path .dir 0 0x58)

/-- DIR_NODE_WRITE (R61). -/
def execDirNodeWrite (q : Req) (d : Word) (s : State) : Host.Outcome State Fault Refusal :=
  done (s.rowWrite q .dir 0 0x48 d fun s => (s.nodeWrite d).okay)

/-- FLT_INJECT (R485). -/
def execFltInject (q : Req) (d : Word) (s : State) : Host.Outcome State Fault Refusal :=
  done (s.rowWrite q .flt 0 0x68 d fun s => (fltInjectWrite d s).okay).settle

/-- FUNCTION_RESET_DONE (R518): the pages answer again. -/
def execFunctionResetDone (s : State) : Host.Outcome State Fault Refusal := done (functionResetDone s).serve

/-- BOOT_DONE (R519). -/
def execBootDone (s : State) : Host.Outcome State Fault Refusal := done (bootDone s).serve

/-! ### The cores (R257) -/

/-- A 64-bit access of a core at PRIV H. -/
def coreAccess (c : Nat) (off : BitVec 22) (write : Bool) (d : Word) : Access :=
  { path := .core c, addr := off &&& ~~~7, write, size32 := false, priv := 1, wdata := d, chk := 0 }

/-- A core's 64-bit access: `RSTAT` is kept; any code but OKAY is the access fault, with mtval the core address; a load takes the low
half and `CL_REG_HI` the high half. -/
def State.coreReg (s : State) (c : Nat) (pc : BitVec 32) (off : BitVec 22) (write : Bool) (d : Word) : State :=
  let start := s.aon
  have s := s.accessNow (coreAccess c off write d)
  let stall := (s.aon - start) * s.fastRatio
  match s.reply with
  | none => s
  | some r =>
    have s := s.setCore c { s.core c with rstat := r.rstat }
    if bits r.rstat.toNat 3 0 ≠ 0 then s.coreTrap c pc (if write then 7 else 5) (0x30000000 + off.zeroExtend 32)
    else if write then s.coreDone stall
    else (s.setCore c { s.core c with rdata := r.rdata.truncate 32, regHi := (r.rdata >>> 32).truncate 32 }).coreDone stall

/-- An access to the block register window: with address bit 2 set a load returns `CL_REG_HI` and a store writes it, without any access
(R257); `rdata` is what the load returns. -/
def State.coreWindow (s : State) (c : Nat) (pc : BitVec 32) (off : BitVec 22) (write : Bool) (data : BitVec 32) : State :=
  if off.getLsbD 2 then
    let k := s.core c
    (s.setCore c (if write then { k with regHi := data } else { k with rdata := k.regHi })).coreDone
  else s.coreReg c pc off write (((s.core c).regHi.zeroExtend 64 <<< 32) ||| data.zeroExtend 64)

/-- CORE_REG_ACCESS: an access of a core by the map of Table 10-1; those to the host window are CORE_HOST_ACCESS. `ecc` tells that the
memory read, or the entry read of an EFT command it starts, hits an uncorrectable error. -/
def coreRegAccess (c : Nat) (pc addr : BitVec 32) (op : CoreOp) (data : BitVec 32) (ecc : Bool) (s : State) : State :=
  if !s.coreFree c then s
  else match s.coreAt addr.toNat op with
  | none => s.coreTrap c pc (accFault op) addr
  | some (.local, off) => s.coreLocal c pc off op data ecc
  | some (.regs, off) => s.coreWindow c pc (BitVec.ofNat 22 off) (op == .store 4) data
  | some (.host, _) => s
  | some (m, off) => if ecc && m.ecc op then s.coreUncorr c pc addr op else (s.coreData c m addr.toNat off op data).coreDone

def execCoreRegAccess (c : Nat) (pc addr : BitVec 32) (op : CoreOp) (data : BitVec 32) (ecc : Bool) (s : State) :
    Host.Outcome State Fault Refusal :=
  done (coreRegAccess c pc addr op data ecc s).settle

end Sys2Proof.Machine
end

