-- ==== Sys2Proof/Machine/Mgmt.lean ====
section
/-! DEFINITION. Management requests executed (R64, R65): by a leaf from MGMT_REQ flits, by a tray's MGR from the controller's
frames (R410), and MGR's health timer (R411). -/

namespace Sys2Proof.Machine

/-! ### Executing entries (R65) -/

/-- The access a management entry asks for. -/
def mgmtAccess (e : MgmtEntry) : Access :=
  { path := .mgmt, addr := e.addr, write := e.write, size32 := e.size32, priv := e.priv, wdata := e.wdata, chk := 0 }

/-- An entry's access and the reply that answers it. -/
def State.mgmtRun (s : State) (e : MgmtEntry) : State × MgmtReply :=
  let s := (s.accessNow (mgmtAccess e)).settle
  (s, match s.reply with
    | some r => ⟨e.seq, r.rstat, r.rdata⟩
    | none => ⟨e.seq, s.rstat .timeout, 0⟩)

/-- The last 16 of a list. -/
def lastMax (l : List MgmtReply) : List MgmtReply := l.drop (l.length - mgmtMax)

/-- Replies formed at a leaf and not yet sent: the requests still outstanding. -/
def State.repliesOut (s : State) : Nat :=
  ((((s.lane 0).txq.getD 1 []).filter fun (it : TxItem) => it.ftype == 0x21).map fun (it : TxItem) => it.body.length / 16).sum

/-- One entry at a leaf, after those of the same flit answered so far: refused when 16 are outstanding, a kept reply for a repeated
SEQ, else executed and its reply kept. -/
def State.mgmtOne (a : State × List MgmtReply) (e : MgmtEntry) : State × List MgmtReply :=
  let s := a.1
  if mgmtMax ≤ s.repliesOut + a.2.length then (s.slkViol 0 12 0x20 1 ((s.lane 0).exp + 4095), a.2)
  else match s.kept.find? fun (r : MgmtReply) => r.seq == e.seq with
  | some r => (s, a.2 ++ [r])
  | none =>
    let (s, r) := s.mgmtRun e
    ({ s with kept := lastMax (s.kept ++ [r]) }, a.2 ++ [r])

/-- The entries of a MGMT_REQ flit in SEQ order, answered in one MGMT_RESP flit. -/
def State.mgmtExec (s : State) (es : List MgmtEntry) : State :=
  let (s, rs) := (seqSorted es).foldl State.mgmtOne (s, [])
  if rs.isEmpty then s else s.sendFlit 0 0x21 1 (rs.flatMap respBytes)

/-- MGMT_REQ_EXEC: the flit is accepted in sequence and its entries execute. -/
def mgmtReqExec (es : List MgmtEntry) (s : State) : State :=
  if !s.isTray ∧ s.laneActive 0 then (s.takeFlit 0 1).mgmtExec (es.take 15) else s

def execMgmtReqExec (es : List MgmtEntry) (s : State) : Host.Outcome State Fault Refusal := done (mgmtReqExec es s).settle

/-- The content of a MGMT_REQ flit: entries with reserved bits set are discarded as MGMT_REQ_BAD, the others execute. -/
def State.mgmtIn (s : State) (f : Flit) : State :=
  let chunks := (List.range (f.payload.length / 16)).map fun k => (f.payload.drop (16 * k)).take 16
  let bad := fun (c : Bytes) => decide (bits (rdLE c 2 4) 31 26 ≠ 0 ∨ rdLE c 6 2 ≠ 0)
  have s := (chunks.filter bad).foldl (fun s _ => s.slkViol 0 12 f.ftype f.vc f.seq) s
  s.mgmtExec ((chunks.filter fun c => !bad c).map fun c => mgmtEntry (rdLE c 0 2) (rdLE c 2 4) (rdLE c 8 8))

/-! ### The tray's own entries and the controller's frames (R410) -/

/-- An entry for the tray itself: R65 applies, at PRIV F. -/
def State.ownOne (a : State × List MgmtReply) (e : MgmtEntry) : State × List MgmtReply :=
  let s := a.1
  match s.mgr.own.find? fun (r : MgmtReply) => r.seq == e.seq with
  | some r => (s, a.2 ++ [r])
  | none =>
    let (s, r) := s.mgmtRun e
    ({ s with mgr := { s.mgr with own := lastMax (s.mgr.own ++ [r]) } }, a.2 ++ [r])

/-- The tray's own entries execute in SEQ order and their replies go back. -/
def State.ownExec (s : State) (es : List MgmtEntry) : State :=
  if es.isEmpty then s
  else
    have s := s.bump Fd.MGR_CNT_REQUESTS 0 es.length
    let (s, rs) := (seqSorted es).foldl State.ownOne (s, [])
    s.mgrReplyFrame 0xFF rs

/-- One 24-byte entry of a KIND 32 frame: its target and request at PRIV F, none where it has reserved bits set or no such target. -/
def State.mgrEntry (s : State) (b : Bytes) : Option (Nat × MgmtEntry) :=
  let t := rdLE b 0 1
  let c := rdLE b 4 4
  if bits c 31 26 = 0 ∧ rdLE b 1 1 = 0 ∧ rdLE b 16 8 = 0 ∧ (t < s.wellheads ∨ t = 0xFF) then
    some (t, { mgmtEntry (rdLE b 2 2) c (rdLE b 8 8) with priv := 2 })
  else none

/-- A refused frame or entry at port `p`. -/
def State.mgrRefuse (s : State) (p code src : Nat) : State :=
  have s := s.upViol p code src
  if s.live .mgr then s.bump Fd.MGR_CNT_REFUSED else s

/-- The entries of a KIND 32 frame: those for wellheads by target in rising order, the tray's own last. -/
def State.mgrServe (s : State) (ok : List (Nat × MgmtEntry)) : State :=
  let of := fun (t : Nat) => (ok.filter fun (x : Nat × MgmtEntry) => x.1 == t).map (·.2)
  have s := (List.range s.wellheads).foldl (fun s t =>
    let es := of t
    if es.isEmpty then s else s.relay t .controller es) s
  s.ownExec (of 0xFF)

/-- The payload of a KIND 32 frame from `src`: the port's checks (Table 15-5), then MGR where it is in service. -/
def State.mgrFrame (s : State) (p src : Nat) (m : Bytes) : State :=
  if src ≠ s.fld Fd.MGR_CFG_CONTROLLER_MAC then s.mgrRefuse p 9 src
  else
    let n := rdLE m 2 2
    if n = 0 ∨ 15 < n ∨ m.length < 8 + 24 * n then s.mgrRefuse p 10 src
    else
      let es := (List.range n).map fun k => s.mgrEntry ((m.drop (8 + 24 * k)).take 24)
      let ok := es.filterMap id
      have s := (List.range (n - ok.length)).foldl (fun s _ => s.mgrRefuse p 10 src) s
      if s.live .mgr then s.mgrServe ok else s

/-- MGR_REQ_RX: a KIND 32 frame, whole without its FCS. -/
def mgrReqRx (p : Nat) (f : Bytes) (s : State) : State :=
  let e := ethParse f
  if s.isTray ∧ p < 2 ∧ e.etype = s.fld Fd.UPS_CFG_ETHERTYPE ∧ rdLE e.body 1 1 = 32 then s.mgrFrame p e.src e.body else s

def execMgrReqRx (p : Nat) (f : List Byte) (s : State) : Host.Outcome State Fault Refusal := done (mgrReqRx p f s).settle

/-! ### Health (R411) -/

/-- HEALTH_TIMER: HEALTH_MS after the last, `DIR_STATE` of each ACTIVE leaf is read at PRIV F; the HEALTH record follows the last
reply. -/
def healthTimer (s : State) : State :=
  if s.isTray ∧ s.live .mgr then
    have s := s.reach (s.mgr.healthAt + s.fld Fd.MGR_CFG_HEALTH_MS * cyMs)
    have s := { s with mgr := { s.mgr with healthAt := s.aon, asking := true } }
    have s := (List.range s.wellheads).foldl (fun s w =>
      if s.laneActive w then
        s.relayOwn w .health { seq := 0, addr := 0x50, write := false, size32 := false, priv := 2, wdata := 0 }
      else s) s
    s.healthDue
  else s

def execHealthTimer (s : State) : Host.Outcome State Fault Refusal := done (healthTimer s)

end Sys2Proof.Machine
end

