-- ==== Sys2Proof/Machine/Receive.lean ====
section
/-! DEFINITION. What arrives at the ports: sequenced flits on a lane (R321, R327), frames at an upstream port (R412, Table 15-5), and
the launch of timed items (R106). -/

namespace Sys2Proof.Machine

/-! ### Sequenced flits -/

/-- A type and virtual channel that this end takes (Table 12-5): direction, channel, and what a MGMT_ONLY peer may send (R310). -/
def State.flitAllowed (s : State) (w : Nat) (f : Flit) : Bool :=
  let t := f.ftype
  let way := if t = 0x10 ∨ t = 0x12 ∨ t = 0x20 then !s.isTray else if t = 0x11 ∨ t = 0x21 then s.isTray else true
  let vc := if t = 1 then f.vc != 1 else if t < 0x20 then f.vc == 0 else f.vc == 1
  way && vc && (s.fld Fd.SLK_STATE_MGMT_ONLY w == 0 || t != 1)

/-- A flit that was accepted in sequence and goes no further: on a tray its VC3 buffer is freed. -/
def State.dropFlit (s : State) (w vc : Nat) : State :=
  if s.isTray ∧ vc = 3 then
    (s.freeVc3 w 1).modLane w fun l => { l with rxCount := l.rxCount - 1 }
  else s

/-- The content of an accepted flit. -/
def State.flitTaken (s : State) (w : Nat) (f : Flit) (sub : Nat) (again : Bool) : State :=
  if f.ftype = 1 then s.dataIn w f
  else if f.ftype = 0x22 then s.linkIn w f
  else if f.ftype = 0x20 then s.mgmtIn f
  else if f.ftype = 0x21 then
    s.policed w 1 f.payload.length fun s =>
      s.respIn w ((List.range (f.payload.length / 16)).map fun k => respOf ((f.payload.drop (16 * k)).take 16))
  else s.timeIn w f sub again

/-- A sequenced flit with a good CRC: behind EXP, ahead of it, without a buffer, or accepted. A flit that closes a gap came as a
replay, which spoils a time exchange (R324). -/
def State.sequenced (s : State) (w : Nat) (f : Flit) (len sub : Nat) : State :=
  let l := s.lane w
  let viol := fun (s : State) (c : Nat) => s.slkViol w c f.ftype f.vc f.seq
  let noisy := fun (s : State) => s.modLane w fun l => { l with noise := true }
  if f.seq ≠ l.exp then
    if (l.exp + 8191 - f.seq) % 4096 < 2048 then noisy (viol s 4)
    else if l.ahead then s.gap w
    else (viol s 3).modLane w (fun l => { l with ahead := true }) |>.gap w
  else if s.rxBufs f.vc ≤ l.rxUsed.getD f.vc 0 then ((viol s 7).gap w).resync w
  else
    have s := if l.gapOpen then noisy (s.takeFlit w f.vc) else s.takeFlit w f.vc
    if f.resv ≠ 0 ∨ !flitLenOk f.ftype len then (viol s 5).dropFlit w f.vc
    else if !s.flitAllowed w f then (viol s 6).dropFlit w f.vc
    else if !s.laneCarries w f.ftype f.vc then s.dropFlit w f.vc
    else s.flitTaken w f sub l.gapOpen

/-- DATA_FLIT_RX: the 256 bytes of a flit as they leave the FEC decoder, which corrected `corr` symbols and found `uncorr` codewords it
could not correct; `sub` places the arrival after the last AON edge. Codewords count in every state of an aligned lane (R307). -/
def dataFlitRx (w : Nat) (b : Bytes) (corr : Nat) (uncorr : Option Nat) (sub : Nat) (s : State) : State :=
  if w < s.laneTotal ∧ s.laneActive w then
    match s.flitIn w b corr uncorr with
    | (s, none) => s
    | (s, some (f, len)) => if flitSeqd f.ftype then s.sequenced w f len sub else s.controlIn w f len
  else if w < s.laneTotal ∧ s.laneAligned w then s.fecOnly w b corr uncorr
  else s

def execDataFlitRx (w : Nat) (f : List Byte) (corr : Nat) (uncorr : Option Nat) (sub : Nat) (s : State) :
    Host.Outcome State Fault Refusal :=
  done (dataFlitRx w f corr uncorr sub s).settle

/-! ### PTP frames (R94)

The manual names IEEE 1588-2019 and gives no layout; the header's is the standard's (PRESUMED, log entry 35). -/

/-- The fields of a PTP message the block uses. The rank is the dataset of an Announce as one number, the better the lower. -/
def ptpParse (m : Bytes) : PtpMsg :=
  { version := bits (rdBE m 1 1) 3 0, minor := bits (rdBE m 1 1) 7 4, domain := BitVec.ofNat 8 (rdBE m 4 1)
    seq := BitVec.ofNat 16 (rdBE m 30 2), ident := BitVec.ofNat 80 (rdBE m 20 10), reqId := BitVec.ofNat 80 (rdBE m 44 10), twoStep := bit (rdBE m 6 1) 1, logInt := sext (rdBE m 33 1) 8
    corr := sext (rdBE m 8 8) 64, ts := (rdBE m 34 6 * 1000000000 + rdBE m 40 4) * 65536, rank := rdBE m 47 16 }

/-- A PTP frame at a port: one to an address or of a type outside Table 04-3 is discarded; the rest goes to the port's engine. -/
def State.ptpFrame (s : State) (p : Nat) (e : Eth) (sub : Nat) : State :=
  let m := ptpParse e.body
  let t := bits (rdBE e.body 0 1) 3 0
  if !s.ptpOn p then s
  else if !([ptpDst false, ptpDst true, s.fld Fd.UP_CFG_MAC p].contains e.dst) ∨ !([0, 2, 3, 8, 9, 10, 11].contains t) ∨ !s.ptpTakes m ∨
      (t = 0 ∧ ¬(-7 ≤ m.logInt ∧ m.logInt ≤ 0)) then s.upViol p 4 e.src
  else if t = 0 then ptpSyncRx p m sub s
  else if t = 2 then ptpPdelayReqRx p m sub s
  else if t = 3 then ptpPdelayRespRx p m sub s
  else if t = 8 then ptpFollowUpRx p m s
  else if t = 9 then ptpDelayRespRx p m s
  else if t = 10 then ptpPdelayRespFuRx p m s
  else ptpAnnounceRx p m s

/-! ### Frames at an upstream port -/

/-- A MAC control frame is PAUSE (opcode 1) or PFC (opcode 0x0101). -/
def macControl (e : Eth) : Bool := e.etype == 0x8808 && (rdBE e.body 0 2 == 1 || rdBE e.body 0 2 == 0x0101)

/-- The payload of a UPS frame is well formed: VERSION 1, an assigned KIND, reserved bytes 0 (Table 13-9, R402). -/
def envelopeOk (m : Bytes) : Bool :=
  let k := rdLE m 1 1
  rdLE m 0 1 == 1 &&
    (if k ≤ 2 then bits (rdLE m 13 3) 23 20 == 0 && rdLE m 30 2 == 0 && rdLE m 44 4 == 0
     else if k = 32 ∨ k = 33 ∨ k = 48 then rdLE m 4 4 == 0
     else decide (16 ≤ k ∧ k ≤ 19))

/-- A frame of the UPS EtherType goes to its unit by KIND. While the block is FAULTED only MGR takes frames (R483). -/
def State.upsIn (s : State) (p : Nat) (e : Eth) (f : Bytes) : State :=
  let m := e.body
  let k := rdLE m 1 1
  if !envelopeOk m then s.upViol p 7 e.src
  else if k = 32 then s.mgrFrame p e.src m
  else if k = 33 then s.mgrRefuse p 9 e.src
  else if k ≤ 2 then (if s.treeOn then xrfRx p f s else s.upViol p 8 e.src)
  else if k = 48 then
    (if rdLE m 8 1 = 0x41 then s.fleetTray e.src ((m.drop 8).take (rdLE m 2 2)) else s)
  else
    let b := budParse f
    if s.fromBuddy b ∨ s.fromWard b ∨ s.fromSource b then s.budRx f else s.upViol p 11 e.src

/-- UP_FRAME_RX: a frame without its FCS, with whether the FCS held; `ecc` is an uncorrectable read met while COL takes it. -/
def upFrameRx (p : Nat) (f : Bytes) (crcOk ecc : Bool) (s : State) : State :=
  if s.isTray = false ∨ 2 ≤ p ∨ s.fld Fd.UP_STAT_LINK p = 0 ∨ !s.enabled .up p ∨ s.inReset .up p ∨ s.stopped .up p then s
  else
    let e := ethParse f
    have s := (s.bytes (321 + 2 * p) (f.length + 4)).portRx (128 + p) (f.length + 4)
    let col := s.colTakes f
    let ups := e.etype == s.fld Fd.UPS_CFG_ETHERTYPE
    let sw := e.etype == s.fld Fd.UPS_SWRX_SW_ETHERTYPE
    let ptp := e.etype == 0x88F7
    if !crcOk then s.upViol p 1 e.src
    else if f.length + 4 < 64 ∨ s.fld Fd.UP_CFG_MTU p < e.body.length then s.upViol p 2 e.src
    else if !col ∧ !ups ∧ !sw ∧ !ptp ∧ !macControl e then s.upViol p 3 e.src
    else if ptp then
      let (w, s) := s.draw
      s.ptpFrame p e (w.toNat % 655360)
    else if macControl e then s.upViol p 5 e.src
    else if (s.up p).quars.any fun (x : BitVec 48 × Nat) => x.1 == BitVec.ofNat 48 e.src then s.upViol p 6 e.src
    else if col then s.colFrame f ecc
    else if ups then s.upsIn p e f
    else if !s.live .ups then s
    else match s.swReceive p f with
    | (s, true) => s
    | (s, false) => s.upViol p 12 e.src

def execUpFrameRx (p : Nat) (f : List Byte) (crcOk ecc : Bool) (s : State) : Host.Outcome State Fault Refusal :=
  done (upFrameRx p f crcOk ecc s).settle

/-! ### Timed items -/

/-- TIMED_LAUNCH: the oldest timed item of a port starts at the pin plane at its launch time (R106), or when the timed item before it has
left. Ports 128 and 129 are UP0 and UP1. -/
def timedLaunch (port : Nat) (s : State) : State :=
  match s.tkp.timed.getD port [] with
  | [] => s
  | it :: r =>
    let u := s.launchStart port it
    have s := s.reachBefore u
    let sub := u - s.now
    have s := { s with tkp := { s.tkp with
      timed := if r.isEmpty then s.tkp.timed.erase port else s.tkp.timed.set port r
      busyTo := s.tkp.busyTo.set port (s.now + sub + s.itemTime port it) } }
    if s.isTray ∧ 128 ≤ port then s.launchUp (port - 128) sub it else s.launchLane port sub it

def execTimedLaunch (port : Nat) (s : State) : Host.Outcome State Fault Refusal := done (timedLaunch port s)

end Sys2Proof.Machine
end

