-- ==== Sys2Proof/Machine/Dispatch.lean ====
section
/-! DEFINITION. The dispatch: one arm per command. -/

namespace Sys2Proof.Machine

/-- The effect of a command on everything but the queue. -/
def exec (i : Instr) (s : State) : Host.Outcome State Fault Refusal :=
  match i with
  | .registerWrite a => Sys2Proof.Machine.execRegisterWrite a s
  | .rcCounterRead q u j off => Sys2Proof.Machine.execRcCounterRead q u j off s
  | .portTimeout => Sys2Proof.Machine.execPortTimeout s
  | .unitReset q u j d => Sys2Proof.Machine.execUnitReset q u j d s
  | .unitResetDone u j => Sys2Proof.Machine.execUnitResetDone u j s
  | .pgErrClear q u j d => Sys2Proof.Machine.execPgErrClear q u j d s
  | .pgLockWrite q u j d => Sys2Proof.Machine.execPgLockWrite q u j d s
  | .aliasSet q u j off d => Sys2Proof.Machine.execAliasSet q u j off d s
  | .aliasClr q u j off d => Sys2Proof.Machine.execAliasClr q u j off d s
  | .dirViolRead q => Sys2Proof.Machine.execDirViolRead q s
  | .dirNodeWrite q d => Sys2Proof.Machine.execDirNodeWrite q d s
  | .tkpNowLoRead q => Sys2Proof.Machine.execTkpNowLoRead q s
  | .mgmtReqExec es => Sys2Proof.Machine.execMgmtReqExec es s
  | .mgmtRespRx w rs => Sys2Proof.Machine.execMgmtRespRx w rs s
  | .mgmtTimeout w sq => Sys2Proof.Machine.execMgmtTimeout w sq s
  | .voteRaise v => Sys2Proof.Machine.execVoteRaise v s
  | .primingDone => Sys2Proof.Machine.execPrimingDone s
  | .voteClear v => Sys2Proof.Machine.execVoteClear v s
  | .holdExpire => Sys2Proof.Machine.execHoldExpire s
  | .unprimingDone => Sys2Proof.Machine.execUnprimingDone s
  | .fastVokAssert => Sys2Proof.Machine.execFastVokAssert s
  | .primeTimeout => Sys2Proof.Machine.execPrimeTimeout s
  | .fastVokTimeout => Sys2Proof.Machine.execFastVokTimeout s
  | .retryPrime q d => Sys2Proof.Machine.execRetryPrime q d s
  | .pwrSwVoteWrite q d => Sys2Proof.Machine.execPwrSwVoteWrite q d s
  | .fastRailDroop => Sys2Proof.Machine.execFastRailDroop s
  | .springPrimeLead g => Sys2Proof.Machine.execSpringPrimeLead g s
  | .stageAgeVote => Sys2Proof.Machine.execStageAgeVote s
  | .epochBoundary others => Sys2Proof.Machine.execEpochBoundary others s
  | .timeSyncSend w => Sys2Proof.Machine.execTimeSyncSend w s
  | .timeSyncRx f sub => Sys2Proof.Machine.execTimeSyncRx f sub s
  | .timeDreqRx w exId sub => Sys2Proof.Machine.execTimeDreqRx w exId sub s
  | .timeDrespRx exId t4 replayed => Sys2Proof.Machine.execTimeDrespRx exId t4 replayed s
  | .missedInterval => Sys2Proof.Machine.execMissedInterval s
  | .acceptJump q => Sys2Proof.Machine.execAcceptJump q s
  | .slewEnd => Sys2Proof.Machine.execSlewEnd s
  | .reacquire q => Sys2Proof.Machine.execReacquire q s
  | .ptpSyncRx p m sub => Sys2Proof.Machine.execPtpSyncRx p m sub s
  | .ptpFollowUpRx p m => Sys2Proof.Machine.execPtpFollowUpRx p m s
  | .ptpDelayRespRx p m => Sys2Proof.Machine.execPtpDelayRespRx p m s
  | .ptpPdelayReqRx p m sub => Sys2Proof.Machine.execPtpPdelayReqRx p m sub s
  | .ptpPdelayRespRx p m sub => Sys2Proof.Machine.execPtpPdelayRespRx p m sub s
  | .ptpPdelayRespFuRx p m => Sys2Proof.Machine.execPtpPdelayRespFuRx p m s
  | .ptpAnnounceRx p m => Sys2Proof.Machine.execPtpAnnounceRx p m s
  | .announceTimeout p => Sys2Proof.Machine.execAnnounceTimeout p s
  | .txtsPop q port => Sys2Proof.Machine.execTxtsPop q port s
  | .portTimeRead q port => Sys2Proof.Machine.execPortTimeRead q port s
  | .portTimeWrite q port => Sys2Proof.Machine.execPortTimeWrite q port s
  | .timedLaunch port => Sys2Proof.Machine.execTimedLaunch port s
  | .groupTick g => Sys2Proof.Machine.execGroupTick g s
  | .wellSnapAck w img => Sys2Proof.Machine.execWellSnapAck w img s
  | .wellAckLow w => Sys2Proof.Machine.execWellAckLow w s
  | .staleTimeout w => Sys2Proof.Machine.execStaleTimeout w s
  | .skewWindowEnd w edges => Sys2Proof.Machine.execSkewWindowEnd w edges s
  | .rowComplete g => Sys2Proof.Machine.execRowComplete g s
  | .smpValidate q d => Sys2Proof.Machine.execSmpValidate q d s
  | .smpValidateDone => Sys2Proof.Machine.execSmpValidateDone s
  | .smpPlanWrite q d => Sys2Proof.Machine.execSmpPlanWrite q d s
  | .planRebuildDone g => Sys2Proof.Machine.execPlanRebuildDone g s
  | .springStart q g => Sys2Proof.Machine.execSpringStart q g s
  | .springStop q g => Sys2Proof.Machine.execSpringStop q g s
  | .slowDownMsg shift => Sys2Proof.Machine.execSlowDownMsg shift s
  | .welSlotRead q w idx => Sys2Proof.Machine.execWelSlotRead q w idx s
  | .welSlotWrite q w idx => Sys2Proof.Machine.execWelSlotWrite q w idx s
  | .welSlotReadActive q w idx => Sys2Proof.Machine.execWelSlotReadActive q w idx s
  | .smpTblRead q t idx => Sys2Proof.Machine.execSmpTblRead q t idx s
  | .smpTblWrite q t idx => Sys2Proof.Machine.execSmpTblWrite q t idx s
  | .smpTblReadActive q t idx => Sys2Proof.Machine.execSmpTblReadActive q t idx s
  | .eprTblRead q t idx => Sys2Proof.Machine.execEprTblRead q t idx s
  | .eprTblWrite q t idx => Sys2Proof.Machine.execEprTblWrite q t idx s
  | .eprTblReadActive q t idx => Sys2Proof.Machine.execEprTblReadActive q t idx s
  | .eprCfgWrite q d => Sys2Proof.Machine.execEprCfgWrite q d s
  | .encodeRow ecc => Sys2Proof.Machine.execEncodeRow ecc s
  | .cmpKeyReqWrite q d => Sys2Proof.Machine.execCmpKeyReqWrite q d s
  | .keyRequestMsg all g => Sys2Proof.Machine.execKeyRequestMsg all g s
  | .decodeFrame dec ecc => Sys2Proof.Machine.execDecodeFrame dec ecc s
  | .keyRequestRepeat w g => Sys2Proof.Machine.execKeyRequestRepeat w g s
  | .cmpOutCfgWrite q d => Sys2Proof.Machine.execCmpOutCfgWrite q d s
  | .cmpTblRead q idx => Sys2Proof.Machine.execCmpTblRead q idx s
  | .cmpTblWrite q idx => Sys2Proof.Machine.execCmpTblWrite q idx s
  | .cmpTblReadActive q idx => Sys2Proof.Machine.execCmpTblReadActive q idx s
  | .mxeRmonStatRead q e k => Sys2Proof.Machine.execMxeRmonStatRead q e k s
  | .mxeLaunchWrite q e d => Sys2Proof.Machine.execMxeLaunchWrite q e d s
  | .mxeRunStart e => Sys2Proof.Machine.execMxeRunStart e s
  | .mxeNop e ecc => Sys2Proof.Machine.execMxeNop e ecc s
  | .mxeHalt e ecc => Sys2Proof.Machine.execMxeHalt e ecc s
  | .mxeAcclr e ecc => Sys2Proof.Machine.execMxeAcclr e ecc s
  | .mxeAccld e ecc => Sys2Proof.Machine.execMxeAccld e ecc s
  | .mxeMmul e ecc => Sys2Proof.Machine.execMxeMmul e ecc s
  | .mxeRq e ecc miss => Sys2Proof.Machine.execMxeRq e ecc miss s
  | .mxeAct e ecc => Sys2Proof.Machine.execMxeAct e ecc s
  | .mxeCpy e ecc => Sys2Proof.Machine.execMxeCpy e ecc s
  | .mxeLdh e ecc cyc => Sys2Proof.Machine.execMxeLdh e ecc cyc s
  | .mxeSth e ecc cyc => Sys2Proof.Machine.execMxeSth e ecc cyc s
  | .mxeLdrec e ecc cyc => Sys2Proof.Machine.execMxeLdrec e ecc cyc s
  | .mxeLdeft e ecc cyc fin lost => Sys2Proof.Machine.execMxeLdeft e ecc cyc fin lost s
  | .mxeVout e ecc cyc => Sys2Proof.Machine.execMxeVout e ecc cyc s
  | .mxeContextSaveDone e => Sys2Proof.Machine.execMxeContextSaveDone e s
  | .mxeContextRestoreDone e => Sys2Proof.Machine.execMxeContextRestoreDone e s
  | .mxeAbort q e d => Sys2Proof.Machine.execMxeAbort q e d s
  | .mxeSlotRead q e k => Sys2Proof.Machine.execMxeSlotRead q e k s
  | .mxeSlotWrite q e k => Sys2Proof.Machine.execMxeSlotWrite q e k s
  | .mxeLoad q e k => Sys2Proof.Machine.execMxeLoad q e k s
  | .mxeLoadDone e => Sys2Proof.Machine.execMxeLoadDone e s
  | .mxeUnload q e k => Sys2Proof.Machine.execMxeUnload q e k s
  | .mxeProgRead q e t idx => Sys2Proof.Machine.execMxeProgRead q e t idx s
  | .mxeProgWrite q e t idx => Sys2Proof.Machine.execMxeProgWrite q e t idx s
  | .treLaunchWrite q e d => Sys2Proof.Machine.execTreLaunchWrite q e d s
  | .treRunStart e => Sys2Proof.Machine.execTreRunStart e s
  | .treVector e lost ecc => Sys2Proof.Machine.execTreVector e lost ecc s
  | .treAbort q e d => Sys2Proof.Machine.execTreAbort q e d s
  | .treSlotRead q e k => Sys2Proof.Machine.execTreSlotRead q e k s
  | .treSlotWrite q e k => Sys2Proof.Machine.execTreSlotWrite q e k s
  | .treLoad q e k => Sys2Proof.Machine.execTreLoad q e k s
  | .treLoadDone e => Sys2Proof.Machine.execTreLoadDone e s
  | .treUnload q e k => Sys2Proof.Machine.execTreUnload q e k s
  | .eftRead q ecc => Sys2Proof.Machine.execEftRead q ecc s
  | .eftWrite q ecc => Sys2Proof.Machine.execEftWrite q ecc s
  | .eftDelete q ecc => Sys2Proof.Machine.execEftDelete q ecc s
  | .eftReadPos q idx ecc => Sys2Proof.Machine.execEftReadPos q idx ecc s
  | .eftPurgeGen q => Sys2Proof.Machine.execEftPurgeGen q s
  | .eftPurgeDone => Sys2Proof.Machine.execEftPurgeDone s
  | .eftSnapshot q => Sys2Proof.Machine.execEftSnapshot q s
  | .eftSnapshotDone => Sys2Proof.Machine.execEftSnapshotDone s
  | .eftFeedRead q idx => Sys2Proof.Machine.execEftFeedRead q idx s
  | .eftFeedWrite q idx => Sys2Proof.Machine.execEftFeedWrite q idx s
  | .eftSweepDone => Sys2Proof.Machine.execEftSweepDone s
  | .eftRehashDone lost => Sys2Proof.Machine.execEftRehashDone lost s
  | .coreEftRead c key buf ecc => Sys2Proof.Machine.execCoreEftRead c key buf ecc s
  | .coreEftWrite c key opt buf ent ecc => Sys2Proof.Machine.execCoreEftWrite c key opt buf ent ecc s
  | .coreEftDelete c key ecc => Sys2Proof.Machine.execCoreEftDelete c key ecc s
  | .coreEftReadPos c key buf ecc => Sys2Proof.Machine.execCoreEftReadPos c key buf ecc s
  | .coreEftPurgeGen c opt => Sys2Proof.Machine.execCoreEftPurgeGen c opt s
  | .coreEftDone c => Sys2Proof.Machine.execCoreEftDone c s
  | .coreStart q d => Sys2Proof.Machine.execCoreStart q d s
  | .coreStop q d => Sys2Proof.Machine.execCoreStop q d s
  | .fwLoad q => Sys2Proof.Machine.execFwLoad q s
  | .fwLoadDone => Sys2Proof.Machine.execFwLoadDone s
  | .mbxPushDriver q c => Sys2Proof.Machine.execMbxPushDriver q c s
  | .mbxPopDriver q c => Sys2Proof.Machine.execMbxPopDriver q c s
  | .coreMbxPop c => Sys2Proof.Machine.execCoreMbxPop c s
  | .coreMbxPush c pc msg => Sys2Proof.Machine.execCoreMbxPush c pc msg s
  | .coreRegAccess c pc addr op data ecc => Sys2Proof.Machine.execCoreRegAccess c pc addr op data ecc s
  | .coreHostAccess c pc off write atomic data => Sys2Proof.Machine.execCoreHostAccess c pc off write atomic data s
  | .coreXltStallTimeout c => Sys2Proof.Machine.execCoreXltStallTimeout c s
  | .coreTrap c pc why => Sys2Proof.Machine.execCoreTrap c pc why s
  | .mtimeMatch c => Sys2Proof.Machine.execMtimeMatch c s
  | .wdogKick c val => Sys2Proof.Machine.execWdogKick c val s
  | .wdogBark c => Sys2Proof.Machine.execWdogBark c s
  | .wdogBite c pc => Sys2Proof.Machine.execWdogBite c pc s
  | .corSharedWrite q d => Sys2Proof.Machine.execCorSharedWrite q d s
  | .ringPoll c prod descs => Sys2Proof.Machine.execRingPoll c prod descs s
  | .segmentIssue x ecc => Sys2Proof.Machine.execSegmentIssue x ecc s
  | .segmentDone x idx k data err => Sys2Proof.Machine.execSegmentDone x idx k data err s
  | .descWriteback c idx wbErr consErr => Sys2Proof.Machine.execDescWriteback c idx wbErr consErr s
  | .xltWalk x ptes => Sys2Proof.Machine.execXltWalk x ptes s
  | .xltResume q token => Sys2Proof.Machine.execXltResume q token s
  | .xltAbort q token => Sys2Proof.Machine.execXltAbort q token s
  | .xltFaultPop q => Sys2Proof.Machine.execXltFaultPop q s
  | .xltFaultTimeout token => Sys2Proof.Machine.execXltFaultTimeout token s
  | .xltInvContext q ctx => Sys2Proof.Machine.execXltInvContext q ctx s
  | .xltInvPage q ctx va => Sys2Proof.Machine.execXltInvPage q ctx va s
  | .xltInvAll q => Sys2Proof.Machine.execXltInvAll q s
  | .xltInvDone window => Sys2Proof.Machine.execXltInvDone window s
  | .xltCtxRead q idx => Sys2Proof.Machine.execXltCtxRead q idx s
  | .xltCtxWrite q idx => Sys2Proof.Machine.execXltCtxWrite q idx s
  | .pmpAbort q d => Sys2Proof.Machine.execPmpAbort q d s
  | .pmpChRestart q d => Sys2Proof.Machine.execPmpChRestart q d s
  | .pmpChEnWrite q d => Sys2Proof.Machine.execPmpChEnWrite q d s
  | .pmpChRead q idx => Sys2Proof.Machine.execPmpChRead q idx s
  | .pmpChWrite q idx => Sys2Proof.Machine.execPmpChWrite q idx s
  | .laneDetect w => Sys2Proof.Machine.execLaneDetect w s
  | .trainAlignDone w tx rx => Sys2Proof.Machine.execTrainAlignDone w tx rx s
  | .trainTimeout w => Sys2Proof.Machine.execTrainTimeout w s
  | .trainFlitRx w body => Sys2Proof.Machine.execTrainFlitRx w body s
  | .rateSwitchDone w tx rx => Sys2Proof.Machine.execRateSwitchDone w tx rx s
  | .rateSwitchTimeout w => Sys2Proof.Machine.execRateSwitchTimeout w s
  | .rateHoldExpire w => Sys2Proof.Machine.execRateHoldExpire w s
  | .lossOfSignal w => Sys2Proof.Machine.execLossOfSignal w s
  | .quarantineExpire w => Sys2Proof.Machine.execQuarantineExpire w s
  | .slkRetrain q w d => Sys2Proof.Machine.execSlkRetrain q w d s
  | .slkClearQuar q w d => Sys2Proof.Machine.execSlkClearQuar q w d s
  | .slkQuarantine q w d => Sys2Proof.Machine.execSlkQuarantine q w d s
  | .flitSlot w sub => Sys2Proof.Machine.execFlitSlot w sub s
  | .dataFlitRx w f corr uncorr sub => Sys2Proof.Machine.execDataFlitRx w f corr uncorr sub s
  | .nakRx w f => Sys2Proof.Machine.execNakRx w f s
  | .creditSyncRx w f => Sys2Proof.Machine.execCreditSyncRx w f s
  | .nullFlitRx w f => Sys2Proof.Machine.execNullFlitRx w f s
  | .replayTimeout w => Sys2Proof.Machine.execReplayTimeout w s
  | .nakRepeat w => Sys2Proof.Machine.execNakRepeat w s
  | .creditSyncTimeout w => Sys2Proof.Machine.execCreditSyncTimeout w s
  | .hpaRouteDelay => Sys2Proof.Machine.execHpaRouteDelay s
  | .hpaFlitSend => Sys2Proof.Machine.execHpaFlitSend s
  | .hpaConsPoll cons => Sys2Proof.Machine.execHpaConsPoll cons s
  | .altRingPoll w prod flits => Sys2Proof.Machine.execAltRingPoll w prod flits s
  | .appSend q w => Sys2Proof.Machine.execAppSend q w s
  | .appRxPop q w => Sys2Proof.Machine.execAppRxPop q w s
  | .appMsg w body => Sys2Proof.Machine.execAppMsg w body s
  | .resendMsg first count => Sys2Proof.Machine.execResendMsg first count s
  | .recordArrival w m lost => Sys2Proof.Machine.execRecordArrival w m lost s
  | .rdxClose n => Sys2Proof.Machine.execRdxClose n s
  | .rdxResendWrite q d => Sys2Proof.Machine.execRdxResendWrite q d s
  | .xrfRx p f => Sys2Proof.Machine.execXrfRx p f s
  | .treeSendTimer => Sys2Proof.Machine.execTreeSendTimer s
  | .rdxTblRead q t idx => Sys2Proof.Machine.execRdxTblRead q t idx s
  | .rdxTblWrite q t idx => Sys2Proof.Machine.execRdxTblWrite q t idx s
  | .colStart q d ecc => Sys2Proof.Machine.execColStart q d ecc s
  | .colAbortWrite q d => Sys2Proof.Machine.execColAbortWrite q d s
  | .colSigRx p f ecc => Sys2Proof.Machine.execColSigRx p f ecc s
  | .colDataRx p f ecc => Sys2Proof.Machine.execColDataRx p f ecc s
  | .colAckRx p f ecc => Sys2Proof.Machine.execColAckRx p f ecc s
  | .colAbortRx p f => Sys2Proof.Machine.execColAbortRx p f s
  | .colRetxTimer g => Sys2Proof.Machine.execColRetxTimer g s
  | .colRxTimeout g => Sys2Proof.Machine.execColRxTimeout g s
  | .colTxTimeout g => Sys2Proof.Machine.execColTxTimeout g s
  | .colEftApplyDone g ecc => Sys2Proof.Machine.execColEftApplyDone g ecc s
  | .colGroupRead q idx => Sys2Proof.Machine.execColGroupRead q idx s
  | .colGroupWrite q idx => Sys2Proof.Machine.execColGroupWrite q idx s
  | .colMemberRead q idx => Sys2Proof.Machine.execColMemberRead q idx s
  | .colMemberWrite q idx => Sys2Proof.Machine.execColMemberWrite q idx s
  | .colSlowRead q idx => Sys2Proof.Machine.execColSlowRead q idx s
  | .ingestGrant => Sys2Proof.Machine.execIngestGrant s
  | .slowStepTimer => Sys2Proof.Machine.execSlowStepTimer s
  | .recoverTimer => Sys2Proof.Machine.execRecoverTimer s
  | .upTx p sub => Sys2Proof.Machine.execUpTx p sub s
  | .gateAdvance p => Sys2Proof.Machine.execGateAdvance p s
  | .swFrameSend q => Sys2Proof.Machine.execSwFrameSend q s
  | .swFramePop q => Sys2Proof.Machine.execSwFramePop q s
  | .upFrameRx p f crcOk ecc => Sys2Proof.Machine.execUpFrameRx p f crcOk ecc s
  | .upsQueueRead q idx => Sys2Proof.Machine.execUpsQueueRead q idx s
  | .upsQueueWrite q idx => Sys2Proof.Machine.execUpsQueueWrite q idx s
  | .upsGateRead q idx => Sys2Proof.Machine.execUpsGateRead q idx s
  | .upsGateWrite q idx => Sys2Proof.Machine.execUpsGateWrite q idx s
  | .upsRouteRead q idx => Sys2Proof.Machine.execUpsRouteRead q idx s
  | .upsRouteWrite q idx => Sys2Proof.Machine.execUpsRouteWrite q idx s
  | .policerRead q w v => Sys2Proof.Machine.execPolicerRead q w v s
  | .policerWrite q w v => Sys2Proof.Machine.execPolicerWrite q w v s
  | .mirrorRx p f => Sys2Proof.Machine.execMirrorRx p f s
  | .resyncRx p f => Sys2Proof.Machine.execResyncRx p f s
  | .mirrorAckTimeout => Sys2Proof.Machine.execMirrorAckTimeout s
  | .budRestore q d => Sys2Proof.Machine.execBudRestore q d s
  | .restoreReqRx p f => Sys2Proof.Machine.execRestoreReqRx p f s
  | .restoreEndRx p f => Sys2Proof.Machine.execRestoreEndRx p f s
  | .restoreTimeout => Sys2Proof.Machine.execRestoreTimeout s
  | .mgrReqRx p f => Sys2Proof.Machine.execMgrReqRx p f s
  | .healthTimer => Sys2Proof.Machine.execHealthTimer s
  | .mgrRelayWrite q idx => Sys2Proof.Machine.execMgrRelayWrite q idx s
  | .mgrRelayPop q idx => Sys2Proof.Machine.execMgrRelayPop q idx s
  | .upClearQuar q p d => Sys2Proof.Machine.execUpClearQuar q p d s
  | .upQuarFullClear q p d => Sys2Proof.Machine.execUpQuarFullClear q p d s
  | .upQuarExpire p mac => Sys2Proof.Machine.execUpQuarExpire p mac s
  | .stepMarkPort d => Sys2Proof.Machine.execStepMarkPort d s
  | .stmMarkWrite q d => Sys2Proof.Machine.execStmMarkWrite q d s
  | .stepMarkRx w m => Sys2Proof.Machine.execStepMarkRx w m s
  | .stepVerdict e step => Sys2Proof.Machine.execStepVerdict e step s
  | .fleetStragglerTrayRx p f => Sys2Proof.Machine.execFleetStragglerTrayRx p f s
  | .fleetStragglerLeafRx m => Sys2Proof.Machine.execFleetStragglerLeafRx m s
  | .notifyPop q => Sys2Proof.Machine.execNotifyPop q s
  | .stmJobRead q idx => Sys2Proof.Machine.execStmJobRead q idx s
  | .stmJobWrite q idx => Sys2Proof.Machine.execStmJobWrite q idx s
  | .stmJobReadActive q idx => Sys2Proof.Machine.execStmJobReadActive q idx s
  | .stmRowRead q idx => Sys2Proof.Machine.execStmRowRead q idx s
  | .stmBaseRead q idx => Sys2Proof.Machine.execStmBaseRead q idx s
  | .stmBaseWrite q idx => Sys2Proof.Machine.execStmBaseWrite q idx s
  | .stmBaseReadActive q idx => Sys2Proof.Machine.execStmBaseReadActive q idx s
  | .capArm q rings => Sys2Proof.Machine.execCapArm q rings s
  | .capDisarm q rings => Sys2Proof.Machine.execCapDisarm q rings s
  | .capUpload q rings => Sys2Proof.Machine.execCapUpload q rings s
  | .capCancel q rings => Sys2Proof.Machine.execCapCancel q rings s
  | .capTrigWrite q d => Sys2Proof.Machine.execCapTrigWrite q d s
  | .capUploadSend r => Sys2Proof.Machine.execCapUploadSend r s
  | .capRingRead q idx => Sys2Proof.Machine.execCapRingRead q idx s
  | .capRingCfgWrite q idx => Sys2Proof.Machine.execCapRingCfgWrite q idx s
  | .capLineRead q r idx => Sys2Proof.Machine.execCapLineRead q r idx s
  | .traceBeat src kind size addr data => Sys2Proof.Machine.execTraceBeat src kind size addr data s
  | .traceSourceTimeout src => Sys2Proof.Machine.execTraceSourceTimeout src s
  | .htpFlushTimer => Sys2Proof.Machine.execHtpFlushTimer s
  | .htpStart q => Sys2Proof.Machine.execHtpStart q s
  | .htpStop q => Sys2Proof.Machine.execHtpStop q s
  | .htpRearm q => Sys2Proof.Machine.execHtpRearm q s
  | .htpDrain => Sys2Proof.Machine.execHtpDrain s
  | .htpConsPoll cons => Sys2Proof.Machine.execHtpConsPoll cons s
  | .htpStallTimeout => Sys2Proof.Machine.execHtpStallTimeout s
  | .htpFilterRead q idx => Sys2Proof.Machine.execHtpFilterRead q idx s
  | .htpFilterWrite q idx => Sys2Proof.Machine.execHtpFilterWrite q idx s
  | .scrPassTimer => Sys2Proof.Machine.execScrPassTimer s
  | .scrPassNow q d => Sys2Proof.Machine.execScrPassNow q d s
  | .scrAbortPass q d => Sys2Proof.Machine.execScrAbortPass q d s
  | .scrPatternStart => Sys2Proof.Machine.execScrPatternStart s
  | .scrPatternEnd e => Sys2Proof.Machine.execScrPatternEnd e s
  | .scrHostPop q => Sys2Proof.Machine.execScrHostPop q s
  | .scrHostResult q => Sys2Proof.Machine.execScrHostResult q s
  | .scrHostTimeout j => Sys2Proof.Machine.execScrHostTimeout j s
  | .scrBundleLoad q => Sys2Proof.Machine.execScrBundleLoad q s
  | .scrBundleLoadDone => Sys2Proof.Machine.execScrBundleLoadDone s
  | .scrRestoreWrite q d => Sys2Proof.Machine.execScrRestoreWrite q d s
  | .nvhCheckpoint => Sys2Proof.Machine.execNvhCheckpoint s
  | .nvPhaseDone => Sys2Proof.Machine.execNvPhaseDone s
  | .nvhLogRead q die idx => Sys2Proof.Machine.execNvhLogRead q die idx s
  | .nvhFwdPop q => Sys2Proof.Machine.execNvhFwdPop q s
  | .nvhFwdWrite q => Sys2Proof.Machine.execNvhFwdWrite q s
  | .nvhStateRead q idx => Sys2Proof.Machine.execNvhStateRead q idx s
  | .nvhStateWrite q idx => Sys2Proof.Machine.execNvhStateWrite q idx s
  | .fltInject q d => Sys2Proof.Machine.execFltInject q d s
  | .quietExpire src => Sys2Proof.Machine.execQuietExpire src s
  | .fltAckSet q k d => Sys2Proof.Machine.execFltAckSet q k d s
  | .fltAckClr q k d => Sys2Proof.Machine.execFltAckClr q k d s
  | .fltAckWrite q k d => Sys2Proof.Machine.execFltAckWrite q k d s
  | .fltSrcRead q idx => Sys2Proof.Machine.execFltSrcRead q idx s
  | .fltSrcWrite q idx => Sys2Proof.Machine.execFltSrcWrite q idx s
  | .fltDirRead q idx => Sys2Proof.Machine.execFltDirRead q idx s
  | .fltClearFirst q d => Sys2Proof.Machine.execFltClearFirst q d s
  | .evrRead q sq => Sys2Proof.Machine.execEvrRead q sq s
  | .evrRdWrite q d => Sys2Proof.Machine.execEvrRdWrite q d s
  | .ircClaimRead q n => Sys2Proof.Machine.execIrcClaimRead q n s
  | .ircComplete q d => Sys2Proof.Machine.execIrcComplete q d s
  | .ircHoldoffEnd g => Sys2Proof.Machine.execIrcHoldoffEnd g s
  | .ircPendClear q g d => Sys2Proof.Machine.execIrcPendClear q g d s
  | .pmuSnap q d => Sys2Proof.Machine.execPmuSnap q d s
  | .pmuClear q d => Sys2Proof.Machine.execPmuClear q d s
  | .pmuCtrRead q idx => Sys2Proof.Machine.execPmuCtrRead q idx s
  | .pmuCtrWrite q idx => Sys2Proof.Machine.execPmuCtrWrite q idx s
  | .pmuCtrReadSnap q idx => Sys2Proof.Machine.execPmuCtrReadSnap q idx s
  | .pmuBytesRead q idx => Sys2Proof.Machine.execPmuBytesRead q idx s
  | .pmuAonRead q idx => Sys2Proof.Machine.execPmuAonRead q idx s
  | .pmuBwRead q idx => Sys2Proof.Machine.execPmuBwRead q idx s
  | .pmuRunlogRead q idx => Sys2Proof.Machine.execPmuRunlogRead q idx s
  | .pmuWindowEnd => Sys2Proof.Machine.execPmuWindowEnd s
  | .pmuReplay q d => Sys2Proof.Machine.execPmuReplay q d s
  | .powerOnReset st => Sys2Proof.Machine.execPowerOnReset st s
  | .blockResetPin => Sys2Proof.Machine.execBlockResetPin s
  | .lcmProvision q => Sys2Proof.Machine.execLcmProvision q s
  | .lcmDeploy q => Sys2Proof.Machine.execLcmDeploy q s
  | .lcmUndeploy q => Sys2Proof.Machine.execLcmUndeploy q s
  | .lcmReturn q => Sys2Proof.Machine.execLcmReturn q s
  | .lcmFunctionReset q => Sys2Proof.Machine.execLcmFunctionReset q s
  | .lcmBlockReset q => Sys2Proof.Machine.execLcmBlockReset q s
  | .lcmCmdTakeEffect => Sys2Proof.Machine.execLcmCmdTakeEffect s
  | .functionResetDone => Sys2Proof.Machine.execFunctionResetDone s
  | .otpReadDone => Sys2Proof.Machine.execOtpReadDone s
  | .wipeDone => Sys2Proof.Machine.execWipeDone s
  | .nvStateDecide ok => Sys2Proof.Machine.execNvStateDecide ok s
  | .bootDone => Sys2Proof.Machine.execBootDone s
  | .commitArm q => Sys2Proof.Machine.execCommitArm q s
  | .commitDisarm q => Sys2Proof.Machine.execCommitDisarm q s
  | .lcmCommitWrite q d => Sys2Proof.Machine.execLcmCommitWrite q d s
  | .commitWindowOpen => Sys2Proof.Machine.execCommitWindowOpen s
  | .commitWindowClose => Sys2Proof.Machine.execCommitWindowClose s
  | .otpReadCmd q idx => Sys2Proof.Machine.execOtpReadCmd q idx s
  | .otpWriteCmd q idx => Sys2Proof.Machine.execOtpWriteCmd q idx s
  | .otpProgramDone => Sys2Proof.Machine.execOtpProgramDone s
  | .upLinkDown p => Sys2Proof.Machine.execUpLinkDown p s
  | .upLinkUp p => Sys2Proof.Machine.execUpLinkUp p s
  | .laneRateReqRx w code => Sys2Proof.Machine.execLaneRateReqRx w code s
  | .coreMret c => Sys2Proof.Machine.execCoreMret c s
  | .mirrorAckRx p f => Sys2Proof.Machine.execMirrorAckRx p f s
  | .restoreDataRx p f => Sys2Proof.Machine.execRestoreDataRx p f s
  | .nvhLogWriteDone ok => Sys2Proof.Machine.execNvhLogWriteDone ok s
  | .ptpDelayReqSend p sub => Sys2Proof.Machine.execPtpDelayReqSend p sub s

end Sys2Proof.Machine
end

