-- ==== Sys2Proof/Safety.lean ====
section
/-! DEFINITION. What claims speak about: an access that a page admits, and the states a block may be in. -/

namespace Sys2Proof.Machine

/-- An access to offset `off` of a page passes every check of R36 and need not wait: it takes effect at once. -/
def State.admits (s : State) (a : Access) (u : UnitKind) (i off : Nat) : Prop :=
  (a.path = .host → requestCheck a = a.chk) ∧ (unitPage s.chip.role u i).isSome = true ∧ s.chip.fitted u i = true ∧
    s.refusal a u i off = none ∧ s.mustWait a u i off = false

/-- A row's 64-bit write of `d` at offset `off` of a page is admitted. -/
def State.admitsWrite (s : State) (q : Req) (u : UnitKind) (i off : Nat) (d : Word) : Prop :=
  s.admits (s.rowAccess q u i off true d) u i off

/-- A row's 64-bit read at offset `off` of a page is admitted. -/
def State.admitsRead (s : State) (q : Req) (u : UnitKind) (i off : Nat) : Prop :=
  s.admits (s.rowAccess q u i off false 0) u i off

/-- The state in which a window command takes effect: `TBL_CMD` holds it. -/
def State.took (s : State) (u : UnitKind) (i table op index : Nat) : State :=
  s.setReg (Rg.TBL_CMD u) i (cmdWord table op index &&& 0xFFFFFFFF0000FFFF)

/-- A window command takes effect, in state `t`: its write of `TBL_CMD` is admitted, the window is idle (R58) and the unit's
domain is awake (R75). -/
def State.runs (s t : State) (q : Req) (u : UnitKind) (i table op index : Nat) : Prop :=
  s.admitsWrite q u i 0xC00 (cmdWord table op index) ∧ s.fld (Fd.TBL_STAT_BUSY u) i = 0 ∧
    t = s.took u i table op index ∧ (fastUnit u = true → t.primed = true)

/-- The state after a window command that ended as `o`: the window shows it and the write is answered OKAY. -/
def WinOut.replied (o : WinOut) (u : UnitKind) (i : Nat) : State := (o.show u i).answer .okay 0

/-- The straps are ones that power-on reset can sample (R1, R19, R538): a leaf has a die index 0 to 7 in a package of 1 to 8 dies, a
tray has neither die index, die count nor well tie-offs. -/
def Chip.legal (c : Chip) : Prop :=
  match c.role with
  | .leaf => c.pkgDieIdx < 8 ∧ 1 ≤ c.pkgDies ∧ c.pkgDies ≤ 8
  | .tray => c.pkgDieIdx = 0 ∧ c.pkgDies = 0 ∧ c.wellTie = 0

/-- The addressed memories are in canonical form. -/
def State.memOk (s : State) : Prop := Mem.wf s.sram = true ∧ Mem.wf s.hbm = true

/-- The commands that may store to SRAM: a pump segment that arrives, a core's access to the shared window, a wipe, and a frame that
the software ring takes. -/
def storesSram : Instr → Bool
  | .segmentDone .. | .coreRegAccess .. | .wipeDone | .upFrameRx .. => true
  | _ => false

/-- The commands that may store to HBM: those that move, drain or wipe stored records, captures, mirrored state and collective blocks,
and those that may let work that waited for them do so. -/
def storesHbm : Instr → Bool
  | .epochBoundary .. | .acceptJump .. | .reacquire .. | .mirrorRx .. | .resyncRx .. | .budRestore ..
  | .restoreReqRx .. | .restoreEndRx .. | .capArm .. | .capDisarm .. | .capUpload .. | .capCancel ..
  | .capUploadSend .. | .ingestGrant | .encodeRow .. | .decodeFrame .. | .colStart .. | .colAbortWrite .. | .colSigRx ..
  | .colDataRx .. | .colAckRx .. | .colAbortRx .. | .colRetxTimer .. | .colRxTimeout .. | .colTxTimeout ..
  | .colEftApplyDone .. | .altRingPoll .. | .lcmCmdTakeEffect | .mgmtReqExec .. | .mgrReqRx .. | .unitResetDone ..
  | .portTimeout | .registerWrite .. | .unitReset .. | .aliasSet .. | .aliasClr .. | .functionResetDone | .bootDone
  | .coreRegAccess .. | .recordArrival .. | .rdxClose .. | .dataFlitRx .. | .xltResume .. | .xltAbort ..
  | .xltFaultTimeout .. | .rowComplete .. | .stepVerdict .. | .stepMarkRx .. | .swFrameSend ..
  | .wipeDone | .upFrameRx .. | .segmentDone .. => true
  | _ => false

/-- A group that a claim of line `n` may take (R496, R497): eligible, routed to the line, of a PRIO above its stack top. -/
def State.qualifies (s : State) (n g : Nat) : Prop :=
  g < 16 ∧ s.eligible g = true ∧ (g = 0 ∨ s.line g = n) ∧ ∀ p ∈ (s.stack n).head?, p < s.prio g

end Sys2Proof.Machine
end

