-- ==== Sys2Proof/Certificates/Slice0/Obligations.lean ====
section
/-! DEFINITION. The statements for the provers: for every command where it completes and with what state (under conditions on the
state and the operands alone), and what the rules say of every command and every state. The conditions read: an access is admitted
(`admitsWrite`, `admitsRead`: it passes every check of R36 and need not wait), a window command takes effect in state `t` (`runs`). -/

open Sys2Proof Sys2Proof.Machine

/-- REGISTER_WRITE, ALIAS_SET and ALIAS_CLR: an admitted access has the effect of its register and is answered with its data.
Choices of the model it rests on: log entries 10, 13, 17, 24, 105, 109. -/
def Obligations.AccessesTakeEffect : Prop :=
  (∀ (a : Access) (s : State) (u : UnitKind) (i : Nat),
    pageUnit s.chip.role (a.addr.toNat / 4096) = some (u, i) → s.admits a u i (a.addr.toNat % 4096) →
    (s.accessEff a u i).code = .okay →
    exec (.registerWrite a) s = .next ((s.accessEff a u i).st.answer .okay (s.accessEff a u i).data).settle) ∧
  (∀ (q : Req) (u : UnitKind) (i off : Nat) (d : Word) (s : State), s.admitsWrite q u i (off + 0x400) d →
    (s.accessEff (s.rowAccess q u i (off + 0x400) true d) u i).code = .okay →
    exec (.aliasSet q u i off d) s =
      .next ((s.accessEff (s.rowAccess q u i (off + 0x400) true d) u i).st.answer .okay
        (s.accessEff (s.rowAccess q u i (off + 0x400) true d) u i).data).settle) ∧
  (∀ (q : Req) (u : UnitKind) (i off : Nat) (d : Word) (s : State), s.admitsWrite q u i (off + 0x800) d →
    (s.accessEff (s.rowAccess q u i (off + 0x800) true d) u i).code = .okay →
    exec (.aliasClr q u i off d) s =
      .next ((s.accessEff (s.rowAccess q u i (off + 0x800) true d) u i).st.answer .okay
        (s.accessEff (s.rowAccess q u i (off + 0x800) true d) u i).data).settle)

/-- RC_COUNTER_READ, DIR_VIOL_READ, PG_ERR_CLEAR, PG_LOCK_WRITE, DIR_NODE_WRITE and FLT_INJECT where the access is admitted.
Choices of the model it rests on: log entries 11, 25, 91, 110. -/
def Obligations.HeaderCommands : Prop :=
  (∀ (q : Req) (u : UnitKind) (i off : Nat) (s : State), s.admitsRead q u i off → off % 8 = 0 → off < 0x400 →
    accAt u off = some .rc → ¬(u = .mxe ∧ 0x380 ≤ off) → ¬(u = .irc ∧ 0x1C0 ≤ off ∧ off < 0x1E0) → ¬(u = .tkp ∧ off = 0x48) →
    exec (.rcCounterRead q u i off) s = .next ((s.setReg ⟨u, off⟩ i 0).answer .okay (s.view q.path u i off))) ∧
  (∀ (q : Req) (i k : Nat) (s : State), k < 16 → s.admitsRead q .mxe i (0x380 + 8 * k) →
    exec (.rcCounterRead q .mxe i (0x380 + 8 * k)) s =
      .next ((rmonStatRead i k s).st.answer .okay (rmonStatRead i k s).data)) ∧
  (∀ (q : Req) (s : State), s.admitsRead q .dir 0 0x58 →
    exec (.dirViolRead q) s = .next ((s.setReg ⟨.dir, 0x58⟩ 0 0).answer .okay (s.view q.path .dir 0 0x58))) ∧
  (∀ (q : Req) (u : UnitKind) (i : Nat) (d : Word) (s : State), s.admitsWrite q u i 0x20 d →
    exec (.pgErrClear q u i d) s = .next ((s.setReg (Rg.PG_ERR u) i
      (BitVec.ofNat 64 (pgErrClear (s.reg (Rg.PG_ERR u) i).toNat d.toNat))).answer .okay 0)) ∧
  (∀ (q : Req) (u : UnitKind) (i : Nat) (d : Word) (s : State), s.admitsWrite q u i 0x30 d → u ≠ .dir →
    bits d.toNat 1 0 ≠ 3 → bits d.toNat 1 0 ≤ q.priv.toNat →
    exec (.pgLockWrite q u i d) s = .next ((s.setReg (Rg.PG_LOCK u) i (d &&& 0x10003)).answer .okay 0)) ∧
  (∀ (q : Req) (i : Nat) (d : Word) (s : State), s.admitsWrite q .dir i 0x30 d →
    exec (.pgLockWrite q .dir i d) s = .next (s.answer .okay 0)) ∧
  (∀ (q : Req) (d : Word) (s : State), s.admitsWrite q .dir 0 0x48 d → s.isTray = true → bits d.toNat 19 0 < 2 ^ 11 →
    bits d.toNat 34 20 = 0 →
    exec (.dirNodeWrite q d) s = .next ((s.setReg Rg.DIR_NODE 0
      (BitVec.ofNat 64 (2 ^ 63 + bits d.toNat 34 20 * 2 ^ 20 + bits d.toNat 19 0))).answer .okay 0)) ∧
  (∀ (q : Req) (d : Word) (s : State), s.admitsWrite q .dir 0 0x48 d → s.isTray = false → bits d.toNat 19 0 < 2 ^ 18 →
    s.laneActive 0 = false →
    exec (.dirNodeWrite q d) s = .next ((s.setReg Rg.DIR_NODE 0
      (BitVec.ofNat 64 (2 ^ 63 + bits d.toNat 34 20 * 2 ^ 20 + bits d.toNat 19 0))).answer .okay 0)) ∧
  (∀ (q : Req) (d : Word) (s : State), s.admitsWrite q .flt 0 0x68 d →
    exec (.fltInject q d) s = .next ((fltInjectWrite d s).answer .okay 0).settle)

/-- UNIT_RESET and UNIT_RESET_DONE, PORT_TIMEOUT, and a core's access to the regions of its address map: registers, memories,
local registers, none. Choices of the model it rests on: log entries 14, 15, 16, 54. -/
def Obligations.ResetAndWaiting : Prop :=
  (∀ (q : Req) (u : UnitKind) (i : Nat) (d : Word) (s : State), s.admitsWrite q u i 0x10 (d ||| 2) →
    bits (d ||| 2).toNat 3 2 ≠ 3 → (d ||| 2).getLsbD 1 = true →
    exec (.unitReset q u i d) s =
      .next (((s.setFld (Fd.PG_CTRL_COMMIT_MODE u) i (bits (d ||| 2).toNat 3 2)).resetUnit u i).answer .okay 0).settle) ∧
  (∀ (u : UnitKind) (i : Nat) (s : State), s.inReset u i = true → s.mayEndReset u = true → s.held u = false →
    exec (.unitResetDone u i) s = .next ({ s with resetting := s.resetting.erase (pageKey u i) }.serve)) ∧
  (∀ (s : State) (w : Access × Nat) (rest : List (Access × Nat)), s.waiting = w :: rest →
    exec .portTimeout s = .next (((({ s.reach (w.2 + 1024) with waiting := rest }.violation Fd.DIR_VIOL_TIMEOUT_CNT .timeout w.1
      ).fault .dir 0 0).answer .timeout 0).emitReply.serve).settle) ∧
  (∀ (c : Nat) (pc addr data : BitVec 32) (ecc : Bool) (off : Nat) (s : State), s.coreFree c = true →
    s.coreAt addr.toNat (.store 4) = some (.regs, off) → (BitVec.ofNat 22 off).getLsbD 2 = true →
    exec (.coreRegAccess c pc addr (.store 4) data ecc) s = .next (s.setCore c { s.core c with regHi := data }).coreDone.settle) ∧
  (∀ (c : Nat) (pc addr data : BitVec 32) (ecc : Bool) (off : Nat) (s : State), s.coreFree c = true →
    s.coreAt addr.toNat (.load 4) = some (.regs, off) → (BitVec.ofNat 22 off).getLsbD 2 = true →
    exec (.coreRegAccess c pc addr (.load 4) data ecc) s =
      .next (s.setCore c { s.core c with rdata := (s.core c).regHi }).coreDone.settle) ∧
  (∀ (c : Nat) (pc addr data : BitVec 32) (op : CoreOp) (ecc : Bool) (off : Nat) (s : State), s.coreFree c = true →
    s.coreAt addr.toNat op = some (.regs, off) → (BitVec.ofNat 22 off).getLsbD 2 = false →
    exec (.coreRegAccess c pc addr op data ecc) s =
      .next (s.coreReg c pc (BitVec.ofNat 22 off) (op == .store 4)
        (((s.core c).regHi.zeroExtend 64 <<< 32) ||| data.zeroExtend 64)).settle) ∧
  (∀ (c : Nat) (pc addr data : BitVec 32) (ecc : Bool) (off n : Nat) (s : State), s.coreFree c = true →
    s.coreAt addr.toNat (.store n) = some (.dmem, off) →
    exec (.coreRegAccess c pc addr (.store n) data ecc) s =
      .next ((s.setCore c { s.core c with dmem := Mem.write (s.core c).dmem off (leBytes n data.toNat) }).coreDone).settle) ∧
  (∀ (c : Nat) (pc addr data : BitVec 32) (op : CoreOp) (m : CoreMem) (off : Nat) (s : State), s.coreFree c = true →
    s.coreAt addr.toNat op = some (m, off) → m = .imem ∨ m = .dmem ∨ m = .shared →
    exec (.coreRegAccess c pc addr op data false) s = .next (s.coreData c m addr.toNat off op data).coreDone.settle) ∧
  (∀ (c : Nat) (pc addr data : BitVec 32) (op : CoreOp) (ecc : Bool) (off : Nat) (s : State), s.coreFree c = true →
    s.coreAt addr.toNat op = some (.local, off) →
    exec (.coreRegAccess c pc addr op data ecc) s = .next (s.coreLocal c pc off op data ecc).settle) ∧
  (∀ (c : Nat) (pc addr data : BitVec 32) (op : CoreOp) (ecc : Bool) (s : State), s.coreFree c = true →
    s.coreAt addr.toNat op = none →
    exec (.coreRegAccess c pc addr op data ecc) s = .next (s.coreTrap c pc (accFault op) addr).settle)

/-- The SLK time commands, the exchange timer and the end of a slew, where their conditions hold. Choices of the model it rests
on: log entries 2, 33, 34. -/
def Obligations.TimeExchangeCommands : Prop :=
  (∀ (w : Nat) (s : State), s.isTray = true → s.enabled .tkp = true → s.timeValid = true → s.laneActive w = true →
    let y := s.tkp.sync.getD w ⟨0, none, 0⟩
    let t := s.reach y.due
    let z : WSync := { y with nextId := (y.nextId + 1) % 65536, open_ := some y.nextId, due := t.aon + t.fld Fd.TKP_SERVO_CFG_SYNC_US * cyUs }
    let v := { t with tkp := { t.tkp with sync := t.tkp.sync.set w z } }
    exec (.timeSyncSend w) s = .next ((v.modLane w fun l => { l with noise := false }).sendFlit w 0x10 0
      (leBytes 12 0 ++ leBytes 2 (v.fld Fd.TKP_STATE_STATE) ++ leBytes 2 (v.fld Fd.TKP_SERVO_CFG_SYNC_US) ++
        leBytes 4 (wrapI (v.portTime w).asym 32) ++ leBytes 4 y.nextId))) ∧
  (∀ (f : TimeSyncFlit) (sub : Nat) (s : State), s.isTray = false → s.laneActive 0 = true →
    exec (.timeSyncRx f sub) s = .next ((s.takeFlit 0 0).syncTaken f sub)) ∧
  (∀ (w exId sub : Nat) (s : State), s.isTray = true → s.laneActive w = true →
    exec (.timeDreqRx w exId sub) s = .next ((s.takeFlit w 0).dreqTaken w exId sub)) ∧
  (∀ (exId t4 : Nat) (replayed : Bool) (s : State), s.isTray = false → s.laneActive 0 = true →
    (s.takeFlit 0 0).enabled .tkp = true →
    exec (.timeDrespRx exId t4 replayed) s = .next ((s.takeFlit 0 0).drespTaken exId t4 replayed)) ∧
  (∀ (s : State), s.slewing = true → exec .slewEnd s = .next (s.reach s.tkp.slewLeft).slewStop) ∧
  (∀ (q : Req) (s : State), s.admitsRead q .tkp 0 0x48 →
    exec (.tkpNowLoRead q) s = .next ({ s with tkp := { s.tkp with
      latches := s.tkp.latches.set (latchKey q.path) (BitVec.ofNat 32 (time96 s.now / 2 ^ 64)) } }.answer .okay
        (BitVec.ofNat 64 (time96 s.now))))

/-- MISSED_INTERVAL: a missed interval is counted; TKP_SERVO_CFG.LOSS_CNT of them in a row take TKP to HOLDOVER (R93). Choices
of the model it rests on: log entry 33. -/
def Obligations.MissedIntervals : Prop :=
  (∀ (s : State) (c : Nat), s.tkp.lastC = some c → s.enabled .tkp = true → 0 < s.tkp.interval →
    let m := nextMiss c s.tkp.missAt (s.tkp.interval * 65536)
    let t := s.reachTime m
    let u := { t.bump Fd.TKP_CNT_MISSED with tkp := { t.tkp with missedRun := t.tkp.missedRun + 1, missAt := m } }
    (u.tkp.missedRun < u.servoFld Fd.TKP_SERVO_CFG_LOSS_CNT → exec .missedInterval s = .next u) ∧
    (u.servoFld Fd.TKP_SERVO_CFG_LOSS_CNT ≤ u.tkp.missedRun → exec .missedInterval s = .next u.toHoldover))

/-- The PTP messages of a port that takes them: each has its effect on the port's exchange. Choices of the model it rests on:
log entries 35, 36, 37. -/
def Obligations.PtpCommands : Prop :=
  (∀ (p : Nat) (m : PtpMsg) (sub : Nat) (s : State), s.ptpOn p = true → s.ptpTakes m = true →
    -7 ≤ m.logInt → m.logInt ≤ 0 →
    let iv := 1000000000 / 2 ^ m.logInt.natAbs
    let t := if s.fld Fd.TKP_STATE_SOURCE = p then s.exchangeStart iv else s
    exec (.ptpSyncRx p m sub) s = .next ((t.setPtp p { s.ptpPort p with
      syncSeq := some m.seq, syncFrom := m.ident, t1 := if m.twoStep then none else some m.ts, t2 := t.rxTime (128 + p) sub
      t3 := none, syncCorr := m.corr, interval := iv }).p2pEnd p)) ∧
  (∀ (p : Nat) (m : PtpMsg) (s : State), s.ptpOn p = true → s.ptpTakes m = true →
    (s.ptpPort p).syncSeq = some m.seq → (s.ptpPort p).syncFrom = m.ident → (s.ptpPort p).t1 = none →
    exec (.ptpFollowUpRx p m) s = .next ((s.setPtp p { s.ptpPort p with
      t1 := some m.ts, syncCorr := (s.ptpPort p).syncCorr + m.corr }).p2pEnd p)) ∧
  (∀ (p sub : Nat) (s : State), s.ptpOn p = true → s.p2p = true →
    exec (.ptpDelayReqSend p sub) s = .next ((s.setPtp p { s.ptpPort p with
      reqSeq := (s.ptpPort p).reqSeq + 1, reqId := Config.ptpIdentity p, t3 := none, pdT2 := none }).ptpSend p (ptpDst true) 2 54
        ((s.ptpPort p).reqSeq + 1) (leBytes 20 0) (.request ((s.ptpPort p).reqSeq + 1)))) ∧
  (∀ (p sub : Nat) (s : State), s.ptpOn p = true → s.p2p = false →
    exec (.ptpDelayReqSend p sub) s = .next ((s.setPtp p { s.ptpPort p with
      reqSeq := (s.ptpPort p).reqSeq + 1, reqId := Config.ptpIdentity p, t3 := none, pdT2 := none }).ptpSend p (ptpDst false) 1 44
        ((s.ptpPort p).reqSeq + 1) (leBytes 10 0) (.request ((s.ptpPort p).reqSeq + 1)))) ∧
  (∀ (p : Nat) (m : PtpMsg) (s : State) (t1 t3 : Nat), s.ptpOn p = true → s.ptpTakes m = true →
    s.p2p = false → (s.ptpPort p).t1 = some t1 → (s.ptpPort p).t3 = some t3 → (s.ptpPort p).answers m = true →
    exec (.ptpDelayRespRx p m) s = .next ((s.setPtp p { s.ptpPort p with t1 := none, t3 := none }).ptpEnd p (s.ptpPort p)
      (t1 + (s.ptpPort p).syncCorr) t3 (m.ts - m.corr))) ∧
  (∀ (p : Nat) (m : PtpMsg) (sub : Nat) (s : State), s.ptpOn p = true → s.ptpTakes m = true →
    exec (.ptpPdelayReqRx p m sub) s =
      .next (s.ptpSend p (ptpDst true) 3 54 m.seq (leBytes 10 0 ++ beBytes 10 m.ident.toNat)
        (.response (s.rxTime (128 + p) sub) m.corr))) ∧
  (∀ (p : Nat) (m : PtpMsg) (sub : Nat) (s : State) (t1 : Nat), s.ptpOn p = true → s.ptpTakes m = true →
    s.p2p = true → (s.ptpPort p).t3 = some t1 → (s.ptpPort p).answers m = true → m.twoStep = false →
    exec (.ptpPdelayRespRx p m sub) s = .next (s.peerDelay p (s.ptpPort p) t1 (s.rxTime (128 + p) sub) m.corr)) ∧
  (∀ (p : Nat) (m : PtpMsg) (sub : Nat) (s : State) (t1 : Nat), s.ptpOn p = true → s.ptpTakes m = true →
    s.p2p = true → (s.ptpPort p).t3 = some t1 → (s.ptpPort p).answers m = true → m.twoStep = true →
    exec (.ptpPdelayRespRx p m sub) s = .next (s.setPtp p { s.ptpPort p with
      pdT2 := some m.ts, pdT4 := s.rxTime (128 + p) sub, pdCorr := m.corr })) ∧
  (∀ (p : Nat) (m : PtpMsg) (s : State) (t1 t2 : Nat), s.ptpOn p = true → s.ptpTakes m = true →
    (s.ptpPort p).t3 = some t1 → (s.ptpPort p).pdT2 = some t2 → (s.ptpPort p).answers m = true →
    exec (.ptpPdelayRespFuRx p m) s = .next (s.peerDelay p (s.ptpPort p) t1 (s.ptpPort p).pdT4
      ((m.ts : Int) - t2 + (s.ptpPort p).pdCorr + m.corr))) ∧
  (∀ (p : Nat) (m : PtpMsg) (s : State), s.ptpOn p = true → s.ptpTakes m = true →
    exec (.ptpAnnounceRx p m) s = .next (s.setPtp p { s.ptpPort p with rank := some m.rank, missed := 0 }).selectPort) ∧
  (∀ (p : Nat) (s : State), s.ptpOn p = true →
    let t := (s.setPtp p { s.ptpPort p with rank := none, missed := s.fld Fd.TKP_PTP_CFG_ANNOUNCE_TIMEOUT }).selectPort
    exec (.announceTimeout p) s =
      .next (if t.masterRank 0 = none ∧ t.masterRank 1 = none then t.toHoldover else t))

/-- The windows of TKP. Choices of the model it rests on: log entry 45. -/
def Obligations.TimeWindows : Prop :=
  (∀ (q : Req) (p : Nat) (s t : State) (e : TxTs) (r : List TxTs), s.runs t q .tkp 0 0 3 p → t.portFitted p = true →
    t.tkp.txts.getD p [] = e :: r →
    exec (.txtsPop q p) s = .next (({ t with tkp := { t.tkp with txts := t.tkp.txts.set p r } }.winData
      [BitVec.ofNat 64 (time96 e.time), BitVec.ofNat 64 (time96 e.time / 2 ^ 64 + e.ident.toNat * 2 ^ 32 +
        b2n e.ovfBefore * 2 ^ 48 + b2n e.notLocked * 2 ^ 49)]).replied .tkp 0)) ∧
  (∀ (q : Req) (p : Nat) (s t : State), s.runs t q .tkp 0 1 1 p → t.portFitted p = true →
    exec (.portTimeRead q p) s = .next ((t.winData [BitVec.ofNat 64 (wrapI (t.portTime p).asym 32),
      BitVec.ofNat 64 ((t.portTime p).txLat % 2 ^ 32 + (t.portTime p).rxLat % 2 ^ 32 * 2 ^ 32)]).replied .tkp 0)) ∧
  (∀ (q : Req) (p : Nat) (s t : State), s.runs t q .tkp 0 1 2 p → 2 ≤ q.priv.toNat → t.portFitted p = true →
    exec (.portTimeWrite q p) s = .next (({ t with tkp := { t.tkp with
      portTimes := t.tkp.portTimes.set p { t.portTime p with asym := sext (t.data .tkp 0 0).toNat 32 } } }.win 0).replied .tkp 0))

/-- The management path: requests and replies that a lane takes, the driver's and the controller's entries, the health timer.
Choices of the model it rests on: log entries 102, 103. -/
def Obligations.ManagementCommands : Prop :=
  (∀ (es : List MgmtEntry) (s : State), s.isTray = false → s.laneActive 0 = true →
    exec (.mgmtReqExec es) s = .next ((s.takeFlit 0 1).mgmtExec (es.take 15)).settle) ∧
  (∀ (p : Nat) (f : List Byte) (s : State), s.isTray = true → p < 2 → (ethParse f).etype = s.fld Fd.UPS_CFG_ETHERTYPE →
    rdLE (ethParse f).body 1 1 = 32 →
    exec (.mgrReqRx p f) s = .next (s.mgrFrame p (ethParse f).src (ethParse f).body).settle) ∧
  (∀ (s : State), s.isTray = true → s.live .mgr = true →
    let t := s.reach (s.mgr.healthAt + s.fld Fd.MGR_CFG_HEALTH_MS * cyMs)
    let t := { t with mgr := { t.mgr with healthAt := t.aon, asking := true } }
    exec .healthTimer s = .next ((List.range t.wellheads).foldl (fun t w =>
      if t.laneActive w then
        t.relayOwn w .health { seq := 0, addr := 0x50, write := false, size32 := false, priv := 2, wdata := 0 }
      else t) t).healthDue) ∧
  (∀ (w : Nat) (rs : List MgmtReply) (s : State), s.isTray = true → w < s.wellheads → s.laneActive w = true →
    exec (.mgmtRespRx w rs) s = .next ((s.takeFlit w 1).policed w 1 (16 * rs.length) fun s => s.respIn w rs)) ∧
  (∀ (w : Nat) (sq : BitVec 16) (s : State) (o : MgmtOut),
    (s.lane w).out.find? (fun (x : MgmtOut) => x.seq == sq) = some o →
    exec (.mgmtTimeout w sq) s = .next ((((s.reach (o.sent + 200 * cyUs)).modLane w fun l =>
      { l with out := l.out.filter fun (x : MgmtOut) => x.seq != sq }).relayTimeout w o.origin [sq]).relayNext w)) ∧
  (∀ (q : Req) (w : Nat) (s t : State), s.runs t q .mgr 0 0 2 w → w < t.wellheads → (t.lane w).out.length < mgmtMax →
    exec (.mgrRelayWrite q w) s = .next (((t.relayOwn w .driver
      { mgmtEntry 0 (t.data .mgr 0 0).toNat (t.data .mgr 0 1).toNat with priv := 1 }).win 0 w).replied .mgr 0)) ∧
  (∀ (q : Req) (w : Nat) (s t : State) (r : MgmtReply) (l : List MgmtReply), s.runs t q .mgr 0 0 3 w → w < t.wellheads →
    t.mgr.relayed.getD w [] = r :: l →
    exec (.mgrRelayPop q w) s = .next (({ t with mgr := { t.mgr with
      relayed := if l.isEmpty then t.mgr.relayed.erase w else t.mgr.relayed.set w l } }.winData
        [r.rdata, BitVec.ofNat 64 (r.rstat.toNat * 65536 + r.seq.toNat)] w).replied .mgr 0))

/-- The power sequence (R70, R72, R76): each event moves the domain on from the state it belongs to. Choices of the model it
rests on: log entries 28, 29. -/
def Obligations.PowerCommands : Prop :=
  (∀ (s : State), s.pst = 4 → exec .holdExpire s = .next ((s.reach s.pwr.holdEnd).setFld Fd.PWR_STATE_STATE 0 5).coresSleep) ∧
  (∀ (s : State), s.pst = 5 → s.tagsUsed = 0 → exec .unprimingDone s = .next ((s.setFld Fd.PWR_STATE_STATE 0 0).applyVid).tryPriming) ∧
  (∀ (s : State), s.pwr.vok = false → s.pwr.vokWait.isSome = true →
    exec .fastVokAssert s = .next { s with pwr := { s.pwr with vok := true, vokWait := none, start := s.aon } }) ∧
  (∀ (s : State), s.pwr.vok = false → s.pwr.vokWait = none →
    exec .fastVokAssert s = .next { s with pwr := { s.pwr with vok := true } }) ∧
  (∀ (s : State), s.pst = 2 → s.pwr.vokWait = none →
    exec .primeTimeout s = .next (s.reach (s.pwr.start + 50 * cyUs)).primeFailed) ∧
  (∀ (s : State) (e : Nat), s.pst = 2 → s.pwr.vokWait = some e →
    exec .fastVokTimeout s = .next (s.reach e).primeFailed) ∧
  (∀ (q : Req) (d : Word) (s : State), s.admitsWrite q .pwr 0 0x60 d → s.isTray = false → d.getLsbD 0 = true →
    exec (.retryPrime q d) s = .next (({ s.setFld Fd.PWR_STATE_PRIME_FAILED 0 0 with
      pwr := { s.pwr with fails := 0 } }.tryPriming).answer .okay 0)) ∧
  (∀ (q : Req) (d : Word) (s : State), s.admitsWrite q .pwr 0 0x50 d → s.isTray = false → d.getLsbD 0 = true →
    exec (.pwrSwVoteWrite q d) s = .next (((s.setReg Rg.PWR_SW_VOTE 0 (d &&& 1)).voteUp .sw).answer .okay 0)) ∧
  (∀ (q : Req) (d : Word) (s : State), s.admitsWrite q .pwr 0 0x50 d → s.isTray = false → d.getLsbD 0 = false →
    exec (.pwrSwVoteWrite q d) s = .next (((s.setReg Rg.PWR_SW_VOTE 0 (d &&& 1)).voteDown .sw).answer .okay 0)) ∧
  (∀ (s : State), 2 ≤ s.pst → s.pst ≤ 5 → s.pwr.vokWait = none → s.isTray = false →
    exec .fastRailDroop s = .next (s.fault .pwr 0 1))

/-- PRIMING_DONE: the sequence that has its FAST_VOK ends in PRIMED with the failure count cleared; a boot goes on to the wipe.
Choices of the model it rests on: log entries 29, 112. -/
def Obligations.PrimingEnds : Prop :=
  ∀ (s : State), s.pst = 2 → s.pwr.vokWait = none →
    ∃ t, exec .primingDone s = .next t ∧ t.pwr.fails = 0 ∧
      (s.pwr.boot = true → t.pst = 3 ∧ t.fld Fd.LCM_STATE_PHASE = 3 ∧ t.lcm.wipeFrom = s.aon) ∧
      (s.pwr.boot = false → s.reg Rg.PWR_VOTE ≠ 0 → t.pst = 3)

/-- VOTE_RAISE and VOTE_CLEAR: a vote follows its condition (R70). Choices of the model it rests on: log entry 28. -/
def Obligations.VoteCommands : Prop :=
  (∀ (v : Voter) (s : State), s.voteRises v = true → s.isTray = false → (s.reg Rg.PWR_VOTE).getLsbD (voterBit v) = false →
    exec (.voteRaise v) s = .next (s.voteUp v)) ∧
  (∀ (v : Voter) (s : State), s.voteHolds v = false → s.isTray = false → (s.reg Rg.PWR_VOTE).getLsbD (voterBit v) = true →
    exec (.voteClear v) s = .next (s.voteDown v))

/-- The wellhead handshake (R119 to R123): a snapshot acknowledged in time is taken into the slots the tick needs, a late one is
discarded, and the handshake ends when ACK falls. Choices of the model it rests on: log entry 41. -/
def Obligations.WellheadCommands : Prop :=
  (∀ (w : Nat) (img : List (Nat × Word)) (s : State), (s.well w).req = true → (s.well w).discard = false → s.live .wel w = true →
    s.aon - (s.well w).reqEdge ≤ s.fld Fd.WEL_CFG_STALE_TMO w →
    let lat := min (s.aon - (s.well w).reqEdge) 0xFFFF
    let t := (s.setFld Fd.WEL_LAT_LAST w lat).setFld Fd.WEL_LAT_WORST w (max lat (s.fld Fd.WEL_LAT_WORST w))
    let last := (t.owedSlots w).foldl (fun (m : SMap Word) k =>
      m.set k (((s.well w).active.getD k ⟨0, 0⟩).capture (((img.find? fun i => i.1 == k).map (·.2)).getD 0))) (s.well w).last
    let u := (t.setWell w { s.well w with req := false, closing := true, last, lastOk := true }).bump Fd.WEL_CNT_SNAPSHOTS w
    exec (.wellSnapAck w img) s = .next ((if (s.well w).tickEdge = (s.well w).reqEdge + 1 then u.setFld Fd.WEL_STAT_STALE w 0
      else u).mapGathers w fun g => { g with owed := g.owed.filter (· != w), row := g.row.filled w last })) ∧
  (∀ (w : Nat) (s : State), (s.well w).closing = true →
    exec (.wellAckLow w) s = .next (s.setWell w { s.well w with closing := false })) ∧
  (∀ (w : Nat) (s : State), (s.well w).req = true → (s.well w).discard = false →
    exec (.staleTimeout w) s = .next ((s.reach ((s.well w).reqEdge + s.fld Fd.WEL_CFG_STALE_TMO w)).wellTimeout w)) ∧
  (∀ (w edges : Nat) (s : State), s.isTray = false → w < 48 →
    let u := s.reach ((s.well w).winAt + 1024)
    let t := u.setWell w { u.well w with winAt := (s.well w).winAt + 1024 }
    t.fld Fd.WEL_CFG_MAX_PERIOD_PS w ≠ 0 → edges * t.fld Fd.WEL_CFG_MAX_PERIOD_PS w < 10240000 → t.fld Fd.WEL_STAT_SKEW w = 0 →
    exec (.skewWindowEnd w edges) s =
      .next (((t.setFld Fd.WEL_STAT_EDGES w (min edges (2 ^ 32 - 1))).setFld Fd.WEL_STAT_SKEW w 1).fault .wel w 1)) ∧
  (∀ (w edges : Nat) (s : State), s.isTray = false → w < 48 →
    let u := s.reach ((s.well w).winAt + 1024)
    let t := u.setWell w { u.well w with winAt := (s.well w).winAt + 1024 }
    (t.fld Fd.WEL_CFG_MAX_PERIOD_PS w = 0 ∨ 10240000 ≤ edges * t.fld Fd.WEL_CFG_MAX_PERIOD_PS w) →
    exec (.skewWindowEnd w edges) s =
      .next ((t.setFld Fd.WEL_STAT_EDGES w (min edges (2 ^ 32 - 1))).setFld Fd.WEL_STAT_SKEW w 0)) ∧
  (∀ (q : Req) (w idx : Nat) (s t : State), s.runs t q .wel w 0 1 idx → idx < 256 →
    exec (.welSlotRead q w idx) s = .next ((t.winData [BitVec.ofNat 64
      (((t.well w).staged.getD idx ⟨0, 0⟩).kind * 256 + ((t.well w).staged.getD idx ⟨0, 0⟩).width)]).replied .wel w)) ∧
  (∀ (q : Req) (w idx : Nat) (s t : State), s.runs t q .wel w 0 4 idx → idx < 256 →
    exec (.welSlotReadActive q w idx) s = .next ((t.winData [BitVec.ofNat 64
      (((t.well w).active.getD idx ⟨0, 0⟩).kind * 256 + ((t.well w).active.getD idx ⟨0, 0⟩).width)]).replied .wel w)) ∧
  (∀ (q : Req) (w idx : Nat) (s t : State), s.runs t q .wel w 0 2 idx → idx < 256 → t.enabled .wel w = false →
    bits (t.data .wel w 0).toNat 6 0 ≤ 64 →
    let x : Slot := ⟨bits (t.data .wel w 0).toNat 9 8, bits (t.data .wel w 0).toNat 6 0⟩
    exec (.welSlotWrite q w idx) s = .next ((((t.setWell w { t.well w with staged := (t.well w).staged.set idx x }
      ).markBank .wel w fun s => s.welDirect w).win 0).replied .wel w))

/-- Sampling: a group's grid instant, its completed row, the springs and the votes they cause. Choices of the model it rests on:
log entries 30, 31, 32, 120, 121. -/
def Obligations.SamplingCommands : Prop :=
  (∀ (g : Nat) (s : State) (d : GDesc) (ms : List Nat) (ver next : Nat) (mixed : Bool),
    s.groupDef g = some (d, ms, ver, next, mixed) → (s.grun g).on = true → s.ticking = true → d.spring = false →
    (s.grun g).gather = none →
    let k := max (s.grun g).nextK (s.tickFrom d s.freshTime)
    let r := { s.grun g with nextK := k + 1, counted := (s.grun g).counted + 1, done := false, on := true, lead := (s.grun g).lead }
    exec (.groupTick g) s = .next (((s.reachTime (s.tickAt d k)).setGrun g r).gatherStart g k 0 r d ms ver next mixed)) ∧
  (∀ (g : Nat) (s : State) (x : Gather), (s.grun g).gather = some x → x.owed = [] → x.row.flags.getLsbD 2 = false →
    let stale := (x.row.ctrs.filter fun c => x.row.stale.getLsbD (c / 256)).length
    let t := (((s.setGrun g { s.grun g with gather := none }).item 3).item 5 x.row.count).item 6 stale
    let t := (t.ev .smp 0 2 x.row.count).ev .smp 0 3 stale
    exec (.rowComplete g) s = .next (((t.eprFold x.row x.prev).eprLate.stageRow x.row).smpVote)) ∧
  (∀ (g : Nat) (s : State) (d : GDesc) (ms : List Nat) (r : Nat × Nat × Bool),
    s.groupDef g = some (d, ms, r) → d.valid = true → d.spring = true → d.mode ≠ 2 → (s.grun g).lead = false →
    (s.grun g).counted = 0 → (s.grun g).on = true → s.live .smp = true → s.timeValid = true →
    let t := s.reachTime (s.tickAt d (max (s.grun g).nextK (s.tickFrom d s.freshTime)) -
      s.fld Fd.PWR_CFG_PRIME_LEAD_US * 1000 * 65536)
    exec (.springPrimeLead g) s = .next ((t.setGrun g { t.grun g with lead := true }).voteUp .smp)) ∧
  (∀ (s : State) (r : Row) (l : List Row), s.cmp.stage = r :: l → s.live .cmp = true →
    exec .stageAgeVote s = .next ((s.reachTime (r.time + s.fld Fd.PWR_CFG_STAGE_AGE * units10us + 1)).voteUp .cmp)) ∧
  (∀ (q : Req) (g : Nat) (s : State) (x : GDesc), g < 64 → s.admitsWrite q .smp 0 0x60 (BitVec.ofNat 64 (256 + g)) →
    s.smp.active.groups.get? g = some x → x.valid = true → x.spring = true → (s.grun g).on = false →
    let r := { s.grun g with on := true, counted := 0, done := false, lead := true, nextK := s.tickFrom x (s.now + 1) }
    exec (.springStart q g) s = .next ((((s.setGrun g r).eprForget g).voteUp .smp).answer .okay 0)) ∧
  (∀ (q : Req) (g : Nat) (s : State) (x : GDesc), g < 64 → s.admitsWrite q .smp 0 0x60 (BitVec.ofNat 64 (512 + g)) →
    s.smp.active.groups.get? g = some x → x.valid = true → x.spring = true → (s.grun g).on = true →
    exec (.springStop q g) s = .next (((s.setGrun g { s.grun g with on := false, lead := false, old := none }).smpVote
      ).answer .okay 0)) ∧
  (∀ (shift : Nat) (s : State), s.isTray = false →
    exec (.slowDownMsg shift) s = .next ((s.setFld Fd.SMP_SLOW_SHIFT 0 shift).bumpW Fd.SMP_SLOW_MSGS))

/-- Plans (R126, R127): the check of a staged plan, the write that stages one, the end of a rebuild, and the plan's window.
Choices of the model it rests on: log entries 42, 122, 123. -/
def Obligations.PlanCommands : Prop :=
  (∀ (q : Req) (d : Word) (s : State), s.admitsWrite q .smp 0 0x48 d → d.getLsbD 0 = true →
    exec (.smpValidate q d) s = .next (({ s with smp := { s.smp with valDue := some (s.aon + 13312) } }.setFld
      Fd.SMP_CHECK_DONE 0 0).answer .okay 0)) ∧
  (∀ (s : State) (e : Nat), s.smp.valDue = some e →
    exec .smpValidateDone s = .next { (s.smpCheck fun w => if s.isMarked .wel w then (s.well w).staged else (s.well w).active).2
      with smp := { s.smp with valDue := none } }) ∧
  (∀ (q : Req) (d : Word) (s : State), s.admitsWrite q .smp 0 0x40 d →
    exec (.smpPlanWrite q d) s = .next (({ s with smp := { s.smp with pending := true } }.plainWrite .smp 0 0x40 0 d
      State.smpDirect).answer .okay 0)) ∧
  (∀ (g e : Nat) (s : State) (d : GDesc), (s.grun g).rebuild = some e → (s.eprForget g).smp.active.groups.get? g = some d →
    d.mode ≠ 2 →
    let t := (s.eprForget g).setGrun g { s.grun g with
      rebuild := none, old := none, on := true, counted := 0, done := false, nextK := (s.eprForget g).firstTick d }
    exec (.planRebuildDone g) s =
      .next { t with smp := { t.smp with pending := t.smp.runs.any fun x => x.2.rebuild.isSome } }.smpVote) ∧
  (∀ (q : Req) (idx : Nat) (s t : State), s.runs t q .smp 0 0 1 idx → idx < 64 →
    exec (.smpTblRead q 0 idx) s = .next ((t.winData (t.smp.staged.groups.getD idx GDesc.rest).words).replied .smp 0)) ∧
  (∀ (q : Req) (idx : Nat) (s t : State), s.runs t q .smp 0 1 1 idx → idx < 13312 →
    exec (.smpTblRead q 1 idx) s = .next ((t.winData [BitVec.ofNat 64 (t.smp.staged.members.getD idx 0)]).replied .smp 0)) ∧
  (∀ (q : Req) (idx : Nat) (s t : State), s.runs t q .smp 0 0 4 idx → idx < 64 →
    exec (.smpTblReadActive q 0 idx) s = .next ((t.winData (t.smp.active.groups.getD idx GDesc.rest).words).replied .smp 0)) ∧
  (∀ (q : Req) (idx : Nat) (s t : State), s.runs t q .smp 0 1 4 idx → idx < 13312 →
    exec (.smpTblReadActive q 1 idx) s = .next ((t.winData [BitVec.ofNat 64 (t.smp.active.members.getD idx 0)]).replied .smp 0)) ∧
  (∀ (q : Req) (idx : Nat) (s t : State), s.runs t q .smp 0 0 2 idx → idx < 64 → t.smp.pending = false →
    let w := fun k => (t.data .smp 0 k).toNat
    let d : GDesc :=
      { valid := bit (w 0) 63, spring := bit (w 0) 62, mode := bits (w 0) 61 60, period := bits (w 0) 55 32
        phase := bits (w 0) 31 0, first := bits (w 1) 45 32, count := bits (w 1) 10 0, startEp := bits (w 2) 39 0
        ticks := bits (w 3) 31 0 }
    exec (.smpTblWrite q 0 idx) s = .next (({ t with smp := { t.smp with
      staged := { t.smp.staged with groups := t.smp.staged.groups.set idx d } } }.win 0).replied .smp 0)) ∧
  (∀ (q : Req) (idx : Nat) (s t : State), s.runs t q .smp 0 1 2 idx → idx < 13312 → t.smp.pending = false →
    exec (.smpTblWrite q 1 idx) s = .next (({ t with smp := { t.smp with staged := { t.smp.staged with
      members := t.smp.staged.members.set idx (bits (t.data .smp 0 0).toNat 13 0) } } }.win 0).replied .smp 0))

/-- Epochs and arrivals: a boundary that comes due, the two time commands of the host, a timed launch, an arriving flit and
frame. Choices of the model it rests on: log entries 38, 39, 61, 77, 104, 111, 115, 116, 117, 133. -/
def Obligations.EpochAndArrivals : Prop :=
  (∀ (others : BitVec 8) (s : State), s.timeValid = true → 0 < s.epochLen →
    let n := match s.epochIn with | some o => o + 1 | none => 0
    n ≤ epochMax →
    exec (.epochBoundary others) s = .next ((s.reachTime (s.boundary n)).boundaryEdge s.epochIn n others false)) ∧
  (∀ (q : Req) (s : State), s.admitsWrite q .tkp 0 0xA8 1 →
    exec (.acceptJump q) s = .next (s.acceptJump.answer .okay 0)) ∧
  (∀ (q : Req) (s : State), s.admitsWrite q .tkp 0 0xA8 2 →
    exec (.reacquire q) s = .next (s.reacquire.answer .okay 0)) ∧
  (∀ (port : Nat) (s : State) (x : TimedItem) (r : List TimedItem), s.tkp.timed.getD port [] = x :: r → s.isTray = false →
    let u := s.launchStart port x
    let t := s.reachBefore u
    exec (.timedLaunch port) s = .next ({ t with tkp := { t.tkp with
      timed := if r.isEmpty then t.tkp.timed.erase port else t.tkp.timed.set port r
      busyTo := t.tkp.busyTo.set port (t.now + (u - t.now) + t.itemTime port x) } }.launchLane port (u - t.now) x)) ∧
  (∀ (w : Nat) (b : List Byte) (corr : Nat) (sub : Nat) (s t : State) (f : Flit) (len : Nat),
    w < s.laneTotal → s.laneActive w = true → s.flitIn w b corr none = (t, some (f, len)) → flitSeqd f.ftype = true →
    exec (.dataFlitRx w b corr none sub) s = .next (t.sequenced w f len sub).settle) ∧
  (∀ (w : Nat) (b : List Byte) (corr : Nat) (sub : Nat) (s t : State) (f : Flit) (len : Nat),
    w < s.laneTotal → s.laneActive w = true → s.flitIn w b corr none = (t, some (f, len)) → flitSeqd f.ftype = false →
    exec (.dataFlitRx w b corr none sub) s = .next (t.controlIn w f len).settle) ∧
  (∀ (p : Nat) (f : List Byte) (s : State), s.isTray = true → p < 2 → s.fld Fd.UP_STAT_LINK p = 1 → s.enabled .up p = true →
    s.inReset .up p = false → s.stopped .up p = false → 64 ≤ f.length + 4 →
    let t := (s.bytes (321 + 2 * p) (f.length + 4)).portRx (128 + p) (f.length + 4)
    (ethParse f).body.length ≤ t.fld Fd.UP_CFG_MTU p → t.colTakes f = true → (ethParse f).etype ≠ 0x88F7 →
    macControl (ethParse f) = false →
    ((t.up p).quars.any fun (x : BitVec 48 × Nat) => x.1 == BitVec.ofNat 48 (ethParse f).src) = false →
    exec (.upFrameRx p f true false) s = .next (t.colFrame f false).settle) ∧
  (∀ (p : Nat) (f : List Byte) (s : State), s.isTray = true → p < 2 → s.fld Fd.UP_STAT_LINK p = 1 → s.enabled .up p = true →
    s.inReset .up p = false → s.stopped .up p = false → 64 ≤ f.length + 4 →
    let t := (s.bytes (321 + 2 * p) (f.length + 4)).portRx (128 + p) (f.length + 4)
    (ethParse f).body.length ≤ t.fld Fd.UP_CFG_MTU p → t.colTakes f = false →
    (ethParse f).etype = t.fld Fd.UPS_CFG_ETHERTYPE → (ethParse f).etype ≠ 0x88F7 →
    macControl (ethParse f) = false →
    ((t.up p).quars.any fun (x : BitVec 48 × Nat) => x.1 == BitVec.ofNat 48 (ethParse f).src) = false →
    exec (.upFrameRx p f true false) s = .next (t.upsIn p (ethParse f) f).settle)

/-- EPR's commands: the re-send request, the map's write and the map's window. Choices of the model it rests on: log entries 43,
44. -/
def Obligations.EpochRecordCommands : Prop :=
  (∀ (first count : Nat) (s : State), s.isTray = false →
    let t := s.bump Fd.EPR_RESEND_CNT_REQUESTS
    (t.epr.resends.length < 4 → exec (.resendMsg first count) s =
      .next { t with epr := { t.epr with resends := t.epr.resends ++ [(first % 2 ^ 40, count)] } }.eprServe) ∧
    (4 ≤ t.epr.resends.length → exec (.resendMsg first count) s = .next (t.bump Fd.EPR_RESEND_CNT_DROPPED))) ∧
  (∀ (q : Req) (d : Word) (s : State), s.admitsWrite q .epr 0 0x40 d → 1 ≤ bits d.toNat 18 8 → bits d.toNat 18 8 ≤ 1024 →
    exec (.eprCfgWrite q d) s = .next (({ s with epr := { s.epr with pending := true } }.plainWrite .epr 0 0x40 0 d
      State.eprDirect).answer .okay 0)) ∧
  (∀ (q : Req) (t idx : Nat) (s u : State), s.runs u q .epr 0 t 1 idx → t < 2 → idx < 1024 →
    exec (.eprTblRead q t idx) s = .next ((u.winData [u.epr.staged.word t idx]).replied .epr 0)) ∧
  (∀ (q : Req) (t idx : Nat) (s u : State), s.runs u q .epr 0 t 4 idx → t < 2 → idx < 1024 →
    exec (.eprTblReadActive q t idx) s = .next ((u.winData [u.epr.active.word t idx]).replied .epr 0)) ∧
  (∀ (q : Req) (idx : Nat) (s t : State), s.runs t q .epr 0 0 2 idx → idx < 1024 → t.epr.pending = false →
    let d := (t.data .epr 0 0).toNat
    exec (.eprTblWrite q 0 idx) s = .next (({ t with epr := { t.epr with staged := { t.epr.staged with
      map := t.epr.staged.map.set idx ⟨bit d 31, bit d 24, bits d 21 16, bits d 13 0⟩ } } }.win 0).replied .epr 0)) ∧
  (∀ (q : Req) (idx : Nat) (s t : State), s.runs t q .epr 0 1 2 idx → idx < 1024 → t.epr.pending = false →
    exec (.eprTblWrite q 1 idx) s = .next (({ t with epr := { t.epr with staged := { t.epr.staged with
      tmpl := t.epr.staged.tmpl.set idx (BitVec.ofNat 32 (t.data .epr 0 0).toNat) } } }.win 0).replied .epr 0))

/-- CMP's commands: a row encoded, a frame decoded, KEY requests and the map's window. Choices of the model it rests on: log
entries 46, 47, 124. -/
def Obligations.CompressionCommands : Prop :=
  (∀ (s t' : State) (row : Row), s.isTray = false → s.live .cmp = true → s.primed = true → s.cmp.held = none →
    s.nextRow = some (row, t') → t'.cmp.gapOwed.contains row.group = false →
    let m := rowMap t'.cmp.active row.first row.count
    let h : EncRow := { row, map := m.1, lost := none }
    let t := { t' with cmp := { t'.cmp with gapOwed := t'.cmp.gapOwed.filter (· != row.group), held := some h } }.bump
      Fd.CMP_ENC_CNT_PRED_FIXUP 0 m.2
    let f := t.encode row.group (t.rowHeader row) row m.1
    t.outBytes + f.1.length ≤ t.fld Fd.CMP_OUT_CFG_BUFS * 4096 →
    let u := { t.setFld Fd.CMP_STAT_STALLED 0 0 with cmp := { t.cmp with held := none } }
    exec (.encodeRow .none) s = .next ((((u.encoded row.group row f).cmpOut f.1).capRow 0xFF row).drained)) ∧
  (∀ (s : State) (h : EncRow), s.isTray = false → s.primed = true → s.cmp.held = some h → h.lost = none →
    let f := s.encode h.row.group (s.rowHeader h.row) h.row h.map
    s.fld Fd.CMP_OUT_CFG_BUFS * 4096 < s.outBytes + f.1.length →
    exec (.encodeRow .none) s = .next (s.setFld Fd.CMP_STAT_STALLED 0 1)) ∧
  (∀ (q : Req) (d : Word) (s : State), s.admitsWrite q .cmp 0 0x78 d →
    let enc := s.cmp.enc.mapV fun k e => if d.getLsbD 63 = true ∨ k % 64 = bits d.toNat 5 0 then { e with keyReq := true } else e
    exec (.cmpKeyReqWrite q d) s = .next ({ s with cmp := { s.cmp with enc } }.answer .okay 0)) ∧
  (∀ (all : Bool) (g : Nat) (s : State), s.isTray = false →
    exec (.keyRequestMsg all g) s = .next (keyReqWrite (BitVec.ofNat 64 (b2n all * 2 ^ 63 + g % 64)) s)) ∧
  (∀ (q : Req) (d : Word) (s : State), s.admitsWrite q .cmp 0 0x48 d → s.isTray = false → s.enabled .cmp = false →
    exec (.cmpOutCfgWrite q d) s = .next ((s.plainWrite .cmp 0 0x48 0 d id).answer .okay 0)) ∧
  (∀ (w g k : Nat) (d : DecSt) (s : State),
    (s.cmp.dec.find? fun x => x.2.keyOut && x.1 % 8192 == w * 64 + g) = some (k, d) →
    let t := s.reach (d.keyAt + cyMs)
    exec (.keyRequestRepeat w g) s = .next ((t.setDec k { d with keyAt := t.aon }).askKey w g)) ∧
  (∀ (d w : Nat) (f : Bytes) (q : List (Nat × Bytes)) (row : Row) (st : DecSt) (s : State),
    s.cmp.inQ.getD d [] = (w, f) :: q → s.live .cmp = true → w < 256 → s.decHeld d = false → s.routeHeld 2 = false →
    let t := { s with cmp := { s.cmp with inQ := s.cmp.inQ.set d q } }
    let old := t.cmp.dec.getD (decKey f w) DecSt.rest
    decodeUnder .none f old = .row row st → st.valid = true →
    let u := ((t.ev .cmp 0 5 row.count).setDec (decKey f w) { st with valid := true }).rowOut w f row st.map false
    exec (.decodeFrame d .none) s = .next ((u.unpark d u.cmp.parked).decRebind).settle) ∧
  (∀ (q : Req) (idx : Nat) (s t : State), s.runs t q .cmp 0 0 1 idx → t.isTray = false → idx < 13312 →
    exec (.cmpTblRead q idx) s = .next ((t.winData [BitVec.ofNat 64 (t.cmp.staged.getD idx 0)]).replied .cmp 0)) ∧
  (∀ (q : Req) (idx : Nat) (s t : State), s.runs t q .cmp 0 0 4 idx → t.isTray = false → idx < 13312 →
    exec (.cmpTblReadActive q idx) s = .next ((t.winData [BitVec.ofNat 64 (t.cmp.active.getD idx 0)]).replied .cmp 0)) ∧
  (∀ (q : Req) (idx : Nat) (s t : State), s.runs t q .cmp 0 0 2 idx → t.isTray = false → idx < 13312 →
    exec (.cmpTblWrite q idx) s = .next (({ t with cmp := { t.cmp with
      staged := t.cmp.staged.set idx (bits (t.data .cmp 0 0).toNat 15 0) } }.win 0).replied .cmp 0))

/-- Runs of a matrix engine: a launch, the start of the next run, the end of a save and of a restore, an abort of the running
slot. Choices of the model it rests on: log entries 49, 50, 51, 129. -/
def Obligations.MatrixRunCommands : Prop :=
  (∀ (q : Req) (e : Nat) (d : Word) (s : State), s.admitsWrite q .mxe e 0x50 d →
    exec (.mxeLaunchWrite q e d) s = .next (((List.range 8).foldl (fun s k => if d.getLsbD k then s.mxeLaunchSw e k else s) s
      ).answer .okay 0)) ∧
  (∀ (e : Nat) (s : State) (p : MRun), (s.mx e).mode = 0 → s.primed = true → s.inReset .mxe e = false →
    bestRun (s.mxePrio e) (s.mx e).pend = some p → bestRun (s.mxePrio e) (s.mx e).saved = none → s.live .mxe e = true →
    exec (.mxeRunStart e) s = .next (s.mxeBegin e p)) ∧
  (∀ (e : Nat) (s : State) (p r : MRun), (s.mx e).mode = 0 → s.primed = true → s.inReset .mxe e = false →
    bestRun (s.mxePrio e) (s.mx e).pend = some p → bestRun (s.mxePrio e) (s.mx e).saved = some r → s.live .mxe e = true →
    s.mxePrio e p.slot ≤ s.mxePrio e r.slot → exec (.mxeRunStart e) s = .next (s.mxeNext e)) ∧
  (∀ (e : Nat) (s : State) (r : MRun), (s.mx e).run = some r → (s.mx e).mode = 3 →
    ¬(r.replay = true ∧ r.stop + 1 = r.index) →
    let t := (s.mxeSaveImage e ((s.mx e).slot r.slot)).ev .mxe e 1 256
    let x := { r with switch := r.switch + 256, feed := (t.mx e).feed, preempts := r.preempts + 1 }
    exec (.mxeContextSaveDone e) s = .next (mxeRunStart e ((t.setMx e { t.mx e with
      run := none, mode := 0, saved := (t.mx e).saved ++ [x] }).bump Fd.MXE_SWITCH_CNT_PREEMPTIONS e))) ∧
  (∀ (e : Nat) (s : State) (r : MRun), (s.mx e).run = some r → (s.mx e).mode = 4 →
    let m := s.mx e
    let img := (List.range s.laneCount).map fun l =>
      (l, leNat (Mem.read m.scratch ((m.slot r.slot).ctxAddr + 4096 + 4 * s.feedSize + 16 * l) 16))
    exec (.mxeContextRestoreDone e) s = .next ((s.ev .mxe e 1 256).setMx e { m with
      acc := (img.filter fun (_, v) => bits v 80 0 != 0).map fun (l, v) => (l, { acc := sext (bits v 79 0) 80, sat := bit v 80 })
      fst := (img.filter fun (l, v) => decide (l % 32 = 0 ∧ bits v 87 81 ≠ 0x7F)).map fun (l, v) => (l / 32, bits v 87 81)
      feed := r.feed, mode := 1, run := some { r with switch := r.switch + 256, feed := [] } })) ∧
  (∀ (q : Req) (e : Nat) (d : Word) (s : State) (r : MRun), s.admitsWrite q .mxe e 0x58 d → bits d.toNat 3 0 < 8 →
    (s.mx e).run = some r → r.slot = bits d.toNat 3 0 → (s.mx e).mode ≠ 3 →
    exec (.mxeAbort q e d) s = .next (((s.setMx e { s.mx e with abortRes := 1 }).mxeEndRun e 1 0).answer .okay 0)) ∧
  (∀ (q : Req) (e : Nat) (d : Word) (s : State) (r : MRun), s.admitsWrite q .mxe e 0x58 d → bits d.toNat 3 0 < 8 →
    ((s.mx e).run.any (·.slot == bits d.toNat 3 0)) = false →
    ((s.mx e).pend ++ (s.mx e).saved).find? (·.slot == bits d.toNat 3 0) = some r →
    let m := s.mx e
    let m := { m with
      pend := m.pend.filter (·.slot != bits d.toNat 3 0), saved := m.saved.filter (·.slot != bits d.toNat 3 0), abortRes := 1 }
    exec (.mxeAbort q e d) s = .next (((s.setMx e m).mxeEnd e r 1 0).answer .okay 0))

/-- The windows of MXE (Tables 08-16 and 08-17): slots, loads, the program memories, and a read of a range monitor. Choices of
the model it rests on: log entries 45, 50. -/
def Obligations.MatrixWindows : Prop :=
  (∀ (q : Req) (e k : Nat) (s t : State), s.runs t q .mxe e 0 1 k → k < 8 →
    let x := (t.mx e).slot k
    exec (.mxeSlotRead q e k) s = .next ((t.winData [BitVec.ofNat 64 x.imageVa, BitVec.ofNat 64 x.hostVa,
      BitVec.ofNat 64 (x.ctxAddr * 2 ^ 24 + x.scrBase),
      BitVec.ofNat 64 (b2n x.valid * 2 ^ 63 + x.xltCtx * 2 ^ 32 + b2n x.epochTrg * 2 ^ 22 + x.prio * 2 ^ 20 + x.lutBase * 2 ^ 16 +
        x.imemBase), BitVec.ofNat 64 x.cycles]).replied .mxe e)) ∧
  (∀ (q : Req) (e k : Nat) (s t : State), s.runs t q .mxe e 0 2 k → k < 8 → (t.mx e).hasRun k = false →
    let w := fun i => (t.data .mxe e i).toNat
    let x := { (t.mx e).slot k with
      imageVa := bits (w 0) 47 0, hostVa := bits (w 1) 47 0, ctxAddr := bits (w 2) 47 24, scrBase := bits (w 2) 23 0
      xltCtx := bits (w 3) 41 32, epochTrg := bit (w 3) 22, prio := bits (w 3) 21 20, lutBase := bits (w 3) 19 16
      imemBase := bits (w 3) 15 0 }
    exec (.mxeSlotWrite q e k) s = .next (((t.setMx e { t.mx e with slots := (t.mx e).slots.set k x }).win 0).replied .mxe e)) ∧
  (∀ (q : Req) (e k : Nat) (s t : State), s.runs t q .mxe e 0 5 k → k < 8 → (t.mx e).hasRun k = false →
    let x := (t.mx e).slot k
    let u := (t.mxeEmpty e k).setMx e { (t.mxeEmpty e k).mx e with loading := some k }
    exec (.mxeLoad q e k) s = .next ((u.beginRead 2 e (u.fld Fd.MXE_CFG_PUMP_CH e) x.xltCtx x.imageVa 256).winBusy.replied .mxe e)) ∧
  (∀ (e k : Nat) (img : List Byte) (s : State), (s.mx e).loading = some k → s.carried 2 e = some img →
    let t := (s.setMx e { s.mx e with loading := none }).endXfer 2 e
    t.mxeCheck e k img = none → exec (.mxeLoadDone e) s = .next ((t.mxePut e k img).winEnd .mxe e 0)) ∧
  (∀ (q : Req) (e k : Nat) (s t : State), s.runs t q .mxe e 0 6 k → k < 8 → (t.mx e).hasRun k = false →
    exec (.mxeUnload q e k) s = .next (((t.mxeEmpty e k).win 0).replied .mxe e)) ∧
  (∀ (q : Req) (e idx : Nat) (s t : State), s.runs t q .mxew e 0 1 idx → t.progBusy e = false → idx < t.progSize 0 →
    exec (.mxeProgRead q e 0 idx) s = .next ((t.winData [((t.mx e).imem.getD idx 0).truncate 64,
      (((t.mx e).imem.getD idx 0) >>> 64).truncate 64]).replied .mxew e)) ∧
  (∀ (q : Req) (e idx : Nat) (s t : State), s.runs t q .mxew e 1 1 idx → t.progBusy e = false → idx < t.progSize 1 →
    exec (.mxeProgRead q e 1 idx) s = .next ((t.winData (toWords 32 (Mem.read (t.mx e).scratch (256 * idx) 256))).replied .mxew e)) ∧
  (∀ (q : Req) (e idx : Nat) (s t : State), s.runs t q .mxew e 2 1 idx → t.progBusy e = false → idx < t.progSize 2 →
    exec (.mxeProgRead q e 2 idx) s = .next ((t.winData (toWords 32 (Mem.read (t.mx e).luts (256 * idx) 256))).replied .mxew e)) ∧
  (∀ (q : Req) (e idx : Nat) (s t : State), s.runs t q .mxew e 0 2 idx → t.progBusy e = false → idx < t.progSize 0 →
    exec (.mxeProgWrite q e 0 idx) s = .next (((t.setMx e { t.mx e with
      slots := (t.mx e).spoil 0 idx
      imem := (t.mx e).imem.set idx (((t.data .mxew e 1).setWidth 128 <<< 64) ||| (t.data .mxew e 0).setWidth 128) }).win 0
        ).replied .mxew e)) ∧
  (∀ (q : Req) (e idx : Nat) (s t : State), s.runs t q .mxew e 1 2 idx → t.progBusy e = false → idx < t.progSize 1 →
    exec (.mxeProgWrite q e 1 idx) s = .next (((t.setMx e { t.mx e with
      slots := (t.mx e).spoil 1 idx
      scratch := Mem.write (t.mx e).scratch (256 * idx) (t.dataBytes .mxew e 256) }).win 0).replied .mxew e)) ∧
  (∀ (q : Req) (e idx : Nat) (s t : State), s.runs t q .mxew e 2 2 idx → t.progBusy e = false → idx < t.progSize 2 →
    exec (.mxeProgWrite q e 2 idx) s = .next (((t.setMx e { t.mx e with
      slots := (t.mx e).spoil 2 idx
      luts := Mem.write (t.mx e).luts (256 * idx) (t.dataBytes .mxew e 256) }).win 0).replied .mxew e)) ∧
  (∀ (q : Req) (e k : Nat) (s : State), k < 16 → s.admitsRead q .mxe e (0x380 + 8 * k) →
    let t := s.setMx e { s.mx e with eSeen := (s.mx e).eSeen &&& ~~~(BitVec.ofNat 16 (2 ^ k)) }
    exec (.mxeRmonStatRead q e k) s = .next ((t.setReg (Rg.MXE_RMON_STAT.nth k) e 0).answer .okay
      (s.reg (Rg.MXE_RMON_STAT.nth k) e)))

/-- The instructions of a matrix engine (R193 to R202): the instruction at which the engine's run stands does its work and
retires. Choices of the model it rests on: log entries 50, 51. -/
def Obligations.MatrixInstructions : Prop :=
  (∀ (e : Nat) (s : State) (r : MRun) (x : MSlot) (w : Nat), s.mxeAt e 0x00 = some (r, x, w) →
    exec (.mxeNop e false) s = .next (s.mxeRetire e r w).settle) ∧
  (∀ (e : Nat) (s : State) (r : MRun) (x : MSlot) (w : Nat), s.mxeAt e 0x01 = some (r, x, w) →
    exec (.mxeHalt e false) s = .next (s.mxeRetire e r w).settle) ∧
  (∀ (e : Nat) (s : State) (r : MRun) (x : MSlot) (w : Nat), s.mxeAt e 0x10 = some (r, x, w) →
    let acc := (List.range (32 * nbOf w)).foldl (fun a i => SMap.erase a (accBase w + i)) (s.mx e).acc
    exec (.mxeAcclr e false) s =
      .next ((s.setMx e ({ s.mx e with acc }.setGroups (accBase w) (nbOf w) (fOf w))).mxeRetire e r w).settle) ∧
  (∀ (e : Nat) (s : State) (r : MRun) (x : MSlot) (w : Nat), s.mxeAt e 0x11 = some (r, x, w) →
    let width := if srcSel w = 1 then 4 else 8
    let acc := (List.range (32 * nbOf w)).foldl (fun a i => SMap.set a (accBase w + i)
      { acc := sext (leNat ((s.mx e).scr x (opaAddr w + width * i) width)) (8 * width), sat := false }) (s.mx e).acc
    exec (.mxeAccld e false) s =
      .next ((s.setMx e ({ s.mx e with acc }.setGroups (accBase w) (nbOf w) (fOf w))).mxeRetire e r w).settle) ∧
  (∀ (e : Nat) (s : State) (r : MRun) (x : MSlot) (w : Nat), s.mxeAt e 0x12 = some (r, x, w) →
    (s.mx e).fOk (accBase w) (rowsOf w * nbOf w) (fOf w) = true →
    let m := s.mx e
    let xs := (List.range (rowsOf w)).map fun i => (List.range (kbOf w)).map fun k =>
      m.blk x (fmtHi w) (opaAddr w + (i * kbOf w + k) * recBytes (fmtHi w))
    let ws := (List.range (32 * nbOf w)).map fun n => (List.range (kbOf w)).map fun k =>
      m.blk x (fmtLo w) (opbAddr w + (n * kbOf w + k) * recBytes (fmtLo w))
    let bad := (xs.flatten.filter (·.bad)).length + (ws.flatten.filter (·.bad)).length
    let y := xs.zipIdx.foldl (fun st (x, i) =>
      ws.zipIdx.foldl (fun (a, c) (wt, n) =>
        let l := accBase w + i * 32 * nbOf w + n
        let (v, c) := mmulLane (fOf w) (SMap.getD a l { acc := 0, sat := false }) c x wt
        (SMap.set a l v, c)) st) (m.acc, { sat := 0, clip := 0, loss := 0, fmt := bad : ACnt })
    let feed := (List.range (rowsOf w * nbOf w)).foldl (fun fd g =>
      SMap.set fd (accBase w / 32 + g) (SMap.getD fd (accBase w / 32 + g) [] ++ [kbOf w])) m.feed
    let t := (s.setMx e { m with acc := y.1, feed }).ev .mxe e 6 (rowsOf w * 32 * nbOf w * kbOf w)
    exec (.mxeMmul e false) s = .next ((t.mxeCounts e r y.2).1.mxeRetire e (t.mxeCounts e r y.2).2 w).settle) ∧
  (∀ (e : Nat) (miss : Option (Nat × Nat)) (s t : State) (r r' : MRun) (x : MSlot) (w sent : Nat),
    s.mxeAt e 0x20 = some (r, x, w) → (srcSel w ≠ 0 ∨ (s.mx e).fOk (accBase w) (nbOf w) (fOf w) = true) →
    rqBlocks e x w miss (nbOf w) 0 0 s r = (t, r', sent, true) →
    exec (.mxeRq e false miss) s = .next (t.mxeRetire e r' w sent).settle) ∧
  (∀ (e : Nat) (s t : State) (r r' : MRun) (x : MSlot) (w : Nat), s.mxeAt e 0x21 = some (r, x, w) →
    actBlocks e x w (rowsOf w) 0 s r = (t, r', true) →
    exec (.mxeAct e false) s = .next (t.mxeRetire e r' w).settle) ∧
  (∀ (e : Nat) (s : State) (r : MRun) (x : MSlot) (w : Nat), s.mxeAt e 0x30 = some (r, x, w) →
    exec (.mxeCpy e false) s =
      .next ((s.scrPut e x (opaAddr w) ((s.mx e).scr x (opbAddr w) (bits w 23 0))).mxeRetire e r w).settle) ∧
  (∀ (e cyc : Nat) (s : State) (r : MRun) (x : MSlot) (w : Nat), s.mxeAt e 0x40 = some (r, x, w) → (s.mx e).mode ≠ 2 →
    let t := (s.mxeStall e r cyc).1
    exec (.mxeLdh e false cyc) s = .next ((t.beginRead 3 e (t.fld Fd.MXE_CFG_PUMP_CH e) x.xltCtx (hostLine x w)
      (256 * bits w 55 32)).mxeWait e).settle) ∧
  (∀ (e cyc : Nat) (b : Bytes) (s : State) (r : MRun) (x : MSlot) (w : Nat), s.mxeAt e 0x40 = some (r, x, w) →
    (s.mx e).mode = 2 → (s.mxeStall e r cyc).1.carried 3 e = some b →
    let u := (((s.mxeStall e r cyc).1.scrPut e x (opaAddr w) b).endXfer 3 e).mxeRetire e (s.mxeStall e r cyc).2 w
    exec (.mxeLdh e false cyc) s =
      .next (if (u.mx e).mode = 1 ∧ u.mxePreempted e then u.setMx e { u.mx e with mode := 3 } else u).settle) ∧
  (∀ (e cyc : Nat) (s : State) (r : MRun) (x : MSlot) (w : Nat), s.mxeAt e 0x41 = some (r, x, w) → (s.mx e).mode ≠ 2 →
    let t := (s.mxeStall e r cyc).1
    exec (.mxeSth e false cyc) s = .next ((t.beginWrite 3 e (t.fld Fd.MXE_CFG_PUMP_CH e) x.xltCtx (hostLine x w)
      ((t.mx e).scr x (opaAddr w) (256 * bits w 55 32))).mxeWait e).settle) ∧
  (∀ (e cyc : Nat) (b : Bytes) (s : State) (r : MRun) (x : MSlot) (w : Nat), s.mxeAt e 0x41 = some (r, x, w) →
    (s.mx e).mode = 2 → (s.mxeStall e r cyc).1.carried 3 e = some b →
    let u := ((s.mxeStall e r cyc).1.endXfer 3 e).mxeRetire e (s.mxeStall e r cyc).2 w
    exec (.mxeSth e false cyc) s =
      .next (if (u.mx e).mode = 1 ∧ u.mxePreempted e then u.setMx e { u.mx e with mode := 3 } else u).settle) ∧
  (∀ (e cyc : Nat) (s : State) (r : MRun) (x : MSlot) (w : Nat) (h : Bytes) (fs : List Int), s.mxeAt e 0x42 = some (r, x, w) →
    let t := (s.mxeStall e r cyc).1
    let r := (s.mxeStall e r cyc).2
    bits w 5 0 ≤ r.epoch → t.recordOf (r.epoch - bits w 5 0) = .inr (h, fs) →
    let b := ldrecFields fs (bits w 57 48) (bits w 41 32 + 1) t
    let u := (b.2.2.scrPut e x (opaAddr w) (h ++ b.1)).mxeCounts e r { sat := 0, clip := b.2.1, loss := 0, fmt := 0 }
    exec (.mxeLdrec e false cyc) s = .next (u.1.mxeRetire e u.2 w).settle) ∧
  (∀ (e cyc : Nat) (lost : List Nat) (s : State) (r : MRun) (x : MSlot) (w : Nat), s.mxeAt e 0x43 = some (r, x, w) →
    let t := (s.mxeStall e r cyc).1
    let b := ldeftKeys (bits w 37 32) (bits w 5 0 + 1) lost 0
      ((List.range (rowsOf w)).map fun i => leNat ((t.mx e).scr x (opbAddr w + 8 * i) 8)) t
    exec (.mxeLdeft e false cyc true lost) s =
      .next ((b.2.scrPut e x (opaAddr w) b.1).mxeRetire e (s.mxeStall e r cyc).2 w).settle) ∧
  (∀ (e cyc : Nat) (s : State) (r : MRun) (x : MSlot) (w : Nat), s.mxeAt e 0x44 = some (r, x, w) → r.replay = false →
    let t := (s.mxeStall e r cyc).1
    let r := (s.mxeStall e r cyc).2
    (t.mx e).vq.length < 32 →
    let v := t.verdict (bits w 47 40) r.job r.gen r.epoch (r.raised != 0) ((t.mx e).scr x (opaAddr w) (8 * (bits w 36 32 + 1)))
    exec (.mxeVout e false cyc) s = .next (((t.setMx e { t.mx e with vq := (t.mx e).vq ++ [v] }).capVerdict (bits w 47 40)
      ).mxeRetire e r w).settle)

/-- The commands of a tree engine: a launch, a run's start, a vector, an abort, and its window. Choices of the model it rests
on: log entries 49, 51, 52, 129, 131, 136. -/
def Obligations.TreeEngineCommands : Prop :=
  (∀ (q : Req) (e : Nat) (d : Word) (s : State), s.admitsWrite q .tre e 0x50 d →
    exec (.treLaunchWrite q e d) s = .next (((List.range 4).foldl (fun s k => if d.getLsbD k then s.treLaunchSw e k else s) s
      ).answer .okay 0)) ∧
  (∀ (e : Nat) (s : State) (r : TRun) (l : List TRun), (s.tr e).run = none → (s.tr e).pend = r :: l → s.primed = true →
    s.inReset .tre e = false → s.live .tre e = true → r.pattern = false →
    exec (.treRunStart e) s = .next (s.setTr e { s.tr e with run := some r, pend := l })) ∧
  (∀ (e : Nat) (lost : Bool) (s t : State) (r : TRun) (x : List Int) (fs next : Nat) (key : Option Word) (last : Bool)
    (u : State) (r2 : TRun), (s.tr e).run = some r → s.primed = true → s.inReset .tre e = false → s.outOfService .tre e = false →
    s.treInput e r ((s.tr e).slot r.slot) lost = (t, .vec x fs key next last) →
    let z := (s.tr e).slot r.slot
    let lanes := if s.isTray then 64 else 16
    let y := treEvaluate (s.tr e) z x lanes
    let r1 := { r with
      featSat := r.featSat + fs, catRange := r.catRange + y.2.1.cat, missing := r.missing + y.2.1.missing
      cycles := r.cycles + ceilDiv z.featN lanes + (y.2.2.map (·.2)).foldl max 0 + 8, vectors := r.vectors + 1 }
    t.treEmit e r1 z key y.1 = some (u, r2) →
    let v := ((u.bump Fd.TRE_CNT_FEAT_SAT e fs).bump Fd.TRE_CNT_CAT_RANGE e y.2.1.cat).bump Fd.TRE_CNT_MISSING e y.2.1.missing
    let v := ((v.ev .tre e 1 (r2.cycles - r.cycles)).ev .tre e 2 (y.2.2.map (·.2)).sum).ev .tre e 3
    let v := v.setTr e { v.tr e with run := some { r2 with pos := next } }
    exec (.treVector e lost none) s = .next (if last then v.treEndRun e 0 0 else v).settle) ∧
  (∀ (q : Req) (e : Nat) (d : Word) (s : State) (r : TRun), s.admitsWrite q .tre e 0x58 d → bits d.toNat 3 0 < 4 →
    (s.tr e).run = some r → r.slot = bits d.toNat 3 0 →
    exec (.treAbort q e d) s = .next (((s.setTr e { s.tr e with abortRes := 1 }).treEndRun e 1 0).answer .okay 0)) ∧
  (∀ (q : Req) (e k : Nat) (s t : State), s.runs t q .tre e 0 1 k → k < 4 →
    let x := (t.tr e).slot k
    exec (.treSlotRead q e k) s = .next ((t.winData ([x.imageVa, x.inVa, x.outVa,
      b2n x.valid * 2 ^ 63 + x.xltCtx * 2 ^ 32 + x.cls * 2 ^ 24 + b2n x.epochTrg * 2 ^ 22 + x.nodeBase,
      x.setBase * 2 ^ 32 + x.emitMax * 2 ^ 16, x.nVec, x.trees.length * 2 ^ 48 + x.nNodes].map (BitVec.ofNat 64))).replied .tre e)) ∧
  (∀ (q : Req) (e k : Nat) (s t : State), s.runs t q .tre e 0 2 k → k < 4 → (t.tr e).hasRun k = false →
    let w := fun i => (t.data .tre e i).toNat
    let x := { (t.tr e).slot k with
      imageVa := bits (w 0) 47 0, inVa := bits (w 1) 47 0, outVa := bits (w 2) 47 0, xltCtx := bits (w 3) 41 32
      cls := bits (w 3) 31 24, epochTrg := bit (w 3) 22, nodeBase := bits (w 3) 21 0, setBase := bits (w 4) 46 32
      emitMax := bits (w 4) 31 16, nVec := bits (w 5) 31 0 }
    exec (.treSlotWrite q e k) s = .next (((t.setTr e { t.tr e with slots := (t.tr e).slots.set k x }).win 0).replied .tre e)) ∧
  (∀ (q : Req) (e k : Nat) (s t : State), s.runs t q .tre e 0 5 k → k < 4 → (t.tr e).hasRun k = false →
    let x := (t.tr e).slot k
    let u := (t.treEmpty e k).setTr e { (t.treEmpty e k).tr e with loading := some k }
    exec (.treLoad q e k) s = .next ((u.beginRead 4 e (u.fld Fd.TRE_CFG_PUMP_CH e) x.xltCtx x.imageVa 256).winBusy.replied .tre e)) ∧
  (∀ (e k : Nat) (img : List Byte) (s : State), (s.tr e).loading = some k → s.carried 4 e = some img →
    let t := (s.setTr e { s.tr e with loading := none }).endXfer 4 e
    t.treCheck e k img = none → exec (.treLoadDone e) s = .next ((t.trePut e k img).winEnd .tre e 0)) ∧
  (∀ (q : Req) (e k : Nat) (s t : State), s.runs t q .tre e 0 6 k → k < 4 → (t.tr e).hasRun k = false →
    exec (.treUnload q e k) s = .next (((t.treEmpty e k).win 0).replied .tre e))

/-- The entity feature table's window (Table 09-8): lookups, writes, removals, and the runs that take time. Choices of the model
it rests on: log entries 26, 53, 125, 134. -/
def Obligations.FeatureTableCommands : Prop :=
  (∀ (q : Req) (ecc : Bool) (s t u : State) (p : Nat) (x : EftEnt), s.runs t q .eft 0 0 1 0 →
    t.eftGet (t.key .eft 0 0).toNat ecc = (u, some (p, x)) →
    exec (.eftRead q ecc) s = .next ((u.winData (toWords 32 x.bytes) p).replied .eft 0)) ∧
  (∀ (q : Req) (s t : State) (l : Bool) (p : Nat) (x : EftEnt), s.runs t q .eft 0 0 2 0 →
    let m := t.dataBytes .eft 0 256
    let k := (t.key .eft 0 0).toNat
    bits (rdLE m 12 4) 7 2 = 0 → bits (rdLE m 12 4) 31 16 = 0 → rdLE m 20 12 = 0 →
    let opt := (t.key .eft 0 1).toNat
    let stamp := if bit opt 2 then rdLE m 8 4 else t.eftCount.epochNow % 2 ^ 32
    t.eftCount.eftFind k = some (l, p, x) → bit opt 1 = false → (bit opt 3 = true → stampNewer stamp x.stamp = true) →
    let new : EftEnt := { key := BitVec.ofNat 64 k, stamp, pinned := bit (rdLE m 12 4) 1
                          gen := bits (rdLE m 12 4) 15 8, writes := min (x.writes + 1) 0xFFFFFFFF
                          feats := (List.range 56).map fun i => BitVec.ofNat 32 (rdLE m (32 + 4 * i) 4) }
    exec (.eftWrite q false) s = .next (((((t.eftCount).eftSet l p new).eftWrote k).win 0 p).replied .eft 0)) ∧
  (∀ (q : Req) (s t u : State) (p : Nat), s.runs t q .eft 0 0 2 0 →
    let m := t.dataBytes .eft 0 256
    let k := (t.key .eft 0 0).toNat
    bits (rdLE m 12 4) 7 2 = 0 → bits (rdLE m 12 4) 31 16 = 0 → rdLE m 20 12 = 0 →
    let opt := (t.key .eft 0 1).toNat
    t.eftCount.eftFind k = none → bit opt 0 = false →
    t.eftCount.eftInsert { key := BitVec.ofNat 64 k, stamp := if bit opt 2 then rdLE m 8 4 else t.eftCount.epochNow % 2 ^ 32
                           pinned := bit (rdLE m 12 4) 1
                           gen := bits (rdLE m 12 4) 15 8, writes := 1
                           feats := (List.range 56).map fun i => BitVec.ofNat 32 (rdLE m (32 + 4 * i) 4) } = (u, some p) →
    exec (.eftWrite q false) s = .next (((u.eftWrote k).win 0 p).replied .eft 0)) ∧
  (∀ (q : Req) (s t : State) (l : Bool) (p : Nat) (x : EftEnt), s.runs t q .eft 0 0 3 0 →
    t.eftCount.eftFind (t.key .eft 0 0).toNat = some (l, p, x) →
    exec (.eftDelete q false) s = .next (((t.eftCount.eftDrop l p).win 0).replied .eft 0)) ∧
  (∀ (q : Req) (idx : Nat) (s t : State), s.runs t q .eft 0 0 4 idx → idx < t.eftCap + 64 →
    exec (.eftReadPos q idx false) s = .next ((t.eftCount.winData (toWords 32 (match t.eftCount.eft.tbl.get? idx with
      | some x => x.bytes
      | none => List.replicate 256 0)) idx).replied .eft 0)) ∧
  (∀ (q : Req) (s t : State), s.runs t q .eft 0 0 5 0 →
    exec (.eftPurgeGen q) s = .next ({ t with eft := { t.eft with
      purge := t.eft.purge ++ [(bits (t.key .eft 0 1).toNat 15 8, EftBy.window)] } }.winBusy.replied .eft 0)) ∧
  (∀ (q : Req) (s t : State), s.runs t q .eft 0 0 6 0 → t.eft.snap = none →
    let va := bits (t.key .eft 0 0).toNat 47 0
    let u := { t with eft := { t.eft with snap := some { va, start := t.epochNow, pos := 0, count := 0, closed := false } } }
    exec (.eftSnapshot q) s = .next ((u.beginRanges 8 0 (u.fld Fd.EFT_CTL_PUMP_CH) (u.fld Fd.EFT_CTL_XLT_CTX) [] true [] true
      ).winBusy.replied .eft 0)) ∧
  (∀ (s : State) (p : Snap) (b : Bytes), s.eft.snap = some p → p.closed = true → s.carried 8 0 = some b →
    exec .eftSnapshotDone s = .next (({ s with eft := { s.eft with snap := none } }.endXfer 8 0).winEnd .eft 0 0)) ∧
  (∀ (q : Req) (idx : Nat) (s t : State) (f : FeedRule), s.runs t q .eft 0 1 1 idx → t.isTray = true → idx < 64 →
    t.eft.feeds.get? idx = some f →
    exec (.eftFeedRead q idx) s = .next ((t.winData
      [BitVec.ofNat 64 (b2n f.valid * 2 ^ 63 + f.op * 2 ^ 56 + f.feat * 2 ^ 48 + f.shift * 2 ^ 40 + f.cls * 2 ^ 32 + f.field)]).replied .eft 0)) ∧
  (∀ (q : Req) (idx : Nat) (s t : State), s.runs t q .eft 0 1 2 idx → t.isTray = true → idx < 64 →
    let d := (t.data .eft 0 0).toNat
    bits d 57 56 ≠ 3 → bits d 53 48 ≤ 55 →
    let f : FeedRule := { valid := bit d 63, op := bits d 57 56, feat := bits d 53 48, shift := bits d 45 40, cls := bits d 39 32, field := bits d 9 0 }
    exec (.eftFeedWrite q idx) s = .next (({ t with eft := { t.eft with feeds := t.eft.feeds.set idx f } }.win 0).replied .eft 0)) ∧
  (∀ (s : State), s.eft.sweep = true →
    let p := fun (e : EftEnt) => !e.pinned && decide (s.eft.ageMax ≠ 0 ∧ s.eft.ageMax < wrapI ((s.epochNow : Int) - e.stamp) 32)
    exec .eftSweepDone s = .next (({ s with eft := { s.eft with
      sweep := false, tbl := eftRemove s.eft.tbl s.eft.seed s.eftB p, old := eftRemove s.eft.old s.eft.oldSeed s.eftB p } }).bump
        Fd.EFT_CNT_AGED 0 ((s.eft.tbl.filter fun (x : Nat × EftEnt) => p x.2).length + (s.eft.old.filter fun (x : Nat × EftEnt) => p x.2).length))) ∧
  (∀ (s : State), s.eft.rehash = true →
    let t := s.eft.old.foldl (fun s x => (s.eftInsert x.2).1) s
    exec (.eftRehashDone []) s = .next { t with eft := { t.eft with old := [], oldSeed := 0, rehash := false } }) ∧
  (∀ (s : State) (gen : Nat) (r : List (Nat × EftBy)), s.eft.purge = (gen, .window) :: r →
    exec .eftPurgeDone s =
      .next (({ s with eft := { s.eft with purge := r } }.eftPurgeAll gen).winEnd .eft 0 0)) ∧
  (∀ (s : State) (gen c : Nat) (r : List (Nat × EftBy)), s.eft.purge = (gen, .core c) :: r →
    exec .eftPurgeDone s = .next ({ s with eft := { s.eft with purge := r } }.eftPurgeAll gen))

/-- The cores' control and mailboxes: run bits, shared memory, a firmware load, messages both ways. Choices of the model it
rests on: log entries 55, 56, 57. -/
def Obligations.CoreControlCommands : Prop :=
  (∀ (q : Req) (d : Word) (s : State), s.admitsWrite q .cor 0 0x58 d →
    exec (.coreStart q d) s =
      .next (((List.range s.coreCount).foldl (fun s c => s.coreRunBit c (d.getLsbD c)) s).answer .okay 0)) ∧
  (∀ (q : Req) (d : Word) (s : State), s.admitsWrite q .cor 0 0x58 d →
    exec (.coreStop q d) s =
      .next (((List.range s.coreCount).foldl (fun s c => s.coreRunBit c (d.getLsbD c)) s).answer .okay 0)) ∧
  (∀ (q : Req) (d : Word) (s : State), s.admitsWrite q .cor 0 0x50 d → s.reg Rg.COR_RUN = 0 →
    exec (.corSharedWrite q d) s = .next ((s.plainWrite .cor 0 0x50 0 d id).answer .okay 0)) ∧
  (∀ (q : Req) (s t : State), s.runs t q .cor 0 0 5 0 →
    let mask := bits (t.data .cor 0 2).toNat 31 0
    mask ≠ 0 → mask < 2 ^ t.coreCount → Nat.land (t.reg Rg.COR_RUN).toNat mask = 0 →
    let u := { t with cor := { t.cor with load := some mask } }
    exec (.fwLoad q) s = .next ((u.beginRead 6 0 (u.fld Fd.COR_CFG_PUMP_CH) (bits (u.data .cor 0 1).toNat 41 32)
      (bits (u.data .cor 0 0).toNat 47 0) 256).winBusy.replied .cor 0)) ∧
  (∀ (img : List Byte) (mask : Nat) (s : State), s.cor.load = some mask → s.carried 6 0 = some img →
    let t := { s with cor := { s.cor with load := none } }.endXfer 6 0
    t.fwCheck img = 0 →
    exec .fwLoadDone s = .next ((t.eachCore mask fun s c => (s.setCore c { s.core c with
      imem := Mem.write (s.core c).imem 0 ((img.drop 256).take (rdLE img 8 4)), entry := rdLE img 20 4
      dmem := Mem.write (s.core c).dmem 0 ((img.drop (256 + rdLE img 8 4)).take (rdLE img 12 4)) }
        ).setCoreBit Rg.COR_LOADED c true).winEnd .cor 0 0)) ∧
  (∀ (q : Req) (c : Nat) (s t : State), s.runs t q .cor 0 1 2 c → c < t.coreCount → (t.core c).inQ.length < 16 →
    exec (.mbxPushDriver q c) s = .next (((t.setCore c { t.core c with inQ := (t.core c).inQ ++ [t.dataBytes .cor 0 32] }).win 0
      ).replied .cor 0)) ∧
  (∀ (q : Req) (c : Nat) (s t : State) (m : Bytes) (ms : List Bytes), s.runs t q .cor 0 1 1 c → c < t.coreCount →
    (t.core c).outQ = m :: ms →
    exec (.mbxPopDriver q c) s = .next (((t.setCore c { t.core c with outQ := ms }).winData (toWords 4 m)).replied .cor 0)) ∧
  (∀ (c : Nat) (s : State), s.coreFree c = true →
    exec (.coreMbxPop c) s = .next (s.setCore c { s.core c with inQ := (s.core c).inQ.tail })) ∧
  (∀ (c : Nat) (pc : BitVec 32) (msg : BitVec 128) (s : State), s.coreFree c = true →
    let t := s.setCore c { s.core c with mbxOut := msg }
    (t.core c).outQ.length < 16 →
    let u := (t.freeBytes 16).2
    exec (.coreMbxPush c pc msg) s = .next ((u.setCore c { u.core c with
      outQ := (u.core c).outQ ++ [leBytes 16 msg.toNat ++ (t.freeBytes 16).1] }).level 7))

/-- The cores' other commands: the feature table port, the host window, traps and their return, the timer and the watchdog.
Choices of the model it rests on: log entries 53, 54, 55, 126, 127. -/
def Obligations.CoreEventCommands : Prop :=
  (∀ (c : Nat) (key : Word) (buf : Nat) (ecc : Bool) (s : State), s.coreFree c = true → (s.core c).eftBusy = false →
    let o := eftRead key.toNat ecc (s.setCore c { s.core c with
      eftKey := key, eftOpt := BitVec.ofNat 16 (s.core c).eftOpt.toNat, eftBuf := buf })
    exec (.coreEftRead c key buf ecc) s = .next (o.st.setCore c { o.st.core c with
      dmem := match o.ent with
        | some m => Mem.write (o.st.core c).dmem (256 * (buf % 256)) m
        | none => (o.st.core c).dmem
      eftRes := o.res, eftIdx := BitVec.ofNat 32 o.pos, eftBusy := true })) ∧
  (∀ (c : Nat) (key : Word) (opt buf : Nat) (ent : List Byte) (ecc : Bool) (s : State), s.coreFree c = true →
    let m := (ent ++ List.replicate 256 0).take 256
    exec (.coreEftWrite c key opt buf ent ecc) s = .next
      ((s.setCore c { s.core c with dmem := Mem.write (s.core c).dmem (256 * (buf % 256)) m }).coreEft c key opt buf
        (eftWrite key.toNat opt m ecc))) ∧
  (∀ (c : Nat) (key : Word) (ecc : Bool) (s : State), s.coreFree c = true → (s.core c).eftBusy = false →
    exec (.coreEftDelete c key ecc) s =
      .next (s.coreEft c key (s.core c).eftOpt.toNat (s.core c).eftBuf (eftDelete key.toNat ecc))) ∧
  (∀ (c : Nat) (key : Word) (buf : Nat) (ecc : Bool) (s : State), s.coreFree c = true → (s.core c).eftBusy = false →
    exec (.coreEftReadPos c key buf ecc) s =
      .next (s.coreEft c key (s.core c).eftOpt.toNat buf (eftReadPos (bits key.toNat 31 0) ecc))) ∧
  (∀ (c opt : Nat) (s : State), s.coreFree c = true → (s.core c).eftBusy = false →
    exec (.coreEftPurgeGen c opt) s = .next (s.coreEft c (s.core c).eftKey opt (s.core c).eftBuf fun s =>
      ⟨{ s with eft := { s.eft with purge := s.eft.purge ++ [(bits opt 15 8, EftBy.core c)] } }, 0, 0, none⟩)) ∧
  (∀ (c : Nat) (s : State), (s.core c).eftBusy = true → s.purging c = false →
    exec (.coreEftDone c) s = .next (s.setCore c { s.core c with eftBusy := false, irq := (s.core c).irq ||| 4 })) ∧
  (∀ (c : Nat) (pc : BitVec 32) (off : Nat) (data : List Byte) (s : State), s.coreRuns c = true → (s.core c).host = none →
    off < 2 ^ 31 →
    let va := (s.fld Fd.COR_HOSTWIN_BASE + off) % 2 ^ 48
    let ctx := s.fld Fd.COR_CFG_XLT_CTX
    s.tlbHas ctx va true = true →
    let t := (((s.tlbUse ctx va).setCore c { s.core c with host := none, pc }).endXfer 7 c).coreDone
    exec (.coreHostAccess c pc off true false data) s = .next ((t.hostPut ctx va data).bytes 5 data.length)) ∧
  (∀ (c : Nat) (pc : BitVec 32) (off : Nat) (data : List Byte) (s : State), s.coreRuns c = true → (s.core c).host = none →
    off < 2 ^ 31 →
    let va := (s.fld Fd.COR_HOSTWIN_BASE + off) % 2 ^ 48
    let ctx := s.fld Fd.COR_CFG_XLT_CTX
    s.tlbHas ctx va false = true →
    let t := (((s.tlbUse ctx va).setCore c { s.core c with host := none, pc }).endXfer 7 c).coreDone
    let t := (t.hostGet ctx va data.length).bytes 4 data.length
    exec (.coreHostAccess c pc off false false data) s =
      .next (t.setCore c { t.core c with rdata := BitVec.ofNat 32 (leNat data) })) ∧
  (∀ (c : Nat) (s : State) (f : FqEnt), s.xlt.faults.find? (fun f => f.client = 7 ∧ f.inst = c) = some f → s.coreRuns c = true →
    exec (.coreXltStallTimeout c) s =
      .next ((s.reach (f.edge + s.fld Fd.COR_CFG_XLT_STALL_US * cyUs)).coreXltAbort c)) ∧
  (∀ (c : Nat) (pc cause tval : BitVec 32) (s : State), s.coreFree c = true → cause.getLsbD 31 = false →
    cause ≠ 1 → cause ≠ 5 → cause ≠ 7 →
    exec (.coreTrap c pc (.exception cause tval)) s = .next (s.coreTrap c pc cause tval).settle) ∧
  (∀ (c : Nat) (pc addr : BitVec 32) (op : CoreOp) (ecc : Bool) (s : State), s.coreFree c = true → s.coreAt addr.toNat op = none →
    exec (.coreTrap c pc (.access addr op ecc)) s = .next (s.coreTrap c pc (accFault op) addr).settle) ∧
  (∀ (c n : Nat) (pc : BitVec 32) (s : State), s.coreFree c = true → (s.core c).inTrap = false → s.coreWants c n = true → 16 ≤ n →
    let t := s.setCore c { s.core c with irq := (s.core c).irq &&& ~~~(BitVec.ofNat 3 (2 ^ (n - 16))) }
    exec (.coreTrap c pc (.interrupt n)) s = .next (t.coreTrap c pc (BitVec.ofNat 32 (2 ^ 31 + n)) 0).settle) ∧
  (∀ (c : Nat) (s : State), s.coreFree c = true →
    exec (.coreMret c) s = .next (s.setCore c { s.core c with inTrap := false, pc := (s.core c).mepc })) ∧
  (∀ (c : Nat) (s : State), c < s.coreCount → exec (.mtimeMatch c) s = .next (s.reach (s.core c).mtimecmp.toNat)) ∧
  (∀ (c : Nat) (s : State), s.coreFree c = true →
    exec (.wdogKick c 0x5EED) s = .next (s.setCore c { s.core c with kickAt := s.aon, barked := false })) ∧
  (∀ (c : Nat) (s : State), s.wdogOn c = true → (s.core c).barked = false →
    let t := s.reach (s.wdogEdge c)
    exec (.wdogBark c) s = .next ((t.setCore c { t.core c with
      irq := (t.core c).irq ||| 1, barked := true, kickAt := t.aon }).bump Fd.COR_CNT_WDOG_BARK)) ∧
  (∀ (c : Nat) (pc : BitVec 32) (s : State), s.wdogOn c = true → (s.core c).barked = true →
    exec (.wdogBite c pc) s = .next ((((((s.reach (s.wdogEdge c)).coreStart c).bump Fd.COR_CNT_WDOG_BITE).corLast c 2 pc).fault
      .cor 0 3 (some (32 + c))).event 0x0D01 (leBytes 1 c ++ leBytes 3 0 ++ leBytes 4 pc.toNat)).settle)

/-- The pump (R274 to R304): a ring's poll, segments issued and returned, a write-back, aborts, restarts and the channel window.
Choices of the model it rests on: log entries 58, 59, 127, 128, 132. -/
def Obligations.PumpCommands : Prop :=
  (∀ (c p : Nat) (descs : List (Option (List Byte))) (s u : State), c < s.channels → s.polls c = true →
    let t := s.reach (s.chan c).pollAt
    t.house c (t.chan c).prodVa false = some u →
    let u := u.hostGet (u.chan c).xltCtx (u.chan c).prodVa 8
    let v := u.setChan c { u.chan c with pollAt := u.aon + (u.chan c).pollUs * cyUs }
    let v := (v.setChan c { v.chan c with prod := p % 2 ^ 32 }).bytes 4 8
    wrapI ((v.chan c).prod - (v.chan c).cons) 32 ≤ 2 ^ (v.chan c).log2 →
    exec (.ringPoll c (some p) descs) s =
      .next ((v.setChan c { v.chan c with ahead := wrapI ((v.chan c).prod - (v.chan c).fetch) 32 }).fetchDescs c descs)) ∧
  (∀ (client inst c ctx : Nat) (l : List (Nat × Bool)) (ecc : Bool) (y : Xfer) (s u v : State), s.primed = true → client ≠ 7 →
    let t := if Strm.unit client inst = .unit 8 0 then s.snapFeed ecc else s
    t.nextAcc (.unit client inst) = some (c, ctx, l) → t.hits ctx l = true → t.takeTag c = (some u, v) →
    let u := (l.foldl (fun s a => s.tlbUse ctx a.1) u).ev .pmp 0 1
    u.xfer? client inst = some y →
    exec (.segmentIssue (.unit client inst) ecc) s = .next ((u.issueUnit y).tagMark (u.issueUnit y).tagsUsed)) ∧
  (∀ (c ctx : Nat) (l : List (Nat × Bool)) (d : PDesc) (ecc : Bool) (s u v : State), s.nextAcc (.ring c) = some (c, ctx, l) →
    s.primed = true → s.hits ctx l = true → s.takeTag c = (some u, v) →
    let t := (l.foldl (fun s a => s.tlbUse ctx a.1) u).ev .pmp 0 1
    (t.chan c).issuing = some d →
    exec (.segmentIssue (.ring c) ecc) s = .next ((t.issueDesc c d ecc).tagMark (t.issueDesc c d ecc).tagsUsed)) ∧
  (∀ (c index k : Nat) (data : List Byte) (d : PDesc) (s : State),
    ((s.chan c).descs.find? fun d => d.index = index ∧ d.out.contains k) = some d → d.op = 1 →
    let n := segLen d.len k
    let t := (s.modDesc c index fun d =>
      { d with out := d.out.erase k, seen := if d.seen.contains k then d.seen else k :: d.seen }).moved n true false
    let sram := Mem.write t.sram ((t.chan c).sramBase * 4096 + d.dst + 256 * k) ((data ++ List.replicate n 0).take n)
    exec (.segmentDone (.ring c) index k data false) s = .next ({ t with sram }.bytes 1 n)) ∧
  (∀ (client inst index k va n off : Nat) (data : List Byte) (y : Xfer) (s : State),
    (s.pmp.dead.any fun y => y.client == client && y.inst == inst && y.out.contains k) = false →
    s.xfer? client inst = some y → y.out.contains k = true → segAt y.ranges k 0 = some (va, n, off) →
    let u := (s.modXfer client inst fun y =>
      { y with out := y.out.erase k, seen := if y.seen.contains k then y.seen else k :: y.seen
               got := if y.write then y.got else y.got.set k ((data ++ List.replicate n 0).take n) }).moved n
        (!y.write) y.write
    let image := (client = 2 ∨ client = 4 ∨ client = 6) ∧ k = 0 ∧ y.seen = []
    (¬image → exec (.segmentDone (.unit client inst) index k data false) s = .next (u.xferDone client inst)) ∧
    (image → exec (.segmentDone (.unit client inst) index k data false) s =
      .next ((u.imageGrow client inst ((u.carried client inst).getD [])).xferDone client inst))) ∧
  (∀ (c index : Nat) (d : PDesc) (s u : State), s.houseOk c = true →
    (s.pmp.ends.find? fun e => e.ch = c ∧ e.desc.index = index ∧ e.desc.out = []) = none →
    (s.chan c).descs.find? (fun d => d.index = index) = some d → d.ready = some 0 →
    s.house c ((s.chan c).slotVa index + 48) true = some u →
    let v := ((u.hostPut (u.chan c).xltCtx ((s.chan c).slotVa index + 48) (leBytes 8 (wbWord d 0))).bytes 5 8).ev .pmp 0 3
    let v := v.modDesc c d.index fun d => { d with wb := true }
    let t := v.setChan c ((v.chan c).retire (v.chan c).descs)
    let t := t.setChan c { t.chan c with consDue := (t.chan c).consDue || (t.chan c).cons != (v.chan c).cons }
    let t := if d.irq then t.pendBit 4 c else t
    ((t.chan c).consDue = false → exec (.descWriteback c index false false) s = .next t) ∧
    (∀ w, (t.chan c).consDue = true → t.house c (t.chan c).consVa true = some w →
      let x := w.hostPut (w.chan c).xltCtx (t.chan c).consVa (leBytes 8 (w.chan c).cons)
      exec (.descWriteback c index false false) s = .next ((x.setChan c { x.chan c with consDue := false }).bytes 5 8))) ∧
  (∀ (q : Req) (w : Word) (d : PDesc) (s : State), s.admitsWrite q .pmp 0 0x58 w → bits w.toNat 5 0 < s.channels →
    ((s.chan (bits w.toNat 5 0)).descs.find? fun d => d.index = bits w.toNat 63 32 ∧ !d.wb) = some d →
    d.ready ≠ some 0 → (s.chan (bits w.toNat 5 0)).stalled = false →
    let t := s.endDesc (bits w.toNat 5 0) d.index 1
    exec (.pmpAbort q w) s = .next ({ t with pmp := { t.pmp with abortRes := 1 } }.answer .okay 0)) ∧
  (∀ (q : Req) (w : Word) (s : State), s.admitsWrite q .pmp 0 0x58 w → bits w.toNat 5 0 < s.channels →
    let c := bits w.toNat 5 0
    let idx := bits w.toNat 63 32
    ((s.chan c).descs.find? fun d => d.index = idx ∧ !d.wb) = none →
    wrapI ((idx : Int) - (s.chan c).fetch) 32 < (s.chan c).ahead → (s.chan c).aborts.contains idx = false →
    let t := (s.setChan c { s.chan c with aborts := (s.chan c).aborts ++ [idx] }).endDesc c idx 1
    exec (.pmpAbort q w) s = .next ({ t with pmp := { t.pmp with abortRes := 1 } }.answer .okay 0)) ∧
  (∀ (q : Req) (d : Word) (s : State), s.admitsWrite q .pmp 0 0x50 d →
    exec (.pmpChRestart q d) s = .next ({ s with pmp := { s.pmp with
      chans := s.pmp.chans.mapV fun c v => if d.getLsbD c then { v with halt := 0, failed := none } else v } }.answer .okay 0)) ∧
  (∀ (q : Req) (d : Word) (s : State), s.admitsWrite q .pmp 0 0x40 d →
    let v := d &&& BitVec.ofNat 64 (2 ^ s.channels - 1)
    let t := s.setReg Rg.PMP_CH_EN 0 v
    exec (.pmpChEnWrite q d) s = .next (((List.range t.channels).foldl (fun t c =>
      if v.getLsbD c = true ∧ (!(s.reg Rg.PMP_CH_EN).getLsbD c) = true then
        t.setChan c { t.chan c with pollAt := t.aon + (t.chan c).pollUs * cyUs } else t) t).answer .okay 0)) ∧
  (∀ (q : Req) (c : Nat) (s t : State), s.runs t q .pmp 0 0 1 c → c < t.channels →
    let v := t.chan c
    exec (.pmpChRead q c) s = .next ((t.winData ([v.ringVa, v.prodVa, v.consVa,
      v.xltCtx * 2 ^ 32 + v.log2 * 2 ^ 24 + v.pollUs * 2 ^ 14 + v.tagMax * 8 + b2n v.chkDesc * 4 + b2n v.stopErr * 2,
      v.sramSize * 2 ^ 32 + v.sramBase, v.fetch * 2 ^ 32 + v.cons,
      v.prod * 2 ^ 32 + v.halt * 256 + t.cstate c].map (BitVec.ofNat 64))).replied .pmp 0)) ∧
  (∀ (q : Req) (c : Nat) (s t : State), s.runs t q .pmp 0 0 2 c → c < t.channels → (t.reg Rg.PMP_CH_EN).getLsbD c = false →
    let w := fun k => (t.data .pmp 0 k).toNat
    let v : Chan := { t.chan c with
      ringVa := bits (w 0) 47 0, prodVa := bits (w 1) 47 0, consVa := bits (w 2) 47 0, xltCtx := bits (w 3) 41 32
      log2 := bits (w 3) 28 24, pollUs := bits (w 3) 23 14, tagMax := bits (w 3) 13 3, chkDesc := bit (w 3) 2
      stopErr := bit (w 3) 1, sramSize := bits (w 4) 48 32, sramBase := bits (w 4) 16 0, cons := bits (w 5) 31 0
      fetch := bits (w 5) 31 0, ahead := 0, aborts := [] }
    v.ringVa % 4096 = 0 → v.prodVa % 8 = 0 → v.consVa % 8 = 0 → v.xltCtx < t.contexts → 4 ≤ v.log2 → v.log2 ≤ 16 →
    1 ≤ v.pollUs → v.pollUs ≤ 1000 → 1 ≤ v.tagMax → v.tagMax ≤ t.tags → v.sramBase + v.sramSize ≤ t.sramPages →
    exec (.pmpChWrite q c) s = .next (((t.setChan c v).win 0).replied .pmp 0))

/-- Translation (R286 to R306): a walk that reaches a leaf or a fault, the fault queue, its answers, invalidations and contexts.
Choices of the model it rests on: log entries 60, 127, 128. -/
def Obligations.TranslationCommands : Prop :=
  (∀ (x : Strm) (ptes : List (Option Word)) (ch ctx va level pte : Nat) (write : Bool) (l : List (Nat × Bool)) (s : State),
    s.primed = true → s.nextAcc x = some (ch, ctx, l) → (l.find? fun a => !s.tlbHas ctx a.1 a.2) = some (va, write) →
    bit (s.ctx ctx) 63 = true → va < 2 ^ 48 → walk write 4 ptes = .leaf level pte →
    let t := ((s.bumpW Fd.XLT_TLB_CNT_MISSES).ev .xlt 0 2).ev .xlt 0 3 (walkReads (.leaf level pte))
    let t := t.walkEmit ctx va (walkReads (.leaf level pte)) ptes
    exec (.xltWalk x ptes) s = .next (t.tlbPut { xltCtx := ctx, level, va := va / 2 ^ pageBits level * 2 ^ pageBits level
                                                 pa := bits pte 51 12 * 4096, wr := bit pte 3 })) ∧
  (∀ (x : Strm) (ptes : List (Option Word)) (ch ctx va : Nat) (write : Bool) (l : List (Nat × Bool)) (s : State),
    s.primed = true → s.nextAcc x = some (ch, ctx, l) → (l.find? fun a => !s.tlbHas ctx a.1 a.2) = some (va, write) →
    bit (s.ctx ctx) 63 = false →
    let t := ((s.bumpW Fd.XLT_TLB_CNT_MISSES).ev .xlt 0 2).ev .xlt 0 3 0
    exec (.xltWalk x ptes) s = .next (t.stallStream x
      { token := none, va, xltCtx := ctx, client := (strmClient x ch).1, inst := (strmClient x ch).2, ch, cause := 1, level := 0
        access := b2n write, pte := 0, edge := t.aon, tmo := t.fld Fd.XLT_CFG_FAULT_TMO_US, read := false })) ∧
  (∀ (q : Req) (s t : State) (f : FqEnt), s.runs t q .xlt 0 1 3 0 →
    (t.xlt.faults.find? fun e => e.token.isSome && !e.read) = some f →
    let l := t.xlt.faults.map fun (e : FqEnt) => if e.token = f.token then { e with read := true } else e
    exec (.xltFaultPop q) s = .next (({ t with xlt := { t.xlt with faults := l } }.winData [BitVec.ofNat 64 f.va,
      BitVec.ofNat 64 (f.token.getD 0 * 2 ^ 48 + f.xltCtx * 2 ^ 32 + f.client * 2 ^ 24 +
        (if f.client = 7 then 0x3F else f.ch) * 2 ^ 16 + f.cause * 2 ^ 8 + f.level * 16 + f.access), f.pte]).replied .xlt 0)) ∧
  (∀ (q : Req) (ctx : Nat) (s : State), s.admitsWrite q .xlt 0 0x60 (invWord 1 ctx 0) → ctx < 1024 →
    s.xlt.invs.isEmpty = true →
    exec (.xltInvContext q ctx) s =
      .next ((s.invalidate { scope := 1, xltCtx := ctx, va := 0, level := 1, window := false }).answer .okay 0)) ∧
  (∀ (q : Req) (ctx va : Nat) (s : State), s.admitsWrite q .xlt 0 0x60 (invWord 2 ctx va) → ctx < 1024 → va < 2 ^ 48 →
    s.xlt.invs.isEmpty = true →
    exec (.xltInvPage q ctx va) s =
      .next ((s.invalidate { scope := 2, xltCtx := ctx, va := va / 4096 * 4096, level := 1, window := false }).answer .okay 0)) ∧
  (∀ (q : Req) (s : State), s.admitsWrite q .xlt 0 0x60 (invWord 3 0 0) → s.xlt.invs.isEmpty = true →
    exec (.xltInvAll q) s =
      .next ((s.invalidate { scope := 3, xltCtx := 0, va := 0, level := 1, window := false }).answer .okay 0)) ∧
  (∀ (v : Inval) (s : State), (s.xlt.invs.find? fun v => v.window == false) = some v → s.inFlight v = false →
    exec (.xltInvDone false) s = .next { s with xlt := { s.xlt with invs := s.xlt.invs.erase v, tlb := s.xlt.tlb.filter fun t => !v.hit t } }) ∧
  (∀ (v : Inval) (s : State), (s.xlt.invs.find? fun v => v.window == true) = some v → s.inFlight v = false →
    exec (.xltInvDone true) s = .next ({ s with xlt := { s.xlt with invs := s.xlt.invs.erase v, tlb := s.xlt.tlb.filter fun t => !v.hit t } }.winEnd .xlt 0 0)) ∧
  (∀ (q : Req) (c : Nat) (s t : State), s.runs t q .xlt 0 0 1 c → c < t.contexts →
    exec (.xltCtxRead q c) s = .next ((t.winData [BitVec.ofNat 64 (t.ctx c)]).replied .xlt 0)) ∧
  (∀ (q : Req) (c : Nat) (s t : State), s.runs t q .xlt 0 0 2 c → c < t.contexts → bits (t.data .xlt 0 0).toNat 62 52 = 0 →
    bits (t.data .xlt 0 0).toNat 11 0 = 0 → (t.data .xlt 0 0).toNat ≠ 0 →
    exec (.xltCtxWrite q c) s = .next (({ t with xlt := { t.xlt with ctxs := t.xlt.ctxs.set c (t.data .xlt 0 0).toNat } }.invalidate
      { scope := 1, xltCtx := c, va := 0, level := 1, window := true }).winBusy.replied .xlt 0)) ∧
  (∀ (q : Req) (token : Nat) (s : State) (f : FqEnt), s.admitsWrite q .xlt 0 0x50 (respondWord 1 token) → token < 2 ^ 16 →
    s.fqEnt? token = some f →
    exec (.xltResume q token) s = .next (((((s.fqDrop token).setFld Fd.XLT_RESP_STAT_RESULT 0 1).bump Fd.XLT_CNT_RESUMED
      ).resumeStream f.client f.inst).answer .okay 0)) ∧
  (∀ (q : Req) (token : Nat) (s : State) (f : FqEnt), s.admitsWrite q .xlt 0 0x50 (respondWord 2 token) → token < 2 ^ 16 →
    s.fqEnt? token = some f →
    exec (.xltAbort q token) s = .next (((((s.fqDrop token).setFld Fd.XLT_RESP_STAT_RESULT 0 1).bump Fd.XLT_CNT_ABORTED
      ).abortStream f.client f.inst f.va).answer .okay 0)) ∧
  (∀ (token : Nat) (s : State) (f : FqEnt), s.fqEnt? token = some f →
    exec (.xltFaultTimeout token) s = .next (((((s.reach (f.edge + f.tmo * cyUs)).fqDrop token).bump Fd.XLT_CNT_TIMEOUTS).fault
      .xlt 0 0).abortStream f.client f.inst f.va))

/-- The lane's states (R308 to R313): rate changes, detection, training, timeouts, loss of signal, and quarantine. Choices of
the model it rests on: log entries 63, 65, 113, 114. -/
def Obligations.LaneCommands : Prop :=
  (∀ (w : Nat) (s : State), s.fld Fd.SLK_CFG_RATE_TARGET w < (s.lane w).reqOwn →
    let t := s.reach ((s.lane w).holdFrom + (s.lane w).holdS * 1000 * cyMs)
    exec (.rateHoldExpire w) s = .next ((((t.setLane w { s.lane w with
      reqOwn := (s.lane w).reqOwn - 1, holdFrom := t.aon, lastUp := some t.aon }).bump Fd.SLK_LINK_CNT_RATE_UP w).emit
        (.rateReq w ((s.lane w).reqOwn - 1))).rateCheck w)) ∧
  (∀ (w code : Nat) (s : State), code ≤ 2 →
    exec (.laneRateReqRx w code) s = .next ((s.modLane w fun l => { l with reqPeer := code }).rateCheck w)) ∧
  (∀ (w tx rx : Nat) (s : State), s.lstate w = 5 →
    exec (.rateSwitchDone w tx rx) s =
      .next ((((s.setLat w tx rx).modLane w fun l => { l with noise := true }).laneTo w 4).rateCheck w)) ∧
  (∀ (w : Nat) (s : State), s.lstate w = 1 →
    exec (.laneDetect w) s = .next (s.toTrain w (max (s.lane w).reqOwn (s.lane w).reqPeer))) ∧
  (∀ (w tx rx : Nat) (s : State), s.lstate w = 2 →
    exec (.trainAlignDone w tx rx) s = .next ((s.setLat w tx rx).laneTo w 3)) ∧
  (∀ (w : Nat) (s : State), s.lstate w = 2 →
    let t := s.reach ((s.lane w).since + 2 * cyMs)
    let r := t.fld Fd.SLK_STATE_RATE w
    (r < t.fld Fd.SLK_CFG_RATE_MIN w → exec (.trainTimeout w) s = .next ((t.slower w (r + 1)).toTrain w (r + 1))) ∧
    (t.fld Fd.SLK_CFG_RATE_MIN w ≤ r → exec (.trainTimeout w) s = .next (t.laneTo w 1))) ∧
  (∀ (w : Nat) (s : State), s.lstate w = 5 →
    let t := s.reach ((s.lane w).since + 50 * cyUs)
    exec (.rateSwitchTimeout w) s = .next ((t.toTrain w (t.fld Fd.SLK_STATE_RATE w)).linkDown w)) ∧
  (∀ (w : Nat) (s : State), (s.lstate w = 2 ∨ s.lstate w = 3) → exec (.lossOfSignal w) s = .next (s.laneTo w 1)) ∧
  (∀ (w : Nat) (s : State), (s.lstate w = 4 ∨ s.lstate w = 5) → exec (.lossOfSignal w) s = .next ((s.laneTo w 1).linkDown w)) ∧
  (∀ (w : Nat) (s : State), s.lstate w = 6 → 0 < s.fld Fd.SLK_FLAP_CFG_QUAR_S w →
    exec (.quarantineExpire w) s =
      .next ((s.reach ((s.lane w).since + s.fld Fd.SLK_FLAP_CFG_QUAR_S w * 1000 * cyMs)).laneTo w 1)) ∧
  (∀ (q : Req) (w : Nat) (d : Word) (s : State), s.admitsWrite q .slk w 0x58 d → d.getLsbD 0 = true → d.getLsbD 1 = false →
    d.getLsbD 2 = false → s.lstate w = 4 →
    exec (.slkRetrain q w d) s = .next ((s.toTrain w (s.fld Fd.SLK_STATE_RATE w)).answer .okay 0)) ∧
  (∀ (q : Req) (w : Nat) (d : Word) (s : State), s.admitsWrite q .slk w 0x58 d → d.getLsbD 0 = false → d.getLsbD 1 = true →
    d.getLsbD 2 = false → s.lstate w = 6 →
    exec (.slkClearQuar q w d) s = .next ((s.laneTo w 1).answer .okay 0)) ∧
  (∀ (q : Req) (w : Nat) (d : Word) (s : State), s.admitsWrite q .slk w 0x58 d → d.getLsbD 0 = false → d.getLsbD 1 = false →
    d.getLsbD 2 = true →
    exec (.slkQuarantine q w d) s = .next ((s.quarantine w 3).answer .okay 0)) ∧
  (∀ (w : Nat) (b : List Byte) (s : State), s.lstate w = 3 → s.isTray = false → rdLE b 0 1 = 1 → rdLE b 1 1 = 1 →
    exec (.trainFlitRx w b) s = .next (s.letIn w b)) ∧
  (∀ (w : Nat) (b : List Byte) (s : State), s.lstate w = 3 → s.isTray = true → rdLE b 0 1 = 0 → rdLE b 1 1 = 1 →
    (bit (rdLE b 2 3) 23 = false ∨ s.idTwin w (bits (rdLE b 2 3) 19 0) = none) →
    exec (.trainFlitRx w b) s = .next (s.letIn w b)) ∧
  (∀ (w o : Nat) (b : List Byte) (s : State), s.lstate w = 3 → s.isTray = true → rdLE b 0 1 = 0 → rdLE b 1 1 = 1 →
    bit (rdLE b 2 3) 23 = true → s.idTwin w (bits (rdLE b 2 3) 19 0) = some o → o < w →
    exec (.trainFlitRx w b) s = .next (s.hold w))

/-- Slots, control flits and the timers of a lane (R318 to R322). Choices of the model it rests on: log entries 61, 62, 63, 64.
-/
def Obligations.FlitCommands : Prop :=
  (∀ (w sub : Nat) (s : State), s.lstate w = 3 →
    let f := ctlFlit 4 (s.trainBody w)
    exec (.flitSlot w sub) s = .next ((s.emit (.flit w f)).countSent w 4 0)) ∧
  (∀ (w sub : Nat) (s : State), s.laneActive w = true → s.lstate w ≠ 3 →
    s.clearOf w (s.now + sub) (s.flitTime w) = true → (s.lane w).nakDue = true →
    exec (.flitSlot w sub) s = .next (s.sendNak w)) ∧
  (∀ (w sub : Nat) (s : State), s.laneActive w = true → s.lstate w ≠ 3 →
    s.clearOf w (s.now + sub) (s.flitTime w) = true → (s.lane w).nakDue = false → (s.lane w).ansDue = false →
    (s.lane w).syncDue = none → (s.lane w).replayPos = none →
    (s.vcTurn w 0 = true → exec (.flitSlot w sub) s = .next (s.sendVc w 0 sub)) ∧
    (s.vcTurn w 0 = false → s.vcTurn w 1 = true → exec (.flitSlot w sub) s = .next (s.sendVc w 1 sub)) ∧
    (s.vcTurn w 0 = false → s.vcTurn w 1 = false → s.vcTurn w 2 = false → s.vcTurn w 3 = false →
      exec (.flitSlot w sub) s = .next (s.txFlit w (ctlFlit 0 [])))) ∧
  (∀ (w : Nat) (f : List Byte) (x : Flit) (len : Nat) (s t : State), s.laneActive w = true → (flitOf f).1.ftype = 2 →
    s.flitIn w f 0 none = (t, some (x, len)) → exec (.nakRx w f) s = .next (t.controlIn w x len)) ∧
  (∀ (w : Nat) (f : List Byte) (x : Flit) (len : Nat) (s t : State), s.laneActive w = true → (flitOf f).1.ftype = 3 →
    s.flitIn w f 0 none = (t, some (x, len)) → exec (.creditSyncRx w f) s = .next (t.controlIn w x len)) ∧
  (∀ (w : Nat) (f : List Byte) (x : Flit) (len : Nat) (s t : State), s.laneActive w = true → (flitOf f).1.ftype = 0 →
    s.flitIn w f 0 none = (t, some (x, len)) → exec (.nullFlitRx w f) s = .next (t.controlIn w x len)) ∧
  (∀ (w : Nat) (s : State), s.laneActive w = true → (s.lane w).replay.isEmpty = false →
    exec (.replayTimeout w) s = .next ((s.reach ((s.lane w).ackAt + s.replayTmo w)).startReplay w 0)) ∧
  (∀ (w : Nat) (s : State), s.laneActive w = true → (s.lane w).gapOpen = true → (s.lane w).nakDue = false →
    exec (.nakRepeat w) s =
      .next ((s.reach ((s.lane w).nakAt + s.replayTmo w)).modLane w fun l => { l with nakDue := true })) ∧
  (∀ (w e : Nat) (s : State), (s.lane w).syncWait = some e → s.laneActive w = true →
    let t := s.reach (e + cyUs)
    let l := t.lane w
    (8 ≤ l.syncTries → exec (.creditSyncTimeout w) s =
      .next ((t.setLane w { l with syncWait := none, syncTries := 0 }).retrain w (t.fld Fd.SLK_STATE_RATE w))) ∧
    (l.syncTries < 8 → exec (.creditSyncTimeout w) s =
      .next (t.setLane w { l with syncWait := none, syncDue := some true, syncTries := l.syncTries + 1 })))

/-- The host path of a leaf (HPA) and the application queues of a lane. Choices of the model it rests on: log entries 67, 68,
130, 133. -/
def Obligations.HostPathCommands : Prop :=
  (∀ (e : Nat) (s : State), (s.lane 0).outSince = some e → s.isTray = false → s.enabled .hpa = true → s.lstate 0 ≠ 4 →
    s.lstate 0 ≠ 5 → s.fld Fd.HPA_STAT_ROUTED = 0 →
    exec .hpaRouteDelay s = .next (s.reach (e + s.fld Fd.HPA_CFG_DELAY_US * cyUs)).hpaRoute) ∧
  (∀ (s t : State) (x : TxItem), s.isTray = false → s.live .hpa = true →
    s.primed = true → s.xfer? 11 0 = none → s.hpaFull = false → s.hpaItem 0 = some (x, t) →
    exec .hpaFlitSend s = .next (t.hpaPut 0 x)) ∧
  (∀ (s t : State) (x : TxItem), s.isTray = false → s.live .hpa = true →
    s.primed = true → s.xfer? 11 0 = none → s.hpaFull = false → s.hpaItem 0 = none →
    s.hpaItem 2 = some (x, t) → exec .hpaFlitSend s = .next (t.hpaPut 2 x)) ∧
  (∀ (cons : Nat) (s : State), s.isTray = false → s.enabled .hpa = true →
    let t := { s with hpa := { s.hpa with cons := cons % 2 ^ 32 } }
    exec (.hpaConsPoll cons) s = .next (if t.hpaFull then t else t.setFld Fd.HPA_STAT_RING_FULL 0 0)) ∧
  (∀ (q : Req) (w : Nat) (s t : State), s.runs t q .slk w 1 2 0 → bit (t.data .slk w 1).toNat 49 = false →
    let d := (t.data .slk w 1).toNat
    exec (.appSend q w) s = .next ((t.appQueue w (bits d 51 51)
      (leBytes 8 4 ++ (List.range 4).flatMap fun k => leBytes 8 (t.data .slk w (2 + k)).toNat)
      (if bit d 48 then some (BitVec.ofNat 16 (bits d 47 32)) else none)).replied .slk w)) ∧
  (∀ (q : Req) (w : Nat) (s t : State) (m : Bytes) (n : Nat) (r : List (Bytes × Nat)), s.runs t q .slk w 2 3 0 →
    (t.lane w).rxApp = (m, n) :: r →
    exec (.appRxPop q w) s = .next (((t.modLane w fun l => { l with rxApp := r }).winData
      (toWords 4 m ++ [BitVec.ofNat 64 (time96 n), BitVec.ofNat 64 (time96 n / 2 ^ 64)])).replied .slk w)) ∧
  (∀ (w : Nat) (m : List Byte) (s : State), s.laneActive w = true → exec (.appMsg w m) s = .next (s.appTaken w m)) ∧
  (∀ (w prod : Nat) (flits : List (List Byte)) (s : State), s.isTray = true → w < s.wellheads → s.enabled .slk w = true →
    s.fld Fd.SLK_ALT_CFG_ENABLE w = 1 → s.lstate w ≠ 7 →
    let n := min ((prod + 2 ^ 32 - (s.lane w).altCons) % 2 ^ 32) (min flits.length (2 ^ (s.fld Fd.SLK_ALT_CFG_LOG2_FLITS w + 8)))
    let t := (flits.take n).foldl (fun s b => s.altFlit w b) s
    let c := ((t.lane w).altCons + n) % 2 ^ 32
    let u := t.modLane w fun l => { l with altCons := c }
    0 < n → exec (.altRingPoll w prod flits) s =
      .next (u.emit (.ringWrite (u.fld Fd.SLK_ALT_CFG_XLT_CTX w) (u.fld Fd.SLK_ALT_PTRS_PTRS_VA w * 8 + 8) (leBytes 8 c))))

/-- Records and sums of a tray (RDX, XRF): an arrival, a close, a re-send, a frame, a tree's timer, and the window. Choices of
the model it rests on: log entries 69, 70, 80, 135, 137. -/
def Obligations.ReductionCommands : Prop :=
  (∀ (w : Nat) (m : List Byte) (lost : List Word) (s : State), s.isTray = true → s.lstate w ≠ 7 →
    exec (.recordArrival w m lost) s = .next (s.recordTaken w m lost)) ∧
  (∀ (n : Nat) (a : Accum) (s : State), (s.rdx.onTime.find? fun a => a.epoch == n) = some a → s.live .rdx = true →
    s.timeValid = true → s.closesDue.all (fun k => decide (n ≤ k)) = true →
    exec (.rdxClose n) s = .next (((s.reachTime a.close).closeEpoch n).leaveWindow n a.close)) ∧
  (∀ (n : Nat) (s : State), (s.rdx.onTime.find? fun a => a.epoch == n) = none → s.live .rdx = true → s.timeValid = true →
    s.closesDue.contains n = true → s.closesDue.all (fun k => decide (n ≤ k)) = true →
    exec (.rdxClose n) s = .next (((s.reachTime (s.closeAt n)).closeEpoch n).leaveWindow n (s.closeAt n))) ∧
  (∀ (q : Req) (d : Word) (s : State), s.admitsWrite q .rdx 0 0x78 d → bits d.toNat 6 0 < s.wellheads →
    exec (.rdxResendWrite q d) s =
      .next ((s.sendResend (bits d.toNat 6 0) (bits d.toNat 63 24) (bits d.toNat 21 16 + 1)).answer .okay 0)) ∧
  (∀ (p : Nat) (f : List Byte) (s : State), s.isTray = true → p < 2 → s.live .rdx = true → s.treeOn = true →
    (ethParse f).dst = s.fld Fd.UP_CFG_MAC p →
    exec (.xrfRx p f) s = .next (s.xrfTaken (ethParse f).dst (ethParse f).vlan (ethParse f).body)) ∧
  (∀ (q : Req) (k : Nat) (s t : State), s.runs t q .rdx 0 0 1 k → k < 16384 →
    exec (.rdxTblRead q 0 k) s = .next ((t.winData [BitVec.ofNat 64 (t.rdx.staged.descs.getD k 0).toNat]).replied .rdx 0)) ∧
  (∀ (q : Req) (k : Nat) (s t : State), s.runs t q .rdx 0 1 1 k → k < 16 →
    let x := t.rdx.staged.tmpls.getD k ⟨false, 0, 0⟩
    exec (.rdxTblRead q 1 k) s = .next ((t.winData [x.word, BitVec.ofNat 64 (descCrc ((List.range x.fields).map fun n =>
      t.rdx.staged.descs.getD (k * 1024 + n) 0))]).replied .rdx 0)) ∧
  (∀ (q : Req) (k : Nat) (s t : State), s.runs t q .rdx 0 2 1 k → k < 16 →
    let x := t.rdx.staged.streams.getD k ⟨false, false, 0, 0, 0, 0⟩
    exec (.rdxTblRead q 2 k) s = .next ((t.winData
      [BitVec.ofNat 64 (b2n x.valid * 2 ^ 63 + b2n x.ordered * 2 ^ 62 + x.job * 2 ^ 32 + x.gen * 2 ^ 24 + x.entry),
        BitVec.ofNat 64 x.expected.toNat, BitVec.ofNat 64 (x.expected.toNat / 2 ^ 64)]).replied .rdx 0)) ∧
  (∀ (q : Req) (k : Nat) (s t : State), s.runs t q .rdx 0 0 2 k → k < 16384 → t.rdx.pending = false →
    let v := BitVec.ofNat 32 (t.data .rdx 0 0).toNat
    let b := t.rdx.staged
    exec (.rdxTblWrite q 0 k) s = .next (((t.setRdxStaged { b with
      descs := if v = 0 then b.descs.erase k else b.descs.set k v }).win 0).replied .rdx 0)) ∧
  (∀ (q : Req) (k : Nat) (s t : State), s.runs t q .rdx 0 1 2 k → k < 16 → t.rdx.pending = false →
    let d := (t.data .rdx 0 0).toNat
    let b := t.rdx.staged
    exec (.rdxTblWrite q 1 k) s = .next (((t.setRdxStaged { b with
      tmpls := b.tmpls.set k ⟨bit d 63, bits d 47 40, bits d 10 0⟩ }).win 0).replied .rdx 0)) ∧
  (∀ (q : Req) (k : Nat) (s t : State), s.runs t q .rdx 0 2 2 k → k < 16 → t.rdx.pending = false →
    let d := (t.data .rdx 0 0).toNat
    let x := BitVec.ofNat 128 ((t.data .rdx 0 1).toNat + (t.data .rdx 0 2).toNat * 2 ^ 64)
    let b := t.rdx.staged
    exec (.rdxTblWrite q 2 k) s = .next (((t.setRdxStaged { b with
      streams := b.streams.set k ⟨bit d 63, bit d 62, bits d 55 32, bits d 31 24, bits d 3 0, x⟩ }).win 0).replied .rdx 0)) ∧
  (∀ (d : Nat) (ds : List Nat) (s : State), (s.rdx.tree.filter fun h => !h.sent).map (·.due) = d :: ds →
    let t := s.reachTime (ds.foldl min d)
    exec .treeSendTimer s = .next (((s.rdx.tree.filter fun h => !h.sent).filter fun h => decide (h.due ≤ t.now)).foldl
      (fun s h => s.treeEmit h) t))

/-- Collectives (R366 to R390): a start and an abort, the frames of a run, its timers, its feature apply, and its windows.
Choices of the model it rests on: log entries 71, 72, 73, 74. -/
def Obligations.CollectiveCommands : Prop :=
  (∀ (q : Req) (d : Word) (ecc : Bool) (e : ColGrp) (s : State), s.admitsWrite q .col 0 0x50 d →
    s.colGrp? (bits d.toNat 3 0) = some e → s.colRun? (bits d.toNat 3 0) = none → s.live .col = true →
    exec (.colStart q d ecc) s = .next ((s.colStart (bits d.toNat 3 0) e ecc).answer .okay 0)) ∧
  (∀ (q : Req) (d : Word) (e : ColGrp) (r : ColRun) (s : State), s.admitsWrite q .col 0 0x58 d →
    s.colGrp? (bits d.toNat 3 0) = some e → s.colRun? (bits d.toNat 3 0) = some r →
    let t := s.colEnd (bits d.toNat 3 0) e r 1 e.myRank true
    exec (.colAbortWrite q d) s = .next ({ t with col := { t.col with abortRes := 1 } }.answer .okay 0)) ∧
  (∀ (p : Nat) (f : List Byte) (ecc : Bool) (s : State), p < 2 → s.colTakes f = true → rdLE (ethParse f).body 1 1 = 0 →
    exec (.colSigRx p f ecc) s = .next (s.colFrame f ecc)) ∧
  (∀ (p : Nat) (f : List Byte) (ecc : Bool) (s : State), p < 2 → s.colTakes f = true → rdLE (ethParse f).body 1 1 = 1 →
    exec (.colDataRx p f ecc) s = .next (s.colFrame f ecc)) ∧
  (∀ (p : Nat) (f : List Byte) (ecc : Bool) (s : State), p < 2 → s.colTakes f = true → rdLE (ethParse f).body 1 1 = 2 →
    exec (.colAckRx p f ecc) s = .next (s.colFrame f ecc)) ∧
  (∀ (p : Nat) (f : List Byte) (s : State), p < 2 → s.colTakes f = true → rdLE (ethParse f).body 1 1 = 3 →
    exec (.colAbortRx p f) s = .next (s.colFrame f false)) ∧
  (∀ (g n : Nat) (e : ColGrp) (r : ColRun) (s : State), s.colGrp? g = some e → s.col.runs.get? g = some r →
    (r.sends.map fun (x : ColSend) => x.resend).min? = some n →
    let t := s.reach n
    let u := (r.sends.filter fun (x : ColSend) => decide (x.resend ≤ t.aon)).foldl (fun (s : State) (x : ColSend) =>
      (s.bump Fd.COL_RETX_FRAGMENTS 0 x.frags.length).colSendAll r.etype (s.colMac e x.dst) x.frags) t
    exec (.colRetxTimer g) s = .next (u.setColRun g { r with sends := r.sends.map fun (x : ColSend) =>
      if x.resend ≤ u.aon then { x with resend := u.aon + r.retx } else x })) ∧
  (∀ (g : Nat) (e : ColGrp) (r : ColRun) (s : State), s.colGrp? g = some e → s.colRun? g = some r → r.missing e ≠ [] →
    exec (.colRxTimeout g) s = .next ((s.reach (r.entered + r.tmo)).colStall g e r)) ∧
  (∀ (g n : Nat) (e : ColGrp) (r : ColRun) (s : State), s.colGrp? g = some e → s.colRun? g = some r →
    (r.sends.map fun (x : ColSend) => x.first).min? = some n →
    exec (.colTxTimeout g) s = .next ((s.reach (n + r.tmo)).colStall g e r)) ∧
  (∀ (g : Nat) (e : ColGrp) (r : ColRun) (s : State), s.colGrp? g = some e → s.colRun? g = some r → r.applying = true →
    let good := (List.range e.n).takeWhile fun k => (r.recvBlock e k).2 % 256 == 0
    let t := good.foldl (fun (s : State) k => s.colApplyBlock (r.recvBlock e k).1 (r.recvBlock e k).2) s
    (good.length = e.n → exec (.colEftApplyDone g false) s = .next (t.colEnd g e r 0 0xFFF false)) ∧
    (good.length ≠ e.n → exec (.colEftApplyDone g false) s = .next (t.colDataErr g e r))) ∧
  (∀ (q : Req) (k : Nat) (e : ColGrp) (s t : State), s.runs t q .col 0 0 1 k → k < 16 → t.col.groups.get? k = some e →
    exec (.colGroupRead q k) s = .next ((t.winData (e.words (t.colRun? k)) k).replied .col 0)) ∧
  (∀ (q : Req) (k : Nat) (s t : State), s.runs t q .col 0 0 2 k → k < 16 → t.colRun? k = none →
    (t.colEntry k).ok = true →
    let u := t.setColGrp k (t.colEntry k)
    exec (.colGroupWrite q k) s = .next (({ u with col := { u.col with
      runs := u.col.runs.erase k, heldSig := u.col.heldSig.drop fun x => x / 4096 == k } }.win 0 k).replied .col 0)) ∧
  (∀ (q : Req) (k : Nat) (s t : State), s.runs t q .col 0 1 1 k → k < 4096 →
    exec (.colMemberRead q k) s = .next ((t.winData [t.col.members.getD k 0] k).replied .col 0)) ∧
  (∀ (q : Req) (k : Nat) (s t : State), s.runs t q .col 0 1 2 k → k < 4096 →
    (t.col.groups.any fun (x : Nat × ColGrp) =>
      (t.colRun? x.1).isSome && decide (x.2.first ≤ k ∧ k < x.2.first + x.2.n)) = false →
    exec (.colMemberWrite q k) s = .next (({ t with col := { t.col with
      members := t.col.members.set k (t.data .col 0 0 &&& 0x07FFFFFFFFFFFFFF) } }.win 0 k).replied .col 0)) ∧
  (∀ (q : Req) (k : Nat) (s t : State), s.runs t q .col 0 2 1 k → k < 4096 →
    exec (.colSlowRead q k) s = .next ((t.winData [BitVec.ofNat 64 ((t.colSlow k).lastCnt * 2 ^ 32 + (t.colSlow k).waitSum),
      BitVec.ofNat 64 (t.colSlow k).stepCnt] k).replied .col 0))

/-- The cistern (R397, Table 15-7): the two saturation timers, the policers, and the grant of a waiting write. Choices of the
model it rests on: log entries 79, 130. -/
def Obligations.CisternCommands : Prop :=
  (∀ (s : State), s.fld Fd.CIS_STAT_SATURATED = 1 →
    let t := s.reach (s.cis.stepAt + s.fld Fd.CIS_SAT_SLOW_STEP_MS * cyMs)
    let u := { t with cis := { t.cis with stepAt := t.aon, stepFill := t.cis.fill } }
    (t.cis.fill < t.cis.stepFill → exec .slowStepTimer s = .next u) ∧
    (t.cis.stepFill ≤ t.cis.fill → exec .slowStepTimer s =
      .next (u.shiftTo (min (u.fld Fd.CIS_STAT_S + 1) (u.fld Fd.CIS_SAT_SHIFT_MAX))))) ∧
  (∀ (s : State), s.fld Fd.CIS_STAT_SATURATED = 0 → 0 < s.fld Fd.CIS_STAT_S →
    let t := s.reach (s.cis.stepAt + s.fld Fd.CIS_SAT_RECOVER_MS * cyMs)
    exec .recoverTimer s = .next ({ t with cis := { t.cis with stepAt := t.aon } }.shiftTo (t.fld Fd.CIS_STAT_S - 1))) ∧
  (∀ (q : Req) (w v : Nat) (s t : State), s.runs t q .cis 0 0 1 (3 * w + v - 1) → 3 * w + v - 1 < 3 * t.wellheads →
    let p := t.policer (3 * w + v - 1)
    exec (.policerRead q w v) s =
      .next ((t.winData [BitVec.ofNat 64 (p.rate * 2 ^ 56 + p.burst), BitVec.ofNat 64 p.drops]).replied .cis 0)) ∧
  (∀ (q : Req) (w v : Nat) (s t : State), s.runs t q .cis 0 0 2 (3 * w + v - 1) → 3 * w + v - 1 < 3 * t.wellheads →
    let d := (t.data .cis 0 0).toNat
    let p : Policer := { rate := bits d 63 56, burst := bits d 15 0, tokens := bits d 15 0 * 1024, last := t.aon
                         drops := (t.policer (3 * w + v - 1)).drops }
    exec (.policerWrite q w v) s = .next (({ t with cis := { t.cis with
      policers := t.cis.policers.set (3 * w + v - 1) p } }.win 0).replied .cis 0)) ∧
  (∀ (x : Ingest) (s : State), s.nextIngest = some x → s.live .cis = true →
    let b := s.fld Fd.CIS_INGEST_BUDGET_B
    let k := ceilDiv (x.body.length - s.ingestCredit) (20 * b)
    exec .ingestGrant s = .next ((s.advance k).grant x (min (4 * b) (s.ingestCredit + k * 20 * b - x.body.length))))

/-- The up ports: gates, the queues' service, link changes, quarantines, software's frames. Choices of the model it rests on:
log entries 75, 76, 78, 138. -/
def Obligations.UpPortCommands : Prop :=
  (∀ (p e : Nat) (s : State), (s.up p).gateEnd = some e →
    let t := s.reach e
    exec (.gateAdvance p) s = .next (t.setUp p { t.up p with
      gateIdx := (s.up p).gateIdx + 1
      gateEnd := (t.ups.active.gateSpan p ((s.up p).gateIdx + 1)).map fun d => e + d / 10000 })) ∧
  (∀ (p sub q : Nat) (x : UpItem) (r : List UpItem) (s : State), s.isTray = true → p < 2 → s.fld Fd.UP_STAT_LINK p = 1 →
    s.enabled .up p = true → s.enabled .ups = true → s.strictPick p sub = some q → (s.up p).queues.getD q [] = x :: r →
    exec (.upTx p sub) s = .next ((s.setUp p { s.up p with queues := (s.up p).queues.set q r }).upSend p sub x)) ∧
  (∀ (p sub q k : Nat) (x : UpItem) (u : UpPort) (s : State), s.isTray = true → p < 2 → s.fld Fd.UP_STAT_LINK p = 1 →
    s.enabled .up p = true → s.enabled .ups = true → s.strictPick p sub = none → s.flt.faulted = false →
    drrServe (fun q => s.qcfg (32 * p + q)) (s.drrOk p sub) s.aon (2 * (s.up p).drr.length + 2) (s.up p) 0 =
      some (q, x, u, k) →
    let t := ((s.setUp p u).ev .ups 0 2 k).upSend p sub x
    exec (.upTx p sub) s = .next (t.unspill p q (t.cis.spill.getD (32 * p + q) []))) ∧
  (∀ (p : Nat) (s : State), s.isTray = true → p < 2 → s.fld Fd.UP_STAT_LINK p = 1 →
    let t := (s.setFld Fd.UP_STAT_LINK p 0).pendBit 10 3
    exec (.upLinkDown p) s = .next (if t.upLink (1 - p) then t.moveFixed p (1 - p) else t)) ∧
  (∀ (p : Nat) (s : State), s.isTray = true → p < 2 → s.fld Fd.UP_STAT_LINK p = 0 →
    let u := s.draw.2
    let t := ((u.setLat (128 + p) (bits s.draw.1.toNat 31 0) (bits s.draw.1.toNat 63 32)).setFld Fd.UP_STAT_LINK p 1).pendBit 10 3
    exec (.upLinkUp p) s = .next (if t.upLink p = true ∧ t.upLink (1 - p) = false then t.moveFixed (1 - p) p else t)) ∧
  (∀ (q : Req) (p : Nat) (d : Word) (s : State), s.admitsWrite q .up p 0x78 d → d.getLsbD 0 = true → d.getLsbD 1 = false →
    exec (.upClearQuar q p d) s = .next ((s.setQuars p []).answer .okay 0)) ∧
  (∀ (q : Req) (p : Nat) (d : Word) (s : State), s.admitsWrite q .up p 0x78 d → d.getLsbD 0 = false → d.getLsbD 1 = true →
    exec (.upQuarFullClear q p d) s = .next ((s.setUp p { s.up p with quarFull := 0 }).answer .okay 0)) ∧
  (∀ (p : Nat) (mac m : BitVec 48) (e : Nat) (s : State),
    (s.up p).quars.find? (fun (x : BitVec 48 × Nat) => x.1 == mac) = some (m, e) → 0 < s.fld Fd.UP_QUAR_CFG_QUAR_S p →
    let t := s.reach (e + s.fld Fd.UP_QUAR_CFG_QUAR_S p * 1000 * cyMs)
    exec (.upQuarExpire p mac) s = .next (t.setQuars p ((t.up p).quars.filter fun (x : BitVec 48 × Nat) => x.1 != mac))) ∧
  (∀ (q : Req) (s t : State), s.runs t q .ups 0 3 2 0 →
    let d := (t.data .ups 0 1).toNat
    let len := bits (t.data .ups 0 2).toNat 47 32
    let buf := bits (t.data .ups 0 2).toNat 23 0
    14 ≤ len → len ≤ t.fld Fd.UP_CFG_MTU (bits d 51 51) + 14 → t.inShared buf len = true → bit d 49 = false → bit d 48 = false →
    let u := t.bytes 0 len
    exec (.swFrameSend q) s = .next (((u.putDrr (bits d 51 51) 6 (Mem.read t.sram (t.sharedBase + buf) len)).win 0
      ).replied .ups 0)) ∧
  (∀ (q : Req) (p n buf k : Nat) (r : List (Nat × Nat × Nat × Nat)) (s t : State), s.runs t q .ups 0 4 3 0 →
    t.ups.swRx = (p, n, buf, k) :: r →
    exec (.swFramePop q) s = .next (({ t with ups := { t.ups with swRx := r } }.winData
      [BitVec.ofNat 64 (p * 2 ^ 48 + n * 2 ^ 32 + buf), BitVec.ofNat 64 (time96 k), BitVec.ofNat 64 (time96 k / 2 ^ 64)]
        ).replied .ups 0))

/-- The staged tables of UPS: queues, gates and routes. Choices of the model it rests on: log entry 75. -/
def Obligations.UpstreamTables : Prop :=
  (∀ (q : Req) (k : Nat) (s t : State), s.runs t q .ups 0 0 1 k → upsQueueIdx k = true →
    let c := t.ups.staged.queues.getD k ⟨1, 0, 1, false⟩
    exec (.upsQueueRead q k) s = .next ((t.winData
      [BitVec.ofNat 64 (c.quantum * 2 ^ 40 + c.burst * 2 ^ 32 + c.limit * 2 ^ 16 + b2n c.spill)]).replied .ups 0)) ∧
  (∀ (q : Req) (k : Nat) (s t : State), s.runs t q .ups 0 0 2 k → upsQueueIdx k = true → t.ups.pending = false →
    let d := (t.data .ups 0 0).toNat
    bits d 47 40 ≠ 0 → bits d 29 16 ≠ 0 →
    let b := t.ups.staged
    exec (.upsQueueWrite q k) s = .next (((t.setUpsStaged { b with
      queues := b.queues.set k ⟨bits d 47 40, bits d 39 32, bits d 29 16, bit d 0⟩ }).win 0).replied .ups 0)) ∧
  (∀ (q : Req) (k : Nat) (s t : State), s.runs t q .ups 0 1 1 k → k < 32 →
    exec (.upsGateRead q k) s = .next ((t.winData [t.ups.staged.gates.getD k 0]).replied .ups 0)) ∧
  (∀ (q : Req) (k : Nat) (s t : State), s.runs t q .ups 0 1 2 k → k < 32 → t.ups.pending = false →
    let m : Nat := if k % 16 = 0 then 0xFFFFFFFF87FFFFFF else 0xFFFFFFFF07FFFFFF
    let b := t.ups.staged
    exec (.upsGateWrite q k) s = .next (((t.setUpsStaged { b with
      gates := b.gates.set k (t.data .ups 0 0 &&& BitVec.ofNat 64 m) }).win 0).replied .ups 0)) ∧
  (∀ (q : Req) (k : Nat) (s t : State), s.runs t q .ups 0 2 1 k → k < 8 →
    let r := t.ups.staged.routes.getD k ⟨false, false, 0, 0, 0⟩
    exec (.upsRouteRead q k) s = .next ((t.winData [BitVec.ofNat 64
      (b2n r.up * 2 ^ 63 + b2n r.cistern * 2 ^ 62 + r.port * 2 ^ 60 + r.queue * 2 ^ 48 + r.dest.toNat)]).replied .ups 0)) ∧
  (∀ (q : Req) (k : Nat) (s t : State), s.runs t q .ups 0 2 2 k → k < 8 → t.ups.pending = false →
    let d := (t.data .ups 0 0).toNat
    7 ≤ bits d 52 48 →
    let b := t.ups.staged
    let r : Route := ⟨bit d 63, bit d 62, bits d 60 60, bits d 52 48, BitVec.ofNat 48 (bits d 47 0)⟩
    exec (.upsRouteWrite q k) s = .next (((t.setUpsStaged { b with routes := b.routes.set k r }).win 0).replied .ups 0))

/-- The buddy (R403 to R409): mirrors taken, whole mirrors asked for, acknowledgements, and a restore from its request to its
end. Choices of the model it rests on: log entries 81, 82. -/
def Obligations.BuddyCommands : Prop :=
  (∀ (p : Nat) (f : List Byte) (s : State), p < 2 → s.budTakes f 16 = true → (budParse f).flag < 2 →
    s.fromWard (budParse f) = true → s.fromSource (budParse f) = false →
    exec (.mirrorRx p f) s = .next (s.mirrorIn (budParse f))) ∧
  (∀ (p : Nat) (f : List Byte) (s : State), p < 2 → s.budTakes f 19 = true → s.fromBuddy (budParse f) = true → s.mirrorOn = true →
    exec (.resyncRx p f) s = .next ((s.bump Fd.BUD_CNT_RESYNCS).setFld Fd.BUD_STATE_MIRROR 0 2).mirrorWhole) ∧
  (∀ (p : Nat) (f : List Byte) (s : State), p < 2 → s.budTakes f 16 = true → (budParse f).flag = 2 →
    s.fromBuddy (budParse f) = true → s.mirrorOn = true →
    exec (.mirrorAckRx p f) s =
      .next { s.setFld Fd.BUD_STATE_MIRROR 0 1 with bud := { s.bud with ackAt := s.aon } }) ∧
  (∀ (s : State), s.mirrorOn = true → s.fld Fd.BUD_STATE_MIRROR ≠ 3 →
    exec .mirrorAckTimeout s =
      .next (((s.reach (s.bud.ackAt + s.budTmo)).setFld Fd.BUD_STATE_MIRROR 0 3).fault .bud 0 0)) ∧
  (∀ (q : Req) (d : Word) (s : State), s.admitsWrite q .bud 0 0x60 d → bit d.toNat 63 = true → s.live .bud = true →
    let t := { s with bud := { s.bud with rx := [], rxAt := s.aon, source := bits d.toNat 47 0 } }
    exec (.budRestore q d) s = .next (((((t.bump Fd.BUD_CNT_RESTORES).setFld Fd.BUD_STATE_CLASSES 0 0).setRstate 1).budFrame
      (bits d.toNat 47 0) 17 0 0 0 []).answer .okay 0)) ∧
  (∀ (p : Nat) (f : List Byte) (s : State), p < 2 → s.budTakes f 17 = true → s.fromWard (budParse f) = true →
    s.fld Fd.BUD_STATE_HOLD_VALID = 1 →
    exec (.restoreReqRx p f) s = .next ((List.range 3).foldl (fun (s : State) c =>
      (s.bytes 2 (s.bud.img.getD c []).sum).restoreClass (budParse f).src c (s.imgFrames c)) s)) ∧
  (∀ (s : State), s.isTray = true → s.restoring = true →
    exec .restoreTimeout s = .next ((s.reach (s.bud.rxAt + s.budTmo)).restoreFail.reach (s.bud.rxAt + s.budTmo + 1))) ∧
  (∀ (p : Nat) (f : List Byte) (s : State), p < 2 → s.budTakes f 16 = true → (budParse f).flag < 2 →
    s.fromSource (budParse f) = true → (budParse f).cls < 3 → bit (s.fld Fd.BUD_STATE_CLASSES) (budParse f).cls = false →
    let b := budParse f
    exec (.restoreDataRx p f) s = .next { s with bud := { s.bud with
      rx := s.bud.rx.set b.cls (s.bud.rx.getD b.cls [] ++ [b.body]), rxAt := s.aon } }) ∧
  (∀ (p : Nat) (f : List Byte) (s : State), p < 2 → s.budTakes f 18 = true → s.fromSource (budParse f) = true →
    (budParse f).cls < 3 →
    let b := budParse f
    let l := s.bud.rx.getD b.cls []
    l.length = b.sq → crc32c l.flatten = rdLE b.body 0 4 →
    let got := Nat.lor (s.fld Fd.BUD_STATE_CLASSES) (2 ^ b.cls)
    let t := ({ s with bud := { s.bud with rxAt := s.aon } }.setFld Fd.BUD_STATE_CLASSES 0 got).restoreApply b.cls
    exec (.restoreEndRx p f) s = .next (if got = 7 then t.setRstate 2 else t))

/-- Step marks, their verdicts and the straggler messages (R412 to R430). Choices of the model it rests on: log entries 83, 84.
-/
def Obligations.StepMarkCommands : Prop :=
  (∀ (d : Word) (s : State), s.isTray = false → s.live .stm = true → s.fld Fd.LCM_JOB_VALID ≠ 0 → bits d.toNat 55 32 = s.job.1 →
    s.timeValid = true → s.stm.mq.length < 16 →
    exec (.stepMarkPort d) s = .next { s with stm := { s.stm with mq := s.stm.mq ++ [(commonHeader 0x40 (bits d.toNat 63 62)
      s.nodeId s.job.1 s.job.2 (s.epochOf s.now) s.holdFlag ++ timeBytes s.now ++ leBytes 4 (bits d.toNat 31 0), s.aon)] } }) ∧
  (∀ (q : Req) (d : Word) (s : State), s.admitsWrite q .stm 0 0x48 d → s.isTray = false → s.live .stm = true →
    s.fld Fd.LCM_JOB_VALID ≠ 0 → bits d.toNat 55 32 = s.job.1 → s.timeValid = true → s.stm.mq.length < 16 →
    exec (.stmMarkWrite q d) s = .next ({ s with stm := { s.stm with mq := s.stm.mq ++ [(commonHeader 0x40 (bits d.toNat 63 62)
      s.nodeId s.job.1 s.job.2 (s.epochOf s.now) s.holdFlag ++ timeBytes s.now ++ leBytes 4 (bits d.toNat 31 0), s.aon)] } }.answer
        .okay 0)) ∧
  (∀ (n stp : Nat) (r : StepRow) (s : State), (s.stmRows n).find? (fun r => r.step == stp && !r.done) = some r →
    s.isTray = true → s.live .stm = true →
    exec (.stepVerdict n stp) s = .next ((s.reachTime r.v).verdictRow n (s.stmJob n) r false)) ∧
  (∀ (w : Nat) (m : List Byte) (s : State), s.isTray = true → exec (.stepMarkRx w m) s = .next (s.stepMarkTaken w m)) ∧
  (∀ (p : Nat) (f : List Byte) (s : State), s.isTray = true → p < 2 →
    exec (.fleetStragglerTrayRx p f) s = .next (s.fleetTray (rdBE f 6 6) ((f.drop 22).take (rdLE f 16 2)))) ∧
  (∀ (m : List Byte) (s : State), s.isTray = false → exec (.fleetStragglerLeafRx m) s = .next (s.fleetLeaf m))

/-- The windows of STM: jobs, notifications, step rows and baselines. Choices of the model it rests on: log entries 45, 83. -/
def Obligations.StepMarkWindows : Prop :=
  (∀ (q : Req) (k : Nat) (s t : State), s.runs t q .stm 0 0 1 k → t.isTray = true → k < 16 →
    exec (.stmJobRead q k) s =
      .next ((t.winData (match t.stm.jobsSt.get? k with | some j => j.words | none => [])).replied .stm 0)) ∧
  (∀ (q : Req) (k : Nat) (s t : State), s.runs t q .stm 0 0 4 k → t.isTray = true → k < 16 →
    exec (.stmJobReadActive q k) s =
      .next ((t.winData (match t.stm.jobs.get? k with | some j => j.words | none => [])).replied .stm 0)) ∧
  (∀ (q : Req) (k : Nat) (s t : State), s.runs t q .stm 0 0 2 k → t.isTray = true → k < 16 → t.stm.pending = false →
    let d := (t.data .stm 0 0).toNat
    let e := (t.data .stm 0 3).toNat
    bits d 7 0 ≠ 0 → bits d 7 0 ≤ 128 → bits e 15 0 ≠ 0 →
    let j : StmJob := { valid := bit d 63, phase := bits d 61 60, job := bits d 55 32, gen := bits d 31 24, quorum := bits d 7 0
                        expected := BitVec.ofNat 128 ((t.data .stm 0 1).toNat + (t.data .stm 0 2).toNat * 2 ^ 64)
                        lateNs := bits e 63 32, slackUs := bits e 31 16, rowTmo := bits e 15 0 }
    exec (.stmJobWrite q k) s =
      .next (({ t with stm := { t.stm with jobsSt := t.stm.jobsSt.set k j } }.win 0).replied .stm 0)) ∧
  (∀ (q : Req) (m : Bytes) (r : List Bytes) (s t : State), s.runs t q .stm 0 0 3 0 → t.isTray = false → t.stm.nq = m :: r →
    exec (.notifyPop q) s = .next (({ t with stm := { t.stm with nq := r } }.winData (toWords 6 m)).replied .stm 0)) ∧
  (∀ (q : Req) (k : Nat) (r : StepRow) (s t : State), s.runs t q .stm 0 1 1 k → t.isTray = true → k < 128 →
    (t.stmRows (k / 8)).find? (fun r => r.order == k % 8) = some r →
    let p := maskOf (r.marks.map (·.1))
    exec (.stmRowRead q k) s = .next ((t.winData [BitVec.ofNat 64 (b2n (!r.done) * 2 ^ 63 + b2n r.tq.isSome * 2 ^ 62 + r.step),
      BitVec.ofNat 64 p, BitVec.ofNat 64 (p / 2 ^ 64), BitVec.ofNat 64 (wrapI r.aRef 64)]).replied .stm 0)) ∧
  (∀ (q : Req) (k : Nat) (s t : State), s.runs t q .stm 0 2 1 k → k < t.stmBases →
    exec (.stmBaseRead q k) s =
      .next ((t.winData (match t.stm.basesSt.get? k with | some c => [c.word] | none => [])).replied .stm 0)) ∧
  (∀ (q : Req) (k : Nat) (s t : State), s.runs t q .stm 0 2 2 k → k < t.stmBases → t.stm.pending = false →
    let d := (t.data .stm 0 0).toNat
    bits d 44 40 ≠ 0 → bits d 44 40 ≤ 16 → bits d 3 0 ≠ 0 →
    let c : BaseCfg := { valid := bit d 63, freeze := bit d 62, field := bits d 57 48, k := bits d 44 40, warm := bits d 39 32
                         zHi := bits d 31 16, consec := bits d 3 0 }
    exec (.stmBaseWrite q k) s =
      .next (({ t with stm := { t.stm with basesSt := t.stm.basesSt.set k c } }.win 0).replied .stm 0)) ∧
  (∀ (q : Req) (k : Nat) (c : BaseCfg) (s t : State), s.runs t q .stm 0 2 4 k → k < t.stmBases → t.stm.bases.get? k = some c →
    let b := t.stm.state.getD k ⟨0, 0, 0, 0⟩
    let m := wrapI b.m 80
    let d := wrapI b.d 80
    exec (.stmBaseReadActive q k) s = .next ((t.winData [c.word, BitVec.ofNat 64 m, BitVec.ofNat 64 (m / 2 ^ 64),
      BitVec.ofNat 64 d, BitVec.ofNat 64 (d / 2 ^ 64), BitVec.ofNat 64 (b.n * 256 + b.run)]).replied .stm 0))

/-- Captures (R433 to R441): the four operations on rings, a software trigger, an upload, and the windows. Choices of the model
it rests on: log entries 79, 85. -/
def Obligations.CaptureCommands : Prop :=
  (∀ (q : Req) (rings : BitVec 16) (s : State), s.admitsWrite q .cap 0 0x58 (BitVec.ofNat 64 (1 * 2 ^ 60 + rings.toNat)) →
    exec (.capArm q rings) s = .next (((List.range 16).foldl (fun (s : State) r => if rings.getLsbD r then
      (s.capOp 1 r).getD (s.pgErr .cap 0 .unit 0x58 1) else s) s).answer .okay 0)) ∧
  (∀ (q : Req) (rings : BitVec 16) (s : State), s.admitsWrite q .cap 0 0x58 (BitVec.ofNat 64 (2 * 2 ^ 60 + rings.toNat)) →
    exec (.capDisarm q rings) s = .next (((List.range 16).foldl (fun (s : State) r => if rings.getLsbD r then
      (s.capOp 2 r).getD (s.pgErr .cap 0 .unit 0x58 1) else s) s).answer .okay 0)) ∧
  (∀ (q : Req) (rings : BitVec 16) (s : State), s.admitsWrite q .cap 0 0x58 (BitVec.ofNat 64 (3 * 2 ^ 60 + rings.toNat)) →
    exec (.capUpload q rings) s = .next (((List.range 16).foldl (fun (s : State) r => if rings.getLsbD r then
      (s.capOp 3 r).getD (s.pgErr .cap 0 .unit 0x58 1) else s) s).answer .okay 0)) ∧
  (∀ (q : Req) (rings : BitVec 16) (s : State), s.admitsWrite q .cap 0 0x58 (BitVec.ofNat 64 (4 * 2 ^ 60 + rings.toNat)) →
    exec (.capCancel q rings) s = .next (((List.range 16).foldl (fun (s : State) r => if rings.getLsbD r then
      (s.capOp 4 r).getD (s.pgErr .cap 0 .unit 0x58 1) else s) s).answer .okay 0)) ∧
  (∀ (q : Req) (d : Word) (s : State), s.admitsWrite q .cap 0 0x50 d →
    exec (.capTrigWrite q d) s = .next (((List.range s.rings).foldl (fun (s : State) r =>
      if d.getLsbD r then s.capTrigger r 1 else s) s).answer .okay 0)) ∧
  (∀ (r : Nat) (g : Ring) (u : Upload) (s : State), s.ring? r = some g → g.up = some u → g.st = 4 →
    s.mayUpload r = true → (s.isTray = true → s.routeHeld 3 = false) → u.total ≤ u.offset →
    exec (.capUploadSend r) s = .next (((s.capSend (s.capEnd r 0 g u)).uploadClose r 0 g).endXfer 9 r)) ∧
  (∀ (r : Nat) (g : Ring) (u : Upload) (b : Bytes) (s t : State), s.ring? r = some g → g.up = some u → g.st = 4 →
    s.mayUpload r = true → (s.isTray = true → s.routeHeld 3 = false) → u.offset < u.total →
    let n := min s.capChunk (u.total - u.offset)
    (s.isTray = true → (b, t) = (s.captureBytes g u.offset n, s.bytes 2 n)) →
    (s.isTray = false → s.ringFetch r g u.offset n = (some b, t)) →
    exec (.capUploadSend r) s = .next ((t.capSend (t.capHead r 0x50 g u ++ leBytes 2 0 ++ leBytes 8 u.offset ++ b)).setRing
      r { g with up := some { u with offset := u.offset + n, crc := BitVec.ofNat 32 (crc32cFrom u.crc.toNat b) } })) ∧
  (∀ (q : Req) (k : Nat) (s t : State), s.runs t q .cap 0 0 1 k → k < t.rings →
    exec (.capRingRead q k) s =
      .next ((t.winData (match t.cap.rings.get? k with | some g => g.words | none => []) k).replied .cap 0)) ∧
  (∀ (q : Req) (k : Nat) (s t : State), s.runs t q .cap 0 0 2 k → k < t.rings →
    (t.cap.rings.get? k).any (fun (g : Ring) => g.st != 0) = false → t.ringOk k (t.ringEntryOf k) = true →
    exec (.capRingCfgWrite q k) s = .next (((t.setRing k (t.ringEntryOf k)).win 0 k).replied .cap 0)) ∧
  (∀ (q : Req) (r k : Nat) (g : Ring) (s t : State), s.runs t q .cap 0 (16 + r) 1 k → t.isTray = true → r < 16 →
    t.ring? r = some g → 256 * k < 2 ^ g.log2 →
    exec (.capLineRead q r k) s = .next (((t.bytes 2 256).winData (toWords 32 (Mem.read t.hbm (g.base + 256 * k) 256)) k).replied .cap 0))

/-- The host trace path (R444 to R451): an access beat, timeouts, the flush, the drain, the driver's pointer, and control.
Choices of the model it rests on: log entries 86, 87. -/
def Obligations.TraceCommands : Prop :=
  (∀ (k : Nat) (s : State), s.live .htp = true → (s.trSrc k).st = 1 →
    let t := s.reach ((s.trSrc k).lastBeat + s.fld Fd.HTP_CFG_SRC_TMO_US * cyUs)
    exec (.traceSourceTimeout k) s = .next ((((t.setTrSrc k { s.trSrc k with st := 3, owed := 5 }).htpEmit (pktLost k)).bump
      Fd.HTP_CNT_LOST_SOURCE).fault .htp 0 0)) ∧
  (∀ (src kind size : Nat) (addr data : Word) (s : State), s.chip.fitted .htp 0 = true → s.live .htp = true →
    s.traceReady = true → src < 64 → (s.reg Rg.HTP_SRC_EN).getLsbD src = true → kind ≤ 2 → (s.trSrc src).st ≠ 2 →
    s.htp.dropping = false →
    exec (.traceBeat src kind size addr data) s = .next ((s.setTrSrc src { s.trSrc src with
      st := 1, lastBeat := s.aon, owed := (s.trSrc src).owed }).accessBeat src kind (size % 4) addr.toNat data.toNat false)) ∧
  (∀ (s : State), s.live .htp = true → s.htp.buf.length % 256 ≠ 0 →
    exec .htpFlushTimer s = .next (s.reach (s.htp.lastPkt + s.fld Fd.HTP_CFG_FLUSH_US * cyUs)).htpFlush) ∧
  (∀ (s : State), s.live .htp = true → s.primed = true → 256 ≤ s.htp.buf.length → s.htpRingRoom = true →
    s.xfer? 10 0 = none →
    let va := s.fld Fd.HTP_RING_RING_VA * 4096 + s.htp.prod % 2 ^ s.fld Fd.HTP_RING_LOG2_SIZE
    exec .htpDrain s = .next (s.beginRanges 10 0 (s.fld Fd.HTP_XLT_PUMP_CH) (s.fld Fd.HTP_XLT_XLT_CTX)
      [(va, 256), (s.fld Fd.HTP_PTRS_PTRS_VA * 8, 8)] true
      (s.htp.buf.take 256 ++ leBytes 8 ((s.htp.prod + 256) % 2 ^ 32)) true)) ∧
  (∀ (cons : Nat) (s : State), s.live .htp = true → s.primed = true →
    exec (.htpConsPoll cons) s = .next { s with htp := { s.htp with cons := cons % 2 ^ 32 } }) ∧
  (∀ (n : Nat) (s : State), s.htp.stallAt = some n → s.live .htp = true → s.htp.dropping = false →
    let t := s.reach (n + s.fld Fd.HTP_CFG_STALL_MAX_US * cyUs)
    exec .htpStallTimeout s = .next (({ t with htp := { t.htp with dropping := true, dropped := 0, stallHit := true,
                                                                   stallAt := none } }.bump
      Fd.HTP_CNT_STALL_LIMITS).fault .htp 0 2)) ∧
  (∀ (q : Req) (s : State), s.admitsWrite q .htp 0 0x70 1 → s.live .htp = true →
    exec (.htpStart q) s = .next (s.htpStart.answer .okay 0)) ∧
  (∀ (q : Req) (s : State), s.admitsWrite q .htp 0 0x70 2 → s.live .htp = true →
    exec (.htpStop q) s = .next (s.htpStop.answer .okay 0)) ∧
  (∀ (q : Req) (s : State), s.admitsWrite q .htp 0 0x70 4 → s.live .htp = true → s.htp.est = 3 →
    exec (.htpRearm q) s = .next ({ s with htp := { s.htp with est := 0 } }.answer .okay 0)) ∧
  (∀ (q : Req) (k : Nat) (f : Filter) (s t : State), s.runs t q .htp 0 0 1 k → k < 8 → t.htp.filters.get? k = some f →
    exec (.htpFilterRead q k) s = .next ((t.winData
      [BitVec.ofNat 64 f.lo, BitVec.ofNat 64 f.hi, BitVec.ofNat 64 (f.kinds.toNat * 256 + f.mode), f.srcs] k).replied .htp 0)) ∧
  (∀ (q : Req) (k : Nat) (s t : State), s.runs t q .htp 0 0 2 k → k < 8 →
    let f : Filter := { lo := (t.data .htp 0 0).toNat, hi := (t.data .htp 0 1).toNat, mode := bits (t.data .htp 0 2).toNat 2 0
                        kinds := BitVec.ofNat 8 (bits (t.data .htp 0 2).toNat 15 8), srcs := t.data .htp 0 3 }
    f.mode ≤ 5 → f.lo ≤ f.hi →
    exec (.htpFilterWrite q k) s =
      .next (({ t with htp := { t.htp with filters := t.htp.filters.set k f } }.win 0 k).replied .htp 0))

/-- Screening (R453 to R464): passes, the bundle, patterns and their ends, host patterns, and a unit's restoration. Choices of
the model it rests on: log entries 88, 89. -/
def Obligations.ScreeningCommands : Prop :=
  (∀ (due : Nat) (s : State), s.scr.nextDue = some due → s.fld Fd.SCR_CFG_RUN_EN ≠ 0 →
    let t := s.reach (s.nvh.minuteAt + (due - s.nvh.st.opMinutes) * cyMin)
    exec .scrPassTimer s =
      .next { t with scr := { t.scr with nextDue := some (t.nvh.st.opMinutes + t.fld Fd.SCR_CFG_CADENCE_MIN) } }.passFalls) ∧
  (∀ (q : Req) (s t : State), s.runs t q .scr 0 0 5 0 → t.scr.load = none →
    let va := bits (t.data .scr 0 0).toNat 47 0
    let ctx := bits (t.data .scr 0 1).toNat 41 32
    let u := { t with scr := { t.scr with load := some (va, ctx) } }
    exec (.scrBundleLoad q) s =
      .next ((u.beginRead 6 1 (u.fld Fd.COR_CFG_PUMP_CH) ctx va 256).winBusy.replied .scr 0)) ∧
  (∀ (m : List Byte) (x : Nat × Nat) (s : State), s.scr.load = some x → s.carried 6 1 = some m →
    let t := { s with scr := { s.scr with load := none } }.endXfer 6 1
    t.bundleBad m = false → t.authCheck m (rdLE m 8 4) = 0 →
    exec .scrBundleLoadDone s = .next ({ t with scr := { t.scr with
      newBundle := some (rdLE m 12 4, rdLE m 16 4, bundlePats m, m.take (rdLE m 8 4)) } }.takeBundle.winEnd .scr 0 0)) ∧
  (∀ (k inst : Nat) (l : List (Nat × Nat)) (p : ScrPat) (s : State), s.scr.run = none → s.live .scr = true →
    s.scr.early = [] → s.scr.retry = [] → s.scr.queue = (k, inst) :: l → s.scr.pats[k]? = some p →
    ¬(patUnit p.kind inst < 64 ∧ (s.reg Rg.SCR_DEGRADED).getLsbD (patUnit p.kind inst) = true) →
    s.patIdle p inst false = true → p.kind ≠ 5 →
    exec .scrPatternStart s = .next ({ s with scr := { s.scr with queue := l } }.patLaunch
      { newPat k inst 0 with unit := patUnit p.kind inst })) ∧
  (∀ (worst : Nat) (r : ScrRun) (p : ScrPat) (s : State), s.scr.run = some r → s.scr.pats[r.pat]? = some p → p.kind = 3 →
    exec (.scrPatternEnd (.scrub worst)) s = .next (s.patResult r (decide (worst ≤ p.golden.toNat)) 0).settle) ∧
  (∀ (b : List Byte) (r : ScrRun) (p : ScrPat) (s : State), s.scr.run = some r → s.scr.pats[r.pat]? = some p → p.kind = 4 →
    exec (.scrPatternEnd (.out b)) s =
      .next (s.patResult r (patSignature p b [] == p.golden) (patSignature p b [])).settle) ∧
  (∀ (q : Req) (k : Nat) (h : BitVec 32) (r : List (Nat × BitVec 32)) (s t : State), s.runs t q .scr 0 1 3 0 →
    t.scr.hostQ = (k, h) :: r →
    exec (.scrHostPop q) s = .next (({ t with scr := { t.scr with hostQ := r } }.winData
      [BitVec.ofNat 64 (h.toNat * 2 ^ 16 + k % 2 ^ 16)]).replied .scr 0)) ∧
  (∀ (q : Req) (r : ScrRun) (p : ScrPat) (s t : State), s.runs t q .scr 0 1 2 0 →
    let k := bits (t.data .scr 0 0).toNat 15 0
    let sig := BitVec.ofNat 32 (t.data .scr 0 1).toNat
    t.scr.hostOut.find? (fun r => r.pat == k) = some r → t.scr.pats[k]? = some p →
    r.judge (sig == p.golden) sig ((t.hostTake k).fld Fd.SCR_CFG_RETRY_N) = .pass →
    exec (.scrHostResult q) s = .next (((t.hostTake k).passCheck.win 0).replied .scr 0)) ∧
  (∀ (k : Nat) (r : ScrRun) (s : State), s.scr.hostOut.find? (fun r => r.pat == k) = some r →
    exec (.scrHostTimeout k) s = .next ((((s.reach (r.start + s.fld Fd.SCR_CFG_HOST_TMO_S * 100000000)).hostTake k).scrLast 4
      r.unit k 0).passCheck)) ∧
  (∀ (q : Req) (d : Word) (s : State), s.admitsWrite q .scr 0 0x50 d → d.getLsbD 0 = false → d.getLsbD 1 = true →
    exec (.scrPassNow q d) s = .next (s.passFalls.answer .okay 0)) ∧
  (∀ (q : Req) (d : Word) (s : State), s.admitsWrite q .scr 0 0x50 d → d.getLsbD 0 = true → d.getLsbD 1 = false →
    s.scr.passOn = true → s.scr.run = none →
    exec (.scrAbortPass q d) s = .next (({ s with scr := { s.scr with
      queue := [], retry := [], hostQ := [], hostOut := [] } }.takeBundle).passCheck.answer .okay 0)) ∧
  (∀ (q : Req) (d : Word) (s : State), s.admitsWrite q .scr 0 0x78 d → d.getLsbD 63 = true →
    let u := bits d.toNat 5 0
    let keep := s.degradedNow.getLsbD u
    let st := { s.nvh.st with
      degraded := if keep then s.nvh.st.degraded else s.nvh.st.degraded &&& ~~~(BitVec.ofNat 64 (2 ^ u))
      windows := s.nvh.st.windows.erase u }
    let t := { s with nvh := { s.nvh with st } }.nvLog 8 u 0 0
    let t := if keep then t.nvLog 7 u 0 0 else t
    exec (.scrRestoreWrite q d) s = .next ((if t.nvOwner = true ∧ t.nvh.norOk = true then t.journal else t.regain 0).answer .okay 0))

/-- The non-volatile health record (R465 to R475): the phases of a commit, the checkpoint, the log, forwarding and the state
copy. Choices of the model it rests on: log entry 90. -/
def Obligations.HealthRecordCommands : Prop :=
  (∀ (st : NvState) (s : State), s.nvh.commit = some st → s.nvh.jstep = 0 →
    let p := s.part s.nvh.commitDie
    let t := s.setPart s.nvh.commitDie (p.setJour p.nextJour none none)
    exec .nvPhaseDone s = .next ({ t with nvh := { t.nvh with jstep := 1 } }.emit (.nor "program" s.nvh.commitDie))) ∧
  (∀ (st : NvState) (s : State), s.nvh.commit = some st → s.nvh.jstep = 4 → s.nvh.commitDie ≠ s.ownDie →
    let p := s.part s.nvh.commitDie
    let t := s.setPart s.nvh.commitDie (p.setJour p.nextJour (some st) (some st.gen))
    t.ownDie = s.ownDie →
    let t := ((t.bump Fd.NVH_CNT_COMMITS).pendBit 13 2).bytes 7 8
    exec .nvPhaseDone s = .next ({ t with nvh := { t.nvh with jstep := 5 } }.emit (.nor "erase" s.nvh.commitDie))) ∧
  (∀ (st : NvState) (s : State), s.nvh.commit = some st → s.nvh.jstep = 7 → s.nvh.commitDie = s.ownDie → s.nvh.followOn = [] →
    exec .nvPhaseDone s = .next { s with nvh := { s.nvh with
      commit := none, jstep := 0, st := { s.nvh.st with gen := st.gen } } }) ∧
  (∀ (s : State),
    let due := s.nvh.ckptAt + s.fld Fd.NVH_CFG_CKPT_MIN
    let t := s.reach (s.nvh.minuteAt + (due - s.nvh.st.opMinutes) * cyMin)
    exec .nvhCheckpoint s = .next ({ t with nvh := { t.nvh with ckptAt := t.nvh.st.opMinutes } }.nvLog 2 0xFF 0 0).journal) ∧
  (∀ (die : Nat) (r : NvRec) (rest : List (Nat × NvRec)) (s : State), s.nvh.logQ = (die, r) :: rest →
    let t := s.bytes 7 32
    exec (.nvhLogWriteDone true) s =
      .next (({ t with nvh := { t.nvh with logQ := rest } }.logPut die (some r)).bump Fd.NVH_CNT_RECORDS)) ∧
  (∀ (die : Nat) (r : NvRec) (rest : List (Nat × NvRec)) (s : State), s.nvh.logQ = (die, r) :: rest →
    exec (.nvhLogWriteDone false) s =
      .next ((((s.bytes 7 32).logPut die none).bump Fd.NVH_CNT_NOR_ERR).fault .nvh 0 0)) ∧
  (∀ (q : Req) (die k : Nat) (r : NvRec) (s t : State), s.runs t q .nvh 0 (die % 16 * 16) 1 k → t.nvOwner = true →
    t.dieOk (die % 16) = true → k < t.logSectors * 128 → (t.part (die % 16)).log[k]? = some (some r) →
    exec (.nvhLogRead q die k) s = .next (((t.bytes 6 32).winData (toWords 4 r.bytes)).replied .nvh 0)) ∧
  (∀ (q : Req) (r : NvRec) (rs : List NvRec) (s t : State), s.runs t q .nvh 0 1 3 0 → t.nvh.fwdQ = r :: rs →
    exec (.nvhFwdPop q) s =
      .next (({ t with nvh := { t.nvh with fwdQ := rs } }.winData (toWords 4 r.bytes)).replied .nvh 0)) ∧
  (∀ (q : Req) (r : NvRec) (s t : State), s.runs t q .nvh 0 1 2 0 → t.nvOwner = true →
    NvRec.ofBytes? (t.dataBytes .nvh 0 32) = some r → t.isTray = false → r.die ≠ t.ownDie → t.dieOk r.die = true →
    t.nvh.lastSeq.getD r.die 0 ≤ r.seq →
    let u := { t with nvh := { t.nvh with
      lastSeq := t.nvh.lastSeq.set r.die (r.seq + 1)
      logQ := t.nvh.logQ ++ [(r.die, r)]
      dieStates := t.nvh.dieStates.set r.die ((t.dieState r.die).apply r (t.fld Fd.SCR_CFG_TRANS_WIN_H)) } }
    exec (.nvhFwdWrite q) s = .next ((if r.kind = 1 ∨ r.kind = 2 ∨ r.kind = 4 ∨ r.kind = 5 ∨ r.kind = 7 ∨ r.kind = 8 ∨ r.kind = 9 ∨ r.kind = 10
      then u.journalDie r.die else u).win 0 |>.replied .nvh 0)) ∧
  (∀ (q : Req) (k : Nat) (st : NvState) (s t : State), s.runs t q .nvh 0 2 1 k → t.nvOwner = true → t.dieOk (k / 4) = true →
    (t.part (k / 4)).valid = some st →
    exec (.nvhStateRead q k) s =
      .next (((t.bytes 6 256).winData (toWords 32 ((st.bytes.drop (256 * (k % 4))).take 256))).replied .nvh 0)) ∧
  (∀ (q : Req) (k : Nat) (s t : State), s.runs t q .nvh 0 2 2 k → t.nvOwner = false → t.nvh.written = false →
    k / 4 = t.chip.pkgDieIdx →
    let u := { t with nvh := { t.nvh with stage := t.nvh.stage.set (k % 4) (t.dataBytes .nvh 0 256) } }
    u.nvh.stage.length < 4 → exec (.nvhStateWrite q k) s = .next ((u.win 0).replied .nvh 0))

/-- Faults, event records and interrupts (R476 to R499): acknowledgement, quiet time, the windows, claims and completions.
Choices of the model it rests on: log entry 91. -/
def Obligations.FaultCommands : Prop :=
  (∀ (n : Nat) (s : State), (s.src n).active = true → (s.src n).acked = true →
    exec (.quietExpire n) s = .next (((s.reach (s.src n).quietEnd).recover n).advance 1)) ∧
  (∀ (q : Req) (k : Nat) (d : Word) (s : State), s.admitsWrite q .flt 0 (0x500 + 8 * k) d →
    exec (.fltAckSet q k d) s = .next (((List.range 64).foldl (fun (s : State) b =>
      if d.getLsbD b then s.ackSource (64 * k + b) true else s) s).answer .okay 0)) ∧
  (∀ (q : Req) (k : Nat) (d : Word) (s : State), s.admitsWrite q .flt 0 (0x900 + 8 * k) d →
    exec (.fltAckClr q k d) s = .next (((List.range 64).foldl (fun (s : State) b =>
      if d.getLsbD b then s.ackSource (64 * k + b) false else s) s).answer .okay 0)) ∧
  (∀ (q : Req) (k : Nat) (d : Word) (s : State), s.admitsWrite q .flt 0 (0x100 + 8 * k) d →
    exec (.fltAckWrite q k d) s = .next (((List.range 64).foldl (fun (s : State) b =>
      s.ackSource (64 * k + b) (d.getLsbD b)) s).answer .okay 0)) ∧
  (∀ (q : Req) (k : Nat) (s t : State), s.runs t q .flt 0 0 1 k → k < srcCount t.chip.role →
    let r := t.src k
    exec (.fltSrcRead q k) s = .next ((t.winData (BitVec.ofNat 64 (b2n r.active * 2 ^ 63 + b2n r.acked * 2 ^ 62 +
      b2n r.stopping * 2 ^ 61 + r.sev * 2 ^ 56 + r.cur * 2 ^ 52 + r.escCap * 2 ^ 48 + r.count * 2 ^ 32 + r.detail.toNat) ::
        (timeWords r.time ++ [BitVec.ofNat 64 r.epoch]))).replied .flt 0)) ∧
  (∀ (q : Req) (k : Nat) (s t : State), s.runs t q .flt 0 0 2 k → k < srcCount t.chip.role → (srcOf t.chip.role k).isSome = true →
    let d := (t.data .flt 0 0).toNat
    bits d 58 56 ≤ 5 → bits d 50 48 ≤ 5 →
    exec (.fltSrcWrite q k) s = .next (((t.setSrc k { t.src k with sev := bits d 58 56, escCap := bits d 50 48 }).win 0
      ).replied .flt 0)) ∧
  (∀ (q : Req) (k l c : Nat) (u : UnitKind) (s t : State), s.runs t q .flt 0 1 1 k → k < srcCount t.chip.role →
    srcOf t.chip.role k = some (u, c, l) →
    let x := ((sources u)[l]?).getD ("", 0)
    exec (.fltDirRead q k) s = .next ((t.winData
      (BitVec.ofNat 64 (unitCode u * 2 ^ 48 + c * 2 ^ 40 + l * 2 ^ 32 + x.2) :: toWords 2 (nameBytes x.1))).replied .flt 0)) ∧
  (∀ (q : Req) (d : Word) (s : State), s.admitsWrite q .flt 0 0x70 d → d.getLsbD 0 = true →
    exec (.fltClearFirst q d) s = .next ((s.setReg Rg.FLT_FIRST 0 0).answer .okay 0)) ∧
  (∀ (q : Req) (n : Nat) (r : EvrRec) (s t : State), s.runs t q .evr 0 0 1 n → (t.evr.recs.find? fun r => r.seq = n) = some r →
    exec (.evrRead q n) s = .next ((t.winData (toWords 8 r.bytes)).replied .evr 0)) ∧
  (∀ (q : Req) (d : Word) (s : State), s.admitsWrite q .evr 0 0x58 d →
    wrapI (bits d.toNat 31 0 - s.fld Fd.EVR_TAIL_SEQ) 32 ≤ wrapI (s.fld Fd.EVR_HEAD_SEQ - s.fld Fd.EVR_TAIL_SEQ) 32 →
    exec (.evrRdWrite q d) s = .next (((s.setReg Rg.EVR_RD 0 (d &&& 0xFFFFFFFF)).level 14).answer .okay 0)) ∧
  (∀ (q : Req) (n g : Nat) (s : State), s.admitsRead q .irc 0 (0x1C0 + 8 * n) → bestGroup s.prio (s.claimable n) = some g →
    let p := s.prio g
    let h := s.fld (Fd.IRC_GCFG_HOLDOFF_US.nth g)
    let t := s.bump Fd.IRC_CNT_CLAIMS
    exec (.ircClaimRead q n) s = .next ({ t with irc := { t.irc with
      prioStk := t.irc.prioStk.set n (p :: t.stack n)
      holdoffs := if h = 0 then t.irc.holdoffs else t.irc.holdoffs.set g (t.aon + h * cyUs) } }.answer .okay
        (BitVec.ofNat 64 (2 ^ 63 + p * 2 ^ 40 + g)))) ∧
  (∀ (q : Req) (d : Word) (n : Nat) (rest : List Nat) (s : State), s.admitsWrite q .irc 0 0x1E0 d →
    s.stack (bits d.toNat 9 8) = n :: rest → s.prio (bits d.toNat 3 0) = n →
    exec (.ircComplete q d) s = .next ((s.setStack (bits d.toNat 9 8) rest).answer .okay 0)) ∧
  (∀ (g n : Nat) (s : State), s.irc.holdoffs.get? g = some n →
    let t := s.reach n
    exec (.ircHoldoffEnd g) s =
      .next { t with irc := { t.irc with holdoffs := t.irc.holdoffs.erase g, deferred := t.irc.deferred.erase g } }) ∧
  (∀ (q : Req) (g : Nat) (d : Word) (s : State), s.admitsWrite q .irc 0 (0x48 + 16 * g) d →
    let t := s.plainWrite .irc 0 (0x48 + 16 * g) 0 d id
    let t := if g < 15 then t.setReg (Rg.IRC_PEND g) 0 (t.reg (Rg.IRC_PEND g) ||| t.risenNow g) else t
    exec (.ircPendClear q g d) s = .next ((t.level g).answer .okay 0))

/-- The performance unit (R502 to R513): snapshots, counters, byte counters, windows, the run log and replays. Choices of the
model it rests on: log entries 92, 93. -/
def Obligations.PerformanceCommands : Prop :=
  (∀ (q : Req) (d : Word) (s : State), s.admitsWrite q .pmu 0 0x48 (d ||| 1) → d.getLsbD 1 = false →
    let t := s.bumpW Fd.PMU_STAT_SNAP_SEQ
    exec (.pmuSnap q d) s = .next ({ t with pmu := { s.pmu with
      ctrs := s.pmu.ctrs.mapV fun _ (c : PCtr) => { c with snap := c.val } } }.answer .okay 0)) ∧
  (∀ (q : Req) (d : Word) (s : State), s.admitsWrite q .pmu 0 0x48 (d ||| 2) → d.getLsbD 0 = false →
    exec (.pmuClear q d) s = .next ({ s with pmu := { s.pmu with
      ctrs := s.pmu.ctrs.mapV fun _ (c : PCtr) => { c with val := 0 } } }.answer .okay 0)) ∧
  (∀ (q : Req) (k : Nat) (s t : State), s.runs t q .pmu 0 0 1 k → (1 ≤ q.priv.toNat ∨ (t.pctr k).cfg.getLsbD 62 = true) →
    k < t.pctrs →
    exec (.pmuCtrRead q k) s = .next ((t.winData [BitVec.ofNat 64 (t.pctr k).val, (t.pctr k).cfg] k).replied .pmu 0)) ∧
  (∀ (q : Req) (k : Nat) (s t : State), s.runs t q .pmu 0 0 4 k → (1 ≤ q.priv.toNat ∨ (t.pctr k).cfg.getLsbD 62 = true) →
    k < t.pctrs →
    exec (.pmuCtrReadSnap q k) s = .next ((t.winData [BitVec.ofNat 64 (t.pctr k).snap, (t.pctr k).cfg] k).replied .pmu 0)) ∧
  (∀ (q : Req) (k : Nat) (s t : State), s.runs t q .pmu 0 0 2 k → 1 ≤ q.priv.toNat → k < t.pctrs →
    let c := t.data .pmu 0 0 &&& 0xC000FFFFFF00FFFF
    t.pctrOk c.toNat = true →
    exec (.pmuCtrWrite q k) s = .next (({ t with pmu := { t.pmu with
      ctrs := t.pmu.ctrs.set k ⟨c, 0, (t.pctr k).snap⟩ } }.win 0 k).replied .pmu 0)) ∧
  (∀ (q : Req) (k : Nat) (s t : State), s.runs t q .pmu 0 1 1 k → 1 ≤ q.priv.toNat →
    (k < 8 ∨ (16 ≤ k ∧ k ≤ 24) ∨
      (t.isTray = true ∧ ((64 ≤ k ∧ k < 64 + 2 * t.pmuWells) ∨ (320 ≤ k ∧ k < 324)))) →
    exec (.pmuBytesRead q k) s = .next ((t.winData [BitVec.ofNat 64 (t.pmu.bytes.getD k 0)] k).replied .pmu 0)) ∧
  (∀ (q : Req) (k : Nat) (s t : State), s.runs t q .pmu 0 2 1 k → 1 ≤ q.priv.toNat → k < 32 →
    let v := (if k < 16 then t.pmu.bank0 else t.pmu.bank1).getD (k % 16) 0
    let e := if k < 16 then t.pmu.ep0 else t.pmu.ep1
    exec (.pmuAonRead q k) s = .next ((t.winData
      [if t.isTray = true ∧ 1 ≤ k % 16 ∧ k % 16 ≤ 7 then 0 else BitVec.ofNat 64 v, BitVec.ofNat 64 (e % 2 ^ 40)] k).replied .pmu 0)) ∧
  (∀ (q : Req) (p : Nat) (s t : State), s.runs t q .pmu 0 3 1 p → 1 ≤ q.priv.toNat → t.pmuPorts.contains p = true →
    let b := t.bw p
    exec (.pmuBwRead q p) s = .next (({ t with pmu := { t.pmu with
      bw := t.pmu.bw.set p { b with txPeak := 0, rxPeak := 0 } } }.winData [BitVec.ofNat 64 b.txLast, BitVec.ofNat 64 b.rxLast,
        BitVec.ofNat 64 b.txPeak, BitVec.ofNat 64 b.rxPeak, BitVec.ofNat 64 b.last] p).replied .pmu 0)) ∧
  (∀ (q : Req) (k : Nat) (x : Nat × List Word) (s t : State), s.runs t q .pmu 0 4 1 k → 1 ≤ q.priv.toNat →
    (t.pmu.log.find? fun (x : Nat × List Word) => x.1 % 2 ^ 32 == k) = some x →
    exec (.pmuRunlogRead q k) s = .next ((t.winData x.2 k).replied .pmu 0)) ∧
  (∀ (s : State), s.timeValid = true → s.fld Fd.PMU_CFG_WIN_US ≠ 0 → s.pmu.winUs = s.fld Fd.PMU_CFG_WIN_US →
    let n := s.nextWindow s.pmu.winUs
    exec .pmuWindowEnd s = .next ((s.reachTime n.2).closeWindow (if 0 < n.1 then some (n.1 - 1) else none))) ∧
  (∀ (q : Req) (d : Word) (s : State), s.admitsWrite q .pmu 0 0x60 d → d.getLsbD 63 = true →
    s.replayResult (bits d.toNat 59 56) (bits d.toNat 62 60) (bits d.toNat 55 40) = 0 →
    let t := (s.setFld Fd.PMU_REPLAY_STAT_VALID 0 1).setFld Fd.PMU_REPLAY_STAT_RESULT 0 0
    exec (.pmuReplay q d) s = .next ((t.mxeLaunch (bits d.toNat 59 56)
      { t.newRun (bits d.toNat 59 56) (bits d.toNat 62 60) (bits d.toNat 39 0) with
        replay := true, stop := bits d.toNat 55 40 }).answer .okay 0))

/-- Resets and boot (R514 to R526): the pins, the steps of a boot, the OTP, and the end of a FUNCTION reset. Choices of the
model it rests on: log entries 95, 96, 97, 99. -/
def Obligations.ResetCommands : Prop :=
  (∀ (st : Straps) (s : State),
    exec (.powerOnReset st) s = .next (((s.restart (s.chip.strapped st) 0).event 0x0701 [] true).advance 50)) ∧
  (∀ (s : State), exec .blockResetPin s = .next (s.blockReset 1 0)) ∧
  (∀ (s : State), s.lcm.bootDone = false → s.fld Fd.LCM_STATE_PHASE = 2 → s.pwr.boot = false → s.isTray = false →
    let t := s.reach (5050 - s.bootLead)
    exec .otpReadDone s = .next ({ t with
      lcm := { t.lcm with lcState := t.lcm.otp.lcAtBoot }, pwr := { t.pwr with boot := true } }.tryPriming)) ∧
  (∀ (s : State), s.lcm.bootDone = false → s.fld Fd.LCM_STATE_PHASE = 2 → s.pwr.boot = false → s.isTray = true →
    let t := s.reach (5050 - s.bootLead)
    let u := { t with lcm := { t.lcm with lcState := t.lcm.otp.lcAtBoot } }
    exec .otpReadDone s =
      .next { u.setFld Fd.LCM_STATE_PHASE 0 3 with lcm := { u.lcm with wipeFrom := 6250 - u.bootLead } }) ∧
  (∀ (s : State), s.lcm.bootDone = false → s.lcm.lcNew = none → s.fld Fd.LCM_STATE_PHASE = 3 → s.isTray = false →
    exec .wipeDone s = .next ((s.wiped false).setFld Fd.LCM_STATE_PHASE 0 4)) ∧
  (∀ (s : State) (n : Nat), s.lcm.bootDone = false → s.lcm.lcNew = some n → s.lcm.funcReset = false →
    exec .wipeDone s = .next (((s.wiped true).memoriesWiped).lcChanged n)) ∧
  (∀ (s : State), s.nvOwner = true → s.lcm.bootDone = false → s.lcm.nvCase = 0 →
    (s.fld Fd.LCM_STATE_PHASE = 3 ∨ s.fld Fd.LCM_STATE_PHASE = 4) →
    let t := s.reach (190000 - s.bootLead)
    exec (.nvStateDecide true) s = .next { t with nvh := { t.nvh with norOk := true } }.othersDecide.nvDecide) ∧
  (∀ (s : State), s.nvOwner = true → s.lcm.bootDone = false → s.lcm.nvCase = 0 →
    (s.fld Fd.LCM_STATE_PHASE = 3 ∨ s.fld Fd.LCM_STATE_PHASE = 4) →
    let t := s.reach (190000 - s.bootLead)
    let u := ({ t with nvh := { t.nvh with norOk := false } }.takeNv NvState.empty).fault .nvh 0 1
    exec (.nvStateDecide false) s = .next { u with lcm := { u.lcm with nvCase := 4 } }) ∧
  (∀ (s : State), s.lcm.bootDone = false → s.fld Fd.LCM_STATE_PHASE = 4 → ¬(s.nvOwner = true ∧ s.lcm.nvCase = 0) →
    exec .bootDone s = .next s.bootEnd.serve) ∧
  (∀ (s : State), s.lcm.funcReset = true → s.lcm.lcNew = none →
    exec .functionResetDone s = .next ({ s with lcm := { s.lcm with funcReset := false } }.functionEnd).serve) ∧
  (∀ (s : State) (n : Nat), s.lcm.funcReset = true → s.lcm.lcNew = some n →
    exec .functionResetDone s = .next ({ s with lcm := { s.lcm with funcReset := false, wipeFrom := s.aon } }).serve) ∧
  (∀ (q : Req) (k : Nat) (s t : State), s.runs t q .lcm 0 0 1 k → t.lcm.otp.busy = none → k < 4 →
    exec (.otpReadCmd q k) s = .next ((t.winData (hashWords (t.lcm.otp.keys.getD k 0) ++ [BitVec.ofNat 64
      (b2n (t.lcm.otp.revoked.getLsbD k) * 2 + b2n (t.lcm.otp.keys.get? k).isSome)])).replied .lcm 0)) ∧
  (∀ (q : Req) (k : Nat) (s t : State), s.runs t q .lcm 0 0 2 k → t.lcm.otp.busy = none →
    let d := if k < 4 then hashOf ((List.range 6).map fun n => t.data .lcm 0 n) else (t.data .lcm 0 0).zeroExtend 384
    t.lcm.otp.refuses t.lcm.lcState k d = 0 →
    exec (.otpWriteCmd q k) s = .next ({ t with lcm := { t.lcm with
      otp := { t.lcm.otp with busy := some (k, d, t.aon + 5 * cyMs) } } }.winBusy.replied .lcm 0)) ∧
  (∀ (k e : Nat) (d : BitVec 384) (s : State), s.lcm.otp.busy = some (k, d, e) →
    let t := s.reach e
    let u := { t with lcm := { t.lcm with otp := { t.lcm.otp.program k d with busy := none } } }
    u.fld (Fd.TBL_STAT_BUSY .lcm) = 1 → exec .otpProgramDone s = .next (u.winEnd .lcm 0 0))

/-- Life-cycle commands (R517, R523): each is queued with the edge at which it takes effect, and takes effect there. Choices of
the model it rests on: log entry 98. -/
def Obligations.LifeCycleCommands : Prop :=
  (∀ (q : Req) (s : State) (op : Nat), op = 1 ∨ op = 2 ∨ op = 3 ∨ op = 4 ∨ op = 8 ∨ op = 9 →
    s.admitsWrite q .lcm 0 0x58 (BitVec.ofNat 64 (0xC0DE * 2 ^ 48 + op)) →
    let due := s.aon + (match q.path with | .mgmt => 2 * cyUs | _ => 1)
    let due := match s.lcm.windowEnd with | some e => max due (e + 1) | none => due
    let ahead := match q.path with
      | .mgmt => (((s.lane 0).txq.getD 1 []).filter fun (it : TxItem) => it.ftype == 0x21).length + 1
      | _ => 0
    let t := { s with lcm := { s.lcm with cmd := s.lcm.cmd ++ [({ op, path := q.path, due, ahead } : LcmCmd)] } }.answer .okay 0
    (op = 1 → exec (.lcmProvision q) s = .next t) ∧ (op = 2 → exec (.lcmDeploy q) s = .next t) ∧
    (op = 3 → exec (.lcmUndeploy q) s = .next t) ∧ (op = 4 → exec (.lcmReturn q) s = .next t) ∧
    (op = 8 → exec (.lcmFunctionReset q) s = .next t) ∧ (op = 9 → exec (.lcmBlockReset q) s = .next t)) ∧
  (∀ (c : LcmCmd) (cs : List LcmCmd) (s : State), s.lcm.cmd = c :: cs → c.ahead = 0 →
    (∀ e, s.lcm.windowEnd = some e → c.due ≤ e) →
    exec .lcmCmdTakeEffect s = .next (({ s with lcm := { s.lcm with cmd := cs } }.reach c.due).lcmTakes c))

/-- Commits (R527 to R530): arming, disarming, the target, and the window's two ends. Choices of the model it rests on: log
entry 100. -/
def Obligations.CommitCommands : Prop :=
  (∀ (q : Req) (s : State), s.admitsWrite q .lcm 0 0x450 1 → s.fld Fd.LCM_CTRL_ARM = 0 → s.armCheck = 0 →
    exec (.commitArm q) s = .next (s.armed.answer .okay 0)) ∧
  (∀ (q : Req) (s : State), s.admitsWrite q .lcm 0 0x850 1 → s.fld Fd.LCM_CTRL_ARM = 1 →
    exec (.commitDisarm q) s = .next (s.disarm.answer .okay 0)) ∧
  (∀ (q : Req) (d : Word) (s : State), s.admitsWrite q .lcm 0 0x48 d → s.fld Fd.LCM_CTRL_ARM = 0 →
    exec (.lcmCommitWrite q d) s = .next ((s.plainWrite .lcm 0 0x48 0 d id).answer .okay 0)) ∧
  (∀ (s : State), s.fld Fd.LCM_STATE_CSTATE = 1 → s.timeValid = true →
    let b := s.aon + s.edgesTo (s.boundary (s.fld Fd.LCM_COMMIT_TARGET))
    let t := s.reach (b - 200)
    (t.bgPending = true → exec .commitWindowOpen s = .next (t.commitRefused 4)) ∧
    (t.bgPending = false → exec .commitWindowOpen s = .next { t.setFld Fd.LCM_STATE_CSTATE 0 2 with
      lcm := { t.lcm with windowEnd := some (b + 64), commitNow := false } })) ∧
  (∀ (e : Nat) (s : State), s.lcm.windowEnd = some e → s.lcm.commitNow = true →
    let t := s.reach e
    let r := if t.lcm.rejects = 0 then 1 else 6
    let n := t.lcm.rejects
    let u := ((t.disarm.setFld Fd.LCM_STAT_RESULT 0 r).setFld Fd.LCM_STAT_REJECTS 0 (min n 255)).bump Fd.LCM_CNT_COMMITS
    exec .commitWindowClose s = .next (u.event 0x0202 (leBytes 1 r ++ leBytes 1 (min n 255) ++
      leBytes 2 (u.fld Fd.LCM_COMMIT_VERSION) ++ leBytes 4 0 ++ leBytes 5 (u.fld Fd.LCM_COMMIT_TARGET)) true))

/-- A step takes the command at the front of the queue and runs it on the state with the queue's rest. Choices of the model it
rests on: log entry 3. -/
def Obligations.StepTakesFront : Prop :=
  ∀ (c : Instr) (rest : List Instr) (s : State), s.pending = c :: rest → step s = exec c { s with pending := rest }

/-- The queue is first in, first out: a step takes exactly the command at its front. With nothing waiting the block idles: one
AON cycle passes (DESIGN CHOICE, log entry 3). -/
def Obligations.QueueOrder : Prop :=
  (∀ (c : Instr) (rest : List Instr) (s : State), s.pending = c :: rest → ∃ t, step s = .next t ∧ t.pending = rest) ∧
  (∀ (s : State), s.pending = [] → step s = .next (s.advance 1) ∧ (s.advance 1).pending = [])

/-- R1: only power-on reset samples `ROLE_SEL`; no other command, and so no other reset kind, changes the role; DIR reports it.
-/
def Obligations.RoleFixed : Prop :=
  (∀ (s t : State), (∀ st rest, s.pending ≠ .powerOnReset st :: rest) → step s = .next t → t.chip.role = s.chip.role) ∧
  (∀ (st : Straps) (s : State), ∃ t, exec (.powerOnReset st) s = .next t ∧
    t.chip.role = if st.roleSel then .tray else .leaf) ∧
  (∀ (p : Path) (s : State), bits (s.view p .dir 0 0x40).toNat 1 0 = if s.chip.role = .tray then 1 else 0)

/-- Every step keeps the addressed memories in canonical form and the straps ones that power-on reset can sample. Choices of the
model it rests on: log entries 1, 8. -/
def Obligations.StepKeepsInvariant : Prop :=
  ∀ (s t : State), s.memOk → s.chip.legal → step s = .next t → t.memOk ∧ t.chip.legal

/-- Right after reset: the invariant holds, nothing waits, the memories list nothing, and the registers read what their tables
give: every page disabled and without an error, its lock at the page's minimum, its window idle; `IRC_MASK0` alone set (Table
19-9); the word of Table 03-8 in `PWR_CFG` (log entry 27); no time, no epoch and no fault. Choices of the model it rests on: log
entries 1, 8, 9. -/
def Obligations.ResetState : Prop :=
  State.reset.memOk ∧ State.reset.chip.legal ∧ State.reset.pending = [] ∧ State.reset.waiting = [] ∧
  (∀ (u : UnitKind) (i : Nat), i < 128 → State.reset.reg (Rg.PG_CTRL u) i = 0 ∧ State.reset.reg (Rg.PG_ERR u) i = 0 ∧
    State.reset.reg (Rg.PG_SCRATCH u) i = 0 ∧ State.reset.fld (Fd.PG_LOCK_MIN_PRIV u) i = resetLock u ∧
    State.reset.fld (Fd.PG_LOCK_FREEZE u) i = 0 ∧ State.reset.reg (Rg.TBL_CMD u) i = 0 ∧ State.reset.reg (Rg.TBL_STAT u) i = 0) ∧
  (∀ (g : Nat), g < 16 → State.reset.reg (Rg.IRC_MASK g) = (if g = 0 then 1 else 0) ∧ State.reset.reg (Rg.IRC_PEND g) = 0) ∧
  State.reset.reg Rg.PWR_CFG = 0x0006400800141000 ∧
  State.reset.timeValid = false ∧ State.reset.epochNow = 0 ∧ State.reset.flt.faulted = false ∧ State.reset.attn = 0

/-- The frame of every command over the memories: SRAM changes only in the commands of `storesSram`, HBM only in those of
`storesHbm`; every command answers a next state. -/
def Obligations.MemoryWriters : Prop :=
  ∀ (c : Instr) (s : State), ∃ t, exec c s = .next t ∧
    (storesSram c = false → ∀ a, Mem.byte t.sram a = Mem.byte s.sram a) ∧
    (storesHbm c = false → ∀ a, Mem.byte t.hbm a = Mem.byte s.hbm a)

/-- SEGMENT_DONE of a READ descriptor stores the segment's bytes at its place in the channel's SRAM window, short data padded
with 0 (log entry 59), and no other byte; a segment that fails, or of any other operation, stores none. -/
def Obligations.StoredBytes : Prop :=
  (∀ (c idx k : Nat) (data : List Byte) (d : PDesc) (s : State),
    (s.chan c).descs.find? (fun d => d.index = idx ∧ d.out.contains k) = some d → d.op = 1 →
    ∃ t, exec (.segmentDone (.ring c) idx k data false) s = .next t ∧ t.hbm = s.hbm ∧
      (∀ j, j < segLen d.len k → Mem.byte t.sram ((s.chan c).sramBase * 4096 + d.dst + 256 * k + j) = data.getD j 0) ∧
      (∀ a, a < (s.chan c).sramBase * 4096 + d.dst + 256 * k ∨
          (s.chan c).sramBase * 4096 + d.dst + 256 * k + segLen d.len k ≤ a → Mem.byte t.sram a = Mem.byte s.sram a)) ∧
  (∀ (c idx k : Nat) (data : List Byte) (err : Bool) (d : PDesc) (s : State),
    (s.chan c).descs.find? (fun d => d.index = idx ∧ d.out.contains k) = some d → err = true ∨ d.op ≠ 1 →
    ∃ t, exec (.segmentDone (.ring c) idx k data err) s = .next t ∧ ∀ a, Mem.byte t.sram a = Mem.byte s.sram a)

/-- R3: the page of every unit in the role's map decodes to that unit, and the page of a unit not fitted answers every access
whose check is good (R36 puts CHKERR first) and that stands behind no other request (R32) with ABSENT and data 0, changing
nothing but the reply and its count in PMU. -/
def Obligations.AbsentPages : Prop :=
  (∀ (r : Role) (u : UnitKind) (i p : Nat), unitPage r u i = some p → pageUnit r p = some (u, i)) ∧
  (∀ (a : Access) (u : UnitKind) (i : Nat) (s : State), pageUnit s.chip.role (a.addr.toNat / 4096) = some (u, i) →
    s.chip.fitted u i = false → s.behind a = false → (a.path = .host → requestCheck a = a.chk) →
    exec (.registerWrite a) s =
      .next ({ s.item 15 with reply := some ⟨0, s.rstat .absent, replyCheck 0 (s.rstat .absent)⟩ } : State).settle)

/-- R37: an admitted write of an RO register answers OKAY and has no effect, a busy window apart (R58). An access that is
answered otherwise than OKAY changes no register but `PG_ERR`, in which no flag is cleared, and `DIR_VIOL` and `DIR_LAST_VIOL`,
which record it, and no state but the reply and the PMU counts: no W1C clears, no RC read clears or claims. -/
def Obligations.ReadOnlyWrites : Prop :=
  (∀ (a : Access) (u : UnitKind) (i : Nat) (s : State), pageUnit s.chip.role (a.addr.toNat / 4096) = some (u, i) →
    s.admits a u i (a.addr.toNat % 4096) → a.write = true → accAt u (a.addr.toNat % 4096) = some .ro →
    ¬(a.addr.toNat % 4096 = 0xC08 ∧ s.fld (Fd.TBL_STAT_BUSY u) i = 1) →
    exec (.registerWrite a) s = .next (s.answer .okay 0).settle) ∧
  (∀ (a : Access) (s : State), ∃ t : State, exec (.registerWrite a) s = .next t.settle ∧
    ∀ r, t.reply = some r → bits r.rstat.toNat 3 0 ≠ 0 →
      t = { s with regs := t.regs, reply := t.reply, pmu := t.pmu } ∧
      (∀ (g : Reg) (i : Nat), (∀ u j, regKey g i ≠ regKey (Rg.PG_ERR u) j) → regKey g i ≠ regKey Rg.DIR_VIOL 0 →
        regKey g i ≠ regKey Rg.DIR_LAST_VIOL 0 → t.reg g i = s.reg g i) ∧
      (∀ (u : UnitKind) (i k : Nat), k < 6 → (s.reg (Rg.PG_ERR u) i).getLsbD k = true → (t.reg (Rg.PG_ERR u) i).getLsbD k = true) ∧
      s.fld Fd.DIR_VIOL_DENIED_CNT ≤ t.fld Fd.DIR_VIOL_DENIED_CNT ∧ s.fld Fd.DIR_VIOL_ALIAS_CNT ≤ t.fld Fd.DIR_VIOL_ALIAS_CNT ∧
      s.fld Fd.DIR_VIOL_CHKERR_CNT ≤ t.fld Fd.DIR_VIOL_CHKERR_CNT ∧ s.fld Fd.DIR_VIOL_TIMEOUT_CNT ≤ t.fld Fd.DIR_VIOL_TIMEOUT_CNT)

/-- R58: an admitted write to any window register while `TBL_STAT.BUSY` is 1 answers OKAY, is ignored and sets `PG_ERR.WIN_BUSY`
with the offset of the access, for every requester alike; a command below its register-level minimum is no admitted write (R44,
R45). -/
def Obligations.WindowBusy : Prop :=
  ∀ (a : Access) (u : UnitKind) (i : Nat) (s : State), pageUnit s.chip.role (a.addr.toNat / 4096) = some (u, i) →
    s.admits a u i (a.addr.toNat % 4096) → a.write = true → hasWindow u = true → 0xC00 ≤ a.addr.toNat % 4096 →
    a.addr.toNat % 4096 < 0xD40 → s.fld (Fd.TBL_STAT_BUSY u) i = 1 →
    exec (.registerWrite a) s = .next ((s.pgErr u i .winBusy (a.addr.toNat % 4096)).answer .okay 0).settle

/-- R75 on an idle window: a command to a fast-domain unit that is not primed has no effect but its own words and RESULT 0xFF.
Choices of the model it rests on: log entry 23. -/
def Obligations.NotPrimed : Prop :=
  ∀ (a : Access) (u : UnitKind) (i : Nat) (s : State), pageUnit s.chip.role (a.addr.toNat / 4096) = some (u, i) →
    s.admits a u i (a.addr.toNat % 4096) → a.write = true → fastUnit u = true → a.addr.toNat % 4096 = 0xC00 →
    bits a.wdata.toNat 7 0 ≠ 0 → s.fld (Fd.TBL_STAT_BUSY u) i = 0 → s.primed = false →
    exec (.registerWrite a) s = .next ((((s.setReg (Rg.TBL_CMD u) i (a.wdata &&& 0xFFFFFFFF0000FFFF)).setReg
      (Rg.TBL_STAT u) i 0xFF00).answer .okay 0).settle)

/-- R83: a write of `PWR_CFG` on a leaf with HOLD_US above 1,000, STAGE_LEVEL 0 or STAGE_AGE 0 keeps the staged value and sets
`PG_ERR.BAD_VALUE`; any other is staged, whole, and marks the page. -/
def Obligations.PowerConfigRange : Prop :=
  (∀ (a : Access) (s : State), pageUnit s.chip.role (a.addr.toNat / 4096) = some (.pwr, 0) → a.addr.toNat % 4096 = 0x58 →
    s.admits a .pwr 0 0x58 → a.write = true → s.isTray = false →
    1000 < bits a.wdata.toNat 25 16 ∨ bits a.wdata.toNat 35 32 = 0 ∨ bits a.wdata.toNat 51 40 = 0 →
    exec (.registerWrite a) s = .next ((s.pgErr .pwr 0 .badValue 0x58).answer .okay 0).settle ∧
    (s.pgErr .pwr 0 .badValue 0x58).stagedReg Rg.PWR_CFG = s.stagedReg Rg.PWR_CFG) ∧
  (∀ (a : Access) (s : State), pageUnit s.chip.role (a.addr.toNat / 4096) = some (.pwr, 0) → a.addr.toNat % 4096 = 0x58 →
    s.admits a .pwr 0 0x58 → a.write = true → s.isTray = false → s.fld (Fd.PG_CTRL_COMMIT_MODE .pwr) = 0 →
    bits a.wdata.toNat 25 16 ≤ 1000 → bits a.wdata.toNat 35 32 ≠ 0 → bits a.wdata.toNat 51 40 ≠ 0 →
    let staged := s.staged.set (regKey Rg.PWR_CFG 0) (a.wdata &&& 0xFFF0F03FFFF03)
    exec (.registerWrite a) s = .next ((({ s with staged } : State).mark .pwr 0).answer .okay 0).settle)

/-- R497: a read of `IRC_CLAIM`n returns the group of highest PRIO that qualifies, the lowest number among equals, pushes that
PRIO, starts the hold-off and counts in CLAIMS; where none qualifies it returns VALID 0, pushes nothing and counts in SPURIOUS
only. Neither clears PENDING: no register but `IRC_CNT` changes. -/
def Obligations.ClaimHighest : Prop :=
  (∀ (q : Req) (n g : Nat) (s : State), n < 4 → s.admitsRead q .irc 0 (0x1C0 + 8 * n) → s.qualifies n g →
    (∀ h, s.qualifies n h → s.prio h < s.prio g ∨ s.prio h = s.prio g ∧ g ≤ h) →
    let hold := s.fld (Fd.IRC_GCFG_HOLDOFF_US.nth g)
    let prioStk := s.irc.prioStk.set n (s.prio g :: s.stack n)
    let holdoffs := if hold = 0 then s.irc.holdoffs else s.irc.holdoffs.set g (s.aon + hold * cyUs)
    let irc := { s.irc with prioStk, holdoffs }
    exec (.ircClaimRead q n) s = .next (({ s.bump Fd.IRC_CNT_CLAIMS with irc } : State).answer .okay
      (BitVec.ofNat 64 (2 ^ 63 + s.prio g * 2 ^ 40 + g)))) ∧
  (∀ (q : Req) (n : Nat) (s : State), n < 4 → s.admitsRead q .irc 0 (0x1C0 + 8 * n) → (∀ h, ¬s.qualifies n h) →
    exec (.ircClaimRead q n) s = .next ((s.bump Fd.IRC_CNT_SPURIOUS).answer .okay 0)) ∧
  (∀ (g : Nat) (s : State), g < 16 → (s.bump Fd.IRC_CNT_CLAIMS).reg (Rg.IRC_PEND g) = s.reg (Rg.IRC_PEND g) ∧
    (s.bump Fd.IRC_CNT_SPURIOUS).reg (Rg.IRC_PEND g) = s.reg (Rg.IRC_PEND g))

/-- R54 on the mask registers of IRC groups 0 to 2: a write at the SET alias sets, at the CLR alias clears, at the base replaces
the bits the register has; a read at any of the three returns it, changing nothing. An access to an alias offset whose base is
no SC register answers DENIED, sets `PG_ERR.ALIAS` beside the flags of its other breaches (log entry 10) and counts in
ALIAS_CNT. -/
def Obligations.SetClear : Prop :=
  (∀ (a : Access) (g : Nat) (m v : Word) (s : State), g < 3 → m = (if g = 0 then 1 else if g = 1 then 0x3F else 0xF) →
    pageUnit s.chip.role (a.addr.toNat / 4096) = some (.irc, 0) → a.write = true → s.admits a .irc 0 (a.addr.toNat % 4096) →
    (a.addr.toNat % 4096 = 0x40 + 16 * g ∧ v = a.wdata &&& m ∨
      a.addr.toNat % 4096 = 0x440 + 16 * g ∧ v = s.reg (Rg.IRC_MASK g) ||| (a.wdata &&& m) ∨
      a.addr.toNat % 4096 = 0x840 + 16 * g ∧ v = s.reg (Rg.IRC_MASK g) &&& ~~~a.wdata) →
    exec (.registerWrite a) s = .next ((s.setReg (Rg.IRC_MASK g) 0 v).answer .okay 0).settle) ∧
  (∀ (a : Access) (g : Nat) (s : State), g < 3 → pageUnit s.chip.role (a.addr.toNat / 4096) = some (.irc, 0) → a.write = false →
    s.admits a .irc 0 (a.addr.toNat % 4096) → a.addr.toNat % 4096 = 0x40 + 16 * g ∨ a.addr.toNat % 4096 = 0x440 + 16 * g ∨
      a.addr.toNat % 4096 = 0x840 + 16 * g →
    exec (.registerWrite a) s = .next (s.answer .okay (s.reg (Rg.IRC_MASK g))).settle) ∧
  (∀ (a : Access) (u : UnitKind) (i off : Nat) (s : State), pageUnit s.chip.role (a.addr.toNat / 4096) = some (u, i) →
    (a.path = .host → requestCheck a = a.chk) → s.chip.fitted u i = true → s.behind a = false →
    a.addr.toNat % 4096 = off → 0x400 ≤ off → off < 0xC00 → hasAlias s.isTray u (off / 8 * 8 % 0x400) = false →
    ErrFlag.aliased ∈ s.breaches a u i off ∧
    exec (.registerWrite a) s = .next ((((s.breaches a u i off).foldl (fun s f => s.pgErr u i f off) s).violation
      Fd.DIR_VIOL_ALIAS_CNT .denied a).answer .denied 0).settle)
end

