-- ==== Sys2Proof/Laws/Frames.lean ====
section
/-! SUPPORT. What a function on states leaves alone: the straps, the queue, the memories; how it passes through a conditional and a fold. -/

namespace Sys2Proof.Machine

/-- `t` has the straps, the queue and the memories of `s`. -/
abbrev Keeps (s t : State) : Prop := t.chip = s.chip ∧ t.pending = s.pending ∧ t.sram = s.sram ∧ t.hbm = s.hbm
/-- `t` has the straps, the queue and the SRAM of `s`; its HBM may differ. -/
abbrev KeepsLow (s t : State) : Prop := t.chip = s.chip ∧ t.pending = s.pending ∧ t.sram = s.sram
/-- `t` has the straps and the queue of `s`. -/
abbrev KeepsTop (s t : State) : Prop := t.chip = s.chip ∧ t.pending = s.pending
@[simp] theorem ite_keeps :
    (∀ (c : Prop) [Decidable c] (s t : State), (if c then s else t).chip = if c then s.chip else t.chip) ∧
    (∀ (c : Prop) [Decidable c] (s t : State), (if c then s else t).pending = if c then s.pending else t.pending) ∧
    (∀ (c : Prop) [Decidable c] (s t : State), (if c then s else t).sram = if c then s.sram else t.sram) ∧
    (∀ (c : Prop) [Decidable c] (s t : State), (if c then s else t).hbm = if c then s.hbm else t.hbm) ∧
    (∀ (β : Type) (c : Prop) [Decidable c] (s t : State × β), (if c then s else t).1.chip = if c then s.1.chip else t.1.chip) ∧
    (∀ (β : Type) (c : Prop) [Decidable c] (s t : State × β), (if c then s else t).1.pending = if c then s.1.pending else t.1.pending) ∧
    (∀ (β : Type) (c : Prop) [Decidable c] (s t : State × β), (if c then s else t).1.sram = if c then s.1.sram else t.1.sram) ∧
    (∀ (β : Type) (c : Prop) [Decidable c] (s t : State × β), (if c then s else t).1.hbm = if c then s.1.hbm else t.1.hbm) ∧
    (∀ (β : Type) (c : Prop) [Decidable c] (s t : β × State), (if c then s else t).2.chip = if c then s.2.chip else t.2.chip) ∧
    (∀ (β : Type) (c : Prop) [Decidable c] (s t : β × State), (if c then s else t).2.pending = if c then s.2.pending else t.2.pending) ∧
    (∀ (β : Type) (c : Prop) [Decidable c] (s t : β × State), (if c then s else t).2.sram = if c then s.2.sram else t.2.sram) ∧
    (∀ (β : Type) (c : Prop) [Decidable c] (s t : β × State), (if c then s else t).2.hbm = if c then s.2.hbm else t.2.hbm) ∧
    (∀ (c : Prop) [Decidable c] (s t : WinOut), (if c then s else t).st.chip = if c then s.st.chip else t.st.chip) ∧
    (∀ (c : Prop) [Decidable c] (s t : WinOut), (if c then s else t).st.pending = if c then s.st.pending else t.st.pending) ∧
    (∀ (c : Prop) [Decidable c] (s t : WinOut), (if c then s else t).st.sram = if c then s.st.sram else t.st.sram) ∧
    (∀ (c : Prop) [Decidable c] (s t : WinOut), (if c then s else t).st.hbm = if c then s.st.hbm else t.st.hbm) ∧
    (∀ (c : Prop) [Decidable c] (s t : AccOut), (if c then s else t).st.chip = if c then s.st.chip else t.st.chip) ∧
    (∀ (c : Prop) [Decidable c] (s t : AccOut), (if c then s else t).st.pending = if c then s.st.pending else t.st.pending) ∧
    (∀ (c : Prop) [Decidable c] (s t : AccOut), (if c then s else t).st.sram = if c then s.st.sram else t.st.sram) ∧
    (∀ (c : Prop) [Decidable c] (s t : AccOut), (if c then s else t).st.hbm = if c then s.st.hbm else t.st.hbm) ∧
    (∀ (c : Prop) [Decidable c] (s t : EftOut), (if c then s else t).st.chip = if c then s.st.chip else t.st.chip) ∧
    (∀ (c : Prop) [Decidable c] (s t : EftOut), (if c then s else t).st.pending = if c then s.st.pending else t.st.pending) ∧
    (∀ (c : Prop) [Decidable c] (s t : EftOut), (if c then s else t).st.sram = if c then s.st.sram else t.st.sram) ∧
    (∀ (c : Prop) [Decidable c] (s t : EftOut), (if c then s else t).st.hbm = if c then s.st.hbm else t.st.hbm) := by
  refine ⟨?_, ?_, ?_, ?_, ?_, ?_, ?_, ?_, ?_, ?_, ?_, ?_, ?_, ?_, ?_, ?_, ?_, ?_, ?_, ?_, ?_, ?_, ?_, ?_⟩ <;> intros <;> split <;> rfl
@[simp] theorem foldl_keeps :
    (∀ (α : Type) (l : List α) (f : State → α → State) (s : State), (∀ s a, (f s a).chip = s.chip) → (l.foldl f s).chip = s.chip) ∧
    (∀ (α : Type) (l : List α) (f : State → α → State) (s : State), (∀ s a, (f s a).pending = s.pending) → (l.foldl f s).pending = s.pending) ∧
    (∀ (α : Type) (l : List α) (f : State → α → State) (s : State), (∀ s a, (f s a).sram = s.sram) → (l.foldl f s).sram = s.sram) ∧
    (∀ (α : Type) (l : List α) (f : State → α → State) (s : State), (∀ s a, (f s a).hbm = s.hbm) → (l.foldl f s).hbm = s.hbm) ∧
    (∀ (α β : Type) (l : List α) (f : State × β → α → State × β) (s : State × β), (∀ s a, (f s a).1.chip = s.1.chip) → (l.foldl f s).1.chip = s.1.chip) ∧
    (∀ (α β : Type) (l : List α) (f : State × β → α → State × β) (s : State × β), (∀ s a, (f s a).1.pending = s.1.pending) → (l.foldl f s).1.pending = s.1.pending) ∧
    (∀ (α β : Type) (l : List α) (f : State × β → α → State × β) (s : State × β), (∀ s a, (f s a).1.sram = s.1.sram) → (l.foldl f s).1.sram = s.1.sram) ∧
    (∀ (α β : Type) (l : List α) (f : State × β → α → State × β) (s : State × β), (∀ s a, (f s a).1.hbm = s.1.hbm) → (l.foldl f s).1.hbm = s.1.hbm) ∧
    (∀ (α β : Type) (l : List α) (f : β × State → α → β × State) (s : β × State), (∀ s a, (f s a).2.chip = s.2.chip) → (l.foldl f s).2.chip = s.2.chip) ∧
    (∀ (α β : Type) (l : List α) (f : β × State → α → β × State) (s : β × State), (∀ s a, (f s a).2.pending = s.2.pending) → (l.foldl f s).2.pending = s.2.pending) ∧
    (∀ (α β : Type) (l : List α) (f : β × State → α → β × State) (s : β × State), (∀ s a, (f s a).2.sram = s.2.sram) → (l.foldl f s).2.sram = s.2.sram) ∧
    (∀ (α β : Type) (l : List α) (f : β × State → α → β × State) (s : β × State), (∀ s a, (f s a).2.hbm = s.2.hbm) → (l.foldl f s).2.hbm = s.2.hbm) := by
  refine ⟨?_, ?_, ?_, ?_, ?_, ?_, ?_, ?_, ?_, ?_, ?_, ?_⟩ 
  · intro _ l f s h; induction l generalizing s <;> simp_all
  · intro _ l f s h; induction l generalizing s <;> simp_all
  · intro _ l f s h; induction l generalizing s <;> simp_all
  · intro _ l f s h; induction l generalizing s <;> simp_all
  · intro _ _ l f s h; induction l generalizing s <;> simp_all
  · intro _ _ l f s h; induction l generalizing s <;> simp_all
  · intro _ _ l f s h; induction l generalizing s <;> simp_all
  · intro _ _ l f s h; induction l generalizing s <;> simp_all
  · intro _ _ l f s h; induction l generalizing s <;> simp_all
  · intro _ _ l f s h; induction l generalizing s <;> simp_all
  · intro _ _ l f s h; induction l generalizing s <;> simp_all
  · intro _ _ l f s h; induction l generalizing s <;> simp_all
theorem foldl_Keeps {α : Type} {f : State → α → State} {s u : State} {l : List α} (h0 : Keeps s u) (h : ∀ t a, Keeps t (f t a)) : Keeps s (l.foldl f u) := by
  induction l generalizing u with
  | nil => exact h0
  | cons a l ih => exact ih (by have := h u a; simp_all [Keeps])
theorem foldl_KeepsLow {α : Type} {f : State → α → State} {s u : State} {l : List α} (h0 : KeepsLow s u) (h : ∀ t a, KeepsLow t (f t a)) : KeepsLow s (l.foldl f u) := by
  induction l generalizing u with
  | nil => exact h0
  | cons a l ih => exact ih (by have := h u a; simp_all [KeepsLow])
theorem foldl_KeepsTop {α : Type} {f : State → α → State} {s u : State} {l : List α} (h0 : KeepsTop s u) (h : ∀ t a, KeepsTop t (f t a)) : KeepsTop s (l.foldl f u) := by
  induction l generalizing u with
  | nil => exact h0
  | cons a l ih => exact ih (by have := h u a; simp_all [KeepsTop])
theorem Keeps.trans {s t u : State} (h : Keeps s t) (k : Keeps t u) : Keeps s u :=
  ⟨k.1.trans h.1, k.2.1.trans h.2.1, k.2.2.1.trans h.2.2.1, k.2.2.2.trans h.2.2.2⟩
theorem KeepsLow.trans {s t u : State} (h : KeepsLow s t) (k : KeepsLow t u) : KeepsLow s u :=
  ⟨k.1.trans h.1, k.2.1.trans h.2.1, k.2.2.trans h.2.2⟩
theorem KeepsTop.trans {s t u : State} (h : KeepsTop s t) (k : KeepsTop t u) : KeepsTop s u :=
  ⟨k.1.trans h.1, k.2.trans h.2⟩
theorem Keeps.low {s t : State} (h : Keeps s t) : KeepsLow s t := ⟨h.1, h.2.1, h.2.2.1⟩
theorem Keeps.top {s t : State} (h : Keeps s t) : KeepsTop s t := ⟨h.1, h.2.1⟩
theorem KeepsLow.top {s t : State} (h : KeepsLow s t) : KeepsTop s t := ⟨h.1, h.2.1⟩
theorem Keeps.trans_low {s t u : State} (h : Keeps s t) (k : KeepsLow t u) : KeepsLow s u := h.low.trans k
theorem Keeps.refl (s : State) : Keeps s s := ⟨rfl, rfl, rfl, rfl⟩
theorem ite_low {c : Prop} [Decidable c] {s t u : State} (h : KeepsLow s t) (k : KeepsLow s u) : KeepsLow s (if c then t else u) := by
  split <;> assumption

end Sys2Proof.Machine
end

