-- ==== Sys2Proof/Laws/Access.lean ====
section
/-! SUPPORT. What an admitted access does: its effect and its answer, nothing else. -/

namespace Sys2Proof.Machine

/-- An admitted access takes effect at once. -/
theorem State.gate_admits {s : State} {a : Access} {u : UnitKind} {i off : Nat} {eff : State → AccOut}
    (h : s.admits a u i off) : s.gate a u i off eff = (eff s).finish a u i off := by
  obtain ⟨h1, h2, h3, h4, h5⟩ := h
  have hb : s.behind a = false := by
    unfold State.mustWait at h5
    exact (Bool.or_eq_false_iff.mp h5).2
  unfold State.gate
  rw [if_neg (by rw [hb]; decide), if_neg (by rintro ⟨a, b⟩; exact b (h1 a))]
  split
  · rename_i e; rw [e] at h2; exact absurd h2 (by decide)
  · rw [if_neg (by rw [h3]; decide)]
    split
    · rename_i e; rw [e] at h4; exact absurd h4 (by simp)
    · rw [if_neg (by rw [h5]; decide)]

/-- An OKAY answer. -/
theorem AccOut.finish_okay {o : AccOut} {a : Access} {u : UnitKind} {i off : Nat} (h : o.code = .okay) :
    o.finish a u i off = o.st.answer .okay o.data := by
  unfold AccOut.finish
  rw [if_neg (by rw [h]; decide), h]

/-- An admitted write of a row with an effect that is always OKAY. -/
theorem State.rowWrite_okay {s : State} {q : Req} {u : UnitKind} {i off : Nat} {d : Word} {f : State → State}
    (h : s.admitsWrite q u i off d) : (s.rowWrite q u i off d fun s => (f s).okay) = (f s).answer .okay 0 :=
  (State.gate_admits h).trans (AccOut.finish_okay rfl)

/-- An admitted write of a row. -/
theorem State.rowWrite_admits {s : State} {q : Req} {u : UnitKind} {i off : Nat} {d : Word} {eff : State → AccOut}
    (h : s.admitsWrite q u i off d) (k : (eff s).code = .okay) : s.rowWrite q u i off d eff = (eff s).st.answer .okay (eff s).data :=
  (State.gate_admits h).trans (AccOut.finish_okay k)

/-- An admitted read of a row. -/
theorem State.rowRead_admits {s : State} {q : Req} {u : UnitKind} {i off : Nat} {eff : State → AccOut}
    (h : s.admitsRead q u i off) (k : (eff s).code = .okay) : s.rowRead q u i off eff = (eff s).st.answer .okay (eff s).data :=
  (State.gate_admits h).trans (AccOut.finish_okay k)

/-- The effect of a window command that takes effect. -/
theorem State.winRun_runs {s t : State} {q : Req} {u : UnitKind} {i table op index : Nat} {body : State → WinOut}
    (h : s.runs t q u i table op index) :
    s.winRun u i (cmdWord table op index) body = ((body t).show u i).okay := by
  obtain ⟨-, h2, rfl, h3⟩ := h
  unfold State.winRun
  rw [if_neg (by rw [h2]; decide)]
  dsimp only
  rw [if_neg]
  · rfl
  · rintro ⟨a, b⟩
    have := h3 a
    unfold State.took at this
    rw [this] at b
    exact absurd b (by decide)

/-- A window command that takes effect. -/
theorem State.winCmd_runs {s t : State} {q : Req} {u : UnitKind} {i table op index : Nat} {body : State → WinOut}
    (h : s.runs t q u i table op index) : s.winCmd q u i table op index body = (body t).replied u i := by
  unfold State.winCmd
  rw [State.rowWrite_admits h.1 (by rw [State.winRun_runs h]; rfl), State.winRun_runs h]
  rfl

/-- An access that no rule refuses breaks none. -/
theorem State.refusal_none {s : State} {a : Access} {u : UnitKind} {i off : Nat} (h : s.refusal a u i off = none) :
    s.denied a u i off = false ∧ s.badAlias u off = false ∧ badWidth a u off = false ∧
      (a.write = true → s.retries u (aliasOf (off / 8 * 8)).1 a.wdata = false) := by
  unfold State.refusal at h
  dsimp only at h
  split at h
  · cases h
  split at h
  · cases h
  rename_i h1 h2
  simp only [State.breaches, ne_eq, Decidable.not_not, List.append_eq_nil_iff, ite_eq_right_iff, List.cons_ne_nil, imp_false,
    Bool.not_eq_true] at h1
  exact ⟨h1.1.1, h1.1.2, h1.2, fun k => by simpa [k] using h2⟩

/-- An access that no rule refuses is aligned, of a path and a privilege the page takes, and names a register's own offset or an
alias that exists. -/
theorem State.refusal_none_aligned {s : State} {a : Access} {u : UnitKind} {i off : Nat} (h : s.refusal a u i off = none) :
    s.pathOk a.path a.priv.toNat = true ∧ s.privOk a.priv.toNat u i (aliasOf (off / 8 * 8)).1 a.write = true ∧ off % 4 = 0 ∧
      (a.size32 = false → off % 8 = 0) ∧
      (a.size32 = true → (aliasOf (off / 8 * 8)).2 = 0 ∧ half32 u (aliasOf (off / 8 * 8)).1 a.write = true) ∧
      ((aliasOf (off / 8 * 8)).2 ≠ 0 → hasAlias s.isTray u (aliasOf (off / 8 * 8)).1 = true) := by
  obtain ⟨h1, h2, h3, -⟩ := State.refusal_none h
  simp only [State.denied, h2, Bool.false_eq_true, if_false, Bool.or_eq_false_iff, Bool.not_eq_false'] at h1
  simp only [badWidth, Bool.or_eq_false_iff, decide_eq_false_iff_not, ne_eq, Decidable.not_not] at h3
  simp only [State.badAlias] at h2
  refine ⟨h1.1.1, h1.1.2, h3.1.1, ?_, ?_, ?_⟩
  · intro k; have := h3.1.2; simp only [k] at this; simpa using this
  · intro k; have := h3.2; simp only [k] at this; simpa using this
  · intro k; simp only [Bool.and_eq_false_iff, Bool.not_eq_false'] at h2
    rcases h2 with h2 | h2
    · simp only [bne_eq_false_iff_eq] at h2; exact absurd h2 k
    · exact h2

/-- REGISTER_WRITE of an admitted access has the effect of its register. -/
theorem exec_registerWrite_admits {a : Access} {s : State} {u : UnitKind} {i : Nat}
    (h : pageUnit s.chip.role (a.addr.toNat / 4096) = some (u, i)) (k : s.admits a u i (a.addr.toNat % 4096)) :
    execRegisterWrite a s = .next ((s.accessEff a u i).finish a u i (a.addr.toNat % 4096)).settle := by
  unfold execRegisterWrite State.access
  rw [h]
  dsimp only
  rw [State.gate_admits k]

end Sys2Proof.Machine
end

