-- ==== Sys2Proof/Laws/Keeps1.lean ====
section
/-! SUPPORT. What the functions of Ops, Flags, Sources, Operands, Faults, Xfers, Eft, Pwr, Runs, Up, Lane, Tkp leave alone. -/

namespace Sys2Proof.Machine

@[simp] theorem State.setReg_keeps (s : State) (r : Reg) (i : Nat) (v : Sys2Proof.Word) : Keeps s (State.setReg s r i v) := by
  simp only [State.setReg, Keeps, and_self]
@[simp] theorem State.setFld_keeps (s : State) (f : Fld) (i : Nat) (v : Nat) : Keeps s (State.setFld s f i v) := by
  simp only [State.setFld, Keeps, and_self, State.setReg_keeps]
@[simp] theorem State.bump_keeps (s : State) (f : Fld) (i : Nat) (n : Nat) : Keeps s (State.bump s f i n) := by
  simp only [State.bump, Keeps, and_self, State.setFld_keeps]
@[simp] theorem State.bumpW_keeps (s : State) (f : Fld) (i : Nat) (n : Nat) : Keeps s (State.bumpW s f i n) := by
  simp only [State.bumpW, Keeps, and_self, State.setFld_keeps]
@[simp] theorem State.addReg_keeps (s : State) (r : Reg) (i : Nat) (n : Nat) : Keeps s (State.addReg s r i n) := by
  simp only [State.addReg, Keeps, and_self, State.setReg_keeps]
@[simp] theorem State.mark_keeps (s : State) (u : Sys2Proof.UnitKind) (i : Nat) : Keeps s (State.mark s u i) := by
  simp only [State.mark, Keeps, ite_keeps, ite_self, and_self, State.setFld_keeps]
@[simp] theorem State.unstage_keeps (s : State) (u : Sys2Proof.UnitKind) (i : Nat) : Keeps s (State.unstage s u i) := by
  simp only [State.unstage, Keeps, and_self, State.setReg_keeps]
@[simp] theorem State.resetRegs_keeps (s : State) (u : Sys2Proof.UnitKind) (i : Nat) : Keeps s (State.resetRegs s u i) := by
  simp only [State.resetRegs, Keeps, and_self]
@[simp] theorem State.item_keeps (s : State) (k : Nat) (n : Nat) : Keeps s (State.item s k n) := by
  simp only [State.item, Keeps, and_self]
@[simp] theorem State.bytes_keeps (s : State) (k : Nat) (n : Nat) : Keeps s (State.bytes s k n) := by
  simp only [State.bytes, Keeps, and_self]
@[simp] theorem State.ev_keeps (s : State) (u : Sys2Proof.UnitKind) (i : Nat) (e : Nat) (n : Nat) : Keeps s (State.ev s u i e n) := by
  simp only [State.ev, Keeps, and_self]
@[simp] theorem State.advance_keeps (s : State) (n : Nat) : Keeps s (State.advance s n) := by
  simp only [State.advance, Keeps, ite_keeps, ite_self, and_self, State.item_keeps, State.addReg_keeps]
@[simp] theorem State.reach_keeps (s : State) (e : Nat) : Keeps s (State.reach s e) := by
  simp only [State.reach, Keeps, and_self, State.advance_keeps]
@[simp] theorem State.fastStamp_keeps (s : State) : Keeps s (State.fastStamp s).2 := by
  simp only [State.fastStamp, Keeps, and_self]
@[simp] theorem State.reachTime_keeps (s : State) (u : Nat) : Keeps s (State.reachTime s u) := by
  simp only [State.reachTime, Keeps, and_self, State.advance_keeps]
@[simp] theorem State.reachBefore_keeps (s : State) (u : Nat) : Keeps s (State.reachBefore s u) := by
  simp only [State.reachBefore, Keeps, and_self, State.advance_keeps]
@[simp] theorem State.emit_keeps (s : State) (o : Out) : Keeps s (State.emit s o) := by
  simp only [State.emit, Keeps, and_self]
@[simp] theorem State.draw_keeps (s : State) : Keeps s (State.draw s).2 := by
  simp only [State.draw, Keeps, and_self]
@[simp] theorem State.freeBytes_keeps (s : State) (n : Nat) : Keeps s (State.freeBytes s n).2 := by
  simp only [State.freeBytes, Keeps, and_self]
@[simp] theorem State.pgErr_keeps (s : State) (u : Sys2Proof.UnitKind) (i : Nat) (f : ErrFlag) (off : Nat) (cause : Nat) : Keeps s (State.pgErr s u i f off cause) := by
  simp only [State.pgErr, Keeps, and_self, State.setReg_keeps]
@[simp] theorem State.setSrc_keeps (s : State) (n : Nat) (r : Src) : Keeps s (State.setSrc s n r) := by
  simp only [State.setSrc, Keeps, and_self]
@[simp] theorem State.answer_keeps (s : State) (c : Code) (d : Sys2Proof.Word) : Keeps s (State.answer s c d) := by
  simp only [State.answer, Keeps, and_self, State.item_keeps]
@[simp] theorem State.violation_keeps (s : State) (f : Fld) (c : Code) (a : Sys2Proof.Access) : Keeps s (State.violation s f c a) := by
  simp only [State.violation, Keeps, and_self, State.setReg_keeps, State.bump_keeps]
@[simp] theorem State.refuse_keeps (s : State) (a : Sys2Proof.Access) (u : Sys2Proof.UnitKind) (i : Nat) (off : Nat) (c : Code) (fs : List ErrFlag) : Keeps s (State.refuse s a u i off c fs) := by
  have h : Keeps s (fs.foldl (fun s f => s.pgErr u i f off) s) := by simp [Keeps, foldl_keeps]
  unfold State.refuse
  split
  · simp [Keeps, h]
  · simp [Keeps]
@[simp] theorem State.putOff_keeps (s : State) (a : Sys2Proof.Access) : Keeps s (State.putOff s a) := by
  simp only [State.putOff, Keeps, ite_keeps, ite_self, and_self]
@[simp] theorem State.okay_keeps (s : State) : Keeps s (State.okay s).st := by
  simp only [State.okay, Keeps, and_self]
@[simp] theorem State.gives_keeps (s : State) (d : Sys2Proof.Word) : Keeps s (State.gives s d).st := by
  simp only [State.gives, Keeps, and_self]
@[simp] theorem State.denies_keeps (s : State) : Keeps s (State.denies s).st := by
  simp only [State.denies, Keeps, and_self]
@[simp] theorem AccOut.finish_keeps (o : AccOut) (a : Access) (u : UnitKind) (i off : Nat) :
    ((o.finish a u i off).chip = o.st.chip) ∧
    ((o.finish a u i off).pending = o.st.pending) ∧
    ((o.finish a u i off).sram = o.st.sram) ∧
    ((o.finish a u i off).hbm = o.st.hbm) := by
  refine ⟨?_, ?_, ?_, ?_⟩ <;> simp [AccOut.finish, ite_keeps]
@[simp] theorem State.gate_keeps {s : State} {a : Access} {u : UnitKind} {i off : Nat} {eff : State → AccOut} :
    ((∀ t, (eff t).st.chip = t.chip) → (s.gate a u i off eff).chip = s.chip) ∧
    ((∀ t, (eff t).st.pending = t.pending) → (s.gate a u i off eff).pending = s.pending) ∧
    ((∀ t, (eff t).st.sram = t.sram) → (s.gate a u i off eff).sram = s.sram) ∧
    ((∀ t, (eff t).st.hbm = t.hbm) → (s.gate a u i off eff).hbm = s.hbm) := by
  refine ⟨?_, ?_, ?_, ?_⟩ <;> intro h <;> (unfold State.gate; (repeat' split) <;> simp [h])
@[simp] theorem State.rowWrite_keeps {s : State} {q : Req} {u : UnitKind} {i off : Nat} {d : Word} {eff : State → AccOut} :
    ((∀ t, (eff t).st.chip = t.chip) → (s.rowWrite q u i off d eff).chip = s.chip) ∧
    ((∀ t, (eff t).st.pending = t.pending) → (s.rowWrite q u i off d eff).pending = s.pending) ∧
    ((∀ t, (eff t).st.sram = t.sram) → (s.rowWrite q u i off d eff).sram = s.sram) ∧
    ((∀ t, (eff t).st.hbm = t.hbm) → (s.rowWrite q u i off d eff).hbm = s.hbm) := by
  refine ⟨?_, ?_, ?_, ?_⟩ <;> intro h <;> simp [State.rowWrite, h]
@[simp] theorem State.rowRead_keeps {s : State} {q : Req} {u : UnitKind} {i off : Nat} {eff : State → AccOut} :
    ((∀ t, (eff t).st.chip = t.chip) → (s.rowRead q u i off eff).chip = s.chip) ∧
    ((∀ t, (eff t).st.pending = t.pending) → (s.rowRead q u i off eff).pending = s.pending) ∧
    ((∀ t, (eff t).st.sram = t.sram) → (s.rowRead q u i off eff).sram = s.sram) ∧
    ((∀ t, (eff t).st.hbm = t.hbm) → (s.rowRead q u i off eff).hbm = s.hbm) := by
  refine ⟨?_, ?_, ?_, ?_⟩ <;> intro h <;> simp [State.rowRead, h]
@[simp] theorem State.plainWrite_keeps {s : State} {u : UnitKind} {i off al : Nat} {d : Word} {commit : State → State} :
    ((∀ t, (commit t).chip = t.chip) → (s.plainWrite u i off al d commit).chip = s.chip) ∧
    ((∀ t, (commit t).pending = t.pending) → (s.plainWrite u i off al d commit).pending = s.pending) ∧
    ((∀ t, (commit t).sram = t.sram) → (s.plainWrite u i off al d commit).sram = s.sram) ∧
    ((∀ t, (commit t).hbm = t.hbm) → (s.plainWrite u i off al d commit).hbm = s.hbm) := by
  refine ⟨?_, ?_, ?_, ?_⟩ <;> intro h <;> (unfold State.plainWrite; (repeat' split) <;> simp [ite_keeps, h])
@[simp] theorem State.setData_keeps (s : State) (u : UnitKind) (i k : Nat) (ws : List Word) : Keeps s (s.setData u i k ws) := by
  induction ws generalizing s k with
  | nil => exact ⟨rfl, rfl, rfl, rfl⟩
  | cons w l ih => have := ih (s.setReg ((Rg.TBL_DATA u).nth k) i w) (k + 1); simp_all [Keeps, State.setData]
@[simp] theorem State.win_keeps (s : State) (res : Nat) (idx : Nat) : Keeps s (State.win s res idx).st := by
  simp only [State.win, Keeps, and_self]
@[simp] theorem State.winData_keeps (s : State) (ws : List Sys2Proof.Word) (idx : Nat) : Keeps s (State.winData s ws idx).st := by
  simp only [State.winData, Keeps, and_self]
@[simp] theorem State.winBusy_keeps (s : State) : Keeps s (State.winBusy s).st := by
  simp only [State.winBusy, Keeps, and_self]
@[simp] theorem WinOut.show_keeps (o : WinOut) (u : UnitKind) (i : Nat) :
    ((o.show u i).chip = o.st.chip) ∧
    ((o.show u i).pending = o.st.pending) ∧
    ((o.show u i).sram = o.st.sram) ∧
    ((o.show u i).hbm = o.st.hbm) := by
  refine ⟨?_, ?_, ?_, ?_⟩ <;> (unfold WinOut.show; split <;> simp)
@[simp] theorem State.winBlocked_keeps (s : State) (u : Sys2Proof.UnitKind) (i : Nat) (off : Nat) : Keeps s (State.winBlocked s u i off).st := by
  simp only [State.winBlocked, Keeps, and_self, State.okay_keeps, State.pgErr_keeps]
@[simp] theorem State.winRun_keeps {s : State} {u : UnitKind} {i : Nat} {d : Word} {body : State → WinOut} :
    ((∀ t, (body t).st.chip = t.chip) → (s.winRun u i d body).st.chip = s.chip) ∧
    ((∀ t, (body t).st.pending = t.pending) → (s.winRun u i d body).st.pending = s.pending) ∧
    ((∀ t, (body t).st.sram = t.sram) → (s.winRun u i d body).st.sram = s.sram) ∧
    ((∀ t, (body t).st.hbm = t.hbm) → (s.winRun u i d body).st.hbm = s.hbm) := by
  refine ⟨?_, ?_, ?_, ?_⟩ <;> intro h <;> (unfold State.winRun; (repeat' split) <;> simp [ite_keeps, h])
@[simp] theorem State.winCmd_keeps {s : State} {q : Req} {u : UnitKind} {i table op index : Nat} {body : State → WinOut} :
    ((∀ t, (body t).st.chip = t.chip) → (s.winCmd q u i table op index body).chip = s.chip) ∧
    ((∀ t, (body t).st.pending = t.pending) → (s.winCmd q u i table op index body).pending = s.pending) ∧
    ((∀ t, (body t).st.sram = t.sram) → (s.winCmd q u i table op index body).sram = s.sram) ∧
    ((∀ t, (body t).st.hbm = t.hbm) → (s.winCmd q u i table op index body).hbm = s.hbm) := by
  refine ⟨?_, ?_, ?_, ?_⟩ <;> intro h <;> simp [State.winCmd, h]
@[simp] theorem State.winEnd_keeps (s : State) (u : Sys2Proof.UnitKind) (i : Nat) (res : Nat) (idx : Nat) : Keeps s (State.winEnd s u i res idx) := by
  simp only [State.winEnd, Keeps, and_self, WinOut.show_keeps, State.win_keeps]
@[simp] theorem State.pend_keeps (s : State) (g : Nat) (m : Sys2Proof.Word) : Keeps s (State.pend s g m) := by
  simp only [State.pend, Keeps, ite_keeps, ite_self, and_self, State.setReg_keeps, State.bump_keeps]
@[simp] theorem State.pendBit_keeps (s : State) (g : Nat) (b : Nat) : Keeps s (State.pendBit s g b) := by
  simp only [State.pendBit, Keeps, and_self, State.pend_keeps]
@[simp] theorem State.level_keeps (s : State) (g : Nat) : Keeps s (State.level s g) := by
  simp only [State.level, Keeps, ite_keeps, ite_self, and_self, State.pend_keeps]
@[simp] theorem State.evrPut_keeps (s : State) (r : EvrRec) : Keeps s (State.evrPut s r) := by
  simp only [State.evrPut, Keeps, ite_keeps, ite_self, and_self, State.item_keeps, State.setFld_keeps, State.bump_keeps, State.bumpW_keeps]
@[simp] theorem State.evrWrite_keeps (s : State) (key : Nat) (code : Nat) (source : Nat) (detail : Bytes) (exempt : Bool) : Keeps s (State.evrWrite s key code source detail exempt) := by
  unfold State.evrWrite
  (repeat' split) <;> simp only [Keeps, and_self, State.bump_keeps, State.level_keeps, State.evrPut_keeps]
@[simp] theorem State.event_keeps (s : State) (code : Nat) (detail : Bytes) (exempt : Bool) : Keeps s (State.event s code detail exempt) := by
  simp only [State.event, Keeps, and_self, State.evrWrite_keeps]
@[simp] theorem State.nvLog_keeps (s : State) (kind : Nat) (unit : Nat) (detail : BitVec 32) (data : BitVec 32) : Keeps s (State.nvLog s kind unit detail data) := by
  simp only [State.nvLog, Keeps, ite_keeps, ite_self, and_self, State.bump_keeps]
@[simp] theorem State.htpFlush_keeps (s : State) : Keeps s (State.htpFlush s) := by
  simp only [State.htpFlush, Keeps, and_self]
@[simp] theorem State.htpStopped_keeps (s : State) : Keeps s (State.htpStopped s) := by
  simp only [State.htpStopped, Keeps, and_self, State.pendBit_keeps, State.htpFlush_keeps]
@[simp] theorem State.htpStop_keeps (s : State) : Keeps s (State.htpStop s) := by
  simp only [State.htpStop, Keeps, ite_keeps, ite_self, and_self, State.htpStopped_keeps]
@[simp] theorem State.htpStart_keeps (s : State) : Keeps s (State.htpStart s) := by
  simp only [State.htpStart, Keeps, ite_keeps, ite_self, and_self, State.htpStop_keeps]
@[simp] theorem State.ringTrigger_keeps (s : State) (r : Nat) (g : Ring) (cause : Nat) (t : Nat) : Keeps s (State.ringTrigger s r g cause t) := by
  simp only [State.ringTrigger, Keeps, ite_keeps, ite_self, and_self, State.bump_keeps, State.setReg_keeps, State.pendBit_keeps, State.htpStart_keeps, State.htpStop_keeps]
@[simp] theorem State.ringCause_keeps (s : State) (r : Nat) (g : Ring) (cause : Nat) : Keeps s (State.ringCause s r g cause) := by
  simp only [State.ringCause, Keeps, ite_keeps, ite_self, and_self, State.setReg_keeps]
@[simp] theorem State.capTrigger_keeps (s : State) (r : Nat) (cause : Nat) : Keeps s (State.capTrigger s r cause) := by
  unfold State.capTrigger
  split
  · rename_i y0_0 y0_1
    simp only [Keeps, and_self]
  · rename_i y0_0 y0_1 y0_2
    simp only [Keeps, ite_keeps, ite_self, and_self, State.ringCause_keeps, State.fastStamp_keeps, State.ringTrigger_keeps, State.bump_keeps]
@[simp] theorem State.capFault_keeps (s : State) (level : Nat) : Keeps s (State.capFault s level) := by
  simp only [State.capFault, Keeps, ite_keeps, foldl_keeps, ite_self, and_self, implies_true, State.capTrigger_keeps]
@[simp] theorem State.capVerdict_keeps (s : State) (vcode : Nat) : Keeps s (State.capVerdict s vcode) := by
  simp only [State.capVerdict, Keeps, ite_keeps, foldl_keeps, ite_self, and_self, implies_true, State.capTrigger_keeps]
@[simp] theorem State.setWell_keeps (s : State) (w : Nat) (x : Well) : Keeps s (State.setWell s w x) := by
  simp only [State.setWell, Keeps, and_self]
@[simp] theorem State.mapGathers_keeps (s : State) (w : Nat) (f : Gather → Gather) : Keeps s (State.mapGathers s w f) := by
  simp only [State.mapGathers, Keeps, and_self]
@[simp] theorem State.giveStale_keeps (s : State) (w : Nat) : Keeps s (State.giveStale s w) := by
  simp only [State.giveStale, Keeps, and_self, State.mapGathers_keeps]
@[simp] theorem State.welAbandon_keeps (s : State) (w : Nat) : Keeps s (State.welAbandon s w) := by
  simp only [State.welAbandon, Keeps, ite_keeps, ite_self, and_self, State.giveStale_keeps, State.setWell_keeps]
@[simp] theorem State.enterHold_keeps (s : State) : Keeps s (State.enterHold s) := by
  simp only [State.enterHold, Keeps, and_self, State.setFld_keeps]
@[simp] theorem State.voteDown_keeps (s : State) (v : Sys2Proof.Voter) : Keeps s (State.voteDown s v) := by
  simp only [State.voteDown, Keeps, ite_keeps, ite_self, and_self, State.setReg_keeps, State.enterHold_keeps]
@[simp] theorem State.unitHeld_keeps (s : State) (u : Sys2Proof.UnitKind) (i : Nat) : Keeps s (State.unitHeld s u i) := by
  unfold State.unitHeld
  (repeat' split) <;> simp only [Keeps, and_self, State.welAbandon_keeps, State.voteDown_keeps]
@[simp] theorem State.enterFaulted_keeps (s : State) (n : Nat) : Keeps s (State.enterFaulted s n) := by
  simp only [State.enterFaulted, Keeps, ite_keeps, foldl_keeps, ite_self, and_self, implies_true, State.unitHeld_keeps, State.setReg_keeps, State.event_keeps, State.pendBit_keeps]
@[simp] theorem State.applyLevel_keeps (s : State) (n : Nat) (u : Sys2Proof.UnitKind) (i : Nat) (lev : Nat) (code : Option Nat) : Keeps s (State.applyLevel s n u i lev code) := by
  simp only [State.applyLevel, Keeps, ite_keeps, ite_self, and_self, State.pend_keeps, State.unitHeld_keeps, State.setSrc_keeps, State.nvLog_keeps, State.enterFaulted_keeps]
@[simp] theorem State.record_keeps (s : State) (n : Nat) (detail : BitVec 32) (code : Option Nat) : Keeps s (State.record s n detail code) := by
  unfold State.record
  lift_lets
  intro x0 x1 x2
  clear_value x2
  intro x3 x4
  split
  · rename_i y5_0 y5_1
    simp only [Keeps, and_self]
  · rename_i y5_0 y5_1 y5_2 y5_3 y5_4
    lift_lets
    intro x6
    have h6 : Keeps s x6 := by
        unfold x6
        split
        · rename_i y7_0 y7_1 y7_2
          simp only [Keeps, and_self]
        · rename_i y7_0 y7_1
          simp only [Keeps, and_self]
    clear_value x6
    intro x7
    clear_value x7
    intro x8
    clear_value x8
    intro x9
    have h9 : Keeps s x9 := by simp only [x9, Keeps, and_self, h6, State.setSrc_keeps, State.setReg_keeps]
    clear_value x9
    simp only [Keeps, ite_keeps, ite_self, and_self, h9, h6, State.bump_keeps, State.setSrc_keeps, State.setReg_keeps, State.item_keeps, State.evrWrite_keeps, State.pendBit_keeps, State.capFault_keeps, State.applyLevel_keeps]
@[simp] theorem State.faultD_keeps (s : State) (u : Sys2Proof.UnitKind) (i : Nat) (l : Nat) (detail : BitVec 32) (code : Option Nat) : Keeps s (State.faultD s u i l detail code) := by
  unfold State.faultD
  split
  · rename_i y0_0 y0_1 y0_2
    simp [Keeps, and_self]
  · rename_i y0_0 y0_1
    simp only [Keeps, and_self]
@[simp] theorem State.fault_keeps (s : State) (u : Sys2Proof.UnitKind) (i : Nat) (l : Nat) (code : Option Nat) : Keeps s (State.fault s u i l code) := by
  simp only [State.fault, Keeps, and_self, State.draw_keeps, State.faultD_keeps]
@[simp] theorem State.fqEnter_keeps (s : State) (l : List FqEnt) : Keeps s (State.fqEnter s l).2 := by
  induction l generalizing s with
  | nil => exact ⟨rfl, rfl, rfl, rfl⟩
  | cons e es ih =>
    unfold State.fqEnter
    have h := ih s
    (repeat' split) <;> simp_all [Keeps]
@[simp] theorem State.fqSettle_keeps (s : State) : Keeps s (State.fqSettle s) := by
  simp only [State.fqSettle, Keeps, and_self, State.fqEnter_keeps]
@[simp] theorem State.fqRefill_keeps (s : State) (n : Nat) : Keeps s (State.fqRefill s n) := by
  induction n generalizing s with
  | zero => exact ⟨rfl, rfl, rfl, rfl⟩
  | succ n ih => have h := ih s.fqSettle; simp_all [Keeps, State.fqRefill]
@[simp] theorem State.fqRemove_keeps (s : State) (p : FqEnt → Bool) : Keeps s (State.fqRemove s p) := by
  simp only [State.fqRemove, Keeps, and_self, State.fqRefill_keeps]
@[simp] theorem State.fqAdd_keeps (s : State) (e : FqEnt) : Keeps s (State.fqAdd s e) := by
  simp only [State.fqAdd, Keeps, ite_keeps, ite_self, and_self, State.bump_keeps, State.fqSettle_keeps]
@[simp] theorem State.dropXfer_keeps (s : State) (client : Nat) (inst : Nat) : Keeps s (State.dropXfer s client inst) := by
  simp only [State.dropXfer, Keeps, and_self]
@[simp] theorem State.beginRanges_keeps (s : State) (client : Nat) (inst : Nat) (ch : Nat) (ctx : Nat) (ranges : List (Nat × Nat)) (write : Bool) (data : Bytes) (lastly : Bool) : Keeps s (State.beginRanges s client inst ch ctx ranges write data lastly) := by
  simp only [State.beginRanges, Keeps, and_self, State.dropXfer_keeps]
@[simp] theorem State.beginRead_keeps (s : State) (client : Nat) (inst : Nat) (ch : Nat) (ctx : Nat) (va : Nat) (len : Nat) : Keeps s (State.beginRead s client inst ch ctx va len) := by
  simp only [State.beginRead, Keeps, and_self, State.beginRanges_keeps]
@[simp] theorem State.beginWrite_keeps (s : State) (client : Nat) (inst : Nat) (ch : Nat) (ctx : Nat) (va : Nat) (data : Bytes) : Keeps s (State.beginWrite s client inst ch ctx va data) := by
  simp only [State.beginWrite, Keeps, and_self, State.beginRanges_keeps]
@[simp] theorem State.endXfer_keeps (s : State) (client : Nat) (inst : Nat) : Keeps s (State.endXfer s client inst) := by
  simp only [State.endXfer, Keeps, and_self, State.fqRemove_keeps, State.dropXfer_keeps]
@[simp] theorem State.modXfer_keeps (s : State) (client : Nat) (inst : Nat) (f : Xfer → Xfer) : Keeps s (State.modXfer s client inst f) := by
  simp only [State.modXfer, Keeps, and_self]
@[simp] theorem State.setChan_keeps (s : State) (c : Nat) (v : Chan) : Keeps s (State.setChan s c v) := by
  simp only [State.setChan, Keeps, and_self]
@[simp] theorem State.tagMark_keeps (s : State) (n : Nat) : Keeps s (State.tagMark s n) := by
  simp only [State.tagMark, Keeps, and_self, State.setFld_keeps]
@[simp] theorem State.tlbUse_keeps (s : State) (ctx : Nat) (va : Nat) : Keeps s (State.tlbUse s ctx va) := by
  simp only [State.tlbUse, Keeps, and_self, State.ev_keeps, State.bumpW_keeps]
@[simp] theorem State.tlbPut_keeps (s : State) (t : TlbEnt) : Keeps s (State.tlbPut s t) := by
  simp only [State.tlbPut, Keeps, and_self]
@[simp] theorem State.hostPut_keeps (s : State) (ctx : Nat) (va : Nat) (b : Bytes) : Keeps s (State.hostPut s ctx va b) := by
  simp only [State.hostPut, Keeps, ite_keeps, ite_self, and_self, State.emit_keeps]
@[simp] theorem State.hostGet_keeps (s : State) (ctx : Nat) (va : Nat) (n : Nat) : Keeps s (State.hostGet s ctx va n) := by
  simp only [State.hostGet, Keeps, ite_keeps, ite_self, and_self, State.emit_keeps]
@[simp] theorem State.eftCount_keeps (s : State) : Keeps s (State.eftCount s) := by
  simp only [State.eftCount, Keeps, ite_keeps, ite_self, and_self, State.ev_keeps, State.draw_keeps, State.bumpW_keeps]
@[simp] theorem State.eftSet_keeps (s : State) (new : Bool) (p : Nat) (e : EftEnt) : Keeps s (State.eftSet s new p e) := by
  simp only [State.eftSet, Keeps, and_self]
@[simp] theorem State.eftDrop_keeps (s : State) (new : Bool) (p : Nat) : Keeps s (State.eftDrop s new p) := by
  simp only [State.eftDrop, Keeps, and_self]
@[simp] theorem State.eftWrote_keeps (s : State) (k : Nat) : Keeps s (State.eftWrote s k) := by
  simp only [State.eftWrote, Keeps, ite_keeps, ite_self, and_self]
@[simp] theorem State.eftInsert_keeps (s : State) (e : EftEnt) : Keeps s (State.eftInsert s e).1 := by
  unfold State.eftInsert
  (repeat' split) <;> simp only [Keeps, and_self, State.bumpW_keeps, State.ev_keeps, State.setFld_keeps, State.fault_keeps, State.bump_keeps]
@[simp] theorem State.eftEcc_keeps (s : State) (new : Bool) (p : Nat) : Keeps s (State.eftEcc s new p) := by
  simp only [State.eftEcc, Keeps, and_self, State.fault_keeps, State.bump_keeps, State.eftDrop_keeps]
@[simp] theorem State.eftGet_keeps (s : State) (k : Nat) (ecc : Bool) : Keeps s (State.eftGet s k ecc).1 := by
  unfold State.eftGet
  lift_lets
  intro x0
  have h0 : Keeps s x0 := by simp only [x0, Keeps, and_self, State.eftCount_keeps]
  clear_value x0
  split
  · rename_i y1_0 y1_1
    simp only [Keeps, and_self, h0]
  · rename_i y1_0 y1_1 y1_2 y1_3 y1_4
    simp only [Keeps, ite_keeps, ite_self, and_self, h0, State.eftEcc_keeps]
@[simp] theorem State.eftHit_keeps (s : State) (k : Nat) : Keeps s (State.eftHit s k) := by
  unfold State.eftHit
  (repeat' split) <;> simp only [Keeps, and_self, State.eftEcc_keeps]
@[simp] theorem eftRead_keeps (k : Nat) (ecc : Bool) (s : State) : Keeps s (eftRead k ecc s).st := by
  unfold eftRead
  split
  · rename_i y0_0 y0_1 y0_2 y0_3 y0_4
    have ky0_4 := congrArg (fun p => p.1) y0_4; dsimp only at ky0_4; subst ky0_4
    simp only [Keeps, and_self, State.eftGet_keeps]
  · rename_i y0_0 y0_1 y0_2
    have ky0_2 := congrArg (fun p => p.1) y0_2; dsimp only at ky0_2; subst ky0_2
    simp only [Keeps, and_self, State.eftGet_keeps]
@[simp] theorem eftWrite_keeps (k : Nat) (opt : Nat) (m : Bytes) (ecc : Bool) (s : State) : Keeps s (eftWrite k opt m ecc s).st := by
  unfold eftWrite
  lift_lets
  intro x0
  clear_value x0
  intro x1
  have h1 : Keeps s x1 := by simp only [x1, Keeps, and_self, State.eftCount_keeps]
  clear_value x1
  split
  · rename_i y2_0
    lift_lets
    intro x3
    clear_value x3
    intro x4
    clear_value x4
    intro x5
    have h5 : Keeps s x5 := by simp only [x5, Keeps, ite_keeps, ite_self, and_self, h1, State.eftHit_keeps]
    clear_value x5
    split
    · rename_i y6_0
      simp only [Keeps, and_self, h1]
    · rename_i y6_0
      split
      · rename_i y7_0 y7_1 y7_2 y7_3 y7_4
        simp only [Keeps, ite_keeps, ite_self, and_self, h5, State.eftWrote_keeps, State.eftSet_keeps]
      · rename_i y7_0 y7_1
        split
        · rename_i y8_0
          simp only [Keeps, and_self, h5]
        · rename_i y8_0
          split
          · rename_i y9_0 y9_1 y9_2 y9_3
            have ky9_3 := congrArg (fun p => p.1) y9_3; dsimp only at ky9_3; subst ky9_3
            simp only [Keeps, and_self, h5, State.eftWrote_keeps, State.eftInsert_keeps]
          · rename_i y9_0 y9_1 y9_2
            have ky9_2 := congrArg (fun p => p.1) y9_2; dsimp only at ky9_2; subst ky9_2
            simp only [Keeps, and_self, h5, State.eftInsert_keeps]
  · rename_i y2_0
    lift_lets
    intro x3
    clear_value x3
    intro x4
    clear_value x4
    intro x5
    have h5 : Keeps s x5 := by simp only [x5, Keeps, ite_keeps, ite_self, and_self, h1, State.eftHit_keeps]
    clear_value x5
    split
    · rename_i y6_0
      simp only [Keeps, and_self, h1]
    · rename_i y6_0
      split
      · rename_i y7_0 y7_1 y7_2 y7_3 y7_4
        simp only [Keeps, ite_keeps, ite_self, and_self, h5, State.eftWrote_keeps, State.eftSet_keeps]
      · rename_i y7_0 y7_1
        split
        · rename_i y8_0
          simp only [Keeps, and_self, h5]
        · rename_i y8_0
          split
          · rename_i y9_0 y9_1 y9_2 y9_3
            have ky9_3 := congrArg (fun p => p.1) y9_3; dsimp only at ky9_3; subst ky9_3
            simp only [Keeps, and_self, h5, State.eftWrote_keeps, State.eftInsert_keeps]
          · rename_i y9_0 y9_1 y9_2
            have ky9_2 := congrArg (fun p => p.1) y9_2; dsimp only at ky9_2; subst ky9_2
            simp only [Keeps, and_self, h5, State.eftInsert_keeps]
@[simp] theorem eftDelete_keeps (k : Nat) (ecc : Bool) (s : State) : Keeps s (eftDelete k ecc s).st := by
  unfold eftDelete
  lift_lets
  intro x0
  have h0 : Keeps s x0 := by simp only [x0, Keeps, and_self, State.eftCount_keeps]
  clear_value x0
  split
  · rename_i y1_0
    lift_lets
    intro x2
    have h2 : Keeps s x2 := by simp only [x2, Keeps, and_self, h0, State.eftHit_keeps]
    clear_value x2
    split
    · rename_i y3_0 y3_1 y3_2 y3_3 y3_4
      simp only [Keeps, and_self, h2, State.eftDrop_keeps]
    · rename_i y3_0 y3_1
      simp only [Keeps, and_self, h2]
  · rename_i y1_0
    lift_lets
    intro x2
    have h2 : Keeps s x2 := by simp only [x2, Keeps, and_self, h0]
    clear_value x2
    split
    · rename_i y3_0 y3_1 y3_2 y3_3 y3_4
      simp only [Keeps, and_self, h2, State.eftDrop_keeps]
    · rename_i y3_0 y3_1
      simp only [Keeps, and_self, h2]
@[simp] theorem eftReadPos_keeps (p : Nat) (ecc : Bool) (s : State) : Keeps s (eftReadPos p ecc s).st := by
  unfold eftReadPos
  lift_lets
  intro x0
  have h0 : Keeps s x0 := by simp only [x0, Keeps, and_self, State.eftCount_keeps]
  clear_value x0
  split
  · rename_i y1_0
    simp only [Keeps, and_self]
  · rename_i y1_0
    split
    · rename_i y2_0 y2_1 y2_2
      simp only [Keeps, ite_keeps, ite_self, and_self, h0, State.eftEcc_keeps]
    · rename_i y2_0 y2_1
      simp only [Keeps, and_self, h0]
@[simp] theorem eftPurge_keeps (gen : Nat) (by_ : EftBy) (s : State) : Keeps s (eftPurge gen by_ s) := by
  simp only [eftPurge, Keeps, and_self]
@[simp] theorem State.eftPurgeAll_keeps (s : State) (gen : Nat) : Keeps s (State.eftPurgeAll s gen) := by
  simp only [State.eftPurgeAll, Keeps, and_self, State.bump_keeps]
@[simp] theorem EftOut.win_keeps (o : EftOut) :
    (o.win.st.chip = o.st.chip) ∧
    (o.win.st.pending = o.st.pending) ∧
    (o.win.st.sram = o.st.sram) ∧
    (o.win.st.hbm = o.st.hbm) := by
  refine ⟨?_, ?_, ?_, ?_⟩ <;> (unfold EftOut.win; split <;> simp)
@[simp] theorem eftReadWin_keeps (ecc : Bool) (s : State) : Keeps s (eftReadWin ecc s).st := by
  simp only [eftReadWin, Keeps, and_self, EftOut.win_keeps, eftRead_keeps]
@[simp] theorem eftWriteWin_keeps (ecc : Bool) (s : State) : Keeps s (eftWriteWin ecc s).st := by
  simp only [eftWriteWin, Keeps, and_self, EftOut.win_keeps, eftWrite_keeps]
@[simp] theorem eftDeleteWin_keeps (ecc : Bool) (s : State) : Keeps s (eftDeleteWin ecc s).st := by
  simp only [eftDeleteWin, Keeps, and_self, EftOut.win_keeps, eftDelete_keeps]
@[simp] theorem eftReadPosWin_keeps (idx : Nat) (ecc : Bool) (s : State) : Keeps s (eftReadPosWin idx ecc s).st := by
  simp only [eftReadPosWin, Keeps, and_self, EftOut.win_keeps, eftReadPos_keeps]
@[simp] theorem eftPurgeWin_keeps (s : State) : Keeps s (eftPurgeWin s).st := by
  simp only [eftPurgeWin, Keeps, and_self, State.winBusy_keeps, eftPurge_keeps]
@[simp] theorem eftSnapshotWin_keeps (s : State) : Keeps s (eftSnapshotWin s).st := by
  simp only [eftSnapshotWin, Keeps, ite_keeps, ite_self, and_self, State.win_keeps, State.winBusy_keeps, State.beginRanges_keeps]
@[simp] theorem eftSnapshotDone_keeps (s : State) : Keeps s (eftSnapshotDone s) := by
  unfold eftSnapshotDone
  (repeat' split) <;> simp only [Keeps, and_self, State.winEnd_keeps, State.endXfer_keeps]
@[simp] theorem eftFeedRead_keeps (idx : Nat) (s : State) : Keeps s (eftFeedRead idx s).st := by
  unfold eftFeedRead
  (repeat' split) <;> simp only [Keeps, and_self, State.win_keeps, State.winData_keeps]
@[simp] theorem eftFeedWrite_keeps (idx : Nat) (s : State) : Keeps s (eftFeedWrite idx s).st := by
  simp only [eftFeedWrite, Keeps, ite_keeps, ite_self, and_self, State.win_keeps]
@[simp] theorem eftSweepDone_keeps (s : State) : Keeps s (eftSweepDone s) := by
  simp only [eftSweepDone, Keeps, ite_keeps, ite_self, and_self, State.bump_keeps]
@[simp] theorem State.eftBoundary_keeps (s : State) : Keeps s (State.eftBoundary s) := by
  simp only [State.eftBoundary, Keeps, ite_keeps, ite_self, and_self]
@[simp] theorem State.eftReplace_keeps (s : State) : Keeps s (State.eftReplace s) := by
  simp only [State.eftReplace, Keeps, foldl_keeps, and_self, implies_true, State.eftInsert_keeps]
@[simp] theorem State.eftCommit_keeps (s : State) : Keeps s (State.eftCommit s) := by
  simp only [State.eftCommit, Keeps, ite_keeps, ite_self, and_self, State.eftReplace_keeps]
@[simp] theorem eftRehashDone_keeps (lost : List Sys2Proof.Word) (s : State) : Keeps s (eftRehashDone lost s) := by
  simp only [eftRehashDone, Keeps, ite_keeps, foldl_keeps, ite_self, and_self, implies_true, State.eftReplace_keeps, State.eftHit_keeps]
@[simp] theorem State.feedEntry_keeps (s : State) (leaf : Nat) (gen : Nat) (field : Nat → Int) (lost : List Sys2Proof.Word) (cls : Nat) : Keeps s (State.feedEntry s leaf gen field lost cls) := by
  unfold State.feedEntry
  lift_lets
  intro x0
  clear_value x0
  intro x1
  clear_value x1
  intro x2
  clear_value x2
  intro x3
  have h3 : Keeps s x3 := by simp only [x3, Keeps, and_self, State.eftCount_keeps]
  clear_value x3
  split
  · rename_i y4_0
    lift_lets
    intro x5
    have h5 : Keeps s x5 := by simp only [x5, Keeps, and_self, h3, State.eftHit_keeps]
    clear_value x5
    split
    · rename_i y6_0 y6_1 y6_2 y6_3 y6_4
      lift_lets
      intro x7
      clear_value x7
      simp only [Keeps, and_self, h5, State.eftWrote_keeps, State.eftSet_keeps]
    · rename_i y6_0 y6_1
      lift_lets
      intro x7
      clear_value x7
      simp only [Keeps, and_self, h5, State.eftWrote_keeps, State.eftInsert_keeps]
  · rename_i y4_0
    lift_lets
    intro x5
    have h5 : Keeps s x5 := by simp only [x5, Keeps, and_self, h3]
    clear_value x5
    split
    · rename_i y6_0 y6_1 y6_2 y6_3 y6_4
      lift_lets
      intro x7
      clear_value x7
      simp only [Keeps, and_self, h5, State.eftWrote_keeps, State.eftSet_keeps]
    · rename_i y6_0 y6_1
      lift_lets
      intro x7
      clear_value x7
      simp only [Keeps, and_self, h5, State.eftWrote_keeps, State.eftInsert_keeps]
@[simp] theorem State.feedRecord_keeps (s : State) (leaf : Nat) (gen : Nat) (field : Nat → Int) (lost : List Sys2Proof.Word) : Keeps s (State.feedRecord s leaf gen field lost) := by
  simp only [State.feedRecord, Keeps, foldl_keeps, and_self, implies_true, State.feedEntry_keeps]
@[simp] theorem eftReset_keeps (s : State) : Keeps s (eftReset s) := by
  simp only [eftReset, Keeps, and_self, State.eftCommit_keeps, State.endXfer_keeps]
@[simp] theorem State.startPriming_keeps (s : State) : Keeps s (State.startPriming s) := by
  simp only [State.startPriming, Keeps, ite_keeps, ite_self, and_self, State.setFld_keeps]
@[simp] theorem State.tryPriming_keeps (s : State) : Keeps s (State.tryPriming s) := by
  simp only [State.tryPriming, Keeps, ite_keeps, ite_self, and_self, State.startPriming_keeps]
@[simp] theorem State.applyVid_keeps (s : State) : Keeps s (State.applyVid s) := by
  simp only [State.applyVid, Keeps, ite_keeps, ite_self, and_self]
@[simp] theorem State.voteUp_keeps (s : State) (v : Sys2Proof.Voter) : Keeps s (State.voteUp s v) := by
  simp only [State.voteUp, Keeps, ite_keeps, ite_self, and_self, State.setReg_keeps, State.setFld_keeps, State.tryPriming_keeps]
@[simp] theorem State.coresSleep_keeps (s : State) : Keeps s (State.coresSleep s) := by
  simp only [State.coresSleep, Keeps, ite_keeps, foldl_keeps, ite_self, and_self, implies_true, State.endXfer_keeps]
@[simp] theorem State.coresWake_keeps (s : State) : Keeps s (State.coresWake s) := by
  unfold State.coresWake
  dsimp only
  refine foldl_Keeps ⟨rfl, rfl, rfl, rfl⟩ fun t x => ?_
  split <;> simp [Keeps]
@[simp] theorem State.primeFailed_keeps (s : State) : Keeps s (State.primeFailed s) := by
  simp only [State.primeFailed, Keeps, ite_keeps, ite_self, and_self, State.bumpW_keeps, State.fault_keeps, State.setFld_keeps, State.applyVid_keeps, State.startPriming_keeps]
@[simp] theorem primingDone_keeps (s : State) : Keeps s (primingDone s) := by
  simp only [primingDone, Keeps, ite_keeps, ite_self, and_self, State.setFld_keeps, State.item_keeps, State.bumpW_keeps, State.coresWake_keeps, State.enterHold_keeps]
@[simp] theorem holdExpire_keeps (s : State) : Keeps s (holdExpire s) := by
  simp only [holdExpire, Keeps, ite_keeps, ite_self, and_self, State.reach_keeps, State.coresSleep_keeps, State.setFld_keeps]
@[simp] theorem unprimingDone_keeps (s : State) : Keeps s (unprimingDone s) := by
  simp only [unprimingDone, Keeps, ite_keeps, ite_self, and_self, State.tryPriming_keeps, State.applyVid_keeps, State.setFld_keeps]
@[simp] theorem fastVokAssert_keeps (s : State) : Keeps s (fastVokAssert s) := by
  simp only [fastVokAssert, Keeps, ite_keeps, ite_self, and_self]
@[simp] theorem primeTimeout_keeps (s : State) : Keeps s (primeTimeout s) := by
  simp only [primeTimeout, Keeps, ite_keeps, ite_self, and_self, State.primeFailed_keeps, State.reach_keeps]
@[simp] theorem fastVokTimeout_keeps (s : State) : Keeps s (fastVokTimeout s) := by
  unfold fastVokTimeout
  (repeat' split) <;> simp only [Keeps, and_self, State.primeFailed_keeps, State.reach_keeps]
@[simp] theorem pwrCtrlWrite_keeps (d : Sys2Proof.Word) (s : State) : Keeps s (pwrCtrlWrite d s) := by
  simp only [pwrCtrlWrite, Keeps, ite_keeps, ite_self, and_self, State.tryPriming_keeps, State.setFld_keeps]
@[simp] theorem swVoteWrite_keeps (d : Sys2Proof.Word) (s : State) : Keeps s (swVoteWrite d s) := by
  simp only [swVoteWrite, Keeps, ite_keeps, ite_self, and_self, State.setReg_keeps, State.voteUp_keeps, State.voteDown_keeps]
@[simp] theorem fastRailDroop_keeps (s : State) : Keeps s (fastRailDroop s) := by
  simp only [fastRailDroop, Keeps, ite_keeps, ite_self, and_self, State.fault_keeps]
@[simp] theorem pwrReset_keeps (old : State) (s : State) : Keeps s (pwrReset old s) := by
  simp only [pwrReset, Keeps, and_self, State.setFld_keeps, State.setReg_keeps, State.applyVid_keeps, State.voteDown_keeps]
@[simp] theorem State.logRun_keeps (s : State) (w : List Nat) : Keeps s (State.logRun s w) := by
  simp only [State.logRun, Keeps, and_self, State.fastStamp_keeps, State.setReg_keeps]
@[simp] theorem State.setMx_keeps (s : State) (e : Nat) (m : Mxe) : Keeps s (State.setMx s e m) := by
  simp only [State.setMx, Keeps, and_self]
@[simp] theorem State.scrEnded_keeps (s : State) (status : Nat) (cnt : List Nat) : Keeps s (State.scrEnded s status cnt) := by
  simp only [State.scrEnded, Keeps, and_self]
@[simp] theorem State.mxeEnd_keeps (s : State) (e : Nat) (r : MRun) (status : Nat) (code : Nat) : Keeps s (State.mxeEnd s e r status code) := by
  simp only [State.mxeEnd, Keeps, ite_keeps, ite_self, and_self, State.setReg_keeps, State.bump_keeps, State.scrEnded_keeps, State.setFld_keeps, State.logRun_keeps, State.pendBit_keeps]
@[simp] theorem State.mxeNext_keeps (s : State) (e : Nat) : Keeps s (State.mxeNext s e) := by
  unfold State.mxeNext
  lift_lets
  intro x0
  clear_value x0
  split
  · rename_i y1_0
    split
    · rename_i y2_0 y2_1
      simp only [Keeps, and_self]
    · rename_i y2_0 y2_1 y2_2
      simp only [Keeps, ite_keeps, ite_self, and_self, State.setMx_keeps]
  · rename_i y1_0
    simp only [Keeps, and_self]
@[simp] theorem State.mxeEndRun_keeps (s : State) (e : Nat) (status : Nat) (code : Nat) : Keeps s (State.mxeEndRun s e status code) := by
  unfold State.mxeEndRun
  (repeat' split) <;> simp only [Keeps, and_self, State.setMx_keeps, State.mxeNext_keeps, State.mxeEnd_keeps, State.endXfer_keeps]
@[simp] theorem State.mxeFault_keeps (s : State) (e : Nat) (code : Nat) : Keeps s (State.mxeFault s e code) := by
  unfold State.mxeFault
  (repeat' split) <;> simp only [Keeps, and_self, State.setReg_keeps, State.fault_keeps, State.mxeEndRun_keeps]
@[simp] theorem State.mxeEndAll_keeps (s : State) (e : Nat) (status : Nat) : Keeps s (State.mxeEndAll s e status) := by
  simp only [State.mxeEndAll, Keeps, foldl_keeps, and_self, implies_true, State.setMx_keeps, State.endXfer_keeps, State.mxeEnd_keeps]
@[simp] theorem State.mxeYieldStall_keeps (s : State) (e : Nat) : Keeps s (State.mxeYieldStall s e) := by
  unfold State.mxeYieldStall
  lift_lets
  split
  · rename_i y0_0 y0_1
    simp only [Keeps, and_self]
  · rename_i y0_0 y0_1 y0_2
    lift_lets
    intro x1
    clear_value x1
    simp only [Keeps, ite_keeps, ite_self, and_self, State.draw_keeps, State.setMx_keeps, State.endXfer_keeps]
@[simp] theorem State.mxeLaunch_keeps (s : State) (e : Nat) (r : MRun) : Keeps s (State.mxeLaunch s e r) := by
  simp only [State.mxeLaunch, Keeps, and_self, State.mxeYieldStall_keeps, State.voteUp_keeps, State.setMx_keeps]
@[simp] theorem State.setTr_keeps (s : State) (e : Nat) (t : Tre) : Keeps s (State.setTr s e t) := by
  simp only [State.setTr, Keeps, and_self]
@[simp] theorem State.treEnd_keeps (s : State) (e : Nat) (r : TRun) (status : Nat) (code : Nat) : Keeps s (State.treEnd s e r status code) := by
  simp only [State.treEnd, Keeps, ite_keeps, ite_self, and_self, State.scrEnded_keeps, State.setReg_keeps, State.bump_keeps, State.logRun_keeps, State.pendBit_keeps]
@[simp] theorem State.treEndRun_keeps (s : State) (e : Nat) (status : Nat) (code : Nat) : Keeps s (State.treEndRun s e status code) := by
  unfold State.treEndRun
  (repeat' split) <;> simp only [Keeps, and_self, State.treEnd_keeps, State.endXfer_keeps, State.setTr_keeps]
@[simp] theorem State.treFault_keeps (s : State) (e : Nat) (code : Nat) (node : Nat) : Keeps s (State.treFault s e code node) := by
  unfold State.treFault
  (repeat' split) <;> simp only [Keeps, and_self, State.setReg_keeps, State.fault_keeps, State.treEndRun_keeps]
@[simp] theorem State.treEndAll_keeps (s : State) (e : Nat) (status : Nat) : Keeps s (State.treEndAll s e status) := by
  simp only [State.treEndAll, Keeps, foldl_keeps, and_self, implies_true, State.endXfer_keeps, State.setTr_keeps, State.treEnd_keeps]
@[simp] theorem State.treLaunch_keeps (s : State) (e : Nat) (r : TRun) : Keeps s (State.treLaunch s e r) := by
  simp only [State.treLaunch, Keeps, and_self, State.voteUp_keeps, State.setTr_keeps]
@[simp] theorem State.treEpoch_keeps (s : State) (e : Nat) (n : Nat) (p : TSlot → Bool) : Keeps s (State.treEpoch s e n p) := by
  simp only [State.treEpoch, Keeps, ite_keeps, foldl_keeps, ite_self, and_self, implies_true, State.fault_keeps, State.bump_keeps, State.treLaunch_keeps]
@[simp] theorem State.mxeEpoch_keeps (s : State) (e : Nat) (n : Nat) : Keeps s (State.mxeEpoch s e n) := by
  simp only [State.mxeEpoch, Keeps, ite_keeps, foldl_keeps, ite_self, and_self, implies_true, State.fault_keeps, State.bump_keeps, State.mxeLaunch_keeps]
@[simp] theorem State.enginesBoundary_keeps (s : State) (n : Nat) : Keeps s (State.enginesBoundary s n) := by
  simp only [State.enginesBoundary, Keeps, foldl_keeps, and_self, implies_true, State.mxeEpoch_keeps, State.treEpoch_keeps]
@[simp] theorem State.recordClosed_keeps (s : State) (n : Nat) : Keeps s (State.recordClosed s n) := by
  simp only [State.recordClosed, Keeps, foldl_keeps, and_self, implies_true, State.treEpoch_keeps]
@[simp] theorem State.setUp_keeps (s : State) (p : Nat) (u : UpPort) : Keeps s (State.setUp s p u) := by
  simp only [State.setUp, Keeps, and_self]
@[simp] theorem State.resvDrop_keeps (s : State) : Keeps s (State.resvDrop s) := by
  simp only [State.resvDrop, Keeps, and_self, State.fault_keeps, State.bump_keeps]
@[simp] theorem State.makeRoom_keeps (s : State) (p q n : Nat) (l : List UpItem) : Keeps s (State.makeRoom s p q n l) := by
  induction l generalizing s with
  | nil => exact Keeps.refl s
  | cons x r ih =>
    unfold State.makeRoom
    split
    · exact Keeps.refl s
    · exact Keeps.trans (Keeps.trans (State.setUp_keeps ..) (State.resvDrop_keeps ..)) (ih _)
@[simp] theorem State.putFixed_keeps (s : State) (p : Nat) (q : Nat) (it : UpItem) : Keeps s (State.putFixed s p q it) := by
  simp only [State.putFixed, Keeps, ite_keeps, ite_self, and_self, State.makeRoom_keeps, State.setUp_keeps]
@[simp] theorem State.sendFixed_keeps (s : State) (q : Nat) (frame : Nat → Bytes) : Keeps s (State.sendFixed s q frame) := by
  simp only [State.sendFixed, Keeps, ite_keeps, ite_self, and_self, State.putFixed_keeps, State.resvDrop_keeps]
@[simp] theorem State.toCollector_keeps (s : State) (q : Nat) (m : Bytes) : Keeps s (State.toCollector s q m) := by
  simp only [State.toCollector, Keeps, and_self, State.sendFixed_keeps]
@[simp] theorem State.trayHeader_keeps (s : State) (type : Nat) : Keeps s (State.trayHeader s type).2 := by
  simp only [State.trayHeader, Keeps, and_self, State.draw_keeps]
@[simp] theorem State.health_keeps (s : State) : Keeps s (State.health s) := by
  simp only [State.health, Keeps, ite_keeps, ite_self, and_self, State.trayHeader_keeps, State.bump_keeps, State.sendFixed_keeps]
@[simp] theorem State.linkCheck_keeps (s : State) (w : Nat) : Keeps s (State.linkCheck s w) := by
  simp only [State.linkCheck, Keeps, ite_keeps, ite_self, and_self, State.health_keeps]
@[simp] theorem State.upViol_keeps (s : State) (p : Nat) (code : Nat) (src : Nat) : Keeps s (State.upViol s p code src) := by
  simp only [State.upViol, Keeps, ite_keeps, ite_self, and_self, State.setReg_keeps, State.bump_keeps, State.event_keeps, State.fault_keeps, State.setUp_keeps, State.setFld_keeps]
@[simp] theorem State.setLane_keeps (s : State) (w : Nat) (l : Lane) : Keeps s (State.setLane s w l) := by
  simp only [State.setLane, Keeps, and_self]
@[simp] theorem State.modLane_keeps (s : State) (w : Nat) (f : Lane → Lane) : Keeps s (State.modLane s w f) := by
  simp only [State.modLane, Keeps, and_self, State.setLane_keeps]
@[simp] theorem State.sendItem_keeps (s : State) (w : Nat) (vc : Nat) (it : TxItem) : Keeps s (State.sendItem s w vc it) := by
  simp only [State.sendItem, Keeps, and_self, State.modLane_keeps]
@[simp] theorem State.sendMsg_keeps (s : State) (w : Nat) (vc : Nat) (body : Bytes) : Keeps s (State.sendMsg s w vc body) := by
  simp only [State.sendMsg, Keeps, and_self, State.sendItem_keeps]
@[simp] theorem State.sendFlit_keeps (s : State) (w : Nat) (ftype : Nat) (vc : Nat) (body : Bytes) : Keeps s (State.sendFlit s w ftype vc body) := by
  simp only [State.sendFlit, Keeps, and_self, State.sendItem_keeps]
@[simp] theorem State.linkMsg_keeps (s : State) (w : Nat) (body : Bytes) : Keeps s (State.linkMsg s w body) := by
  simp only [State.linkMsg, Keeps, and_self, State.sendFlit_keeps]
@[simp] theorem State.setRing_keeps (s : State) (r : Nat) (g : Ring) : Keeps s (State.setRing s r g) := by
  simp only [State.setRing, Keeps, and_self]
@[simp] theorem State.uploadClose_keeps (s : State) (r : Nat) (status : Nat) (g : Ring) : Keeps s (State.uploadClose s r status g) := by
  simp only [State.uploadClose, Keeps, ite_keeps, ite_self, and_self, State.pendBit_keeps, State.setRing_keeps, State.fault_keeps, State.bump_keeps]
@[simp] theorem State.uploadRestart_keeps (s : State) : Keeps s (State.uploadRestart s) := by
  unfold State.uploadRestart
  refine foldl_Keeps ?_ fun t0 a0 => ?_
  · simp only [Keeps, and_self]
  · split
    · rename_i y1_0 y1_1 y1_2
      split
      · rename_i y2_0 y2_1 y2_2
        simp only [Keeps, ite_keeps, ite_self, and_self, State.setRing_keeps, State.uploadClose_keeps, State.sendMsg_keeps]
      · rename_i y2_0 y2_1
        simp only [Keeps, and_self]
@[simp] theorem State.laneLose_keeps (s : State) (w : Nat) : Keeps s (State.laneLose s w) := by
  simp only [State.laneLose, Keeps, ite_keeps, ite_self, and_self, State.bump_keeps, State.setLane_keeps, State.uploadRestart_keeps]
@[simp] theorem State.keyAll_keeps (s : State) : Keeps s (State.keyAll s) := by
  simp only [State.keyAll, Keeps, and_self]
@[simp] theorem State.hpaRoute_keeps (s : State) : Keeps s (State.hpaRoute s) := by
  simp only [State.hpaRoute, Keeps, ite_keeps, ite_self, and_self, State.keyAll_keeps, State.laneLose_keeps, State.setFld_keeps, State.pendBit_keeps, State.bump_keeps]
@[simp] theorem State.hpaUnroute_keeps (s : State) : Keeps s (State.hpaUnroute s) := by
  simp only [State.hpaUnroute, Keeps, ite_keeps, ite_self, and_self, State.setFld_keeps, State.keyAll_keeps, State.pendBit_keeps, State.bump_keeps]
@[simp] theorem State.laneTo_keeps (s : State) (w : Nat) (st : Nat) : Keeps s (State.laneTo s w st) := by
  simp only [State.laneTo, Keeps, ite_keeps, ite_self, and_self, State.setFld_keeps, State.pendBit_keeps, State.modLane_keeps, State.hpaUnroute_keeps, State.linkCheck_keeps]
@[simp] theorem State.toTrain_keeps (s : State) (w : Nat) (rate : Nat) : Keeps s (State.toTrain s w rate) := by
  simp only [State.toTrain, Keeps, and_self, State.setFld_keeps, State.laneTo_keeps]
@[simp] theorem State.quarantine_keeps (s : State) (w : Nat) (cause : Nat) : Keeps s (State.quarantine s w cause) := by
  simp only [State.quarantine, Keeps, ite_keeps, ite_self, and_self, State.bump_keeps, State.setFld_keeps, State.laneTo_keeps, State.modLane_keeps, State.fault_keeps, State.hpaRoute_keeps]
@[simp] theorem State.linkDown_keeps (s : State) (w : Nat) : Keeps s (State.linkDown s w) := by
  simp only [State.linkDown, Keeps, ite_keeps, ite_self, and_self, State.modLane_keeps, State.item_keeps, State.bump_keeps, State.fault_keeps, State.quarantine_keeps]
@[simp] theorem State.slkViol_keeps (s : State) (w : Nat) (code : Nat) (ftype : Nat) (vc : Nat) (seq : Nat) : Keeps s (State.slkViol s w code ftype vc seq) := by
  simp only [State.slkViol, Keeps, ite_keeps, ite_self, and_self, State.bump_keeps, State.setReg_keeps, State.event_keeps, State.fault_keeps, State.modLane_keeps, State.quarantine_keeps]
@[simp] theorem State.portRx_keeps (s : State) (port : Nat) (n : Nat) : Keeps s (State.portRx s port n) := by
  simp only [State.portRx, Keeps, and_self]
@[simp] theorem State.portTx_keeps (s : State) (port : Nat) (n : Nat) : Keeps s (State.portTx s port n) := by
  simp only [State.portTx, Keeps, and_self]
@[simp] theorem State.countSent_keeps (s : State) (w : Nat) (ftype : Nat) (vc : Nat) : Keeps s (State.countSent s w ftype vc) := by
  simp only [State.countSent, Keeps, ite_keeps, ite_self, and_self, State.ev_keeps, State.item_keeps, State.portTx_keeps, State.bytes_keeps]
@[simp] theorem State.takeFlit_keeps (s : State) (w : Nat) (vc : Nat) : Keeps s (State.takeFlit s w vc) := by
  simp only [State.takeFlit, Keeps, and_self, State.portRx_keeps, State.bytes_keeps, State.ev_keeps, State.item_keeps, State.modLane_keeps]
@[simp] theorem State.epochLimit_keeps (s : State) : Keeps s (State.epochLimit s) := by
  simp only [State.epochLimit, Keeps, ite_keeps, ite_self, and_self, State.fault_keeps]
@[simp] theorem State.epochsStop_keeps (s : State) : Keeps s (State.epochsStop s) := by
  simp only [State.epochsStop, Keeps, and_self]
@[simp] theorem State.windowsStop_keeps (s : State) : Keeps s (State.windowsStop s) := by
  simp only [State.windowsStop, Keeps, and_self]
@[simp] theorem State.tkpTo_keeps (s : State) (st : Nat) : Keeps s (State.tkpTo s st) := by
  simp only [State.tkpTo, Keeps, ite_keeps, ite_self, and_self, State.event_keeps, State.setFld_keeps, State.pendBit_keeps, State.epochLimit_keeps, State.windowsStop_keeps, State.epochsStop_keeps, State.fault_keeps]
@[simp] theorem State.rateIsFreq_keeps (s : State) : Keeps s (State.rateIsFreq s) := by
  simp only [State.rateIsFreq, Keeps, and_self, State.setFld_keeps]
@[simp] theorem State.toHoldover_keeps (s : State) : Keeps s (State.toHoldover s) := by
  simp only [State.toHoldover, Keeps, ite_keeps, ite_self, and_self, State.tkpTo_keeps, State.rateIsFreq_keeps]
@[simp] theorem State.exchangeStart_keeps (s : State) (interval : Nat) : Keeps s (State.exchangeStart s interval) := by
  simp only [State.exchangeStart, Keeps, and_self]
@[simp] theorem State.servoStep_keeps (s : State) (theta : Int) : Keeps s (State.servoStep s theta) := by
  simp only [State.servoStep, Keeps, ite_keeps, ite_self, and_self, State.setFld_keeps, State.fault_keeps]
@[simp] theorem State.timeAdd_keeps (s : State) (theta : Int) : Keeps s (State.timeAdd s theta) := by
  simp only [State.timeAdd, Keeps, and_self]
@[simp] theorem State.refuseTheta_keeps (s : State) (theta : Int) : Keeps s (State.refuseTheta s theta) := by
  simp only [State.refuseTheta, Keeps, ite_keeps, ite_self, and_self, State.bump_keeps, State.setFld_keeps, State.toHoldover_keeps, State.fault_keeps, State.pendBit_keeps]
@[simp] theorem State.exchanged_keeps (s : State) (theta : Int) (mean : Int) : Keeps s (State.exchanged s theta mean) := by
  simp only [State.exchanged, Keeps, ite_keeps, ite_self, and_self, State.setFld_keeps, State.tkpTo_keeps, State.timeAdd_keeps, State.servoStep_keeps, State.refuseTheta_keeps]
@[simp] theorem State.endExchange_keeps (s : State) (t1 : Int) (t2 : Int) (t3 : Int) (t4 : Int) (asym : Int) : Keeps s (State.endExchange s t1 t2 t3 t4 asym) := by
  simp only [State.endExchange, Keeps, ite_keeps, ite_self, and_self, State.bump_keeps, State.exchanged_keeps]
@[simp] theorem timeSyncSend_keeps (w : Nat) (s : State) : Keeps s (timeSyncSend w s) := by
  simp only [timeSyncSend, Keeps, ite_keeps, ite_self, and_self, State.reach_keeps, State.sendFlit_keeps, State.modLane_keeps]
@[simp] theorem State.syncTaken_keeps (s : State) (f : Sys2Proof.TimeSyncFlit) (sub : Nat) : Keeps s (State.syncTaken s f sub) := by
  simp only [State.syncTaken, Keeps, ite_keeps, ite_self, and_self, State.bump_keeps, State.pendBit_keeps, State.setFld_keeps, State.modLane_keeps, State.exchangeStart_keeps, State.sendFlit_keeps]
@[simp] theorem timeSyncRx_keeps (f : Sys2Proof.TimeSyncFlit) (sub : Nat) (s : State) : Keeps s (timeSyncRx f sub s) := by
  simp only [timeSyncRx, Keeps, ite_keeps, ite_self, and_self, State.syncTaken_keeps, State.takeFlit_keeps]
@[simp] theorem State.dreqTaken_keeps (s : State) (w : Nat) (exId : Nat) (sub : Nat) : Keeps s (State.dreqTaken s w exId sub) := by
  simp only [State.dreqTaken, Keeps, ite_keeps, ite_self, and_self, State.sendFlit_keeps, State.slkViol_keeps]
@[simp] theorem timeDreqRx_keeps (w : Nat) (exId : Nat) (sub : Nat) (s : State) : Keeps s (timeDreqRx w exId sub s) := by
  simp only [timeDreqRx, Keeps, ite_keeps, ite_self, and_self, State.dreqTaken_keeps, State.takeFlit_keeps]
@[simp] theorem State.drespTaken_keeps (s : State) (exId : Nat) (t4 : Nat) (replayed : Bool) : Keeps s (State.drespTaken s exId t4 replayed) := by
  unfold State.drespTaken
  (repeat' split) <;> simp only [Keeps, ite_keeps, ite_self, and_self, State.slkViol_keeps, State.bump_keeps, State.setFld_keeps, State.endExchange_keeps]
@[simp] theorem timeDrespRx_keeps (exId : Nat) (t4 : Nat) (replayed : Bool) (s : State) : Keeps s (timeDrespRx exId t4 replayed s) := by
  simp only [timeDrespRx, Keeps, ite_keeps, ite_self, and_self, State.takeFlit_keeps, State.drespTaken_keeps]
@[simp] theorem missedInterval_keeps (s : State) : Keeps s (missedInterval s) := by
  unfold missedInterval
  (repeat' split) <;> simp only [Keeps, ite_keeps, ite_self, and_self, State.reachTime_keeps, State.bump_keeps, State.toHoldover_keeps]
@[simp] theorem State.markStepped_keeps (s : State) : Keeps s (State.markStepped s) := by
  simp only [State.markStepped, Keeps, and_self]
@[simp] theorem State.slewStart_keeps (s : State) (delta : Int) : Keeps s (State.slewStart s delta) := by
  simp only [State.slewStart, Keeps, and_self, State.setFld_keeps, State.markStepped_keeps]
@[simp] theorem State.slewStop_keeps (s : State) : Keeps s (State.slewStop s) := by
  simp only [State.slewStop, Keeps, ite_keeps, ite_self, and_self, State.pendBit_keeps, State.rateIsFreq_keeps, State.setFld_keeps]
@[simp] theorem slewEnd_keeps (s : State) : Keeps s (slewEnd s) := by
  simp only [slewEnd, Keeps, ite_keeps, ite_self, and_self, State.slewStop_keeps, State.reach_keeps]
@[simp] theorem State.noJump_keeps (s : State) : Keeps s (State.noJump s) := by
  simp only [State.noJump, Keeps, and_self, State.setReg_keeps, State.setFld_keeps]
@[simp] theorem State.reacquire_keeps (s : State) : Keeps s (State.reacquire s) := by
  simp only [State.reacquire, Keeps, ite_keeps, ite_self, and_self, State.tkpTo_keeps, State.noJump_keeps, State.slewStop_keeps]
@[simp] theorem State.tkpDisable_keeps (s : State) : Keeps s (State.tkpDisable s) := by
  simp only [State.tkpDisable, Keeps, and_self, State.tkpTo_keeps, State.noJump_keeps, State.rateIsFreq_keeps, State.slewStop_keeps, State.setFld_keeps]
@[simp] theorem State.setPtp_keeps (s : State) (p : Nat) (x : PtpPort) : Keeps s (State.setPtp s p x) := by
  simp only [State.setPtp, Keeps, and_self]
@[simp] theorem State.ptpRx_keeps {s : State} {p : Nat} {m : PtpMsg} {ok : Bool} {f : PtpPort → State → State} :
    ((∀ x t, (f x t).chip = t.chip) → (s.ptpRx p m ok f).chip = s.chip) ∧
    ((∀ x t, (f x t).pending = t.pending) → (s.ptpRx p m ok f).pending = s.pending) ∧
    ((∀ x t, (f x t).sram = t.sram) → (s.ptpRx p m ok f).sram = s.sram) ∧
    ((∀ x t, (f x t).hbm = t.hbm) → (s.ptpRx p m ok f).hbm = s.hbm) := by
  refine ⟨?_, ?_, ?_, ?_⟩ <;> intro h <;> (unfold State.ptpRx; split <;> simp only [ite_keeps, h, ite_self, State.upViol_keeps, State.draw_keeps])
@[simp] theorem State.ptpEnd_keeps (s : State) (p : Nat) (x : PtpPort) (t1 : Int) (t3 : Int) (t4 : Int) : Keeps s (State.ptpEnd s p x t1 t3 t4) := by
  simp only [State.ptpEnd, Keeps, ite_keeps, ite_self, and_self, State.endExchange_keeps]
@[simp] theorem State.p2pEnd_keeps (s : State) (p : Nat) : Keeps s (State.p2pEnd s p) := by
  unfold State.p2pEnd
  lift_lets
  intro x0
  clear_value x0
  intro x1
  have h1 : Keeps s x1 := by simp only [x1, Keeps, and_self, State.setPtp_keeps]
  clear_value x1
  split
  · rename_i y2_0 y2_1 y2_2 y2_3 y2_4 y2_5 y2_6 y2_7
    simp only [Keeps, and_self, h1, State.ptpEnd_keeps]
  · rename_i y2_0 y2_1 y2_2 y2_3
    simp only [Keeps, and_self]
@[simp] theorem ptpSyncRx_keeps (p : Nat) (m : Sys2Proof.PtpMsg) (sub : Nat) (s : State) : Keeps s (ptpSyncRx p m sub s) := by
  simp only [ptpSyncRx, Keeps, ite_keeps, ite_self, and_self, implies_true, State.ptpRx_keeps, State.exchangeStart_keeps, State.setPtp_keeps, State.p2pEnd_keeps]
@[simp] theorem ptpFollowUpRx_keeps (p : Nat) (m : Sys2Proof.PtpMsg) (s : State) : Keeps s (ptpFollowUpRx p m s) := by
  simp only [ptpFollowUpRx, Keeps, ite_keeps, ite_self, and_self, implies_true, State.ptpRx_keeps, State.p2pEnd_keeps, State.setPtp_keeps]
@[simp] theorem State.ptpSend_keeps (s : State) (p : Nat) (dst : Nat) (type : Nat) (len : Nat) (seq : BitVec 16) (tail : Bytes) (tx : PtpTx) : Keeps s (State.ptpSend s p dst type len seq tail tx) := by
  simp only [State.ptpSend, Keeps, and_self, State.putFixed_keeps]
@[simp] theorem ptpDelayReqSend_keeps (p : Nat) (sub : Nat) (s : State) : Keeps s (ptpDelayReqSend p sub s) := by
  simp only [ptpDelayReqSend, Keeps, ite_keeps, ite_self, and_self, State.setPtp_keeps, State.ptpSend_keeps]
@[simp] theorem ptpDelayRespRx_keeps (p : Nat) (m : Sys2Proof.PtpMsg) (s : State) : Keeps s (ptpDelayRespRx p m s) := by
  unfold ptpDelayRespRx
  simp only [Keeps]
  grind [State.ptpRx_keeps, State.ptpEnd_keeps, State.setPtp_keeps]
@[simp] theorem ptpPdelayReqRx_keeps (p : Nat) (m : Sys2Proof.PtpMsg) (_sub : Nat) (s : State) : Keeps s (ptpPdelayReqRx p m _sub s) := by
  simp only [ptpPdelayReqRx, Keeps, and_self, implies_true, State.ptpRx_keeps, State.ptpSend_keeps]
@[simp] theorem State.peerDelay_keeps (s : State) (p : Nat) (x : PtpPort) (t1 : Int) (t4 : Int) (turn : Int) : Keeps s (State.peerDelay s p x t1 t4 turn) := by
  simp only [State.peerDelay, Keeps, ite_keeps, ite_self, and_self, State.bump_keeps, State.setPtp_keeps]
@[simp] theorem ptpPdelayRespRx_keeps (p : Nat) (m : Sys2Proof.PtpMsg) (sub : Nat) (s : State) : Keeps s (ptpPdelayRespRx p m sub s) := by
  unfold ptpPdelayRespRx
  split
  · rename_i y0_0
    simp only [Keeps]
    grind [State.ptpRx_keeps, State.setPtp_keeps, State.peerDelay_keeps]
  · rename_i y0_0
    simp only [Keeps]
    grind [State.ptpRx_keeps, State.setPtp_keeps, State.peerDelay_keeps]
@[simp] theorem ptpPdelayRespFuRx_keeps (p : Nat) (m : Sys2Proof.PtpMsg) (s : State) : Keeps s (ptpPdelayRespFuRx p m s) := by
  unfold ptpPdelayRespFuRx
  simp only [Keeps]
  grind [State.ptpRx_keeps, State.peerDelay_keeps]
@[simp] theorem State.selectPort_keeps (s : State) : Keeps s (State.selectPort s) := by
  simp only [State.selectPort, Keeps, ite_keeps, ite_self, and_self, State.exchangeStart_keeps, State.setFld_keeps]
@[simp] theorem ptpAnnounceRx_keeps (p : Nat) (m : Sys2Proof.PtpMsg) (s : State) : Keeps s (ptpAnnounceRx p m s) := by
  simp only [ptpAnnounceRx, Keeps, and_self, implies_true, State.ptpRx_keeps, State.selectPort_keeps, State.setPtp_keeps]
@[simp] theorem announceTimeout_keeps (p : Nat) (s : State) : Keeps s (announceTimeout p s) := by
  simp only [announceTimeout, Keeps, ite_keeps, ite_self, and_self, State.setPtp_keeps, State.selectPort_keeps, State.toHoldover_keeps]
@[simp] theorem State.txtsPut_keeps (s : State) (p : Nat) (ident : BitVec 16) (time : Nat) : Keeps s (State.txtsPut s p ident time) := by
  simp only [State.txtsPut, Keeps, ite_keeps, ite_self, and_self, State.bump_keeps]
@[simp] theorem txtsPop_keeps (p : Nat) (s : State) : Keeps s (txtsPop p s).st := by
  unfold txtsPop
  (repeat' split) <;> simp only [Keeps, and_self, State.win_keeps, State.winData_keeps]
@[simp] theorem portTimeRead_keeps (p : Nat) (s : State) : Keeps s (portTimeRead p s).st := by
  simp only [portTimeRead, Keeps, ite_keeps, ite_self, and_self, State.win_keeps, State.winData_keeps]
@[simp] theorem portTimeWrite_keeps (p : Nat) (s : State) : Keeps s (portTimeWrite p s).st := by
  simp only [portTimeWrite, Keeps, ite_keeps, ite_self, and_self, State.win_keeps]
@[simp] theorem State.submitTimed_keeps (s : State) (p : Nat) (it : TimedItem) (sendLate : Bool) : Keeps s (State.submitTimed s p it sendLate).1 := by
  simp only [State.submitTimed, Keeps, ite_keeps, ite_self, and_self, State.bump_keeps]
@[simp] theorem tkpNowLo_keeps (p : Sys2Proof.Path) (s : State) : Keeps s (tkpNowLo p s).st := by
  simp only [tkpNowLo, Keeps, and_self, State.gives_keeps]
@[simp] theorem State.gridTake_keeps (s : State) : Keeps s (State.gridTake s) := by
  simp only [State.gridTake, Keeps, and_self, State.unstage_keeps, State.setReg_keeps]
@[simp] theorem State.gridRefuse_keeps (s : State) : Keeps s (State.gridRefuse s) := by
  simp only [State.gridRefuse, Keeps, and_self, State.fault_keeps, State.unstage_keeps]
@[simp] theorem State.gridCommit_keeps (s : State) (n : Nat) : Keeps s (State.gridCommit s n).1 := by
  simp only [State.gridCommit, Keeps, ite_keeps, ite_self, and_self, State.gridTake_keeps, State.event_keeps, State.epochLimit_keeps, State.gridRefuse_keeps, State.setReg_keeps, State.unstage_keeps]
@[simp] theorem tkpReset_keeps (old : State) (s : State) : Keeps s (tkpReset old s) := by
  simp only [tkpReset, Keeps, and_self, State.setFld_keeps, State.tkpTo_keeps]

end Sys2Proof.Machine
end

