-- ==== Sys2Proof/Laws/Keeps2.lean ====
section
/-! SUPPORT. What the functions of Ring, Cis, Xrf, Stm, Mirror, Rdx, Epr, Smp, Plans, Degrade, Mxe leave alone. -/

namespace Sys2Proof.Machine

@[simp] theorem State.ringBytes_keeps (s : State) (r : Nat) (g : Ring) (off : Nat) (b : Bytes) : KeepsLow s (State.ringBytes s r g off b) := by
  simp only [State.ringBytes, KeepsLow, ite_keeps, ite_self, and_self, State.bytes_keeps, State.modXfer_keeps, State.beginWrite_keeps]
@[simp] theorem State.ringPut_keeps (s : State) (r : Nat) (g : Ring) (e : Bytes) : KeepsLow s (State.ringPut s r g e).1 := by
  simp only [State.ringPut, KeepsLow, ite_keeps, ite_self, and_self, State.ringBytes_keeps]
@[simp] theorem State.postRow_keeps (s : State) (r : Nat) (g : Ring) : Keeps s (State.postRow s r g) := by
  simp only [State.postRow, Keeps, ite_keeps, ite_self, and_self, State.pendBit_keeps, State.setRing_keeps]
@[simp] theorem State.ringWrite_keeps (s : State) (r : Nat) (kind : Nat) (payload : Bytes) : KeepsLow s (State.ringWrite s r kind payload) := by
  unfold State.ringWrite
  split
  · rename_i y0_0 y0_1
    simp only [KeepsLow, and_self]
  · rename_i y0_0 y0_1 y0_2
    simp only [KeepsLow, ite_keeps, ite_self, and_self, State.ringPut_keeps, State.bump_keeps, State.fault_keeps, State.postRow_keeps, State.setRing_keeps]
@[simp] theorem State.ringRow_keeps (s : State) (r : Nat) (b : Bytes) : KeepsLow s (State.ringRow s r b) := by
  unfold State.ringRow
  (repeat' split) <;> simp only [KeepsLow, and_self, State.ringWrite_keeps, State.setRing_keeps]
@[simp] theorem State.ringFlush_keeps (s : State) (r : Nat) : KeepsLow s (State.ringFlush s r) := by
  simp only [State.ringFlush, KeepsLow, foldl_keeps, and_self, implies_true, State.ringWrite_keeps]
@[simp] theorem State.ringSent_keeps (s : State) (r : Nat) : Keeps s (State.ringSent s r) := by
  unfold State.ringSent
  (repeat' split) <;> simp only [Keeps, and_self, State.setRing_keeps, State.endXfer_keeps]
@[simp] theorem State.ringLost_keeps (s : State) (r : Nat) : KeepsLow s (State.ringLost s r) := by
  unfold State.ringLost
  (repeat' split) <;> simp only [KeepsLow, and_self, State.ringFlush_keeps, State.setRing_keeps]
@[simp] theorem State.capRow_keeps (s : State) (w : Nat) (row : Row) : KeepsLow s (State.capRow s w row) := by
  simp only [State.capRow, KeepsLow, ite_keeps, foldl_keeps, ite_self, and_self, implies_true, State.ringRow_keeps, State.capTrigger_keeps]
@[simp] theorem State.capMsg_keeps (s : State) (c : Nat) (m : Bytes) : KeepsLow s (State.capMsg s c m) := by
  simp only [State.capMsg, KeepsLow, ite_keeps, foldl_keeps, ite_self, and_self, implies_true, State.ringWrite_keeps]
@[simp] theorem State.shiftTo_keeps (s : State) (v : Nat) : Keeps s (State.shiftTo s v) := by
  simp only [State.shiftTo, Keeps, ite_keeps, foldl_keeps, ite_self, and_self, implies_true, State.bump_keeps, State.linkMsg_keeps, State.setFld_keeps]
@[simp] theorem State.saturate_keeps (s : State) (on : Bool) : Keeps s (State.saturate s on) := by
  simp only [State.saturate, Keeps, ite_keeps, ite_self, and_self, State.pendBit_keeps, State.setFld_keeps, State.shiftTo_keeps, State.bump_keeps, State.trayHeader_keeps, State.toCollector_keeps, State.event_keeps, State.health_keeps, State.fault_keeps]
@[simp] theorem State.setFill_keeps (s : State) (n : Nat) : Keeps s (State.setFill s n) := by
  simp only [State.setFill, Keeps, ite_keeps, ite_self, and_self, State.setFld_keeps, State.saturate_keeps]
@[simp] theorem State.drainFill_keeps (s : State) (n : Nat) : Keeps s (State.drainFill s n) := by
  simp only [State.drainFill, Keeps, and_self, State.setFill_keeps, State.setFld_keeps]
@[simp] theorem slowStepTimer_keeps (s : State) : Keeps s (slowStepTimer s) := by
  simp only [slowStepTimer, Keeps, ite_keeps, ite_self, and_self, State.reach_keeps, State.shiftTo_keeps]
@[simp] theorem recoverTimer_keeps (s : State) : Keeps s (recoverTimer s) := by
  simp only [recoverTimer, Keeps, ite_keeps, ite_self, and_self, State.reach_keeps, State.shiftTo_keeps]
@[simp] theorem State.police_keeps (s : State) (w : Nat) (vc : Nat) (n : Nat) : Keeps s (State.police s w vc n).1 := by
  simp only [State.police, Keeps, ite_keeps, ite_self, and_self, State.bump_keeps]
@[simp] theorem State.policersFull_keeps (s : State) : Keeps s (State.policersFull s) := by
  simp only [State.policersFull, Keeps, and_self]
@[simp] theorem policerRead_keeps (k : Nat) (s : State) : Keeps s (policerRead k s).st := by
  simp only [policerRead, Keeps, ite_keeps, ite_self, and_self, State.winData_keeps, State.win_keeps]
@[simp] theorem policerWrite_keeps (k : Nat) (s : State) : Keeps s (policerWrite k s).st := by
  simp only [policerWrite, Keeps, ite_keeps, ite_self, and_self, State.win_keeps]
@[simp] theorem State.joinQueue_keeps (s : State) (p : Nat) (q : Nat) (it : UpItem) : Keeps s (State.joinQueue s p q it) := by
  simp only [State.joinQueue, Keeps, and_self, State.setUp_keeps]
@[simp] theorem State.unspill_keeps (s : State) (p q : Nat) (l : List Bytes) : Keeps s (State.unspill s p q l) := by
  induction l generalizing s with
  | nil => exact ⟨rfl, rfl, rfl, rfl⟩
  | cons x r ih =>
    unfold State.unspill
    split
    · exact Keeps.trans (Keeps.trans (Keeps.trans (State.joinQueue_keeps ..) (State.bytes_keeps ..)) (State.drainFill_keeps ..)) (ih _)
    · exact ⟨rfl, rfl, rfl, rfl⟩
@[simp] theorem State.unspillAll_keeps (s : State) : Keeps s (State.unspillAll s) := by
  simp only [State.unspillAll, Keeps, foldl_keeps, and_self, implies_true, State.unspill_keeps]
@[simp] theorem State.sumpOver_keeps (s : State) : Keeps s (State.sumpOver s) := by
  simp only [State.sumpOver, Keeps, and_self, State.fault_keeps, State.setFld_keeps]
@[simp] theorem State.cisternRow_keeps (s : State) (w : Nat) (b : Bytes) : KeepsLow s (State.cisternRow s w b) := by
  simp only [State.cisternRow, KeepsLow, ite_keeps, foldl_keeps, ite_self, and_self, implies_true, State.ringWrite_keeps]
@[simp] theorem State.ingestTake_keeps (s : State) (it : Ingest) (left : Nat) : KeepsLow s (State.ingestTake s it left) := by
  simp only [State.ingestTake, KeepsLow, ite_keeps, ite_self, and_self, State.addReg_keeps, State.bytes_keeps, State.setFill_keeps, State.unspill_keeps, State.cisternRow_keeps, State.capMsg_keeps]
@[simp] theorem State.ingest_keeps (s : State) (it : Ingest) : KeepsLow s (State.ingest s it) := by
  simp only [State.ingest, KeepsLow, ite_keeps, ite_self, and_self, State.ingestTake_keeps]
@[simp] theorem State.putDrr_keeps (s : State) (p : Nat) (q : Nat) (frame : Bytes) : KeepsLow s (State.putDrr s p q frame) := by
  simp only [State.putDrr, KeepsLow, ite_keeps, ite_self, and_self, State.joinQueue_keeps, State.ingest_keeps, State.addReg_keeps, State.bump_keeps, State.sumpOver_keeps]
@[simp] theorem State.routeUp_keeps (s : State) (r : Route) (m : Bytes) : KeepsLow s (State.routeUp s r m) := by
  simp only [State.routeUp, KeepsLow, ite_keeps, ite_self, and_self, State.bump_keeps, State.putDrr_keeps]
@[simp] theorem State.route_keeps (s : State) (c : Nat) (m : Bytes) : KeepsLow s (State.route s c m) := by
  simp only [State.route, KeepsLow, ite_keeps, ite_self, and_self, State.bump_keeps, State.routeUp_keeps, State.ingest_keeps]
@[simp] theorem State.routeIn_keeps (s : State) (c : Nat) (m : Bytes) : KeepsLow s (State.routeIn s c m) := by
  simp only [State.routeIn, KeepsLow, ite_keeps, ite_self, and_self, State.route_keeps]
@[simp] theorem State.freeVc3_keeps (s : State) (w : Nat) (n : Nat) : Keeps s (State.freeVc3 s w n) := by
  simp only [State.freeVc3, Keeps, and_self, State.modLane_keeps]
@[simp] theorem State.freeHeld_keeps (s : State) (w : Nat) : Keeps s (State.freeHeld s w) := by
  unfold State.freeHeld
  (repeat' split) <;> simp only [Keeps, and_self, State.freeVc3_keeps, State.modLane_keeps]
@[simp] theorem State.grant_keeps (s : State) (it : Ingest) (left : Nat) : KeepsLow s (State.grant s it left) := by
  simp only [State.grant, KeepsLow, ite_keeps, ite_self, and_self, State.ingestTake_keeps, State.freeHeld_keeps, State.bump_keeps, State.routeUp_keeps, State.capMsg_keeps]
@[simp] theorem ingestGrant_keeps (s : State) : KeepsLow s (ingestGrant s) := by
  unfold ingestGrant
  (repeat' split) <;> simp only [KeepsLow, and_self, State.grant_keeps, State.advance_keeps]
@[simp] theorem State.park_keeps (s : State) (w : Nat) (m : Bytes) : KeepsLow s (State.park s w m) := by
  simp only [State.park, KeepsLow, ite_keeps, ite_self, and_self, State.bump_keeps, State.ingest_keeps, State.sumpOver_keeps]
@[simp] theorem State.takeTag_waits (s : State) (c : Nat) : Keeps s (s.takeTag c).2 := by
  unfold State.takeTag
  dsimp only
  split <;> simp [Keeps]
@[simp] theorem cisReset_keeps (old s : State) : Keeps s (cisReset old s) := by
  simp [cisReset, Keeps, ite_keeps]
@[simp] theorem State.xrfSend_keeps (s : State) (step : Bool) (x : Xrf) : Keeps s (State.xrfSend s step x) := by
  simp only [State.xrfSend, Keeps, and_self, State.sendFixed_keeps]
@[simp] theorem State.xrfForward_keeps (s : State) (step : Bool) (vlan : Option (BitVec 16)) (m : Bytes) : Keeps s (State.xrfForward s step vlan m) := by
  simp only [State.xrfForward, Keeps, and_self, State.sendFixed_keeps, State.bump_keeps]
@[simp] theorem State.treeEmit_keeps (s : State) (h : Held) : Keeps s (State.treeEmit s h) := by
  simp only [State.treeEmit, Keeps, and_self, State.xrfSend_keeps]
@[simp] theorem State.treePut_keeps (s : State) (x : Xrf) (own : Bool) (step : Bool) (ordered : Bool) (due : Nat) (f : List Slot128 → List Slot128 → List Slot128) : Keeps s (State.treePut s x own step ordered due f).1 := by
  unfold State.treePut
  lift_lets
  intro x0
  clear_value x0
  intro x1
  have h1 : Keeps s x1 := by simp only [x1, Keeps, and_self]
  clear_value x1
  split
  · rename_i y2_0
    lift_lets
    intro x3
    clear_value x3
    intro x4
    clear_value x4
    intro x5
    clear_value x5
    intro x6
    have h6 : Keeps s x6 := by simp only [x6, Keeps, and_self, h1]
    clear_value x6
    split
    · rename_i y7_0
      simp only [Keeps, and_self, h1]
    · rename_i y7_0
      split
      · rename_i y8_0 y8_1 y8_2
        lift_lets
        intro x9
        clear_value x9
        intro x10
        have h10 : Keeps s x10 := by simp only [x10, Keeps, and_self, h1]
        clear_value x10
        simp only [Keeps, ite_keeps, ite_self, and_self, h10, h1, State.treeEmit_keeps]
      · rename_i y8_0 y8_1
        simp only [Keeps, ite_keeps, ite_self, and_self, h6, h1, State.treeEmit_keeps]
  · rename_i y2_0
    lift_lets
    intro x3
    clear_value x3
    intro x4
    clear_value x4
    intro x5
    clear_value x5
    intro x6
    have h6 : Keeps s x6 := by simp only [x6, Keeps, and_self, h1]
    clear_value x6
    split
    · rename_i y7_0
      simp only [Keeps, and_self, h1]
    · rename_i y7_0
      split
      · rename_i y8_0 y8_1 y8_2
        lift_lets
        intro x9
        clear_value x9
        intro x10
        have h10 : Keeps s x10 := by simp only [x10, Keeps, and_self, h1]
        clear_value x10
        simp only [Keeps, ite_keeps, ite_self, and_self, h10, h1, State.treeEmit_keeps]
      · rename_i y8_0 y8_1
        simp only [Keeps, ite_keeps, ite_self, and_self, h6, h1, State.treeEmit_keeps]
@[simp] theorem State.xrfOwn_keeps (s : State) (x : Xrf) (step : Bool) (ordered : Bool) (due : Nat) (f : List Slot128 → List Slot128 → List Slot128) : Keeps s (State.xrfOwn s x step ordered due f) := by
  unfold State.xrfOwn
  split
  · rename_i y0_0
    split
    · rename_i y1_0 y1_1 y1_2
      have ky1_2 := congrArg (fun p => p.1) y1_2; dsimp only at ky1_2; subst ky1_2
      simp only [Keeps, and_self, State.treePut_keeps]
    · rename_i y1_0 y1_1 y1_2 y1_3 y1_4
      have ky1_4 := congrArg (fun p => p.1) y1_4; dsimp only at ky1_4; subst ky1_4
      simp only [Keeps, and_self, State.treePut_keeps, State.xrfSend_keeps]
  · rename_i y0_0
    simp only [Keeps, and_self, State.xrfSend_keeps]
@[simp] theorem treeSendTimer_keeps (s : State) : Keeps s (treeSendTimer s) := by
  unfold treeSendTimer
  lift_lets
  intro x0
  clear_value x0
  split
  · rename_i y1_0 y1_1
    simp only [Keeps, and_self]
  · rename_i y1_0 y1_1 y1_2 y1_3
    lift_lets
    intro x2
    have h2 : Keeps s x2 := by simp only [x2, Keeps, and_self, State.reachTime_keeps]
    clear_value x2
    simp only [Keeps, foldl_keeps, and_self, implies_true, h2, State.treeEmit_keeps]
@[simp] theorem stepMark_keeps (d : Sys2Proof.Word) (s : State) : Keeps s (stepMark d s) := by
  simp only [stepMark, Keeps, ite_keeps, ite_self, and_self, State.bump_keeps]
theorem State.pullMark_keeps {s t : State} {m : Bytes} (h : s.pullMark = some (m, t)) : Keeps s t := by
  unfold State.pullMark at h
  split at h <;> simp at h
  obtain ⟨-, rfl⟩ := h
  simp [Keeps]
@[simp] theorem State.setStmRows_keeps (s : State) (e : Nat) (l : List StepRow) : Keeps s (State.setStmRows s e l) := by
  simp only [State.setStmRows, Keeps, and_self]
@[simp] theorem State.verdictRow_keeps (s : State) (e : Nat) (j : StmJob) (r : StepRow) (forced : Bool) : KeepsLow s (State.verdictRow s e j r forced) := by
  simp only [State.verdictRow, KeepsLow, ite_keeps, ite_self, and_self, State.draw_keeps, State.setStmRows_keeps, State.bump_keeps, State.setReg_keeps, State.setFld_keeps, State.route_keeps, State.toCollector_keeps, State.xrfOwn_keeps, State.pendBit_keeps]
@[simp] theorem stepVerdict_keeps (e : Nat) (step : Nat) (s : State) : KeepsLow s (stepVerdict e step s) := by
  unfold stepVerdict
  (repeat' split) <;> simp only [KeepsLow, and_self, State.verdictRow_keeps, State.reachTime_keeps]
@[simp] theorem State.openRow_keeps (s : State) (e : Nat) (j : StmJob) (step : Nat) : KeepsLow s (State.openRow s e j step) := by
  unfold State.openRow
  lift_lets
  intro x0
  clear_value x0
  intro x1
  clear_value x1
  intro x2
  have h2 : KeepsLow s x2 := by
      unfold x2
      split
      · rename_i y3_0 y3_1 y3_2 y3_3
        simp only [KeepsLow, ite_keeps, ite_self, and_self, State.verdictRow_keeps]
      · rename_i y3_0 y3_1 y3_2
        simp only [KeepsLow, and_self]
  clear_value x2
  intro x3
  clear_value x3
  simp only [KeepsLow, and_self, h2, State.setStmRows_keeps]
@[simp] theorem State.enterMark_keeps (s : State) (e : Nat) (j : StmJob) (r : StepRow) (w : Nat) (leaf : Nat) (a : Int) (flags : Nat) : Keeps s (State.enterMark s e j r w leaf a flags) := by
  simp only [State.enterMark, Keeps, ite_keeps, ite_self, and_self, State.setStmRows_keeps, State.item_keeps, State.bump_keeps]
@[simp] theorem State.arrival_keeps (s : State) (stamp : Nat) : Keeps s (State.arrival s stamp).2 := by
  simp only [State.arrival, Keeps, ite_keeps, ite_self, and_self, State.draw_keeps]
@[simp] theorem State.stepMarkTaken_keeps (s : State) (w : Nat) (m : Bytes) : KeepsLow s (State.stepMarkTaken s w m) := by
  unfold State.stepMarkTaken
  extract_lets h stamp job phase step
  clear_value h stamp job phase step
  refine ite_low (Keeps.refl s).low ?_
  refine ite_low (Keeps.low (State.bump_keeps ..)) ?_
  split
  · exact Keeps.low (State.bump_keeps ..)
  split
  · exact Keeps.low (State.bump_keeps ..)
  refine ite_low (Keeps.low (State.bump_keeps ..)) ?_
  have k := State.arrival_keeps s stamp
  revert k
  generalize s.arrival stamp = p
  obtain ⟨a, t⟩ := p
  intro k
  refine Keeps.trans_low k ?_
  dsimp only
  split
  · exact ite_low (Keeps.low (State.bump_keeps ..)) (Keeps.low (State.enterMark_keeps ..))
  · refine ite_low ?_ (Keeps.low (State.bump_keeps ..))
    split
    · exact KeepsLow.trans (State.openRow_keeps ..) (Keeps.low (State.enterMark_keeps ..))
    · exact State.openRow_keeps ..
@[simp] theorem stepMarkRx_keeps (w : Nat) (m : Bytes) (s : State) : KeepsLow s (stepMarkRx w m s) := by
  simp only [stepMarkRx, KeepsLow, ite_keeps, ite_self, and_self, State.stepMarkTaken_keeps]
@[simp] theorem State.fleetTray_keeps (s : State) (src : Nat) (m : Bytes) : Keeps s (State.fleetTray s src m) := by
  unfold State.fleetTray
  lift_lets
  intro x0
  clear_value x0
  split
  · rename_i y1_0 y1_1 y1_2 y1_3
    simp only [Keeps, ite_keeps, foldl_keeps, ite_self, and_self, implies_true, State.sendMsg_keeps, State.bump_keeps]
  · rename_i y1_0 y1_1
    simp only [Keeps, and_self, State.bump_keeps]
@[simp] theorem fleetStragglerTrayRx_keeps (p : Nat) (f : Bytes) (s : State) : Keeps s (fleetStragglerTrayRx p f s) := by
  simp only [fleetStragglerTrayRx, Keeps, ite_keeps, ite_self, and_self, State.fleetTray_keeps]
@[simp] theorem State.fleetLeaf_keeps (s : State) (m : Bytes) : Keeps s (State.fleetLeaf s m) := by
  simp only [State.fleetLeaf, Keeps, ite_keeps, ite_self, and_self, State.bump_keeps, State.level_keeps]
@[simp] theorem fleetStragglerLeafRx_keeps (m : Bytes) (s : State) : Keeps s (fleetStragglerLeafRx m s) := by
  simp only [fleetStragglerLeafRx, Keeps, ite_keeps, ite_self, and_self, State.fleetLeaf_keeps]
@[simp] theorem State.sendVerdict_keeps (s : State) (m : Bytes) : KeepsLow s (State.sendVerdict s m) := by
  simp only [State.sendVerdict, KeepsLow, ite_keeps, ite_self, and_self, State.route_keeps, State.sendMsg_keeps]
@[simp] theorem State.baseline_keeps (s : State) (n : Nat) (fs : List Int) (i : Nat) (c : BaseCfg) : KeepsLow s (State.baseline s n fs i c) := by
  unfold State.baseline
  lift_lets
  split
  · rename_i y0_0 y0_1 y0_2
    simp only [KeepsLow, ite_keeps, ite_self, State.bump_keeps]
    split
    · rename_i y2_0 y2_1 y2_2
      simp only [and_self, State.bump_keeps, State.sendVerdict_keeps]
    · rename_i y2_0 y2_1
      simp only [and_self]
  · rename_i y0_0 y0_1
    split
    · rename_i y1_0 y1_1 y1_2 y1_3
      have ky1_3 := congrArg (fun p => p.2) y1_3; dsimp only at ky1_3; subst ky1_3
      simp only [KeepsLow, ite_keeps, ite_self, State.draw_keeps, State.bump_keeps]
      split
      · rename_i y3_0 y3_1 y3_2
        simp only [and_self, State.bump_keeps, State.sendVerdict_keeps]
      · rename_i y3_0 y3_1
        simp only [and_self]
@[simp] theorem State.baselines_keeps (s : State) (n : Nat) (flags : Nat) (fs : List Int) : KeepsLow s (State.baselines s n flags fs) := by
  simp only [State.baselines, KeepsLow, ite_keeps, foldl_keeps, ite_self, and_self, implies_true, State.baseline_keeps]
@[simp] theorem jobRead_keeps (t : SMap StmJob) (idx : Nat) (s : State) : Keeps s (jobRead t idx s).st := by
  simp only [jobRead, Keeps, ite_keeps, ite_self, and_self, State.win_keeps, State.winData_keeps]
@[simp] theorem jobWrite_keeps (idx : Nat) (s : State) : Keeps s (jobWrite idx s).st := by
  simp only [jobWrite, Keeps, ite_keeps, ite_self, and_self, State.win_keeps]
@[simp] theorem notifyPop_keeps (s : State) : Keeps s (notifyPop s).st := by
  unfold notifyPop
  (repeat' split) <;> simp only [Keeps, and_self, State.win_keeps, State.winData_keeps]
@[simp] theorem rowTblRead_keeps (idx : Nat) (s : State) : Keeps s (rowTblRead idx s).st := by
  unfold rowTblRead
  (repeat' split) <;> simp only [Keeps, and_self, State.win_keeps, State.winData_keeps]
@[simp] theorem baseRead_keeps (idx : Nat) (s : State) : Keeps s (baseRead idx s).st := by
  simp only [baseRead, Keeps, ite_keeps, ite_self, and_self, State.winData_keeps, State.win_keeps]
@[simp] theorem baseWrite_keeps (idx : Nat) (s : State) : Keeps s (baseWrite idx s).st := by
  simp only [baseWrite, Keeps, ite_keeps, ite_self, and_self, State.win_keeps]
@[simp] theorem baseReadActive_keeps (idx : Nat) (s : State) : Keeps s (baseReadActive idx s).st := by
  unfold baseReadActive
  (repeat' split) <;> simp only [Keeps, and_self, State.win_keeps, State.winData_keeps]
@[simp] theorem State.forceRows_keeps (s : State) (e : Nat) : KeepsLow s (State.forceRows s e) := by
  simp only [State.forceRows, KeepsLow, ite_keeps, foldl_keeps, ite_self, and_self, implies_true, State.verdictRow_keeps, State.setStmRows_keeps]
@[simp] theorem State.stmCommit_keeps (s : State) : KeepsLow s (State.stmCommit s) := by
  simp only [State.stmCommit, KeepsLow, ite_keeps, foldl_keeps, ite_self, and_self, implies_true, State.forceRows_keeps, State.setStmRows_keeps]
@[simp] theorem stmReset_keeps (s : State) : Keeps s (stmReset s) := by
  simp only [stmReset, Keeps, and_self]
@[simp] theorem State.budFrame_keeps (s : State) (dst : Nat) (kind : Nat) (cls : Nat) (mark : Nat) (sq : Nat) (body : Bytes) : KeepsLow s (State.budFrame s dst kind cls mark sq body) := by
  simp only [State.budFrame, KeepsLow, and_self, State.putDrr_keeps]
@[simp] theorem State.mirrorFrame_keeps (s : State) (cls : Nat) (first : Bool) (body : Bytes) : KeepsLow s (State.mirrorFrame s cls first body) := by
  simp only [State.mirrorFrame, KeepsLow, and_self, State.budFrame_keeps]
@[simp] theorem State.mirror_keeps (s : State) (cls : Nat) (first : Bool) (bodies : List Bytes) : KeepsLow s (State.mirror s cls first bodies) := by
  simp only [State.mirror, KeepsLow, ite_keeps, foldl_keeps, ite_self, and_self, implies_true, State.mirrorFrame_keeps]
@[simp] theorem State.mirrorRecord_keeps (s : State) (w : Nat) (e : Nat) (m : Bytes) : KeepsLow s (State.mirrorRecord s w e m) := by
  simp only [State.mirrorRecord, KeepsLow, and_self, State.mirror_keeps]
@[simp] theorem State.stateLost_keeps (s : State) (classes : Nat) (oldest : Nat) : Keeps s (State.stateLost s classes oldest) := by
  simp only [State.stateLost, Keeps, and_self, State.trayHeader_keeps, State.toCollector_keeps]
@[simp] theorem State.sendResend_keeps (s : State) (w : Nat) (first : Nat) (count : Nat) : Keeps s (State.sendResend s w first count) := by
  simp only [State.sendResend, Keeps, ite_keeps, ite_self, and_self, State.linkMsg_keeps]
@[simp] theorem State.rebuild_keeps (s : State) : Keeps s (State.rebuild s).2 := by
  simp only [State.rebuild, Keeps, ite_keeps, foldl_keeps, ite_self, and_self, implies_true, State.setFld_keeps, State.sendResend_keeps]
@[simp] theorem State.bgAlone_keeps (s : State) (was : Bool) : Keeps s (State.bgAlone s was) := by
  simp only [State.bgAlone, Keeps, ite_keeps, ite_self, and_self, State.setFld_keeps]
@[simp] theorem State.rdxOpen_keeps (s : State) (n : Nat) : Keeps s (State.rdxOpen s n) := by
  unfold State.rdxOpen
  lift_lets
  split
  · rename_i y0_0
    refine foldl_Keeps ?_ fun t1 a1 => ?_
    · simp only [Keeps, and_self]
    · split
      · rename_i y2_0 y2_1 y2_2 y2_3 y2_4
        simp only [Keeps, ite_keeps, ite_self, and_self]
      · rename_i y2_0 y2_1
        simp only [Keeps, and_self]
  · rename_i y0_0
    simp only [Keeps, and_self]
@[simp] theorem State.recReject_keeps (s : State) (cause : Nat) (w : Nat) (epoch : Nat) : Keeps s (State.recReject s cause w epoch) := by
  simp only [State.recReject, Keeps, and_self, State.fault_keeps, State.setReg_keeps, State.bump_keeps]
@[simp] theorem State.recMerge_keeps (s : State) (w : Nat) (m : Bytes) (lost : List Sys2Proof.Word) (a : Accum) (late : Bool) : KeepsLow s (State.recMerge s w m lost a late) := by
  simp only [State.recMerge, KeepsLow, ite_keeps, ite_self, and_self, State.bump_keeps, State.ev_keeps, State.draw_keeps, State.feedRecord_keeps, State.mirrorRecord_keeps]
@[simp] theorem State.recordAt_keeps (s : State) (w : Nat) (m : Bytes) (lost : List Sys2Proof.Word) (restored : Bool) (x : Nat × Stream × TmplEnt × List (BitVec 32)) : KeepsLow s (State.recordAt s w m lost restored x) := by
  simp only [State.recordAt, KeepsLow, ite_keeps, ite_self, and_self, State.recReject_keeps, State.bump_keeps, State.recMerge_keeps]
@[simp] theorem State.recordTaken_keeps (s : State) (w : Nat) (m : Bytes) (lost : List Word) (restored : Bool) : KeepsLow s (s.recordTaken w m lost restored) := by
  unfold State.recordTaken
  lift_lets
  intro h type e job all
  clear_value h type e job all
  refine ite_low (Keeps.refl s).low ?_
  refine ite_low (Keeps.low (State.recReject_keeps ..)) ?_
  refine ite_low (Keeps.low (State.toCollector_keeps ..)) ?_
  refine ite_low (Keeps.refl s).low ?_
  refine ite_low (Keeps.low (State.recReject_keeps ..)) ?_
  split
  · exact Keeps.low (State.recReject_keeps ..)
  · exact State.recordAt_keeps ..
@[simp] theorem recordArrival_keeps (w : Nat) (m : Bytes) (lost : List Word) (s : State) : KeepsLow s (recordArrival w m lost s) := by
  unfold recordArrival
  exact ite_low (State.recordTaken_keeps s w m lost false) (Keeps.refl s).low
@[simp] theorem State.accumEmit_keeps (s : State) (a : Accum) (late : Bool) (close : Nat) : Keeps s (State.accumEmit s a late close) := by
  simp only [State.accumEmit, Keeps, ite_keeps, foldl_keeps, ite_self, and_self, implies_true, State.toCollector_keeps, State.xrfSend_keeps, State.xrfOwn_keeps]
@[simp] theorem State.modelClosed_keeps (s : State) (a : Accum) : KeepsLow s (State.modelClosed s a) := by
  simp only [State.modelClosed, KeepsLow, and_self, State.baselines_keeps, State.recordClosed_keeps]
@[simp] theorem State.closeEpoch_keeps (s : State) (n : Nat) : KeepsLow s (State.closeEpoch s n) := by
  unfold State.closeEpoch
  lift_lets
  intro x0
  clear_value x0
  intro x1
  clear_value x1
  intro x2
  have h2 : KeepsLow s x2 := by simp only [x2, KeepsLow, and_self]
  clear_value x2
  simp only [KeepsLow]
  split
  · rename_i y4_0 y4_1 y4_2
    simp only [ite_keeps, foldl_keeps, ite_self, and_self, implies_true, h2, State.setFld_keeps, State.bump_keeps, State.fault_keeps, State.accumEmit_keeps, State.modelClosed_keeps]
  · rename_i y4_0 y4_1
    simp only [ite_keeps, foldl_keeps, ite_self, and_self, implies_true, h2, State.setFld_keeps, State.bump_keeps, State.fault_keeps, State.accumEmit_keeps]
@[simp] theorem State.leaveWindow_keeps (s : State) (n : Nat) (close : Nat) : Keeps s (State.leaveWindow s n close) := by
  simp only [State.leaveWindow, Keeps, foldl_keeps, and_self, implies_true, State.accumEmit_keeps]
@[simp] theorem rdxClose_keeps (n : Nat) (s : State) : KeepsLow s (rdxClose n s) := by
  unfold rdxClose
  (repeat' split) <;> simp only [KeepsLow, and_self, State.leaveWindow_keeps, State.closeEpoch_keeps, State.reachTime_keeps]
@[simp] theorem State.rdxStepped_keeps (s : State) (old : Option Nat) (landed : Nat) : Keeps s (State.rdxStepped s old landed) := by
  unfold State.rdxStepped
  (repeat' split) <;> simp only [Keeps, and_self]
@[simp] theorem State.rdxRejoin_keeps (s : State) (w : Nat) : Keeps s (State.rdxRejoin s w) := by
  simp only [State.rdxRejoin, Keeps, ite_keeps, foldl_keeps, ite_self, and_self, implies_true, State.sendResend_keeps]
@[simp] theorem rdxResendWrite_keeps (d : Sys2Proof.Word) (s : State) : Keeps s (rdxResendWrite d s) := by
  simp only [rdxResendWrite, Keeps, ite_keeps, ite_self, and_self, State.sendResend_keeps]
@[simp] theorem State.xrfReject_keeps (s : State) (cause : Nat) (epoch : Nat) : Keeps s (State.xrfReject s cause epoch) := by
  simp only [State.xrfReject, Keeps, and_self, State.bump_keeps, State.fault_keeps, State.setReg_keeps]
@[simp] theorem State.xrfPass_keeps (s : State) (x : Xrf) (m : Bytes) : Keeps s (State.xrfPass s x m) := by
  simp only [State.xrfPass, Keeps, ite_keeps, ite_self, and_self, State.xrfForward_keeps]
@[simp] theorem State.xrfTaken_keeps (s : State) (dst : Nat) (vlan : Option (BitVec 16)) (m : Bytes) : Keeps s (s.xrfTaken dst vlan m) := by
  have hp : ∀ (x : Xrf) (u : State), Keeps s u → Keeps s (u.xrfPass x m) := fun x u h => h.trans (State.xrfPass_keeps ..)
  unfold State.xrfTaken
  extract_lets x fwd
  have hf : ∀ u, Keeps u (fwd u) := fun u => State.xrfForward_keeps ..
  clear_value fwd
  split
  · exact (State.xrfReject_keeps ..).trans (hf _)
  split
  · exact State.xrfReject_keeps ..
  split
  · exact State.xrfReject_keeps ..
  split
  · split
    · exact State.xrfReject_keeps ..
    · exact hp _ _ (State.xrfReject_keeps ..)
  · rename_i ds ordered due oldest _
    extract_lets want ord
    split
    · exact hp _ _ (State.xrfReject_keeps ..)
    split
    · exact hp _ _ (State.xrfReject_keeps ..)
    split
    · exact hf _
    have k := State.treePut_keeps s x false (s.isStep x) ord due (xrfMerge x ds)
    split <;> rename_i h <;> rw [h] at k
    · exact k.trans (State.bump_keeps ..)
    · exact k.trans (hf _)
    · exact hp _ _ (k.trans (State.xrfReject_keeps ..))
@[simp] theorem xrfRx_keeps (p : Nat) (f : Bytes) (s : State) : Keeps s (xrfRx p f s) := by
  simp only [xrfRx, Keeps, ite_keeps, ite_self, and_self, State.xrfTaken_keeps]
@[simp] theorem rdxTblRead_keeps (t : Nat) (idx : Nat) (s : State) : Keeps s (rdxTblRead t idx s).st := by
  simp only [rdxTblRead, Keeps, ite_keeps, ite_self, and_self, State.winData_keeps, State.win_keeps]
@[simp] theorem State.setRdxStaged_keeps (s : State) (b : RdxBank) : Keeps s (State.setRdxStaged s b) := by
  simp only [State.setRdxStaged, Keeps, and_self]
@[simp] theorem rdxTblWrite_keeps (t : Nat) (idx : Nat) (s : State) : Keeps s (rdxTblWrite t idx s).st := by
  simp only [rdxTblWrite, Keeps, ite_keeps, ite_self, and_self, State.win_keeps, State.setRdxStaged_keeps]
@[simp] theorem State.rdxApply_keeps (s : State) : Keeps s (State.rdxApply s) := by
  simp only [State.rdxApply, Keeps, ite_keeps, ite_self, and_self, State.rebuild_keeps, State.stateLost_keeps]
@[simp] theorem State.rdxRefuse_keeps (s : State) : Keeps s (State.rdxRefuse s) := by
  simp only [State.rdxRefuse, Keeps, and_self, State.fault_keeps]
@[simp] theorem State.rdxDiscard_keeps (s : State) : Keeps s (State.rdxDiscard s) := by
  unfold State.rdxDiscard
  lift_lets
  intro x0
  clear_value x0
  intro x1
  have h1 : Keeps s x1 := by
      unfold x1
      refine foldl_Keeps ?_ fun t2 a2 => ?_
      · simp only [Keeps, and_self]
      · split
        · rename_i y3_0 y3_1
          simp only [Keeps, and_self]
        · rename_i y3_0 y3_1 y3_2 y3_3
          simp only [Keeps, and_self, State.event_keeps]
  clear_value x1
  intro x2
  clear_value x2
  simp only [Keeps, and_self, h1]
@[simp] theorem rdxReset_keeps (s : State) : Keeps s (rdxReset s) := by
  simp only [rdxReset, Keeps, and_self, State.rdxDiscard_keeps]
@[simp] theorem State.eprForget_keeps (s : State) (g : Nat) : Keeps s (State.eprForget s g) := by
  simp only [State.eprForget, Keeps, and_self]
@[simp] theorem State.eprField_keeps (s : State) (prev : SMap Sys2Proof.Word) (row : Row) (r : OpenRec) (k : Nat) (e : MapEnt) : Keeps s (State.eprField s prev row r k e).1 := by
  unfold State.eprField
  (repeat' split) <;> simp only [Keeps, ite_keeps, ite_self, and_self, State.bump_keeps]
@[simp] theorem State.eprFold_keeps (s : State) (row : Row) (old : Option (SMap Word)) : Keeps s (s.eprFold row old) := by
  have hf : ∀ (p : SMap Word) (l : List (Nat × MapEnt)) (a : State × OpenRec),
      Keeps a.1 (l.foldl (fun (a : State × OpenRec) x => a.1.eprField p row a.2 x.1 x.2) a).1 := by
    intro p l
    induction l with
    | nil => exact fun _ => ⟨rfl, rfl, rfl, rfl⟩
    | cons x l ih => exact fun a => Keeps.trans (State.eprField_keeps ..) (ih _)
  unfold State.eprFold
  extract_lets prev fold s1 s2
  have h1 : Keeps s s1 := by
    unfold s1
    split
    · split
      · exact hf ..
      · exact ⟨rfl, rfl, rfl, rfl⟩
    · exact ⟨rfl, rfl, rfl, rfl⟩
  have h2 : Keeps s1 s2 := by
    unfold s2
    split
    · exact hf ..
    · exact ⟨rfl, rfl, rfl, rfl⟩
  refine h1.trans (h2.trans ?_)
  split <;> exact ⟨rfl, rfl, rfl, rfl⟩
@[simp] theorem State.pkgRecord_keeps (s : State) (r : OpenRec) (flags : Nat) : Keeps s (State.pkgRecord s r flags) := by
  simp only [State.pkgRecord, Keeps, ite_keeps, ite_self, and_self, State.freeBytes_keeps, State.sendMsg_keeps]
@[simp] theorem State.eprClose_keeps (s : State) (r : OpenRec) : KeepsLow s (State.eprClose s r) := by
  simp only [State.eprClose, KeepsLow, and_self, State.pkgRecord_keeps, State.sendMsg_keeps, State.recordClosed_keeps, State.baselines_keeps]
@[simp] theorem State.eprCloseOpen_keeps (s : State) : KeepsLow s (State.eprCloseOpen s) := by
  unfold State.eprCloseOpen
  (repeat' split) <;> simp only [KeepsLow, ite_keeps, ite_self, and_self, State.eprClose_keeps]
@[simp] theorem State.eprLate_keeps (s : State) : KeepsLow s (State.eprLate s) := by
  simp only [State.eprLate, KeepsLow, foldl_keeps, and_self, implies_true, State.eprClose_keeps, State.bump_keeps]
@[simp] theorem State.eprOpen_keeps (s : State) (n : Nat) : Keeps s (State.eprOpen s n) := by
  simp only [State.eprOpen, Keeps, ite_keeps, ite_self, and_self]
@[simp] theorem State.resendOne_keeps (s : State) (e : Nat) : Keeps s (State.resendOne s e) := by
  unfold State.resendOne
  split
  · rename_i y0_0 y0_1 y0_2 y0_3
    lift_lets
    intro x1
    clear_value x1
    simp only [Keeps, and_self, State.sendMsg_keeps, State.bump_keeps]
  · rename_i y0_0 y0_1
    simp only [Keeps, and_self, State.sendMsg_keeps, State.bump_keeps, State.draw_keeps]
@[simp] theorem State.eprServe_keeps (s : State) : Keeps s (State.eprServe s) := by
  unfold State.eprServe
  (repeat' split) <;> simp only [Keeps, and_self, State.resendOne_keeps]
@[simp] theorem resendMsg_keeps (first : Nat) (count : Nat) (s : State) : Keeps s (resendMsg first count s) := by
  simp only [resendMsg, Keeps, ite_keeps, ite_self, and_self, State.bump_keeps, State.eprServe_keeps]
@[simp] theorem State.eprApply_keeps (s : State) : Keeps s (State.eprApply s) := by
  simp only [State.eprApply, Keeps, and_self]
@[simp] theorem State.eprRefuse_keeps (s : State) : Keeps s (State.eprRefuse s) := by
  simp only [State.eprRefuse, Keeps, and_self, State.fault_keeps, State.bump_keeps]
@[simp] theorem State.eprDirect_keeps (s : State) : Keeps s (State.eprDirect s) := by
  simp only [State.eprDirect, Keeps, ite_keeps, ite_self, and_self, State.eprApply_keeps, State.unstage_keeps, State.setReg_keeps, State.eprRefuse_keeps]
@[simp] theorem eprCfgWrite_keeps (d : Sys2Proof.Word) (s : State) : Keeps s (eprCfgWrite d s) := by
  simp only [eprCfgWrite, Keeps, ite_keeps, ite_self, and_self, implies_true, State.plainWrite_keeps, State.eprDirect_keeps]
@[simp] theorem eprTblRead_keeps (b : EprBank) (t : Nat) (idx : Nat) (s : State) : Keeps s (eprTblRead b t idx s).st := by
  simp only [eprTblRead, Keeps, ite_keeps, ite_self, and_self, State.win_keeps, State.winData_keeps]
@[simp] theorem eprTblWrite_keeps (t : Nat) (idx : Nat) (s : State) : Keeps s (eprTblWrite t idx s).st := by
  simp only [eprTblWrite, Keeps, ite_keeps, ite_self, and_self, State.win_keeps]
@[simp] theorem State.eprDrop_keeps (s : State) : Keeps s (State.eprDrop s) := by
  simp only [State.eprDrop, Keeps, and_self]
@[simp] theorem eprReset_keeps (s : State) : Keeps s (eprReset s) := by
  simp only [eprReset, Keeps, and_self, State.eprDrop_keeps]
@[simp] theorem State.wellStale_keeps (s : State) (w : Nat) : Keeps s (State.wellStale s w) := by
  simp only [State.wellStale, Keeps, ite_keeps, ite_self, and_self, State.setFld_keeps, State.bump_keeps, State.fault_keeps, State.setWell_keeps]
@[simp] theorem State.wellTick_keeps (s : State) (w : Nat) : Keeps s (State.wellTick s w).1 := by
  simp only [State.wellTick, Keeps, ite_keeps, ite_self, and_self, State.setWell_keeps, State.bump_keeps, State.setFld_keeps, State.wellStale_keeps]
@[simp] theorem State.setGrun_keeps (s : State) (g : Nat) (r : GRun) : Keeps s (State.setGrun s g r) := by
  simp only [State.setGrun, Keeps, and_self]
@[simp] theorem State.wellTimeout_keeps (s : State) (w : Nat) : Keeps s (State.wellTimeout s w) := by
  simp only [State.wellTimeout, Keeps, ite_keeps, ite_self, and_self, State.giveStale_keeps, State.setWell_keeps, State.wellStale_keeps]
@[simp] theorem staleTimeout_keeps (w : Nat) (s : State) : Keeps s (staleTimeout w s) := by
  simp only [staleTimeout, Keeps, ite_keeps, ite_self, and_self, State.wellTimeout_keeps, State.reach_keeps]
@[simp] theorem wellSnapAck_keeps (w : Nat) (img : List (Nat × Sys2Proof.Word)) (s : State) : Keeps s (wellSnapAck w img s) := by
  simp only [wellSnapAck, Keeps, ite_keeps, ite_self, and_self, State.wellTimeout_keeps, State.setFld_keeps, State.bump_keeps, State.giveStale_keeps, State.setWell_keeps, State.mapGathers_keeps]
@[simp] theorem wellAckLow_keeps (w : Nat) (s : State) : Keeps s (wellAckLow w s) := by
  simp only [wellAckLow, Keeps, ite_keeps, ite_self, and_self, State.setWell_keeps]
@[simp] theorem skewWindowEnd_keeps (w : Nat) (edges : Nat) (s : State) : Keeps s (skewWindowEnd w edges s) := by
  simp only [skewWindowEnd, Keeps, ite_keeps, ite_self, and_self, State.reach_keeps, State.setWell_keeps, State.setFld_keeps, State.fault_keeps]
@[simp] theorem State.welApply_keeps (s : State) (w : Nat) : Keeps s (State.welApply s w) := by
  simp only [State.welApply, Keeps, and_self, State.setWell_keeps]
@[simp] theorem State.welDirect_keeps (s : State) (w : Nat) : Keeps s (State.welDirect s w) := by
  simp only [State.welDirect, Keeps, and_self, State.welApply_keeps, State.unstage_keeps, State.setReg_keeps]
@[simp] theorem State.markBank_keeps {s : State} {u : UnitKind} {i : Nat} {f : State → State} :
    ((∀ t, (f t).chip = t.chip) → (s.markBank u i f).chip = s.chip) ∧
    ((∀ t, (f t).pending = t.pending) → (s.markBank u i f).pending = s.pending) ∧
    ((∀ t, (f t).sram = t.sram) → (s.markBank u i f).sram = s.sram) ∧
    ((∀ t, (f t).hbm = t.hbm) → (s.markBank u i f).hbm = s.hbm) := by
  refine ⟨?_, ?_, ?_, ?_⟩ <;> intro h <;> (unfold State.markBank; simp [ite_keeps, h])
@[simp] theorem welSlotRead_keeps (m : SMap Slot) (idx : Nat) (s : State) : Keeps s (welSlotRead m idx s).st := by
  simp only [welSlotRead, Keeps, ite_keeps, ite_self, and_self, State.win_keeps, State.winData_keeps]
@[simp] theorem welSlotWrite_keeps (w : Nat) (idx : Nat) (s : State) : Keeps s (welSlotWrite w idx s).st := by
  simp only [welSlotWrite, Keeps, ite_keeps, ite_self, and_self, implies_true, State.win_keeps, State.markBank_keeps, State.setWell_keeps, State.welDirect_keeps]
@[simp] theorem welReset_keeps (w : Nat) (s : State) : Keeps s (welReset w s) := by
  simp only [welReset, Keeps, and_self, State.welAbandon_keeps, State.setWell_keeps]
@[simp] theorem State.smpVote_keeps (s : State) : Keeps s (State.smpVote s) := by
  simp only [State.smpVote, Keeps, ite_keeps, ite_self, and_self, State.voteDown_keeps]
@[simp] theorem springPrimeLead_keeps (g : Nat) (s : State) : Keeps s (springPrimeLead g s) := by
  unfold springPrimeLead
  lift_lets
  intro x0
  clear_value x0
  intro x1
  clear_value x1
  intro x2
  clear_value x2
  split
  · rename_i y3_0 y3_1
    lift_lets
    intro x4
    clear_value x4
    intro x5
    have h5 : Keeps s x5 := by simp only [x5, Keeps, ite_keeps, ite_self, and_self, State.reachTime_keeps]
    clear_value x5
    simp only [Keeps, ite_keeps, ite_self, and_self, h5, State.voteUp_keeps, State.setGrun_keeps]
  · rename_i y3_0
    simp only [Keeps, and_self]
@[simp] theorem State.gatherStart_keeps (s : State) (g : Nat) (k : Nat) (shift : Nat) (r : GRun) (d : GDesc) (ms : List Nat) (ver : Nat) (next : Nat) (mixed : Bool) : Keeps s (State.gatherStart s g k shift r d ms ver next mixed) := by
  simp only [State.gatherStart, Keeps, foldl_keeps, and_self, implies_true, State.wellTick_keeps, State.setGrun_keeps, State.ev_keeps]
@[simp] theorem State.springMissed_keeps (s : State) (g : Nat) : Keeps s (State.springMissed s g) := by
  simp only [State.springMissed, Keeps, and_self, State.setGrun_keeps, State.item_keeps, State.bump_keeps]
@[simp] theorem groupTick_keeps (g : Nat) (s : State) : Keeps s (groupTick g s) := by
  unfold groupTick
  (repeat' split) <;> simp only [Keeps, ite_keeps, ite_self, and_self, State.reachTime_keeps, State.setGrun_keeps, State.smpVote_keeps, State.fault_keeps, State.bump_keeps, State.voteUp_keeps, State.springMissed_keeps, State.gatherStart_keeps]
@[simp] theorem State.stageFill_keeps (s : State) : Keeps s (State.stageFill s) := by
  simp only [State.stageFill, Keeps, and_self, State.setFld_keeps]
@[simp] theorem State.cmpVote_keeps (s : State) : Keeps s (State.cmpVote s) := by
  simp only [State.cmpVote, Keeps, ite_keeps, ite_self, and_self, State.voteUp_keeps]
@[simp] theorem State.rowLost_keeps (s : State) (g : Nat) : Keeps s (State.rowLost s g) := by
  simp only [State.rowLost, Keeps, and_self, State.setGrun_keeps]
@[simp] theorem State.stageRow_keeps (s : State) (row : Row) : Keeps s (State.stageRow s row) := by
  simp only [State.stageRow, Keeps, ite_keeps, ite_self, and_self, State.cmpVote_keeps, State.stageFill_keeps, State.fault_keeps, State.rowLost_keeps, State.item_keeps, State.bump_keeps]
@[simp] theorem State.springRow_keeps (s : State) (row : Row) : Keeps s (State.springRow s row) := by
  simp only [State.springRow, Keeps, ite_keeps, ite_self, and_self, State.setFld_keeps, State.rowLost_keeps, State.bump_keeps]
@[simp] theorem rowComplete_keeps (g : Nat) (s : State) : KeepsLow s (rowComplete g s) := by
  unfold rowComplete
  (repeat' split) <;> simp only [KeepsLow, ite_keeps, ite_self, and_self, State.setGrun_keeps, State.item_keeps, State.ev_keeps, State.eprLate_keeps, State.eprFold_keeps, State.smpVote_keeps, State.springRow_keeps, State.stageRow_keeps]
@[simp] theorem stageAgeVote_keeps (s : State) : Keeps s (stageAgeVote s) := by
  unfold stageAgeVote
  (repeat' split) <;> simp only [Keeps, and_self, State.voteUp_keeps, State.reachTime_keeps]
@[simp] theorem State.springRefused_keeps (s : State) : Keeps s (State.springRefused s) := by
  simp only [State.springRefused, Keeps, and_self, State.bump_keeps, State.pgErr_keeps]
@[simp] theorem springCmd_keeps (d : Sys2Proof.Word) (s : State) : Keeps s (springCmd d s) := by
  unfold springCmd
  lift_lets
  intro x0
  clear_value x0
  intro x1
  clear_value x1
  intro x2
  clear_value x2
  split
  · rename_i y3_0 y3_1 y3_2
    lift_lets
    intro x4
    have h4 : Keeps s x4 := by simp only [x4, Keeps, and_self, State.setGrun_keeps]
    clear_value x4
    simp only [Keeps, ite_keeps, ite_self, and_self, h4, State.springRefused_keeps, State.setGrun_keeps, State.voteUp_keeps, State.eprForget_keeps, State.smpVote_keeps]
  · rename_i y3_0 y3_1
    simp only [Keeps, and_self, State.springRefused_keeps]
@[simp] theorem slowDownMsg_keeps (shift : Nat) (s : State) : Keeps s (slowDownMsg shift s) := by
  simp only [slowDownMsg, Keeps, ite_keeps, ite_self, and_self, State.bumpW_keeps, State.setFld_keeps]
@[simp] theorem State.smpCheck_keeps (s : State) (slots : Nat → SMap Slot) : Keeps s (State.smpCheck s slots).2 := by
  simp only [State.smpCheck, Keeps, and_self, State.setReg_keeps]
@[simp] theorem smpValidate_keeps (d : Sys2Proof.Word) (s : State) : Keeps s (smpValidate d s) := by
  simp only [smpValidate, Keeps, ite_keeps, ite_self, and_self, State.setFld_keeps]
@[simp] theorem smpValidateDone_keeps (s : State) : Keeps s (smpValidateDone s) := by
  simp only [smpValidateDone, Keeps, ite_keeps, ite_self, and_self, State.smpCheck_keeps]
@[simp] theorem State.smpApply_keeps (s : State) : Keeps s (State.smpApply s) := by
  simp only [State.smpApply, Keeps, and_self, State.smpVote_keeps]
@[simp] theorem State.smpRefuse_keeps (s : State) : Keeps s (State.smpRefuse s) := by
  simp only [State.smpRefuse, Keeps, and_self, State.fault_keeps, State.bump_keeps]
@[simp] theorem State.smpCommitOk_keeps (s : State) : Keeps s (State.smpCommitOk s).2 := by
  simp only [State.smpCommitOk, Keeps, and_self, State.smpCheck_keeps]
@[simp] theorem State.smpDirect_keeps (s : State) : Keeps s (State.smpDirect s) := by
  simp only [State.smpDirect, Keeps, ite_keeps, ite_self, and_self, State.smpCommitOk_keeps, State.bgAlone_keeps, State.smpApply_keeps, State.unstage_keeps, State.setReg_keeps, State.smpRefuse_keeps]
@[simp] theorem smpPlanWrite_keeps (d : Sys2Proof.Word) (s : State) : Keeps s (smpPlanWrite d s) := by
  simp only [smpPlanWrite, Keeps, and_self, implies_true, State.plainWrite_keeps, State.smpDirect_keeps]
@[simp] theorem planRebuildDone_keeps (g : Nat) (s : State) : Keeps s (planRebuildDone g s) := by
  simp only [planRebuildDone, Keeps, ite_keeps, ite_self, and_self, State.eprForget_keeps, State.setGrun_keeps, State.smpVote_keeps]
@[simp] theorem State.smpStepped_keeps (s : State) : Keeps s (State.smpStepped s) := by
  simp only [State.smpStepped, Keeps, and_self]
@[simp] theorem State.smpRegrid_keeps (s : State) : Keeps s (State.smpRegrid s) := by
  simp only [State.smpRegrid, Keeps, and_self]
@[simp] theorem smpTblRead_keeps (p : Plan) (t : Nat) (idx : Nat) (s : State) : Keeps s (smpTblRead p t idx s).st := by
  simp only [smpTblRead, Keeps, ite_keeps, ite_self, and_self, State.win_keeps, State.winData_keeps]
@[simp] theorem smpTblWrite_keeps (t : Nat) (idx : Nat) (s : State) : Keeps s (smpTblWrite t idx s).st := by
  simp only [smpTblWrite, Keeps, ite_keeps, ite_self, and_self, State.win_keeps]
@[simp] theorem smpReset_keeps (s : State) : KeepsLow s (smpReset s) := by
  simp only [smpReset, KeepsLow, ite_keeps, foldl_keeps, ite_self, and_self, implies_true, State.welAbandon_keeps, State.eprForget_keeps, State.smpVote_keeps, State.eprLate_keeps]
@[simp] theorem State.setCore_keeps (s : State) (c : Nat) (k : CoreSt) : Keeps s (State.setCore s c k) := by
  simp only [State.setCore, Keeps, and_self]
@[simp] theorem State.setCoreBit_keeps (s : State) (r : Reg) (c : Nat) (b : Bool) : Keeps s (State.setCoreBit s r c b) := by
  simp only [State.setCoreBit, Keeps, and_self, State.setReg_keeps]
@[simp] theorem State.coreReset_keeps (s : State) (c : Nat) : Keeps s (State.coreReset s c) := by
  simp only [State.coreReset, Keeps, and_self, State.endXfer_keeps, State.setCore_keeps]
@[simp] theorem State.coreStart_keeps (s : State) (c : Nat) : Keeps s (State.coreStart s c) := by
  simp only [State.coreStart, Keeps, and_self, State.coreReset_keeps, State.setCore_keeps]
@[simp] theorem State.corLast_keeps (s : State) (c : Nat) (cause : Nat) (pc : BitVec 32) : Keeps s (State.corLast s c cause pc) := by
  simp only [State.corLast, Keeps, and_self, State.setReg_keeps]
@[simp] theorem State.coreTrap_keeps (s : State) (c : Nat) (pc : BitVec 32) (cause : BitVec 32) (tval : BitVec 32) : Keeps s (State.coreTrap s c pc cause tval) := by
  simp only [State.coreTrap, Keeps, ite_keeps, ite_self, and_self, State.endXfer_keeps, State.setCoreBit_keeps, State.fault_keeps, State.corLast_keeps, State.setCore_keeps]
@[simp] theorem State.jourStart_keeps (s : State) (die : Nat) (st : NvState) : Keeps s (State.jourStart s die st) := by
  simp only [State.jourStart, Keeps, and_self, State.emit_keeps]
@[simp] theorem State.journalDie_keeps (s : State) (die : Nat) : Keeps s (State.journalDie s die) := by
  unfold State.journalDie
  (repeat' split) <;> simp only [Keeps, and_self, State.jourStart_keeps]
@[simp] theorem State.journal_keeps (s : State) : Keeps s (State.journal s) := by
  simp only [State.journal, Keeps, and_self, State.journalDie_keeps]
@[simp] theorem State.degradeStop_keeps (s : State) (u : Nat) : Keeps s (State.degradeStop s u) := by
  simp only [State.degradeStop, Keeps, ite_keeps, ite_self, and_self, State.mxeEndAll_keeps, State.treEndAll_keeps, State.coreReset_keeps, State.setCoreBit_keeps]
@[simp] theorem State.degrade_keeps (s : State) (u : Nat) : Keeps s (State.degrade s u) := by
  simp only [State.degrade, Keeps, ite_keeps, ite_self, and_self, State.fault_keeps, State.setReg_keeps, State.nvLog_keeps, State.degradeStop_keeps, State.journal_keeps]
@[simp] theorem State.transient_keeps (s : State) (u : Nat) : Keeps s (State.transient s u) := by
  simp only [State.transient, Keeps, ite_keeps, ite_self, and_self, State.degrade_keeps, State.nvLog_keeps, State.journal_keeps]
@[simp] theorem State.settleList_keeps (s : State) (l : List Nat) : Keeps s (s.settleList l) := by
  induction l generalizing s with
  | nil => exact ⟨rfl, rfl, rfl, rfl⟩
  | cons c cs ih =>
    unfold State.settleList
    refine Keeps.trans ?_ (ih ..)
    split <;> simp only [Keeps, State.transient_keeps, and_self]
@[simp] theorem State.settle_keeps (s : State) : Keeps s (State.settle s) := by
  simp only [State.settle, Keeps, and_self, State.settleList_keeps]
@[simp] theorem State.setRun_keeps (s : State) (e : Nat) (r : MRun) : Keeps s (State.setRun s e r) := by
  simp only [State.setRun, Keeps, and_self, State.setMx_keeps]
@[simp] theorem State.mxeRetire_keeps (s : State) (e : Nat) (r : MRun) (w : Nat) (sent : Nat) : Keeps s (State.mxeRetire s e r w sent) := by
  simp only [State.mxeRetire, Keeps, ite_keeps, ite_self, and_self, State.ev_keeps, State.setMx_keeps, State.mxeEndRun_keeps]
@[simp] theorem State.mxeDo_keeps {s : State} {e op : Nat} {ecc : Bool} {f : State → MRun → MSlot → Nat → State} :
    ((∀ t r sl w, (f t r sl w).chip = t.chip) → (s.mxeDo e op ecc f).chip = s.chip) ∧
    ((∀ t r sl w, (f t r sl w).pending = t.pending) → (s.mxeDo e op ecc f).pending = s.pending) ∧
    ((∀ t r sl w, (f t r sl w).sram = t.sram) → (s.mxeDo e op ecc f).sram = s.sram) ∧
    ((∀ t r sl w, (f t r sl w).hbm = t.hbm) → (s.mxeDo e op ecc f).hbm = s.hbm) := by
  refine ⟨?_, ?_, ?_, ?_⟩ <;> intro h <;> (unfold State.mxeDo; split <;> simp [ite_keeps, h])
@[simp] theorem State.mxeStall_keeps (s : State) (e : Nat) (r : MRun) (cyc : Nat) : Keeps s (State.mxeStall s e r cyc).1 := by
  simp only [State.mxeStall, Keeps, and_self, State.setRun_keeps, State.ev_keeps]
@[simp] theorem State.mxeWait_keeps (s : State) (e : Nat) : Keeps s (State.mxeWait s e) := by
  simp only [State.mxeWait, Keeps, and_self, State.mxeYieldStall_keeps, State.setMx_keeps]
@[simp] theorem State.mxeCounts_keeps (s : State) (e : Nat) (r : MRun) (c : ACnt) : Keeps s (State.mxeCounts s e r c).1 := by
  simp only [State.mxeCounts, Keeps, ite_keeps, ite_self, and_self, State.bump_keeps, State.fault_keeps]
@[simp] theorem State.rmon_keeps (s : State) (e : Nat) (j : Nat) (cfg : Sys2Proof.Word) (ex : Option Int) (width : Nat) : Keeps s (State.rmon s e j cfg ex width) := by
  simp only [State.rmon, Keeps, ite_keeps, ite_self, and_self, State.setReg_keeps, State.setMx_keeps, State.fault_keeps]
@[simp] theorem State.scrPut_keeps (s : State) (e : Nat) (sl : MSlot) (off : Nat) (b : Bytes) : Keeps s (State.scrPut s e sl off b) := by
  simp only [State.scrPut, Keeps, and_self, State.setMx_keeps]
@[simp] theorem mxeAcclr_keeps (e : Nat) (s : State) (r : MRun) (x3 : MSlot) (w : Nat) : Keeps s (mxeAcclr e s r x3 w) := by
  simp only [mxeAcclr, Keeps, and_self, State.mxeRetire_keeps, State.setMx_keeps]
@[simp] theorem mxeAccld_keeps (e : Nat) (s : State) (r : MRun) (sl : MSlot) (w : Nat) : Keeps s (mxeAccld e s r sl w) := by
  simp only [mxeAccld, Keeps, and_self, State.mxeRetire_keeps, State.setMx_keeps]
@[simp] theorem mxeMmul_keeps (e : Nat) (s : State) (r : MRun) (sl : MSlot) (w : Nat) : Keeps s (mxeMmul e s r sl w) := by
  simp only [mxeMmul, Keeps, ite_keeps, ite_self, and_self, State.mxeFault_keeps, State.ev_keeps, State.setMx_keeps, State.mxeCounts_keeps, State.mxeRetire_keeps]
@[simp] theorem State.rqPut_keeps (s : State) (e : Nat) (sl : MSlot) (w : Nat) (b : Nat) (r : MRun) (m : Mxe) : Keeps s (State.rqPut s e sl w b r m).1 := by
  simp only [State.rqPut, Keeps, ite_keeps, ite_self, and_self, State.scrPut_keeps, State.rmon_keeps, State.mxeCounts_keeps, State.ev_keeps]
@[simp] theorem rqBlocks_keeps (e : Nat) (sl : MSlot) (w : Nat) (miss : Option (Nat × Nat)) (n b sent : Nat) (s : State) (r : MRun) :
    Keeps s (rqBlocks e sl w miss n b sent s r).1 := by
  induction n generalizing b sent s r with
  | zero => exact ⟨rfl, rfl, rfl, rfl⟩
  | succ n ih =>
    unfold rqBlocks
    extract_lets m per isSent cost t
    have h : Keeps s t := by
      unfold t
      split
      · exact State.bump_keeps ..
      · exact ⟨rfl, rfl, rfl, rfl⟩
    split
    · refine h.trans ?_
      simp only [Keeps, State.bump_keeps, State.setReg_keeps, State.setRun_keeps, and_self]
    · exact (h.trans (State.rqPut_keeps ..)).trans (ih ..)
@[simp] theorem mxeRq_keeps (e : Nat) (miss : Option (Nat × Nat)) (s : State) (r : MRun) (sl : MSlot) (w : Nat) : Keeps s (mxeRq e miss s r sl w) := by
  simp only [mxeRq, Keeps, ite_keeps, ite_self, and_self, State.mxeFault_keeps, rqBlocks_keeps, State.mxeRetire_keeps]
@[simp] theorem actBlocks_keeps (e : Nat) (sl : MSlot) (w : Nat) (n i : Nat) (s : State) (r : MRun) :
    Keeps s (actBlocks e sl w n i s r).1 := by
  induction n generalizing i s r with
  | zero => exact ⟨rfl, rfl, rfl, rfl⟩
  | succ n ih =>
    unfold actBlocks
    extract_lets b bad
    split
    · exact Keeps.trans (State.mxeCounts_keeps ..) (State.setRun_keeps ..)
    · exact Keeps.trans (State.scrPut_keeps ..) (Keeps.trans (State.mxeCounts_keeps ..) (ih ..))
@[simp] theorem mxeAct_keeps (e : Nat) (s : State) (r : MRun) (sl : MSlot) (w : Nat) : Keeps s (mxeAct e s r sl w) := by
  simp only [mxeAct, Keeps, ite_keeps, ite_self, and_self, actBlocks_keeps, State.mxeRetire_keeps, State.mxeFault_keeps]
@[simp] theorem mxeCpy_keeps (e : Nat) (s : State) (r : MRun) (sl : MSlot) (w : Nat) : Keeps s (mxeCpy e s r sl w) := by
  simp only [mxeCpy, Keeps, and_self, State.mxeRetire_keeps, State.scrPut_keeps]
@[simp] theorem State.mxeLines_keeps {s : State} {e cyc : Nat} {r : MRun} {w : Nat} {start : State → State} {fin : Bytes → State → State} :
    ((∀ t, (start t).chip = t.chip) → (∀ b t, (fin b t).chip = t.chip) → (s.mxeLines e cyc r w start fin).chip = s.chip) ∧
    ((∀ t, (start t).pending = t.pending) → (∀ b t, (fin b t).pending = t.pending) → (s.mxeLines e cyc r w start fin).pending = s.pending) ∧
    ((∀ t, (start t).sram = t.sram) → (∀ b t, (fin b t).sram = t.sram) → (s.mxeLines e cyc r w start fin).sram = s.sram) ∧
    ((∀ t, (start t).hbm = t.hbm) → (∀ b t, (fin b t).hbm = t.hbm) → (s.mxeLines e cyc r w start fin).hbm = s.hbm) := by
  refine ⟨?_, ?_, ?_, ?_⟩ <;> intro h k <;> (unfold State.mxeLines; dsimp only; (repeat' split) <;> simp [h, k])
@[simp] theorem mxeLdh_keeps (e : Nat) (cyc : Nat) (s : State) (r : MRun) (sl : MSlot) (w : Nat) : Keeps s (mxeLdh e cyc s r sl w) := by
  simp only [mxeLdh, Keeps, and_self, implies_true, State.mxeLines_keeps, State.beginRead_keeps, State.scrPut_keeps]
@[simp] theorem mxeSth_keeps (e : Nat) (cyc : Nat) (s : State) (r : MRun) (sl : MSlot) (w : Nat) : Keeps s (mxeSth e cyc s r sl w) := by
  simp only [mxeSth, Keeps, and_self, implies_true, State.mxeLines_keeps, State.beginWrite_keeps]
@[simp] theorem ldrecFields_keeps (fs : List Int) (first n : Nat) (s : State) : Keeps s (ldrecFields fs first n s).2.2 := by
  induction n generalizing first s with
  | zero => exact ⟨rfl, rfl, rfl, rfl⟩
  | succ n ih =>
    unfold ldrecFields
    refine Keeps.trans ?_ (ih ..)
    split
    · exact ⟨rfl, rfl, rfl, rfl⟩
    · exact State.draw_keeps ..
@[simp] theorem mxeLdrec_keeps (e : Nat) (cyc : Nat) (s : State) (r : MRun) (sl : MSlot) (w : Nat) : Keeps s (mxeLdrec e cyc s r sl w) := by
  unfold mxeLdrec
  lift_lets
  intro x0
  clear_value x0
  split
  · rename_i y1_0 y1_1 y1_2 y1_3
    have ky1_3 := congrArg (fun p => p.1) y1_3; dsimp only at ky1_3; subst ky1_3
    split
    · rename_i y2_0 y2_1
      simp only [Keeps, and_self, State.mxeStall_keeps, State.mxeWait_keeps]
    · rename_i y2_0 y2_1
      simp only [Keeps, and_self, State.mxeStall_keeps, State.mxeFault_keeps]
    · rename_i y2_0 y2_1 y2_2 y2_3
      simp only [Keeps, and_self, State.mxeStall_keeps, ldrecFields_keeps, State.mxeCounts_keeps, State.scrPut_keeps, State.mxeRetire_keeps]
@[simp] theorem ldeftKeys_keeps (first cnt : Nat) (lost : List Nat) (i : Nat) (ks : List Nat) (s : State) :
    Keeps s (ldeftKeys first cnt lost i ks s).2 := by
  induction ks generalizing i s with
  | nil => exact ⟨rfl, rfl, rfl, rfl⟩
  | cons k ks ih =>
    unfold ldeftKeys
    exact Keeps.trans (State.eftGet_keeps ..) (ih ..)
@[simp] theorem mxeLdeft_keeps (e : Nat) (cyc : Nat) (fin : Bool) (lost : List Nat) (s : State) (r : MRun) (sl : MSlot) (w : Nat) : Keeps s (mxeLdeft e cyc fin lost s r sl w) := by
  simp only [mxeLdeft, Keeps, ite_keeps, ite_self, and_self, State.mxeStall_keeps, ldeftKeys_keeps, State.mxeRetire_keeps, State.scrPut_keeps, State.mxeWait_keeps]
@[simp] theorem mxeVout_keeps (e : Nat) (cyc : Nat) (s : State) (r : MRun) (sl : MSlot) (w : Nat) : Keeps s (mxeVout e cyc s r sl w) := by
  simp only [mxeVout, Keeps, ite_keeps, ite_self, and_self, State.mxeRetire_keeps, State.mxeStall_keeps, State.mxeWait_keeps, State.capVerdict_keeps, State.setMx_keeps]

end Sys2Proof.Machine
end

