-- ==== Sys2Proof/Laws/Keeps3.lean ====
section
/-! SUPPORT. What the functions of MxeLoad, Tre, Cor, Nvh, Scr, Cmp leave alone. -/

namespace Sys2Proof.Machine

@[simp] theorem State.mxePut_keeps (s : State) (e : Nat) (k : Nat) (img : Bytes) : Keeps s (State.mxePut s e k img) := by
  simp only [State.mxePut, Keeps, and_self, State.setMx_keeps]
@[simp] theorem State.mxeLaunchSw_keeps (s : State) (e : Nat) (k : Nat) : Keeps s (State.mxeLaunchSw s e k) := by
  simp only [State.mxeLaunchSw, Keeps, ite_keeps, ite_self, and_self, State.bump_keeps, State.pgErr_keeps, State.mxeLaunch_keeps]
@[simp] theorem mxeLaunchWrite_keeps (e : Nat) (d : Sys2Proof.Word) (s : State) : Keeps s (mxeLaunchWrite e d s) := by
  simp only [mxeLaunchWrite, Keeps, ite_keeps, foldl_keeps, ite_self, and_self, implies_true, State.mxeLaunchSw_keeps]
@[simp] theorem State.mxeBegin_keeps (s : State) (e : Nat) (r : MRun) : Keeps s (State.mxeBegin s e r) := by
  simp only [State.mxeBegin, Keeps, and_self, State.setMx_keeps]
@[simp] theorem mxeRunStart_keeps (e : Nat) (s : State) : Keeps s (mxeRunStart e s) := by
  unfold mxeRunStart
  lift_lets
  intro x0
  clear_value x0
  split
  · rename_i y1_0
    simp only [Keeps, and_self]
  · rename_i y1_0
    split
    · rename_i y2_0 y2_1 y2_2 y2_3 y2_4
      simp only [Keeps, ite_keeps, ite_self, and_self, State.mxeBegin_keeps]
    · rename_i y2_0 y2_1 y2_2 y2_3 y2_4 y2_5
      simp only [Keeps, ite_keeps, ite_self, and_self, State.mxeBegin_keeps, State.mxeNext_keeps]
    · rename_i y2_0 y2_1 y2_2
      simp only [Keeps, ite_keeps, ite_self, and_self, State.mxeNext_keeps]
@[simp] theorem State.mxeSaveImage_keeps (s : State) (e : Nat) (sl : MSlot) : Keeps s (State.mxeSaveImage s e sl) := by
  simp only [State.mxeSaveImage, Keeps, and_self, State.freeBytes_keeps, State.setMx_keeps]
@[simp] theorem mxeSaveDone_keeps (e : Nat) (s : State) : Keeps s (mxeSaveDone e s) := by
  unfold mxeSaveDone
  (repeat' split) <;> simp only [Keeps, ite_keeps, ite_self, and_self, State.ev_keeps, State.mxeSaveImage_keeps, State.mxeEndRun_keeps, State.setRun_keeps, State.bump_keeps, State.setMx_keeps, mxeRunStart_keeps]
@[simp] theorem mxeRestoreDone_keeps (e : Nat) (s : State) : Keeps s (mxeRestoreDone e s) := by
  unfold mxeRestoreDone
  lift_lets
  intro x0
  clear_value x0
  split
  · rename_i y1_0 y1_1
    simp only [Keeps, and_self]
  · rename_i y1_0 y1_1 y1_2
    lift_lets
    intro x2
    clear_value x2
    intro x3
    clear_value x3
    intro x4
    clear_value x4
    intro x5
    clear_value x5
    simp only [Keeps, ite_keeps, ite_self, and_self, State.setMx_keeps, State.ev_keeps]
@[simp] theorem mxeAbortWrite_keeps (e : Nat) (d : Sys2Proof.Word) (s : State) : Keeps s (mxeAbortWrite e d s) := by
  unfold mxeAbortWrite
  lift_lets
  intro x0
  clear_value x0
  intro x1
  have h1 : ∀ a0 a1, Keeps a0 (x1 a0 a1) := by intro a0 a1; simp only [x1, Keeps, and_self, State.setMx_keeps]
  clear_value x1
  split
  · rename_i y2_0
    lift_lets
    intro x3
    clear_value x3
    intro x4
    have h4 : Keeps s x4 := by simp only [x4, Keeps, and_self, State.setMx_keeps]
    clear_value x4
    simp only [Keeps, and_self, h1]
  · rename_i y2_0
    lift_lets
    intro x3
    clear_value x3
    intro x4
    have h4 : Keeps s x4 := by simp only [x4, Keeps, and_self, State.setMx_keeps]
    clear_value x4
    split
    · rename_i y5_0
      split
      · rename_i y6_0 y6_1
        simp only [Keeps, and_self]
      · rename_i y6_0 y6_1 y6_2
        lift_lets
        intro x7
        have h7 : Keeps s x7 := by simp only [x7, Keeps, ite_keeps, ite_self, and_self, State.setRun_keeps, State.mxeSaveImage_keeps]
        clear_value x7
        simp only [Keeps, and_self, h7, h1, State.mxeEndRun_keeps]
    · rename_i y5_0
      split
      · rename_i y6_0 y6_1
        simp only [Keeps, and_self, h1]
      · rename_i y6_0 y6_1 y6_2
        simp only [Keeps, and_self, h4, State.mxeEnd_keeps]
@[simp] theorem mxeSlotRead_keeps (e : Nat) (k : Nat) (s : State) : Keeps s (mxeSlotRead e k s).st := by
  simp only [mxeSlotRead, Keeps, ite_keeps, ite_self, and_self, State.win_keeps, State.winData_keeps]
@[simp] theorem mxeSlotWrite_keeps (e : Nat) (k : Nat) (s : State) : Keeps s (mxeSlotWrite e k s).st := by
  simp only [mxeSlotWrite, Keeps, ite_keeps, ite_self, and_self, State.win_keeps, State.setMx_keeps]
@[simp] theorem State.mxeEmpty_keeps (s : State) (e : Nat) (k : Nat) : Keeps s (State.mxeEmpty s e k) := by
  simp only [State.mxeEmpty, Keeps, and_self, State.setMx_keeps]
@[simp] theorem mxeLoadWin_keeps (e : Nat) (k : Nat) (s : State) : Keeps s (mxeLoadWin e k s).st := by
  simp only [mxeLoadWin, Keeps, ite_keeps, ite_self, and_self, State.win_keeps, State.mxeEmpty_keeps, State.setMx_keeps, State.winBusy_keeps, State.beginRead_keeps]
@[simp] theorem State.mxeLoadFail_keeps (s : State) (e : Nat) (k : Nat) (code : Nat) (idx : Option Nat) : Keeps s (State.mxeLoadFail s e k code idx) := by
  simp only [State.mxeLoadFail, Keeps, and_self, State.setReg_keeps, State.winEnd_keeps]
@[simp] theorem mxeLoadDone_keeps (e : Nat) (s : State) : Keeps s (mxeLoadDone e s) := by
  unfold mxeLoadDone
  lift_lets
  intro x0
  clear_value x0
  intro x1
  have h1 : Keeps s x1 := by simp only [x1, Keeps, and_self, State.endXfer_keeps, State.setMx_keeps]
  clear_value x1
  split
  · rename_i y2_0 y2_1 y2_2 y2_3 y2_4 y2_5
    split
    · rename_i y3_0 y3_1 y3_2 y3_3
      simp only [Keeps, and_self, h1, State.mxeLoadFail_keeps]
    · rename_i y3_0 y3_1
      simp only [Keeps, and_self, h1, State.winEnd_keeps, State.mxePut_keeps]
  · rename_i y2_0 y2_1 y2_2
    simp only [Keeps, and_self]
@[simp] theorem mxeUnload_keeps (e : Nat) (k : Nat) (s : State) : Keeps s (mxeUnload e k s).st := by
  simp only [mxeUnload, Keeps, ite_keeps, ite_self, and_self, State.win_keeps, State.mxeEmpty_keeps]
@[simp] theorem mxeProgRead_keeps (e : Nat) (t : Nat) (idx : Nat) (s : State) : Keeps s (mxeProgRead e t idx s).st := by
  unfold mxeProgRead
  (repeat' split) <;> simp only [Keeps, and_self, State.win_keeps, State.winData_keeps]
@[simp] theorem mxeProgWrite_keeps (e : Nat) (t : Nat) (idx : Nat) (s : State) : Keeps s (mxeProgWrite e t idx s).st := by
  simp only [mxeProgWrite, Keeps, ite_keeps, ite_self, and_self, State.win_keeps, State.setMx_keeps]
@[simp] theorem rmonStatRead_keeps (e : Nat) (k : Nat) (s : State) : Keeps s (rmonStatRead e k s).st := by
  simp only [rmonStatRead, Keeps, and_self, State.setMx_keeps, State.gives_keeps, State.setReg_keeps]
@[simp] theorem mxeReset_keeps (e : Nat) (s : State) : Keeps s (mxeReset e s) := by
  simp only [mxeReset, Keeps, and_self, State.endXfer_keeps, State.mxeEndAll_keeps, State.setMx_keeps]
@[simp] theorem State.trePut_keeps (s : State) (e : Nat) (k : Nat) (m : Bytes) : Keeps s (State.trePut s e k m) := by
  simp only [State.trePut, Keeps, and_self, State.setTr_keeps]
@[simp] theorem State.treLaunchSw_keeps (s : State) (e : Nat) (k : Nat) : Keeps s (State.treLaunchSw s e k) := by
  simp only [State.treLaunchSw, Keeps, ite_keeps, ite_self, and_self, State.bump_keeps, State.pgErr_keeps, State.treLaunch_keeps]
@[simp] theorem treLaunchWrite_keeps (e : Nat) (d : Sys2Proof.Word) (s : State) : Keeps s (treLaunchWrite e d s) := by
  simp only [treLaunchWrite, Keeps, ite_keeps, foldl_keeps, ite_self, and_self, implies_true, State.treLaunchSw_keeps]
@[simp] theorem treRunStart_keeps (e : Nat) (s : State) : Keeps s (treRunStart e s) := by
  unfold treRunStart
  lift_lets
  intro x0
  clear_value x0
  split
  · rename_i y1_0 y1_1 y1_2 y1_3 y1_4 y1_5
    simp only [Keeps, ite_keeps, ite_self, and_self, State.setTr_keeps]
  · rename_i y1_0 y1_1 y1_2
    simp only [Keeps, and_self]
@[simp] theorem recordVector_keeps (fs : List Int) (ws : List Nat) (s : State) : Keeps s (recordVector fs ws s).2.2 := by
  induction ws generalizing s with
  | nil => exact ⟨rfl, rfl, rfl, rfl⟩
  | cons w ws ih =>
    unfold recordVector
    split
    · refine Keeps.trans ?_ (ih ..)
      split
      · exact ⟨rfl, rfl, rfl, rfl⟩
      · exact State.draw_keeps ..
    · exact ih ..
@[simp] theorem State.treHostIn_keeps (s : State) (e : Nat) (r : TRun) (sl : TSlot) : Keeps s (State.treHostIn s e r sl).1 := by
  unfold State.treHostIn
  (repeat' split) <;> simp only [Keeps, and_self, State.beginRead_keeps]
@[simp] theorem State.treInput_keeps (s : State) (e : Nat) (r : TRun) (sl : TSlot) (lost : Bool) : Keeps s (State.treInput s e r sl lost).1 := by
  unfold State.treInput
  lift_lets
  intro x0
  clear_value x0
  split
  · rename_i y1_0
    split
    · rename_i y2_0
      simp only [Keeps]
      split
      · rename_i y4_0 y4_1
        simp only [and_self]
      · rename_i y4_0 y4_1 y4_2 y4_3
        simp only [and_self, State.eftEcc_keeps]
    · rename_i y2_0
      simp only [Keeps]
      split
      · rename_i y4_0 y4_1
        simp only [and_self]
      · rename_i y4_0 y4_1 y4_2 y4_3
        simp only [and_self, State.eftCount_keeps]
  · rename_i y1_0
    split
    · rename_i y2_0
      split
      · rename_i y3_0 y3_1
        simp only [Keeps, and_self]
      · rename_i y3_0 y3_1
        simp only [Keeps, and_self]
      · rename_i y3_0 y3_1 y3_2 y3_3
        simp only [Keeps, and_self, recordVector_keeps]
    · rename_i y2_0
      simp only [Keeps, ite_keeps, ite_self, and_self, State.treHostIn_keeps]
theorem State.treEmit_keeps {s t : State} {e : Nat} {r r2 : TRun} {sl : TSlot} {key : Option Word} {y : List Int} (h : s.treEmit e r sl key y = some (t, r2)) : Keeps s t := by
  unfold State.treEmit at h
  dsimp only at h
  (repeat' split at h) <;> simp at h <;> obtain ⟨rfl, -⟩ := h <;> simp [Keeps]
@[simp] theorem treVector_keeps (e : Nat) (lost : Bool) (ecc : Option Nat) (s : State) : Keeps s (treVector e lost ecc s) := by
  unfold treVector
  lift_lets
  intro x0
  clear_value x0
  split
  · rename_i y1_0 y1_1
    simp only [Keeps, and_self]
  · rename_i y1_0 y1_1 y1_2
    lift_lets
    intro x2
    clear_value x2
    split
    · rename_i y3_0
      simp only [Keeps, and_self]
    · rename_i y3_0
      split
      · rename_i y4_0 y4_1
        simp only [Keeps, and_self, State.treFault_keeps]
      · rename_i y4_0
        split
        · rename_i y5_0 y5_1 y5_2
          have ky5_2 := congrArg (fun p => p.1) y5_2; dsimp only at ky5_2; subst ky5_2
          simp only [Keeps, and_self, State.treInput_keeps]
        · rename_i y5_0 y5_1 y5_2
          have ky5_2 := congrArg (fun p => p.1) y5_2; dsimp only at ky5_2; subst ky5_2
          simp only [Keeps, and_self, State.treInput_keeps, State.treEndRun_keeps]
        · rename_i y5_0 y5_1 y5_2 y5_3
          have ky5_3 := congrArg (fun p => p.1) y5_3; dsimp only at ky5_3; subst ky5_3
          simp only [Keeps, and_self, State.treFault_keeps, State.treInput_keeps]
        · rename_i y5_0 y5_1 y5_2 y5_3 y5_4 y5_5 y5_6 y5_7
          have ky5_7 := congrArg (fun p => p.1) y5_7; dsimp only at ky5_7; subst ky5_7
          simp only [Keeps]
          split
          · rename_i y7_0 y7_1
            simp only [and_self]
          · rename_i y7_0 y7_1 y7_2 y7_3
            have ky7_3 := State.treEmit_keeps y7_3
            simp only [ite_keeps, ite_self, and_self, ky7_3, State.treInput_keeps, State.treEndRun_keeps, State.bump_keeps, State.ev_keeps, State.setTr_keeps]
@[simp] theorem treAbortWrite_keeps (e : Nat) (d : Sys2Proof.Word) (s : State) : Keeps s (treAbortWrite e d s) := by
  unfold treAbortWrite
  lift_lets
  intro x0
  clear_value x0
  intro x1
  have h1 : ∀ a0 a1, Keeps a0 (x1 a0 a1) := by intro a0 a1; simp only [x1, Keeps, and_self, State.setTr_keeps]
  clear_value x1
  split
  · rename_i y2_0
    lift_lets
    intro x3
    clear_value x3
    simp only [Keeps, and_self, h1]
  · rename_i y2_0
    lift_lets
    intro x3
    clear_value x3
    split
    · rename_i y4_0
      simp only [Keeps, and_self, h1, State.treEndRun_keeps]
    · rename_i y4_0
      split
      · rename_i y5_0 y5_1
        simp only [Keeps, and_self, h1]
      · rename_i y5_0 y5_1 y5_2
        simp only [Keeps, and_self, State.setTr_keeps, State.treEnd_keeps]
@[simp] theorem treSlotRead_keeps (e : Nat) (k : Nat) (s : State) : Keeps s (treSlotRead e k s).st := by
  simp only [treSlotRead, Keeps, ite_keeps, ite_self, and_self, State.win_keeps, State.winData_keeps]
@[simp] theorem treSlotWrite_keeps (e : Nat) (k : Nat) (s : State) : Keeps s (treSlotWrite e k s).st := by
  simp only [treSlotWrite, Keeps, ite_keeps, ite_self, and_self, State.win_keeps, State.setTr_keeps]
@[simp] theorem State.treEmpty_keeps (s : State) (e : Nat) (k : Nat) : Keeps s (State.treEmpty s e k) := by
  simp only [State.treEmpty, Keeps, and_self, State.setTr_keeps]
@[simp] theorem treLoadWin_keeps (e : Nat) (k : Nat) (s : State) : Keeps s (treLoadWin e k s).st := by
  simp only [treLoadWin, Keeps, ite_keeps, ite_self, and_self, State.win_keeps, State.treEmpty_keeps, State.setTr_keeps, State.winBusy_keeps, State.beginRead_keeps]
@[simp] theorem State.treLoadFail_keeps (s : State) (e : Nat) (k : Nat) (code : Nat) (idx : Option Nat) : Keeps s (State.treLoadFail s e k code idx) := by
  simp only [State.treLoadFail, Keeps, and_self, State.setReg_keeps, State.winEnd_keeps]
@[simp] theorem treLoadDone_keeps (e : Nat) (s : State) : Keeps s (treLoadDone e s) := by
  unfold treLoadDone
  lift_lets
  intro x0
  clear_value x0
  intro x1
  have h1 : Keeps s x1 := by simp only [x1, Keeps, and_self, State.endXfer_keeps, State.setTr_keeps]
  clear_value x1
  split
  · rename_i y2_0 y2_1 y2_2 y2_3 y2_4 y2_5
    split
    · rename_i y3_0 y3_1 y3_2 y3_3
      simp only [Keeps, and_self, h1, State.treLoadFail_keeps]
    · rename_i y3_0 y3_1
      simp only [Keeps, and_self, h1, State.winEnd_keeps, State.trePut_keeps]
  · rename_i y2_0 y2_1 y2_2
    simp only [Keeps, and_self]
@[simp] theorem treUnload_keeps (e : Nat) (k : Nat) (s : State) : Keeps s (treUnload e k s).st := by
  simp only [treUnload, Keeps, ite_keeps, ite_self, and_self, State.win_keeps, State.treEmpty_keeps]
@[simp] theorem treReset_keeps (e : Nat) (s : State) : Keeps s (treReset e s) := by
  simp only [treReset, Keeps, and_self, State.endXfer_keeps, State.treEndAll_keeps, State.setTr_keeps]
@[simp] theorem State.coreRunBit_keeps (s : State) (c : Nat) (b : Bool) : Keeps s (State.coreRunBit s c b) := by
  simp only [State.coreRunBit, Keeps, ite_keeps, ite_self, and_self, State.pgErr_keeps, State.coreStart_keeps, State.setCoreBit_keeps, State.coreReset_keeps]
@[simp] theorem corRunWrite_keeps (d : Sys2Proof.Word) (s : State) : Keeps s (corRunWrite d s) := by
  simp only [corRunWrite, Keeps, foldl_keeps, and_self, implies_true, State.coreRunBit_keeps]
@[simp] theorem corSharedWrite_keeps (d : Sys2Proof.Word) (s : State) : Keeps s (corSharedWrite d s) := by
  unfold corSharedWrite
  simp [Keeps, ite_keeps, ite_self, and_self, implies_true]
@[simp] theorem State.eachCore_keeps {s : State} {mask : Nat} {f : State → Nat → State} :
    ((∀ t c, (f t c).chip = t.chip) → (s.eachCore mask f).chip = s.chip) ∧
    ((∀ t c, (f t c).pending = t.pending) → (s.eachCore mask f).pending = s.pending) ∧
    ((∀ t c, (f t c).sram = t.sram) → (s.eachCore mask f).sram = s.sram) ∧
    ((∀ t c, (f t c).hbm = t.hbm) → (s.eachCore mask f).hbm = s.hbm) := by
  refine ⟨?_, ?_, ?_, ?_⟩ <;> intro h <;> simp [State.eachCore, foldl_keeps, ite_keeps, h]
@[simp] theorem fwLoadWin_keeps (s : State) : Keeps s (fwLoadWin s).st := by
  simp only [fwLoadWin, Keeps, ite_keeps, ite_self, and_self, State.win_keeps, State.winBusy_keeps, State.beginRead_keeps]
@[simp] theorem State.fwFail_keeps (s : State) (mask : Nat) (code : Nat) : Keeps s (State.fwFail s mask code) := by
  simp only [State.fwFail, Keeps, and_self, implies_true, State.eachCore_keeps, State.setCoreBit_keeps, State.setCore_keeps, State.winEnd_keeps, State.fault_keeps, State.bump_keeps]
@[simp] theorem fwLoadDone_keeps (s : State) : Keeps s (fwLoadDone s) := by
  unfold fwLoadDone
  (repeat' split) <;> simp only [Keeps, ite_keeps, ite_self, and_self, implies_true, State.endXfer_keeps, State.fwFail_keeps, State.eachCore_keeps, State.setCoreBit_keeps, State.setCore_keeps, State.winEnd_keeps]
@[simp] theorem mbxPush_keeps (c : Nat) (s : State) : Keeps s (mbxPush c s).st := by
  simp only [mbxPush, Keeps, ite_keeps, ite_self, and_self, State.win_keeps, State.setCore_keeps]
@[simp] theorem mbxPop_keeps (c : Nat) (s : State) : Keeps s (mbxPop c s).st := by
  unfold mbxPop
  lift_lets
  intro x0
  clear_value x0
  split
  · rename_i y1_0
    simp only [Keeps, and_self, State.win_keeps]
  · rename_i y1_0
    split
    · rename_i y2_0 y2_1
      simp only [Keeps, and_self, State.win_keeps]
    · rename_i y2_0 y2_1 y2_2 y2_3
      simp only [Keeps, and_self, State.winData_keeps, State.setCore_keeps]
@[simp] theorem coreMbxPop_keeps (c : Nat) (s : State) : Keeps s (coreMbxPop c s) := by
  simp only [coreMbxPop, Keeps, ite_keeps, ite_self, and_self, State.setCore_keeps]
@[simp] theorem State.mbxSend_keeps (s : State) (c : Nat) (pc : BitVec 32) : Keeps s (State.mbxSend s c pc) := by
  simp only [State.mbxSend, Keeps, ite_keeps, ite_self, and_self, State.coreTrap_keeps, State.freeBytes_keeps, State.level_keeps, State.setCore_keeps]
@[simp] theorem coreMbxPush_keeps (c : Nat) (pc : BitVec 32) (msg : BitVec 128) (s : State) : Keeps s (coreMbxPush c pc msg s) := by
  simp only [coreMbxPush, Keeps, ite_keeps, ite_self, and_self, State.mbxSend_keeps, State.setCore_keeps]
@[simp] theorem State.coreEft_keeps {s : State} {c : Nat} {key : Word} {opt buf : Nat} {op : State → EftOut} :
    ((∀ t, (op t).st.chip = t.chip) → (s.coreEft c key opt buf op).chip = s.chip) ∧
    ((∀ t, (op t).st.pending = t.pending) → (s.coreEft c key opt buf op).pending = s.pending) ∧
    ((∀ t, (op t).st.sram = t.sram) → (s.coreEft c key opt buf op).sram = s.sram) ∧
    ((∀ t, (op t).st.hbm = t.hbm) → (s.coreEft c key opt buf op).hbm = s.hbm) := by
  refine ⟨?_, ?_, ?_, ?_⟩ <;> intro h <;> simp [State.coreEft, ite_keeps, h]
@[simp] theorem coreEftWrite_keeps (c : Nat) (key : Sys2Proof.Word) (opt : Nat) (buf : Nat) (ent : Bytes) (ecc : Bool) (s : State) : Keeps s (coreEftWrite c key opt buf ent ecc s) := by
  simp only [coreEftWrite, Keeps, ite_keeps, ite_self, and_self, implies_true, State.setCore_keeps, State.coreEft_keeps, eftWrite_keeps]
@[simp] theorem State.coreEftCmd_keeps (s : State) (c : Nat) (op : Nat) (buf : Nat) (ecc : Bool) : Keeps s (State.coreEftCmd s c op buf ecc) := by
  unfold State.coreEftCmd
  (repeat' split) <;> simp only [Keeps, and_self, implies_true, State.coreEft_keeps, eftRead_keeps, eftWrite_keeps, eftDelete_keeps, eftReadPos_keeps, eftPurge_keeps]
@[simp] theorem coreEftDone_keeps (c : Nat) (s : State) : Keeps s (coreEftDone c s) := by
  simp only [coreEftDone, Keeps, ite_keeps, ite_self, and_self, State.setCore_keeps]
@[simp] theorem eftPurgeDone_keeps (s : State) : Keeps s (eftPurgeDone s) := by
  unfold eftPurgeDone
  lift_lets
  intro x0
  clear_value x0
  split
  · rename_i y1_0 y1_1
    simp only [Keeps, and_self]
  · rename_i y1_0 y1_1 y1_2 y1_3 y1_4
    lift_lets
    intro x2
    have h2 : Keeps s x2 := by simp only [x2, Keeps, and_self, State.eftPurgeAll_keeps]
    clear_value x2
    split
    · rename_i y3_0 y3_1
      simp only [Keeps, and_self, h2, State.winEnd_keeps]
    · rename_i y3_0 y3_1 y3_2
      simp only [Keeps, and_self, h2]
@[simp] theorem State.coreDone_keeps (s : State) (stall : Nat) : Keeps s (State.coreDone s stall) := by
  simp only [State.coreDone, Keeps, and_self, State.ev_keeps]
@[simp] theorem coreHostAccess_keeps (c : Nat) (pc : BitVec 32) (off : Nat) (write : Bool) (atomic : Bool) (data : Bytes) (s : State) : Keeps s (coreHostAccess c pc off write atomic data s) := by
  simp only [coreHostAccess, Keeps, ite_keeps, ite_self, and_self, State.coreTrap_keeps, State.coreDone_keeps, State.endXfer_keeps, State.setCore_keeps, State.tlbUse_keeps, State.bytes_keeps, State.hostPut_keeps, State.hostGet_keeps, State.beginRanges_keeps]
@[simp] theorem State.coreXltAbort_keeps (s : State) (c : Nat) : Keeps s (State.coreXltAbort s c) := by
  unfold State.coreXltAbort
  lift_lets
  intro x0
  clear_value x0
  intro x1
  have h1 : Keeps s x1 := by simp only [x1, Keeps, and_self, State.endXfer_keeps, State.setCore_keeps]
  clear_value x1
  split
  · rename_i y2_0 y2_1
    lift_lets
    intro x3
    have h3 : Keeps s x3 := by simp only [x3, Keeps, and_self, h1, State.bump_keeps, State.corLast_keeps]
    clear_value x3
    simp only [Keeps, and_self]
  · rename_i y2_0 y2_1 y2_2 y2_3 y2_4
    lift_lets
    intro x3
    have h3 : Keeps s x3 := by simp only [x3, Keeps, and_self, h1, State.bump_keeps, State.corLast_keeps]
    clear_value x3
    simp only [Keeps, and_self, h3, State.coreTrap_keeps]
@[simp] theorem coreXltStallTimeout_keeps (c : Nat) (s : State) : Keeps s (coreXltStallTimeout c s) := by
  unfold coreXltStallTimeout
  (repeat' split) <;> simp only [Keeps, and_self, State.coreXltAbort_keeps, State.reach_keeps]
@[simp] theorem State.coreInterrupt_keeps (s : State) (c : Nat) (pc : BitVec 32) (n : Nat) : Keeps s (State.coreInterrupt s c pc n) := by
  simp only [State.coreInterrupt, Keeps, ite_keeps, ite_self, and_self, State.coreTrap_keeps, State.setCore_keeps]
@[simp] theorem State.coreUncorr_keeps (s : State) (c : Nat) (pc : BitVec 32) (addr : BitVec 32) (op : Sys2Proof.CoreOp) : Keeps s (State.coreUncorr s c pc addr op) := by
  simp only [State.coreUncorr, Keeps, and_self, State.coreTrap_keeps, State.fault_keeps, State.corLast_keeps]
@[simp] theorem State.coreWrite_keeps (s : State) (c : Nat) (m : CoreMem) (addr : Nat) (off : Nat) (n : Nat) (v : BitVec 32) : KeepsTop s (State.coreWrite s c m addr off n v) := by
  unfold State.coreWrite
  (repeat' split) <;> simp only [KeepsTop, and_self, State.setCore_keeps, State.bytes_keeps]
@[simp] theorem State.coreData_keeps (s : State) (c : Nat) (m : CoreMem) (addr : Nat) (off : Nat) (op : Sys2Proof.CoreOp) (data : BitVec 32) : KeepsTop s (State.coreData s c m addr off op data) := by
  unfold State.coreData
  (repeat' split) <;> simp only [KeepsTop, ite_keeps, ite_self, and_self, State.setCore_keeps, State.bytes_keeps, State.coreWrite_keeps]
@[simp] theorem State.kicked_keeps (s : State) (c : Nat) (v : BitVec 32) : Keeps s (State.kicked s c v) := by
  simp only [State.kicked, Keeps, ite_keeps, ite_self, and_self, State.setCore_keeps]
@[simp] theorem State.clWrite_keeps (s : State) (c : Nat) (pc : BitVec 32) (off : Nat) (v : BitVec 32) (ecc : Bool) : Keeps s (State.clWrite s c pc off v ecc) := by
  simp only [State.clWrite, Keeps, ite_keeps, ite_self, and_self, State.setCore_keeps, State.mbxSend_keeps, State.kicked_keeps, State.coreEftCmd_keeps]
@[simp] theorem State.coreLocal_keeps (s : State) (c : Nat) (pc : BitVec 32) (off : Nat) (op : Sys2Proof.CoreOp) (data : BitVec 32) (ecc : Bool) : Keeps s (State.coreLocal s c pc off op data ecc) := by
  unfold State.coreLocal
  (repeat' split) <;> simp only [Keeps, and_self, State.mbxSend_keeps, State.coreDone_keeps, State.clWrite_keeps, State.setCore_keeps]
@[simp] theorem coreTrapRow_keeps (c : Nat) (pc : BitVec 32) (why : Sys2Proof.TrapWhy) (s : State) : Keeps s (coreTrapRow c pc why s) := by
  unfold coreTrapRow
  (repeat' split) <;> simp only [Keeps, and_self, State.coreInterrupt_keeps, State.coreTrap_keeps, State.coreUncorr_keeps]
@[simp] theorem coreMret_keeps (c : Nat) (s : State) : Keeps s (coreMret c s) := by
  simp only [coreMret, Keeps, ite_keeps, ite_self, and_self, State.setCore_keeps]
@[simp] theorem mtimeMatch_keeps (c : Nat) (s : State) : Keeps s (mtimeMatch c s) := by
  simp only [mtimeMatch, Keeps, ite_keeps, ite_self, and_self, State.reach_keeps]
@[simp] theorem State.coresBoundary_keeps (s : State) : Keeps s (State.coresBoundary s) := by
  simp only [State.coresBoundary, Keeps, ite_keeps, foldl_keeps, ite_self, and_self, implies_true, State.setCore_keeps]
@[simp] theorem wdogKick_keeps (c : Nat) (v : BitVec 32) (s : State) : Keeps s (wdogKick c v s) := by
  simp only [wdogKick, Keeps, ite_keeps, ite_self, and_self, State.kicked_keeps]
@[simp] theorem wdogBark_keeps (c : Nat) (s : State) : Keeps s (wdogBark c s) := by
  simp only [wdogBark, Keeps, ite_keeps, ite_self, and_self, State.reach_keeps, State.bump_keeps, State.setCore_keeps]
@[simp] theorem wdogBite_keeps (c : Nat) (pc : BitVec 32) (s : State) : Keeps s (wdogBite c pc s) := by
  simp only [wdogBite, Keeps, ite_keeps, ite_self, and_self, State.coreStart_keeps, State.reach_keeps, State.fault_keeps, State.corLast_keeps, State.bump_keeps, State.event_keeps]
@[simp] theorem corReset_keeps (s : State) : Keeps s (corReset s) := by
  simp only [corReset, Keeps, foldl_keeps, and_self, implies_true, State.coreReset_keeps, State.endXfer_keeps]
@[simp] theorem State.setPart_keeps (s : State) (die : Nat) (p : NorPart) : Keeps s (State.setPart s die p) := by
  simp only [State.setPart, Keeps, and_self]
@[simp] theorem State.regain_keeps (s : State) (degraded : BitVec 64) : Keeps s (State.regain s degraded) := by
  simp only [State.regain, Keeps, and_self, State.setReg_keeps]
@[simp] theorem nvPhaseDone_keeps (s : State) : Keeps s (nvPhaseDone s) := by
  unfold nvPhaseDone
  lift_lets
  intro x0
  clear_value x0
  intro x1
  clear_value x1
  intro x2
  clear_value x2
  intro x3
  clear_value x3
  intro x4
  have h4 : ∀ a0 a1, Keeps a0 (x4 a0 a1) := by intro a0 a1; simp only [x4, Keeps, and_self, State.emit_keeps]
  clear_value x4
  split
  · rename_i y5_0 y5_1
    lift_lets
    intro x6
    clear_value x6
    intro x7
    have h7 : Keeps s x7 := by simp only [x7, Keeps, and_self]
    clear_value x7
    simp only [Keeps, and_self]
  · rename_i y5_0 y5_1 y5_2
    lift_lets
    intro x6
    clear_value x6
    intro x7
    have h7 : Keeps s x7 := by simp only [x7, Keeps, and_self]
    clear_value x7
    split
    · rename_i y8_0
      lift_lets
      intro x9
      clear_value x9
      intro x10
      clear_value x10
      intro x11
      clear_value x11
      intro x12
      have h12 : Keeps s x12 := by simp only [x12, Keeps, and_self, State.setPart_keeps]
      clear_value x12
      simp only [Keeps, ite_keeps, ite_self, h12, h7, h4, State.setPart_keeps, State.bytes_keeps, State.regain_keeps, State.pendBit_keeps, State.bump_keeps]
      grind [State.emit_keeps, State.setPart_keeps, State.bytes_keeps, State.regain_keeps, State.pendBit_keeps, State.bump_keeps, State.journalDie_keeps]
    · rename_i y8_0
      lift_lets
      intro x9
      clear_value x9
      intro x10
      clear_value x10
      intro x11
      clear_value x11
      intro x12
      have h12 : Keeps s x12 := by simp only [x12, Keeps, and_self, State.setPart_keeps]
      clear_value x12
      simp only [Keeps, ite_keeps, ite_self, h12, h7, h4, State.setPart_keeps, State.bytes_keeps, State.regain_keeps, State.pendBit_keeps, State.bump_keeps]
      grind [State.emit_keeps, State.setPart_keeps, State.bytes_keeps, State.regain_keeps, State.pendBit_keeps, State.bump_keeps, State.journalDie_keeps]
@[simp] theorem nvhCheckpoint_keeps (s : State) : Keeps s (nvhCheckpoint s) := by
  simp only [nvhCheckpoint, Keeps, and_self, State.reach_keeps, State.journal_keeps, State.nvLog_keeps]
@[simp] theorem State.logPut_keeps (s : State) (die : Nat) (r : Option NvRec) : Keeps s (State.logPut s die r) := by
  simp only [State.logPut, Keeps, and_self, State.setPart_keeps]
@[simp] theorem nvhLogWriteDone_keeps (ok : Bool) (s : State) : Keeps s (nvhLogWriteDone ok s) := by
  unfold nvhLogWriteDone
  (repeat' split) <;> simp only [Keeps, and_self, State.bytes_keeps, State.bump_keeps, State.logPut_keeps, State.fault_keeps]
@[simp] theorem nvhLogRead_keeps (die : Nat) (idx : Nat) (s : State) : Keeps s (nvhLogRead die idx s).st := by
  unfold nvhLogRead
  (repeat' split) <;> simp only [Keeps, and_self, State.win_keeps, State.winData_keeps, State.bytes_keeps]
@[simp] theorem nvhFwdPop_keeps (s : State) : Keeps s (nvhFwdPop s).st := by
  unfold nvhFwdPop
  (repeat' split) <;> simp only [Keeps, and_self, State.win_keeps, State.winData_keeps]
@[simp] theorem nvhFwdWrite_keeps (s : State) : Keeps s (nvhFwdWrite s).st := by
  unfold nvhFwdWrite
  (repeat' split) <;> simp only [Keeps, and_self, State.win_keeps, State.journalDie_keeps]
@[simp] theorem nvhStateRead_keeps (idx : Nat) (s : State) : Keeps s (nvhStateRead idx s).st := by
  unfold nvhStateRead
  (repeat' split) <;> simp only [Keeps, and_self, State.win_keeps, State.winData_keeps, State.bytes_keeps]
@[simp] theorem State.takeNv_keeps (s : State) (t : NvState) : Keeps s (State.takeNv s t) := by
  simp only [State.takeNv, Keeps, ite_keeps, foldl_keeps, ite_self, and_self, implies_true, State.setReg_keeps, State.degradeStop_keeps]
@[simp] theorem nvhStateWrite_keeps (idx : Nat) (s : State) : Keeps s (nvhStateWrite idx s).st := by
  unfold nvhStateWrite
  lift_lets
  intro x0
  clear_value x0
  intro x1
  have h1 : Keeps s x1 := by simp only [x1, Keeps, and_self]
  clear_value x1
  split
  · rename_i y2_0
    lift_lets
    intro x3
    clear_value x3
    intro x4
    clear_value x4
    intro x5
    have h5 : Keeps s x5 := by simp only [x5, Keeps, and_self, h1]
    clear_value x5
    simp only [Keeps, and_self, State.win_keeps]
  · rename_i y2_0
    lift_lets
    intro x3
    clear_value x3
    intro x4
    clear_value x4
    intro x5
    have h5 : Keeps s x5 := by simp only [x5, Keeps, and_self, h1]
    clear_value x5
    split
    · rename_i y6_0
      lift_lets
      intro x7
      clear_value x7
      simp only [Keeps, and_self, State.win_keeps]
    · rename_i y6_0
      lift_lets
      intro x7
      clear_value x7
      split
      · rename_i y8_0
        simp only [Keeps, and_self, h1, State.win_keeps]
      · rename_i y8_0
        split
        · rename_i y9_0 y9_1
          simp only [Keeps, and_self, h5, State.win_keeps]
        · rename_i y9_0 y9_1 y9_2
          simp only [Keeps, and_self, h5, State.win_keeps, State.takeNv_keeps]
@[simp] theorem State.passEnd_keeps (s : State) : Keeps s (State.passEnd s) := by
  simp only [State.passEnd, Keeps, and_self, State.nvLog_keeps, State.bumpW_keeps, State.pendBit_keeps]
@[simp] theorem State.passStart_keeps (s : State) : Keeps s (State.passStart s) := by
  simp only [State.passStart, Keeps, and_self]
@[simp] theorem State.passCheck_keeps (s : State) : Keeps s (State.passCheck s) := by
  simp only [State.passCheck, Keeps, ite_keeps, ite_self, and_self, State.passEnd_keeps, State.passStart_keeps]
@[simp] theorem State.passFalls_keeps (s : State) : Keeps s (State.passFalls s) := by
  simp only [State.passFalls, Keeps, ite_keeps, ite_self, and_self, State.passCheck_keeps, State.passStart_keeps]
@[simp] theorem scrPassTimer_keeps (s : State) : Keeps s (scrPassTimer s) := by
  unfold scrPassTimer
  (repeat' split) <;> simp only [Keeps, and_self, State.reach_keeps, State.passFalls_keeps]
@[simp] theorem State.scrRunEn_keeps (s : State) (was : Bool) : Keeps s (State.scrRunEn s was) := by
  simp only [State.scrRunEn, Keeps, ite_keeps, ite_self, and_self]
@[simp] theorem State.takeBundle_keeps (s : State) : Keeps s (State.takeBundle s) := by
  unfold State.takeBundle
  (repeat' split) <;> simp only [Keeps, ite_keeps, ite_self, and_self, State.setReg_keeps]
@[simp] theorem State.patOver_keeps (s : State) : Keeps s (State.patOver s) := by
  simp only [State.patOver, Keeps, and_self, State.passCheck_keeps, State.takeBundle_keeps]
@[simp] theorem scrLoadWin_keeps (s : State) : Keeps s (scrLoadWin s).st := by
  simp only [scrLoadWin, Keeps, ite_keeps, ite_self, and_self, State.win_keeps, State.winBusy_keeps, State.beginRead_keeps]
@[simp] theorem State.bundleFail_keeps (s : State) (code : Nat) : Keeps s (State.bundleFail s code) := by
  simp only [State.bundleFail, Keeps, and_self, State.winEnd_keeps, State.fault_keeps, State.bump_keeps]
@[simp] theorem scrBundleDone_keeps (s : State) : Keeps s (scrBundleDone s) := by
  unfold scrBundleDone
  (repeat' split) <;> simp only [Keeps, ite_keeps, ite_self, and_self, State.endXfer_keeps, State.bundleFail_keeps, State.winEnd_keeps, State.takeBundle_keeps]
@[simp] theorem State.patMxe_keeps (s : State) (p : ScrPat) (e : Nat) : Keeps s (State.patMxe s p e) := by
  unfold State.patMxe
  lift_lets
  intro x0
  clear_value x0
  intro x1
  have h1 : Keeps s x1 := by simp only [x1, Keeps, and_self, State.mxePut_keeps]
  clear_value x1
  split
  · rename_i y2_0 y2_1 y2_2 y2_3
    lift_lets
    intro x3
    have h3 : Keeps s x3 := by simp only [x3, Keeps, and_self, h1, State.scrPut_keeps]
    clear_value x3
    simp only [Keeps, and_self, State.scrEnded_keeps]
  · rename_i y2_0 y2_1
    lift_lets
    intro x3
    have h3 : Keeps s x3 := by simp only [x3, Keeps, and_self, h1, State.scrPut_keeps]
    clear_value x3
    simp only [Keeps, and_self, h3, State.mxeLaunch_keeps]
@[simp] theorem State.patTre_keeps (s : State) (p : ScrPat) (e : Nat) : Keeps s (State.patTre s p e) := by
  unfold State.patTre
  lift_lets
  intro x0
  clear_value x0
  intro x1
  clear_value x1
  intro x2
  clear_value x2
  intro x3
  clear_value x3
  intro x4
  have h4 : Keeps s x4 := by simp only [x4, Keeps, and_self, State.trePut_keeps, State.setTr_keeps]
  clear_value x4
  split
  · rename_i y5_0 y5_1 y5_2 y5_3
    lift_lets
    intro x6
    clear_value x6
    simp only [Keeps, and_self, State.scrEnded_keeps]
  · rename_i y5_0 y5_1
    lift_lets
    intro x6
    clear_value x6
    simp only [Keeps, and_self, h4, State.treLaunch_keeps]
@[simp] theorem State.patLaunch_keeps (s : State) (r : ScrRun) : Keeps s (State.patLaunch s r) := by
  unfold State.patLaunch
  (repeat' split) <;> simp only [Keeps, and_self, State.patMxe_keeps, State.patTre_keeps]
@[simp] theorem State.patPost_keeps (s : State) (i : Nat) (p : ScrPat) (r : ScrRun) : Keeps s (State.patPost s i p r) := by
  simp only [State.patPost, Keeps, and_self, State.level_keeps]
@[simp] theorem scrPatternStart_keeps (s : State) : Keeps s (scrPatternStart s) := by
  unfold scrPatternStart
  lift_lets
  intro x0
  have h0 : ∀ a0, Keeps a0 (x0 a0) := by intro a0; simp only [x0, Keeps, ite_keeps, ite_self, and_self]
  clear_value x0
  split
  · rename_i y1_0 y1_1 y1_2 y1_3 y1_4 y1_5 y1_6
    lift_lets
    intro x2
    clear_value x2
    split
    · rename_i y3_0
      simp only [Keeps, and_self]
    · rename_i y3_0
      split
      · rename_i y4_0
        simp only [Keeps, and_self]
      · rename_i y4_0 y4_1 y4_2
        split
        · rename_i y5_0 y5_1
          simp only [Keeps, and_self, h0]
        · rename_i y5_0 y5_1 y5_2
          lift_lets
          intro x6
          clear_value x6
          intro x7
          clear_value x7
          simp only [Keeps, ite_keeps, ite_self, and_self, h0, State.passCheck_keeps, State.patPost_keeps, State.patLaunch_keeps]
  · rename_i y1_0 y1_1 y1_2 y1_3 y1_4 y1_5 y1_6
    lift_lets
    intro x2
    clear_value x2
    split
    · rename_i y3_0
      simp only [Keeps, and_self]
    · rename_i y3_0
      split
      · rename_i y4_0
        simp only [Keeps, and_self]
      · rename_i y4_0 y4_1 y4_2
        split
        · rename_i y5_0 y5_1
          simp only [Keeps, and_self, h0]
        · rename_i y5_0 y5_1 y5_2
          lift_lets
          intro x6
          clear_value x6
          intro x7
          clear_value x7
          simp only [Keeps, ite_keeps, ite_self, and_self, h0, State.passCheck_keeps, State.patPost_keeps, State.patLaunch_keeps]
  · rename_i y1_0 y1_1 y1_2 y1_3 y1_4 y1_5 y1_6 y1_7 y1_8
    lift_lets
    intro x2
    clear_value x2
    split
    · rename_i y3_0
      simp only [Keeps, and_self]
    · rename_i y3_0
      split
      · rename_i y4_0
        simp only [Keeps, and_self]
      · rename_i y4_0 y4_1 y4_2
        split
        · rename_i y5_0 y5_1
          simp only [Keeps, and_self, h0]
        · rename_i y5_0 y5_1 y5_2
          lift_lets
          intro x6
          clear_value x6
          intro x7
          clear_value x7
          simp only [Keeps, ite_keeps, ite_self, and_self, h0, State.passCheck_keeps, State.patPost_keeps, State.patLaunch_keeps]
  · rename_i y1_0 y1_1 y1_2 y1_3 y1_4 y1_5
    lift_lets
    intro x2
    clear_value x2
    split
    · rename_i y3_0
      simp only [Keeps, and_self]
    · rename_i y3_0
      split
      · rename_i y4_0
        simp only [Keeps, and_self]
      · rename_i y4_0 y4_1 y4_2
        split
        · rename_i y5_0 y5_1
          simp only [Keeps, and_self, h0]
        · rename_i y5_0 y5_1 y5_2
          lift_lets
          intro x6
          clear_value x6
          intro x7
          clear_value x7
          simp only [Keeps, ite_keeps, ite_self, and_self, h0, State.passCheck_keeps, State.patPost_keeps, State.patLaunch_keeps]
@[simp] theorem State.scrLast_keeps (s : State) (cls : Nat) (unit : Nat) (pat : Nat) (sig : BitVec 32) : Keeps s (State.scrLast s cls unit pat sig) := by
  simp only [State.scrLast, Keeps, and_self, State.setReg_keeps]
@[simp] theorem State.patClass_keeps (s : State) (r : ScrRun) (cls : Nat) (f : BitVec 32) : Keeps s (State.patClass s r cls f) := by
  simp only [State.patClass, Keeps, ite_keeps, ite_self, and_self, State.fault_keeps, State.scrLast_keeps, State.nvLog_keeps, State.bump_keeps, State.degrade_keeps]
@[simp] theorem State.countFail_keeps (s : State) (r : ScrRun) : Keeps s (State.countFail s r) := by
  simp only [State.countFail, Keeps, ite_keeps, ite_self, and_self, State.bump_keeps]
@[simp] theorem State.patResult_keeps (s : State) (r : ScrRun) (good : Bool) (sig : BitVec 32) : Keeps s (State.patResult s r good sig) := by
  unfold State.patResult
  (repeat' split) <;> simp only [Keeps, and_self, State.patOver_keeps, State.patClass_keeps, State.patLaunch_keeps, State.countFail_keeps]
@[simp] theorem State.patBroken_keeps (s : State) (r : ScrRun) : Keeps s (State.patBroken s r) := by
  simp only [State.patBroken, Keeps, ite_keeps, ite_self, and_self, State.patOver_keeps]
@[simp] theorem State.patStop_keeps (s : State) (r : ScrRun) : Keeps s (State.patStop s r) := by
  simp only [State.patStop, Keeps, ite_keeps, foldl_keeps, ite_self, and_self, implies_true, State.mxeEndRun_keeps, State.setMx_keeps, State.mxeEnd_keeps, State.treEndRun_keeps, State.setTr_keeps, State.treEnd_keeps]
@[simp] theorem scrPatternEnd_keeps (e : Sys2Proof.PatEnd) (s : State) : Keeps s (scrPatternEnd e s) := by
  unfold scrPatternEnd
  (repeat' split) <;> simp only [Keeps, and_self, State.patOver_keeps, State.patBroken_keeps, State.patStop_keeps, State.fault_keeps, State.scrLast_keeps, State.patResult_keeps]
@[simp] theorem scrHostPop_keeps (s : State) : Keeps s (scrHostPop s).st := by
  unfold scrHostPop
  (repeat' split) <;> simp only [Keeps, and_self, State.win_keeps, State.winData_keeps]
@[simp] theorem State.hostTake_keeps (s : State) (i : Nat) : Keeps s (State.hostTake s i) := by
  simp only [State.hostTake, Keeps, and_self]
@[simp] theorem scrHostResult_keeps (s : State) : Keeps s (scrHostResult s).st := by
  unfold scrHostResult
  lift_lets
  intro x0
  clear_value x0
  intro x1
  clear_value x1
  intro x2
  have h2 : Keeps s x2 := by simp only [x2, Keeps, and_self, State.hostTake_keeps]
  clear_value x2
  split
  · rename_i y3_0 y3_1 y3_2 y3_3 y3_4 y3_5
    split
    · rename_i y4_0 y4_1
      simp only [Keeps, and_self, h2, State.win_keeps, State.passCheck_keeps]
    · rename_i y4_0 y4_1 y4_2 y4_3
      simp only [Keeps, and_self, h2, State.win_keeps, State.passCheck_keeps, State.patClass_keeps]
    · rename_i y4_0 y4_1 y4_2
      lift_lets
      intro x5
      have h5 : Keeps s x5 := by simp only [x5, Keeps, and_self, h2, State.countFail_keeps]
      clear_value x5
      simp only [Keeps, ite_keeps, ite_self, and_self, h5, State.win_keeps, State.patPost_keeps]
  · rename_i y3_0 y3_1 y3_2
    simp only [Keeps, and_self, State.win_keeps]
@[simp] theorem scrHostTimeout_keeps (i : Nat) (s : State) : Keeps s (scrHostTimeout i s) := by
  unfold scrHostTimeout
  (repeat' split) <;> simp only [Keeps, and_self, State.reach_keeps, State.passCheck_keeps, State.scrLast_keeps, State.hostTake_keeps]
@[simp] theorem scrCtrlWrite_keeps (d : Sys2Proof.Word) (s : State) : Keeps s (scrCtrlWrite d s) := by
  unfold scrCtrlWrite
  (repeat' split) <;> simp only [Keeps, and_self, State.patStop_keeps, State.passCheck_keeps, State.takeBundle_keeps, State.passFalls_keeps]
@[simp] theorem scrRestoreWrite_keeps (d : Sys2Proof.Word) (s : State) : Keeps s (scrRestoreWrite d s) := by
  simp only [scrRestoreWrite, Keeps, ite_keeps, ite_self, and_self, State.nvLog_keeps, State.journal_keeps, State.regain_keeps]
@[simp] theorem scrReset_keeps (old : State) (s : State) : Keeps s (scrReset old s) := by
  unfold scrReset
  (repeat' split) <;> simp only [Keeps, and_self, State.patStop_keeps, State.endXfer_keeps, State.setReg_keeps]
@[simp] theorem State.setEnc_keeps (s : State) (k : Nat) (e : EncSt) : Keeps s (State.setEnc s k e) := by
  simp only [State.setEnc, Keeps, and_self]
@[simp] theorem State.encoded_keeps (s : State) (k : Nat) (row : Row) (f : Bytes × EncSt × Bool × Bool) : Keeps s (State.encoded s k row f) := by
  simp only [State.encoded, Keeps, and_self, State.setEnc_keeps, State.addReg_keeps, State.bumpW_keeps, State.bump_keeps, State.ev_keeps]
@[simp] theorem State.cmpOut_keeps (s : State) (f : Bytes) (hit : EccHit) : Keeps s (State.cmpOut s f hit) := by
  simp only [State.cmpOut, Keeps, and_self]
@[simp] theorem State.leafError_keeps (s : State) (head : Bytes) (group : Nat) (seq : Nat) (rowSeq : Nat) (site : Nat) : Keeps s (State.leafError s head group seq rowSeq site).2 := by
  simp only [State.leafError, Keeps, and_self, State.setEnc_keeps, State.bump_keeps, State.addReg_keeps, State.fault_keeps]
@[simp] theorem State.frameRead_keeps (s : State) (f : Bytes) (hit : Sys2Proof.EccHit) : Keeps s (State.frameRead s f hit).2 := by
  unfold State.frameRead
  (repeat' split) <;> simp only [Keeps, and_self, State.leafError_keeps]
theorem State.cmpTake_keeps {s t : State} {m : Bytes} (h : s.cmpTake = some (m, t)) : Keeps s t := by
  unfold State.cmpTake at h
  split at h
  · dsimp only at h
    have e := congrArg Prod.snd (Option.some.inj h)
    simp only at e
    subst e
    simp [Keeps]
  · cases h
@[simp] theorem State.rowGone_keeps (s : State) (r : Row) : Keeps s (State.rowGone s r) := by
  simp only [State.rowGone, Keeps, ite_keeps, ite_self, and_self, State.stageFill_keeps]
theorem State.nextRow_keeps {s t : State} {r : Row} (h : s.nextRow = some (r, t)) : Keeps s t := by
  unfold State.nextRow at h
  obtain ⟨x, -, e⟩ := Option.map_eq_some_iff.mp h
  have e := congrArg Prod.snd e
  simp only at e
  subst e
  simp [Keeps]
@[simp] theorem State.drained_keeps (s : State) : Keeps s (State.drained s) := by
  simp only [State.drained, Keeps, ite_keeps, ite_self, and_self, State.voteDown_keeps, State.smpVote_keeps]
@[simp] theorem State.encTake_keeps (s : State) (ecc : EccHit) : Keeps s (s.encTake ecc) := by
  unfold State.encTake
  split
  · exact Keeps.refl s
  · rename_i h
    refine (State.nextRow_keeps h).trans ?_
    dsimp only
    split <;> simp [Keeps]
@[simp] theorem State.encGive_keeps (s : State) (h : EncRow) (ecc : EccHit) : KeepsLow s (s.encGive h ecc) := by
  unfold State.encGive
  extract_lets row e t f v x y
  have kt : Keeps s t := by unfold t; split <;> simp [Keeps]
  have kv : Keeps t v := State.setFld_keeps ..
  refine kt.trans_low ?_
  have ky : Keeps v y := ⟨rfl, rfl, rfl, rfl⟩
  clear_value y v t
  refine ite_low (State.setFld_keeps ..).low (kv.trans_low (ky.trans_low ?_))
  split <;> simp [KeepsLow]
@[simp] theorem encodeRow_keeps (ecc : Sys2Proof.EccHit) (s : State) : KeepsLow s (encodeRow ecc s) := by
  unfold encodeRow
  lift_lets
  intro x0
  have h0 : KeepsLow s x0 := by simp only [x0, KeepsLow, ite_keeps, ite_self, and_self, State.encTake_keeps]
  clear_value x0
  split
  · rename_i y1_0
    simp only [KeepsLow, and_self]
  · rename_i y1_0
    split
    · rename_i y2_0 y2_1 y2_2
      simp only [KeepsLow, and_self, h0, State.encGive_keeps]
    · rename_i y2_0 y2_1
      simp only [KeepsLow, and_self, h0]
@[simp] theorem keyReqWrite_keeps (d : Sys2Proof.Word) (s : State) : Keeps s (keyReqWrite d s) := by
  simp only [keyReqWrite, Keeps, and_self]
@[simp] theorem keyRequestMsg_keeps (all : Bool) (g : Nat) (s : State) : Keeps s (keyRequestMsg all g s) := by
  simp only [keyRequestMsg, Keeps, ite_keeps, ite_self, and_self, keyReqWrite_keeps]
@[simp] theorem outCfgWrite_keeps (d : Sys2Proof.Word) (s : State) : Keeps s (outCfgWrite d s) := by
  unfold outCfgWrite
  simp [Keeps, ite_keeps, ite_self, and_self, implies_true]
@[simp] theorem State.decRebind_keeps (s : State) : Keeps s (State.decRebind s) := by
  simp only [State.decRebind, Keeps, ite_keeps, ite_self, and_self]
@[simp] theorem State.decBoundary_keeps (s : State) : Keeps s (State.decBoundary s) := by
  simp only [State.decBoundary, Keeps, ite_keeps, ite_self, and_self, State.decRebind_keeps]
@[simp] theorem State.frameIn_keeps (s : State) (w : Nat) (m : Bytes) : KeepsLow s (State.frameIn s w m) := by
  unfold State.frameIn
  (repeat' split) <;> simp only [KeepsLow, ite_keeps, ite_self, and_self, State.park_keeps]
@[simp] theorem State.unpark_keeps (s : State) (d : Nat) (l : List (Nat × Bytes)) : Keeps s (State.unpark s d l) := by
  induction l generalizing s with
  | nil => exact Keeps.refl s
  | cons x r ih =>
    unfold State.unpark
    generalize 65536 = big
    dsimp only
    split
    · split
      · exact Keeps.refl s
      · refine Keeps.trans ?_ (ih _)
        simp only [Keeps, ite_keeps, State.bytes_keeps, State.drainFill_keeps, and_self, ite_self]
    · exact ih s
@[simp] theorem State.setDec_keeps (s : State) (k : Nat) (d : DecSt) : Keeps s (State.setDec s k d) := by
  simp only [State.setDec, Keeps, and_self]
@[simp] theorem State.askKey_keeps (s : State) (w : Nat) (g : Nat) : Keeps s (State.askKey s w g) := by
  simp only [State.askKey, Keeps, and_self, State.linkMsg_keeps]
@[simp] theorem State.decInvalid_keeps (s : State) (k : Nat) (w : Nat) : Keeps s (State.decInvalid s k w) := by
  simp only [State.decInvalid, Keeps, ite_keeps, ite_self, and_self, State.askKey_keeps, State.setDec_keeps]
@[simp] theorem keyRequestRepeat_keeps (w : Nat) (g : Nat) (s : State) : Keeps s (keyRequestRepeat w g s) := by
  unfold keyRequestRepeat
  (repeat' split) <;> simp only [Keeps, and_self, State.reach_keeps, State.askKey_keeps, State.setDec_keeps]
@[simp] theorem State.decFail_keeps (s : State) (d : Nat) (w : Nat) (cause : Nat) (site : Nat) (group : Nat) (f : Bytes) : KeepsLow s (State.decFail s d w cause site group f) := by
  simp only [State.decFail, KeepsLow, ite_keeps, ite_self, and_self, State.setReg_keeps, State.ev_keeps, State.bump_keeps, State.fault_keeps, State.event_keeps, State.route_keeps, State.addReg_keeps]
@[simp] theorem State.rowOut_keeps (s : State) (w : Nat) (f : Bytes) (row : Row) (m : List Nat) (hit : Bool) : KeepsLow s (State.rowOut s w f row m hit) := by
  simp only [State.rowOut, KeepsLow, ite_keeps, ite_self, and_self, State.bump_keeps, State.setEnc_keeps, State.routeUp_keeps, State.encoded_keeps, State.ingest_keeps]
@[simp] theorem State.decReject_keeps (s : State) (d : Nat) (w' : Nat) (c : Nat) (head : Bool) (f : Bytes) : KeepsLow s (State.decReject s d w' c head f) := by
  simp only [State.decReject, KeepsLow, ite_keeps, ite_self, and_self, State.decFail_keeps, State.askKey_keeps, State.setDec_keeps, State.decInvalid_keeps]
@[simp] theorem decodeFrame_keeps (d : Nat) (ecc : Sys2Proof.EccHit) (s : State) : KeepsLow s (decodeFrame d ecc s) := by
  unfold decodeFrame
  lift_lets
  intro x0
  have h0 : KeepsLow s x0 := by simp only [x0, KeepsLow, ite_keeps, ite_self, and_self, State.unpark_keeps]
  clear_value x0
  split
  · rename_i y1_0
    lift_lets
    intro x2
    clear_value x2
    split
    · rename_i y3_0
      simp only [KeepsLow]
      split
      · rename_i y5_0 y5_1 y5_2 y5_3 y5_4
        simp only [and_self, h0]
      · rename_i y5_0 y5_1
        simp only [and_self, h0]
    · rename_i y3_0
      simp only [KeepsLow, h0]
      split
      · rename_i y5_0 y5_1 y5_2 y5_3 y5_4
        split
        · rename_i y6_0 y6_1 y6_2
          simp only [and_self, State.unpark_keeps, State.decInvalid_keeps, State.decReject_keeps, State.decRebind_keeps]
        · rename_i y6_0 y6_1 y6_2 y6_3
          simp only [ite_keeps, ite_self, and_self, State.unpark_keeps, State.decInvalid_keeps, State.setDec_keeps, State.ev_keeps, State.rowOut_keeps, State.decRebind_keeps]
      · rename_i y5_0 y5_1
        simp only [and_self, h0]
  · rename_i y1_0
    lift_lets
    intro x2
    clear_value x2
    split
    · rename_i y3_0
      simp only [KeepsLow]
      split
      · rename_i y5_0 y5_1 y5_2 y5_3 y5_4
        simp only [and_self, h0]
      · rename_i y5_0 y5_1
        simp only [and_self, h0]
    · rename_i y3_0
      simp only [KeepsLow, h0]
      split
      · rename_i y5_0 y5_1 y5_2 y5_3 y5_4
        split
        · rename_i y6_0 y6_1 y6_2
          simp only [and_self, State.unpark_keeps, State.decReject_keeps, State.decRebind_keeps]
        · rename_i y6_0 y6_1 y6_2 y6_3
          simp only [ite_keeps, ite_self, and_self, State.unpark_keeps, State.decInvalid_keeps, State.setDec_keeps, State.ev_keeps, State.rowOut_keeps, State.decRebind_keeps]
      · rename_i y5_0 y5_1
        simp only [and_self, h0]
@[simp] theorem State.cmpApply_keeps (s : State) : Keeps s (State.cmpApply s) := by
  simp only [State.cmpApply, Keeps, and_self]
@[simp] theorem cmpTblRead_keeps (m : SMap Nat) (idx : Nat) (s : State) : Keeps s (cmpTblRead m idx s).st := by
  simp only [cmpTblRead, Keeps, ite_keeps, ite_self, and_self, State.win_keeps, State.winData_keeps]
@[simp] theorem cmpTblWrite_keeps (idx : Nat) (s : State) : Keeps s (cmpTblWrite idx s).st := by
  simp only [cmpTblWrite, Keeps, ite_keeps, ite_self, and_self, State.win_keeps]
@[simp] theorem cmpReset_keeps (s : State) : Keeps s (cmpReset s) := by
  simp only [cmpReset, Keeps, ite_keeps, ite_self, and_self, State.drained_keeps, State.drainFill_keeps]

end Sys2Proof.Machine
end

