-- ==== Sys2Proof/Laws/Keeps4.lean ====
section
/-! SUPPORT. What the functions of Slk, Flits, Ingress, Ups, Capture, Htp, Pmp leave alone. -/

namespace Sys2Proof.Machine

@[simp] theorem State.slower_keeps (s : State) (w : Nat) (rate : Nat) : Keeps s (State.slower s w rate) := by
  simp only [State.slower, Keeps, and_self, State.emit_keeps, State.setLane_keeps, State.bump_keeps]
@[simp] theorem State.rateCheck_keeps (s : State) (w : Nat) : Keeps s (State.rateCheck s w) := by
  simp only [State.rateCheck, Keeps, ite_keeps, ite_self, and_self, State.setFld_keeps, State.laneTo_keeps]
@[simp] theorem State.uncorrectable_keeps (s : State) (w : Nat) (n : Nat) : Keeps s (State.uncorrectable s w n) := by
  simp only [State.uncorrectable, Keeps, ite_keeps, ite_self, and_self, State.bumpW_keeps, State.modLane_keeps, State.rateCheck_keeps, State.slower_keeps]
@[simp] theorem State.rateTarget_keeps (s : State) (w : Nat) : Keeps s (State.rateTarget s w) := by
  simp only [State.rateTarget, Keeps, and_self, State.rateCheck_keeps, State.emit_keeps, State.modLane_keeps]
@[simp] theorem rateHoldExpire_keeps (w : Nat) (s : State) : Keeps s (rateHoldExpire w s) := by
  simp only [rateHoldExpire, Keeps, ite_keeps, ite_self, and_self, State.reach_keeps, State.setLane_keeps, State.rateCheck_keeps, State.emit_keeps, State.bump_keeps]
@[simp] theorem laneRateReqRx_keeps (w : Nat) (code : Nat) (s : State) : Keeps s (laneRateReqRx w code s) := by
  simp only [laneRateReqRx, Keeps, ite_keeps, ite_self, and_self, State.rateCheck_keeps, State.modLane_keeps]
@[simp] theorem State.setLat_keeps (s : State) (p : Nat) (tx : Nat) (rx : Nat) : Keeps s (State.setLat s p tx rx) := by
  simp only [State.setLat, Keeps, and_self]
@[simp] theorem rateSwitchDone_keeps (w : Nat) (tx : Nat) (rx : Nat) (s : State) : Keeps s (rateSwitchDone w tx rx s) := by
  simp only [rateSwitchDone, Keeps, ite_keeps, ite_self, and_self, State.rateCheck_keeps, State.laneTo_keeps, State.modLane_keeps, State.setLat_keeps]
@[simp] theorem laneDetect_keeps (w : Nat) (s : State) : Keeps s (laneDetect w s) := by
  simp only [laneDetect, Keeps, ite_keeps, ite_self, and_self, State.toTrain_keeps]
@[simp] theorem trainAlignDone_keeps (w : Nat) (tx : Nat) (rx : Nat) (s : State) : Keeps s (trainAlignDone w tx rx s) := by
  simp only [trainAlignDone, Keeps, ite_keeps, ite_self, and_self, State.laneTo_keeps, State.setLat_keeps]
@[simp] theorem trainTimeout_keeps (w : Nat) (s : State) : Keeps s (trainTimeout w s) := by
  simp only [trainTimeout, Keeps, ite_keeps, ite_self, and_self, State.reach_keeps, State.toTrain_keeps, State.slower_keeps, State.laneTo_keeps]
@[simp] theorem rateSwitchTimeout_keeps (w : Nat) (s : State) : Keeps s (rateSwitchTimeout w s) := by
  simp only [rateSwitchTimeout, Keeps, ite_keeps, ite_self, and_self, State.reach_keeps, State.linkDown_keeps, State.toTrain_keeps]
@[simp] theorem lossOfSignal_keeps (w : Nat) (s : State) : Keeps s (lossOfSignal w s) := by
  simp only [lossOfSignal, Keeps, ite_keeps, ite_self, and_self, State.laneTo_keeps, State.linkDown_keeps]
@[simp] theorem quarantineExpire_keeps (w : Nat) (s : State) : Keeps s (quarantineExpire w s) := by
  simp only [quarantineExpire, Keeps, ite_keeps, ite_self, and_self, State.laneTo_keeps, State.reach_keeps]
@[simp] theorem slkCtrlWrite_keeps (w : Nat) (d : Sys2Proof.Word) (s : State) : Keeps s (slkCtrlWrite w d s) := by
  simp only [slkCtrlWrite, Keeps, ite_keeps, ite_self, and_self, State.laneTo_keeps, State.toTrain_keeps, State.quarantine_keeps]
@[simp] theorem State.retrain_keeps (s : State) (w : Nat) (rate : Nat) : Keeps s (State.retrain s w rate) := by
  simp only [State.retrain, Keeps, ite_keeps, ite_self, and_self, State.linkDown_keeps, State.toTrain_keeps]
@[simp] theorem State.resync_keeps (s : State) (w : Nat) : Keeps s (State.resync s w) := by
  simp only [State.resync, Keeps, and_self, State.modLane_keeps]
@[simp] theorem State.creditTaken_keeps (s : State) (w : Nat) (f : Flit) : Keeps s (State.creditTaken s w f) := by
  simp only [State.creditTaken, Keeps, ite_keeps, ite_self, and_self, State.setLane_keeps, State.resync_keeps, State.slkViol_keeps, State.setFld_keeps]
@[simp] theorem State.gap_keeps (s : State) (w : Nat) : Keeps s (State.gap s w) := by
  simp only [State.gap, Keeps, and_self, State.modLane_keeps]
@[simp] theorem State.badAck_keeps (s : State) (w : Nat) (f : Flit) : Keeps s (State.badAck s w f) := by
  simp only [State.badAck, Keeps, and_self, State.retrain_keeps, State.slkViol_keeps]
@[simp] theorem State.startReplay_keeps (s : State) (w : Nat) (k : Nat) : Keeps s (State.startReplay s w k) := by
  unfold State.startReplay
  lift_lets
  intro x0
  clear_value x0
  split
  · rename_i y1_0 y1_1
    simp only [Keeps, and_self]
  · rename_i y1_0 y1_1 y1_2
    lift_lets
    intro x2
    clear_value x2
    intro x3
    have h3 : Keeps s x3 := by simp only [x3, Keeps, and_self, State.setLane_keeps, State.bump_keeps]
    clear_value x3
    simp only [Keeps, ite_keeps, ite_self, and_self, h3, State.slkViol_keeps, State.modLane_keeps, State.retrain_keeps, State.slower_keeps]
@[simp] theorem State.hold_keeps (s : State) (w : Nat) : Keeps s (State.hold s w) := by
  simp only [State.hold, Keeps, and_self, State.fault_keeps, State.modLane_keeps, State.laneTo_keeps]
@[simp] theorem State.letIn_keeps (s : State) (w : Nat) (b : Bytes) : Keeps s (State.letIn s w b) := by
  unfold State.letIn
  lift_lets
  intro x0
  clear_value x0
  intro x1
  clear_value x1
  intro x2
  clear_value x2
  intro x3
  clear_value x3
  intro x4
  clear_value x4
  intro x5
  have h5 : Keeps s x5 := by simp only [x5, Keeps, and_self, State.laneLose_keeps]
  clear_value x5
  split
  · rename_i y6_0 y6_1
    lift_lets
    intro x7
    have h7 : Keeps s x7 := by simp only [x7, Keeps, and_self, State.setLane_keeps, State.bump_keeps]
    clear_value x7
    simp only [Keeps, ite_keeps, foldl_keeps, ite_self, and_self, implies_true, h7, State.bump_keeps, State.modLane_keeps, State.setFld_keeps, State.laneTo_keeps, State.linkMsg_keeps, State.rdxRejoin_keeps, State.rateCheck_keeps]
  · rename_i y6_0
    lift_lets
    intro x7
    have h7 : Keeps s x7 := by simp only [x7, Keeps, and_self, h5, State.modLane_keeps]
    clear_value x7
    simp only [Keeps, ite_keeps, foldl_keeps, ite_self, and_self, implies_true, h7, State.bump_keeps, State.modLane_keeps, State.setFld_keeps, State.laneTo_keeps, State.linkMsg_keeps, State.rdxRejoin_keeps, State.rateCheck_keeps]
@[simp] theorem trainFlitRx_keeps (w : Nat) (b : Bytes) (s : State) : Keeps s (trainFlitRx w b s) := by
  unfold trainFlitRx
  (repeat' split) <;> simp only [Keeps, ite_keeps, ite_self, and_self, State.letIn_keeps, State.hold_keeps]
@[simp] theorem State.txFlit_keeps (s : State) (w : Nat) (f : Flit) : Keeps s (State.txFlit s w f) := by
  simp only [State.txFlit, Keeps, and_self, State.countSent_keeps, State.emit_keeps, State.modLane_keeps]
@[simp] theorem State.fillVc_keeps (s : State) (w vc : Nat) : Keeps s (s.fillVc w vc) := by
  unfold State.fillVc
  split
  · exact Keeps.refl s
  split
  · split
    · rename_i h
      have k := State.pullMark_keeps h
      split
      · exact Keeps.refl s
      · exact k.trans (State.sendMsg_keeps ..)
    · exact Keeps.refl s
  split
  · dsimp only
    refine Keeps.trans (State.eprServe_keeps s) ?_
    split
    · split
      · rename_i h
        exact (State.cmpTake_keeps h).trans (State.sendMsg_keeps ..)
      · exact Keeps.refl _
    · exact Keeps.refl _
  · exact Keeps.refl s
@[simp] theorem State.stampTx_keeps (s : State) (w : Nat) (sub : Nat) (it : TxItem) (f : Flit) : Keeps s (State.stampTx s w sub it f).1 := by
  unfold State.stampTx
  (repeat' split) <;> simp only [Keeps, and_self, State.txtsPut_keeps]
@[simp] theorem State.sendSeq_keeps (s : State) (w : Nat) (vc : Nat) (sub : Nat) (it : TxItem) (f : Flit) : Keeps s (State.sendSeq s w vc sub it f) := by
  simp only [State.sendSeq, Keeps, and_self, State.stampTx_keeps, State.setLane_keeps, State.txFlit_keeps, State.setFld_keeps]
@[simp] theorem State.vcDrawn_keeps (s : State) (w : Nat) (vc : Nat) : Keeps s (State.vcDrawn s w vc) := by
  simp only [State.vcDrawn, Keeps, ite_keeps, ite_self, and_self, State.fillVc_keeps]
@[simp] theorem State.respLeft_keeps (s : State) : Keeps s (State.respLeft s) := by
  simp only [State.respLeft, Keeps, and_self]
@[simp] theorem State.sendHead_keeps (s : State) (w : Nat) (vc : Nat) (sub : Nat) : Keeps s (State.sendHead s w vc sub) := by
  unfold State.sendHead
  lift_lets
  intro x0
  clear_value x0
  split
  · rename_i y1_0 y1_1 y1_2 y1_3
    split
    · rename_i y2_0 y2_1 y2_2
      lift_lets
      intro x3
      clear_value x3
      simp only [Keeps, ite_keeps, ite_self, and_self, State.modLane_keeps, State.sendSeq_keeps, State.respLeft_keeps]
    · rename_i y2_0
      simp only [Keeps, and_self]
@[simp] theorem State.sendVc_keeps (s : State) (w : Nat) (vc : Nat) (sub : Nat) : Keeps s (State.sendVc s w vc sub) := by
  simp only [State.sendVc, Keeps, and_self, State.sendHead_keeps, State.vcDrawn_keeps]
@[simp] theorem State.sendNak_keeps (s : State) (w : Nat) : Keeps s (State.sendNak s w) := by
  simp only [State.sendNak, Keeps, and_self, State.modLane_keeps, State.bump_keeps, State.txFlit_keeps]
@[simp] theorem State.sendSync_keeps (s : State) (w : Nat) (request : Bool) : Keeps s (State.sendSync s w request) := by
  simp only [State.sendSync, Keeps, and_self, State.modLane_keeps, State.bump_keeps, State.txFlit_keeps]
@[simp] theorem State.sendReplay_keeps (s : State) (w : Nat) (k : Nat) (f : Flit) : Keeps s (State.sendReplay s w k f) := by
  simp only [State.sendReplay, Keeps, and_self, State.modLane_keeps, State.txFlit_keeps, State.ev_keeps, State.item_keeps]
@[simp] theorem State.slotSend_keeps (s : State) (w : Nat) (sub : Nat) : Keeps s (State.slotSend s w sub) := by
  unfold State.slotSend
  lift_lets
  intro x0
  clear_value x0
  intro x1
  clear_value x1
  intro x2
  clear_value x2
  split
  · rename_i y3_0
    simp only [Keeps, and_self, State.sendNak_keeps]
  · rename_i y3_0
    split
    · rename_i y4_0
      simp only [Keeps, and_self, State.sendSync_keeps]
    · rename_i y4_0
      split
      · rename_i y5_0
        simp only [Keeps, and_self, State.sendSync_keeps]
      · rename_i y5_0
        split
        · rename_i y6_0 y6_1 y6_2 y6_3
          simp only [Keeps, ite_keeps, ite_self, and_self, State.txFlit_keeps, State.sendReplay_keeps]
        · rename_i y6_0 y6_1
          simp only [Keeps, ite_keeps, ite_self, and_self, State.txFlit_keeps, State.sendVc_keeps, State.modLane_keeps]
@[simp] theorem flitSlot_keeps (w : Nat) (sub : Nat) (s : State) : Keeps s (flitSlot w sub s) := by
  simp only [flitSlot, Keeps, ite_keeps, ite_self, and_self, State.countSent_keeps, State.emit_keeps, State.slotSend_keeps]
@[simp] theorem State.flitIn_keeps (s : State) (w : Nat) (b : Bytes) (corr : Nat) (uncorr : Option Nat) : Keeps s (State.flitIn s w b corr uncorr).1 := by
  unfold State.flitIn
  lift_lets
  intro x0
  have h0 : Keeps s x0 := by simp only [x0, Keeps, and_self, State.bumpW_keeps]
  clear_value x0
  split
  · rename_i y1_0 y1_1 y1_2 y1_3
    split
    · rename_i y2_0 y2_1
      simp only [Keeps, and_self, h0, State.uncorrectable_keeps, State.gap_keeps, State.slkViol_keeps]
    · rename_i y2_0
      split
      · rename_i y3_0
        simp only [Keeps, and_self, h0, State.gap_keeps, State.slkViol_keeps]
      · rename_i y3_0
        split
        · rename_i y4_0
          simp only [Keeps, and_self, h0]
        · rename_i y4_0
          split
          · rename_i y5_0 y5_1
            simp only [Keeps, and_self, h0, State.badAck_keeps]
          · rename_i y5_0 y5_1 y5_2
            lift_lets
            intro x6
            have h6 : Keeps s x6 := by simp only [x6, Keeps, and_self, h0, State.setLane_keeps]
            clear_value x6
            simp only [Keeps, ite_keeps, ite_self, and_self, h6, State.creditTaken_keeps]
@[simp] theorem State.fecOnly_keeps (s : State) (w : Nat) (b : Bytes) (corr : Nat) (uncorr : Option Nat) : Keeps s (s.fecOnly w b corr uncorr) := by
  unfold State.fecOnly
  dsimp only
  (repeat' split) <;> simp [Keeps]
@[simp] theorem State.nakTaken_keeps (s : State) (w : Nat) (f : Flit) : Keeps s (State.nakTaken s w f) := by
  unfold State.nakTaken
  lift_lets
  intro x0
  have h0 : Keeps s x0 := by simp only [x0, Keeps, and_self, State.modLane_keeps, State.bump_keeps]
  clear_value x0
  simp only [Keeps]
  split
  · rename_i y2_0 y2_1 y2_2
    simp only [and_self, h0, State.startReplay_keeps]
  · rename_i y2_0 y2_1
    simp only [and_self, h0, State.badAck_keeps]
@[simp] theorem State.syncIn_keeps (s : State) (w : Nat) (f : Flit) : Keeps s (State.syncIn s w f) := by
  simp only [State.syncIn, Keeps, ite_keeps, foldl_keeps, ite_self, and_self, implies_true, State.modLane_keeps, State.setFld_keeps]
@[simp] theorem State.controlIn_keeps (s : State) (w : Nat) (f : Flit) (len : Nat) : Keeps s (State.controlIn s w f len) := by
  simp only [State.controlIn, Keeps, ite_keeps, ite_self, and_self, State.slkViol_keeps, State.nakTaken_keeps, State.syncIn_keeps]
@[simp] theorem State.controlRow_keeps (s : State) (w : Nat) (ftype : Nat) (b : Bytes) : Keeps s (State.controlRow s w ftype b) := by
  unfold State.controlRow
  split
  · rename_i y0_0
    split
    · rename_i y1_0 y1_1 y1_2 y1_3 y1_4
      have ky1_4 := congrArg (fun p => p.1) y1_4; dsimp only at ky1_4; subst ky1_4
      simp only [Keeps, and_self, State.flitIn_keeps, State.controlIn_keeps]
    · rename_i y1_0 y1_1 y1_2
      have ky1_2 := congrArg (fun p => p.1) y1_2; dsimp only at ky1_2; subst ky1_2
      simp only [Keeps, and_self, State.flitIn_keeps]
  · rename_i y0_0
    simp only [Keeps, and_self]
@[simp] theorem replayTimeout_keeps (w : Nat) (s : State) : Keeps s (replayTimeout w s) := by
  simp only [replayTimeout, Keeps, ite_keeps, ite_self, and_self, State.startReplay_keeps, State.reach_keeps]
@[simp] theorem nakRepeat_keeps (w : Nat) (s : State) : Keeps s (nakRepeat w s) := by
  simp only [nakRepeat, Keeps, ite_keeps, ite_self, and_self, State.modLane_keeps, State.reach_keeps]
@[simp] theorem creditSyncTimeout_keeps (w : Nat) (s : State) : Keeps s (creditSyncTimeout w s) := by
  unfold creditSyncTimeout
  (repeat' split) <;> simp only [Keeps, ite_keeps, ite_self, and_self, State.reach_keeps, State.retrain_keeps, State.setLane_keeps]
@[simp] theorem hpaRouteDelay_keeps (s : State) : Keeps s (hpaRouteDelay s) := by
  unfold hpaRouteDelay
  (repeat' split) <;> simp only [Keeps, and_self, State.hpaRoute_keeps, State.reach_keeps]
theorem State.hpaItem_keeps {s t : State} {vc : Nat} {x : TxItem} (h : s.hpaItem vc = some (x, t)) : Keeps s t := by
  unfold State.hpaItem at h
  split at h
  · cases h; simp [Keeps]
  · split at h
    · simp only at h
      split at h
      · cases h; simp [Keeps]
      · cases h
    · cases h
@[simp] theorem State.hpaPut_keeps (s : State) (vc : Nat) (it : TxItem) : Keeps s (State.hpaPut s vc it) := by
  simp only [State.hpaPut, Keeps, and_self, State.beginRanges_keeps]
@[simp] theorem State.hpaSent_keeps (s : State) : Keeps s (State.hpaSent s) := by
  simp only [State.hpaSent, Keeps, and_self, State.endXfer_keeps, State.bytes_keeps, State.addReg_keeps, State.setFld_keeps]
@[simp] theorem hpaFlitSend_keeps (s : State) : Keeps s (hpaFlitSend s) := by
  unfold hpaFlitSend
  split
  · rename_i y0_0
    simp only [Keeps, and_self]
  · rename_i y0_0
    split
    · rename_i y1_0
      simp only [Keeps, ite_keeps, ite_self, and_self, State.bump_keeps, State.setFld_keeps]
    · rename_i y1_0
      split
      · rename_i y2_0 y2_1 y2_2 y2_3
        have ky2_3 := State.hpaItem_keeps y2_3
        simp only [Keeps, and_self, ky2_3, State.hpaPut_keeps]
      · rename_i y2_0 y2_1
        split
        · rename_i y3_0 y3_1 y3_2 y3_3
          have ky3_3 := State.hpaItem_keeps y3_3
          simp only [Keeps, and_self, ky3_3, State.hpaPut_keeps]
        · rename_i y3_0 y3_1
          simp only [Keeps, and_self]
@[simp] theorem hpaConsPoll_keeps (cons : Nat) (s : State) : Keeps s (hpaConsPoll cons s) := by
  simp only [hpaConsPoll, Keeps, ite_keeps, ite_self, and_self, State.setFld_keeps]
@[simp] theorem State.hpaLost_keeps (s : State) : Keeps s (State.hpaLost s) := by
  simp only [State.hpaLost, Keeps, and_self, State.bump_keeps]
@[simp] theorem State.appQueue_keeps (s : State) (w : Nat) (vc : Nat) (body : Bytes) (mark : Option (BitVec 16)) : Keeps s (State.appQueue s w vc body mark).st := by
  simp only [State.appQueue, Keeps, ite_keeps, ite_self, and_self, State.win_keeps, State.modLane_keeps, State.sendItem_keeps]
@[simp] theorem appSend_keeps (w : Nat) (s : State) : Keeps s (appSend w s).st := by
  unfold appSend
  lift_lets
  intro x0
  clear_value x0
  intro x1
  clear_value x1
  intro x2
  clear_value x2
  intro x3
  clear_value x3
  intro x4
  clear_value x4
  split
  · rename_i y5_0
    split
    · rename_i y6_0 y6_1 y6_2
      have ky6_2 := congrArg (fun p => p.1) y6_2; dsimp only at ky6_2; subst ky6_2
      simp only [Keeps, and_self, State.submitTimed_keeps, State.win_keeps]
    · rename_i y6_0 y6_1 y6_2
      have ky6_2 := congrArg (fun p => p.1) y6_2; dsimp only at ky6_2; subst ky6_2
      simp only [Keeps, and_self, State.submitTimed_keeps, State.win_keeps]
    · rename_i y6_0 y6_1 y6_2
      have ky6_2 := congrArg (fun p => p.1) y6_2; dsimp only at ky6_2; subst ky6_2
      simp only [Keeps, and_self, State.submitTimed_keeps, State.win_keeps]
    · rename_i y6_0 y6_1 y6_2
      have ky6_2 := congrArg (fun p => p.1) y6_2; dsimp only at ky6_2; subst ky6_2
      simp only [Keeps, and_self, State.submitTimed_keeps, State.win_keeps]
    · rename_i y6_0 y6_1 y6_2
      have ky6_2 := congrArg (fun p => p.1) y6_2; dsimp only at ky6_2; subst ky6_2
      simp only [Keeps, and_self, State.submitTimed_keeps, State.appQueue_keeps]
  · rename_i y5_0
    simp only [Keeps, and_self, State.appQueue_keeps]
@[simp] theorem appRxPop_keeps (w : Nat) (s : State) : Keeps s (appRxPop w s).st := by
  unfold appRxPop
  (repeat' split) <;> simp only [Keeps, and_self, State.win_keeps, State.winData_keeps, State.modLane_keeps]
@[simp] theorem State.appTaken_keeps (s : State) (w : Nat) (m : Bytes) : Keeps s (State.appTaken s w m) := by
  simp only [State.appTaken, Keeps, ite_keeps, ite_self, and_self, State.bump_keeps, State.pendBit_keeps, State.modLane_keeps]
@[simp] theorem appMsg_keeps (w : Nat) (m : Bytes) (s : State) : Keeps s (appMsg w m s) := by
  simp only [appMsg, Keeps, ite_keeps, ite_self, and_self, State.appTaken_keeps]
@[simp] theorem State.launchLane_keeps (s : State) (w : Nat) (sub : Nat) (it : TimedItem) : Keeps s (State.launchLane s w sub it) := by
  simp only [State.launchLane, Keeps, ite_keeps, ite_self, and_self, State.sendSeq_keeps, State.modLane_keeps]
@[simp] theorem State.countVerdict_keeps (s : State) (m : Bytes) : Keeps s (State.countVerdict s m) := by
  simp only [State.countVerdict, Keeps, ite_keeps, ite_self, and_self, State.bump_keeps]
@[simp] theorem State.policed_keeps {s : State} {w vc n : Nat} {f : State → State} :
    ((∀ t, (f t).chip = t.chip) → (s.policed w vc n f).chip = s.chip) ∧
    ((∀ t, (f t).pending = t.pending) → (s.policed w vc n f).pending = s.pending) ∧
    ((∀ t, (f t).sram = t.sram) → (s.policed w vc n f).sram = s.sram) ∧
    ((∀ t, (f t).hbm = t.hbm) → (s.policed w vc n f).hbm = s.hbm) := by
  refine ⟨?_, ?_, ?_, ?_⟩ <;> intro h <;> (have k := State.police_keeps s w vc n; unfold State.policed; split <;> rename_i t e <;> rw [e] at k <;> simp_all)
@[simp] theorem State.trayMessage_keeps (s : State) (w : Nat) (vc : Nat) (m : Bytes) : KeepsLow s (State.trayMessage s w vc m) := by
  simp only [State.trayMessage, KeepsLow, ite_keeps, ite_self, and_self, implies_true, State.stepMarkTaken_keeps, State.recordTaken_keeps, State.policed_keeps, State.frameIn_keeps, State.routeIn_keeps, State.countVerdict_keeps]
@[simp] theorem State.captureMessage_keeps (s : State) (w : Nat) (m : Bytes) : KeepsLow s (State.captureMessage s w m) := by
  unfold State.captureMessage
  lift_lets
  intro x0
  clear_value x0
  intro x1
  have h1 : KeepsLow s x1 := by simp only [x1, KeepsLow, and_self, State.modLane_keeps]
  clear_value x1
  split
  · rename_i y2_0
    lift_lets
    intro x3
    have h3 : ∀ a0, KeepsLow a0 (x3 a0) := by intro a0; simp only [x3, KeepsLow, and_self, State.freeVc3_keeps]
    clear_value x3
    split
    · rename_i y4_0 y4_1 y4_2
      have ky4_2 := congrArg (fun p => p.1) y4_2; dsimp only at ky4_2; subst ky4_2
      simp only [KeepsLow, and_self, h1, State.modLane_keeps, State.police_keeps, State.ingest_keeps]
    · rename_i y4_0 y4_1 y4_2
      have ky4_2 := congrArg (fun p => p.1) y4_2; dsimp only at ky4_2; subst ky4_2
      simp only [KeepsLow, and_self, h3, h1, State.police_keeps]
  · rename_i y2_0
    lift_lets
    intro x3
    have h3 : ∀ a0, KeepsLow a0 (x3 a0) := by intro a0; simp only [x3, KeepsLow, and_self, State.freeVc3_keeps]
    clear_value x3
    simp only [KeepsLow, ite_keeps, ite_self, and_self, h3, h1, State.recordTaken_keeps]
@[simp] theorem State.deliver_keeps (s : State) (w : Nat) (vc : Nat) (seq : Nat) (m : Bytes) : KeepsLow s (State.deliver s w vc seq m) := by
  simp only [State.deliver, KeepsLow, ite_keeps, ite_self, and_self, State.fleetLeaf_keeps, State.slkViol_keeps, State.modLane_keeps, State.freeVc3_keeps, State.captureMessage_keeps, State.trayMessage_keeps]
@[simp] theorem State.dropMsg_keeps (s : State) (w : Nat) (vc : Nat) (keep : Nat) : Keeps s (State.dropMsg s w vc keep) := by
  simp only [State.dropMsg, Keeps, ite_keeps, ite_self, and_self, State.modLane_keeps, State.freeVc3_keeps]
@[simp] theorem State.dataIn_keeps (s : State) (w : Nat) (f : Flit) : KeepsLow s (State.dataIn s w f) := by
  simp only [State.dataIn, KeepsLow, ite_keeps, ite_self, and_self, State.slkViol_keeps, State.dropMsg_keeps, State.deliver_keeps, State.modLane_keeps]
@[simp] theorem State.linkIn_keeps (s : State) (w : Nat) (f : Flit) : Keeps s (State.linkIn s w f) := by
  simp only [State.linkIn, Keeps, ite_keeps, ite_self, and_self, implies_true, State.slkViol_keeps, State.appTaken_keeps, keyRequestMsg_keeps, slowDownMsg_keeps, resendMsg_keeps, State.policed_keeps]
@[simp] theorem State.timeIn_keeps (s : State) (w : Nat) (f : Flit) (sub : Nat) (again : Bool) : Keeps s (State.timeIn s w f sub again) := by
  simp only [State.timeIn, Keeps, ite_keeps, ite_self, and_self, State.modLane_keeps, State.dreqTaken_keeps, State.slkViol_keeps, State.bump_keeps, State.syncTaken_keeps, State.drespTaken_keeps]
@[simp] theorem State.altFlit_keeps (s : State) (w : Nat) (b : Bytes) : KeepsLow s (State.altFlit s w b) := by
  simp only [State.altFlit, KeepsLow, ite_keeps, ite_self, and_self, State.slkViol_keeps, State.modLane_keeps, State.bump_keeps, State.deliver_keeps]
@[simp] theorem altRingPoll_keeps (w : Nat) (prod : Nat) (flits : List Bytes) (s : State) : KeepsLow s (altRingPoll w prod flits s) := by
  simp only [altRingPoll, KeepsLow, ite_keeps, foldl_keeps, ite_self, and_self, implies_true, State.altFlit_keeps, State.modLane_keeps, State.emit_keeps]
@[simp] theorem State.gatesStart_keeps (s : State) : Keeps s (State.gatesStart s) := by
  simp only [State.gatesStart, Keeps, foldl_keeps, and_self, implies_true, State.setUp_keeps]
@[simp] theorem gateAdvance_keeps (p : Nat) (s : State) : Keeps s (gateAdvance p s) := by
  unfold gateAdvance
  lift_lets
  intro x0
  clear_value x0
  intro x1
  clear_value x1
  split
  · rename_i y2_0 y2_1 y2_2
    lift_lets
    intro x3
    have h3 : Keeps s x3 := by simp only [x3, Keeps, and_self, State.reach_keeps]
    clear_value x3
    simp only [Keeps, and_self, h3, State.setUp_keeps]
  · rename_i y2_0 y2_1
    simp only [Keeps, and_self]
@[simp] theorem State.ptpPins_keeps (s : State) (p : Nat) (t : Nat) (it : UpItem) : Keeps s (State.ptpPins s p t it).1 := by
  unfold State.ptpPins
  (repeat' split) <;> simp only [Keeps, ite_keeps, ite_self, and_self, State.setPtp_keeps]
@[simp] theorem State.upSend_keeps (s : State) (p : Nat) (sub : Nat) (it : UpItem) : Keeps s (State.upSend s p sub it) := by
  unfold State.upSend
  (repeat' split) <;> simp only [Keeps, and_self, State.ptpPins_keeps, State.ev_keeps, State.portTx_keeps, State.bytes_keeps, State.emit_keeps, State.txtsPut_keeps]
@[simp] theorem upTx_keeps (p : Nat) (sub : Nat) (s : State) : Keeps s (upTx p sub s) := by
  unfold upTx
  lift_lets
  intro x0
  clear_value x0
  split
  · rename_i y1_0
    simp only [Keeps, and_self]
  · rename_i y1_0
    split
    · rename_i y2_0 y2_1 y2_2
      split
      · rename_i y3_0 y3_1 y3_2 y3_3
        simp only [Keeps, and_self, State.upSend_keeps, State.setUp_keeps]
      · rename_i y3_0 y3_1
        simp only [Keeps, and_self]
    · rename_i y2_0 y2_1
      split
      · rename_i y3_0
        simp only [Keeps, and_self]
      · rename_i y3_0
        split
        · rename_i y4_0 y4_1 y4_2 y4_3 y4_4 y4_5
          lift_lets
          intro x5
          have h5 : Keeps s x5 := by simp only [x5, Keeps, and_self, State.upSend_keeps, State.setUp_keeps, State.ev_keeps]
          clear_value x5
          simp only [Keeps, and_self, h5, State.unspill_keeps]
        · rename_i y4_0 y4_1
          simp only [Keeps, and_self]
@[simp] theorem State.launchUp_keeps (s : State) (p : Nat) (sub : Nat) (it : TimedItem) : Keeps s (State.launchUp s p sub it) := by
  simp only [State.launchUp, Keeps, ite_keeps, ite_self, and_self, State.upSend_keeps, State.setUp_keeps]
@[simp] theorem State.moveFixed_keeps (s : State) (p : Nat) (o : Nat) : Keeps s (State.moveFixed s p o) := by
  simp only [State.moveFixed, Keeps, foldl_keeps, and_self, implies_true, State.setUp_keeps, State.putFixed_keeps]
@[simp] theorem upLinkDown_keeps (p : Nat) (s : State) : Keeps s (upLinkDown p s) := by
  simp only [upLinkDown, Keeps, ite_keeps, ite_self, and_self, State.pendBit_keeps, State.setFld_keeps, State.moveFixed_keeps]
@[simp] theorem upLinkUp_keeps (p : Nat) (s : State) : Keeps s (upLinkUp p s) := by
  simp only [upLinkUp, Keeps, ite_keeps, ite_self, and_self, State.draw_keeps, State.pendBit_keeps, State.setFld_keeps, State.setLat_keeps, State.moveFixed_keeps]
@[simp] theorem State.setQuars_keeps (s : State) (p : Nat) (l : List (BitVec 48 × Nat)) : Keeps s (State.setQuars s p l) := by
  simp only [State.setQuars, Keeps, and_self, State.setFld_keeps, State.setUp_keeps]
@[simp] theorem upCtrlWrite_keeps (p : Nat) (d : Sys2Proof.Word) (s : State) : Keeps s (upCtrlWrite p d s) := by
  simp only [upCtrlWrite, Keeps, ite_keeps, ite_self, and_self, State.setQuars_keeps, State.setUp_keeps]
@[simp] theorem upQuarExpire_keeps (p : Nat) (mac : BitVec 48) (s : State) : Keeps s (upQuarExpire p mac s) := by
  unfold upQuarExpire
  (repeat' split) <;> simp only [Keeps, ite_keeps, ite_self, and_self, State.reach_keeps, State.setQuars_keeps]
@[simp] theorem swFrameSend_keeps (s : State) : KeepsLow s (swFrameSend s).st := by
  unfold swFrameSend
  extract_lets d e len buf p t mark f s1 first
  have hfirst : ∀ u, Keeps u (first u).st := by
    intro u
    unfold first
    split
    · exact State.win_keeps ..
    · exact Keeps.trans (State.putFixed_keeps ..) (State.win_keeps ..)
  split
  · exact Keeps.low (State.win_keeps ..)
  have h1 : Keeps s s1 := State.bytes_keeps ..
  refine h1.trans_low ?_
  split
  · have hs := State.submitTimed_keeps s1 (128 + p) { launch := t, vc := 0, item := f, mark } (bit d 50)
    split <;> rename_i h <;> rw [h] at hs
    · exact (Keeps.trans hs (State.win_keeps ..)).low
    · exact (Keeps.trans hs (State.win_keeps ..)).low
    · exact (Keeps.trans hs (State.win_keeps ..)).low
    · exact (Keeps.trans hs (State.win_keeps ..)).low
    · exact (Keeps.trans hs (hfirst _)).low
  split
  · exact (hfirst _).low
  · exact KeepsLow.trans (State.putDrr_keeps ..) (Keeps.low (State.win_keeps ..))
@[simp] theorem State.swReceive_keeps (s : State) (p : Nat) (f : Bytes) : KeepsTop s (State.swReceive s p f).1 := by
  simp only [State.swReceive, KeepsTop, ite_keeps, ite_self, and_self, State.bytes_keeps, State.level_keeps]
@[simp] theorem swFramePop_keeps (s : State) : Keeps s (swFramePop s).st := by
  unfold swFramePop
  (repeat' split) <;> simp only [Keeps, and_self, State.win_keeps, State.winData_keeps]
@[simp] theorem State.setUpsStaged_keeps (s : State) (b : UpsBank) : Keeps s (State.setUpsStaged s b) := by
  simp only [State.setUpsStaged, Keeps, and_self]
@[simp] theorem upsQueueRead_keeps (k : Nat) (s : State) : Keeps s (upsQueueRead k s).st := by
  simp only [upsQueueRead, Keeps, ite_keeps, ite_self, and_self, State.winData_keeps, State.win_keeps]
@[simp] theorem upsQueueWrite_keeps (k : Nat) (s : State) : Keeps s (upsQueueWrite k s).st := by
  simp only [upsQueueWrite, Keeps, ite_keeps, ite_self, and_self, State.win_keeps, State.setUpsStaged_keeps]
@[simp] theorem upsGateRead_keeps (k : Nat) (s : State) : Keeps s (upsGateRead k s).st := by
  simp only [upsGateRead, Keeps, ite_keeps, ite_self, and_self, State.winData_keeps, State.win_keeps]
@[simp] theorem upsGateWrite_keeps (k : Nat) (s : State) : Keeps s (upsGateWrite k s).st := by
  simp only [upsGateWrite, Keeps, ite_keeps, ite_self, and_self, State.win_keeps, State.setUpsStaged_keeps]
@[simp] theorem upsRouteRead_keeps (k : Nat) (s : State) : Keeps s (upsRouteRead k s).st := by
  simp only [upsRouteRead, Keeps, ite_keeps, ite_self, and_self, State.winData_keeps, State.win_keeps]
@[simp] theorem upsRouteWrite_keeps (k : Nat) (s : State) : Keeps s (upsRouteWrite k s).st := by
  simp only [upsRouteWrite, Keeps, ite_keeps, ite_self, and_self, State.win_keeps, State.setUpsStaged_keeps]
@[simp] theorem State.upsApply_keeps (s : State) : Keeps s (State.upsApply s) := by
  simp only [State.upsApply, Keeps, and_self, State.unspillAll_keeps]
@[simp] theorem upsReset_keeps (s : State) : Keeps s (upsReset s) := by
  simp only [upsReset, Keeps, and_self, State.unspillAll_keeps]
@[simp] theorem upReset_keeps (p : Nat) (link : Nat) (s : State) : Keeps s (upReset p link s) := by
  simp only [upReset, Keeps, and_self, State.setUp_keeps, State.setFld_keeps]
@[simp] theorem State.dropKept_keeps (s : State) (r : Nat) : Keeps s (State.dropKept s r) := by
  simp only [State.dropKept, Keeps, and_self]
@[simp] theorem State.ringArm_keeps (s : State) (r : Nat) (g : Ring) : Keeps s (State.ringArm s r g) := by
  simp only [State.ringArm, Keeps, and_self, State.setRing_keeps, State.dropKept_keeps]
@[simp] theorem State.capSend_keeps (s : State) (m : Bytes) : KeepsLow s (State.capSend s m) := by
  simp only [State.capSend, KeepsLow, ite_keeps, ite_self, and_self, State.route_keeps, State.sendMsg_keeps]
theorem State.capOp_keeps {s t : State} {op r : Nat} (h : s.capOp op r = some t) : KeepsLow s t := by
  unfold State.capOp at h
  (repeat' split at h) <;> simp at h <;> subst h <;> simp [KeepsLow]
@[simp] theorem capCtrlWrite_keeps (d : Sys2Proof.Word) (s : State) : KeepsLow s (capCtrlWrite d s) := by
  unfold capCtrlWrite
  refine foldl_KeepsLow ?_ fun t0 a0 => ?_
  · simp only [KeepsLow, and_self]
  · split
    · rename_i y1_0
      split
      · rename_i y2_0 y2_1 y2_2
        have ky2_2 := State.capOp_keeps y2_2
        simp only [KeepsLow, and_self, ky2_2]
      · rename_i y2_0 y2_1
        simp only [KeepsLow, and_self, State.pgErr_keeps]
    · rename_i y1_0
      simp only [KeepsLow, and_self]
@[simp] theorem capCtrl_keeps (q : Sys2Proof.Req) (op : Nat) (rings : BitVec 16) (s : State) : KeepsLow s (capCtrl q op rings s) := by
  simp only [capCtrl, KeepsLow, and_self, implies_true, State.rowWrite_keeps, State.okay_keeps, capCtrlWrite_keeps]
@[simp] theorem capTrigWrite_keeps (d : Sys2Proof.Word) (s : State) : Keeps s (capTrigWrite d s) := by
  simp only [capTrigWrite, Keeps, ite_keeps, foldl_keeps, ite_self, and_self, implies_true, State.capTrigger_keeps]
@[simp] theorem State.ringFetch_keeps (s : State) (r : Nat) (g : Ring) (off n : Nat) : Keeps s (s.ringFetch r g off n).2 := by
  unfold State.ringFetch
  dsimp only
  (repeat' split) <;> simp [Keeps]
@[simp] theorem capUploadSend_keeps (r : Nat) (s : State) : KeepsLow s (capUploadSend r s) := by
  unfold capUploadSend
  lift_lets
  split
  · rename_i y0_0 y0_1 y0_2
    split
    · rename_i y1_0 y1_1 y1_2
      lift_lets
      intro x2
      clear_value x2
      split
      · rename_i y3_0
        simp only [KeepsLow, and_self]
      · rename_i y3_0
        split
        · rename_i y4_0
          simp only [KeepsLow, and_self, State.endXfer_keeps, State.uploadClose_keeps, State.capSend_keeps]
        · rename_i y4_0
          split
          · rename_i y5_0 y5_1 y5_2
            have ky5_2 := congrArg (fun p => p.2) y5_2; dsimp only at ky5_2; subst ky5_2
            simp only [KeepsLow, ite_keeps, ite_self, and_self, State.bytes_keeps, State.ringFetch_keeps]
          · rename_i y5_0 y5_1 y5_2 y5_3
            have ky5_3 := congrArg (fun p => p.2) y5_3; dsimp only at ky5_3; subst ky5_3
            lift_lets
            intro x6
            have h6 : KeepsLow s x6 := by simp only [x6, KeepsLow, ite_keeps, ite_self, and_self, State.capSend_keeps, State.bytes_keeps, State.ringFetch_keeps]
            clear_value x6
            simp only [KeepsLow, and_self, h6, State.setRing_keeps]
    · rename_i y1_0 y1_1
      simp only [KeepsLow, and_self]
  · rename_i y0_0 y0_1
    simp only [KeepsLow, and_self]
@[simp] theorem State.capAborted_keeps (s : State) (r : Nat) : KeepsLow s (State.capAborted s r) := by
  unfold State.capAborted
  (repeat' split) <;> simp only [KeepsLow, and_self, State.uploadClose_keeps, State.capSend_keeps, State.ringLost_keeps]
@[simp] theorem capRingRead_keeps (k : Nat) (s : State) : Keeps s (capRingRead k s).st := by
  simp only [capRingRead, Keeps, ite_keeps, ite_self, and_self, State.win_keeps, State.winData_keeps]
@[simp] theorem capRingWrite_keeps (k : Nat) (s : State) : Keeps s (capRingWrite k s).st := by
  simp only [capRingWrite, Keeps, ite_keeps, ite_self, and_self, State.win_keeps, State.setRing_keeps]
@[simp] theorem capLineRead_keeps (r : Nat) (k : Nat) (s : State) : Keeps s (capLineRead r k s).st := by
  unfold capLineRead
  (repeat' split) <;> simp only [Keeps, and_self, State.win_keeps, State.winData_keeps, State.bytes_keeps]
@[simp] theorem capReset_keeps (s : State) : KeepsLow s (capReset s) := by
  unfold capReset
  lift_lets
  intro x0
  have h0 : KeepsLow s x0 := by
      unfold x0
      refine foldl_KeepsLow ?_ fun t1 a1 => ?_
      · simp only [KeepsLow, and_self]
      · split
        · rename_i y2_0 y2_1 y2_2
          lift_lets
          intro x3
          have h3 : KeepsLow t1 x3 := by simp only [x3, KeepsLow, ite_keeps, ite_self, and_self, State.capSend_keeps]
          clear_value x3
          simp only [KeepsLow, and_self, h3, State.uploadClose_keeps]
        · rename_i y2_0 y2_1
          simp only [KeepsLow, and_self]
  clear_value x0
  intro x1
  have h1 : KeepsLow s x1 := by simp only [x1, KeepsLow, foldl_keeps, and_self, implies_true, h0, State.endXfer_keeps]
  clear_value x1
  simp only [KeepsLow, and_self, h1]
@[simp] theorem State.htpPut_keeps (s : State) (t : Nat) (p : Bytes) : Keeps s (State.htpPut s t p) := by
  simp only [State.htpPut, Keeps, ite_keeps, ite_self, and_self]
@[simp] theorem State.htpStamp_keeps (s : State) : Keeps s (State.htpStamp s).2 := by
  simp only [State.htpStamp, Keeps, and_self, State.fastStamp_keeps]
@[simp] theorem State.htpEmit_keeps (s : State) (p : Nat → Bytes) : Keeps s (State.htpEmit s p) := by
  simp only [State.htpEmit, Keeps, ite_keeps, ite_self, and_self, State.htpStamp_keeps, State.htpPut_keeps]
@[simp] theorem State.setTrSrc_keeps (s : State) (i : Nat) (t : TrSrc) : Keeps s (State.setTrSrc s i t) := by
  simp only [State.setTrSrc, Keeps, and_self]
@[simp] theorem State.oweAll_keeps (s : State) (reason : Nat) : Keeps s (State.oweAll s reason) := by
  simp only [State.oweAll, Keeps, and_self]
@[simp] theorem State.htpRoom_keeps (s : State) : Keeps s (State.htpRoom s) := by
  simp only [State.htpRoom, Keeps, ite_keeps, ite_self, and_self, State.bump_keeps, State.oweAll_keeps, State.htpEmit_keeps, State.fault_keeps]
@[simp] theorem State.htpSources_keeps (s : State) : Keeps s (State.htpSources s) := by
  simp only [State.htpSources, Keeps, ite_keeps, foldl_keeps, ite_self, and_self, implies_true, State.setTrSrc_keeps]
@[simp] theorem traceSourceTimeout_keeps (i : Nat) (s : State) : Keeps s (traceSourceTimeout i s) := by
  simp only [traceSourceTimeout, Keeps, ite_keeps, ite_self, and_self, State.reach_keeps, State.htpEmit_keeps, State.setTrSrc_keeps, State.fault_keeps, State.bump_keeps]
@[simp] theorem State.traceAccess_keeps (s : State) (i : Nat) (kind : Nat) (size : Nat) (addr : Nat) (data : Nat) (val : Bool) (asleep : Bool) : Keeps s (State.traceAccess s i kind size addr data val asleep) := by
  simp only [State.traceAccess, Keeps, and_self, State.htpStamp_keeps, State.htpPut_keeps, State.setTrSrc_keeps]
@[simp] theorem State.postBeat_keeps (s : State) : Keeps s (State.postBeat s) := by
  simp only [State.postBeat, Keeps, ite_keeps, ite_self, and_self, State.htpStopped_keeps]
@[simp] theorem State.accessBeat_keeps (s : State) (i : Nat) (kind : Nat) (size : Nat) (addr : Nat) (data : Nat) (asleep : Bool) : Keeps s (State.accessBeat s i kind size addr data asleep) := by
  unfold State.accessBeat
  lift_lets
  intro x0
  clear_value x0
  intro x1
  have h1 : Keeps s x1 := by simp only [x1, Keeps, ite_keeps, ite_self, and_self, State.htpStart_keeps]
  clear_value x1
  split
  · rename_i y2_0
    lift_lets
    intro x3
    have h3 : Keeps s x3 := by simp only [x3, Keeps, and_self, h1, State.htpStop_keeps]
    clear_value x3
    split
    · rename_i y4_0 y4_1 y4_2
      simp only [Keeps, ite_keeps, ite_self, and_self, h3, State.postBeat_keeps, State.traceAccess_keeps]
    · rename_i y4_0 y4_1
      simp only [Keeps, and_self, h3]
  · rename_i y2_0
    lift_lets
    intro x3
    have h3 : Keeps s x3 := by simp only [x3, Keeps, and_self, h1]
    clear_value x3
    split
    · rename_i y4_0 y4_1 y4_2
      simp only [Keeps, ite_keeps, ite_self, and_self, h3, State.postBeat_keeps, State.traceAccess_keeps]
    · rename_i y4_0 y4_1
      simp only [Keeps, and_self, h3]
@[simp] theorem traceBeat_keeps (i : Nat) (kind : Nat) (size : Nat) (addr : Nat) (data : Nat) (s : State) : Keeps s (traceBeat i kind size addr data s) := by
  simp only [traceBeat, Keeps, ite_keeps, ite_self, and_self, State.bump_keeps, State.htpEmit_keeps, State.setTrSrc_keeps, State.htpRoom_keeps, State.htpFlush_keeps, State.accessBeat_keeps]
@[simp] theorem htpFlushTimer_keeps (s : State) : Keeps s (htpFlushTimer s) := by
  simp only [htpFlushTimer, Keeps, ite_keeps, ite_self, and_self, State.htpFlush_keeps, State.reach_keeps]
@[simp] theorem htpDrain_keeps (s : State) : Keeps s (htpDrain s) := by
  simp only [htpDrain, Keeps, ite_keeps, ite_self, and_self, State.beginRanges_keeps]
@[simp] theorem State.htpDrained_keeps (s : State) : Keeps s (State.htpDrained s) := by
  simp only [State.htpDrained, Keeps, and_self, State.htpRoom_keeps, State.endXfer_keeps, State.addReg_keeps]
@[simp] theorem State.htpLost_keeps (s : State) : Keeps s (State.htpLost s) := by
  simp only [State.htpLost, Keeps, and_self, State.bump_keeps, State.oweAll_keeps, State.htpEmit_keeps]
@[simp] theorem htpConsPoll_keeps (cons : Nat) (s : State) : Keeps s (htpConsPoll cons s) := by
  simp only [htpConsPoll, Keeps, ite_keeps, ite_self, and_self]
@[simp] theorem htpStallTimeout_keeps (s : State) : Keeps s (htpStallTimeout s) := by
  unfold htpStallTimeout
  (repeat' split) <;> simp only [Keeps, and_self, State.reach_keeps, State.fault_keeps, State.bump_keeps]
@[simp] theorem htpCtrlWrite_keeps (d : Sys2Proof.Word) (s : State) : Keeps s (htpCtrlWrite d s) := by
  simp only [htpCtrlWrite, Keeps, ite_keeps, ite_self, and_self, State.htpStart_keeps, State.htpStop_keeps]
@[simp] theorem htpCtrl_keeps (q : Sys2Proof.Req) (d : Sys2Proof.Word) (s : State) : Keeps s (htpCtrl q d s) := by
  simp only [htpCtrl, Keeps, and_self, implies_true, State.rowWrite_keeps, State.okay_keeps, htpCtrlWrite_keeps]
@[simp] theorem htpFilterRead_keeps (k : Nat) (s : State) : Keeps s (htpFilterRead k s).st := by
  unfold htpFilterRead
  (repeat' split) <;> simp only [Keeps, and_self, State.win_keeps, State.winData_keeps]
@[simp] theorem htpFilterWrite_keeps (k : Nat) (s : State) : Keeps s (htpFilterWrite k s).st := by
  simp only [htpFilterWrite, Keeps, ite_keeps, ite_self, and_self, State.win_keeps]
@[simp] theorem htpReset_keeps (s : State) : Keeps s (htpReset s) := by
  simp only [htpReset, Keeps, and_self, State.endXfer_keeps]
@[simp] theorem State.haltChan_keeps (s : State) (c : Nat) (cause : Nat) : Keeps s (State.haltChan s c cause) := by
  simp only [State.haltChan, Keeps, and_self, State.setChan_keeps, State.fault_keeps, State.setReg_keeps]
@[simp] theorem State.modDesc_keeps (s : State) (c : Nat) (idx : Nat) (f : PDesc → PDesc) : Keeps s (State.modDesc s c idx f) := by
  simp only [State.modDesc, Keeps, and_self, State.setChan_keeps]
@[simp] theorem State.endDesc_keeps (s : State) (c : Nat) (idx : Nat) (status : Nat) : Keeps s (State.endDesc s c idx status) := by
  simp only [State.endDesc, Keeps, ite_keeps, ite_self, and_self, State.modDesc_keeps, State.setReg_keeps, State.bump_keeps, State.fault_keeps]
theorem State.house_keeps {s t : State} {c va : Nat} {w : Bool} (h : s.house c va w = some t) : Keeps s t := by
  unfold State.house at h
  simp only at h
  split at h
  · cases h; simp [Keeps]
  · cases h
@[simp] theorem State.houseErr_keeps (s : State) (c : Nat) (va : Nat) : Keeps s (State.houseErr s c va) := by
  simp only [State.houseErr, Keeps, and_self, State.haltChan_keeps, State.setChan_keeps]
@[simp] theorem State.fetchDescs_keeps (s : State) (c : Nat) (bs : List (Option Bytes)) : Keeps s (s.fetchDescs c bs) := by
  induction bs generalizing s with
  | nil => exact ⟨rfl, rfl, rfl, rfl⟩
  | cons b bs ih =>
    unfold State.fetchDescs
    dsimp only
    split
    · exact ⟨rfl, rfl, rfl, rfl⟩
    · split
      · exact ⟨rfl, rfl, rfl, rfl⟩
      · rename_i t h
        refine (State.house_keeps h).trans ?_
        split
        · simp [Keeps]
        · refine Keeps.trans ?_ (ih ..)
          split <;> simp [Keeps]
@[simp] theorem ringPoll_keeps (c : Nat) (prod : Option Nat) (descs : List (Option Bytes)) (s : State) : Keeps s (ringPoll c prod descs s) := by
  unfold ringPoll
  lift_lets
  intro x0
  have h0 : Keeps s x0 := by simp only [x0, Keeps, and_self, State.reach_keeps]
  clear_value x0
  split
  · rename_i y1_0
    split
    · rename_i y2_0 y2_1
      simp only [Keeps, and_self, h0]
    · rename_i y2_0 y2_1 y2_2
      have ky2_2 := State.house_keeps y2_2
      lift_lets
      intro x3
      have h3 : Keeps s x3 := by simp only [x3, Keeps, and_self, ky2_2, h0, State.hostGet_keeps]
      clear_value x3
      split
      · rename_i y4_0
        lift_lets
        intro x5
        clear_value x5
        intro x6
        have h6 : Keeps s x6 := by simp only [x6, Keeps, and_self, h3, State.setChan_keeps]
        clear_value x6
        simp only [Keeps, and_self, h6, State.houseErr_keeps]
      · rename_i y4_0 y4_1
        lift_lets
        intro x5
        clear_value x5
        intro x6
        have h6 : Keeps s x6 := by simp only [x6, Keeps, and_self, h3, State.setChan_keeps]
        clear_value x6
        simp only [Keeps, ite_keeps, ite_self, and_self, h6, State.setChan_keeps, State.bytes_keeps, State.haltChan_keeps, State.fetchDescs_keeps]
  · rename_i y1_0
    simp only [Keeps, and_self]
@[simp] theorem State.issueDesc_keeps (s : State) (c : Nat) (d : PDesc) (ecc : Bool) : Keeps s (State.issueDesc s c d ecc) := by
  simp only [State.issueDesc, Keeps, ite_keeps, ite_self, and_self, State.endDesc_keeps, State.modDesc_keeps, State.bytes_keeps, State.hostPut_keeps, State.hostGet_keeps]
@[simp] theorem State.issueUnit_keeps (s : State) (x : Xfer) : Keeps s (State.issueUnit s x) := by
  unfold State.issueUnit
  (repeat' split) <;> simp only [Keeps, and_self, State.modXfer_keeps, State.hostPut_keeps, State.hostGet_keeps]
@[simp] theorem State.snapFeed_keeps (s : State) (ecc : Bool) : Keeps s (State.snapFeed s ecc) := by
  unfold State.snapFeed
  (repeat' split) <;> simp only [Keeps, and_self, State.modXfer_keeps, State.eftHit_keeps]
theorem State.takeTag_keeps {s t u : State} {c : Nat} (h : s.takeTag c = (some t, u)) : Keeps s t := by
  unfold State.takeTag at h
  dsimp only at h
  split at h
  · cases h; simp [Keeps]
  · cases h
@[simp] theorem segmentIssue_keeps (x : Strm) (ecc : Bool) (s : State) : Keeps s (segmentIssue x ecc s) := by
  unfold segmentIssue
  split
  · exact Keeps.refl s
  extract_lets t
  have kt : Keeps s t := by unfold t; split <;> simp [Keeps]
  clear_value t
  refine kt.trans ?_
  split
  · exact Keeps.refl t
  rename_i c ctx accs _
  split
  · exact Keeps.refl t
  split
  · exact Keeps.refl t
  · exact Keeps.refl t
  · split
    · rename_i h
      have := State.takeTag_waits t c
      rw [h] at this; exact this
    · rename_i u v h
      refine (State.takeTag_keeps h).trans ?_
      extract_lets a b d
      have ka : Keeps u a := foldl_Keeps (Keeps.refl u) fun t a => State.tlbUse_keeps ..
      have kb : Keeps a b := State.ev_keeps ..
      have kd : Keeps b d := by unfold d; (repeat' split) <;> simp [Keeps]
      exact ka.trans (kb.trans (kd.trans (State.tagMark_keeps ..)))
@[simp] theorem State.moved_keeps (s : State) (n : Nat) (read : Bool) (write : Bool) : Keeps s (State.moved s n read write) := by
  simp only [State.moved, Keeps, ite_keeps, ite_self, and_self, State.addReg_keeps, State.bytes_keeps]
@[simp] theorem State.ringDone_keeps (s : State) (c : Nat) (idx : Nat) (k : Nat) (data : Bytes) (err : Bool) : KeepsTop s (State.ringDone s c idx k data err) := by
  unfold State.ringDone
  (repeat' split) <;> simp only [KeepsTop, and_self, State.modDesc_keeps, State.endDesc_keeps, State.moved_keeps, State.bytes_keeps, State.hostPut_keeps]
@[simp] theorem State.unitDone_keeps (s : State) (client : Nat) (inst : Nat) (k : Nat) (data : Bytes) (err : Bool) : Keeps s (State.unitDone s client inst k data err) := by
  unfold State.unitDone
  lift_lets
  intro x0
  clear_value x0
  intro x1
  clear_value x1
  intro x2
  clear_value x2
  split
  · rename_i y3_0
    simp only [Keeps, and_self]
  · rename_i y3_0
    split
    · rename_i y4_0 y4_1
      simp only [Keeps, and_self]
    · rename_i y4_0 y4_1 y4_2
      split
      · rename_i y5_0 y5_1
        simp only [Keeps, and_self]
      · rename_i y5_0 y5_1 y5_2 y5_3 y5_4
        simp only [Keeps, ite_keeps, ite_self, and_self, State.freeBytes_keeps, State.moved_keeps, State.modXfer_keeps]
@[simp] theorem State.wbPut_keeps (s : State) (c : Nat) (d : PDesc) (st : Nat) (va : Nat) (err : Bool) : Keeps s (State.wbPut s c d st va err) := by
  simp only [State.wbPut, Keeps, ite_keeps, ite_self, and_self, State.hostPut_keeps, State.houseErr_keeps, State.ev_keeps, State.bytes_keeps, State.modDesc_keeps, State.setChan_keeps, State.pendBit_keeps, State.haltChan_keeps, State.setReg_keeps]
@[simp] theorem State.wbStep_keeps (s : State) (c : Nat) (idx : Nat) (err : Bool) : Keeps s (State.wbStep s c idx err) := by
  unfold State.wbStep
  lift_lets
  intro x0
  clear_value x0
  split
  · rename_i y1_0 y1_1
    simp only [Keeps, and_self]
  · rename_i y1_0 y1_1 y1_2
    split
    · rename_i y2_0 y2_1
      simp only [Keeps, and_self]
    · rename_i y2_0 y2_1 y2_2
      split
      · rename_i y3_0 y3_1
        simp only [Keeps, and_self]
      · rename_i y3_0 y3_1 y3_2
        have ky3_2 := State.house_keeps y3_2
        simp only [Keeps, and_self, ky3_2, State.wbPut_keeps]
@[simp] theorem State.consStep_keeps (s : State) (c : Nat) (err : Bool) : Keeps s (State.consStep s c err) := by
  unfold State.consStep
  lift_lets
  intro x0
  clear_value x0
  split
  · rename_i y1_0
    simp only [Keeps, and_self]
  · rename_i y1_0
    split
    · rename_i y2_0 y2_1
      simp only [Keeps, and_self]
    · rename_i y2_0 y2_1 y2_2
      have ky2_2 := State.house_keeps y2_2
      lift_lets
      intro x3
      have h3 : Keeps s x3 := by simp only [x3, Keeps, and_self, ky2_2, State.hostPut_keeps]
      clear_value x3
      simp only [Keeps, ite_keeps, ite_self, and_self, h3, State.houseErr_keeps, State.bytes_keeps, State.setChan_keeps]
@[simp] theorem State.endStep_keeps (s : State) (c : Nat) (idx : Nat) : Keeps s (State.endStep s c idx) := by
  unfold State.endStep
  (repeat' split) <;> simp only [Keeps, and_self, State.hostPut_keeps, State.tlbUse_keeps, State.bytes_keeps]
@[simp] theorem descWriteback_keeps (c : Nat) (idx : Nat) (wbErr : Bool) (consErr : Bool) (s : State) : Keeps s (descWriteback c idx wbErr consErr s) := by
  simp only [descWriteback, Keeps, ite_keeps, ite_self, and_self, State.consStep_keeps, State.wbStep_keeps, State.endStep_keeps]
@[simp] theorem State.abortDesc_keeps (s : State) (c : Nat) (d : PDesc) : Keeps s (State.abortDesc s c d) := by
  simp only [State.abortDesc, Keeps, ite_keeps, ite_self, and_self, State.fqRemove_keeps, State.setChan_keeps, State.endDesc_keeps]
@[simp] theorem pmpAbortWrite_keeps (d : Sys2Proof.Word) (s : State) : Keeps s (pmpAbortWrite d s) := by
  unfold pmpAbortWrite
  lift_lets
  intro x0
  clear_value x0
  intro x1
  clear_value x1
  intro x2
  clear_value x2
  intro x3
  have h3 : ∀ a0 a1, Keeps a0 (x3 a0 a1) := by intro a0 a1; simp only [x3, Keeps, and_self]
  clear_value x3
  split
  · rename_i y4_0
    simp only [Keeps, and_self, h3]
  · rename_i y4_0
    split
    · rename_i y5_0 y5_1 y5_2
      simp only [Keeps, ite_keeps, ite_self, and_self, h3, State.abortDesc_keeps]
    · rename_i y5_0 y5_1
      simp only [Keeps, ite_keeps, ite_self, and_self, h3, State.endDesc_keeps, State.setChan_keeps]
@[simp] theorem pmpRestartWrite_keeps (d : Sys2Proof.Word) (s : State) : Keeps s (pmpRestartWrite d s) := by
  simp only [pmpRestartWrite, Keeps, and_self]
@[simp] theorem pmpChEnWrite_keeps (d : Sys2Proof.Word) (s : State) : Keeps s (pmpChEnWrite d s) := by
  simp only [pmpChEnWrite, Keeps, ite_keeps, foldl_keeps, ite_self, and_self, implies_true, State.setReg_keeps, State.setChan_keeps]
@[simp] theorem pmpChRead_keeps (c : Nat) (s : State) : Keeps s (pmpChRead c s).st := by
  simp only [pmpChRead, Keeps, ite_keeps, ite_self, and_self, State.winData_keeps, State.win_keeps]
@[simp] theorem pmpChWrite_keeps (c : Nat) (s : State) : Keeps s (pmpChWrite c s).st := by
  simp only [pmpChWrite, Keeps, ite_keeps, ite_self, and_self, State.win_keeps, State.setChan_keeps]
@[simp] theorem pmpRingReset_keeps (s : State) : Keeps s (pmpRingReset s) := by
  simp only [pmpRingReset, Keeps, and_self, State.fqRemove_keeps]

end Sys2Proof.Machine
end

