-- ==== Sys2Proof/Laws/Keeps5.lean ====
section
/-! SUPPORT. What the functions of Resume, Col, Bud, Pmu, Flt, UnitReset, Commit, Boundary, Lcm leave alone. -/

namespace Sys2Proof.Machine

@[simp] theorem State.abortRing_keeps (s : State) (c : Nat) : Keeps s (State.abortRing s c) := by
  unfold State.abortRing
  lift_lets
  intro x0
  clear_value x0
  intro x1
  have h1 : Keeps s x1 := by simp only [x1, Keeps, and_self, State.setChan_keeps]
  clear_value x1
  split
  · rename_i y2_0 y2_1 y2_2
    simp only [Keeps, and_self, h1, State.endDesc_keeps]
  · rename_i y2_0 y2_1
    simp only [Keeps, and_self, h1]
@[simp] theorem State.abortMxeLoad_keeps (s : State) (e : Nat) : Keeps s (State.abortMxeLoad s e) := by
  unfold State.abortMxeLoad
  (repeat' split) <;> simp only [Keeps, and_self, State.mxeLoadFail_keeps, State.setMx_keeps]
@[simp] theorem State.abortTreLoad_keeps (s : State) (e : Nat) : Keeps s (State.abortTreLoad s e) := by
  unfold State.abortTreLoad
  (repeat' split) <;> simp only [Keeps, and_self, State.treLoadFail_keeps, State.setTr_keeps]
@[simp] theorem State.abortCorLoad_keeps (s : State) (inst : Nat) : Keeps s (State.abortCorLoad s inst) := by
  unfold State.abortCorLoad
  (repeat' split) <;> simp only [Keeps, and_self, State.bundleFail_keeps, State.fwFail_keeps]
@[simp] theorem State.abortSnap_keeps (s : State) : Keeps s (State.abortSnap s) := by
  unfold State.abortSnap
  (repeat' split) <;> simp only [Keeps, and_self, State.winEnd_keeps]
@[simp] theorem State.abortHouse_keeps (s : State) (c : Nat) (va : Nat) : Keeps s (State.abortHouse s c va) := by
  simp only [State.abortHouse, Keeps, and_self, State.haltChan_keeps, State.setChan_keeps]
@[simp] theorem State.abortStream_keeps (s : State) (client : Nat) (inst : Nat) (va : Nat) : KeepsLow s (State.abortStream s client inst va) := by
  unfold State.abortStream
  (repeat' split) <;> simp only [KeepsLow, and_self, State.endXfer_keeps, State.abortRing_keeps, State.abortHouse_keeps, State.abortMxeLoad_keeps, State.mxeFault_keeps, State.abortTreLoad_keeps, State.treFault_keeps, State.abortCorLoad_keeps, State.coreXltAbort_keeps, State.abortSnap_keeps, State.capAborted_keeps, State.htpLost_keeps, State.hpaLost_keeps]
@[simp] theorem State.resumeStream_keeps (s : State) (client : Nat) (inst : Nat) : KeepsLow s (State.resumeStream s client inst) := by
  unfold State.resumeStream
  lift_lets
  intro x0
  clear_value x0
  intro x1
  have h1 : KeepsLow s x1 := by simp only [x1, KeepsLow, and_self, State.setChan_keeps]
  clear_value x1
  split
  · rename_i y2_0
    split
    · rename_i y3_0 y3_1 y3_2
      simp only [KeepsLow, and_self, h1, State.modDesc_keeps]
    · rename_i y3_0 y3_1
      simp only [KeepsLow, and_self, h1]
  · rename_i y2_0
    simp only [KeepsLow, and_self, State.setChan_keeps]
  · rename_i y2_0
    simp only [KeepsLow, and_self, State.ringFlush_keeps, State.modXfer_keeps]
  · rename_i y2_0 y2_1 y2_2 y2_3
    simp only [KeepsLow, and_self, State.modXfer_keeps]
@[simp] theorem State.fqDrop_keeps (s : State) (token : Nat) : Keeps s (State.fqDrop s token) := by
  simp only [State.fqDrop, Keeps, and_self, State.fqRemove_keeps]
@[simp] theorem xltRespond_keeps (d : Sys2Proof.Word) (s : State) : KeepsLow s (xltRespond d s) := by
  unfold xltRespond
  lift_lets
  intro x0
  clear_value x0
  intro x1
  clear_value x1
  intro x2
  have h2 : ∀ a0 a1, KeepsLow a0 (x2 a0 a1) := by intro a0 a1; simp only [x2, KeepsLow, and_self, State.setFld_keeps]
  clear_value x2
  split
  · rename_i y3_0
    lift_lets
    intro x4
    have h4 : KeepsLow s x4 := by simp only [x4, KeepsLow, and_self, h2, State.fqDrop_keeps]
    clear_value x4
    simp only [KeepsLow, and_self, h2]
  · rename_i y3_0
    lift_lets
    intro x4
    have h4 : KeepsLow s x4 := by simp only [x4, KeepsLow, and_self, h2, State.fqDrop_keeps]
    clear_value x4
    split
    · rename_i y5_0 y5_1
      simp only [KeepsLow, and_self, h2]
    · rename_i y5_0 y5_1 y5_2
      simp only [KeepsLow, ite_keeps, ite_self, and_self, h4, State.resumeStream_keeps, State.bump_keeps, State.abortStream_keeps]
@[simp] theorem xltFaultTimeout_keeps (token : Nat) (s : State) : KeepsLow s (xltFaultTimeout token s) := by
  unfold xltFaultTimeout
  (repeat' split) <;> simp only [KeepsLow, and_self, State.fqDrop_keeps, State.reach_keeps, State.abortStream_keeps, State.fault_keeps, State.bump_keeps]
@[simp] theorem State.imageGrow_keeps (s : State) (client : Nat) (inst : Nat) (h : Bytes) : Keeps s (State.imageGrow s client inst h) := by
  simp only [State.imageGrow, Keeps, and_self, State.modXfer_keeps]
@[simp] theorem State.xferDone_keeps (s : State) (client : Nat) (inst : Nat) : Keeps s (State.xferDone s client inst) := by
  unfold State.xferDone
  (repeat' split) <;> simp only [Keeps, and_self, State.ringSent_keeps, State.htpDrained_keeps, State.hpaSent_keeps]
@[simp] theorem segmentDone_keeps (x : Sys2Proof.Strm) (idx : Nat) (k : Nat) (data : Bytes) (err : Bool) (s : State) : KeepsTop s (segmentDone x idx k data err s) := by
  unfold segmentDone
  (repeat' split) <;> simp only [KeepsTop, ite_keeps, ite_self, and_self, State.ringDone_keeps, State.unitDone_keeps, State.imageGrow_keeps, State.xferDone_keeps]
@[simp] theorem xltReset_keeps (s : State) : KeepsLow s (xltReset s) := by
  simp only [xltReset, KeepsLow, foldl_keeps, and_self, implies_true, State.abortStream_keeps]
@[simp] theorem pmpReset_keeps (s : State) : KeepsLow s (pmpReset s) := by
  simp only [pmpReset, KeepsLow, foldl_keeps, and_self, implies_true, State.abortStream_keeps, pmpRingReset_keeps]
@[simp] theorem State.setColGrp_keeps (s : State) (g : Nat) (e : ColGrp) : Keeps s (State.setColGrp s g e) := by
  simp only [State.setColGrp, Keeps, and_self]
@[simp] theorem State.setColRun_keeps (s : State) (g : Nat) (r : ColRun) : Keeps s (State.setColRun s g r) := by
  simp only [State.setColRun, Keeps, and_self]
@[simp] theorem State.colSend_keeps (s : State) (etype : Nat) (mac : Nat) (payload : Bytes) : KeepsLow s (State.colSend s etype mac payload) := by
  unfold State.colSend
  lift_lets
  intro x0
  clear_value x0
  intro x1
  clear_value x1
  split
  · rename_i y2_0
    simp only [KeepsLow, and_self]
  · rename_i y2_0 y2_1 y2_2
    simp only [KeepsLow, and_self, State.putDrr_keeps]
@[simp] theorem State.colSendAll_keeps (s : State) (etype : Nat) (mac : Nat) (ps : List Bytes) : KeepsLow s (State.colSendAll s etype mac ps) := by
  simp only [State.colSendAll, KeepsLow, foldl_keeps, and_self, implies_true, State.colSend_keeps]
@[simp] theorem State.colPlace_keeps (s : State) (e : ColGrp) (r : ColRun) (src : Nat) (frag : Nat) (d : Bytes) : KeepsLow s (State.colPlace s e r src frag d) := by
  simp only [State.colPlace, KeepsLow, and_self, State.bytes_keeps]
@[simp] theorem State.setColSlow_keeps (s : State) (i : Nat) (c : ColSlow) : Keeps s (State.setColSlow s i c) := by
  simp only [State.setColSlow, Keeps, and_self]
@[simp] theorem State.colFault_keeps (s : State) (status : Nat) : Keeps s (State.colFault s status) := by
  simp only [State.colFault, Keeps, ite_keeps, ite_self, and_self, State.fault_keeps]
@[simp] theorem State.colBytes_keeps (s : State) (e : ColGrp) (r : ColRun) (complete : Bool) : KeepsLow s (State.colBytes s e r complete) := by
  simp only [State.colBytes, KeepsLow, ite_keeps, ite_self, and_self, State.bytes_keeps, State.freeBytes_keeps]
@[simp] theorem State.colSlowest_keeps (s : State) (e : ColGrp) (r : ColRun) : Keeps s (State.colSlowest s e r) := by
  unfold State.colSlowest
  (repeat' split) <;> simp only [Keeps, and_self, State.setColSlow_keeps]
@[simp] theorem State.colClose_keeps (s : State) (g : Nat) (e : ColGrp) (r : ColRun) (status : Nat) (named : Nat) (tell : Bool) : KeepsLow s (State.colClose s g e r status named tell) := by
  simp only [State.colClose, KeepsLow, ite_keeps, foldl_keeps, ite_self, and_self, implies_true, State.setColRun_keeps, State.setColGrp_keeps, State.setReg_keeps, State.pendBit_keeps, State.colFault_keeps, State.bump_keeps, State.colSend_keeps]
@[simp] theorem State.colEnd_keeps (s : State) (g : Nat) (e : ColGrp) (r : ColRun) (status : Nat) (named : Nat) (tell : Bool) : KeepsLow s (State.colEnd s g e r status named tell) := by
  simp only [State.colEnd, KeepsLow, ite_keeps, ite_self, and_self, State.colBytes_keeps, State.colSlowest_keeps, State.colClose_keeps]
@[simp] theorem State.colKeep_keeps (s : State) (r : ColRun) (e : ColGrp) (t : Nat) (d : Nat) (frags : List Bytes) : KeepsLow s (State.colKeep s r e t d frags).1 := by
  simp only [State.colKeep, KeepsLow, and_self, State.colSendAll_keeps]
@[simp] theorem State.colEnter_keeps (s : State) (g : Nat) (e : ColGrp) (r : ColRun) (t : Nat) : KeepsLow s (State.colEnter s g e r t) := by
  simp only [State.colEnter, KeepsLow, ite_keeps, foldl_keeps, ite_self, and_self, implies_true, State.colKeep_keeps, State.bytes_keeps, State.setColRun_keeps]
@[simp] theorem State.colSigsDone_keeps (s : State) (g : Nat) (e : ColGrp) (r : ColRun) : KeepsLow s (State.colSigsDone s g e r).1 := by
  unfold State.colSigsDone
  lift_lets
  intro x0
  clear_value x0
  intro x1
  clear_value x1
  intro x2
  clear_value x2
  intro x3
  have h3 : KeepsLow s x3 := by simp only [x3, KeepsLow, and_self, State.setReg_keeps, State.setColSlow_keeps]
  clear_value x3
  split
  · rename_i y4_0
    lift_lets
    intro x5
    clear_value x5
    intro x6
    clear_value x6
    intro x7
    clear_value x7
    intro x8
    clear_value x8
    intro x9
    clear_value x9
    intro x10
    have h10 : KeepsLow s x10 := by simp only [x10, KeepsLow, and_self, h3, State.bytes_keeps]
    clear_value x10
    split
    · rename_i y11_0 y11_1 y11_2
      lift_lets
      intro x12
      have h12 : KeepsLow s x12 := by simp only [x12, KeepsLow, and_self, h10]
      clear_value x12
      simp only [KeepsLow, and_self, h3, State.colEnd_keeps]
    · rename_i y11_0 y11_1
      lift_lets
      intro x12
      have h12 : KeepsLow s x12 := by simp only [x12, KeepsLow, and_self, h10]
      clear_value x12
      simp only [KeepsLow, and_self, h3, State.setColRun_keeps]
  · rename_i y4_0
    lift_lets
    intro x5
    clear_value x5
    intro x6
    clear_value x6
    intro x7
    clear_value x7
    intro x8
    clear_value x8
    intro x9
    clear_value x9
    intro x10
    have h10 : KeepsLow s x10 := by simp only [x10, KeepsLow, and_self, h3, State.bytes_keeps]
    clear_value x10
    split
    · rename_i y11_0 y11_1 y11_2
      lift_lets
      intro x12
      have h12 : KeepsLow s x12 := by simp only [x12, KeepsLow, and_self, h10]
      clear_value x12
      simp only [KeepsLow, and_self, h3, State.colEnd_keeps]
    · rename_i y11_0 y11_1
      lift_lets
      intro x12
      have h12 : KeepsLow s x12 := by simp only [x12, KeepsLow, and_self, h10]
      clear_value x12
      simp only [KeepsLow, ite_keeps, foldl_keeps, ite_self, and_self, implies_true, h12, h3, State.colEnd_keeps, State.setColRun_keeps, State.colPlace_keeps]
@[simp] theorem State.colGo_keeps (s : State) (g : Nat) (ecc : Bool) (n : Nat) : KeepsLow s (s.colGo g ecc n) := by
  induction n generalizing s with
  | zero => exact ⟨rfl, rfl, rfl⟩
  | succ n ih =>
    unfold State.colGo
    split
    · rename_i e r _ _
      split
      · exact ⟨rfl, rfl, rfl⟩
      · split
        · exact ⟨rfl, rfl, rfl⟩
        · have hx : KeepsLow s (if r.step = 0 then s.colSigsDone g e r else (s, true)).1 := by
            split
            · exact State.colSigsDone_keeps ..
            · exact ⟨rfl, rfl, rfl⟩
          revert hx
          generalize (if r.step = 0 then s.colSigsDone g e r else (s, true)) = x
          obtain ⟨t, on⟩ := x
          intro hx
          dsimp only at hx ⊢
          split
          · rename_i r _
            split
            · exact hx.trans (State.colEnd_keeps ..)
            · generalize (ite (r.step ≠ 0 ∧ e.op = 3) (r.reduceStep e r.step) r) = r'
              split
              · split
                · exact hx.trans (Keeps.low (State.setColRun_keeps ..))
                · exact hx.trans (State.colEnd_keeps ..)
              · exact hx.trans (KeepsLow.trans (State.colEnter_keeps ..) (ih ..))
          · exact hx
    · exact ⟨rfl, rfl, rfl⟩
@[simp] theorem State.colStart_keeps (s : State) (g : Nat) (e : ColGrp) (ecc : Bool) : KeepsLow s (State.colStart s g e ecc) := by
  unfold State.colStart
  lift_lets
  intro x0
  clear_value x0
  intro x1
  clear_value x1
  intro x2
  clear_value x2
  intro x3
  clear_value x3
  intro x4
  clear_value x4
  intro x5
  clear_value x5
  intro x6
  clear_value x6
  intro x7
  clear_value x7
  intro x8
  have h8 : KeepsLow s x8 := by
      unfold x8
      split
      · rename_i y9_0 y9_1 y9_2
        lift_lets
        intro x10
        have h10 : KeepsLow s x10 := by simp only [x10, KeepsLow, and_self, State.bytes_keeps]
        clear_value x10
        simp only [KeepsLow, and_self, h10]
      · rename_i y9_0
        simp only [KeepsLow, and_self]
  clear_value x8
  intro x9
  clear_value x9
  intro x10
  clear_value x10
  intro x11
  clear_value x11
  intro x12
  clear_value x12
  intro x13
  have h13 : KeepsLow s x13 := by simp only [x13, KeepsLow, ite_keeps, ite_self, and_self, h8, State.bytes_keeps]
  clear_value x13
  simp only [KeepsLow, ite_keeps, foldl_keeps, ite_self, and_self, implies_true, h13, State.bytes_keeps, State.setColGrp_keeps, State.colEnd_keeps, State.setColRun_keeps, State.colKeep_keeps, State.colSend_keeps, State.colGo_keeps]
@[simp] theorem colStartWrite_keeps (d : Sys2Proof.Word) (ecc : Bool) (s : State) : KeepsLow s (colStartWrite d ecc s) := by
  unfold colStartWrite
  lift_lets
  intro x0
  clear_value x0
  split
  · rename_i y1_0 y1_1 y1_2
    simp [KeepsLow, ite_keeps, ite_self, and_self]
  · rename_i y1_0 y1_1
    simp only [KeepsLow, and_self, State.pgErr_keeps]
@[simp] theorem colAbortWrite_keeps (d : Sys2Proof.Word) (s : State) : KeepsLow s (colAbortWrite d s) := by
  unfold colAbortWrite
  lift_lets
  intro x0
  clear_value x0
  intro x1
  have h1 : ∀ a0 a1, KeepsLow a0 (x1 a0 a1) := by intro a0 a1; simp only [x1, KeepsLow, and_self]
  clear_value x1
  split
  · rename_i y2_0 y2_1 y2_2
    simp only [KeepsLow, and_self, h1]
  · rename_i y2_0 y2_1 y2_2 y2_3 y2_4
    simp only [KeepsLow, and_self, h1]
  · rename_i y2_0 y2_1 y2_2 y2_3 y2_4 y2_5
    simp only [KeepsLow, and_self, h1, State.colEnd_keeps]
@[simp] theorem State.colAckTo_keeps (s : State) (e : ColGrp) (r : ColRun) (src : Nat) (step : Nat) : KeepsLow s (State.colAckTo s e r src step) := by
  simp only [State.colAckTo, KeepsLow, and_self, State.colSend_keeps]
@[simp] theorem State.colSigIn_keeps (s : State) (g : Nat) (e : ColGrp) (r : ColRun) (src : Nat) (sig : Bytes) (count : Nat) (ecc : Bool) : KeepsLow s (State.colSigIn s g e r src sig count ecc) := by
  simp only [State.colSigIn, KeepsLow, ite_keeps, ite_self, and_self, State.colAckTo_keeps, State.bump_keeps, State.setColRun_keeps, State.colGo_keeps]
@[simp] theorem State.colDataIn_keeps (s : State) (g : Nat) (e : ColGrp) (r : ColRun) (m : Bytes) (ecc : Bool) : KeepsLow s (State.colDataIn s g e r m ecc) := by
  simp only [State.colDataIn, KeepsLow, ite_keeps, ite_self, and_self, State.bump_keeps, State.colAckTo_keeps, State.fault_keeps, State.colPlace_keeps, State.setColRun_keeps, State.colGo_keeps]
@[simp] theorem State.colAckIn_keeps (s : State) (g : Nat) (r : ColRun) (step : Nat) (src : Nat) (ecc : Bool) : KeepsLow s (State.colAckIn s g r step src ecc) := by
  unfold State.colAckIn
  dsimp only
  split
  · exact (Keeps.refl s).low
  · exact KeepsLow.trans (Keeps.low (State.setColRun_keeps ..)) (State.colGo_keeps ..)
@[simp] theorem State.colFrame_keeps (s : State) (f : Bytes) (ecc : Bool) : KeepsLow s (s.colFrame f ecc) := by
  unfold State.colFrame
  extract_lets h m job tag step src
  split
  · exact Keeps.low (by simp only [Keeps, State.bump_keeps, State.fault_keeps, and_self])
  · split
    · split <;> exact Keeps.low (State.bump_keeps ..)
    · split
      · exact Keeps.low (by simp only [Keeps, State.bump_keeps, State.fault_keeps, and_self])
      · dsimp only
        generalize s.col.runs.get? _ = run
        split
        · exact Keeps.low (State.bump_keeps ..)
        · split
          · exact Keeps.low (State.bump_keeps ..)
          · split
            · split
              · exact ⟨rfl, rfl, rfl⟩
              · split
                · exact Keeps.low (State.bump_keeps ..)
                · exact ⟨rfl, rfl, rfl⟩
            · split
              · exact ⟨rfl, rfl, rfl⟩
              · refine ite_low (Keeps.refl s).low ?_
                split
                · exact State.colSigIn_keeps ..
                · split
                  · exact State.colDataIn_keeps ..
                  · split
                    · exact State.colAckIn_keeps ..
                    · refine ite_low (Keeps.refl s).low ?_
                      exact KeepsLow.trans (State.colBytes_keeps ..) (State.colClose_keeps ..)
@[simp] theorem colRx_keeps (kind : Nat) (f : Bytes) (ecc : Bool) (s : State) : KeepsLow s (colRx kind f ecc s) := by
  simp only [colRx, KeepsLow, ite_keeps, ite_self, and_self, State.colFrame_keeps]
@[simp] theorem colRetx_keeps (g : Nat) (s : State) : KeepsLow s (colRetx g s) := by
  unfold colRetx
  (repeat' split) <;> simp only [KeepsLow, foldl_keeps, and_self, implies_true, State.reach_keeps, State.colSendAll_keeps, State.bump_keeps, State.setColRun_keeps]
@[simp] theorem State.colStall_keeps (s : State) (g : Nat) (e : ColGrp) (r : ColRun) : KeepsLow s (State.colStall s g e r) := by
  unfold State.colStall
  lift_lets
  intro x0
  clear_value x0
  split
  · rename_i y1_0 y1_1 y1_2
    simp [KeepsLow, and_self]
  · rename_i y1_0 y1_1
    simp only [KeepsLow, and_self]
@[simp] theorem colRxTimeout_keeps (g : Nat) (s : State) : KeepsLow s (colRxTimeout g s) := by
  unfold colRxTimeout
  (repeat' split) <;> simp only [KeepsLow, and_self, State.colStall_keeps, State.reach_keeps]
@[simp] theorem colTxTimeout_keeps (g : Nat) (s : State) : KeepsLow s (colTxTimeout g s) := by
  unfold colTxTimeout
  (repeat' split) <;> simp only [KeepsLow, and_self, State.colStall_keeps, State.reach_keeps]
@[simp] theorem State.colApply_keeps (s : State) (m : Bytes) : Keeps s (State.colApply s m) := by
  simp only [State.colApply, Keeps, ite_keeps, ite_self, and_self, eftWrite_keeps, State.bump_keeps]
@[simp] theorem State.colApplyBlock_keeps (s : State) (a : Nat) (n : Nat) : Keeps s (State.colApplyBlock s a n) := by
  simp only [State.colApplyBlock, Keeps, foldl_keeps, and_self, implies_true, State.colApply_keeps, State.bytes_keeps]
@[simp] theorem State.colDataErr_keeps (s : State) (g : Nat) (e : ColGrp) (r : ColRun) : KeepsLow s (State.colDataErr s g e r) := by
  simp only [State.colDataErr, KeepsLow, and_self, State.draw_keeps, State.colEnd_keeps]
@[simp] theorem colEftApplyDone_keeps (g : Nat) (ecc : Bool) (s : State) : KeepsLow s (colEftApplyDone g ecc s) := by
  unfold colEftApplyDone
  (repeat' split) <;> simp only [KeepsLow, ite_keeps, foldl_keeps, ite_self, and_self, implies_true, State.colEnd_keeps, State.colApplyBlock_keeps, State.colDataErr_keeps]
@[simp] theorem colGroupRead_keeps (k : Nat) (s : State) : Keeps s (colGroupRead k s).st := by
  unfold colGroupRead
  (repeat' split) <;> simp only [Keeps, and_self, State.win_keeps, State.winData_keeps]
@[simp] theorem colGroupWrite_keeps (k : Nat) (s : State) : Keeps s (colGroupWrite k s).st := by
  simp only [colGroupWrite, Keeps, ite_keeps, ite_self, and_self, State.win_keeps, State.setColGrp_keeps]
@[simp] theorem colMemberRead_keeps (k : Nat) (s : State) : Keeps s (colMemberRead k s).st := by
  simp only [colMemberRead, Keeps, ite_keeps, ite_self, and_self, State.winData_keeps, State.win_keeps]
@[simp] theorem colMemberWrite_keeps (k : Nat) (s : State) : Keeps s (colMemberWrite k s).st := by
  simp only [colMemberWrite, Keeps, ite_keeps, ite_self, and_self, State.win_keeps]
@[simp] theorem colSlowRead_keeps (k : Nat) (s : State) : Keeps s (colSlowRead k s).st := by
  simp only [colSlowRead, Keeps, ite_keeps, ite_self, and_self, State.winData_keeps, State.win_keeps]
@[simp] theorem colReset_keeps (s : State) : KeepsLow s (colReset s) := by
  unfold colReset
  lift_lets
  intro x0
  have h0 : KeepsLow s x0 := by
      unfold x0
      refine foldl_KeepsLow ?_ fun t1 a1 => ?_
      · simp only [KeepsLow, and_self]
      · split
        · rename_i y2_0 y2_1 y2_2 y2_3 y2_4 y2_5
          simp only [KeepsLow, and_self, State.colEnd_keeps]
        · rename_i y2_0 y2_1 y2_2
          simp only [KeepsLow, and_self]
  clear_value x0
  intro x1
  clear_value x1
  simp only [KeepsLow, and_self, h0]
@[simp] theorem State.stageWord_keeps (s : State) (r : Reg) (v : Sys2Proof.Word) : Keeps s (State.stageWord s r v) := by
  unfold State.stageWord
  (repeat' split) <;> simp only [Keeps, and_self, State.mark_keeps]
@[simp] theorem State.restoreReg_keeps (s : State) (r : Reg) (v : Sys2Proof.Word) : Keeps s (State.restoreReg s r v) := by
  simp only [State.restoreReg, Keeps, ite_keeps, ite_self, and_self, State.setReg_keeps, State.stageWord_keeps]
@[simp] theorem State.restoreItem_keeps (s : State) (m : Bytes) : Keeps s (State.restoreItem s m) := by
  unfold State.restoreItem
  lift_lets
  intro x0
  clear_value x0
  intro x1
  clear_value x1
  intro x2
  clear_value x2
  intro x3
  clear_value x3
  intro x4
  clear_value x4
  intro x5
  clear_value x5
  intro x6
  clear_value x6
  intro x7
  clear_value x7
  intro x8
  clear_value x8
  intro x9
  clear_value x9
  intro x10
  clear_value x10
  intro x11
  clear_value x11
  intro x12
  clear_value x12
  split
  · rename_i y13_0 y13_1
    split
    · rename_i y14_0 y14_1 y14_2
      simp only [Keeps, and_self, State.restoreReg_keeps]
    · rename_i y14_0 y14_1
      simp only [Keeps, and_self]
  · rename_i y13_0 y13_1
    simp only [Keeps, and_self, State.setRdxStaged_keeps]
  · rename_i y13_0 y13_1
    simp only [Keeps, and_self, State.setRdxStaged_keeps]
  · rename_i y13_0 y13_1
    simp only [Keeps, and_self, State.setRdxStaged_keeps]
  · rename_i y13_0 y13_1
    simp only [Keeps, and_self, State.setUpsStaged_keeps]
  · rename_i y13_0 y13_1
    simp only [Keeps, and_self, State.setUpsStaged_keeps]
  · rename_i y13_0 y13_1
    simp only [Keeps, and_self, State.setUpsStaged_keeps]
  · rename_i y13_0 y13_1
    simp only [Keeps, and_self]
  · rename_i y13_0 y13_1
    simp only [Keeps, and_self]
  · rename_i y13_0 y13_1
    simp only [Keeps, and_self]
  · rename_i y13_0 y13_1
    simp only [Keeps, and_self, State.setColGrp_keeps]
  · rename_i y13_0 y13_1
    simp only [Keeps, and_self]
  · rename_i y13_0 y13_1 y13_2 y13_3 y13_4 y13_5 y13_6 y13_7 y13_8 y13_9 y13_10 y13_11 y13_12
    simp only [Keeps, and_self]
@[simp] theorem State.restoreConfig_keeps (s : State) (frames : List Bytes) : Keeps s (State.restoreConfig s frames) := by
  simp only [State.restoreConfig, Keeps, foldl_keeps, and_self, implies_true, State.setUpsStaged_keeps, State.setRdxStaged_keeps, State.restoreItem_keeps]
@[simp] theorem State.mirrorConfig_keeps (s : State) : KeepsLow s (State.mirrorConfig s) := by
  simp only [State.mirrorConfig, KeepsLow, and_self, State.mirror_keeps]
@[simp] theorem State.mirrorBoundary_keeps (s : State) : KeepsLow s (State.mirrorBoundary s) := by
  simp only [State.mirrorBoundary, KeepsLow, and_self, State.mirror_keeps]
@[simp] theorem State.mirrorWhole_keeps (s : State) : KeepsLow s (State.mirrorWhole s) := by
  simp only [State.mirrorWhole, KeepsLow, and_self, State.mirror_keeps]
@[simp] theorem State.mirrorEnable_keeps (s : State) (was : Bool) : Keeps s (State.mirrorEnable s was) := by
  simp only [State.mirrorEnable, Keeps, ite_keeps, ite_self, and_self, State.setFld_keeps]
@[simp] theorem State.holdValid_keeps (s : State) : Keeps s (State.holdValid s) := by
  simp only [State.holdValid, Keeps, and_self, State.setFld_keeps]
@[simp] theorem State.setImg_keeps (s : State) (c : Nat) (l : List Bytes) : KeepsLow s (State.setImg s c l) := by
  simp only [State.setImg, KeepsLow, ite_keeps, ite_self, and_self, State.bytes_keeps]
@[simp] theorem State.mirrorIn_keeps (s : State) (b : BudFrame) : KeepsLow s (State.mirrorIn s b) := by
  simp only [State.mirrorIn, KeepsLow, ite_keeps, ite_self, and_self, State.budFrame_keeps, State.holdValid_keeps, State.setImg_keeps, State.bump_keeps]
@[simp] theorem mirrorRx_keeps (f : Bytes) (s : State) : KeepsLow s (mirrorRx f s) := by
  simp only [mirrorRx, KeepsLow, ite_keeps, ite_self, and_self, State.mirrorIn_keeps]
@[simp] theorem resyncRx_keeps (f : Bytes) (s : State) : KeepsLow s (resyncRx f s) := by
  simp only [resyncRx, KeepsLow, ite_keeps, ite_self, and_self, State.mirrorWhole_keeps, State.setFld_keeps, State.bump_keeps]
@[simp] theorem mirrorAckRx_keeps (f : Bytes) (s : State) : Keeps s (mirrorAckRx f s) := by
  simp only [mirrorAckRx, Keeps, ite_keeps, ite_self, and_self, State.setFld_keeps]
@[simp] theorem mirrorAckTimeout_keeps (s : State) : Keeps s (mirrorAckTimeout s) := by
  simp only [mirrorAckTimeout, Keeps, ite_keeps, ite_self, and_self, State.fault_keeps, State.setFld_keeps, State.reach_keeps]
@[simp] theorem State.setRstate_keeps (s : State) (n : Nat) : Keeps s (State.setRstate s n) := by
  simp only [State.setRstate, Keeps, ite_keeps, ite_self, and_self, State.setFld_keeps, State.health_keeps, State.pendBit_keeps]
@[simp] theorem budRestoreWrite_keeps (d : Sys2Proof.Word) (s : State) : KeepsLow s (budRestoreWrite d s) := by
  simp only [budRestoreWrite, KeepsLow, ite_keeps, ite_self, and_self, State.budFrame_keeps, State.setRstate_keeps, State.setFld_keeps, State.bump_keeps]
@[simp] theorem State.restoreClass_keeps (s : State) (dst : Nat) (cls : Nat) (l : List Bytes) : KeepsLow s (State.restoreClass s dst cls l) := by
  simp only [State.restoreClass, KeepsLow, foldl_keeps, and_self, implies_true, State.budFrame_keeps]
@[simp] theorem restoreReqRx_keeps (f : Bytes) (s : State) : KeepsLow s (restoreReqRx f s) := by
  simp only [restoreReqRx, KeepsLow, ite_keeps, foldl_keeps, ite_self, and_self, implies_true, State.restoreClass_keeps, State.bytes_keeps]
@[simp] theorem State.restoreFail_keeps (s : State) : Keeps s (State.restoreFail s) := by
  simp only [State.restoreFail, Keeps, ite_keeps, ite_self, and_self, State.setRstate_keeps, State.fault_keeps, State.bump_keeps, State.event_keeps, State.stateLost_keeps, State.rebuild_keeps]
@[simp] theorem restoreTimeout_keeps (s : State) : Keeps s (restoreTimeout s) := by
  simp only [restoreTimeout, Keeps, ite_keeps, ite_self, and_self, State.restoreFail_keeps, State.reach_keeps]
@[simp] theorem restoreDataRx_keeps (f : Bytes) (s : State) : Keeps s (restoreDataRx f s) := by
  simp only [restoreDataRx, Keeps, ite_keeps, ite_self, and_self]
@[simp] theorem State.mergeRestored_keeps (s : State) : KeepsLow s (State.mergeRestored s) := by
  unfold State.mergeRestored
  refine ite_low ?_ (Keeps.refl s).low
  dsimp only
  refine KeepsLow.trans (t := { s with bud := _ }) ⟨rfl, rfl, rfl⟩ (foldl_KeepsLow (Keeps.refl _).low fun t m => ?_)
  exact ite_low (Keeps.refl t).low (State.recordTaken_keeps ..)
@[simp] theorem State.restoreApply_keeps (s : State) (cls : Nat) : KeepsLow s (State.restoreApply s cls) := by
  simp only [State.restoreApply, KeepsLow, ite_keeps, foldl_keeps, ite_self, and_self, implies_true, State.restoreConfig_keeps, eftWrite_keeps, State.mergeRestored_keeps]
@[simp] theorem restoreEndRx_keeps (f : Bytes) (s : State) : KeepsLow s (restoreEndRx f s) := by
  simp only [restoreEndRx, KeepsLow, ite_keeps, ite_self, and_self, State.restoreFail_keeps, State.restoreApply_keeps, State.setFld_keeps, State.setRstate_keeps]
@[simp] theorem State.budRx_keeps (s : State) (f : Bytes) : KeepsLow s (State.budRx s f) := by
  simp only [State.budRx, KeepsLow, ite_keeps, ite_self, and_self, mirrorAckRx_keeps, restoreDataRx_keeps, mirrorRx_keeps, restoreReqRx_keeps, restoreEndRx_keeps, resyncRx_keeps]
@[simp] theorem budReset_keeps (s : State) : Keeps s (budReset s) := by
  simp only [budReset, Keeps, and_self]
@[simp] theorem State.winPriv_keeps (s : State) : Keeps s (State.winPriv s).st := by
  simp only [State.winPriv, Keeps, and_self, State.winData_keeps]
@[simp] theorem State.pmuCmd_keeps {s : State} {q : Req} {table op idx : Nat} {user : State → Bool} {body : State → WinOut} :
    ((∀ t, (body t).st.chip = t.chip) → (s.pmuCmd q table op idx user body).chip = s.chip) ∧
    ((∀ t, (body t).st.pending = t.pending) → (s.pmuCmd q table op idx user body).pending = s.pending) ∧
    ((∀ t, (body t).st.sram = t.sram) → (s.pmuCmd q table op idx user body).sram = s.sram) ∧
    ((∀ t, (body t).st.hbm = t.hbm) → (s.pmuCmd q table op idx user body).hbm = s.hbm) := by
  refine ⟨?_, ?_, ?_, ?_⟩ <;> intro h <;> simp [State.pmuCmd, ite_keeps, h]
@[simp] theorem pmuCtrRead_keeps (k : Nat) (s : State) : Keeps s (pmuCtrRead k s).st := by
  simp only [pmuCtrRead, Keeps, ite_keeps, ite_self, and_self, State.winData_keeps, State.win_keeps]
@[simp] theorem pmuCtrReadSnap_keeps (k : Nat) (s : State) : Keeps s (pmuCtrReadSnap k s).st := by
  simp only [pmuCtrReadSnap, Keeps, ite_keeps, ite_self, and_self, State.winData_keeps, State.win_keeps]
@[simp] theorem pmuCtrWrite_keeps (k : Nat) (s : State) : Keeps s (pmuCtrWrite k s).st := by
  simp only [pmuCtrWrite, Keeps, ite_keeps, ite_self, and_self, State.win_keeps]
@[simp] theorem pmuCtrlWrite_keeps (d : Sys2Proof.Word) (s : State) : Keeps s (pmuCtrlWrite d s) := by
  simp only [pmuCtrlWrite, Keeps, ite_keeps, ite_self, and_self, State.bumpW_keeps]
@[simp] theorem pmuBytesRead_keeps (k : Nat) (s : State) : Keeps s (pmuBytesRead k s).st := by
  simp only [pmuBytesRead, Keeps, ite_keeps, ite_self, and_self, State.winData_keeps, State.win_keeps]
@[simp] theorem pmuAonRead_keeps (k : Nat) (s : State) : Keeps s (pmuAonRead k s).st := by
  simp only [pmuAonRead, Keeps, ite_keeps, ite_self, and_self, State.winData_keeps, State.win_keeps]
@[simp] theorem State.pmuBoundary_keeps (s : State) (n : Nat) : Keeps s (State.pmuBoundary s n) := by
  simp only [State.pmuBoundary, Keeps, and_self, State.setFld_keeps]
@[simp] theorem pmuBwRead_keeps (p : Nat) (s : State) : Keeps s (pmuBwRead p s).st := by
  simp only [pmuBwRead, Keeps, ite_keeps, ite_self, and_self, State.winData_keeps, State.win_keeps]
@[simp] theorem State.closeWindow_keeps (s : State) (j : Option Nat) : Keeps s (State.closeWindow s j) := by
  simp only [State.closeWindow, Keeps, foldl_keeps, and_self, implies_true]
@[simp] theorem pmuWindowEnd_keeps (s : State) : Keeps s (pmuWindowEnd s) := by
  simp only [pmuWindowEnd, Keeps, ite_keeps, ite_self, and_self, State.closeWindow_keeps, State.reachTime_keeps]
@[simp] theorem pmuRunlogRead_keeps (k : Nat) (s : State) : Keeps s (pmuRunlogRead k s).st := by
  unfold pmuRunlogRead
  (repeat' split) <;> simp only [Keeps, and_self, State.winData_keeps, State.win_keeps]
@[simp] theorem pmuReplayWrite_keeps (d : Sys2Proof.Word) (s : State) : Keeps s (pmuReplayWrite d s) := by
  simp only [pmuReplayWrite, Keeps, ite_keeps, ite_self, and_self, State.setFld_keeps, State.mxeLaunch_keeps]
@[simp] theorem pmuReset_keeps (s : State) : Keeps s (pmuReset s) := by
  simp only [pmuReset, Keeps, and_self]
@[simp] theorem State.recover_keeps (s : State) (n : Nat) : Keeps s (State.recover s n) := by
  simp only [State.recover, Keeps, ite_keeps, ite_self, and_self, State.setSrc_keeps, State.evrWrite_keeps, State.bump_keeps, State.pendBit_keeps]
@[simp] theorem quietExpire_keeps (n : Nat) (s : State) : Keeps s (quietExpire n s) := by
  simp only [quietExpire, Keeps, ite_keeps, ite_self, and_self, State.advance_keeps, State.recover_keeps, State.reach_keeps]
@[simp] theorem State.ackSource_keeps (s : State) (n : Nat) (on : Bool) : Keeps s (State.ackSource s n on) := by
  simp only [State.ackSource, Keeps, ite_keeps, ite_self, and_self, State.setReg_keeps, State.setSrc_keeps]
@[simp] theorem fltAck_keeps (k : Nat) (set : Sys2Proof.Word) (clr : Sys2Proof.Word) (s : State) : Keeps s (fltAck k set clr s) := by
  simp only [fltAck, Keeps, ite_keeps, foldl_keeps, ite_self, and_self, implies_true, State.ackSource_keeps]
@[simp] theorem fltSrcRead_keeps (idx : Nat) (s : State) : Keeps s (fltSrcRead idx s).st := by
  simp only [fltSrcRead, Keeps, ite_keeps, ite_self, and_self, State.winData_keeps, State.win_keeps]
@[simp] theorem fltSrcWrite_keeps (idx : Nat) (s : State) : Keeps s (fltSrcWrite idx s).st := by
  simp only [fltSrcWrite, Keeps, ite_keeps, ite_self, and_self, State.win_keeps, State.setSrc_keeps]
@[simp] theorem fltDirRead_keeps (idx : Nat) (s : State) : Keeps s (fltDirRead idx s).st := by
  unfold fltDirRead
  (repeat' split) <;> simp only [Keeps, and_self, State.winData_keeps, State.win_keeps]
@[simp] theorem fltCtrlWrite_keeps (d : Sys2Proof.Word) (s : State) : Keeps s (fltCtrlWrite d s) := by
  simp only [fltCtrlWrite, Keeps, ite_keeps, ite_self, and_self, State.setReg_keeps]
@[simp] theorem fltInjectWrite_keeps (d : Sys2Proof.Word) (s : State) : Keeps s (fltInjectWrite d s) := by
  unfold fltInjectWrite
  lift_lets
  intro x0
  clear_value x0
  split
  · rename_i y1_0
    split
    · rename_i y2_0 y2_1 y2_2 y2_3 y2_4
      simp [Keeps, ite_keeps, ite_self, and_self]
    · rename_i y2_0 y2_1
      simp only [Keeps, and_self, State.pgErr_keeps]
  · rename_i y1_0
    simp only [Keeps, and_self]
@[simp] theorem fltReset_keeps (old : State) (s : State) : Keeps s (fltReset old s) := by
  simp only [fltReset, Keeps, and_self, State.setReg_keeps]
@[simp] theorem evrRead_keeps (sq : Nat) (s : State) : Keeps s (evrRead sq s).st := by
  unfold evrRead
  (repeat' split) <;> simp only [Keeps, and_self, State.winData_keeps, State.win_keeps]
@[simp] theorem evrRdWrite_keeps (d : Sys2Proof.Word) (s : State) : Keeps s (evrRdWrite d s) := by
  simp only [evrRdWrite, Keeps, ite_keeps, ite_self, and_self, State.pgErr_keeps, State.level_keeps, State.setReg_keeps]
@[simp] theorem evrEmpty_keeps (s : State) : Keeps s (evrEmpty s) := by
  simp only [evrEmpty, Keeps, and_self, State.setReg_keeps, State.event_keeps]
@[simp] theorem evrReset_keeps (old : State) (s : State) : Keeps s (evrReset old s) := by
  simp only [evrReset, Keeps, and_self, evrEmpty_keeps, State.setReg_keeps]
@[simp] theorem ircClaim_keeps (n : Nat) (s : State) : Keeps s (ircClaim n s).st := by
  unfold ircClaim
  (repeat' split) <;> simp only [Keeps, and_self, State.bump_keeps, State.gives_keeps]
@[simp] theorem State.setStack_keeps (s : State) (n : Nat) (l : List Nat) : Keeps s (s.setStack n l) := by
  simp only [State.setStack, Keeps, and_self]
@[simp] theorem State.stackFault_keeps (s : State) (n : Nat) (cause : Nat) (g : Nat) : Keeps s (State.stackFault s n cause g) := by
  simp only [State.stackFault, Keeps, and_self, State.setReg_keeps, State.fault_keeps, State.event_keeps, State.bump_keeps]
theorem irc_aux (s : State) (n g : Nat) : Keeps s (match s.stack n with
    | [] => s.stackFault n 1 g
    | t :: rest => if s.prio g = t then s.setStack n rest else (s.stackFault n 2 g).setStack n []) := by
  split
  · exact State.stackFault_keeps ..
  · split
    · exact State.setStack_keeps ..
    · exact Keeps.trans (State.stackFault_keeps ..) (State.setStack_keeps ..)
@[simp] theorem ircComplete_keeps (d : Sys2Proof.Word) (s : State) : Keeps s (ircComplete d s) := irc_aux s (bits d.toNat 9 8) (bits d.toNat 3 0)
@[simp] theorem ircHoldoffEnd_keeps (g : Nat) (s : State) : Keeps s (ircHoldoffEnd g s) := by
  unfold ircHoldoffEnd
  (repeat' split) <;> simp only [Keeps, and_self, State.reach_keeps]
@[simp] theorem ircPendWrite_keeps (g : Nat) (al : Nat) (d : Sys2Proof.Word) (s : State) : Keeps s (ircPendWrite g al d s) := by
  unfold ircPendWrite
  simp [Keeps, and_self, implies_true]
@[simp] theorem ircReset_keeps (s : State) : Keeps s (ircReset s) := by
  simp only [ircReset, Keeps, foldl_keeps, and_self, implies_true, State.level_keeps]
@[simp] theorem slkResetDown_keeps (w : Nat) (s : State) : Keeps s (slkResetDown w s) := by
  simp only [slkResetDown, Keeps, and_self, State.laneLose_keeps, State.laneTo_keeps]
@[simp] theorem slkReset_keeps (w : Nat) (s : State) : Keeps s (slkReset w s) := by
  simp only [slkReset, Keeps, and_self, State.setLane_keeps]
@[simp] theorem hpaReset_keeps (s : State) : Keeps s (hpaReset s) := by
  simp only [hpaReset, Keeps, and_self, State.endXfer_keeps, State.hpaUnroute_keeps]
@[simp] theorem mgrReset_keeps (s : State) : Keeps s (mgrReset s) := by
  simp only [mgrReset, Keeps, and_self]
@[simp] theorem lcmReset_keeps (old : State) (s : State) : Keeps s (lcmReset old s) := by
  simp only [lcmReset, Keeps, and_self, State.setReg_keeps, State.setFld_keeps]
@[simp] theorem State.shadowsClear_keeps (s : State) : Keeps s (State.shadowsClear s) := by
  simp only [State.shadowsClear, Keeps, and_self]
@[simp] theorem State.endWork_keeps (s : State) (u : Sys2Proof.UnitKind) (i : Nat) : KeepsLow s (State.endWork s u i) := by
  unfold State.endWork
  split
  · rename_i y0_0
    simp only [KeepsLow, and_self, mxeReset_keeps]
  · rename_i y0_0
    simp only [KeepsLow, and_self, treReset_keeps]
  · rename_i y0_0
    simp only [KeepsLow, and_self, corReset_keeps]
  · rename_i y0_0
    simp [KeepsLow, and_self]
  · rename_i y0_0
    simp [KeepsLow, and_self]
  · rename_i y0_0
    simp only [KeepsLow, and_self, xltReset_keeps]
  · rename_i y0_0
    simp only [KeepsLow, and_self, pmpReset_keeps]
  · rename_i y0_0
    simp only [KeepsLow, and_self, slkResetDown_keeps]
  · rename_i y0_0
    simp only [KeepsLow, and_self, hpaReset_keeps]
  · rename_i y0_0
    simp only [KeepsLow, and_self, welReset_keeps]
  · rename_i y0_0
    simp only [KeepsLow, and_self, smpReset_keeps]
  · rename_i y0_0
    simp only [KeepsLow, and_self, eprReset_keeps]
  · rename_i y0_0
    simp only [KeepsLow, and_self, cmpReset_keeps]
  · rename_i y0_0
    simp only [KeepsLow, and_self, eftReset_keeps]
  · rename_i y0_0
    simp only [KeepsLow, and_self, stmReset_keeps]
  · rename_i y0_0
    simp [KeepsLow, and_self]
  · rename_i y0_0
    simp only [KeepsLow, and_self, upsReset_keeps]
  · rename_i y0_0
    simp only [KeepsLow, and_self, budReset_keeps]
  · rename_i y0_0
    simp only [KeepsLow, and_self, htpReset_keeps]
  · rename_i y0_0
    simp only [KeepsLow, and_self, mgrReset_keeps]
  · rename_i y0_0 y0_1 y0_2 y0_3 y0_4 y0_5 y0_6 y0_7 y0_8 y0_9 y0_10 y0_11 y0_12 y0_13 y0_14 y0_15 y0_16 y0_17 y0_18 y0_19 y0_20
    simp only [KeepsLow, and_self]
@[simp] theorem State.afterReset_keeps (s : State) (old : State) (u : Sys2Proof.UnitKind) (i : Nat) : Keeps s (State.afterReset s old u i) := by
  unfold State.afterReset
  (repeat' split) <;> simp only [Keeps, and_self, slkReset_keeps, fltReset_keeps, evrReset_keeps, ircReset_keeps, pwrReset_keeps, scrReset_keeps, tkpReset_keeps, upReset_keeps, pmuReset_keeps, cisReset_keeps, State.shadowsClear_keeps, lcmReset_keeps]
@[simp] theorem State.resetUnit_keeps (s : State) (u : Sys2Proof.UnitKind) (i : Nat) : KeepsLow s (State.resetUnit s u i) := by
  simp only [State.resetUnit, KeepsLow, and_self, State.unstage_keeps, State.resetRegs_keeps, State.endWork_keeps, State.setFld_keeps, State.setReg_keeps, State.afterReset_keeps]
@[simp] theorem State.resetPage_keeps (s : State) (u : Sys2Proof.UnitKind) (i : Nat) : KeepsLow s (State.resetPage s u i) := by
  simp only [State.resetPage, KeepsLow, and_self, State.setReg_keeps, State.resetUnit_keeps]
@[simp] theorem State.disarm_keeps (s : State) : Keeps s (State.disarm s) := by
  simp only [State.disarm, Keeps, and_self, State.setFld_keeps, State.shadowsClear_keeps]
@[simp] theorem State.functionReset_keeps (s : State) : KeepsLow s (State.functionReset s) := by
  simp only [State.functionReset, KeepsLow, foldl_keeps, and_self, implies_true, State.disarm_keeps, State.emit_keeps, State.resetPage_keeps, State.setReg_keeps, State.setFld_keeps]
theorem stagedFold (s : State) (l : List (Nat × Word)) (u : UnitKind) (lo hi i : Nat) :
    Keeps s (l.foldl (fun (t : State) (x : Nat × Word) => if lo ≤ x.1 ∧ x.1 < hi then t.setReg ⟨u, x.1 - lo⟩ i x.2 else t) s) := by
  refine foldl_Keeps (Keeps.refl s) fun t a => ?_
  split
  · exact State.setReg_keeps ..
  · exact Keeps.refl _
@[simp] theorem State.takeStaged_keeps (s : State) (u : Sys2Proof.UnitKind) (i : Nat) : Keeps s (State.takeStaged s u i) :=
  Keeps.trans (stagedFold s s.staged u (regKey ⟨u, 0⟩ i) (regKey ⟨u, 0⟩ i + 4096) i) (State.unstage_keeps ..)
@[simp] theorem State.commitPage_keeps (s : State) (n : Nat) (u : Sys2Proof.UnitKind) (i : Nat) : KeepsLow s (State.commitPage s n u i).1 := by
  unfold State.commitPage
  split
  · rename_i y0_0
    simp only [KeepsLow, ite_keeps, ite_self, and_self, State.gridCommit_keeps, State.smpRegrid_keeps]
  · rename_i y0_0
    simp [KeepsLow, and_self]
  · rename_i y0_0
    simp [KeepsLow, ite_keeps, ite_self, and_self]
  · rename_i y0_0
    simp [KeepsLow, ite_keeps, ite_self, and_self]
  · rename_i y0_0
    simp [KeepsLow, and_self]
  · rename_i y0_0
    simp [KeepsLow, and_self]
  · rename_i y0_0
    simp [KeepsLow, and_self]
  · rename_i y0_0
    simp [KeepsLow, ite_keeps, ite_self, and_self]
  · rename_i y0_0
    simp [KeepsLow, and_self]
  · rename_i y0_0
    simp [KeepsLow, and_self]
  · rename_i y0_0 y0_1 y0_2 y0_3 y0_4 y0_5 y0_6 y0_7 y0_8 y0_9 y0_10
    simp [KeepsLow, and_self]
@[simp] theorem State.commitDirect_keeps (s : State) (u : Sys2Proof.UnitKind) (i : Nat) : KeepsLow s (State.commitDirect s u i) := by
  unfold State.commitDirect
  lift_lets
  split
  · rename_i y0_0
    simp only [KeepsLow, and_self, State.gridTake_keeps]
  · rename_i y0_0
    simp only [KeepsLow, and_self, State.welDirect_keeps]
  · rename_i y0_0
    simp only [KeepsLow, and_self, State.smpDirect_keeps]
  · rename_i y0_0
    simp only [KeepsLow, and_self, State.eprDirect_keeps]
  · rename_i y0_0 y0_1 y0_2 y0_3 y0_4
    simp only [KeepsLow, ite_keeps, ite_self, and_self, State.commitPage_keeps, State.bgAlone_keeps, State.mirrorConfig_keeps]
@[simp] theorem State.commitPages_keeps (s : State) (n : Nat) (lcm : Bool) : KeepsLow s (State.commitPages s n lcm).1 := by
  simp only [State.commitPages, KeepsLow, ite_keeps, foldl_keeps, ite_self, and_self, implies_true, State.commitPage_keeps, State.mirrorConfig_keeps]
@[simp] theorem State.commitRefused_keeps (s : State) (res : Nat) : Keeps s (State.commitRefused s res) := by
  simp only [State.commitRefused, Keeps, and_self, State.bump_keeps, State.setFld_keeps, State.disarm_keeps, State.event_keeps, State.fault_keeps]
@[simp] theorem State.armed_keeps (s : State) : Keeps s (State.armed s) := by
  simp only [State.armed, Keeps, foldl_keeps, and_self, implies_true, State.setFld_keeps]
@[simp] theorem lcmCtrlWrite_keeps (al : Nat) (d : Sys2Proof.Word) (s : State) : Keeps s (lcmCtrlWrite al d s) := by
  simp only [lcmCtrlWrite, Keeps, ite_keeps, ite_self, and_self, State.armed_keeps, State.commitRefused_keeps, State.disarm_keeps]
@[simp] theorem lcmCommitWrite_keeps (d : Sys2Proof.Word) (s : State) : Keeps s (lcmCommitWrite d s) := by
  unfold lcmCommitWrite
  simp [Keeps, ite_keeps, ite_self, and_self, implies_true]
@[simp] theorem commitWindowOpen_keeps (s : State) : Keeps s (commitWindowOpen s) := by
  simp only [commitWindowOpen, Keeps, ite_keeps, ite_self, and_self, State.reach_keeps, State.commitRefused_keeps, State.setFld_keeps]
@[simp] theorem State.commitApply_keeps (s : State) (n : Nat) : KeepsLow s (State.commitApply s n) := by
  simp only [State.commitApply, KeepsLow, ite_keeps, ite_self, and_self, State.commitPages_keeps, State.bump_keeps, State.setFld_keeps]
@[simp] theorem State.commitAt_keeps (s : State) (old : Option Nat) (n : Nat) : KeepsLow s (State.commitAt s old n) := by
  simp only [State.commitAt, KeepsLow, ite_keeps, ite_self, and_self, State.commitPages_keeps, State.commitRefused_keeps, State.commitApply_keeps, State.bgAlone_keeps]
@[simp] theorem commitWindowClose_keeps (s : State) : Keeps s (commitWindowClose s) := by
  unfold commitWindowClose
  (repeat' split) <;> simp only [Keeps, and_self, State.reach_keeps, State.bump_keeps, State.setFld_keeps, State.disarm_keeps, State.event_keeps]
@[simp] theorem State.pkgBoundary_keeps (s : State) (n : Nat) (others : BitVec 8) : Keeps s (State.pkgBoundary s n others) := by
  simp only [State.pkgBoundary, Keeps, ite_keeps, ite_self, and_self]
@[simp] theorem State.boundaryEdge_keeps (s : State) (old : Option Nat) (n : Nat) (others : BitVec 8) (step : Bool) : KeepsLow s (State.boundaryEdge s old n others step) := by
  unfold State.boundaryEdge
  (repeat' split) <;> simp only [KeepsLow, ite_keeps, ite_self, and_self, State.eprCloseOpen_keeps, State.coresBoundary_keeps, State.enginesBoundary_keeps, State.pmuBoundary_keeps, State.rdxStepped_keeps, State.pkgBoundary_keeps, State.commitAt_keeps, State.eftBoundary_keeps, State.decBoundary_keeps, State.setFld_keeps, State.gatesStart_keeps, State.mirrorBoundary_keeps, State.smpStepped_keeps, State.rdxOpen_keeps, State.eprOpen_keeps]
@[simp] theorem epochBoundary_keeps (others : BitVec 8) (s : State) : KeepsLow s (epochBoundary others s) := by
  simp only [epochBoundary, KeepsLow, ite_keeps, ite_self, and_self, State.reachTime_keeps, State.epochLimit_keeps, State.boundaryEdge_keeps]
@[simp] theorem State.stepped_keeps (s : State) (old : Option Nat) : KeepsLow s (State.stepped s old) := by
  simp only [State.stepped, KeepsLow, ite_keeps, ite_self, and_self, State.markStepped_keeps, State.smpStepped_keeps, State.eprCloseOpen_keeps, State.boundaryEdge_keeps, State.epochLimit_keeps]
@[simp] theorem State.acceptJump_keeps (s : State) : KeepsLow s (State.acceptJump s) := by
  simp only [State.acceptJump, KeepsLow, ite_keeps, ite_self, and_self, State.event_keeps, State.tkpTo_keeps, State.noJump_keeps, State.slewStart_keeps, State.advance_keeps, State.stepped_keeps, State.timeAdd_keeps]
@[simp] theorem tkpCtrlWrite_keeps (d : Sys2Proof.Word) (s : State) : KeepsLow s (tkpCtrlWrite d s) := by
  simp only [tkpCtrlWrite, KeepsLow, ite_keeps, ite_self, and_self, State.acceptJump_keeps, State.reacquire_keeps]
@[simp] theorem otpRead_keeps (idx : Nat) (s : State) : Keeps s (otpRead idx s).st := by
  simp only [otpRead, Keeps, ite_keeps, ite_self, and_self, State.win_keeps, State.winData_keeps]
@[simp] theorem otpWrite_keeps (idx : Nat) (s : State) : Keeps s (otpWrite idx s).st := by
  simp only [otpWrite, Keeps, ite_keeps, ite_self, and_self, State.win_keeps, State.winBusy_keeps]
@[simp] theorem otpProgramDone_keeps (s : State) : Keeps s (otpProgramDone s) := by
  unfold otpProgramDone
  (repeat' split) <;> simp only [Keeps, ite_keeps, ite_self, and_self, State.reach_keeps, State.winEnd_keeps]
@[simp] theorem State.evrKept_keeps (s : State) (old : State) : Keeps s (State.evrKept s old) := by
  simp only [State.evrKept, Keeps, foldl_keeps, and_self, implies_true, State.setReg_keeps]
@[simp] theorem State.resetRecord_keeps (s : State) (kind : Nat) (path : Nat) : Keeps s (State.resetRecord s kind path) := by
  simp only [State.resetRecord, Keeps, and_self, State.event_keeps]
@[simp] theorem otpReadDone_keeps (s : State) : Keeps s (otpReadDone s) := by
  simp only [otpReadDone, Keeps, ite_keeps, ite_self, and_self, State.reach_keeps, State.setFld_keeps, State.tryPriming_keeps]
@[simp] theorem State.wiped_keeps (s : State) (hbm : Bool) : KeepsTop s (State.wiped s hbm) := by
  simp only [State.wiped, KeepsTop, and_self, State.setFld_keeps, State.reach_keeps]
@[simp] theorem State.lcMoves_keeps (s : State) (old : Nat) (new : Nat) : Keeps s (State.lcMoves s old new) := by
  simp only [State.lcMoves, Keeps, and_self, State.event_keeps, State.nvLog_keeps]
@[simp] theorem State.memoriesWiped_keeps (s : State) : Keeps s (State.memoriesWiped s) := by
  simp only [State.memoriesWiped, Keeps, and_self, State.setReg_keeps]
@[simp] theorem State.lcChanged_keeps (s : State) (new : Nat) : Keeps s (State.lcChanged s new) := by
  simp only [State.lcChanged, Keeps, ite_keeps, ite_self, and_self, State.setReg_keeps, State.journal_keeps, State.lcMoves_keeps]
@[simp] theorem wipeDone_keeps (s : State) : KeepsTop s (wipeDone s) := by
  unfold wipeDone
  (repeat' split) <;> simp only [KeepsTop, and_self, State.lcChanged_keeps, State.memoriesWiped_keeps, State.wiped_keeps, State.setFld_keeps]
@[simp] theorem State.nvDecide_keeps (s : State) : Keeps s (State.nvDecide s) := by
  unfold State.nvDecide
  lift_lets
  intro x0
  clear_value x0
  intro x1
  have h1 : ∀ a0 a1 a2, Keeps a0 (x1 a0 a1 a2) := by intro a0 a1 a2; simp only [x1, Keeps, and_self, State.event_keeps]
  clear_value x1
  split
  · rename_i y2_0 y2_1 y2_2
    lift_lets
    intro x3
    have h3 : ∀ a0 a1, Keeps a0 (x3 a0 a1) := by intro a0 a1; simp only [x3, Keeps, and_self]
    clear_value x3
    simp only [Keeps, and_self, h3, h1, State.takeNv_keeps, State.emit_keeps]
  · rename_i y2_0 y2_1
    lift_lets
    intro x3
    have h3 : ∀ a0 a1, Keeps a0 (x3 a0 a1) := by intro a0 a1; simp only [x3, Keeps, and_self]
    clear_value x3
    split
    · rename_i y4_0 y4_1 y4_2 y4_3
      have ky4_3 := congrArg (fun p => p.1) y4_3; dsimp only at ky4_3; subst ky4_3
      lift_lets
      intro x5
      clear_value x5
      split
      · rename_i y6_0 y6_1 y6_2
        split
        · rename_i y7_0 y7_1 y7_2
          simp only [Keeps, and_self, h3, h1, State.takeNv_keeps]
        · rename_i y7_0 y7_1
          simp only [Keeps, and_self, h3, State.takeNv_keeps]
      · rename_i y6_0 y6_1
        split
        · rename_i y7_0 y7_1 y7_2
          simp only [Keeps, and_self, h3, h1, State.takeNv_keeps, State.fault_keeps]
        · rename_i y7_0 y7_1
          simp only [Keeps, and_self, h3, State.takeNv_keeps, State.fault_keeps]
@[simp] theorem State.othersDecide_keeps (s : State) : Keeps s (State.othersDecide s) := by
  simp only [State.othersDecide, Keeps, and_self]
@[simp] theorem nvStateDecide_keeps (ok : Bool) (s : State) : Keeps s (nvStateDecide ok s) := by
  simp only [nvStateDecide, Keeps, ite_keeps, ite_self, and_self, State.reach_keeps, State.nvDecide_keeps, State.othersDecide_keeps, State.fault_keeps, State.takeNv_keeps]
@[simp] theorem State.slkEnable_keeps (s : State) : Keeps s (State.slkEnable s) := by
  simp only [State.slkEnable, Keeps, ite_keeps, ite_self, and_self, State.setFld_keeps, State.laneTo_keeps]
@[simp] theorem State.bootCommit_keeps (s : State) : Keeps s (State.bootCommit s) := by
  simp only [State.bootCommit, Keeps, ite_keeps, ite_self, and_self, State.nvLog_keeps, State.event_keeps, State.journal_keeps, State.lcMoves_keeps]
@[simp] theorem State.ready_keeps (s : State) : Keeps s (State.ready s) := by
  simp only [State.ready, Keeps, and_self, State.setFld_keeps, State.emit_keeps]
@[simp] theorem State.bootPrimingEnd_keeps (s : State) : Keeps s (State.bootPrimingEnd s) := by
  simp only [State.bootPrimingEnd, Keeps, ite_keeps, ite_self, and_self, State.enterHold_keeps]
@[simp] theorem State.bootEnd_keeps (s : State) : Keeps s (State.bootEnd s) := by
  simp only [State.bootEnd, Keeps, ite_keeps, ite_self, and_self, State.reach_keeps, State.ready_keeps, State.bootCommit_keeps, State.bootPrimingEnd_keeps, State.setFld_keeps, State.slkEnable_keeps, State.fault_keeps]
@[simp] theorem State.releasePages_keeps (s : State) : Keeps s (State.releasePages s) := by
  simp only [State.releasePages, Keeps, and_self]
@[simp] theorem State.functionEnd_keeps (s : State) : Keeps s (State.functionEnd s) := by
  simp only [State.functionEnd, Keeps, ite_keeps, ite_self, and_self, State.ready_keeps, State.releasePages_keeps, State.setFld_keeps, State.slkEnable_keeps]
@[simp] theorem bootDone_keeps (s : State) : Keeps s (bootDone s) := by
  simp only [bootDone, Keeps, ite_keeps, ite_self, and_self, State.bootEnd_keeps, State.functionEnd_keeps]
@[simp] theorem functionResetDone_keeps (s : State) : Keeps s (functionResetDone s) := by
  unfold functionResetDone
  lift_lets
  intro x0
  clear_value x0
  intro x1
  have h1 : Keeps s x1 := by simp only [x1, Keeps, and_self]
  clear_value x1
  split
  · rename_i y2_0
    lift_lets
    intro x3
    clear_value x3
    split
    · rename_i y4_0 y4_1 y4_2
      simp only [Keeps, and_self, h1]
    · rename_i y4_0 y4_1
      simp only [Keeps, and_self, h1, State.functionEnd_keeps]
  · rename_i y2_0
    lift_lets
    intro x3
    clear_value x3
    simp only [Keeps, and_self]
@[simp] theorem State.startFunction_keeps (s : State) (kind : Nat) (path : Nat) : KeepsLow s (State.startFunction s kind path) := by
  simp only [State.startFunction, KeepsLow, and_self, State.setFld_keeps, State.functionReset_keeps, State.resetRecord_keeps, State.bump_keeps]
@[simp] theorem lcmCmdWrite_keeps (p : Sys2Proof.Path) (d : Sys2Proof.Word) (s : State) : Keeps s (lcmCmdWrite p d s) := by
  simp only [lcmCmdWrite, Keeps, ite_keeps, ite_self, and_self, State.pgErr_keeps]
@[simp] theorem State.lcmCmd_keeps (s : State) (q : Sys2Proof.Req) (op : Nat) : Keeps s (State.lcmCmd s q op) := by
  simp only [State.lcmCmd, Keeps, and_self, implies_true, State.rowWrite_keeps, State.okay_keeps, lcmCmdWrite_keeps]

end Sys2Proof.Machine
end

