-- ==== Sys2Proof/Laws/Keeps6.lean ====
section
/-! SUPPORT. What the functions of Xlt, Relay, Tables, Port, Mgmt, Receive, Safety leave alone. -/

namespace Sys2Proof.Machine

@[simp] theorem State.walkEmit_keeps (s : State) (ctx : Nat) (va : Nat) (n : Nat) (ptes : List (Option Sys2Proof.Word)) : Keeps s (State.walkEmit s ctx va n ptes) := by
  simp only [State.walkEmit, Keeps, foldl_keeps, and_self, implies_true, State.emit_keeps]
@[simp] theorem State.stallStream_keeps (s : State) (x : Sys2Proof.Strm) (e : FqEnt) : Keeps s (State.stallStream s x e) := by
  unfold State.stallStream
  (repeat' split) <;> simp only [Keeps, ite_keeps, ite_self, and_self, State.fqAdd_keeps, State.setChan_keeps, State.modXfer_keeps]
@[simp] theorem xltWalk_keeps (x : Sys2Proof.Strm) (ptes : List (Option Sys2Proof.Word)) (s : State) : Keeps s (xltWalk x ptes s) := by
  unfold xltWalk
  split
  · rename_i y0_0
    simp only [Keeps, and_self]
  · rename_i y0_0
    split
    · rename_i y1_0 y1_1
      simp only [Keeps, and_self]
    · rename_i y1_0 y1_1 y1_2 y1_3 y1_4
      split
      · rename_i y2_0 y2_1
        simp only [Keeps, and_self]
      · rename_i y2_0 y2_1 y2_2 y2_3
        lift_lets
        intro x3
        clear_value x3
        intro x4
        have h4 : Keeps s x4 := by simp only [x4, Keeps, and_self, State.ev_keeps, State.bumpW_keeps]
        clear_value x4
        split
        · rename_i y5_0 y5_1 y5_2
          lift_lets
          intro x6
          have h6 : Keeps s x6 := by simp only [x6, Keeps, and_self, h4, State.walkEmit_keeps]
          clear_value x6
          simp only [Keeps, and_self, h6, State.tlbPut_keeps]
        · rename_i y5_0 y5_1 y5_2 y5_3 y5_4
          lift_lets
          intro x6
          have h6 : Keeps s x6 := by simp only [x6, Keeps, and_self, h4, State.walkEmit_keeps]
          clear_value x6
          simp only [Keeps, and_self, h6, State.stallStream_keeps]
@[simp] theorem xltPop_keeps (s : State) : Keeps s (xltPop s).st := by
  unfold xltPop
  (repeat' split) <;> simp only [Keeps, and_self, State.win_keeps, State.winData_keeps]
@[simp] theorem State.invalidate_keeps (s : State) (v : Inval) : Keeps s (State.invalidate s v) := by
  simp only [State.invalidate, Keeps, and_self]
@[simp] theorem xltInvWrite_keeps (d : Sys2Proof.Word) (s : State) : Keeps s (xltInvWrite d s) := by
  simp only [xltInvWrite, Keeps, ite_keeps, ite_self, and_self, State.pgErr_keeps, State.invalidate_keeps]
@[simp] theorem xltInvDone_keeps (window : Bool) (s : State) : Keeps s (xltInvDone window s) := by
  unfold xltInvDone
  (repeat' split) <;> simp only [Keeps, and_self, State.winEnd_keeps]
@[simp] theorem xltCtxRead_keeps (c : Nat) (s : State) : Keeps s (xltCtxRead c s).st := by
  simp only [xltCtxRead, Keeps, ite_keeps, ite_self, and_self, State.winData_keeps, State.win_keeps]
@[simp] theorem xltCtxWrite_keeps (c : Nat) (s : State) : Keeps s (xltCtxWrite c s).st := by
  simp only [xltCtxWrite, Keeps, ite_keeps, ite_self, and_self, State.win_keeps, State.winBusy_keeps, State.invalidate_keeps]
@[simp] theorem State.mgrReplyFrame_keeps (s : State) (target : Nat) (rs : List Sys2Proof.MgmtReply) : Keeps s (State.mgrReplyFrame s target rs) := by
  simp only [State.mgrReplyFrame, Keeps, ite_keeps, ite_self, and_self, State.sendFixed_keeps]
@[simp] theorem State.healthDue_keeps (s : State) : Keeps s (State.healthDue s) := by
  simp only [State.healthDue, Keeps, ite_keeps, ite_self, and_self, State.health_keeps]
@[simp] theorem State.mgmtAnswer_keeps (s : State) (w : Nat) (o : RelayFor) (rs : List Sys2Proof.MgmtReply) : Keeps s (State.mgmtAnswer s w o rs) := by
  unfold State.mgmtAnswer
  (repeat' split) <;> simp only [Keeps, and_self, State.mgrReplyFrame_keeps, State.healthDue_keeps]
@[simp] theorem State.relayTimeout_keeps (s : State) (w : Nat) (o : RelayFor) (sqs : List (BitVec 16)) : Keeps s (State.relayTimeout s w o sqs) := by
  simp only [State.relayTimeout, Keeps, and_self, State.mgmtAnswer_keeps, State.bump_keeps]
@[simp] theorem State.relaySend_keeps (s : State) (w : Nat) (es : List (RelayFor × Sys2Proof.MgmtEntry)) : Keeps s (State.relaySend s w es) := by
  simp only [State.relaySend, Keeps, ite_keeps, ite_self, and_self, State.modLane_keeps, State.sendFlit_keeps]
@[simp] theorem State.relayNext_keeps (s : State) (w : Nat) : Keeps s (State.relayNext s w) := by
  simp only [State.relayNext, Keeps, and_self, State.relaySend_keeps, State.modLane_keeps]
@[simp] theorem State.relay_keeps (s : State) (w : Nat) (o : RelayFor) (es : List Sys2Proof.MgmtEntry) : Keeps s (State.relay s w o es) := by
  simp only [State.relay, Keeps, ite_keeps, ite_self, and_self, State.bump_keeps, State.relayNext_keeps, State.modLane_keeps, State.relayTimeout_keeps]
@[simp] theorem State.replyTaken_keeps (s : State) (w : Nat) (r : Sys2Proof.MgmtReply) : Keeps s (State.replyTaken s w r) := by
  unfold State.replyTaken
  (repeat' split) <;> simp only [Keeps, and_self, State.slkViol_keeps, State.modLane_keeps, State.mgmtAnswer_keeps]
@[simp] theorem State.respIn_keeps (s : State) (w : Nat) (rs : List Sys2Proof.MgmtReply) : Keeps s (State.respIn s w rs) := by
  simp only [State.respIn, Keeps, foldl_keeps, and_self, implies_true, State.relayNext_keeps, State.replyTaken_keeps]
@[simp] theorem mgmtRespRx_keeps (w : Nat) (rs : List Sys2Proof.MgmtReply) (s : State) : Keeps s (mgmtRespRx w rs s) := by
  simp only [mgmtRespRx, Keeps, ite_keeps, ite_self, and_self, implies_true, State.policed_keeps, State.takeFlit_keeps, State.respIn_keeps]
@[simp] theorem mgmtTimeout_keeps (w : Nat) (sq : BitVec 16) (s : State) : Keeps s (mgmtTimeout w sq s) := by
  unfold mgmtTimeout
  (repeat' split) <;> simp only [Keeps, and_self, State.reach_keeps, State.modLane_keeps, State.relayNext_keeps, State.relayTimeout_keeps]
@[simp] theorem State.relayOwn_keeps (s : State) (w : Nat) (o : RelayFor) (e : Sys2Proof.MgmtEntry) : Keeps s (State.relayOwn s w o e) := by
  simp only [State.relayOwn, Keeps, and_self, State.relay_keeps]
@[simp] theorem mgrRelayWrite_keeps (w : Nat) (s : State) : Keeps s (mgrRelayWrite w s).st := by
  simp only [mgrRelayWrite, Keeps, ite_keeps, ite_self, and_self, State.win_keeps, State.relayOwn_keeps]
@[simp] theorem mgrRelayPop_keeps (w : Nat) (s : State) : Keeps s (mgrRelayPop w s).st := by
  unfold mgrRelayPop
  (repeat' split) <;> simp only [Keeps, and_self, State.win_keeps, State.winData_keeps]
@[simp] theorem engineTable_keeps (u : Sys2Proof.UnitKind) (e : Nat) (t : Nat) (op : Nat) (k : Nat) (s : State) : Keeps s (engineTable u e t op k s).st := by
  unfold engineTable
  (repeat' split) <;> simp only [Keeps, and_self, mxeSlotRead_keeps, mxeSlotWrite_keeps, mxeLoadWin_keeps, mxeUnload_keeps, mxeProgRead_keeps, mxeProgWrite_keeps, treSlotRead_keeps, treSlotWrite_keeps, treLoadWin_keeps, treUnload_keeps, eftReadWin_keeps, eftWriteWin_keeps, eftDeleteWin_keeps, eftReadPosWin_keeps, eftPurgeWin_keeps, eftSnapshotWin_keeps, eftFeedRead_keeps, eftFeedWrite_keeps, fwLoadWin_keeps, mbxPop_keeps, mbxPush_keeps, pmpChRead_keeps, pmpChWrite_keeps, xltCtxRead_keeps, xltCtxWrite_keeps, xltPop_keeps, capRingRead_keeps, capRingWrite_keeps, capLineRead_keeps, State.win_keeps, htpFilterRead_keeps, htpFilterWrite_keeps]
@[simp] theorem recordTable_keeps (u : Sys2Proof.UnitKind) (i : Nat) (t : Nat) (op : Nat) (k : Nat) (s : State) : KeepsLow s (recordTable u i t op k s).st := by
  unfold recordTable
  split
  · rename_i y0_0 y0_1 y0_2
    simp only [KeepsLow, and_self, welSlotRead_keeps]
  · rename_i y0_0 y0_1 y0_2
    simp only [KeepsLow, and_self, welSlotWrite_keeps]
  · rename_i y0_0 y0_1 y0_2
    simp only [KeepsLow, and_self, welSlotRead_keeps]
  · rename_i y0_0 y0_1 y0_2
    simp only [KeepsLow, and_self, smpTblRead_keeps]
  · rename_i y0_0 y0_1 y0_2
    simp only [KeepsLow, and_self, smpTblWrite_keeps]
  · rename_i y0_0 y0_1 y0_2
    simp only [KeepsLow, and_self, smpTblRead_keeps]
  · rename_i y0_0 y0_1 y0_2
    simp only [KeepsLow, and_self, eprTblRead_keeps]
  · rename_i y0_0 y0_1 y0_2
    simp only [KeepsLow, and_self, eprTblWrite_keeps]
  · rename_i y0_0 y0_1 y0_2
    simp only [KeepsLow, and_self, eprTblRead_keeps]
  · rename_i y0_0 y0_1 y0_2
    simp only [KeepsLow, and_self, cmpTblRead_keeps]
  · rename_i y0_0 y0_1 y0_2
    simp only [KeepsLow, and_self, cmpTblWrite_keeps]
  · rename_i y0_0 y0_1 y0_2
    simp only [KeepsLow, and_self, cmpTblRead_keeps]
  · rename_i y0_0 y0_1 y0_2
    simp only [KeepsLow, and_self, appSend_keeps]
  · rename_i y0_0 y0_1 y0_2
    simp only [KeepsLow, and_self, appRxPop_keeps]
  · rename_i y0_0 y0_1 y0_2
    simp only [KeepsLow, and_self, rdxTblRead_keeps]
  · rename_i y0_0 y0_1 y0_2
    simp only [KeepsLow, and_self, rdxTblWrite_keeps]
  · rename_i y0_0 y0_1 y0_2
    simp only [KeepsLow, and_self, colGroupRead_keeps]
  · rename_i y0_0 y0_1 y0_2
    simp only [KeepsLow, and_self, colGroupWrite_keeps]
  · rename_i y0_0 y0_1 y0_2
    simp only [KeepsLow, and_self, colMemberRead_keeps]
  · rename_i y0_0 y0_1 y0_2
    simp only [KeepsLow, and_self, colMemberWrite_keeps]
  · rename_i y0_0 y0_1 y0_2
    simp only [KeepsLow, and_self, colSlowRead_keeps]
  · rename_i y0_0 y0_1 y0_2
    simp only [KeepsLow, and_self, upsQueueRead_keeps]
  · rename_i y0_0 y0_1 y0_2
    simp only [KeepsLow, and_self, upsQueueWrite_keeps]
  · rename_i y0_0 y0_1 y0_2
    simp only [KeepsLow, and_self, upsGateRead_keeps]
  · rename_i y0_0 y0_1 y0_2
    simp only [KeepsLow, and_self, upsGateWrite_keeps]
  · rename_i y0_0 y0_1 y0_2
    simp only [KeepsLow, and_self, upsRouteRead_keeps]
  · rename_i y0_0 y0_1 y0_2
    simp only [KeepsLow, and_self, upsRouteWrite_keeps]
  · rename_i y0_0 y0_1 y0_2
    simp [KeepsLow, and_self]
  · rename_i y0_0 y0_1 y0_2
    simp only [KeepsLow, and_self, swFramePop_keeps]
  · rename_i y0_0 y0_1 y0_2
    simp only [KeepsLow, and_self, policerRead_keeps]
  · rename_i y0_0 y0_1 y0_2
    simp only [KeepsLow, and_self, policerWrite_keeps]
  · rename_i y0_0 y0_1 y0_2
    simp only [KeepsLow, and_self, mgrRelayWrite_keeps]
  · rename_i y0_0 y0_1 y0_2
    simp only [KeepsLow, and_self, mgrRelayPop_keeps]
  · rename_i y0_0 y0_1 y0_2
    simp only [KeepsLow, and_self, jobRead_keeps]
  · rename_i y0_0 y0_1 y0_2
    simp only [KeepsLow, and_self, jobWrite_keeps]
  · rename_i y0_0 y0_1 y0_2
    simp only [KeepsLow, and_self, notifyPop_keeps]
  · rename_i y0_0 y0_1 y0_2
    simp only [KeepsLow, and_self, jobRead_keeps]
  · rename_i y0_0 y0_1 y0_2
    simp only [KeepsLow, and_self, rowTblRead_keeps]
  · rename_i y0_0 y0_1 y0_2
    simp only [KeepsLow, and_self, baseRead_keeps]
  · rename_i y0_0 y0_1 y0_2
    simp only [KeepsLow, and_self, baseWrite_keeps]
  · rename_i y0_0 y0_1 y0_2
    simp only [KeepsLow, and_self, baseReadActive_keeps]
  · rename_i y0_0 y0_1 y0_2 y0_3 y0_4 y0_5 y0_6 y0_7 y0_8 y0_9 y0_10 y0_11 y0_12 y0_13 y0_14 y0_15 y0_16 y0_17 y0_18 y0_19 y0_20 y0_21 y0_22 y0_23 y0_24 y0_25 y0_26 y0_27 y0_28 y0_29 y0_30 y0_31 y0_32 y0_33 y0_34 y0_35 y0_36 y0_37 y0_38 y0_39 y0_40 y0_41 y0_42 y0_43
    simp only [KeepsLow, and_self, State.win_keeps]
@[simp] theorem infraTable_keeps (u : Sys2Proof.UnitKind) (priv : Nat) (t : Nat) (op : Nat) (k : Nat) (s : State) : Keeps s (infraTable u priv t op k s).st := by
  unfold infraTable
  (repeat' split) <;> simp only [Keeps, ite_keeps, ite_self, and_self, State.winPriv_keeps, otpRead_keeps, otpWrite_keeps, txtsPop_keeps, portTimeRead_keeps, portTimeWrite_keeps, fltSrcRead_keeps, fltSrcWrite_keeps, fltDirRead_keeps, evrRead_keeps, pmuCtrRead_keeps, pmuCtrWrite_keeps, pmuCtrReadSnap_keeps, pmuBytesRead_keeps, pmuAonRead_keeps, pmuBwRead_keeps, pmuRunlogRead_keeps, nvhFwdWrite_keeps, nvhFwdPop_keeps, nvhStateRead_keeps, nvhStateWrite_keeps, nvhLogRead_keeps, State.win_keeps, scrLoadWin_keeps, scrHostResult_keeps, scrHostPop_keeps]
@[simp] theorem tableCmd_keeps (u : Sys2Proof.UnitKind) (i : Nat) (priv : Nat) (t : Nat) (op : Nat) (k : Nat) (s : State) : KeepsLow s (tableCmd u i priv t op k s).st := by
  unfold tableCmd
  (repeat' split) <;> simp only [KeepsLow, and_self, engineTable_keeps, infraTable_keeps, recordTable_keeps]
@[simp] theorem tblCmdWrite_keeps (u : Sys2Proof.UnitKind) (i : Nat) (priv : Nat) (d : Sys2Proof.Word) (s : State) : KeepsLow s (tblCmdWrite u i priv d s).st := by
  simp only [tblCmdWrite, KeepsLow, ite_keeps, ite_self, and_self, implies_true, State.winBlocked_keeps, State.okay_keeps, State.setReg_keeps, State.winRun_keeps, tableCmd_keeps]
@[simp] theorem State.enableWrite_keeps (s : State) (u : Sys2Proof.UnitKind) (i : Nat) (on : Bool) : Keeps s (State.enableWrite s u i on) := by
  unfold State.enableWrite
  (repeat' split) <;> simp only [Keeps, ite_keeps, ite_self, and_self, State.setFld_keeps, State.laneTo_keeps, State.tkpDisable_keeps, State.hpaUnroute_keeps, State.hpaRoute_keeps, State.unitHeld_keeps, State.policersFull_keeps, State.htpSources_keeps]
@[simp] theorem State.ctrlWrite_keeps (s : State) (u : Sys2Proof.UnitKind) (i : Nat) (d : Sys2Proof.Word) : KeepsLow s (State.ctrlWrite s u i d) := by
  simp only [State.ctrlWrite, KeepsLow, ite_keeps, ite_self, and_self, State.pgErr_keeps, State.setFld_keeps, State.resetUnit_keeps, State.enableWrite_keeps]
@[simp] theorem State.lockWrite_keeps (s : State) (u : Sys2Proof.UnitKind) (i : Nat) (priv : Nat) (d : Sys2Proof.Word) : Keeps s (State.lockWrite s u i priv d) := by
  simp only [State.lockWrite, Keeps, ite_keeps, ite_self, and_self, State.pgErr_keeps, State.setReg_keeps]
@[simp] theorem State.errWrite_keeps (s : State) (u : Sys2Proof.UnitKind) (i : Nat) (d : Sys2Proof.Word) : Keeps s (State.errWrite s u i d) := by
  simp only [State.errWrite, Keeps, and_self, State.setReg_keeps]
@[simp] theorem State.headerWrite_keeps (s : State) (u : Sys2Proof.UnitKind) (i : Nat) (off : Nat) (priv : Nat) (d : Sys2Proof.Word) : KeepsLow s (State.headerWrite s u i off priv d) := by
  simp only [State.headerWrite, KeepsLow, ite_keeps, ite_self, and_self, State.ctrlWrite_keeps, State.errWrite_keeps, State.lockWrite_keeps, State.setReg_keeps]
@[simp] theorem State.nodeWrite_keeps (s : State) (d : Sys2Proof.Word) : Keeps s (State.nodeWrite s d) := by
  simp only [State.nodeWrite, Keeps, ite_keeps, ite_self, and_self, State.setReg_keeps, State.toTrain_keeps, State.pgErr_keeps]
@[simp] theorem State.plain_keeps (s : State) (u : Sys2Proof.UnitKind) (i : Nat) (off : Nat) (al : Nat) (d : Sys2Proof.Word) : KeepsLow s (State.plain s u i off al d) := by
  simp only [State.plain, KeepsLow, and_self, implies_true, State.plainWrite_keeps, State.commitDirect_keeps]
@[simp] theorem State.bankWrite_keeps (s : State) (u : Sys2Proof.UnitKind) (d : Sys2Proof.Word) : KeepsLow s (State.bankWrite s u d) := by
  unfold State.bankWrite
  (repeat' split) <;> simp only [KeepsLow, and_self, State.plain_keeps]
@[simp] theorem State.hiddenWrite_keeps (s : State) (u : Sys2Proof.UnitKind) : KeepsLow s (State.hiddenWrite s u) := by
  simp only [State.hiddenWrite, KeepsLow, ite_keeps, ite_self, and_self, implies_true, State.markBank_keeps, State.commitDirect_keeps]
@[simp] theorem State.infraWrite_keeps (s : State) (p : Sys2Proof.Path) (u : Sys2Proof.UnitKind) (i : Nat) (off : Nat) (al : Nat) (d : Sys2Proof.Word) : KeepsLow s (State.infraWrite s p u i off al d) := by
  unfold State.infraWrite
  lift_lets
  intro x0
  clear_value x0
  intro x1
  clear_value x1
  split
  · rename_i y2_0
    simp only [KeepsLow, ite_keeps, ite_self, and_self, State.nodeWrite_keeps]
  · rename_i y2_0
    simp only [KeepsLow, ite_keeps, ite_self, and_self, lcmCommitWrite_keeps, lcmCtrlWrite_keeps, lcmCmdWrite_keeps, State.plain_keeps]
  · rename_i y2_0
    simp only [KeepsLow, ite_keeps, ite_self, and_self, State.plain_keeps, swVoteWrite_keeps, pwrCtrlWrite_keeps]
  · rename_i y2_0
    simp only [KeepsLow, ite_keeps, ite_self, and_self, State.plain_keeps, tkpCtrlWrite_keeps]
  · rename_i y2_0
    simp [KeepsLow, ite_keeps, ite_self, and_self]
  · rename_i y2_0
    simp only [KeepsLow, ite_keeps, ite_self, and_self, State.plain_keeps, fltAck_keeps, fltInjectWrite_keeps, fltCtrlWrite_keeps]
  · rename_i y2_0
    simp only [KeepsLow, ite_keeps, ite_self, and_self, State.plain_keeps, evrRdWrite_keeps, State.level_keeps]
  · rename_i y2_0
    simp only [KeepsLow, ite_keeps, ite_self, and_self, State.plain_keeps, pmuCtrlWrite_keeps, pmuReplayWrite_keeps]
  · rename_i y2_0
    simp only [KeepsLow, ite_keeps, ite_self, and_self, State.plain_keeps, State.scrRunEn_keeps, scrCtrlWrite_keeps, scrRestoreWrite_keeps]
  · rename_i y2_0 y2_1 y2_2 y2_3 y2_4 y2_5 y2_6 y2_7 y2_8 y2_9
    simp only [KeepsLow, and_self, State.plain_keeps]
@[simp] theorem State.wdogWrite_keeps (s : State) (d : Sys2Proof.Word) : KeepsLow s (State.wdogWrite s d) := by
  simp only [State.wdogWrite, KeepsLow, ite_keeps, foldl_keeps, ite_self, and_self, implies_true, State.plain_keeps, State.setCore_keeps]
@[simp] theorem State.engineWrite_keeps (s : State) (u : Sys2Proof.UnitKind) (i : Nat) (off : Nat) (al : Nat) (d : Sys2Proof.Word) : KeepsLow s (State.engineWrite s u i off al d) := by
  unfold State.engineWrite
  (repeat' split) <;> simp only [KeepsLow, and_self, xltRespond_keeps, xltInvWrite_keeps, State.plain_keeps, pmpChEnWrite_keeps, pmpRestartWrite_keeps, pmpAbortWrite_keeps, corSharedWrite_keeps, corRunWrite_keeps, State.wdogWrite_keeps, mxeLaunchWrite_keeps, mxeAbortWrite_keeps, treLaunchWrite_keeps, treAbortWrite_keeps, capTrigWrite_keeps, capCtrlWrite_keeps, htpCtrlWrite_keeps, State.htpSources_keeps]
@[simp] theorem State.flowWrite_keeps (s : State) (u : Sys2Proof.UnitKind) (i : Nat) (off : Nat) (al : Nat) (d : Sys2Proof.Word) : KeepsLow s (State.flowWrite s u i off al d) := by
  unfold State.flowWrite
  (repeat' split) <;> simp only [KeepsLow, ite_keeps, ite_self, and_self, outCfgWrite_keeps, keyReqWrite_keeps, State.plain_keeps, smpPlanWrite_keeps, smpValidate_keeps, springCmd_keeps, eprCfgWrite_keeps, slkCtrlWrite_keeps, State.rateTarget_keeps, upCtrlWrite_keeps, State.bankWrite_keeps, rdxResendWrite_keeps, stepMark_keeps, colStartWrite_keeps, colAbortWrite_keeps, State.mirrorEnable_keeps, budRestoreWrite_keeps]
@[simp] theorem State.unitWrite_keeps (s : State) (p : Sys2Proof.Path) (u : Sys2Proof.UnitKind) (i : Nat) (off : Nat) (al : Nat) (d : Sys2Proof.Word) : KeepsLow s (State.unitWrite s p u i off al d) := by
  unfold State.unitWrite
  (repeat' split) <;> simp only [KeepsLow, and_self, State.hiddenWrite_keeps, State.infraWrite_keeps, State.engineWrite_keeps, State.flowWrite_keeps]
@[simp] theorem State.writeEff_keeps (s : State) (p : Sys2Proof.Path) (priv : Nat) (u : Sys2Proof.UnitKind) (i : Nat) (off : Nat) (al : Nat) (at_ : Nat) (d : Sys2Proof.Word) : KeepsLow s (State.writeEff s p priv u i off al at_ d).st := by
  simp only [State.writeEff, KeepsLow, ite_keeps, ite_self, and_self, tblCmdWrite_keeps, State.winBlocked_keeps, State.okay_keeps, State.setReg_keeps, State.headerWrite_keeps, State.unitWrite_keeps]
@[simp] theorem State.readEff_keeps (s : State) (p : Sys2Proof.Path) (u : Sys2Proof.UnitKind) (i : Nat) (off : Nat) : Keeps s (State.readEff s p u i off).st := by
  simp only [State.readEff, Keeps, ite_keeps, ite_self, and_self, ircClaim_keeps, rmonStatRead_keeps, tkpNowLo_keeps, State.gives_keeps, State.setReg_keeps]
@[simp] theorem State.accessEff_keeps (s : State) (a : Sys2Proof.Access) (u : Sys2Proof.UnitKind) (i : Nat) : KeepsLow s (State.accessEff s a u i).st := by
  simp only [State.accessEff, KeepsLow, ite_keeps, ite_self, and_self, State.writeEff_keeps, State.readEff_keeps]
@[simp] theorem State.access_keeps (s : State) (a : Sys2Proof.Access) : KeepsLow s (State.access s a) := by
  unfold State.access
  (repeat' split) <;> simp only [KeepsLow, and_self, implies_true, State.gate_keeps, State.accessEff_keeps, State.putOff_keeps, State.answer_keeps, State.violation_keeps]
@[simp] theorem State.emitReply_keeps (s : State) : Keeps s (State.emitReply s) := by
  unfold State.emitReply
  (repeat' split) <;> simp only [Keeps, and_self, State.emit_keeps]
@[simp] theorem State.serveOne_keeps (s : State) (w : Sys2Proof.Access × Nat) : KeepsLow s (State.serveOne s w) := by
  simp only [State.serveOne, KeepsLow, ite_keeps, ite_self, and_self, State.access_keeps, State.settle_keeps, State.emitReply_keeps]
@[simp] theorem State.serve_keeps (s : State) : KeepsLow s (State.serve s) := by
  simp only [State.serve, KeepsLow, foldl_keeps, and_self, implies_true, State.serveOne_keeps]
@[simp] theorem State.endReset_keeps (s : State) (u : Sys2Proof.UnitKind) (i : Nat) : KeepsLow s (State.endReset s u i) := by
  simp only [State.endReset, KeepsLow, and_self, State.serve_keeps]
@[simp] theorem unitResetDone_keeps (u : Sys2Proof.UnitKind) (i : Nat) (s : State) : KeepsLow s (unitResetDone u i s) := by
  simp only [unitResetDone, KeepsLow, ite_keeps, ite_self, and_self, State.endReset_keeps]
@[simp] theorem portTimeout_keeps (s : State) : KeepsLow s (portTimeout s) := by
  unfold portTimeout
  (repeat' split) <;> simp only [KeepsLow, and_self, State.reach_keeps, State.violation_keeps, State.serve_keeps, State.emitReply_keeps, State.answer_keeps, State.fault_keeps]
@[simp] theorem State.accessNow_keeps (s : State) (a : Sys2Proof.Access) : KeepsLow s (State.accessNow s a) := by
  unfold State.accessNow
  (repeat' split) <;> simp only [KeepsLow, ite_keeps, ite_self, and_self, State.access_keeps, State.endReset_keeps, State.reach_keeps, State.violation_keeps, State.answer_keeps, State.fault_keeps]
@[simp] theorem State.coreReg_keeps (s : State) (c : Nat) (pc : BitVec 32) (off : BitVec 22) (write : Bool) (d : Sys2Proof.Word) : KeepsLow s (State.coreReg s c pc off write d) := by
  unfold State.coreReg
  lift_lets
  intro x0
  clear_value x0
  intro x1
  have h1 : KeepsLow s x1 := by simp only [x1, KeepsLow, and_self, State.accessNow_keeps]
  clear_value x1
  split
  · rename_i y2_0 y2_1
    lift_lets
    intro x3
    clear_value x3
    intro x4
    clear_value x4
    simp only [KeepsLow, and_self, h1]
  · rename_i y2_0 y2_1 y2_2
    lift_lets
    intro x3
    clear_value x3
    intro x4
    clear_value x4
    intro x5
    have h5 : KeepsLow s x5 := by simp only [x5, KeepsLow, and_self, h1, State.setCore_keeps]
    clear_value x5
    simp only [KeepsLow, ite_keeps, ite_self, and_self, h5, State.setCore_keeps, State.coreTrap_keeps, State.coreDone_keeps]
@[simp] theorem State.coreWindow_keeps (s : State) (c : Nat) (pc : BitVec 32) (off : BitVec 22) (write : Bool) (data : BitVec 32) : KeepsLow s (State.coreWindow s c pc off write data) := by
  simp only [State.coreWindow, KeepsLow, ite_keeps, ite_self, and_self, State.coreDone_keeps, State.setCore_keeps, State.coreReg_keeps]
@[simp] theorem coreRegAccess_keeps (c : Nat) (pc : BitVec 32) (addr : BitVec 32) (op : Sys2Proof.CoreOp) (data : BitVec 32) (ecc : Bool) (s : State) : KeepsTop s (coreRegAccess c pc addr op data ecc s) := by
  unfold coreRegAccess
  (repeat' split) <;> simp only [KeepsTop, and_self, State.coreTrap_keeps, State.coreLocal_keeps, State.coreWindow_keeps, State.coreUncorr_keeps, State.coreDone_keeps, State.coreData_keeps]
@[simp] theorem State.mgmtRun_keeps (s : State) (e : Sys2Proof.MgmtEntry) : KeepsLow s (State.mgmtRun s e).1 := by
  simp only [State.mgmtRun, KeepsLow, and_self, State.settle_keeps, State.accessNow_keeps]
@[simp] theorem State.mgmtOne_keeps (a : State × List MgmtReply) (e : MgmtEntry) : KeepsLow a.1 (State.mgmtOne a e).1 := by
  unfold State.mgmtOne
  dsimp only
  (repeat' split) <;> simp [KeepsLow]
@[simp] theorem State.mgmtExec_keeps (s : State) (es : List Sys2Proof.MgmtEntry) : KeepsLow s (State.mgmtExec s es) := by
  simp only [State.mgmtExec, KeepsLow, ite_keeps, foldl_keeps, ite_self, and_self, implies_true, State.mgmtOne_keeps, State.sendFlit_keeps]
@[simp] theorem mgmtReqExec_keeps (es : List Sys2Proof.MgmtEntry) (s : State) : KeepsLow s (mgmtReqExec es s) := by
  simp only [mgmtReqExec, KeepsLow, ite_keeps, ite_self, and_self, State.mgmtExec_keeps, State.takeFlit_keeps]
theorem violFold (s : State) (l : List Bytes) (a b c : Nat) :
    Keeps s (l.foldl (fun (s : State) _ => s.slkViol 0 12 a b c) s) := by
  induction l generalizing s with
  | nil => exact Keeps.refl s
  | cons x l ih =>
    rw [List.foldl_cons]
    exact Keeps.trans (State.slkViol_keeps s 0 12 a b c) (ih (s.slkViol 0 12 a b c))
@[simp] theorem State.mgmtIn_keeps (s : State) (f : Flit) : KeepsLow s (State.mgmtIn s f) :=
  Keeps.trans_low (violFold s _ f.ftype f.vc f.seq) (State.mgmtExec_keeps ..)
@[simp] theorem State.ownOne_keeps (a : State × List MgmtReply) (e : MgmtEntry) : KeepsLow a.1 (State.ownOne a e).1 := by
  unfold State.ownOne
  dsimp only
  (repeat' split) <;> simp [KeepsLow]
@[simp] theorem State.ownExec_keeps (s : State) (es : List Sys2Proof.MgmtEntry) : KeepsLow s (State.ownExec s es) := by
  simp only [State.ownExec, KeepsLow, ite_keeps, foldl_keeps, ite_self, and_self, implies_true, State.bump_keeps, State.ownOne_keeps, State.mgrReplyFrame_keeps]
@[simp] theorem State.mgrRefuse_keeps (s : State) (p : Nat) (code : Nat) (src : Nat) : Keeps s (State.mgrRefuse s p code src) := by
  simp only [State.mgrRefuse, Keeps, ite_keeps, ite_self, and_self, State.upViol_keeps, State.bump_keeps]
@[simp] theorem State.mgrServe_keeps (s : State) (ok : List (Nat × Sys2Proof.MgmtEntry)) : KeepsLow s (State.mgrServe s ok) := by
  simp only [State.mgrServe, KeepsLow, ite_keeps, foldl_keeps, ite_self, and_self, implies_true, State.relay_keeps, State.ownExec_keeps]
@[simp] theorem State.mgrFrame_keeps (s : State) (p : Nat) (src : Nat) (m : Bytes) : KeepsLow s (State.mgrFrame s p src m) := by
  simp only [State.mgrFrame, KeepsLow, ite_keeps, foldl_keeps, ite_self, and_self, implies_true, State.mgrRefuse_keeps, State.mgrServe_keeps]
@[simp] theorem mgrReqRx_keeps (p : Nat) (f : Bytes) (s : State) : KeepsLow s (mgrReqRx p f s) := by
  simp only [mgrReqRx, KeepsLow, ite_keeps, ite_self, and_self, State.mgrFrame_keeps]
@[simp] theorem healthTimer_keeps (s : State) : Keeps s (healthTimer s) := by
  simp only [healthTimer, Keeps, ite_keeps, foldl_keeps, ite_self, and_self, implies_true, State.reach_keeps, State.relayOwn_keeps, State.healthDue_keeps]
@[simp] theorem State.dropFlit_keeps (s : State) (w : Nat) (vc : Nat) : Keeps s (State.dropFlit s w vc) := by
  simp only [State.dropFlit, Keeps, ite_keeps, ite_self, and_self, State.modLane_keeps, State.freeVc3_keeps]
@[simp] theorem State.flitTaken_keeps (s : State) (w : Nat) (f : Flit) (sub : Nat) (again : Bool) : KeepsLow s (State.flitTaken s w f sub again) := by
  unfold State.flitTaken
  simp [KeepsLow, ite_keeps, ite_self, and_self]
@[simp] theorem State.sequenced_keeps (s : State) (w : Nat) (f : Flit) (len : Nat) (sub : Nat) : KeepsLow s (State.sequenced s w f len sub) := by
  simp only [State.sequenced, KeepsLow, ite_keeps, ite_self, and_self, State.slkViol_keeps, State.modLane_keeps, State.gap_keeps, State.resync_keeps, State.takeFlit_keeps, State.dropFlit_keeps, State.flitTaken_keeps]
@[simp] theorem dataFlitRx_keeps (w : Nat) (b : Bytes) (corr : Nat) (uncorr : Option Nat) (sub : Nat) (s : State) : KeepsLow s (dataFlitRx w b corr uncorr sub s) := by
  unfold dataFlitRx
  split
  · rename_i y0_0
    split
    · rename_i y1_0 y1_1 y1_2
      have ky1_2 := congrArg (fun p => p.1) y1_2; dsimp only at ky1_2; subst ky1_2
      simp only [KeepsLow, and_self, State.flitIn_keeps]
    · rename_i y1_0 y1_1 y1_2 y1_3 y1_4
      have ky1_4 := congrArg (fun p => p.1) y1_4; dsimp only at ky1_4; subst ky1_4
      simp only [KeepsLow, ite_keeps, ite_self, and_self, State.flitIn_keeps, State.sequenced_keeps, State.controlIn_keeps]
  · rename_i y0_0
    simp [KeepsLow, ite_keeps, ite_self, and_self]
@[simp] theorem State.ptpFrame_keeps (s : State) (p : Nat) (e : Eth) (sub : Nat) : Keeps s (State.ptpFrame s p e sub) := by
  simp only [State.ptpFrame, Keeps, ite_keeps, ite_self, and_self, State.upViol_keeps, ptpSyncRx_keeps, ptpPdelayReqRx_keeps, ptpPdelayRespRx_keeps, ptpFollowUpRx_keeps, ptpDelayRespRx_keeps, ptpPdelayRespFuRx_keeps, ptpAnnounceRx_keeps]
@[simp] theorem State.upsIn_keeps (s : State) (p : Nat) (e : Eth) (f : Bytes) : KeepsLow s (State.upsIn s p e f) := by
  simp only [State.upsIn, KeepsLow, ite_keeps, ite_self, and_self, State.upViol_keeps, State.mgrFrame_keeps, State.mgrRefuse_keeps, xrfRx_keeps, State.fleetTray_keeps, State.budRx_keeps]
@[simp] theorem upFrameRx_keeps (p : Nat) (f : Bytes) (crcOk ecc : Bool) (s : State) : KeepsTop s (upFrameRx p f crcOk ecc s) := by
  unfold upFrameRx
  extract_lets e t col ups sw ptp
  split
  · exact ⟨rfl, rfl⟩
  have h : KeepsTop s t := Keeps.top (by unfold t; simp only [Keeps, State.bytes_keeps, State.portRx_keeps, and_self])
  refine h.trans ?_
  split
  · exact Keeps.top (State.upViol_keeps ..)
  split
  · exact Keeps.top (State.upViol_keeps ..)
  split
  · exact Keeps.top (State.upViol_keeps ..)
  split
  · exact Keeps.top (Keeps.trans (State.draw_keeps ..) (State.ptpFrame_keeps ..))
  split
  · exact Keeps.top (State.upViol_keeps ..)
  split
  · exact Keeps.top (State.upViol_keeps ..)
  split
  · exact KeepsLow.top (State.colFrame_keeps ..)
  split
  · exact KeepsLow.top (State.upsIn_keeps ..)
  split
  · exact ⟨rfl, rfl⟩
  have hs := State.swReceive_keeps t p f
  split <;> rename_i h
  · rw [h] at hs; exact hs
  · rw [h] at hs; exact KeepsTop.trans hs (Keeps.top (State.upViol_keeps ..))
@[simp] theorem timedLaunch_keeps (port : Nat) (s : State) : Keeps s (timedLaunch port s) := by
  unfold timedLaunch
  (repeat' split) <;> simp only [Keeps, ite_keeps, ite_self, and_self, State.reachBefore_keeps, State.launchUp_keeps, State.launchLane_keeps]
@[simp] theorem State.took_keeps (s : State) (u : Sys2Proof.UnitKind) (i : Nat) (table : Nat) (op : Nat) (index : Nat) : Keeps s (State.took s u i table op index) := by
  simp only [State.took, Keeps, and_self, State.setReg_keeps]
@[simp] theorem WinOut.replied_keeps (o : WinOut) (u : UnitKind) (i : Nat) : Keeps o.st (o.replied u i) := by
  simp [WinOut.replied, Keeps]

end Sys2Proof.Machine
end

