-- ==== Sys2Proof/Laws/Memory.lean ====
section
/-! SUPPORT. The canonical form of the memories and what keeps it. -/

namespace Sys2Proof.Machine

/-! ### Canonical memory -/
theorem wf_cons {a : Nat} {v : Byte} {r : List Host.Cell} :
    Mem.wf ((a, v) :: r) = true ↔ (∀ x ∈ r.head?, a < x.1) ∧ v ≠ 0 ∧ Mem.wf r = true := by
  cases r with
  | nil => simp [Mem.wf]
  | cons x r => obtain ⟨b, w⟩ := x; simp [Mem.wf, and_assoc]
theorem head_erase (m : List Host.Cell) (k a : Nat) (h : ∀ x ∈ m.head?, a < x.1) (hw : Mem.wf m = true) :
    ∀ x ∈ (SMap.erase m k : List Host.Cell).head?, a < x.1 := by
  induction m generalizing a with
  | nil => simp [SMap.erase]
  | cons y r ih =>
    obtain ⟨b, w⟩ := y
    have hb : a < b := h (b, w) rfl
    obtain ⟨h1, -, h3⟩ := wf_cons.1 hw
    unfold SMap.erase
    split
    · exact ih a (fun x hx => Nat.lt_trans hb (h1 x hx)) h3
    · simpa using hb
theorem Mem.wf_erase (m : List Host.Cell) (k : Nat) (h : Mem.wf m = true) : Mem.wf (SMap.erase m k) = true := by
  induction m with
  | nil => rfl
  | cons x r ih =>
    obtain ⟨b, w⟩ := x
    obtain ⟨h1, h2, h3⟩ := wf_cons.1 h
    unfold SMap.erase
    split
    · exact ih h3
    · exact wf_cons.2 ⟨head_erase r k b h1 h3, h2, ih h3⟩
theorem head_set (m : List Host.Cell) (k a : Nat) (v : Byte) (hk : a < k) (h : ∀ x ∈ m.head?, a < x.1) :
    ∀ x ∈ (SMap.set m k v : List Host.Cell).head?, a < x.1 := by
  match m with
  | [] => intro x hx; simp [SMap.set] at hx; simp [← hx, hk]
  | (b, w) :: r =>
    have hb : a < b := h (b, w) rfl
    unfold SMap.set
    split
    · simpa using hk
    · split
      · simpa using hk
      · simpa using hb
theorem Mem.wf_set (m : List Host.Cell) (k : Nat) (v : Byte) (hv : v ≠ 0) (h : Mem.wf m = true) : Mem.wf (SMap.set m k v) = true := by
  induction m with
  | nil => simpa [SMap.set, Mem.wf] using hv
  | cons x r ih =>
    obtain ⟨b, w⟩ := x
    obtain ⟨h1, h2, h3⟩ := wf_cons.1 h
    unfold SMap.set
    split
    · rename_i e; subst e; exact wf_cons.2 ⟨h1, hv, h3⟩
    · split
      · exact wf_cons.2 ⟨by simpa using ‹k < b›, hv, h⟩
      · exact wf_cons.2 ⟨head_set r k b v (by omega) h1, h2, ih h3⟩
/-- A write of one byte keeps the canonical form. -/
theorem Mem.wf_put (m : List Host.Cell) (a : Nat) (v : Byte) (h : Mem.wf m = true) : Mem.wf (Mem.put m a v) = true := by
  unfold Mem.put
  split
  · exact Mem.wf_erase m a h
  · exact Mem.wf_set m a v (by assumption) h
/-- A write keeps the canonical form. -/
theorem Mem.wf_write (m : List Host.Cell) (a : Nat) (bs : Bytes) (h : Mem.wf m = true) : Mem.wf (Mem.write m a bs) = true := by
  induction bs generalizing m a with
  | nil => exact h
  | cons b bs ih => exact ih _ _ (Mem.wf_put m a b h)
/-- `t` has its HBM in canonical form where `s` has. -/
abbrev HbmOk (s t : State) : Prop := Mem.wf s.hbm = true → Mem.wf t.hbm = true
theorem wf_ite (c : Prop) [Decidable c] (a b : List Host.Cell) : Mem.wf (if c then a else b) = if c then Mem.wf a else Mem.wf b := by
  split <;> rfl
theorem foldl_HbmOk {α : Type} {f : State → α → State} {s u : State} {l : List α} (h0 : HbmOk s u) (h : ∀ t a, HbmOk t (f t a)) : HbmOk s (l.foldl f u) := by
  induction l generalizing u with
  | nil => exact h0
  | cons a l ih => exact ih fun k => h u a (h0 k)
theorem foldl_wf1 (α : Type) (l : List α) (f : State → α → State) (s : State) (h : ∀ s a, Mem.wf s.hbm = true → Mem.wf (f s a).hbm = true)
    (k : Mem.wf s.hbm = true) : Mem.wf (l.foldl f s).hbm = true := by
  induction l generalizing s with
  | nil => exact k
  | cons a l ih => exact ih _ (h s a k)
theorem foldl_wf2 (α β : Type) (l : List α) (f : State × β → α → State × β) (s : State × β) (h : ∀ s a, Mem.wf s.1.hbm = true → Mem.wf (f s a).1.hbm = true)
    (k : Mem.wf s.1.hbm = true) : Mem.wf (l.foldl f s).1.hbm = true := by
  induction l generalizing s with
  | nil => exact k
  | cons a l ih => exact ih _ (h s a k)

end Sys2Proof.Machine
end

