-- ==== Sys2Proof/Laws/Canonical1.lean ====
section
/-! SUPPORT. The functions that write HBM keep its canonical form. -/

namespace Sys2Proof.Machine

theorem State.gate_wf {s : State} {a : Access} {u : UnitKind} {i off : Nat} {eff : State → AccOut}
    (h : ∀ t, HbmOk t (eff t).st) : HbmOk s (s.gate a u i off eff) := by
  intro k
  unfold State.gate
  (repeat' split) <;> simp [h, k]
theorem State.rowWrite_wf {s : State} {q : Req} {u : UnitKind} {i off : Nat} {d : Word} {eff : State → AccOut}
    (h : ∀ t, HbmOk t (eff t).st) : HbmOk s (s.rowWrite q u i off d eff) := State.gate_wf h
theorem State.rowRead_wf {s : State} {q : Req} {u : UnitKind} {i off : Nat} {eff : State → AccOut}
    (h : ∀ t, HbmOk t (eff t).st) : HbmOk s (s.rowRead q u i off eff) := State.gate_wf h
theorem State.plainWrite_wf {s : State} {u : UnitKind} {i off al : Nat} {d : Word} {commit : State → State}
    (h : ∀ t, HbmOk t (commit t)) : HbmOk s (s.plainWrite u i off al d commit) := by
  intro k
  unfold State.plainWrite
  (repeat' split) <;> simp [ite_keeps, wf_ite, h, k]
theorem State.winRun_wf {s : State} {u : UnitKind} {i : Nat} {d : Word} {body : State → WinOut}
    (h : ∀ t, HbmOk t (body t).st) : HbmOk s (s.winRun u i d body).st := by
  intro k
  unfold State.winRun
  (repeat' split) <;> simp [ite_keeps, wf_ite, h, k]
theorem State.winCmd_wf {s : State} {q : Req} {u : UnitKind} {i table op index : Nat} {body : State → WinOut}
    (h : ∀ t, HbmOk t (body t).st) : HbmOk s (s.winCmd q u i table op index body) := by
  unfold State.winCmd
  exact State.rowWrite_wf fun t => State.winRun_wf h
theorem State.markBank_wf {s : State} {u : UnitKind} {i : Nat} {f : State → State}
    (h : ∀ t, HbmOk t (f t)) : HbmOk s (s.markBank u i f) := by
  intro k
  unfold State.markBank
  simp [ite_keeps, wf_ite, h, k]
theorem State.policed_wf {s : State} {w vc n : Nat} {f : State → State}
    (h : ∀ t, HbmOk t (f t)) : HbmOk s (s.policed w vc n f) := by
  intro k
  have kk := State.police_keeps s w vc n
  unfold State.policed
  split <;> rename_i t e <;> rw [e] at kk <;> simp_all
@[simp] theorem State.ringBytes_wf (s : State) (r : Nat) (g : Ring) (off : Nat) (b : Bytes) : HbmOk s (State.ringBytes s r g off b) := by
  intro k
  unfold State.ringBytes
  split
  · simp [Mem.wf_write, k]
  · simp [k]
@[simp] theorem State.ringPut_wf (s : State) (r : Nat) (g : Ring) (e : Bytes) : HbmOk s (State.ringPut s r g e).1 := by
  simp +contextual only [State.ringPut, HbmOk, ite_keeps, wf_ite, ite_self, implies_true, State.ringBytes_wf]
@[simp] theorem State.ringWrite_wf (s : State) (r : Nat) (kind : Nat) (payload : Bytes) : HbmOk s (State.ringWrite s r kind payload) := by
  unfold State.ringWrite
  split
  · rename_i y0_0 y0_1
    simp +contextual only [HbmOk, implies_true]
  · rename_i y0_0 y0_1 y0_2
    simp +contextual only [HbmOk, ite_keeps, wf_ite, ite_self, implies_true, State.ringPut_wf, State.bump_keeps, State.fault_keeps, State.postRow_keeps, State.setRing_keeps]
@[simp] theorem State.ringRow_wf (s : State) (r : Nat) (b : Bytes) : HbmOk s (State.ringRow s r b) := by
  unfold State.ringRow
  (repeat' split) <;> simp +contextual only [HbmOk, implies_true, State.ringWrite_wf, State.setRing_keeps]
@[simp] theorem State.ringFlush_wf (s : State) (r : Nat) : HbmOk s (State.ringFlush s r) := by
  simp +contextual only [State.ringFlush, HbmOk, foldl_wf1, implies_true, State.ringWrite_wf]
@[simp] theorem State.ringLost_wf (s : State) (r : Nat) : HbmOk s (State.ringLost s r) := by
  unfold State.ringLost
  (repeat' split) <;> simp +contextual only [HbmOk, implies_true, State.ringFlush_wf, State.setRing_keeps]
@[simp] theorem State.capRow_wf (s : State) (w : Nat) (row : Row) : HbmOk s (State.capRow s w row) := by
  simp +contextual only [State.capRow, HbmOk, ite_keeps, foldl_wf1, wf_ite, ite_self, implies_true, State.ringRow_wf, State.capTrigger_keeps]
@[simp] theorem State.capMsg_wf (s : State) (c : Nat) (m : Bytes) : HbmOk s (State.capMsg s c m) := by
  simp +contextual only [State.capMsg, HbmOk, ite_keeps, foldl_wf1, wf_ite, ite_self, implies_true, State.ringWrite_wf]
@[simp] theorem State.cisternRow_wf (s : State) (w : Nat) (b : Bytes) : HbmOk s (State.cisternRow s w b) := by
  simp +contextual only [State.cisternRow, HbmOk, ite_keeps, foldl_wf1, wf_ite, ite_self, implies_true, State.ringWrite_wf]
@[simp] theorem State.ingestTake_wf (s : State) (it : Ingest) (left : Nat) : HbmOk s (State.ingestTake s it left) := by
  simp +contextual only [State.ingestTake, HbmOk, ite_keeps, wf_ite, ite_self, implies_true, State.addReg_keeps, State.bytes_keeps, State.setFill_keeps, State.unspill_keeps, State.cisternRow_wf, State.capMsg_wf]
@[simp] theorem State.ingest_wf (s : State) (it : Ingest) : HbmOk s (State.ingest s it) := by
  simp +contextual only [State.ingest, HbmOk, ite_keeps, wf_ite, ite_self, implies_true, State.ingestTake_wf]
@[simp] theorem State.putDrr_wf (s : State) (p : Nat) (q : Nat) (frame : Bytes) : HbmOk s (State.putDrr s p q frame) := by
  simp +contextual only [State.putDrr, HbmOk, ite_keeps, wf_ite, ite_self, implies_true, State.joinQueue_keeps, State.ingest_wf, State.addReg_keeps, State.bump_keeps, State.sumpOver_keeps]
@[simp] theorem State.routeUp_wf (s : State) (r : Route) (m : Bytes) : HbmOk s (State.routeUp s r m) := by
  simp +contextual only [State.routeUp, HbmOk, ite_keeps, wf_ite, ite_self, implies_true, State.bump_keeps, State.putDrr_wf]
@[simp] theorem State.route_wf (s : State) (c : Nat) (m : Bytes) : HbmOk s (State.route s c m) := by
  simp +contextual only [State.route, HbmOk, ite_keeps, wf_ite, ite_self, implies_true, State.bump_keeps, State.routeUp_wf, State.ingest_wf]
@[simp] theorem State.routeIn_wf (s : State) (c : Nat) (m : Bytes) : HbmOk s (State.routeIn s c m) := by
  simp +contextual only [State.routeIn, HbmOk, ite_keeps, wf_ite, ite_self, implies_true, State.route_wf]
@[simp] theorem State.grant_wf (s : State) (it : Ingest) (left : Nat) : HbmOk s (State.grant s it left) := by
  unfold State.grant
  lift_lets
  intro x0
  have h0 : HbmOk s x0 := by simp +contextual only [x0, HbmOk, implies_true, State.ingestTake_wf]
  clear_value x0
  split
  · rename_i y1_0
    lift_lets
    intro x2
    clear_value x2
    intro x3
    clear_value x3
    intro x4
    have h4 : HbmOk s x4 := by simp +contextual only [x4, HbmOk, implies_true, h0, State.freeHeld_keeps]
    clear_value x4
    split
    · rename_i y5_0
      lift_lets
      intro x6
      have h6 : HbmOk s x6 := by simp +contextual only [x6, HbmOk, implies_true, h4, State.routeUp_wf]
      clear_value x6
      simp +contextual only [HbmOk, ite_keeps, wf_ite, ite_self, implies_true, h6, h4, State.bump_keeps, State.capMsg_wf]
    · rename_i y5_0
      lift_lets
      intro x6
      have h6 : HbmOk s x6 := by simp +contextual only [x6, HbmOk, implies_true, h4]
      clear_value x6
      simp +contextual only [HbmOk, ite_keeps, wf_ite, ite_self, implies_true, h6, h4, State.bump_keeps, State.capMsg_wf]
  · rename_i y1_0
    lift_lets
    intro x2
    clear_value x2
    intro x3
    clear_value x3
    intro x4
    have h4 : HbmOk s x4 := by simp +contextual only [x4, HbmOk, implies_true, h0, State.freeHeld_keeps]
    clear_value x4
    simp +contextual only [HbmOk, implies_true, h0]
@[simp] theorem ingestGrant_wf (s : State) : HbmOk s (ingestGrant s) := by
  unfold ingestGrant
  (repeat' split) <;> simp +contextual only [HbmOk, implies_true, State.grant_wf, State.advance_keeps]
@[simp] theorem State.park_wf (s : State) (w : Nat) (m : Bytes) : HbmOk s (State.park s w m) := by
  simp +contextual only [State.park, HbmOk, ite_keeps, wf_ite, ite_self, implies_true, State.bump_keeps, State.ingest_wf, State.sumpOver_keeps]
@[simp] theorem State.verdictRow_wf (s : State) (e : Nat) (j : StmJob) (r : StepRow) (forced : Bool) : HbmOk s (State.verdictRow s e j r forced) := by
  simp +contextual only [State.verdictRow, HbmOk, ite_keeps, ite_self, implies_true, State.draw_keeps, State.setStmRows_keeps, State.bump_keeps, State.setReg_keeps, State.setFld_keeps, State.route_wf, State.toCollector_keeps, State.xrfOwn_keeps, State.pendBit_keeps]
@[simp] theorem stepVerdict_wf (e : Nat) (step : Nat) (s : State) : HbmOk s (stepVerdict e step s) := by
  unfold stepVerdict
  (repeat' split) <;> simp +contextual only [HbmOk, implies_true, State.verdictRow_wf, State.reachTime_keeps]
@[simp] theorem State.openRow_wf (s : State) (e : Nat) (j : StmJob) (step : Nat) : HbmOk s (State.openRow s e j step) := by
  unfold State.openRow
  lift_lets
  intro x0
  clear_value x0
  intro x1
  clear_value x1
  intro x2
  have h2 : HbmOk s x2 := by
      unfold x2
      split
      · rename_i y3_0 y3_1 y3_2 y3_3
        simp +contextual only [HbmOk, ite_keeps, wf_ite, ite_self, implies_true, State.verdictRow_wf]
      · rename_i y3_0 y3_1 y3_2
        simp +contextual only [HbmOk, implies_true]
  clear_value x2
  intro x3
  clear_value x3
  simp +contextual only [HbmOk, implies_true, h2, State.setStmRows_keeps]
theorem HbmOk.trans {s t u : State} (h : HbmOk s t) (k : HbmOk t u) : HbmOk s u := fun x => k (h x)
theorem Keeps.hbm {s t : State} (h : Keeps s t) : HbmOk s t := fun k => by rw [h.2.2.2]; exact k
theorem ite_hbm {c : Prop} [Decidable c] {s t u : State} (h : HbmOk s t) (k : HbmOk s u) : HbmOk s (if c then t else u) := by
  split <;> assumption
@[simp] theorem State.stepMarkTaken_wf (s : State) (w : Nat) (m : Bytes) : HbmOk s (State.stepMarkTaken s w m) := by
  unfold State.stepMarkTaken
  extract_lets h stamp job phase step
  clear_value h stamp job phase step
  refine ite_hbm (Keeps.refl s).hbm ?_
  refine ite_hbm (State.bump_keeps ..).hbm ?_
  split
  · exact (State.bump_keeps ..).hbm
  split
  · exact (State.bump_keeps ..).hbm
  refine ite_hbm (State.bump_keeps ..).hbm ?_
  have k := State.arrival_keeps s stamp
  revert k
  generalize s.arrival stamp = p
  obtain ⟨a, t⟩ := p
  intro k
  refine k.hbm.trans ?_
  dsimp only
  split
  · exact ite_hbm (State.bump_keeps ..).hbm (State.enterMark_keeps ..).hbm
  · refine ite_hbm ?_ (State.bump_keeps ..).hbm
    split
    · exact HbmOk.trans (fun k => by apply State.openRow_wf; exact k) (State.enterMark_keeps ..).hbm
    · exact fun k => by apply State.openRow_wf; exact k
@[simp] theorem stepMarkRx_wf (w : Nat) (m : Bytes) (s : State) : HbmOk s (stepMarkRx w m s) := by
  simp +contextual only [stepMarkRx, HbmOk, ite_keeps, wf_ite, ite_self, implies_true, State.stepMarkTaken_wf]
@[simp] theorem State.sendVerdict_wf (s : State) (m : Bytes) : HbmOk s (State.sendVerdict s m) := by
  simp +contextual only [State.sendVerdict, HbmOk, ite_keeps, wf_ite, ite_self, implies_true, State.route_wf, State.sendMsg_keeps]
@[simp] theorem State.baseline_wf (s : State) (n : Nat) (fs : List Int) (i : Nat) (c : BaseCfg) : HbmOk s (State.baseline s n fs i c) := by
  unfold State.baseline
  lift_lets
  split
  · rename_i y0_0 y0_1 y0_2
    simp +contextual only [HbmOk, ite_keeps, ite_self, State.bump_keeps]
    split
    · rename_i y2_0 y2_1 y2_2
      simp +contextual only [implies_true, State.bump_keeps, State.sendVerdict_wf]
    · rename_i y2_0 y2_1
      simp +contextual only [implies_true]
  · rename_i y0_0 y0_1
    split
    · rename_i y1_0 y1_1 y1_2 y1_3
      have ky1_3 := congrArg (fun p => p.2) y1_3; dsimp only at ky1_3; subst ky1_3
      simp +contextual only [HbmOk, ite_keeps, ite_self, State.draw_keeps, State.bump_keeps]
      split
      · rename_i y3_0 y3_1 y3_2
        simp +contextual only [implies_true, State.bump_keeps, State.sendVerdict_wf]
      · rename_i y3_0 y3_1
        simp +contextual only [implies_true]
@[simp] theorem State.baselines_wf (s : State) (n : Nat) (flags : Nat) (fs : List Int) : HbmOk s (State.baselines s n flags fs) := by
  simp +contextual only [State.baselines, HbmOk, ite_keeps, foldl_wf1, wf_ite, ite_self, implies_true, State.baseline_wf]
@[simp] theorem State.forceRows_wf (s : State) (e : Nat) : HbmOk s (State.forceRows s e) := by
  simp +contextual only [State.forceRows, HbmOk, ite_keeps, foldl_wf1, wf_ite, ite_self, implies_true, State.verdictRow_wf, State.setStmRows_keeps]
@[simp] theorem State.stmCommit_wf (s : State) : HbmOk s (State.stmCommit s) := by
  simp +contextual only [State.stmCommit, HbmOk, ite_keeps, foldl_keeps, foldl_wf1, wf_ite, ite_self, implies_true, State.forceRows_wf, State.setStmRows_keeps]
@[simp] theorem State.budFrame_wf (s : State) (dst : Nat) (kind : Nat) (cls : Nat) (mark : Nat) (sq : Nat) (body : Bytes) : HbmOk s (State.budFrame s dst kind cls mark sq body) := by
  simp +contextual only [State.budFrame, HbmOk, implies_true, State.putDrr_wf]
@[simp] theorem State.mirrorFrame_wf (s : State) (cls : Nat) (first : Bool) (body : Bytes) : HbmOk s (State.mirrorFrame s cls first body) := by
  simp +contextual only [State.mirrorFrame, HbmOk, implies_true, State.budFrame_wf]
@[simp] theorem State.mirror_wf (s : State) (cls : Nat) (first : Bool) (bodies : List Bytes) : HbmOk s (State.mirror s cls first bodies) := by
  simp +contextual only [State.mirror, HbmOk, ite_keeps, foldl_wf1, wf_ite, ite_self, implies_true, State.mirrorFrame_wf]
@[simp] theorem State.mirrorRecord_wf (s : State) (w : Nat) (e : Nat) (m : Bytes) : HbmOk s (State.mirrorRecord s w e m) := by
  simp +contextual only [State.mirrorRecord, HbmOk, implies_true, State.mirror_wf]
@[simp] theorem State.recMerge_wf (s : State) (w : Nat) (m : Bytes) (lost : List Sys2Proof.Word) (a : Accum) (late : Bool) : HbmOk s (State.recMerge s w m lost a late) := by
  simp +contextual only [State.recMerge, HbmOk, ite_keeps, ite_self, implies_true, State.bump_keeps, State.ev_keeps, State.draw_keeps, State.feedRecord_keeps, State.mirrorRecord_wf]
@[simp] theorem State.recordAt_wf (s : State) (w : Nat) (m : Bytes) (lost : List Sys2Proof.Word) (restored : Bool) (x : Nat × Stream × TmplEnt × List (BitVec 32)) : HbmOk s (State.recordAt s w m lost restored x) := by
  unfold State.recordAt
  lift_lets
  intro x0
  clear_value x0
  intro x1
  clear_value x1
  intro x2
  clear_value x2
  intro x3
  clear_value x3
  intro x4
  clear_value x4
  intro x5
  clear_value x5
  intro x6
  clear_value x6
  intro x7
  clear_value x7
  intro x8
  clear_value x8
  intro x9
  clear_value x9
  intro x10
  clear_value x10
  simp +contextual only [HbmOk, ite_keeps, wf_ite, ite_self, implies_true, State.recReject_keeps, State.bump_keeps, State.recMerge_wf]
@[simp] theorem State.recordTaken_wf (s : State) (w : Nat) (m : Bytes) (lost : List Word) (restored : Bool) : HbmOk s (s.recordTaken w m lost restored) := by
  unfold State.recordTaken
  lift_lets
  intro h type e job all
  clear_value h type e job all
  refine ite_hbm (Keeps.refl s).hbm ?_
  refine ite_hbm (State.recReject_keeps ..).hbm ?_
  refine ite_hbm (State.toCollector_keeps ..).hbm ?_
  refine ite_hbm (Keeps.refl s).hbm ?_
  refine ite_hbm (State.recReject_keeps ..).hbm ?_
  split
  · exact (State.recReject_keeps ..).hbm
  · exact fun k => by apply State.recordAt_wf; exact k
@[simp] theorem recordArrival_wf (w : Nat) (m : Bytes) (lost : List Word) (s : State) : HbmOk s (recordArrival w m lost s) := by
  unfold recordArrival
  exact ite_hbm (fun k => by apply State.recordTaken_wf; exact k) (Keeps.refl s).hbm
@[simp] theorem State.modelClosed_wf (s : State) (a : Accum) : HbmOk s (State.modelClosed s a) := by
  simp +contextual only [State.modelClosed, HbmOk, implies_true, State.baselines_wf, State.recordClosed_keeps]
@[simp] theorem State.closeEpoch_wf (s : State) (n : Nat) : HbmOk s (State.closeEpoch s n) := by
  unfold State.closeEpoch
  lift_lets
  intro x0
  clear_value x0
  intro x1
  clear_value x1
  intro x2
  have h2 : HbmOk s x2 := by simp +contextual only [x2, HbmOk, implies_true]
  clear_value x2
  simp +contextual only [HbmOk]
  split
  · rename_i y4_0 y4_1 y4_2
    simp +contextual only [ite_keeps, foldl_keeps, ite_self, implies_true, h2, State.setFld_keeps, State.bump_keeps, State.fault_keeps, State.accumEmit_keeps, State.modelClosed_wf]
  · rename_i y4_0 y4_1
    simp +contextual only [ite_keeps, foldl_keeps, ite_self, implies_true, h2, State.setFld_keeps, State.bump_keeps, State.fault_keeps, State.accumEmit_keeps]
@[simp] theorem rdxClose_wf (n : Nat) (s : State) : HbmOk s (rdxClose n s) := by
  unfold rdxClose
  (repeat' split) <;> simp +contextual only [HbmOk, implies_true, State.leaveWindow_keeps, State.closeEpoch_wf, State.reachTime_keeps]
@[simp] theorem State.eprClose_wf (s : State) (r : OpenRec) : HbmOk s (State.eprClose s r) := by
  simp +contextual only [State.eprClose, HbmOk, implies_true, State.pkgRecord_keeps, State.sendMsg_keeps, State.recordClosed_keeps, State.baselines_wf]
@[simp] theorem State.eprCloseOpen_wf (s : State) : HbmOk s (State.eprCloseOpen s) := by
  unfold State.eprCloseOpen
  (repeat' split) <;> simp +contextual only [HbmOk, ite_keeps, wf_ite, ite_self, implies_true, State.eprClose_wf]
@[simp] theorem State.eprLate_wf (s : State) : HbmOk s (State.eprLate s) := by
  simp +contextual only [State.eprLate, HbmOk, foldl_wf1, implies_true, State.eprClose_wf, State.bump_keeps]
@[simp] theorem rowComplete_wf (g : Nat) (s : State) : HbmOk s (rowComplete g s) := by
  unfold rowComplete
  (repeat' split) <;> simp +contextual only [HbmOk, ite_keeps, wf_ite, ite_self, implies_true, State.setGrun_keeps, State.item_keeps, State.ev_keeps, State.eprLate_wf, State.eprFold_keeps, State.smpVote_keeps, State.springRow_keeps, State.stageRow_keeps]
@[simp] theorem smpReset_wf (s : State) : HbmOk s (smpReset s) := by
  simp +contextual only [smpReset, HbmOk, ite_keeps, foldl_keeps, ite_self, implies_true, State.welAbandon_keeps, State.eprForget_keeps, State.smpVote_keeps, State.eprLate_wf]
@[simp] theorem State.coreWrite_wf (s : State) (c : Nat) (m : CoreMem) (addr : Nat) (off : Nat) (n : Nat) (v : BitVec 32) : HbmOk s (State.coreWrite s c m addr off n v) := by
  unfold State.coreWrite
  (repeat' split) <;> simp +contextual only [HbmOk, implies_true, State.setCore_keeps, State.bytes_keeps]
@[simp] theorem State.coreData_wf (s : State) (c : Nat) (m : CoreMem) (addr : Nat) (off : Nat) (op : Sys2Proof.CoreOp) (data : BitVec 32) : HbmOk s (State.coreData s c m addr off op data) := by
  unfold State.coreData
  (repeat' split) <;> simp +contextual only [HbmOk, ite_keeps, wf_ite, ite_self, implies_true, State.setCore_keeps, State.bytes_keeps, State.coreWrite_wf]
@[simp] theorem State.encGive_wf (s : State) (h : EncRow) (ecc : EccHit) : HbmOk s (s.encGive h ecc) := by
  unfold State.encGive
  extract_lets row e t f v x y
  have kt : Keeps s t := by unfold t; split <;> simp [Keeps]
  have kv : Keeps t v := State.setFld_keeps ..
  refine kt.hbm.trans ?_
  have ky : Keeps v y := ⟨rfl, rfl, rfl, rfl⟩
  clear_value y v t
  refine ite_hbm (State.setFld_keeps ..).hbm (kv.hbm.trans (ky.hbm.trans ?_))
  split <;> exact fun k => by simp [k]
@[simp] theorem encodeRow_wf (ecc : Sys2Proof.EccHit) (s : State) : HbmOk s (encodeRow ecc s) := by
  unfold encodeRow
  lift_lets
  intro x0
  have h0 : HbmOk s x0 := by simp +contextual only [x0, HbmOk, ite_keeps, ite_self, implies_true, State.encTake_keeps]
  clear_value x0
  split
  · rename_i y1_0
    simp +contextual only [HbmOk, implies_true]
  · rename_i y1_0
    split
    · rename_i y2_0 y2_1 y2_2
      simp +contextual only [HbmOk, implies_true, h0, State.encGive_wf]
    · rename_i y2_0 y2_1
      simp +contextual only [HbmOk, implies_true, h0]
@[simp] theorem State.frameIn_wf (s : State) (w : Nat) (m : Bytes) : HbmOk s (State.frameIn s w m) := by
  unfold State.frameIn
  (repeat' split) <;> simp +contextual only [HbmOk, ite_keeps, wf_ite, ite_self, implies_true, State.park_wf]
@[simp] theorem State.decFail_wf (s : State) (d : Nat) (w : Nat) (cause : Nat) (site : Nat) (group : Nat) (f : Bytes) : HbmOk s (State.decFail s d w cause site group f) := by
  simp +contextual only [State.decFail, HbmOk, ite_keeps, ite_self, implies_true, State.setReg_keeps, State.ev_keeps, State.bump_keeps, State.fault_keeps, State.event_keeps, State.route_wf, State.addReg_keeps]
@[simp] theorem State.rowOut_wf (s : State) (w : Nat) (f : Bytes) (row : Row) (m : List Nat) (hit : Bool) : HbmOk s (State.rowOut s w f row m hit) := by
  simp +contextual only [State.rowOut, HbmOk, ite_keeps, wf_ite, ite_self, implies_true, State.bump_keeps, State.setEnc_keeps, State.routeUp_wf, State.encoded_keeps, State.ingest_wf]
@[simp] theorem State.decReject_wf (s : State) (d : Nat) (w' : Nat) (c : Nat) (head : Bool) (f : Bytes) : HbmOk s (State.decReject s d w' c head f) := by
  simp +contextual only [State.decReject, HbmOk, ite_keeps, wf_ite, ite_self, implies_true, State.decFail_wf, State.askKey_keeps, State.setDec_keeps, State.decInvalid_keeps]
@[simp] theorem decodeFrame_wf (d : Nat) (ecc : Sys2Proof.EccHit) (s : State) : HbmOk s (decodeFrame d ecc s) := by
  unfold decodeFrame
  lift_lets
  intro x0
  have h0 : HbmOk s x0 := by simp +contextual only [x0, HbmOk, ite_keeps, ite_self, implies_true, State.unpark_keeps]
  clear_value x0
  split
  · rename_i y1_0
    lift_lets
    intro x2
    clear_value x2
    split
    · rename_i y3_0
      simp +contextual only [HbmOk]
      split
      · rename_i y5_0 y5_1 y5_2 y5_3 y5_4
        simp +contextual only [implies_true, h0]
      · rename_i y5_0 y5_1
        simp +contextual only [implies_true, h0]
    · rename_i y3_0
      simp +contextual only [HbmOk]
      split
      · rename_i y5_0 y5_1 y5_2 y5_3 y5_4
        split
        · rename_i y6_0 y6_1 y6_2
          simp +contextual only [implies_true, h0, State.unpark_keeps, State.decInvalid_keeps, State.decReject_wf, State.decRebind_keeps]
        · rename_i y6_0 y6_1 y6_2 y6_3
          simp +contextual only [ite_keeps, ite_self, implies_true, h0, State.unpark_keeps, State.decInvalid_keeps, State.setDec_keeps, State.ev_keeps, State.rowOut_wf, State.decRebind_keeps]
      · rename_i y5_0 y5_1
        simp +contextual only [implies_true, h0]
  · rename_i y1_0
    lift_lets
    intro x2
    clear_value x2
    split
    · rename_i y3_0
      simp +contextual only [HbmOk]
      split
      · rename_i y5_0 y5_1 y5_2 y5_3 y5_4
        simp +contextual only [implies_true, h0]
      · rename_i y5_0 y5_1
        simp +contextual only [implies_true, h0]
    · rename_i y3_0
      simp +contextual only [HbmOk]
      split
      · rename_i y5_0 y5_1 y5_2 y5_3 y5_4
        split
        · rename_i y6_0 y6_1 y6_2
          simp +contextual only [implies_true, h0, State.unpark_keeps, State.decReject_wf, State.decRebind_keeps]
        · rename_i y6_0 y6_1 y6_2 y6_3
          simp +contextual only [ite_keeps, ite_self, implies_true, h0, State.unpark_keeps, State.decInvalid_keeps, State.setDec_keeps, State.ev_keeps, State.rowOut_wf, State.decRebind_keeps]
      · rename_i y5_0 y5_1
        simp +contextual only [implies_true, h0]
@[simp] theorem State.trayMessage_wf (s : State) (w vc : Nat) (m : Bytes) : HbmOk s (s.trayMessage w vc m) := by
  unfold State.trayMessage
  extract_lets t
  clear_value t
  refine ite_hbm (ite_hbm ?_ (ite_hbm (Keeps.refl s).hbm ?_)) (ite_hbm ?_ (ite_hbm ?_ (ite_hbm ?_ ?_)))
  · exact fun k => by apply State.stepMarkTaken_wf; exact k
  · exact fun k => by apply State.recordTaken_wf; exact k
  · exact State.policed_wf fun t k => by apply State.frameIn_wf; exact k
  · exact State.policed_wf fun t k => by simp [k]
  · exact State.policed_wf fun t k => by split <;> simp [k]
  · exact fun k => by apply State.recordTaken_wf; exact k
@[simp] theorem State.captureMessage_wf (s : State) (w : Nat) (m : Bytes) : HbmOk s (State.captureMessage s w m) := by
  unfold State.captureMessage
  extract_lets n t free
  have kt : Keeps s t := State.modLane_keeps ..
  clear_value t
  refine kt.hbm.trans ?_
  have kf : ∀ u, Keeps u (free u) := fun u => State.freeVc3_keeps ..
  clear_value free
  split
  · have kp := State.police_keeps t w 3 m.length
    split <;> rename_i h <;> rw [h] at kp
    · exact kp.hbm.trans ((State.modLane_keeps ..).hbm.trans fun k => by apply State.ingest_wf; exact k)
    · exact kp.hbm.trans (kf _).hbm
  · refine ite_hbm (kf _).hbm ((kf _).hbm.trans fun k => by apply State.recordTaken_wf; exact k)
@[simp] theorem State.deliver_wf (s : State) (w : Nat) (vc : Nat) (seq : Nat) (m : Bytes) : HbmOk s (State.deliver s w vc seq m) := by
  simp +contextual only [State.deliver, HbmOk, ite_keeps, wf_ite, ite_self, implies_true, State.fleetLeaf_keeps, State.slkViol_keeps, State.modLane_keeps, State.freeVc3_keeps, State.captureMessage_wf, State.trayMessage_wf]
@[simp] theorem State.dataIn_wf (s : State) (w : Nat) (f : Flit) : HbmOk s (State.dataIn s w f) := by
  simp +contextual only [State.dataIn, HbmOk, ite_keeps, wf_ite, ite_self, implies_true, State.slkViol_keeps, State.dropMsg_keeps, State.deliver_wf, State.modLane_keeps]
@[simp] theorem State.altFlit_wf (s : State) (w : Nat) (b : Bytes) : HbmOk s (State.altFlit s w b) := by
  unfold State.altFlit
  lift_lets
  split
  · rename_i y0_0
    simp +contextual only [HbmOk, implies_true, State.slkViol_keeps]
  · rename_i y0_0
    grind [State.slkViol_keeps, State.modLane_keeps, State.bump_keeps, State.deliver_wf]
@[simp] theorem altRingPoll_wf (w : Nat) (prod : Nat) (flits : List Bytes) (s : State) : HbmOk s (altRingPoll w prod flits s) := by
  simp +contextual only [altRingPoll, HbmOk, ite_keeps, foldl_wf1, wf_ite, ite_self, implies_true, State.altFlit_wf, State.modLane_keeps, State.emit_keeps]
@[simp] theorem swFrameSend_wf (s : State) : HbmOk s (swFrameSend s).st := by
  intro k
  unfold swFrameSend
  extract_lets d e len buf p t mark f s1 first
  have hfirst : ∀ u : State, Mem.wf u.hbm = true → Mem.wf (first u).st.hbm = true := by
    intro u h
    unfold first
    split <;> simp [h]
  split
  · simp [k]
  have h1 : Mem.wf s1.hbm = true := by simp [s1, k]
  split
  · have hs := State.submitTimed_keeps s1 (128 + p) { launch := t, vc := 0, item := f, mark } (bit d 50)
    split <;> rename_i h <;> rw [h] at hs <;> simp at hs
    · simp [hs, h1]
    · simp [hs, h1]
    · simp [hs, h1]
    · simp [hs, h1]
    · exact hfirst _ (by simp [hs, h1])
  split
  · exact hfirst _ h1
  · simp [h1]
@[simp] theorem State.swReceive_wf (s : State) (p : Nat) (f : Bytes) : HbmOk s (s.swReceive p f).1 := by
  intro k
  unfold State.swReceive
  lift_lets
  intro base size n off
  clear_value base size n off
  dsimp only
  split
  · exact k
  · simp [k]
@[simp] theorem State.capSend_wf (s : State) (m : Bytes) : HbmOk s (State.capSend s m) := by
  simp +contextual only [State.capSend, HbmOk, ite_keeps, wf_ite, ite_self, implies_true, State.route_wf, State.sendMsg_keeps]
theorem State.capOp_wf {s t : State} {op r : Nat} (h : s.capOp op r = some t) : HbmOk s t := by
  intro k
  unfold State.capOp at h
  (repeat' split at h) <;> simp at h <;> subst h <;> simp [k]
@[simp] theorem capCtrlWrite_wf (d : Sys2Proof.Word) (s : State) : HbmOk s (capCtrlWrite d s) := by
  unfold capCtrlWrite
  refine foldl_HbmOk ?_ fun t0 a0 => ?_
  · simp +contextual only [HbmOk, implies_true]
  · split
    · rename_i y1_0
      split
      · rename_i y2_0 y2_1 y2_2
        have ky2_2 := State.capOp_keeps y2_2
        simp +contextual only [HbmOk]
        grind [State.capOp_wf, State.pgErr_keeps]
      · rename_i y2_0 y2_1
        simp +contextual only [HbmOk, implies_true, State.pgErr_keeps]
    · rename_i y1_0
      simp +contextual only [HbmOk, implies_true]
@[simp] theorem capCtrl_wf (q : Sys2Proof.Req) (op : Nat) (rings : BitVec 16) (s : State) : HbmOk s (capCtrl q op rings s) := by
  unfold capCtrl
  exact State.rowWrite_wf fun t k => by simp [k]
@[simp] theorem capUploadSend_wf (r : Nat) (s : State) : HbmOk s (capUploadSend r s) := by
  unfold capUploadSend
  lift_lets
  split
  · rename_i y0_0 y0_1 y0_2
    split
    · rename_i y1_0 y1_1 y1_2
      lift_lets
      intro x2
      clear_value x2
      split
      · rename_i y3_0
        simp +contextual only [HbmOk, implies_true]
      · rename_i y3_0
        split
        · rename_i y4_0
          simp +contextual only [HbmOk, implies_true, State.endXfer_keeps, State.uploadClose_keeps, State.capSend_wf]
        · rename_i y4_0
          split
          · rename_i y5_0 y5_1 y5_2
            have ky5_2 := congrArg (fun p => p.2) y5_2; dsimp only at ky5_2; subst ky5_2
            simp +contextual only [HbmOk, ite_keeps, ite_self, implies_true, State.bytes_keeps, State.ringFetch_keeps]
          · rename_i y5_0 y5_1 y5_2 y5_3
            have ky5_3 := congrArg (fun p => p.2) y5_3; dsimp only at ky5_3; subst ky5_3
            lift_lets
            intro x6
            have h6 : HbmOk s x6 := by simp +contextual only [x6, HbmOk, ite_keeps, ite_self, implies_true, State.capSend_wf, State.bytes_keeps, State.ringFetch_keeps]
            clear_value x6
            simp +contextual only [HbmOk, implies_true, h6, State.setRing_keeps]
    · rename_i y1_0 y1_1
      simp +contextual only [HbmOk, implies_true]
  · rename_i y0_0 y0_1
    simp +contextual only [HbmOk, implies_true]
@[simp] theorem State.capAborted_wf (s : State) (r : Nat) : HbmOk s (State.capAborted s r) := by
  unfold State.capAborted
  (repeat' split) <;> simp +contextual only [HbmOk, implies_true, State.uploadClose_keeps, State.capSend_wf, State.ringLost_wf]
@[simp] theorem capReset_wf (s : State) : HbmOk s (capReset s) := by
  unfold capReset
  lift_lets
  intro x0
  have h0 : HbmOk s x0 := by
      unfold x0
      refine foldl_HbmOk ?_ fun t1 a1 => ?_
      · simp +contextual only [HbmOk, implies_true]
      · split
        · rename_i y2_0 y2_1 y2_2
          lift_lets
          intro x3
          have h3 : HbmOk t1 x3 := by simp +contextual only [x3, HbmOk, ite_keeps, wf_ite, ite_self, implies_true, State.capSend_wf]
          clear_value x3
          simp +contextual only [HbmOk, implies_true, h3, State.uploadClose_keeps]
        · rename_i y2_0 y2_1
          simp +contextual only [HbmOk, implies_true]
  clear_value x0
  intro x1
  have h1 : HbmOk s x1 := by simp +contextual only [x1, HbmOk, foldl_keeps, implies_true, h0, State.endXfer_keeps]
  clear_value x1
  simp +contextual only [HbmOk, implies_true, h1]
@[simp] theorem State.ringDone_wf (s : State) (c : Nat) (idx : Nat) (k : Nat) (data : Bytes) (err : Bool) : HbmOk s (State.ringDone s c idx k data err) := by
  unfold State.ringDone
  (repeat' split) <;> simp +contextual only [HbmOk, implies_true, State.modDesc_keeps, State.endDesc_keeps, State.moved_keeps, State.bytes_keeps, State.hostPut_keeps]
@[simp] theorem State.abortStream_wf (s : State) (client : Nat) (inst : Nat) (va : Nat) : HbmOk s (State.abortStream s client inst va) := by
  unfold State.abortStream
  (repeat' split) <;> simp +contextual only [HbmOk, implies_true, State.endXfer_keeps, State.abortRing_keeps, State.abortHouse_keeps, State.abortMxeLoad_keeps, State.mxeFault_keeps, State.abortTreLoad_keeps, State.treFault_keeps, State.abortCorLoad_keeps, State.coreXltAbort_keeps, State.abortSnap_keeps, State.capAborted_wf, State.htpLost_keeps, State.hpaLost_keeps]
@[simp] theorem State.resumeStream_wf (s : State) (client : Nat) (inst : Nat) : HbmOk s (State.resumeStream s client inst) := by
  unfold State.resumeStream
  lift_lets
  intro x0
  clear_value x0
  intro x1
  have h1 : HbmOk s x1 := by simp +contextual only [x1, HbmOk, implies_true, State.setChan_keeps]
  clear_value x1
  split
  · rename_i y2_0
    split
    · rename_i y3_0 y3_1 y3_2
      simp +contextual only [HbmOk, implies_true, h1, State.modDesc_keeps]
    · rename_i y3_0 y3_1
      simp +contextual only [HbmOk, implies_true, h1]
  · rename_i y2_0
    simp +contextual only [HbmOk, implies_true, State.setChan_keeps]
  · rename_i y2_0
    simp +contextual only [HbmOk, implies_true, State.ringFlush_wf, State.modXfer_keeps]
  · rename_i y2_0 y2_1 y2_2 y2_3
    simp +contextual only [HbmOk, implies_true, State.modXfer_keeps]
@[simp] theorem xltRespond_wf (d : Sys2Proof.Word) (s : State) : HbmOk s (xltRespond d s) := by
  unfold xltRespond
  lift_lets
  intro x0
  clear_value x0
  intro x1
  clear_value x1
  intro x2
  have h2 : ∀ a0 a1, HbmOk a0 (x2 a0 a1) := by intro a0 a1; simp +contextual only [x2, HbmOk, implies_true, State.setFld_keeps]
  clear_value x2
  split
  · rename_i y3_0
    lift_lets
    intro x4
    have h4 : HbmOk s x4 := by simp +contextual only [x4, HbmOk, implies_true, h2, State.fqDrop_keeps]
    clear_value x4
    simp +contextual only [HbmOk, implies_true, h2]
  · rename_i y3_0
    lift_lets
    intro x4
    have h4 : HbmOk s x4 := by simp +contextual only [x4, HbmOk, implies_true, h2, State.fqDrop_keeps]
    clear_value x4
    split
    · rename_i y5_0 y5_1
      simp +contextual only [HbmOk, implies_true, h2]
    · rename_i y5_0 y5_1 y5_2
      simp +contextual only [HbmOk, ite_keeps, wf_ite, ite_self, implies_true, h4, State.resumeStream_wf, State.bump_keeps, State.abortStream_wf]
@[simp] theorem xltFaultTimeout_wf (token : Nat) (s : State) : HbmOk s (xltFaultTimeout token s) := by
  unfold xltFaultTimeout
  (repeat' split) <;> simp +contextual only [HbmOk, implies_true, State.fqDrop_keeps, State.reach_keeps, State.abortStream_wf, State.fault_keeps, State.bump_keeps]
@[simp] theorem segmentDone_wf (x : Sys2Proof.Strm) (idx : Nat) (k : Nat) (data : Bytes) (err : Bool) (s : State) : HbmOk s (segmentDone x idx k data err s) := by
  unfold segmentDone
  (repeat' split) <;> simp +contextual only [HbmOk, ite_keeps, ite_self, implies_true, State.ringDone_wf, State.unitDone_keeps, State.imageGrow_keeps, State.xferDone_keeps]
@[simp] theorem xltReset_wf (s : State) : HbmOk s (xltReset s) := by
  simp +contextual only [xltReset, HbmOk, foldl_wf1, implies_true, State.abortStream_wf]
@[simp] theorem pmpReset_wf (s : State) : HbmOk s (pmpReset s) := by
  simp +contextual only [pmpReset, HbmOk, foldl_wf1, implies_true, State.abortStream_wf, pmpRingReset_keeps]
@[simp] theorem State.colSend_wf (s : State) (etype : Nat) (mac : Nat) (payload : Bytes) : HbmOk s (State.colSend s etype mac payload) := by
  unfold State.colSend
  lift_lets
  intro x0
  clear_value x0
  intro x1
  clear_value x1
  split
  · rename_i y2_0
    simp +contextual only [HbmOk, implies_true]
  · rename_i y2_0 y2_1 y2_2
    simp +contextual only [HbmOk, implies_true, State.putDrr_wf]
@[simp] theorem State.colSendAll_wf (s : State) (etype : Nat) (mac : Nat) (ps : List Bytes) : HbmOk s (State.colSendAll s etype mac ps) := by
  simp +contextual only [State.colSendAll, HbmOk, foldl_wf1, implies_true, State.colSend_wf]
@[simp] theorem State.colPlace_wf (s : State) (e : ColGrp) (r : ColRun) (src frag : Nat) (d : Bytes) : HbmOk s (s.colPlace e r src frag d) := by
  intro k
  unfold State.colPlace
  exact Mem.wf_write _ _ _ k
@[simp] theorem State.colBytes_wf (s : State) (e : ColGrp) (r : ColRun) (complete : Bool) : HbmOk s (State.colBytes s e r complete) := by
  intro k
  unfold State.colBytes
  split
  · split
    · exact Mem.wf_write _ _ _ k
    · exact k
  · exact Mem.wf_write _ _ _ k
@[simp] theorem State.colClose_wf (s : State) (g : Nat) (e : ColGrp) (r : ColRun) (status : Nat) (named : Nat) (tell : Bool) : HbmOk s (State.colClose s g e r status named tell) := by
  simp +contextual only [State.colClose, HbmOk, ite_keeps, foldl_wf1, wf_ite, ite_self, implies_true, State.setColRun_keeps, State.setColGrp_keeps, State.setReg_keeps, State.pendBit_keeps, State.colFault_keeps, State.bump_keeps, State.colSend_wf]
@[simp] theorem State.colEnd_wf (s : State) (g : Nat) (e : ColGrp) (r : ColRun) (status : Nat) (named : Nat) (tell : Bool) : HbmOk s (State.colEnd s g e r status named tell) := by
  simp +contextual only [State.colEnd, HbmOk, ite_keeps, wf_ite, ite_self, implies_true, State.colBytes_wf, State.colSlowest_keeps, State.colClose_wf]

end Sys2Proof.Machine
end

