-- ==== Sys2Proof/Laws/Canonical2.lean ====
section
/-! SUPPORT. The functions that write HBM keep its canonical form, continued. -/

namespace Sys2Proof.Machine

@[simp] theorem State.colKeep_wf (s : State) (r : ColRun) (e : ColGrp) (t : Nat) (d : Nat) (frags : List Bytes) : HbmOk s (State.colKeep s r e t d frags).1 := by
  simp +contextual only [State.colKeep, HbmOk, implies_true, State.colSendAll_wf]
@[simp] theorem State.colEnter_wf (s : State) (g : Nat) (e : ColGrp) (r : ColRun) (t : Nat) : HbmOk s (State.colEnter s g e r t) := by
  simp +contextual only [State.colEnter, HbmOk, ite_keeps, foldl_wf2, ite_self, implies_true, State.colKeep_wf, State.bytes_keeps, State.setColRun_keeps]
@[simp] theorem State.colSigsDone_wf (s : State) (g : Nat) (e : ColGrp) (r : ColRun) : HbmOk s (s.colSigsDone g e r).1 := by
  intro k
  have hp : ∀ (r : ColRun) (x : Nat) (m : SMap Bytes) (t : State), Mem.wf t.hbm = true →
      Mem.wf (m.foldl (fun (s : State) (y : Nat × Bytes) => s.colPlace e r x y.1 y.2) t).hbm = true := by
    intro r x m
    induction m with
    | nil => exact fun _ h => h
    | cons y m ih => exact fun t h => ih _ (State.colPlace_wf _ _ _ _ _ _ h)
  have hq : ∀ (r : ColRun) (l : SMap (SMap Bytes)) (t : State), Mem.wf t.hbm = true →
      Mem.wf (l.foldl (fun (s : State) (x : Nat × SMap Bytes) =>
          x.2.foldl (fun (s : State) (y : Nat × Bytes) => s.colPlace e r (x.1 % 4096) y.1 y.2) s) t).hbm = true := by
    intro r l
    induction l with
    | nil => exact fun _ h => h
    | cons y m ih => exact fun t h => ih _ (hp _ _ _ _ h)
  unfold State.colSigsDone
  extract_lets wait idx c s1 r1 sigs ref cc own s2 s3 s4
  have h1 : Mem.wf s1.hbm = true := Keeps.hbm ((State.setColSlow_keeps ..).trans (State.setReg_keeps ..)) k
  have h2 : Mem.wf s2.hbm = true := Keeps.hbm ((State.bytes_keeps ..).trans (State.bytes_keeps ..)) h1
  have h3 : Mem.wf s3.hbm = true := Mem.wf_write _ _ _ (Mem.wf_write _ _ _ h2)
  have h4 : Mem.wf s4.hbm = true := hq _ _ _ h3
  clear_value s4 s3 s2 s1 r1 sigs ref
  split
  · exact State.colEnd_wf _ _ _ _ _ _ _ h1
  · split
    · exact Keeps.hbm (State.setColRun_keeps ..) h1
    · split
      · exact State.colEnd_wf _ _ _ _ _ _ _ h1
      · exact Keeps.hbm (State.setColRun_keeps ..) h4
@[simp] theorem State.colGo_wf (s : State) (g : Nat) (ecc : Bool) (n : Nat) : HbmOk s (s.colGo g ecc n) := by
  induction n generalizing s with
  | zero => exact fun k => k
  | succ n ih =>
    intro k
    unfold State.colGo
    split
    · rename_i e r _ _
      split
      · exact k
      · split
        · exact k
        · have hx : Mem.wf (if r.step = 0 then s.colSigsDone g e r else (s, true)).1.hbm = true := by
            split
            · apply State.colSigsDone_wf; exact k
            · exact k
          revert hx
          generalize (if r.step = 0 then s.colSigsDone g e r else (s, true)) = x
          obtain ⟨t, on⟩ := x
          intro hx
          dsimp only at hx ⊢
          split
          · rename_i r _
            split
            · apply State.colEnd_wf; exact hx
            · generalize (ite (r.step ≠ 0 ∧ e.op = 3) (r.reduceStep e r.step) r) = r'
              split
              · split
                · simp [hx]
                · apply State.colEnd_wf; exact hx
              · apply ih
                apply State.colEnter_wf
                exact hx
          · exact hx
    · exact k
theorem colSends_canon (e : ColGrp) (a b : Nat) (l : List (Nat × Bytes × Nat)) (p : State) (k : Mem.wf p.hbm = true) :
    Mem.wf (l.foldl (fun (s : State) x => s.colSend a (s.colMac e x.1) (colAck e b x.1 0)) p).hbm = true := by
  induction l generalizing p with
  | nil => exact k
  | cons y m ih => exact ih _ (by apply State.colSend_wf; exact k)
theorem colKeeps_canon (e : ColGrp) (sig : Bytes) (l : List Nat) (p : State × ColRun) (k : Mem.wf p.1.hbm = true) :
    Mem.wf (l.foldl (fun (p : State × ColRun) d =>
      p.1.colKeep p.2 e 0 d [colSig e p.2.seq d sig (if e.op = 2 then p.2.counts.getD d 0 else 0)]) p).1.hbm = true := by
  induction l generalizing p with
  | nil => exact k
  | cons y m ih => exact ih _ (by apply State.colKeep_wf; exact k)
@[simp] theorem State.colStart_wf (s : State) (g : Nat) (e : ColGrp) (ecc : Bool) : HbmOk s (s.colStart g e ecc) := by
  intro k
  unfold State.colStart
  extract_lets t fields ds base sendAt err0 built err s1 counts sig held r s2 x3 s3 e' x4 y4 s4
  have h1 : Mem.wf s1.hbm = true := by
    unfold s1; clear_value built
    split
    · exact Mem.wf_write _ _ _ k
    · exact k
  have h2 : Mem.wf s2.hbm = true := ite_hbm (State.bytes_keeps ..).hbm (ite_hbm (State.bytes_keeps ..).hbm fun k => k) h1
  have h3 : Mem.wf s3.hbm = true := by
    unfold s3
    split
    · exact Mem.wf_write _ _ _ h2
    · exact h2
  have h4 : Mem.wf s4.hbm = true := (State.setColGrp_keeps s3 g e').hbm h3
  clear_value s4 y4 x4 s3 x3 s2 s1 r
  split
  · exact State.colEnd_wf _ _ _ _ _ _ _ ((State.setColRun_keeps ..).hbm h4)
  · refine State.colGo_wf _ _ _ _ (colSends_canon _ _ _ _ _ ((State.setColRun_keeps ..).hbm (colKeeps_canon _ _ _ _ h4)))
@[simp] theorem colStartWrite_wf (d : Sys2Proof.Word) (ecc : Bool) (s : State) : HbmOk s (colStartWrite d ecc s) := by
  unfold colStartWrite
  lift_lets
  intro x0
  clear_value x0
  split
  · rename_i y1_0 y1_1 y1_2
    simp +contextual only [HbmOk, ite_keeps, wf_ite, ite_self, implies_true, State.pgErr_keeps, State.colStart_wf]
  · rename_i y1_0 y1_1
    simp +contextual only [HbmOk, implies_true, State.pgErr_keeps]
@[simp] theorem colAbortWrite_wf (d : Sys2Proof.Word) (s : State) : HbmOk s (colAbortWrite d s) := by
  unfold colAbortWrite
  lift_lets
  intro x0
  clear_value x0
  intro x1
  have h1 : ∀ a0 a1, HbmOk a0 (x1 a0 a1) := by intro a0 a1; simp +contextual only [x1, HbmOk, implies_true]
  clear_value x1
  split
  · rename_i y2_0 y2_1 y2_2
    simp +contextual only [HbmOk, implies_true, h1]
  · rename_i y2_0 y2_1 y2_2 y2_3 y2_4
    simp +contextual only [HbmOk, implies_true, h1]
  · rename_i y2_0 y2_1 y2_2 y2_3 y2_4 y2_5
    simp +contextual only [HbmOk, implies_true, h1, State.colEnd_wf]
@[simp] theorem State.colAckTo_wf (s : State) (e : ColGrp) (r : ColRun) (src : Nat) (step : Nat) : HbmOk s (State.colAckTo s e r src step) := by
  simp +contextual only [State.colAckTo, HbmOk, implies_true, State.colSend_wf]
@[simp] theorem State.colSigIn_wf (s : State) (g : Nat) (e : ColGrp) (r : ColRun) (src : Nat) (sig : Bytes) (count : Nat) (ecc : Bool) :
    HbmOk s (s.colSigIn g e r src sig count ecc) := by
  intro k
  unfold State.colSigIn
  split
  · simp [k]
  · split
    · exact k
    · dsimp only
      apply State.colGo_wf
      simp [k]
@[simp] theorem State.colDataIn_wf (s : State) (g : Nat) (e : ColGrp) (r : ColRun) (m : Bytes) (ecc : Bool) : HbmOk s (s.colDataIn g e r m ecc) := by
  intro k
  unfold State.colDataIn
  dsimp only
  split
  · split <;> simp [k]
  split
  · simp [k]
  split
  · exact k
  apply State.colGo_wf
  have h : ∀ (c : Bool) (q : ColRun) (a b : Nat) (t : State), Mem.wf t.hbm = true → Mem.wf (if c then (t.setColRun g q).colAckTo e q a b else t.setColRun g q).hbm = true := by
    intro c q a b t h
    split <;> simp [h]
  apply h
  split
  · apply State.colPlace_wf; exact k
  · exact k
@[simp] theorem State.colAckIn_wf (s : State) (g : Nat) (r : ColRun) (step : Nat) (src : Nat) (ecc : Bool) : HbmOk s (State.colAckIn s g r step src ecc) := by
  unfold State.colAckIn
  dsimp only
  split
  · exact (Keeps.refl s).hbm
  · exact (State.setColRun_keeps ..).hbm.trans (fun k => by apply State.colGo_wf; exact k)
@[simp] theorem State.colFrame_wf (s : State) (f : Bytes) (ecc : Bool) : HbmOk s (s.colFrame f ecc) := by
  unfold State.colFrame
  extract_lets h m job tag step src
  refine ite_hbm (Keeps.hbm (by simp only [Keeps, State.bump_keeps, State.fault_keeps, and_self])) ?_
  split
  · exact ite_hbm (State.bump_keeps ..).hbm (State.bump_keeps ..).hbm
  · refine ite_hbm (Keeps.hbm (by simp only [Keeps, State.bump_keeps, State.fault_keeps, and_self])) ?_
    dsimp only
    generalize s.col.runs.get? _ = run
    refine ite_hbm (State.bump_keeps ..).hbm (ite_hbm (State.bump_keeps ..).hbm (ite_hbm (ite_hbm (fun k => k) (ite_hbm (State.bump_keeps ..).hbm (fun k => k))) ?_))
    split
    · exact fun k => k
    · refine ite_hbm (fun k => k) (ite_hbm (fun k => by apply State.colSigIn_wf; exact k) (ite_hbm (fun k => by apply State.colDataIn_wf; exact k) (ite_hbm (fun k => by apply State.colAckIn_wf; exact k) (ite_hbm (fun k => k) ?_))))
      exact HbmOk.trans (fun k => by apply State.colBytes_wf; exact k) (fun k => by apply State.colClose_wf; exact k)
@[simp] theorem colRx_wf (kind : Nat) (f : Bytes) (ecc : Bool) (s : State) : HbmOk s (colRx kind f ecc s) := by
  simp +contextual only [colRx, HbmOk, ite_keeps, wf_ite, ite_self, implies_true, State.colFrame_wf]
@[simp] theorem colRetx_wf (g : Nat) (s : State) : HbmOk s (colRetx g s) := by
  unfold colRetx
  (repeat' split) <;> simp +contextual only [HbmOk, foldl_wf1, implies_true, State.reach_keeps, State.colSendAll_wf, State.bump_keeps, State.setColRun_keeps]
@[simp] theorem State.colStall_wf (s : State) (g : Nat) (e : ColGrp) (r : ColRun) : HbmOk s (State.colStall s g e r) := by
  unfold State.colStall
  lift_lets
  intro x0
  clear_value x0
  split
  · rename_i y1_0 y1_1 y1_2
    simp +contextual only [HbmOk, implies_true, State.colEnd_wf]
  · rename_i y1_0 y1_1
    simp +contextual only [HbmOk, implies_true]
@[simp] theorem colRxTimeout_wf (g : Nat) (s : State) : HbmOk s (colRxTimeout g s) := by
  unfold colRxTimeout
  (repeat' split) <;> simp +contextual only [HbmOk, implies_true, State.colStall_wf, State.reach_keeps]
@[simp] theorem colTxTimeout_wf (g : Nat) (s : State) : HbmOk s (colTxTimeout g s) := by
  unfold colTxTimeout
  (repeat' split) <;> simp +contextual only [HbmOk, implies_true, State.colStall_wf, State.reach_keeps]
@[simp] theorem State.colDataErr_wf (s : State) (g : Nat) (e : ColGrp) (r : ColRun) : HbmOk s (State.colDataErr s g e r) := by
  simp +contextual only [State.colDataErr, HbmOk, implies_true, State.draw_keeps, State.colEnd_wf]
@[simp] theorem colEftApplyDone_wf (g : Nat) (ecc : Bool) (s : State) : HbmOk s (colEftApplyDone g ecc s) := by
  unfold colEftApplyDone
  (repeat' split) <;> simp +contextual only [HbmOk, ite_keeps, foldl_keeps, wf_ite, ite_self, implies_true, State.colEnd_wf, State.colApplyBlock_keeps, State.colDataErr_wf]
@[simp] theorem colReset_wf (s : State) : HbmOk s (colReset s) := by
  unfold colReset
  lift_lets
  intro x0
  have h0 : HbmOk s x0 := by
      unfold x0
      refine foldl_HbmOk ?_ fun t1 a1 => ?_
      · simp +contextual only [HbmOk, implies_true]
      · split
        · rename_i y2_0 y2_1 y2_2 y2_3 y2_4 y2_5
          simp +contextual only [HbmOk, implies_true, State.colEnd_wf]
        · rename_i y2_0 y2_1 y2_2
          simp +contextual only [HbmOk, implies_true]
  clear_value x0
  intro x1
  clear_value x1
  simp +contextual only [HbmOk, implies_true, h0]
@[simp] theorem State.mirrorConfig_wf (s : State) : HbmOk s (State.mirrorConfig s) := by
  simp +contextual only [State.mirrorConfig, HbmOk, implies_true, State.mirror_wf]
@[simp] theorem State.mirrorBoundary_wf (s : State) : HbmOk s (State.mirrorBoundary s) := by
  simp +contextual only [State.mirrorBoundary, HbmOk, implies_true, State.mirror_wf]
@[simp] theorem State.mirrorWhole_wf (s : State) : HbmOk s (State.mirrorWhole s) := by
  unfold State.mirrorWhole
  simp +contextual only [HbmOk]
  grind [State.mirror_wf]
@[simp] theorem State.setImg_wf (s : State) (c : Nat) (l : List Bytes) : HbmOk s (State.setImg s c l) := by
  intro k
  unfold State.setImg
  extract_lets n
  split
  · exact Mem.wf_write _ _ _ k
  · exact k
@[simp] theorem State.mirrorIn_wf (s : State) (b : BudFrame) : HbmOk s (State.mirrorIn s b) := by
  unfold State.mirrorIn
  (repeat' split) <;> simp +contextual only [HbmOk, ite_keeps, wf_ite, ite_self, implies_true, State.budFrame_wf, State.holdValid_keeps, State.setImg_wf, State.bump_keeps]
@[simp] theorem mirrorRx_wf (f : Bytes) (s : State) : HbmOk s (mirrorRx f s) := by
  simp +contextual only [mirrorRx, HbmOk, ite_keeps, wf_ite, ite_self, implies_true, State.mirrorIn_wf]
@[simp] theorem resyncRx_wf (f : Bytes) (s : State) : HbmOk s (resyncRx f s) := by
  simp +contextual only [resyncRx, HbmOk, ite_keeps, wf_ite, ite_self, implies_true, State.mirrorWhole_wf, State.setFld_keeps, State.bump_keeps]
@[simp] theorem budRestoreWrite_wf (d : Sys2Proof.Word) (s : State) : HbmOk s (budRestoreWrite d s) := by
  simp +contextual only [budRestoreWrite, HbmOk, ite_keeps, wf_ite, ite_self, implies_true, State.budFrame_wf, State.setRstate_keeps, State.setFld_keeps, State.bump_keeps]
@[simp] theorem State.restoreClass_wf (s : State) (dst : Nat) (cls : Nat) (l : List Bytes) : HbmOk s (State.restoreClass s dst cls l) := by
  unfold State.restoreClass
  lift_lets
  intro x0
  have h0 : HbmOk s x0 := by simp +contextual only [x0, HbmOk, foldl_wf1, implies_true, State.budFrame_wf]
  clear_value x0
  simp +contextual only [HbmOk, implies_true, h0, State.budFrame_wf]
@[simp] theorem restoreReqRx_wf (f : Bytes) (s : State) : HbmOk s (restoreReqRx f s) := by
  simp +contextual only [restoreReqRx, HbmOk, ite_keeps, foldl_wf1, wf_ite, ite_self, implies_true, State.restoreClass_wf, State.bytes_keeps]
@[simp] theorem State.mergeRestored_wf (s : State) : HbmOk s (State.mergeRestored s) := by
  unfold State.mergeRestored
  refine ite_hbm ?_ (Keeps.refl s).hbm
  dsimp only
  refine HbmOk.trans (t := { s with bud := _ }) (fun k => k) (foldl_HbmOk (fun k => k) fun t m => ?_)
  exact ite_hbm (Keeps.refl t).hbm (fun k => by apply State.recordTaken_wf; exact k)
@[simp] theorem State.restoreApply_wf (s : State) (cls : Nat) : HbmOk s (State.restoreApply s cls) := by
  simp +contextual only [State.restoreApply, HbmOk, ite_keeps, foldl_keeps, wf_ite, ite_self, implies_true, State.restoreConfig_keeps, eftWrite_keeps, State.mergeRestored_wf]
@[simp] theorem restoreEndRx_wf (f : Bytes) (s : State) : HbmOk s (restoreEndRx f s) := by
  simp +contextual only [restoreEndRx, HbmOk, ite_keeps, wf_ite, ite_self, implies_true, State.restoreFail_keeps, State.restoreApply_wf, State.setFld_keeps, State.setRstate_keeps]
@[simp] theorem State.budRx_wf (s : State) (f : Bytes) : HbmOk s (State.budRx s f) := by
  simp +contextual only [State.budRx, HbmOk, ite_keeps, wf_ite, ite_self, implies_true, mirrorAckRx_keeps, restoreDataRx_keeps, mirrorRx_wf, restoreReqRx_wf, restoreEndRx_wf, resyncRx_wf]
@[simp] theorem State.endWork_wf (s : State) (u : Sys2Proof.UnitKind) (i : Nat) : HbmOk s (State.endWork s u i) := by
  unfold State.endWork
  (repeat' split) <;> simp +contextual only [HbmOk, implies_true, mxeReset_keeps, treReset_keeps, corReset_keeps, colReset_wf, capReset_wf, xltReset_wf, pmpReset_wf, slkResetDown_keeps, hpaReset_keeps, welReset_keeps, smpReset_wf, eprReset_keeps, cmpReset_keeps, eftReset_keeps, stmReset_keeps, rdxReset_keeps, upsReset_keeps, budReset_keeps, htpReset_keeps, mgrReset_keeps]
@[simp] theorem State.resetUnit_wf (s : State) (u : Sys2Proof.UnitKind) (i : Nat) : HbmOk s (State.resetUnit s u i) := by
  simp +contextual only [State.resetUnit, HbmOk, implies_true, State.unstage_keeps, State.resetRegs_keeps, State.endWork_wf, State.setFld_keeps, State.setReg_keeps, State.afterReset_keeps]
@[simp] theorem State.resetPage_wf (s : State) (u : Sys2Proof.UnitKind) (i : Nat) : HbmOk s (State.resetPage s u i) := by
  simp +contextual only [State.resetPage, HbmOk, implies_true, State.setReg_keeps, State.resetUnit_wf]
@[simp] theorem State.functionReset_wf (s : State) : HbmOk s (State.functionReset s) := by
  simp +contextual only [State.functionReset, HbmOk, foldl_wf1, implies_true, State.disarm_keeps, State.emit_keeps, State.resetPage_wf, State.setReg_keeps, State.setFld_keeps]
@[simp] theorem State.commitPage_wf (s : State) (n : Nat) (u : Sys2Proof.UnitKind) (i : Nat) : HbmOk s (State.commitPage s n u i).1 := by
  unfold State.commitPage
  split
  · rename_i y0_0
    simp +contextual only [HbmOk, ite_keeps, ite_self, implies_true, State.gridCommit_keeps, State.smpRegrid_keeps]
  · rename_i y0_0
    simp +contextual only [HbmOk, implies_true, State.welApply_keeps, State.takeStaged_keeps]
  · rename_i y0_0
    simp +contextual only [HbmOk, ite_keeps, ite_self, implies_true, State.takeStaged_keeps, State.smpCommitOk_keeps, State.smpApply_keeps, State.smpRefuse_keeps, State.unstage_keeps]
  · rename_i y0_0
    simp +contextual only [HbmOk, ite_keeps, ite_self, implies_true, State.takeStaged_keeps, State.unstage_keeps, State.eprApply_keeps, State.eprRefuse_keeps]
  · rename_i y0_0
    simp +contextual only [HbmOk, implies_true, State.takeStaged_keeps, State.cmpApply_keeps]
  · rename_i y0_0
    simp +contextual only [HbmOk, implies_true, State.takeStaged_keeps, State.eftCommit_keeps]
  · rename_i y0_0
    simp +contextual only [HbmOk, implies_true, State.takeStaged_keeps, State.applyVid_keeps]
  · rename_i y0_0
    simp +contextual only [HbmOk, ite_keeps, wf_ite, ite_self, implies_true, State.takeStaged_keeps, State.unstage_keeps, State.mergeRestored_wf, State.rdxApply_keeps, State.rdxRefuse_keeps]
  · rename_i y0_0
    simp +contextual only [HbmOk, implies_true, State.takeStaged_keeps, State.upsApply_keeps]
  · rename_i y0_0
    simp +contextual only [HbmOk, implies_true, State.takeStaged_keeps, State.stmCommit_wf]
  · rename_i y0_0 y0_1 y0_2 y0_3 y0_4 y0_5 y0_6 y0_7 y0_8 y0_9 y0_10
    simp +contextual only [HbmOk, implies_true, State.takeStaged_keeps]
@[simp] theorem State.commitDirect_wf (s : State) (u : Sys2Proof.UnitKind) (i : Nat) : HbmOk s (State.commitDirect s u i) := by
  unfold State.commitDirect
  lift_lets
  split
  · rename_i y0_0
    simp +contextual only [HbmOk, implies_true, State.gridTake_keeps]
  · rename_i y0_0
    simp +contextual only [HbmOk, implies_true, State.welDirect_keeps]
  · rename_i y0_0
    simp +contextual only [HbmOk, implies_true, State.smpDirect_keeps]
  · rename_i y0_0
    simp +contextual only [HbmOk, implies_true, State.eprDirect_keeps]
  · rename_i y0_0 y0_1 y0_2 y0_3 y0_4
    simp +contextual only [HbmOk, ite_keeps, wf_ite, ite_self, implies_true, State.commitPage_wf, State.bgAlone_keeps, State.mirrorConfig_wf]
@[simp] theorem State.commitPages_wf (s : State) (n : Nat) (lcm : Bool) : HbmOk s (s.commitPages n lcm).1 := by
  unfold State.commitPages
  intro k
  have h : ∀ (l : List (UnitKind × Nat)) (a : State × Nat), Mem.wf a.1.hbm = true → Mem.wf (l.foldl (fun (a : State × Nat) p =>
    ((a.1.commitPage n p.1 p.2).1, a.2 + b2n ((a.1.commitPage n p.1 p.2).2 && s.fld (Fd.PG_CTRL_COMMIT_MODE p.1) p.2 == 0))) a).1.hbm = true := by
    intro l
    induction l with
    | nil => exact fun _ h => h
    | cons x l ih => exact fun a h => ih _ (State.commitPage_wf _ _ _ _ h)
  dsimp only
  split
  · exact State.mirrorConfig_wf _ (h _ _ k)
  · exact h _ _ k
@[simp] theorem State.commitApply_wf (s : State) (n : Nat) : HbmOk s (State.commitApply s n) := by
  simp +contextual only [State.commitApply, HbmOk, ite_keeps, ite_self, implies_true, State.commitPages_wf, State.bump_keeps, State.setFld_keeps]
@[simp] theorem State.commitAt_wf (s : State) (old : Option Nat) (n : Nat) : HbmOk s (State.commitAt s old n) := by
  simp +contextual only [State.commitAt, HbmOk, ite_keeps, wf_ite, ite_self, implies_true, State.commitPages_wf, State.commitRefused_keeps, State.commitApply_wf, State.bgAlone_keeps]
@[simp] theorem State.boundaryEdge_wf (s : State) (old : Option Nat) (n : Nat) (others : BitVec 8) (step : Bool) : HbmOk s (State.boundaryEdge s old n others step) := by
  unfold State.boundaryEdge
  lift_lets
  intro x0
  have h0 : HbmOk s x0 := by simp +contextual only [x0, HbmOk, implies_true, State.eprCloseOpen_wf]
  clear_value x0
  split
  · rename_i y1_0 y1_1
    lift_lets
    intro x2
    have h2 : HbmOk s x2 := by simp +contextual only [x2, HbmOk, implies_true, h0, State.coresBoundary_keeps]
    clear_value x2
    split
    · rename_i y3_0
      lift_lets
      intro x4
      have h4 : HbmOk s x4 := by simp +contextual only [x4, HbmOk, implies_true, h2, State.enginesBoundary_keeps, State.pmuBoundary_keeps]
      clear_value x4
      simp +contextual only [HbmOk, ite_keeps, wf_ite, h4, State.rdxStepped_keeps, State.pkgBoundary_keeps, State.commitAt_wf, State.eftBoundary_keeps, State.decBoundary_keeps, State.setFld_keeps, State.gatesStart_keeps, State.smpStepped_keeps]
      split
      · rename_i y6_0
        grind [State.eprCloseOpen_wf, State.coresBoundary_keeps, State.enginesBoundary_keeps, State.pmuBoundary_keeps, State.rdxStepped_keeps, State.pkgBoundary_keeps, State.commitAt_wf, State.eftBoundary_keeps, State.decBoundary_keeps, State.setFld_keeps, State.gatesStart_keeps, State.mirrorBoundary_wf, State.smpStepped_keeps, State.rdxOpen_keeps, State.eprOpen_keeps]
      · rename_i y6_0
        simp +contextual only [implies_true]
    · rename_i y3_0
      lift_lets
      intro x4
      have h4 : HbmOk s x4 := by simp +contextual only [x4, HbmOk, implies_true, h2, State.enginesBoundary_keeps, State.pmuBoundary_keeps]
      clear_value x4
      simp +contextual only [HbmOk, ite_keeps, wf_ite, h4, State.pkgBoundary_keeps, State.commitAt_wf, State.eftBoundary_keeps, State.decBoundary_keeps, State.setFld_keeps, State.gatesStart_keeps, State.rdxOpen_keeps, State.eprOpen_keeps]
      split
      · rename_i y6_0
        grind [State.eprCloseOpen_wf, State.coresBoundary_keeps, State.enginesBoundary_keeps, State.pmuBoundary_keeps, State.rdxStepped_keeps, State.pkgBoundary_keeps, State.commitAt_wf, State.eftBoundary_keeps, State.decBoundary_keeps, State.setFld_keeps, State.gatesStart_keeps, State.mirrorBoundary_wf, State.smpStepped_keeps, State.rdxOpen_keeps, State.eprOpen_keeps]
      · rename_i y6_0
        simp +contextual only [implies_true]
  · rename_i y1_0
    lift_lets
    intro x2
    have h2 : HbmOk s x2 := by simp +contextual only [x2, HbmOk, implies_true, h0, State.coresBoundary_keeps]
    clear_value x2
    split
    · rename_i y3_0
      lift_lets
      intro x4
      have h4 : HbmOk s x4 := by simp +contextual only [x4, HbmOk, implies_true, h2]
      clear_value x4
      simp +contextual only [HbmOk, ite_keeps, wf_ite, h4, State.rdxStepped_keeps, State.pkgBoundary_keeps, State.commitAt_wf, State.eftBoundary_keeps, State.decBoundary_keeps, State.setFld_keeps, State.gatesStart_keeps, State.smpStepped_keeps]
      split
      · rename_i y6_0
        grind [State.eprCloseOpen_wf, State.coresBoundary_keeps, State.enginesBoundary_keeps, State.pmuBoundary_keeps, State.rdxStepped_keeps, State.pkgBoundary_keeps, State.commitAt_wf, State.eftBoundary_keeps, State.decBoundary_keeps, State.setFld_keeps, State.gatesStart_keeps, State.mirrorBoundary_wf, State.smpStepped_keeps, State.rdxOpen_keeps, State.eprOpen_keeps]
      · rename_i y6_0
        simp +contextual only [implies_true]
    · rename_i y3_0
      lift_lets
      intro x4
      have h4 : HbmOk s x4 := by simp +contextual only [x4, HbmOk, implies_true, h2]
      clear_value x4
      simp +contextual only [HbmOk, ite_keeps, wf_ite, h4, State.pkgBoundary_keeps, State.commitAt_wf, State.eftBoundary_keeps, State.decBoundary_keeps, State.setFld_keeps, State.gatesStart_keeps, State.rdxOpen_keeps, State.eprOpen_keeps]
      split
      · rename_i y6_0
        grind [State.eprCloseOpen_wf, State.coresBoundary_keeps, State.enginesBoundary_keeps, State.pmuBoundary_keeps, State.rdxStepped_keeps, State.pkgBoundary_keeps, State.commitAt_wf, State.eftBoundary_keeps, State.decBoundary_keeps, State.setFld_keeps, State.gatesStart_keeps, State.mirrorBoundary_wf, State.smpStepped_keeps, State.rdxOpen_keeps, State.eprOpen_keeps]
      · rename_i y6_0
        simp +contextual only [implies_true]
@[simp] theorem epochBoundary_wf (others : BitVec 8) (s : State) : HbmOk s (epochBoundary others s) := by
  simp +contextual only [epochBoundary, HbmOk, ite_keeps, wf_ite, ite_self, implies_true, State.reachTime_keeps, State.epochLimit_keeps, State.boundaryEdge_wf]
@[simp] theorem State.stepped_wf (s : State) (old : Option Nat) : HbmOk s (State.stepped s old) := by
  simp +contextual only [State.stepped, HbmOk, ite_keeps, wf_ite, ite_self, implies_true, State.markStepped_keeps, State.smpStepped_keeps, State.eprCloseOpen_wf, State.boundaryEdge_wf, State.epochLimit_keeps]
@[simp] theorem State.acceptJump_wf (s : State) : HbmOk s (State.acceptJump s) := by
  simp +contextual only [State.acceptJump, HbmOk, ite_keeps, wf_ite, ite_self, implies_true, State.event_keeps, State.tkpTo_keeps, State.noJump_keeps, State.slewStart_keeps, State.advance_keeps, State.stepped_wf, State.timeAdd_keeps]
@[simp] theorem tkpCtrlWrite_wf (d : Sys2Proof.Word) (s : State) : HbmOk s (tkpCtrlWrite d s) := by
  simp +contextual only [tkpCtrlWrite, HbmOk, ite_keeps, wf_ite, ite_self, implies_true, State.acceptJump_wf, State.reacquire_keeps]
@[simp] theorem State.wiped_wf (s : State) (hbm : Bool) : HbmOk s (s.wiped hbm) := by
  intro k
  unfold State.wiped
  dsimp only
  split
  · rfl
  · simp [k]
@[simp] theorem wipeDone_wf (s : State) : HbmOk s (wipeDone s) := by
  unfold wipeDone
  (repeat' split) <;> simp +contextual only [HbmOk, implies_true, State.lcChanged_keeps, State.memoriesWiped_keeps, State.wiped_wf, State.setFld_keeps]
@[simp] theorem State.startFunction_wf (s : State) (kind : Nat) (path : Nat) : HbmOk s (State.startFunction s kind path) := by
  simp +contextual only [State.startFunction, HbmOk, implies_true, State.setFld_keeps, State.functionReset_wf, State.resetRecord_keeps, State.bump_keeps]
@[simp] theorem recordTable_wf (u : Sys2Proof.UnitKind) (i : Nat) (t : Nat) (op : Nat) (k : Nat) (s : State) : HbmOk s (recordTable u i t op k s).st := by
  unfold recordTable
  split
  · rename_i y0_0 y0_1 y0_2
    simp +contextual only [HbmOk, implies_true, welSlotRead_keeps]
  · rename_i y0_0 y0_1 y0_2
    simp +contextual only [HbmOk, implies_true, welSlotWrite_keeps]
  · rename_i y0_0 y0_1 y0_2
    simp +contextual only [HbmOk, implies_true, welSlotRead_keeps]
  · rename_i y0_0 y0_1 y0_2
    simp +contextual only [HbmOk, implies_true, smpTblRead_keeps]
  · rename_i y0_0 y0_1 y0_2
    simp +contextual only [HbmOk, implies_true, smpTblWrite_keeps]
  · rename_i y0_0 y0_1 y0_2
    simp +contextual only [HbmOk, implies_true, smpTblRead_keeps]
  · rename_i y0_0 y0_1 y0_2
    simp +contextual only [HbmOk, implies_true, eprTblRead_keeps]
  · rename_i y0_0 y0_1 y0_2
    simp +contextual only [HbmOk, implies_true, eprTblWrite_keeps]
  · rename_i y0_0 y0_1 y0_2
    simp +contextual only [HbmOk, implies_true, eprTblRead_keeps]
  · rename_i y0_0 y0_1 y0_2
    simp +contextual only [HbmOk, implies_true, cmpTblRead_keeps]
  · rename_i y0_0 y0_1 y0_2
    simp +contextual only [HbmOk, implies_true, cmpTblWrite_keeps]
  · rename_i y0_0 y0_1 y0_2
    simp +contextual only [HbmOk, implies_true, cmpTblRead_keeps]
  · rename_i y0_0 y0_1 y0_2
    simp +contextual only [HbmOk, implies_true, appSend_keeps]
  · rename_i y0_0 y0_1 y0_2
    simp +contextual only [HbmOk, implies_true, appRxPop_keeps]
  · rename_i y0_0 y0_1 y0_2
    simp +contextual only [HbmOk, implies_true, rdxTblRead_keeps]
  · rename_i y0_0 y0_1 y0_2
    simp +contextual only [HbmOk, implies_true, rdxTblWrite_keeps]
  · rename_i y0_0 y0_1 y0_2
    simp +contextual only [HbmOk, implies_true, colGroupRead_keeps]
  · rename_i y0_0 y0_1 y0_2
    simp +contextual only [HbmOk, implies_true, colGroupWrite_keeps]
  · rename_i y0_0 y0_1 y0_2
    simp +contextual only [HbmOk, implies_true, colMemberRead_keeps]
  · rename_i y0_0 y0_1 y0_2
    simp +contextual only [HbmOk, implies_true, colMemberWrite_keeps]
  · rename_i y0_0 y0_1 y0_2
    simp +contextual only [HbmOk, implies_true, colSlowRead_keeps]
  · rename_i y0_0 y0_1 y0_2
    simp +contextual only [HbmOk, implies_true, upsQueueRead_keeps]
  · rename_i y0_0 y0_1 y0_2
    simp +contextual only [HbmOk, implies_true, upsQueueWrite_keeps]
  · rename_i y0_0 y0_1 y0_2
    simp +contextual only [HbmOk, implies_true, upsGateRead_keeps]
  · rename_i y0_0 y0_1 y0_2
    simp +contextual only [HbmOk, implies_true, upsGateWrite_keeps]
  · rename_i y0_0 y0_1 y0_2
    simp +contextual only [HbmOk, implies_true, upsRouteRead_keeps]
  · rename_i y0_0 y0_1 y0_2
    simp +contextual only [HbmOk, implies_true, upsRouteWrite_keeps]
  · rename_i y0_0 y0_1 y0_2
    simp +contextual [HbmOk, implies_true]
  · rename_i y0_0 y0_1 y0_2
    simp +contextual only [HbmOk, implies_true, swFramePop_keeps]
  · rename_i y0_0 y0_1 y0_2
    simp +contextual only [HbmOk, implies_true, policerRead_keeps]
  · rename_i y0_0 y0_1 y0_2
    simp +contextual only [HbmOk, implies_true, policerWrite_keeps]
  · rename_i y0_0 y0_1 y0_2
    simp +contextual only [HbmOk, implies_true, mgrRelayWrite_keeps]
  · rename_i y0_0 y0_1 y0_2
    simp +contextual only [HbmOk, implies_true, mgrRelayPop_keeps]
  · rename_i y0_0 y0_1 y0_2
    simp +contextual only [HbmOk, implies_true, jobRead_keeps]
  · rename_i y0_0 y0_1 y0_2
    simp +contextual only [HbmOk, implies_true, jobWrite_keeps]
  · rename_i y0_0 y0_1 y0_2
    simp +contextual only [HbmOk, implies_true, notifyPop_keeps]
  · rename_i y0_0 y0_1 y0_2
    simp +contextual only [HbmOk, implies_true, jobRead_keeps]
  · rename_i y0_0 y0_1 y0_2
    simp +contextual only [HbmOk, implies_true, rowTblRead_keeps]
  · rename_i y0_0 y0_1 y0_2
    simp +contextual only [HbmOk, implies_true, baseRead_keeps]
  · rename_i y0_0 y0_1 y0_2
    simp +contextual only [HbmOk, implies_true, baseWrite_keeps]
  · rename_i y0_0 y0_1 y0_2
    simp +contextual only [HbmOk, implies_true, baseReadActive_keeps]
  · rename_i y0_0 y0_1 y0_2 y0_3 y0_4 y0_5 y0_6 y0_7 y0_8 y0_9 y0_10 y0_11 y0_12 y0_13 y0_14 y0_15 y0_16 y0_17 y0_18 y0_19 y0_20 y0_21 y0_22 y0_23 y0_24 y0_25 y0_26 y0_27 y0_28 y0_29 y0_30 y0_31 y0_32 y0_33 y0_34 y0_35 y0_36 y0_37 y0_38 y0_39 y0_40 y0_41 y0_42 y0_43
    simp +contextual only [HbmOk, implies_true, State.win_keeps]
@[simp] theorem tableCmd_wf (u : Sys2Proof.UnitKind) (i : Nat) (priv : Nat) (t : Nat) (op : Nat) (k : Nat) (s : State) : HbmOk s (tableCmd u i priv t op k s).st := by
  unfold tableCmd
  (repeat' split) <;> simp +contextual only [HbmOk, implies_true, engineTable_keeps, infraTable_keeps, recordTable_wf]
@[simp] theorem tblCmdWrite_wf (u : Sys2Proof.UnitKind) (i : Nat) (priv : Nat) (d : Sys2Proof.Word) (s : State) : HbmOk s (tblCmdWrite u i priv d s).st := by
  simp +contextual only [tblCmdWrite, HbmOk, ite_keeps, wf_ite, ite_self, implies_true, State.winBlocked_keeps, State.okay_keeps, State.setReg_keeps, State.winRun_wf, tableCmd_wf]
@[simp] theorem State.ctrlWrite_wf (s : State) (u : Sys2Proof.UnitKind) (i : Nat) (d : Sys2Proof.Word) : HbmOk s (State.ctrlWrite s u i d) := by
  simp +contextual only [State.ctrlWrite, HbmOk, ite_keeps, wf_ite, ite_self, implies_true, State.pgErr_keeps, State.setFld_keeps, State.resetUnit_wf, State.enableWrite_keeps]
@[simp] theorem State.headerWrite_wf (s : State) (u : Sys2Proof.UnitKind) (i : Nat) (off : Nat) (priv : Nat) (d : Sys2Proof.Word) : HbmOk s (State.headerWrite s u i off priv d) := by
  simp +contextual only [State.headerWrite, HbmOk, ite_keeps, wf_ite, ite_self, implies_true, State.ctrlWrite_wf, State.errWrite_keeps, State.lockWrite_keeps, State.setReg_keeps]
@[simp] theorem State.plain_wf (s : State) (u : UnitKind) (i off al : Nat) (d : Word) : HbmOk s (s.plain u i off al d) :=
  State.plainWrite_wf fun t k => by apply State.commitDirect_wf; exact k
@[simp] theorem State.bankWrite_wf (s : State) (u : Sys2Proof.UnitKind) (d : Sys2Proof.Word) : HbmOk s (State.bankWrite s u d) := by
  unfold State.bankWrite
  (repeat' split) <;> simp +contextual only [HbmOk, implies_true, State.plain_wf]
@[simp] theorem State.hiddenWrite_wf (s : State) (u : UnitKind) : HbmOk s (s.hiddenWrite u) := by
  unfold State.hiddenWrite
  split
  · exact fun k => State.markBank_wf (fun t k => by apply State.commitDirect_wf; exact k) k
  · exact fun k => k
@[simp] theorem State.infraWrite_wf (s : State) (p : Sys2Proof.Path) (u : Sys2Proof.UnitKind) (i : Nat) (off : Nat) (al : Nat) (d : Sys2Proof.Word) : HbmOk s (State.infraWrite s p u i off al d) := by
  unfold State.infraWrite
  (repeat' split) <;> simp +contextual only [HbmOk, implies_true, State.nodeWrite_keeps, lcmCommitWrite_keeps, lcmCtrlWrite_keeps, lcmCmdWrite_keeps, State.plain_wf, swVoteWrite_keeps, pwrCtrlWrite_keeps, tkpCtrlWrite_wf, ircPendWrite_keeps, ircComplete_keeps, fltAck_keeps, fltInjectWrite_keeps, fltCtrlWrite_keeps, evrRdWrite_keeps, State.level_keeps, pmuCtrlWrite_keeps, pmuReplayWrite_keeps, State.scrRunEn_keeps, scrCtrlWrite_keeps, scrRestoreWrite_keeps]
@[simp] theorem State.wdogWrite_wf (s : State) (d : Sys2Proof.Word) : HbmOk s (State.wdogWrite s d) := by
  simp +contextual only [State.wdogWrite, HbmOk, ite_keeps, foldl_keeps, ite_self, implies_true, State.plain_wf, State.setCore_keeps]
@[simp] theorem State.engineWrite_wf (s : State) (u : Sys2Proof.UnitKind) (i : Nat) (off : Nat) (al : Nat) (d : Sys2Proof.Word) : HbmOk s (State.engineWrite s u i off al d) := by
  unfold State.engineWrite
  (repeat' split) <;> simp +contextual only [HbmOk, implies_true, xltRespond_wf, xltInvWrite_keeps, State.plain_wf, pmpChEnWrite_keeps, pmpRestartWrite_keeps, pmpAbortWrite_keeps, corSharedWrite_keeps, corRunWrite_keeps, State.wdogWrite_wf, mxeLaunchWrite_keeps, mxeAbortWrite_keeps, treLaunchWrite_keeps, treAbortWrite_keeps, capTrigWrite_keeps, capCtrlWrite_wf, htpCtrlWrite_keeps, State.htpSources_keeps]
@[simp] theorem State.flowWrite_wf (s : State) (u : Sys2Proof.UnitKind) (i : Nat) (off : Nat) (al : Nat) (d : Sys2Proof.Word) : HbmOk s (State.flowWrite s u i off al d) := by
  unfold State.flowWrite
  (repeat' split) <;> simp +contextual only [HbmOk, ite_keeps, ite_self, implies_true, outCfgWrite_keeps, keyReqWrite_keeps, State.plain_wf, smpPlanWrite_keeps, smpValidate_keeps, springCmd_keeps, eprCfgWrite_keeps, slkCtrlWrite_keeps, State.rateTarget_keeps, upCtrlWrite_keeps, State.bankWrite_wf, rdxResendWrite_keeps, stepMark_keeps, colStartWrite_wf, colAbortWrite_wf, State.mirrorEnable_keeps, budRestoreWrite_wf]
@[simp] theorem State.unitWrite_wf (s : State) (p : Sys2Proof.Path) (u : Sys2Proof.UnitKind) (i : Nat) (off : Nat) (al : Nat) (d : Sys2Proof.Word) : HbmOk s (State.unitWrite s p u i off al d) := by
  unfold State.unitWrite
  (repeat' split) <;> simp +contextual only [HbmOk, implies_true, State.hiddenWrite_wf, State.infraWrite_wf, State.engineWrite_wf, State.flowWrite_wf]
@[simp] theorem State.writeEff_wf (s : State) (p : Sys2Proof.Path) (priv : Nat) (u : Sys2Proof.UnitKind) (i : Nat) (off : Nat) (al : Nat) (at_ : Nat) (d : Sys2Proof.Word) : HbmOk s (State.writeEff s p priv u i off al at_ d).st := by
  simp +contextual only [State.writeEff, HbmOk, ite_keeps, wf_ite, ite_self, implies_true, tblCmdWrite_wf, State.winBlocked_keeps, State.okay_keeps, State.setReg_keeps, State.headerWrite_wf, State.unitWrite_wf]
@[simp] theorem State.accessEff_wf (s : State) (a : Sys2Proof.Access) (u : Sys2Proof.UnitKind) (i : Nat) : HbmOk s (State.accessEff s a u i).st := by
  simp +contextual only [State.accessEff, HbmOk, ite_keeps, wf_ite, ite_self, implies_true, State.writeEff_wf, State.readEff_keeps]
@[simp] theorem State.access_wf (s : State) (a : Access) : HbmOk s (s.access a) := by
  unfold State.access
  split
  · exact State.gate_wf fun t k => by apply State.accessEff_wf; exact k
  · exact fun k => by split <;> simp [k]
@[simp] theorem State.serveOne_wf (s : State) (w : Sys2Proof.Access × Nat) : HbmOk s (State.serveOne s w) := by
  simp +contextual only [State.serveOne, HbmOk, ite_keeps, wf_ite, ite_self, implies_true, State.access_wf, State.settle_keeps, State.emitReply_keeps]
@[simp] theorem State.serve_wf (s : State) : HbmOk s (State.serve s) := by
  simp +contextual only [State.serve, HbmOk, foldl_wf1, implies_true, State.serveOne_wf]
@[simp] theorem State.endReset_wf (s : State) (u : Sys2Proof.UnitKind) (i : Nat) : HbmOk s (State.endReset s u i) := by
  simp +contextual only [State.endReset, HbmOk, implies_true, State.serve_wf]
@[simp] theorem unitResetDone_wf (u : Sys2Proof.UnitKind) (i : Nat) (s : State) : HbmOk s (unitResetDone u i s) := by
  simp +contextual only [unitResetDone, HbmOk, ite_keeps, wf_ite, ite_self, implies_true, State.endReset_wf]
@[simp] theorem portTimeout_wf (s : State) : HbmOk s (portTimeout s) := by
  unfold portTimeout
  (repeat' split) <;> simp +contextual only [HbmOk, implies_true, State.reach_keeps, State.violation_keeps, State.serve_wf, State.emitReply_keeps, State.answer_keeps, State.fault_keeps]
@[simp] theorem State.accessNow_wf (s : State) (a : Sys2Proof.Access) : HbmOk s (State.accessNow s a) := by
  unfold State.accessNow
  (repeat' split) <;> simp +contextual only [HbmOk, ite_keeps, wf_ite, ite_self, implies_true, State.access_wf, State.endReset_wf, State.reach_keeps, State.violation_keeps, State.answer_keeps, State.fault_keeps]
@[simp] theorem State.coreReg_wf (s : State) (c : Nat) (pc : BitVec 32) (off : BitVec 22) (write : Bool) (d : Sys2Proof.Word) : HbmOk s (State.coreReg s c pc off write d) := by
  unfold State.coreReg
  lift_lets
  intro x0
  clear_value x0
  intro x1
  have h1 : HbmOk s x1 := by simp +contextual only [x1, HbmOk, implies_true, State.accessNow_wf]
  clear_value x1
  split
  · rename_i y2_0 y2_1
    lift_lets
    intro x3
    clear_value x3
    intro x4
    clear_value x4
    simp +contextual only [HbmOk, implies_true, h1]
  · rename_i y2_0 y2_1 y2_2
    lift_lets
    intro x3
    clear_value x3
    intro x4
    clear_value x4
    intro x5
    have h5 : HbmOk s x5 := by simp +contextual only [x5, HbmOk, implies_true, h1, State.setCore_keeps]
    clear_value x5
    simp +contextual only [HbmOk, ite_keeps, ite_self, implies_true, h5, State.setCore_keeps, State.coreTrap_keeps, State.coreDone_keeps]
@[simp] theorem State.coreWindow_wf (s : State) (c : Nat) (pc : BitVec 32) (off : BitVec 22) (write : Bool) (data : BitVec 32) : HbmOk s (State.coreWindow s c pc off write data) := by
  simp +contextual only [State.coreWindow, HbmOk, ite_keeps, wf_ite, ite_self, implies_true, State.coreDone_keeps, State.setCore_keeps, State.coreReg_wf]
@[simp] theorem coreRegAccess_wf (c : Nat) (pc : BitVec 32) (addr : BitVec 32) (op : Sys2Proof.CoreOp) (data : BitVec 32) (ecc : Bool) (s : State) : HbmOk s (coreRegAccess c pc addr op data ecc s) := by
  unfold coreRegAccess
  (repeat' split) <;> simp +contextual only [HbmOk, implies_true, State.coreTrap_keeps, State.coreLocal_keeps, State.coreWindow_wf, State.coreUncorr_keeps, State.coreDone_keeps, State.coreData_wf]
@[simp] theorem State.mgmtRun_wf (s : State) (e : Sys2Proof.MgmtEntry) : HbmOk s (State.mgmtRun s e).1 := by
  simp +contextual only [State.mgmtRun, HbmOk, implies_true, State.settle_keeps, State.accessNow_wf]
@[simp] theorem State.mgmtOne_wf (a : State × List MgmtReply) (e : MgmtEntry) : HbmOk a.1 (State.mgmtOne a e).1 := by
  unfold State.mgmtOne
  lift_lets
  intro x0
  have h0 : HbmOk a.fst x0 := by simp +contextual only [x0, HbmOk, implies_true]
  clear_value x0
  split
  · rename_i y1_0
    simp +contextual only [HbmOk, implies_true, h0, State.slkViol_keeps]
  · rename_i y1_0
    split
    · rename_i y2_0 y2_1 y2_2
      simp +contextual only [HbmOk, implies_true, h0]
    · rename_i y2_0 y2_1
      simp +contextual only [HbmOk, implies_true, h0, State.mgmtRun_wf]
@[simp] theorem State.mgmtExec_wf (s : State) (es : List Sys2Proof.MgmtEntry) : HbmOk s (State.mgmtExec s es) := by
  simp +contextual only [State.mgmtExec, HbmOk, ite_keeps, foldl_wf2, ite_self, implies_true, State.mgmtOne_wf, State.sendFlit_keeps]
@[simp] theorem mgmtReqExec_wf (es : List Sys2Proof.MgmtEntry) (s : State) : HbmOk s (mgmtReqExec es s) := by
  simp +contextual only [mgmtReqExec, HbmOk, ite_keeps, wf_ite, ite_self, implies_true, State.mgmtExec_wf, State.takeFlit_keeps]
@[simp] theorem State.mgmtIn_wf (s : State) (f : Flit) : HbmOk s (s.mgmtIn f) := by
  intro k
  unfold State.mgmtIn
  lift_lets
  intro a b
  clear_value a b
  dsimp only
  apply State.mgmtExec_wf
  rw [(violFold s _ f.ftype f.vc f.seq).2.2.2]
  exact k
@[simp] theorem State.ownOne_wf (a : State × List MgmtReply) (e : MgmtEntry) : HbmOk a.1 (State.ownOne a e).1 := by
  unfold State.ownOne
  lift_lets
  intro x0
  have h0 : HbmOk a.fst x0 := by simp +contextual only [x0, HbmOk, implies_true]
  clear_value x0
  split
  · rename_i y1_0 y1_1 y1_2
    simp +contextual only [HbmOk, implies_true, h0]
  · rename_i y1_0 y1_1
    simp +contextual only [HbmOk, implies_true, h0, State.mgmtRun_wf]
@[simp] theorem State.ownExec_wf (s : State) (es : List Sys2Proof.MgmtEntry) : HbmOk s (State.ownExec s es) := by
  simp +contextual only [State.ownExec, HbmOk, ite_keeps, foldl_wf2, wf_ite, ite_self, implies_true, State.bump_keeps, State.ownOne_wf, State.mgrReplyFrame_keeps]
@[simp] theorem State.mgrServe_wf (s : State) (ok : List (Nat × Sys2Proof.MgmtEntry)) : HbmOk s (State.mgrServe s ok) := by
  simp +contextual only [State.mgrServe, HbmOk, ite_keeps, foldl_keeps, ite_self, implies_true, State.relay_keeps, State.ownExec_wf]
@[simp] theorem State.mgrFrame_wf (s : State) (p : Nat) (src : Nat) (m : Bytes) : HbmOk s (State.mgrFrame s p src m) := by
  simp +contextual only [State.mgrFrame, HbmOk, ite_keeps, foldl_keeps, wf_ite, ite_self, implies_true, State.mgrRefuse_keeps, State.mgrServe_wf]
@[simp] theorem mgrReqRx_wf (p : Nat) (f : Bytes) (s : State) : HbmOk s (mgrReqRx p f s) := by
  simp +contextual only [mgrReqRx, HbmOk, ite_keeps, wf_ite, ite_self, implies_true, State.mgrFrame_wf]
@[simp] theorem State.flitTaken_wf (s : State) (w : Nat) (f : Flit) (sub : Nat) (again : Bool) : HbmOk s (State.flitTaken s w f sub again) := by
  unfold State.flitTaken
  simp +contextual [HbmOk, ite_keeps, wf_ite, ite_self, implies_true]
@[simp] theorem State.sequenced_wf (s : State) (w : Nat) (f : Flit) (len : Nat) (sub : Nat) : HbmOk s (State.sequenced s w f len sub) := by
  unfold State.sequenced
  lift_lets
  intro x0
  clear_value x0
  intro x1
  have h1 : ∀ a0 a1, HbmOk a0 (x1 a0 a1) := by intro a0 a1; simp +contextual only [x1, HbmOk, implies_true, State.slkViol_keeps]
  clear_value x1
  split
  · rename_i y2_0
    lift_lets
    intro x3
    have h3 : ∀ a0, HbmOk a0 (x3 a0) := by intro a0; simp +contextual only [x3, HbmOk, implies_true, State.modLane_keeps]
    clear_value x3
    simp +contextual only [HbmOk, ite_keeps, wf_ite, ite_self, implies_true, h3, h1, State.modLane_keeps, State.gap_keeps, State.resync_keeps, State.takeFlit_keeps, State.dropFlit_keeps, State.flitTaken_wf]
  · rename_i y2_0
    lift_lets
    intro x3
    have h3 : ∀ a0, HbmOk a0 (x3 a0) := by intro a0; simp +contextual only [x3, HbmOk, implies_true, State.modLane_keeps]
    clear_value x3
    simp +contextual only [HbmOk, ite_keeps, wf_ite, ite_self, implies_true, h3, h1, State.modLane_keeps, State.gap_keeps, State.resync_keeps, State.takeFlit_keeps, State.dropFlit_keeps, State.flitTaken_wf]
@[simp] theorem dataFlitRx_wf (w : Nat) (b : Bytes) (corr : Nat) (uncorr : Option Nat) (sub : Nat) (s : State) : HbmOk s (dataFlitRx w b corr uncorr sub s) := by
  unfold dataFlitRx
  split
  · rename_i y0_0
    split
    · rename_i y1_0 y1_1 y1_2
      have ky1_2 := congrArg (fun p => p.1) y1_2; dsimp only at ky1_2; subst ky1_2
      simp +contextual only [HbmOk, implies_true, State.flitIn_keeps]
    · rename_i y1_0 y1_1 y1_2 y1_3 y1_4
      have ky1_4 := congrArg (fun p => p.1) y1_4; dsimp only at ky1_4; subst ky1_4
      simp +contextual only [HbmOk, ite_keeps, wf_ite, ite_self, implies_true, State.flitIn_keeps, State.sequenced_wf, State.controlIn_keeps]
  · rename_i y0_0
    simp +contextual only [HbmOk, ite_keeps, ite_self, implies_true, State.fecOnly_keeps]
@[simp] theorem State.upsIn_wf (s : State) (p : Nat) (e : Eth) (f : Bytes) : HbmOk s (State.upsIn s p e f) := by
  unfold State.upsIn
  lift_lets
  intro x0
  clear_value x0
  intro x1
  clear_value x1
  intro x2
  clear_value x2
  simp +contextual only [HbmOk, ite_keeps, wf_ite, ite_self, implies_true, State.upViol_keeps, State.mgrFrame_wf, State.mgrRefuse_keeps, xrfRx_keeps, State.fleetTray_keeps, State.budRx_wf]
@[simp] theorem upFrameRx_wf (p : Nat) (f : Bytes) (crcOk ecc : Bool) (s : State) : HbmOk s (upFrameRx p f crcOk ecc s) := by
  intro k
  unfold upFrameRx
  extract_lets e t col ups sw ptp
  split
  · exact k
  have h : Mem.wf t.hbm = true := by simp [t, k]
  clear_value t
  split
  · simp [h]
  split
  · simp [h]
  split
  · simp [h]
  split
  · simp [h]
  split
  · simp [h]
  split
  · simp [h]
  split
  · apply State.colFrame_wf; exact h
  split
  · apply State.upsIn_wf; exact h
  split
  · exact h
  have hs := State.swReceive_wf t p f h
  split <;> rename_i hh
  · rw [hh] at hs; exact hs
  · rw [hh] at hs; dsimp only at hs; simp [hs]

end Sys2Proof.Machine
end

