-- ==== Sys2Proof/Laws/Commands.lean ====
section
/-! SUPPORT. What every command but POWER_ON_RESET leaves alone: most keep both memories, the rest keep them canonical. -/

namespace Sys2Proof.Machine

/-- What every command but POWER_ON_RESET keeps: the straps, the queue, and the canonical form of the memories. -/
abbrev Frame (s t : State) : Prop := t.chip = s.chip ∧ t.pending = s.pending ∧ (s.memOk → t.memOk)
theorem Keeps.frame {s t : State} (h : Keeps s t) : Frame s t :=
  ⟨h.1, h.2.1, fun k => ⟨by rw [h.2.2.1]; exact k.1, by rw [h.2.2.2]; exact k.2⟩⟩
theorem KeepsLow.frame {s t : State} (h : KeepsLow s t) (w : HbmOk s t) : Frame s t :=
  ⟨h.1, h.2.1, fun k => ⟨by rw [h.2.2]; exact k.1, w k.2⟩⟩
theorem KeepsTop.frame {s t : State} (h : KeepsTop s t) (a : Mem.wf s.sram = true → Mem.wf t.sram = true) (w : HbmOk s t) : Frame s t :=
  ⟨h.1, h.2, fun k => ⟨a k.1, w k.2⟩⟩
theorem State.coreWrite_sram (s : State) (c : Nat) (m : CoreMem) (addr off n : Nat) (v : BitVec 32) (w : Mem.wf s.sram = true) :
    Mem.wf (s.coreWrite c m addr off n v).sram = true := by
  unfold State.coreWrite
  dsimp only
  split
  · simpa using w
  · exact Mem.wf_write _ _ _ w
  · exact w
theorem State.coreData_sram (s : State) (c : Nat) (m : CoreMem) (addr off : Nat) (op : CoreOp) (data : BitVec 32) (w : Mem.wf s.sram = true) :
    Mem.wf (s.coreData c m addr off op data).sram = true := by
  unfold State.coreData
  extract_lets give old held reads t
  have g : ∀ u v r, (give u v r).sram = u.sram := fun u v r => by simp [give]
  have h : Mem.wf t.sram = true := by unfold t; split <;> simp [w]
  clear_value give t
  split
  · exact h
  · rw [g]; exact h
  · exact State.coreWrite_sram _ _ _ _ _ _ _ h
  · rw [g]; exact State.coreWrite_sram _ _ _ _ _ _ _ h
  · rw [g]; exact h
  · split
    · rw [g]; exact State.coreWrite_sram _ _ _ _ _ _ _ h
    · rw [g]; exact h
theorem coreRegAccess_sram (c : Nat) (pc addr : BitVec 32) (op : CoreOp) (data : BitVec 32) (ecc : Bool) (s : State) (w : Mem.wf s.sram = true) :
    Mem.wf (coreRegAccess c pc addr op data ecc s).sram = true := by
  unfold coreRegAccess
  split
  · exact w
  split
  · simp [w]
  · simp [w]
  · simp [w]
  · exact w
  · split
    · simp [w]
    · simp only [State.coreDone_keeps]
      exact State.coreData_sram _ _ _ _ _ _ _ w
theorem State.ringDone_sram (s : State) (c idx k : Nat) (data : Bytes) (err : Bool) (w : Mem.wf s.sram = true) :
    Mem.wf (s.ringDone c idx k data err).sram = true := by
  unfold State.ringDone
  split
  · exact w
  · dsimp only
    split
    · split <;> simp [w]
    · split
      · simp only [State.bytes_keeps]
        exact Mem.wf_write _ _ _ (by simp [w])
      · split <;> simp [w]
theorem segmentDone_sram (x : Strm) (idx k : Nat) (data : Bytes) (err : Bool) (s : State) (w : Mem.wf s.sram = true) :
    Mem.wf (segmentDone x idx k data err s).sram = true := by
  unfold segmentDone
  split
  · exact w
  · exact State.ringDone_sram _ _ _ _ _ _ w
  · dsimp only
    split <;> simp [w]
theorem State.wiped_sram (s : State) (hbm : Bool) : (s.wiped hbm).sram = [] := rfl
theorem wipeDone_sram (s : State) (w : Mem.wf s.sram = true) : Mem.wf (wipeDone s).sram = true := by
  unfold wipeDone
  split
  · exact w
  · split
    · split
      · exact w
      · simp [State.wiped_sram, Mem.wf]
    · split
      · simp [State.wiped_sram, Mem.wf]
      · exact w
theorem State.swReceive_sram (s : State) (p : Nat) (f : Bytes) (w : Mem.wf s.sram = true) : Mem.wf (s.swReceive p f).1.sram = true := by
  unfold State.swReceive
  lift_lets
  intro base size n off
  clear_value base size n off
  dsimp only
  split
  · exact w
  · simp only [State.level_keeps]
    exact Mem.wf_write _ _ _ w
theorem upFrameRx_sram (p : Nat) (f : Bytes) (crcOk ecc : Bool) (s : State) (k : Mem.wf s.sram = true) : Mem.wf (upFrameRx p f crcOk ecc s).sram = true := by
  unfold upFrameRx
  extract_lets e t col ups sw ptp
  split
  · exact k
  have h : Mem.wf t.sram = true := by simp [t, k]
  clear_value t
  split
  · simp [h]
  split
  · simp [h]
  split
  · simp [h]
  split
  · simp [h]
  split
  · simp [h]
  split
  · simp [h]
  split
  · simp [h]
  split
  · simp [h]
  split
  · exact h
  have hs := State.swReceive_sram t p f h
  split <;> rename_i hh
  · rw [hh] at hs; exact hs
  · rw [hh] at hs; dsimp only at hs; simp [hs]
theorem State.restart_frame (s : State) (c : Chip) (kind : Nat) :
    (s.restart c kind).chip = c ∧ (s.restart c kind).pending = s.pending ∧ (s.restart c kind).sram = s.sram ∧ (s.restart c kind).hbm = s.hbm := by
  unfold State.restart
  dsimp only
  simp only [State.emit_keeps, State.setFld_keeps, State.draw_keeps, and_self]
theorem State.blockReset_keeps (s : State) (kind path : Nat) : Keeps s (s.blockReset kind path) := by
  have h := State.restart_frame (s.resetRecord kind path) s.chip kind
  unfold State.blockReset
  simp only [Keeps, State.bump_keeps, State.evrKept_keeps, h, State.resetRecord_keeps, and_self]
theorem State.lcmTakes_keeps (s : State) (c : LcmCmd) : KeepsLow s (s.lcmTakes c) := by
  unfold State.lcmTakes
  dsimp only
  split
  · exact (State.blockReset_keeps ..).low
  split
  · simp [KeepsLow]
  split
  · simp [KeepsLow]
  · simp [KeepsLow]
theorem State.lcmTakes_wf (s : State) (c : LcmCmd) : HbmOk s (s.lcmTakes c) := by
  intro k
  unfold State.lcmTakes
  dsimp only
  split
  · rw [(State.blockReset_keeps ..).2.2.2]; exact k
  split
  · apply State.startFunction_wf; exact k
  split
  · simp [k]
  · simp [k]
theorem State.reachCmd_keeps (s : State) (cs : List LcmCmd) (n : Nat) : Keeps s ({ s with lcm := { s.lcm with cmd := cs } }.reach n) := by
  simp [Keeps]
theorem lcmCmdTakeEffect_keeps (s : State) : KeepsLow s (lcmCmdTakeEffect s) := by
  unfold lcmCmdTakeEffect
  generalize List.span _ s.lcm.cmd = p
  obtain ⟨pre, post⟩ := p
  dsimp only
  split
  · exact (Keeps.refl s).low
  · refine ite_low (Keeps.refl s).low ?_
    exact Keeps.trans_low (State.reachCmd_keeps ..) (State.lcmTakes_keeps ..)
theorem lcmCmdTakeEffect_wf (s : State) : HbmOk s (lcmCmdTakeEffect s) := by
  unfold lcmCmdTakeEffect
  generalize List.span _ s.lcm.cmd = p
  obtain ⟨pre, post⟩ := p
  dsimp only
  split
  · exact fun k => k
  · exact ite_hbm (fun k => k) ((State.reachCmd_keeps ..).hbm.trans fun k => by apply State.lcmTakes_wf; exact k)
theorem execEpochBoundary_frame (others : BitVec 8) (s : State) : ∃ s', execEpochBoundary others s = .next s' ∧ KeepsLow s s' ∧ HbmOk s s' := by
  refine ⟨_, rfl, ?_⟩
  refine ⟨?_, ?_⟩
  · simp [KeepsLow]
  · intro k; simp [k]
theorem execAcceptJump_frame (q : Req) (s : State) : ∃ s', execAcceptJump q s = .next s' ∧ KeepsLow s s' ∧ HbmOk s s' := by
  refine ⟨_, rfl, ?_⟩
  refine ⟨?_, ?_⟩
  · simp [KeepsLow]
  · apply State.rowWrite_wf; intro t k; simp [k]
theorem execReacquire_frame (q : Req) (s : State) : ∃ s', execReacquire q s = .next s' ∧ KeepsLow s s' ∧ HbmOk s s' := by
  refine ⟨_, rfl, ?_⟩
  refine ⟨?_, ?_⟩
  · simp [KeepsLow]
  · apply State.rowWrite_wf; intro t k; simp [k]
theorem execMirrorRx_frame (p : Nat) (f : List Byte) (s : State) : ∃ s', execMirrorRx p f s = .next s' ∧ KeepsLow s s' ∧ HbmOk s s' := by
  refine ⟨_, rfl, ?_⟩
  refine ⟨?_, ?_⟩
  · simp [KeepsLow, ite_keeps]
  · intro k; split <;> simp [k]
theorem execResyncRx_frame (p : Nat) (f : List Byte) (s : State) : ∃ s', execResyncRx p f s = .next s' ∧ KeepsLow s s' ∧ HbmOk s s' := by
  refine ⟨_, rfl, ?_⟩
  refine ⟨?_, ?_⟩
  · simp [KeepsLow, ite_keeps]
  · intro k; split <;> simp [k]
theorem execMirrorAckRx_frame (p : Nat) (f : List Byte) (s : State) : ∃ s', execMirrorAckRx p f s = .next s' ∧ Keeps s s' := by
  refine ⟨_, rfl, ?_⟩
  simp [Keeps]
theorem execMirrorAckTimeout_frame (s : State) : ∃ s', execMirrorAckTimeout s = .next s' ∧ Keeps s s' := by
  refine ⟨_, rfl, ?_⟩
  simp [Keeps]
theorem execBudRestore_frame (q : Req) (d : Word) (s : State) : ∃ s', execBudRestore q d s = .next s' ∧ KeepsLow s s' ∧ HbmOk s s' := by
  refine ⟨_, rfl, ?_⟩
  refine ⟨?_, ?_⟩
  · simp [KeepsLow]
  · apply State.rowWrite_wf; intro t k; simp [k]
theorem execRestoreReqRx_frame (p : Nat) (f : List Byte) (s : State) : ∃ s', execRestoreReqRx p f s = .next s' ∧ KeepsLow s s' ∧ HbmOk s s' := by
  refine ⟨_, rfl, ?_⟩
  refine ⟨?_, ?_⟩
  · simp [KeepsLow, ite_keeps]
  · intro k; split <;> simp [k]
theorem execRestoreTimeout_frame (s : State) : ∃ s', execRestoreTimeout s = .next s' ∧ Keeps s s' := by
  refine ⟨_, rfl, ?_⟩
  simp [Keeps]
theorem execRestoreDataRx_frame (p : Nat) (f : List Byte) (s : State) : ∃ s', execRestoreDataRx p f s = .next s' ∧ Keeps s s' := by
  refine ⟨_, rfl, ?_⟩
  simp [Keeps]
theorem execRestoreEndRx_frame (p : Nat) (f : List Byte) (s : State) : ∃ s', execRestoreEndRx p f s = .next s' ∧ KeepsLow s s' ∧ HbmOk s s' := by
  refine ⟨_, rfl, ?_⟩
  refine ⟨?_, ?_⟩
  · simp [KeepsLow, ite_keeps]
  · intro k; split <;> simp [k]
theorem execCapArm_frame (q : Req) (rings : BitVec 16) (s : State) : ∃ s', execCapArm q rings s = .next s' ∧ KeepsLow s s' ∧ HbmOk s s' := by
  refine ⟨_, rfl, ?_⟩
  refine ⟨?_, ?_⟩
  · simp [KeepsLow]
  · intro k; simp [k]
theorem execCapDisarm_frame (q : Req) (rings : BitVec 16) (s : State) : ∃ s', execCapDisarm q rings s = .next s' ∧ KeepsLow s s' ∧ HbmOk s s' := by
  refine ⟨_, rfl, ?_⟩
  refine ⟨?_, ?_⟩
  · simp [KeepsLow]
  · intro k; simp [k]
theorem execCapUpload_frame (q : Req) (rings : BitVec 16) (s : State) : ∃ s', execCapUpload q rings s = .next s' ∧ KeepsLow s s' ∧ HbmOk s s' := by
  refine ⟨_, rfl, ?_⟩
  refine ⟨?_, ?_⟩
  · simp [KeepsLow]
  · intro k; simp [k]
theorem execCapCancel_frame (q : Req) (rings : BitVec 16) (s : State) : ∃ s', execCapCancel q rings s = .next s' ∧ KeepsLow s s' ∧ HbmOk s s' := by
  refine ⟨_, rfl, ?_⟩
  refine ⟨?_, ?_⟩
  · simp [KeepsLow]
  · intro k; simp [k]
theorem execCapTrigWrite_frame (q : Req) (d : Word) (s : State) : ∃ s', execCapTrigWrite q d s = .next s' ∧ Keeps s s' := by
  refine ⟨_, rfl, ?_⟩
  simp [Keeps]
theorem execCapUploadSend_frame (r : Nat) (s : State) : ∃ s', execCapUploadSend r s = .next s' ∧ KeepsLow s s' ∧ HbmOk s s' := by
  refine ⟨_, rfl, ?_⟩
  refine ⟨?_, ?_⟩
  · simp [KeepsLow]
  · intro k; simp [k]
theorem execCapRingRead_frame (q : Req) (idx : Nat) (s : State) : ∃ s', execCapRingRead q idx s = .next s' ∧ Keeps s s' := by
  refine ⟨_, rfl, ?_⟩
  simp [Keeps]
theorem execCapRingCfgWrite_frame (q : Req) (idx : Nat) (s : State) : ∃ s', execCapRingCfgWrite q idx s = .next s' ∧ Keeps s s' := by
  refine ⟨_, rfl, ?_⟩
  simp [Keeps]
theorem execCapLineRead_frame (q : Req) (r idx : Nat) (s : State) : ∃ s', execCapLineRead q r idx s = .next s' ∧ Keeps s s' := by
  refine ⟨_, rfl, ?_⟩
  simp [Keeps]
theorem execSlowStepTimer_frame (s : State) : ∃ s', execSlowStepTimer s = .next s' ∧ Keeps s s' := by
  refine ⟨_, rfl, ?_⟩
  simp [Keeps]
theorem execRecoverTimer_frame (s : State) : ∃ s', execRecoverTimer s = .next s' ∧ Keeps s s' := by
  refine ⟨_, rfl, ?_⟩
  simp [Keeps]
theorem execPolicerRead_frame (q : Req) (w v : Nat) (s : State) : ∃ s', execPolicerRead q w v s = .next s' ∧ Keeps s s' := by
  refine ⟨_, rfl, ?_⟩
  simp [Keeps]
theorem execPolicerWrite_frame (q : Req) (w v : Nat) (s : State) : ∃ s', execPolicerWrite q w v s = .next s' ∧ Keeps s s' := by
  refine ⟨_, rfl, ?_⟩
  simp [Keeps]
theorem execIngestGrant_frame (s : State) : ∃ s', execIngestGrant s = .next s' ∧ KeepsLow s s' ∧ HbmOk s s' := by
  refine ⟨_, rfl, ?_⟩
  refine ⟨?_, ?_⟩
  · simp [KeepsLow]
  · intro k; simp [k]
theorem execEncodeRow_frame (ecc : EccHit) (s : State) : ∃ s', execEncodeRow ecc s = .next s' ∧ KeepsLow s s' ∧ HbmOk s s' := by
  refine ⟨_, rfl, ?_⟩
  refine ⟨?_, ?_⟩
  · simp [KeepsLow]
  · intro k; simp [k]
theorem execCmpKeyReqWrite_frame (q : Req) (d : Word) (s : State) : ∃ s', execCmpKeyReqWrite q d s = .next s' ∧ Keeps s s' := by
  refine ⟨_, rfl, ?_⟩
  simp [Keeps]
theorem execKeyRequestMsg_frame (all : Bool) (g : Nat) (s : State) : ∃ s', execKeyRequestMsg all g s = .next s' ∧ Keeps s s' := by
  refine ⟨_, rfl, ?_⟩
  simp [Keeps]
theorem execCmpOutCfgWrite_frame (q : Req) (d : Word) (s : State) : ∃ s', execCmpOutCfgWrite q d s = .next s' ∧ Keeps s s' := by
  refine ⟨_, rfl, ?_⟩
  simp [Keeps]
theorem execKeyRequestRepeat_frame (w g : Nat) (s : State) : ∃ s', execKeyRequestRepeat w g s = .next s' ∧ Keeps s s' := by
  refine ⟨_, rfl, ?_⟩
  simp [Keeps]
theorem execDecodeFrame_frame (d : Nat) (ecc : EccHit) (s : State) : ∃ s', execDecodeFrame d ecc s = .next s' ∧ KeepsLow s s' ∧ HbmOk s s' := by
  refine ⟨_, rfl, ?_⟩
  refine ⟨?_, ?_⟩
  · simp [KeepsLow]
  · intro k; simp [k]
theorem execCmpTblRead_frame (q : Req) (idx : Nat) (s : State) : ∃ s', execCmpTblRead q idx s = .next s' ∧ Keeps s s' := by
  refine ⟨_, rfl, ?_⟩
  simp [Keeps]
theorem execCmpTblReadActive_frame (q : Req) (idx : Nat) (s : State) : ∃ s', execCmpTblReadActive q idx s = .next s' ∧ Keeps s s' := by
  refine ⟨_, rfl, ?_⟩
  simp [Keeps]
theorem execCmpTblWrite_frame (q : Req) (idx : Nat) (s : State) : ∃ s', execCmpTblWrite q idx s = .next s' ∧ Keeps s s' := by
  refine ⟨_, rfl, ?_⟩
  simp [Keeps]
theorem execColStart_frame (q : Req) (d : Word) (ecc : Bool) (s : State) : ∃ s', execColStart q d ecc s = .next s' ∧ KeepsLow s s' ∧ HbmOk s s' := by
  refine ⟨_, rfl, ?_⟩
  refine ⟨?_, ?_⟩
  · simp [KeepsLow]
  · apply State.rowWrite_wf; intro t k; simp [k]
theorem execColAbortWrite_frame (q : Req) (d : Word) (s : State) : ∃ s', execColAbortWrite q d s = .next s' ∧ KeepsLow s s' ∧ HbmOk s s' := by
  refine ⟨_, rfl, ?_⟩
  refine ⟨?_, ?_⟩
  · simp [KeepsLow]
  · apply State.rowWrite_wf; intro t k; simp [k]
theorem execColSigRx_frame (p : Nat) (f : List Byte) (ecc : Bool) (s : State) : ∃ s', execColSigRx p f ecc s = .next s' ∧ KeepsLow s s' ∧ HbmOk s s' := by
  refine ⟨_, rfl, ?_⟩
  refine ⟨?_, ?_⟩
  · simp [KeepsLow, ite_keeps]
  · intro k; split <;> simp [k]
theorem execColDataRx_frame (p : Nat) (f : List Byte) (ecc : Bool) (s : State) : ∃ s', execColDataRx p f ecc s = .next s' ∧ KeepsLow s s' ∧ HbmOk s s' := by
  refine ⟨_, rfl, ?_⟩
  refine ⟨?_, ?_⟩
  · simp [KeepsLow, ite_keeps]
  · intro k; split <;> simp [k]
theorem execColAckRx_frame (p : Nat) (f : List Byte) (ecc : Bool) (s : State) : ∃ s', execColAckRx p f ecc s = .next s' ∧ KeepsLow s s' ∧ HbmOk s s' := by
  refine ⟨_, rfl, ?_⟩
  refine ⟨?_, ?_⟩
  · simp [KeepsLow, ite_keeps]
  · intro k; split <;> simp [k]
theorem execColAbortRx_frame (p : Nat) (f : List Byte) (s : State) : ∃ s', execColAbortRx p f s = .next s' ∧ KeepsLow s s' ∧ HbmOk s s' := by
  refine ⟨_, rfl, ?_⟩
  refine ⟨?_, ?_⟩
  · simp [KeepsLow, ite_keeps]
  · intro k; split <;> simp [k]
theorem execColRetxTimer_frame (g : Nat) (s : State) : ∃ s', execColRetxTimer g s = .next s' ∧ KeepsLow s s' ∧ HbmOk s s' := by
  refine ⟨_, rfl, ?_⟩
  refine ⟨?_, ?_⟩
  · simp [KeepsLow]
  · intro k; simp [k]
theorem execColRxTimeout_frame (g : Nat) (s : State) : ∃ s', execColRxTimeout g s = .next s' ∧ KeepsLow s s' ∧ HbmOk s s' := by
  refine ⟨_, rfl, ?_⟩
  refine ⟨?_, ?_⟩
  · simp [KeepsLow]
  · intro k; simp [k]
theorem execColTxTimeout_frame (g : Nat) (s : State) : ∃ s', execColTxTimeout g s = .next s' ∧ KeepsLow s s' ∧ HbmOk s s' := by
  refine ⟨_, rfl, ?_⟩
  refine ⟨?_, ?_⟩
  · simp [KeepsLow]
  · intro k; simp [k]
theorem execColEftApplyDone_frame (g : Nat) (ecc : Bool) (s : State) : ∃ s', execColEftApplyDone g ecc s = .next s' ∧ KeepsLow s s' ∧ HbmOk s s' := by
  refine ⟨_, rfl, ?_⟩
  refine ⟨?_, ?_⟩
  · simp [KeepsLow]
  · intro k; simp [k]
theorem execColGroupRead_frame (q : Req) (idx : Nat) (s : State) : ∃ s', execColGroupRead q idx s = .next s' ∧ Keeps s s' := by
  refine ⟨_, rfl, ?_⟩
  simp [Keeps]
theorem execColGroupWrite_frame (q : Req) (idx : Nat) (s : State) : ∃ s', execColGroupWrite q idx s = .next s' ∧ Keeps s s' := by
  refine ⟨_, rfl, ?_⟩
  simp [Keeps]
theorem execColMemberRead_frame (q : Req) (idx : Nat) (s : State) : ∃ s', execColMemberRead q idx s = .next s' ∧ Keeps s s' := by
  refine ⟨_, rfl, ?_⟩
  simp [Keeps]
theorem execColMemberWrite_frame (q : Req) (idx : Nat) (s : State) : ∃ s', execColMemberWrite q idx s = .next s' ∧ Keeps s s' := by
  refine ⟨_, rfl, ?_⟩
  simp [Keeps]
theorem execColSlowRead_frame (q : Req) (idx : Nat) (s : State) : ∃ s', execColSlowRead q idx s = .next s' ∧ Keeps s s' := by
  refine ⟨_, rfl, ?_⟩
  simp [Keeps]
theorem execCommitArm_frame (q : Req) (s : State) : ∃ s', execCommitArm q s = .next s' ∧ Keeps s s' := by
  refine ⟨_, rfl, ?_⟩
  simp [Keeps]
theorem execCommitDisarm_frame (q : Req) (s : State) : ∃ s', execCommitDisarm q s = .next s' ∧ Keeps s s' := by
  refine ⟨_, rfl, ?_⟩
  simp [Keeps]
theorem execLcmCommitWrite_frame (q : Req) (d : Word) (s : State) : ∃ s', execLcmCommitWrite q d s = .next s' ∧ Keeps s s' := by
  refine ⟨_, rfl, ?_⟩
  simp [Keeps]
theorem execCommitWindowOpen_frame (s : State) : ∃ s', execCommitWindowOpen s = .next s' ∧ Keeps s s' := by
  refine ⟨_, rfl, ?_⟩
  simp [Keeps]
theorem execCommitWindowClose_frame (s : State) : ∃ s', execCommitWindowClose s = .next s' ∧ Keeps s s' := by
  refine ⟨_, rfl, ?_⟩
  simp [Keeps]
theorem execCoreStart_frame (q : Req) (d : Word) (s : State) : ∃ s', execCoreStart q d s = .next s' ∧ Keeps s s' := by
  refine ⟨_, rfl, ?_⟩
  simp [Keeps]
theorem execCoreStop_frame (q : Req) (d : Word) (s : State) : ∃ s', execCoreStop q d s = .next s' ∧ Keeps s s' := by
  refine ⟨_, rfl, ?_⟩
  simp [Keeps]
theorem execCorSharedWrite_frame (q : Req) (d : Word) (s : State) : ∃ s', execCorSharedWrite q d s = .next s' ∧ Keeps s s' := by
  refine ⟨_, rfl, ?_⟩
  simp [Keeps]
theorem execFwLoad_frame (q : Req) (s : State) : ∃ s', execFwLoad q s = .next s' ∧ Keeps s s' := by
  refine ⟨_, rfl, ?_⟩
  simp [Keeps]
theorem execFwLoadDone_frame (s : State) : ∃ s', execFwLoadDone s = .next s' ∧ Keeps s s' := by
  refine ⟨_, rfl, ?_⟩
  simp [Keeps]
theorem execMbxPushDriver_frame (q : Req) (c : Nat) (s : State) : ∃ s', execMbxPushDriver q c s = .next s' ∧ Keeps s s' := by
  refine ⟨_, rfl, ?_⟩
  simp [Keeps]
theorem execMbxPopDriver_frame (q : Req) (c : Nat) (s : State) : ∃ s', execMbxPopDriver q c s = .next s' ∧ Keeps s s' := by
  refine ⟨_, rfl, ?_⟩
  simp [Keeps]
theorem execCoreMbxPop_frame (c : Nat) (s : State) : ∃ s', execCoreMbxPop c s = .next s' ∧ Keeps s s' := by
  refine ⟨_, rfl, ?_⟩
  simp [Keeps]
theorem execCoreMbxPush_frame (c : Nat) (pc : BitVec 32) (msg : BitVec 128) (s : State) : ∃ s', execCoreMbxPush c pc msg s = .next s' ∧ Keeps s s' := by
  refine ⟨_, rfl, ?_⟩
  simp [Keeps]
theorem execCoreEftRead_frame (c : Nat) (key : Word) (buf : Nat) (ecc : Bool) (s : State) : ∃ s', execCoreEftRead c key buf ecc s = .next s' ∧ Keeps s s' := by
  refine ⟨_, rfl, ?_⟩
  simp [Keeps]
theorem execCoreEftWrite_frame (c : Nat) (key : Word) (opt buf : Nat) (ent : List Byte) (ecc : Bool) (s : State) : ∃ s', execCoreEftWrite c key opt buf ent ecc s = .next s' ∧ Keeps s s' := by
  refine ⟨_, rfl, ?_⟩
  simp [Keeps]
theorem execCoreEftDelete_frame (c : Nat) (key : Word) (ecc : Bool) (s : State) : ∃ s', execCoreEftDelete c key ecc s = .next s' ∧ Keeps s s' := by
  refine ⟨_, rfl, ?_⟩
  simp [Keeps]
theorem execCoreEftReadPos_frame (c : Nat) (key : Word) (buf : Nat) (ecc : Bool) (s : State) : ∃ s', execCoreEftReadPos c key buf ecc s = .next s' ∧ Keeps s s' := by
  refine ⟨_, rfl, ?_⟩
  simp [Keeps]
theorem execCoreEftPurgeGen_frame (c : Nat) (opt : Nat) (s : State) : ∃ s', execCoreEftPurgeGen c opt s = .next s' ∧ Keeps s s' := by
  refine ⟨_, rfl, ?_⟩
  simp [Keeps]
theorem execCoreEftDone_frame (c : Nat) (s : State) : ∃ s', execCoreEftDone c s = .next s' ∧ Keeps s s' := by
  refine ⟨_, rfl, ?_⟩
  simp [Keeps]
theorem execEftPurgeDone_frame (s : State) : ∃ s', execEftPurgeDone s = .next s' ∧ Keeps s s' := by
  refine ⟨_, rfl, ?_⟩
  simp [Keeps]
theorem execCoreHostAccess_frame (c : Nat) (pc : BitVec 32) (off : Nat) (write atomic : Bool) (data : List Byte) (s : State) : ∃ s', execCoreHostAccess c pc off write atomic data s = .next s' ∧ Keeps s s' := by
  refine ⟨_, rfl, ?_⟩
  simp [Keeps]
theorem execCoreXltStallTimeout_frame (c : Nat) (s : State) : ∃ s', execCoreXltStallTimeout c s = .next s' ∧ Keeps s s' := by
  refine ⟨_, rfl, ?_⟩
  simp [Keeps]
theorem execCoreTrap_frame (c : Nat) (pc : BitVec 32) (why : TrapWhy) (s : State) : ∃ s', execCoreTrap c pc why s = .next s' ∧ Keeps s s' := by
  refine ⟨_, rfl, ?_⟩
  simp [Keeps]
theorem execCoreMret_frame (c : Nat) (s : State) : ∃ s', execCoreMret c s = .next s' ∧ Keeps s s' := by
  refine ⟨_, rfl, ?_⟩
  simp [Keeps]
theorem execMtimeMatch_frame (c : Nat) (s : State) : ∃ s', execMtimeMatch c s = .next s' ∧ Keeps s s' := by
  refine ⟨_, rfl, ?_⟩
  simp [Keeps]
theorem execWdogKick_frame (c : Nat) (val : BitVec 32) (s : State) : ∃ s', execWdogKick c val s = .next s' ∧ Keeps s s' := by
  refine ⟨_, rfl, ?_⟩
  simp [Keeps]
theorem execWdogBark_frame (c : Nat) (s : State) : ∃ s', execWdogBark c s = .next s' ∧ Keeps s s' := by
  refine ⟨_, rfl, ?_⟩
  simp [Keeps]
theorem execWdogBite_frame (c : Nat) (pc : BitVec 32) (s : State) : ∃ s', execWdogBite c pc s = .next s' ∧ Keeps s s' := by
  refine ⟨_, rfl, ?_⟩
  simp [Keeps]
theorem execEftRead_frame (q : Req) (ecc : Bool) (s : State) : ∃ s', execEftRead q ecc s = .next s' ∧ Keeps s s' := by
  refine ⟨_, rfl, ?_⟩
  simp [Keeps]
theorem execEftWrite_frame (q : Req) (ecc : Bool) (s : State) : ∃ s', execEftWrite q ecc s = .next s' ∧ Keeps s s' := by
  refine ⟨_, rfl, ?_⟩
  simp [Keeps]
theorem execEftDelete_frame (q : Req) (ecc : Bool) (s : State) : ∃ s', execEftDelete q ecc s = .next s' ∧ Keeps s s' := by
  refine ⟨_, rfl, ?_⟩
  simp [Keeps]
theorem execEftReadPos_frame (q : Req) (idx : Nat) (ecc : Bool) (s : State) : ∃ s', execEftReadPos q idx ecc s = .next s' ∧ Keeps s s' := by
  refine ⟨_, rfl, ?_⟩
  simp [Keeps]
theorem execEftPurgeGen_frame (q : Req) (s : State) : ∃ s', execEftPurgeGen q s = .next s' ∧ Keeps s s' := by
  refine ⟨_, rfl, ?_⟩
  simp [Keeps]
theorem execEftSnapshot_frame (q : Req) (s : State) : ∃ s', execEftSnapshot q s = .next s' ∧ Keeps s s' := by
  refine ⟨_, rfl, ?_⟩
  simp [Keeps]
theorem execEftSnapshotDone_frame (s : State) : ∃ s', execEftSnapshotDone s = .next s' ∧ Keeps s s' := by
  refine ⟨_, rfl, ?_⟩
  simp [Keeps]
theorem execEftFeedRead_frame (q : Req) (idx : Nat) (s : State) : ∃ s', execEftFeedRead q idx s = .next s' ∧ Keeps s s' := by
  refine ⟨_, rfl, ?_⟩
  simp [Keeps]
theorem execEftFeedWrite_frame (q : Req) (idx : Nat) (s : State) : ∃ s', execEftFeedWrite q idx s = .next s' ∧ Keeps s s' := by
  refine ⟨_, rfl, ?_⟩
  simp [Keeps]
theorem execEftSweepDone_frame (s : State) : ∃ s', execEftSweepDone s = .next s' ∧ Keeps s s' := by
  refine ⟨_, rfl, ?_⟩
  simp [Keeps]
theorem execEftRehashDone_frame (lost : List Word) (s : State) : ∃ s', execEftRehashDone lost s = .next s' ∧ Keeps s s' := by
  refine ⟨_, rfl, ?_⟩
  simp [Keeps]
theorem execResendMsg_frame (first count : Nat) (s : State) : ∃ s', execResendMsg first count s = .next s' ∧ Keeps s s' := by
  refine ⟨_, rfl, ?_⟩
  simp [Keeps]
theorem execEprCfgWrite_frame (q : Req) (d : Word) (s : State) : ∃ s', execEprCfgWrite q d s = .next s' ∧ Keeps s s' := by
  refine ⟨_, rfl, ?_⟩
  simp [Keeps]
theorem execEprTblRead_frame (q : Req) (t idx : Nat) (s : State) : ∃ s', execEprTblRead q t idx s = .next s' ∧ Keeps s s' := by
  refine ⟨_, rfl, ?_⟩
  simp [Keeps]
theorem execEprTblReadActive_frame (q : Req) (t idx : Nat) (s : State) : ∃ s', execEprTblReadActive q t idx s = .next s' ∧ Keeps s s' := by
  refine ⟨_, rfl, ?_⟩
  simp [Keeps]
theorem execEprTblWrite_frame (q : Req) (t idx : Nat) (s : State) : ∃ s', execEprTblWrite q t idx s = .next s' ∧ Keeps s s' := by
  refine ⟨_, rfl, ?_⟩
  simp [Keeps]
theorem execFlitSlot_frame (w sub : Nat) (s : State) : ∃ s', execFlitSlot w sub s = .next s' ∧ Keeps s s' := by
  refine ⟨_, rfl, ?_⟩
  simp [Keeps]
theorem execNakRx_frame (w : Nat) (f : List Byte) (s : State) : ∃ s', execNakRx w f s = .next s' ∧ Keeps s s' := by
  refine ⟨_, rfl, ?_⟩
  simp [Keeps]
theorem execCreditSyncRx_frame (w : Nat) (f : List Byte) (s : State) : ∃ s', execCreditSyncRx w f s = .next s' ∧ Keeps s s' := by
  refine ⟨_, rfl, ?_⟩
  simp [Keeps]
theorem execNullFlitRx_frame (w : Nat) (f : List Byte) (s : State) : ∃ s', execNullFlitRx w f s = .next s' ∧ Keeps s s' := by
  refine ⟨_, rfl, ?_⟩
  simp [Keeps]
theorem execReplayTimeout_frame (w : Nat) (s : State) : ∃ s', execReplayTimeout w s = .next s' ∧ Keeps s s' := by
  refine ⟨_, rfl, ?_⟩
  simp [Keeps]
theorem execNakRepeat_frame (w : Nat) (s : State) : ∃ s', execNakRepeat w s = .next s' ∧ Keeps s s' := by
  refine ⟨_, rfl, ?_⟩
  simp [Keeps]
theorem execCreditSyncTimeout_frame (w : Nat) (s : State) : ∃ s', execCreditSyncTimeout w s = .next s' ∧ Keeps s s' := by
  refine ⟨_, rfl, ?_⟩
  simp [Keeps]
theorem execHpaRouteDelay_frame (s : State) : ∃ s', execHpaRouteDelay s = .next s' ∧ Keeps s s' := by
  refine ⟨_, rfl, ?_⟩
  simp [Keeps]
theorem execHpaFlitSend_frame (s : State) : ∃ s', execHpaFlitSend s = .next s' ∧ Keeps s s' := by
  refine ⟨_, rfl, ?_⟩
  simp [Keeps]
theorem execHpaConsPoll_frame (cons : Nat) (s : State) : ∃ s', execHpaConsPoll cons s = .next s' ∧ Keeps s s' := by
  refine ⟨_, rfl, ?_⟩
  simp [Keeps]
theorem execAppSend_frame (q : Req) (w : Nat) (s : State) : ∃ s', execAppSend q w s = .next s' ∧ Keeps s s' := by
  refine ⟨_, rfl, ?_⟩
  simp [Keeps]
theorem execAppRxPop_frame (q : Req) (w : Nat) (s : State) : ∃ s', execAppRxPop q w s = .next s' ∧ Keeps s s' := by
  refine ⟨_, rfl, ?_⟩
  simp [Keeps]
theorem execAppMsg_frame (w : Nat) (body : List Byte) (s : State) : ∃ s', execAppMsg w body s = .next s' ∧ Keeps s s' := by
  refine ⟨_, rfl, ?_⟩
  simp [Keeps]
theorem execQuietExpire_frame (src : Nat) (s : State) : ∃ s', execQuietExpire src s = .next s' ∧ Keeps s s' := by
  refine ⟨_, rfl, ?_⟩
  simp [Keeps]
theorem execFltAckSet_frame (q : Req) (k : Nat) (d : Word) (s : State) : ∃ s', execFltAckSet q k d s = .next s' ∧ Keeps s s' := by
  refine ⟨_, rfl, ?_⟩
  simp [Keeps]
theorem execFltAckClr_frame (q : Req) (k : Nat) (d : Word) (s : State) : ∃ s', execFltAckClr q k d s = .next s' ∧ Keeps s s' := by
  refine ⟨_, rfl, ?_⟩
  simp [Keeps]
theorem execFltAckWrite_frame (q : Req) (k : Nat) (d : Word) (s : State) : ∃ s', execFltAckWrite q k d s = .next s' ∧ Keeps s s' := by
  refine ⟨_, rfl, ?_⟩
  simp [Keeps]
theorem execFltSrcRead_frame (q : Req) (idx : Nat) (s : State) : ∃ s', execFltSrcRead q idx s = .next s' ∧ Keeps s s' := by
  refine ⟨_, rfl, ?_⟩
  simp [Keeps]
theorem execFltSrcWrite_frame (q : Req) (idx : Nat) (s : State) : ∃ s', execFltSrcWrite q idx s = .next s' ∧ Keeps s s' := by
  refine ⟨_, rfl, ?_⟩
  simp [Keeps]
theorem execFltDirRead_frame (q : Req) (idx : Nat) (s : State) : ∃ s', execFltDirRead q idx s = .next s' ∧ Keeps s s' := by
  refine ⟨_, rfl, ?_⟩
  simp [Keeps]
theorem execFltClearFirst_frame (q : Req) (d : Word) (s : State) : ∃ s', execFltClearFirst q d s = .next s' ∧ Keeps s s' := by
  refine ⟨_, rfl, ?_⟩
  simp [Keeps]
theorem execEvrRead_frame (q : Req) (sq : Nat) (s : State) : ∃ s', execEvrRead q sq s = .next s' ∧ Keeps s s' := by
  refine ⟨_, rfl, ?_⟩
  simp [Keeps]
theorem execEvrRdWrite_frame (q : Req) (d : Word) (s : State) : ∃ s', execEvrRdWrite q d s = .next s' ∧ Keeps s s' := by
  refine ⟨_, rfl, ?_⟩
  simp [Keeps]
theorem execIrcClaimRead_frame (q : Req) (n : Nat) (s : State) : ∃ s', execIrcClaimRead q n s = .next s' ∧ Keeps s s' := by
  refine ⟨_, rfl, ?_⟩
  simp [Keeps]
theorem execIrcComplete_frame (q : Req) (d : Word) (s : State) : ∃ s', execIrcComplete q d s = .next s' ∧ Keeps s s' := by
  refine ⟨_, rfl, ?_⟩
  simp [Keeps]
theorem execIrcHoldoffEnd_frame (g : Nat) (s : State) : ∃ s', execIrcHoldoffEnd g s = .next s' ∧ Keeps s s' := by
  refine ⟨_, rfl, ?_⟩
  simp [Keeps]
theorem execIrcPendClear_frame (q : Req) (g : Nat) (d : Word) (s : State) : ∃ s', execIrcPendClear q g d s = .next s' ∧ Keeps s s' := by
  refine ⟨_, rfl, ?_⟩
  simp [Keeps]
theorem execTraceSourceTimeout_frame (i : Nat) (s : State) : ∃ s', execTraceSourceTimeout i s = .next s' ∧ Keeps s s' := by
  refine ⟨_, rfl, ?_⟩
  simp [Keeps]
theorem execTraceBeat_frame (src : Nat) (kind : Nat) (size : Nat) (addr data : Word) (s : State) : ∃ s', execTraceBeat src kind size addr data s = .next s' ∧ Keeps s s' := by
  refine ⟨_, rfl, ?_⟩
  simp [Keeps]
theorem execHtpFlushTimer_frame (s : State) : ∃ s', execHtpFlushTimer s = .next s' ∧ Keeps s s' := by
  refine ⟨_, rfl, ?_⟩
  simp [Keeps]
theorem execHtpDrain_frame (s : State) : ∃ s', execHtpDrain s = .next s' ∧ Keeps s s' := by
  refine ⟨_, rfl, ?_⟩
  simp [Keeps]
theorem execHtpConsPoll_frame (cons : Nat) (s : State) : ∃ s', execHtpConsPoll cons s = .next s' ∧ Keeps s s' := by
  refine ⟨_, rfl, ?_⟩
  simp [Keeps]
theorem execHtpStallTimeout_frame (s : State) : ∃ s', execHtpStallTimeout s = .next s' ∧ Keeps s s' := by
  refine ⟨_, rfl, ?_⟩
  simp [Keeps]
theorem execHtpStart_frame (q : Req) (s : State) : ∃ s', execHtpStart q s = .next s' ∧ Keeps s s' := by
  refine ⟨_, rfl, ?_⟩
  simp [Keeps]
theorem execHtpStop_frame (q : Req) (s : State) : ∃ s', execHtpStop q s = .next s' ∧ Keeps s s' := by
  refine ⟨_, rfl, ?_⟩
  simp [Keeps]
theorem execHtpRearm_frame (q : Req) (s : State) : ∃ s', execHtpRearm q s = .next s' ∧ Keeps s s' := by
  refine ⟨_, rfl, ?_⟩
  simp [Keeps]
theorem execHtpFilterRead_frame (q : Req) (idx : Nat) (s : State) : ∃ s', execHtpFilterRead q idx s = .next s' ∧ Keeps s s' := by
  refine ⟨_, rfl, ?_⟩
  simp [Keeps]
theorem execHtpFilterWrite_frame (q : Req) (idx : Nat) (s : State) : ∃ s', execHtpFilterWrite q idx s = .next s' ∧ Keeps s s' := by
  refine ⟨_, rfl, ?_⟩
  simp [Keeps]
theorem execAltRingPoll_frame (w prod : Nat) (flits : List (List Byte)) (s : State) : ∃ s', execAltRingPoll w prod flits s = .next s' ∧ KeepsLow s s' ∧ HbmOk s s' := by
  refine ⟨_, rfl, ?_⟩
  refine ⟨?_, ?_⟩
  · simp [KeepsLow]
  · intro k; simp [k]
theorem execOtpReadCmd_frame (q : Req) (idx : Nat) (s : State) : ∃ s', execOtpReadCmd q idx s = .next s' ∧ Keeps s s' := by
  refine ⟨_, rfl, ?_⟩
  simp [Keeps]
theorem execOtpWriteCmd_frame (q : Req) (idx : Nat) (s : State) : ∃ s', execOtpWriteCmd q idx s = .next s' ∧ Keeps s s' := by
  refine ⟨_, rfl, ?_⟩
  simp [Keeps]
theorem execOtpProgramDone_frame (s : State) : ∃ s', execOtpProgramDone s = .next s' ∧ Keeps s s' := by
  refine ⟨_, rfl, ?_⟩
  simp [Keeps]
theorem execBlockResetPin_frame (s : State) : ∃ s', execBlockResetPin s = .next s' ∧ Keeps s s' := by
  refine ⟨_, rfl, ?_⟩
  exact (State.blockReset_keeps ..)
theorem execOtpReadDone_frame (s : State) : ∃ s', execOtpReadDone s = .next s' ∧ Keeps s s' := by
  refine ⟨_, rfl, ?_⟩
  simp [Keeps]
theorem execWipeDone_frame (s : State) : ∃ s', execWipeDone s = .next s' ∧ Frame s s' := by
  refine ⟨_, rfl, ?_⟩
  refine KeepsTop.frame ?_ (wipeDone_sram _) ?_
  · simp [KeepsTop]
  · intro k; simp [k]
theorem execNvStateDecide_frame (ok : Bool) (s : State) : ∃ s', execNvStateDecide ok s = .next s' ∧ Keeps s s' := by
  refine ⟨_, rfl, ?_⟩
  simp [Keeps]
theorem execLcmCmdTakeEffect_frame (s : State) : ∃ s', execLcmCmdTakeEffect s = .next s' ∧ KeepsLow s s' ∧ HbmOk s s' := by
  refine ⟨_, rfl, ?_⟩
  exact And.intro (lcmCmdTakeEffect_keeps s) (lcmCmdTakeEffect_wf s)
theorem execLcmProvision_frame (q : Req) (s : State) : ∃ s', execLcmProvision q s = .next s' ∧ Keeps s s' := by
  refine ⟨_, rfl, ?_⟩
  simp [Keeps]
theorem execLcmDeploy_frame (q : Req) (s : State) : ∃ s', execLcmDeploy q s = .next s' ∧ Keeps s s' := by
  refine ⟨_, rfl, ?_⟩
  simp [Keeps]
theorem execLcmUndeploy_frame (q : Req) (s : State) : ∃ s', execLcmUndeploy q s = .next s' ∧ Keeps s s' := by
  refine ⟨_, rfl, ?_⟩
  simp [Keeps]
theorem execLcmReturn_frame (q : Req) (s : State) : ∃ s', execLcmReturn q s = .next s' ∧ Keeps s s' := by
  refine ⟨_, rfl, ?_⟩
  simp [Keeps]
theorem execLcmFunctionReset_frame (q : Req) (s : State) : ∃ s', execLcmFunctionReset q s = .next s' ∧ Keeps s s' := by
  refine ⟨_, rfl, ?_⟩
  simp [Keeps]
theorem execLcmBlockReset_frame (q : Req) (s : State) : ∃ s', execLcmBlockReset q s = .next s' ∧ Keeps s s' := by
  refine ⟨_, rfl, ?_⟩
  simp [Keeps]
theorem execMgmtReqExec_frame (es : List MgmtEntry) (s : State) : ∃ s', execMgmtReqExec es s = .next s' ∧ KeepsLow s s' ∧ HbmOk s s' := by
  refine ⟨_, rfl, ?_⟩
  refine ⟨?_, ?_⟩
  · simp [KeepsLow]
  · intro k; simp [k]
theorem execMgrReqRx_frame (p : Nat) (f : List Byte) (s : State) : ∃ s', execMgrReqRx p f s = .next s' ∧ KeepsLow s s' ∧ HbmOk s s' := by
  refine ⟨_, rfl, ?_⟩
  refine ⟨?_, ?_⟩
  · simp [KeepsLow]
  · intro k; simp [k]
theorem execHealthTimer_frame (s : State) : ∃ s', execHealthTimer s = .next s' ∧ Keeps s s' := by
  refine ⟨_, rfl, ?_⟩
  simp [Keeps]
theorem execMxeNop_frame (e : Nat) (ecc : Bool) (s : State) : ∃ s', execMxeNop e ecc s = .next s' ∧ Keeps s s' := by
  refine ⟨_, rfl, ?_⟩
  simp [Keeps]
theorem execMxeHalt_frame (e : Nat) (ecc : Bool) (s : State) : ∃ s', execMxeHalt e ecc s = .next s' ∧ Keeps s s' := by
  refine ⟨_, rfl, ?_⟩
  simp [Keeps]
theorem execMxeAcclr_frame (e : Nat) (ecc : Bool) (s : State) : ∃ s', execMxeAcclr e ecc s = .next s' ∧ Keeps s s' := by
  refine ⟨_, rfl, ?_⟩
  simp [Keeps]
theorem execMxeAccld_frame (e : Nat) (ecc : Bool) (s : State) : ∃ s', execMxeAccld e ecc s = .next s' ∧ Keeps s s' := by
  refine ⟨_, rfl, ?_⟩
  simp [Keeps]
theorem execMxeMmul_frame (e : Nat) (ecc : Bool) (s : State) : ∃ s', execMxeMmul e ecc s = .next s' ∧ Keeps s s' := by
  refine ⟨_, rfl, ?_⟩
  simp [Keeps]
theorem execMxeRq_frame (e : Nat) (ecc : Bool) (miss : Option (Nat × Nat)) (s : State) : ∃ s', execMxeRq e ecc miss s = .next s' ∧ Keeps s s' := by
  refine ⟨_, rfl, ?_⟩
  simp [Keeps]
theorem execMxeAct_frame (e : Nat) (ecc : Bool) (s : State) : ∃ s', execMxeAct e ecc s = .next s' ∧ Keeps s s' := by
  refine ⟨_, rfl, ?_⟩
  simp [Keeps]
theorem execMxeCpy_frame (e : Nat) (ecc : Bool) (s : State) : ∃ s', execMxeCpy e ecc s = .next s' ∧ Keeps s s' := by
  refine ⟨_, rfl, ?_⟩
  simp [Keeps]
theorem execMxeLdh_frame (e : Nat) (ecc : Bool) (cyc : Nat) (s : State) : ∃ s', execMxeLdh e ecc cyc s = .next s' ∧ Keeps s s' := by
  refine ⟨_, rfl, ?_⟩
  simp [Keeps]
theorem execMxeSth_frame (e : Nat) (ecc : Bool) (cyc : Nat) (s : State) : ∃ s', execMxeSth e ecc cyc s = .next s' ∧ Keeps s s' := by
  refine ⟨_, rfl, ?_⟩
  simp [Keeps]
theorem execMxeLdrec_frame (e : Nat) (ecc : Bool) (cyc : Nat) (s : State) : ∃ s', execMxeLdrec e ecc cyc s = .next s' ∧ Keeps s s' := by
  refine ⟨_, rfl, ?_⟩
  simp [Keeps]
theorem execMxeLdeft_frame (e : Nat) (ecc : Bool) (cyc : Nat) (fin : Bool) (lost : List Nat) (s : State) : ∃ s', execMxeLdeft e ecc cyc fin lost s = .next s' ∧ Keeps s s' := by
  refine ⟨_, rfl, ?_⟩
  simp [Keeps]
theorem execMxeVout_frame (e : Nat) (ecc : Bool) (cyc : Nat) (s : State) : ∃ s', execMxeVout e ecc cyc s = .next s' ∧ Keeps s s' := by
  refine ⟨_, rfl, ?_⟩
  simp [Keeps]
theorem execMxeLaunchWrite_frame (q : Req) (e : Nat) (d : Word) (s : State) : ∃ s', execMxeLaunchWrite q e d s = .next s' ∧ Keeps s s' := by
  refine ⟨_, rfl, ?_⟩
  simp [Keeps]
theorem execMxeRunStart_frame (e : Nat) (s : State) : ∃ s', execMxeRunStart e s = .next s' ∧ Keeps s s' := by
  refine ⟨_, rfl, ?_⟩
  simp [Keeps]
theorem execMxeContextSaveDone_frame (e : Nat) (s : State) : ∃ s', execMxeContextSaveDone e s = .next s' ∧ Keeps s s' := by
  refine ⟨_, rfl, ?_⟩
  simp [Keeps]
theorem execMxeContextRestoreDone_frame (e : Nat) (s : State) : ∃ s', execMxeContextRestoreDone e s = .next s' ∧ Keeps s s' := by
  refine ⟨_, rfl, ?_⟩
  simp [Keeps]
theorem execMxeAbort_frame (q : Req) (e : Nat) (d : Word) (s : State) : ∃ s', execMxeAbort q e d s = .next s' ∧ Keeps s s' := by
  refine ⟨_, rfl, ?_⟩
  simp [Keeps]
theorem execMxeSlotRead_frame (q : Req) (e k : Nat) (s : State) : ∃ s', execMxeSlotRead q e k s = .next s' ∧ Keeps s s' := by
  refine ⟨_, rfl, ?_⟩
  simp [Keeps]
theorem execMxeSlotWrite_frame (q : Req) (e k : Nat) (s : State) : ∃ s', execMxeSlotWrite q e k s = .next s' ∧ Keeps s s' := by
  refine ⟨_, rfl, ?_⟩
  simp [Keeps]
theorem execMxeLoad_frame (q : Req) (e k : Nat) (s : State) : ∃ s', execMxeLoad q e k s = .next s' ∧ Keeps s s' := by
  refine ⟨_, rfl, ?_⟩
  simp [Keeps]
theorem execMxeLoadDone_frame (e : Nat) (s : State) : ∃ s', execMxeLoadDone e s = .next s' ∧ Keeps s s' := by
  refine ⟨_, rfl, ?_⟩
  simp [Keeps]
theorem execMxeUnload_frame (q : Req) (e k : Nat) (s : State) : ∃ s', execMxeUnload q e k s = .next s' ∧ Keeps s s' := by
  refine ⟨_, rfl, ?_⟩
  simp [Keeps]
theorem execMxeProgRead_frame (q : Req) (e t idx : Nat) (s : State) : ∃ s', execMxeProgRead q e t idx s = .next s' ∧ Keeps s s' := by
  refine ⟨_, rfl, ?_⟩
  simp [Keeps]
theorem execMxeProgWrite_frame (q : Req) (e t idx : Nat) (s : State) : ∃ s', execMxeProgWrite q e t idx s = .next s' ∧ Keeps s s' := by
  refine ⟨_, rfl, ?_⟩
  simp [Keeps]
theorem execMxeRmonStatRead_frame (q : Req) (e k : Nat) (s : State) : ∃ s', execMxeRmonStatRead q e k s = .next s' ∧ Keeps s s' := by
  refine ⟨_, rfl, ?_⟩
  simp [Keeps]
theorem execNvPhaseDone_frame (s : State) : ∃ s', execNvPhaseDone s = .next s' ∧ Keeps s s' := by
  refine ⟨_, rfl, ?_⟩
  simp [Keeps]
theorem execNvhCheckpoint_frame (s : State) : ∃ s', execNvhCheckpoint s = .next s' ∧ Keeps s s' := by
  refine ⟨_, rfl, ?_⟩
  simp [Keeps]
theorem execNvhLogWriteDone_frame (ok : Bool) (s : State) : ∃ s', execNvhLogWriteDone ok s = .next s' ∧ Keeps s s' := by
  refine ⟨_, rfl, ?_⟩
  simp [Keeps]
theorem execNvhLogRead_frame (q : Req) (die idx : Nat) (s : State) : ∃ s', execNvhLogRead q die idx s = .next s' ∧ Keeps s s' := by
  refine ⟨_, rfl, ?_⟩
  simp [Keeps]
theorem execNvhFwdPop_frame (q : Req) (s : State) : ∃ s', execNvhFwdPop q s = .next s' ∧ Keeps s s' := by
  refine ⟨_, rfl, ?_⟩
  simp [Keeps]
theorem execNvhFwdWrite_frame (q : Req) (s : State) : ∃ s', execNvhFwdWrite q s = .next s' ∧ Keeps s s' := by
  refine ⟨_, rfl, ?_⟩
  simp [Keeps]
theorem execNvhStateRead_frame (q : Req) (idx : Nat) (s : State) : ∃ s', execNvhStateRead q idx s = .next s' ∧ Keeps s s' := by
  refine ⟨_, rfl, ?_⟩
  simp [Keeps]
theorem execNvhStateWrite_frame (q : Req) (idx : Nat) (s : State) : ∃ s', execNvhStateWrite q idx s = .next s' ∧ Keeps s s' := by
  refine ⟨_, rfl, ?_⟩
  simp [Keeps]
theorem execSmpValidate_frame (q : Req) (d : Word) (s : State) : ∃ s', execSmpValidate q d s = .next s' ∧ Keeps s s' := by
  refine ⟨_, rfl, ?_⟩
  simp [Keeps]
theorem execSmpValidateDone_frame (s : State) : ∃ s', execSmpValidateDone s = .next s' ∧ Keeps s s' := by
  refine ⟨_, rfl, ?_⟩
  simp [Keeps]
theorem execSmpPlanWrite_frame (q : Req) (d : Word) (s : State) : ∃ s', execSmpPlanWrite q d s = .next s' ∧ Keeps s s' := by
  refine ⟨_, rfl, ?_⟩
  simp [Keeps]
theorem execPlanRebuildDone_frame (g : Nat) (s : State) : ∃ s', execPlanRebuildDone g s = .next s' ∧ Keeps s s' := by
  refine ⟨_, rfl, ?_⟩
  simp [Keeps]
theorem execSmpTblRead_frame (q : Req) (t idx : Nat) (s : State) : ∃ s', execSmpTblRead q t idx s = .next s' ∧ Keeps s s' := by
  refine ⟨_, rfl, ?_⟩
  simp [Keeps]
theorem execSmpTblReadActive_frame (q : Req) (t idx : Nat) (s : State) : ∃ s', execSmpTblReadActive q t idx s = .next s' ∧ Keeps s s' := by
  refine ⟨_, rfl, ?_⟩
  simp [Keeps]
theorem execSmpTblWrite_frame (q : Req) (t idx : Nat) (s : State) : ∃ s', execSmpTblWrite q t idx s = .next s' ∧ Keeps s s' := by
  refine ⟨_, rfl, ?_⟩
  simp [Keeps]
theorem execRingPoll_frame (c : Nat) (prod : Option Nat) (descs : List (Option (List Byte))) (s : State) : ∃ s', execRingPoll c prod descs s = .next s' ∧ Keeps s s' := by
  refine ⟨_, rfl, ?_⟩
  simp [Keeps]
theorem execSegmentIssue_frame (x : Strm) (ecc : Bool) (s : State) : ∃ s', execSegmentIssue x ecc s = .next s' ∧ Keeps s s' := by
  refine ⟨_, rfl, ?_⟩
  simp [Keeps]
theorem execSegmentDone_frame (x : Strm) (idx k : Nat) (data : List Byte) (err : Bool) (s : State) : ∃ s', execSegmentDone x idx k data err s = .next s' ∧ Frame s s' := by
  refine ⟨_, rfl, ?_⟩
  refine KeepsTop.frame ?_ ?_ ?_
  · simp [KeepsTop]
  · intro k; simp [segmentDone_sram, k]
  · intro k; simp [k]
theorem execDescWriteback_frame (c idx : Nat) (wbErr consErr : Bool) (s : State) : ∃ s', execDescWriteback c idx wbErr consErr s = .next s' ∧ Keeps s s' := by
  refine ⟨_, rfl, ?_⟩
  simp [Keeps]
theorem execPmpAbort_frame (q : Req) (d : Word) (s : State) : ∃ s', execPmpAbort q d s = .next s' ∧ Keeps s s' := by
  refine ⟨_, rfl, ?_⟩
  simp [Keeps]
theorem execPmpChRestart_frame (q : Req) (d : Word) (s : State) : ∃ s', execPmpChRestart q d s = .next s' ∧ Keeps s s' := by
  refine ⟨_, rfl, ?_⟩
  simp [Keeps]
theorem execPmpChEnWrite_frame (q : Req) (d : Word) (s : State) : ∃ s', execPmpChEnWrite q d s = .next s' ∧ Keeps s s' := by
  refine ⟨_, rfl, ?_⟩
  simp [Keeps]
theorem execPmpChRead_frame (q : Req) (idx : Nat) (s : State) : ∃ s', execPmpChRead q idx s = .next s' ∧ Keeps s s' := by
  refine ⟨_, rfl, ?_⟩
  simp [Keeps]
theorem execPmpChWrite_frame (q : Req) (idx : Nat) (s : State) : ∃ s', execPmpChWrite q idx s = .next s' ∧ Keeps s s' := by
  refine ⟨_, rfl, ?_⟩
  simp [Keeps]
theorem execPmuCtrRead_frame (q : Req) (idx : Nat) (s : State) : ∃ s', execPmuCtrRead q idx s = .next s' ∧ Keeps s s' := by
  refine ⟨_, rfl, ?_⟩
  simp [Keeps]
theorem execPmuCtrReadSnap_frame (q : Req) (idx : Nat) (s : State) : ∃ s', execPmuCtrReadSnap q idx s = .next s' ∧ Keeps s s' := by
  refine ⟨_, rfl, ?_⟩
  simp [Keeps]
theorem execPmuCtrWrite_frame (q : Req) (idx : Nat) (s : State) : ∃ s', execPmuCtrWrite q idx s = .next s' ∧ Keeps s s' := by
  refine ⟨_, rfl, ?_⟩
  simp [Keeps]
theorem execPmuSnap_frame (q : Req) (d : Word) (s : State) : ∃ s', execPmuSnap q d s = .next s' ∧ Keeps s s' := by
  refine ⟨_, rfl, ?_⟩
  simp [Keeps]
theorem execPmuClear_frame (q : Req) (d : Word) (s : State) : ∃ s', execPmuClear q d s = .next s' ∧ Keeps s s' := by
  refine ⟨_, rfl, ?_⟩
  simp [Keeps]
theorem execPmuBytesRead_frame (q : Req) (idx : Nat) (s : State) : ∃ s', execPmuBytesRead q idx s = .next s' ∧ Keeps s s' := by
  refine ⟨_, rfl, ?_⟩
  simp [Keeps]
theorem execPmuAonRead_frame (q : Req) (idx : Nat) (s : State) : ∃ s', execPmuAonRead q idx s = .next s' ∧ Keeps s s' := by
  refine ⟨_, rfl, ?_⟩
  simp [Keeps]
theorem execPmuBwRead_frame (q : Req) (idx : Nat) (s : State) : ∃ s', execPmuBwRead q idx s = .next s' ∧ Keeps s s' := by
  refine ⟨_, rfl, ?_⟩
  simp [Keeps]
theorem execPmuWindowEnd_frame (s : State) : ∃ s', execPmuWindowEnd s = .next s' ∧ Keeps s s' := by
  refine ⟨_, rfl, ?_⟩
  simp [Keeps]
theorem execPmuRunlogRead_frame (q : Req) (idx : Nat) (s : State) : ∃ s', execPmuRunlogRead q idx s = .next s' ∧ Keeps s s' := by
  refine ⟨_, rfl, ?_⟩
  simp [Keeps]
theorem execPmuReplay_frame (q : Req) (d : Word) (s : State) : ∃ s', execPmuReplay q d s = .next s' ∧ Keeps s s' := by
  refine ⟨_, rfl, ?_⟩
  simp [Keeps]
theorem execUnitResetDone_frame (u : UnitKind) (i : Nat) (s : State) : ∃ s', execUnitResetDone u i s = .next s' ∧ KeepsLow s s' ∧ HbmOk s s' := by
  refine ⟨_, rfl, ?_⟩
  refine ⟨?_, ?_⟩
  · simp [KeepsLow]
  · intro k; simp [k]
theorem execPortTimeout_frame (s : State) : ∃ s', execPortTimeout s = .next s' ∧ KeepsLow s s' ∧ HbmOk s s' := by
  refine ⟨_, rfl, ?_⟩
  refine ⟨?_, ?_⟩
  · simp [KeepsLow]
  · intro k; simp [k]
theorem execRegisterWrite_frame (a : Access) (s : State) : ∃ s', execRegisterWrite a s = .next s' ∧ KeepsLow s s' ∧ HbmOk s s' := by
  refine ⟨_, rfl, ?_⟩
  refine ⟨?_, ?_⟩
  · simp [KeepsLow]
  · intro k; simp [k]
theorem execRcCounterRead_frame (q : Req) (u : UnitKind) (i off : Nat) (s : State) : ∃ s', execRcCounterRead q u i off s = .next s' ∧ Keeps s s' := by
  refine ⟨_, rfl, ?_⟩
  simp [Keeps]
theorem execUnitReset_frame (q : Req) (u : UnitKind) (i : Nat) (d : Word) (s : State) : ∃ s', execUnitReset q u i d s = .next s' ∧ KeepsLow s s' ∧ HbmOk s s' := by
  refine ⟨_, rfl, ?_⟩
  refine ⟨?_, ?_⟩
  · simp [KeepsLow]
  · intro k; rw [(State.settle_keeps _).2.2.2]; exact State.rowWrite_wf (fun t k => by simp [k]) k
theorem execPgErrClear_frame (q : Req) (u : UnitKind) (i : Nat) (d : Word) (s : State) : ∃ s', execPgErrClear q u i d s = .next s' ∧ Keeps s s' := by
  refine ⟨_, rfl, ?_⟩
  simp [Keeps]
theorem execPgLockWrite_frame (q : Req) (u : UnitKind) (i : Nat) (d : Word) (s : State) : ∃ s', execPgLockWrite q u i d s = .next s' ∧ Keeps s s' := by
  refine ⟨_, rfl, ?_⟩
  simp [Keeps]
theorem execAliasSet_frame (q : Req) (u : UnitKind) (i off : Nat) (d : Word) (s : State) : ∃ s', execAliasSet q u i off d s = .next s' ∧ KeepsLow s s' ∧ HbmOk s s' := by
  refine ⟨_, rfl, ?_⟩
  refine ⟨?_, ?_⟩
  · simp [KeepsLow]
  · intro k; rw [(State.settle_keeps _).2.2.2]; exact State.rowWrite_wf (fun t k => by simp [k]) k
theorem execAliasClr_frame (q : Req) (u : UnitKind) (i off : Nat) (d : Word) (s : State) : ∃ s', execAliasClr q u i off d s = .next s' ∧ KeepsLow s s' ∧ HbmOk s s' := by
  refine ⟨_, rfl, ?_⟩
  refine ⟨?_, ?_⟩
  · simp [KeepsLow]
  · intro k; rw [(State.settle_keeps _).2.2.2]; exact State.rowWrite_wf (fun t k => by simp [k]) k
theorem execDirViolRead_frame (q : Req) (s : State) : ∃ s', execDirViolRead q s = .next s' ∧ Keeps s s' := by
  refine ⟨_, rfl, ?_⟩
  simp [Keeps]
theorem execDirNodeWrite_frame (q : Req) (d : Word) (s : State) : ∃ s', execDirNodeWrite q d s = .next s' ∧ Keeps s s' := by
  refine ⟨_, rfl, ?_⟩
  simp [Keeps]
theorem execFltInject_frame (q : Req) (d : Word) (s : State) : ∃ s', execFltInject q d s = .next s' ∧ Keeps s s' := by
  refine ⟨_, rfl, ?_⟩
  simp [Keeps]
theorem execFunctionResetDone_frame (s : State) : ∃ s', execFunctionResetDone s = .next s' ∧ KeepsLow s s' ∧ HbmOk s s' := by
  refine ⟨_, rfl, ?_⟩
  refine ⟨?_, ?_⟩
  · simp [KeepsLow]
  · intro k; simp [k]
theorem execBootDone_frame (s : State) : ∃ s', execBootDone s = .next s' ∧ KeepsLow s s' ∧ HbmOk s s' := by
  refine ⟨_, rfl, ?_⟩
  refine ⟨?_, ?_⟩
  · simp [KeepsLow]
  · intro k; simp [k]
theorem execCoreRegAccess_frame (c : Nat) (pc addr : BitVec 32) (op : CoreOp) (data : BitVec 32) (ecc : Bool) (s : State) : ∃ s', execCoreRegAccess c pc addr op data ecc s = .next s' ∧ Frame s s' := by
  refine ⟨_, rfl, ?_⟩
  refine KeepsTop.frame ?_ ?_ ?_
  · simp [KeepsTop]
  · intro k; simp [coreRegAccess_sram, k]
  · intro k; simp [k]
theorem execPrimingDone_frame (s : State) : ∃ s', execPrimingDone s = .next s' ∧ Keeps s s' := by
  refine ⟨_, rfl, ?_⟩
  simp [Keeps]
theorem execHoldExpire_frame (s : State) : ∃ s', execHoldExpire s = .next s' ∧ Keeps s s' := by
  refine ⟨_, rfl, ?_⟩
  simp [Keeps]
theorem execUnprimingDone_frame (s : State) : ∃ s', execUnprimingDone s = .next s' ∧ Keeps s s' := by
  refine ⟨_, rfl, ?_⟩
  simp [Keeps]
theorem execFastVokAssert_frame (s : State) : ∃ s', execFastVokAssert s = .next s' ∧ Keeps s s' := by
  refine ⟨_, rfl, ?_⟩
  simp [Keeps]
theorem execPrimeTimeout_frame (s : State) : ∃ s', execPrimeTimeout s = .next s' ∧ Keeps s s' := by
  refine ⟨_, rfl, ?_⟩
  simp [Keeps]
theorem execFastVokTimeout_frame (s : State) : ∃ s', execFastVokTimeout s = .next s' ∧ Keeps s s' := by
  refine ⟨_, rfl, ?_⟩
  simp [Keeps]
theorem execRetryPrime_frame (q : Req) (d : Word) (s : State) : ∃ s', execRetryPrime q d s = .next s' ∧ Keeps s s' := by
  refine ⟨_, rfl, ?_⟩
  simp [Keeps]
theorem execPwrSwVoteWrite_frame (q : Req) (d : Word) (s : State) : ∃ s', execPwrSwVoteWrite q d s = .next s' ∧ Keeps s s' := by
  refine ⟨_, rfl, ?_⟩
  simp [Keeps]
theorem execFastRailDroop_frame (s : State) : ∃ s', execFastRailDroop s = .next s' ∧ Keeps s s' := by
  refine ⟨_, rfl, ?_⟩
  simp [Keeps]
theorem execRecordArrival_frame (w : Nat) (m : List Byte) (lost : List Word) (s : State) : ∃ s', execRecordArrival w m lost s = .next s' ∧ KeepsLow s s' ∧ HbmOk s s' := by
  refine ⟨_, rfl, ?_⟩
  refine ⟨?_, ?_⟩
  · simp [KeepsLow]
  · intro k; simp [k]
theorem execRdxClose_frame (n : Nat) (s : State) : ∃ s', execRdxClose n s = .next s' ∧ KeepsLow s s' ∧ HbmOk s s' := by
  refine ⟨_, rfl, ?_⟩
  refine ⟨?_, ?_⟩
  · simp [KeepsLow]
  · intro k; simp [k]
theorem execRdxResendWrite_frame (q : Req) (d : Word) (s : State) : ∃ s', execRdxResendWrite q d s = .next s' ∧ Keeps s s' := by
  refine ⟨_, rfl, ?_⟩
  simp [Keeps]
theorem execXrfRx_frame (p : Nat) (f : List Byte) (s : State) : ∃ s', execXrfRx p f s = .next s' ∧ Keeps s s' := by
  refine ⟨_, rfl, ?_⟩
  simp [Keeps]
theorem execRdxTblRead_frame (q : Req) (t idx : Nat) (s : State) : ∃ s', execRdxTblRead q t idx s = .next s' ∧ Keeps s s' := by
  refine ⟨_, rfl, ?_⟩
  simp [Keeps]
theorem execRdxTblWrite_frame (q : Req) (t idx : Nat) (s : State) : ∃ s', execRdxTblWrite q t idx s = .next s' ∧ Keeps s s' := by
  refine ⟨_, rfl, ?_⟩
  simp [Keeps]
theorem execDataFlitRx_frame (w : Nat) (f : List Byte) (corr : Nat) (uncorr : Option Nat) (sub : Nat) (s : State) : ∃ s', execDataFlitRx w f corr uncorr sub s = .next s' ∧ KeepsLow s s' ∧ HbmOk s s' := by
  refine ⟨_, rfl, ?_⟩
  refine ⟨?_, ?_⟩
  · simp [KeepsLow]
  · intro k; simp [k]
theorem execUpFrameRx_frame (p : Nat) (f : List Byte) (crcOk ecc : Bool) (s : State) : ∃ s', execUpFrameRx p f crcOk ecc s = .next s' ∧ Frame s s' := by
  refine ⟨_, rfl, ?_⟩
  refine KeepsTop.frame ?_ ?_ ?_
  · simp [KeepsTop]
  · intro k; rw [(State.settle_keeps _).2.2.1]; exact upFrameRx_sram _ _ _ _ _ k
  · intro k; simp [k]
theorem execTimedLaunch_frame (port : Nat) (s : State) : ∃ s', execTimedLaunch port s = .next s' ∧ Keeps s s' := by
  refine ⟨_, rfl, ?_⟩
  simp [Keeps]
theorem execMgmtRespRx_frame (w : Nat) (rs : List MgmtReply) (s : State) : ∃ s', execMgmtRespRx w rs s = .next s' ∧ Keeps s s' := by
  refine ⟨_, rfl, ?_⟩
  simp [Keeps]
theorem execMgmtTimeout_frame (w : Nat) (sq : BitVec 16) (s : State) : ∃ s', execMgmtTimeout w sq s = .next s' ∧ Keeps s s' := by
  refine ⟨_, rfl, ?_⟩
  simp [Keeps]
theorem execMgrRelayWrite_frame (q : Req) (idx : Nat) (s : State) : ∃ s', execMgrRelayWrite q idx s = .next s' ∧ Keeps s s' := by
  refine ⟨_, rfl, ?_⟩
  simp [Keeps]
theorem execMgrRelayPop_frame (q : Req) (idx : Nat) (s : State) : ∃ s', execMgrRelayPop q idx s = .next s' ∧ Keeps s s' := by
  refine ⟨_, rfl, ?_⟩
  simp [Keeps]
theorem execXltResume_frame (q : Req) (token : Nat) (s : State) : ∃ s', execXltResume q token s = .next s' ∧ KeepsLow s s' ∧ HbmOk s s' := by
  refine ⟨_, rfl, ?_⟩
  refine ⟨?_, ?_⟩
  · simp [KeepsLow]
  · apply State.rowWrite_wf; intro t k; simp [k]
theorem execXltAbort_frame (q : Req) (token : Nat) (s : State) : ∃ s', execXltAbort q token s = .next s' ∧ KeepsLow s s' ∧ HbmOk s s' := by
  refine ⟨_, rfl, ?_⟩
  refine ⟨?_, ?_⟩
  · simp [KeepsLow]
  · apply State.rowWrite_wf; intro t k; simp [k]
theorem execXltFaultTimeout_frame (token : Nat) (s : State) : ∃ s', execXltFaultTimeout token s = .next s' ∧ KeepsLow s s' ∧ HbmOk s s' := by
  refine ⟨_, rfl, ?_⟩
  refine ⟨?_, ?_⟩
  · simp [KeepsLow]
  · intro k; simp [k]
theorem execScrPassTimer_frame (s : State) : ∃ s', execScrPassTimer s = .next s' ∧ Keeps s s' := by
  refine ⟨_, rfl, ?_⟩
  simp [Keeps]
theorem execScrBundleLoad_frame (q : Req) (s : State) : ∃ s', execScrBundleLoad q s = .next s' ∧ Keeps s s' := by
  refine ⟨_, rfl, ?_⟩
  simp [Keeps]
theorem execScrBundleLoadDone_frame (s : State) : ∃ s', execScrBundleLoadDone s = .next s' ∧ Keeps s s' := by
  refine ⟨_, rfl, ?_⟩
  simp [Keeps]
theorem execScrPatternStart_frame (s : State) : ∃ s', execScrPatternStart s = .next s' ∧ Keeps s s' := by
  refine ⟨_, rfl, ?_⟩
  simp [Keeps]
theorem execScrPatternEnd_frame (e : PatEnd) (s : State) : ∃ s', execScrPatternEnd e s = .next s' ∧ Keeps s s' := by
  refine ⟨_, rfl, ?_⟩
  simp [Keeps]
theorem execScrHostPop_frame (q : Req) (s : State) : ∃ s', execScrHostPop q s = .next s' ∧ Keeps s s' := by
  refine ⟨_, rfl, ?_⟩
  simp [Keeps]
theorem execScrHostResult_frame (q : Req) (s : State) : ∃ s', execScrHostResult q s = .next s' ∧ Keeps s s' := by
  refine ⟨_, rfl, ?_⟩
  simp [Keeps]
theorem execScrHostTimeout_frame (i : Nat) (s : State) : ∃ s', execScrHostTimeout i s = .next s' ∧ Keeps s s' := by
  refine ⟨_, rfl, ?_⟩
  simp [Keeps]
theorem execScrPassNow_frame (q : Req) (d : Word) (s : State) : ∃ s', execScrPassNow q d s = .next s' ∧ Keeps s s' := by
  refine ⟨_, rfl, ?_⟩
  simp [Keeps]
theorem execScrAbortPass_frame (q : Req) (d : Word) (s : State) : ∃ s', execScrAbortPass q d s = .next s' ∧ Keeps s s' := by
  refine ⟨_, rfl, ?_⟩
  simp [Keeps]
theorem execScrRestoreWrite_frame (q : Req) (d : Word) (s : State) : ∃ s', execScrRestoreWrite q d s = .next s' ∧ Keeps s s' := by
  refine ⟨_, rfl, ?_⟩
  simp [Keeps]
theorem execRateHoldExpire_frame (w : Nat) (s : State) : ∃ s', execRateHoldExpire w s = .next s' ∧ Keeps s s' := by
  refine ⟨_, rfl, ?_⟩
  simp [Keeps]
theorem execLaneRateReqRx_frame (w code : Nat) (s : State) : ∃ s', execLaneRateReqRx w code s = .next s' ∧ Keeps s s' := by
  refine ⟨_, rfl, ?_⟩
  simp [Keeps]
theorem execRateSwitchDone_frame (w tx rx : Nat) (s : State) : ∃ s', execRateSwitchDone w tx rx s = .next s' ∧ Keeps s s' := by
  refine ⟨_, rfl, ?_⟩
  simp [Keeps]
theorem execLaneDetect_frame (w : Nat) (s : State) : ∃ s', execLaneDetect w s = .next s' ∧ Keeps s s' := by
  refine ⟨_, rfl, ?_⟩
  simp [Keeps]
theorem execTrainAlignDone_frame (w tx rx : Nat) (s : State) : ∃ s', execTrainAlignDone w tx rx s = .next s' ∧ Keeps s s' := by
  refine ⟨_, rfl, ?_⟩
  simp [Keeps]
theorem execTrainTimeout_frame (w : Nat) (s : State) : ∃ s', execTrainTimeout w s = .next s' ∧ Keeps s s' := by
  refine ⟨_, rfl, ?_⟩
  simp [Keeps]
theorem execRateSwitchTimeout_frame (w : Nat) (s : State) : ∃ s', execRateSwitchTimeout w s = .next s' ∧ Keeps s s' := by
  refine ⟨_, rfl, ?_⟩
  simp [Keeps]
theorem execLossOfSignal_frame (w : Nat) (s : State) : ∃ s', execLossOfSignal w s = .next s' ∧ Keeps s s' := by
  refine ⟨_, rfl, ?_⟩
  simp [Keeps]
theorem execQuarantineExpire_frame (w : Nat) (s : State) : ∃ s', execQuarantineExpire w s = .next s' ∧ Keeps s s' := by
  refine ⟨_, rfl, ?_⟩
  simp [Keeps]
theorem execSlkRetrain_frame (q : Req) (w : Nat) (d : Word) (s : State) : ∃ s', execSlkRetrain q w d s = .next s' ∧ Keeps s s' := by
  refine ⟨_, rfl, ?_⟩
  simp [Keeps]
theorem execSlkClearQuar_frame (q : Req) (w : Nat) (d : Word) (s : State) : ∃ s', execSlkClearQuar q w d s = .next s' ∧ Keeps s s' := by
  refine ⟨_, rfl, ?_⟩
  simp [Keeps]
theorem execSlkQuarantine_frame (q : Req) (w : Nat) (d : Word) (s : State) : ∃ s', execSlkQuarantine q w d s = .next s' ∧ Keeps s s' := by
  refine ⟨_, rfl, ?_⟩
  simp [Keeps]
theorem execTrainFlitRx_frame (w : Nat) (body : List Byte) (s : State) : ∃ s', execTrainFlitRx w body s = .next s' ∧ Keeps s s' := by
  refine ⟨_, rfl, ?_⟩
  simp [Keeps]
theorem execStaleTimeout_frame (w : Nat) (s : State) : ∃ s', execStaleTimeout w s = .next s' ∧ Keeps s s' := by
  refine ⟨_, rfl, ?_⟩
  simp [Keeps]
theorem execWellSnapAck_frame (w : Nat) (img : List (Nat × Word)) (s : State) : ∃ s', execWellSnapAck w img s = .next s' ∧ Keeps s s' := by
  refine ⟨_, rfl, ?_⟩
  simp [Keeps]
theorem execWellAckLow_frame (w : Nat) (s : State) : ∃ s', execWellAckLow w s = .next s' ∧ Keeps s s' := by
  refine ⟨_, rfl, ?_⟩
  simp [Keeps]
theorem execSkewWindowEnd_frame (w edges : Nat) (s : State) : ∃ s', execSkewWindowEnd w edges s = .next s' ∧ Keeps s s' := by
  refine ⟨_, rfl, ?_⟩
  simp [Keeps]
theorem execWelSlotRead_frame (q : Req) (w idx : Nat) (s : State) : ∃ s', execWelSlotRead q w idx s = .next s' ∧ Keeps s s' := by
  refine ⟨_, rfl, ?_⟩
  simp [Keeps]
theorem execWelSlotReadActive_frame (q : Req) (w idx : Nat) (s : State) : ∃ s', execWelSlotReadActive q w idx s = .next s' ∧ Keeps s s' := by
  refine ⟨_, rfl, ?_⟩
  simp [Keeps]
theorem execWelSlotWrite_frame (q : Req) (w idx : Nat) (s : State) : ∃ s', execWelSlotWrite q w idx s = .next s' ∧ Keeps s s' := by
  refine ⟨_, rfl, ?_⟩
  simp [Keeps]
theorem execSpringPrimeLead_frame (g : Nat) (s : State) : ∃ s', execSpringPrimeLead g s = .next s' ∧ Keeps s s' := by
  refine ⟨_, rfl, ?_⟩
  simp [Keeps]
theorem execGroupTick_frame (g : Nat) (s : State) : ∃ s', execGroupTick g s = .next s' ∧ Keeps s s' := by
  refine ⟨_, rfl, ?_⟩
  simp [Keeps]
theorem execRowComplete_frame (g : Nat) (s : State) : ∃ s', execRowComplete g s = .next s' ∧ KeepsLow s s' ∧ HbmOk s s' := by
  refine ⟨_, rfl, ?_⟩
  refine ⟨?_, ?_⟩
  · simp [KeepsLow]
  · intro k; simp [k]
theorem execStageAgeVote_frame (s : State) : ∃ s', execStageAgeVote s = .next s' ∧ Keeps s s' := by
  refine ⟨_, rfl, ?_⟩
  simp [Keeps]
theorem execSpringStart_frame (q : Req) (g : Nat) (s : State) : ∃ s', execSpringStart q g s = .next s' ∧ Keeps s s' := by
  refine ⟨_, rfl, ?_⟩
  simp [Keeps]
theorem execSpringStop_frame (q : Req) (g : Nat) (s : State) : ∃ s', execSpringStop q g s = .next s' ∧ Keeps s s' := by
  refine ⟨_, rfl, ?_⟩
  simp [Keeps]
theorem execSlowDownMsg_frame (shift : Nat) (s : State) : ∃ s', execSlowDownMsg shift s = .next s' ∧ Keeps s s' := by
  refine ⟨_, rfl, ?_⟩
  simp [Keeps]
theorem execStepMarkPort_frame (d : Word) (s : State) : ∃ s', execStepMarkPort d s = .next s' ∧ Keeps s s' := by
  refine ⟨_, rfl, ?_⟩
  simp [Keeps]
theorem execStmMarkWrite_frame (q : Req) (d : Word) (s : State) : ∃ s', execStmMarkWrite q d s = .next s' ∧ Keeps s s' := by
  refine ⟨_, rfl, ?_⟩
  simp [Keeps]
theorem execStepVerdict_frame (e step : Nat) (s : State) : ∃ s', execStepVerdict e step s = .next s' ∧ KeepsLow s s' ∧ HbmOk s s' := by
  refine ⟨_, rfl, ?_⟩
  refine ⟨?_, ?_⟩
  · simp [KeepsLow]
  · intro k; simp [k]
theorem execStepMarkRx_frame (w : Nat) (m : List Byte) (s : State) : ∃ s', execStepMarkRx w m s = .next s' ∧ KeepsLow s s' ∧ HbmOk s s' := by
  refine ⟨_, rfl, ?_⟩
  refine ⟨?_, ?_⟩
  · simp [KeepsLow]
  · intro k; simp [k]
theorem execFleetStragglerTrayRx_frame (p : Nat) (f : List Byte) (s : State) : ∃ s', execFleetStragglerTrayRx p f s = .next s' ∧ Keeps s s' := by
  refine ⟨_, rfl, ?_⟩
  simp [Keeps]
theorem execFleetStragglerLeafRx_frame (m : List Byte) (s : State) : ∃ s', execFleetStragglerLeafRx m s = .next s' ∧ Keeps s s' := by
  refine ⟨_, rfl, ?_⟩
  simp [Keeps]
theorem execStmJobRead_frame (q : Req) (idx : Nat) (s : State) : ∃ s', execStmJobRead q idx s = .next s' ∧ Keeps s s' := by
  refine ⟨_, rfl, ?_⟩
  simp [Keeps]
theorem execStmJobReadActive_frame (q : Req) (idx : Nat) (s : State) : ∃ s', execStmJobReadActive q idx s = .next s' ∧ Keeps s s' := by
  refine ⟨_, rfl, ?_⟩
  simp [Keeps]
theorem execStmJobWrite_frame (q : Req) (idx : Nat) (s : State) : ∃ s', execStmJobWrite q idx s = .next s' ∧ Keeps s s' := by
  refine ⟨_, rfl, ?_⟩
  simp [Keeps]
theorem execNotifyPop_frame (q : Req) (s : State) : ∃ s', execNotifyPop q s = .next s' ∧ Keeps s s' := by
  refine ⟨_, rfl, ?_⟩
  simp [Keeps]
theorem execStmRowRead_frame (q : Req) (idx : Nat) (s : State) : ∃ s', execStmRowRead q idx s = .next s' ∧ Keeps s s' := by
  refine ⟨_, rfl, ?_⟩
  simp [Keeps]
theorem execStmBaseRead_frame (q : Req) (idx : Nat) (s : State) : ∃ s', execStmBaseRead q idx s = .next s' ∧ Keeps s s' := by
  refine ⟨_, rfl, ?_⟩
  simp [Keeps]
theorem execStmBaseWrite_frame (q : Req) (idx : Nat) (s : State) : ∃ s', execStmBaseWrite q idx s = .next s' ∧ Keeps s s' := by
  refine ⟨_, rfl, ?_⟩
  simp [Keeps]
theorem execStmBaseReadActive_frame (q : Req) (idx : Nat) (s : State) : ∃ s', execStmBaseReadActive q idx s = .next s' ∧ Keeps s s' := by
  refine ⟨_, rfl, ?_⟩
  simp [Keeps]
theorem execTimeSyncSend_frame (w : Nat) (s : State) : ∃ s', execTimeSyncSend w s = .next s' ∧ Keeps s s' := by
  refine ⟨_, rfl, ?_⟩
  simp [Keeps]
theorem execTimeSyncRx_frame (f : TimeSyncFlit) (sub : Nat) (s : State) : ∃ s', execTimeSyncRx f sub s = .next s' ∧ Keeps s s' := by
  refine ⟨_, rfl, ?_⟩
  simp [Keeps]
theorem execTimeDreqRx_frame (w exId sub : Nat) (s : State) : ∃ s', execTimeDreqRx w exId sub s = .next s' ∧ Keeps s s' := by
  refine ⟨_, rfl, ?_⟩
  simp [Keeps]
theorem execTimeDrespRx_frame (exId t4 : Nat) (replayed : Bool) (s : State) : ∃ s', execTimeDrespRx exId t4 replayed s = .next s' ∧ Keeps s s' := by
  refine ⟨_, rfl, ?_⟩
  simp [Keeps]
theorem execMissedInterval_frame (s : State) : ∃ s', execMissedInterval s = .next s' ∧ Keeps s s' := by
  refine ⟨_, rfl, ?_⟩
  simp [Keeps]
theorem execSlewEnd_frame (s : State) : ∃ s', execSlewEnd s = .next s' ∧ Keeps s s' := by
  refine ⟨_, rfl, ?_⟩
  simp [Keeps]
theorem execPtpSyncRx_frame (p : Nat) (m : PtpMsg) (sub : Nat) (s : State) : ∃ s', execPtpSyncRx p m sub s = .next s' ∧ Keeps s s' := by
  refine ⟨_, rfl, ?_⟩
  simp [Keeps]
theorem execPtpFollowUpRx_frame (p : Nat) (m : PtpMsg) (s : State) : ∃ s', execPtpFollowUpRx p m s = .next s' ∧ Keeps s s' := by
  refine ⟨_, rfl, ?_⟩
  simp [Keeps]
theorem execPtpDelayReqSend_frame (p sub : Nat) (s : State) : ∃ s', execPtpDelayReqSend p sub s = .next s' ∧ Keeps s s' := by
  refine ⟨_, rfl, ?_⟩
  simp [Keeps]
theorem execPtpDelayRespRx_frame (p : Nat) (m : PtpMsg) (s : State) : ∃ s', execPtpDelayRespRx p m s = .next s' ∧ Keeps s s' := by
  refine ⟨_, rfl, ?_⟩
  simp [Keeps]
theorem execPtpPdelayReqRx_frame (p : Nat) (m : PtpMsg) (sub : Nat) (s : State) : ∃ s', execPtpPdelayReqRx p m sub s = .next s' ∧ Keeps s s' := by
  refine ⟨_, rfl, ?_⟩
  simp [Keeps]
theorem execPtpPdelayRespRx_frame (p : Nat) (m : PtpMsg) (sub : Nat) (s : State) : ∃ s', execPtpPdelayRespRx p m sub s = .next s' ∧ Keeps s s' := by
  refine ⟨_, rfl, ?_⟩
  simp [Keeps]
theorem execPtpPdelayRespFuRx_frame (p : Nat) (m : PtpMsg) (s : State) : ∃ s', execPtpPdelayRespFuRx p m s = .next s' ∧ Keeps s s' := by
  refine ⟨_, rfl, ?_⟩
  simp [Keeps]
theorem execPtpAnnounceRx_frame (p : Nat) (m : PtpMsg) (s : State) : ∃ s', execPtpAnnounceRx p m s = .next s' ∧ Keeps s s' := by
  refine ⟨_, rfl, ?_⟩
  simp [Keeps]
theorem execAnnounceTimeout_frame (p : Nat) (s : State) : ∃ s', execAnnounceTimeout p s = .next s' ∧ Keeps s s' := by
  refine ⟨_, rfl, ?_⟩
  simp [Keeps]
theorem execTxtsPop_frame (q : Req) (port : Nat) (s : State) : ∃ s', execTxtsPop q port s = .next s' ∧ Keeps s s' := by
  refine ⟨_, rfl, ?_⟩
  simp [Keeps]
theorem execPortTimeRead_frame (q : Req) (port : Nat) (s : State) : ∃ s', execPortTimeRead q port s = .next s' ∧ Keeps s s' := by
  refine ⟨_, rfl, ?_⟩
  simp [Keeps]
theorem execPortTimeWrite_frame (q : Req) (port : Nat) (s : State) : ∃ s', execPortTimeWrite q port s = .next s' ∧ Keeps s s' := by
  refine ⟨_, rfl, ?_⟩
  simp [Keeps]
theorem execTkpNowLoRead_frame (q : Req) (s : State) : ∃ s', execTkpNowLoRead q s = .next s' ∧ Keeps s s' := by
  refine ⟨_, rfl, ?_⟩
  simp [Keeps]
theorem execTreLaunchWrite_frame (q : Req) (e : Nat) (d : Word) (s : State) : ∃ s', execTreLaunchWrite q e d s = .next s' ∧ Keeps s s' := by
  refine ⟨_, rfl, ?_⟩
  simp [Keeps]
theorem execTreRunStart_frame (e : Nat) (s : State) : ∃ s', execTreRunStart e s = .next s' ∧ Keeps s s' := by
  refine ⟨_, rfl, ?_⟩
  simp [Keeps]
theorem execTreVector_frame (e : Nat) (lost : Bool) (ecc : Option Nat) (s : State) : ∃ s', execTreVector e lost ecc s = .next s' ∧ Keeps s s' := by
  refine ⟨_, rfl, ?_⟩
  simp [Keeps]
theorem execTreAbort_frame (q : Req) (e : Nat) (d : Word) (s : State) : ∃ s', execTreAbort q e d s = .next s' ∧ Keeps s s' := by
  refine ⟨_, rfl, ?_⟩
  simp [Keeps]
theorem execTreSlotRead_frame (q : Req) (e k : Nat) (s : State) : ∃ s', execTreSlotRead q e k s = .next s' ∧ Keeps s s' := by
  refine ⟨_, rfl, ?_⟩
  simp [Keeps]
theorem execTreSlotWrite_frame (q : Req) (e k : Nat) (s : State) : ∃ s', execTreSlotWrite q e k s = .next s' ∧ Keeps s s' := by
  refine ⟨_, rfl, ?_⟩
  simp [Keeps]
theorem execTreLoad_frame (q : Req) (e k : Nat) (s : State) : ∃ s', execTreLoad q e k s = .next s' ∧ Keeps s s' := by
  refine ⟨_, rfl, ?_⟩
  simp [Keeps]
theorem execTreLoadDone_frame (e : Nat) (s : State) : ∃ s', execTreLoadDone e s = .next s' ∧ Keeps s s' := by
  refine ⟨_, rfl, ?_⟩
  simp [Keeps]
theorem execTreUnload_frame (q : Req) (e k : Nat) (s : State) : ∃ s', execTreUnload q e k s = .next s' ∧ Keeps s s' := by
  refine ⟨_, rfl, ?_⟩
  simp [Keeps]
theorem execGateAdvance_frame (p : Nat) (s : State) : ∃ s', execGateAdvance p s = .next s' ∧ Keeps s s' := by
  refine ⟨_, rfl, ?_⟩
  simp [Keeps]
theorem execUpTx_frame (p sub : Nat) (s : State) : ∃ s', execUpTx p sub s = .next s' ∧ Keeps s s' := by
  refine ⟨_, rfl, ?_⟩
  simp [Keeps]
theorem execUpLinkDown_frame (p : Nat) (s : State) : ∃ s', execUpLinkDown p s = .next s' ∧ Keeps s s' := by
  refine ⟨_, rfl, ?_⟩
  simp [Keeps]
theorem execUpLinkUp_frame (p : Nat) (s : State) : ∃ s', execUpLinkUp p s = .next s' ∧ Keeps s s' := by
  refine ⟨_, rfl, ?_⟩
  simp [Keeps]
theorem execUpClearQuar_frame (q : Req) (p : Nat) (d : Word) (s : State) : ∃ s', execUpClearQuar q p d s = .next s' ∧ Keeps s s' := by
  refine ⟨_, rfl, ?_⟩
  simp [Keeps]
theorem execUpQuarFullClear_frame (q : Req) (p : Nat) (d : Word) (s : State) : ∃ s', execUpQuarFullClear q p d s = .next s' ∧ Keeps s s' := by
  refine ⟨_, rfl, ?_⟩
  simp [Keeps]
theorem execUpQuarExpire_frame (p : Nat) (mac : BitVec 48) (s : State) : ∃ s', execUpQuarExpire p mac s = .next s' ∧ Keeps s s' := by
  refine ⟨_, rfl, ?_⟩
  simp [Keeps]
theorem execSwFrameSend_frame (q : Req) (s : State) : ∃ s', execSwFrameSend q s = .next s' ∧ KeepsLow s s' ∧ HbmOk s s' := by
  refine ⟨_, rfl, ?_⟩
  refine ⟨?_, ?_⟩
  · simp [KeepsLow]
  · apply State.winCmd_wf; intro t k; simp [k]
theorem execSwFramePop_frame (q : Req) (s : State) : ∃ s', execSwFramePop q s = .next s' ∧ Keeps s s' := by
  refine ⟨_, rfl, ?_⟩
  simp [Keeps]
theorem execUpsQueueRead_frame (q : Req) (idx : Nat) (s : State) : ∃ s', execUpsQueueRead q idx s = .next s' ∧ Keeps s s' := by
  refine ⟨_, rfl, ?_⟩
  simp [Keeps]
theorem execUpsQueueWrite_frame (q : Req) (idx : Nat) (s : State) : ∃ s', execUpsQueueWrite q idx s = .next s' ∧ Keeps s s' := by
  refine ⟨_, rfl, ?_⟩
  simp [Keeps]
theorem execUpsGateRead_frame (q : Req) (idx : Nat) (s : State) : ∃ s', execUpsGateRead q idx s = .next s' ∧ Keeps s s' := by
  refine ⟨_, rfl, ?_⟩
  simp [Keeps]
theorem execUpsGateWrite_frame (q : Req) (idx : Nat) (s : State) : ∃ s', execUpsGateWrite q idx s = .next s' ∧ Keeps s s' := by
  refine ⟨_, rfl, ?_⟩
  simp [Keeps]
theorem execUpsRouteRead_frame (q : Req) (idx : Nat) (s : State) : ∃ s', execUpsRouteRead q idx s = .next s' ∧ Keeps s s' := by
  refine ⟨_, rfl, ?_⟩
  simp [Keeps]
theorem execUpsRouteWrite_frame (q : Req) (idx : Nat) (s : State) : ∃ s', execUpsRouteWrite q idx s = .next s' ∧ Keeps s s' := by
  refine ⟨_, rfl, ?_⟩
  simp [Keeps]
theorem execVoteRaise_frame (v : Voter) (s : State) : ∃ s', execVoteRaise v s = .next s' ∧ Keeps s s' := by
  refine ⟨_, rfl, ?_⟩
  simp [Keeps]
theorem execVoteClear_frame (v : Voter) (s : State) : ∃ s', execVoteClear v s = .next s' ∧ Keeps s s' := by
  refine ⟨_, rfl, ?_⟩
  simp [Keeps]
theorem execXltWalk_frame (x : Strm) (ptes : List (Option Word)) (s : State) : ∃ s', execXltWalk x ptes s = .next s' ∧ Keeps s s' := by
  refine ⟨_, rfl, ?_⟩
  simp [Keeps]
theorem execXltFaultPop_frame (q : Req) (s : State) : ∃ s', execXltFaultPop q s = .next s' ∧ Keeps s s' := by
  refine ⟨_, rfl, ?_⟩
  simp [Keeps]
theorem execXltInvContext_frame (q : Req) (ctx : Nat) (s : State) : ∃ s', execXltInvContext q ctx s = .next s' ∧ Keeps s s' := by
  refine ⟨_, rfl, ?_⟩
  simp [Keeps]
theorem execXltInvPage_frame (q : Req) (ctx va : Nat) (s : State) : ∃ s', execXltInvPage q ctx va s = .next s' ∧ Keeps s s' := by
  refine ⟨_, rfl, ?_⟩
  simp [Keeps]
theorem execXltInvAll_frame (q : Req) (s : State) : ∃ s', execXltInvAll q s = .next s' ∧ Keeps s s' := by
  refine ⟨_, rfl, ?_⟩
  simp [Keeps]
theorem execXltInvDone_frame (window : Bool) (s : State) : ∃ s', execXltInvDone window s = .next s' ∧ Keeps s s' := by
  refine ⟨_, rfl, ?_⟩
  simp [Keeps]
theorem execXltCtxRead_frame (q : Req) (idx : Nat) (s : State) : ∃ s', execXltCtxRead q idx s = .next s' ∧ Keeps s s' := by
  refine ⟨_, rfl, ?_⟩
  simp [Keeps]
theorem execXltCtxWrite_frame (q : Req) (idx : Nat) (s : State) : ∃ s', execXltCtxWrite q idx s = .next s' ∧ Keeps s s' := by
  refine ⟨_, rfl, ?_⟩
  simp [Keeps]
theorem execTreeSendTimer_frame (s : State) : ∃ s', execTreeSendTimer s = .next s' ∧ Keeps s s' := by
  refine ⟨_, rfl, ?_⟩
  simp [Keeps]

end Sys2Proof.Machine
end

