-- ==== Sys2Proof/Laws/Registers.lean ====
section
/-! SUPPORT. The sparse tables and the registers: a read after a write, and a write of one leaves the others. -/

namespace Sys2Proof.Machine

@[simp] theorem SMap.get?_set_same {α : Type} (m : SMap α) (k : Nat) (v : α) : (m.set k v).get? k = some v := by
  induction m with
  | nil => simp [SMap.set, SMap.get?]
  | cons x r ih =>
    obtain ⟨j, w⟩ := x
    unfold SMap.set
    split
    · simp [SMap.get?]
    · split
      · simp [SMap.get?]
      · simp [SMap.get?, *]

theorem SMap.get?_set_ne {α : Type} (m : SMap α) {k k' : Nat} (v : α) (h : k' ≠ k) : (m.set k v).get? k' = m.get? k' := by
  induction m with
  | nil => simp [SMap.set, SMap.get?, h]
  | cons x r ih =>
    obtain ⟨j, w⟩ := x
    unfold SMap.set
    split
    · rename_i e; subst e; simp [SMap.get?, h]
    · split
      · simp [SMap.get?, h]
      · simp only [SMap.get?, ih]

@[simp] theorem SMap.get?_erase_same {α : Type} (m : SMap α) (k : Nat) : (m.erase k).get? k = none := by
  induction m with
  | nil => rfl
  | cons x r ih =>
    obtain ⟨j, w⟩ := x
    unfold SMap.erase
    split
    · exact ih
    · simp [SMap.get?, *]

theorem SMap.get?_erase_ne {α : Type} (m : SMap α) {k k' : Nat} (h : k' ≠ k) : (m.erase k).get? k' = m.get? k' := by
  induction m with
  | nil => rfl
  | cons x r ih =>
    obtain ⟨j, w⟩ := x
    unfold SMap.erase
    split
    · rename_i e; subst e; simp [SMap.get?, h, ih]
    · simp only [SMap.get?, ih]

@[simp] theorem SMap.getD_set_same {α : Type} (m : SMap α) (k : Nat) (v d : α) : (m.set k v).getD k d = v := by
  simp [SMap.getD]

theorem SMap.getD_set_ne {α : Type} (m : SMap α) {k k' : Nat} (v d : α) (h : k' ≠ k) : (m.set k v).getD k' d = m.getD k' d := by
  simp [SMap.getD, SMap.get?_set_ne m v h]

/-- A register reads what was written to it. -/
@[simp] theorem State.reg_setReg_same (s : State) (r : Reg) (i : Nat) (v : Word) : (s.setReg r i v).reg r i = v := by
  unfold State.reg State.setReg
  by_cases h : v = BitVec.ofNat 64 (resetVal s.chip r)
  · simp [h]
  · simp [h]

/-- A write of one register leaves every other. -/
theorem State.reg_setReg_ne (s : State) (r r' : Reg) {i i' : Nat} (v : Word) (h : regKey r' i' ≠ regKey r i) :
    (s.setReg r i v).reg r' i' = s.reg r' i' := by
  have e : (if v = BitVec.ofNat 64 (resetVal s.chip r) then s.regs.erase (regKey r i) else s.regs.set (regKey r i) v).get?
      (regKey r' i') = s.regs.get? (regKey r' i') := by
    split
    · exact SMap.get?_erase_ne _ h
    · exact SMap.get?_set_ne _ _ h
  unfold State.reg State.setReg
  dsimp only
  rw [e]

/-- One byte of memory after a write of one byte. -/
theorem Mem.byte_put (m : List Host.Cell) (a b : Nat) (v : Byte) :
    Mem.byte (Mem.put m a v) b = if b = a then v else Mem.byte m b := by
  unfold Mem.byte Mem.put SMap.getD
  by_cases h : b = a
  · subst h
    by_cases hv : v = 0
    · simp [hv]
    · rw [if_neg hv, SMap.get?_set_same]; simp
  · by_cases hv : v = 0
    · rw [if_pos hv, if_neg h, SMap.get?_erase_ne m h]
    · rw [if_neg hv, if_neg h, SMap.get?_set_ne m v h]

/-- A byte outside the written region reads as before. -/
theorem Mem.byte_write_out (m : List Host.Cell) (a b : Nat) (bs : Bytes) (h : b < a ∨ a + bs.length ≤ b) :
    Mem.byte (Mem.write m a bs) b = Mem.byte m b := by
  induction bs generalizing m a with
  | nil => rfl
  | cons x bs ih =>
    unfold Mem.write
    simp only [List.length_cons] at h
    rw [ih _ _ (by omega), Mem.byte_put, if_neg (by omega)]

/-- A byte of the written region reads as written. -/
theorem Mem.byte_write_in (m : List Host.Cell) (a k : Nat) (bs : Bytes) (h : k < bs.length) :
    Mem.byte (Mem.write m a bs) (a + k) = bs[k] := by
  induction bs generalizing m a k with
  | nil => simp at h
  | cons x bs ih =>
    unfold Mem.write
    cases k with
    | zero => rw [Mem.byte_write_out _ _ _ _ (by omega), Mem.byte_put]; simp
    | succ k =>
      have := ih (Mem.put m a x) (a + 1) k (by simpa using h)
      rw [show a + (k + 1) = a + 1 + k by omega, this]; simp

end Sys2Proof.Machine
end

