-- ==== Sys2Proof/Laws/State.lean ====
section
/-! SUPPORT. The state beside its updates: what each named update leaves in every field it does not write, and what the accessors of
the tables read after their own updates. -/

namespace Sys2Proof.Machine

/-! ### `setReg` writes `regs` -/

@[simp] theorem State.setReg_chip (s : State) (r : Reg) (i : Nat) (v : Word) : (s.setReg r i v).chip = s.chip := rfl
@[simp] theorem State.setReg_aon (s : State) (r : Reg) (i : Nat) (v : Word) : (s.setReg r i v).aon = s.aon := rfl
@[simp] theorem State.setReg_staged (s : State) (r : Reg) (i : Nat) (v : Word) : (s.setReg r i v).staged = s.staged := rfl
@[simp] theorem State.setReg_marked (s : State) (r : Reg) (i : Nat) (v : Word) : (s.setReg r i v).marked = s.marked := rfl
@[simp] theorem State.setReg_resetting (s : State) (r : Reg) (i : Nat) (v : Word) : (s.setReg r i v).resetting = s.resetting := rfl
@[simp] theorem State.setReg_waiting (s : State) (r : Reg) (i : Nat) (v : Word) : (s.setReg r i v).waiting = s.waiting := rfl
@[simp] theorem State.setReg_reply (s : State) (r : Reg) (i : Nat) (v : Word) : (s.setReg r i v).reply = s.reply := rfl
@[simp] theorem State.setReg_kept (s : State) (r : Reg) (i : Nat) (v : Word) : (s.setReg r i v).kept = s.kept := rfl
@[simp] theorem State.setReg_flt (s : State) (r : Reg) (i : Nat) (v : Word) : (s.setReg r i v).flt = s.flt := rfl
@[simp] theorem State.setReg_evr (s : State) (r : Reg) (i : Nat) (v : Word) : (s.setReg r i v).evr = s.evr := rfl
@[simp] theorem State.setReg_irc (s : State) (r : Reg) (i : Nat) (v : Word) : (s.setReg r i v).irc = s.irc := rfl
@[simp] theorem State.setReg_tkp (s : State) (r : Reg) (i : Nat) (v : Word) : (s.setReg r i v).tkp = s.tkp := rfl
@[simp] theorem State.setReg_pwr (s : State) (r : Reg) (i : Nat) (v : Word) : (s.setReg r i v).pwr = s.pwr := rfl
@[simp] theorem State.setReg_lcm (s : State) (r : Reg) (i : Nat) (v : Word) : (s.setReg r i v).lcm = s.lcm := rfl
@[simp] theorem State.setReg_nvh (s : State) (r : Reg) (i : Nat) (v : Word) : (s.setReg r i v).nvh = s.nvh := rfl
@[simp] theorem State.setReg_scr (s : State) (r : Reg) (i : Nat) (v : Word) : (s.setReg r i v).scr = s.scr := rfl
@[simp] theorem State.setReg_smp (s : State) (r : Reg) (i : Nat) (v : Word) : (s.setReg r i v).smp = s.smp := rfl
@[simp] theorem State.setReg_wells (s : State) (r : Reg) (i : Nat) (v : Word) : (s.setReg r i v).wells = s.wells := rfl
@[simp] theorem State.setReg_epr (s : State) (r : Reg) (i : Nat) (v : Word) : (s.setReg r i v).epr = s.epr := rfl
@[simp] theorem State.setReg_cmp (s : State) (r : Reg) (i : Nat) (v : Word) : (s.setReg r i v).cmp = s.cmp := rfl
@[simp] theorem State.setReg_cap (s : State) (r : Reg) (i : Nat) (v : Word) : (s.setReg r i v).cap = s.cap := rfl
@[simp] theorem State.setReg_htp (s : State) (r : Reg) (i : Nat) (v : Word) : (s.setReg r i v).htp = s.htp := rfl
@[simp] theorem State.setReg_lanes (s : State) (r : Reg) (i : Nat) (v : Word) : (s.setReg r i v).lanes = s.lanes := rfl
@[simp] theorem State.setReg_hpa (s : State) (r : Reg) (i : Nat) (v : Word) : (s.setReg r i v).hpa = s.hpa := rfl
@[simp] theorem State.setReg_rdx (s : State) (r : Reg) (i : Nat) (v : Word) : (s.setReg r i v).rdx = s.rdx := rfl
@[simp] theorem State.setReg_cis (s : State) (r : Reg) (i : Nat) (v : Word) : (s.setReg r i v).cis = s.cis := rfl
@[simp] theorem State.setReg_ups (s : State) (r : Reg) (i : Nat) (v : Word) : (s.setReg r i v).ups = s.ups := rfl
@[simp] theorem State.setReg_bud (s : State) (r : Reg) (i : Nat) (v : Word) : (s.setReg r i v).bud = s.bud := rfl
@[simp] theorem State.setReg_mgr (s : State) (r : Reg) (i : Nat) (v : Word) : (s.setReg r i v).mgr = s.mgr := rfl
@[simp] theorem State.setReg_mxe (s : State) (r : Reg) (i : Nat) (v : Word) : (s.setReg r i v).mxe = s.mxe := rfl
@[simp] theorem State.setReg_tre (s : State) (r : Reg) (i : Nat) (v : Word) : (s.setReg r i v).tre = s.tre := rfl
@[simp] theorem State.setReg_eft (s : State) (r : Reg) (i : Nat) (v : Word) : (s.setReg r i v).eft = s.eft := rfl
@[simp] theorem State.setReg_cor (s : State) (r : Reg) (i : Nat) (v : Word) : (s.setReg r i v).cor = s.cor := rfl
@[simp] theorem State.setReg_pmp (s : State) (r : Reg) (i : Nat) (v : Word) : (s.setReg r i v).pmp = s.pmp := rfl
@[simp] theorem State.setReg_xlt (s : State) (r : Reg) (i : Nat) (v : Word) : (s.setReg r i v).xlt = s.xlt := rfl
@[simp] theorem State.setReg_col (s : State) (r : Reg) (i : Nat) (v : Word) : (s.setReg r i v).col = s.col := rfl
@[simp] theorem State.setReg_stm (s : State) (r : Reg) (i : Nat) (v : Word) : (s.setReg r i v).stm = s.stm := rfl
@[simp] theorem State.setReg_pmu (s : State) (r : Reg) (i : Nat) (v : Word) : (s.setReg r i v).pmu = s.pmu := rfl
@[simp] theorem State.setReg_pkg (s : State) (r : Reg) (i : Nat) (v : Word) : (s.setReg r i v).pkg = s.pkg := rfl
@[simp] theorem State.setReg_sram (s : State) (r : Reg) (i : Nat) (v : Word) : (s.setReg r i v).sram = s.sram := rfl
@[simp] theorem State.setReg_hbm (s : State) (r : Reg) (i : Nat) (v : Word) : (s.setReg r i v).hbm = s.hbm := rfl
@[simp] theorem State.setReg_outbox (s : State) (r : Reg) (i : Nat) (v : Word) : (s.setReg r i v).outbox = s.outbox := rfl
@[simp] theorem State.setReg_free (s : State) (r : Reg) (i : Nat) (v : Word) : (s.setReg r i v).free = s.free := rfl
@[simp] theorem State.setReg_pending (s : State) (r : Reg) (i : Nat) (v : Word) : (s.setReg r i v).pending = s.pending := rfl

/-! ### `setFld` writes `regs` -/

@[simp] theorem State.setFld_chip (s : State) (f : Fld) (i v : Nat) : (s.setFld f i v).chip = s.chip := rfl
@[simp] theorem State.setFld_aon (s : State) (f : Fld) (i v : Nat) : (s.setFld f i v).aon = s.aon := rfl
@[simp] theorem State.setFld_staged (s : State) (f : Fld) (i v : Nat) : (s.setFld f i v).staged = s.staged := rfl
@[simp] theorem State.setFld_marked (s : State) (f : Fld) (i v : Nat) : (s.setFld f i v).marked = s.marked := rfl
@[simp] theorem State.setFld_resetting (s : State) (f : Fld) (i v : Nat) : (s.setFld f i v).resetting = s.resetting := rfl
@[simp] theorem State.setFld_waiting (s : State) (f : Fld) (i v : Nat) : (s.setFld f i v).waiting = s.waiting := rfl
@[simp] theorem State.setFld_reply (s : State) (f : Fld) (i v : Nat) : (s.setFld f i v).reply = s.reply := rfl
@[simp] theorem State.setFld_kept (s : State) (f : Fld) (i v : Nat) : (s.setFld f i v).kept = s.kept := rfl
@[simp] theorem State.setFld_flt (s : State) (f : Fld) (i v : Nat) : (s.setFld f i v).flt = s.flt := rfl
@[simp] theorem State.setFld_evr (s : State) (f : Fld) (i v : Nat) : (s.setFld f i v).evr = s.evr := rfl
@[simp] theorem State.setFld_irc (s : State) (f : Fld) (i v : Nat) : (s.setFld f i v).irc = s.irc := rfl
@[simp] theorem State.setFld_tkp (s : State) (f : Fld) (i v : Nat) : (s.setFld f i v).tkp = s.tkp := rfl
@[simp] theorem State.setFld_pwr (s : State) (f : Fld) (i v : Nat) : (s.setFld f i v).pwr = s.pwr := rfl
@[simp] theorem State.setFld_lcm (s : State) (f : Fld) (i v : Nat) : (s.setFld f i v).lcm = s.lcm := rfl
@[simp] theorem State.setFld_nvh (s : State) (f : Fld) (i v : Nat) : (s.setFld f i v).nvh = s.nvh := rfl
@[simp] theorem State.setFld_scr (s : State) (f : Fld) (i v : Nat) : (s.setFld f i v).scr = s.scr := rfl
@[simp] theorem State.setFld_smp (s : State) (f : Fld) (i v : Nat) : (s.setFld f i v).smp = s.smp := rfl
@[simp] theorem State.setFld_wells (s : State) (f : Fld) (i v : Nat) : (s.setFld f i v).wells = s.wells := rfl
@[simp] theorem State.setFld_epr (s : State) (f : Fld) (i v : Nat) : (s.setFld f i v).epr = s.epr := rfl
@[simp] theorem State.setFld_cmp (s : State) (f : Fld) (i v : Nat) : (s.setFld f i v).cmp = s.cmp := rfl
@[simp] theorem State.setFld_cap (s : State) (f : Fld) (i v : Nat) : (s.setFld f i v).cap = s.cap := rfl
@[simp] theorem State.setFld_htp (s : State) (f : Fld) (i v : Nat) : (s.setFld f i v).htp = s.htp := rfl
@[simp] theorem State.setFld_lanes (s : State) (f : Fld) (i v : Nat) : (s.setFld f i v).lanes = s.lanes := rfl
@[simp] theorem State.setFld_hpa (s : State) (f : Fld) (i v : Nat) : (s.setFld f i v).hpa = s.hpa := rfl
@[simp] theorem State.setFld_rdx (s : State) (f : Fld) (i v : Nat) : (s.setFld f i v).rdx = s.rdx := rfl
@[simp] theorem State.setFld_cis (s : State) (f : Fld) (i v : Nat) : (s.setFld f i v).cis = s.cis := rfl
@[simp] theorem State.setFld_ups (s : State) (f : Fld) (i v : Nat) : (s.setFld f i v).ups = s.ups := rfl
@[simp] theorem State.setFld_bud (s : State) (f : Fld) (i v : Nat) : (s.setFld f i v).bud = s.bud := rfl
@[simp] theorem State.setFld_mgr (s : State) (f : Fld) (i v : Nat) : (s.setFld f i v).mgr = s.mgr := rfl
@[simp] theorem State.setFld_mxe (s : State) (f : Fld) (i v : Nat) : (s.setFld f i v).mxe = s.mxe := rfl
@[simp] theorem State.setFld_tre (s : State) (f : Fld) (i v : Nat) : (s.setFld f i v).tre = s.tre := rfl
@[simp] theorem State.setFld_eft (s : State) (f : Fld) (i v : Nat) : (s.setFld f i v).eft = s.eft := rfl
@[simp] theorem State.setFld_cor (s : State) (f : Fld) (i v : Nat) : (s.setFld f i v).cor = s.cor := rfl
@[simp] theorem State.setFld_pmp (s : State) (f : Fld) (i v : Nat) : (s.setFld f i v).pmp = s.pmp := rfl
@[simp] theorem State.setFld_xlt (s : State) (f : Fld) (i v : Nat) : (s.setFld f i v).xlt = s.xlt := rfl
@[simp] theorem State.setFld_col (s : State) (f : Fld) (i v : Nat) : (s.setFld f i v).col = s.col := rfl
@[simp] theorem State.setFld_stm (s : State) (f : Fld) (i v : Nat) : (s.setFld f i v).stm = s.stm := rfl
@[simp] theorem State.setFld_pmu (s : State) (f : Fld) (i v : Nat) : (s.setFld f i v).pmu = s.pmu := rfl
@[simp] theorem State.setFld_pkg (s : State) (f : Fld) (i v : Nat) : (s.setFld f i v).pkg = s.pkg := rfl
@[simp] theorem State.setFld_sram (s : State) (f : Fld) (i v : Nat) : (s.setFld f i v).sram = s.sram := rfl
@[simp] theorem State.setFld_hbm (s : State) (f : Fld) (i v : Nat) : (s.setFld f i v).hbm = s.hbm := rfl
@[simp] theorem State.setFld_outbox (s : State) (f : Fld) (i v : Nat) : (s.setFld f i v).outbox = s.outbox := rfl
@[simp] theorem State.setFld_free (s : State) (f : Fld) (i v : Nat) : (s.setFld f i v).free = s.free := rfl
@[simp] theorem State.setFld_pending (s : State) (f : Fld) (i v : Nat) : (s.setFld f i v).pending = s.pending := rfl

/-! ### `bump` writes `regs` -/

@[simp] theorem State.bump_chip (s : State) (f : Fld) (i n : Nat) : (s.bump f i n).chip = s.chip := rfl
@[simp] theorem State.bump_aon (s : State) (f : Fld) (i n : Nat) : (s.bump f i n).aon = s.aon := rfl
@[simp] theorem State.bump_staged (s : State) (f : Fld) (i n : Nat) : (s.bump f i n).staged = s.staged := rfl
@[simp] theorem State.bump_marked (s : State) (f : Fld) (i n : Nat) : (s.bump f i n).marked = s.marked := rfl
@[simp] theorem State.bump_resetting (s : State) (f : Fld) (i n : Nat) : (s.bump f i n).resetting = s.resetting := rfl
@[simp] theorem State.bump_waiting (s : State) (f : Fld) (i n : Nat) : (s.bump f i n).waiting = s.waiting := rfl
@[simp] theorem State.bump_reply (s : State) (f : Fld) (i n : Nat) : (s.bump f i n).reply = s.reply := rfl
@[simp] theorem State.bump_kept (s : State) (f : Fld) (i n : Nat) : (s.bump f i n).kept = s.kept := rfl
@[simp] theorem State.bump_flt (s : State) (f : Fld) (i n : Nat) : (s.bump f i n).flt = s.flt := rfl
@[simp] theorem State.bump_evr (s : State) (f : Fld) (i n : Nat) : (s.bump f i n).evr = s.evr := rfl
@[simp] theorem State.bump_irc (s : State) (f : Fld) (i n : Nat) : (s.bump f i n).irc = s.irc := rfl
@[simp] theorem State.bump_tkp (s : State) (f : Fld) (i n : Nat) : (s.bump f i n).tkp = s.tkp := rfl
@[simp] theorem State.bump_pwr (s : State) (f : Fld) (i n : Nat) : (s.bump f i n).pwr = s.pwr := rfl
@[simp] theorem State.bump_lcm (s : State) (f : Fld) (i n : Nat) : (s.bump f i n).lcm = s.lcm := rfl
@[simp] theorem State.bump_nvh (s : State) (f : Fld) (i n : Nat) : (s.bump f i n).nvh = s.nvh := rfl
@[simp] theorem State.bump_scr (s : State) (f : Fld) (i n : Nat) : (s.bump f i n).scr = s.scr := rfl
@[simp] theorem State.bump_smp (s : State) (f : Fld) (i n : Nat) : (s.bump f i n).smp = s.smp := rfl
@[simp] theorem State.bump_wells (s : State) (f : Fld) (i n : Nat) : (s.bump f i n).wells = s.wells := rfl
@[simp] theorem State.bump_epr (s : State) (f : Fld) (i n : Nat) : (s.bump f i n).epr = s.epr := rfl
@[simp] theorem State.bump_cmp (s : State) (f : Fld) (i n : Nat) : (s.bump f i n).cmp = s.cmp := rfl
@[simp] theorem State.bump_cap (s : State) (f : Fld) (i n : Nat) : (s.bump f i n).cap = s.cap := rfl
@[simp] theorem State.bump_htp (s : State) (f : Fld) (i n : Nat) : (s.bump f i n).htp = s.htp := rfl
@[simp] theorem State.bump_lanes (s : State) (f : Fld) (i n : Nat) : (s.bump f i n).lanes = s.lanes := rfl
@[simp] theorem State.bump_hpa (s : State) (f : Fld) (i n : Nat) : (s.bump f i n).hpa = s.hpa := rfl
@[simp] theorem State.bump_rdx (s : State) (f : Fld) (i n : Nat) : (s.bump f i n).rdx = s.rdx := rfl
@[simp] theorem State.bump_cis (s : State) (f : Fld) (i n : Nat) : (s.bump f i n).cis = s.cis := rfl
@[simp] theorem State.bump_ups (s : State) (f : Fld) (i n : Nat) : (s.bump f i n).ups = s.ups := rfl
@[simp] theorem State.bump_bud (s : State) (f : Fld) (i n : Nat) : (s.bump f i n).bud = s.bud := rfl
@[simp] theorem State.bump_mgr (s : State) (f : Fld) (i n : Nat) : (s.bump f i n).mgr = s.mgr := rfl
@[simp] theorem State.bump_mxe (s : State) (f : Fld) (i n : Nat) : (s.bump f i n).mxe = s.mxe := rfl
@[simp] theorem State.bump_tre (s : State) (f : Fld) (i n : Nat) : (s.bump f i n).tre = s.tre := rfl
@[simp] theorem State.bump_eft (s : State) (f : Fld) (i n : Nat) : (s.bump f i n).eft = s.eft := rfl
@[simp] theorem State.bump_cor (s : State) (f : Fld) (i n : Nat) : (s.bump f i n).cor = s.cor := rfl
@[simp] theorem State.bump_pmp (s : State) (f : Fld) (i n : Nat) : (s.bump f i n).pmp = s.pmp := rfl
@[simp] theorem State.bump_xlt (s : State) (f : Fld) (i n : Nat) : (s.bump f i n).xlt = s.xlt := rfl
@[simp] theorem State.bump_col (s : State) (f : Fld) (i n : Nat) : (s.bump f i n).col = s.col := rfl
@[simp] theorem State.bump_stm (s : State) (f : Fld) (i n : Nat) : (s.bump f i n).stm = s.stm := rfl
@[simp] theorem State.bump_pmu (s : State) (f : Fld) (i n : Nat) : (s.bump f i n).pmu = s.pmu := rfl
@[simp] theorem State.bump_pkg (s : State) (f : Fld) (i n : Nat) : (s.bump f i n).pkg = s.pkg := rfl
@[simp] theorem State.bump_sram (s : State) (f : Fld) (i n : Nat) : (s.bump f i n).sram = s.sram := rfl
@[simp] theorem State.bump_hbm (s : State) (f : Fld) (i n : Nat) : (s.bump f i n).hbm = s.hbm := rfl
@[simp] theorem State.bump_outbox (s : State) (f : Fld) (i n : Nat) : (s.bump f i n).outbox = s.outbox := rfl
@[simp] theorem State.bump_free (s : State) (f : Fld) (i n : Nat) : (s.bump f i n).free = s.free := rfl
@[simp] theorem State.bump_pending (s : State) (f : Fld) (i n : Nat) : (s.bump f i n).pending = s.pending := rfl

/-! ### `bumpW` writes `regs` -/

@[simp] theorem State.bumpW_chip (s : State) (f : Fld) (i n : Nat) : (s.bumpW f i n).chip = s.chip := rfl
@[simp] theorem State.bumpW_aon (s : State) (f : Fld) (i n : Nat) : (s.bumpW f i n).aon = s.aon := rfl
@[simp] theorem State.bumpW_staged (s : State) (f : Fld) (i n : Nat) : (s.bumpW f i n).staged = s.staged := rfl
@[simp] theorem State.bumpW_marked (s : State) (f : Fld) (i n : Nat) : (s.bumpW f i n).marked = s.marked := rfl
@[simp] theorem State.bumpW_resetting (s : State) (f : Fld) (i n : Nat) : (s.bumpW f i n).resetting = s.resetting := rfl
@[simp] theorem State.bumpW_waiting (s : State) (f : Fld) (i n : Nat) : (s.bumpW f i n).waiting = s.waiting := rfl
@[simp] theorem State.bumpW_reply (s : State) (f : Fld) (i n : Nat) : (s.bumpW f i n).reply = s.reply := rfl
@[simp] theorem State.bumpW_kept (s : State) (f : Fld) (i n : Nat) : (s.bumpW f i n).kept = s.kept := rfl
@[simp] theorem State.bumpW_flt (s : State) (f : Fld) (i n : Nat) : (s.bumpW f i n).flt = s.flt := rfl
@[simp] theorem State.bumpW_evr (s : State) (f : Fld) (i n : Nat) : (s.bumpW f i n).evr = s.evr := rfl
@[simp] theorem State.bumpW_irc (s : State) (f : Fld) (i n : Nat) : (s.bumpW f i n).irc = s.irc := rfl
@[simp] theorem State.bumpW_tkp (s : State) (f : Fld) (i n : Nat) : (s.bumpW f i n).tkp = s.tkp := rfl
@[simp] theorem State.bumpW_pwr (s : State) (f : Fld) (i n : Nat) : (s.bumpW f i n).pwr = s.pwr := rfl
@[simp] theorem State.bumpW_lcm (s : State) (f : Fld) (i n : Nat) : (s.bumpW f i n).lcm = s.lcm := rfl
@[simp] theorem State.bumpW_nvh (s : State) (f : Fld) (i n : Nat) : (s.bumpW f i n).nvh = s.nvh := rfl
@[simp] theorem State.bumpW_scr (s : State) (f : Fld) (i n : Nat) : (s.bumpW f i n).scr = s.scr := rfl
@[simp] theorem State.bumpW_smp (s : State) (f : Fld) (i n : Nat) : (s.bumpW f i n).smp = s.smp := rfl
@[simp] theorem State.bumpW_wells (s : State) (f : Fld) (i n : Nat) : (s.bumpW f i n).wells = s.wells := rfl
@[simp] theorem State.bumpW_epr (s : State) (f : Fld) (i n : Nat) : (s.bumpW f i n).epr = s.epr := rfl
@[simp] theorem State.bumpW_cmp (s : State) (f : Fld) (i n : Nat) : (s.bumpW f i n).cmp = s.cmp := rfl
@[simp] theorem State.bumpW_cap (s : State) (f : Fld) (i n : Nat) : (s.bumpW f i n).cap = s.cap := rfl
@[simp] theorem State.bumpW_htp (s : State) (f : Fld) (i n : Nat) : (s.bumpW f i n).htp = s.htp := rfl
@[simp] theorem State.bumpW_lanes (s : State) (f : Fld) (i n : Nat) : (s.bumpW f i n).lanes = s.lanes := rfl
@[simp] theorem State.bumpW_hpa (s : State) (f : Fld) (i n : Nat) : (s.bumpW f i n).hpa = s.hpa := rfl
@[simp] theorem State.bumpW_rdx (s : State) (f : Fld) (i n : Nat) : (s.bumpW f i n).rdx = s.rdx := rfl
@[simp] theorem State.bumpW_cis (s : State) (f : Fld) (i n : Nat) : (s.bumpW f i n).cis = s.cis := rfl
@[simp] theorem State.bumpW_ups (s : State) (f : Fld) (i n : Nat) : (s.bumpW f i n).ups = s.ups := rfl
@[simp] theorem State.bumpW_bud (s : State) (f : Fld) (i n : Nat) : (s.bumpW f i n).bud = s.bud := rfl
@[simp] theorem State.bumpW_mgr (s : State) (f : Fld) (i n : Nat) : (s.bumpW f i n).mgr = s.mgr := rfl
@[simp] theorem State.bumpW_mxe (s : State) (f : Fld) (i n : Nat) : (s.bumpW f i n).mxe = s.mxe := rfl
@[simp] theorem State.bumpW_tre (s : State) (f : Fld) (i n : Nat) : (s.bumpW f i n).tre = s.tre := rfl
@[simp] theorem State.bumpW_eft (s : State) (f : Fld) (i n : Nat) : (s.bumpW f i n).eft = s.eft := rfl
@[simp] theorem State.bumpW_cor (s : State) (f : Fld) (i n : Nat) : (s.bumpW f i n).cor = s.cor := rfl
@[simp] theorem State.bumpW_pmp (s : State) (f : Fld) (i n : Nat) : (s.bumpW f i n).pmp = s.pmp := rfl
@[simp] theorem State.bumpW_xlt (s : State) (f : Fld) (i n : Nat) : (s.bumpW f i n).xlt = s.xlt := rfl
@[simp] theorem State.bumpW_col (s : State) (f : Fld) (i n : Nat) : (s.bumpW f i n).col = s.col := rfl
@[simp] theorem State.bumpW_stm (s : State) (f : Fld) (i n : Nat) : (s.bumpW f i n).stm = s.stm := rfl
@[simp] theorem State.bumpW_pmu (s : State) (f : Fld) (i n : Nat) : (s.bumpW f i n).pmu = s.pmu := rfl
@[simp] theorem State.bumpW_pkg (s : State) (f : Fld) (i n : Nat) : (s.bumpW f i n).pkg = s.pkg := rfl
@[simp] theorem State.bumpW_sram (s : State) (f : Fld) (i n : Nat) : (s.bumpW f i n).sram = s.sram := rfl
@[simp] theorem State.bumpW_hbm (s : State) (f : Fld) (i n : Nat) : (s.bumpW f i n).hbm = s.hbm := rfl
@[simp] theorem State.bumpW_outbox (s : State) (f : Fld) (i n : Nat) : (s.bumpW f i n).outbox = s.outbox := rfl
@[simp] theorem State.bumpW_free (s : State) (f : Fld) (i n : Nat) : (s.bumpW f i n).free = s.free := rfl
@[simp] theorem State.bumpW_pending (s : State) (f : Fld) (i n : Nat) : (s.bumpW f i n).pending = s.pending := rfl

/-! ### `addReg` writes `regs` -/

@[simp] theorem State.addReg_chip (s : State) (r : Reg) (i n : Nat) : (s.addReg r i n).chip = s.chip := rfl
@[simp] theorem State.addReg_aon (s : State) (r : Reg) (i n : Nat) : (s.addReg r i n).aon = s.aon := rfl
@[simp] theorem State.addReg_staged (s : State) (r : Reg) (i n : Nat) : (s.addReg r i n).staged = s.staged := rfl
@[simp] theorem State.addReg_marked (s : State) (r : Reg) (i n : Nat) : (s.addReg r i n).marked = s.marked := rfl
@[simp] theorem State.addReg_resetting (s : State) (r : Reg) (i n : Nat) : (s.addReg r i n).resetting = s.resetting := rfl
@[simp] theorem State.addReg_waiting (s : State) (r : Reg) (i n : Nat) : (s.addReg r i n).waiting = s.waiting := rfl
@[simp] theorem State.addReg_reply (s : State) (r : Reg) (i n : Nat) : (s.addReg r i n).reply = s.reply := rfl
@[simp] theorem State.addReg_kept (s : State) (r : Reg) (i n : Nat) : (s.addReg r i n).kept = s.kept := rfl
@[simp] theorem State.addReg_flt (s : State) (r : Reg) (i n : Nat) : (s.addReg r i n).flt = s.flt := rfl
@[simp] theorem State.addReg_evr (s : State) (r : Reg) (i n : Nat) : (s.addReg r i n).evr = s.evr := rfl
@[simp] theorem State.addReg_irc (s : State) (r : Reg) (i n : Nat) : (s.addReg r i n).irc = s.irc := rfl
@[simp] theorem State.addReg_tkp (s : State) (r : Reg) (i n : Nat) : (s.addReg r i n).tkp = s.tkp := rfl
@[simp] theorem State.addReg_pwr (s : State) (r : Reg) (i n : Nat) : (s.addReg r i n).pwr = s.pwr := rfl
@[simp] theorem State.addReg_lcm (s : State) (r : Reg) (i n : Nat) : (s.addReg r i n).lcm = s.lcm := rfl
@[simp] theorem State.addReg_nvh (s : State) (r : Reg) (i n : Nat) : (s.addReg r i n).nvh = s.nvh := rfl
@[simp] theorem State.addReg_scr (s : State) (r : Reg) (i n : Nat) : (s.addReg r i n).scr = s.scr := rfl
@[simp] theorem State.addReg_smp (s : State) (r : Reg) (i n : Nat) : (s.addReg r i n).smp = s.smp := rfl
@[simp] theorem State.addReg_wells (s : State) (r : Reg) (i n : Nat) : (s.addReg r i n).wells = s.wells := rfl
@[simp] theorem State.addReg_epr (s : State) (r : Reg) (i n : Nat) : (s.addReg r i n).epr = s.epr := rfl
@[simp] theorem State.addReg_cmp (s : State) (r : Reg) (i n : Nat) : (s.addReg r i n).cmp = s.cmp := rfl
@[simp] theorem State.addReg_cap (s : State) (r : Reg) (i n : Nat) : (s.addReg r i n).cap = s.cap := rfl
@[simp] theorem State.addReg_htp (s : State) (r : Reg) (i n : Nat) : (s.addReg r i n).htp = s.htp := rfl
@[simp] theorem State.addReg_lanes (s : State) (r : Reg) (i n : Nat) : (s.addReg r i n).lanes = s.lanes := rfl
@[simp] theorem State.addReg_hpa (s : State) (r : Reg) (i n : Nat) : (s.addReg r i n).hpa = s.hpa := rfl
@[simp] theorem State.addReg_rdx (s : State) (r : Reg) (i n : Nat) : (s.addReg r i n).rdx = s.rdx := rfl
@[simp] theorem State.addReg_cis (s : State) (r : Reg) (i n : Nat) : (s.addReg r i n).cis = s.cis := rfl
@[simp] theorem State.addReg_ups (s : State) (r : Reg) (i n : Nat) : (s.addReg r i n).ups = s.ups := rfl
@[simp] theorem State.addReg_bud (s : State) (r : Reg) (i n : Nat) : (s.addReg r i n).bud = s.bud := rfl
@[simp] theorem State.addReg_mgr (s : State) (r : Reg) (i n : Nat) : (s.addReg r i n).mgr = s.mgr := rfl
@[simp] theorem State.addReg_mxe (s : State) (r : Reg) (i n : Nat) : (s.addReg r i n).mxe = s.mxe := rfl
@[simp] theorem State.addReg_tre (s : State) (r : Reg) (i n : Nat) : (s.addReg r i n).tre = s.tre := rfl
@[simp] theorem State.addReg_eft (s : State) (r : Reg) (i n : Nat) : (s.addReg r i n).eft = s.eft := rfl
@[simp] theorem State.addReg_cor (s : State) (r : Reg) (i n : Nat) : (s.addReg r i n).cor = s.cor := rfl
@[simp] theorem State.addReg_pmp (s : State) (r : Reg) (i n : Nat) : (s.addReg r i n).pmp = s.pmp := rfl
@[simp] theorem State.addReg_xlt (s : State) (r : Reg) (i n : Nat) : (s.addReg r i n).xlt = s.xlt := rfl
@[simp] theorem State.addReg_col (s : State) (r : Reg) (i n : Nat) : (s.addReg r i n).col = s.col := rfl
@[simp] theorem State.addReg_stm (s : State) (r : Reg) (i n : Nat) : (s.addReg r i n).stm = s.stm := rfl
@[simp] theorem State.addReg_pmu (s : State) (r : Reg) (i n : Nat) : (s.addReg r i n).pmu = s.pmu := rfl
@[simp] theorem State.addReg_pkg (s : State) (r : Reg) (i n : Nat) : (s.addReg r i n).pkg = s.pkg := rfl
@[simp] theorem State.addReg_sram (s : State) (r : Reg) (i n : Nat) : (s.addReg r i n).sram = s.sram := rfl
@[simp] theorem State.addReg_hbm (s : State) (r : Reg) (i n : Nat) : (s.addReg r i n).hbm = s.hbm := rfl
@[simp] theorem State.addReg_outbox (s : State) (r : Reg) (i n : Nat) : (s.addReg r i n).outbox = s.outbox := rfl
@[simp] theorem State.addReg_free (s : State) (r : Reg) (i n : Nat) : (s.addReg r i n).free = s.free := rfl
@[simp] theorem State.addReg_pending (s : State) (r : Reg) (i n : Nat) : (s.addReg r i n).pending = s.pending := rfl

/-! ### `pgErr` writes `regs` -/

@[simp] theorem State.pgErr_chip (s : State) (u : UnitKind) (i : Nat) (f : ErrFlag) (off c : Nat) : (s.pgErr u i f off c).chip = s.chip := rfl
@[simp] theorem State.pgErr_aon (s : State) (u : UnitKind) (i : Nat) (f : ErrFlag) (off c : Nat) : (s.pgErr u i f off c).aon = s.aon := rfl
@[simp] theorem State.pgErr_staged (s : State) (u : UnitKind) (i : Nat) (f : ErrFlag) (off c : Nat) : (s.pgErr u i f off c).staged = s.staged := rfl
@[simp] theorem State.pgErr_marked (s : State) (u : UnitKind) (i : Nat) (f : ErrFlag) (off c : Nat) : (s.pgErr u i f off c).marked = s.marked := rfl
@[simp] theorem State.pgErr_resetting (s : State) (u : UnitKind) (i : Nat) (f : ErrFlag) (off c : Nat) : (s.pgErr u i f off c).resetting = s.resetting := rfl
@[simp] theorem State.pgErr_waiting (s : State) (u : UnitKind) (i : Nat) (f : ErrFlag) (off c : Nat) : (s.pgErr u i f off c).waiting = s.waiting := rfl
@[simp] theorem State.pgErr_reply (s : State) (u : UnitKind) (i : Nat) (f : ErrFlag) (off c : Nat) : (s.pgErr u i f off c).reply = s.reply := rfl
@[simp] theorem State.pgErr_kept (s : State) (u : UnitKind) (i : Nat) (f : ErrFlag) (off c : Nat) : (s.pgErr u i f off c).kept = s.kept := rfl
@[simp] theorem State.pgErr_flt (s : State) (u : UnitKind) (i : Nat) (f : ErrFlag) (off c : Nat) : (s.pgErr u i f off c).flt = s.flt := rfl
@[simp] theorem State.pgErr_evr (s : State) (u : UnitKind) (i : Nat) (f : ErrFlag) (off c : Nat) : (s.pgErr u i f off c).evr = s.evr := rfl
@[simp] theorem State.pgErr_irc (s : State) (u : UnitKind) (i : Nat) (f : ErrFlag) (off c : Nat) : (s.pgErr u i f off c).irc = s.irc := rfl
@[simp] theorem State.pgErr_tkp (s : State) (u : UnitKind) (i : Nat) (f : ErrFlag) (off c : Nat) : (s.pgErr u i f off c).tkp = s.tkp := rfl
@[simp] theorem State.pgErr_pwr (s : State) (u : UnitKind) (i : Nat) (f : ErrFlag) (off c : Nat) : (s.pgErr u i f off c).pwr = s.pwr := rfl
@[simp] theorem State.pgErr_lcm (s : State) (u : UnitKind) (i : Nat) (f : ErrFlag) (off c : Nat) : (s.pgErr u i f off c).lcm = s.lcm := rfl
@[simp] theorem State.pgErr_nvh (s : State) (u : UnitKind) (i : Nat) (f : ErrFlag) (off c : Nat) : (s.pgErr u i f off c).nvh = s.nvh := rfl
@[simp] theorem State.pgErr_scr (s : State) (u : UnitKind) (i : Nat) (f : ErrFlag) (off c : Nat) : (s.pgErr u i f off c).scr = s.scr := rfl
@[simp] theorem State.pgErr_smp (s : State) (u : UnitKind) (i : Nat) (f : ErrFlag) (off c : Nat) : (s.pgErr u i f off c).smp = s.smp := rfl
@[simp] theorem State.pgErr_wells (s : State) (u : UnitKind) (i : Nat) (f : ErrFlag) (off c : Nat) : (s.pgErr u i f off c).wells = s.wells := rfl
@[simp] theorem State.pgErr_epr (s : State) (u : UnitKind) (i : Nat) (f : ErrFlag) (off c : Nat) : (s.pgErr u i f off c).epr = s.epr := rfl
@[simp] theorem State.pgErr_cmp (s : State) (u : UnitKind) (i : Nat) (f : ErrFlag) (off c : Nat) : (s.pgErr u i f off c).cmp = s.cmp := rfl
@[simp] theorem State.pgErr_cap (s : State) (u : UnitKind) (i : Nat) (f : ErrFlag) (off c : Nat) : (s.pgErr u i f off c).cap = s.cap := rfl
@[simp] theorem State.pgErr_htp (s : State) (u : UnitKind) (i : Nat) (f : ErrFlag) (off c : Nat) : (s.pgErr u i f off c).htp = s.htp := rfl
@[simp] theorem State.pgErr_lanes (s : State) (u : UnitKind) (i : Nat) (f : ErrFlag) (off c : Nat) : (s.pgErr u i f off c).lanes = s.lanes := rfl
@[simp] theorem State.pgErr_hpa (s : State) (u : UnitKind) (i : Nat) (f : ErrFlag) (off c : Nat) : (s.pgErr u i f off c).hpa = s.hpa := rfl
@[simp] theorem State.pgErr_rdx (s : State) (u : UnitKind) (i : Nat) (f : ErrFlag) (off c : Nat) : (s.pgErr u i f off c).rdx = s.rdx := rfl
@[simp] theorem State.pgErr_cis (s : State) (u : UnitKind) (i : Nat) (f : ErrFlag) (off c : Nat) : (s.pgErr u i f off c).cis = s.cis := rfl
@[simp] theorem State.pgErr_ups (s : State) (u : UnitKind) (i : Nat) (f : ErrFlag) (off c : Nat) : (s.pgErr u i f off c).ups = s.ups := rfl
@[simp] theorem State.pgErr_bud (s : State) (u : UnitKind) (i : Nat) (f : ErrFlag) (off c : Nat) : (s.pgErr u i f off c).bud = s.bud := rfl
@[simp] theorem State.pgErr_mgr (s : State) (u : UnitKind) (i : Nat) (f : ErrFlag) (off c : Nat) : (s.pgErr u i f off c).mgr = s.mgr := rfl
@[simp] theorem State.pgErr_mxe (s : State) (u : UnitKind) (i : Nat) (f : ErrFlag) (off c : Nat) : (s.pgErr u i f off c).mxe = s.mxe := rfl
@[simp] theorem State.pgErr_tre (s : State) (u : UnitKind) (i : Nat) (f : ErrFlag) (off c : Nat) : (s.pgErr u i f off c).tre = s.tre := rfl
@[simp] theorem State.pgErr_eft (s : State) (u : UnitKind) (i : Nat) (f : ErrFlag) (off c : Nat) : (s.pgErr u i f off c).eft = s.eft := rfl
@[simp] theorem State.pgErr_cor (s : State) (u : UnitKind) (i : Nat) (f : ErrFlag) (off c : Nat) : (s.pgErr u i f off c).cor = s.cor := rfl
@[simp] theorem State.pgErr_pmp (s : State) (u : UnitKind) (i : Nat) (f : ErrFlag) (off c : Nat) : (s.pgErr u i f off c).pmp = s.pmp := rfl
@[simp] theorem State.pgErr_xlt (s : State) (u : UnitKind) (i : Nat) (f : ErrFlag) (off c : Nat) : (s.pgErr u i f off c).xlt = s.xlt := rfl
@[simp] theorem State.pgErr_col (s : State) (u : UnitKind) (i : Nat) (f : ErrFlag) (off c : Nat) : (s.pgErr u i f off c).col = s.col := rfl
@[simp] theorem State.pgErr_stm (s : State) (u : UnitKind) (i : Nat) (f : ErrFlag) (off c : Nat) : (s.pgErr u i f off c).stm = s.stm := rfl
@[simp] theorem State.pgErr_pmu (s : State) (u : UnitKind) (i : Nat) (f : ErrFlag) (off c : Nat) : (s.pgErr u i f off c).pmu = s.pmu := rfl
@[simp] theorem State.pgErr_pkg (s : State) (u : UnitKind) (i : Nat) (f : ErrFlag) (off c : Nat) : (s.pgErr u i f off c).pkg = s.pkg := rfl
@[simp] theorem State.pgErr_sram (s : State) (u : UnitKind) (i : Nat) (f : ErrFlag) (off c : Nat) : (s.pgErr u i f off c).sram = s.sram := rfl
@[simp] theorem State.pgErr_hbm (s : State) (u : UnitKind) (i : Nat) (f : ErrFlag) (off c : Nat) : (s.pgErr u i f off c).hbm = s.hbm := rfl
@[simp] theorem State.pgErr_outbox (s : State) (u : UnitKind) (i : Nat) (f : ErrFlag) (off c : Nat) : (s.pgErr u i f off c).outbox = s.outbox := rfl
@[simp] theorem State.pgErr_free (s : State) (u : UnitKind) (i : Nat) (f : ErrFlag) (off c : Nat) : (s.pgErr u i f off c).free = s.free := rfl
@[simp] theorem State.pgErr_pending (s : State) (u : UnitKind) (i : Nat) (f : ErrFlag) (off c : Nat) : (s.pgErr u i f off c).pending = s.pending := rfl

/-! ### `item` writes `pmu` -/

@[simp] theorem State.item_chip (s : State) (k n : Nat) : (s.item k n).chip = s.chip := rfl
@[simp] theorem State.item_aon (s : State) (k n : Nat) : (s.item k n).aon = s.aon := rfl
@[simp] theorem State.item_regs (s : State) (k n : Nat) : (s.item k n).regs = s.regs := rfl
@[simp] theorem State.item_staged (s : State) (k n : Nat) : (s.item k n).staged = s.staged := rfl
@[simp] theorem State.item_marked (s : State) (k n : Nat) : (s.item k n).marked = s.marked := rfl
@[simp] theorem State.item_resetting (s : State) (k n : Nat) : (s.item k n).resetting = s.resetting := rfl
@[simp] theorem State.item_waiting (s : State) (k n : Nat) : (s.item k n).waiting = s.waiting := rfl
@[simp] theorem State.item_reply (s : State) (k n : Nat) : (s.item k n).reply = s.reply := rfl
@[simp] theorem State.item_kept (s : State) (k n : Nat) : (s.item k n).kept = s.kept := rfl
@[simp] theorem State.item_flt (s : State) (k n : Nat) : (s.item k n).flt = s.flt := rfl
@[simp] theorem State.item_evr (s : State) (k n : Nat) : (s.item k n).evr = s.evr := rfl
@[simp] theorem State.item_irc (s : State) (k n : Nat) : (s.item k n).irc = s.irc := rfl
@[simp] theorem State.item_tkp (s : State) (k n : Nat) : (s.item k n).tkp = s.tkp := rfl
@[simp] theorem State.item_pwr (s : State) (k n : Nat) : (s.item k n).pwr = s.pwr := rfl
@[simp] theorem State.item_lcm (s : State) (k n : Nat) : (s.item k n).lcm = s.lcm := rfl
@[simp] theorem State.item_nvh (s : State) (k n : Nat) : (s.item k n).nvh = s.nvh := rfl
@[simp] theorem State.item_scr (s : State) (k n : Nat) : (s.item k n).scr = s.scr := rfl
@[simp] theorem State.item_smp (s : State) (k n : Nat) : (s.item k n).smp = s.smp := rfl
@[simp] theorem State.item_wells (s : State) (k n : Nat) : (s.item k n).wells = s.wells := rfl
@[simp] theorem State.item_epr (s : State) (k n : Nat) : (s.item k n).epr = s.epr := rfl
@[simp] theorem State.item_cmp (s : State) (k n : Nat) : (s.item k n).cmp = s.cmp := rfl
@[simp] theorem State.item_cap (s : State) (k n : Nat) : (s.item k n).cap = s.cap := rfl
@[simp] theorem State.item_htp (s : State) (k n : Nat) : (s.item k n).htp = s.htp := rfl
@[simp] theorem State.item_lanes (s : State) (k n : Nat) : (s.item k n).lanes = s.lanes := rfl
@[simp] theorem State.item_hpa (s : State) (k n : Nat) : (s.item k n).hpa = s.hpa := rfl
@[simp] theorem State.item_rdx (s : State) (k n : Nat) : (s.item k n).rdx = s.rdx := rfl
@[simp] theorem State.item_cis (s : State) (k n : Nat) : (s.item k n).cis = s.cis := rfl
@[simp] theorem State.item_ups (s : State) (k n : Nat) : (s.item k n).ups = s.ups := rfl
@[simp] theorem State.item_bud (s : State) (k n : Nat) : (s.item k n).bud = s.bud := rfl
@[simp] theorem State.item_mgr (s : State) (k n : Nat) : (s.item k n).mgr = s.mgr := rfl
@[simp] theorem State.item_mxe (s : State) (k n : Nat) : (s.item k n).mxe = s.mxe := rfl
@[simp] theorem State.item_tre (s : State) (k n : Nat) : (s.item k n).tre = s.tre := rfl
@[simp] theorem State.item_eft (s : State) (k n : Nat) : (s.item k n).eft = s.eft := rfl
@[simp] theorem State.item_cor (s : State) (k n : Nat) : (s.item k n).cor = s.cor := rfl
@[simp] theorem State.item_pmp (s : State) (k n : Nat) : (s.item k n).pmp = s.pmp := rfl
@[simp] theorem State.item_xlt (s : State) (k n : Nat) : (s.item k n).xlt = s.xlt := rfl
@[simp] theorem State.item_col (s : State) (k n : Nat) : (s.item k n).col = s.col := rfl
@[simp] theorem State.item_stm (s : State) (k n : Nat) : (s.item k n).stm = s.stm := rfl
@[simp] theorem State.item_pkg (s : State) (k n : Nat) : (s.item k n).pkg = s.pkg := rfl
@[simp] theorem State.item_sram (s : State) (k n : Nat) : (s.item k n).sram = s.sram := rfl
@[simp] theorem State.item_hbm (s : State) (k n : Nat) : (s.item k n).hbm = s.hbm := rfl
@[simp] theorem State.item_outbox (s : State) (k n : Nat) : (s.item k n).outbox = s.outbox := rfl
@[simp] theorem State.item_free (s : State) (k n : Nat) : (s.item k n).free = s.free := rfl
@[simp] theorem State.item_pending (s : State) (k n : Nat) : (s.item k n).pending = s.pending := rfl

/-! ### `bytes` writes `pmu` -/

@[simp] theorem State.bytes_chip (s : State) (k n : Nat) : (s.bytes k n).chip = s.chip := rfl
@[simp] theorem State.bytes_aon (s : State) (k n : Nat) : (s.bytes k n).aon = s.aon := rfl
@[simp] theorem State.bytes_regs (s : State) (k n : Nat) : (s.bytes k n).regs = s.regs := rfl
@[simp] theorem State.bytes_staged (s : State) (k n : Nat) : (s.bytes k n).staged = s.staged := rfl
@[simp] theorem State.bytes_marked (s : State) (k n : Nat) : (s.bytes k n).marked = s.marked := rfl
@[simp] theorem State.bytes_resetting (s : State) (k n : Nat) : (s.bytes k n).resetting = s.resetting := rfl
@[simp] theorem State.bytes_waiting (s : State) (k n : Nat) : (s.bytes k n).waiting = s.waiting := rfl
@[simp] theorem State.bytes_reply (s : State) (k n : Nat) : (s.bytes k n).reply = s.reply := rfl
@[simp] theorem State.bytes_kept (s : State) (k n : Nat) : (s.bytes k n).kept = s.kept := rfl
@[simp] theorem State.bytes_flt (s : State) (k n : Nat) : (s.bytes k n).flt = s.flt := rfl
@[simp] theorem State.bytes_evr (s : State) (k n : Nat) : (s.bytes k n).evr = s.evr := rfl
@[simp] theorem State.bytes_irc (s : State) (k n : Nat) : (s.bytes k n).irc = s.irc := rfl
@[simp] theorem State.bytes_tkp (s : State) (k n : Nat) : (s.bytes k n).tkp = s.tkp := rfl
@[simp] theorem State.bytes_pwr (s : State) (k n : Nat) : (s.bytes k n).pwr = s.pwr := rfl
@[simp] theorem State.bytes_lcm (s : State) (k n : Nat) : (s.bytes k n).lcm = s.lcm := rfl
@[simp] theorem State.bytes_nvh (s : State) (k n : Nat) : (s.bytes k n).nvh = s.nvh := rfl
@[simp] theorem State.bytes_scr (s : State) (k n : Nat) : (s.bytes k n).scr = s.scr := rfl
@[simp] theorem State.bytes_smp (s : State) (k n : Nat) : (s.bytes k n).smp = s.smp := rfl
@[simp] theorem State.bytes_wells (s : State) (k n : Nat) : (s.bytes k n).wells = s.wells := rfl
@[simp] theorem State.bytes_epr (s : State) (k n : Nat) : (s.bytes k n).epr = s.epr := rfl
@[simp] theorem State.bytes_cmp (s : State) (k n : Nat) : (s.bytes k n).cmp = s.cmp := rfl
@[simp] theorem State.bytes_cap (s : State) (k n : Nat) : (s.bytes k n).cap = s.cap := rfl
@[simp] theorem State.bytes_htp (s : State) (k n : Nat) : (s.bytes k n).htp = s.htp := rfl
@[simp] theorem State.bytes_lanes (s : State) (k n : Nat) : (s.bytes k n).lanes = s.lanes := rfl
@[simp] theorem State.bytes_hpa (s : State) (k n : Nat) : (s.bytes k n).hpa = s.hpa := rfl
@[simp] theorem State.bytes_rdx (s : State) (k n : Nat) : (s.bytes k n).rdx = s.rdx := rfl
@[simp] theorem State.bytes_cis (s : State) (k n : Nat) : (s.bytes k n).cis = s.cis := rfl
@[simp] theorem State.bytes_ups (s : State) (k n : Nat) : (s.bytes k n).ups = s.ups := rfl
@[simp] theorem State.bytes_bud (s : State) (k n : Nat) : (s.bytes k n).bud = s.bud := rfl
@[simp] theorem State.bytes_mgr (s : State) (k n : Nat) : (s.bytes k n).mgr = s.mgr := rfl
@[simp] theorem State.bytes_mxe (s : State) (k n : Nat) : (s.bytes k n).mxe = s.mxe := rfl
@[simp] theorem State.bytes_tre (s : State) (k n : Nat) : (s.bytes k n).tre = s.tre := rfl
@[simp] theorem State.bytes_eft (s : State) (k n : Nat) : (s.bytes k n).eft = s.eft := rfl
@[simp] theorem State.bytes_cor (s : State) (k n : Nat) : (s.bytes k n).cor = s.cor := rfl
@[simp] theorem State.bytes_pmp (s : State) (k n : Nat) : (s.bytes k n).pmp = s.pmp := rfl
@[simp] theorem State.bytes_xlt (s : State) (k n : Nat) : (s.bytes k n).xlt = s.xlt := rfl
@[simp] theorem State.bytes_col (s : State) (k n : Nat) : (s.bytes k n).col = s.col := rfl
@[simp] theorem State.bytes_stm (s : State) (k n : Nat) : (s.bytes k n).stm = s.stm := rfl
@[simp] theorem State.bytes_pkg (s : State) (k n : Nat) : (s.bytes k n).pkg = s.pkg := rfl
@[simp] theorem State.bytes_sram (s : State) (k n : Nat) : (s.bytes k n).sram = s.sram := rfl
@[simp] theorem State.bytes_hbm (s : State) (k n : Nat) : (s.bytes k n).hbm = s.hbm := rfl
@[simp] theorem State.bytes_outbox (s : State) (k n : Nat) : (s.bytes k n).outbox = s.outbox := rfl
@[simp] theorem State.bytes_free (s : State) (k n : Nat) : (s.bytes k n).free = s.free := rfl
@[simp] theorem State.bytes_pending (s : State) (k n : Nat) : (s.bytes k n).pending = s.pending := rfl

/-! ### `ev` writes `pmu` -/

@[simp] theorem State.ev_chip (s : State) (u : UnitKind) (i e n : Nat) : (s.ev u i e n).chip = s.chip := rfl
@[simp] theorem State.ev_aon (s : State) (u : UnitKind) (i e n : Nat) : (s.ev u i e n).aon = s.aon := rfl
@[simp] theorem State.ev_regs (s : State) (u : UnitKind) (i e n : Nat) : (s.ev u i e n).regs = s.regs := rfl
@[simp] theorem State.ev_staged (s : State) (u : UnitKind) (i e n : Nat) : (s.ev u i e n).staged = s.staged := rfl
@[simp] theorem State.ev_marked (s : State) (u : UnitKind) (i e n : Nat) : (s.ev u i e n).marked = s.marked := rfl
@[simp] theorem State.ev_resetting (s : State) (u : UnitKind) (i e n : Nat) : (s.ev u i e n).resetting = s.resetting := rfl
@[simp] theorem State.ev_waiting (s : State) (u : UnitKind) (i e n : Nat) : (s.ev u i e n).waiting = s.waiting := rfl
@[simp] theorem State.ev_reply (s : State) (u : UnitKind) (i e n : Nat) : (s.ev u i e n).reply = s.reply := rfl
@[simp] theorem State.ev_kept (s : State) (u : UnitKind) (i e n : Nat) : (s.ev u i e n).kept = s.kept := rfl
@[simp] theorem State.ev_flt (s : State) (u : UnitKind) (i e n : Nat) : (s.ev u i e n).flt = s.flt := rfl
@[simp] theorem State.ev_evr (s : State) (u : UnitKind) (i e n : Nat) : (s.ev u i e n).evr = s.evr := rfl
@[simp] theorem State.ev_irc (s : State) (u : UnitKind) (i e n : Nat) : (s.ev u i e n).irc = s.irc := rfl
@[simp] theorem State.ev_tkp (s : State) (u : UnitKind) (i e n : Nat) : (s.ev u i e n).tkp = s.tkp := rfl
@[simp] theorem State.ev_pwr (s : State) (u : UnitKind) (i e n : Nat) : (s.ev u i e n).pwr = s.pwr := rfl
@[simp] theorem State.ev_lcm (s : State) (u : UnitKind) (i e n : Nat) : (s.ev u i e n).lcm = s.lcm := rfl
@[simp] theorem State.ev_nvh (s : State) (u : UnitKind) (i e n : Nat) : (s.ev u i e n).nvh = s.nvh := rfl
@[simp] theorem State.ev_scr (s : State) (u : UnitKind) (i e n : Nat) : (s.ev u i e n).scr = s.scr := rfl
@[simp] theorem State.ev_smp (s : State) (u : UnitKind) (i e n : Nat) : (s.ev u i e n).smp = s.smp := rfl
@[simp] theorem State.ev_wells (s : State) (u : UnitKind) (i e n : Nat) : (s.ev u i e n).wells = s.wells := rfl
@[simp] theorem State.ev_epr (s : State) (u : UnitKind) (i e n : Nat) : (s.ev u i e n).epr = s.epr := rfl
@[simp] theorem State.ev_cmp (s : State) (u : UnitKind) (i e n : Nat) : (s.ev u i e n).cmp = s.cmp := rfl
@[simp] theorem State.ev_cap (s : State) (u : UnitKind) (i e n : Nat) : (s.ev u i e n).cap = s.cap := rfl
@[simp] theorem State.ev_htp (s : State) (u : UnitKind) (i e n : Nat) : (s.ev u i e n).htp = s.htp := rfl
@[simp] theorem State.ev_lanes (s : State) (u : UnitKind) (i e n : Nat) : (s.ev u i e n).lanes = s.lanes := rfl
@[simp] theorem State.ev_hpa (s : State) (u : UnitKind) (i e n : Nat) : (s.ev u i e n).hpa = s.hpa := rfl
@[simp] theorem State.ev_rdx (s : State) (u : UnitKind) (i e n : Nat) : (s.ev u i e n).rdx = s.rdx := rfl
@[simp] theorem State.ev_cis (s : State) (u : UnitKind) (i e n : Nat) : (s.ev u i e n).cis = s.cis := rfl
@[simp] theorem State.ev_ups (s : State) (u : UnitKind) (i e n : Nat) : (s.ev u i e n).ups = s.ups := rfl
@[simp] theorem State.ev_bud (s : State) (u : UnitKind) (i e n : Nat) : (s.ev u i e n).bud = s.bud := rfl
@[simp] theorem State.ev_mgr (s : State) (u : UnitKind) (i e n : Nat) : (s.ev u i e n).mgr = s.mgr := rfl
@[simp] theorem State.ev_mxe (s : State) (u : UnitKind) (i e n : Nat) : (s.ev u i e n).mxe = s.mxe := rfl
@[simp] theorem State.ev_tre (s : State) (u : UnitKind) (i e n : Nat) : (s.ev u i e n).tre = s.tre := rfl
@[simp] theorem State.ev_eft (s : State) (u : UnitKind) (i e n : Nat) : (s.ev u i e n).eft = s.eft := rfl
@[simp] theorem State.ev_cor (s : State) (u : UnitKind) (i e n : Nat) : (s.ev u i e n).cor = s.cor := rfl
@[simp] theorem State.ev_pmp (s : State) (u : UnitKind) (i e n : Nat) : (s.ev u i e n).pmp = s.pmp := rfl
@[simp] theorem State.ev_xlt (s : State) (u : UnitKind) (i e n : Nat) : (s.ev u i e n).xlt = s.xlt := rfl
@[simp] theorem State.ev_col (s : State) (u : UnitKind) (i e n : Nat) : (s.ev u i e n).col = s.col := rfl
@[simp] theorem State.ev_stm (s : State) (u : UnitKind) (i e n : Nat) : (s.ev u i e n).stm = s.stm := rfl
@[simp] theorem State.ev_pkg (s : State) (u : UnitKind) (i e n : Nat) : (s.ev u i e n).pkg = s.pkg := rfl
@[simp] theorem State.ev_sram (s : State) (u : UnitKind) (i e n : Nat) : (s.ev u i e n).sram = s.sram := rfl
@[simp] theorem State.ev_hbm (s : State) (u : UnitKind) (i e n : Nat) : (s.ev u i e n).hbm = s.hbm := rfl
@[simp] theorem State.ev_outbox (s : State) (u : UnitKind) (i e n : Nat) : (s.ev u i e n).outbox = s.outbox := rfl
@[simp] theorem State.ev_free (s : State) (u : UnitKind) (i e n : Nat) : (s.ev u i e n).free = s.free := rfl
@[simp] theorem State.ev_pending (s : State) (u : UnitKind) (i e n : Nat) : (s.ev u i e n).pending = s.pending := rfl

/-! ### `emit` writes `outbox` -/

@[simp] theorem State.emit_chip (s : State) (o : Out) : (s.emit o).chip = s.chip := rfl
@[simp] theorem State.emit_aon (s : State) (o : Out) : (s.emit o).aon = s.aon := rfl
@[simp] theorem State.emit_regs (s : State) (o : Out) : (s.emit o).regs = s.regs := rfl
@[simp] theorem State.emit_staged (s : State) (o : Out) : (s.emit o).staged = s.staged := rfl
@[simp] theorem State.emit_marked (s : State) (o : Out) : (s.emit o).marked = s.marked := rfl
@[simp] theorem State.emit_resetting (s : State) (o : Out) : (s.emit o).resetting = s.resetting := rfl
@[simp] theorem State.emit_waiting (s : State) (o : Out) : (s.emit o).waiting = s.waiting := rfl
@[simp] theorem State.emit_reply (s : State) (o : Out) : (s.emit o).reply = s.reply := rfl
@[simp] theorem State.emit_kept (s : State) (o : Out) : (s.emit o).kept = s.kept := rfl
@[simp] theorem State.emit_flt (s : State) (o : Out) : (s.emit o).flt = s.flt := rfl
@[simp] theorem State.emit_evr (s : State) (o : Out) : (s.emit o).evr = s.evr := rfl
@[simp] theorem State.emit_irc (s : State) (o : Out) : (s.emit o).irc = s.irc := rfl
@[simp] theorem State.emit_tkp (s : State) (o : Out) : (s.emit o).tkp = s.tkp := rfl
@[simp] theorem State.emit_pwr (s : State) (o : Out) : (s.emit o).pwr = s.pwr := rfl
@[simp] theorem State.emit_lcm (s : State) (o : Out) : (s.emit o).lcm = s.lcm := rfl
@[simp] theorem State.emit_nvh (s : State) (o : Out) : (s.emit o).nvh = s.nvh := rfl
@[simp] theorem State.emit_scr (s : State) (o : Out) : (s.emit o).scr = s.scr := rfl
@[simp] theorem State.emit_smp (s : State) (o : Out) : (s.emit o).smp = s.smp := rfl
@[simp] theorem State.emit_wells (s : State) (o : Out) : (s.emit o).wells = s.wells := rfl
@[simp] theorem State.emit_epr (s : State) (o : Out) : (s.emit o).epr = s.epr := rfl
@[simp] theorem State.emit_cmp (s : State) (o : Out) : (s.emit o).cmp = s.cmp := rfl
@[simp] theorem State.emit_cap (s : State) (o : Out) : (s.emit o).cap = s.cap := rfl
@[simp] theorem State.emit_htp (s : State) (o : Out) : (s.emit o).htp = s.htp := rfl
@[simp] theorem State.emit_lanes (s : State) (o : Out) : (s.emit o).lanes = s.lanes := rfl
@[simp] theorem State.emit_hpa (s : State) (o : Out) : (s.emit o).hpa = s.hpa := rfl
@[simp] theorem State.emit_rdx (s : State) (o : Out) : (s.emit o).rdx = s.rdx := rfl
@[simp] theorem State.emit_cis (s : State) (o : Out) : (s.emit o).cis = s.cis := rfl
@[simp] theorem State.emit_ups (s : State) (o : Out) : (s.emit o).ups = s.ups := rfl
@[simp] theorem State.emit_bud (s : State) (o : Out) : (s.emit o).bud = s.bud := rfl
@[simp] theorem State.emit_mgr (s : State) (o : Out) : (s.emit o).mgr = s.mgr := rfl
@[simp] theorem State.emit_mxe (s : State) (o : Out) : (s.emit o).mxe = s.mxe := rfl
@[simp] theorem State.emit_tre (s : State) (o : Out) : (s.emit o).tre = s.tre := rfl
@[simp] theorem State.emit_eft (s : State) (o : Out) : (s.emit o).eft = s.eft := rfl
@[simp] theorem State.emit_cor (s : State) (o : Out) : (s.emit o).cor = s.cor := rfl
@[simp] theorem State.emit_pmp (s : State) (o : Out) : (s.emit o).pmp = s.pmp := rfl
@[simp] theorem State.emit_xlt (s : State) (o : Out) : (s.emit o).xlt = s.xlt := rfl
@[simp] theorem State.emit_col (s : State) (o : Out) : (s.emit o).col = s.col := rfl
@[simp] theorem State.emit_stm (s : State) (o : Out) : (s.emit o).stm = s.stm := rfl
@[simp] theorem State.emit_pmu (s : State) (o : Out) : (s.emit o).pmu = s.pmu := rfl
@[simp] theorem State.emit_pkg (s : State) (o : Out) : (s.emit o).pkg = s.pkg := rfl
@[simp] theorem State.emit_sram (s : State) (o : Out) : (s.emit o).sram = s.sram := rfl
@[simp] theorem State.emit_hbm (s : State) (o : Out) : (s.emit o).hbm = s.hbm := rfl
@[simp] theorem State.emit_free (s : State) (o : Out) : (s.emit o).free = s.free := rfl
@[simp] theorem State.emit_pending (s : State) (o : Out) : (s.emit o).pending = s.pending := rfl

/-! ### `answer` writes `pmu` and `reply` -/

@[simp] theorem State.answer_chip (s : State) (c : Code) (d : Word) : (s.answer c d).chip = s.chip := rfl
@[simp] theorem State.answer_aon (s : State) (c : Code) (d : Word) : (s.answer c d).aon = s.aon := rfl
@[simp] theorem State.answer_regs (s : State) (c : Code) (d : Word) : (s.answer c d).regs = s.regs := rfl
@[simp] theorem State.answer_staged (s : State) (c : Code) (d : Word) : (s.answer c d).staged = s.staged := rfl
@[simp] theorem State.answer_marked (s : State) (c : Code) (d : Word) : (s.answer c d).marked = s.marked := rfl
@[simp] theorem State.answer_resetting (s : State) (c : Code) (d : Word) : (s.answer c d).resetting = s.resetting := rfl
@[simp] theorem State.answer_waiting (s : State) (c : Code) (d : Word) : (s.answer c d).waiting = s.waiting := rfl
@[simp] theorem State.answer_kept (s : State) (c : Code) (d : Word) : (s.answer c d).kept = s.kept := rfl
@[simp] theorem State.answer_flt (s : State) (c : Code) (d : Word) : (s.answer c d).flt = s.flt := rfl
@[simp] theorem State.answer_evr (s : State) (c : Code) (d : Word) : (s.answer c d).evr = s.evr := rfl
@[simp] theorem State.answer_irc (s : State) (c : Code) (d : Word) : (s.answer c d).irc = s.irc := rfl
@[simp] theorem State.answer_tkp (s : State) (c : Code) (d : Word) : (s.answer c d).tkp = s.tkp := rfl
@[simp] theorem State.answer_pwr (s : State) (c : Code) (d : Word) : (s.answer c d).pwr = s.pwr := rfl
@[simp] theorem State.answer_lcm (s : State) (c : Code) (d : Word) : (s.answer c d).lcm = s.lcm := rfl
@[simp] theorem State.answer_nvh (s : State) (c : Code) (d : Word) : (s.answer c d).nvh = s.nvh := rfl
@[simp] theorem State.answer_scr (s : State) (c : Code) (d : Word) : (s.answer c d).scr = s.scr := rfl
@[simp] theorem State.answer_smp (s : State) (c : Code) (d : Word) : (s.answer c d).smp = s.smp := rfl
@[simp] theorem State.answer_wells (s : State) (c : Code) (d : Word) : (s.answer c d).wells = s.wells := rfl
@[simp] theorem State.answer_epr (s : State) (c : Code) (d : Word) : (s.answer c d).epr = s.epr := rfl
@[simp] theorem State.answer_cmp (s : State) (c : Code) (d : Word) : (s.answer c d).cmp = s.cmp := rfl
@[simp] theorem State.answer_cap (s : State) (c : Code) (d : Word) : (s.answer c d).cap = s.cap := rfl
@[simp] theorem State.answer_htp (s : State) (c : Code) (d : Word) : (s.answer c d).htp = s.htp := rfl
@[simp] theorem State.answer_lanes (s : State) (c : Code) (d : Word) : (s.answer c d).lanes = s.lanes := rfl
@[simp] theorem State.answer_hpa (s : State) (c : Code) (d : Word) : (s.answer c d).hpa = s.hpa := rfl
@[simp] theorem State.answer_rdx (s : State) (c : Code) (d : Word) : (s.answer c d).rdx = s.rdx := rfl
@[simp] theorem State.answer_cis (s : State) (c : Code) (d : Word) : (s.answer c d).cis = s.cis := rfl
@[simp] theorem State.answer_ups (s : State) (c : Code) (d : Word) : (s.answer c d).ups = s.ups := rfl
@[simp] theorem State.answer_bud (s : State) (c : Code) (d : Word) : (s.answer c d).bud = s.bud := rfl
@[simp] theorem State.answer_mgr (s : State) (c : Code) (d : Word) : (s.answer c d).mgr = s.mgr := rfl
@[simp] theorem State.answer_mxe (s : State) (c : Code) (d : Word) : (s.answer c d).mxe = s.mxe := rfl
@[simp] theorem State.answer_tre (s : State) (c : Code) (d : Word) : (s.answer c d).tre = s.tre := rfl
@[simp] theorem State.answer_eft (s : State) (c : Code) (d : Word) : (s.answer c d).eft = s.eft := rfl
@[simp] theorem State.answer_cor (s : State) (c : Code) (d : Word) : (s.answer c d).cor = s.cor := rfl
@[simp] theorem State.answer_pmp (s : State) (c : Code) (d : Word) : (s.answer c d).pmp = s.pmp := rfl
@[simp] theorem State.answer_xlt (s : State) (c : Code) (d : Word) : (s.answer c d).xlt = s.xlt := rfl
@[simp] theorem State.answer_col (s : State) (c : Code) (d : Word) : (s.answer c d).col = s.col := rfl
@[simp] theorem State.answer_stm (s : State) (c : Code) (d : Word) : (s.answer c d).stm = s.stm := rfl
@[simp] theorem State.answer_pkg (s : State) (c : Code) (d : Word) : (s.answer c d).pkg = s.pkg := rfl
@[simp] theorem State.answer_sram (s : State) (c : Code) (d : Word) : (s.answer c d).sram = s.sram := rfl
@[simp] theorem State.answer_hbm (s : State) (c : Code) (d : Word) : (s.answer c d).hbm = s.hbm := rfl
@[simp] theorem State.answer_outbox (s : State) (c : Code) (d : Word) : (s.answer c d).outbox = s.outbox := rfl
@[simp] theorem State.answer_free (s : State) (c : Code) (d : Word) : (s.answer c d).free = s.free := rfl
@[simp] theorem State.answer_pending (s : State) (c : Code) (d : Word) : (s.answer c d).pending = s.pending := rfl

/-! ### The tables: an entry after its update, another entry, and the registers -/

@[simp] theorem State.well_setWell_same (s : State) (k : Nat) (v : Well) : (s.setWell k v).well k = v := by
  simp [State.well, State.setWell]
theorem State.well_setWell_ne (s : State) {k j : Nat} (v : Well) (h : j ≠ k) : (s.setWell k v).well j = s.well j := by
  simp [State.well, State.setWell, SMap.getD_set_ne _ _ _ h]; try rfl
@[simp] theorem State.setWell_reg (s : State) (k : Nat) (v : Well) (r : Reg) (i : Nat) : (s.setWell k v).reg r i = s.reg r i := rfl
@[simp] theorem State.setWell_fld (s : State) (k : Nat) (v : Well) (f : Fld) (i : Nat) : (s.setWell k v).fld f i = s.fld f i := rfl
@[simp] theorem State.setWell_chip (s : State) (k : Nat) (v : Well) : (s.setWell k v).chip = s.chip := rfl
@[simp] theorem State.setWell_aon (s : State) (k : Nat) (v : Well) : (s.setWell k v).aon = s.aon := rfl
@[simp] theorem State.setWell_pmu (s : State) (k : Nat) (v : Well) : (s.setWell k v).pmu = s.pmu := rfl
@[simp] theorem State.setWell_pending (s : State) (k : Nat) (v : Well) : (s.setWell k v).pending = s.pending := rfl
@[simp] theorem State.setWell_sram (s : State) (k : Nat) (v : Well) : (s.setWell k v).sram = s.sram := rfl
@[simp] theorem State.setWell_hbm (s : State) (k : Nat) (v : Well) : (s.setWell k v).hbm = s.hbm := rfl
@[simp] theorem State.setWell_outbox (s : State) (k : Nat) (v : Well) : (s.setWell k v).outbox = s.outbox := rfl
@[simp] theorem State.grun_setGrun_same (s : State) (k : Nat) (v : GRun) : (s.setGrun k v).grun k = v := by
  simp [State.grun, State.setGrun]
theorem State.grun_setGrun_ne (s : State) {k j : Nat} (v : GRun) (h : j ≠ k) : (s.setGrun k v).grun j = s.grun j := by
  simp [State.grun, State.setGrun, SMap.getD_set_ne _ _ _ h]; try rfl
@[simp] theorem State.setGrun_reg (s : State) (k : Nat) (v : GRun) (r : Reg) (i : Nat) : (s.setGrun k v).reg r i = s.reg r i := rfl
@[simp] theorem State.setGrun_fld (s : State) (k : Nat) (v : GRun) (f : Fld) (i : Nat) : (s.setGrun k v).fld f i = s.fld f i := rfl
@[simp] theorem State.setGrun_chip (s : State) (k : Nat) (v : GRun) : (s.setGrun k v).chip = s.chip := rfl
@[simp] theorem State.setGrun_aon (s : State) (k : Nat) (v : GRun) : (s.setGrun k v).aon = s.aon := rfl
@[simp] theorem State.setGrun_pmu (s : State) (k : Nat) (v : GRun) : (s.setGrun k v).pmu = s.pmu := rfl
@[simp] theorem State.setGrun_pending (s : State) (k : Nat) (v : GRun) : (s.setGrun k v).pending = s.pending := rfl
@[simp] theorem State.setGrun_sram (s : State) (k : Nat) (v : GRun) : (s.setGrun k v).sram = s.sram := rfl
@[simp] theorem State.setGrun_hbm (s : State) (k : Nat) (v : GRun) : (s.setGrun k v).hbm = s.hbm := rfl
@[simp] theorem State.setGrun_outbox (s : State) (k : Nat) (v : GRun) : (s.setGrun k v).outbox = s.outbox := rfl
@[simp] theorem State.src_setSrc_same (s : State) (k : Nat) (v : Src) : (s.setSrc k v).src k = v := by
  simp [State.src, State.setSrc]
theorem State.src_setSrc_ne (s : State) {k j : Nat} (v : Src) (h : j ≠ k) : (s.setSrc k v).src j = s.src j := by
  simp [State.src, State.setSrc, SMap.getD_set_ne _ _ _ h]; try rfl
@[simp] theorem State.setSrc_reg (s : State) (k : Nat) (v : Src) (r : Reg) (i : Nat) : (s.setSrc k v).reg r i = s.reg r i := rfl
@[simp] theorem State.setSrc_fld (s : State) (k : Nat) (v : Src) (f : Fld) (i : Nat) : (s.setSrc k v).fld f i = s.fld f i := rfl
@[simp] theorem State.setSrc_chip (s : State) (k : Nat) (v : Src) : (s.setSrc k v).chip = s.chip := rfl
@[simp] theorem State.setSrc_aon (s : State) (k : Nat) (v : Src) : (s.setSrc k v).aon = s.aon := rfl
@[simp] theorem State.setSrc_pmu (s : State) (k : Nat) (v : Src) : (s.setSrc k v).pmu = s.pmu := rfl
@[simp] theorem State.setSrc_pending (s : State) (k : Nat) (v : Src) : (s.setSrc k v).pending = s.pending := rfl
@[simp] theorem State.setSrc_sram (s : State) (k : Nat) (v : Src) : (s.setSrc k v).sram = s.sram := rfl
@[simp] theorem State.setSrc_hbm (s : State) (k : Nat) (v : Src) : (s.setSrc k v).hbm = s.hbm := rfl
@[simp] theorem State.setSrc_outbox (s : State) (k : Nat) (v : Src) : (s.setSrc k v).outbox = s.outbox := rfl
@[simp] theorem State.lane_setLane_same (s : State) (k : Nat) (v : Lane) : (s.setLane k v).lane k = v := by
  simp [State.lane, State.setLane]
theorem State.lane_setLane_ne (s : State) {k j : Nat} (v : Lane) (h : j ≠ k) : (s.setLane k v).lane j = s.lane j := by
  simp [State.lane, State.setLane, SMap.getD_set_ne _ _ _ h]; try rfl
@[simp] theorem State.setLane_reg (s : State) (k : Nat) (v : Lane) (r : Reg) (i : Nat) : (s.setLane k v).reg r i = s.reg r i := rfl
@[simp] theorem State.setLane_fld (s : State) (k : Nat) (v : Lane) (f : Fld) (i : Nat) : (s.setLane k v).fld f i = s.fld f i := rfl
@[simp] theorem State.setLane_chip (s : State) (k : Nat) (v : Lane) : (s.setLane k v).chip = s.chip := rfl
@[simp] theorem State.setLane_aon (s : State) (k : Nat) (v : Lane) : (s.setLane k v).aon = s.aon := rfl
@[simp] theorem State.setLane_pmu (s : State) (k : Nat) (v : Lane) : (s.setLane k v).pmu = s.pmu := rfl
@[simp] theorem State.setLane_pending (s : State) (k : Nat) (v : Lane) : (s.setLane k v).pending = s.pending := rfl
@[simp] theorem State.setLane_sram (s : State) (k : Nat) (v : Lane) : (s.setLane k v).sram = s.sram := rfl
@[simp] theorem State.setLane_hbm (s : State) (k : Nat) (v : Lane) : (s.setLane k v).hbm = s.hbm := rfl
@[simp] theorem State.setLane_outbox (s : State) (k : Nat) (v : Lane) : (s.setLane k v).outbox = s.outbox := rfl
@[simp] theorem State.core_setCore_same (s : State) (k : Nat) (v : CoreSt) : (s.setCore k v).core k = v := by
  simp [State.core, State.setCore]
theorem State.core_setCore_ne (s : State) {k j : Nat} (v : CoreSt) (h : j ≠ k) : (s.setCore k v).core j = s.core j := by
  simp [State.core, State.setCore, SMap.getD_set_ne _ _ _ h]; try rfl
@[simp] theorem State.setCore_reg (s : State) (k : Nat) (v : CoreSt) (r : Reg) (i : Nat) : (s.setCore k v).reg r i = s.reg r i := rfl
@[simp] theorem State.setCore_fld (s : State) (k : Nat) (v : CoreSt) (f : Fld) (i : Nat) : (s.setCore k v).fld f i = s.fld f i := rfl
@[simp] theorem State.setCore_chip (s : State) (k : Nat) (v : CoreSt) : (s.setCore k v).chip = s.chip := rfl
@[simp] theorem State.setCore_aon (s : State) (k : Nat) (v : CoreSt) : (s.setCore k v).aon = s.aon := rfl
@[simp] theorem State.setCore_pmu (s : State) (k : Nat) (v : CoreSt) : (s.setCore k v).pmu = s.pmu := rfl
@[simp] theorem State.setCore_pending (s : State) (k : Nat) (v : CoreSt) : (s.setCore k v).pending = s.pending := rfl
@[simp] theorem State.setCore_sram (s : State) (k : Nat) (v : CoreSt) : (s.setCore k v).sram = s.sram := rfl
@[simp] theorem State.setCore_hbm (s : State) (k : Nat) (v : CoreSt) : (s.setCore k v).hbm = s.hbm := rfl
@[simp] theorem State.setCore_outbox (s : State) (k : Nat) (v : CoreSt) : (s.setCore k v).outbox = s.outbox := rfl
@[simp] theorem State.mx_setMx_same (s : State) (k : Nat) (v : Mxe) : (s.setMx k v).mx k = v := by
  simp [State.mx, State.setMx]
theorem State.mx_setMx_ne (s : State) {k j : Nat} (v : Mxe) (h : j ≠ k) : (s.setMx k v).mx j = s.mx j := by
  simp [State.mx, State.setMx, SMap.getD_set_ne _ _ _ h]; try rfl
@[simp] theorem State.setMx_reg (s : State) (k : Nat) (v : Mxe) (r : Reg) (i : Nat) : (s.setMx k v).reg r i = s.reg r i := rfl
@[simp] theorem State.setMx_fld (s : State) (k : Nat) (v : Mxe) (f : Fld) (i : Nat) : (s.setMx k v).fld f i = s.fld f i := rfl
@[simp] theorem State.setMx_chip (s : State) (k : Nat) (v : Mxe) : (s.setMx k v).chip = s.chip := rfl
@[simp] theorem State.setMx_aon (s : State) (k : Nat) (v : Mxe) : (s.setMx k v).aon = s.aon := rfl
@[simp] theorem State.setMx_pmu (s : State) (k : Nat) (v : Mxe) : (s.setMx k v).pmu = s.pmu := rfl
@[simp] theorem State.setMx_pending (s : State) (k : Nat) (v : Mxe) : (s.setMx k v).pending = s.pending := rfl
@[simp] theorem State.setMx_sram (s : State) (k : Nat) (v : Mxe) : (s.setMx k v).sram = s.sram := rfl
@[simp] theorem State.setMx_hbm (s : State) (k : Nat) (v : Mxe) : (s.setMx k v).hbm = s.hbm := rfl
@[simp] theorem State.setMx_outbox (s : State) (k : Nat) (v : Mxe) : (s.setMx k v).outbox = s.outbox := rfl
@[simp] theorem State.tr_setTr_same (s : State) (k : Nat) (v : Tre) : (s.setTr k v).tr k = v := by
  simp [State.tr, State.setTr]
theorem State.tr_setTr_ne (s : State) {k j : Nat} (v : Tre) (h : j ≠ k) : (s.setTr k v).tr j = s.tr j := by
  simp [State.tr, State.setTr, SMap.getD_set_ne _ _ _ h]; try rfl
@[simp] theorem State.setTr_reg (s : State) (k : Nat) (v : Tre) (r : Reg) (i : Nat) : (s.setTr k v).reg r i = s.reg r i := rfl
@[simp] theorem State.setTr_fld (s : State) (k : Nat) (v : Tre) (f : Fld) (i : Nat) : (s.setTr k v).fld f i = s.fld f i := rfl
@[simp] theorem State.setTr_chip (s : State) (k : Nat) (v : Tre) : (s.setTr k v).chip = s.chip := rfl
@[simp] theorem State.setTr_aon (s : State) (k : Nat) (v : Tre) : (s.setTr k v).aon = s.aon := rfl
@[simp] theorem State.setTr_pmu (s : State) (k : Nat) (v : Tre) : (s.setTr k v).pmu = s.pmu := rfl
@[simp] theorem State.setTr_pending (s : State) (k : Nat) (v : Tre) : (s.setTr k v).pending = s.pending := rfl
@[simp] theorem State.setTr_sram (s : State) (k : Nat) (v : Tre) : (s.setTr k v).sram = s.sram := rfl
@[simp] theorem State.setTr_hbm (s : State) (k : Nat) (v : Tre) : (s.setTr k v).hbm = s.hbm := rfl
@[simp] theorem State.setTr_outbox (s : State) (k : Nat) (v : Tre) : (s.setTr k v).outbox = s.outbox := rfl
@[simp] theorem State.chan_setChan_same (s : State) (k : Nat) (v : Chan) : (s.setChan k v).chan k = v := by
  simp [State.chan, State.setChan]
theorem State.chan_setChan_ne (s : State) {k j : Nat} (v : Chan) (h : j ≠ k) : (s.setChan k v).chan j = s.chan j := by
  simp [State.chan, State.setChan, SMap.getD_set_ne _ _ _ h]; try rfl
@[simp] theorem State.setChan_reg (s : State) (k : Nat) (v : Chan) (r : Reg) (i : Nat) : (s.setChan k v).reg r i = s.reg r i := rfl
@[simp] theorem State.setChan_fld (s : State) (k : Nat) (v : Chan) (f : Fld) (i : Nat) : (s.setChan k v).fld f i = s.fld f i := rfl
@[simp] theorem State.setChan_chip (s : State) (k : Nat) (v : Chan) : (s.setChan k v).chip = s.chip := rfl
@[simp] theorem State.setChan_aon (s : State) (k : Nat) (v : Chan) : (s.setChan k v).aon = s.aon := rfl
@[simp] theorem State.setChan_pmu (s : State) (k : Nat) (v : Chan) : (s.setChan k v).pmu = s.pmu := rfl
@[simp] theorem State.setChan_pending (s : State) (k : Nat) (v : Chan) : (s.setChan k v).pending = s.pending := rfl
@[simp] theorem State.setChan_sram (s : State) (k : Nat) (v : Chan) : (s.setChan k v).sram = s.sram := rfl
@[simp] theorem State.setChan_hbm (s : State) (k : Nat) (v : Chan) : (s.setChan k v).hbm = s.hbm := rfl
@[simp] theorem State.setChan_outbox (s : State) (k : Nat) (v : Chan) : (s.setChan k v).outbox = s.outbox := rfl
@[simp] theorem State.up_setUp_same (s : State) (k : Nat) (v : UpPort) : (s.setUp k v).up k = v := by
  simp [State.up, State.setUp]
theorem State.up_setUp_ne (s : State) {k j : Nat} (v : UpPort) (h : j ≠ k) : (s.setUp k v).up j = s.up j := by
  simp [State.up, State.setUp, SMap.getD_set_ne _ _ _ h]; try rfl
@[simp] theorem State.setUp_reg (s : State) (k : Nat) (v : UpPort) (r : Reg) (i : Nat) : (s.setUp k v).reg r i = s.reg r i := rfl
@[simp] theorem State.setUp_fld (s : State) (k : Nat) (v : UpPort) (f : Fld) (i : Nat) : (s.setUp k v).fld f i = s.fld f i := rfl
@[simp] theorem State.setUp_chip (s : State) (k : Nat) (v : UpPort) : (s.setUp k v).chip = s.chip := rfl
@[simp] theorem State.setUp_aon (s : State) (k : Nat) (v : UpPort) : (s.setUp k v).aon = s.aon := rfl
@[simp] theorem State.setUp_pmu (s : State) (k : Nat) (v : UpPort) : (s.setUp k v).pmu = s.pmu := rfl
@[simp] theorem State.setUp_pending (s : State) (k : Nat) (v : UpPort) : (s.setUp k v).pending = s.pending := rfl
@[simp] theorem State.setUp_sram (s : State) (k : Nat) (v : UpPort) : (s.setUp k v).sram = s.sram := rfl
@[simp] theorem State.setUp_hbm (s : State) (k : Nat) (v : UpPort) : (s.setUp k v).hbm = s.hbm := rfl
@[simp] theorem State.setUp_outbox (s : State) (k : Nat) (v : UpPort) : (s.setUp k v).outbox = s.outbox := rfl
@[simp] theorem State.part_setPart_same (s : State) (k : Nat) (v : NorPart) : (s.setPart k v).part k = v := by
  simp [State.part, State.setPart]
theorem State.part_setPart_ne (s : State) {k j : Nat} (v : NorPart) (h : j ≠ k) : (s.setPart k v).part j = s.part j := by
  simp [State.part, State.setPart, SMap.getD_set_ne _ _ _ h]; try rfl
@[simp] theorem State.setPart_reg (s : State) (k : Nat) (v : NorPart) (r : Reg) (i : Nat) : (s.setPart k v).reg r i = s.reg r i := rfl
@[simp] theorem State.setPart_fld (s : State) (k : Nat) (v : NorPart) (f : Fld) (i : Nat) : (s.setPart k v).fld f i = s.fld f i := rfl
@[simp] theorem State.setPart_chip (s : State) (k : Nat) (v : NorPart) : (s.setPart k v).chip = s.chip := rfl
@[simp] theorem State.setPart_aon (s : State) (k : Nat) (v : NorPart) : (s.setPart k v).aon = s.aon := rfl
@[simp] theorem State.setPart_pmu (s : State) (k : Nat) (v : NorPart) : (s.setPart k v).pmu = s.pmu := rfl
@[simp] theorem State.setPart_pending (s : State) (k : Nat) (v : NorPart) : (s.setPart k v).pending = s.pending := rfl
@[simp] theorem State.setPart_sram (s : State) (k : Nat) (v : NorPart) : (s.setPart k v).sram = s.sram := rfl
@[simp] theorem State.setPart_hbm (s : State) (k : Nat) (v : NorPart) : (s.setPart k v).hbm = s.hbm := rfl
@[simp] theorem State.setPart_outbox (s : State) (k : Nat) (v : NorPart) : (s.setPart k v).outbox = s.outbox := rfl
@[simp] theorem State.ptpPort_setPtp_same (s : State) (k : Nat) (v : PtpPort) : (s.setPtp k v).ptpPort k = v := by
  simp [State.ptpPort, State.setPtp]
theorem State.ptpPort_setPtp_ne (s : State) {k j : Nat} (v : PtpPort) (h : j ≠ k) : (s.setPtp k v).ptpPort j = s.ptpPort j := by
  simp [State.ptpPort, State.setPtp, SMap.getD_set_ne _ _ _ h]; try rfl
@[simp] theorem State.setPtp_reg (s : State) (k : Nat) (v : PtpPort) (r : Reg) (i : Nat) : (s.setPtp k v).reg r i = s.reg r i := rfl
@[simp] theorem State.setPtp_fld (s : State) (k : Nat) (v : PtpPort) (f : Fld) (i : Nat) : (s.setPtp k v).fld f i = s.fld f i := rfl
@[simp] theorem State.setPtp_chip (s : State) (k : Nat) (v : PtpPort) : (s.setPtp k v).chip = s.chip := rfl
@[simp] theorem State.setPtp_aon (s : State) (k : Nat) (v : PtpPort) : (s.setPtp k v).aon = s.aon := rfl
@[simp] theorem State.setPtp_pmu (s : State) (k : Nat) (v : PtpPort) : (s.setPtp k v).pmu = s.pmu := rfl
@[simp] theorem State.setPtp_pending (s : State) (k : Nat) (v : PtpPort) : (s.setPtp k v).pending = s.pending := rfl
@[simp] theorem State.setPtp_sram (s : State) (k : Nat) (v : PtpPort) : (s.setPtp k v).sram = s.sram := rfl
@[simp] theorem State.setPtp_hbm (s : State) (k : Nat) (v : PtpPort) : (s.setPtp k v).hbm = s.hbm := rfl
@[simp] theorem State.setPtp_outbox (s : State) (k : Nat) (v : PtpPort) : (s.setPtp k v).outbox = s.outbox := rfl
@[simp] theorem State.trSrc_setTrSrc_same (s : State) (k : Nat) (v : TrSrc) : (s.setTrSrc k v).trSrc k = v := by
  simp [State.trSrc, State.setTrSrc]
theorem State.trSrc_setTrSrc_ne (s : State) {k j : Nat} (v : TrSrc) (h : j ≠ k) : (s.setTrSrc k v).trSrc j = s.trSrc j := by
  simp [State.trSrc, State.setTrSrc, SMap.getD_set_ne _ _ _ h]; try rfl
@[simp] theorem State.setTrSrc_reg (s : State) (k : Nat) (v : TrSrc) (r : Reg) (i : Nat) : (s.setTrSrc k v).reg r i = s.reg r i := rfl
@[simp] theorem State.setTrSrc_fld (s : State) (k : Nat) (v : TrSrc) (f : Fld) (i : Nat) : (s.setTrSrc k v).fld f i = s.fld f i := rfl
@[simp] theorem State.setTrSrc_chip (s : State) (k : Nat) (v : TrSrc) : (s.setTrSrc k v).chip = s.chip := rfl
@[simp] theorem State.setTrSrc_aon (s : State) (k : Nat) (v : TrSrc) : (s.setTrSrc k v).aon = s.aon := rfl
@[simp] theorem State.setTrSrc_pmu (s : State) (k : Nat) (v : TrSrc) : (s.setTrSrc k v).pmu = s.pmu := rfl
@[simp] theorem State.setTrSrc_pending (s : State) (k : Nat) (v : TrSrc) : (s.setTrSrc k v).pending = s.pending := rfl
@[simp] theorem State.setTrSrc_sram (s : State) (k : Nat) (v : TrSrc) : (s.setTrSrc k v).sram = s.sram := rfl
@[simp] theorem State.setTrSrc_hbm (s : State) (k : Nat) (v : TrSrc) : (s.setTrSrc k v).hbm = s.hbm := rfl
@[simp] theorem State.setTrSrc_outbox (s : State) (k : Nat) (v : TrSrc) : (s.setTrSrc k v).outbox = s.outbox := rfl
@[simp] theorem State.colSlow_setColSlow_same (s : State) (k : Nat) (v : ColSlow) : (s.setColSlow k v).colSlow k = v := by
  simp [State.colSlow, State.setColSlow]
theorem State.colSlow_setColSlow_ne (s : State) {k j : Nat} (v : ColSlow) (h : j ≠ k) : (s.setColSlow k v).colSlow j = s.colSlow j := by
  simp [State.colSlow, State.setColSlow, SMap.getD_set_ne _ _ _ h]; try rfl
@[simp] theorem State.setColSlow_reg (s : State) (k : Nat) (v : ColSlow) (r : Reg) (i : Nat) : (s.setColSlow k v).reg r i = s.reg r i := rfl
@[simp] theorem State.setColSlow_fld (s : State) (k : Nat) (v : ColSlow) (f : Fld) (i : Nat) : (s.setColSlow k v).fld f i = s.fld f i := rfl
@[simp] theorem State.setColSlow_chip (s : State) (k : Nat) (v : ColSlow) : (s.setColSlow k v).chip = s.chip := rfl
@[simp] theorem State.setColSlow_aon (s : State) (k : Nat) (v : ColSlow) : (s.setColSlow k v).aon = s.aon := rfl
@[simp] theorem State.setColSlow_pmu (s : State) (k : Nat) (v : ColSlow) : (s.setColSlow k v).pmu = s.pmu := rfl
@[simp] theorem State.setColSlow_pending (s : State) (k : Nat) (v : ColSlow) : (s.setColSlow k v).pending = s.pending := rfl
@[simp] theorem State.setColSlow_sram (s : State) (k : Nat) (v : ColSlow) : (s.setColSlow k v).sram = s.sram := rfl
@[simp] theorem State.setColSlow_hbm (s : State) (k : Nat) (v : ColSlow) : (s.setColSlow k v).hbm = s.hbm := rfl
@[simp] theorem State.setColSlow_outbox (s : State) (k : Nat) (v : ColSlow) : (s.setColSlow k v).outbox = s.outbox := rfl

/-! ### Registers beside the updates that write none -/

@[simp] theorem State.item_reg (s : State) (k n : Nat) (r : Reg) (i : Nat) : (s.item k n).reg r i = s.reg r i := rfl
@[simp] theorem State.bytes_reg (s : State) (k n : Nat) (r : Reg) (i : Nat) : (s.bytes k n).reg r i = s.reg r i := rfl
@[simp] theorem State.ev_reg (s : State) (u : UnitKind) (j e n : Nat) (r : Reg) (i : Nat) : (s.ev u j e n).reg r i = s.reg r i := rfl
@[simp] theorem State.emit_reg (s : State) (o : Out) (r : Reg) (i : Nat) : (s.emit o).reg r i = s.reg r i := rfl
@[simp] theorem State.answer_reg (s : State) (c : Code) (d : Word) (r : Reg) (i : Nat) : (s.answer c d).reg r i = s.reg r i := rfl

end Sys2Proof.Machine
end

