-- ==== Sys2Proof/WellFormed.lean ====
section
/-! DEFINITION. Well-formed commands: every operand in the range the largest part gives it (Tables 00-2, 02-1, 02-2). What a
command does with an operand that the part at hand does not have is the meaning's business. -/

namespace Sys2Proof

/-- An offset in a page (R28). -/
def wfOff (n : Nat) : Bool := decide (n < 4096)
/-- A lane: a tray has 128, a leaf lane 0. -/
def wfLane (n : Nat) : Bool := decide (n < 128)
/-- A well of a leaf. -/
def wfWell (n : Nat) : Bool := decide (n < 48)
/-- An upstream port. -/
def wfPort (n : Nat) : Bool := decide (n < 2)
/-- A port of the time tables: 128 and 129 are UP0 and UP1. -/
def wfTimePort (n : Nat) : Bool := decide (n < 130)
/-- A sampling group, pump channel or trace source. -/
def wfGroup (n : Nat) : Bool := decide (n < 64)
/-- An interrupt or collective group, a ring, a decoder, a job, a range monitor. -/
def wfSixteen (n : Nat) : Bool := decide (n < 16)
/-- A matrix engine. -/
def wfMxe (n : Nat) : Bool := decide (n < 8)
/-- A tree engine. -/
def wfTre (n : Nat) : Bool := decide (n < 4)
/-- A core, or an acknowledge register. -/
def wfCore (n : Nat) : Bool := decide (n < 32)

/-- A core's load or store is of 1, 2 or 4 bytes. -/
def wfCoreOp : CoreOp → Bool
  | .load n => n == 1 || n == 2 || n == 4
  | .store n => n == 1 || n == 2 || n == 4
  | _ => true
/-- An interrupt line or a virtual channel. -/
def wfLine (n : Nat) : Bool := decide (n < 4)
/-- A translation context. -/
def wfContext (n : Nat) : Bool := decide (n < 1024)
/-- A fault source. -/
def wfSource (n : Nat) : Bool := decide (n < 2048)
/-- An epoch index (R14). -/
def wfEpoch (n : Nat) : Bool := decide (n < 2 ^ 40)
/-- The INDEX and the TABLE of a window command (Table 02-17). -/
def wfIndex (n : Nat) : Bool := decide (n < 2 ^ 32)
def wfTable (n : Nat) : Bool := decide (n < 256)
/-- A place inside an AON cycle, in 2^-16 ns. -/
def wfSub (n : Nat) : Bool := decide (n < 655360)
/-- A SLOW_DOWN shift (R325). -/
def wfShift (n : Nat) : Bool := decide (n < 8)
/-- A fault token (Table 11-8). -/
def wfToken (n : Nat) : Bool := decide (n < 65536)
/-- A flit is 256 bytes (R314). -/
def wfFlit (b : List Byte) : Bool := b.length == 256
/-- A frame has two addresses and an EtherType. -/
def wfFrame (b : List Byte) : Bool := decide (14 ≤ b.length)
/-- A message is 16 to 16,384 bytes (R316). -/
def wfMessage (b : List Byte) : Bool := decide (16 ≤ b.length ∧ b.length ≤ 16384)
/-- A descriptor is 64 bytes (Table 11-1). -/
def wfDesc (b : List Byte) : Bool := b.length == 64
/-- Entries of a management flit (R325). -/
def wfEntries (n : Nat) : Bool := decide (1 ≤ n ∧ n ≤ 15)

/-- Whether a command's operands are in range. -/
def Instr.wf : Instr → Bool
  | .registerWrite _ => true
  | .rcCounterRead _ _ _ off => wfOff off
  | .portTimeout => true
  | .unitReset _ _ _ _ => true
  | .unitResetDone _ _ => true
  | .pgErrClear _ _ _ _ => true
  | .pgLockWrite _ _ _ _ => true
  | .aliasSet _ _ _ off _ => wfOff off
  | .aliasClr _ _ _ off _ => wfOff off
  | .dirViolRead _ => true
  | .dirNodeWrite _ _ => true
  | .tkpNowLoRead _ => true
  | .mgmtReqExec es => wfEntries es.length
  | .mgmtRespRx w rs => wfLane w && wfEntries rs.length
  | .mgmtTimeout w _ => wfLane w
  | .voteRaise _ => true
  | .primingDone => true
  | .voteClear _ => true
  | .holdExpire => true
  | .unprimingDone => true
  | .fastVokAssert => true
  | .primeTimeout => true
  | .fastVokTimeout => true
  | .retryPrime _ _ => true
  | .pwrSwVoteWrite _ _ => true
  | .fastRailDroop => true
  | .springPrimeLead g => wfGroup g
  | .stageAgeVote => true
  | .epochBoundary _ => true
  | .timeSyncSend w => wfLane w
  | .timeSyncRx _ sub => wfSub sub
  | .timeDreqRx w _ sub => wfLane w && wfSub sub
  | .timeDrespRx _ _ _ => true
  | .missedInterval => true
  | .acceptJump _ => true
  | .slewEnd => true
  | .reacquire _ => true
  | .ptpSyncRx p _ sub => wfPort p && wfSub sub
  | .ptpFollowUpRx p _ => wfPort p
  | .ptpDelayRespRx p _ => wfPort p
  | .ptpPdelayReqRx p _ sub => wfPort p && wfSub sub
  | .ptpPdelayRespRx p _ sub => wfPort p && wfSub sub
  | .ptpPdelayRespFuRx p _ => wfPort p
  | .ptpAnnounceRx p _ => wfPort p
  | .announceTimeout p => wfPort p
  | .txtsPop _ port => wfTimePort port
  | .portTimeRead _ port => wfTimePort port
  | .portTimeWrite _ port => wfTimePort port
  | .timedLaunch port => wfTimePort port
  | .groupTick g => wfGroup g
  | .wellSnapAck w _ => wfWell w
  | .wellAckLow w => wfWell w
  | .staleTimeout w => wfWell w
  | .skewWindowEnd w _ => wfWell w
  | .rowComplete g => wfGroup g
  | .smpValidate _ _ => true
  | .smpValidateDone => true
  | .smpPlanWrite _ _ => true
  | .planRebuildDone g => wfGroup g
  | .springStart _ g => wfGroup g
  | .springStop _ g => wfGroup g
  | .slowDownMsg shift => wfShift shift
  | .welSlotRead _ w idx => wfWell w && wfIndex idx
  | .welSlotWrite _ w idx => wfWell w && wfIndex idx
  | .welSlotReadActive _ w idx => wfWell w && wfIndex idx
  | .smpTblRead _ t idx => wfTable t && wfIndex idx
  | .smpTblWrite _ t idx => wfTable t && wfIndex idx
  | .smpTblReadActive _ t idx => wfTable t && wfIndex idx
  | .eprTblRead _ t idx => wfTable t && wfIndex idx
  | .eprTblWrite _ t idx => wfTable t && wfIndex idx
  | .eprTblReadActive _ t idx => wfTable t && wfIndex idx
  | .eprCfgWrite _ _ => true
  | .encodeRow _ => true
  | .cmpKeyReqWrite _ _ => true
  | .keyRequestMsg _ g => wfGroup g
  | .decodeFrame dec _ => wfSixteen dec
  | .keyRequestRepeat w g => wfLane w && wfGroup g
  | .cmpOutCfgWrite _ _ => true
  | .cmpTblRead _ idx => wfIndex idx
  | .cmpTblWrite _ idx => wfIndex idx
  | .cmpTblReadActive _ idx => wfIndex idx
  | .mxeRmonStatRead _ e k => wfMxe e && wfSixteen k
  | .mxeLaunchWrite _ e _ => wfMxe e
  | .mxeRunStart e => wfMxe e
  | .mxeNop e _ => wfMxe e
  | .mxeHalt e _ => wfMxe e
  | .mxeAcclr e _ => wfMxe e
  | .mxeAccld e _ => wfMxe e
  | .mxeMmul e _ => wfMxe e
  | .mxeRq e _ _ => wfMxe e
  | .mxeAct e _ => wfMxe e
  | .mxeCpy e _ => wfMxe e
  | .mxeLdh e _ _ => wfMxe e
  | .mxeSth e _ _ => wfMxe e
  | .mxeLdrec e _ _ => wfMxe e
  | .mxeLdeft e _ _ _ _ => wfMxe e
  | .mxeVout e _ _ => wfMxe e
  | .mxeContextSaveDone e => wfMxe e
  | .mxeContextRestoreDone e => wfMxe e
  | .mxeAbort _ e _ => wfMxe e
  | .mxeSlotRead _ e k => wfMxe e && wfIndex k
  | .mxeSlotWrite _ e k => wfMxe e && wfIndex k
  | .mxeLoad _ e k => wfMxe e && wfIndex k
  | .mxeLoadDone e => wfMxe e
  | .mxeUnload _ e k => wfMxe e && wfIndex k
  | .mxeProgRead _ e t idx => wfMxe e && wfTable t && wfIndex idx
  | .mxeProgWrite _ e t idx => wfMxe e && wfTable t && wfIndex idx
  | .treLaunchWrite _ e _ => wfTre e
  | .treRunStart e => wfTre e
  | .treVector e _ _ => wfTre e
  | .treAbort _ e _ => wfTre e
  | .treSlotRead _ e k => wfTre e && wfIndex k
  | .treSlotWrite _ e k => wfTre e && wfIndex k
  | .treLoad _ e k => wfTre e && wfIndex k
  | .treLoadDone e => wfTre e
  | .treUnload _ e k => wfTre e && wfIndex k
  | .eftRead _ _ => true
  | .eftWrite _ _ => true
  | .eftDelete _ _ => true
  | .eftReadPos _ idx _ => wfIndex idx
  | .eftPurgeGen _ => true
  | .eftPurgeDone => true
  | .eftSnapshot _ => true
  | .eftSnapshotDone => true
  | .eftFeedRead _ idx => wfIndex idx
  | .eftFeedWrite _ idx => wfIndex idx
  | .eftSweepDone => true
  | .eftRehashDone _ => true
  | .coreEftRead c _ _ _ => wfCore c
  | .coreEftWrite c _ _ _ _ _ => wfCore c
  | .coreEftDelete c _ _ => wfCore c
  | .coreEftReadPos c _ _ _ => wfCore c
  | .coreEftPurgeGen c _ => wfCore c
  | .coreEftDone c => wfCore c
  | .coreStart _ _ => true
  | .coreStop _ _ => true
  | .fwLoad _ => true
  | .fwLoadDone => true
  | .mbxPushDriver _ c => wfCore c
  | .mbxPopDriver _ c => wfCore c
  | .coreMbxPop c => wfCore c
  | .coreMbxPush c _ _ => wfCore c
  | .coreRegAccess c _ _ op _ _ => wfCore c && wfCoreOp op
  | .coreHostAccess c _ off _ _ _ => wfCore c && decide (off < 2 ^ 31)
  | .coreXltStallTimeout c => wfCore c
  | .coreTrap c _ _ => wfCore c
  | .mtimeMatch c => wfCore c
  | .wdogKick c _ => wfCore c
  | .wdogBark c => wfCore c
  | .wdogBite c _ => wfCore c
  | .corSharedWrite _ _ => true
  | .ringPoll c _ descs => wfGroup c && descs.all fun d => d.all wfDesc
  | .segmentIssue _ _ => true
  | .segmentDone _ idx _ _ _ => wfIndex idx
  | .descWriteback c idx _ _ => wfGroup c && wfIndex idx
  | .xltWalk _ _ => true
  | .xltResume _ token => wfToken token
  | .xltAbort _ token => wfToken token
  | .xltFaultPop _ => true
  | .xltFaultTimeout token => wfToken token
  | .xltInvContext _ ctx => wfContext ctx
  | .xltInvPage _ ctx _ => wfContext ctx
  | .xltInvAll _ => true
  | .xltInvDone _ => true
  | .xltCtxRead _ idx => wfIndex idx
  | .xltCtxWrite _ idx => wfIndex idx
  | .pmpAbort _ _ => true
  | .pmpChRestart _ _ => true
  | .pmpChEnWrite _ _ => true
  | .pmpChRead _ idx => wfIndex idx
  | .pmpChWrite _ idx => wfIndex idx
  | .laneDetect w => wfLane w
  | .trainAlignDone w _ _ => wfLane w
  | .trainTimeout w => wfLane w
  | .trainFlitRx w _ => wfLane w
  | .rateSwitchDone w _ _ => wfLane w
  | .rateSwitchTimeout w => wfLane w
  | .rateHoldExpire w => wfLane w
  | .lossOfSignal w => wfLane w
  | .quarantineExpire w => wfLane w
  | .slkRetrain _ w _ => wfLane w
  | .slkClearQuar _ w _ => wfLane w
  | .slkQuarantine _ w _ => wfLane w
  | .flitSlot w sub => wfLane w && wfSub sub
  | .dataFlitRx w f _ _ sub => wfLane w && wfFlit f && wfSub sub
  | .nakRx w f => wfLane w && wfFlit f
  | .creditSyncRx w f => wfLane w && wfFlit f
  | .nullFlitRx w f => wfLane w && wfFlit f
  | .replayTimeout w => wfLane w
  | .nakRepeat w => wfLane w
  | .creditSyncTimeout w => wfLane w
  | .hpaRouteDelay => true
  | .hpaFlitSend => true
  | .hpaConsPoll _ => true
  | .altRingPoll w _ flits => wfLane w && flits.all wfFlit
  | .appSend _ w => wfLane w
  | .appRxPop _ w => wfLane w
  | .appMsg w _ => wfLane w
  | .resendMsg _ _ => true
  | .recordArrival w m _ => wfLane w && wfMessage m
  | .rdxClose n => wfEpoch n
  | .rdxResendWrite _ _ => true
  | .xrfRx p f => wfPort p && wfFrame f
  | .treeSendTimer => true
  | .rdxTblRead _ t idx => wfTable t && wfIndex idx
  | .rdxTblWrite _ t idx => wfTable t && wfIndex idx
  | .colStart _ _ _ => true
  | .colAbortWrite _ _ => true
  | .colSigRx p f _ => wfPort p && wfFrame f
  | .colDataRx p f _ => wfPort p && wfFrame f
  | .colAckRx p f _ => wfPort p && wfFrame f
  | .colAbortRx p f => wfPort p && wfFrame f
  | .colRetxTimer g => wfSixteen g
  | .colRxTimeout g => wfSixteen g
  | .colTxTimeout g => wfSixteen g
  | .colEftApplyDone g _ => wfSixteen g
  | .colGroupRead _ idx => wfIndex idx
  | .colGroupWrite _ idx => wfIndex idx
  | .colMemberRead _ idx => wfIndex idx
  | .colMemberWrite _ idx => wfIndex idx
  | .colSlowRead _ idx => wfIndex idx
  | .ingestGrant => true
  | .slowStepTimer => true
  | .recoverTimer => true
  | .upTx p sub => wfPort p && wfSub sub
  | .gateAdvance p => wfPort p
  | .swFrameSend _ => true
  | .swFramePop _ => true
  | .upFrameRx p f _ _ => wfPort p && wfFrame f
  | .upsQueueRead _ idx => wfIndex idx
  | .upsQueueWrite _ idx => wfIndex idx
  | .upsGateRead _ idx => wfIndex idx
  | .upsGateWrite _ idx => wfIndex idx
  | .upsRouteRead _ idx => wfIndex idx
  | .upsRouteWrite _ idx => wfIndex idx
  | .policerRead _ w v => wfLane w && wfLine v
  | .policerWrite _ w v => wfLane w && wfLine v
  | .mirrorRx p f => wfPort p && wfFrame f
  | .resyncRx p f => wfPort p && wfFrame f
  | .mirrorAckTimeout => true
  | .budRestore _ _ => true
  | .restoreReqRx p f => wfPort p && wfFrame f
  | .restoreEndRx p f => wfPort p && wfFrame f
  | .restoreTimeout => true
  | .mgrReqRx p f => wfPort p && wfFrame f
  | .healthTimer => true
  | .mgrRelayWrite _ idx => wfIndex idx
  | .mgrRelayPop _ idx => wfIndex idx
  | .upClearQuar _ p _ => wfPort p
  | .upQuarFullClear _ p _ => wfPort p
  | .upQuarExpire p _ => wfPort p
  | .stepMarkPort _ => true
  | .stmMarkWrite _ _ => true
  | .stepMarkRx w m => wfLane w && wfMessage m
  | .stepVerdict e _ => wfSixteen e
  | .fleetStragglerTrayRx p f => wfPort p && wfFrame f
  | .fleetStragglerLeafRx m => wfMessage m
  | .notifyPop _ => true
  | .stmJobRead _ idx => wfIndex idx
  | .stmJobWrite _ idx => wfIndex idx
  | .stmJobReadActive _ idx => wfIndex idx
  | .stmRowRead _ idx => wfIndex idx
  | .stmBaseRead _ idx => wfIndex idx
  | .stmBaseWrite _ idx => wfIndex idx
  | .stmBaseReadActive _ idx => wfIndex idx
  | .capArm _ _ => true
  | .capDisarm _ _ => true
  | .capUpload _ _ => true
  | .capCancel _ _ => true
  | .capTrigWrite _ _ => true
  | .capUploadSend r => wfSixteen r
  | .capRingRead _ idx => wfIndex idx
  | .capRingCfgWrite _ idx => wfIndex idx
  | .capLineRead _ r idx => wfSixteen r && wfIndex idx
  | .traceBeat src _ _ _ _ => wfGroup src
  | .traceSourceTimeout src => wfGroup src
  | .htpFlushTimer => true
  | .htpStart _ => true
  | .htpStop _ => true
  | .htpRearm _ => true
  | .htpDrain => true
  | .htpConsPoll _ => true
  | .htpStallTimeout => true
  | .htpFilterRead _ idx => wfIndex idx
  | .htpFilterWrite _ idx => wfIndex idx
  | .scrPassTimer => true
  | .scrPassNow _ _ => true
  | .scrAbortPass _ _ => true
  | .scrPatternStart => true
  | .scrPatternEnd _ => true
  | .scrHostPop _ => true
  | .scrHostResult _ => true
  | .scrHostTimeout _ => true
  | .scrBundleLoad _ => true
  | .scrBundleLoadDone => true
  | .scrRestoreWrite _ _ => true
  | .nvhCheckpoint => true
  | .nvPhaseDone => true
  | .nvhLogRead _ _ idx => wfIndex idx
  | .nvhFwdPop _ => true
  | .nvhFwdWrite _ => true
  | .nvhStateRead _ idx => wfIndex idx
  | .nvhStateWrite _ idx => wfIndex idx
  | .fltInject _ _ => true
  | .quietExpire src => wfSource src
  | .fltAckSet _ k _ => wfCore k
  | .fltAckClr _ k _ => wfCore k
  | .fltAckWrite _ k _ => wfCore k
  | .fltSrcRead _ idx => wfIndex idx
  | .fltSrcWrite _ idx => wfIndex idx
  | .fltDirRead _ idx => wfIndex idx
  | .fltClearFirst _ _ => true
  | .evrRead _ _ => true
  | .evrRdWrite _ _ => true
  | .ircClaimRead _ n => wfLine n
  | .ircComplete _ _ => true
  | .ircHoldoffEnd g => wfSixteen g
  | .ircPendClear _ g _ => wfSixteen g
  | .pmuSnap _ _ => true
  | .pmuClear _ _ => true
  | .pmuCtrRead _ idx => wfIndex idx
  | .pmuCtrWrite _ idx => wfIndex idx
  | .pmuCtrReadSnap _ idx => wfIndex idx
  | .pmuBytesRead _ idx => wfIndex idx
  | .pmuAonRead _ idx => wfIndex idx
  | .pmuBwRead _ idx => wfIndex idx
  | .pmuRunlogRead _ idx => wfIndex idx
  | .pmuWindowEnd => true
  | .pmuReplay _ _ => true
  | .powerOnReset _ => true
  | .blockResetPin => true
  | .lcmProvision _ => true
  | .lcmDeploy _ => true
  | .lcmUndeploy _ => true
  | .lcmReturn _ => true
  | .lcmFunctionReset _ => true
  | .lcmBlockReset _ => true
  | .lcmCmdTakeEffect => true
  | .functionResetDone => true
  | .otpReadDone => true
  | .wipeDone => true
  | .nvStateDecide _ => true
  | .bootDone => true
  | .commitArm _ => true
  | .commitDisarm _ => true
  | .lcmCommitWrite _ _ => true
  | .commitWindowOpen => true
  | .commitWindowClose => true
  | .otpReadCmd _ idx => wfIndex idx
  | .otpWriteCmd _ idx => wfIndex idx
  | .otpProgramDone => true
  | .upLinkDown p => wfPort p
  | .upLinkUp p => wfPort p
  | .laneRateReqRx w _ => wfLane w
  | .coreMret c => wfCore c
  | .mirrorAckRx p f => wfPort p && wfFrame f
  | .restoreDataRx p f => wfPort p && wfFrame f
  | .nvhLogWriteDone _ => true
  | .ptpDelayReqSend p sub => wfPort p && wfSub sub

end Sys2Proof
end

