-- ==== Sys2Proof/Tests/Slice0.lean ====
section
/-! SUPPORT. Tests: ill-formed commands that well-formedness refuses, the manual's worked examples and tables, single steps of
commands, and for every obligation with hypotheses a state and operands that meet them, clause by clause. -/

section
set_option Elab.async false
set_option linter.unusedVariables false
namespace Sys2Proof.Tests
open Sys2Proof Sys2Proof.Machine

/-- A request of the management path at PRIV F. -/
def qF : Req := ⟨.mgmt, 2, 0⟩

/-- Registers that enable units. -/
def enables (us : List UnitKind) : SMap Word := us.map fun u => (regKey (Rg.PG_CTRL u) 0, 1)

/-- A booted leaf: units enabled, PRIMED, LOCKED, its lane ACTIVE, a job bound. -/
def leafOn : State :=
  let s := { State.reset with
    regs := enables (commonPages ++ leafPages ++ ([.wel] : List UnitKind))
    lcm := { State.reset.lcm with bootDone := true, lcState := 1 } }
  (((s.setFld Fd.PWR_STATE_STATE 0 3).setFld Fd.TKP_STATE_STATE 0 2).setFld Fd.SLK_STATE_LSTATE 0 4).setFld Fd.LCM_JOB_VALID 0 1

/-- A booted tray, likewise, with both ports up. -/
def trayOn : State :=
  let s := { State.reset with
    chip := { full := true, role := .tray, stepping := 0x20, pkgDieIdx := 0, pkgDies := 0, wellTie := 0 }
    regs := enables (commonPages ++ trayPages ++ ([.cap, .mxe, .mxew, .tre, .up, .slk] : List UnitKind))
    lcm := { State.reset.lcm with bootDone := true, lcState := 1 } }
  (((s.setFld Fd.TKP_STATE_STATE 0 2).setFld Fd.SLK_STATE_LSTATE 0 4).setFld Fd.UP_STAT_LINK 0 1).setFld Fd.LCM_JOB_VALID 0 1

/-- An access is admitted where each condition holds. -/
theorem admits_by {s : State} {a : Access} {u : UnitKind} {i off : Nat}
    (h : (a.path = .host → requestCheck a = a.chk) ∧ (unitPage s.chip.role u i).isSome = true ∧ s.chip.fitted u i = true ∧
      s.refusal a u i off = none ∧ s.mustWait a u i off = false) : s.admits a u i off := h

/-- A window command runs where its write is admitted and the window is idle and awake. -/
theorem runs_by {s : State} {q : Req} {u : UnitKind} {i table op index : Nat}
    (h : ((q.path = .host → requestCheck (s.rowAccess q u i 0xC00 true (cmdWord table op index)) = q.chk) ∧
      (unitPage s.chip.role u i).isSome = true ∧ s.chip.fitted u i = true ∧
      s.refusal (s.rowAccess q u i 0xC00 true (cmdWord table op index)) u i 0xC00 = none ∧
      s.mustWait (s.rowAccess q u i 0xC00 true (cmdWord table op index)) u i 0xC00 = false) ∧
      s.fld (Fd.TBL_STAT_BUSY u) i = 0 ∧ (fastUnit u = true → (s.took u i table op index).primed = true)) :
    s.runs (s.took u i table op index) q u i table op index := ⟨h.1, h.2.1, rfl, h.2.2⟩


/-! ### Records with every field at nothing, to be filled in -/

def zAccess : Access :=
  { path := .mgmt, addr := 0, write := false, size32 := false, priv := 0, wdata := 0, chk := 0 }
def zStream : Stream :=
  { valid := false, ordered := false, job := 0, gen := 0, entry := 0, expected := 0 }
def zTmplEnt : TmplEnt :=
  { valid := false, template := 0, fields := 0 }
def zAccum : Accum :=
  { idx := 0, str := zStream, tmpl := zTmplEnt, descs := [], epoch := 0, close := 0, slots := [], present := 0, flags := 0,
    own := 0, held := [], cfgVer := 0, nextVer := 0 }
def zBaseCfg : BaseCfg :=
  { valid := false, freeze := false, field := 0, k := 0, warm := 0, zHi := 0, consec := 0 }
def zChan : Chan :=
  { ringVa := 0, prodVa := 0, consVa := 0, xltCtx := 0, log2 := 0, pollUs := 0, tagMax := 0, chkDesc := false, stopErr :=
    false, sramSize := 0, sramBase := 0, fetch := 0, cons := 0, prod := 0, halt := 0, stalled := false, pollAt := 0, descs :=
    [], ahead := 0, aborts := [], failed := none, consDue := false }
def zColGrp : ColGrp :=
  { valid := false, job := 0, gen := 0, tag := 0, myRank := 0, n := 0, first := 0, template := 0, cls := 0, dstEft := false,
    srcEft := false, ring := false, op := 0, block := 0, sendOff := 0, recvOff := 0, sendLen := 0, recvLen := 0, seq := 0,
    status := 0, named := 0 }
def zColRun : ColRun :=
  { seq := 0, etype := 0, retx := 0, tmo := 0, base := 0, start := 0, err := 0, step := 0, entered := 0, counts := [], sigs
    := [], lastSig := 0, fields := 0, opmap := [], part := [], sends := [], got := [], want := [], whole := [], waits := [],
    applying := false, ended := false }
def zColSend : ColSend :=
  { step := 0, dst := 0, frags := [], first := 0, resend := 0 }
def zEftEnt : EftEnt :=
  { key := 0, stamp := 0, pinned := false, gen := 0, writes := 0, feats := [] }
def zRow : Row :=
  { time := 0, group := 0, flags := 0, seq := 0, planVer := 0, nextVer := 0, stale := 0, skew := 0, vals := [], job := 0, gen
    := 0, first := 0, ctrs := [], epoch := 0 }
def zEncRow : EncRow :=
  { row := zRow, map := [], lost := none }
def zEvrRec : EvrRec :=
  { seq := 0, code := 0, source := 0, time := 0, epoch := 0, flags := 0, suppressed := 0, opHours := 0, powerCycles := 0,
    detail := [] }
def zFeedRule : FeedRule :=
  { valid := false, op := 0, feat := 0, shift := 0, cls := 0, field := 0 }
def zFilter : Filter :=
  { lo := 0, hi := 0, mode := 0, kinds := 0, srcs := 0 }
def zFlit : Flit :=
  { ftype := 0, vc := 0, som := false, eom := false, seq := 0, ack := 0, crVc := 0, crCum := 0, resv := 0, payload := [] }
def zFqEnt : FqEnt :=
  { token := none, va := 0, xltCtx := 0, client := 0, inst := 0, ch := 0, cause := 0, level := 0, access := 0, pte := 0, edge
    := 0, tmo := 0, read := false }
def zGDesc : GDesc :=
  { valid := false, spring := false, mode := 0, period := 0, phase := 0, first := 0, count := 0, startEp := 0, ticks := 0 }
def zGather : Gather :=
  { row := zRow, owed := [], prev := none }
def zXrf : Xrf :=
  { dst := 0, vlan := none, version := 0, kind := 0, template := 0, part := 0, job := 0, gen := 0, epoch := 0, flags := 0,
    first := 0, n := 0, descCrc := 0, leaves := 0, trays := 0, deadline := 0, presence := 0, opmap := [], slots := [] }
def zHeld : Held :=
  { frame := zXrf, parts := [], kids := 0, own := false, due := 0, sent := false, step := false }
def zIngest : Ingest :=
  { cls := 0, w := 0, body := [] }
def zInval : Inval :=
  { scope := 0, xltCtx := 0, va := 0, level := 0, window := false }
def zLcmCmd : LcmCmd :=
  { op := 0, path := .mgmt, due := 0, ahead := 0 }
def zMRun : MRun :=
  { slot := 0, epoch := 0, job := 0, gen := 0, acfg := 0, rcfg := [], replay := false, stop := 0, pattern := false, started
    := false, index := 0, base := 0, sent := 0, stall := 0, switch := 0, sat := 0, clip := 0, loss := 0, fmt := 0, raised :=
    0, block := 0, preempts := 0, feed := [] }
def zMgmtOut : MgmtOut :=
  { seq := 0, sent := 0, origin := .driver }
def zMgmtReply : MgmtReply :=
  { seq := 0, rstat := 0, rdata := 0 }
def zNvRec : NvRec :=
  { seq := 0, kind := 0, die := 0, unit := 0, opMinutes := 0, powerCycles := 0, detail := 0, data := 0 }
def zOtp : Otp :=
  { keys := [], revoked := 0, svnMin := 0, provFuse := false, returnFuse := false, busy := none }
def zPDesc : PDesc :=
  { index := 0, bytes := [], started := false, next := 0, out := [], seen := [], ending := none, wb := false }
def zPlan : Plan :=
  { ver := 0, groups := [], members := [] }
def zPtpMsg : PtpMsg :=
  { version := 0, minor := 0, domain := 0, seq := 0, ident := 0, reqId := 0, twoStep := false, logInt := 0, corr := 0, ts :=
    0, rank := 0 }
def zPtpPort : PtpPort :=
  { syncSeq := none, syncFrom := 0, t1 := none, t2 := 0, syncCorr := 0, reqSeq := 0, reqId := 0, t3 := none, pdT2 := none,
    pdT4 := 0, pdCorr := 0, meanDelay := none, rank := none, missed := 0, interval := 0 }
def zRing : Ring :=
  { valid := false, base := 0, autoUp := false, autoRe := false, log2 := 0, postRows := 0, groups := 0, trigEn := 0, minSev
    := 0, vcode := 0, thGroup := 0, thCmp := 0, thCtr := 0, thValue := 0, classes := 0, wellhead := 0, st := 0, wrapped :=
    false, wp := 0, oldest := 0, capSeq := 0, trigTime := 0, trigEp := 0, trigJob := 0, trigGen := 0, trigAt := none, offAt
    := none, cause := 0, postLeft := 0, uploaded := false, lostRows := 0, heads := [], txWp := 0, txHeads := 0, txRows := 0,
    up := none }
def zScrPat : ScrPat :=
  { kind := 0, inst := 0, budget := 0, imageOff := 0, imageLen := 0, inputOff := 0, inputLen := 0, golden := 0, outLen := 0,
    hostId := 0 }
def zScrRun : ScrRun :=
  { pat := 0, inst := 0, unit := 0, rerun := 0, failed := none, start := 0, retries := 0, ended := none }
def zSnap : Snap :=
  { va := 0, start := 0, pos := 0, count := 0, closed := false }
def zSrc : Src :=
  { sev := 0, escCap := 0, cur := 0, active := false, acked := false, stopping := false, count := 0, episode := 0, detail :=
    0, time := 0, epoch := 0, quietEnd := 0, rises := [], shown := 0, nvMin := none }
def zStepRow : StepRow :=
  { step := 0, order := 0, openAt := 0, marks := [], tq := none, v := 0, done := false, aRef := 0 }
def zTRun : TRun :=
  { slot := 0, epoch := 0, job := 0, gen := 0, pattern := false, pos := 0, vectors := 0, cycles := 0, emitted := 0, featSat
    := 0, catRange := 0, missing := 0, drop := 0 }
def zTimeSyncFlit : TimeSyncFlit :=
  { exId := 0, t1 := 0, state := 0, syncUs := 0, asym := 0, replayed := false }
def zTimedItem : TimedItem :=
  { launch := 0, vc := 0, item := [], mark := none }
def zTlbEnt : TlbEnt :=
  { xltCtx := 0, level := 0, va := 0, pa := 0, wr := false }
def zTrSrc : TrSrc :=
  { st := 0, owed := 0, addr := 0, since := 0, lastBeat := 0, ever := false }
def zTxItem : TxItem :=
  { ftype := 0, body := [], off := 0, mark := none }
def zTxTs : TxTs :=
  { time := 0, ident := 0, ovfBefore := false, notLocked := false }
def zUpItem : UpItem :=
  { frame := [], mark := none, ptp := none }
def zUpload : Upload :=
  { offset := 0, tries := 0, total := 0, crc := 0 }
def zXfer : Xfer :=
  { client := 0, inst := 0, ch := 0, xltCtx := 0, write := false, ranges := [], data := [], got := [], lastly := false, next
    := 0, out := [], seen := [], stalled := false }

/-! ### Ill-formed commands: one that each check refuses, beside the last one it takes -/

theorem test_wfOff : (Instr.rcCounterRead qF .irc 0 4096).wf = false ∧ (Instr.rcCounterRead qF .irc 0 4095).wf = true := by decide
theorem test_wfLane : (Instr.laneDetect 128).wf = false ∧ (Instr.laneDetect 127).wf = true := by decide
theorem test_wfWell : (Instr.wellAckLow 48).wf = false ∧ (Instr.wellAckLow 47).wf = true := by decide
theorem test_wfPort : (Instr.announceTimeout 2).wf = false ∧ (Instr.announceTimeout 1).wf = true := by decide
theorem test_wfTimePort : (Instr.timedLaunch 130).wf = false ∧ (Instr.timedLaunch 129).wf = true := by decide
theorem test_wfGroup : (Instr.groupTick 64).wf = false ∧ (Instr.groupTick 63).wf = true := by decide
theorem test_wfSixteen : (Instr.colRetxTimer 16).wf = false ∧ (Instr.colRetxTimer 15).wf = true := by decide
theorem test_wfMxe : (Instr.mxeRunStart 8).wf = false ∧ (Instr.mxeRunStart 7).wf = true := by decide
theorem test_wfTre : (Instr.treRunStart 4).wf = false ∧ (Instr.treRunStart 3).wf = true := by decide
theorem test_wfCore : (Instr.wdogBark 32).wf = false ∧ (Instr.wdogBark 31).wf = true := by decide
theorem test_wfCoreOp : (Instr.coreRegAccess 0 0 0 (.load 3) 0 false).wf = false ∧
    (Instr.coreRegAccess 0 0 0 (.load 4) 0 false).wf = true := by decide
theorem test_wfLine : (Instr.ircClaimRead qF 4).wf = false ∧ (Instr.ircClaimRead qF 3).wf = true := by decide
theorem test_wfContext : (Instr.xltInvContext qF 1024).wf = false ∧ (Instr.xltInvContext qF 1023).wf = true := by decide
theorem test_wfSource : (Instr.quietExpire 2048).wf = false ∧ (Instr.quietExpire 2047).wf = true := by decide
theorem test_wfEpoch : (Instr.rdxClose (2 ^ 40)).wf = false ∧ (Instr.rdxClose (2 ^ 40 - 1)).wf = true := by decide
theorem test_wfIndex : (Instr.cmpTblRead qF (2 ^ 32)).wf = false ∧ (Instr.cmpTblRead qF (2 ^ 32 - 1)).wf = true := by decide
theorem test_wfTable : (Instr.smpTblRead qF 256 0).wf = false ∧ (Instr.smpTblRead qF 255 0).wf = true := by decide
theorem test_wfSub : (Instr.flitSlot 0 655360).wf = false ∧ (Instr.flitSlot 0 655359).wf = true := by decide
theorem test_wfShift : (Instr.slowDownMsg 8).wf = false ∧ (Instr.slowDownMsg 7).wf = true := by decide
theorem test_wfToken : (Instr.xltFaultTimeout 65536).wf = false ∧ (Instr.xltFaultTimeout 65535).wf = true := by decide
theorem test_wfHostOff : (Instr.coreHostAccess 0 0 (2 ^ 31) true false []).wf = false ∧
    (Instr.coreHostAccess 0 0 (2 ^ 31 - 1) true false []).wf = true := by decide
theorem test_wfFlit : (Instr.nakRx 0 (List.replicate 255 0)).wf = false ∧ (Instr.nakRx 0 (List.replicate 256 0)).wf = true := by
  decide +kernel
theorem test_wfFrame : (Instr.xrfRx 0 (List.replicate 13 0)).wf = false ∧ (Instr.xrfRx 0 (List.replicate 14 0)).wf = true := by
  decide +kernel
theorem test_wfMessage : (Instr.stepMarkRx 0 (List.replicate 15 0)).wf = false ∧
    (Instr.stepMarkRx 0 (List.replicate 16385 0)).wf = false ∧ (Instr.stepMarkRx 0 (List.replicate 16 0)).wf = true := by
  decide +kernel
theorem test_wfDesc : (Instr.ringPoll 0 none [some (List.replicate 63 0)]).wf = false ∧
    (Instr.ringPoll 0 none [some (List.replicate 64 0)]).wf = true := by decide +kernel
theorem test_wfEntries : (Instr.mgmtReqExec []).wf = false ∧ (Instr.mgmtReqExec (List.replicate 16 ⟨0, 0, false, false, 0, 0⟩)).wf = false ∧
    (Instr.mgmtReqExec (List.replicate 15 ⟨0, 0, false, false, 0, 0⟩)).wf = true := by decide +kernel

/-- No row of the table has bits, so no word spells a command (log entry 4). -/
theorem test_noWord : decodeTableWord 0 0 = none ∧ decodeTableWord 64 0xFFFF = none := by decide

/-! ### Larger inputs -/

def keyRowIn : Row := { zRow with vals := [5] }
def keyFrame : Bytes := (leafOn.encode 0 (leafOn.rowHeader keyRowIn) keyRowIn [0]).1
def keyRow : Row × DecSt := match decodeFrameOf keyFrame DecSt.rest with | .row r d => (r, d) | _ => (zRow, DecSt.rest)

/-- A unit transfer whose bytes have all come (R296). -/
def carrying (client inst : Nat) (b : Bytes) : Xfer :=
  { zXfer with client, inst, ranges := [(0, b.length)], seen := List.range (ceilDiv b.length 256)
               got := (List.range (ceilDiv b.length 256)).map fun k => (k, (b.drop (256 * k)).take 256) }

def treS : State :=
  { leafOn with
    tre := [(0, { Tre.rest with run := some zTRun, slots := [(0, { TSlot.rest with src := 2, nVec := 1, featN := 1 })] })]
    pmp := { leafOn.pmp with xfers := [carrying 5 0 (leBytes 4 0)] } }
def treOut : State × TRun :=
  let z := (treS.tr 0).slot 0
  let y := treEvaluate (treS.tr 0) z [0] 16
  let r1 := { zTRun with featSat := 0, catRange := y.2.1.cat, missing := y.2.1.missing
                         cycles := ceilDiv z.featN 16 + (y.2.2.map (·.2)).foldl max 0 + 8, vectors := 1 }
  (treS.treEmit 0 r1 z none y.1).getD (treS, r1)

def freshEnt : EftEnt := { key := 0, stamp := 0, pinned := false, gen := 0, writes := 1, feats := List.replicate 56 0 }

def pollS : State := { (leafOn.setReg Rg.PMP_CH_EN 0 1) with
  xlt := { leafOn.xlt with tlb := [{ zTlbEnt with level := 1 }] }
  pmp := { leafOn.pmp with chans := [(0, { zChan with log2 := 4, tagMax := 8 })] } }

def drrS : State := { trayOn with ups := { trayOn.ups with ports := [(0, { UpPort.rest with queues := [(4, [zUpItem])], drr := [4] })] } }
def drrOut : UpPort × Nat :=
  match drrServe (fun q => drrS.qcfg q) (drrS.drrOk 0 0) 0 4 (drrS.up 0) 0 with
  | some (_, _, u, k) => (u, k)
  | none => (UpPort.rest, 0)

def keyed : State := { leafOn with lcm := { leafOn.lcm with otp := { leafOn.lcm.otp with keys := [(0, 0x4938b309efca0e50cab9f949ab849d045c5a676ac0163690ab822a7a4e19d90650792c29353c5bf4461f331495630270)] } } }
def fwImage : Bytes := leBytes 260 0x8a9b2b91bb592c5dbf77be6f4187d4b96f9aca7e2739577b8e58c1d0b691089a06bb238db77e7d8c75228994389868c248ea152804a5778cf3d24cdf6a6c3a45815242811ea0d76fd2c5b89a4031a736311d916d3c993261500d9b875aa368854fe7f6bbcca6f363ed48394579ed47bb140fdb71a561d099940bb05ceb3636ee0d9a394b03d83815240dd84c4421acd82b3003436ffd5058b43f4ed8e4f20075b95dedc336cd4ea4e8fb08460f24666c1f19e51b07efc1704c796011dbe1e97a0000000000000000000000000000000000000000000000040000000131524f43
def fwS : State :=
  { keyed with cor := { keyed.cor with load := some 0 }, pmp := { keyed.pmp with xfers := [carrying 6 0 fwImage] } }

def bunImage : Bytes := leBytes 288 0xc98d8d810129a90835389302a716d61529e04ff4981a313791f6e9fa622a324696049eb7e5034d82f77b8967aee2821448ea152804a5778cf3d24cdf6a6c3a45815242811ea0d76fd2c5b89a4031a736311d916d3c993261500d9b875aa368854fe7f6bbcca6f363ed48394579ed47bb140fdb71a561d099940bb05ceb3636ee0d9a394b03d83815240dd84c4421acd82b3003436ffd5058b43f4ed8e4f20075b95dedc336cd4ea4e8fb08460f24666c1f19e51b07efc1704c796011dbe1e97a0000000000000000000000010000000000000000000001200000000131524353
def bunS : State :=
  { keyed with scr := { keyed.scr with load := some (0, 0) }, pmp := { keyed.pmp with xfers := [carrying 6 1 bunImage] } }

def actX : MSlot := { MSlot.rest with nInstr := 1, valid := true, scrBytes := 4096 }
def actW : Nat := 0x21 * 2 ^ 120
def actS : State := { leafOn with mxe := [(0, { Mxe.rest with mode := 1, run := some zMRun, slots := [(0, actX)], imem := [(0, 0x21 <<< 120)] })] }
def actOut : State × MRun × Bool := actBlocks 0 actX actW (rowsOf actW) 0 actS zMRun
theorem actOut_eq : actOut = (actOut.1, actOut.2.1, true) := by
  have h : actOut.2.2 = true := by decide +kernel
  rw [← h]


/-! ### The manual's worked examples and tables -/

/-- The state after a command. -/
def after (i : Instr) (s : State) : State :=
  match exec i s with
  | .next t => t
  | _ => s

/-- R30: the CHK check value over "123456789". -/
theorem test_crc8 : crc8 [0x31, 0x32, 0x33, 0x34, 0x35, 0x36, 0x37, 0x38, 0x39] = 0xDF := by decide +kernel

/-- Table 00-5: TIME96 addition with both carries. -/
theorem test_time96 : time96 ((7 * 10 ^ 9 + 999999800) * 65536 + 0x8000 + 250 * 65536 + 0xC000) = 8 * 2 ^ 48 + 51 * 2 ^ 16 + 0x4000 := by
  decide +kernel

/-- Table 07-4, blocks A and B. -/
def exA : Blk :=
  { m := 200, e := -10, idxs := [5, 20], bad := false
    v := [3, -2, 0, 7, -8, 90, 4, -1, 0, 1, 2, -3, 5, 1, 0, -4, 6, -7, 0, 2, -75, -1, 3, 0, 1, 1, -2, 0, 4, -5, 0, 2] }
def exB : Blk :=
  { m := 150, e := -8, idxs := [9], bad := false
    v := [5, 6, 3, -4, 3, 2, -6, 7, 0, -100, -7, 6, 1, 0, 7, -3, 4, 5, 0, -2, 1, 7, -1, 6, -5, 0, 3, 2, -7, 1, 0, -4] }
/-- Table 07-6: the product into ACC80. -/
theorem test_blockProduct : blockProduct exA exB 13 = (-156562, false) := by decide +kernel

/-- Table 07-7, the 32 lanes. -/
def exAcc : List Int :=
  [-156562, 3100, -820, 0, 15000, -4400, 4368, 2048, -12290, 700, 0, 8191, -1536, 6000, -300, 11500,
   20300, -2100, 0, 512, -9000, 4095, 1200, -7680, 0, 18000, -16384, 64, 2600, -3000, 0, 9999]
/-- Table 07-8: AUTO with one outlier takes M = 182, E = −9, and no lane clips. -/
theorem test_requantise : requantise exAcc 13 1 1 1 0 0 = (182, -9, [0],
    [-54, 1, 0, 0, 5, -2, 2, 1, -4, 0, 0, 3, -1, 2, 0, 4, 7, -1, 0, 0, -3, 1, 0, -3, 0, 6, -6, 0, 1, -1, 0, 3], 0) := by decide +kernel
/-- 07.6: the block's 24 bytes, head first. -/
theorem test_encodeBlk : encodeBlk 1 182 (-9) [0] (requantise exAcc 13 1 1 1 0 0).2.2.2.1 =
    leBytes 8 0xCA0077B6 ++ [0x10, 0x00, 0xE5, 0x12, 0x0C, 0x30, 0x2F, 0x40, 0xF7, 0x00, 0x1D, 0xD0, 0x60, 0x0A, 0xF1, 0x30] := by
  decide +kernel

/-- Tables 06-2 to 06-4: three members, K0 = 6, and the payload of one word. -/
theorem test_codeVals :
    (codeVals 192 false [0x4000, 0xC000, 0x4000] [1004160, 2004150, 409] [(1000000, 0), (2000000, 0), (412, 0)]
      [1004160, 2004150, 409] 0 6 0 0).map (fun c => (streamBytes c.1 c.2.1, c.2.2)) =
    some ([0xFF, 0xFF, 0xFF, 0x34, 0x10, 0x00, 0x4C, 0x05], 8) := by decide +kernel

/-- Table 09-4: the ensemble of three trees. -/
def exTre : Tre :=
  { Tre.rest with
    nodes := [(0, 0x00000000000005DC0000000100000002), (1, 0x800000000000000A0000000000000000),
      (2, 0x20020000000000550000000300000004), (3, 0x80000000000000280000000000000000), (4, 0x800000000000005A0000000000000000),
      (5, 0x40010000000000000000000600000007), (6, 0x80000000FFFFFFEC0000000000000000), (7, 0x80000000000000050000000000000000),
      (8, 0x0002000000000055000000090000000A), (9, 0x80000000000000000000000000000000), (10, 0x80000000000000010000000000000000)]
    sets := [(0, 0x88)] }
def exSlot : TSlot := { TSlot.rest with trees := [(0, 0), (5, 0), (8, 1)], bias := [-30, 0], featN := 3 }
/-- Table 09-5: the three vectors, with the counts the text gives. -/
theorem test_trees : (treEvaluate exTre exSlot [1500, 7, 85] 16).1 = [-40, 0] ∧
    (treEvaluate exTre exSlot [1501, -(2 ^ 31), -(2 ^ 31)] 16).1 = [15, 1] ∧
    (treEvaluate exTre exSlot [1501, -(2 ^ 31), -(2 ^ 31)] 16).2.1.missing = 3 ∧
    (treEvaluate exTre exSlot [2000, 300, 86] 16).1 = [65, 1] ∧ (treEvaluate exTre exSlot [2000, 300, 86] 16).2.1.cat = 1 := by
  decide +kernel

/-- Tables 13-11 and 13-12: SUM, ARGMAX with ARG_ID and MIN, in both arrangements. -/
theorem test_mergeAdd :
    let c := [0x41, 0x46, 7, 0x43]
    let a := [0x7FFFFFFFFFFFFFFFFFFFFFFFFFFFFFF0, 900, 0x00105, 40]
    let b := [0x20, 950, 0x0020A, 35]
    let d := [0xFFFFFFFFFFFFFFFFFFFFFFFFFFFFFFF8, 950, 0x00131, 0xFFFFFFFFFFFFFFFFFFFFFFFFFFFFFFFD]
    let r := [0x80000000000000000000000000000008, 950, 0x00131, 0xFFFFFFFFFFFFFFFFFFFFFFFFFFFFFFFD]
    mergeAdd c (mergeAdd c a b) d = r ∧ mergeAdd c a (mergeAdd c d b) = r := by decide +kernel

/-- 16.6: the drift baseline of the example, free and frozen. -/
def exBase (freeze : Bool) : BaseCfg := { zBaseCfg with freeze, k := 3, warm := 16, zHi := 1024, consec := 2 }
def exSt : BaseSt := { n := 100, m := 2621440, d := 131072, run := 0 }
theorem test_drift :
    (baselineStep (exBase false) exSt 52).1 = { n := 101, m := 2719744, d := 212992, run := 1 } ∧
    (baselineStep (exBase false) (baselineStep (exBase false) exSt 52).1 53).1.run = 0 ∧
    (baselineStep (exBase true) (baselineStep (exBase true) exSt 52).1 53).2 = some 1664 := by decide +kernel

/-- Table 04-4: one servo update of a locked leaf. -/
def exServo : State :=
  { (leafOn.setFld Fd.TKP_STATE_STATE 0 3).setFld Fd.TKP_FREQ_FREQ 0 1234567 with
    tkp := { leafOn.tkp with
      t := (100 * 10 ^ 9 + 500010100) * 2 ^ 48
      interval := 125000
      cfg := leafOn.reg Rg.TKP_SERVO_CFG
      exch := some { exId := 1, t1 := 100500000000 * 65536, t2 := 100500000046 * 65536, t3 := 100500010000 * 65536
                     asym := 131072, syncUs := 125 } } }
theorem test_servo :
    (after (.timeDrespRx 1 (100500010034 * 65536) false) exServo).fld Fd.TKP_FREQ_FREQ = 684811 ∧
    (after (.timeDrespRx 1 (100500010034 * 65536) false) exServo).fld Fd.TKP_RATE_RATE = 2 ^ 30 - 8111283 := by decide +kernel

/-! ### One step of commands -/

/-- The answer of a row's access. -/
def rdataOf (s : State) : Option Word := s.reply.map (·.rdata)

/-- Table 19-8, t = 0.05: the claim of group 2 at PRIO 6 reads 0x8000_0600_0000_0002 and pushes 6. -/
def exClaim : State := (leafOn.setReg (Rg.IRC_PEND 2) 0 1).setReg (Rg.IRC_MASK 2) 0 0xF
theorem test_claim : rdataOf (after (.ircClaimRead qF 0) exClaim) = some 0x8000060000000002 ∧
    (after (.ircClaimRead qF 0) exClaim).stack 0 = [6] := by decide +kernel

/-- R38 and Table 02-6: an OKAY reply while an ACTION fault waits and the epoch is even has RSTAT 0x20, an ABSENT one 0x21. -/
theorem test_absent : ((after (.registerWrite ⟨.mgmt, 0x10000, false, false, 2, 0, 0⟩)
    { leafOn with chip := { leafOn.chip with full := false } }).reply.map fun r => (r.rdata, r.rstat &&& 0xF)) = some (0, 1) := by
  decide +kernel

/-- Table 03-4, R70: the last vote clears in PRIMED, the state becomes HOLD (4); the timer's end leads to UNPRIMING (5). -/
theorem test_hold : (after (.voteClear .sw) (leafOn.setReg Rg.PWR_VOTE 0 64)).pst = 4 ∧
    (after .holdExpire (leafOn.setFld Fd.PWR_STATE_STATE 0 4)).pst = 5 := by decide +kernel

/-- R54: the SET alias sets what is written as 1, the CLR alias clears it. -/
theorem test_alias : (after (.aliasSet qF .irc 0 0x50 0x21) (leafOn.setReg (Rg.IRC_MASK 1) 0 0x02)).reg (Rg.IRC_MASK 1) = 0x23 ∧
    (after (.aliasClr qF .irc 0 0x50 0x21) (leafOn.setReg (Rg.IRC_MASK 1) 0 0x23)).reg (Rg.IRC_MASK 1) = 0x02 := by decide +kernel

/-- R37: a read of a read-clear counter returns its counts and clears them. -/
theorem test_readClear : rdataOf (after (.rcCounterRead qF .smp 0 0x70) (leafOn.setReg Rg.SMP_CNT 0 0x5)) = some 5 ∧
    (after (.rcCounterRead qF .smp 0 0x70) (leafOn.setReg Rg.SMP_CNT 0 0x5)).reg Rg.SMP_CNT = 0 := by decide +kernel

/-- R46: at PRIV H a MIN_PRIV of F answers OKAY, keeps the value and sets BAD_VALUE; a frozen page answers DENIED (2). -/
theorem test_lock :
    ((after (.pgLockWrite ⟨.mgmt, 1, 0⟩ .irc 0 2) leafOn).reply.map fun r => r.rstat &&& 0xF) = some 0 ∧
    (after (.pgLockWrite ⟨.mgmt, 1, 0⟩ .irc 0 2) leafOn).reg (Rg.PG_LOCK .irc) = leafOn.reg (Rg.PG_LOCK .irc) ∧
    (after (.pgLockWrite ⟨.mgmt, 1, 0⟩ .irc 0 2) leafOn).fld (Fd.PG_ERR_BAD_VALUE .irc) = 1 ∧
    ((after (.pgLockWrite qF .irc 0 0) (leafOn.setFld (Fd.PG_LOCK_FREEZE .irc) 0 1)).reply.map fun r => r.rstat &&& 0xF) = some 2 := by
  decide +kernel

/-- R51: UNIT_RESET of a page discards its registers; the reset ends within 256 cycles. -/
theorem test_unitReset : (after (.unitReset qF .irc 0 0) (leafOn.setReg (Rg.IRC_MASK 1) 0 0x3F)).inReset .irc 0 = true ∧
    (after (.unitResetDone .irc 0) (after (.unitReset qF .irc 0 0) leafOn)).inReset .irc 0 = false := by decide +kernel

/-- R58: a window command on a busy window is ignored. -/
theorem test_busy : (after (.eftReadPos qF 0 false) (leafOn.setFld (Fd.TBL_STAT_BUSY .eft) 0 1)).fld (Fd.PG_ERR_WIN_BUSY .eft) = 1 := by
  decide +kernel

/-- The step takes the front command and leaves the rest (log entry 3); on an empty queue one AON cycle passes. -/
theorem test_queue : (match step { leafOn with pending := [.holdExpire, .slewEnd] } with | .next t => t.pending | _ => []) = [.slewEnd] ∧
    (match step leafOn with | .next t => t.aon | _ => 0) = leafOn.aon + 1 := by decide +kernel

/-- R313: SEQ of a received data flit advances the expected number; R316: a flit with a bad CRC does not. -/
theorem test_flit : ((after (.dataFlitRx 0 (leBytes 252 0x13000fff0000000 ++ leBytes 4 0x174535dd) 0 none 0) leafOn).lane 0).exp = 1 ∧
    ((after (.dataFlitRx 0 (leBytes 256 0) 0 none 0) leafOn).lane 0).exp = 0 := by decide +kernel

/-- R238, R240: a written entry stands in the lowest free slot of its first bucket. -/
theorem test_eftWrite : ((after (.eftWrite qF false) leafOn).eft.tbl.get? 0).isSome = true := by decide +kernel

/-- R207: an MXE that is not PRIMED starts no run. -/
theorem test_mxeWait : ((after (.mxeRunStart 0) { leafOn.setFld Fd.PWR_STATE_STATE 0 0 with
    mxe := [(0, { Mxe.rest with pend := [zMRun] })] }).mx 0).run = none := by decide +kernel

/-- R221, R261: a firmware image with a good signature passes, one with a changed byte fails with code 6. -/
theorem test_auth : fwS.authCheck (fwImage.set 256 1) 260 = 6 := by decide +kernel

/-! ### Witnesses: the hypotheses of each obligation, clause by clause, met together -/

theorem witness_AccessesTakeEffect :
    (∃ (a : Access) (s : State) (u : UnitKind) (i : Nat), pageUnit s.chip.role (a.addr.toNat / 4096) = some (u, i) ∧
      s.admits a u i (a.addr.toNat % 4096) ∧ (s.accessEff a u i).code = .okay) ∧
    (∃ (q : Req) (u : UnitKind) (i off : Nat) (d : Word) (s : State), s.admitsWrite q u i (off + 0x400) d ∧
      (s.accessEff (s.rowAccess q u i (off + 0x400) true d) u i).code = .okay) ∧
    (∃ (q : Req) (u : UnitKind) (i off : Nat) (d : Word) (s : State), s.admitsWrite q u i (off + 0x800) d ∧
      (s.accessEff (s.rowAccess q u i (off + 0x800) true d) u i).code = .okay) :=
  ⟨⟨⟨.mgmt, 0x4040, true, false, 2, 1, 0⟩, leafOn, .irc, 0, by decide +kernel, admits_by (by decide +kernel),
      by decide +kernel⟩,
    ⟨qF, .irc, 0, 0x40, 1, leafOn, admits_by (by decide +kernel), by decide +kernel⟩,
    ⟨qF, .irc, 0, 0x40, 1, leafOn, admits_by (by decide +kernel), by decide +kernel⟩⟩

theorem witness_HeaderCommands :
    (∃ (q : Req) (u : UnitKind) (i off : Nat) (s : State), s.admitsRead q u i off ∧ off % 8 = 0 ∧ off < 0x400 ∧
      accAt u off = some .rc ∧ (¬(u = .mxe ∧ 0x380 ≤ off)) ∧ (¬(u = .irc ∧ 0x1C0 ≤ off ∧ off < 0x1E0)) ∧ (¬(u = .tkp ∧
      off = 0x48))) ∧
    (∃ (q : Req) (i k : Nat) (s : State), k < 16 ∧ s.admitsRead q .mxe i (0x380 + 8 * k)) ∧
    (∃ (q : Req) (s : State), s.admitsRead q .dir 0 0x58) ∧
    (∃ (q : Req) (u : UnitKind) (i : Nat) (d : Word) (s : State), s.admitsWrite q u i 0x20 d) ∧
    (∃ (q : Req) (u : UnitKind) (i : Nat) (d : Word) (s : State), s.admitsWrite q u i 0x30 d ∧ u ≠ .dir ∧
      bits d.toNat 1 0 ≠ 3 ∧ bits d.toNat 1 0 ≤ q.priv.toNat) ∧
    (∃ (q : Req) (i : Nat) (d : Word) (s : State), s.admitsWrite q .dir i 0x30 d) ∧
    (∃ (q : Req) (d : Word) (s : State), s.admitsWrite q .dir 0 0x48 d ∧ s.isTray = true ∧ bits d.toNat 19 0 < 2 ^ 11 ∧
      bits d.toNat 34 20 = 0) ∧
    (∃ (q : Req) (d : Word) (s : State), s.admitsWrite q .dir 0 0x48 d ∧ s.isTray = false ∧ bits d.toNat 19 0 < 2 ^ 18 ∧
      s.laneActive 0 = false) ∧
    (∃ (q : Req) (d : Word) (s : State), s.admitsWrite q .flt 0 0x68 d) :=
  ⟨⟨qF, .smp, 0, 0x70, leafOn, admits_by (by decide +kernel), by decide +kernel, by decide +kernel, by decide +kernel,
      by decide +kernel, by decide +kernel, by decide +kernel⟩,
    ⟨qF, 0, 0, leafOn, by decide +kernel, admits_by (by decide +kernel)⟩,
    ⟨qF, leafOn, admits_by (by decide +kernel)⟩,
    ⟨qF, .irc, 0, 0, leafOn, admits_by (by decide +kernel)⟩,
    ⟨qF, .irc, 0, 0, leafOn, admits_by (by decide +kernel), by decide +kernel, by decide +kernel, by decide +kernel⟩,
    ⟨qF, 0, 0, leafOn, admits_by (by decide +kernel)⟩,
    ⟨qF, 0, trayOn, admits_by (by decide +kernel), by decide +kernel, by decide +kernel, by decide +kernel⟩,
    ⟨qF, 0, (leafOn.setFld Fd.SLK_STATE_LSTATE 0 3), admits_by (by decide +kernel), by decide +kernel, by decide +kernel,
      by decide +kernel⟩,
    ⟨qF, 0, leafOn, admits_by (by decide +kernel)⟩⟩

theorem witness_ResetAndWaiting :
    (∃ (q : Req) (u : UnitKind) (i : Nat) (d : Word) (s : State), s.admitsWrite q u i 0x10 (d ||| 2) ∧
      bits (d ||| 2).toNat 3 2 ≠ 3 ∧ (d ||| 2).getLsbD 1 = true) ∧
    (∃ (u : UnitKind) (i : Nat) (s : State), s.inReset u i = true ∧ s.mayEndReset u = true ∧ s.held u = false) ∧
    (∃ (s : State) (w : Access × Nat) (rest : List (Access × Nat)), s.waiting = w :: rest) ∧
    (∃ (c : Nat) (pc addr data : BitVec 32) (ecc : Bool) (off : Nat) (s : State), s.coreFree c = true ∧
      s.coreAt addr.toNat (.store 4) = some (.regs, off) ∧ (BitVec.ofNat 22 off).getLsbD 2 = true) ∧
    (∃ (c : Nat) (pc addr data : BitVec 32) (ecc : Bool) (off : Nat) (s : State), s.coreFree c = true ∧
      s.coreAt addr.toNat (.load 4) = some (.regs, off) ∧ (BitVec.ofNat 22 off).getLsbD 2 = true) ∧
    (∃ (c : Nat) (pc addr data : BitVec 32) (op : CoreOp) (ecc : Bool) (off : Nat) (s : State), s.coreFree c = true ∧
      s.coreAt addr.toNat op = some (.regs, off) ∧ (BitVec.ofNat 22 off).getLsbD 2 = false) ∧
    (∃ (c : Nat) (pc addr data : BitVec 32) (ecc : Bool) (off n : Nat) (s : State), s.coreFree c = true ∧
      s.coreAt addr.toNat (.store n) = some (.dmem, off)) ∧
    (∃ (c : Nat) (pc addr data : BitVec 32) (op : CoreOp) (m : CoreMem) (off : Nat) (s : State), s.coreFree c = true ∧
      s.coreAt addr.toNat op = some (m, off) ∧ (m = .imem ∨ m = .dmem ∨ m = .shared)) ∧
    (∃ (c : Nat) (pc addr data : BitVec 32) (op : CoreOp) (ecc : Bool) (off : Nat) (s : State), s.coreFree c = true ∧
      s.coreAt addr.toNat op = some (.local, off)) ∧
    (∃ (c : Nat) (pc addr data : BitVec 32) (op : CoreOp) (ecc : Bool) (s : State), s.coreFree c = true ∧
      s.coreAt addr.toNat op = none) :=
  ⟨⟨qF, .irc, 0, 0, leafOn, admits_by (by decide +kernel), by decide +kernel, by decide +kernel⟩,
    ⟨.irc, 0, { leafOn with resetting := [(pageKey .irc 0, 5)] }, by decide +kernel, by decide +kernel, by decide +kernel⟩,
    ⟨{ leafOn with waiting := [(zAccess, 5)] }, (zAccess, 5), [], by decide +kernel⟩,
    ⟨0, 0, 0x30000004, 0, false, 4, (leafOn.setReg Rg.COR_RUN 0 1), by decide +kernel, by decide +kernel, by decide +kernel⟩,
    ⟨0, 0, 0x30000004, 0, false, 4, (leafOn.setReg Rg.COR_RUN 0 1), by decide +kernel, by decide +kernel, by decide +kernel⟩,
    ⟨0, 0, 0x303FFFF8, 0, (.load 4), false, 0x3FFFF8, (leafOn.setReg Rg.COR_RUN 0 1), by decide +kernel, by decide +kernel,
      by decide +kernel⟩,
    ⟨0, 0, 0x1000FFFC, 0, false, 0xFFFC, 4, (leafOn.setReg Rg.COR_RUN 0 1), by decide +kernel, by decide +kernel⟩,
    ⟨0, 0, 0xFFFC, 0, .fetch, .imem, 0xFFFC, (leafOn.setReg Rg.COR_RUN 0 1), by decide +kernel, by decide +kernel,
      by decide +kernel⟩,
    ⟨0, 0, 0x200000FC, 0, (.load 4), false, 0xFC, (leafOn.setReg Rg.COR_RUN 0 1), by decide +kernel, by decide +kernel⟩,
    ⟨0, 0, 0x10000, 0, .fetch, false, (leafOn.setReg Rg.COR_RUN 0 1), by decide +kernel, by decide +kernel⟩⟩

theorem witness_TimeExchangeCommands :
    (∃ (w : Nat) (s : State), s.isTray = true ∧ s.enabled .tkp = true ∧ s.timeValid = true ∧ s.laneActive w = true) ∧
    (∃ (f : TimeSyncFlit) (sub : Nat) (s : State), s.isTray = false ∧ s.laneActive 0 = true) ∧
    (∃ (w exId sub : Nat) (s : State), s.isTray = true ∧ s.laneActive w = true) ∧
    (∃ (exId t4 : Nat) (replayed : Bool) (s : State), s.isTray = false ∧ s.laneActive 0 = true ∧
      (s.takeFlit 0 0).enabled .tkp = true) ∧
    (∃ (s : State), s.slewing = true) ∧
    (∃ (q : Req) (s : State), s.admitsRead q .tkp 0 0x48) :=
  ⟨⟨0, trayOn, by decide +kernel, by decide +kernel, by decide +kernel, by decide +kernel⟩,
    ⟨zTimeSyncFlit, 0, leafOn, by decide +kernel, by decide +kernel⟩,
    ⟨0, 0, 0, trayOn, by decide +kernel, by decide +kernel⟩,
    ⟨0, 0, false, leafOn, by decide +kernel, by decide +kernel, by decide +kernel⟩,
    ⟨(leafOn.setFld Fd.TKP_STATE_SLEWING 0 1), by decide +kernel⟩,
    ⟨qF, leafOn, admits_by (by decide +kernel)⟩⟩

theorem witness_MissedIntervals :
    (∃ (s : State) (c : Nat), s.tkp.lastC = some c ∧ s.enabled .tkp = true ∧ 0 < s.tkp.interval) ∧
    (∃ (s : State) (c : Nat), s.tkp.lastC = some c ∧ s.enabled .tkp = true ∧ 0 < s.tkp.interval ∧ (
    let m := nextMiss c s.tkp.missAt (s.tkp.interval * 65536)
    let t := s.reachTime m
    let u := { t.bump Fd.TKP_CNT_MISSED with tkp := { t.tkp with missedRun := t.tkp.missedRun + 1, missAt := m } }
    u.tkp.missedRun < u.servoFld Fd.TKP_SERVO_CFG_LOSS_CNT)) ∧
    (∃ (s : State) (c : Nat), s.tkp.lastC = some c ∧ s.enabled .tkp = true ∧ 0 < s.tkp.interval ∧ (
    let m := nextMiss c s.tkp.missAt (s.tkp.interval * 65536)
    let t := s.reachTime m
    let u := { t.bump Fd.TKP_CNT_MISSED with tkp := { t.tkp with missedRun := t.tkp.missedRun + 1, missAt := m } }
    u.servoFld Fd.TKP_SERVO_CFG_LOSS_CNT ≤ u.tkp.missedRun)) :=
  ⟨⟨{ leafOn with tkp := { leafOn.tkp with lastC := some 5, interval := 3 } }, 5, by decide +kernel, by decide +kernel,
      by decide +kernel⟩,
    ⟨{ leafOn with tkp := { leafOn.tkp with lastC := some 5, interval := 3, cfg := leafOn.reg Rg.TKP_SERVO_CFG } }, 5,
      by decide +kernel, by decide +kernel, by decide +kernel, by decide +kernel⟩,
    ⟨{ leafOn with tkp := { leafOn.tkp with lastC := some 5, interval := 3, missedRun := 63, cfg := leafOn.reg Rg.TKP_SERVO_CFG } },
      5, by decide +kernel, by decide +kernel, by decide +kernel, by decide +kernel⟩⟩

theorem witness_PtpCommands :
    (∃ (p : Nat) (m : PtpMsg) (sub : Nat) (s : State), s.ptpOn p = true ∧ s.ptpTakes m = true ∧ -7 ≤ m.logInt ∧ m.logInt ≤ 0) ∧
    (∃ (p : Nat) (m : PtpMsg) (s : State), s.ptpOn p = true ∧ s.ptpTakes m = true ∧ (s.ptpPort p).syncSeq = some m.seq ∧
      (s.ptpPort p).syncFrom = m.ident ∧ (s.ptpPort p).t1 = none) ∧
    (∃ (p sub : Nat) (s : State), s.ptpOn p = true ∧ s.p2p = true) ∧
    (∃ (p sub : Nat) (s : State), s.ptpOn p = true ∧ s.p2p = false) ∧
    (∃ (p : Nat) (m : PtpMsg) (s : State) (t1 t3 : Nat), s.ptpOn p = true ∧ s.ptpTakes m = true ∧ s.p2p = false ∧
      (s.ptpPort p).t1 = some t1 ∧ (s.ptpPort p).t3 = some t3 ∧ (s.ptpPort p).answers m = true) ∧
    (∃ (p : Nat) (m : PtpMsg) (sub : Nat) (s : State), s.ptpOn p = true ∧ s.ptpTakes m = true) ∧
    (∃ (p : Nat) (m : PtpMsg) (sub : Nat) (s : State) (t1 : Nat), s.ptpOn p = true ∧ s.ptpTakes m = true ∧ s.p2p = true ∧
      (s.ptpPort p).t3 = some t1 ∧ (s.ptpPort p).answers m = true ∧ m.twoStep = false) ∧
    (∃ (p : Nat) (m : PtpMsg) (sub : Nat) (s : State) (t1 : Nat), s.ptpOn p = true ∧ s.ptpTakes m = true ∧ s.p2p = true ∧
      (s.ptpPort p).t3 = some t1 ∧ (s.ptpPort p).answers m = true ∧ m.twoStep = true) ∧
    (∃ (p : Nat) (m : PtpMsg) (s : State) (t1 t2 : Nat), s.ptpOn p = true ∧ s.ptpTakes m = true ∧
      (s.ptpPort p).t3 = some t1 ∧ (s.ptpPort p).pdT2 = some t2 ∧ (s.ptpPort p).answers m = true) ∧
    (∃ (p : Nat) (m : PtpMsg) (s : State), s.ptpOn p = true ∧ s.ptpTakes m = true) ∧
    (∃ (p : Nat) (s : State), s.ptpOn p = true) :=
  ⟨⟨0, { zPtpMsg with version := 2 }, 0, (trayOn.setFld Fd.TKP_PTP_CFG_PORT_EN 0 3), by decide +kernel, by decide +kernel,
      by decide +kernel, by decide +kernel⟩,
    ⟨0, { zPtpMsg with version := 2 },
      { (trayOn.setFld Fd.TKP_PTP_CFG_PORT_EN 0 3) with tkp := { (trayOn.setFld Fd.TKP_PTP_CFG_PORT_EN 0 3).tkp with ptp := [(0, { zPtpPort with syncSeq := some 0 })] } },
      by decide +kernel, by decide +kernel, by decide +kernel, by decide +kernel, by decide +kernel⟩,
    ⟨0, 0, ((trayOn.setFld Fd.TKP_PTP_CFG_PORT_EN 0 3).setFld Fd.TKP_PTP_CFG_DELAY_MECH 0 1), by decide +kernel,
      by decide +kernel⟩,
    ⟨0, 0, (trayOn.setFld Fd.TKP_PTP_CFG_PORT_EN 0 3), by decide +kernel, by decide +kernel⟩,
    ⟨0, { zPtpMsg with version := 2 },
      { (trayOn.setFld Fd.TKP_PTP_CFG_PORT_EN 0 3) with tkp := { (trayOn.setFld Fd.TKP_PTP_CFG_PORT_EN 0 3).tkp with ptp := [(0, { zPtpPort with t1 := some 7, t3 := some 9 })] } },
      7, 9, by decide +kernel, by decide +kernel, by decide +kernel, by decide +kernel, by decide +kernel, by decide +kernel⟩,
    ⟨0, { zPtpMsg with version := 2 }, 0, (trayOn.setFld Fd.TKP_PTP_CFG_PORT_EN 0 3), by decide +kernel, by decide +kernel⟩,
    ⟨0, { zPtpMsg with version := 2 }, 0,
      { ((trayOn.setFld Fd.TKP_PTP_CFG_PORT_EN 0 3).setFld Fd.TKP_PTP_CFG_DELAY_MECH 0 1) with tkp := { ((trayOn.setFld Fd.TKP_PTP_CFG_PORT_EN 0 3).setFld Fd.TKP_PTP_CFG_DELAY_MECH 0 1).tkp with ptp := [(0, { zPtpPort with t3 := some 7 })] } },
      7, by decide +kernel, by decide +kernel, by decide +kernel, by decide +kernel, by decide +kernel, by decide +kernel⟩,
    ⟨0, { zPtpMsg with version := 2, twoStep := true }, 0,
      { ((trayOn.setFld Fd.TKP_PTP_CFG_PORT_EN 0 3).setFld Fd.TKP_PTP_CFG_DELAY_MECH 0 1) with tkp := { ((trayOn.setFld Fd.TKP_PTP_CFG_PORT_EN 0 3).setFld Fd.TKP_PTP_CFG_DELAY_MECH 0 1).tkp with ptp := [(0, { zPtpPort with t3 := some 7 })] } },
      7, by decide +kernel, by decide +kernel, by decide +kernel, by decide +kernel, by decide +kernel, by decide +kernel⟩,
    ⟨0, { zPtpMsg with version := 2 },
      { ((trayOn.setFld Fd.TKP_PTP_CFG_PORT_EN 0 3).setFld Fd.TKP_PTP_CFG_DELAY_MECH 0 1) with tkp := { ((trayOn.setFld Fd.TKP_PTP_CFG_PORT_EN 0 3).setFld Fd.TKP_PTP_CFG_DELAY_MECH 0 1).tkp with ptp := [(0, { zPtpPort with t3 := some 7, pdT2 := some 8 })] } },
      7, 8, by decide +kernel, by decide +kernel, by decide +kernel, by decide +kernel, by decide +kernel⟩,
    ⟨0, { zPtpMsg with version := 2 }, (trayOn.setFld Fd.TKP_PTP_CFG_PORT_EN 0 3), by decide +kernel, by decide +kernel⟩,
    ⟨0, (trayOn.setFld Fd.TKP_PTP_CFG_PORT_EN 0 3), by decide +kernel⟩⟩

theorem witness_TimeWindows :
    (∃ (q : Req) (p : Nat) (s t : State) (e : TxTs) (r : List TxTs), s.runs t q .tkp 0 0 3 p ∧ t.portFitted p = true ∧
      t.tkp.txts.getD p [] = e :: r) ∧
    (∃ (q : Req) (p : Nat) (s t : State), s.runs t q .tkp 0 1 1 p ∧ t.portFitted p = true) ∧
    (∃ (q : Req) (p : Nat) (s t : State), s.runs t q .tkp 0 1 2 p ∧ 2 ≤ q.priv.toNat ∧ t.portFitted p = true) :=
  ⟨⟨qF, 0, { leafOn with tkp := { leafOn.tkp with txts := [(0, [zTxTs])] } },
      ({ leafOn with tkp := { leafOn.tkp with txts := [(0, [zTxTs])] } } : State).took .tkp 0 0 3 0, zTxTs, [],
      runs_by (by decide +kernel), by decide +kernel, by decide +kernel⟩,
    ⟨qF, 0, leafOn, leafOn.took .tkp 0 1 1 0, runs_by (by decide +kernel), by decide +kernel⟩,
    ⟨qF, 0, leafOn, leafOn.took .tkp 0 1 2 0, runs_by (by decide +kernel), by decide +kernel, by decide +kernel⟩⟩

theorem witness_ManagementCommands :
    (∃ (es : List MgmtEntry) (s : State), s.isTray = false ∧ s.laneActive 0 = true) ∧
    (∃ (p : Nat) (f : List Byte) (s : State), s.isTray = true ∧ p < 2 ∧ (ethParse f).etype = s.fld Fd.UPS_CFG_ETHERTYPE ∧
      rdLE (ethParse f).body 1 1 = 32) ∧
    (∃ (s : State), s.isTray = true ∧ s.live .mgr = true) ∧
    (∃ (w : Nat) (rs : List MgmtReply) (s : State), s.isTray = true ∧ w < s.wellheads ∧ s.laneActive w = true) ∧
    (∃ (w : Nat) (sq : BitVec 16) (s : State) (o : MgmtOut), (s.lane w).out.find? (fun (x : MgmtOut) => x.seq == sq) = some o) ∧
    (∃ (q : Req) (w : Nat) (s t : State), s.runs t q .mgr 0 0 2 w ∧ w < t.wellheads ∧ (t.lane w).out.length < mgmtMax) ∧
    (∃ (q : Req) (w : Nat) (s t : State) (r : MgmtReply) (l : List MgmtReply), s.runs t q .mgr 0 0 3 w ∧ w < t.wellheads ∧
      t.mgr.relayed.getD w [] = r :: l) :=
  ⟨⟨[], leafOn, by decide +kernel, by decide +kernel⟩,
    ⟨0, (leBytes 12 0 ++ [136, 181] ++ [0, 32]), trayOn, by decide +kernel, by decide +kernel, by decide +kernel,
      by decide +kernel⟩,
    ⟨trayOn, by decide +kernel, by decide +kernel⟩,
    ⟨0, [], trayOn, by decide +kernel, by decide +kernel, by decide +kernel⟩,
    ⟨0, 0, { trayOn with lanes := [(0, { Lane.rest with out := [zMgmtOut] })] }, zMgmtOut, by decide +kernel⟩,
    ⟨qF, 0, trayOn, trayOn.took .mgr 0 0 2 0, runs_by (by decide +kernel), by decide +kernel, by decide +kernel⟩,
    ⟨qF, 0, { trayOn with mgr := { trayOn.mgr with relayed := [(0, [zMgmtReply])] } },
      ({ trayOn with mgr := { trayOn.mgr with relayed := [(0, [zMgmtReply])] } } : State).took .mgr 0 0 3 0, zMgmtReply, [],
      runs_by (by decide +kernel), by decide +kernel, by decide +kernel⟩⟩

theorem witness_PowerCommands :
    (∃ (s : State), s.pst = 4) ∧
    (∃ (s : State), s.pst = 5 ∧ s.tagsUsed = 0) ∧
    (∃ (s : State), s.pwr.vok = false ∧ s.pwr.vokWait.isSome = true) ∧
    (∃ (s : State), s.pwr.vok = false ∧ s.pwr.vokWait = none) ∧
    (∃ (s : State), s.pst = 2 ∧ s.pwr.vokWait = none) ∧
    (∃ (s : State) (e : Nat), s.pst = 2 ∧ s.pwr.vokWait = some e) ∧
    (∃ (q : Req) (d : Word) (s : State), s.admitsWrite q .pwr 0 0x60 d ∧ s.isTray = false ∧ d.getLsbD 0 = true) ∧
    (∃ (q : Req) (d : Word) (s : State), s.admitsWrite q .pwr 0 0x50 d ∧ s.isTray = false ∧ d.getLsbD 0 = true) ∧
    (∃ (q : Req) (d : Word) (s : State), s.admitsWrite q .pwr 0 0x50 d ∧ s.isTray = false ∧ d.getLsbD 0 = false) ∧
    (∃ (s : State), 2 ≤ s.pst ∧ s.pst ≤ 5 ∧ s.pwr.vokWait = none ∧ s.isTray = false) :=
  ⟨⟨(leafOn.setFld Fd.PWR_STATE_STATE 0 4), by decide +kernel⟩,
    ⟨(leafOn.setFld Fd.PWR_STATE_STATE 0 5), by decide +kernel, by decide +kernel⟩,
    ⟨{ leafOn with pwr := { leafOn.pwr with vok := false, vokWait := some 0 } }, by decide +kernel, by decide +kernel⟩,
    ⟨{ leafOn with pwr := { leafOn.pwr with vok := false } }, by decide +kernel, by decide +kernel⟩,
    ⟨(leafOn.setFld Fd.PWR_STATE_STATE 0 2), by decide +kernel, by decide +kernel⟩,
    ⟨{ (leafOn.setFld Fd.PWR_STATE_STATE 0 2) with pwr := { (leafOn.setFld Fd.PWR_STATE_STATE 0 2).pwr with vokWait := some 7 } },
      7, by decide +kernel, by decide +kernel⟩,
    ⟨qF, 1, leafOn, admits_by (by decide +kernel), by decide +kernel, by decide +kernel⟩,
    ⟨qF, 1, leafOn, admits_by (by decide +kernel), by decide +kernel, by decide +kernel⟩,
    ⟨qF, 0, leafOn, admits_by (by decide +kernel), by decide +kernel, by decide +kernel⟩,
    ⟨leafOn, by decide +kernel, by decide +kernel, by decide +kernel, by decide +kernel⟩⟩

theorem witness_PrimingEnds :
    ∃ (s : State), s.pst = 2 ∧ s.pwr.vokWait = none :=
  ⟨(leafOn.setFld Fd.PWR_STATE_STATE 0 2), by decide +kernel, by decide +kernel⟩

theorem witness_VoteCommands :
    (∃ (v : Voter) (s : State), s.voteRises v = true ∧ s.isTray = false ∧ (s.reg Rg.PWR_VOTE).getLsbD (voterBit v) = false) ∧
    (∃ (v : Voter) (s : State), s.voteHolds v = false ∧ s.isTray = false ∧ (s.reg Rg.PWR_VOTE).getLsbD (voterBit v) = true) :=
  ⟨⟨.sw, (leafOn.setFld Fd.PWR_SW_VOTE_VOTE 0 1), by decide +kernel, by decide +kernel, by decide +kernel⟩,
    ⟨.sw, (leafOn.setReg Rg.PWR_VOTE 0 64), by decide +kernel, by decide +kernel, by decide +kernel⟩⟩

theorem witness_WellheadCommands :
    (∃ (w : Nat) (img : List (Nat × Word)) (s : State), (s.well w).req = true ∧ (s.well w).discard = false ∧
      s.live .wel w = true ∧ s.aon - (s.well w).reqEdge ≤ s.fld Fd.WEL_CFG_STALE_TMO w) ∧
    (∃ (w : Nat) (s : State), (s.well w).closing = true) ∧
    (∃ (w : Nat) (s : State), (s.well w).req = true ∧ (s.well w).discard = false) ∧
    (∃ (w edges : Nat) (s : State), s.isTray = false ∧ w < 48 ∧ (
    let u := s.reach ((s.well w).winAt + 1024)
    let t := u.setWell w { u.well w with winAt := (s.well w).winAt + 1024 }
    t.fld Fd.WEL_CFG_MAX_PERIOD_PS w ≠ 0 ∧ edges * t.fld Fd.WEL_CFG_MAX_PERIOD_PS w < 10240000 ∧
      t.fld Fd.WEL_STAT_SKEW w = 0)) ∧
    (∃ (w edges : Nat) (s : State), s.isTray = false ∧ w < 48 ∧ (
    let u := s.reach ((s.well w).winAt + 1024)
    let t := u.setWell w { u.well w with winAt := (s.well w).winAt + 1024 }
    (t.fld Fd.WEL_CFG_MAX_PERIOD_PS w = 0 ∨ 10240000 ≤ edges * t.fld Fd.WEL_CFG_MAX_PERIOD_PS w))) ∧
    (∃ (q : Req) (w idx : Nat) (s t : State), s.runs t q .wel w 0 1 idx ∧ idx < 256) ∧
    (∃ (q : Req) (w idx : Nat) (s t : State), s.runs t q .wel w 0 4 idx ∧ idx < 256) ∧
    (∃ (q : Req) (w idx : Nat) (s t : State), s.runs t q .wel w 0 2 idx ∧ idx < 256 ∧ t.enabled .wel w = false ∧
      bits (t.data .wel w 0).toNat 6 0 ≤ 64) :=
  ⟨⟨0, [], { leafOn with wells := [(0, { Well.rest with req := true })] }, by decide +kernel, by decide +kernel,
      by decide +kernel, by decide +kernel⟩,
    ⟨0, { leafOn with wells := [(0, { Well.rest with closing := true })] }, by decide +kernel⟩,
    ⟨0, { leafOn with wells := [(0, { Well.rest with req := true })] }, by decide +kernel, by decide +kernel⟩,
    ⟨0, 1, (leafOn.setFld Fd.WEL_CFG_MAX_PERIOD_PS 0 1000), by decide +kernel, by decide +kernel, by decide +kernel⟩,
    ⟨0, 0, leafOn, by decide +kernel, by decide +kernel, by decide +kernel⟩,
    ⟨qF, 0, 255, leafOn, leafOn.took .wel 0 0 1 255, runs_by (by decide +kernel), by decide +kernel⟩,
    ⟨qF, 0, 255, leafOn, leafOn.took .wel 0 0 4 255, runs_by (by decide +kernel), by decide +kernel⟩,
    ⟨qF, 0, 255, (leafOn.setFld (Fd.PG_CTRL_ENABLE .wel) 0 0),
      ((leafOn.setFld (Fd.PG_CTRL_ENABLE .wel) 0 0)).took .wel 0 0 2 255, runs_by (by decide +kernel), by decide +kernel,
      by decide +kernel, by decide +kernel⟩⟩

theorem witness_SamplingCommands :
    (∃ (g : Nat) (s : State) (d : GDesc) (ms : List Nat) (ver next : Nat) (mixed : Bool),
      s.groupDef g = some (d, ms, ver, next, mixed) ∧ (s.grun g).on = true ∧ s.ticking = true ∧ d.spring = false ∧
      (s.grun g).gather = none) ∧
    (∃ (g : Nat) (s : State) (x : Gather), (s.grun g).gather = some x ∧ x.owed = [] ∧ x.row.flags.getLsbD 2 = false) ∧
    (∃ (g : Nat) (s : State) (d : GDesc) (ms : List Nat) (r : Nat × Nat × Bool), s.groupDef g = some (d, ms, r) ∧
      d.valid = true ∧ d.spring = true ∧ d.mode ≠ 2 ∧ (s.grun g).lead = false ∧ (s.grun g).counted = 0 ∧
      (s.grun g).on = true ∧ s.live .smp = true ∧ s.timeValid = true) ∧
    (∃ (s : State) (r : Row) (l : List Row), s.cmp.stage = r :: l ∧ s.live .cmp = true) ∧
    (∃ (q : Req) (g : Nat) (s : State) (x : GDesc), g < 64 ∧ s.admitsWrite q .smp 0 0x60 (BitVec.ofNat 64 (256 + g)) ∧
      s.smp.active.groups.get? g = some x ∧ x.valid = true ∧ x.spring = true ∧ (s.grun g).on = false) ∧
    (∃ (q : Req) (g : Nat) (s : State) (x : GDesc), g < 64 ∧ s.admitsWrite q .smp 0 0x60 (BitVec.ofNat 64 (512 + g)) ∧
      s.smp.active.groups.get? g = some x ∧ x.valid = true ∧ x.spring = true ∧ (s.grun g).on = true) ∧
    (∃ (shift : Nat) (s : State), s.isTray = false) :=
  ⟨⟨0,
      { leafOn with smp := { leafOn.smp with active := { zPlan with groups := [(0, { zGDesc with valid := true })] }, runs := [(0, { GRun.rest with on := true })] } },
      { zGDesc with valid := true }, [], 0, 0, false, by decide +kernel, by decide +kernel, by decide +kernel,
      by decide +kernel, by decide +kernel⟩,
    ⟨0, { leafOn with smp := { leafOn.smp with active := zPlan, runs := [(0, { GRun.rest with gather := some zGather })] } },
      zGather, by decide +kernel, by decide +kernel, by decide +kernel⟩,
    ⟨0,
      { leafOn with smp := { leafOn.smp with active := { zPlan with groups := [(0, { zGDesc with valid := true, spring := true })] }, runs := [(0, { GRun.rest with on := true })] } },
      { zGDesc with valid := true, spring := true }, [], (0, 0, false), by decide +kernel, by decide +kernel,
      by decide +kernel, by decide +kernel, by decide +kernel, by decide +kernel, by decide +kernel, by decide +kernel,
      by decide +kernel⟩,
    ⟨{ leafOn with cmp := { leafOn.cmp with stage := [zRow] } }, zRow, [], by decide +kernel, by decide +kernel⟩,
    ⟨qF, 0,
      { leafOn with smp := { leafOn.smp with active := { zPlan with groups := [(0, { zGDesc with valid := true, spring := true })] }, runs := [] } },
      { zGDesc with valid := true, spring := true }, by decide +kernel, admits_by (by decide +kernel), by decide +kernel,
      by decide +kernel, by decide +kernel, by decide +kernel⟩,
    ⟨qF, 0,
      { leafOn with smp := { leafOn.smp with active := { zPlan with groups := [(0, { zGDesc with valid := true, spring := true })] }, runs := [(0, { GRun.rest with on := true })] } },
      { zGDesc with valid := true, spring := true }, by decide +kernel, admits_by (by decide +kernel), by decide +kernel,
      by decide +kernel, by decide +kernel, by decide +kernel⟩,
    ⟨0, leafOn, by decide +kernel⟩⟩

theorem witness_PlanCommands :
    (∃ (q : Req) (d : Word) (s : State), s.admitsWrite q .smp 0 0x48 d ∧ d.getLsbD 0 = true) ∧
    (∃ (s : State) (e : Nat), s.smp.valDue = some e) ∧
    (∃ (q : Req) (d : Word) (s : State), s.admitsWrite q .smp 0 0x40 d) ∧
    (∃ (g e : Nat) (s : State) (d : GDesc), (s.grun g).rebuild = some e ∧ (s.eprForget g).smp.active.groups.get? g = some d ∧
      d.mode ≠ 2) ∧
    (∃ (q : Req) (idx : Nat) (s t : State), s.runs t q .smp 0 0 1 idx ∧ idx < 64) ∧
    (∃ (q : Req) (idx : Nat) (s t : State), s.runs t q .smp 0 1 1 idx ∧ idx < 13312) ∧
    (∃ (q : Req) (idx : Nat) (s t : State), s.runs t q .smp 0 0 4 idx ∧ idx < 64) ∧
    (∃ (q : Req) (idx : Nat) (s t : State), s.runs t q .smp 0 1 4 idx ∧ idx < 13312) ∧
    (∃ (q : Req) (idx : Nat) (s t : State), s.runs t q .smp 0 0 2 idx ∧ idx < 64 ∧ t.smp.pending = false) ∧
    (∃ (q : Req) (idx : Nat) (s t : State), s.runs t q .smp 0 1 2 idx ∧ idx < 13312 ∧ t.smp.pending = false) :=
  ⟨⟨qF, 1, leafOn, admits_by (by decide +kernel), by decide +kernel⟩,
    ⟨{ leafOn with smp := { leafOn.smp with valDue := some 5 } }, 5, by decide +kernel⟩,
    ⟨qF, 0, leafOn, admits_by (by decide +kernel)⟩,
    ⟨0, 5,
      { leafOn with smp := { leafOn.smp with active := { zPlan with groups := [(0, zGDesc)] }, runs := [(0, { GRun.rest with rebuild := some 5 })] } },
      zGDesc, by decide +kernel, by decide +kernel, by decide +kernel⟩,
    ⟨qF, 63, leafOn, leafOn.took .smp 0 0 1 63, runs_by (by decide +kernel), by decide +kernel⟩,
    ⟨qF, 13311, leafOn, leafOn.took .smp 0 1 1 13311, runs_by (by decide +kernel), by decide +kernel⟩,
    ⟨qF, 63, leafOn, leafOn.took .smp 0 0 4 63, runs_by (by decide +kernel), by decide +kernel⟩,
    ⟨qF, 13311, leafOn, leafOn.took .smp 0 1 4 13311, runs_by (by decide +kernel), by decide +kernel⟩,
    ⟨qF, 63, leafOn, leafOn.took .smp 0 0 2 63, runs_by (by decide +kernel), by decide +kernel, by decide +kernel⟩,
    ⟨qF, 13311, leafOn, leafOn.took .smp 0 1 2 13311, runs_by (by decide +kernel), by decide +kernel, by decide +kernel⟩⟩

theorem witness_EpochAndArrivals :
    (∃ (others : BitVec 8) (s : State), s.timeValid = true ∧ 0 < s.epochLen ∧ (
    let n := match s.epochIn with | some o => o + 1 | none => 0
    n ≤ epochMax)) ∧
    (∃ (q : Req) (s : State), s.admitsWrite q .tkp 0 0xA8 1) ∧
    (∃ (q : Req) (s : State), s.admitsWrite q .tkp 0 0xA8 2) ∧
    (∃ (port : Nat) (s : State) (x : TimedItem) (r : List TimedItem), s.tkp.timed.getD port [] = x :: r ∧ s.isTray = false) ∧
    (∃ (w : Nat) (b : List Byte) (corr : Nat) (sub : Nat) (s t : State) (f : Flit) (len : Nat), w < s.laneTotal ∧
      s.laneActive w = true ∧ s.flitIn w b corr none = (t, some (f, len)) ∧ flitSeqd f.ftype = true) ∧
    (∃ (w : Nat) (b : List Byte) (corr : Nat) (sub : Nat) (s t : State) (f : Flit) (len : Nat), w < s.laneTotal ∧
      s.laneActive w = true ∧ s.flitIn w b corr none = (t, some (f, len)) ∧ flitSeqd f.ftype = false) ∧
    (∃ (p : Nat) (f : List Byte) (s : State), s.isTray = true ∧ p < 2 ∧ s.fld Fd.UP_STAT_LINK p = 1 ∧
      s.enabled .up p = true ∧ s.inReset .up p = false ∧ s.stopped .up p = false ∧ 64 ≤ f.length + 4 ∧ (
    let t := (s.bytes (321 + 2 * p) (f.length + 4)).portRx (128 + p) (f.length + 4)
    (ethParse f).body.length ≤ t.fld Fd.UP_CFG_MTU p ∧ t.colTakes f = true ∧ (ethParse f).etype ≠ 0x88F7 ∧
    macControl (ethParse f) = false ∧
    ((t.up p).quars.any fun (x : BitVec 48 × Nat) => x.1 == BitVec.ofNat 48 (ethParse f).src) = false)) ∧
    (∃ (p : Nat) (f : List Byte) (s : State), s.isTray = true ∧ p < 2 ∧ s.fld Fd.UP_STAT_LINK p = 1 ∧
      s.enabled .up p = true ∧ s.inReset .up p = false ∧ s.stopped .up p = false ∧ 64 ≤ f.length + 4 ∧ (
    let t := (s.bytes (321 + 2 * p) (f.length + 4)).portRx (128 + p) (f.length + 4)
    (ethParse f).body.length ≤ t.fld Fd.UP_CFG_MTU p ∧ t.colTakes f = false ∧
    (ethParse f).etype = t.fld Fd.UPS_CFG_ETHERTYPE ∧ (ethParse f).etype ≠ 0x88F7 ∧
    macControl (ethParse f) = false ∧
    ((t.up p).quars.any fun (x : BitVec 48 × Nat) => x.1 == BitVec.ofNat 48 (ethParse f).src) = false)) :=
  ⟨⟨0, leafOn, by decide +kernel, by decide +kernel, by decide +kernel⟩,
    ⟨qF, leafOn, admits_by (by decide +kernel)⟩,
    ⟨qF, leafOn, admits_by (by decide +kernel)⟩,
    ⟨0, { leafOn with tkp := { leafOn.tkp with timed := [(0, [zTimedItem])] } }, zTimedItem, [], by decide +kernel,
      by decide +kernel⟩,
    ⟨0, (leBytes 252 0x13000fff0000000 ++ leBytes 4 0x174535dd), 0, 0, leafOn,
      (leafOn.flitIn 0 (leBytes 252 0x13000fff0000000 ++ leBytes 4 0x174535dd) 0 none).1,
      (flitOf (leBytes 252 0x13000fff0000000 ++ leBytes 4 0x174535dd)).1,
      (flitOf (leBytes 252 0x13000fff0000000 ++ leBytes 4 0x174535dd)).2, by decide +kernel, by decide +kernel,
      by decide +kernel, by decide +kernel⟩,
    ⟨0, (leBytes 252 0x43000fff0000000 ++ leBytes 4 0xc2705774), 0, 0, leafOn,
      (leafOn.flitIn 0 (leBytes 252 0x43000fff0000000 ++ leBytes 4 0xc2705774) 0 none).1,
      (flitOf (leBytes 252 0x43000fff0000000 ++ leBytes 4 0xc2705774)).1,
      (flitOf (leBytes 252 0x43000fff0000000 ++ leBytes 4 0xc2705774)).2, by decide +kernel, by decide +kernel,
      by decide +kernel, by decide +kernel⟩,
    ⟨0, (leBytes 12 0 ++ [136, 182] ++ leBytes 50 0), trayOn, by decide +kernel, by decide +kernel, by decide +kernel,
      by decide +kernel, by decide +kernel, by decide +kernel, by decide +kernel, by decide +kernel⟩,
    ⟨0, (leBytes 12 0 ++ [136, 181] ++ leBytes 50 0), trayOn, by decide +kernel, by decide +kernel, by decide +kernel,
      by decide +kernel, by decide +kernel, by decide +kernel, by decide +kernel, by decide +kernel⟩⟩

theorem witness_EpochRecordCommands :
    (∃ (first count : Nat) (s : State), s.isTray = false) ∧
    (∃ (first count : Nat) (s : State), s.isTray = false ∧ (
    let t := s.bump Fd.EPR_RESEND_CNT_REQUESTS
    t.epr.resends.length < 4)) ∧
    (∃ (first count : Nat) (s : State), s.isTray = false ∧ (
    let t := s.bump Fd.EPR_RESEND_CNT_REQUESTS
    4 ≤ t.epr.resends.length)) ∧
    (∃ (q : Req) (d : Word) (s : State), s.admitsWrite q .epr 0 0x40 d ∧ 1 ≤ bits d.toNat 18 8 ∧ bits d.toNat 18 8 ≤ 1024) ∧
    (∃ (q : Req) (t idx : Nat) (s u : State), s.runs u q .epr 0 t 1 idx ∧ t < 2 ∧ idx < 1024) ∧
    (∃ (q : Req) (t idx : Nat) (s u : State), s.runs u q .epr 0 t 4 idx ∧ t < 2 ∧ idx < 1024) ∧
    (∃ (q : Req) (idx : Nat) (s t : State), s.runs t q .epr 0 0 2 idx ∧ idx < 1024 ∧ t.epr.pending = false) ∧
    (∃ (q : Req) (idx : Nat) (s t : State), s.runs t q .epr 0 1 2 idx ∧ idx < 1024 ∧ t.epr.pending = false) :=
  ⟨⟨0, 0, leafOn, by decide +kernel⟩,
    ⟨0, 0, { leafOn with epr := { leafOn.epr with resends := [(0, 1), (1, 1), (2, 1)] } }, by decide +kernel,
      by decide +kernel⟩,
    ⟨0, 0, { leafOn with epr := { leafOn.epr with resends := [(0, 1), (1, 1), (2, 1), (3, 1)] } }, by decide +kernel,
      by decide +kernel⟩,
    ⟨qF, 0x100, leafOn, admits_by (by decide +kernel), by decide +kernel, by decide +kernel⟩,
    ⟨qF, 1, 1023, leafOn, leafOn.took .epr 0 1 1 1023, runs_by (by decide +kernel), by decide +kernel, by decide +kernel⟩,
    ⟨qF, 1, 1023, leafOn, leafOn.took .epr 0 1 4 1023, runs_by (by decide +kernel), by decide +kernel, by decide +kernel⟩,
    ⟨qF, 1023, leafOn, leafOn.took .epr 0 0 2 1023, runs_by (by decide +kernel), by decide +kernel, by decide +kernel⟩,
    ⟨qF, 1023, leafOn, leafOn.took .epr 0 1 2 1023, runs_by (by decide +kernel), by decide +kernel, by decide +kernel⟩⟩

theorem witness_CompressionCommands :
    (∃ (s t' : State) (row : Row), s.isTray = false ∧ s.live .cmp = true ∧ s.primed = true ∧ s.cmp.held = none ∧
      s.nextRow = some (row, t') ∧ t'.cmp.gapOwed.contains row.group = false ∧ (
    let m := rowMap t'.cmp.active row.first row.count
    let h : EncRow := { row, map := m.1, lost := none }
    let t := { t' with cmp := { t'.cmp with gapOwed := t'.cmp.gapOwed.filter (· != row.group), held := some h } }.bump
      Fd.CMP_ENC_CNT_PRED_FIXUP 0 m.2
    let f := t.encode row.group (t.rowHeader row) row m.1
    t.outBytes + f.1.length ≤ t.fld Fd.CMP_OUT_CFG_BUFS * 4096)) ∧
    (∃ (s : State) (h : EncRow), s.isTray = false ∧ s.primed = true ∧ s.cmp.held = some h ∧ h.lost = none ∧ (
    let f := s.encode h.row.group (s.rowHeader h.row) h.row h.map
    s.fld Fd.CMP_OUT_CFG_BUFS * 4096 < s.outBytes + f.1.length)) ∧
    (∃ (q : Req) (d : Word) (s : State), s.admitsWrite q .cmp 0 0x78 d) ∧
    (∃ (all : Bool) (g : Nat) (s : State), s.isTray = false) ∧
    (∃ (q : Req) (d : Word) (s : State), s.admitsWrite q .cmp 0 0x48 d ∧ s.isTray = false ∧ s.enabled .cmp = false) ∧
    (∃ (w g k : Nat) (d : DecSt) (s : State), (s.cmp.dec.find? fun x => x.2.keyOut && x.1 % 8192 == w * 64 + g) = some (k, d)) ∧
    (∃ (d w : Nat) (f : Bytes) (q : List (Nat × Bytes)) (row : Row) (st : DecSt) (s : State),
      s.cmp.inQ.getD d [] = (w, f) :: q ∧ s.live .cmp = true ∧ w < 256 ∧ s.decHeld d = false ∧ s.routeHeld 2 = false ∧ (
    let t := { s with cmp := { s.cmp with inQ := s.cmp.inQ.set d q } }
    let old := t.cmp.dec.getD (decKey f w) DecSt.rest
    decodeUnder .none f old = .row row st ∧ st.valid = true)) ∧
    (∃ (q : Req) (idx : Nat) (s t : State), s.runs t q .cmp 0 0 1 idx ∧ t.isTray = false ∧ idx < 13312) ∧
    (∃ (q : Req) (idx : Nat) (s t : State), s.runs t q .cmp 0 0 4 idx ∧ t.isTray = false ∧ idx < 13312) ∧
    (∃ (q : Req) (idx : Nat) (s t : State), s.runs t q .cmp 0 0 2 idx ∧ t.isTray = false ∧ idx < 13312) :=
  ⟨⟨{ leafOn with cmp := { leafOn.cmp with springB := [zRow] } },
      { ({ leafOn with cmp := { leafOn.cmp with springB := [zRow] } } : State) with cmp := { ({ leafOn with cmp := { leafOn.cmp with springB := [zRow] } } : State).cmp with springB := [] } },
      zRow, by decide +kernel, by decide +kernel, by decide +kernel, by decide +kernel, by decide +kernel, by decide +kernel,
      by decide +kernel⟩,
    ⟨({ leafOn with cmp := { leafOn.cmp with held := some zEncRow } }.setFld Fd.CMP_OUT_CFG_BUFS 0 0), zEncRow,
      by decide +kernel, by decide +kernel, by decide +kernel, by decide +kernel, by decide +kernel⟩,
    ⟨qF, 0, leafOn, admits_by (by decide +kernel)⟩,
    ⟨false, 0, leafOn, by decide +kernel⟩,
    ⟨qF, 0, (leafOn.setFld (Fd.PG_CTRL_ENABLE .cmp) 0 0), admits_by (by decide +kernel), by decide +kernel,
      by decide +kernel⟩,
    ⟨0, 0, 0, { DecSt.rest with keyOut := true },
      { trayOn with cmp := { trayOn.cmp with dec := [(0, { DecSt.rest with keyOut := true })] } }, by decide +kernel⟩,
    ⟨0, 0, keyFrame, [], keyRow.1, keyRow.2, { trayOn with cmp := { trayOn.cmp with inQ := [(0, [(0, keyFrame)])] } },
      by decide +kernel, by decide +kernel, by decide +kernel, by decide +kernel, by decide +kernel, by decide +kernel⟩,
    ⟨qF, 13311, leafOn, leafOn.took .cmp 0 0 1 13311, runs_by (by decide +kernel), by decide +kernel, by decide +kernel⟩,
    ⟨qF, 13311, leafOn, leafOn.took .cmp 0 0 4 13311, runs_by (by decide +kernel), by decide +kernel, by decide +kernel⟩,
    ⟨qF, 13311, leafOn, leafOn.took .cmp 0 0 2 13311, runs_by (by decide +kernel), by decide +kernel, by decide +kernel⟩⟩

theorem witness_MatrixRunCommands :
    (∃ (q : Req) (e : Nat) (d : Word) (s : State), s.admitsWrite q .mxe e 0x50 d) ∧
    (∃ (e : Nat) (s : State) (p : MRun), (s.mx e).mode = 0 ∧ s.primed = true ∧ s.inReset .mxe e = false ∧
      bestRun (s.mxePrio e) (s.mx e).pend = some p ∧ bestRun (s.mxePrio e) (s.mx e).saved = none ∧ s.live .mxe e = true) ∧
    (∃ (e : Nat) (s : State) (p r : MRun), (s.mx e).mode = 0 ∧ s.primed = true ∧ s.inReset .mxe e = false ∧
      bestRun (s.mxePrio e) (s.mx e).pend = some p ∧ bestRun (s.mxePrio e) (s.mx e).saved = some r ∧ s.live .mxe e = true ∧
      s.mxePrio e p.slot ≤ s.mxePrio e r.slot) ∧
    (∃ (e : Nat) (s : State) (r : MRun), (s.mx e).run = some r ∧ (s.mx e).mode = 3 ∧ (¬(r.replay = true ∧
      r.stop + 1 = r.index))) ∧
    (∃ (e : Nat) (s : State) (r : MRun), (s.mx e).run = some r ∧ (s.mx e).mode = 4) ∧
    (∃ (q : Req) (e : Nat) (d : Word) (s : State) (r : MRun), s.admitsWrite q .mxe e 0x58 d ∧ bits d.toNat 3 0 < 8 ∧
      (s.mx e).run = some r ∧ r.slot = bits d.toNat 3 0 ∧ (s.mx e).mode ≠ 3) ∧
    (∃ (q : Req) (e : Nat) (d : Word) (s : State) (r : MRun), s.admitsWrite q .mxe e 0x58 d ∧ bits d.toNat 3 0 < 8 ∧
      ((s.mx e).run.any (·.slot == bits d.toNat 3 0)) = false ∧
      ((s.mx e).pend ++ (s.mx e).saved).find? (·.slot == bits d.toNat 3 0) = some r) :=
  ⟨⟨qF, 0, 0, leafOn, admits_by (by decide +kernel)⟩,
    ⟨0, { leafOn with mxe := [(0, { Mxe.rest with pend := [zMRun] })] }, zMRun, by decide +kernel, by decide +kernel,
      by decide +kernel, by decide +kernel, by decide +kernel, by decide +kernel⟩,
    ⟨0, { leafOn with mxe := [(0, { Mxe.rest with pend := [zMRun], saved := [zMRun] })] }, zMRun, zMRun, by decide +kernel,
      by decide +kernel, by decide +kernel, by decide +kernel, by decide +kernel, by decide +kernel, by decide +kernel⟩,
    ⟨0, { leafOn with mxe := [(0, { Mxe.rest with run := some zMRun, mode := 3 })] }, zMRun, by decide +kernel,
      by decide +kernel, by decide +kernel⟩,
    ⟨0, { leafOn with mxe := [(0, { Mxe.rest with run := some zMRun, mode := 4 })] }, zMRun, by decide +kernel,
      by decide +kernel⟩,
    ⟨qF, 0, 0, { leafOn with mxe := [(0, { Mxe.rest with run := some zMRun })] }, zMRun, admits_by (by decide +kernel),
      by decide +kernel, by decide +kernel, by decide +kernel, by decide +kernel⟩,
    ⟨qF, 0, 0, { leafOn with mxe := [(0, { Mxe.rest with pend := [zMRun] })] }, zMRun, admits_by (by decide +kernel),
      by decide +kernel, by decide +kernel, by decide +kernel⟩⟩

theorem witness_MatrixWindows :
    (∃ (q : Req) (e k : Nat) (s t : State), s.runs t q .mxe e 0 1 k ∧ k < 8) ∧
    (∃ (q : Req) (e k : Nat) (s t : State), s.runs t q .mxe e 0 2 k ∧ k < 8 ∧ (t.mx e).hasRun k = false) ∧
    (∃ (q : Req) (e k : Nat) (s t : State), s.runs t q .mxe e 0 5 k ∧ k < 8 ∧ (t.mx e).hasRun k = false) ∧
    (∃ (e k : Nat) (img : List Byte) (s : State), (s.mx e).loading = some k ∧ s.carried 2 e = some img ∧ (
    let t := (s.setMx e { s.mx e with loading := none }).endXfer 2 e
    t.mxeCheck e k img = none)) ∧
    (∃ (q : Req) (e k : Nat) (s t : State), s.runs t q .mxe e 0 6 k ∧ k < 8 ∧ (t.mx e).hasRun k = false) ∧
    (∃ (q : Req) (e idx : Nat) (s t : State), s.runs t q .mxew e 0 1 idx ∧ t.progBusy e = false ∧ idx < t.progSize 0) ∧
    (∃ (q : Req) (e idx : Nat) (s t : State), s.runs t q .mxew e 1 1 idx ∧ t.progBusy e = false ∧ idx < t.progSize 1) ∧
    (∃ (q : Req) (e idx : Nat) (s t : State), s.runs t q .mxew e 2 1 idx ∧ t.progBusy e = false ∧ idx < t.progSize 2) ∧
    (∃ (q : Req) (e idx : Nat) (s t : State), s.runs t q .mxew e 0 2 idx ∧ t.progBusy e = false ∧ idx < t.progSize 0) ∧
    (∃ (q : Req) (e idx : Nat) (s t : State), s.runs t q .mxew e 1 2 idx ∧ t.progBusy e = false ∧ idx < t.progSize 1) ∧
    (∃ (q : Req) (e idx : Nat) (s t : State), s.runs t q .mxew e 2 2 idx ∧ t.progBusy e = false ∧ idx < t.progSize 2) ∧
    (∃ (q : Req) (e k : Nat) (s : State), k < 16 ∧ s.admitsRead q .mxe e (0x380 + 8 * k)) :=
  ⟨⟨qF, 0, 7, leafOn, leafOn.took .mxe 0 0 1 7, runs_by (by decide +kernel), by decide +kernel⟩,
    ⟨qF, 0, 7, leafOn, leafOn.took .mxe 0 0 2 7, runs_by (by decide +kernel), by decide +kernel, by decide +kernel⟩,
    ⟨qF, 0, 7, leafOn, leafOn.took .mxe 0 0 5 7, runs_by (by decide +kernel), by decide +kernel, by decide +kernel⟩,
    ⟨0, 0,
      leBytes 80 0x1000000000000000000000000000000000000000000000000000000000000000000000000000000000000000000000072cf97a00000000100000000000000000000000000000001000000013149574b,
      { { leafOn with mxe := [(0, { Mxe.rest with loading := some 0 })] } with pmp := { { leafOn with mxe := [(0, { Mxe.rest with loading := some 0 })] }.pmp with xfers := [carrying 2 0 (leBytes 80 0x1000000000000000000000000000000000000000000000000000000000000000000000000000000000000000000000072cf97a00000000100000000000000000000000000000001000000013149574b)] } },
      by decide +kernel, by decide +kernel, by decide +kernel⟩,
    ⟨qF, 0, 7, leafOn, leafOn.took .mxe 0 0 6 7, runs_by (by decide +kernel), by decide +kernel, by decide +kernel⟩,
    ⟨qF, 0, (leafOn.progSize 0 - 1), leafOn, leafOn.took .mxew 0 0 1 (leafOn.progSize 0 - 1), runs_by (by decide +kernel),
      by decide +kernel, by decide +kernel⟩,
    ⟨qF, 0, (leafOn.progSize 1 - 1), leafOn, leafOn.took .mxew 0 1 1 (leafOn.progSize 1 - 1), runs_by (by decide +kernel),
      by decide +kernel, by decide +kernel⟩,
    ⟨qF, 0, 15, leafOn, leafOn.took .mxew 0 2 1 15, runs_by (by decide +kernel), by decide +kernel, by decide +kernel⟩,
    ⟨qF, 0, (leafOn.progSize 0 - 1), leafOn, leafOn.took .mxew 0 0 2 (leafOn.progSize 0 - 1), runs_by (by decide +kernel),
      by decide +kernel, by decide +kernel⟩,
    ⟨qF, 0, (leafOn.progSize 1 - 1), leafOn, leafOn.took .mxew 0 1 2 (leafOn.progSize 1 - 1), runs_by (by decide +kernel),
      by decide +kernel, by decide +kernel⟩,
    ⟨qF, 0, 15, leafOn, leafOn.took .mxew 0 2 2 15, runs_by (by decide +kernel), by decide +kernel, by decide +kernel⟩,
    ⟨qF, 0, 15, leafOn, by decide +kernel, admits_by (by decide +kernel)⟩⟩

theorem witness_MatrixInstructions :
    (∃ (e : Nat) (s : State) (r : MRun) (x : MSlot) (w : Nat), s.mxeAt e 0x00 = some (r, x, w)) ∧
    (∃ (e : Nat) (s : State) (r : MRun) (x : MSlot) (w : Nat), s.mxeAt e 0x01 = some (r, x, w)) ∧
    (∃ (e : Nat) (s : State) (r : MRun) (x : MSlot) (w : Nat), s.mxeAt e 0x10 = some (r, x, w)) ∧
    (∃ (e : Nat) (s : State) (r : MRun) (x : MSlot) (w : Nat), s.mxeAt e 0x11 = some (r, x, w)) ∧
    (∃ (e : Nat) (s : State) (r : MRun) (x : MSlot) (w : Nat), s.mxeAt e 0x12 = some (r, x, w) ∧
      (s.mx e).fOk (accBase w) (rowsOf w * nbOf w) (fOf w) = true) ∧
    (∃ (e : Nat) (miss : Option (Nat × Nat)) (s t : State) (r r' : MRun) (x : MSlot) (w sent : Nat),
      s.mxeAt e 0x20 = some (r, x, w) ∧ (srcSel w ≠ 0 ∨ (s.mx e).fOk (accBase w) (nbOf w) (fOf w) = true) ∧
      rqBlocks e x w miss (nbOf w) 0 0 s r = (t, r', sent, true)) ∧
    (∃ (e : Nat) (s t : State) (r r' : MRun) (x : MSlot) (w : Nat), s.mxeAt e 0x21 = some (r, x, w) ∧
      actBlocks e x w (rowsOf w) 0 s r = (t, r', true)) ∧
    (∃ (e : Nat) (s : State) (r : MRun) (x : MSlot) (w : Nat), s.mxeAt e 0x30 = some (r, x, w)) ∧
    (∃ (e cyc : Nat) (s : State) (r : MRun) (x : MSlot) (w : Nat), s.mxeAt e 0x40 = some (r, x, w) ∧ (s.mx e).mode ≠ 2) ∧
    (∃ (e cyc : Nat) (b : Bytes) (s : State) (r : MRun) (x : MSlot) (w : Nat), s.mxeAt e 0x40 = some (r, x, w) ∧
      (s.mx e).mode = 2 ∧ (s.mxeStall e r cyc).1.carried 3 e = some b) ∧
    (∃ (e cyc : Nat) (s : State) (r : MRun) (x : MSlot) (w : Nat), s.mxeAt e 0x41 = some (r, x, w) ∧ (s.mx e).mode ≠ 2) ∧
    (∃ (e cyc : Nat) (b : Bytes) (s : State) (r : MRun) (x : MSlot) (w : Nat), s.mxeAt e 0x41 = some (r, x, w) ∧
      (s.mx e).mode = 2 ∧ (s.mxeStall e r cyc).1.carried 3 e = some b) ∧
    (∃ (e cyc : Nat) (s : State) (r : MRun) (x : MSlot) (w : Nat) (h : Bytes) (fs : List Int),
      s.mxeAt e 0x42 = some (r, x, w) ∧ (
    let t := (s.mxeStall e r cyc).1
    let r := (s.mxeStall e r cyc).2
    bits w 5 0 ≤ r.epoch ∧ t.recordOf (r.epoch - bits w 5 0) = .inr (h, fs))) ∧
    (∃ (e cyc : Nat) (lost : List Nat) (s : State) (r : MRun) (x : MSlot) (w : Nat), s.mxeAt e 0x43 = some (r, x, w)) ∧
    (∃ (e cyc : Nat) (s : State) (r : MRun) (x : MSlot) (w : Nat), s.mxeAt e 0x44 = some (r, x, w) ∧ r.replay = false ∧ (
    let t := (s.mxeStall e r cyc).1
    let r := (s.mxeStall e r cyc).2
    (t.mx e).vq.length < 32)) :=
  ⟨⟨0,
      { leafOn with mxe := [(0, { Mxe.rest with mode := 1, run := some zMRun, slots := [(0, { MSlot.rest with nInstr := 1, valid := true, scrBytes := 4096 })], imem := [(0, 0x0)] })] },
      zMRun, { MSlot.rest with nInstr := 1, valid := true, scrBytes := 4096 }, 0x0, by decide +kernel⟩,
    ⟨0,
      { leafOn with mxe := [(0, { Mxe.rest with mode := 1, run := some zMRun, slots := [(0, { MSlot.rest with nInstr := 1, valid := true, scrBytes := 4096 })], imem := [(0, 0x1000000000000000000000000000000)] })] },
      zMRun, { MSlot.rest with nInstr := 1, valid := true, scrBytes := 4096 }, 0x1000000000000000000000000000000,
      by decide +kernel⟩,
    ⟨0,
      { leafOn with mxe := [(0, { Mxe.rest with mode := 1, run := some zMRun, slots := [(0, { MSlot.rest with nInstr := 1, valid := true, scrBytes := 4096 })], imem := [(0, 0x10000000000000000000000000000000)] })] },
      zMRun, { MSlot.rest with nInstr := 1, valid := true, scrBytes := 4096 }, 0x10000000000000000000000000000000,
      by decide +kernel⟩,
    ⟨0,
      { leafOn with mxe := [(0, { Mxe.rest with mode := 1, run := some zMRun, slots := [(0, { MSlot.rest with nInstr := 1, valid := true, scrBytes := 4096 })], imem := [(0, 0x11000000000000000000000000000000)] })] },
      zMRun, { MSlot.rest with nInstr := 1, valid := true, scrBytes := 4096 }, 0x11000000000000000000000000000000,
      by decide +kernel⟩,
    ⟨0,
      { leafOn with mxe := [(0, { Mxe.rest with mode := 1, run := some zMRun, slots := [(0, { MSlot.rest with nInstr := 1, valid := true, scrBytes := 4096 })], imem := [(0, 0x12000000000000000000000000000000)], fst := [(0, 0)] })] },
      zMRun, { MSlot.rest with nInstr := 1, valid := true, scrBytes := 4096 }, 0x12000000000000000000000000000000,
      by decide +kernel, by decide +kernel⟩,
    ⟨0, none,
      { leafOn with mxe := [(0, { Mxe.rest with mode := 1, run := some zMRun, slots := [(0, { MSlot.rest with nInstr := 1, valid := true, scrBytes := 4096 })], imem := [(0, 0x20000000000000000000000000000000)], fst := [(0, 0)] })] },
      (rqBlocks 0 ({ MSlot.rest with nInstr := 1, valid := true, scrBytes := 4096 }) 0x20000000000000000000000000000000 none (nbOf 0x20000000000000000000000000000000) 0 0 ({ leafOn with mxe := [(0, { Mxe.rest with mode := 1, run := some zMRun, slots := [(0, { MSlot.rest with nInstr := 1, valid := true, scrBytes := 4096 })], imem := [(0, 0x20000000000000000000000000000000)], fst := [(0, 0)] })] } : State) zMRun).1,
      zMRun,
      (rqBlocks 0 ({ MSlot.rest with nInstr := 1, valid := true, scrBytes := 4096 }) 0x20000000000000000000000000000000 none (nbOf 0x20000000000000000000000000000000) 0 0 ({ leafOn with mxe := [(0, { Mxe.rest with mode := 1, run := some zMRun, slots := [(0, { MSlot.rest with nInstr := 1, valid := true, scrBytes := 4096 })], imem := [(0, 0x20000000000000000000000000000000)], fst := [(0, 0)] })] } : State) zMRun).2.1,
      { MSlot.rest with nInstr := 1, valid := true, scrBytes := 4096 }, 0x20000000000000000000000000000000,
      (rqBlocks 0 ({ MSlot.rest with nInstr := 1, valid := true, scrBytes := 4096 }) 0x20000000000000000000000000000000 none (nbOf 0x20000000000000000000000000000000) 0 0 ({ leafOn with mxe := [(0, { Mxe.rest with mode := 1, run := some zMRun, slots := [(0, { MSlot.rest with nInstr := 1, valid := true, scrBytes := 4096 })], imem := [(0, 0x20000000000000000000000000000000)], fst := [(0, 0)] })] } : State) zMRun).2.2.1,
      by decide +kernel, by decide +kernel, by decide +kernel⟩,
    ⟨0, actS, actOut.1, zMRun, actOut.2.1, actX, actW, by decide +kernel, (actOut_eq)⟩,
    ⟨0,
      { leafOn with mxe := [(0, { Mxe.rest with mode := 1, run := some zMRun, slots := [(0, { MSlot.rest with nInstr := 1, valid := true, scrBytes := 4096 })], imem := [(0, 0x30000000000000000000000000000000)] })] },
      zMRun, { MSlot.rest with nInstr := 1, valid := true, scrBytes := 4096 }, 0x30000000000000000000000000000000,
      by decide +kernel⟩,
    ⟨0, 0,
      { leafOn with mxe := [(0, { Mxe.rest with mode := 1, run := some zMRun, slots := [(0, { MSlot.rest with nInstr := 1, valid := true, scrBytes := 4096 })], imem := [(0, 0x40000000000000000000000000000000)] })] },
      zMRun, { MSlot.rest with nInstr := 1, valid := true, scrBytes := 4096 }, 0x40000000000000000000000000000000,
      by decide +kernel, by decide +kernel⟩,
    ⟨0, 0, (leBytes 16 1),
      { { leafOn with mxe := [(0, { Mxe.rest with mode := 2, run := some zMRun, slots := [(0, { MSlot.rest with nInstr := 1, valid := true, scrBytes := 4096 })], imem := [(0, 0x40000000000000000000000000000000)] })] } with pmp := { { leafOn with mxe := [(0, { Mxe.rest with mode := 2, run := some zMRun, slots := [(0, { MSlot.rest with nInstr := 1, valid := true, scrBytes := 4096 })], imem := [(0, 0x40000000000000000000000000000000)] })] }.pmp with xfers := [carrying 3 0 (leBytes 16 1)] } },
      zMRun, { MSlot.rest with nInstr := 1, valid := true, scrBytes := 4096 }, 0x40000000000000000000000000000000,
      by decide +kernel, by decide +kernel, by decide +kernel⟩,
    ⟨0, 0,
      { leafOn with mxe := [(0, { Mxe.rest with mode := 1, run := some zMRun, slots := [(0, { MSlot.rest with nInstr := 1, valid := true, scrBytes := 4096 })], imem := [(0, 0x41000000000000000000000000000000)] })] },
      zMRun, { MSlot.rest with nInstr := 1, valid := true, scrBytes := 4096 }, 0x41000000000000000000000000000000,
      by decide +kernel, by decide +kernel⟩,
    ⟨0, 0, [],
      { { leafOn with mxe := [(0, { Mxe.rest with mode := 2, run := some zMRun, slots := [(0, { MSlot.rest with nInstr := 1, valid := true, scrBytes := 4096 })], imem := [(0, 0x41000000000000000000000000000000)] })] } with pmp := { { leafOn with mxe := [(0, { Mxe.rest with mode := 2, run := some zMRun, slots := [(0, { MSlot.rest with nInstr := 1, valid := true, scrBytes := 4096 })], imem := [(0, 0x41000000000000000000000000000000)] })] }.pmp with xfers := [carrying 3 0 []] } },
      zMRun, { MSlot.rest with nInstr := 1, valid := true, scrBytes := 4096 }, 0x41000000000000000000000000000000,
      by decide +kernel, by decide +kernel, by decide +kernel⟩,
    ⟨0, 0,
      { ({ leafOn with mxe := [(0, { Mxe.rest with mode := 1, run := some zMRun, slots := [(0, { MSlot.rest with nInstr := 1, valid := true, scrBytes := 4096 })], imem := [(0, 0x42000000000000000000000000000000)] })] } : State) with epr := { ({ leafOn with mxe := [(0, { Mxe.rest with mode := 1, run := some zMRun, slots := [(0, { MSlot.rest with nInstr := 1, valid := true, scrBytes := 4096 })], imem := [(0, 0x42000000000000000000000000000000)] })] } : State).epr with retained := [(0, leBytes 48 0)] } },
      zMRun, { MSlot.rest with nInstr := 1, valid := true, scrBytes := 4096 }, 0x42000000000000000000000000000000,
      (leBytes 16 0), [], by decide +kernel, by decide +kernel⟩,
    ⟨0, 0, [],
      { leafOn with mxe := [(0, { Mxe.rest with mode := 1, run := some zMRun, slots := [(0, { MSlot.rest with nInstr := 1, valid := true, scrBytes := 4096 })], imem := [(0, 0x43000000000000000000000000000000)] })] },
      zMRun, { MSlot.rest with nInstr := 1, valid := true, scrBytes := 4096 }, 0x43000000000000000000000000000000,
      by decide +kernel⟩,
    ⟨0, 0,
      { leafOn with mxe := [(0, { Mxe.rest with mode := 1, run := some zMRun, slots := [(0, { MSlot.rest with nInstr := 1, valid := true, scrBytes := 4096 })], imem := [(0, 0x44000000000000000000000000000000)] })] },
      zMRun, { MSlot.rest with nInstr := 1, valid := true, scrBytes := 4096 }, 0x44000000000000000000000000000000,
      by decide +kernel, by decide +kernel, by decide +kernel⟩⟩

theorem witness_TreeEngineCommands :
    (∃ (q : Req) (e : Nat) (d : Word) (s : State), s.admitsWrite q .tre e 0x50 d) ∧
    (∃ (e : Nat) (s : State) (r : TRun) (l : List TRun), (s.tr e).run = none ∧ (s.tr e).pend = r :: l ∧ s.primed = true ∧
      s.inReset .tre e = false ∧ s.live .tre e = true ∧ r.pattern = false) ∧
    (∃ (e : Nat) (lost : Bool) (s t : State) (r : TRun) (x : List Int) (fs next : Nat) (key : Option Word) (last : Bool) (u : State) (r2 : TRun),
      (s.tr e).run = some r ∧ s.primed = true ∧ s.inReset .tre e = false ∧ s.outOfService .tre e = false ∧
      s.treInput e r ((s.tr e).slot r.slot) lost = (t, .vec x fs key next last) ∧ (
    let z := (s.tr e).slot r.slot
    let lanes := if s.isTray then 64 else 16
    let y := treEvaluate (s.tr e) z x lanes
    let r1 := { r with
      featSat := r.featSat + fs, catRange := r.catRange + y.2.1.cat, missing := r.missing + y.2.1.missing
      cycles := r.cycles + ceilDiv z.featN lanes + (y.2.2.map (·.2)).foldl max 0 + 8, vectors := r.vectors + 1 }
    t.treEmit e r1 z key y.1 = some (u, r2))) ∧
    (∃ (q : Req) (e : Nat) (d : Word) (s : State) (r : TRun), s.admitsWrite q .tre e 0x58 d ∧ bits d.toNat 3 0 < 4 ∧
      (s.tr e).run = some r ∧ r.slot = bits d.toNat 3 0) ∧
    (∃ (q : Req) (e k : Nat) (s t : State), s.runs t q .tre e 0 1 k ∧ k < 4) ∧
    (∃ (q : Req) (e k : Nat) (s t : State), s.runs t q .tre e 0 2 k ∧ k < 4 ∧ (t.tr e).hasRun k = false) ∧
    (∃ (q : Req) (e k : Nat) (s t : State), s.runs t q .tre e 0 5 k ∧ k < 4 ∧ (t.tr e).hasRun k = false) ∧
    (∃ (e k : Nat) (img : List Byte) (s : State), (s.tr e).loading = some k ∧ s.carried 4 e = some img ∧ (
    let t := (s.setTr e { s.tr e with loading := none }).endXfer 4 e
    t.treCheck e k img = none)) ∧
    (∃ (q : Req) (e k : Nat) (s t : State), s.runs t q .tre e 0 6 k ∧ k < 4 ∧ (t.tr e).hasRun k = false) :=
  ⟨⟨qF, 0, 0, leafOn, admits_by (by decide +kernel)⟩,
    ⟨0, { leafOn with tre := [(0, { Tre.rest with pend := [zTRun] })] }, zTRun, [], by decide +kernel, by decide +kernel,
      by decide +kernel, by decide +kernel, by decide +kernel, by decide +kernel⟩,
    ⟨0, false, treS, treS, zTRun, [0], 0, 1, none, false, treOut.1, treOut.2, by decide +kernel, by decide +kernel,
      by decide +kernel, by decide +kernel, by decide +kernel, by decide +kernel⟩,
    ⟨qF, 0, 0, { leafOn with tre := [(0, { Tre.rest with run := some zTRun })] }, zTRun, admits_by (by decide +kernel),
      by decide +kernel, by decide +kernel, by decide +kernel⟩,
    ⟨qF, 0, 3, leafOn, leafOn.took .tre 0 0 1 3, runs_by (by decide +kernel), by decide +kernel⟩,
    ⟨qF, 0, 3, leafOn, leafOn.took .tre 0 0 2 3, runs_by (by decide +kernel), by decide +kernel, by decide +kernel⟩,
    ⟨qF, 0, 3, leafOn, leafOn.took .tre 0 0 5 3, runs_by (by decide +kernel), by decide +kernel, by decide +kernel⟩,
    ⟨0, 0,
      leBytes 112 0x8000000000000000000000000000000000000000000000000000000000000000000000000000000000000000000000000000000000000000000000000000000000000000000000000000000000000000b896673900000000000000000001000000000001000100010200000131455254,
      { { leafOn with tre := [(0, { Tre.rest with loading := some 0 })] } with pmp := { { leafOn with tre := [(0, { Tre.rest with loading := some 0 })] }.pmp with xfers := [carrying 4 0 (leBytes 112 0x8000000000000000000000000000000000000000000000000000000000000000000000000000000000000000000000000000000000000000000000000000000000000000000000000000000000000000b896673900000000000000000001000000000001000100010200000131455254)] } },
      by decide +kernel, by decide +kernel, by decide +kernel⟩,
    ⟨qF, 0, 3, leafOn, leafOn.took .tre 0 0 6 3, runs_by (by decide +kernel), by decide +kernel, by decide +kernel⟩⟩

theorem witness_FeatureTableCommands :
    (∃ (q : Req) (ecc : Bool) (s t u : State) (p : Nat) (x : EftEnt), s.runs t q .eft 0 0 1 0 ∧
      t.eftGet (t.key .eft 0 0).toNat ecc = (u, some (p, x))) ∧
    (∃ (q : Req) (s t : State) (l : Bool) (p : Nat) (x : EftEnt), s.runs t q .eft 0 0 2 0 ∧ (
    let m := t.dataBytes .eft 0 256
    let k := (t.key .eft 0 0).toNat
    bits (rdLE m 12 4) 7 2 = 0 ∧ bits (rdLE m 12 4) 31 16 = 0 ∧ rdLE m 20 12 = 0 ∧
    let opt := (t.key .eft 0 1).toNat
    let stamp := if bit opt 2 then rdLE m 8 4 else t.eftCount.epochNow % 2 ^ 32
    t.eftCount.eftFind k = some (l, p, x) ∧ bit opt 1 = false ∧ (bit opt 3 = true → stampNewer stamp x.stamp = true))) ∧
    (∃ (q : Req) (s t u : State) (p : Nat), s.runs t q .eft 0 0 2 0 ∧ (
    let m := t.dataBytes .eft 0 256
    let k := (t.key .eft 0 0).toNat
    bits (rdLE m 12 4) 7 2 = 0 ∧ bits (rdLE m 12 4) 31 16 = 0 ∧ rdLE m 20 12 = 0 ∧
    let opt := (t.key .eft 0 1).toNat
    t.eftCount.eftFind k = none ∧ bit opt 0 = false ∧
    t.eftCount.eftInsert { key := BitVec.ofNat 64 k, stamp := if bit opt 2 then rdLE m 8 4 else t.eftCount.epochNow % 2 ^ 32
                           pinned := bit (rdLE m 12 4) 1
                           gen := bits (rdLE m 12 4) 15 8, writes := 1
                           feats := (List.range 56).map fun i => BitVec.ofNat 32 (rdLE m (32 + 4 * i) 4) } = (u, some p))) ∧
    (∃ (q : Req) (s t : State) (l : Bool) (p : Nat) (x : EftEnt), s.runs t q .eft 0 0 3 0 ∧
      t.eftCount.eftFind (t.key .eft 0 0).toNat = some (l, p, x)) ∧
    (∃ (q : Req) (idx : Nat) (s t : State), s.runs t q .eft 0 0 4 idx ∧ idx < t.eftCap + 64) ∧
    (∃ (q : Req) (s t : State), s.runs t q .eft 0 0 5 0) ∧
    (∃ (q : Req) (s t : State), s.runs t q .eft 0 0 6 0 ∧ t.eft.snap = none) ∧
    (∃ (s : State) (p : Snap) (b : Bytes), s.eft.snap = some p ∧ p.closed = true ∧ s.carried 8 0 = some b) ∧
    (∃ (q : Req) (idx : Nat) (s t : State) (f : FeedRule), s.runs t q .eft 0 1 1 idx ∧ t.isTray = true ∧ idx < 64 ∧
      t.eft.feeds.get? idx = some f) ∧
    (∃ (q : Req) (idx : Nat) (s t : State), s.runs t q .eft 0 1 2 idx ∧ t.isTray = true ∧ idx < 64 ∧ (
    let d := (t.data .eft 0 0).toNat
    bits d 57 56 ≠ 3 ∧ bits d 53 48 ≤ 55)) ∧
    (∃ (s : State), s.eft.sweep = true) ∧
    (∃ (s : State), s.eft.rehash = true) ∧
    (∃ (s : State) (gen : Nat) (r : List (Nat × EftBy)), s.eft.purge = (gen, .window) :: r) ∧
    (∃ (s : State) (gen c : Nat) (r : List (Nat × EftBy)), s.eft.purge = (gen, .core c) :: r) :=
  ⟨⟨qF, false, { leafOn with eft := { leafOn.eft with tbl := [(0, zEftEnt)] } },
      ({ leafOn with eft := { leafOn.eft with tbl := [(0, zEftEnt)] } } : State).took .eft 0 0 1 0,
      ((({ leafOn with eft := { leafOn.eft with tbl := [(0, zEftEnt)] } } : State).took .eft 0 0 1 0).eftGet 0 false).1, 0,
      zEftEnt, runs_by (by decide +kernel), by decide +kernel⟩,
    ⟨qF, { leafOn with eft := { leafOn.eft with tbl := [(0, zEftEnt)] } },
      ({ leafOn with eft := { leafOn.eft with tbl := [(0, zEftEnt)] } } : State).took .eft 0 0 2 0, true, 0, zEftEnt,
      runs_by (by decide +kernel), by decide +kernel⟩,
    ⟨qF, leafOn, leafOn.took .eft 0 0 2 0, ((leafOn.took .eft 0 0 2 0).eftCount.eftInsert freshEnt).1, 0,
      runs_by (by decide +kernel), by decide +kernel⟩,
    ⟨qF, { leafOn with eft := { leafOn.eft with tbl := [(0, zEftEnt)] } },
      ({ leafOn with eft := { leafOn.eft with tbl := [(0, zEftEnt)] } } : State).took .eft 0 0 3 0, true, 0, zEftEnt,
      runs_by (by decide +kernel), by decide +kernel⟩,
    ⟨qF, (4 * 2 ^ 11 + 63), leafOn, leafOn.took .eft 0 0 4 (4 * 2 ^ 11 + 63), runs_by (by decide +kernel), by decide +kernel⟩,
    ⟨qF, leafOn, leafOn.took .eft 0 0 5 0, runs_by (by decide +kernel)⟩,
    ⟨qF, leafOn, leafOn.took .eft 0 0 6 0, runs_by (by decide +kernel), by decide +kernel⟩,
    ⟨{ ({ leafOn with eft := { leafOn.eft with snap := some { zSnap with closed := true } } } : State) with pmp := { ({ leafOn with eft := { leafOn.eft with snap := some { zSnap with closed := true } } } : State).pmp with xfers := [carrying 8 0 []] } },
      { zSnap with closed := true }, [], by decide +kernel, by decide +kernel, by decide +kernel⟩,
    ⟨qF, 63, { trayOn with eft := { trayOn.eft with feeds := [(63, zFeedRule)] } },
      ({ trayOn with eft := { trayOn.eft with feeds := [(63, zFeedRule)] } } : State).took .eft 0 1 1 63, zFeedRule,
      runs_by (by decide +kernel), by decide +kernel, by decide +kernel, by decide +kernel⟩,
    ⟨qF, 63, (trayOn.setReg ((Rg.TBL_DATA .eft).nth 0) 0 (2 ^ 63)),
      ((trayOn.setReg ((Rg.TBL_DATA .eft).nth 0) 0 (2 ^ 63))).took .eft 0 1 2 63, runs_by (by decide +kernel),
      by decide +kernel, by decide +kernel, by decide +kernel⟩,
    ⟨{ leafOn with eft := { leafOn.eft with sweep := true } }, by decide +kernel⟩,
    ⟨{ leafOn with eft := { leafOn.eft with rehash := true } }, by decide +kernel⟩,
    ⟨{ leafOn with eft := { leafOn.eft with purge := [(0, .window)] } }, 0, [], by decide +kernel⟩,
    ⟨{ leafOn with eft := { leafOn.eft with purge := [(0, .core 0)] } }, 0, 0, [], by decide +kernel⟩⟩

theorem witness_CoreControlCommands :
    (∃ (q : Req) (d : Word) (s : State), s.admitsWrite q .cor 0 0x58 d) ∧
    (∃ (q : Req) (d : Word) (s : State), s.admitsWrite q .cor 0 0x58 d) ∧
    (∃ (q : Req) (d : Word) (s : State), s.admitsWrite q .cor 0 0x50 d ∧ s.reg Rg.COR_RUN = 0) ∧
    (∃ (q : Req) (s t : State), s.runs t q .cor 0 0 5 0 ∧ (
    let mask := bits (t.data .cor 0 2).toNat 31 0
    mask ≠ 0 ∧ mask < 2 ^ t.coreCount ∧ Nat.land (t.reg Rg.COR_RUN).toNat mask = 0)) ∧
    (∃ (img : List Byte) (mask : Nat) (s : State), s.cor.load = some mask ∧ s.carried 6 0 = some img ∧ (
    let t := { s with cor := { s.cor with load := none } }.endXfer 6 0
    t.fwCheck img = 0)) ∧
    (∃ (q : Req) (c : Nat) (s t : State), s.runs t q .cor 0 1 2 c ∧ c < t.coreCount ∧ (t.core c).inQ.length < 16) ∧
    (∃ (q : Req) (c : Nat) (s t : State) (m : Bytes) (ms : List Bytes), s.runs t q .cor 0 1 1 c ∧ c < t.coreCount ∧
      (t.core c).outQ = m :: ms) ∧
    (∃ (c : Nat) (s : State), s.coreFree c = true) ∧
    (∃ (c : Nat) (pc : BitVec 32) (msg : BitVec 128) (s : State), s.coreFree c = true ∧ (
    let t := s.setCore c { s.core c with mbxOut := msg }
    (t.core c).outQ.length < 16)) :=
  ⟨⟨qF, 0, leafOn, admits_by (by decide +kernel)⟩,
    ⟨qF, 0, leafOn, admits_by (by decide +kernel)⟩,
    ⟨qF, 0, leafOn, admits_by (by decide +kernel), by decide +kernel⟩,
    ⟨qF, (leafOn.setReg ((Rg.TBL_DATA .cor).nth 2) 0 1), ((leafOn.setReg ((Rg.TBL_DATA .cor).nth 2) 0 1)).took .cor 0 0 5 0,
      runs_by (by decide +kernel), by decide +kernel⟩,
    ⟨fwImage, 0, fwS, by decide +kernel, by decide +kernel, by decide +kernel⟩,
    ⟨qF, 3, leafOn, leafOn.took .cor 0 1 2 3, runs_by (by decide +kernel), by decide +kernel, by decide +kernel⟩,
    ⟨qF, 3, { leafOn with cor := { leafOn.cor with cores := [(3, { CoreSt.rest with outQ := [[]] })] } },
      ({ leafOn with cor := { leafOn.cor with cores := [(3, { CoreSt.rest with outQ := [[]] })] } } : State).took .cor 0 1 1 3,
      [], [], runs_by (by decide +kernel), by decide +kernel, by decide +kernel⟩,
    ⟨0, (leafOn.setReg Rg.COR_RUN 0 1), by decide +kernel⟩,
    ⟨0, 0, 0, (leafOn.setReg Rg.COR_RUN 0 1), by decide +kernel, by decide +kernel⟩⟩

theorem witness_CoreEventCommands :
    (∃ (c : Nat) (key : Word) (buf : Nat) (ecc : Bool) (s : State), s.coreFree c = true ∧ (s.core c).eftBusy = false) ∧
    (∃ (c : Nat) (key : Word) (opt buf : Nat) (ent : List Byte) (ecc : Bool) (s : State), s.coreFree c = true) ∧
    (∃ (c : Nat) (key : Word) (ecc : Bool) (s : State), s.coreFree c = true ∧ (s.core c).eftBusy = false) ∧
    (∃ (c : Nat) (key : Word) (buf : Nat) (ecc : Bool) (s : State), s.coreFree c = true ∧ (s.core c).eftBusy = false) ∧
    (∃ (c opt : Nat) (s : State), s.coreFree c = true ∧ (s.core c).eftBusy = false) ∧
    (∃ (c : Nat) (s : State), (s.core c).eftBusy = true ∧ s.purging c = false) ∧
    (∃ (c : Nat) (pc : BitVec 32) (off : Nat) (data : List Byte) (s : State), s.coreRuns c = true ∧ (s.core c).host = none ∧
      off < 2 ^ 31 ∧ (
    let va := (s.fld Fd.COR_HOSTWIN_BASE + off) % 2 ^ 48
    let ctx := s.fld Fd.COR_CFG_XLT_CTX
    s.tlbHas ctx va true = true)) ∧
    (∃ (c : Nat) (pc : BitVec 32) (off : Nat) (data : List Byte) (s : State), s.coreRuns c = true ∧ (s.core c).host = none ∧
      off < 2 ^ 31 ∧ (
    let va := (s.fld Fd.COR_HOSTWIN_BASE + off) % 2 ^ 48
    let ctx := s.fld Fd.COR_CFG_XLT_CTX
    s.tlbHas ctx va false = true)) ∧
    (∃ (c : Nat) (s : State) (f : FqEnt), (s.xlt.faults.find? (fun f => f.client = 7 ∧ f.inst = c) = some f) ∧
      s.coreRuns c = true) ∧
    (∃ (c : Nat) (pc cause tval : BitVec 32) (s : State), s.coreFree c = true ∧ cause.getLsbD 31 = false ∧ cause ≠ 1 ∧
      cause ≠ 5 ∧ cause ≠ 7) ∧
    (∃ (c : Nat) (pc addr : BitVec 32) (op : CoreOp) (ecc : Bool) (s : State), s.coreFree c = true ∧
      s.coreAt addr.toNat op = none) ∧
    (∃ (c n : Nat) (pc : BitVec 32) (s : State), s.coreFree c = true ∧ (s.core c).inTrap = false ∧ s.coreWants c n = true ∧
      16 ≤ n) ∧
    (∃ (c : Nat) (s : State), s.coreFree c = true) ∧
    (∃ (c : Nat) (s : State), c < s.coreCount) ∧
    (∃ (c : Nat) (s : State), s.coreFree c = true) ∧
    (∃ (c : Nat) (s : State), s.wdogOn c = true ∧ (s.core c).barked = false) ∧
    (∃ (c : Nat) (pc : BitVec 32) (s : State), s.wdogOn c = true ∧ (s.core c).barked = true) :=
  ⟨⟨0, 0, 0, false, (leafOn.setReg Rg.COR_RUN 0 1), by decide +kernel, by decide +kernel⟩,
    ⟨0, 0, 0, 0, [], false, (leafOn.setReg Rg.COR_RUN 0 1), by decide +kernel⟩,
    ⟨0, 0, false, (leafOn.setReg Rg.COR_RUN 0 1), by decide +kernel, by decide +kernel⟩,
    ⟨0, 0, 0, false, (leafOn.setReg Rg.COR_RUN 0 1), by decide +kernel, by decide +kernel⟩,
    ⟨0, 0, (leafOn.setReg Rg.COR_RUN 0 1), by decide +kernel, by decide +kernel⟩,
    ⟨0, { leafOn with cor := { leafOn.cor with cores := [(0, { CoreSt.rest with eftBusy := true })] } }, by decide +kernel,
      by decide +kernel⟩,
    ⟨0, 0, 0, [],
      { (leafOn.setReg Rg.COR_RUN 0 1) with xlt := { (leafOn.setReg Rg.COR_RUN 0 1).xlt with tlb := [{ zTlbEnt with level := 1, wr := true }] } },
      by decide +kernel, by decide +kernel, by decide +kernel, by decide +kernel⟩,
    ⟨0, 0, 0, [],
      { (leafOn.setReg Rg.COR_RUN 0 1) with xlt := { (leafOn.setReg Rg.COR_RUN 0 1).xlt with tlb := [{ zTlbEnt with level := 1, wr := false }] } },
      by decide +kernel, by decide +kernel, by decide +kernel, by decide +kernel⟩,
    ⟨0,
      { (leafOn.setReg Rg.COR_RUN 0 1) with xlt := { (leafOn.setReg Rg.COR_RUN 0 1).xlt with faults := [{ zFqEnt with client := 7 }] } },
      { zFqEnt with client := 7 }, by decide +kernel, by decide +kernel⟩,
    ⟨0, 0, 0, 0, (leafOn.setReg Rg.COR_RUN 0 1), by decide +kernel, by decide +kernel, by decide +kernel, by decide +kernel,
      by decide +kernel⟩,
    ⟨0, 0, 0x10000, .fetch, false, (leafOn.setReg Rg.COR_RUN 0 1), by decide +kernel, by decide +kernel⟩,
    ⟨0, 16, 0,
      { (leafOn.setReg Rg.COR_RUN 0 1) with cor := { (leafOn.setReg Rg.COR_RUN 0 1).cor with cores := [(0, { CoreSt.rest with irq := 1 })] } },
      by decide +kernel, by decide +kernel, by decide +kernel, by decide +kernel⟩,
    ⟨0, (leafOn.setReg Rg.COR_RUN 0 1), by decide +kernel⟩,
    ⟨3, leafOn, by decide +kernel⟩,
    ⟨0, (leafOn.setReg Rg.COR_RUN 0 1), by decide +kernel⟩,
    ⟨0, ((leafOn.setReg Rg.COR_RUN 0 1).setFld Fd.COR_WDOG_CFG_ENABLE 0 1), by decide +kernel, by decide +kernel⟩,
    ⟨0, 0,
      { ((leafOn.setReg Rg.COR_RUN 0 1).setFld Fd.COR_WDOG_CFG_ENABLE 0 1) with cor := { ((leafOn.setReg Rg.COR_RUN 0 1).setFld Fd.COR_WDOG_CFG_ENABLE 0 1).cor with cores := [(0, { CoreSt.rest with barked := true })] } },
      by decide +kernel, by decide +kernel⟩⟩

theorem witness_PumpCommands :
    (∃ (c p : Nat) (descs : List (Option (List Byte))) (s u : State), c < s.channels ∧ s.polls c = true ∧ (
    let t := s.reach (s.chan c).pollAt
    t.house c (t.chan c).prodVa false = some u ∧
    let u := u.hostGet (u.chan c).xltCtx (u.chan c).prodVa 8
    let v := u.setChan c { u.chan c with pollAt := u.aon + (u.chan c).pollUs * cyUs }
    let v := (v.setChan c { v.chan c with prod := p % 2 ^ 32 }).bytes 4 8
    wrapI ((v.chan c).prod - (v.chan c).cons) 32 ≤ 2 ^ (v.chan c).log2)) ∧
    (∃ (client inst c ctx : Nat) (l : List (Nat × Bool)) (ecc : Bool) (y : Xfer) (s u v : State), s.primed = true ∧
      client ≠ 7 ∧ (
    let t := if Strm.unit client inst = .unit 8 0 then s.snapFeed ecc else s
    t.nextAcc (.unit client inst) = some (c, ctx, l) ∧ t.hits ctx l = true ∧ t.takeTag c = (some u, v) ∧
    let u := (l.foldl (fun s a => s.tlbUse ctx a.1) u).ev .pmp 0 1
    u.xfer? client inst = some y)) ∧
    (∃ (c ctx : Nat) (l : List (Nat × Bool)) (d : PDesc) (ecc : Bool) (s u v : State),
      s.nextAcc (.ring c) = some (c, ctx, l) ∧ s.primed = true ∧ s.hits ctx l = true ∧ s.takeTag c = (some u, v) ∧ (
    let t := (l.foldl (fun s a => s.tlbUse ctx a.1) u).ev .pmp 0 1
    (t.chan c).issuing = some d)) ∧
    (∃ (c index k : Nat) (data : List Byte) (d : PDesc) (s : State), (((s.chan c).descs.find? fun d => d.index = index ∧
      d.out.contains k) = some d) ∧ d.op = 1) ∧
    (∃ (client inst index k va n off : Nat) (data : List Byte) (y : Xfer) (s : State),
      (s.pmp.dead.any fun y => y.client == client && y.inst == inst && y.out.contains k) = false ∧
      s.xfer? client inst = some y ∧ y.out.contains k = true ∧ segAt y.ranges k 0 = some (va, n, off)) ∧
    (∃ (client inst index k va n off : Nat) (data : List Byte) (y : Xfer) (s : State),
      (s.pmp.dead.any fun y => y.client == client && y.inst == inst && y.out.contains k) = false ∧
      s.xfer? client inst = some y ∧ y.out.contains k = true ∧ segAt y.ranges k 0 = some (va, n, off) ∧ (
    let u := (s.modXfer client inst fun y =>
      { y with out := y.out.erase k, seen := if y.seen.contains k then y.seen else k :: y.seen
               got := if y.write then y.got else y.got.set k ((data ++ List.replicate n 0).take n) }).moved n
        (!y.write) y.write
    let image := (client = 2 ∨ client = 4 ∨ client = 6) ∧ k = 0 ∧ y.seen = []
    ¬image)) ∧
    (∃ (client inst index k va n off : Nat) (data : List Byte) (y : Xfer) (s : State),
      (s.pmp.dead.any fun y => y.client == client && y.inst == inst && y.out.contains k) = false ∧
      s.xfer? client inst = some y ∧ y.out.contains k = true ∧ segAt y.ranges k 0 = some (va, n, off) ∧ (
    let u := (s.modXfer client inst fun y =>
      { y with out := y.out.erase k, seen := if y.seen.contains k then y.seen else k :: y.seen
               got := if y.write then y.got else y.got.set k ((data ++ List.replicate n 0).take n) }).moved n
        (!y.write) y.write
    let image := (client = 2 ∨ client = 4 ∨ client = 6) ∧ k = 0 ∧ y.seen = []
    image)) ∧
    (∃ (c index : Nat) (d : PDesc) (s u : State), s.houseOk c = true ∧ ((s.pmp.ends.find? fun e => e.ch = c ∧
      e.desc.index = index ∧ e.desc.out = []) = none) ∧ (s.chan c).descs.find? (fun d => d.index = index) = some d ∧
      d.ready = some 0 ∧ s.house c ((s.chan c).slotVa index + 48) true = some u) ∧
    (∃ (c index : Nat) (d : PDesc) (s u : State), s.houseOk c = true ∧ ((s.pmp.ends.find? fun e => e.ch = c ∧
      e.desc.index = index ∧ e.desc.out = []) = none) ∧ (s.chan c).descs.find? (fun d => d.index = index) = some d ∧
      d.ready = some 0 ∧ s.house c ((s.chan c).slotVa index + 48) true = some u ∧ (
    let v := ((u.hostPut (u.chan c).xltCtx ((s.chan c).slotVa index + 48) (leBytes 8 (wbWord d 0))).bytes 5 8).ev .pmp 0 3
    let v := v.modDesc c d.index fun d => { d with wb := true }
    let t := v.setChan c ((v.chan c).retire (v.chan c).descs)
    let t := t.setChan c { t.chan c with consDue := (t.chan c).consDue || (t.chan c).cons != (v.chan c).cons }
    let t := if d.irq then t.pendBit 4 c else t
    (t.chan c).consDue = false)) ∧
    (∃ (c index : Nat) (d : PDesc) (s u : State), s.houseOk c = true ∧ ((s.pmp.ends.find? fun e => e.ch = c ∧
      e.desc.index = index ∧ e.desc.out = []) = none) ∧ (s.chan c).descs.find? (fun d => d.index = index) = some d ∧
      d.ready = some 0 ∧ s.house c ((s.chan c).slotVa index + 48) true = some u ∧ (
    let v := ((u.hostPut (u.chan c).xltCtx ((s.chan c).slotVa index + 48) (leBytes 8 (wbWord d 0))).bytes 5 8).ev .pmp 0 3
    let v := v.modDesc c d.index fun d => { d with wb := true }
    let t := v.setChan c ((v.chan c).retire (v.chan c).descs)
    let t := t.setChan c { t.chan c with consDue := (t.chan c).consDue || (t.chan c).cons != (v.chan c).cons }
    let t := if d.irq then t.pendBit 4 c else t
    (t.chan c).consDue = true ∧ (t.house c (t.chan c).consVa true).isSome = true)) ∧
    (∃ (q : Req) (w : Word) (d : PDesc) (s : State), s.admitsWrite q .pmp 0 0x58 w ∧ bits w.toNat 5 0 < s.channels ∧
      (((s.chan (bits w.toNat 5 0)).descs.find? fun d => d.index = bits w.toNat 63 32 ∧ !d.wb) = some d) ∧ d.ready ≠ some 0 ∧
      (s.chan (bits w.toNat 5 0)).stalled = false) ∧
    (∃ (q : Req) (w : Word) (s : State), s.admitsWrite q .pmp 0 0x58 w ∧ bits w.toNat 5 0 < s.channels ∧ (
    let c := bits w.toNat 5 0
    let idx := bits w.toNat 63 32
    ((s.chan c).descs.find? fun d => d.index = idx ∧ !d.wb) = none ∧
    wrapI ((idx : Int) - (s.chan c).fetch) 32 < (s.chan c).ahead ∧ (s.chan c).aborts.contains idx = false)) ∧
    (∃ (q : Req) (d : Word) (s : State), s.admitsWrite q .pmp 0 0x50 d) ∧
    (∃ (q : Req) (d : Word) (s : State), s.admitsWrite q .pmp 0 0x40 d) ∧
    (∃ (q : Req) (c : Nat) (s t : State), s.runs t q .pmp 0 0 1 c ∧ c < t.channels) ∧
    (∃ (q : Req) (c : Nat) (s t : State), s.runs t q .pmp 0 0 2 c ∧ c < t.channels ∧ (t.reg Rg.PMP_CH_EN).getLsbD c = false ∧
      (
    let w := fun k => (t.data .pmp 0 k).toNat
    let v : Chan := { t.chan c with
      ringVa := bits (w 0) 47 0, prodVa := bits (w 1) 47 0, consVa := bits (w 2) 47 0, xltCtx := bits (w 3) 41 32
      log2 := bits (w 3) 28 24, pollUs := bits (w 3) 23 14, tagMax := bits (w 3) 13 3, chkDesc := bit (w 3) 2
      stopErr := bit (w 3) 1, sramSize := bits (w 4) 48 32, sramBase := bits (w 4) 16 0, cons := bits (w 5) 31 0
      fetch := bits (w 5) 31 0, ahead := 0, aborts := [] }
    v.ringVa % 4096 = 0 ∧ v.prodVa % 8 = 0 ∧ v.consVa % 8 = 0 ∧ v.xltCtx < t.contexts ∧ 4 ≤ v.log2 ∧ v.log2 ≤ 16 ∧
    1 ≤ v.pollUs ∧ v.pollUs ≤ 1000 ∧ 1 ≤ v.tagMax ∧ v.tagMax ≤ t.tags ∧ v.sramBase + v.sramSize ≤ t.sramPages)) :=
  ⟨⟨0, 0, [], pollS, (((pollS.reach 0).house 0 0 false).getD pollS), by decide +kernel, by decide +kernel,
      by decide +kernel⟩,
    ⟨0, 0, 0, 0, [(0, false)], false, { zXfer with ranges := [(0, 256)] },
      { { leafOn with pmp := { leafOn.pmp with xfers := [{ zXfer with ranges := [(0, 256)] }], chans := [(0, { zChan with tagMax := 8, log2 := 4 })] } } with xlt := { { leafOn with pmp := { leafOn.pmp with xfers := [{ zXfer with ranges := [(0, 256)] }], chans := [(0, { zChan with tagMax := 8, log2 := 4 })] } }.xlt with tlb := [{ zTlbEnt with level := 1, wr := true }] } },
      ((((({ { leafOn with pmp := { leafOn.pmp with xfers := [{ zXfer with ranges := [(0, 256)] }], chans := [(0, { zChan with tagMax := 8, log2 := 4 })] } } with xlt := { { leafOn with pmp := { leafOn.pmp with xfers := [{ zXfer with ranges := [(0, 256)] }], chans := [(0, { zChan with tagMax := 8, log2 := 4 })] } }.xlt with tlb := [{ zTlbEnt with level := 1, wr := true }] } } : State)).takeTag 0).1).getD leafOn),
      ({ { leafOn with pmp := { leafOn.pmp with xfers := [{ zXfer with ranges := [(0, 256)] }], chans := [(0, { zChan with tagMax := 8, log2 := 4 })] } } with xlt := { { leafOn with pmp := { leafOn.pmp with xfers := [{ zXfer with ranges := [(0, 256)] }], chans := [(0, { zChan with tagMax := 8, log2 := 4 })] } }.xlt with tlb := [{ zTlbEnt with level := 1, wr := true }] } } : State),
      by decide +kernel, by decide +kernel, by decide +kernel⟩,
    ⟨0, 0, [(0, false)], { zPDesc with bytes := leBytes 64 (2 ^ 160 + 256 * 2 ^ 128) }, false,
      { { leafOn with pmp := { leafOn.pmp with chans := [(0, { zChan with tagMax := 8, log2 := 4, descs := [{ zPDesc with bytes := leBytes 64 (2 ^ 160 + 256 * 2 ^ 128) }] })] } } with xlt := { { leafOn with pmp := { leafOn.pmp with chans := [(0, { zChan with tagMax := 8, log2 := 4, descs := [{ zPDesc with bytes := leBytes 64 (2 ^ 160 + 256 * 2 ^ 128) }] })] } }.xlt with tlb := [{ zTlbEnt with level := 1, wr := true }] } },
      ((((({ { leafOn with pmp := { leafOn.pmp with chans := [(0, { zChan with tagMax := 8, log2 := 4, descs := [{ zPDesc with bytes := leBytes 64 (2 ^ 160 + 256 * 2 ^ 128) }] })] } } with xlt := { { leafOn with pmp := { leafOn.pmp with chans := [(0, { zChan with tagMax := 8, log2 := 4, descs := [{ zPDesc with bytes := leBytes 64 (2 ^ 160 + 256 * 2 ^ 128) }] })] } }.xlt with tlb := [{ zTlbEnt with level := 1, wr := true }] } } : State)).takeTag 0).1).getD leafOn),
      ({ { leafOn with pmp := { leafOn.pmp with chans := [(0, { zChan with tagMax := 8, log2 := 4, descs := [{ zPDesc with bytes := leBytes 64 (2 ^ 160 + 256 * 2 ^ 128) }] })] } } with xlt := { { leafOn with pmp := { leafOn.pmp with chans := [(0, { zChan with tagMax := 8, log2 := 4, descs := [{ zPDesc with bytes := leBytes 64 (2 ^ 160 + 256 * 2 ^ 128) }] })] } }.xlt with tlb := [{ zTlbEnt with level := 1, wr := true }] } } : State),
      by decide +kernel, by decide +kernel, by decide +kernel, by decide +kernel, by decide +kernel⟩,
    ⟨0, 0, 0, [], { zPDesc with bytes := leBytes 64 (2 ^ 160 + 256 * 2 ^ 128), out := [0] },
      { leafOn with pmp := { leafOn.pmp with chans := [(0, { zChan with tagMax := 8, log2 := 4, descs := [{ zPDesc with bytes := leBytes 64 (2 ^ 160 + 256 * 2 ^ 128), out := [0] }] })] } },
      by decide +kernel, by decide +kernel⟩,
    ⟨0, 0, 0, 0, 0, 256, 0, [], { zXfer with ranges := [(0, 256)], out := [0] },
      { leafOn with pmp := { leafOn.pmp with xfers := [{ zXfer with ranges := [(0, 256)], out := [0] }] } },
      by decide +kernel, by decide +kernel, by decide +kernel, by decide +kernel⟩,
    ⟨0, 0, 0, 0, 0, 256, 0, [], { zXfer with ranges := [(0, 256)], out := [0] },
      { leafOn with pmp := { leafOn.pmp with xfers := [{ zXfer with ranges := [(0, 256)], out := [0] }] } },
      by decide +kernel, by decide +kernel, by decide +kernel, by decide +kernel, by decide +kernel⟩,
    ⟨2, 0, 0, 0, 0, 256, 0, [], { zXfer with client := 2, ranges := [(0, 256)], out := [0] },
      { leafOn with pmp := { leafOn.pmp with xfers := [{ zXfer with client := 2, ranges := [(0, 256)], out := [0] }] } },
      by decide +kernel, by decide +kernel, by decide +kernel, by decide +kernel, by decide +kernel⟩,
    ⟨0, 0, { zPDesc with ending := some 0 },
      { { leafOn with pmp := { leafOn.pmp with chans := [(0, { zChan with tagMax := 8, log2 := 4, descs := [{ zPDesc with ending := some 0 }] })] } } with xlt := { { leafOn with pmp := { leafOn.pmp with chans := [(0, { zChan with tagMax := 8, log2 := 4, descs := [{ zPDesc with ending := some 0 }] })] } }.xlt with tlb := [{ zTlbEnt with level := 1, wr := true }] } },
      (((({ { leafOn with pmp := { leafOn.pmp with chans := [(0, { zChan with tagMax := 8, log2 := 4, descs := [{ zPDesc with ending := some 0 }] })] } } with xlt := { { leafOn with pmp := { leafOn.pmp with chans := [(0, { zChan with tagMax := 8, log2 := 4, descs := [{ zPDesc with ending := some 0 }] })] } }.xlt with tlb := [{ zTlbEnt with level := 1, wr := true }] } } : State)).house 0 48 true).getD leafOn),
      by decide +kernel, by decide +kernel, by decide +kernel, by decide +kernel, by decide +kernel⟩,
    ⟨0, 1, { zPDesc with ending := some 0, index := 1 },
      { { leafOn with pmp := { leafOn.pmp with chans := [(0, { zChan with tagMax := 8, log2 := 4, descs := [zPDesc, { zPDesc with ending := some 0, index := 1 }] })] } } with xlt := { { leafOn with pmp := { leafOn.pmp with chans := [(0, { zChan with tagMax := 8, log2 := 4, descs := [zPDesc, { zPDesc with ending := some 0, index := 1 }] })] } }.xlt with tlb := [{ zTlbEnt with level := 1, wr := true }] } },
      (((({ { leafOn with pmp := { leafOn.pmp with chans := [(0, { zChan with tagMax := 8, log2 := 4, descs := [zPDesc, { zPDesc with ending := some 0, index := 1 }] })] } } with xlt := { { leafOn with pmp := { leafOn.pmp with chans := [(0, { zChan with tagMax := 8, log2 := 4, descs := [zPDesc, { zPDesc with ending := some 0, index := 1 }] })] } }.xlt with tlb := [{ zTlbEnt with level := 1, wr := true }] } } : State)).house 0 112 true).getD leafOn),
      by decide +kernel, by decide +kernel, by decide +kernel, by decide +kernel, by decide +kernel, by decide +kernel⟩,
    ⟨0, 0, { zPDesc with ending := some 0 },
      { { leafOn with pmp := { leafOn.pmp with chans := [(0, { zChan with tagMax := 8, log2 := 4, descs := [{ zPDesc with ending := some 0 }] })] } } with xlt := { { leafOn with pmp := { leafOn.pmp with chans := [(0, { zChan with tagMax := 8, log2 := 4, descs := [{ zPDesc with ending := some 0 }] })] } }.xlt with tlb := [{ zTlbEnt with level := 1, wr := true }] } },
      (((({ { leafOn with pmp := { leafOn.pmp with chans := [(0, { zChan with tagMax := 8, log2 := 4, descs := [{ zPDesc with ending := some 0 }] })] } } with xlt := { { leafOn with pmp := { leafOn.pmp with chans := [(0, { zChan with tagMax := 8, log2 := 4, descs := [{ zPDesc with ending := some 0 }] })] } }.xlt with tlb := [{ zTlbEnt with level := 1, wr := true }] } } : State)).house 0 48 true).getD leafOn),
      by decide +kernel, by decide +kernel, by decide +kernel, by decide +kernel, by decide +kernel, by decide +kernel⟩,
    ⟨qF, 0, zPDesc,
      { leafOn with pmp := { leafOn.pmp with chans := [(0, { zChan with tagMax := 8, log2 := 4, descs := [zPDesc] })] } },
      admits_by (by decide +kernel), by decide +kernel, by decide +kernel, by decide +kernel, by decide +kernel⟩,
    ⟨qF, 0, { leafOn with pmp := { leafOn.pmp with chans := [(0, { zChan with tagMax := 8, log2 := 4, ahead := 1 })] } },
      admits_by (by decide +kernel), by decide +kernel, by decide +kernel⟩,
    ⟨qF, 0, leafOn, admits_by (by decide +kernel)⟩,
    ⟨qF, 0, leafOn, admits_by (by decide +kernel)⟩,
    ⟨qF, 7, leafOn, leafOn.took .pmp 0 0 1 7, runs_by (by decide +kernel), by decide +kernel⟩,
    ⟨qF, 7, (leafOn.setReg ((Rg.TBL_DATA .pmp).nth 3) 0 (4 * 2 ^ 24 + 2 ^ 14 + 2 ^ 3)),
      ((leafOn.setReg ((Rg.TBL_DATA .pmp).nth 3) 0 (4 * 2 ^ 24 + 2 ^ 14 + 2 ^ 3))).took .pmp 0 0 2 7,
      runs_by (by decide +kernel), by decide +kernel, by decide +kernel, by decide +kernel⟩⟩

theorem witness_TranslationCommands :
    (∃ (x : Strm) (ptes : List (Option Word)) (ch ctx va level pte : Nat) (write : Bool) (l : List (Nat × Bool)) (s : State),
      s.primed = true ∧ s.nextAcc x = some (ch, ctx, l) ∧ (l.find? fun a => !s.tlbHas ctx a.1 a.2) = some (va, write) ∧
      bit (s.ctx ctx) 63 = true ∧ va < 2 ^ 48 ∧ walk write 4 ptes = .leaf level pte) ∧
    (∃ (x : Strm) (ptes : List (Option Word)) (ch ctx va : Nat) (write : Bool) (l : List (Nat × Bool)) (s : State),
      s.primed = true ∧ s.nextAcc x = some (ch, ctx, l) ∧ (l.find? fun a => !s.tlbHas ctx a.1 a.2) = some (va, write) ∧
      bit (s.ctx ctx) 63 = false) ∧
    (∃ (q : Req) (s t : State) (f : FqEnt), s.runs t q .xlt 0 1 3 0 ∧
      (t.xlt.faults.find? fun e => e.token.isSome && !e.read) = some f) ∧
    (∃ (q : Req) (ctx : Nat) (s : State), s.admitsWrite q .xlt 0 0x60 (invWord 1 ctx 0) ∧ ctx < 1024 ∧
      s.xlt.invs.isEmpty = true) ∧
    (∃ (q : Req) (ctx va : Nat) (s : State), s.admitsWrite q .xlt 0 0x60 (invWord 2 ctx va) ∧ ctx < 1024 ∧ va < 2 ^ 48 ∧
      s.xlt.invs.isEmpty = true) ∧
    (∃ (q : Req) (s : State), s.admitsWrite q .xlt 0 0x60 (invWord 3 0 0) ∧ s.xlt.invs.isEmpty = true) ∧
    (∃ (v : Inval) (s : State), (s.xlt.invs.find? fun v => v.window == false) = some v ∧ s.inFlight v = false) ∧
    (∃ (v : Inval) (s : State), (s.xlt.invs.find? fun v => v.window == true) = some v ∧ s.inFlight v = false) ∧
    (∃ (q : Req) (c : Nat) (s t : State), s.runs t q .xlt 0 0 1 c ∧ c < t.contexts) ∧
    (∃ (q : Req) (c : Nat) (s t : State), s.runs t q .xlt 0 0 2 c ∧ c < t.contexts ∧ bits (t.data .xlt 0 0).toNat 62 52 = 0 ∧
      bits (t.data .xlt 0 0).toNat 11 0 = 0 ∧ (t.data .xlt 0 0).toNat ≠ 0) ∧
    (∃ (q : Req) (token : Nat) (s : State) (f : FqEnt), s.admitsWrite q .xlt 0 0x50 (respondWord 1 token) ∧ token < 2 ^ 16 ∧
      s.fqEnt? token = some f) ∧
    (∃ (q : Req) (token : Nat) (s : State) (f : FqEnt), s.admitsWrite q .xlt 0 0x50 (respondWord 2 token) ∧ token < 2 ^ 16 ∧
      s.fqEnt? token = some f) ∧
    (∃ (token : Nat) (s : State) (f : FqEnt), s.fqEnt? token = some f) :=
  ⟨⟨.unit 0 0, [some 1, some 1, some 1, some 7], 0, 0, 0, 1, 7, false, [(0, false)],
      { ({ leafOn with pmp := { leafOn.pmp with xfers := [{ zXfer with ranges := [(0, 256)] }] } } : State) with xlt := { ({ leafOn with pmp := { leafOn.pmp with xfers := [{ zXfer with ranges := [(0, 256)] }] } } : State).xlt with ctxs := [(0, 2 ^ 63)] } },
      by decide +kernel, by decide +kernel, by decide +kernel, by decide +kernel, by decide +kernel, by decide +kernel⟩,
    ⟨.unit 0 0, [], 0, 0, 0, false, [(0, false)],
      { leafOn with pmp := { leafOn.pmp with xfers := [{ zXfer with ranges := [(0, 256)] }] } }, by decide +kernel,
      by decide +kernel, by decide +kernel, by decide +kernel⟩,
    ⟨qF, { leafOn with xlt := { leafOn.xlt with faults := [{ zFqEnt with token := some 0 }] } },
      ({ leafOn with xlt := { leafOn.xlt with faults := [{ zFqEnt with token := some 0 }] } } : State).took .xlt 0 1 3 0,
      { zFqEnt with token := some 0 }, runs_by (by decide +kernel), by decide +kernel⟩,
    ⟨qF, 1023, leafOn, admits_by (by decide +kernel), by decide +kernel, by decide +kernel⟩,
    ⟨qF, 1023, 0, leafOn, admits_by (by decide +kernel), by decide +kernel, by decide +kernel, by decide +kernel⟩,
    ⟨qF, leafOn, admits_by (by decide +kernel), by decide +kernel⟩,
    ⟨zInval, { leafOn with xlt := { leafOn.xlt with invs := [zInval] } }, by decide +kernel, by decide +kernel⟩,
    ⟨{ zInval with window := true }, { leafOn with xlt := { leafOn.xlt with invs := [{ zInval with window := true }] } },
      by decide +kernel, by decide +kernel⟩,
    ⟨qF, 63, leafOn, leafOn.took .xlt 0 0 1 63, runs_by (by decide +kernel), by decide +kernel⟩,
    ⟨qF, 63, (leafOn.setReg ((Rg.TBL_DATA .xlt).nth 0) 0 0x1000),
      ((leafOn.setReg ((Rg.TBL_DATA .xlt).nth 0) 0 0x1000)).took .xlt 0 0 2 63, runs_by (by decide +kernel),
      by decide +kernel, by decide +kernel, by decide +kernel, by decide +kernel⟩,
    ⟨qF, 0, { leafOn with xlt := { leafOn.xlt with faults := [{ zFqEnt with token := some 0 }] } },
      { zFqEnt with token := some 0 }, admits_by (by decide +kernel), by decide +kernel, by decide +kernel⟩,
    ⟨qF, 0, { leafOn with xlt := { leafOn.xlt with faults := [{ zFqEnt with token := some 0 }] } },
      { zFqEnt with token := some 0 }, admits_by (by decide +kernel), by decide +kernel, by decide +kernel⟩,
    ⟨0, { leafOn with xlt := { leafOn.xlt with faults := [{ zFqEnt with token := some 0 }] } },
      { zFqEnt with token := some 0 }, by decide +kernel⟩⟩

theorem witness_LaneCommands :
    (∃ (w : Nat) (s : State), s.fld Fd.SLK_CFG_RATE_TARGET w < (s.lane w).reqOwn) ∧
    (∃ (w code : Nat) (s : State), code ≤ 2) ∧
    (∃ (w tx rx : Nat) (s : State), s.lstate w = 5) ∧
    (∃ (w : Nat) (s : State), s.lstate w = 1) ∧
    (∃ (w tx rx : Nat) (s : State), s.lstate w = 2) ∧
    (∃ (w : Nat) (s : State), s.lstate w = 2) ∧
    (∃ (w : Nat) (s : State), s.lstate w = 2 ∧ (
    let t := s.reach ((s.lane w).since + 2 * cyMs)
    let r := t.fld Fd.SLK_STATE_RATE w
    r < t.fld Fd.SLK_CFG_RATE_MIN w)) ∧
    (∃ (w : Nat) (s : State), s.lstate w = 2 ∧ (
    let t := s.reach ((s.lane w).since + 2 * cyMs)
    let r := t.fld Fd.SLK_STATE_RATE w
    t.fld Fd.SLK_CFG_RATE_MIN w ≤ r)) ∧
    (∃ (w : Nat) (s : State), s.lstate w = 5) ∧
    (∃ (w : Nat) (s : State), (s.lstate w = 2 ∨ s.lstate w = 3)) ∧
    (∃ (w : Nat) (s : State), (s.lstate w = 4 ∨ s.lstate w = 5)) ∧
    (∃ (w : Nat) (s : State), s.lstate w = 6 ∧ 0 < s.fld Fd.SLK_FLAP_CFG_QUAR_S w) ∧
    (∃ (q : Req) (w : Nat) (d : Word) (s : State), s.admitsWrite q .slk w 0x58 d ∧ d.getLsbD 0 = true ∧ d.getLsbD 1 = false ∧
      d.getLsbD 2 = false ∧ s.lstate w = 4) ∧
    (∃ (q : Req) (w : Nat) (d : Word) (s : State), s.admitsWrite q .slk w 0x58 d ∧ d.getLsbD 0 = false ∧ d.getLsbD 1 = true ∧
      d.getLsbD 2 = false ∧ s.lstate w = 6) ∧
    (∃ (q : Req) (w : Nat) (d : Word) (s : State), s.admitsWrite q .slk w 0x58 d ∧ d.getLsbD 0 = false ∧
      d.getLsbD 1 = false ∧ d.getLsbD 2 = true) ∧
    (∃ (w : Nat) (b : List Byte) (s : State), s.lstate w = 3 ∧ s.isTray = false ∧ rdLE b 0 1 = 1 ∧ rdLE b 1 1 = 1) ∧
    (∃ (w : Nat) (b : List Byte) (s : State), s.lstate w = 3 ∧ s.isTray = true ∧ rdLE b 0 1 = 0 ∧ rdLE b 1 1 = 1 ∧
      (bit (rdLE b 2 3) 23 = false ∨ s.idTwin w (bits (rdLE b 2 3) 19 0) = none)) ∧
    (∃ (w o : Nat) (b : List Byte) (s : State), s.lstate w = 3 ∧ s.isTray = true ∧ rdLE b 0 1 = 0 ∧ rdLE b 1 1 = 1 ∧
      bit (rdLE b 2 3) 23 = true ∧ s.idTwin w (bits (rdLE b 2 3) 19 0) = some o ∧ o < w) :=
  ⟨⟨0, { (leafOn.setFld Fd.SLK_CFG_RATE_TARGET 0 0) with lanes := [(0, { Lane.rest with reqOwn := 2 })] },
      by decide +kernel⟩,
    ⟨0, 2, leafOn, by decide +kernel⟩,
    ⟨0, 0, 0, (leafOn.setFld Fd.SLK_STATE_LSTATE 0 5), by decide +kernel⟩,
    ⟨0, (leafOn.setFld Fd.SLK_STATE_LSTATE 0 1), by decide +kernel⟩,
    ⟨0, 0, 0, (leafOn.setFld Fd.SLK_STATE_LSTATE 0 2), by decide +kernel⟩,
    ⟨0, (leafOn.setFld Fd.SLK_STATE_LSTATE 0 2), by decide +kernel⟩,
    ⟨0, ((leafOn.setFld Fd.SLK_STATE_LSTATE 0 2).setFld Fd.SLK_CFG_RATE_MIN 0 1), by decide +kernel, by decide +kernel⟩,
    ⟨0, ((leafOn.setFld Fd.SLK_STATE_LSTATE 0 2).setFld Fd.SLK_CFG_RATE_MIN 0 0), by decide +kernel, by decide +kernel⟩,
    ⟨0, (leafOn.setFld Fd.SLK_STATE_LSTATE 0 5), by decide +kernel⟩,
    ⟨0, (leafOn.setFld Fd.SLK_STATE_LSTATE 0 3), by decide +kernel⟩,
    ⟨0, (leafOn.setFld Fd.SLK_STATE_LSTATE 0 5), by decide +kernel⟩,
    ⟨0, (leafOn.setFld Fd.SLK_STATE_LSTATE 0 6), by decide +kernel, by decide +kernel⟩,
    ⟨qF, 0, 1, leafOn, admits_by (by decide +kernel), by decide +kernel, by decide +kernel, by decide +kernel,
      by decide +kernel⟩,
    ⟨qF, 0, 2, (leafOn.setFld Fd.SLK_STATE_LSTATE 0 6), admits_by (by decide +kernel), by decide +kernel, by decide +kernel,
      by decide +kernel, by decide +kernel⟩,
    ⟨qF, 0, 4, leafOn, admits_by (by decide +kernel), by decide +kernel, by decide +kernel, by decide +kernel⟩,
    ⟨0, [1, 1], (leafOn.setFld Fd.SLK_STATE_LSTATE 0 3), by decide +kernel, by decide +kernel, by decide +kernel,
      by decide +kernel⟩,
    ⟨0, [0, 1], (trayOn.setFld Fd.SLK_STATE_LSTATE 0 3), by decide +kernel, by decide +kernel, by decide +kernel,
      by decide +kernel, by decide +kernel⟩,
    ⟨1, 0, [0, 1, 0, 0, 128], (trayOn.setFld Fd.SLK_STATE_LSTATE 1 3), by decide +kernel, by decide +kernel,
      by decide +kernel, by decide +kernel, by decide +kernel, by decide +kernel, by decide +kernel⟩⟩

theorem witness_FlitCommands :
    (∃ (w sub : Nat) (s : State), s.lstate w = 3) ∧
    (∃ (w sub : Nat) (s : State), s.laneActive w = true ∧ s.lstate w ≠ 3 ∧ s.clearOf w (s.now + sub) (s.flitTime w) = true ∧
      (s.lane w).nakDue = true) ∧
    (∃ (w sub : Nat) (s : State), s.laneActive w = true ∧ s.lstate w ≠ 3 ∧ s.clearOf w (s.now + sub) (s.flitTime w) = true ∧
      (s.lane w).nakDue = false ∧ (s.lane w).ansDue = false ∧ (s.lane w).syncDue = none ∧ (s.lane w).replayPos = none) ∧
    (∃ (w sub : Nat) (s : State), s.laneActive w = true ∧ s.lstate w ≠ 3 ∧ s.clearOf w (s.now + sub) (s.flitTime w) = true ∧
      (s.lane w).nakDue = false ∧ (s.lane w).ansDue = false ∧ (s.lane w).syncDue = none ∧ (s.lane w).replayPos = none ∧
      s.vcTurn w 0 = true) ∧
    (∃ (w sub : Nat) (s : State), s.laneActive w = true ∧ s.lstate w ≠ 3 ∧ s.clearOf w (s.now + sub) (s.flitTime w) = true ∧
      (s.lane w).nakDue = false ∧ (s.lane w).ansDue = false ∧ (s.lane w).syncDue = none ∧ (s.lane w).replayPos = none ∧
      s.vcTurn w 0 = false ∧ s.vcTurn w 1 = true) ∧
    (∃ (w sub : Nat) (s : State), s.laneActive w = true ∧ s.lstate w ≠ 3 ∧ s.clearOf w (s.now + sub) (s.flitTime w) = true ∧
      (s.lane w).nakDue = false ∧ (s.lane w).ansDue = false ∧ (s.lane w).syncDue = none ∧ (s.lane w).replayPos = none ∧
      s.vcTurn w 0 = false ∧ s.vcTurn w 1 = false ∧ s.vcTurn w 2 = false ∧ s.vcTurn w 3 = false) ∧
    (∃ (w : Nat) (f : List Byte) (x : Flit) (len : Nat) (s t : State), s.laneActive w = true ∧ (flitOf f).1.ftype = 2 ∧
      s.flitIn w f 0 none = (t, some (x, len))) ∧
    (∃ (w : Nat) (f : List Byte) (x : Flit) (len : Nat) (s t : State), s.laneActive w = true ∧ (flitOf f).1.ftype = 3 ∧
      s.flitIn w f 0 none = (t, some (x, len))) ∧
    (∃ (w : Nat) (f : List Byte) (x : Flit) (len : Nat) (s t : State), s.laneActive w = true ∧ (flitOf f).1.ftype = 0 ∧
      s.flitIn w f 0 none = (t, some (x, len))) ∧
    (∃ (w : Nat) (s : State), s.laneActive w = true ∧ (s.lane w).replay.isEmpty = false) ∧
    (∃ (w : Nat) (s : State), s.laneActive w = true ∧ (s.lane w).gapOpen = true ∧ (s.lane w).nakDue = false) ∧
    (∃ (w e : Nat) (s : State), (s.lane w).syncWait = some e ∧ s.laneActive w = true) ∧
    (∃ (w e : Nat) (s : State), (s.lane w).syncWait = some e ∧ s.laneActive w = true ∧ (
    let t := s.reach (e + cyUs)
    let l := t.lane w
    8 ≤ l.syncTries)) ∧
    (∃ (w e : Nat) (s : State), (s.lane w).syncWait = some e ∧ s.laneActive w = true ∧ (
    let t := s.reach (e + cyUs)
    let l := t.lane w
    l.syncTries < 8)) :=
  ⟨⟨0, 0, (leafOn.setFld Fd.SLK_STATE_LSTATE 0 3), by decide +kernel⟩,
    ⟨0, 0, { leafOn with lanes := [(0, { Lane.rest with nakDue := true })] }, by decide +kernel, by decide +kernel,
      by decide +kernel, by decide +kernel⟩,
    ⟨0, 0, leafOn, by decide +kernel, by decide +kernel, by decide +kernel, by decide +kernel, by decide +kernel,
      by decide +kernel, by decide +kernel⟩,
    ⟨0, 0,
      (({ leafOn with lanes := [(0, { Lane.rest with txq := [(0, [{ zTxItem with ftype := 1 }])] })] } : State).setFld (creditFld 0) 0 1),
      by decide +kernel, by decide +kernel, by decide +kernel, by decide +kernel, by decide +kernel, by decide +kernel,
      by decide +kernel, by decide +kernel⟩,
    ⟨0, 0,
      (({ leafOn with lanes := [(0, { Lane.rest with txq := [(1, [{ zTxItem with ftype := 1 }])] })] } : State).setFld (creditFld 1) 0 1),
      by decide +kernel, by decide +kernel, by decide +kernel, by decide +kernel, by decide +kernel, by decide +kernel,
      by decide +kernel, by decide +kernel, by decide +kernel⟩,
    ⟨0, 0, leafOn, by decide +kernel, by decide +kernel, by decide +kernel, by decide +kernel, by decide +kernel,
      by decide +kernel, by decide +kernel, by decide +kernel, by decide +kernel, by decide +kernel, by decide +kernel⟩,
    ⟨0, (leBytes 252 0x23000fff0000000 ++ leBytes 4 0xa70dc615),
      (flitOf (leBytes 252 0x23000fff0000000 ++ leBytes 4 0xa70dc615)).1,
      (flitOf (leBytes 252 0x23000fff0000000 ++ leBytes 4 0xa70dc615)).2, leafOn,
      (leafOn.flitIn 0 (leBytes 252 0x23000fff0000000 ++ leBytes 4 0xa70dc615) 0 none).1, by decide +kernel,
      by decide +kernel, by decide +kernel⟩,
    ⟨0, (leBytes 252 0x33000fff0000000 ++ leBytes 4 0x346e4502),
      (flitOf (leBytes 252 0x33000fff0000000 ++ leBytes 4 0x346e4502)).1,
      (flitOf (leBytes 252 0x33000fff0000000 ++ leBytes 4 0x346e4502)).2, leafOn,
      (leafOn.flitIn 0 (leBytes 252 0x33000fff0000000 ++ leBytes 4 0x346e4502) 0 none).1, by decide +kernel,
      by decide +kernel, by decide +kernel⟩,
    ⟨0, (leBytes 252 0x3000fff0000000 ++ leBytes 4 0x8426b6ca),
      (flitOf (leBytes 252 0x3000fff0000000 ++ leBytes 4 0x8426b6ca)).1,
      (flitOf (leBytes 252 0x3000fff0000000 ++ leBytes 4 0x8426b6ca)).2, leafOn,
      (leafOn.flitIn 0 (leBytes 252 0x3000fff0000000 ++ leBytes 4 0x8426b6ca) 0 none).1, by decide +kernel,
      by decide +kernel, by decide +kernel⟩,
    ⟨0, { leafOn with lanes := [(0, { Lane.rest with replay := [zFlit] })] }, by decide +kernel, by decide +kernel⟩,
    ⟨0, { leafOn with lanes := [(0, { Lane.rest with gapOpen := true })] }, by decide +kernel, by decide +kernel,
      by decide +kernel⟩,
    ⟨0, 5, { leafOn with lanes := [(0, { Lane.rest with syncWait := some 5 })] }, by decide +kernel, by decide +kernel⟩,
    ⟨0, 5, { leafOn with lanes := [(0, { Lane.rest with syncWait := some 5, syncTries := 8 })] }, by decide +kernel,
      by decide +kernel, by decide +kernel⟩,
    ⟨0, 5, { leafOn with lanes := [(0, { Lane.rest with syncWait := some 5, syncTries := 7 })] }, by decide +kernel,
      by decide +kernel, by decide +kernel⟩⟩

theorem witness_HostPathCommands :
    (∃ (e : Nat) (s : State), (s.lane 0).outSince = some e ∧ s.isTray = false ∧ s.enabled .hpa = true ∧ s.lstate 0 ≠ 4 ∧
      s.lstate 0 ≠ 5 ∧ s.fld Fd.HPA_STAT_ROUTED = 0) ∧
    (∃ (s t : State) (x : TxItem), s.isTray = false ∧ s.live .hpa = true ∧ s.primed = true ∧ s.xfer? 11 0 = none ∧
      s.hpaFull = false ∧ s.hpaItem 0 = some (x, t)) ∧
    (∃ (s t : State) (x : TxItem), s.isTray = false ∧ s.live .hpa = true ∧ s.primed = true ∧ s.xfer? 11 0 = none ∧
      s.hpaFull = false ∧ s.hpaItem 0 = none ∧ s.hpaItem 2 = some (x, t)) ∧
    (∃ (cons : Nat) (s : State), s.isTray = false ∧ s.enabled .hpa = true) ∧
    (∃ (q : Req) (w : Nat) (s t : State), s.runs t q .slk w 1 2 0 ∧ bit (t.data .slk w 1).toNat 49 = false) ∧
    (∃ (q : Req) (w : Nat) (s t : State) (m : Bytes) (n : Nat) (r : List (Bytes × Nat)), s.runs t q .slk w 2 3 0 ∧
      (t.lane w).rxApp = (m, n) :: r) ∧
    (∃ (w : Nat) (m : List Byte) (s : State), s.laneActive w = true) ∧
    (∃ (w prod : Nat) (flits : List (List Byte)) (s : State), s.isTray = true ∧ w < s.wellheads ∧ s.enabled .slk w = true ∧
      s.fld Fd.SLK_ALT_CFG_ENABLE w = 1 ∧ s.lstate w ≠ 7 ∧ (
    let n := min ((prod + 2 ^ 32 - (s.lane w).altCons) % 2 ^ 32) (min flits.length (2 ^ (s.fld Fd.SLK_ALT_CFG_LOG2_FLITS w + 8)))
    let t := (flits.take n).foldl (fun s b => s.altFlit w b) s
    let c := ((t.lane w).altCons + n) % 2 ^ 32
    let u := t.modLane w fun l => { l with altCons := c }
    0 < n)) :=
  ⟨⟨5, { (leafOn.setFld Fd.SLK_STATE_LSTATE 0 3) with lanes := [(0, { Lane.rest with outSince := some 5 })] },
      by decide +kernel, by decide +kernel, by decide +kernel, by decide +kernel, by decide +kernel, by decide +kernel⟩,
    ⟨{ leafOn with hpa := { leafOn.hpa with txq := [(0, [zTxItem])] } },
      ((((({ leafOn with hpa := { leafOn.hpa with txq := [(0, [zTxItem])] } } : State)).hpaItem 0).map (·.2)).getD leafOn),
      zTxItem, by decide +kernel, by decide +kernel, by decide +kernel, by decide +kernel, by decide +kernel,
      by decide +kernel⟩,
    ⟨{ leafOn with hpa := { leafOn.hpa with txq := [(2, [zTxItem])] } },
      ((((({ leafOn with hpa := { leafOn.hpa with txq := [(2, [zTxItem])] } } : State)).hpaItem 2).map (·.2)).getD leafOn),
      zTxItem, by decide +kernel, by decide +kernel, by decide +kernel, by decide +kernel, by decide +kernel,
      by decide +kernel, by decide +kernel⟩,
    ⟨0, leafOn, by decide +kernel, by decide +kernel⟩,
    ⟨qF, 0, leafOn, leafOn.took .slk 0 1 2 0, runs_by (by decide +kernel), by decide +kernel⟩,
    ⟨qF, 0, { leafOn with lanes := [(0, { Lane.rest with rxApp := [([], 0)] })] },
      ({ leafOn with lanes := [(0, { Lane.rest with rxApp := [([], 0)] })] } : State).took .slk 0 2 3 0, [], 0, [],
      runs_by (by decide +kernel), by decide +kernel⟩,
    ⟨0, [], leafOn, by decide +kernel⟩,
    ⟨0, 1, [[]], (trayOn.setFld Fd.SLK_ALT_CFG_ENABLE 0 1), by decide +kernel, by decide +kernel, by decide +kernel,
      by decide +kernel, by decide +kernel, by decide +kernel⟩⟩

theorem witness_ReductionCommands :
    (∃ (w : Nat) (m : List Byte) (lost : List Word) (s : State), s.isTray = true ∧ s.lstate w ≠ 7) ∧
    (∃ (n : Nat) (a : Accum) (s : State), (s.rdx.onTime.find? fun a => a.epoch == n) = some a ∧ s.live .rdx = true ∧
      s.timeValid = true ∧ s.closesDue.all (fun k => decide (n ≤ k)) = true) ∧
    (∃ (n : Nat) (s : State), (s.rdx.onTime.find? fun a => a.epoch == n) = none ∧ s.live .rdx = true ∧ s.timeValid = true ∧
      s.closesDue.contains n = true ∧ s.closesDue.all (fun k => decide (n ≤ k)) = true) ∧
    (∃ (q : Req) (d : Word) (s : State), s.admitsWrite q .rdx 0 0x78 d ∧ bits d.toNat 6 0 < s.wellheads) ∧
    (∃ (p : Nat) (f : List Byte) (s : State), s.isTray = true ∧ p < 2 ∧ s.live .rdx = true ∧ s.treeOn = true ∧
      (ethParse f).dst = s.fld Fd.UP_CFG_MAC p) ∧
    (∃ (q : Req) (k : Nat) (s t : State), s.runs t q .rdx 0 0 1 k ∧ k < 16384) ∧
    (∃ (q : Req) (k : Nat) (s t : State), s.runs t q .rdx 0 1 1 k ∧ k < 16) ∧
    (∃ (q : Req) (k : Nat) (s t : State), s.runs t q .rdx 0 2 1 k ∧ k < 16) ∧
    (∃ (q : Req) (k : Nat) (s t : State), s.runs t q .rdx 0 0 2 k ∧ k < 16384 ∧ t.rdx.pending = false) ∧
    (∃ (q : Req) (k : Nat) (s t : State), s.runs t q .rdx 0 1 2 k ∧ k < 16 ∧ t.rdx.pending = false) ∧
    (∃ (q : Req) (k : Nat) (s t : State), s.runs t q .rdx 0 2 2 k ∧ k < 16 ∧ t.rdx.pending = false) ∧
    (∃ (d : Nat) (ds : List Nat) (s : State), (s.rdx.tree.filter fun h => !h.sent).map (·.due) = d :: ds) :=
  ⟨⟨0, [], [], trayOn, by decide +kernel, by decide +kernel⟩,
    ⟨0, zAccum, { trayOn with rdx := { trayOn.rdx with onTime := [zAccum] } }, by decide +kernel, by decide +kernel,
      by decide +kernel, by decide +kernel⟩,
    ⟨(trayOn.fld Fd.RDX_CFG_LATE_EPOCHS), { trayOn with rdx := { trayOn.rdx with late := [zAccum] } }, by decide +kernel,
      by decide +kernel, by decide +kernel, by decide +kernel, by decide +kernel⟩,
    ⟨qF, 127, trayOn, admits_by (by decide +kernel), by decide +kernel⟩,
    ⟨0, [], (trayOn.setFld Fd.RDX_TREE_CFG_ENABLE 0 1), by decide +kernel, by decide +kernel, by decide +kernel,
      by decide +kernel, by decide +kernel⟩,
    ⟨qF, 16383, trayOn, trayOn.took .rdx 0 0 1 16383, runs_by (by decide +kernel), by decide +kernel⟩,
    ⟨qF, 15, trayOn, trayOn.took .rdx 0 1 1 15, runs_by (by decide +kernel), by decide +kernel⟩,
    ⟨qF, 15, trayOn, trayOn.took .rdx 0 2 1 15, runs_by (by decide +kernel), by decide +kernel⟩,
    ⟨qF, 16383, trayOn, trayOn.took .rdx 0 0 2 16383, runs_by (by decide +kernel), by decide +kernel, by decide +kernel⟩,
    ⟨qF, 15, trayOn, trayOn.took .rdx 0 1 2 15, runs_by (by decide +kernel), by decide +kernel, by decide +kernel⟩,
    ⟨qF, 15, trayOn, trayOn.took .rdx 0 2 2 15, runs_by (by decide +kernel), by decide +kernel, by decide +kernel⟩,
    ⟨0, [], { trayOn with rdx := { trayOn.rdx with tree := [zHeld] } }, by decide +kernel⟩⟩

theorem witness_CollectiveCommands :
    (∃ (q : Req) (d : Word) (ecc : Bool) (e : ColGrp) (s : State), s.admitsWrite q .col 0 0x50 d ∧
      s.colGrp? (bits d.toNat 3 0) = some e ∧ s.colRun? (bits d.toNat 3 0) = none ∧ s.live .col = true) ∧
    (∃ (q : Req) (d : Word) (e : ColGrp) (r : ColRun) (s : State), s.admitsWrite q .col 0 0x58 d ∧
      s.colGrp? (bits d.toNat 3 0) = some e ∧ s.colRun? (bits d.toNat 3 0) = some r) ∧
    (∃ (p : Nat) (f : List Byte) (ecc : Bool) (s : State), p < 2 ∧ s.colTakes f = true ∧ rdLE (ethParse f).body 1 1 = 0) ∧
    (∃ (p : Nat) (f : List Byte) (ecc : Bool) (s : State), p < 2 ∧ s.colTakes f = true ∧ rdLE (ethParse f).body 1 1 = 1) ∧
    (∃ (p : Nat) (f : List Byte) (ecc : Bool) (s : State), p < 2 ∧ s.colTakes f = true ∧ rdLE (ethParse f).body 1 1 = 2) ∧
    (∃ (p : Nat) (f : List Byte) (s : State), p < 2 ∧ s.colTakes f = true ∧ rdLE (ethParse f).body 1 1 = 3) ∧
    (∃ (g n : Nat) (e : ColGrp) (r : ColRun) (s : State), s.colGrp? g = some e ∧ s.col.runs.get? g = some r ∧
      (r.sends.map fun (x : ColSend) => x.resend).min? = some n) ∧
    (∃ (g : Nat) (e : ColGrp) (r : ColRun) (s : State), s.colGrp? g = some e ∧ s.colRun? g = some r ∧ r.missing e ≠ []) ∧
    (∃ (g n : Nat) (e : ColGrp) (r : ColRun) (s : State), s.colGrp? g = some e ∧ s.colRun? g = some r ∧
      (r.sends.map fun (x : ColSend) => x.first).min? = some n) ∧
    (∃ (g : Nat) (e : ColGrp) (r : ColRun) (s : State), s.colGrp? g = some e ∧ s.colRun? g = some r ∧ r.applying = true) ∧
    (∃ (g : Nat) (e : ColGrp) (r : ColRun) (s : State), s.colGrp? g = some e ∧ s.colRun? g = some r ∧ r.applying = true ∧ (
    let good := (List.range e.n).takeWhile fun k => (r.recvBlock e k).2 % 256 == 0
    let t := good.foldl (fun (s : State) k => s.colApplyBlock (r.recvBlock e k).1 (r.recvBlock e k).2) s
    good.length = e.n)) ∧
    (∃ (g : Nat) (e : ColGrp) (r : ColRun) (s : State), s.colGrp? g = some e ∧ s.colRun? g = some r ∧ r.applying = true ∧ (
    let good := (List.range e.n).takeWhile fun k => (r.recvBlock e k).2 % 256 == 0
    let t := good.foldl (fun (s : State) k => s.colApplyBlock (r.recvBlock e k).1 (r.recvBlock e k).2) s
    good.length ≠ e.n)) ∧
    (∃ (q : Req) (k : Nat) (e : ColGrp) (s t : State), s.runs t q .col 0 0 1 k ∧ k < 16 ∧ t.col.groups.get? k = some e) ∧
    (∃ (q : Req) (k : Nat) (s t : State), s.runs t q .col 0 0 2 k ∧ k < 16 ∧ t.colRun? k = none ∧ (t.colEntry k).ok = true) ∧
    (∃ (q : Req) (k : Nat) (s t : State), s.runs t q .col 0 1 1 k ∧ k < 4096) ∧
    (∃ (q : Req) (k : Nat) (s t : State), s.runs t q .col 0 1 2 k ∧ k < 4096 ∧
      ((t.col.groups.any fun (x : Nat × ColGrp) => (t.colRun? x.1).isSome && decide (x.2.first ≤ k ∧
      k < x.2.first + x.2.n)) = false)) ∧
    (∃ (q : Req) (k : Nat) (s t : State), s.runs t q .col 0 2 1 k ∧ k < 4096) :=
  ⟨⟨qF, 0, false, { zColGrp with valid := true, n := 2 },
      { trayOn with col := { trayOn.col with groups := [(0, { zColGrp with valid := true, n := 2 })] } },
      admits_by (by decide +kernel), by decide +kernel, by decide +kernel, by decide +kernel⟩,
    ⟨qF, 0, { zColGrp with valid := true, n := 2 }, zColRun,
      { trayOn with col := { trayOn.col with groups := [(0, { zColGrp with valid := true, n := 2 })], runs := [(0, zColRun)] } },
      admits_by (by decide +kernel), by decide +kernel, by decide +kernel⟩,
    ⟨0, (leBytes 12 0 ++ [136, 182] ++ [0, 0]), false, trayOn, by decide +kernel, by decide +kernel, by decide +kernel⟩,
    ⟨0, (leBytes 12 0 ++ [136, 182] ++ [0, 1]), false, trayOn, by decide +kernel, by decide +kernel, by decide +kernel⟩,
    ⟨0, (leBytes 12 0 ++ [136, 182] ++ [0, 2]), false, trayOn, by decide +kernel, by decide +kernel, by decide +kernel⟩,
    ⟨0, (leBytes 12 0 ++ [136, 182] ++ [0, 3]), trayOn, by decide +kernel, by decide +kernel, by decide +kernel⟩,
    ⟨0, 0, { zColGrp with valid := true, n := 2 }, { zColRun with sends := [zColSend] },
      { trayOn with col := { trayOn.col with groups := [(0, { zColGrp with valid := true, n := 2 })], runs := [(0, { zColRun with sends := [zColSend] })] } },
      by decide +kernel, by decide +kernel, by decide +kernel⟩,
    ⟨0, { zColGrp with valid := true, n := 2 }, zColRun,
      { trayOn with col := { trayOn.col with groups := [(0, { zColGrp with valid := true, n := 2 })], runs := [(0, zColRun)] } },
      by decide +kernel, by decide +kernel, by decide +kernel⟩,
    ⟨0, 0, { zColGrp with valid := true, n := 2 }, { zColRun with sends := [zColSend] },
      { trayOn with col := { trayOn.col with groups := [(0, { zColGrp with valid := true, n := 2 })], runs := [(0, { zColRun with sends := [zColSend] })] } },
      by decide +kernel, by decide +kernel, by decide +kernel⟩,
    ⟨0, { zColGrp with valid := true, n := 2 }, { zColRun with applying := true },
      { trayOn with col := { trayOn.col with groups := [(0, { zColGrp with valid := true, n := 2 })], runs := [(0, { zColRun with applying := true })] } },
      by decide +kernel, by decide +kernel, by decide +kernel⟩,
    ⟨0, { zColGrp with valid := true, n := 2 }, { zColRun with applying := true },
      { trayOn with col := { trayOn.col with groups := [(0, { zColGrp with valid := true, n := 2 })], runs := [(0, { zColRun with applying := true })] } },
      by decide +kernel, by decide +kernel, by decide +kernel, by decide +kernel⟩,
    ⟨0, { zColGrp with valid := true, n := 2, op := 2, recvLen := 100 },
      { zColRun with applying := true, counts := [100, 256] },
      { trayOn with col := { trayOn.col with groups := [(0, { zColGrp with valid := true, n := 2, op := 2, recvLen := 100 })], runs := [(0, { zColRun with applying := true, counts := [100, 256] })] } },
      by decide +kernel, by decide +kernel, by decide +kernel, by decide +kernel⟩,
    ⟨qF, 15, { zColGrp with valid := true, n := 2 },
      { trayOn with col := { trayOn.col with groups := [(15, { zColGrp with valid := true, n := 2 })] } },
      ({ trayOn with col := { trayOn.col with groups := [(15, { zColGrp with valid := true, n := 2 })] } } : State).took .col 0 0 1 15,
      runs_by (by decide +kernel), by decide +kernel, by decide +kernel⟩,
    ⟨qF, 15, ((trayOn.setReg ((Rg.TBL_DATA .col).nth 1) 0 (2 * 2 ^ 32 + 4094)).setReg ((Rg.TBL_DATA .col).nth 2) 0 2),
      (((trayOn.setReg ((Rg.TBL_DATA .col).nth 1) 0 (2 * 2 ^ 32 + 4094)).setReg ((Rg.TBL_DATA .col).nth 2) 0 2)).took .col 0 0 2 15,
      runs_by (by decide +kernel), by decide +kernel, by decide +kernel, by decide +kernel⟩,
    ⟨qF, 4095, trayOn, trayOn.took .col 0 1 1 4095, runs_by (by decide +kernel), by decide +kernel⟩,
    ⟨qF, 4095, trayOn, trayOn.took .col 0 1 2 4095, runs_by (by decide +kernel), by decide +kernel, by decide +kernel⟩,
    ⟨qF, 4095, trayOn, trayOn.took .col 0 2 1 4095, runs_by (by decide +kernel), by decide +kernel⟩⟩

theorem witness_CisternCommands :
    (∃ (s : State), s.fld Fd.CIS_STAT_SATURATED = 1) ∧
    (∃ (s : State), s.fld Fd.CIS_STAT_SATURATED = 1 ∧ (
    let t := s.reach (s.cis.stepAt + s.fld Fd.CIS_SAT_SLOW_STEP_MS * cyMs)
    let u := { t with cis := { t.cis with stepAt := t.aon, stepFill := t.cis.fill } }
    t.cis.fill < t.cis.stepFill)) ∧
    (∃ (s : State), s.fld Fd.CIS_STAT_SATURATED = 1 ∧ (
    let t := s.reach (s.cis.stepAt + s.fld Fd.CIS_SAT_SLOW_STEP_MS * cyMs)
    let u := { t with cis := { t.cis with stepAt := t.aon, stepFill := t.cis.fill } }
    t.cis.stepFill ≤ t.cis.fill)) ∧
    (∃ (s : State), s.fld Fd.CIS_STAT_SATURATED = 0 ∧ 0 < s.fld Fd.CIS_STAT_S) ∧
    (∃ (q : Req) (w v : Nat) (s t : State), s.runs t q .cis 0 0 1 (3 * w + v - 1) ∧ 3 * w + v - 1 < 3 * t.wellheads) ∧
    (∃ (q : Req) (w v : Nat) (s t : State), s.runs t q .cis 0 0 2 (3 * w + v - 1) ∧ 3 * w + v - 1 < 3 * t.wellheads) ∧
    (∃ (x : Ingest) (s : State), s.nextIngest = some x ∧ s.live .cis = true) :=
  ⟨⟨(trayOn.setFld Fd.CIS_STAT_SATURATED 0 1), by decide +kernel⟩,
    ⟨{ (trayOn.setFld Fd.CIS_STAT_SATURATED 0 1) with cis := { (trayOn.setFld Fd.CIS_STAT_SATURATED 0 1).cis with stepFill := 1 } },
      by decide +kernel, by decide +kernel⟩,
    ⟨(trayOn.setFld Fd.CIS_STAT_SATURATED 0 1), by decide +kernel, by decide +kernel⟩,
    ⟨(trayOn.setFld Fd.CIS_STAT_S 0 1), by decide +kernel, by decide +kernel⟩,
    ⟨qF, 127, 3, trayOn, trayOn.took .cis 0 0 1 (3 * 127 + 3 - 1), runs_by (by decide +kernel), by decide +kernel⟩,
    ⟨qF, 127, 3, trayOn, trayOn.took .cis 0 0 2 (3 * 127 + 3 - 1), runs_by (by decide +kernel), by decide +kernel⟩,
    ⟨zIngest, { trayOn with cis := { trayOn.cis with waiting := [zIngest] } }, by decide +kernel, by decide +kernel⟩⟩

theorem witness_UpPortCommands :
    (∃ (p e : Nat) (s : State), (s.up p).gateEnd = some e) ∧
    (∃ (p sub q : Nat) (x : UpItem) (r : List UpItem) (s : State), s.isTray = true ∧ p < 2 ∧ s.fld Fd.UP_STAT_LINK p = 1 ∧
      s.enabled .up p = true ∧ s.enabled .ups = true ∧ s.strictPick p sub = some q ∧ (s.up p).queues.getD q [] = x :: r) ∧
    (∃ (p sub q k : Nat) (x : UpItem) (u : UpPort) (s : State), s.isTray = true ∧ p < 2 ∧ s.fld Fd.UP_STAT_LINK p = 1 ∧
      s.enabled .up p = true ∧ s.enabled .ups = true ∧ s.strictPick p sub = none ∧ s.flt.faulted = false ∧
      drrServe (fun q => s.qcfg (32 * p + q)) (s.drrOk p sub) s.aon (2 * (s.up p).drr.length + 2) (s.up p) 0 = some (q, x, u, k)) ∧
    (∃ (p : Nat) (s : State), s.isTray = true ∧ p < 2 ∧ s.fld Fd.UP_STAT_LINK p = 1) ∧
    (∃ (p : Nat) (s : State), s.isTray = true ∧ p < 2 ∧ s.fld Fd.UP_STAT_LINK p = 0) ∧
    (∃ (q : Req) (p : Nat) (d : Word) (s : State), s.admitsWrite q .up p 0x78 d ∧ d.getLsbD 0 = true ∧ d.getLsbD 1 = false) ∧
    (∃ (q : Req) (p : Nat) (d : Word) (s : State), s.admitsWrite q .up p 0x78 d ∧ d.getLsbD 0 = false ∧ d.getLsbD 1 = true) ∧
    (∃ (p : Nat) (mac m : BitVec 48) (e : Nat) (s : State),
      (s.up p).quars.find? (fun (x : BitVec 48 × Nat) => x.1 == mac) = some (m, e) ∧ 0 < s.fld Fd.UP_QUAR_CFG_QUAR_S p) ∧
    (∃ (q : Req) (s t : State), s.runs t q .ups 0 3 2 0 ∧ (
    let d := (t.data .ups 0 1).toNat
    let len := bits (t.data .ups 0 2).toNat 47 32
    let buf := bits (t.data .ups 0 2).toNat 23 0
    14 ≤ len ∧ len ≤ t.fld Fd.UP_CFG_MTU (bits d 51 51) + 14 ∧ t.inShared buf len = true ∧ bit d 49 = false ∧
      bit d 48 = false)) ∧
    (∃ (q : Req) (p n buf k : Nat) (r : List (Nat × Nat × Nat × Nat)) (s t : State), s.runs t q .ups 0 4 3 0 ∧
      t.ups.swRx = (p, n, buf, k) :: r) :=
  ⟨⟨0, 5, { trayOn with ups := { trayOn.ups with ports := [(0, { UpPort.rest with gateEnd := some 5 })] } },
      by decide +kernel⟩,
    ⟨0, 0, 0, zUpItem, [],
      { trayOn with ups := { trayOn.ups with ports := [(0, { UpPort.rest with queues := [(0, [zUpItem])] })] } },
      by decide +kernel, by decide +kernel, by decide +kernel, by decide +kernel, by decide +kernel, by decide +kernel,
      by decide +kernel⟩,
    ⟨0, 0, 4, (drrOut.2), zUpItem, (drrOut.1), drrS, by decide +kernel, by decide +kernel, by decide +kernel,
      by decide +kernel, by decide +kernel, by decide +kernel, by decide +kernel, by decide +kernel⟩,
    ⟨0, trayOn, by decide +kernel, by decide +kernel, by decide +kernel⟩,
    ⟨0, (trayOn.setFld Fd.UP_STAT_LINK 0 0), by decide +kernel, by decide +kernel, by decide +kernel⟩,
    ⟨qF, 0, 1, trayOn, admits_by (by decide +kernel), by decide +kernel, by decide +kernel⟩,
    ⟨qF, 0, 2, trayOn, admits_by (by decide +kernel), by decide +kernel, by decide +kernel⟩,
    ⟨0, 0, 0, 5, { trayOn with ups := { trayOn.ups with ports := [(0, { UpPort.rest with quars := [(0, 5)] })] } },
      by decide +kernel, by decide +kernel⟩,
    ⟨qF, ((trayOn.setReg ((Rg.TBL_DATA .ups).nth 2) 0 (14 * 2 ^ 32)).setFld Fd.COR_SHARED_SIZE 0 1),
      (((trayOn.setReg ((Rg.TBL_DATA .ups).nth 2) 0 (14 * 2 ^ 32)).setFld Fd.COR_SHARED_SIZE 0 1)).took .ups 0 3 2 0,
      runs_by (by decide +kernel), by decide +kernel⟩,
    ⟨qF, 0, 0, 0, 0, [], { trayOn with ups := { trayOn.ups with swRx := [(0, 0, 0, 0)] } },
      ({ trayOn with ups := { trayOn.ups with swRx := [(0, 0, 0, 0)] } } : State).took .ups 0 4 3 0,
      runs_by (by decide +kernel), by decide +kernel⟩⟩

theorem witness_UpstreamTables :
    (∃ (q : Req) (k : Nat) (s t : State), s.runs t q .ups 0 0 1 k ∧ upsQueueIdx k = true) ∧
    (∃ (q : Req) (k : Nat) (s t : State), s.runs t q .ups 0 0 2 k ∧ upsQueueIdx k = true ∧ t.ups.pending = false ∧ (
    let d := (t.data .ups 0 0).toNat
    bits d 47 40 ≠ 0 ∧ bits d 29 16 ≠ 0)) ∧
    (∃ (q : Req) (k : Nat) (s t : State), s.runs t q .ups 0 1 1 k ∧ k < 32) ∧
    (∃ (q : Req) (k : Nat) (s t : State), s.runs t q .ups 0 1 2 k ∧ k < 32 ∧ t.ups.pending = false) ∧
    (∃ (q : Req) (k : Nat) (s t : State), s.runs t q .ups 0 2 1 k ∧ k < 8) ∧
    (∃ (q : Req) (k : Nat) (s t : State), s.runs t q .ups 0 2 2 k ∧ k < 8 ∧ t.ups.pending = false ∧ (
    let d := (t.data .ups 0 0).toNat
    7 ≤ bits d 52 48)) :=
  ⟨⟨qF, 63, trayOn, trayOn.took .ups 0 0 1 63, runs_by (by decide +kernel), by decide +kernel⟩,
    ⟨qF, 63, (trayOn.setReg ((Rg.TBL_DATA .ups).nth 0) 0 (2 ^ 40 + 2 ^ 16)),
      ((trayOn.setReg ((Rg.TBL_DATA .ups).nth 0) 0 (2 ^ 40 + 2 ^ 16))).took .ups 0 0 2 63, runs_by (by decide +kernel),
      by decide +kernel, by decide +kernel, by decide +kernel⟩,
    ⟨qF, 31, trayOn, trayOn.took .ups 0 1 1 31, runs_by (by decide +kernel), by decide +kernel⟩,
    ⟨qF, 31, trayOn, trayOn.took .ups 0 1 2 31, runs_by (by decide +kernel), by decide +kernel, by decide +kernel⟩,
    ⟨qF, 7, trayOn, trayOn.took .ups 0 2 1 7, runs_by (by decide +kernel), by decide +kernel⟩,
    ⟨qF, 7, (trayOn.setReg ((Rg.TBL_DATA .ups).nth 0) 0 (7 * 2 ^ 48)),
      ((trayOn.setReg ((Rg.TBL_DATA .ups).nth 0) 0 (7 * 2 ^ 48))).took .ups 0 2 2 7, runs_by (by decide +kernel),
      by decide +kernel, by decide +kernel, by decide +kernel⟩⟩

theorem witness_BuddyCommands :
    (∃ (p : Nat) (f : List Byte) (s : State), p < 2 ∧ s.budTakes f 16 = true ∧ (budParse f).flag < 2 ∧
      s.fromWard (budParse f) = true ∧ s.fromSource (budParse f) = false) ∧
    (∃ (p : Nat) (f : List Byte) (s : State), p < 2 ∧ s.budTakes f 19 = true ∧ s.fromBuddy (budParse f) = true ∧
      s.mirrorOn = true) ∧
    (∃ (p : Nat) (f : List Byte) (s : State), p < 2 ∧ s.budTakes f 16 = true ∧ (budParse f).flag = 2 ∧
      s.fromBuddy (budParse f) = true ∧ s.mirrorOn = true) ∧
    (∃ (s : State), s.mirrorOn = true ∧ s.fld Fd.BUD_STATE_MIRROR ≠ 3) ∧
    (∃ (q : Req) (d : Word) (s : State), s.admitsWrite q .bud 0 0x60 d ∧ bit d.toNat 63 = true ∧ s.live .bud = true) ∧
    (∃ (p : Nat) (f : List Byte) (s : State), p < 2 ∧ s.budTakes f 17 = true ∧ s.fromWard (budParse f) = true ∧
      s.fld Fd.BUD_STATE_HOLD_VALID = 1) ∧
    (∃ (s : State), s.isTray = true ∧ s.restoring = true) ∧
    (∃ (p : Nat) (f : List Byte) (s : State), p < 2 ∧ s.budTakes f 16 = true ∧ (budParse f).flag < 2 ∧
      s.fromSource (budParse f) = true ∧ (budParse f).cls < 3 ∧ bit (s.fld Fd.BUD_STATE_CLASSES) (budParse f).cls = false) ∧
    (∃ (p : Nat) (f : List Byte) (s : State), p < 2 ∧ s.budTakes f 18 = true ∧ s.fromSource (budParse f) = true ∧
      (budParse f).cls < 3 ∧ (
    let b := budParse f
    let l := s.bud.rx.getD b.cls []
    l.length = b.sq ∧ crc32c l.flatten = rdLE b.body 0 4)) :=
  ⟨⟨0, (leBytes 12 0 ++ [136, 181] ++ [0, 16, 0, 0] ++ leBytes 6 0), trayOn, by decide +kernel, by decide +kernel,
      by decide +kernel, by decide +kernel, by decide +kernel⟩,
    ⟨0, (leBytes 12 0 ++ [136, 181] ++ [0, 19, 0, 0] ++ leBytes 6 0), (trayOn.setFld Fd.BUD_CFG_MIRROR_EN 0 1),
      by decide +kernel, by decide +kernel, by decide +kernel, by decide +kernel⟩,
    ⟨0, (leBytes 12 0 ++ [136, 181] ++ [0, 16, 0, 2] ++ leBytes 6 0), (trayOn.setFld Fd.BUD_CFG_MIRROR_EN 0 1),
      by decide +kernel, by decide +kernel, by decide +kernel, by decide +kernel, by decide +kernel⟩,
    ⟨(trayOn.setFld Fd.BUD_CFG_MIRROR_EN 0 1), by decide +kernel, by decide +kernel⟩,
    ⟨qF, (2 ^ 63), trayOn, admits_by (by decide +kernel), by decide +kernel, by decide +kernel⟩,
    ⟨0, (leBytes 12 0 ++ [136, 181] ++ [0, 17, 0, 0] ++ leBytes 6 0), (trayOn.setFld Fd.BUD_STATE_HOLD_VALID 0 1),
      by decide +kernel, by decide +kernel, by decide +kernel, by decide +kernel⟩,
    ⟨(trayOn.setFld Fd.BUD_STATE_RSTATE 0 1), by decide +kernel, by decide +kernel⟩,
    ⟨0, (leBytes 12 0 ++ [136, 181] ++ [0, 16, 0, 0] ++ leBytes 6 0), (trayOn.setFld Fd.BUD_STATE_RSTATE 0 1),
      by decide +kernel, by decide +kernel, by decide +kernel, by decide +kernel, by decide +kernel, by decide +kernel⟩,
    ⟨0, (leBytes 12 0 ++ [136, 181] ++ [0, 18, 0, 0] ++ leBytes 6 0), (trayOn.setFld Fd.BUD_STATE_RSTATE 0 1),
      by decide +kernel, by decide +kernel, by decide +kernel, by decide +kernel, by decide +kernel⟩⟩

theorem witness_StepMarkCommands :
    (∃ (d : Word) (s : State), s.isTray = false ∧ s.live .stm = true ∧ s.fld Fd.LCM_JOB_VALID ≠ 0 ∧
      bits d.toNat 55 32 = s.job.1 ∧ s.timeValid = true ∧ s.stm.mq.length < 16) ∧
    (∃ (q : Req) (d : Word) (s : State), s.admitsWrite q .stm 0 0x48 d ∧ s.isTray = false ∧ s.live .stm = true ∧
      s.fld Fd.LCM_JOB_VALID ≠ 0 ∧ bits d.toNat 55 32 = s.job.1 ∧ s.timeValid = true ∧ s.stm.mq.length < 16) ∧
    (∃ (n stp : Nat) (r : StepRow) (s : State), (s.stmRows n).find? (fun r => r.step == stp && !r.done) = some r ∧
      s.isTray = true ∧ s.live .stm = true) ∧
    (∃ (w : Nat) (m : List Byte) (s : State), s.isTray = true) ∧
    (∃ (p : Nat) (f : List Byte) (s : State), s.isTray = true ∧ p < 2) ∧
    (∃ (m : List Byte) (s : State), s.isTray = false) :=
  ⟨⟨0, leafOn, by decide +kernel, by decide +kernel, by decide +kernel, by decide +kernel, by decide +kernel,
      by decide +kernel⟩,
    ⟨qF, 0, leafOn, admits_by (by decide +kernel), by decide +kernel, by decide +kernel, by decide +kernel,
      by decide +kernel, by decide +kernel, by decide +kernel⟩,
    ⟨0, 0, zStepRow, { trayOn with stm := { trayOn.stm with rows := [(0, [zStepRow])] } }, by decide +kernel,
      by decide +kernel, by decide +kernel⟩,
    ⟨0, [], trayOn, by decide +kernel⟩,
    ⟨0, [], trayOn, by decide +kernel, by decide +kernel⟩,
    ⟨[], leafOn, by decide +kernel⟩⟩

theorem witness_StepMarkWindows :
    (∃ (q : Req) (k : Nat) (s t : State), s.runs t q .stm 0 0 1 k ∧ t.isTray = true ∧ k < 16) ∧
    (∃ (q : Req) (k : Nat) (s t : State), s.runs t q .stm 0 0 4 k ∧ t.isTray = true ∧ k < 16) ∧
    (∃ (q : Req) (k : Nat) (s t : State), s.runs t q .stm 0 0 2 k ∧ t.isTray = true ∧ k < 16 ∧ t.stm.pending = false ∧ (
    let d := (t.data .stm 0 0).toNat
    let e := (t.data .stm 0 3).toNat
    bits d 7 0 ≠ 0 ∧ bits d 7 0 ≤ 128 ∧ bits e 15 0 ≠ 0)) ∧
    (∃ (q : Req) (m : Bytes) (r : List Bytes) (s t : State), s.runs t q .stm 0 0 3 0 ∧ t.isTray = false ∧ t.stm.nq = m :: r) ∧
    (∃ (q : Req) (k : Nat) (r : StepRow) (s t : State), s.runs t q .stm 0 1 1 k ∧ t.isTray = true ∧ k < 128 ∧
      (t.stmRows (k / 8)).find? (fun r => r.order == k % 8) = some r) ∧
    (∃ (q : Req) (k : Nat) (s t : State), s.runs t q .stm 0 2 1 k ∧ k < t.stmBases) ∧
    (∃ (q : Req) (k : Nat) (s t : State), s.runs t q .stm 0 2 2 k ∧ k < t.stmBases ∧ t.stm.pending = false ∧ (
    let d := (t.data .stm 0 0).toNat
    bits d 44 40 ≠ 0 ∧ bits d 44 40 ≤ 16 ∧ bits d 3 0 ≠ 0)) ∧
    (∃ (q : Req) (k : Nat) (c : BaseCfg) (s t : State), s.runs t q .stm 0 2 4 k ∧ k < t.stmBases ∧
      t.stm.bases.get? k = some c) :=
  ⟨⟨qF, 15, trayOn, trayOn.took .stm 0 0 1 15, runs_by (by decide +kernel), by decide +kernel, by decide +kernel⟩,
    ⟨qF, 15, trayOn, trayOn.took .stm 0 0 4 15, runs_by (by decide +kernel), by decide +kernel, by decide +kernel⟩,
    ⟨qF, 15, ((trayOn.setReg ((Rg.TBL_DATA .stm).nth 0) 0 (2 ^ 63 + 128)).setReg ((Rg.TBL_DATA .stm).nth 3) 0 1),
      (((trayOn.setReg ((Rg.TBL_DATA .stm).nth 0) 0 (2 ^ 63 + 128)).setReg ((Rg.TBL_DATA .stm).nth 3) 0 1)).took .stm 0 0 2 15,
      runs_by (by decide +kernel), by decide +kernel, by decide +kernel, by decide +kernel, by decide +kernel⟩,
    ⟨qF, [], [], { leafOn with stm := { leafOn.stm with nq := [[]] } },
      ({ leafOn with stm := { leafOn.stm with nq := [[]] } } : State).took .stm 0 0 3 0, runs_by (by decide +kernel),
      by decide +kernel, by decide +kernel⟩,
    ⟨qF, 127, { zStepRow with order := 7 },
      { trayOn with stm := { trayOn.stm with rows := [(15, [{ zStepRow with order := 7 }])] } },
      ({ trayOn with stm := { trayOn.stm with rows := [(15, [{ zStepRow with order := 7 }])] } } : State).took .stm 0 1 1 127,
      runs_by (by decide +kernel), by decide +kernel, by decide +kernel, by decide +kernel⟩,
    ⟨qF, 31, leafOn, leafOn.took .stm 0 2 1 31, runs_by (by decide +kernel), by decide +kernel⟩,
    ⟨qF, 31, (leafOn.setReg ((Rg.TBL_DATA .stm).nth 0) 0 (2 ^ 63 + 2 ^ 44 + 1)),
      ((leafOn.setReg ((Rg.TBL_DATA .stm).nth 0) 0 (2 ^ 63 + 2 ^ 44 + 1))).took .stm 0 2 2 31, runs_by (by decide +kernel),
      by decide +kernel, by decide +kernel, by decide +kernel⟩,
    ⟨qF, 31, zBaseCfg, { leafOn with stm := { leafOn.stm with bases := [(31, zBaseCfg)] } },
      ({ leafOn with stm := { leafOn.stm with bases := [(31, zBaseCfg)] } } : State).took .stm 0 2 4 31,
      runs_by (by decide +kernel), by decide +kernel, by decide +kernel⟩⟩

theorem witness_CaptureCommands :
    (∃ (q : Req) (rings : BitVec 16) (s : State), s.admitsWrite q .cap 0 0x58 (BitVec.ofNat 64 (1 * 2 ^ 60 + rings.toNat))) ∧
    (∃ (q : Req) (rings : BitVec 16) (s : State), s.admitsWrite q .cap 0 0x58 (BitVec.ofNat 64 (2 * 2 ^ 60 + rings.toNat))) ∧
    (∃ (q : Req) (rings : BitVec 16) (s : State), s.admitsWrite q .cap 0 0x58 (BitVec.ofNat 64 (3 * 2 ^ 60 + rings.toNat))) ∧
    (∃ (q : Req) (rings : BitVec 16) (s : State), s.admitsWrite q .cap 0 0x58 (BitVec.ofNat 64 (4 * 2 ^ 60 + rings.toNat))) ∧
    (∃ (q : Req) (d : Word) (s : State), s.admitsWrite q .cap 0 0x50 d) ∧
    (∃ (r : Nat) (g : Ring) (u : Upload) (s : State), s.ring? r = some g ∧ g.up = some u ∧ g.st = 4 ∧ s.mayUpload r = true ∧
      (s.isTray = true → s.routeHeld 3 = false) ∧ u.total ≤ u.offset) ∧
    (∃ (r : Nat) (g : Ring) (u : Upload) (b : Bytes) (s t : State), s.ring? r = some g ∧ g.up = some u ∧ g.st = 4 ∧
      s.mayUpload r = true ∧ (s.isTray = true → s.routeHeld 3 = false) ∧ u.offset < u.total ∧ (
    let n := min s.capChunk (u.total - u.offset)
    (s.isTray = true → (b, t) = (s.captureBytes g u.offset n, s.bytes 2 n)) ∧
    (s.isTray = false → s.ringFetch r g u.offset n = (some b, t)))) ∧
    (∃ (q : Req) (k : Nat) (s t : State), s.runs t q .cap 0 0 1 k ∧ k < t.rings) ∧
    (∃ (q : Req) (k : Nat) (s t : State), s.runs t q .cap 0 0 2 k ∧ k < t.rings ∧
      (t.cap.rings.get? k).any (fun (g : Ring) => g.st != 0) = false ∧ t.ringOk k (t.ringEntryOf k) = true) ∧
    (∃ (q : Req) (r k : Nat) (g : Ring) (s t : State), s.runs t q .cap 0 (16 + r) 1 k ∧ t.isTray = true ∧ r < 16 ∧
      t.ring? r = some g ∧ 256 * k < 2 ^ g.log2) :=
  ⟨⟨qF, 0, leafOn, admits_by (by decide +kernel)⟩,
    ⟨qF, 0, leafOn, admits_by (by decide +kernel)⟩,
    ⟨qF, 0, leafOn, admits_by (by decide +kernel)⟩,
    ⟨qF, 0, leafOn, admits_by (by decide +kernel)⟩,
    ⟨qF, 0, leafOn, admits_by (by decide +kernel)⟩,
    ⟨3, { zRing with valid := true, st := 4, up := some zUpload }, zUpload,
      { leafOn with cap := { leafOn.cap with rings := [(3, { zRing with valid := true, st := 4, up := some zUpload })] } },
      by decide +kernel, by decide +kernel, by decide +kernel, by decide +kernel, by decide +kernel, by decide +kernel⟩,
    ⟨3, { zRing with valid := true, st := 4, up := some { zUpload with total := 8 } }, { zUpload with total := 8 },
      (leBytes 8 5),
      { ({ leafOn with cap := { leafOn.cap with rings := [(3, { zRing with valid := true, st := 4, up := some { zUpload with total := 8 } })] } } : State) with pmp := { ({ leafOn with cap := { leafOn.cap with rings := [(3, { zRing with valid := true, st := 4, up := some { zUpload with total := 8 } })] } } : State).pmp with xfers := [{ carrying 9 3 (leBytes 8 5) with ranges := ({ zRing with valid := true, st := 4, up := some { zUpload with total := 8 } } : Ring).ranges 0 8 }] } },
      ((({ ({ leafOn with cap := { leafOn.cap with rings := [(3, { zRing with valid := true, st := 4, up := some { zUpload with total := 8 } })] } } : State) with pmp := { ({ leafOn with cap := { leafOn.cap with rings := [(3, { zRing with valid := true, st := 4, up := some { zUpload with total := 8 } })] } } : State).pmp with xfers := [{ carrying 9 3 (leBytes 8 5) with ranges := ({ zRing with valid := true, st := 4, up := some { zUpload with total := 8 } } : Ring).ranges 0 8 }] } } : State)).endXfer 9 3),
      by decide +kernel, by decide +kernel, by decide +kernel, by decide +kernel, by decide +kernel, by decide +kernel,
      by decide +kernel⟩,
    ⟨qF, 3, leafOn, leafOn.took .cap 0 0 1 3, runs_by (by decide +kernel), by decide +kernel⟩,
    ⟨qF, 3, ((leafOn.setReg ((Rg.TBL_DATA .cap).nth 1) 0 (16 * 2 ^ 32)).setReg ((Rg.TBL_DATA .cap).nth 3) 0 (2 * 2 ^ 56)),
      (((leafOn.setReg ((Rg.TBL_DATA .cap).nth 1) 0 (16 * 2 ^ 32)).setReg ((Rg.TBL_DATA .cap).nth 3) 0 (2 * 2 ^ 56))).took .cap 0 0 2 3,
      runs_by (by decide +kernel), by decide +kernel, by decide +kernel, by decide +kernel⟩,
    ⟨qF, 15, 255, { zRing with valid := true, log2 := 16 },
      { trayOn with cap := { trayOn.cap with rings := [(15, { zRing with valid := true, log2 := 16 })] } },
      ({ trayOn with cap := { trayOn.cap with rings := [(15, { zRing with valid := true, log2 := 16 })] } } : State).took .cap 0 (16 + 15) 1 255,
      runs_by (by decide +kernel), by decide +kernel, by decide +kernel, by decide +kernel, by decide +kernel⟩⟩

theorem witness_TraceCommands :
    (∃ (k : Nat) (s : State), s.live .htp = true ∧ (s.trSrc k).st = 1) ∧
    (∃ (src kind size : Nat) (addr data : Word) (s : State), s.chip.fitted .htp 0 = true ∧ s.live .htp = true ∧
      s.traceReady = true ∧ src < 64 ∧ (s.reg Rg.HTP_SRC_EN).getLsbD src = true ∧ kind ≤ 2 ∧ (s.trSrc src).st ≠ 2 ∧
      s.htp.dropping = false) ∧
    (∃ (s : State), s.live .htp = true ∧ s.htp.buf.length % 256 ≠ 0) ∧
    (∃ (s : State), s.live .htp = true ∧ s.primed = true ∧ 256 ≤ s.htp.buf.length ∧ s.htpRingRoom = true ∧
      s.xfer? 10 0 = none) ∧
    (∃ (cons : Nat) (s : State), s.live .htp = true ∧ s.primed = true) ∧
    (∃ (n : Nat) (s : State), s.htp.stallAt = some n ∧ s.live .htp = true ∧ s.htp.dropping = false) ∧
    (∃ (q : Req) (s : State), s.admitsWrite q .htp 0 0x70 1 ∧ s.live .htp = true) ∧
    (∃ (q : Req) (s : State), s.admitsWrite q .htp 0 0x70 2 ∧ s.live .htp = true) ∧
    (∃ (q : Req) (s : State), s.admitsWrite q .htp 0 0x70 4 ∧ s.live .htp = true ∧ s.htp.est = 3) ∧
    (∃ (q : Req) (k : Nat) (f : Filter) (s t : State), s.runs t q .htp 0 0 1 k ∧ k < 8 ∧ t.htp.filters.get? k = some f) ∧
    (∃ (q : Req) (k : Nat) (s t : State), s.runs t q .htp 0 0 2 k ∧ k < 8 ∧ (
    let f : Filter := { lo := (t.data .htp 0 0).toNat, hi := (t.data .htp 0 1).toNat, mode := bits (t.data .htp 0 2).toNat 2 0
                        kinds := BitVec.ofNat 8 (bits (t.data .htp 0 2).toNat 15 8), srcs := t.data .htp 0 3 }
    f.mode ≤ 5 ∧ f.lo ≤ f.hi)) :=
  ⟨⟨63, { leafOn with htp := { leafOn.htp with srcs := [(63, { zTrSrc with st := 1 })] } }, by decide +kernel,
      by decide +kernel⟩,
    ⟨63, 2, 0, 0, 0, (leafOn.setReg Rg.HTP_SRC_EN 0 (2 ^ 63)), by decide +kernel, by decide +kernel, by decide +kernel,
      by decide +kernel, by decide +kernel, by decide +kernel, by decide +kernel, by decide +kernel⟩,
    ⟨{ leafOn with htp := { leafOn.htp with buf := [0] } }, by decide +kernel, by decide +kernel⟩,
    ⟨{ (leafOn.setFld Fd.HTP_CFG_FILL 0 1) with htp := { (leafOn.setFld Fd.HTP_CFG_FILL 0 1).htp with buf := leBytes 256 0 } },
      by decide +kernel, by decide +kernel, by decide +kernel, by decide +kernel, by decide +kernel⟩,
    ⟨0, leafOn, by decide +kernel, by decide +kernel⟩,
    ⟨5, { leafOn with htp := { leafOn.htp with stallAt := some 5 } }, by decide +kernel, by decide +kernel,
      by decide +kernel⟩,
    ⟨qF, leafOn, admits_by (by decide +kernel), by decide +kernel⟩,
    ⟨qF, leafOn, admits_by (by decide +kernel), by decide +kernel⟩,
    ⟨qF, { leafOn with htp := { leafOn.htp with est := 3 } }, admits_by (by decide +kernel), by decide +kernel,
      by decide +kernel⟩,
    ⟨qF, 7, zFilter, { leafOn with htp := { leafOn.htp with filters := [(7, zFilter)] } },
      ({ leafOn with htp := { leafOn.htp with filters := [(7, zFilter)] } } : State).took .htp 0 0 1 7,
      runs_by (by decide +kernel), by decide +kernel, by decide +kernel⟩,
    ⟨qF, 7, leafOn, leafOn.took .htp 0 0 2 7, runs_by (by decide +kernel), by decide +kernel, by decide +kernel⟩⟩

theorem witness_ScreeningCommands :
    (∃ (due : Nat) (s : State), s.scr.nextDue = some due ∧ s.fld Fd.SCR_CFG_RUN_EN ≠ 0) ∧
    (∃ (q : Req) (s t : State), s.runs t q .scr 0 0 5 0 ∧ t.scr.load = none) ∧
    (∃ (m : List Byte) (x : Nat × Nat) (s : State), s.scr.load = some x ∧ s.carried 6 1 = some m ∧ (
    let t := { s with scr := { s.scr with load := none } }.endXfer 6 1
    t.bundleBad m = false ∧ t.authCheck m (rdLE m 8 4) = 0)) ∧
    (∃ (k inst : Nat) (l : List (Nat × Nat)) (p : ScrPat) (s : State), s.scr.run = none ∧ s.live .scr = true ∧
      s.scr.early = [] ∧ s.scr.retry = [] ∧ s.scr.queue = (k, inst) :: l ∧ s.scr.pats[k]? = some p ∧
      (¬(patUnit p.kind inst < 64 ∧ (s.reg Rg.SCR_DEGRADED).getLsbD (patUnit p.kind inst) = true)) ∧
      s.patIdle p inst false = true ∧ p.kind ≠ 5) ∧
    (∃ (worst : Nat) (r : ScrRun) (p : ScrPat) (s : State), s.scr.run = some r ∧ s.scr.pats[r.pat]? = some p ∧ p.kind = 3) ∧
    (∃ (b : List Byte) (r : ScrRun) (p : ScrPat) (s : State), s.scr.run = some r ∧ s.scr.pats[r.pat]? = some p ∧ p.kind = 4) ∧
    (∃ (q : Req) (k : Nat) (h : BitVec 32) (r : List (Nat × BitVec 32)) (s t : State), s.runs t q .scr 0 1 3 0 ∧
      t.scr.hostQ = (k, h) :: r) ∧
    (∃ (q : Req) (r : ScrRun) (p : ScrPat) (s t : State), s.runs t q .scr 0 1 2 0 ∧ (
    let k := bits (t.data .scr 0 0).toNat 15 0
    let sig := BitVec.ofNat 32 (t.data .scr 0 1).toNat
    t.scr.hostOut.find? (fun r => r.pat == k) = some r ∧ t.scr.pats[k]? = some p ∧
    r.judge (sig == p.golden) sig ((t.hostTake k).fld Fd.SCR_CFG_RETRY_N) = .pass)) ∧
    (∃ (k : Nat) (r : ScrRun) (s : State), s.scr.hostOut.find? (fun r => r.pat == k) = some r) ∧
    (∃ (q : Req) (d : Word) (s : State), s.admitsWrite q .scr 0 0x50 d ∧ d.getLsbD 0 = false ∧ d.getLsbD 1 = true) ∧
    (∃ (q : Req) (d : Word) (s : State), s.admitsWrite q .scr 0 0x50 d ∧ d.getLsbD 0 = true ∧ d.getLsbD 1 = false ∧
      s.scr.passOn = true ∧ s.scr.run = none) ∧
    (∃ (q : Req) (d : Word) (s : State), s.admitsWrite q .scr 0 0x78 d ∧ d.getLsbD 63 = true) :=
  ⟨⟨5,
      { (leafOn.setFld Fd.SCR_CFG_RUN_EN 0 1) with scr := { (leafOn.setFld Fd.SCR_CFG_RUN_EN 0 1).scr with nextDue := some 5 } },
      by decide +kernel, by decide +kernel⟩,
    ⟨qF, leafOn, leafOn.took .scr 0 0 5 0, runs_by (by decide +kernel), by decide +kernel⟩,
    ⟨bunImage, (0, 0), bunS, by decide +kernel, by decide +kernel, by decide +kernel⟩,
    ⟨0, 0, [], { zScrPat with kind := 3 },
      { leafOn with scr := { leafOn.scr with queue := [(0, 0)], pats := [{ zScrPat with kind := 3 }] } }, by decide +kernel,
      by decide +kernel, by decide +kernel, by decide +kernel, by decide +kernel, by decide +kernel, by decide +kernel,
      by decide +kernel, by decide +kernel⟩,
    ⟨0, zScrRun, { zScrPat with kind := 3 },
      { leafOn with scr := { leafOn.scr with run := some zScrRun, pats := [{ zScrPat with kind := 3 }] } },
      by decide +kernel, by decide +kernel, by decide +kernel⟩,
    ⟨[], zScrRun, { zScrPat with kind := 4 },
      { leafOn with scr := { leafOn.scr with run := some zScrRun, pats := [{ zScrPat with kind := 4 }] } },
      by decide +kernel, by decide +kernel, by decide +kernel⟩,
    ⟨qF, 0, 0, [], { leafOn with scr := { leafOn.scr with hostQ := [(0, 0)] } },
      ({ leafOn with scr := { leafOn.scr with hostQ := [(0, 0)] } } : State).took .scr 0 1 3 0, runs_by (by decide +kernel),
      by decide +kernel⟩,
    ⟨qF, zScrRun, zScrPat, { leafOn with scr := { leafOn.scr with hostOut := [zScrRun], pats := [zScrPat] } },
      ({ leafOn with scr := { leafOn.scr with hostOut := [zScrRun], pats := [zScrPat] } } : State).took .scr 0 1 2 0,
      runs_by (by decide +kernel), by decide +kernel⟩,
    ⟨0, zScrRun, { leafOn with scr := { leafOn.scr with hostOut := [zScrRun] } }, by decide +kernel⟩,
    ⟨qF, 2, leafOn, admits_by (by decide +kernel), by decide +kernel, by decide +kernel⟩,
    ⟨qF, 1, { leafOn with scr := { leafOn.scr with passOn := true } }, admits_by (by decide +kernel), by decide +kernel,
      by decide +kernel, by decide +kernel, by decide +kernel⟩,
    ⟨qF, (2 ^ 63), leafOn, admits_by (by decide +kernel), by decide +kernel⟩⟩

theorem witness_HealthRecordCommands :
    (∃ (st : NvState) (s : State), s.nvh.commit = some st ∧ s.nvh.jstep = 0) ∧
    (∃ (st : NvState) (s : State), s.nvh.commit = some st ∧ s.nvh.jstep = 4 ∧ s.nvh.commitDie ≠ s.ownDie ∧ (
    let p := s.part s.nvh.commitDie
    let t := s.setPart s.nvh.commitDie (p.setJour p.nextJour (some st) (some st.gen))
    t.ownDie = s.ownDie)) ∧
    (∃ (st : NvState) (s : State), s.nvh.commit = some st ∧ s.nvh.jstep = 7 ∧ s.nvh.commitDie = s.ownDie ∧
      s.nvh.followOn = []) ∧
    (∃ (die : Nat) (r : NvRec) (rest : List (Nat × NvRec)) (s : State), s.nvh.logQ = (die, r) :: rest) ∧
    (∃ (die : Nat) (r : NvRec) (rest : List (Nat × NvRec)) (s : State), s.nvh.logQ = (die, r) :: rest) ∧
    (∃ (q : Req) (die k : Nat) (r : NvRec) (s t : State), s.runs t q .nvh 0 (die % 16 * 16) 1 k ∧ t.nvOwner = true ∧
      t.dieOk (die % 16) = true ∧ k < t.logSectors * 128 ∧ (t.part (die % 16)).log[k]? = some (some r)) ∧
    (∃ (q : Req) (r : NvRec) (rs : List NvRec) (s t : State), s.runs t q .nvh 0 1 3 0 ∧ t.nvh.fwdQ = r :: rs) ∧
    (∃ (q : Req) (r : NvRec) (s t : State), s.runs t q .nvh 0 1 2 0 ∧ t.nvOwner = true ∧
      NvRec.ofBytes? (t.dataBytes .nvh 0 32) = some r ∧ t.isTray = false ∧ r.die ≠ t.ownDie ∧ t.dieOk r.die = true ∧
      t.nvh.lastSeq.getD r.die 0 ≤ r.seq) ∧
    (∃ (q : Req) (k : Nat) (st : NvState) (s t : State), s.runs t q .nvh 0 2 1 k ∧ t.nvOwner = true ∧
      t.dieOk (k / 4) = true ∧ (t.part (k / 4)).valid = some st) ∧
    (∃ (q : Req) (k : Nat) (s t : State), s.runs t q .nvh 0 2 2 k ∧ t.nvOwner = false ∧ t.nvh.written = false ∧
      k / 4 = t.chip.pkgDieIdx ∧ (
    let u := { t with nvh := { t.nvh with stage := t.nvh.stage.set (k % 4) (t.dataBytes .nvh 0 256) } }
    u.nvh.stage.length < 4)) :=
  ⟨⟨NvState.empty, { leafOn with nvh := { leafOn.nvh with commit := some NvState.empty } }, by decide +kernel,
      by decide +kernel⟩,
    ⟨NvState.empty, { leafOn with nvh := { leafOn.nvh with commit := some NvState.empty, jstep := 4, commitDie := 1 } },
      by decide +kernel, by decide +kernel, by decide +kernel, by decide +kernel⟩,
    ⟨NvState.empty, { leafOn with nvh := { leafOn.nvh with commit := some NvState.empty, jstep := 7 } }, by decide +kernel,
      by decide +kernel, by decide +kernel, by decide +kernel⟩,
    ⟨0, zNvRec, [], { leafOn with nvh := { leafOn.nvh with logQ := [(0, zNvRec)] } }, by decide +kernel⟩,
    ⟨0, zNvRec, [], { leafOn with nvh := { leafOn.nvh with logQ := [(0, zNvRec)] } }, by decide +kernel⟩,
    ⟨qF, 0, 0, zNvRec,
      { leafOn with nvh := { leafOn.nvh with parts := [(0, { NorPart.empty with log := [some zNvRec] })] } },
      ({ leafOn with nvh := { leafOn.nvh with parts := [(0, { NorPart.empty with log := [some zNvRec] })] } } : State).took .nvh 0 (0 % 16 * 16) 1 0,
      runs_by (by decide +kernel), by decide +kernel, by decide +kernel, by decide +kernel, by decide +kernel⟩,
    ⟨qF, zNvRec, [], { leafOn with nvh := { leafOn.nvh with fwdQ := [zNvRec] } },
      ({ leafOn with nvh := { leafOn.nvh with fwdQ := [zNvRec] } } : State).took .nvh 0 1 3 0, runs_by (by decide +kernel),
      by decide +kernel⟩,
    ⟨qF, { zNvRec with die := 1 },
      ((({ leafOn with chip := { leafOn.chip with pkgDies := 2 } } : State).setReg ((Rg.TBL_DATA .nvh).nth 0) 0 (2 ^ 40)).setReg ((Rg.TBL_DATA .nvh).nth 3) 0 (0x821a3751 * 2 ^ 32)),
      (((({ leafOn with chip := { leafOn.chip with pkgDies := 2 } } : State).setReg ((Rg.TBL_DATA .nvh).nth 0) 0 (2 ^ 40)).setReg ((Rg.TBL_DATA .nvh).nth 3) 0 (0x821a3751 * 2 ^ 32))).took .nvh 0 1 2 0,
      runs_by (by decide +kernel), by decide +kernel, by decide +kernel, by decide +kernel, by decide +kernel,
      by decide +kernel, by decide +kernel⟩,
    ⟨qF, 3, NvState.empty,
      { leafOn with nvh := { leafOn.nvh with parts := [(0, { NorPart.empty with copyA := some NvState.empty })] } },
      ({ leafOn with nvh := { leafOn.nvh with parts := [(0, { NorPart.empty with copyA := some NvState.empty })] } } : State).took .nvh 0 2 1 3,
      runs_by (by decide +kernel), by decide +kernel, by decide +kernel, by decide +kernel⟩,
    ⟨qF, 4, { leafOn with chip := { leafOn.chip with pkgDieIdx := 1, pkgDies := 2 } },
      ({ leafOn with chip := { leafOn.chip with pkgDieIdx := 1, pkgDies := 2 } } : State).took .nvh 0 2 2 4,
      runs_by (by decide +kernel), by decide +kernel, by decide +kernel, by decide +kernel, by decide +kernel⟩⟩

theorem witness_FaultCommands :
    (∃ (n : Nat) (s : State), (s.src n).active = true ∧ (s.src n).acked = true) ∧
    (∃ (q : Req) (k : Nat) (d : Word) (s : State), s.admitsWrite q .flt 0 (0x500 + 8 * k) d) ∧
    (∃ (q : Req) (k : Nat) (d : Word) (s : State), s.admitsWrite q .flt 0 (0x900 + 8 * k) d) ∧
    (∃ (q : Req) (k : Nat) (d : Word) (s : State), s.admitsWrite q .flt 0 (0x100 + 8 * k) d) ∧
    (∃ (q : Req) (k : Nat) (s t : State), s.runs t q .flt 0 0 1 k ∧ k < srcCount t.chip.role) ∧
    (∃ (q : Req) (k : Nat) (s t : State), s.runs t q .flt 0 0 2 k ∧ k < srcCount t.chip.role ∧
      (srcOf t.chip.role k).isSome = true ∧ (
    let d := (t.data .flt 0 0).toNat
    bits d 58 56 ≤ 5 ∧ bits d 50 48 ≤ 5)) ∧
    (∃ (q : Req) (k l c : Nat) (u : UnitKind) (s t : State), s.runs t q .flt 0 1 1 k ∧ k < srcCount t.chip.role ∧
      srcOf t.chip.role k = some (u, c, l)) ∧
    (∃ (q : Req) (d : Word) (s : State), s.admitsWrite q .flt 0 0x70 d ∧ d.getLsbD 0 = true) ∧
    (∃ (q : Req) (n : Nat) (r : EvrRec) (s t : State), s.runs t q .evr 0 0 1 n ∧
      (t.evr.recs.find? fun r => r.seq = n) = some r) ∧
    (∃ (q : Req) (d : Word) (s : State), s.admitsWrite q .evr 0 0x58 d ∧
      wrapI (bits d.toNat 31 0 - s.fld Fd.EVR_TAIL_SEQ) 32 ≤ wrapI (s.fld Fd.EVR_HEAD_SEQ - s.fld Fd.EVR_TAIL_SEQ) 32) ∧
    (∃ (q : Req) (n g : Nat) (s : State), s.admitsRead q .irc 0 (0x1C0 + 8 * n) ∧ bestGroup s.prio (s.claimable n) = some g) ∧
    (∃ (q : Req) (d : Word) (n : Nat) (rest : List Nat) (s : State), s.admitsWrite q .irc 0 0x1E0 d ∧
      s.stack (bits d.toNat 9 8) = n :: rest ∧ s.prio (bits d.toNat 3 0) = n) ∧
    (∃ (g n : Nat) (s : State), s.irc.holdoffs.get? g = some n) ∧
    (∃ (q : Req) (g : Nat) (d : Word) (s : State), s.admitsWrite q .irc 0 (0x48 + 16 * g) d) :=
  ⟨⟨255, { leafOn with flt := { leafOn.flt with srcs := [(255, { zSrc with active := true, acked := true })] } },
      by decide +kernel, by decide +kernel⟩,
    ⟨qF, 3, 0, leafOn, admits_by (by decide +kernel)⟩,
    ⟨qF, 3, 0, leafOn, admits_by (by decide +kernel)⟩,
    ⟨qF, 3, 0, leafOn, admits_by (by decide +kernel)⟩,
    ⟨qF, 255, leafOn, leafOn.took .flt 0 0 1 255, runs_by (by decide +kernel), by decide +kernel⟩,
    ⟨qF, 0, leafOn, leafOn.took .flt 0 0 2 0, runs_by (by decide +kernel), by decide +kernel, by decide +kernel,
      by decide +kernel⟩,
    ⟨qF, 0, 0, 0, .dir, leafOn, leafOn.took .flt 0 1 1 0, runs_by (by decide +kernel), by decide +kernel, by decide +kernel⟩,
    ⟨qF, 1, leafOn, admits_by (by decide +kernel), by decide +kernel⟩,
    ⟨qF, 0, zEvrRec, { leafOn with evr := { leafOn.evr with recs := [zEvrRec] } },
      ({ leafOn with evr := { leafOn.evr with recs := [zEvrRec] } } : State).took .evr 0 0 1 0, runs_by (by decide +kernel),
      by decide +kernel⟩,
    ⟨qF, 0, leafOn, admits_by (by decide +kernel), by decide +kernel⟩,
    ⟨qF, 3, 0, ((leafOn.setReg (Rg.IRC_PEND 0) 0 1).setReg (Rg.IRC_MASK 0) 0 1), admits_by (by decide +kernel),
      by decide +kernel⟩,
    ⟨qF, 0, 7, [], { leafOn with irc := { leafOn.irc with prioStk := [(0, [7])] } }, admits_by (by decide +kernel),
      by decide +kernel, by decide +kernel⟩,
    ⟨15, 5, { leafOn with irc := { leafOn.irc with holdoffs := [(15, 5)] } }, by decide +kernel⟩,
    ⟨qF, 2, 0, leafOn, admits_by (by decide +kernel)⟩⟩

theorem witness_PerformanceCommands :
    (∃ (q : Req) (d : Word) (s : State), s.admitsWrite q .pmu 0 0x48 (d ||| 1) ∧ d.getLsbD 1 = false) ∧
    (∃ (q : Req) (d : Word) (s : State), s.admitsWrite q .pmu 0 0x48 (d ||| 2) ∧ d.getLsbD 0 = false) ∧
    (∃ (q : Req) (k : Nat) (s t : State), s.runs t q .pmu 0 0 1 k ∧ (1 ≤ q.priv.toNat ∨ (t.pctr k).cfg.getLsbD 62 = true) ∧
      k < t.pctrs) ∧
    (∃ (q : Req) (k : Nat) (s t : State), s.runs t q .pmu 0 0 4 k ∧ (1 ≤ q.priv.toNat ∨ (t.pctr k).cfg.getLsbD 62 = true) ∧
      k < t.pctrs) ∧
    (∃ (q : Req) (k : Nat) (s t : State), s.runs t q .pmu 0 0 2 k ∧ 1 ≤ q.priv.toNat ∧ k < t.pctrs ∧ (
    let c := t.data .pmu 0 0 &&& 0xC000FFFFFF00FFFF
    t.pctrOk c.toNat = true)) ∧
    (∃ (q : Req) (k : Nat) (s t : State), s.runs t q .pmu 0 1 1 k ∧ 1 ≤ q.priv.toNat ∧ (k < 8 ∨ (16 ≤ k ∧
      k ≤ 24) ∨ (t.isTray = true ∧ ((64 ≤ k ∧ k < 64 + 2 * t.pmuWells) ∨ (320 ≤ k ∧ k < 324))))) ∧
    (∃ (q : Req) (k : Nat) (s t : State), s.runs t q .pmu 0 2 1 k ∧ 1 ≤ q.priv.toNat ∧ k < 32) ∧
    (∃ (q : Req) (p : Nat) (s t : State), s.runs t q .pmu 0 3 1 p ∧ 1 ≤ q.priv.toNat ∧ t.pmuPorts.contains p = true) ∧
    (∃ (q : Req) (k : Nat) (x : Nat × List Word) (s t : State), s.runs t q .pmu 0 4 1 k ∧ 1 ≤ q.priv.toNat ∧
      (t.pmu.log.find? fun (x : Nat × List Word) => x.1 % 2 ^ 32 == k) = some x) ∧
    (∃ (s : State), s.timeValid = true ∧ s.fld Fd.PMU_CFG_WIN_US ≠ 0 ∧ s.pmu.winUs = s.fld Fd.PMU_CFG_WIN_US) ∧
    (∃ (q : Req) (d : Word) (s : State), s.admitsWrite q .pmu 0 0x60 d ∧ d.getLsbD 63 = true ∧
      s.replayResult (bits d.toNat 59 56) (bits d.toNat 62 60) (bits d.toNat 55 40) = 0) :=
  ⟨⟨qF, 0, leafOn, admits_by (by decide +kernel), by decide +kernel⟩,
    ⟨qF, 0, leafOn, admits_by (by decide +kernel), by decide +kernel⟩,
    ⟨qF, 15, leafOn, leafOn.took .pmu 0 0 1 15, runs_by (by decide +kernel), by decide +kernel, by decide +kernel⟩,
    ⟨qF, 15, leafOn, leafOn.took .pmu 0 0 4 15, runs_by (by decide +kernel), by decide +kernel, by decide +kernel⟩,
    ⟨qF, 15, (leafOn.setReg ((Rg.TBL_DATA .pmu).nth 0) 0 (0x17 * 2 ^ 32 + 0 + 1)),
      ((leafOn.setReg ((Rg.TBL_DATA .pmu).nth 0) 0 (0x17 * 2 ^ 32 + 0 + 1))).took .pmu 0 0 2 15, runs_by (by decide +kernel),
      by decide +kernel, by decide +kernel, by decide +kernel⟩,
    ⟨qF, 24, trayOn, trayOn.took .pmu 0 1 1 24, runs_by (by decide +kernel), by decide +kernel, by decide +kernel⟩,
    ⟨qF, 31, leafOn, leafOn.took .pmu 0 2 1 31, runs_by (by decide +kernel), by decide +kernel, by decide +kernel⟩,
    ⟨qF, 0, leafOn, leafOn.took .pmu 0 3 1 0, runs_by (by decide +kernel), by decide +kernel, by decide +kernel⟩,
    ⟨qF, 0, (0, []), { leafOn with pmu := { leafOn.pmu with log := [(0, [])] } },
      ({ leafOn with pmu := { leafOn.pmu with log := [(0, [])] } } : State).took .pmu 0 4 1 0, runs_by (by decide +kernel),
      by decide +kernel, by decide +kernel⟩,
    ⟨{ leafOn with pmu := { leafOn.pmu with winUs := leafOn.fld Fd.PMU_CFG_WIN_US } }, by decide +kernel, by decide +kernel,
      by decide +kernel⟩,
    ⟨qF, (2 ^ 63),
      { leafOn with mxe := [(0, { Mxe.rest with slots := [(0, { MSlot.rest with valid := true, ctxAddr := 0, nInstr := 1 })] })] },
      admits_by (by decide +kernel), by decide +kernel, by decide +kernel⟩⟩

theorem witness_ResetCommands :
    (∃ (s : State), s.lcm.bootDone = false ∧ s.fld Fd.LCM_STATE_PHASE = 2 ∧ s.pwr.boot = false ∧ s.isTray = false) ∧
    (∃ (s : State), s.lcm.bootDone = false ∧ s.fld Fd.LCM_STATE_PHASE = 2 ∧ s.pwr.boot = false ∧ s.isTray = true) ∧
    (∃ (s : State), s.lcm.bootDone = false ∧ s.lcm.lcNew = none ∧ s.fld Fd.LCM_STATE_PHASE = 3 ∧ s.isTray = false) ∧
    (∃ (s : State) (n : Nat), s.lcm.bootDone = false ∧ s.lcm.lcNew = some n ∧ s.lcm.funcReset = false) ∧
    (∃ (s : State), s.nvOwner = true ∧ s.lcm.bootDone = false ∧ s.lcm.nvCase = 0 ∧
      (s.fld Fd.LCM_STATE_PHASE = 3 ∨ s.fld Fd.LCM_STATE_PHASE = 4)) ∧
    (∃ (s : State), s.nvOwner = true ∧ s.lcm.bootDone = false ∧ s.lcm.nvCase = 0 ∧
      (s.fld Fd.LCM_STATE_PHASE = 3 ∨ s.fld Fd.LCM_STATE_PHASE = 4)) ∧
    (∃ (s : State), s.lcm.bootDone = false ∧ s.fld Fd.LCM_STATE_PHASE = 4 ∧ (¬(s.nvOwner = true ∧ s.lcm.nvCase = 0))) ∧
    (∃ (s : State), s.lcm.funcReset = true ∧ s.lcm.lcNew = none) ∧
    (∃ (s : State) (n : Nat), s.lcm.funcReset = true ∧ s.lcm.lcNew = some n) ∧
    (∃ (q : Req) (k : Nat) (s t : State), s.runs t q .lcm 0 0 1 k ∧ t.lcm.otp.busy = none ∧ k < 4) ∧
    (∃ (q : Req) (k : Nat) (s t : State), s.runs t q .lcm 0 0 2 k ∧ t.lcm.otp.busy = none ∧ (
    let d := if k < 4 then hashOf ((List.range 6).map fun n => t.data .lcm 0 n) else (t.data .lcm 0 0).zeroExtend 384
    t.lcm.otp.refuses t.lcm.lcState k d = 0)) ∧
    (∃ (k e : Nat) (d : BitVec 384) (s : State), s.lcm.otp.busy = some (k, d, e) ∧ (
    let t := s.reach e
    let u := { t with lcm := { t.lcm with otp := { t.lcm.otp.program k d with busy := none } } }
    u.fld (Fd.TBL_STAT_BUSY .lcm) = 1)) :=
  ⟨⟨(State.reset.setFld Fd.LCM_STATE_PHASE 0 2), by decide +kernel, by decide +kernel, by decide +kernel, by decide +kernel⟩,
    ⟨(({ State.reset with chip := trayOn.chip } : State).setFld Fd.LCM_STATE_PHASE 0 2), by decide +kernel,
      by decide +kernel, by decide +kernel, by decide +kernel⟩,
    ⟨(State.reset.setFld Fd.LCM_STATE_PHASE 0 3), by decide +kernel, by decide +kernel, by decide +kernel, by decide +kernel⟩,
    ⟨{ State.reset with lcm := { State.reset.lcm with lcNew := some 1 } }, 1, by decide +kernel, by decide +kernel,
      by decide +kernel⟩,
    ⟨(State.reset.setFld Fd.LCM_STATE_PHASE 0 3), by decide +kernel, by decide +kernel, by decide +kernel, by decide +kernel⟩,
    ⟨(State.reset.setFld Fd.LCM_STATE_PHASE 0 4), by decide +kernel, by decide +kernel, by decide +kernel, by decide +kernel⟩,
    ⟨{ (State.reset.setFld Fd.LCM_STATE_PHASE 0 4) with lcm := { (State.reset.setFld Fd.LCM_STATE_PHASE 0 4).lcm with nvCase := 1 } },
      by decide +kernel, by decide +kernel, by decide +kernel⟩,
    ⟨{ leafOn with lcm := { leafOn.lcm with funcReset := true } }, by decide +kernel, by decide +kernel⟩,
    ⟨{ leafOn with lcm := { leafOn.lcm with funcReset := true, lcNew := some 1 } }, 1, by decide +kernel, by decide +kernel⟩,
    ⟨qF, 3, leafOn, leafOn.took .lcm 0 0 1 3, runs_by (by decide +kernel), by decide +kernel, by decide +kernel⟩,
    ⟨qF, 3, leafOn, leafOn.took .lcm 0 0 2 3, runs_by (by decide +kernel), by decide +kernel, by decide +kernel⟩,
    ⟨0, 5, 0,
      { (State.reset.setFld (Fd.TBL_STAT_BUSY .lcm) 0 1) with lcm := { (State.reset.setFld (Fd.TBL_STAT_BUSY .lcm) 0 1).lcm with otp := { zOtp with busy := some (0, 0, 5) } } },
      by decide +kernel, by decide +kernel⟩⟩

theorem witness_LifeCycleCommands :
    (∃ (q : Req) (s : State) (op : Nat), (op = 1 ∨ op = 2 ∨ op = 3 ∨ op = 4 ∨ op = 8 ∨ op = 9) ∧
      s.admitsWrite q .lcm 0 0x58 (BitVec.ofNat 64 (0xC0DE * 2 ^ 48 + op))) ∧
    (∃ (c : LcmCmd) (cs : List LcmCmd) (s : State), s.lcm.cmd = c :: cs ∧ c.ahead = 0 ∧
      (∀ e, s.lcm.windowEnd = some e → c.due ≤ e)) :=
  ⟨⟨qF, leafOn, 9, by decide +kernel, admits_by (by decide +kernel)⟩,
    ⟨zLcmCmd, [], { leafOn with lcm := { leafOn.lcm with cmd := [zLcmCmd] } }, by decide +kernel, by decide +kernel,
      by decide +kernel⟩⟩

theorem witness_CommitCommands :
    (∃ (q : Req) (s : State), s.admitsWrite q .lcm 0 0x450 1 ∧ s.fld Fd.LCM_CTRL_ARM = 0 ∧ s.armCheck = 0) ∧
    (∃ (q : Req) (s : State), s.admitsWrite q .lcm 0 0x850 1 ∧ s.fld Fd.LCM_CTRL_ARM = 1) ∧
    (∃ (q : Req) (d : Word) (s : State), s.admitsWrite q .lcm 0 0x48 d ∧ s.fld Fd.LCM_CTRL_ARM = 0) ∧
    (∃ (s : State), s.fld Fd.LCM_STATE_CSTATE = 1 ∧ s.timeValid = true) ∧
    (∃ (s : State), s.fld Fd.LCM_STATE_CSTATE = 1 ∧ s.timeValid = true ∧ (
    let b := s.aon + s.edgesTo (s.boundary (s.fld Fd.LCM_COMMIT_TARGET))
    let t := s.reach (b - 200)
    t.bgPending = true)) ∧
    (∃ (s : State), s.fld Fd.LCM_STATE_CSTATE = 1 ∧ s.timeValid = true ∧ (
    let b := s.aon + s.edgesTo (s.boundary (s.fld Fd.LCM_COMMIT_TARGET))
    let t := s.reach (b - 200)
    t.bgPending = false)) ∧
    (∃ (e : Nat) (s : State), s.lcm.windowEnd = some e ∧ s.lcm.commitNow = true) :=
  ⟨⟨qF, (leafOn.setFld Fd.LCM_COMMIT_TARGET 0 100), admits_by (by decide +kernel), by decide +kernel, by decide +kernel⟩,
    ⟨qF, (leafOn.setFld Fd.LCM_CTRL_ARM 0 1), admits_by (by decide +kernel), by decide +kernel⟩,
    ⟨qF, 0, leafOn, admits_by (by decide +kernel), by decide +kernel⟩,
    ⟨(leafOn.setFld Fd.LCM_STATE_CSTATE 0 1), by decide +kernel, by decide +kernel⟩,
    ⟨{ (leafOn.setFld Fd.LCM_STATE_CSTATE 0 1) with eft := { (leafOn.setFld Fd.LCM_STATE_CSTATE 0 1).eft with rehash := true } },
      by decide +kernel, by decide +kernel, by decide +kernel⟩,
    ⟨(leafOn.setFld Fd.LCM_STATE_CSTATE 0 1), by decide +kernel, by decide +kernel, by decide +kernel⟩,
    ⟨5, { leafOn with lcm := { leafOn.lcm with windowEnd := some 5, commitNow := true } }, by decide +kernel,
      by decide +kernel⟩⟩

theorem witness_StepTakesFront :
    ∃ (c : Instr) (rest : List Instr) (s : State), s.pending = c :: rest :=
  ⟨.slewEnd, [], { leafOn with pending := [.slewEnd] }, by decide +kernel⟩

theorem witness_QueueOrder :
    (∃ (c : Instr) (rest : List Instr) (s : State), s.pending = c :: rest) ∧
    (∃ (s : State), s.pending = []) :=
  ⟨⟨.slewEnd, [], { leafOn with pending := [.slewEnd] }, by decide +kernel⟩,
    ⟨leafOn, by decide +kernel⟩⟩

theorem witness_RoleFixed :
    ∃ (s t : State), (∀ st rest, s.pending ≠ .powerOnReset st :: rest) ∧ step s = .next t :=
  ⟨State.reset, (State.reset.advance 1),
    (by intro st rest h; have h2 : ([] : List Instr) = Instr.powerOnReset st :: rest := h; cases h2), (rfl)⟩

theorem witness_StepKeepsInvariant :
    ∃ (s t : State), s.memOk ∧ s.chip.legal ∧ step s = .next t :=
  ⟨State.reset, (State.reset.advance 1), by unfold State.memOk; decide +kernel,
    (⟨by decide +kernel, by decide +kernel, by decide +kernel⟩), (rfl)⟩

theorem witness_StoredBytes :
    (∃ (c idx k : Nat) (data : List Byte) (d : PDesc) (s : State), ((s.chan c).descs.find? (fun d => d.index = idx ∧
      d.out.contains k) = some d) ∧ d.op = 1) ∧
    (∃ (c idx k : Nat) (data : List Byte) (err : Bool) (d : PDesc) (s : State),
      ((s.chan c).descs.find? (fun d => d.index = idx ∧ d.out.contains k) = some d) ∧ (err = true ∨ d.op ≠ 1)) :=
  ⟨⟨0, 0, 0, [], { zPDesc with bytes := leBytes 64 (2 ^ 160 + 256 * 2 ^ 128), out := [0] },
      { leafOn with pmp := { leafOn.pmp with chans := [(0, { zChan with tagMax := 8, log2 := 4, descs := [{ zPDesc with bytes := leBytes 64 (2 ^ 160 + 256 * 2 ^ 128), out := [0] }] })] } },
      by decide +kernel, by decide +kernel⟩,
    ⟨0, 0, 0, [], true, { zPDesc with bytes := leBytes 64 (2 ^ 160 + 256 * 2 ^ 128), out := [0] },
      { leafOn with pmp := { leafOn.pmp with chans := [(0, { zChan with tagMax := 8, log2 := 4, descs := [{ zPDesc with bytes := leBytes 64 (2 ^ 160 + 256 * 2 ^ 128), out := [0] }] })] } },
      by decide +kernel, by decide +kernel⟩⟩

theorem witness_AbsentPages :
    (∃ (r : Role) (u : UnitKind) (i p : Nat), unitPage r u i = some p) ∧
    (∃ (a : Access) (u : UnitKind) (i : Nat) (s : State), pageUnit s.chip.role (a.addr.toNat / 4096) = some (u, i) ∧
      s.chip.fitted u i = false ∧ s.behind a = false ∧ (a.path = .host → requestCheck a = a.chk)) :=
  ⟨⟨.leaf, .irc, 0, 4, by decide +kernel⟩,
    ⟨⟨.mgmt, 0x10000, true, false, 2, 0, 0⟩, .mxe, 0, { leafOn with chip := { leafOn.chip with full := false } },
      by decide +kernel, by decide +kernel, by decide +kernel, by decide +kernel⟩⟩

theorem witness_ReadOnlyWrites :
    ∃ (a : Access) (u : UnitKind) (i : Nat) (s : State), pageUnit s.chip.role (a.addr.toNat / 4096) = some (u, i) ∧
      s.admits a u i (a.addr.toNat % 4096) ∧ a.write = true ∧ accAt u (a.addr.toNat % 4096) = some .ro ∧
      (¬(a.addr.toNat % 4096 = 0xC08 ∧ s.fld (Fd.TBL_STAT_BUSY u) i = 1)) :=
  ⟨⟨.mgmt, 0x4000, true, false, 2, 0, 0⟩, .irc, 0, leafOn, by decide +kernel, admits_by (by decide +kernel),
    by decide +kernel, by decide +kernel, by decide +kernel⟩

theorem witness_WindowBusy :
    ∃ (a : Access) (u : UnitKind) (i : Nat) (s : State), pageUnit s.chip.role (a.addr.toNat / 4096) = some (u, i) ∧
      s.admits a u i (a.addr.toNat % 4096) ∧ a.write = true ∧ hasWindow u = true ∧ 0xC00 ≤ a.addr.toNat % 4096 ∧
      a.addr.toNat % 4096 < 0xD40 ∧ s.fld (Fd.TBL_STAT_BUSY u) i = 1 :=
  ⟨⟨.mgmt, 0x5C40, true, false, 2, 0, 0⟩, .flt, 0, (leafOn.setFld (Fd.TBL_STAT_BUSY .flt) 0 1), by decide +kernel,
    admits_by (by decide +kernel), by decide +kernel, by decide +kernel, by decide +kernel, by decide +kernel,
    by decide +kernel⟩

theorem witness_NotPrimed :
    ∃ (a : Access) (u : UnitKind) (i : Nat) (s : State), pageUnit s.chip.role (a.addr.toNat / 4096) = some (u, i) ∧
      s.admits a u i (a.addr.toNat % 4096) ∧ a.write = true ∧ fastUnit u = true ∧ a.addr.toNat % 4096 = 0xC00 ∧
      bits a.wdata.toNat 7 0 ≠ 0 ∧ s.fld (Fd.TBL_STAT_BUSY u) i = 0 ∧ s.primed = false :=
  ⟨⟨.mgmt, 0xCC00, true, false, 2, 1, 0⟩, .cor, 0, (leafOn.setFld Fd.PWR_STATE_STATE 0 0), by decide +kernel,
    admits_by (by decide +kernel), by decide +kernel, by decide +kernel, by decide +kernel, by decide +kernel,
    by decide +kernel, by decide +kernel⟩

theorem witness_PowerConfigRange :
    (∃ (a : Access) (s : State), pageUnit s.chip.role (a.addr.toNat / 4096) = some (.pwr, 0) ∧ a.addr.toNat % 4096 = 0x58 ∧
      s.admits a .pwr 0 0x58 ∧ a.write = true ∧ s.isTray = false ∧
      (1000 < bits a.wdata.toNat 25 16 ∨ bits a.wdata.toNat 35 32 = 0 ∨ bits a.wdata.toNat 51 40 = 0)) ∧
    (∃ (a : Access) (s : State), pageUnit s.chip.role (a.addr.toNat / 4096) = some (.pwr, 0) ∧ a.addr.toNat % 4096 = 0x58 ∧
      s.admits a .pwr 0 0x58 ∧ a.write = true ∧ s.isTray = false ∧ s.fld (Fd.PG_CTRL_COMMIT_MODE .pwr) = 0 ∧
      bits a.wdata.toNat 25 16 ≤ 1000 ∧ bits a.wdata.toNat 35 32 ≠ 0 ∧ bits a.wdata.toNat 51 40 ≠ 0) :=
  ⟨⟨⟨.mgmt, 0x2058, true, false, 2, 0x10103E90000, 0⟩, leafOn, by decide +kernel, by decide +kernel,
      admits_by (by decide +kernel), by decide +kernel, by decide +kernel, by decide +kernel⟩,
    ⟨⟨.mgmt, 0x2058, true, false, 2, 0x10103E80000, 0⟩, leafOn, by decide +kernel, by decide +kernel,
      admits_by (by decide +kernel), by decide +kernel, by decide +kernel, by decide +kernel, by decide +kernel,
      by decide +kernel, by decide +kernel⟩⟩

theorem witness_ClaimHighest :
    (∃ (q : Req) (n g : Nat) (s : State), n < 4 ∧ s.admitsRead q .irc 0 (0x1C0 + 8 * n) ∧ s.qualifies n g ∧
      (∀ h, s.qualifies n h → s.prio h < s.prio g ∨ s.prio h = s.prio g ∧ g ≤ h)) ∧
    (∃ (q : Req) (n : Nat) (s : State), n < 4 ∧ s.admitsRead q .irc 0 (0x1C0 + 8 * n) ∧ (∀ h, ¬s.qualifies n h)) ∧
    (∃ (g : Nat) (s : State), g < 16) :=
  ⟨⟨qF, 3, 0, ((leafOn.setReg (Rg.IRC_PEND 0) 0 1).setReg (Rg.IRC_MASK 0) 0 1), by decide +kernel, admits_by (by decide +kernel), (by unfold State.qualifies; decide +kernel), (by
    intro h hq
    exact (by decide +kernel : ∀ h < 16, ((((leafOn.setReg (Rg.IRC_PEND 0) 0 1).setReg (Rg.IRC_MASK 0) 0 1))).eligible h = true → ((((leafOn.setReg (Rg.IRC_PEND 0) 0 1).setReg (Rg.IRC_MASK 0) 0 1))).prio h < ((((leafOn.setReg (Rg.IRC_PEND 0) 0 1).setReg (Rg.IRC_MASK 0) 0 1))).prio 0 ∨ ((((leafOn.setReg (Rg.IRC_PEND 0) 0 1).setReg (Rg.IRC_MASK 0) 0 1))).prio h = ((((leafOn.setReg (Rg.IRC_PEND 0) 0 1).setReg (Rg.IRC_MASK 0) 0 1))).prio 0 ∧ 0 ≤ h) h hq.1 hq.2.1)⟩,
    ⟨qF, 3, leafOn, by decide +kernel, admits_by (by decide +kernel), (by
    intro h hq
    exact absurd hq.2.1 ((by decide +kernel : ∀ h < 16, ¬leafOn.eligible h = true) h hq.1))⟩,
    ⟨15, leafOn, by decide +kernel⟩⟩

theorem witness_SetClear :
    (∃ (a : Access) (g : Nat) (m v : Word) (s : State), g < 3 ∧ m = (if g = 0 then 1 else if g = 1 then 0x3F else 0xF) ∧
      pageUnit s.chip.role (a.addr.toNat / 4096) = some (.irc, 0) ∧ a.write = true ∧
      s.admits a .irc 0 (a.addr.toNat % 4096) ∧ (a.addr.toNat % 4096 = 0x40 + 16 * g ∧
      v = a.wdata &&& m ∨ a.addr.toNat % 4096 = 0x440 + 16 * g ∧
      v = s.reg (Rg.IRC_MASK g) ||| (a.wdata &&& m) ∨ a.addr.toNat % 4096 = 0x840 + 16 * g ∧
      v = s.reg (Rg.IRC_MASK g) &&& ~~~a.wdata)) ∧
    (∃ (a : Access) (g : Nat) (s : State), g < 3 ∧ pageUnit s.chip.role (a.addr.toNat / 4096) = some (.irc, 0) ∧
      a.write = false ∧ s.admits a .irc 0 (a.addr.toNat % 4096) ∧
      (a.addr.toNat % 4096 = 0x40 + 16 * g ∨ a.addr.toNat % 4096 = 0x440 + 16 * g ∨ a.addr.toNat % 4096 = 0x840 + 16 * g)) ∧
    (∃ (a : Access) (u : UnitKind) (i off : Nat) (s : State), pageUnit s.chip.role (a.addr.toNat / 4096) = some (u, i) ∧
      (a.path = .host → requestCheck a = a.chk) ∧ s.chip.fitted u i = true ∧ s.behind a = false ∧ a.addr.toNat % 4096 = off ∧
      0x400 ≤ off ∧ off < 0xC00 ∧ hasAlias s.isTray u (off / 8 * 8 % 0x400) = false) :=
  ⟨⟨⟨.mgmt, 0x4040, true, false, 2, 1, 0⟩, 0, 1, 1, leafOn, by decide +kernel, by decide +kernel, by decide +kernel,
      by decide +kernel, admits_by (by decide +kernel), by decide +kernel⟩,
    ⟨⟨.mgmt, 0x4040, false, false, 2, 0, 0⟩, 0, leafOn, by decide +kernel, by decide +kernel, by decide +kernel,
      admits_by (by decide +kernel), by decide +kernel⟩,
    ⟨⟨.mgmt, 0x4400, true, false, 2, 0, 0⟩, .irc, 0, 0x400, leafOn, by decide +kernel, by decide +kernel, by decide +kernel,
      by decide +kernel, by decide +kernel, by decide +kernel, by decide +kernel, by decide +kernel⟩⟩

end Sys2Proof.Tests

end
end

section
/-! SUPPORT. What every command leaves alone, said once over all the commands: the role, the rest of the straps, the queue, and the
memories that its class does not store to (R1). -/

namespace Sys2Proof.Machine

/-- What a command leaves alone: the straps and the queue, the canonical form of the memories, and each memory that the command is
not listed to store to. -/
structure CommandFrame (c : Instr) (s t : State) : Prop where
  chip : t.chip = s.chip
  pending : t.pending = s.pending
  memOk : s.memOk → t.memOk
  sram : storesSram c = false → t.sram = s.sram
  hbm : storesHbm c = false → t.hbm = s.hbm

/-- A command that keeps both memories. -/
theorem completes_of_keeps {c : Instr} {s : State} (h : ∃ t, exec c s = .next t ∧ Keeps s t) :
    ∃ t, exec c s = .next t ∧ CommandFrame c s t := by
  obtain ⟨t, ht, k⟩ := h
  obtain ⟨hchip, hpending, hmem⟩ := k.frame
  exact ⟨t, ht, hchip, hpending, hmem, fun _ => k.2.2.1, fun _ => k.2.2.2⟩

/-- A command that is listed to store to HBM and keeps SRAM. -/
theorem completes_of_keepsLow {c : Instr} {s : State} (hc : storesHbm c = true)
    (h : ∃ t, exec c s = .next t ∧ KeepsLow s t ∧ HbmOk s t) : ∃ t, exec c s = .next t ∧ CommandFrame c s t := by
  obtain ⟨t, ht, k, w⟩ := h
  obtain ⟨hchip, hpending, hmem⟩ := k.frame w
  exact ⟨t, ht, hchip, hpending, hmem, fun _ => k.2.2, fun e => absurd e (by simp [hc])⟩

/-- A command that is listed to store to both memories. -/
theorem completes_of_frame {c : Instr} {s : State} (hs : storesSram c = true) (hh : storesHbm c = true)
    (h : ∃ t, exec c s = .next t ∧ Frame s t) : ∃ t, exec c s = .next t ∧ CommandFrame c s t := by
  obtain ⟨t, ht, hchip, hpending, hmem⟩ := h
  exact ⟨t, ht, hchip, hpending, hmem, fun e => absurd e (by simp [hs]), fun e => absurd e (by simp [hh])⟩

/-- Every command but POWER_ON_RESET answers a next state and keeps its frame: one case for each arm of the dispatch, by the frame
of the meaning it calls. -/
theorem exec_frame (c : Instr) (s : State) (h : ∀ st, c ≠ .powerOnReset st) :
    ∃ t, exec c s = .next t ∧ CommandFrame c s t := by
  cases c with
  | registerWrite a => exact completes_of_keepsLow rfl (execRegisterWrite_frame a s)
  | rcCounterRead q u j off => exact completes_of_keeps (execRcCounterRead_frame q u j off s)
  | portTimeout => exact completes_of_keepsLow rfl (execPortTimeout_frame s)
  | unitReset q u j d => exact completes_of_keepsLow rfl (execUnitReset_frame q u j d s)
  | unitResetDone u j => exact completes_of_keepsLow rfl (execUnitResetDone_frame u j s)
  | pgErrClear q u j d => exact completes_of_keeps (execPgErrClear_frame q u j d s)
  | pgLockWrite q u j d => exact completes_of_keeps (execPgLockWrite_frame q u j d s)
  | aliasSet q u j off d => exact completes_of_keepsLow rfl (execAliasSet_frame q u j off d s)
  | aliasClr q u j off d => exact completes_of_keepsLow rfl (execAliasClr_frame q u j off d s)
  | dirViolRead q => exact completes_of_keeps (execDirViolRead_frame q s)
  | dirNodeWrite q d => exact completes_of_keeps (execDirNodeWrite_frame q d s)
  | tkpNowLoRead q => exact completes_of_keeps (execTkpNowLoRead_frame q s)
  | mgmtReqExec es => exact completes_of_keepsLow rfl (execMgmtReqExec_frame es s)
  | mgmtRespRx w rs => exact completes_of_keeps (execMgmtRespRx_frame w rs s)
  | mgmtTimeout w sq => exact completes_of_keeps (execMgmtTimeout_frame w sq s)
  | voteRaise v => exact completes_of_keeps (execVoteRaise_frame v s)
  | primingDone => exact completes_of_keeps (execPrimingDone_frame s)
  | voteClear v => exact completes_of_keeps (execVoteClear_frame v s)
  | holdExpire => exact completes_of_keeps (execHoldExpire_frame s)
  | unprimingDone => exact completes_of_keeps (execUnprimingDone_frame s)
  | fastVokAssert => exact completes_of_keeps (execFastVokAssert_frame s)
  | primeTimeout => exact completes_of_keeps (execPrimeTimeout_frame s)
  | fastVokTimeout => exact completes_of_keeps (execFastVokTimeout_frame s)
  | retryPrime q d => exact completes_of_keeps (execRetryPrime_frame q d s)
  | pwrSwVoteWrite q d => exact completes_of_keeps (execPwrSwVoteWrite_frame q d s)
  | fastRailDroop => exact completes_of_keeps (execFastRailDroop_frame s)
  | springPrimeLead g => exact completes_of_keeps (execSpringPrimeLead_frame g s)
  | stageAgeVote => exact completes_of_keeps (execStageAgeVote_frame s)
  | epochBoundary others => exact completes_of_keepsLow rfl (execEpochBoundary_frame others s)
  | timeSyncSend w => exact completes_of_keeps (execTimeSyncSend_frame w s)
  | timeSyncRx f sub => exact completes_of_keeps (execTimeSyncRx_frame f sub s)
  | timeDreqRx w exId sub => exact completes_of_keeps (execTimeDreqRx_frame w exId sub s)
  | timeDrespRx exId t4 replayed => exact completes_of_keeps (execTimeDrespRx_frame exId t4 replayed s)
  | missedInterval => exact completes_of_keeps (execMissedInterval_frame s)
  | acceptJump q => exact completes_of_keepsLow rfl (execAcceptJump_frame q s)
  | slewEnd => exact completes_of_keeps (execSlewEnd_frame s)
  | reacquire q => exact completes_of_keepsLow rfl (execReacquire_frame q s)
  | ptpSyncRx p m sub => exact completes_of_keeps (execPtpSyncRx_frame p m sub s)
  | ptpFollowUpRx p m => exact completes_of_keeps (execPtpFollowUpRx_frame p m s)
  | ptpDelayRespRx p m => exact completes_of_keeps (execPtpDelayRespRx_frame p m s)
  | ptpPdelayReqRx p m sub => exact completes_of_keeps (execPtpPdelayReqRx_frame p m sub s)
  | ptpPdelayRespRx p m sub => exact completes_of_keeps (execPtpPdelayRespRx_frame p m sub s)
  | ptpPdelayRespFuRx p m => exact completes_of_keeps (execPtpPdelayRespFuRx_frame p m s)
  | ptpAnnounceRx p m => exact completes_of_keeps (execPtpAnnounceRx_frame p m s)
  | announceTimeout p => exact completes_of_keeps (execAnnounceTimeout_frame p s)
  | txtsPop q port => exact completes_of_keeps (execTxtsPop_frame q port s)
  | portTimeRead q port => exact completes_of_keeps (execPortTimeRead_frame q port s)
  | portTimeWrite q port => exact completes_of_keeps (execPortTimeWrite_frame q port s)
  | timedLaunch port => exact completes_of_keeps (execTimedLaunch_frame port s)
  | groupTick g => exact completes_of_keeps (execGroupTick_frame g s)
  | wellSnapAck w img => exact completes_of_keeps (execWellSnapAck_frame w img s)
  | wellAckLow w => exact completes_of_keeps (execWellAckLow_frame w s)
  | staleTimeout w => exact completes_of_keeps (execStaleTimeout_frame w s)
  | skewWindowEnd w edges => exact completes_of_keeps (execSkewWindowEnd_frame w edges s)
  | rowComplete g => exact completes_of_keepsLow rfl (execRowComplete_frame g s)
  | smpValidate q d => exact completes_of_keeps (execSmpValidate_frame q d s)
  | smpValidateDone => exact completes_of_keeps (execSmpValidateDone_frame s)
  | smpPlanWrite q d => exact completes_of_keeps (execSmpPlanWrite_frame q d s)
  | planRebuildDone g => exact completes_of_keeps (execPlanRebuildDone_frame g s)
  | springStart q g => exact completes_of_keeps (execSpringStart_frame q g s)
  | springStop q g => exact completes_of_keeps (execSpringStop_frame q g s)
  | slowDownMsg shift => exact completes_of_keeps (execSlowDownMsg_frame shift s)
  | welSlotRead q w idx => exact completes_of_keeps (execWelSlotRead_frame q w idx s)
  | welSlotWrite q w idx => exact completes_of_keeps (execWelSlotWrite_frame q w idx s)
  | welSlotReadActive q w idx => exact completes_of_keeps (execWelSlotReadActive_frame q w idx s)
  | smpTblRead q t idx => exact completes_of_keeps (execSmpTblRead_frame q t idx s)
  | smpTblWrite q t idx => exact completes_of_keeps (execSmpTblWrite_frame q t idx s)
  | smpTblReadActive q t idx => exact completes_of_keeps (execSmpTblReadActive_frame q t idx s)
  | eprTblRead q t idx => exact completes_of_keeps (execEprTblRead_frame q t idx s)
  | eprTblWrite q t idx => exact completes_of_keeps (execEprTblWrite_frame q t idx s)
  | eprTblReadActive q t idx => exact completes_of_keeps (execEprTblReadActive_frame q t idx s)
  | eprCfgWrite q d => exact completes_of_keeps (execEprCfgWrite_frame q d s)
  | encodeRow ecc => exact completes_of_keepsLow rfl (execEncodeRow_frame ecc s)
  | cmpKeyReqWrite q d => exact completes_of_keeps (execCmpKeyReqWrite_frame q d s)
  | keyRequestMsg all g => exact completes_of_keeps (execKeyRequestMsg_frame all g s)
  | decodeFrame dec ecc => exact completes_of_keepsLow rfl (execDecodeFrame_frame dec ecc s)
  | keyRequestRepeat w g => exact completes_of_keeps (execKeyRequestRepeat_frame w g s)
  | cmpOutCfgWrite q d => exact completes_of_keeps (execCmpOutCfgWrite_frame q d s)
  | cmpTblRead q idx => exact completes_of_keeps (execCmpTblRead_frame q idx s)
  | cmpTblWrite q idx => exact completes_of_keeps (execCmpTblWrite_frame q idx s)
  | cmpTblReadActive q idx => exact completes_of_keeps (execCmpTblReadActive_frame q idx s)
  | mxeRmonStatRead q e k => exact completes_of_keeps (execMxeRmonStatRead_frame q e k s)
  | mxeLaunchWrite q e d => exact completes_of_keeps (execMxeLaunchWrite_frame q e d s)
  | mxeRunStart e => exact completes_of_keeps (execMxeRunStart_frame e s)
  | mxeNop e ecc => exact completes_of_keeps (execMxeNop_frame e ecc s)
  | mxeHalt e ecc => exact completes_of_keeps (execMxeHalt_frame e ecc s)
  | mxeAcclr e ecc => exact completes_of_keeps (execMxeAcclr_frame e ecc s)
  | mxeAccld e ecc => exact completes_of_keeps (execMxeAccld_frame e ecc s)
  | mxeMmul e ecc => exact completes_of_keeps (execMxeMmul_frame e ecc s)
  | mxeRq e ecc miss => exact completes_of_keeps (execMxeRq_frame e ecc miss s)
  | mxeAct e ecc => exact completes_of_keeps (execMxeAct_frame e ecc s)
  | mxeCpy e ecc => exact completes_of_keeps (execMxeCpy_frame e ecc s)
  | mxeLdh e ecc cyc => exact completes_of_keeps (execMxeLdh_frame e ecc cyc s)
  | mxeSth e ecc cyc => exact completes_of_keeps (execMxeSth_frame e ecc cyc s)
  | mxeLdrec e ecc cyc => exact completes_of_keeps (execMxeLdrec_frame e ecc cyc s)
  | mxeLdeft e ecc cyc fin lost => exact completes_of_keeps (execMxeLdeft_frame e ecc cyc fin lost s)
  | mxeVout e ecc cyc => exact completes_of_keeps (execMxeVout_frame e ecc cyc s)
  | mxeContextSaveDone e => exact completes_of_keeps (execMxeContextSaveDone_frame e s)
  | mxeContextRestoreDone e => exact completes_of_keeps (execMxeContextRestoreDone_frame e s)
  | mxeAbort q e d => exact completes_of_keeps (execMxeAbort_frame q e d s)
  | mxeSlotRead q e k => exact completes_of_keeps (execMxeSlotRead_frame q e k s)
  | mxeSlotWrite q e k => exact completes_of_keeps (execMxeSlotWrite_frame q e k s)
  | mxeLoad q e k => exact completes_of_keeps (execMxeLoad_frame q e k s)
  | mxeLoadDone e => exact completes_of_keeps (execMxeLoadDone_frame e s)
  | mxeUnload q e k => exact completes_of_keeps (execMxeUnload_frame q e k s)
  | mxeProgRead q e t idx => exact completes_of_keeps (execMxeProgRead_frame q e t idx s)
  | mxeProgWrite q e t idx => exact completes_of_keeps (execMxeProgWrite_frame q e t idx s)
  | treLaunchWrite q e d => exact completes_of_keeps (execTreLaunchWrite_frame q e d s)
  | treRunStart e => exact completes_of_keeps (execTreRunStart_frame e s)
  | treVector e lost ecc => exact completes_of_keeps (execTreVector_frame e lost ecc s)
  | treAbort q e d => exact completes_of_keeps (execTreAbort_frame q e d s)
  | treSlotRead q e k => exact completes_of_keeps (execTreSlotRead_frame q e k s)
  | treSlotWrite q e k => exact completes_of_keeps (execTreSlotWrite_frame q e k s)
  | treLoad q e k => exact completes_of_keeps (execTreLoad_frame q e k s)
  | treLoadDone e => exact completes_of_keeps (execTreLoadDone_frame e s)
  | treUnload q e k => exact completes_of_keeps (execTreUnload_frame q e k s)
  | eftRead q ecc => exact completes_of_keeps (execEftRead_frame q ecc s)
  | eftWrite q ecc => exact completes_of_keeps (execEftWrite_frame q ecc s)
  | eftDelete q ecc => exact completes_of_keeps (execEftDelete_frame q ecc s)
  | eftReadPos q idx ecc => exact completes_of_keeps (execEftReadPos_frame q idx ecc s)
  | eftPurgeGen q => exact completes_of_keeps (execEftPurgeGen_frame q s)
  | eftPurgeDone => exact completes_of_keeps (execEftPurgeDone_frame s)
  | eftSnapshot q => exact completes_of_keeps (execEftSnapshot_frame q s)
  | eftSnapshotDone => exact completes_of_keeps (execEftSnapshotDone_frame s)
  | eftFeedRead q idx => exact completes_of_keeps (execEftFeedRead_frame q idx s)
  | eftFeedWrite q idx => exact completes_of_keeps (execEftFeedWrite_frame q idx s)
  | eftSweepDone => exact completes_of_keeps (execEftSweepDone_frame s)
  | eftRehashDone lost => exact completes_of_keeps (execEftRehashDone_frame lost s)
  | coreEftRead c key buf ecc => exact completes_of_keeps (execCoreEftRead_frame c key buf ecc s)
  | coreEftWrite c key opt buf ent ecc => exact completes_of_keeps (execCoreEftWrite_frame c key opt buf ent ecc s)
  | coreEftDelete c key ecc => exact completes_of_keeps (execCoreEftDelete_frame c key ecc s)
  | coreEftReadPos c key buf ecc => exact completes_of_keeps (execCoreEftReadPos_frame c key buf ecc s)
  | coreEftPurgeGen c opt => exact completes_of_keeps (execCoreEftPurgeGen_frame c opt s)
  | coreEftDone c => exact completes_of_keeps (execCoreEftDone_frame c s)
  | coreStart q d => exact completes_of_keeps (execCoreStart_frame q d s)
  | coreStop q d => exact completes_of_keeps (execCoreStop_frame q d s)
  | fwLoad q => exact completes_of_keeps (execFwLoad_frame q s)
  | fwLoadDone => exact completes_of_keeps (execFwLoadDone_frame s)
  | mbxPushDriver q c => exact completes_of_keeps (execMbxPushDriver_frame q c s)
  | mbxPopDriver q c => exact completes_of_keeps (execMbxPopDriver_frame q c s)
  | coreMbxPop c => exact completes_of_keeps (execCoreMbxPop_frame c s)
  | coreMbxPush c pc msg => exact completes_of_keeps (execCoreMbxPush_frame c pc msg s)
  | coreRegAccess c pc addr op data ecc => exact completes_of_frame rfl rfl (execCoreRegAccess_frame c pc addr op data ecc s)
  | coreHostAccess c pc off write atomic data => exact completes_of_keeps (execCoreHostAccess_frame c pc off write atomic data s)
  | coreXltStallTimeout c => exact completes_of_keeps (execCoreXltStallTimeout_frame c s)
  | coreTrap c pc why => exact completes_of_keeps (execCoreTrap_frame c pc why s)
  | mtimeMatch c => exact completes_of_keeps (execMtimeMatch_frame c s)
  | wdogKick c val => exact completes_of_keeps (execWdogKick_frame c val s)
  | wdogBark c => exact completes_of_keeps (execWdogBark_frame c s)
  | wdogBite c pc => exact completes_of_keeps (execWdogBite_frame c pc s)
  | corSharedWrite q d => exact completes_of_keeps (execCorSharedWrite_frame q d s)
  | ringPoll c prod descs => exact completes_of_keeps (execRingPoll_frame c prod descs s)
  | segmentIssue x ecc => exact completes_of_keeps (execSegmentIssue_frame x ecc s)
  | segmentDone x idx k data err => exact completes_of_frame rfl rfl (execSegmentDone_frame x idx k data err s)
  | descWriteback c idx wbErr consErr => exact completes_of_keeps (execDescWriteback_frame c idx wbErr consErr s)
  | xltWalk x ptes => exact completes_of_keeps (execXltWalk_frame x ptes s)
  | xltResume q token => exact completes_of_keepsLow rfl (execXltResume_frame q token s)
  | xltAbort q token => exact completes_of_keepsLow rfl (execXltAbort_frame q token s)
  | xltFaultPop q => exact completes_of_keeps (execXltFaultPop_frame q s)
  | xltFaultTimeout token => exact completes_of_keepsLow rfl (execXltFaultTimeout_frame token s)
  | xltInvContext q ctx => exact completes_of_keeps (execXltInvContext_frame q ctx s)
  | xltInvPage q ctx va => exact completes_of_keeps (execXltInvPage_frame q ctx va s)
  | xltInvAll q => exact completes_of_keeps (execXltInvAll_frame q s)
  | xltInvDone window => exact completes_of_keeps (execXltInvDone_frame window s)
  | xltCtxRead q idx => exact completes_of_keeps (execXltCtxRead_frame q idx s)
  | xltCtxWrite q idx => exact completes_of_keeps (execXltCtxWrite_frame q idx s)
  | pmpAbort q d => exact completes_of_keeps (execPmpAbort_frame q d s)
  | pmpChRestart q d => exact completes_of_keeps (execPmpChRestart_frame q d s)
  | pmpChEnWrite q d => exact completes_of_keeps (execPmpChEnWrite_frame q d s)
  | pmpChRead q idx => exact completes_of_keeps (execPmpChRead_frame q idx s)
  | pmpChWrite q idx => exact completes_of_keeps (execPmpChWrite_frame q idx s)
  | laneDetect w => exact completes_of_keeps (execLaneDetect_frame w s)
  | trainAlignDone w tx rx => exact completes_of_keeps (execTrainAlignDone_frame w tx rx s)
  | trainTimeout w => exact completes_of_keeps (execTrainTimeout_frame w s)
  | trainFlitRx w body => exact completes_of_keeps (execTrainFlitRx_frame w body s)
  | rateSwitchDone w tx rx => exact completes_of_keeps (execRateSwitchDone_frame w tx rx s)
  | rateSwitchTimeout w => exact completes_of_keeps (execRateSwitchTimeout_frame w s)
  | rateHoldExpire w => exact completes_of_keeps (execRateHoldExpire_frame w s)
  | lossOfSignal w => exact completes_of_keeps (execLossOfSignal_frame w s)
  | quarantineExpire w => exact completes_of_keeps (execQuarantineExpire_frame w s)
  | slkRetrain q w d => exact completes_of_keeps (execSlkRetrain_frame q w d s)
  | slkClearQuar q w d => exact completes_of_keeps (execSlkClearQuar_frame q w d s)
  | slkQuarantine q w d => exact completes_of_keeps (execSlkQuarantine_frame q w d s)
  | flitSlot w sub => exact completes_of_keeps (execFlitSlot_frame w sub s)
  | dataFlitRx w f corr uncorr sub => exact completes_of_keepsLow rfl (execDataFlitRx_frame w f corr uncorr sub s)
  | nakRx w f => exact completes_of_keeps (execNakRx_frame w f s)
  | creditSyncRx w f => exact completes_of_keeps (execCreditSyncRx_frame w f s)
  | nullFlitRx w f => exact completes_of_keeps (execNullFlitRx_frame w f s)
  | replayTimeout w => exact completes_of_keeps (execReplayTimeout_frame w s)
  | nakRepeat w => exact completes_of_keeps (execNakRepeat_frame w s)
  | creditSyncTimeout w => exact completes_of_keeps (execCreditSyncTimeout_frame w s)
  | hpaRouteDelay => exact completes_of_keeps (execHpaRouteDelay_frame s)
  | hpaFlitSend => exact completes_of_keeps (execHpaFlitSend_frame s)
  | hpaConsPoll cons => exact completes_of_keeps (execHpaConsPoll_frame cons s)
  | altRingPoll w prod flits => exact completes_of_keepsLow rfl (execAltRingPoll_frame w prod flits s)
  | appSend q w => exact completes_of_keeps (execAppSend_frame q w s)
  | appRxPop q w => exact completes_of_keeps (execAppRxPop_frame q w s)
  | appMsg w body => exact completes_of_keeps (execAppMsg_frame w body s)
  | resendMsg first count => exact completes_of_keeps (execResendMsg_frame first count s)
  | recordArrival w m lost => exact completes_of_keepsLow rfl (execRecordArrival_frame w m lost s)
  | rdxClose n => exact completes_of_keepsLow rfl (execRdxClose_frame n s)
  | rdxResendWrite q d => exact completes_of_keeps (execRdxResendWrite_frame q d s)
  | xrfRx p f => exact completes_of_keeps (execXrfRx_frame p f s)
  | treeSendTimer => exact completes_of_keeps (execTreeSendTimer_frame s)
  | rdxTblRead q t idx => exact completes_of_keeps (execRdxTblRead_frame q t idx s)
  | rdxTblWrite q t idx => exact completes_of_keeps (execRdxTblWrite_frame q t idx s)
  | colStart q d ecc => exact completes_of_keepsLow rfl (execColStart_frame q d ecc s)
  | colAbortWrite q d => exact completes_of_keepsLow rfl (execColAbortWrite_frame q d s)
  | colSigRx p f ecc => exact completes_of_keepsLow rfl (execColSigRx_frame p f ecc s)
  | colDataRx p f ecc => exact completes_of_keepsLow rfl (execColDataRx_frame p f ecc s)
  | colAckRx p f ecc => exact completes_of_keepsLow rfl (execColAckRx_frame p f ecc s)
  | colAbortRx p f => exact completes_of_keepsLow rfl (execColAbortRx_frame p f s)
  | colRetxTimer g => exact completes_of_keepsLow rfl (execColRetxTimer_frame g s)
  | colRxTimeout g => exact completes_of_keepsLow rfl (execColRxTimeout_frame g s)
  | colTxTimeout g => exact completes_of_keepsLow rfl (execColTxTimeout_frame g s)
  | colEftApplyDone g ecc => exact completes_of_keepsLow rfl (execColEftApplyDone_frame g ecc s)
  | colGroupRead q idx => exact completes_of_keeps (execColGroupRead_frame q idx s)
  | colGroupWrite q idx => exact completes_of_keeps (execColGroupWrite_frame q idx s)
  | colMemberRead q idx => exact completes_of_keeps (execColMemberRead_frame q idx s)
  | colMemberWrite q idx => exact completes_of_keeps (execColMemberWrite_frame q idx s)
  | colSlowRead q idx => exact completes_of_keeps (execColSlowRead_frame q idx s)
  | ingestGrant => exact completes_of_keepsLow rfl (execIngestGrant_frame s)
  | slowStepTimer => exact completes_of_keeps (execSlowStepTimer_frame s)
  | recoverTimer => exact completes_of_keeps (execRecoverTimer_frame s)
  | upTx p sub => exact completes_of_keeps (execUpTx_frame p sub s)
  | gateAdvance p => exact completes_of_keeps (execGateAdvance_frame p s)
  | swFrameSend q => exact completes_of_keepsLow rfl (execSwFrameSend_frame q s)
  | swFramePop q => exact completes_of_keeps (execSwFramePop_frame q s)
  | upFrameRx p f crcOk ecc => exact completes_of_frame rfl rfl (execUpFrameRx_frame p f crcOk ecc s)
  | upsQueueRead q idx => exact completes_of_keeps (execUpsQueueRead_frame q idx s)
  | upsQueueWrite q idx => exact completes_of_keeps (execUpsQueueWrite_frame q idx s)
  | upsGateRead q idx => exact completes_of_keeps (execUpsGateRead_frame q idx s)
  | upsGateWrite q idx => exact completes_of_keeps (execUpsGateWrite_frame q idx s)
  | upsRouteRead q idx => exact completes_of_keeps (execUpsRouteRead_frame q idx s)
  | upsRouteWrite q idx => exact completes_of_keeps (execUpsRouteWrite_frame q idx s)
  | policerRead q w v => exact completes_of_keeps (execPolicerRead_frame q w v s)
  | policerWrite q w v => exact completes_of_keeps (execPolicerWrite_frame q w v s)
  | mirrorRx p f => exact completes_of_keepsLow rfl (execMirrorRx_frame p f s)
  | resyncRx p f => exact completes_of_keepsLow rfl (execResyncRx_frame p f s)
  | mirrorAckTimeout => exact completes_of_keeps (execMirrorAckTimeout_frame s)
  | budRestore q d => exact completes_of_keepsLow rfl (execBudRestore_frame q d s)
  | restoreReqRx p f => exact completes_of_keepsLow rfl (execRestoreReqRx_frame p f s)
  | restoreEndRx p f => exact completes_of_keepsLow rfl (execRestoreEndRx_frame p f s)
  | restoreTimeout => exact completes_of_keeps (execRestoreTimeout_frame s)
  | mgrReqRx p f => exact completes_of_keepsLow rfl (execMgrReqRx_frame p f s)
  | healthTimer => exact completes_of_keeps (execHealthTimer_frame s)
  | mgrRelayWrite q idx => exact completes_of_keeps (execMgrRelayWrite_frame q idx s)
  | mgrRelayPop q idx => exact completes_of_keeps (execMgrRelayPop_frame q idx s)
  | upClearQuar q p d => exact completes_of_keeps (execUpClearQuar_frame q p d s)
  | upQuarFullClear q p d => exact completes_of_keeps (execUpQuarFullClear_frame q p d s)
  | upQuarExpire p mac => exact completes_of_keeps (execUpQuarExpire_frame p mac s)
  | stepMarkPort d => exact completes_of_keeps (execStepMarkPort_frame d s)
  | stmMarkWrite q d => exact completes_of_keeps (execStmMarkWrite_frame q d s)
  | stepMarkRx w m => exact completes_of_keepsLow rfl (execStepMarkRx_frame w m s)
  | stepVerdict e step => exact completes_of_keepsLow rfl (execStepVerdict_frame e step s)
  | fleetStragglerTrayRx p f => exact completes_of_keeps (execFleetStragglerTrayRx_frame p f s)
  | fleetStragglerLeafRx m => exact completes_of_keeps (execFleetStragglerLeafRx_frame m s)
  | notifyPop q => exact completes_of_keeps (execNotifyPop_frame q s)
  | stmJobRead q idx => exact completes_of_keeps (execStmJobRead_frame q idx s)
  | stmJobWrite q idx => exact completes_of_keeps (execStmJobWrite_frame q idx s)
  | stmJobReadActive q idx => exact completes_of_keeps (execStmJobReadActive_frame q idx s)
  | stmRowRead q idx => exact completes_of_keeps (execStmRowRead_frame q idx s)
  | stmBaseRead q idx => exact completes_of_keeps (execStmBaseRead_frame q idx s)
  | stmBaseWrite q idx => exact completes_of_keeps (execStmBaseWrite_frame q idx s)
  | stmBaseReadActive q idx => exact completes_of_keeps (execStmBaseReadActive_frame q idx s)
  | capArm q rings => exact completes_of_keepsLow rfl (execCapArm_frame q rings s)
  | capDisarm q rings => exact completes_of_keepsLow rfl (execCapDisarm_frame q rings s)
  | capUpload q rings => exact completes_of_keepsLow rfl (execCapUpload_frame q rings s)
  | capCancel q rings => exact completes_of_keepsLow rfl (execCapCancel_frame q rings s)
  | capTrigWrite q d => exact completes_of_keeps (execCapTrigWrite_frame q d s)
  | capUploadSend r => exact completes_of_keepsLow rfl (execCapUploadSend_frame r s)
  | capRingRead q idx => exact completes_of_keeps (execCapRingRead_frame q idx s)
  | capRingCfgWrite q idx => exact completes_of_keeps (execCapRingCfgWrite_frame q idx s)
  | capLineRead q r idx => exact completes_of_keeps (execCapLineRead_frame q r idx s)
  | traceBeat src kind size addr data => exact completes_of_keeps (execTraceBeat_frame src kind size addr data s)
  | traceSourceTimeout src => exact completes_of_keeps (execTraceSourceTimeout_frame src s)
  | htpFlushTimer => exact completes_of_keeps (execHtpFlushTimer_frame s)
  | htpStart q => exact completes_of_keeps (execHtpStart_frame q s)
  | htpStop q => exact completes_of_keeps (execHtpStop_frame q s)
  | htpRearm q => exact completes_of_keeps (execHtpRearm_frame q s)
  | htpDrain => exact completes_of_keeps (execHtpDrain_frame s)
  | htpConsPoll cons => exact completes_of_keeps (execHtpConsPoll_frame cons s)
  | htpStallTimeout => exact completes_of_keeps (execHtpStallTimeout_frame s)
  | htpFilterRead q idx => exact completes_of_keeps (execHtpFilterRead_frame q idx s)
  | htpFilterWrite q idx => exact completes_of_keeps (execHtpFilterWrite_frame q idx s)
  | scrPassTimer => exact completes_of_keeps (execScrPassTimer_frame s)
  | scrPassNow q d => exact completes_of_keeps (execScrPassNow_frame q d s)
  | scrAbortPass q d => exact completes_of_keeps (execScrAbortPass_frame q d s)
  | scrPatternStart => exact completes_of_keeps (execScrPatternStart_frame s)
  | scrPatternEnd e => exact completes_of_keeps (execScrPatternEnd_frame e s)
  | scrHostPop q => exact completes_of_keeps (execScrHostPop_frame q s)
  | scrHostResult q => exact completes_of_keeps (execScrHostResult_frame q s)
  | scrHostTimeout j => exact completes_of_keeps (execScrHostTimeout_frame j s)
  | scrBundleLoad q => exact completes_of_keeps (execScrBundleLoad_frame q s)
  | scrBundleLoadDone => exact completes_of_keeps (execScrBundleLoadDone_frame s)
  | scrRestoreWrite q d => exact completes_of_keeps (execScrRestoreWrite_frame q d s)
  | nvhCheckpoint => exact completes_of_keeps (execNvhCheckpoint_frame s)
  | nvPhaseDone => exact completes_of_keeps (execNvPhaseDone_frame s)
  | nvhLogRead q die idx => exact completes_of_keeps (execNvhLogRead_frame q die idx s)
  | nvhFwdPop q => exact completes_of_keeps (execNvhFwdPop_frame q s)
  | nvhFwdWrite q => exact completes_of_keeps (execNvhFwdWrite_frame q s)
  | nvhStateRead q idx => exact completes_of_keeps (execNvhStateRead_frame q idx s)
  | nvhStateWrite q idx => exact completes_of_keeps (execNvhStateWrite_frame q idx s)
  | fltInject q d => exact completes_of_keeps (execFltInject_frame q d s)
  | quietExpire src => exact completes_of_keeps (execQuietExpire_frame src s)
  | fltAckSet q k d => exact completes_of_keeps (execFltAckSet_frame q k d s)
  | fltAckClr q k d => exact completes_of_keeps (execFltAckClr_frame q k d s)
  | fltAckWrite q k d => exact completes_of_keeps (execFltAckWrite_frame q k d s)
  | fltSrcRead q idx => exact completes_of_keeps (execFltSrcRead_frame q idx s)
  | fltSrcWrite q idx => exact completes_of_keeps (execFltSrcWrite_frame q idx s)
  | fltDirRead q idx => exact completes_of_keeps (execFltDirRead_frame q idx s)
  | fltClearFirst q d => exact completes_of_keeps (execFltClearFirst_frame q d s)
  | evrRead q sq => exact completes_of_keeps (execEvrRead_frame q sq s)
  | evrRdWrite q d => exact completes_of_keeps (execEvrRdWrite_frame q d s)
  | ircClaimRead q n => exact completes_of_keeps (execIrcClaimRead_frame q n s)
  | ircComplete q d => exact completes_of_keeps (execIrcComplete_frame q d s)
  | ircHoldoffEnd g => exact completes_of_keeps (execIrcHoldoffEnd_frame g s)
  | ircPendClear q g d => exact completes_of_keeps (execIrcPendClear_frame q g d s)
  | pmuSnap q d => exact completes_of_keeps (execPmuSnap_frame q d s)
  | pmuClear q d => exact completes_of_keeps (execPmuClear_frame q d s)
  | pmuCtrRead q idx => exact completes_of_keeps (execPmuCtrRead_frame q idx s)
  | pmuCtrWrite q idx => exact completes_of_keeps (execPmuCtrWrite_frame q idx s)
  | pmuCtrReadSnap q idx => exact completes_of_keeps (execPmuCtrReadSnap_frame q idx s)
  | pmuBytesRead q idx => exact completes_of_keeps (execPmuBytesRead_frame q idx s)
  | pmuAonRead q idx => exact completes_of_keeps (execPmuAonRead_frame q idx s)
  | pmuBwRead q idx => exact completes_of_keeps (execPmuBwRead_frame q idx s)
  | pmuRunlogRead q idx => exact completes_of_keeps (execPmuRunlogRead_frame q idx s)
  | pmuWindowEnd => exact completes_of_keeps (execPmuWindowEnd_frame s)
  | pmuReplay q d => exact completes_of_keeps (execPmuReplay_frame q d s)
  | powerOnReset st => exact absurd rfl (h st)
  | blockResetPin => exact completes_of_keeps (execBlockResetPin_frame s)
  | lcmProvision q => exact completes_of_keeps (execLcmProvision_frame q s)
  | lcmDeploy q => exact completes_of_keeps (execLcmDeploy_frame q s)
  | lcmUndeploy q => exact completes_of_keeps (execLcmUndeploy_frame q s)
  | lcmReturn q => exact completes_of_keeps (execLcmReturn_frame q s)
  | lcmFunctionReset q => exact completes_of_keeps (execLcmFunctionReset_frame q s)
  | lcmBlockReset q => exact completes_of_keeps (execLcmBlockReset_frame q s)
  | lcmCmdTakeEffect => exact completes_of_keepsLow rfl (execLcmCmdTakeEffect_frame s)
  | functionResetDone => exact completes_of_keepsLow rfl (execFunctionResetDone_frame s)
  | otpReadDone => exact completes_of_keeps (execOtpReadDone_frame s)
  | wipeDone => exact completes_of_frame rfl rfl (execWipeDone_frame s)
  | nvStateDecide ok => exact completes_of_keeps (execNvStateDecide_frame ok s)
  | bootDone => exact completes_of_keepsLow rfl (execBootDone_frame s)
  | commitArm q => exact completes_of_keeps (execCommitArm_frame q s)
  | commitDisarm q => exact completes_of_keeps (execCommitDisarm_frame q s)
  | lcmCommitWrite q d => exact completes_of_keeps (execLcmCommitWrite_frame q d s)
  | commitWindowOpen => exact completes_of_keeps (execCommitWindowOpen_frame s)
  | commitWindowClose => exact completes_of_keeps (execCommitWindowClose_frame s)
  | otpReadCmd q idx => exact completes_of_keeps (execOtpReadCmd_frame q idx s)
  | otpWriteCmd q idx => exact completes_of_keeps (execOtpWriteCmd_frame q idx s)
  | otpProgramDone => exact completes_of_keeps (execOtpProgramDone_frame s)
  | upLinkDown p => exact completes_of_keeps (execUpLinkDown_frame p s)
  | upLinkUp p => exact completes_of_keeps (execUpLinkUp_frame p s)
  | laneRateReqRx w code => exact completes_of_keeps (execLaneRateReqRx_frame w code s)
  | coreMret c => exact completes_of_keeps (execCoreMret_frame c s)
  | mirrorAckRx p f => exact completes_of_keeps (execMirrorAckRx_frame p f s)
  | restoreDataRx p f => exact completes_of_keeps (execRestoreDataRx_frame p f s)
  | nvhLogWriteDone ok => exact completes_of_keeps (execNvhLogWriteDone_frame ok s)
  | ptpDelayReqSend p sub => exact completes_of_keeps (execPtpDelayReqSend_frame p sub s)

/-- POWER_ON_RESET samples the straps anew; the queue and the memories stay. -/
theorem exec_powerOnReset_frame (st : Straps) (s : State) :
    ∃ t, exec (.powerOnReset st) s = .next t ∧ t.chip = s.chip.strapped st ∧ t.pending = s.pending ∧ t.sram = s.sram ∧
      t.hbm = s.hbm := by
  obtain ⟨hchip, hpending, hsram, hhbm⟩ := State.restart_frame s (s.chip.strapped st) 0
  obtain ⟨echip, epending, esram, ehbm⟩ := Keeps.trans
    (State.event_keeps (s.restart (s.chip.strapped st) 0) 0x0701 [] true) (State.advance_keeps _ 50)
  exact ⟨_, rfl, echip.trans hchip, epending.trans hpending, esram.trans hsram, ehbm.trans hhbm⟩

/-- The role that power-on reset gives is the one `ROLE_SEL` selects. -/
@[simp] theorem Chip.strapped_role (c : Chip) (st : Straps) :
    (c.strapped st).role = if st.roleSel then .tray else .leaf := by
  unfold Chip.strapped
  split <;> rfl

/-- A step on an empty queue, or of any command but POWER_ON_RESET, keeps the straps. -/
theorem step_chip {s t : State} (h : ∀ st rest, s.pending ≠ .powerOnReset st :: rest) (ht : step s = .next t) :
    t.chip = s.chip := by
  unfold step at ht
  split at ht
  next c rest hq =>
    obtain ⟨u, hu, k⟩ := exec_frame c { s with pending := rest } fun st e => h st rest (e ▸ hq)
    obtain rfl : u = t := by simpa [hu] using ht
    exact k.chip
  next =>
    obtain rfl : s.advance 1 = t := by simpa using ht
    exact (State.advance_keeps s 1).1

/-! ### DIR reports the role -/

/-- A read of `DIR_INFO` returns the chip's own word. -/
theorem State.view_dirInfo (s : State) (p : Path) : s.view p .dir 0 0x40 = BitVec.ofNat 64 s.chip.dirInfo := rfl

/-- The lowest field of `DIR_INFO` is the role (Table 02-19); every other field is a multiple of 16. -/
theorem Chip.dirInfo_mod_four (c : Chip) : c.dirInfo % 4 = if c.role = .tray then 1 else 0 := by
  unfold Chip.dirInfo Chip.isTray
  cases c.role with
  | leaf => simp [pageCount, b2n]; omega
  | tray => simp [pageCount, b2n]; omega

/-- The ROLE field of `DIR_INFO` as a read returns it. -/
theorem State.view_dirInfo_role (s : State) (p : Path) :
    bits (s.view p .dir 0 0x40).toNat 1 0 = if s.chip.role = .tray then 1 else 0 := by
  have h := Chip.dirInfo_mod_four s.chip
  rw [State.view_dirInfo, BitVec.toNat_ofNat, ← h]
  unfold bits
  omega

/-- Settles O49: every other command keeps the straps by the frame over all the commands, POWER_ON_RESET writes the sampled ones, and
the lowest field of `DIR_INFO` is the role. -/
theorem roleFixed : Obligations.RoleFixed := by
  unfold Obligations.RoleFixed
  refine ⟨fun s t h ht => congrArg Chip.role (step_chip h ht), fun st s => ?_, fun p s => s.view_dirInfo_role p⟩
  obtain ⟨t, ht, hchip, -⟩ := exec_powerOnReset_frame st s
  exact ⟨t, ht, by rw [hchip, Chip.strapped_role]⟩

end Sys2Proof.Machine
end

section
/-! SUPPORT. The page map of the two roles and the page of a unit that is not fitted (R3). -/

namespace Sys2Proof.Machine

/-! ### The page map and its inverse -/

/-- In a list of pages without repetition, a unit's place is where it stands. -/
theorem pageIdx_eq_some_iff {l : List UnitKind} (hl : l.Nodup) {u : UnitKind} {p : Nat} :
    pageIdx l u = some p ↔ l[p]? = some u := by
  unfold pageIdx
  rw [List.findIdx?_eq_some_iff_getElem]
  constructor
  · rintro ⟨hp, hu, -⟩
    rw [List.getElem?_eq_getElem hp, beq_iff_eq.mp hu]
  · intro h
    obtain ⟨hp, rfl⟩ := List.getElem?_eq_some_iff.mp h
    refine ⟨hp, beq_self_eq_true _, fun j hj e => ?_⟩
    exact List.pairwise_iff_getElem.mp hl j p (Nat.lt_trans hj hp) hp hj (beq_iff_eq.mp e)

theorem pageIdx_commonPages_iff {u : UnitKind} {p : Nat} : pageIdx commonPages u = some p ↔ commonPages[p]? = some u :=
  pageIdx_eq_some_iff (by decide)

theorem pageIdx_leafPages_iff {u : UnitKind} {p : Nat} : pageIdx leafPages u = some p ↔ leafPages[p]? = some u :=
  pageIdx_eq_some_iff (by decide)

theorem pageIdx_trayPages_iff {u : UnitKind} {p : Nat} : pageIdx trayPages u = some p ↔ trayPages[p]? = some u :=
  pageIdx_eq_some_iff (by decide)

/-- The pages of a leaf outside the common ones hold no common unit and no well. -/
theorem leafPages_own {u : UnitKind} {p : Nat} (h : leafPages[p]? = some u) : pageIdx commonPages u = none ∧ u ≠ .wel :=
  (by decide : ∀ u ∈ leafPages, pageIdx commonPages u = none ∧ u ≠ .wel) u (List.mem_of_getElem? h)

/-- The pages 0x34 to 0x3B of a tray hold no common unit and none that has pages elsewhere. -/
theorem trayPages_own {u : UnitKind} {p : Nat} (h : trayPages[p]? = some u) :
    pageIdx commonPages u = none ∧ u ≠ .cap ∧ u ≠ .mxe ∧ u ≠ .mxew ∧ u ≠ .tre ∧ u ≠ .up ∧ u ≠ .slk :=
  (by decide : ∀ u ∈ trayPages,
    pageIdx commonPages u = none ∧ u ≠ .cap ∧ u ≠ .mxe ∧ u ≠ .mxew ∧ u ≠ .tre ∧ u ≠ .up ∧ u ≠ .slk) u (List.mem_of_getElem? h)

/-- A unit whose pages are a run of its own in a role's map has no common page. -/
theorem pageIdx_commonPages_run {u : UnitKind}
    (h : u = .wel ∨ u = .cap ∨ u = .mxe ∨ u = .mxew ∨ u = .tre ∨ u = .up ∨ u = .slk) : pageIdx commonPages u = none := by
  rcases h with rfl | rfl | rfl | rfl | rfl | rfl | rfl <;> rfl

/-- A page below 0x0E is the common one. -/
theorem pageUnit_common {r : Role} {p : Nat} (h : p < 14) : pageUnit r p = commonPages[p]?.map fun u => (u, 0) := if_pos h

/-- A leaf's pages 0x0E to 0x19. -/
theorem pageUnit_leaf_list {q : Nat} (h : q < 12) : pageUnit .leaf (0x0E + q) = leafPages[q]?.map fun u => (u, 0) := by
  grind [pageUnit]

/-- A tray's pages 0x34 to 0x3B. -/
theorem pageUnit_tray_list {q : Nat} (h : q < 8) : pageUnit .tray (0x34 + q) = trayPages[q]?.map fun u => (u, 0) := by
  grind [pageUnit]

/-- The place of a common unit in either role. -/
theorem unitPage_common {r : Role} {u : UnitKind} {p : Nat} (h : commonPages[p]? = some u) : unitPage r u 0 = some p := by
  simp [unitPage, pageIdx_commonPages_iff.mpr h]

/-- The place of a unit of a leaf's list. -/
theorem unitPage_leaf_list {u : UnitKind} {q : Nat} (h : leafPages[q]? = some u) : unitPage .leaf u 0 = some (0x0E + q) := by
  obtain ⟨hc, hw⟩ := leafPages_own h
  simp [unitPage, hc, hw, pageIdx_leafPages_iff.mpr h]

/-- The place of a unit of a tray's list. -/
theorem unitPage_tray_list {u : UnitKind} {q : Nat} (h : trayPages[q]? = some u) : unitPage .tray u 0 = some (0x34 + q) := by
  obtain ⟨hc, h1, h2, h3, h4, h5, h6⟩ := trayPages_own h
  simp [unitPage, hc, h1, h2, h3, h4, h5, h6, pageIdx_trayPages_iff.mpr h]

/-- The page of a unit decodes to that unit. -/
theorem pageUnit_of_unitPage {r : Role} {u : UnitKind} {i p : Nat} (h : unitPage r u i = some p) : pageUnit r p = some (u, i) := by
  unfold unitPage at h
  split at h
  next q hq =>
    have hu := pageIdx_commonPages_iff.mp hq
    simp only [Option.ite_none_right_eq_some, Option.some.injEq] at h
    obtain ⟨rfl, rfl⟩ := h
    rw [pageUnit_common (List.getElem?_eq_some_iff.mp hu).1, hu, Option.map_some]
  next =>
    cases r with
    | leaf =>
      dsimp only at h
      split at h
      next => grind [pageUnit]
      next =>
        simp only [Option.ite_none_right_eq_some, Option.map_eq_some_iff] at h
        obtain ⟨rfl, q, hq, rfl⟩ := h
        have hu := pageIdx_leafPages_iff.mp hq
        rw [pageUnit_leaf_list (List.getElem?_eq_some_iff.mp hu).1, hu, Option.map_some]
    | tray =>
      cases hq : pageIdx trayPages u with
      | some q =>
        have hu := pageIdx_trayPages_iff.mp hq
        obtain ⟨-, h1, h2, h3, h4, h5, h6⟩ := trayPages_own hu
        simp only [hq, if_neg h1, if_neg h2, if_neg h3, if_neg h4, if_neg h5, if_neg h6, Option.map_some,
          Option.ite_none_right_eq_some, Option.some.injEq] at h
        obtain ⟨rfl, rfl⟩ := h
        rw [pageUnit_tray_list (List.getElem?_eq_some_iff.mp hu).1, hu, Option.map_some]
      | none =>
        simp only [hq, Option.map_none, ite_self] at h
        (repeat' split at h) <;> grind [pageUnit]

/-- A page of the role's map is the page of the unit that it decodes to. -/
theorem unitPage_of_pageUnit {r : Role} {u : UnitKind} {i p : Nat} (h : pageUnit r p = some (u, i)) : unitPage r u i = some p := by
  by_cases hc : p < 14
  · rw [pageUnit_common hc] at h
    obtain ⟨_, hu, e⟩ := Option.map_eq_some_iff.mp h
    obtain ⟨rfl, rfl⟩ := Prod.mk.inj e
    exact unitPage_common hu
  · cases r with
    | leaf =>
      by_cases hp : p < 26
      · obtain ⟨q, rfl⟩ : ∃ q, p = 0x0E + q := ⟨p - 14, by omega⟩
        rw [pageUnit_leaf_list (by omega)] at h
        obtain ⟨_, hu, e⟩ := Option.map_eq_some_iff.mp h
        obtain ⟨rfl, rfl⟩ := Prod.mk.inj e
        exact unitPage_leaf_list hu
      · grind [pageUnit, unitPage, pageIdx_commonPages_run]
    | tray =>
      by_cases hp : 0x34 ≤ p ∧ p < 0x3C
      · obtain ⟨q, rfl⟩ : ∃ q, p = 0x34 + q := ⟨p - 52, by omega⟩
        rw [pageUnit_tray_list (by omega)] at h
        obtain ⟨_, hu, e⟩ := Option.map_eq_some_iff.mp h
        obtain ⟨rfl, rfl⟩ := Prod.mk.inj e
        exact unitPage_tray_list hu
      · grind [pageUnit, unitPage, pageIdx_commonPages_run]

/-! ### The page of a unit not fitted -/

/-- An access to the page of a unit not fitted, with a good check and no request before it, is answered ABSENT whatever register it
names (R36). -/
theorem State.gate_absent {s : State} {a : Access} {u : UnitKind} {i off p : Nat} {eff : State → AccOut}
    (hb : s.behind a = false) (hc : a.path = .host → requestCheck a = a.chk) (hp : unitPage s.chip.role u i = some p)
    (hf : s.chip.fitted u i = false) : s.gate a u i off eff = s.answer .absent 0 := by
  have hc' : ¬(a.path = .host ∧ requestCheck a ≠ a.chk) := fun ⟨h, k⟩ => k (hc h)
  unfold State.gate
  rw [if_neg (by simp [hb]), if_neg hc', hp]
  exact if_pos hf

/-- What an ABSENT answer leaves: the reply, with data 0, and its count in PMU. -/
theorem State.answer_absent (s : State) : s.answer .absent 0 =
    { s.item 15 with reply := some ⟨0, s.rstat .absent, replyCheck 0 (s.rstat .absent)⟩ } := rfl

/-- REGISTER_WRITE to the page of a unit not fitted. -/
theorem exec_registerWrite_absent {a : Access} {s : State} {u : UnitKind} {i : Nat}
    (hu : pageUnit s.chip.role (a.addr.toNat / 4096) = some (u, i)) (hf : s.chip.fitted u i = false) (hb : s.behind a = false)
    (hc : a.path = .host → requestCheck a = a.chk) : exec (.registerWrite a) s = .next (s.answer .absent 0).settle := by
  change execRegisterWrite a s = _
  unfold execRegisterWrite State.access
  rw [hu]
  dsimp only
  rw [State.gate_absent hb hc (unitPage_of_pageUnit hu) hf]

/-- Settles O54: the page map decodes each unit's page to the unit, and the gate answers ABSENT before it looks at the register. -/
theorem absentPages : Obligations.AbsentPages := by
  unfold Obligations.AbsentPages
  refine ⟨fun r u i p h => pageUnit_of_unitPage h, fun a u i s hu hf hb hc => ?_⟩
  rw [exec_registerWrite_absent hu hf hb hc, State.answer_absent]

end Sys2Proof.Machine
end

section
/-! SUPPORT. Bits of a number after `putBits`, and the fields of a register after a write of one field. -/

namespace Sys2Proof.Machine

/-- Bit `j` of a number after bits [hi:lo] are replaced. -/
theorem testBit_putBits (x hi lo v j : Nat) :
    (putBits x hi lo v).testBit j = if lo ≤ j ∧ j ≤ hi then v.testBit (j - lo) else x.testBit j := by
  obtain ⟨n, hn⟩ : ∃ n, hi + 1 - lo = n := ⟨_, rfl⟩
  have hx : x = 2 ^ lo * (2 ^ n * (x / 2 ^ lo / 2 ^ n) + x / 2 ^ lo % 2 ^ n) + x % 2 ^ lo := by
    rw [Nat.div_add_mod, Nat.div_add_mod]
  have hput : putBits x hi lo v = 2 ^ lo * (2 ^ n * (x / 2 ^ lo / 2 ^ n) + v % 2 ^ n) + x % 2 ^ lo := by
    have hfield : x / 2 ^ lo % 2 ^ n * 2 ^ lo + (2 ^ lo * (2 ^ n * (x / 2 ^ lo / 2 ^ n)) + x % 2 ^ lo) = x := by
      rw [Nat.mul_add] at hx
      rw [Nat.mul_comm (x / 2 ^ lo % 2 ^ n)]
      omega
    have hcut : x - x / 2 ^ lo % 2 ^ n * 2 ^ lo = 2 ^ lo * (2 ^ n * (x / 2 ^ lo / 2 ^ n)) + x % 2 ^ lo :=
      Nat.sub_eq_of_eq_add (by omega)
    rw [putBits, bits, hn, hcut, Nat.mul_add, Nat.mul_comm (v % 2 ^ n), Nat.add_right_comm]
  have hlow : x % 2 ^ lo < 2 ^ lo := Nat.mod_lt _ (Nat.two_pow_pos lo)
  rw [hput, Nat.testBit_two_pow_mul_add _ hlow, Nat.testBit_two_pow_mul_add _ (Nat.mod_lt _ (Nat.two_pow_pos n)),
    Nat.testBit_mod_two_pow, Nat.testBit_mod_two_pow, Nat.testBit_div_two_pow, Nat.testBit_div_two_pow]
  by_cases hj : j < lo
  · rw [if_pos hj, if_neg (by omega)]
    simp [hj]
  by_cases hjn : j - lo < n
  · rw [if_neg hj, if_pos hjn, if_pos (by omega)]
    simp [hjn]
  · rw [if_neg hj, if_neg hjn, if_neg (by omega), show j - lo - n + n + lo = j by omega]

/-- Bit `j` of a field of a number. -/
theorem testBit_bits (x hi lo j : Nat) : (bits x hi lo).testBit j = (decide (j < hi + 1 - lo) && x.testBit (j + lo)) := by
  rw [bits, Nat.testBit_mod_two_pow, Nat.testBit_div_two_pow]

/-- The fields of a register after one field of it is written, bit by bit. -/
theorem State.testBit_fld_setFld (s : State) {f g : Fld} (i v j : Nat) (hr : g.reg = f.reg) (hg : g.hi < 64) :
    ((s.setFld f i v).fld g i).testBit j = (decide (j < g.hi + 1 - g.lo) &&
      if f.lo ≤ j + g.lo ∧ j + g.lo ≤ f.hi then v.testBit (j + g.lo - f.lo) else (s.reg g.reg i).toNat.testBit (j + g.lo)) := by
  unfold State.fld State.setFld
  rw [hr, State.reg_setReg_same, testBit_bits, BitVec.toNat_ofNat, Nat.testBit_mod_two_pow, testBit_putBits]
  by_cases hj : j < g.hi + 1 - g.lo
  · rw [decide_eq_true (show j + g.lo < 64 by omega), Bool.true_and]
  · simp [hj]

/-- A field reads what was written to it, as far as it is wide. -/
theorem State.fld_setFld_same (s : State) {f : Fld} (i v : Nat) (hf : f.hi < 64) :
    (s.setFld f i v).fld f i = v % 2 ^ (f.hi + 1 - f.lo) := by
  refine Nat.eq_of_testBit_eq fun j => ?_
  rw [s.testBit_fld_setFld i v j rfl hf, Nat.testBit_mod_two_pow, Nat.add_sub_cancel]
  by_cases hj : j < f.hi + 1 - f.lo
  · rw [if_pos (by omega)]
  · simp [hj]

/-- A write of one field leaves the others of its register. -/
theorem State.fld_setFld_disjoint (s : State) {f g : Fld} (i v : Nat) (hr : g.reg = f.reg) (hg : g.hi < 64)
    (hd : g.hi < f.lo ∨ f.hi < g.lo) : (s.setFld f i v).fld g i = s.fld g i := by
  refine Nat.eq_of_testBit_eq fun j => ?_
  rw [s.testBit_fld_setFld i v j hr hg, State.fld, testBit_bits]
  by_cases hj : j < g.hi + 1 - g.lo
  · rw [if_neg (by omega)]
  · simp [hj]

/-- A field is less than the power of two of its width. -/
theorem State.fld_lt (s : State) (f : Fld) (i : Nat) : s.fld f i < 2 ^ (f.hi + 1 - f.lo) := Nat.mod_lt _ (Nat.two_pow_pos _)

/-- A counter that saturates does not fall when it counts. -/
theorem State.fld_le_bump_same (s : State) {f : Fld} (i n : Nat) (hf : f.hi < 64) : s.fld f i ≤ (s.bump f i n).fld f i := by
  have hlt := s.fld_lt f i
  unfold State.bump
  rw [s.fld_setFld_same i _ hf, Nat.mod_eq_of_lt (by omega)]
  omega

end Sys2Proof.Machine
end

section
/-! SUPPORT. A write as the page takes it, and the window while it is busy (R58). -/

namespace Sys2Proof.Machine

/-! ### A write as the page takes it -/

/-- Offsets below 0x400 and from 0xC00 name a register directly (R54). -/
theorem aliasOf_eq_self {off : Nat} (h : off < 0x400 ∨ 0xC00 ≤ off) : aliasOf off = (off, 0) := by
  unfold aliasOf
  rw [if_neg (by omega), if_neg (by omega)]

/-- The effect of a write at an offset that names a register directly is that of the register, for some value written. -/
theorem State.accessEff_write {s : State} {a : Access} {u : UnitKind} {i off : Nat} (hw : a.write = true)
    (ho : a.addr.toNat % 4096 = off) (h : off / 8 * 8 < 0x400 ∨ 0xC00 ≤ off / 8 * 8) :
    ∃ d, s.accessEff a u i = s.writeEff a.path a.priv.toNat u i (off / 8 * 8) 0 off d := by
  unfold State.accessEff
  rw [ho, if_pos hw, aliasOf_eq_self h]
  exact ⟨_, rfl⟩

/-- REGISTER_WRITE of an admitted access whose effect is state `t`, without data. -/
theorem exec_registerWrite_okay {a : Access} {s t : State} {u : UnitKind} {i : Nat}
    (hp : pageUnit s.chip.role (a.addr.toNat / 4096) = some (u, i)) (ha : s.admits a u i (a.addr.toNat % 4096))
    (h : s.accessEff a u i = t.okay) : exec (.registerWrite a) s = .next (t.answer .okay 0).settle := by
  have hx := exec_registerWrite_admits hp ha
  rw [h, AccOut.finish_okay rfl] at hx
  exact hx

/-- An access that no rule refuses is of 64 bits where the register takes no 32-bit access, so its offset is the register's. -/
theorem State.refusal_none_offset {s : State} {a : Access} {u : UnitKind} {i off : Nat} (h : s.refusal a u i off = none)
    (hf : half32 u (aliasOf (off / 8 * 8)).1 a.write = false) : off % 8 = 0 := by
  obtain ⟨-, -, -, h64, h32, -⟩ := State.refusal_none_aligned h
  cases hs : a.size32 with
  | false => exact h64 hs
  | true => exact absurd (h32 hs).2 (by simp [hf])

/-! ### The busy window -/

/-- A write of `TBL_CMD` while the window is busy (R58). -/
theorem tblCmdWrite_busy {s : State} {u : UnitKind} {i : Nat} (h : s.fld (Fd.TBL_STAT_BUSY u) i = 1) (priv : Nat) (d : Word) :
    tblCmdWrite u i priv d s = s.winBlocked u i 0xC00 := by
  simp only [tblCmdWrite, State.winRun, if_pos h, ite_self]

/-- A write of any window register while the window is busy; one of `TBL_CMD` is of the whole register. -/
theorem State.writeEff_busy {s : State} {u : UnitKind} {i off at_ : Nat} (hu : hasWindow u = true) (h1 : 0xC00 ≤ off)
    (h2 : off < 0xD40) (h8 : off % 8 = 0) (hat : off = 0xC00 → at_ = 0xC00) (hb : s.fld (Fd.TBL_STAT_BUSY u) i = 1)
    (p : Path) (priv al : Nat) (d : Word) : s.writeEff p priv u i off al at_ d = s.winBlocked u i at_ := by
  unfold State.writeEff
  by_cases hc : off = 0xC00
  · rw [if_pos ⟨hu, hc⟩, tblCmdWrite_busy hb, hat hc]
  · rw [if_neg (fun e => hc e.2), if_pos ⟨hu, by omega, h2⟩, if_pos hb]

/-- Settles O56: an admitted write of `TBL_CMD` is of 64 bits, and every write of the window looks at BUSY first. -/
theorem windowBusy : Obligations.WindowBusy := by
  unfold Obligations.WindowBusy
  intro a u i s hp ha hw hu h1 h2 hb
  obtain ⟨off, ho⟩ : ∃ off, a.addr.toNat % 4096 = off := ⟨_, rfl⟩
  rw [ho] at h1 h2 ⊢
  obtain ⟨d, hd⟩ := State.accessEff_write (s := s) (u := u) (i := i) hw ho (by omega)
  have hcmd : off / 8 * 8 = 0xC00 → off = 0xC00 := fun e => by
    obtain ⟨-, -, -, href, -⟩ := ha
    have h8 := State.refusal_none_offset href (by rw [ho, e, hw]; simp [aliasOf, half32])
    omega
  refine exec_registerWrite_okay hp ha (hd.trans ?_)
  exact State.writeEff_busy hu (by omega) (by omega) (by omega) hcmd hb _ _ _ _

end Sys2Proof.Machine
end

section
/-! SUPPORT. The registers of a page by their access type, and the writes of read-only registers (R37). -/

namespace Sys2Proof.Machine

/-! ### Where the read-only registers are -/

/-- The row that the register tables give an offset, and where it lies. -/
theorem regRow?_mem {u : UnitKind} {off : Nat} {r : RegRow} (h : regRow? ⟨u, off⟩ = some r) :
    r ∈ unitRegs u ∧ r.off ≤ off ∧ off < r.off + 8 * r.cnt := by
  unfold regRow? at h
  exact ⟨List.mem_of_find?_eq_some h, by simpa using List.find?_some h⟩

/-- The register tables lie above the header and below 0x400, where the SET aliases begin. -/
theorem unitRegs_range (u : UnitKind) : ∀ r ∈ unitRegs u, 0x40 ≤ r.off ∧ r.off + 8 * r.cnt ≤ 0x400 := by
  cases u <;> decide

/-- An offset with a row of the register tables. -/
theorem regRow?_range {u : UnitKind} {off : Nat} {r : RegRow} (h : regRow? ⟨u, off⟩ = some r) : 0x40 ≤ off ∧ off < 0x400 := by
  obtain ⟨hmem, hlo, hhi⟩ := regRow?_mem h
  have hrange := unitRegs_range u r hmem
  omega

/-- The read-only registers of the header and the window (Tables 02-8 and 02-17). -/
theorem headerRow?_ro {u : UnitKind} {off : Nat} {r : RegRow} (h : headerRow? u off = some r) (hro : r.acc = .ro) :
    (off = 0 ∨ off = 8 ∨ off = 0x18 ∨ off = 0x28) ∨ (hasWindow u = true ∧ off = 0xC08) := by
  unfold headerRow? at h
  grind

/-- The read-only registers of a page: four of the header, those of the unit's table, `TBL_STAT`. -/
theorem accAt_ro_cases {u : UnitKind} {off : Nat} (h : accAt u off = some .ro) :
    (off = 0 ∨ off = 8 ∨ off = 0x18 ∨ off = 0x28) ∨ (∃ r, regRow? ⟨u, off⟩ = some r ∧ r.acc = .ro) ∨
      (hasWindow u = true ∧ off = 0xC08) := by
  obtain ⟨r, hr, hro⟩ := Option.map_eq_some_iff.mp h
  unfold rowAt? at hr
  split at hr
  next q hq =>
    obtain rfl : q = r := Option.some.inj hr
    exact (headerRow?_ro hq hro).imp_right .inr
  next => exact .inr (.inl ⟨r, hr, hro⟩)

/-- A read-only register of a unit's own table has a row there. -/
theorem accAt_ro_row {u : UnitKind} {off : Nat} (h : accAt u off = some .ro) (h1 : 0x40 ≤ off) (h2 : off < 0x400) :
    ∃ r ∈ unitRegs u, r.acc = .ro ∧ r.off ≤ off ∧ off < r.off + 8 * r.cnt := by
  obtain hhead | ⟨r, hr, hro⟩ | ⟨-, hstat⟩ := accAt_ro_cases h
  · omega
  · obtain ⟨hmem, hin⟩ := regRow?_mem hr
    exact ⟨r, hmem, hro, hin⟩
  · omega

/-- The read-only registers of IRC lie above its mask and pending registers. -/
theorem irc_ro_range {off : Nat} (h : accAt .irc off = some .ro) (h1 : 0x40 ≤ off) (h2 : off < 0x400) : 0x140 ≤ off := by
  obtain ⟨r, hmem, hro, hlo, -⟩ := accAt_ro_row h h1 h2
  exact Nat.le_trans ((by decide : ∀ r ∈ unitRegs .irc, r.acc = .ro → 0x140 ≤ r.off) r hmem hro) hlo

/-- The read-only registers of FLT lie below its acknowledge registers. -/
theorem flt_ro_range {off : Nat} (h : accAt .flt off = some .ro) (h1 : 0x40 ≤ off) (h2 : off < 0x400) : off < 0x100 := by
  obtain ⟨r, hmem, hro, -, hhi⟩ := accAt_ro_row h h1 h2
  exact Nat.lt_of_lt_of_le hhi ((by decide : ∀ r ∈ unitRegs .flt, r.acc = .ro → r.off + 8 * r.cnt ≤ 0x100) r hmem hro)

/-! ### Writes of read-only registers -/

/-- What is done for a register of another access type is not done for a read-only one. -/
theorem ite_of_accAt_ro {u : UnitKind} {off : Nat} (h : accAt u off = some .ro) (k : Nat) (hk : accAt u k ≠ some .ro)
    (t e : State) : (if off = k then t else e) = e :=
  if_neg fun heq : off = k => hk (heq ▸ h)

/-- The plain write has no case for a read-only register. -/
theorem State.plain_ro {u : UnitKind} {off : Nat} (h : accAt u off = some .ro) (s : State) (i al : Nat) (d : Word) :
    s.plain u i off al d = s := by
  obtain ⟨r, hr, hro⟩ := Option.map_eq_some_iff.mp h
  unfold State.plain State.plainWrite
  rw [hr]
  simp only [hro]

/-- The registers of time, power, reports and access whose write does more are not read-only. -/
theorem State.infraWrite_ro {u : UnitKind} {off : Nat} (h : accAt u off = some .ro) (s : State) (p : Path) (i al : Nat) (d : Word) :
    s.infraWrite p u i off al d = s := by
  have hplain := State.plain_ro h
  have hoff := ite_of_accAt_ro h
  unfold State.infraWrite
  cases u with
  | dir => simp only [hoff 0x48 (by decide)]
  | lcm => simp only [hoff 0x48 (by decide), hoff 0x50 (by decide), hoff 0x58 (by decide), hplain]
  | pwr => simp only [hoff 0x50 (by decide), hoff 0x60 (by decide), hplain]
  | tkp => simp only [hoff 0xA8 (by decide), hplain]
  | irc =>
    have hpend : ¬(0x40 ≤ off ∧ off < 0x140 ∧ (off - 0x40) % 16 = 8) := fun ⟨h1, h2, _⟩ =>
      Nat.not_le_of_lt h2 (irc_ro_range h h1 (by omega))
    simp only [if_neg hpend, hoff 0x140 (by decide), hoff 0x1E0 (by decide), hplain]
  | flt =>
    have hack : ¬(0x100 ≤ off ∧ off < 0x200) := fun ⟨h1, h2⟩ => Nat.not_le_of_lt (flt_ro_range h (by omega) (by omega)) h1
    simp only [if_neg hack, hoff 0x68 (by decide), hoff 0x70 (by decide), hplain]
  | evr => simp only [hoff 0x58 (by decide), hoff 0x40 (by decide), hplain]
  | pmu => simp only [hoff 0x48 (by decide), hoff 0x60 (by decide), hplain]
  | scr => simp only [hoff 0x40 (by decide), hoff 0x50 (by decide), hoff 0x78 (by decide), hplain]
  | _ => exact hplain s i al d

/-- The registers of the engines, the cores, the pumps, capture and trace whose write does more are not read-only. -/
theorem State.engineWrite_ro {u : UnitKind} {off : Nat} (h : accAt u off = some .ro) (s : State) (i al : Nat) (d : Word) :
    s.engineWrite u i off al d = s := by
  have hplain := State.plain_ro h
  have hoff := ite_of_accAt_ro h
  unfold State.engineWrite
  cases u with
  | xlt => simp only [hoff 0x50 (by decide), hoff 0x60 (by decide), hplain]
  | pmp => simp only [hoff 0x40 (by decide), hoff 0x50 (by decide), hoff 0x58 (by decide), hplain]
  | cor => simp only [hoff 0x50 (by decide), hoff 0x58 (by decide), hoff 0x90 (by decide), hplain]
  | mxe => simp only [hoff 0x50 (by decide), hoff 0x58 (by decide), hplain]
  | tre => simp only [hoff 0x50 (by decide), hoff 0x58 (by decide), hplain]
  | cap => simp only [hoff 0x50 (by decide), hoff 0x58 (by decide), hplain]
  | htp => simp only [hoff 0x70 (by decide), hoff 0x48 (by decide), hplain]
  | _ => exact hplain s i al d

/-- The registers of sampling, records, links and the upstream side whose write does more are not read-only. -/
theorem State.flowWrite_ro {u : UnitKind} {off : Nat} (h : accAt u off = some .ro) (s : State) (i al : Nat) (d : Word) :
    s.flowWrite u i off al d = s := by
  have hplain := State.plain_ro h
  have hoff := ite_of_accAt_ro h
  unfold State.flowWrite
  cases u with
  | cmp => simp only [hoff 0x48 (by decide), hoff 0x78 (by decide), hplain]
  | smp => simp only [hoff 0x40 (by decide), hoff 0x48 (by decide), hoff 0x60 (by decide), hplain]
  | epr => simp only [hoff 0x40 (by decide), hplain]
  | slk => simp only [hoff 0x58 (by decide), hoff 0x40 (by decide), hplain]
  | up => simp only [hoff 0x78 (by decide), hplain]
  | ups => simp only [hoff 0x40 (by decide), hplain]
  | rdx => simp only [hoff 0x40 (by decide), hoff 0x78 (by decide), hplain]
  | stm => simp only [hoff 0x40 (by decide), hoff 0x48 (by decide), hplain]
  | col => simp only [hoff 0x50 (by decide), hoff 0x58 (by decide), hplain]
  | bud => simp only [hoff 0x40 (by decide), hoff 0x60 (by decide), hplain]
  | _ => exact hplain s i al d

/-- A write that a register takes no value from in this role acts for `STM_CFG` only, which is not read-only. -/
theorem State.hiddenWrite_ro {u : UnitKind} {off : Nat} (h : accAt u off = some .ro) (s : State)
    (hh : roleHidden s.isTray u off = true) : s.hiddenWrite u = s := by
  refine if_neg fun hu => ?_
  subst hu
  have h40 : off = 0x40 := by
    simp only [roleHidden, Bool.and_eq_true, beq_iff_eq] at hh
    exact hh.2
  exact absurd (h40 ▸ h) (by decide)

/-- A write of a read-only register of a unit's own table has no effect. -/
theorem State.unitWrite_ro {u : UnitKind} {off : Nat} (h : accAt u off = some .ro) (s : State) (p : Path) (i al : Nat) (d : Word) :
    s.unitWrite p u i off al d = s := by
  unfold State.unitWrite
  simp only [State.infraWrite_ro h, State.engineWrite_ro h, State.flowWrite_ro h]
  by_cases hh : roleHidden s.isTray u off = true
  · rw [if_pos hh, State.hiddenWrite_ro h s hh]
  · rw [if_neg hh]
    cases u <;> exact ite_self s

/-- A write of a read-only register has no effect, unless it is that of `TBL_STAT` while the window is busy (R37, R58). -/
theorem State.writeEff_ro {s : State} {u : UnitKind} {i off : Nat} (h : accAt u off = some .ro)
    (hb : ¬(off = 0xC08 ∧ s.fld (Fd.TBL_STAT_BUSY u) i = 1)) (p : Path) (priv al at_ : Nat) (d : Word) :
    s.writeEff p priv u i off al at_ d = s.okay := by
  unfold State.writeEff
  obtain hhead | ⟨r, hr, -⟩ | ⟨hu, hstat⟩ := accAt_ro_cases h
  · have hnone : s.headerWrite u i off priv d = s := by
      unfold State.headerWrite
      rw [if_neg (by omega), if_neg (by omega), if_neg (by omega), if_neg (by omega)]
    rw [if_neg (by omega), if_neg (by omega), if_pos (by omega), hnone]
  · obtain ⟨h1, h2⟩ := regRow?_range hr
    rw [if_neg (by omega), if_neg (by omega), if_neg (by omega), State.unitWrite_ro h]
  · rw [if_neg (by omega), if_pos ⟨hu, by omega, by omega⟩, if_neg (fun e => hb ⟨hstat, e⟩), if_pos hstat]

/-- A write of a read-only register that no rule refuses is of 64 bits. -/
theorem State.refusal_none_ro {s : State} {a : Access} {u : UnitKind} {i off : Nat} (h : s.refusal a u i off = none)
    (hw : a.write = true) (hro : accAt u off = some .ro) : off % 8 = 0 := by
  obtain hhead | ⟨r, hr, -⟩ | ⟨-, hstat⟩ := accAt_ro_cases hro
  · omega
  · obtain ⟨h1, h2⟩ := regRow?_range hr
    refine State.refusal_none_offset h ?_
    rw [aliasOf_eq_self (.inl (by omega)), hw]
    have h38 : off / 8 * 8 ≠ 0x38 := by omega
    have hwin : ¬0xC10 ≤ off / 8 * 8 := by omega
    simp [half32, h38, hwin]
  · omega

/-- An admitted write of a read-only register answers OKAY and has no effect (R37). -/
theorem exec_registerWrite_ro {a : Access} {s : State} {u : UnitKind} {i : Nat}
    (hp : pageUnit s.chip.role (a.addr.toNat / 4096) = some (u, i)) (ha : s.admits a u i (a.addr.toNat % 4096))
    (hw : a.write = true) (hro : accAt u (a.addr.toNat % 4096) = some .ro)
    (hb : ¬(a.addr.toNat % 4096 = 0xC08 ∧ s.fld (Fd.TBL_STAT_BUSY u) i = 1)) :
    exec (.registerWrite a) s = .next (s.answer .okay 0).settle := by
  refine exec_registerWrite_okay hp ha ?_
  obtain ⟨-, -, -, href, -⟩ := ha
  have h8 := State.refusal_none_ro href hw hro
  obtain ⟨off, ho⟩ : ∃ off, a.addr.toNat % 4096 = off := ⟨_, rfl⟩
  rw [ho] at hro hb h8
  have hbase : off / 8 * 8 = off := by omega
  have hrange : off < 0x400 ∨ 0xC00 ≤ off := by
    obtain hhead | ⟨r, hr, -⟩ | ⟨-, hstat⟩ := accAt_ro_cases hro
    · omega
    · exact .inl (regRow?_range hr).2
    · omega
  obtain ⟨d, hd⟩ := State.accessEff_write (s := s) (u := u) (i := i) hw ho (by rwa [hbase])
  rw [hd, hbase, State.writeEff_ro hro hb]

end Sys2Proof.Machine
end

section
/-! SUPPORT. What an access that is not answered OKAY leaves alone (R37): every case of the gate but a put-off and an admitted effect. -/

namespace Sys2Proof.Machine

/-! ### The code of a reply -/

/-- The low four bits of `RSTAT` are the response code (Table 00-7). -/
theorem State.bits_rstat (s : State) (c : Code) : bits (s.rstat c).toNat 3 0 = c.num := by
  have hc : c.num < 16 := by cases c <;> decide
  unfold State.rstat bits
  rw [BitVec.toNat_ofNat]
  omega

/-- The code of the reply of an answer. -/
theorem State.answer_code {s : State} {c : Code} {d : Word} {r : Reply} (h : (s.answer c d).reply = some r) :
    bits r.rstat.toNat 3 0 = c.num := by
  obtain rfl : _ = r := Option.some.inj h
  exact State.bits_rstat _ c

/-! ### `PG_ERR` -/

/-- `PG_ERR` is 0 at reset on every page. -/
theorem resetVal_pgErr (c : Chip) (u : UnitKind) : resetVal c (Rg.PG_ERR u) = 0 := by
  unfold resetVal
  cases hr : regRow? (Rg.PG_ERR u) with
  | none => simp
  | some r => exact absurd (regRow?_range hr).1 (by decide)

/-- `PG_ERR` of two units at one key is one register. -/
theorem State.reg_pgErr_of_key_eq (s : State) {u v : UnitKind} {i j : Nat}
    (h : regKey (Rg.PG_ERR u) i = regKey (Rg.PG_ERR v) j) : s.reg (Rg.PG_ERR u) i = s.reg (Rg.PG_ERR v) j := by
  unfold State.reg
  rw [h, resetVal_pgErr, resetVal_pgErr]

/-- The flags of `PG_ERR` after one is set: that one, and those that were. -/
theorem testBit_pgErrSet (e off cause : Nat) (f : ErrFlag) {k : Nat} (hk : k < 6) :
    (pgErrSet e f off cause).testBit k = (decide (k = f.pos) || e.testBit k) := by
  have hlow : ∀ x hi lo v, 6 ≤ lo → (putBits x hi lo v).testBit k = x.testBit k := fun x hi lo v h => by
    rw [testBit_putBits, if_neg (by omega)]
  unfold pgErrSet
  rw [testBit_putBits]
  by_cases hf : k = f.pos
  · simp [hf]
  · rw [if_neg (by omega), decide_eq_false hf, Bool.false_or]
    repeat' split
    all_goals simp [hlow]

/-! ### What a refused access records -/

/-- The four counters of `DIR_VIOL` (Table 02-22). -/
def violCounters : List Fld := [Fd.DIR_VIOL_DENIED_CNT, Fd.DIR_VIOL_ALIAS_CNT, Fd.DIR_VIOL_CHKERR_CNT, Fd.DIR_VIOL_TIMEOUT_CNT]

/-- Each violation counter is a field of `DIR_VIOL`. -/
theorem violCounters_reg : ∀ f ∈ violCounters, f.reg = Rg.DIR_VIOL := by decide

/-- The violation counters lie within 64 bits and do not meet. -/
theorem violCounters_disjoint : ∀ f ∈ violCounters, ∀ g ∈ violCounters, g.hi < 64 ∧ (g = f ∨ g.hi < f.lo ∨ f.hi < g.lo) := by
  decide

/-- From `s` to `t` nothing changes but registers, the reply and the PMU counts; and of the registers only `PG_ERR`, in which no flag
is cleared, `DIR_VIOL`, whose counters do not fall, and `DIR_LAST_VIOL`. -/
structure RecordsOnly (s t : State) : Prop where
  rest : ∃ regs reply pmu, t = { s with regs, reply, pmu }
  reg : ∀ (g : Reg) (i : Nat), (∀ u j, regKey g i ≠ regKey (Rg.PG_ERR u) j) → regKey g i ≠ regKey Rg.DIR_VIOL 0 →
    regKey g i ≠ regKey Rg.DIR_LAST_VIOL 0 → t.reg g i = s.reg g i
  flags : ∀ (u : UnitKind) (i k : Nat), k < 6 → (s.reg (Rg.PG_ERR u) i).getLsbD k = true →
    (t.reg (Rg.PG_ERR u) i).getLsbD k = true
  counts : ∀ f ∈ violCounters, s.fld f ≤ t.fld f

theorem RecordsOnly.refl (s : State) : RecordsOnly s s :=
  ⟨⟨_, _, _, rfl⟩, fun _ _ _ _ _ => rfl, fun _ _ _ _ h => h, fun _ _ => Nat.le_refl _⟩

theorem RecordsOnly.trans {s t v : State} (h : RecordsOnly s t) (k : RecordsOnly t v) : RecordsOnly s v where
  rest := by
    obtain ⟨_, _, _, rfl⟩ := h.rest
    obtain ⟨_, _, _, rfl⟩ := k.rest
    exact ⟨_, _, _, rfl⟩
  reg g i h1 h2 h3 := (k.reg g i h1 h2 h3).trans (h.reg g i h1 h2 h3)
  flags u i n hn hs := k.flags u i n hn (h.flags u i n hn hs)
  counts f hf := Nat.le_trans (h.counts f hf) (k.counts f hf)

/-- No page's `PG_ERR` is at the key of a register of another offset of a unit's first page. -/
theorem regKey_pgErr_ne {u : UnitKind} {i : Nat} {g : Reg} (hg : g.off % 4096 ≠ 0x20) : regKey (Rg.PG_ERR u) i ≠ regKey g 0 := by
  unfold regKey
  dsimp only
  omega

/-- An answer changes the reply and the PMU counts. -/
theorem State.answer_records (s : State) (c : Code) (d : Word) : RecordsOnly s (s.answer c d) :=
  ⟨⟨_, _, _, rfl⟩, fun _ _ _ _ _ => rfl, fun _ _ _ _ h => h, fun _ _ => Nat.le_refl _⟩

/-- A `PG_ERR` flag is set. -/
theorem State.pgErr_records (s : State) (u : UnitKind) (i : Nat) (f : ErrFlag) (off cause : Nat) :
    RecordsOnly s (s.pgErr u i f off cause) where
  rest := ⟨_, _, _, rfl⟩
  reg g j h1 _ _ := s.reg_setReg_ne _ g _ (h1 u i)
  flags v j k hk hs := by
    by_cases hkey : regKey (Rg.PG_ERR v) j = regKey (Rg.PG_ERR u) i
    · rw [State.reg_pgErr_of_key_eq _ hkey] at hs ⊢
      unfold State.pgErr
      rw [State.reg_setReg_same, BitVec.getLsbD_ofNat, testBit_pgErrSet _ _ _ _ hk]
      rw [BitVec.getLsbD] at hs
      simp [hs]
      omega
    · unfold State.pgErr
      rwa [State.reg_setReg_ne _ _ _ _ hkey]
  counts g hg := by
    refine Nat.le_of_eq ?_
    unfold State.fld State.pgErr
    rw [violCounters_reg g hg, State.reg_setReg_ne _ _ _ _ (regKey_pgErr_ne (by decide)).symm]

/-- A violation counts in a counter of `DIR_VIOL` and stands in `DIR_LAST_VIOL`. -/
theorem State.violation_records (s : State) {f : Fld} (hf : f ∈ violCounters) (c : Code) (a : Access) :
    RecordsOnly s (s.violation f c a) where
  rest := ⟨_, _, _, rfl⟩
  reg g i _ h2 h3 := by
    unfold State.violation State.bump State.setFld
    rw [State.reg_setReg_ne _ _ _ _ h3, violCounters_reg f hf, State.reg_setReg_ne _ _ _ _ h2]
  flags u i k _ hs := by
    unfold State.violation State.bump State.setFld
    rwa [State.reg_setReg_ne _ _ _ _ (regKey_pgErr_ne (by decide)), violCounters_reg f hf,
      State.reg_setReg_ne _ _ _ _ (regKey_pgErr_ne (by decide))]
  counts g hg := by
    have hlast : (s.violation f c a).fld g = (s.bump f).fld g := by
      unfold State.violation State.fld
      rw [violCounters_reg g hg, State.reg_setReg_ne _ _ _ _ (by decide)]
    obtain ⟨h64, rfl | hd⟩ := violCounters_disjoint f hf g hg
    · exact hlast ▸ s.fld_le_bump_same 0 1 h64
    · have hreg : g.reg = f.reg := (violCounters_reg g hg).trans (violCounters_reg f hf).symm
      exact Nat.le_of_eq (hlast.trans (s.fld_setFld_disjoint 0 _ hreg h64 hd)).symm

/-- The flags of a refused access, one after the other. -/
theorem State.foldl_pgErr_records (u : UnitKind) (i off : Nat) (fs : List ErrFlag) (s : State) :
    RecordsOnly s (fs.foldl (fun s f => s.pgErr u i f off) s) := by
  induction fs generalizing s with
  | nil => exact .refl s
  | cons f fs ih => exact (s.pgErr_records u i f off 0).trans (ih _)

/-- A refused access. -/
theorem State.refuse_records (s : State) (a : Access) (u : UnitKind) (i off : Nat) (c : Code) (fs : List ErrFlag) :
    RecordsOnly s (s.refuse a u i off c fs) := by
  unfold State.refuse
  split
  · refine ((State.foldl_pgErr_records u i off fs s).trans (State.violation_records _ ?_ c a)).trans (State.answer_records _ c 0)
    split <;> decide
  · exact s.answer_records c 0

/-! ### The ways of an access -/

/-- A window command is answered OKAY, busy or not. -/
theorem State.winRun_code (s : State) (u : UnitKind) (i : Nat) (d : Word) (body : State → WinOut) :
    (s.winRun u i d body).code = .okay := by
  unfold State.winRun
  split <;> rfl

/-- An accepted write of `TBL_CMD` is answered OKAY. -/
theorem tblCmdWrite_code (u : UnitKind) (i priv : Nat) (d : Word) (s : State) : (tblCmdWrite u i priv d s).code = .okay := by
  unfold tblCmdWrite
  dsimp only
  split
  · split <;> rfl
  · exact s.winRun_code u i d _

/-- An accepted write is answered OKAY. -/
theorem State.writeEff_code (s : State) (p : Path) (priv : Nat) (u : UnitKind) (i off al at_ : Nat) (d : Word) :
    (s.writeEff p priv u i off al at_ d).code = .okay := by
  unfold State.writeEff
  split
  · exact tblCmdWrite_code u i priv d s
  repeat' split
  all_goals rfl

/-- A claim is answered OKAY, spurious or not. -/
theorem ircClaim_code (n : Nat) (s : State) : (ircClaim n s).code = .okay := by
  unfold ircClaim
  split <;> rfl

/-- An accepted read is answered OKAY. -/
theorem State.readEff_code (s : State) (p : Path) (u : UnitKind) (i off : Nat) : (s.readEff p u i off).code = .okay := by
  unfold State.readEff
  split
  · exact ircClaim_code _ s
  repeat' split
  all_goals rfl

/-- What an accepted access does is answered OKAY: no register denies by itself. -/
theorem State.accessEff_code (s : State) (a : Access) (u : UnitKind) (i : Nat) : (s.accessEff a u i).code = .okay := by
  unfold State.accessEff
  split
  · exact s.writeEff_code _ _ _ _ _ _ _ _
  · dsimp only
    split <;> exact s.readEff_code _ _ _ _

/-- An access to a page is put off, takes effect, or is refused and leaves its record only. -/
theorem State.gate_cases (s : State) (a : Access) (u : UnitKind) (i off : Nat) (eff : State → AccOut) :
    s.gate a u i off eff = s.putOff a ∨ s.gate a u i off eff = (eff s).finish a u i off ∨
      RecordsOnly s (s.gate a u i off eff) := by
  unfold State.gate
  split
  · exact .inl rfl
  split
  · exact .inr (.inr ((s.violation_records (by decide) .chkerr a).trans (State.answer_records _ .chkerr 0)))
  split
  · exact .inr (.inr (s.answer_records .decerr 0))
  split
  · exact .inr (.inr (s.answer_records .absent 0))
  split
  · exact .inr (.inr (s.refuse_records a u i off _ _))
  split
  · exact .inl rfl
  · exact .inr (.inl rfl)

/-- An access to any address is put off, is answered OKAY, or leaves its record only. -/
theorem State.access_cases (s : State) (a : Access) :
    s.access a = s.putOff a ∨ (∃ t d, s.access a = State.answer t .okay d) ∨ RecordsOnly s (s.access a) := by
  unfold State.access
  split
  next u i _ =>
    refine (s.gate_cases a u i (a.addr.toNat % 4096) fun s => s.accessEff a u i).imp_right (.imp_left fun h => ?_)
    exact ⟨_, _, h.trans (AccOut.finish_okay (s.accessEff_code a u i))⟩
  next =>
    split
    · exact .inl rfl
    split
    · exact .inr (.inr ((s.violation_records (by decide) .chkerr a).trans (State.answer_records _ .chkerr 0)))
    · exact .inr (.inr (s.answer_records .decerr 0))

/-- A put-off access has no reply yet. -/
theorem State.putOff_reply (s : State) (a : Access) : (s.putOff a).reply = none := by
  unfold State.putOff
  split <;> rfl

/-- An access answered otherwise than OKAY leaves its record only. -/
theorem State.access_records {s : State} {a : Access} {r : Reply} (hr : (s.access a).reply = some r)
    (hc : bits r.rstat.toNat 3 0 ≠ 0) : RecordsOnly s (s.access a) := by
  obtain h | ⟨t, d, h⟩ | h := s.access_cases a
  · rw [h, State.putOff_reply] at hr
    cases hr
  · rw [h] at hr
    exact absurd (State.answer_code hr) hc
  · exact h

/-- Settles O55: no write of a read-only register has a case, and an access that is not answered OKAY is put off or recorded. -/
theorem readOnlyWrites : Obligations.ReadOnlyWrites := by
  unfold Obligations.ReadOnlyWrites
  refine ⟨fun a u i s hp ha hw hro hb => exec_registerWrite_ro hp ha hw hro hb, fun a s => ⟨s.access a, rfl, fun r hr hc => ?_⟩⟩
  obtain ⟨hrest, hreg, hflags, hcounts⟩ := State.access_records hr hc
  refine ⟨?_, hreg, hflags, hcounts _ (by decide), hcounts _ (by decide), hcounts _ (by decide), hcounts _ (by decide)⟩
  obtain ⟨regs, reply, pmu, h⟩ := hrest
  rw [h]

end Sys2Proof.Machine
end

section
/-! SUPPORT. Writes of a register whose value is staged, and those of `PWR_CFG` by the range of its fields (R83). -/

namespace Sys2Proof.Machine

/-! ### A value with bits masked -/

/-- A field of a masked number is that of the number where the mask has every bit of the field. -/
theorem bits_and_of_ones {m hi lo : Nat} (h : bits m hi lo = 2 ^ (hi + 1 - lo) - 1) (x : Nat) :
    bits (x &&& m) hi lo = bits x hi lo := by
  have hand : bits (x &&& m) hi lo = bits x hi lo &&& bits m hi lo := by
    refine Nat.eq_of_testBit_eq fun j => ?_
    rw [Nat.testBit_and, testBit_bits, testBit_bits, testBit_bits, Nat.testBit_and]
    by_cases hj : j < hi + 1 - lo <;> simp [hj]
  rw [hand, h, Nat.and_two_pow_sub_one_eq_mod]
  exact Nat.mod_mod _ _

/-! ### The write of a staged register -/

/-- The register that an access names is written with the whole of `WDATA`, where it takes no 32-bit access. -/
theorem State.accessEff_write64 {s : State} {a : Access} {u : UnitKind} {i off : Nat} (hw : a.write = true)
    (ho : a.addr.toNat % 4096 = off) (h8 : off % 8 = 0) (hdir : off < 0x400 ∨ 0xC00 ≤ off) (hf : half32 u off true = false)
    (ha : s.admits a u i off) : s.accessEff a u i = s.writeEff a.path a.priv.toNat u i off 0 off a.wdata := by
  obtain ⟨-, -, -, href, -⟩ := ha
  have hbase : off / 8 * 8 = off := by omega
  obtain ⟨-, -, -, -, h32, -⟩ := State.refusal_none_aligned href
  rw [hbase, aliasOf_eq_self hdir, hw] at h32
  have hsize : a.size32 = false := Bool.eq_false_iff.mpr fun e => absurd (h32 e).2 (by simp [hf])
  unfold State.accessEff
  rw [ho, if_pos hw, hbase, aliasOf_eq_self hdir, hsize]
  rfl

/-- A write of a staged register with a field out of range (R35). -/
theorem State.plain_rws_bad {s : State} {u : UnitKind} {off : Nat} {r : RegRow} {d : Word} (hr : rowAt? u off = some r)
    (hacc : r.acc = .rws) (hbad : s.newValue? r u off d = none) (i al : Nat) :
    s.plain u i off al d = s.pgErr u i .badValue off := by
  unfold State.plain State.plainWrite
  simp only [hr, hacc, hbad]

/-- A write of a field leaves every other register. -/
theorem State.reg_setFld_ne (s : State) (f : Fld) {g : Reg} {i j : Nat} (v : Nat) (h : regKey g j ≠ regKey f.reg i) :
    (s.setFld f i v).reg g j = s.reg g j :=
  s.reg_setReg_ne f.reg g _ h

/-- A mark for commit writes at most `PG_SHADOW`. -/
theorem State.reg_mark (s : State) {u : UnitKind} {i j : Nat} {g : Reg} (h : regKey g j ≠ regKey (Rg.PG_SHADOW u) i) :
    (s.mark u i).reg g j = s.reg g j := by
  unfold State.mark
  dsimp only
  generalize (if s.isMarked u i = true then s.marked else pageKey u i :: s.marked) = marked
  split
  · rw [State.reg_setFld_ne _ (Fd.PG_SHADOW_EPOCH u) _ h, State.reg_setFld_ne _ (Fd.PG_SHADOW_VALID u) _ h]
    rfl
  · rfl

/-- A mark for commit leaves the commit mode of the page. -/
theorem State.commitMode_mark (s : State) (u : UnitKind) (i : Nat) :
    (s.mark u i).fld (Fd.PG_CTRL_COMMIT_MODE u) i = s.fld (Fd.PG_CTRL_COMMIT_MODE u) i := by
  have hkey : regKey (Rg.PG_CTRL u) i ≠ regKey (Rg.PG_SHADOW u) i := by
    unfold regKey
    dsimp only
    omega
  unfold State.fld
  rw [State.reg_mark s hkey]

/-- A write of a staged register with every field in range, on a page of COMMIT_MODE STAGED (R39). -/
theorem State.plain_rws_staged {s : State} {u : UnitKind} {i off : Nat} {r : RegRow} {d v : Word} (hr : rowAt? u off = some r)
    (hacc : r.acc = .rws) (hok : s.newValue? r u off d = some v) (hm : s.fld (Fd.PG_CTRL_COMMIT_MODE u) i = 0) (al : Nat) :
    s.plain u i off al d = ({ s with staged := s.staged.set (regKey ⟨u, off⟩ i) v } : State).mark u i := by
  have hmode : (({ s with staged := s.staged.set (regKey ⟨u, off⟩ i) v } : State).mark u i).fld
      (Fd.PG_CTRL_COMMIT_MODE u) i = 0 := (State.commitMode_mark _ u i).trans hm
  unfold State.plain State.plainWrite
  simp only [hr, hacc, hok]
  rw [if_neg (by omega), if_neg (by omega)]

/-- A flag of `PG_ERR` leaves the staged value of every other register. -/
theorem State.stagedReg_pgErr (s : State) {u : UnitKind} {i j : Nat} {g : Reg} (h : regKey g j ≠ regKey (Rg.PG_ERR u) i)
    (f : ErrFlag) (off cause : Nat) : (s.pgErr u i f off cause).stagedReg g j = s.stagedReg g j := by
  unfold State.stagedReg State.pgErr
  rw [State.reg_setReg_ne _ _ _ _ h]
  rfl

/-! ### `PWR_CFG` -/

/-- The row of `PWR_CFG` (Tables 03-8 and 03-10). -/
def pwrCfgRow : RegRow :=
  ⟨0x58, 1, .rws, 0x6400800141000, 0xFFF0F03FFFF03, [(51, 40, 1, 4095), (35, 32, 1, 15), (25, 16, 0, 1000)], 0⟩

theorem rowAt?_pwrCfg : rowAt? .pwr 0x58 = some pwrCfgRow := by decide

/-- A word that `PWR_CFG` takes: STAGE_AGE and STAGE_LEVEL are not 0, HOLD_US is at most 1,000. -/
abbrev pwrCfgOk (d : Word) : Prop := bits d.toNat 51 40 ≠ 0 ∧ bits d.toNat 35 32 ≠ 0 ∧ bits d.toNat 25 16 ≤ 1000

/-- The fields of `PWR_CFG` lie in its writable bits, so their ranges speak of the word as written; the upper bounds of STAGE_AGE
and STAGE_LEVEL are their widths. -/
theorem State.newValue?_pwrCfg (s : State) (d : Word) :
    s.newValue? pwrCfgRow .pwr 0x58 d = if pwrCfgOk d then some (d &&& 0xFFF0F03FFFF03) else none := by
  have hmask : (d &&& BitVec.ofNat 64 0xFFF0F03FFFF03).toNat = d.toNat &&& 0xFFF0F03FFFF03 := BitVec.toNat_and _ _
  have hother : ∀ v, s.valueOk .pwr 0x58 v = true := fun _ => rfl
  have hage : bits d.toNat 51 40 < 4096 := Nat.mod_lt _ (by decide)
  have hlevel : bits d.toNat 35 32 < 16 := Nat.mod_lt _ (by decide)
  unfold State.newValue? pwrCfgRow
  simp only [List.all_cons, List.all_nil, hother, hmask, Bool.and_true, Bool.and_eq_true, decide_eq_true_eq]
  rw [bits_and_of_ones (by decide), bits_and_of_ones (by decide), bits_and_of_ones (by decide)]
  exact ite_congr (propext (by omega)) (fun _ => rfl) fun _ => rfl

/-- On a leaf `PWR_CFG` is written as its row says; on a tray it takes nothing (R82). -/
theorem State.writeEff_pwrCfg {s : State} (hl : s.isTray = false) (p : Path) (priv : Nat) (d : Word) :
    s.writeEff p priv .pwr 0 0x58 0 0x58 d = (s.plain .pwr 0 0x58 0 d).okay := by
  have hshown : roleHidden s.isTray .pwr 0x58 = false := by rw [hl]; rfl
  unfold State.writeEff State.unitWrite
  rw [hshown]
  rfl

/-- REGISTER_WRITE of `PWR_CFG`, admitted on a leaf. -/
theorem exec_registerWrite_pwrCfg {a : Access} {s : State}
    (hp : pageUnit s.chip.role (a.addr.toNat / 4096) = some (.pwr, 0)) (ho : a.addr.toNat % 4096 = 0x58)
    (ha : s.admits a .pwr 0 0x58) (hw : a.write = true) (hl : s.isTray = false) :
    exec (.registerWrite a) s = .next ((s.plain .pwr 0 0x58 0 a.wdata).answer .okay 0).settle := by
  refine exec_registerWrite_okay hp (ho.symm ▸ ha) ?_
  rw [State.accessEff_write64 hw ho (by decide) (.inl (by decide)) (by decide) ha, State.writeEff_pwrCfg hl]

/-- Settles O58: the row of `PWR_CFG` takes a word exactly where its three fields are in range, and a staged register keeps what it
holds when its row does not take the word. -/
theorem powerConfigRange : Obligations.PowerConfigRange := by
  unfold Obligations.PowerConfigRange
  constructor
  · intro a s hp ho ha hw hl hout
    have hbad : ¬pwrCfgOk a.wdata := fun ⟨hage, hlevel, hhold⟩ => by omega
    rw [exec_registerWrite_pwrCfg hp ho ha hw hl,
      State.plain_rws_bad rowAt?_pwrCfg rfl ((s.newValue?_pwrCfg _).trans (if_neg hbad))]
    exact ⟨rfl, s.stagedReg_pgErr (by decide) _ _ _⟩
  · intro a s hp ho ha hw hl hm hhold hlevel hage
    rw [exec_registerWrite_pwrCfg hp ho ha hw hl,
      State.plain_rws_staged rowAt?_pwrCfg rfl ((s.newValue?_pwrCfg _).trans (if_pos ⟨hage, hlevel, hhold⟩)) hm]

end Sys2Proof.Machine
end

section
/-! SUPPORT. The claim of an interrupt line (R496, R497): which groups it may take, and which of them it takes. -/

namespace Sys2Proof.Machine

/-! ### The groups that qualify -/

/-- A group may be claimed above a stack when its PRIO is above the top, where there is one. -/
theorem aboveTop_iff {st : List Nat} {p : Nat} : aboveTop st p = true ↔ ∀ t ∈ st.head?, t < p := by
  cases st with
  | nil => simp [aboveTop]
  | cons t rest => simp [aboveTop]

/-- The groups that a claim chooses among are those that qualify. -/
theorem State.mem_claimable {s : State} {n g : Nat} : g ∈ s.claimable n ↔ s.qualifies n g := by
  simp only [State.claimable, State.qualifies, State.routed, List.mem_filter, List.mem_range, Bool.and_eq_true,
    Bool.or_eq_true, beq_iff_eq, aboveTop_iff, and_assoc]

/-- The groups that a claim chooses among stand in rising order. -/
theorem State.claimable_rising (s : State) (n : Nat) : (s.claimable n).Pairwise (· < ·) :=
  List.pairwise_lt_range.filter _

/-- Where no group qualifies, a claim has none to choose among. -/
theorem State.claimable_eq_nil {s : State} {n : Nat} (h : ∀ g, ¬s.qualifies n g) : s.claimable n = [] :=
  List.eq_nil_iff_forall_not_mem.mpr fun g hg => h g (State.mem_claimable.mp hg)

/-! ### The group that a claim takes -/

/-- The group taken is one of the list. -/
theorem bestGroup_mem {prio : Nat → Nat} {l : List Nat} {h : Nat} (hb : bestGroup prio l = some h) : h ∈ l := by
  induction l generalizing h with
  | nil => cases hb
  | cons x xs ih =>
    unfold bestGroup at hb
    split at hb
    next k hk =>
      split at hb
      · exact Option.some.inj hb ▸ List.mem_cons_of_mem x (ih hk)
      · exact Option.some.inj hb ▸ List.mem_cons_self
    next => exact Option.some.inj hb ▸ List.mem_cons_self

/-- From a rising list the group of highest PRIO is taken, the lowest number among equals: a later group replaces the head only by
a PRIO above the head's. -/
theorem bestGroup_eq_some {prio : Nat → Nat} {l : List Nat} {g : Nat} (hrise : l.Pairwise (· < ·)) (hg : g ∈ l)
    (hbest : ∀ h ∈ l, prio h < prio g ∨ prio h = prio g ∧ g ≤ h) : bestGroup prio l = some g := by
  induction l with
  | nil => cases hg
  | cons x xs ih =>
    obtain ⟨hhead, htail⟩ := List.pairwise_cons.mp hrise
    unfold bestGroup
    obtain rfl | hmem := List.mem_cons.mp hg
    · split
      next k hk =>
        have hk_best := hbest k (List.mem_cons_of_mem g (bestGroup_mem hk))
        exact if_neg (by omega)
      next => rfl
    · rw [ih htail hmem fun h hh => hbest h (List.mem_cons_of_mem x hh)]
      have hlt := hhead g hmem
      have hx_best := hbest x List.mem_cons_self
      exact if_pos (by omega)

/-- A count in a counter leaves the stacks of the lines. -/
@[simp] theorem State.bump_stack (s : State) (f : Fld) (i n l : Nat) : (s.bump f i n).stack l = s.stack l := rfl

/-- The state after a claim of line `n` that takes group `g`: CLAIMS counts, the PRIO is pushed, the hold-off starts (R497, R499). -/
def State.claimed (s : State) (n g : Nat) : State :=
  let hold := s.fld (Fd.IRC_GCFG_HOLDOFF_US.nth g)
  { s.bump Fd.IRC_CNT_CLAIMS with
    irc := { s.irc with
      prioStk := s.irc.prioStk.set n (s.prio g :: s.stack n)
      holdoffs := if hold = 0 then s.irc.holdoffs else s.irc.holdoffs.set g (s.aon + hold * cyUs) } }

/-- A claim of a line for which a group qualifies takes the best of them. -/
theorem ircClaim_best {s : State} {n g : Nat} (hg : s.qualifies n g)
    (hbest : ∀ h, s.qualifies n h → s.prio h < s.prio g ∨ s.prio h = s.prio g ∧ g ≤ h) :
    ircClaim n s = (s.claimed n g).gives (BitVec.ofNat 64 (2 ^ 63 + s.prio g * 2 ^ 40 + g)) := by
  have hbg : bestGroup s.prio (s.claimable n) = some g :=
    bestGroup_eq_some (s.claimable_rising n) (State.mem_claimable.mpr hg) fun h hh => hbest h (State.mem_claimable.mp hh)
  unfold ircClaim State.claimed
  rw [hbg]
  dsimp only
  -- rewriting by the laws keeps the kernel from comparing the counted state with `s` field by field
  rw [State.bump_irc, State.bump_aon, State.bump_stack]

/-- A claim of a line for which no group qualifies is spurious. -/
theorem ircClaim_spurious {s : State} {n : Nat} (h : ∀ g, ¬s.qualifies n g) :
    ircClaim n s = (s.bump Fd.IRC_CNT_SPURIOUS).gives 0 := by
  unfold ircClaim
  rw [State.claimable_eq_nil h]
  rfl

/-- IRC_CLAIM_READ, admitted. -/
theorem exec_ircClaimRead_admits {q : Req} {n : Nat} {s : State} (h : s.admitsRead q .irc 0 (0x1C0 + 8 * n)) :
    exec (.ircClaimRead q n) s = .next ((ircClaim n s).st.answer .okay (ircClaim n s).data) :=
  congrArg Host.Outcome.next (State.rowRead_admits h (ircClaim_code n s))

/-! ### A claim leaves PENDING -/

/-- A count in a counter leaves every other register. -/
theorem State.reg_bump_ne (s : State) (f : Fld) {g : Reg} {i j : Nat} (n : Nat) (h : regKey g j ≠ regKey f.reg i) :
    (s.bump f i n).reg g j = s.reg g j :=
  s.reg_setFld_ne f _ h

/-- The pending register of a group is not `IRC_CNT`. -/
theorem regKey_ircPend_ne_ircCnt {g : Nat} (hg : g < 16) : regKey (Rg.IRC_PEND g) 0 ≠ regKey Rg.IRC_CNT 0 := by
  unfold regKey
  dsimp only
  omega

/-- Settles O59: the groups that a claim chooses among are those that qualify, in rising order, and the choice is the best of a
rising list; the counter that counts is in `IRC_CNT`. -/
theorem claimHighest : Obligations.ClaimHighest := by
  unfold Obligations.ClaimHighest
  refine ⟨fun q n g s _ ha hg hbest => ?_, fun q n s _ ha hnone => ?_, fun g s hg => ⟨?_, ?_⟩⟩
  · rw [exec_ircClaimRead_admits ha, ircClaim_best hg hbest]
    rfl
  · rw [exec_ircClaimRead_admits ha, ircClaim_spurious hnone]
    rfl
  · exact s.reg_bump_ne Fd.IRC_CNT_CLAIMS 1 (regKey_ircPend_ne_ircCnt hg)
  · exact s.reg_bump_ne Fd.IRC_CNT_SPURIOUS 1 (regKey_ircPend_ne_ircCnt hg)

end Sys2Proof.Machine
end

section
/-! SUPPORT. One step, by its two cases, and what every step keeps: the queue's order, the canonical memories, the legal straps. -/

namespace Sys2Proof.Machine

/-- A step runs the command at the front on the state with the queue's rest. -/
theorem step_of_pending_cons {c : Instr} {rest : List Instr} {s : State} (h : s.pending = c :: rest) :
    step s = exec c { s with pending := rest } := by
  unfold step
  rw [h]

/-- A step on an empty queue lets one AON cycle pass. -/
theorem step_of_pending_nil {s : State} (h : s.pending = []) : step s = .next (s.advance 1) := by
  unfold step
  rw [h]

/-- Settles O47. -/
theorem stepTakesFront : Obligations.StepTakesFront := by
  unfold Obligations.StepTakesFront
  exact fun c rest s h => step_of_pending_cons h

/-- The straps that power-on reset samples are legal, whatever the pins give: each field is as wide as its range. -/
theorem Chip.strapped_legal (c : Chip) (st : Straps) : (c.strapped st).legal := by
  have hidx := st.pkgDieIdx.isLt
  have hdies := st.pkgDies.isLt
  unfold Chip.strapped
  cases st.roleSel with
  | true => exact ⟨rfl, rfl, rfl⟩
  | false => exact ⟨hidx, Nat.le_add_left _ _, hdies⟩

/-- Every command answers a next state and keeps the queue, canonical memories and legal straps. -/
theorem exec_keeps_invariant (c : Instr) (s : State) :
    ∃ t, exec c s = .next t ∧ t.pending = s.pending ∧ (s.memOk → t.memOk) ∧ (s.chip.legal → t.chip.legal) := by
  by_cases h : ∃ st, c = .powerOnReset st
  · obtain ⟨st, rfl⟩ := h
    obtain ⟨t, ht, hchip, hpending, hsram, hhbm⟩ := exec_powerOnReset_frame st s
    exact ⟨t, ht, hpending, fun ⟨hs, hh⟩ => ⟨hsram ▸ hs, hhbm ▸ hh⟩, fun _ => hchip ▸ s.chip.strapped_legal st⟩
  · obtain ⟨t, ht, k⟩ := exec_frame c s fun st e => h ⟨st, e⟩
    exact ⟨t, ht, k.pending, k.memOk, fun hl => k.chip ▸ hl⟩

/-- Settles O50: by the two cases of a step, over every command. -/
theorem stepKeepsInvariant : Obligations.StepKeepsInvariant := by
  unfold Obligations.StepKeepsInvariant
  intro s t hmem hlegal ht
  cases hq : s.pending with
  | cons c rest =>
    obtain ⟨u, hu, -, kmem, klegal⟩ := exec_keeps_invariant c { s with pending := rest }
    rw [step_of_pending_cons hq, hu] at ht
    cases ht
    exact ⟨kmem hmem, klegal hlegal⟩
  | nil =>
    rw [step_of_pending_nil hq] at ht
    cases ht
    obtain ⟨hchip, -, kmem⟩ := (State.advance_keeps s 1).frame
    exact ⟨kmem hmem, hchip ▸ hlegal⟩

/-- Settles O48: a step leaves the queue's rest, as no command writes the queue. -/
theorem queueOrder : Obligations.QueueOrder := by
  unfold Obligations.QueueOrder
  constructor
  · intro c rest s hq
    obtain ⟨t, ht, hpending, -⟩ := exec_keeps_invariant c { s with pending := rest }
    exact ⟨t, (step_of_pending_cons hq).trans ht, hpending⟩
  · exact fun s hq => ⟨step_of_pending_nil hq, (State.advance_keeps s 1).2.1.trans hq⟩

/-- Settles O52: by the frame over all the commands; POWER_ON_RESET leaves both memories. -/
theorem memoryWriters : Obligations.MemoryWriters := by
  unfold Obligations.MemoryWriters
  intro c s
  by_cases h : ∃ st, c = .powerOnReset st
  · obtain ⟨st, rfl⟩ := h
    obtain ⟨t, ht, -, -, hsram, hhbm⟩ := exec_powerOnReset_frame st s
    exact ⟨t, ht, fun _ a => by rw [hsram], fun _ a => by rw [hhbm]⟩
  · obtain ⟨t, ht, k⟩ := exec_frame c s fun st e => h ⟨st, e⟩
    exact ⟨t, ht, fun hc a => by rw [k.sram hc], fun hc a => by rw [k.hbm hc]⟩

end Sys2Proof.Machine
end

section
/-! SUPPORT. The bytes of a descriptor's segment: where they lie, and which segments store (R281, R282). -/

namespace Sys2Proof.Machine

/-- A change of a descriptor leaves the channel's SRAM window. -/
theorem State.modDesc_sramBase (s : State) (c idx : Nat) (f : PDesc → PDesc) :
    ((s.modDesc c idx f).chan c).sramBase = (s.chan c).sramBase := by
  unfold State.modDesc
  rw [State.chan_setChan_same]

/-- The count of moved bytes leaves the pump. -/
theorem State.moved_pmp (s : State) (n : Nat) (read write : Bool) : (s.moved n read write).pmp = s.pmp := by
  unfold State.moved
  dsimp only
  cases read <;> cases write <;> simp

/-- The count of moved bytes leaves the channels. -/
theorem State.moved_chan (s : State) (n : Nat) (read write : Bool) (c : Nat) : (s.moved n read write).chan c = s.chan c := by
  unfold State.chan State.chanRest State.tags State.isTray
  rw [State.moved_pmp, (State.moved_keeps s n read write).1]

/-- The bytes that a segment of `n` bytes stores: what came, short data padded with 0 (log entry 59). -/
def segBytes (n : Nat) (data : Bytes) : Bytes := (data ++ List.replicate n 0).take n

theorem segBytes_length (n : Nat) (data : Bytes) : (segBytes n data).length = n := by
  unfold segBytes
  rw [List.length_take, List.length_append, List.length_replicate]
  omega

theorem segBytes_getElem {n j : Nat} (data : Bytes) (h : j < (segBytes n data).length) :
    (segBytes n data)[j] = data.getD j 0 := by
  unfold segBytes at h ⊢
  rw [List.getElem_take, List.getElem_append]
  split
  next hj => rw [List.getD_eq_getElem?_getD, List.getElem?_eq_getElem hj, Option.getD_some]
  next hj => rw [List.getElem_replicate, List.getD_eq_getElem?_getD, List.getElem?_eq_none (Nat.le_of_not_lt hj), Option.getD_none]

/-- The memories after the return of a READ descriptor's segment. -/
theorem State.ringDone_read {s : State} {c idx k : Nat} {d : PDesc}
    (hd : (s.chan c).descs.find? (fun d => d.index = idx ∧ d.out.contains k) = some d) (hop : d.op = 1) (data : Bytes) :
    (s.ringDone c idx k data false).hbm = s.hbm ∧
      (s.ringDone c idx k data false).sram =
        Mem.write s.sram ((s.chan c).sramBase * 4096 + d.dst + 256 * k) (segBytes (segLen d.len k) data) := by
  unfold State.ringDone
  rw [hd]
  dsimp only
  rw [if_neg (by decide), if_pos hop]
  simp [State.moved_chan, State.modDesc_sramBase, segBytes]

/-- A segment that fails, or of a descriptor of another operation, leaves SRAM. -/
theorem State.ringDone_sram_eq {s : State} {c idx k : Nat} {d : PDesc}
    (hd : (s.chan c).descs.find? (fun d => d.index = idx ∧ d.out.contains k) = some d) {err : Bool}
    (h : err = true ∨ d.op ≠ 1) (data : Bytes) : (s.ringDone c idx k data err).sram = s.sram := by
  unfold State.ringDone
  rw [hd]
  dsimp only
  split
  next => split <;> simp
  next herr =>
    rw [if_neg (h.resolve_left herr)]
    split <;> simp

/-- Settles O53: a segment is stored by one write of its own length at its place in the window. -/
theorem storedBytes : Obligations.StoredBytes := by
  unfold Obligations.StoredBytes
  constructor
  · intro c idx k data d s hd hop
    obtain ⟨hhbm, hsram⟩ := State.ringDone_read hd hop data
    have hlen := segBytes_length (segLen d.len k) data
    refine ⟨s.ringDone c idx k data false, rfl, hhbm, fun j hj => ?_, fun a ha => ?_⟩
    · rw [hsram, Mem.byte_write_in _ _ _ _ (by rwa [hlen]), segBytes_getElem]
    · rw [hsram, Mem.byte_write_out _ _ _ _ (by rwa [hlen])]
  · intro c idx k data err d s hd h
    exact ⟨s.ringDone c idx k data err, rfl, fun a => by rw [State.ringDone_sram_eq hd h data]⟩

end Sys2Proof.Machine
end

section
/-! SUPPORT. A window command to a unit whose domain sleeps (R75). -/

namespace Sys2Proof.Machine

/-- A write of another offset than `PWR_STATE`'s leaves the domain asleep or awake. -/
theorem State.primed_setReg (s : State) {g : Reg} {i : Nat} (v : Word) (h : g.off % 4096 ≠ Rg.PWR_STATE.off) :
    (s.setReg g i v).primed = s.primed := by
  have hkey : regKey Rg.PWR_STATE 0 ≠ regKey g i := by
    unfold regKey Rg.PWR_STATE at *
    dsimp only at *
    omega
  have hreg : (s.setReg g i v).fld Fd.PWR_STATE_STATE = s.fld Fd.PWR_STATE_STATE :=
    congrArg (fun w : Word => bits w.toNat _ _) (s.reg_setReg_ne g Rg.PWR_STATE v hkey)
  unfold State.primed State.isTray
  rw [hreg, State.setReg_chip, State.setReg_lcm]

/-- Every unit of the fast domain with a window is one (Table 03-1). -/
theorem hasWindow_of_fastUnit {u : UnitKind} (h : fastUnit u = true) : hasWindow u = true := by
  revert h
  cases u <;> decide

/-- A window command to a sleeping unit, the window idle: its words stand, with RESULT 0xFF. -/
theorem State.winRun_notPrimed {s : State} {u : UnitKind} {i : Nat} (hu : fastUnit u = true)
    (hb : s.fld (Fd.TBL_STAT_BUSY u) i = 0) (hp : s.primed = false) (d : Word) (body : State → WinOut) :
    s.winRun u i d body =
      ((s.setReg (Rg.TBL_CMD u) i (d &&& 0xFFFFFFFF0000FFFF)).setReg (Rg.TBL_STAT u) i 0xFF00).okay := by
  have hasleep : (s.setReg (Rg.TBL_CMD u) i (d &&& 0xFFFFFFFF0000FFFF)).primed = false :=
    (s.primed_setReg _ (by simp)).trans hp
  unfold State.winRun
  rw [if_neg (by omega)]
  dsimp only
  rw [if_pos ⟨hu, congrArg not hasleep⟩]
  simp [WinOut.show, State.win]

/-- Settles O57: an admitted write of `TBL_CMD` is of 64 bits, and the command is not looked at. -/
theorem notPrimed : Obligations.NotPrimed := by
  unfold Obligations.NotPrimed
  intro a u i s hp ha hw hu ho hop hb hprimed
  have hwin := hasWindow_of_fastUnit hu
  refine exec_registerWrite_okay hp ha ?_
  rw [ho] at ha
  rw [State.accessEff_write64 hw ho (by decide) (.inr (by decide)) (by simp [half32]) ha]
  unfold State.writeEff tblCmdWrite
  dsimp only
  rw [if_pos ⟨hwin, rfl⟩, if_neg hop, State.winRun_notPrimed hu hb hprimed]

end Sys2Proof.Machine
end

section
/-! SUPPORT. Accesses at the SET and CLR aliases of a register (R54): the masks of the interrupt groups, and aliases that are none. -/

namespace Sys2Proof.Machine

/-- An admitted access to a register that takes no 32-bit access is of 64 bits. -/
theorem State.admits_size64 {s : State} {a : Access} {u : UnitKind} {i off base al : Nat} (ha : s.admits a u i off)
    (h8 : off % 8 = 0) (hal : aliasOf off = (base, al)) (hf : half32 u base a.write = false) : a.size32 = false := by
  obtain ⟨-, -, -, href, -⟩ := ha
  obtain ⟨-, -, -, -, h32, -⟩ := State.refusal_none_aligned href
  rw [show off / 8 * 8 = off by omega, hal] at h32
  exact Bool.eq_false_iff.mpr fun e => absurd (h32 e).2 (by simp [hf])

/-- A write at an aliased offset writes the register at the base with the whole of `WDATA`, where it takes no 32-bit access. -/
theorem State.accessEff_write_alias {s : State} {a : Access} {u : UnitKind} {i off base al : Nat} (hw : a.write = true)
    (ho : a.addr.toNat % 4096 = off) (h8 : off % 8 = 0) (hal : aliasOf off = (base, al)) (hf : half32 u base a.write = false)
    (ha : s.admits a u i off) : s.accessEff a u i = s.writeEff a.path a.priv.toNat u i base al off a.wdata := by
  unfold State.accessEff
  rw [ho, if_pos hw, show off / 8 * 8 = off by omega, hal, State.admits_size64 ha h8 hal hf]
  rfl

/-- A read at an aliased offset reads the register at the base, whole where it takes no 32-bit access. -/
theorem State.accessEff_read_alias {s : State} {a : Access} {u : UnitKind} {i off base al : Nat} (hw : a.write = false)
    (ho : a.addr.toNat % 4096 = off) (h8 : off % 8 = 0) (hal : aliasOf off = (base, al)) (hf : half32 u base a.write = false)
    (ha : s.admits a u i off) : s.accessEff a u i = s.readEff a.path u i base := by
  unfold State.accessEff
  rw [ho, if_neg (by simp [hw]), show off / 8 * 8 = off by omega, hal, State.admits_size64 ha h8 hal hf]
  rfl

/-- The aliased offset that sets. -/
theorem aliasOf_set {off : Nat} (h : off < 0x400) : aliasOf (0x400 + off) = (off, 1) := by
  unfold aliasOf
  rw [if_pos (by omega), Nat.add_sub_cancel_left]

/-- The aliased offset that clears. -/
theorem aliasOf_clr {off : Nat} (h : off < 0x400) : aliasOf (0x800 + off) = (off, 2) := by
  unfold aliasOf
  rw [if_neg (by omega), if_pos (by omega), Nat.add_sub_cancel_left]

/-! ### The masks of the interrupt groups -/

/-- The bits of the mask of group 0, 1 or 2 (Table 19-9). -/
def ircMaskBits (g : Nat) : Word := if g = 0 then 1 else if g = 1 then 0x3F else 0xF

/-- What a write at the base (0), at the SET offset (1) or at the CLR offset (2) makes of an SC register with the bits `m` (R54). -/
def scWritten (al : Nat) (m old d : Word) : Word :=
  if al = 1 then old ||| (d &&& m) else if al = 2 then old &&& ~~~d else d &&& m

/-- The row of the mask of group 0, 1 or 2. -/
theorem rowAt?_ircMask {g : Nat} (hg : g < 3) :
    ∃ r, rowAt? .irc (0x40 + 16 * g) = some r ∧ r.acc = .sc ∧ BitVec.ofNat 64 r.wmask = ircMaskBits g := by
  match g, hg with
  | 0, _ => exact ⟨_, rfl, rfl, rfl⟩
  | 1, _ => exact ⟨_, rfl, rfl, rfl⟩
  | 2, _ => exact ⟨_, rfl, rfl, rfl⟩

/-- A write of a mask of an interrupt group. -/
theorem State.writeEff_ircMask {g : Nat} (hg : g < 3) (s : State) (p : Path) (priv al at_ : Nat) (d : Word) :
    s.writeEff p priv .irc 0 (0x40 + 16 * g) al at_ d =
      (s.setReg (Rg.IRC_MASK g) 0 (scWritten al (ircMaskBits g) (s.reg (Rg.IRC_MASK g)) d)).okay := by
  obtain ⟨r, hr, hacc, hm⟩ := rowAt?_ircMask hg
  have hplain : s.plain .irc 0 (0x40 + 16 * g) al d =
      s.setReg (Rg.IRC_MASK g) 0 (scWritten al (ircMaskBits g) (s.reg (Rg.IRC_MASK g)) d) := by
    unfold State.plain State.plainWrite
    simp only [hr, hacc, hm]
    rfl
  have hunit : s.unitWrite p .irc 0 (0x40 + 16 * g) al d = s.plain .irc 0 (0x40 + 16 * g) al d := by
    unfold State.unitWrite State.infraWrite
    simp only [roleHidden, State.frozen, Bool.false_eq_true, if_false]
    rw [if_neg (by omega), if_neg (by omega), if_neg (by omega)]
  unfold State.writeEff
  rw [if_neg (by simp [hasWindow]), if_neg (by simp [hasWindow]), if_neg (by omega), hunit, hplain]

/-- A read of a mask of an interrupt group. -/
theorem State.readEff_ircMask {g : Nat} (hg : g < 3) (s : State) (p : Path) :
    s.readEff p .irc 0 (0x40 + 16 * g) = s.gives (s.reg (Rg.IRC_MASK g)) := by
  obtain ⟨r, hr, hacc, -⟩ := rowAt?_ircMask hg
  have hcomp : s.computed? p .irc 0 (0x40 + 16 * g) = none := by
    unfold State.computed?
    rw [if_neg (by omega), if_neg (by omega), if_neg (by omega), if_neg (by omega), if_neg (by omega)]
    dsimp only
    rw [if_neg (by omega), if_neg (by omega)]
  have hview : s.view p .irc 0 (0x40 + 16 * g) = s.reg (Rg.IRC_MASK g) := by
    unfold State.view
    simp only [roleHidden, hcomp, hr, hacc, hasWindow]
    rfl
  unfold State.readEff
  rw [if_neg (by omega), if_neg (by simp), if_neg (by simp), hview, if_neg (by simp [accAt, hr, hacc])]

/-- No register of IRC between the header and the PENDING words takes a 32-bit access. -/
theorem half32_irc {off : Nat} (h : 0x40 ≤ off) (w : Bool) : half32 .irc off w = false := by
  simp only [half32, hasWindow, Bool.false_and, Bool.or_false]
  cases w <;> simp <;> omega

/-! ### An aliased offset without an SC register -/

/-- The base of an offset in the SET or CLR range. -/
theorem aliasOf_of_range {off : Nat} (h1 : 0x400 ≤ off) (h2 : off < 0xC00) :
    (aliasOf off).1 = off % 0x400 ∧ (aliasOf off).2 ≠ 0 := by
  unfold aliasOf
  by_cases h : off < 0x800
  · rw [if_pos ⟨h1, h⟩]
    exact ⟨show off - 0x400 = _ by omega, Nat.one_ne_zero⟩
  · rw [if_neg (by omega), if_pos (by omega)]
    exact ⟨show off - 0x800 = _ by omega, Nat.succ_ne_zero 1⟩

/-- An access at an aliased offset whose base is no SC register breaks R54. -/
theorem State.aliased_mem_breaches {s : State} {u : UnitKind} {off : Nat} (h1 : 0x400 ≤ off) (h2 : off < 0xC00)
    (hn : hasAlias s.isTray u (off / 8 * 8 % 0x400) = false) (a : Access) (i : Nat) : ErrFlag.aliased ∈ s.breaches a u i off := by
  obtain ⟨hbase, hal⟩ := aliasOf_of_range (off := off / 8 * 8) (by omega) (by omega)
  have hbad : s.badAlias u off = true := by simp [State.badAlias, hbase, hal, hn]
  simp [State.breaches, hbad]

/-- An access that breaks R54 is refused: every flag is set, and it counts in ALIAS_CNT. -/
theorem State.gate_aliased {s : State} {a : Access} {u : UnitKind} {i off p : Nat} {eff : State → AccOut}
    (hb : s.behind a = false) (hc : a.path = .host → requestCheck a = a.chk) (hp : unitPage s.chip.role u i = some p)
    (hf : s.chip.fitted u i = true) (hal : ErrFlag.aliased ∈ s.breaches a u i off) :
    s.gate a u i off eff = (((s.breaches a u i off).foldl (fun s f => s.pgErr u i f off) s).violation
      Fd.DIR_VIOL_ALIAS_CNT .denied a).answer .denied 0 := by
  have href : s.refusal a u i off = some (.denied, s.breaches a u i off) := by
    unfold State.refusal
    exact if_pos (List.ne_nil_of_mem hal)
  have hcontains : (s.breaches a u i off).contains .aliased = true := List.contains_iff_mem.mpr hal
  unfold State.gate
  rw [if_neg (by simp [hb]), if_neg (fun ⟨h, k⟩ => k (hc h)), hp]
  dsimp only
  rw [if_neg (by simp [hf]), href]
  dsimp only
  unfold State.refuse
  rw [if_pos rfl, if_pos hcontains]

/-- Settles O60: the mask rows are SC rows, and an aliased offset without an SC register is one of the breaches. -/
theorem setClear : Obligations.SetClear := by
  unfold Obligations.SetClear
  refine ⟨fun a g m v s hg hm hp hw ha hv => ?_, fun a g s hg hp hw ha ho => ?_,
    fun a u i off s hp hc hf hb ho h1 h2 hn => ?_⟩
  · have heff : ∀ al off, a.addr.toNat % 4096 = off → off % 8 = 0 → aliasOf off = (0x40 + 16 * g, al) →
        v = scWritten al (ircMaskBits g) (s.reg (Rg.IRC_MASK g)) a.wdata →
        s.accessEff a .irc 0 = (s.setReg (Rg.IRC_MASK g) 0 v).okay := fun al off ho h8 hal hval => by
      rw [State.accessEff_write_alias hw ho h8 hal (half32_irc (by omega) _) (ho ▸ ha), State.writeEff_ircMask hg, hval]
    refine exec_registerWrite_okay hp ha ?_
    subst hm
    obtain ⟨ho, hval⟩ | ⟨ho, hval⟩ | ⟨ho, hval⟩ := hv
    · exact heff 0 _ ho (by omega) (aliasOf_eq_self (.inl (by omega))) hval
    · exact heff 1 (0x400 + (0x40 + 16 * g)) (by omega) (by omega) (aliasOf_set (by omega)) hval
    · exact heff 2 (0x800 + (0x40 + 16 * g)) (by omega) (by omega) (aliasOf_clr (by omega)) hval
  · have hread : ∀ al off, a.addr.toNat % 4096 = off → off % 8 = 0 → aliasOf off = (0x40 + 16 * g, al) →
        exec (.registerWrite a) s = .next (s.answer .okay (s.reg (Rg.IRC_MASK g))).settle := fun al off ho h8 hal => by
      have hx := exec_registerWrite_admits hp ha
      rw [State.accessEff_read_alias hw ho h8 hal (half32_irc (by omega) _) (ho ▸ ha), State.readEff_ircMask hg,
        AccOut.finish_okay rfl] at hx
      exact hx
    obtain ho | ho | ho := ho
    · exact hread 0 _ ho (by omega) (aliasOf_eq_self (.inl (by omega)))
    · exact hread 1 (0x400 + (0x40 + 16 * g)) (by omega) (by omega) (aliasOf_set (by omega))
    · exact hread 2 (0x800 + (0x40 + 16 * g)) (by omega) (by omega) (aliasOf_clr (by omega))
  · subst ho
    have hal := State.aliased_mem_breaches h1 h2 hn a i
    refine ⟨hal, ?_⟩
    change execRegisterWrite a s = _
    unfold execRegisterWrite State.access
    rw [hp]
    dsimp only
    rw [State.gate_aliased hb hc (unitPage_of_pageUnit hp) hf hal]

end Sys2Proof.Machine
end

section
/-! SUPPORT. A row of its own, by the effect it has on the state: one law for a write, one for a read, one for a window command. -/

namespace Sys2Proof.Machine

/-- A row's write, admitted, whose effect is state `t`. -/
theorem rowWrite_next {s t : State} {q : Req} {u : UnitKind} {i off : Nat} {d : Word} {f : State → State}
    (h : s.admitsWrite q u i off d) (ht : f s = t) :
    (.next (s.rowWrite q u i off d fun s => (f s).okay) : Host.Outcome State Fault Refusal) = .next (t.answer .okay 0) := by
  rw [State.rowWrite_okay h, ht]

/-- A row's read, admitted, with its effect and data. -/
theorem rowRead_next {s t : State} {q : Req} {u : UnitKind} {i off : Nat} {v : Word} {eff : State → AccOut}
    (h : s.admitsRead q u i off) (ht : eff s = t.gives v) :
    (.next (s.rowRead q u i off eff) : Host.Outcome State Fault Refusal) = .next (t.answer .okay v) := by
  rw [State.rowRead_admits h (by rw [ht]; rfl), ht]
  rfl

/-- A window command that takes effect, with its outcome `o`. -/
theorem winCmd_next {s t : State} {q : Req} {u : UnitKind} {i table op index : Nat} {body : State → WinOut} {o : WinOut}
    (h : s.runs t q u i table op index) (ho : body t = o) :
    (.next (s.winCmd q u i table op index body) : Host.Outcome State Fault Refusal) = .next (o.replied u i) := by
  rw [State.winCmd_runs h, ho]

end Sys2Proof.Machine
end

section
/-! SUPPORT. The accesses and the rows of the page header, of DIR and of fault injection (chapter 02, R485). -/

namespace Sys2Proof.Machine

/-- Settles O1: the gate of an admitted access is its effect. -/
theorem accessesTakeEffect : Obligations.AccessesTakeEffect := by
  unfold Obligations.AccessesTakeEffect
  refine ⟨fun a s u i hp ha hc => ?_, fun q u i off d s ha hc => ?_, fun q u i off d s ha hc => ?_⟩
  · exact (exec_registerWrite_admits hp ha).trans (by rw [AccOut.finish_okay hc])
  · exact congrArg (fun t : State => Host.Outcome.next t.settle) (State.rowWrite_admits ha hc)
  · exact congrArg (fun t : State => Host.Outcome.next t.settle) (State.rowWrite_admits ha hc)

/-- A read that clears (R37), of a register whose read does nothing else. -/
theorem State.readEff_rc {s : State} {p : Path} {u : UnitKind} {i off : Nat} (hrc : accAt u off = some .rc)
    (h1 : ¬(u = .irc ∧ 0x1C0 ≤ off ∧ off < 0x1E0)) (h2 : ¬(u = .mxe ∧ 0x380 ≤ off ∧ off < 0x400))
    (h3 : ¬(u = .tkp ∧ off = 0x48)) : s.readEff p u i off = (s.setReg ⟨u, off⟩ i 0).gives (s.view p u i off) := by
  unfold State.readEff
  rw [if_neg h1, if_neg h2, if_neg h3]
  exact if_pos hrc

/-- A read of `MXE_RMON_STAT`. -/
theorem State.readEff_rmonStat {k : Nat} (hk : k < 16) (s : State) (p : Path) (i : Nat) :
    s.readEff p .mxe i (0x380 + 8 * k) = rmonStatRead i k s := by
  unfold State.readEff
  rw [if_neg (by simp), if_pos ⟨rfl, by omega, by omega⟩, show (0x380 + 8 * k - 0x380) / 8 = k by omega]

/-- A value of `PG_LOCK` that the writer may set (R46). -/
theorem State.lockWrite_ok {s : State} {u : UnitKind} {i priv : Nat} {d : Word} (hu : u ≠ .dir) (h3 : bits d.toNat 1 0 ≠ 3)
    (hp : bits d.toNat 1 0 ≤ priv) : s.lockWrite u i priv d = s.setReg (Rg.PG_LOCK u) i (d &&& 0x10003) := by
  unfold State.lockWrite
  rw [if_neg hu, if_neg (by omega)]

/-- A write of a register of DIR leaves the lanes' activity. -/
theorem State.laneActive_setReg_dir (s : State) {off : Nat} (h : off < 4096) (v : Word) (w : Nat) :
    (s.setReg ⟨.dir, off⟩ 0 v).laneActive w = s.laneActive w := by
  have hkey : regKey Rg.SLK_STATE w ≠ regKey ⟨.dir, off⟩ 0 := by
    unfold regKey unitCode
    dsimp only
    omega
  unfold State.laneActive State.lstate State.fld
  rw [s.reg_setReg_ne _ _ v hkey]

/-- A write of `DIR_NODE` in range, where no lane of a leaf trains anew for it (R61). -/
theorem State.nodeWrite_ok {s : State} {d : Word}
    (hr : (if s.isTray then decide (bits d.toNat 19 0 < 2 ^ 11 ∧ bits d.toNat 34 20 = 0)
      else decide (bits d.toNat 19 0 < 2 ^ 18)) = true) (hl : s.isTray = true ∨ s.laneActive 0 = false) :
    s.nodeWrite d = s.setReg Rg.DIR_NODE 0
      (BitVec.ofNat 64 (2 ^ 63 + bits d.toNat 34 20 * 2 ^ 20 + bits d.toNat 19 0)) := by
  have hstay : ∀ v, (!(s.setReg Rg.DIR_NODE 0 v).isTray && (s.setReg Rg.DIR_NODE 0 v).laneActive 0) = false := fun v => by
    rw [State.isTray, State.setReg_chip, s.laneActive_setReg_dir (by decide), ← State.isTray]
    rcases hl with h | h <;> simp [h]
  unfold State.nodeWrite
  rw [if_pos hr]
  generalize BitVec.ofNat 64 _ = v
  exact if_neg (Bool.eq_false_iff.mp (hstay v))

/-- Settles O2: each row's write or read is the effect of its register. -/
theorem headerCommands : Obligations.HeaderCommands := by
  unfold Obligations.HeaderCommands
  refine ⟨fun q u i off s ha h8 hoff hrc hmxe hirc htkp => ?_, fun q i k s hk ha => ?_, fun q s ha => ?_, fun q u i d s ha => ?_,
    fun q u i d s ha hu h3 hp => ?_, fun q i d s ha => ?_, fun q d s ha ht hn hp => ?_, fun q d s ha ht hn hl => ?_,
    fun q d s ha => ?_⟩
  · refine rowRead_next ha ?_
    rw [show off / 8 * 8 = off by omega, aliasOf_eq_self (.inl hoff)]
    exact State.readEff_rc hrc hirc (fun h => hmxe ⟨h.1, h.2.1⟩) htkp
  · refine (congrArg Host.Outcome.next (State.rowRead_admits ha ?_)).trans ?_
    all_goals rw [show (0x380 + 8 * k) / 8 * 8 = 0x380 + 8 * k by omega, aliasOf_eq_self (.inl (by omega)),
      State.readEff_rmonStat hk]
    rfl
  · exact rowRead_next ha (State.readEff_rc (by decide) (by simp) (by simp) (by simp))
  · exact rowWrite_next ha rfl
  · exact rowWrite_next ha (State.lockWrite_ok hu h3 hp)
  · exact rowWrite_next ha (if_pos rfl)
  · exact rowWrite_next ha (State.nodeWrite_ok (by rw [if_pos ht, hp]; exact decide_eq_true ⟨hn, rfl⟩) (.inl ht))
  · exact rowWrite_next ha (State.nodeWrite_ok (by rw [if_neg (by simp [ht])]; exact decide_eq_true hn) (.inr hl))
  · exact congrArg (fun t : State => Host.Outcome.next t.settle) (State.rowWrite_okay ha)

/-! ### Unit reset, the port's timeout, a core's access -/

/-- A core's access to the register window. -/
theorem coreRegAccess_regs {c : Nat} {addr : BitVec 32} {op : CoreOp} {s : State} {off : Nat} (hf : s.coreFree c = true)
    (hat : s.coreAt addr.toNat op = some (.regs, off)) (pc data : BitVec 32) (ecc : Bool) :
    coreRegAccess c pc addr op data ecc s = s.coreWindow c pc (BitVec.ofNat 22 off) (op == .store 4) data := by
  unfold coreRegAccess
  rw [if_neg (by simp [hf]), hat]

/-- A core's access to its local registers. -/
theorem coreRegAccess_local {c : Nat} {addr : BitVec 32} {op : CoreOp} {s : State} {off : Nat} (hf : s.coreFree c = true)
    (hat : s.coreAt addr.toNat op = some (.local, off)) (pc data : BitVec 32) (ecc : Bool) :
    coreRegAccess c pc addr op data ecc s = s.coreLocal c pc off op data ecc := by
  unfold coreRegAccess
  rw [if_neg (by simp [hf]), hat]

/-- A core's access to a memory that meets no uncorrectable error. -/
theorem coreRegAccess_memory {c : Nat} {addr : BitVec 32} {op : CoreOp} {ecc : Bool} {s : State} {m : CoreMem} {off : Nat}
    (hf : s.coreFree c = true) (hat : s.coreAt addr.toNat op = some (m, off)) (hm : m = .imem ∨ m = .dmem ∨ m = .shared)
    (he : (ecc && m.ecc op) = false) (pc data : BitVec 32) :
    coreRegAccess c pc addr op data ecc s = (s.coreData c m addr.toNat off op data).coreDone := by
  unfold coreRegAccess
  rw [if_neg (by simp [hf]), hat]
  obtain rfl | rfl | rfl := hm <;> exact if_neg (Bool.eq_false_iff.mp he)

/-- A core's access to an address that its map does not hold. -/
theorem coreRegAccess_of_none {c : Nat} {pc addr data : BitVec 32} {op : CoreOp} {ecc : Bool} {s : State}
    (hf : s.coreFree c = true) (hat : s.coreAt addr.toNat op = none) :
    coreRegAccess c pc addr op data ecc s = s.coreTrap c pc (accFault op) addr := by
  unfold coreRegAccess
  rw [if_neg (by simp [hf]), hat]

/-- Settles O3: UNIT_RESET is its write of `PG_CTRL`; a core's access goes by the region. -/
theorem resetAndWaiting : Obligations.ResetAndWaiting := by
  unfold Obligations.ResetAndWaiting
  refine ⟨fun q u i d s ha h3 h1 => ?_, fun u i s h1 h2 h3 => ?_, fun s w rest hw => ?_,
    fun c pc addr data ecc off s hf hat h2 => ?_, fun c pc addr data ecc off s hf hat h2 => ?_,
    fun c pc addr data op ecc off s hf hat h2 => ?_, fun c pc addr data ecc off n s hf hat => ?_,
    fun c pc addr data op m off s hf hat hm => ?_, fun c pc addr data op ecc off s hf hat => ?_,
    fun c pc addr data op ecc s hf hat => ?_⟩
  · refine congrArg (fun t : State => Host.Outcome.next t.settle) ((State.rowWrite_okay ha).trans ?_)
    unfold State.ctrlWrite
    rw [if_neg h3]
    dsimp only
    rw [if_pos h1]
  · exact congrArg Host.Outcome.next (if_pos ⟨h1, h2, by simp [h3]⟩)
  · refine congrArg (fun t : State => Host.Outcome.next t.settle) ?_
    unfold portTimeout
    rw [hw]
  all_goals refine congrArg (fun t : State => Host.Outcome.next t.settle) ?_
  · exact (coreRegAccess_regs hf hat ..).trans (if_pos h2)
  · exact (coreRegAccess_regs hf hat ..).trans (if_pos h2)
  · exact (coreRegAccess_regs hf hat ..).trans (if_neg (Bool.eq_false_iff.mp h2))
  · exact coreRegAccess_memory hf hat (.inr (.inl rfl)) (Bool.and_false _) pc data
  · exact coreRegAccess_memory hf hat hm rfl pc data
  · exact coreRegAccess_local hf hat ..
  · exact coreRegAccess_of_none hf hat

end Sys2Proof.Machine
end

section
/-! SUPPORT. The time exchange, missed intervals, PTP and the windows of TKP (chapter 04). -/

namespace Sys2Proof.Machine

/-- The conditions of a message that only a leaf takes, on an active lane. -/
theorem leaf_and_active {s : State} {w : Nat} (hl : s.isTray = false) (ha : s.laneActive w = true) :
    (!s.isTray) = true ∧ s.laneActive w = true := ⟨by rw [hl]; rfl, ha⟩

/-- Settles O4: each message that the lane takes has its effect, under the conditions of its role. -/
theorem timeExchangeCommands : Obligations.TimeExchangeCommands := by
  unfold Obligations.TimeExchangeCommands
  refine ⟨fun w s ht he hv ha => ?_, fun f sub s hl ha => ?_, fun w exId sub s ht ha => ?_,
    fun exId t4 replayed s hl ha he => ?_, fun s h => ?_, fun q s ha => ?_⟩
  · exact congrArg Host.Outcome.next (if_pos ⟨ht, he, hv, ha⟩)
  · exact congrArg Host.Outcome.next (if_pos (leaf_and_active hl ha))
  · exact congrArg Host.Outcome.next (if_pos ⟨ht, ha⟩)
  · exact congrArg Host.Outcome.next ((if_pos (leaf_and_active hl ha)).trans (if_pos he))
  · exact congrArg Host.Outcome.next (if_pos h)
  · exact rowRead_next ha rfl

/-- The state after a missed interval is counted, before R93 looks at the run of them. -/
theorem missedInterval_of_lastC {s : State} {c : Nat} (hc : s.tkp.lastC = some c) (he : s.enabled .tkp = true)
    (hi : 0 < s.tkp.interval) :
    let m := nextMiss c s.tkp.missAt (s.tkp.interval * 65536)
    let t := s.reachTime m
    let u := { t.bump Fd.TKP_CNT_MISSED with tkp := { t.tkp with missedRun := t.tkp.missedRun + 1, missAt := m } }
    missedInterval s = if u.servoFld Fd.TKP_SERVO_CFG_LOSS_CNT ≤ u.tkp.missedRun then u.toHoldover else u := by
  unfold missedInterval
  rw [hc]
  exact if_pos ⟨he, hi⟩

/-- Settles O5: a missed interval is counted, and the run of them decides. -/
theorem missedIntervals : Obligations.MissedIntervals := by
  unfold Obligations.MissedIntervals
  intro s c hc he hi m t u
  have hmiss : missedInterval s = if u.servoFld Fd.TKP_SERVO_CFG_LOSS_CNT ≤ u.tkp.missedRun then u.toHoldover else u :=
    missedInterval_of_lastC hc he hi
  exact ⟨fun h => congrArg Host.Outcome.next (hmiss.trans (if_neg (by omega))),
    fun h => congrArg Host.Outcome.next (hmiss.trans (if_pos h))⟩

/-- A message that the port takes has its effect on the port's exchange. -/
theorem State.ptpRx_taken {s : State} {p : Nat} {m : PtpMsg} {ok : Bool} (hon : s.ptpOn p = true) (ht : s.ptpTakes m = true)
    (hok : ok = true) (f : PtpPort → State → State) : s.ptpRx p m ok f = f (s.ptpPort p) s := by
  unfold State.ptpRx
  rw [if_pos hon, if_pos (by rw [ht, hok]; rfl)]

/-- The delay mechanism is not held in a port's exchange. -/
theorem State.p2p_setPtp (s : State) (p : Nat) (x : PtpPort) : (s.setPtp p x).p2p = s.p2p := by
  unfold State.p2p
  rw [State.setPtp_fld]

/-- A delay response of an end-to-end exchange that the port awaits. -/
theorem ptpDelayRespRx_awaited {p : Nat} {m : PtpMsg} {s : State} {t1 t3 : Nat} (hon : s.ptpOn p = true)
    (ht : s.ptpTakes m = true) (hp : s.p2p = false) (h1 : (s.ptpPort p).t1 = some t1) (h3 : (s.ptpPort p).t3 = some t3)
    (ha : (s.ptpPort p).answers m = true) :
    ptpDelayRespRx p m s = (s.setPtp p { s.ptpPort p with t1 := none, t3 := none }).ptpEnd p (s.ptpPort p)
      (t1 + (s.ptpPort p).syncCorr) t3 (m.ts - m.corr) := by
  unfold ptpDelayRespRx
  rw [State.ptpRx_taken hon ht rfl, hp, h1, h3]
  exact if_pos ha

/-- A peer delay response that the port awaits: a one-step one ends the exchange, a two-step one is kept. -/
theorem ptpPdelayRespRx_awaited {p : Nat} {m : PtpMsg} {sub : Nat} {s : State} {t1 : Nat} (hon : s.ptpOn p = true)
    (ht : s.ptpTakes m = true) (hp : s.p2p = true) (h3 : (s.ptpPort p).t3 = some t1) (ha : (s.ptpPort p).answers m = true) :
    ptpPdelayRespRx p m sub s =
      if m.twoStep then s.setPtp p { s.ptpPort p with pdT2 := some m.ts, pdT4 := s.rxTime (128 + p) sub, pdCorr := m.corr }
      else s.peerDelay p (s.ptpPort p) t1 (s.rxTime (128 + p) sub) m.corr := by
  unfold ptpPdelayRespRx
  rw [State.ptpRx_taken hon ht rfl]
  split
  next t _ ht3 =>
    obtain rfl : t1 = t := Option.some.inj (h3.symm.trans ht3)
    rw [if_neg (by simp [ha])]
  next hno => exact (hno t1 hp h3).elim

/-- The follow-up of a two-step peer delay response that the port awaits. -/
theorem ptpPdelayRespFuRx_awaited {p : Nat} {m : PtpMsg} {s : State} {t1 t2 : Nat} (hon : s.ptpOn p = true)
    (ht : s.ptpTakes m = true) (h3 : (s.ptpPort p).t3 = some t1) (h2 : (s.ptpPort p).pdT2 = some t2)
    (ha : (s.ptpPort p).answers m = true) :
    ptpPdelayRespFuRx p m s =
      s.peerDelay p (s.ptpPort p) t1 (s.ptpPort p).pdT4 ((m.ts : Int) - t2 + (s.ptpPort p).pdCorr + m.corr) := by
  unfold ptpPdelayRespFuRx
  rw [State.ptpRx_taken hon ht rfl, h3, h2]
  exact if_pos ha

/-- Settles O6: a port that takes a message does with it what the exchange awaits. -/
theorem ptpCommands : Obligations.PtpCommands := by
  unfold Obligations.PtpCommands
  refine ⟨fun p m sub s hon ht h1 h2 => ?_, fun p m s hon ht h1 h2 h3 => ?_, fun p sub s hon hp => ?_, fun p sub s hon hp => ?_,
    fun p m s t1 t3 hon ht hp h1 h3 ha => ?_, fun p m sub s hon ht => ?_, fun p m sub s t1 hon ht hp h3 ha h2 => ?_,
    fun p m sub s t1 hon ht hp h3 ha h2 => ?_, fun p m s t1 t2 hon ht h3 h2 ha => ?_, fun p m s hon ht => ?_, fun p s hon => ?_⟩
  all_goals refine congrArg Host.Outcome.next ?_
  · exact State.ptpRx_taken hon ht (decide_eq_true ⟨h1, h2⟩) _
  · exact (State.ptpRx_taken hon ht rfl _).trans (if_pos ⟨h1, h2, h3⟩)
  · exact (if_pos hon).trans (if_pos ((s.p2p_setPtp p _).trans hp))
  · exact (if_pos hon).trans (if_neg (by rw [s.p2p_setPtp p _, hp]; exact Bool.false_ne_true))
  · exact ptpDelayRespRx_awaited hon ht hp h1 h3 ha
  · exact State.ptpRx_taken hon ht rfl _
  · exact (ptpPdelayRespRx_awaited hon ht hp h3 ha).trans (if_neg (by simp [h2]))
  · exact (ptpPdelayRespRx_awaited hon ht hp h3 ha).trans (if_pos h2)
  · exact ptpPdelayRespFuRx_awaited hon ht h3 h2 ha
  · exact State.ptpRx_taken hon ht rfl _
  · exact if_pos hon

/-- A pop of a port's transmit timestamps takes the oldest. -/
theorem txtsPop_cons {p : Nat} {s : State} {e : TxTs} {r : List TxTs} (hp : s.portFitted p = true)
    (hq : s.tkp.txts.getD p [] = e :: r) :
    txtsPop p s = { s with tkp := { s.tkp with txts := s.tkp.txts.set p r } }.winData
      [BitVec.ofNat 64 (time96 e.time), BitVec.ofNat 64 (time96 e.time / 2 ^ 64 + e.ident.toNat * 2 ^ 32 +
        b2n e.ovfBefore * 2 ^ 48 + b2n e.notLocked * 2 ^ 49)] := by
  unfold txtsPop
  rw [if_neg (by simp [hp]), hq]

/-- Settles O7: each command of a fitted port takes the entry that its index names. -/
theorem timeWindows : Obligations.TimeWindows := by
  unfold Obligations.TimeWindows
  refine ⟨fun q p s t e r h hp hq => ?_, fun q p s t h hp => ?_, fun q p s t h _ hp => ?_⟩
  · exact winCmd_next h (txtsPop_cons hp hq)
  · exact winCmd_next h (if_neg (by simp [hp]))
  · exact winCmd_next h (if_neg (by simp [hp]))

end Sys2Proof.Machine
end

section
/-! SUPPORT. The management path (chapter 02), the power sequence and the votes (chapter 03). -/

namespace Sys2Proof.Machine

/-- The answer to a request that is outstanding on a lane did not come in time. -/
theorem mgmtTimeout_outstanding {w : Nat} {sq : BitVec 16} {s : State} {o : MgmtOut}
    (ho : (s.lane w).out.find? (fun (x : MgmtOut) => x.seq == sq) = some o) :
    mgmtTimeout w sq s = (((s.reach (o.sent + 200 * cyUs)).modLane w fun l =>
      { l with out := l.out.filter fun (x : MgmtOut) => x.seq != sq }).relayTimeout w o.origin [sq]).relayNext w := by
  unfold mgmtTimeout
  rw [ho]

/-- A pop of a relayed reply takes the oldest. -/
theorem mgrRelayPop_cons {w : Nat} {s : State} {r : MgmtReply} {l : List MgmtReply} (hw : w < s.wellheads)
    (hq : s.mgr.relayed.getD w [] = r :: l) :
    mgrRelayPop w s = { s with mgr := { s.mgr with
        relayed := if l.isEmpty then s.mgr.relayed.erase w else s.mgr.relayed.set w l } }.winData
      [r.rdata, BitVec.ofNat 64 (r.rstat.toNat * 65536 + r.seq.toNat)] w := by
  unfold mgrRelayPop
  rw [if_neg (by omega), hq]

/-- Settles O8: what a lane in service brings is executed or relayed. -/
theorem managementCommands : Obligations.ManagementCommands := by
  unfold Obligations.ManagementCommands
  refine ⟨fun es s hl ha => ?_, fun p f s ht hp he hk => ?_, fun s ht hl => ?_, fun w rs s ht hw ha => ?_,
    fun w sq s o ho => ?_, fun q w s t h hw hn => ?_, fun q w s t r l h hw hq => ?_⟩
  · exact congrArg (fun t : State => Host.Outcome.next t.settle) (if_pos (leaf_and_active hl ha))
  · exact congrArg (fun t : State => Host.Outcome.next t.settle) (if_pos ⟨ht, hp, he, hk⟩)
  · exact congrArg Host.Outcome.next (if_pos ⟨ht, hl⟩)
  · exact congrArg Host.Outcome.next (if_pos ⟨ht, hw, ha⟩)
  · exact congrArg Host.Outcome.next (mgmtTimeout_outstanding ho)
  · exact winCmd_next h ((if_neg (by omega)).trans (if_neg (by omega)))
  · exact winCmd_next h (mgrRelayPop_cons hw hq)

/-! ### The power sequence -/

/-- FAST_VOK did not come by its instant. -/
theorem fastVokTimeout_waiting {s : State} {e : Nat} (hp : s.pst = 2) (he : s.pwr.vokWait = some e) :
    fastVokTimeout s = (s.reach e).primeFailed := by
  unfold fastVokTimeout
  rw [he]
  exact if_pos hp

/-- FAST_VOK comes: a sequence that waits for it starts. -/
theorem fastVokAssert_low {s : State} (h : s.pwr.vok = false) :
    fastVokAssert s = { s with pwr := if s.pwr.vokWait.isSome then { s.pwr with vok := true, vokWait := none, start := s.aon }
      else { s.pwr with vok := true } } := by
  unfold fastVokAssert
  rw [if_neg (by simp [h])]

/-- Settles O9: each event acts in the state of the sequence that it belongs to. -/
theorem powerCommands : Obligations.PowerCommands := by
  unfold Obligations.PowerCommands
  refine ⟨fun s h => ?_, fun s h ht => ?_, fun s hv hw => ?_, fun s hv hw => ?_, fun s h hw => ?_, fun s e h he => ?_,
    fun q d s ha hl hd => ?_, fun q d s ha hl hd => ?_, fun q d s ha hl hd => ?_, fun s h2 h5 hw hl => ?_⟩
  · exact congrArg Host.Outcome.next (if_pos h)
  · exact congrArg Host.Outcome.next (if_pos ⟨h, ht⟩)
  · exact congrArg Host.Outcome.next ((fastVokAssert_low hv).trans (by rw [if_pos hw]))
  · exact congrArg Host.Outcome.next ((fastVokAssert_low hv).trans (by rw [if_neg (by simp [hw])]))
  · exact congrArg Host.Outcome.next (if_pos ⟨h, hw⟩)
  · exact congrArg Host.Outcome.next (fastVokTimeout_waiting h he)
  · exact rowWrite_next ha (if_neg (by simp [hl, hd]))
  · exact rowWrite_next ha ((if_neg (by simp [hl])).trans (if_pos hd))
  · exact rowWrite_next ha ((if_neg (by simp [hl])).trans (if_neg (Bool.eq_false_iff.mp hd)))
  · exact congrArg Host.Outcome.next (if_pos ⟨h2, h5, hw, hl⟩)

/-! ### The end of priming -/

/-- The cores' waking begins the transfers of their accesses to host memory and changes nothing but them and the cores. -/
theorem State.coresWake_eq (s : State) : ∃ cor pmp, s.coresWake = { s with cor, pmp } := by
  unfold State.coresWake
  dsimp only
  refine List.foldlRecOn (motive := fun t : State => ∃ cor pmp, t = { s with cor, pmp }) _ _ ⟨_, _, rfl⟩ ?_
  rintro t ⟨cor, pmp, rfl⟩ x -
  split
  · exact ⟨_, _, rfl⟩
  · exact ⟨_, _, rfl⟩

/-- The domain is PRIMED with no failure counted; the boot, the clock and the votes are those of `s`. -/
structure PrimedFrom (s t : State) : Prop where
  pst : t.pst = 3
  fails : t.pwr.fails = 0
  boot : t.pwr.boot = s.pwr.boot
  aon : t.aon = s.aon
  vote : t.reg Rg.PWR_VOTE = s.reg Rg.PWR_VOTE

/-- A change of fields of other registers than `PWR_STATE` and `PWR_VOTE`. -/
theorem PrimedFrom.setFld {s t : State} (h : PrimedFrom s t) {f : Fld} (hs : regKey Rg.PWR_STATE 0 ≠ regKey f.reg 0)
    (hv : regKey Rg.PWR_VOTE 0 ≠ regKey f.reg 0) (v : Nat) : PrimedFrom s (t.setFld f 0 v) where
  pst := by
    unfold State.pst State.fld
    rw [t.reg_setFld_ne f v hs]
    exact h.pst
  fails := h.fails
  boot := h.boot
  aon := h.aon
  vote := (t.reg_setFld_ne f v hv).trans h.vote

/-- A change of state outside the registers, the power sequence and the clock. -/
theorem PrimedFrom.of_eq {s t u : State} (h : PrimedFrom s t) (hchip : u.chip = t.chip) (hregs : u.regs = t.regs)
    (hpwr : u.pwr = t.pwr) (haon : u.aon = t.aon) : PrimedFrom s u where
  pst := by
    unfold State.pst State.fld State.reg
    rw [hchip, hregs]
    exact h.pst
  fails := hpwr ▸ h.fails
  boot := hpwr ▸ h.boot
  aon := haon.trans h.aon
  vote := by
    unfold State.reg
    rw [hchip, hregs]
    exact h.vote

/-- PRIMED is entered. -/
theorem PrimedFrom.enter (s : State) : PrimedFrom s { s.setFld Fd.PWR_STATE_STATE 0 3 with pwr := { s.pwr with fails := 0 } } where
  pst := s.fld_setFld_same 0 3 (by decide)
  fails := rfl
  boot := rfl
  aon := rfl
  vote := s.reg_setFld_ne Fd.PWR_STATE_STATE 3 (by decide)

/-- What PRIMING_DONE leaves before it looks at the boot and the votes. -/
theorem primingDone_primed {s : State} (h2 : s.pst = 2) (hw : s.pwr.vokWait = none) :
    ∃ t, PrimedFrom s t ∧ primingDone s =
      if t.pwr.boot then { t.setFld Fd.LCM_STATE_PHASE 0 3 with lcm := { t.lcm with wipeFrom := t.aon } }
      else if t.reg Rg.PWR_VOTE = 0 then t.enterHold else t := by
  unfold primingDone
  rw [if_pos ⟨h2, hw⟩]
  extract_lets lat _ _ s1 s2 s3 _ s4
  have h1 : PrimedFrom s s1 := .enter s
  have hcount : PrimedFrom s s2 := by
    unfold s2
    split
    · exact h1
    · have hc : PrimedFrom s (s1.bumpW Fd.PWR_PRIME_CNT_COUNT) := h1.setFld (f := Fd.PWR_PRIME_CNT_COUNT) (by decide) (by decide) _
      have hi : PrimedFrom s ((s1.bumpW Fd.PWR_PRIME_CNT_COUNT).item 2) := hc.of_eq rfl rfl rfl rfl
      exact (hi.setFld (f := Fd.PWR_LAST_WAKE_LAST) (by decide) (by decide) _).setFld (f := Fd.PWR_LAST_WAKE_WORST)
        (by decide) (by decide) _
  have hwake : PrimedFrom s s3 := by
    obtain ⟨cor, pmp, h⟩ := s2.coresWake_eq
    have hs3 : s3 = { s2 with cor, pmp } := h
    exact hcount.of_eq (by rw [hs3]) (by rw [hs3]) (by rw [hs3]) (by rw [hs3])
  refine ⟨s4, ?_, rfl⟩
  unfold s4
  split
  · exact hwake.of_eq rfl rfl rfl rfl
  · exact hwake

/-- Settles O10: priming ends in PRIMED; then a boot goes on to its wipe, and without a vote the domain holds. -/
theorem primingEnds : Obligations.PrimingEnds := by
  unfold Obligations.PrimingEnds
  intro s h2 hw
  obtain ⟨t, h, ht⟩ := primingDone_primed h2 hw
  refine ⟨_, congrArg Host.Outcome.next ht, ?_⟩
  rw [h.boot]
  split
  next hb =>
    have hp := h.setFld (f := Fd.LCM_STATE_PHASE) (by decide) (by decide) 3
    exact ⟨hp.fails, fun _ => ⟨hp.pst, t.fld_setFld_same 0 3 (by decide), h.aon⟩, fun hn => absurd hb (by simp [hn])⟩
  next hb =>
    split
    next hv => exact ⟨h.fails, fun e => absurd e hb, fun _ hne => absurd (h.vote ▸ hv) hne⟩
    next => exact ⟨h.fails, fun e => absurd e hb, fun _ _ => h.pst⟩

/-- Settles O11: a vote that rises or falls is the vote's own change. -/
theorem voteCommands : Obligations.VoteCommands := by
  unfold Obligations.VoteCommands
  refine ⟨fun v s h _ _ => ?_, fun v s h _ _ => ?_⟩
  · exact congrArg Host.Outcome.next (if_pos h)
  · exact congrArg Host.Outcome.next (if_neg (by simp [h]))

end Sys2Proof.Machine
end

section
/-! SUPPORT. The wellhead handshake, ticks, rows and springs (chapter 05). -/

namespace Sys2Proof.Machine

/-- A change of a field of another register than `PG_CTRL` and `SCR_DEGRADED` leaves a unit in or out of service. -/
theorem State.live_setFld (s : State) {f : Fld} {i j : Nat} {u : UnitKind} (v : Nat)
    (hctrl : regKey (Rg.PG_CTRL u) j ≠ regKey f.reg i) (hdeg : regKey Rg.SCR_DEGRADED 0 ≠ regKey f.reg i) :
    (s.setFld f i v).live u j = s.live u j := by
  have hen : (s.setFld f i v).enabled u j = s.enabled u j := by
    unfold State.enabled State.fld
    rw [s.reg_setFld_ne f v hctrl]
  have hd : (s.setFld f i v).degraded u j = s.degraded u j := by
    unfold State.degraded
    rw [s.reg_setFld_ne f v hdeg]
  unfold State.live State.outOfService State.stopped State.inReset
  rw [hen, hd, State.setFld_chip, State.setFld_flt, State.setFld_resetting]

/-- A snapshot acknowledged in time. -/
theorem wellSnapAck_inTime {w : Nat} {s : State} (hr : (s.well w).req = true) (hd : (s.well w).discard = false)
    (hl : s.live .wel w = true) (ht : s.aon - (s.well w).reqEdge ≤ s.fld Fd.WEL_CFG_STALE_TMO w) (img : List (Nat × Word)) :
    let lat := min (s.aon - (s.well w).reqEdge) 0xFFFF
    let t := (s.setFld Fd.WEL_LAT_LAST w lat).setFld Fd.WEL_LAT_WORST w (max lat (s.fld Fd.WEL_LAT_WORST w))
    let last := (t.owedSlots w).foldl (fun (m : SMap Word) k =>
      m.set k (((s.well w).active.getD k ⟨0, 0⟩).capture (((img.find? fun i => i.1 == k).map (·.2)).getD 0))) (s.well w).last
    let u := (t.setWell w { s.well w with req := false, closing := true, last, lastOk := true }).bump Fd.WEL_CNT_SNAPSHOTS w
    wellSnapAck w img s = (if (s.well w).tickEdge = (s.well w).reqEdge + 1 then u.setFld Fd.WEL_STAT_STALE w 0
      else u).mapGathers w fun g => { g with owed := g.owed.filter (· != w), row := g.row.filled w last } := by
  intro lat t last u
  have hlive : t.live .wel w = true := by
    unfold t
    rw [State.live_setFld _ _ (by simp [regKey]) (by simp [regKey, unitCode]; omega),
      State.live_setFld _ _ (by simp [regKey]) (by simp [regKey, unitCode]; omega), hl]
  unfold wellSnapAck
  rw [if_neg (show ¬(s.well w).req = false by simp [hr]),
    if_neg (show ¬s.fld Fd.WEL_CFG_STALE_TMO w < s.aon - (s.well w).reqEdge by omega)]
  exact if_neg (show ¬((s.well w).discard = true ∨ (!t.live .wel w) = true) by simp [hd, hlive])

/-- A skew window ends, with its count of edges. -/
theorem skewWindowEnd_leaf {w : Nat} {s : State} (hl : s.isTray = false) (hw : w < 48) (edges : Nat) :
    let u := s.reach ((s.well w).winAt + 1024)
    let t := u.setWell w { u.well w with winAt := (s.well w).winAt + 1024 }
    let bad := decide (t.fld Fd.WEL_CFG_MAX_PERIOD_PS w ≠ 0 ∧ edges * t.fld Fd.WEL_CFG_MAX_PERIOD_PS w < 10240000)
    let v := (t.setFld Fd.WEL_STAT_EDGES w (min edges (2 ^ 32 - 1))).setFld Fd.WEL_STAT_SKEW w (b2n bad)
    skewWindowEnd w edges s = if bad ∧ t.fld Fd.WEL_STAT_SKEW w = 0 then v.fault .wel w 1 else v :=
  if_neg (by simp [hl]; omega)

/-- A write of a slot whose width the well has. -/
theorem welSlotWrite_ok {w idx : Nat} {s : State} (hi : idx < 256) (he : s.enabled .wel w = false)
    (hb : bits (s.data .wel w 0).toNat 6 0 ≤ 64) :
    let x : Slot := ⟨bits (s.data .wel w 0).toNat 9 8, bits (s.data .wel w 0).toNat 6 0⟩
    welSlotWrite w idx s = ((s.setWell w { s.well w with staged := (s.well w).staged.set idx x }).markBank .wel w fun s => s.welDirect w).win 0 := by
  unfold welSlotWrite
  rw [if_neg (show ¬256 ≤ idx by omega), if_neg (show ¬s.enabled .wel w = true by simp [he]),
    if_neg (show ¬64 < bits (s.data .wel w 0).toNat 6 0 by omega)]

/-- Settles O12: the handshake's steps act by the wellhead's own state. -/
theorem wellheadCommands : Obligations.WellheadCommands := by
  unfold Obligations.WellheadCommands
  refine ⟨?_, ?_, ?_, ?_, ?_, ?_, ?_, ?_⟩
  · intro w img s hr hd hl ht
    exact congrArg Host.Outcome.next (wellSnapAck_inTime hr hd hl ht img)
  · intro w s h
    exact congrArg Host.Outcome.next (if_pos h)
  · intro w s hr hd
    exact congrArg Host.Outcome.next (if_pos ⟨hr, by simp [hd]⟩)
  · intro w edges s hl hw u t hp he hs
    have hbad : decide (t.fld Fd.WEL_CFG_MAX_PERIOD_PS w ≠ 0 ∧ edges * t.fld Fd.WEL_CFG_MAX_PERIOD_PS w < 10240000) = true :=
      decide_eq_true ⟨hp, he⟩
    refine congrArg Host.Outcome.next ((skewWindowEnd_leaf hl hw edges).trans ?_)
    dsimp only
    rw [hbad]
    exact if_pos ⟨rfl, hs⟩
  · intro w edges s hl hw u t h
    have hgood : decide (t.fld Fd.WEL_CFG_MAX_PERIOD_PS w ≠ 0 ∧ edges * t.fld Fd.WEL_CFG_MAX_PERIOD_PS w < 10240000) = false :=
      decide_eq_false (by omega)
    refine congrArg Host.Outcome.next ((skewWindowEnd_leaf hl hw edges).trans ?_)
    dsimp only
    rw [hgood]
    exact if_neg (fun e => Bool.false_ne_true e.1)
  · intro q w idx s t h hi
    exact winCmd_next h (if_neg (by omega))
  · intro q w idx s t h hi
    exact winCmd_next h (if_neg (by omega))
  · intro q w idx s t h hi he hb
    exact winCmd_next h (welSlotWrite_ok hi he hb)

/-! ### Ticks, rows and springs -/

/-- A tick of a group that is not a spring, with no row open. -/
theorem groupTick_plain {g : Nat} {s : State} {d : GDesc} {ms : List Nat} {ver next : Nat} {mixed : Bool}
    (hd : s.groupDef g = some (d, ms, ver, next, mixed)) (hon : (s.grun g).on = true) (ht : s.ticking = true)
    (hs : d.spring = false) (hg : (s.grun g).gather = none) :
    let k := max (s.grun g).nextK (s.tickFrom d s.freshTime)
    let r := { s.grun g with nextK := k + 1, counted := (s.grun g).counted + 1, done := false, on := true, lead := (s.grun g).lead }
    groupTick g s = ((s.reachTime (s.tickAt d k)).setGrun g r).gatherStart g k 0 r d ms ver next mixed := by
  intro k r
  unfold groupTick
  rw [hd]
  dsimp only
  rw [if_pos ⟨hon, ht⟩]
  simp only [hs, hg, Bool.false_and, Bool.or_false, Bool.not_false, Bool.false_eq_true, if_false, false_and, Nat.pow_zero, Nat.mod_one,
    ne_eq, not_true_eq_false, Option.isSome_none, k, r]

/-- A row of a group that is not a spring is complete. -/
theorem rowComplete_plain {g : Nat} {s : State} {x : Gather} (hg : (s.grun g).gather = some x) (ho : x.owed = [])
    (hf : x.row.flags.getLsbD 2 = false) :
    let stale := (x.row.ctrs.filter fun c => x.row.stale.getLsbD (c / 256)).length
    let t := (((s.setGrun g { s.grun g with gather := none }).item 3).item 5 x.row.count).item 6 stale
    let t := (t.ev .smp 0 2 x.row.count).ev .smp 0 3 stale
    rowComplete g s = ((t.eprFold x.row x.prev).eprLate.stageRow x.row).smpVote := by
  unfold rowComplete
  rw [hg]
  dsimp only
  rw [if_pos (by rw [ho]; rfl)]
  simp only [hf, Bool.false_eq_true, if_false]

/-- The lead of a spring's first tick. -/
theorem springPrimeLead_on {g : Nat} {s : State} {d : GDesc} {ms : List Nat} {r : Nat × Nat × Bool}
    (hd : s.groupDef g = some (d, ms, r)) (hv : d.valid = true) (hs : d.spring = true) (hm : d.mode ≠ 2)
    (hlead : (s.grun g).lead = false) (hc : (s.grun g).counted = 0) (hon : (s.grun g).on = true) (hl : s.live .smp = true)
    (ht : s.timeValid = true) :
    let t := s.reachTime (s.tickAt d (max (s.grun g).nextK (s.tickFrom d s.freshTime)) -
      s.fld Fd.PWR_CFG_PRIME_LEAD_US * 1000 * 65536)
    springPrimeLead g s = (t.setGrun g { t.grun g with lead := true }).voteUp .smp := by
  unfold springPrimeLead
  rw [hd]
  refine (if_pos ⟨hv, hs, hm, by simp [hlead], hc, .inl hon, hl, ht⟩).trans ?_
  rw [if_pos hon]

/-- SPRING_CMD 1 starts a spring that is not running. -/
theorem springCmd_start {g : Nat} {s : State} {x : GDesc} (hg : g < 64) (hx : s.smp.active.groups.get? g = some x)
    (hv : x.valid = true) (hs : x.spring = true) (hon : (s.grun g).on = false) :
    let r := { s.grun g with on := true, counted := 0, done := false, lead := true, nextK := s.tickFrom x (s.now + 1) }
    springCmd (BitVec.ofNat 64 (256 + g)) s = ((s.setGrun g r).eprForget g).voteUp .smp := by
  intro r
  have hop : bits (BitVec.ofNat 64 (256 + g)).toNat 9 8 = 1 := by simp only [bits, BitVec.toNat_ofNat]; omega
  have hgrp : bits (BitVec.ofNat 64 (256 + g)).toNat 5 0 = g := by simp only [bits, BitVec.toNat_ofNat]; omega
  unfold springCmd
  rw [hop, hgrp]
  dsimp only
  rw [hx]
  dsimp only
  rw [if_neg (by simp [hv, hs]), if_pos ⟨rfl, by simp [hon]⟩]

/-- SPRING_CMD 2 stops a spring that is running. -/
theorem springCmd_stop {g : Nat} {s : State} {x : GDesc} (hg : g < 64) (hx : s.smp.active.groups.get? g = some x)
    (hv : x.valid = true) (hs : x.spring = true) (hon : (s.grun g).on = true) :
    springCmd (BitVec.ofNat 64 (512 + g)) s =
      (s.setGrun g { s.grun g with on := false, lead := false, old := none }).smpVote := by
  have hop : bits (BitVec.ofNat 64 (512 + g)).toNat 9 8 = 2 := by simp only [bits, BitVec.toNat_ofNat]; omega
  have hgrp : bits (BitVec.ofNat 64 (512 + g)).toNat 5 0 = g := by simp only [bits, BitVec.toNat_ofNat]; omega
  unfold springCmd
  rw [hop, hgrp]
  dsimp only
  rw [hx]
  dsimp only
  rw [if_neg (by simp [hv, hs]), if_neg (by simp), if_pos ⟨rfl, hon⟩]

/-- The oldest staged row comes of age. -/
theorem stageAgeVote_cons {s : State} {r : Row} {l : List Row} (hr : s.cmp.stage = r :: l) (hl : s.live .cmp = true) :
    stageAgeVote s = (s.reachTime (r.time + s.fld Fd.PWR_CFG_STAGE_AGE * units10us + 1)).voteUp .cmp := by
  unfold stageAgeVote
  rw [hr]
  exact if_pos hl

/-- Settles O13: each event acts on the group's own run. -/
theorem samplingCommands : Obligations.SamplingCommands := by
  unfold Obligations.SamplingCommands
  refine ⟨?_, ?_, ?_, ?_, ?_, ?_, ?_⟩
  · intro g s d ms ver next mixed hd hon ht hs hg
    exact congrArg Host.Outcome.next (groupTick_plain hd hon ht hs hg)
  · intro g s x hg ho hf
    exact congrArg Host.Outcome.next (rowComplete_plain hg ho hf)
  · intro g s d ms r hd hv hs hm hlead hc hon hl ht
    exact congrArg Host.Outcome.next (springPrimeLead_on hd hv hs hm hlead hc hon hl ht)
  · intro s r l hr hl
    exact congrArg Host.Outcome.next (stageAgeVote_cons hr hl)
  · intro q g s x hg ha hx hv hs hon
    have hexec : exec (.springStart q g) s =
        .next (s.rowWrite q .smp 0 0x60 (BitVec.ofNat 64 (256 + g % 64)) fun s => (springCmd (BitVec.ofNat 64 (256 + g % 64)) s).okay) := rfl
    rw [hexec, Nat.mod_eq_of_lt hg]
    exact rowWrite_next ha (springCmd_start hg hx hv hs hon)
  · intro q g s x hg ha hx hv hs hon
    have hexec : exec (.springStop q g) s =
        .next (s.rowWrite q .smp 0 0x60 (BitVec.ofNat 64 (512 + g % 64)) fun s => (springCmd (BitVec.ofNat 64 (512 + g % 64)) s).okay) := rfl
    rw [hexec, Nat.mod_eq_of_lt hg]
    exact rowWrite_next ha (springCmd_stop hg hx hv hs hon)
  · intro shift s hl
    exact congrArg Host.Outcome.next (if_neg (by simp [hl]))

end Sys2Proof.Machine
end

section
/-! SUPPORT. Sampling plans and epoch records (chapters 05 and 13). -/

namespace Sys2Proof.Machine

/-- A rebuild ends for a group that is not a triggered spring: it runs from its first tick. -/
theorem planRebuildDone_run {g e : Nat} {s : State} {d : GDesc} (he : (s.grun g).rebuild = some e)
    (hd : (s.eprForget g).smp.active.groups.get? g = some d) (hm : d.mode ≠ 2) :
    let t := (s.eprForget g).setGrun g { s.grun g with
      rebuild := none, old := none, on := true, counted := 0, done := false, nextK := (s.eprForget g).firstTick d }
    planRebuildDone g s = { t with smp := { t.smp with pending := t.smp.runs.any fun x => x.2.rebuild.isSome } }.smpVote := by
  unfold planRebuildDone
  dsimp only
  rw [if_pos (by rw [he]; rfl), hd]
  dsimp only
  rw [if_pos hm]

/-- A group's descriptor staged. -/
theorem smpTblWrite_group {idx : Nat} {t : State} (hi : idx < 64) (hp : t.smp.pending = false) :
    let w := fun k => (t.data .smp 0 k).toNat
    let d : GDesc :=
      { valid := bit (w 0) 63, spring := bit (w 0) 62, mode := bits (w 0) 61 60, period := bits (w 0) 55 32
        phase := bits (w 0) 31 0, first := bits (w 1) 45 32, count := bits (w 1) 10 0, startEp := bits (w 2) 39 0
        ticks := bits (w 3) 31 0 }
    smpTblWrite 0 idx t = { t with smp := { t.smp with
      staged := { t.smp.staged with groups := t.smp.staged.groups.set idx d } } }.win 0 := by
  intro w d
  unfold smpTblWrite
  rw [if_neg (show ¬1 < 0 by omega), if_neg (show ¬(if 0 = 0 then 64 else 13312) ≤ idx by simpa using hi), if_neg (show ¬t.smp.pending = true by simp [hp])]
  rfl

/-- A member staged. -/
theorem smpTblWrite_member {idx : Nat} {t : State} (hi : idx < 13312) (hp : t.smp.pending = false) :
    smpTblWrite 1 idx t = { t with smp := { t.smp with staged := { t.smp.staged with
      members := t.smp.staged.members.set idx (bits (t.data .smp 0 0).toNat 13 0) } } }.win 0 := by
  unfold smpTblWrite
  rw [if_neg (show ¬1 < 1 by omega), if_neg (show ¬(if 1 = 0 then 64 else 13312) ≤ idx by simpa using hi), if_neg (show ¬t.smp.pending = true by simp [hp])]
  rfl

/-- A group's descriptor read from the plan `p`. -/
theorem smpTblRead_group (p : Plan) {idx : Nat} (s : State) (hi : idx < 64) :
    smpTblRead p 0 idx s = s.winData (p.groups.getD idx GDesc.rest).words := by
  unfold smpTblRead
  rw [if_neg (show ¬1 < 0 by omega), if_neg (show ¬(if 0 = 0 then 64 else 13312) ≤ idx by simpa using hi), if_pos rfl]

/-- A member read from the plan `p`. -/
theorem smpTblRead_member (p : Plan) {idx : Nat} (s : State) (hi : idx < 13312) :
    smpTblRead p 1 idx s = s.winData [BitVec.ofNat 64 (p.members.getD idx 0)] := by
  unfold smpTblRead
  rw [if_neg (show ¬1 < 1 by omega), if_neg (show ¬(if 1 = 0 then 64 else 13312) ≤ idx by simpa using hi), if_neg (show ¬1 = 0 by omega)]

/-- Settles O14: plans are staged, checked and rebuilt by the plan's own state. -/
theorem planCommands : Obligations.PlanCommands := by
  unfold Obligations.PlanCommands
  refine ⟨fun q d s ha h => ?_, fun s e he => ?_, fun q d s ha => ?_, ?_, fun q idx s t h hi => ?_, fun q idx s t h hi => ?_,
    fun q idx s t h hi => ?_, fun q idx s t h hi => ?_, ?_, fun q idx s t h hi hp => ?_⟩
  · exact rowWrite_next ha (if_pos h)
  · exact congrArg Host.Outcome.next (if_pos (by rw [he]; rfl))
  · exact rowWrite_next ha rfl
  · intro g e s d he hd hm
    exact congrArg Host.Outcome.next (planRebuildDone_run he hd hm)
  · exact winCmd_next h (smpTblRead_group _ t hi)
  · exact winCmd_next h (smpTblRead_member _ t hi)
  · exact winCmd_next h (smpTblRead_group _ t hi)
  · exact winCmd_next h (smpTblRead_member _ t hi)
  · intro q idx s t h hi hp
    exact winCmd_next h (smpTblWrite_group hi hp)
  · exact winCmd_next h (smpTblWrite_member hi hp)

/-! ### Epoch records -/

/-- A write of `EPR_CFG` whose count of records is in range. -/
theorem eprCfgWrite_ok {d : Word} (s : State) (h1 : 1 ≤ bits d.toNat 18 8) (h2 : bits d.toNat 18 8 ≤ 1024) :
    eprCfgWrite d s = { s with epr := { s.epr with pending := true } }.plainWrite .epr 0 0x40 0 d State.eprDirect := by
  have hok : decide (1 ≤ bits d.toNat 18 8 ∧ bits d.toNat 18 8 ≤ 1024) = true := decide_eq_true ⟨h1, h2⟩
  unfold eprCfgWrite
  dsimp only
  rw [hok, if_pos rfl]

/-- A word read from the bank `b`. -/
theorem eprTblRead_ok (b : EprBank) {t idx : Nat} (s : State) (ht : t < 2) (hi : idx < 1024) :
    eprTblRead b t idx s = s.winData [b.word t idx] :=
  (if_neg (by omega)).trans (if_neg (by omega))

/-- An entry of the map staged. -/
theorem eprTblWrite_map {idx : Nat} {t : State} (hi : idx < 1024) (hp : t.epr.pending = false) :
    let d := (t.data .epr 0 0).toNat
    eprTblWrite 0 idx t = { t with epr := { t.epr with staged := { t.epr.staged with
      map := t.epr.staged.map.set idx ⟨bit d 31, bit d 24, bits d 21 16, bits d 13 0⟩ } } }.win 0 := by
  intro d
  unfold eprTblWrite
  rw [if_neg (show ¬1 < 0 by omega), if_neg (show ¬1024 ≤ idx by omega), if_neg (show ¬t.epr.pending = true by simp [hp])]
  rfl

/-- A word of the template staged. -/
theorem eprTblWrite_tmpl {idx : Nat} {t : State} (hi : idx < 1024) (hp : t.epr.pending = false) :
    eprTblWrite 1 idx t = { t with epr := { t.epr with staged := { t.epr.staged with
      tmpl := t.epr.staged.tmpl.set idx (BitVec.ofNat 32 (t.data .epr 0 0).toNat) } } }.win 0 := by
  unfold eprTblWrite
  rw [if_neg (show ¬1 < 1 by omega), if_neg (show ¬1024 ≤ idx by omega), if_neg (show ¬t.epr.pending = true by simp [hp])]
  rfl

/-- Settles O16: a re-send request is kept or dropped by the queue's length; the map is staged and read as asked. -/
theorem epochRecordCommands : Obligations.EpochRecordCommands := by
  unfold Obligations.EpochRecordCommands
  refine ⟨?_, fun q d s ha h1 h2 => ?_, fun q t idx s u h ht hi => ?_, fun q t idx s u h ht hi => ?_, ?_,
    fun q idx s t h hi hp => ?_⟩
  · intro first count s hl t
    have hleaf : ¬s.isTray = true := by simp [hl]
    exact ⟨fun h => congrArg Host.Outcome.next ((if_neg hleaf).trans (if_pos h)),
      fun h => congrArg Host.Outcome.next ((if_neg hleaf).trans (if_neg (show ¬t.epr.resends.length < 4 by omega)))⟩
  · exact rowWrite_next ha (eprCfgWrite_ok s h1 h2)
  · exact winCmd_next h (eprTblRead_ok _ u ht hi)
  · exact winCmd_next h (eprTblRead_ok _ u ht hi)
  · intro q idx s t h hi hp
    exact winCmd_next h (eprTblWrite_map hi hp)
  · exact winCmd_next h (eprTblWrite_tmpl hi hp)

end Sys2Proof.Machine
end

section
/-! SUPPORT. Epoch boundaries, timed launches, arriving flits and frames; encoding and decoding (chapters 04, 06, 12, 15). -/

namespace Sys2Proof.Machine

/-- `TKP_CTRL` = 1 accepts a jump. -/
theorem tkpCtrlWrite_jump (s : State) : tkpCtrlWrite 1 s = s.acceptJump := by
  unfold tkpCtrlWrite
  rw [if_pos (show (1 : Word).getLsbD 0 = true by decide)]
  exact if_neg (by decide)

/-- `TKP_CTRL` = 2 reacquires the time. -/
theorem tkpCtrlWrite_reacquire (s : State) : tkpCtrlWrite 2 s = s.reacquire := by
  unfold tkpCtrlWrite
  rw [if_neg (show ¬(2 : Word).getLsbD 0 = true by decide)]
  exact if_pos (by decide)

/-- A change of the time alone leaves the role. -/
theorem State.isTray_withTkp (s : State) (tkp : Tkp) : State.isTray { s with tkp } = s.isTray := rfl

/-- The first timed item of a leaf's port is launched on its lane. -/
theorem timedLaunch_leaf {port : Nat} {s : State} {x : TimedItem} {r : List TimedItem} (hx : s.tkp.timed.getD port [] = x :: r)
    (hl : s.isTray = false) :
    let u := s.launchStart port x
    let t := s.reachBefore u
    timedLaunch port s = { t with tkp := { t.tkp with
      timed := if r.isEmpty then t.tkp.timed.erase port else t.tkp.timed.set port r
      busyTo := t.tkp.busyTo.set port (t.now + (u - t.now) + t.itemTime port x) } }.launchLane port (u - t.now) x := by
  intro u t
  have ht : t.isTray = false := (congrArg Chip.isTray (s.reachBefore_keeps u).1).trans hl
  unfold timedLaunch
  rw [hx]
  dsimp only
  rw [if_neg fun h => Bool.false_ne_true (((t.isTray_withTkp _).trans ht).symm.trans h.1)]

/-- A flit that a lane takes in goes on by its type. -/
theorem dataFlitRx_taken {w corr sub : Nat} {b : List Byte} {s t : State} {f : Flit} {len : Nat} (hw : w < s.laneTotal)
    (ha : s.laneActive w = true) (hf : s.flitIn w b corr none = (t, some (f, len))) :
    dataFlitRx w b corr none sub s = if flitSeqd f.ftype then t.sequenced w f len sub else t.controlIn w f len := by
  unfold dataFlitRx
  rw [if_pos ⟨hw, ha⟩, hf]

/-- A whole frame at an up port, from a source not quarantined, for the collectives or the upstream flow. -/
theorem upFrameRx_taken {p : Nat} {f : List Byte} {s : State} (htray : s.isTray = true) (hp : p < 2)
    (hlink : s.fld Fd.UP_STAT_LINK p = 1) (hen : s.enabled .up p = true) (hres : s.inReset .up p = false)
    (hstop : s.stopped .up p = false) (hmin : 64 ≤ f.length + 4) :
    let t := (s.bytes (321 + 2 * p) (f.length + 4)).portRx (128 + p) (f.length + 4)
    (ethParse f).body.length ≤ t.fld Fd.UP_CFG_MTU p →
    (t.colTakes f = true ∨ (ethParse f).etype = t.fld Fd.UPS_CFG_ETHERTYPE) → (ethParse f).etype ≠ 0x88F7 →
    macControl (ethParse f) = false →
    ((t.up p).quars.any fun (x : BitVec 48 × Nat) => x.1 == BitVec.ofNat 48 (ethParse f).src) = false →
    upFrameRx p f true false s = if t.colTakes f then t.colFrame f false else t.upsIn p (ethParse f) f := by
  intro t hmtu htype hptp hmac hquar
  unfold upFrameRx
  rw [if_neg (by simp [htray, hlink, hen, hres, hstop]; omega)]
  extract_lets e col ups sw ptp
  have hptp' : ¬ptp = true := by simp [ptp, e, hptp]
  have hnew : ¬((!col) = true ∧ (!ups) = true ∧ (!sw) = true ∧ (!ptp) = true ∧ (!macControl e) = true) := by
    rintro ⟨hc, hu, -⟩
    obtain h | h := htype
    · exact absurd hc (by simp [show col = true from h])
    · exact absurd hu (by simp [show ups = true from beq_iff_eq.mpr h])
  rw [if_neg (by decide), if_neg (show ¬(f.length + 4 < 64 ∨ t.fld Fd.UP_CFG_MTU p < e.body.length) from
      fun h => h.elim (by omega) (Nat.not_lt.mpr hmtu)),
    if_neg hnew, if_neg hptp', if_neg (show ¬macControl e = true by rw [show macControl e = false from hmac]; decide),
    if_neg (show ¬_ = true from Bool.eq_false_iff.mp hquar)]
  obtain h | h := htype
  · exact (if_pos h).trans (if_pos h).symm
  · exact congrArg (ite _ _) (if_pos (beq_iff_eq.mpr h))

/-- Settles O15: a boundary comes due, the time is commanded, an item is launched, a flit and a frame are taken. -/
theorem epochAndArrivals : Obligations.EpochAndArrivals := by
  unfold Obligations.EpochAndArrivals
  refine ⟨?_, fun q s ha => ?_, fun q s ha => ?_, ?_, fun w b corr sub s t f len hw ha hf hq => ?_,
    fun w b corr sub s t f len hw ha hf hq => ?_, ?_, ?_⟩
  · intro others s hv hl n hn
    exact congrArg Host.Outcome.next ((if_pos ⟨hv, hl⟩).trans (if_neg (show ¬epochMax < n by omega)))
  · exact rowWrite_next ha (tkpCtrlWrite_jump s)
  · exact rowWrite_next ha (tkpCtrlWrite_reacquire s)
  · intro port s x r hx hl
    exact congrArg Host.Outcome.next (timedLaunch_leaf hx hl)
  · exact congrArg (fun t : State => Host.Outcome.next t.settle) ((dataFlitRx_taken hw ha hf).trans (if_pos hq))
  · exact congrArg (fun t : State => Host.Outcome.next t.settle)
      ((dataFlitRx_taken hw ha hf).trans (if_neg (by simp [hq])))
  · intro p f s htray hp hlink hen hres hstop hmin t hmtu hcol hptp hmac hquar
    exact congrArg (fun t : State => Host.Outcome.next t.settle)
      ((upFrameRx_taken htray hp hlink hen hres hstop hmin hmtu (.inl hcol) hptp hmac hquar).trans (if_pos hcol))
  · intro p f s htray hp hlink hen hres hstop hmin t hmtu hcol htype hptp hmac hquar
    exact congrArg (fun t : State => Host.Outcome.next t.settle)
      ((upFrameRx_taken htray hp hlink hen hres hstop hmin hmtu (.inr htype) hptp hmac hquar).trans
        (if_neg (Bool.eq_false_iff.mp hcol)))

end Sys2Proof.Machine
end

section
/-! SUPPORT. Encoding and decoding (chapter 06). -/

namespace Sys2Proof.Machine

/-- The next row, taken whole, is held with its map. -/
theorem State.encTake_whole {s t' : State} {row : Row} (hn : s.nextRow = some (row, t'))
    (hg : t'.cmp.gapOwed.contains row.group = false) :
    let m := rowMap t'.cmp.active row.first row.count
    let h : EncRow := { row, map := m.1, lost := none }
    s.encTake .none = { t' with cmp := { t'.cmp with gapOwed := t'.cmp.gapOwed.filter (· != row.group), held := some h } }.bump
      Fd.CMP_ENC_CNT_PRED_FIXUP 0 m.2 := by
  unfold State.encTake
  rw [hn]
  dsimp only
  rw [hg]
  rfl

/-- A row held whole leaves encoded, or waits while the buffers do not take its frame. -/
theorem State.encGive_whole (s : State) {h : EncRow} (hl : h.lost = none) :
    let f := s.encode h.row.group (s.rowHeader h.row) h.row h.map
    let u := { s.setFld Fd.CMP_STAT_STALLED 0 0 with cmp := { s.cmp with held := none } }
    s.encGive h .none = if s.fld Fd.CMP_OUT_CFG_BUFS * 4096 < s.outBytes + f.1.length then s.setFld Fd.CMP_STAT_STALLED 0 1
      else (((u.encoded h.row.group h.row f).cmpOut f.1).capRow 0xFF h.row).drained := by
  unfold State.encGive
  rw [hl]
  rfl

/-- With a row held, the encoder of a primed leaf goes on with it. -/
theorem encodeRow_held {s : State} {h : EncRow} (hleaf : s.isTray = false) (hp : s.primed = true) (hh : s.cmp.held = some h)
    (ecc : EccHit) : encodeRow ecc s = s.encGive h ecc := by
  unfold encodeRow
  rw [if_neg (by simp [hleaf, hp])]
  dsimp only
  rw [if_neg (by simp [hh]), hh]

/-- With no row held, the encoder of a primed leaf in service takes the next one. -/
theorem encodeRow_taken {s t : State} {h : EncRow} {ecc : EccHit} (hleaf : s.isTray = false) (hl : s.live .cmp = true)
    (hp : s.primed = true) (hn : s.cmp.held = none) (ht : s.encTake ecc = t) (hh : t.cmp.held = some h) :
    encodeRow ecc s = t.encGive h ecc := by
  unfold encodeRow
  rw [if_neg (by simp [hleaf, hp])]
  dsimp only
  rw [if_pos ⟨by rw [hn]; rfl, hl⟩, ht, hh]

/-- A request for a KEY frame, repeated after its millisecond. -/
theorem keyRequestRepeat_found {w g k : Nat} {d : DecSt} {s : State}
    (h : (s.cmp.dec.find? fun x => x.2.keyOut && x.1 % 8192 == w * 64 + g) = some (k, d)) :
    let t := s.reach (d.keyAt + cyMs)
    keyRequestRepeat w g s = (t.setDec k { d with keyAt := t.aon }).askKey w g := by
  unfold keyRequestRepeat
  rw [h]

/-- A frame decoded to a row whose history is known. -/
theorem decodeFrame_row {d w : Nat} {f : Bytes} {q : List (Nat × Bytes)} {row : Row} {st : DecSt} {s : State}
    (hq : s.cmp.inQ.getD d [] = (w, f) :: q) (hl : s.live .cmp = true) (hw : w < 256) (hd : s.decHeld d = false)
    (hr : s.routeHeld 2 = false) :
    let t := { s with cmp := { s.cmp with inQ := s.cmp.inQ.set d q } }
    let old := t.cmp.dec.getD (decKey f w) DecSt.rest
    decodeUnder .none f old = .row row st → st.valid = true →
    let u := ((t.ev .cmp 0 5 row.count).setDec (decKey f w) { st with valid := true }).rowOut w f row st.map false
    decodeFrame d .none s = (u.unpark d u.cmp.parked).decRebind := by
  intro t old hdec hv u
  unfold decodeFrame
  rw [if_neg (by simp [hq])]
  dsimp only
  rw [hq]
  dsimp only
  rw [if_neg (by simp [hl, hd, hr]), Nat.mod_eq_of_lt hw, if_neg (by decide), show decodeUnder _ f _ = _ from hdec]
  dsimp only
  rw [hv, Bool.true_or, Bool.not_true, Bool.and_false, if_pos rfl, if_neg Bool.false_ne_true]
  rfl

/-- Settles O17: a row is encoded or waits, a frame is decoded, KEY frames are asked for, the map is staged and read. -/
theorem compressionCommands : Obligations.CompressionCommands := by
  unfold Obligations.CompressionCommands
  refine ⟨?_, ?_, fun q d s ha => ?_, fun all g s hl => ?_, fun q d s ha hl he => ?_, ?_, ?_, fun q idx s t h hl hi => ?_,
    fun q idx s t h hl hi => ?_, fun q idx s t h hl hi => ?_⟩
  · intro s t' row hleaf hl hp hn hrow hg m h t f hroom u
    have ht : encodeRow .none s = t.encGive h .none := encodeRow_taken hleaf hl hp hn (State.encTake_whole hrow hg) rfl
    exact congrArg Host.Outcome.next
      (ht.trans ((t.encGive_whole (h := h) rfl).trans (if_neg (show ¬_ < t.outBytes + f.1.length by omega))))
  · intro s h hleaf hp hh hlost f hroom
    exact congrArg Host.Outcome.next ((encodeRow_held hleaf hp hh .none).trans ((s.encGive_whole hlost).trans (if_pos hroom)))
  · exact rowWrite_next ha rfl
  · exact congrArg Host.Outcome.next (if_neg (by simp [hl]))
  · exact rowWrite_next ha ((if_neg (by simp [hl])).trans (if_neg (by simp [he])))
  · intro w g k d s h
    exact congrArg Host.Outcome.next (keyRequestRepeat_found h)
  · intro d w f q row st s hq hl hw hd hr t old hdec hv
    exact congrArg (fun t : State => Host.Outcome.next t.settle) (decodeFrame_row hq hl hw hd hr hdec hv)
  · exact winCmd_next h ((if_neg (by simp [hl])).trans (if_neg (by omega)))
  · exact winCmd_next h ((if_neg (by simp [hl])).trans (if_neg (by omega)))
  · exact winCmd_next h ((if_neg (by simp [hl])).trans (if_neg (by omega)))

end Sys2Proof.Machine
end

section
/-! SUPPORT. The runs and windows of a matrix engine (chapter 08). -/

namespace Sys2Proof.Machine

/-- An idle matrix engine with no saved run begins the best pending one. -/
theorem mxeRunStart_pending {e : Nat} {s : State} {p : MRun} (hm : (s.mx e).mode = 0) (hp : s.primed = true)
    (hr : s.inReset .mxe e = false) (hpend : bestRun (s.mxePrio e) (s.mx e).pend = some p)
    (hsaved : bestRun (s.mxePrio e) (s.mx e).saved = none) (hl : s.live .mxe e = true) :
    mxeRunStart e s = s.mxeBegin e p := by
  unfold mxeRunStart
  dsimp only
  rw [if_neg (by simp [hm, hp, hr]), hpend, hsaved]
  exact if_pos (.inl hl)

/-- A pending run of no higher priority waits for the saved one. -/
theorem mxeRunStart_saved {e : Nat} {s : State} {p r : MRun} (hm : (s.mx e).mode = 0) (hp : s.primed = true)
    (hr : s.inReset .mxe e = false) (hpend : bestRun (s.mxePrio e) (s.mx e).pend = some p)
    (hsaved : bestRun (s.mxePrio e) (s.mx e).saved = some r) (hl : s.live .mxe e = true)
    (hprio : s.mxePrio e p.slot ≤ s.mxePrio e r.slot) : mxeRunStart e s = s.mxeNext e := by
  unfold mxeRunStart
  dsimp only
  rw [if_neg (by simp [hm, hp, hr]), hpend, hsaved]
  exact (if_pos hl).trans (if_neg (by omega))

/-- A preempted run is saved and the next one starts. -/
theorem mxeSaveDone_preempted {e : Nat} {s : State} {r : MRun} (hr : (s.mx e).run = some r) (hm : (s.mx e).mode = 3)
    (hstop : ¬(r.replay = true ∧ r.stop + 1 = r.index)) :
    let t := (s.mxeSaveImage e ((s.mx e).slot r.slot)).ev .mxe e 1 256
    let x := { r with switch := r.switch + 256, feed := (t.mx e).feed, preempts := r.preempts + 1 }
    mxeSaveDone e s = mxeRunStart e ((t.setMx e { t.mx e with
      run := none, mode := 0, saved := (t.mx e).saved ++ [x] }).bump Fd.MXE_SWITCH_CNT_PREEMPTIONS e) := by
  intro t x
  unfold mxeSaveDone
  rw [hr]
  exact (if_neg (by simp [hm])).trans (if_neg hstop)

/-- A run's saved context is restored and the run goes on. -/
theorem mxeRestoreDone_restored {e : Nat} {s : State} {r : MRun} (hr : (s.mx e).run = some r) (hm : (s.mx e).mode = 4) :
    let m := s.mx e
    let img := (List.range s.laneCount).map fun l =>
      (l, leNat (Mem.read m.scratch ((m.slot r.slot).ctxAddr + 4096 + 4 * s.feedSize + 16 * l) 16))
    mxeRestoreDone e s = (s.ev .mxe e 1 256).setMx e { m with
      acc := (img.filter fun (_, v) => bits v 80 0 != 0).map fun (l, v) => (l, { acc := sext (bits v 79 0) 80, sat := bit v 80 })
      fst := (img.filter fun (l, v) => decide (l % 32 = 0 ∧ bits v 87 81 ≠ 0x7F)).map fun (l, v) => (l / 32, bits v 87 81)
      feed := r.feed, mode := 1, run := some { r with switch := r.switch + 256, feed := [] } } := by
  intro m img
  unfold mxeRestoreDone
  dsimp only
  rw [hr]
  exact if_neg (by simp [hm])

/-- An abort of the running slot ends its run with code 1. -/
theorem mxeAbortWrite_running {e : Nat} {d : Word} {s : State} {r : MRun} (hk : bits d.toNat 3 0 < 8)
    (hr : (s.mx e).run = some r) (hs : r.slot = bits d.toNat 3 0) (hm : (s.mx e).mode ≠ 3) :
    mxeAbortWrite e d s = (s.setMx e { s.mx e with abortRes := 1 }).mxeEndRun e 1 0 := by
  unfold mxeAbortWrite
  dsimp only
  rw [if_neg (by omega), if_pos (by simp [hr, hs])]
  split
  next hn => exact absurd (hr.symm.trans hn) (by simp)
  next => rw [if_neg hm]

/-- An abort of a waiting or saved slot takes its run out of both and ends it with code 1. -/
theorem mxeAbortWrite_waiting {e : Nat} {d : Word} {s : State} {r : MRun} (hk : bits d.toNat 3 0 < 8)
    (hr : ((s.mx e).run.any (·.slot == bits d.toNat 3 0)) = false)
    (hf : ((s.mx e).pend ++ (s.mx e).saved).find? (·.slot == bits d.toNat 3 0) = some r) :
    let m := s.mx e
    let m := { m with
      pend := m.pend.filter (·.slot != bits d.toNat 3 0), saved := m.saved.filter (·.slot != bits d.toNat 3 0), abortRes := 1 }
    mxeAbortWrite e d s = (s.setMx e m).mxeEnd e r 1 0 := by
  intro m m'
  unfold mxeAbortWrite
  dsimp only
  rw [if_neg (by omega), if_neg (by simp [hr]), hf]

/-- Settles O18: runs are launched, started, saved, restored and aborted by the engine's own state. -/
theorem matrixRunCommands : Obligations.MatrixRunCommands := by
  unfold Obligations.MatrixRunCommands
  refine ⟨fun q e d s ha => ?_, fun e s p hm hp hr hpend hsaved hl => ?_, fun e s p r hm hp hr hpend hsaved hl hprio => ?_,
    ?_, ?_, fun q e d s r ha hk hr hs hm => ?_, ?_⟩
  · exact rowWrite_next ha rfl
  · exact congrArg Host.Outcome.next (mxeRunStart_pending hm hp hr hpend hsaved hl)
  · exact congrArg Host.Outcome.next (mxeRunStart_saved hm hp hr hpend hsaved hl hprio)
  · intro e s r hr hm hstop
    exact congrArg Host.Outcome.next (mxeSaveDone_preempted hr hm hstop)
  · intro e s r hr hm
    exact congrArg Host.Outcome.next (mxeRestoreDone_restored hr hm)
  · exact rowWrite_next ha (mxeAbortWrite_running hk hr hs hm)
  · intro q e d s r ha hk hr hf
    exact rowWrite_next ha (mxeAbortWrite_waiting hk hr hf)

/-! ### The engine's windows -/

/-- A slot written while no run holds it. -/
theorem mxeSlotWrite_ok {e k : Nat} {t : State} (hk : k < 8) (hr : (t.mx e).hasRun k = false) :
    let w := fun i => (t.data .mxe e i).toNat
    let x := { (t.mx e).slot k with
      imageVa := bits (w 0) 47 0, hostVa := bits (w 1) 47 0, ctxAddr := bits (w 2) 47 24, scrBase := bits (w 2) 23 0
      xltCtx := bits (w 3) 41 32, epochTrg := bit (w 3) 22, prio := bits (w 3) 21 20, lutBase := bits (w 3) 19 16
      imemBase := bits (w 3) 15 0 }
    mxeSlotWrite e k t = (t.setMx e { t.mx e with slots := (t.mx e).slots.set k x }).win 0 :=
  (if_neg (by omega)).trans (if_neg (by simp [hr]))

/-- A load of a slot that no run holds. -/
theorem mxeLoadWin_ok {e k : Nat} {t : State} (hk : k < 8) (hr : (t.mx e).hasRun k = false) :
    let x := (t.mx e).slot k
    let u := (t.mxeEmpty e k).setMx e { (t.mxeEmpty e k).mx e with loading := some k }
    mxeLoadWin e k t = (u.beginRead 2 e (u.fld Fd.MXE_CFG_PUMP_CH e) x.xltCtx x.imageVa 256).winBusy :=
  (if_neg (by omega)).trans (if_neg (by simp [hr]))

/-- A load whose image passes its checks. -/
theorem mxeLoadDone_ok {e k : Nat} {img : List Byte} {s : State} (hl : (s.mx e).loading = some k)
    (hc : s.carried 2 e = some img) :
    let t := (s.setMx e { s.mx e with loading := none }).endXfer 2 e
    t.mxeCheck e k img = none → mxeLoadDone e s = (t.mxePut e k img).winEnd .mxe e 0 := by
  intro t hcheck
  unfold mxeLoadDone
  rw [hl, hc]
  dsimp only
  rw [show State.mxeCheck _ e k img = none from hcheck]

/-- A read of the program memory. -/
theorem mxeProgRead_imem {e idx : Nat} {t : State} (hb : t.progBusy e = false) (hi : idx < t.progSize 0) :
    mxeProgRead e 0 idx t = t.winData [((t.mx e).imem.getD idx 0).truncate 64, (((t.mx e).imem.getD idx 0) >>> 64).truncate 64] := by
  unfold mxeProgRead
  dsimp only
  rw [if_neg (by simp [hb]), if_neg (show ¬3 < 0 by omega), if_neg (show ¬t.progSize 0 ≤ idx by omega)]
  rfl

/-- A read of the scratch memory. -/
theorem mxeProgRead_scratch {e idx : Nat} {t : State} (hb : t.progBusy e = false) (hi : idx < t.progSize 1) :
    mxeProgRead e 1 idx t = t.winData (toWords 32 (Mem.read (t.mx e).scratch (256 * idx) 256)) := by
  unfold mxeProgRead
  dsimp only
  rw [if_neg (by simp [hb]), if_neg (show ¬3 < 1 by omega), if_neg (show ¬t.progSize 1 ≤ idx by omega)]
  rfl

/-- A read of the look-up tables. -/
theorem mxeProgRead_luts {e idx : Nat} {t : State} (hb : t.progBusy e = false) (hi : idx < t.progSize 2) :
    mxeProgRead e 2 idx t = t.winData (toWords 32 (Mem.read (t.mx e).luts (256 * idx) 256)) := by
  unfold mxeProgRead
  dsimp only
  rw [if_neg (by simp [hb]), if_neg (show ¬3 < 2 by omega), if_neg (show ¬t.progSize 2 ≤ idx by omega)]
  rfl

/-- A write of the program memory. -/
theorem mxeProgWrite_imem {e idx : Nat} {t : State} (hb : t.progBusy e = false) (hi : idx < t.progSize 0) :
    mxeProgWrite e 0 idx t = (t.setMx e { t.mx e with
      slots := (t.mx e).spoil 0 idx
      imem := (t.mx e).imem.set idx (((t.data .mxew e 1).setWidth 128 <<< 64) ||| (t.data .mxew e 0).setWidth 128) }).win 0 := by
  unfold mxeProgWrite
  dsimp only
  rw [if_neg (by simp [hb]), if_neg (show ¬2 < 0 by omega), if_neg (show ¬t.progSize 0 ≤ idx by omega)]
  rfl

/-- A write of the scratch memory. -/
theorem mxeProgWrite_scratch {e idx : Nat} {t : State} (hb : t.progBusy e = false) (hi : idx < t.progSize 1) :
    mxeProgWrite e 1 idx t = (t.setMx e { t.mx e with
      slots := (t.mx e).spoil 1 idx
      scratch := Mem.write (t.mx e).scratch (256 * idx) (t.dataBytes .mxew e 256) }).win 0 := by
  unfold mxeProgWrite
  dsimp only
  rw [if_neg (by simp [hb]), if_neg (show ¬2 < 1 by omega), if_neg (show ¬t.progSize 1 ≤ idx by omega)]
  rfl

/-- A write of the look-up tables. -/
theorem mxeProgWrite_luts {e idx : Nat} {t : State} (hb : t.progBusy e = false) (hi : idx < t.progSize 2) :
    mxeProgWrite e 2 idx t = (t.setMx e { t.mx e with
      slots := (t.mx e).spoil 2 idx
      luts := Mem.write (t.mx e).luts (256 * idx) (t.dataBytes .mxew e 256) }).win 0 := by
  unfold mxeProgWrite
  dsimp only
  rw [if_neg (by simp [hb]), if_neg (show ¬2 < 2 by omega), if_neg (show ¬t.progSize 2 ≤ idx by omega)]
  rfl

/-- Settles O19: the slots and the memories of a matrix engine are read and written as asked. -/
theorem matrixWindows : Obligations.MatrixWindows := by
  unfold Obligations.MatrixWindows
  refine ⟨?_, ?_, ?_, ?_, fun q e k s t h hk hr => ?_, fun q e idx s t h hb hi => ?_, fun q e idx s t h hb hi => ?_,
    fun q e idx s t h hb hi => ?_, fun q e idx s t h hb hi => ?_, fun q e idx s t h hb hi => ?_, fun q e idx s t h hb hi => ?_, ?_⟩
  · intro q e k s t h hk x
    exact winCmd_next h (if_neg (by omega))
  · intro q e k s t h hk hr
    exact winCmd_next h (mxeSlotWrite_ok hk hr)
  · intro q e k s t h hk hr
    exact winCmd_next h (mxeLoadWin_ok hk hr)
  · intro e k img s hl hc t hcheck
    exact congrArg Host.Outcome.next (mxeLoadDone_ok hl hc hcheck)
  · exact winCmd_next h ((if_neg (by omega)).trans (if_neg (by simp [hr])))
  · exact winCmd_next h (mxeProgRead_imem hb hi)
  · exact winCmd_next h (mxeProgRead_scratch hb hi)
  · exact winCmd_next h (mxeProgRead_luts hb hi)
  · exact winCmd_next h (mxeProgWrite_imem hb hi)
  · exact winCmd_next h (mxeProgWrite_scratch hb hi)
  · exact winCmd_next h (mxeProgWrite_luts hb hi)
  · intro q e k s hk ha t
    change execMxeRmonStatRead q e k s = _
    unfold execMxeRmonStatRead
    rw [Nat.mod_eq_of_lt hk]
    exact rowRead_next ha rfl

end Sys2Proof.Machine
end

section
/-! SUPPORT. The instructions of a matrix engine (chapter 08). -/

namespace Sys2Proof.Machine

/-- The instruction at which the engine's run stands does its work. -/
theorem mxeDo_next {e op w : Nat} {s t : State} {r : MRun} {x : MSlot} {body : State → MRun → MSlot → Nat → State}
    (h : s.mxeAt e op = some (r, x, w)) (ht : body s r x w = t) :
    (.next (s.mxeDo e op false body) : Host.Outcome State Fault Refusal) = .next t.settle := by
  unfold State.mxeDo
  rw [h]
  exact congrArg (fun t : State => Host.Outcome.next t.settle) ht

/-- A host transfer that the instruction does not yet wait for is begun. -/
theorem State.mxeLines_begin {e : Nat} {s : State} (cyc : Nat) (r : MRun) (w : Nat) (start : State → State)
    (fin : Bytes → State → State) (hm : (s.mx e).mode ≠ 2) :
    s.mxeLines e cyc r w start fin = (start (s.mxeStall e r cyc).1).mxeWait e := by
  unfold State.mxeLines
  dsimp only
  rw [decide_eq_false hm]
  exact if_pos rfl

/-- A host transfer that has come lets the instruction retire. -/
theorem State.mxeLines_carried {e cyc : Nat} {s : State} {r : MRun} {b : Bytes} (w : Nat) (start : State → State)
    (fin : Bytes → State → State) (hm : (s.mx e).mode = 2) (hb : (s.mxeStall e r cyc).1.carried 3 e = some b) :
    let u := ((fin b (s.mxeStall e r cyc).1).endXfer 3 e).mxeRetire e (s.mxeStall e r cyc).2 w
    s.mxeLines e cyc r w start fin = if (u.mx e).mode = 1 ∧ u.mxePreempted e then u.setMx e { u.mx e with mode := 3 } else u := by
  intro u
  unfold State.mxeLines
  dsimp only
  rw [decide_eq_true hm, if_neg (show ¬(!true) = true by decide), hb]

/-- MMUL of groups whose exponents agree. -/
theorem mxeMmul_ok {e w : Nat} {s : State} {r : MRun} {x : MSlot} (hf : (s.mx e).fOk (accBase w) (rowsOf w * nbOf w) (fOf w) = true) :
    let m := s.mx e
    let xs := (List.range (rowsOf w)).map fun i => (List.range (kbOf w)).map fun k =>
      m.blk x (fmtHi w) (opaAddr w + (i * kbOf w + k) * recBytes (fmtHi w))
    let ws := (List.range (32 * nbOf w)).map fun n => (List.range (kbOf w)).map fun k =>
      m.blk x (fmtLo w) (opbAddr w + (n * kbOf w + k) * recBytes (fmtLo w))
    let bad := (xs.flatten.filter (·.bad)).length + (ws.flatten.filter (·.bad)).length
    let y := xs.zipIdx.foldl (fun st (x, i) =>
      ws.zipIdx.foldl (fun (a, c) (wt, n) =>
        let l := accBase w + i * 32 * nbOf w + n
        let (v, c) := mmulLane (fOf w) (SMap.getD a l { acc := 0, sat := false }) c x wt
        (SMap.set a l v, c)) st) (m.acc, { sat := 0, clip := 0, loss := 0, fmt := bad : ACnt })
    let feed := (List.range (rowsOf w * nbOf w)).foldl (fun fd g =>
      SMap.set fd (accBase w / 32 + g) (SMap.getD fd (accBase w / 32 + g) [] ++ [kbOf w])) m.feed
    let t := (s.setMx e { m with acc := y.1, feed }).ev .mxe e 6 (rowsOf w * 32 * nbOf w * kbOf w)
    mxeMmul e s r x w = (t.mxeCounts e r y.2).1.mxeRetire e (t.mxeCounts e r y.2).2 w :=
  if_neg (by simp [hf])

/-- RQ whose blocks are all done. -/
theorem mxeRq_done {e w sent : Nat} {miss : Option (Nat × Nat)} {s t : State} {r r' : MRun} {x : MSlot}
    (hf : srcSel w ≠ 0 ∨ (s.mx e).fOk (accBase w) (nbOf w) (fOf w) = true)
    (hd : rqBlocks e x w miss (nbOf w) 0 0 s r = (t, r', sent, true)) : mxeRq e miss s r x w = t.mxeRetire e r' w sent := by
  unfold mxeRq
  rw [if_neg (by rintro ⟨h0, hn⟩; exact hf.elim (absurd h0) (fun h => by simp [h] at hn)), hd]
  exact if_pos rfl

/-- ACT whose rows are all done. -/
theorem mxeAct_done {e w : Nat} {s t : State} {r r' : MRun} {x : MSlot}
    (hd : actBlocks e x w (rowsOf w) 0 s r = (t, r', true)) : mxeAct e s r x w = t.mxeRetire e r' w := by
  unfold mxeAct
  rw [hd]
  exact if_pos rfl

/-- LDREC of a record that stands. -/
theorem mxeLdrec_found {e cyc w : Nat} {s : State} {r : MRun} {x : MSlot} {h : Bytes} {fs : List Int} :
    let t := (s.mxeStall e r cyc).1
    let r' := (s.mxeStall e r cyc).2
    bits w 5 0 ≤ r'.epoch → t.recordOf (r'.epoch - bits w 5 0) = .inr (h, fs) →
    let b := ldrecFields fs (bits w 57 48) (bits w 41 32 + 1) t
    let u := (b.2.2.scrPut e x (opaAddr w) (h ++ b.1)).mxeCounts e r' { sat := 0, clip := b.2.1, loss := 0, fmt := 0 }
    mxeLdrec e cyc s r x w = u.1.mxeRetire e u.2 w := by
  intro t r' hage hrec b u
  unfold mxeLdrec
  dsimp only
  rw [if_neg (Nat.not_lt.mpr hage), show State.recordOf _ _ = _ from hrec]

/-- VOUT outside a replay, while the verdict queue has room. -/
theorem mxeVout_queued {e cyc w : Nat} {s : State} {r : MRun} {x : MSlot} (hr : r.replay = false) :
    let t := (s.mxeStall e r cyc).1
    let r' := (s.mxeStall e r cyc).2
    (t.mx e).vq.length < 32 →
    let v := t.verdict (bits w 47 40) r'.job r'.gen r'.epoch (r'.raised != 0) ((t.mx e).scr x (opaAddr w) (8 * (bits w 36 32 + 1)))
    mxeVout e cyc s r x w = ((t.setMx e { t.mx e with vq := (t.mx e).vq ++ [v] }).capVerdict (bits w 47 40)).mxeRetire e r' w := by
  intro t r' hroom v
  exact (if_neg (by simp [hr])).trans (if_neg (show ¬32 ≤ (t.mx e).vq.length by omega))

/-- Settles O20: the instruction at which the engine's run stands does its work and retires. -/
theorem matrixInstructions : Obligations.MatrixInstructions := by
  unfold Obligations.MatrixInstructions
  refine ⟨fun e s r x w h => ?_, fun e s r x w h => ?_, ?_, ?_, ?_, fun e miss s t r r' x w sent h hf hd => ?_,
    fun e s t r r' x w h hd => ?_, fun e s r x w h => ?_, ?_, ?_, ?_, ?_, ?_, ?_, ?_⟩
  · exact mxeDo_next h rfl
  · exact mxeDo_next h rfl
  · intro e s r x w h acc
    exact mxeDo_next h rfl
  · intro e s r x w h width acc
    exact mxeDo_next h rfl
  · intro e s r x w h hf
    exact mxeDo_next h (mxeMmul_ok hf)
  · exact mxeDo_next h (mxeRq_done hf hd)
  · exact mxeDo_next h (mxeAct_done hd)
  · exact mxeDo_next h rfl
  · intro e cyc s r x w h hm t
    exact mxeDo_next h (s.mxeLines_begin cyc r w _ _ hm)
  · intro e cyc b s r x w h hm hb u
    exact mxeDo_next h (State.mxeLines_carried w _ _ hm hb)
  · intro e cyc s r x w h hm t
    exact mxeDo_next h (s.mxeLines_begin cyc r w _ _ hm)
  · intro e cyc b s r x w h hm hb u
    exact mxeDo_next h (State.mxeLines_carried w _ _ hm hb)
  · intro e cyc s r x w h fs hat t r' hage hrec
    exact mxeDo_next hat (mxeLdrec_found hage hrec)
  · intro e cyc lost s r x w h t b
    exact mxeDo_next h rfl
  · intro e cyc s r x w h hr t r' hroom
    exact mxeDo_next h (mxeVout_queued hr hroom)

end Sys2Proof.Machine
end

section
/-! SUPPORT. Tree engines and the entity feature table (chapter 09). -/

namespace Sys2Proof.Machine

/-- An idle tree engine in service starts its first pending run. -/
theorem treRunStart_pending {e : Nat} {s : State} {r : TRun} {l : List TRun} (hrun : (s.tr e).run = none)
    (hpend : (s.tr e).pend = r :: l) (hp : s.primed = true) (hr : s.inReset .tre e = false) (hl : s.live .tre e = true) :
    treRunStart e s = s.setTr e { s.tr e with run := some r, pend := l } := by
  unfold treRunStart
  dsimp only
  rw [hrun, hpend]
  exact if_pos ⟨hp, by simp [hr], .inl hl⟩

/-- A vector that the run's input gives is evaluated and its output is taken. -/
theorem treVector_emitted {e lanes : Nat} {lost : Bool} {s t : State} {r : TRun} {z : TSlot} {x : List Int} {fs next : Nat}
    {key : Option Word} {last : Bool} {y : List Int × WalkCnt × SMap Nat} {u : State} {r2 : TRun}
    (hrun : (s.tr e).run = some r) (hp : s.primed = true)
    (hr : s.inReset .tre e = false) (ho : s.outOfService .tre e = false) (hz : (s.tr e).slot r.slot = z)
    (hin : s.treInput e r z lost = (t, .vec x fs key next last)) (hlanes : (if s.isTray then 64 else 16) = lanes)
    (hy : treEvaluate (s.tr e) z x lanes = y)
    (hemit : t.treEmit e { r with
      featSat := r.featSat + fs, catRange := r.catRange + y.2.1.cat, missing := r.missing + y.2.1.missing
      cycles := r.cycles + ceilDiv z.featN lanes + (y.2.2.map (·.2)).foldl max 0 + 8, vectors := r.vectors + 1 } z key y.1 =
        some (u, r2)) :
    let v := ((u.bump Fd.TRE_CNT_FEAT_SAT e fs).bump Fd.TRE_CNT_CAT_RANGE e y.2.1.cat).bump Fd.TRE_CNT_MISSING e y.2.1.missing
    let v := ((v.ev .tre e 1 (r2.cycles - r.cycles)).ev .tre e 2 (y.2.2.map (·.2)).sum).ev .tre e 3
    let v := v.setTr e { v.tr e with run := some { r2 with pos := next } }
    treVector e lost none s = if last then v.treEndRun e 0 0 else v := by
  obtain ⟨y, c, lane⟩ := y
  unfold treVector
  rw [hrun]
  dsimp only
  rw [if_neg (by simp [hp, hr, ho]), hz, hin]
  dsimp only
  rw [hlanes, hy]
  dsimp only
  rw [hemit]

/-- An abort of the running slot ends its run with code 1. -/
theorem treAbortWrite_running {e : Nat} {d : Word} {s : State} {r : TRun} (hk : bits d.toNat 3 0 < 4)
    (hr : (s.tr e).run = some r) (hs : r.slot = bits d.toNat 3 0) :
    treAbortWrite e d s = (s.setTr e { s.tr e with abortRes := 1 }).treEndRun e 1 0 :=
  (if_neg (by omega)).trans (if_pos (by simp [hr, hs]))

/-- A load whose image passes its checks. -/
theorem treLoadDone_ok {e k : Nat} {img : List Byte} {s : State} (hl : (s.tr e).loading = some k)
    (hc : s.carried 4 e = some img) :
    let t := (s.setTr e { s.tr e with loading := none }).endXfer 4 e
    t.treCheck e k img = none → treLoadDone e s = (t.trePut e k img).winEnd .tre e 0 := by
  intro t hcheck
  unfold treLoadDone
  rw [hl, hc]
  dsimp only
  rw [show State.treCheck _ e k img = none from hcheck]

/-- Settles O21: a tree engine's runs, vectors, aborts and window act by the engine's own state. -/
theorem treeEngineCommands : Obligations.TreeEngineCommands := by
  unfold Obligations.TreeEngineCommands
  refine ⟨fun q e d s ha => ?_, fun e s r l hrun hpend hp hr hl _ => ?_, ?_, fun q e d s r ha hk hr hs => ?_, ?_, ?_, ?_, ?_,
    fun q e k s t h hk hr => ?_⟩
  · exact rowWrite_next ha rfl
  · exact congrArg Host.Outcome.next (treRunStart_pending hrun hpend hp hr hl)
  · intro e lost s t r x fs next key last u r2 hrun hp hr ho hin z lanes y r1 hemit
    exact congrArg (fun t : State => Host.Outcome.next t.settle) (treVector_emitted (lanes := lanes) (z := z) (y := y) hrun hp hr ho rfl hin rfl rfl hemit)
  · exact rowWrite_next ha (treAbortWrite_running hk hr hs)
  · intro q e k s t h hk x
    exact winCmd_next h (if_neg (by omega))
  · intro q e k s t h hk hr w x
    exact winCmd_next h ((if_neg (by omega)).trans (if_neg (by simp [hr])))
  · intro q e k s t h hk hr x u
    exact winCmd_next h ((if_neg (by omega)).trans (if_neg (by simp [hr])))
  · intro e k img s hl hc t hcheck
    exact congrArg Host.Outcome.next (treLoadDone_ok hl hc hcheck)
  · exact winCmd_next h ((if_neg (by omega)).trans (if_neg (by simp [hr])))

/-! ### The entity feature table -/

/-- A key that the table finds is read with its entry. -/
theorem eftReadWin_found {ecc : Bool} {t u : State} {p : Nat} {x : EftEnt}
    (h : t.eftGet (t.key .eft 0 0).toNat ecc = (u, some (p, x))) : eftReadWin ecc t = u.winData (toWords 32 x.bytes) p := by
  unfold eftReadWin eftRead
  rw [h]
  rfl

/-- An entry that stands is written over. -/
theorem eftWriteWin_found {t : State} {l : Bool} {p : Nat} {x : EftEnt} :
    let m := t.dataBytes .eft 0 256
    let k := (t.key .eft 0 0).toNat
    bits (rdLE m 12 4) 7 2 = 0 → bits (rdLE m 12 4) 31 16 = 0 → rdLE m 20 12 = 0 →
    let opt := (t.key .eft 0 1).toNat
    let stamp := if bit opt 2 then rdLE m 8 4 else t.eftCount.epochNow % 2 ^ 32
    t.eftCount.eftFind k = some (l, p, x) → bit opt 1 = false → (bit opt 3 = true → stampNewer stamp x.stamp = true) →
    let new : EftEnt := { key := BitVec.ofNat 64 k, stamp, pinned := bit (rdLE m 12 4) 1
                          gen := bits (rdLE m 12 4) 15 8, writes := min (x.writes + 1) 0xFFFFFFFF
                          feats := (List.range 56).map fun i => BitVec.ofNat 32 (rdLE m (32 + 4 * i) 4) }
    eftWriteWin false t = (((t.eftCount).eftSet l p new).eftWrote k).win 0 p := by
  intro m k h2 h16 h20 opt stamp hfind hnew hstamp new
  have hform : ¬(bits (rdLE m 12 4) 7 2 ≠ 0 ∨ bits (rdLE m 12 4) 31 16 ≠ 0 ∨ rdLE m 20 12 ≠ 0) := by simp [h2, h16, h20]
  have holder : ¬(bit opt 3 = true ∧ (!stampNewer stamp x.stamp) = true) := fun h => by simp [hstamp h.1] at h
  have hw : eftWrite k opt m false t = ⟨((t.eftCount).eftSet l p new).eftWrote k, 0, p, none⟩ := by
    unfold eftWrite
    dsimp only
    rw [if_neg hform, if_neg Bool.false_ne_true, hfind]
    exact (if_neg (Bool.eq_false_iff.mp hnew)).trans (if_neg holder)
  exact congrArg EftOut.win hw

/-- An entry that the table does not find is inserted. -/
theorem eftWriteWin_inserted {t u : State} {p : Nat} :
    let m := t.dataBytes .eft 0 256
    let k := (t.key .eft 0 0).toNat
    bits (rdLE m 12 4) 7 2 = 0 → bits (rdLE m 12 4) 31 16 = 0 → rdLE m 20 12 = 0 →
    let opt := (t.key .eft 0 1).toNat
    t.eftCount.eftFind k = none → bit opt 0 = false →
    t.eftCount.eftInsert { key := BitVec.ofNat 64 k, stamp := if bit opt 2 then rdLE m 8 4 else t.eftCount.epochNow % 2 ^ 32
                           pinned := bit (rdLE m 12 4) 1
                           gen := bits (rdLE m 12 4) 15 8, writes := 1
                           feats := (List.range 56).map fun i => BitVec.ofNat 32 (rdLE m (32 + 4 * i) 4) } = (u, some p) →
    eftWriteWin false t = (u.eftWrote k).win 0 p := by
  intro m k h2 h16 h20 opt hfind hnew hins
  have hform : ¬(bits (rdLE m 12 4) 7 2 ≠ 0 ∨ bits (rdLE m 12 4) 31 16 ≠ 0 ∨ rdLE m 20 12 ≠ 0) := by simp [h2, h16, h20]
  have hw : eftWrite k opt m false t = ⟨u.eftWrote k, 0, p, none⟩ := by
    unfold eftWrite
    dsimp only
    rw [if_neg hform, if_neg Bool.false_ne_true, hfind]
    dsimp only
    rw [if_neg (Bool.eq_false_iff.mp hnew), hins]
  exact congrArg EftOut.win hw

/-- A key that the table finds is removed. -/
theorem eftDeleteWin_found {t : State} {l : Bool} {p : Nat} {x : EftEnt}
    (h : t.eftCount.eftFind (t.key .eft 0 0).toNat = some (l, p, x)) : eftDeleteWin false t = (t.eftCount.eftDrop l p).win 0 := by
  unfold eftDeleteWin eftDelete
  dsimp only
  rw [if_neg Bool.false_ne_true, h]
  rfl

/-- A position read gives its entry's bytes, or zeros. -/
theorem eftReadPosWin_ok {idx : Nat} {t : State} (hi : idx < t.eftCap + 64) :
    eftReadPosWin idx false t = t.eftCount.winData (toWords 32 (match t.eftCount.eft.tbl.get? idx with
      | some x => x.bytes
      | none => List.replicate 256 0)) idx := by
  unfold eftReadPosWin eftReadPos
  rw [if_neg (by omega)]
  dsimp only
  cases t.eftCount.eft.tbl.get? idx with
  | some x => rfl
  | none => rfl

/-- A row of the feed table that stands. -/
theorem eftFeedRead_found {idx : Nat} {t : State} {f : FeedRule} (ht : t.isTray = true) (hi : idx < 64)
    (hf : t.eft.feeds.get? idx = some f) : eftFeedRead idx t = t.winData
      [BitVec.ofNat 64 (b2n f.valid * 2 ^ 63 + f.op * 2 ^ 56 + f.feat * 2 ^ 48 + f.shift * 2 ^ 40 + f.cls * 2 ^ 32 + f.field)] := by
  unfold eftFeedRead
  rw [if_neg (by simp [ht]), if_neg (by omega), hf]

/-- A purge that ends. -/
theorem eftPurgeDone_window {s : State} {gen : Nat} {r : List (Nat × EftBy)} (h : s.eft.purge = (gen, .window) :: r) :
    eftPurgeDone s = ({ s with eft := { s.eft with purge := r } }.eftPurgeAll gen).winEnd .eft 0 0 := by
  unfold eftPurgeDone
  rw [h]

/-- A core's purge that ends. -/
theorem eftPurgeDone_core {s : State} {gen c : Nat} {r : List (Nat × EftBy)} (h : s.eft.purge = (gen, .core c) :: r) :
    eftPurgeDone s = { s with eft := { s.eft with purge := r } }.eftPurgeAll gen := by
  unfold eftPurgeDone
  rw [h]

/-- Settles O22: the table's window and its runs act by the table's own state. -/
theorem featureTableCommands : Obligations.FeatureTableCommands := by
  unfold Obligations.FeatureTableCommands
  refine ⟨fun q ecc s t u p x h hg => ?_, ?_, ?_, fun q s t l p x h hf => ?_, fun q idx s t h hi => ?_, fun q s t h => ?_, ?_,
    fun s p b hs hc hb => ?_, fun q idx s t f h ht hi hf => ?_, ?_, ?_, ?_, fun s gen r h => ?_, fun s gen c r h => ?_⟩
  · exact winCmd_next h (eftReadWin_found hg)
  · intro q s t l p x h m k h2 h16 h20 opt stamp hfind hnew hstamp
    exact winCmd_next h (eftWriteWin_found h2 h16 h20 hfind hnew hstamp)
  · intro q s t u p h m k h2 h16 h20 opt hfind hnew hins
    exact winCmd_next h (eftWriteWin_inserted h2 h16 h20 hfind hnew hins)
  · exact winCmd_next h (eftDeleteWin_found hf)
  · exact winCmd_next h (eftReadPosWin_ok hi)
  · exact winCmd_next h rfl
  · intro q s t h hs va u
    exact winCmd_next h (if_neg (by simp [hs]))
  · exact congrArg Host.Outcome.next (if_pos ⟨by simp [hs, hc], by simp [hb]⟩)
  · exact winCmd_next h (eftFeedRead_found ht hi hf)
  · intro q idx s t h ht hi d hop hfeat f
    exact winCmd_next h ((if_neg (by simp [ht])).trans
      ((if_neg (by omega)).trans (if_neg (fun h => h.elim hop (Nat.not_lt.mpr hfeat)))))
  · intro s hs p
    exact congrArg Host.Outcome.next (if_pos hs)
  · intro s hr t
    exact congrArg Host.Outcome.next (if_pos hr)
  · exact congrArg Host.Outcome.next (eftPurgeDone_window h)
  · exact congrArg Host.Outcome.next (eftPurgeDone_core h)

end Sys2Proof.Machine
end

section
/-! SUPPORT. The cores: control, mailboxes, the feature table's port, the host window, traps and the watchdog (chapter 10). -/

namespace Sys2Proof.Machine

/-- A firmware load of stopped cores. -/
theorem fwLoadWin_ok {t : State} :
    let mask := bits (t.data .cor 0 2).toNat 31 0
    mask ≠ 0 → mask < 2 ^ t.coreCount → Nat.land (t.reg Rg.COR_RUN).toNat mask = 0 →
    let u := { t with cor := { t.cor with load := some mask } }
    fwLoadWin t = (u.beginRead 6 0 (u.fld Fd.COR_CFG_PUMP_CH) (bits (u.data .cor 0 1).toNat 41 32)
      (bits (u.data .cor 0 0).toNat 47 0) 256).winBusy := by
  intro mask h0 hcount hrun u
  exact (if_neg (fun h => h.elim h0 (Nat.not_le.mpr hcount))).trans (if_neg (fun h => h hrun))

/-- A firmware image that passes its checks goes into the memories of the cores it is for. -/
theorem fwLoadDone_ok {img : List Byte} {mask : Nat} {s : State} (hl : s.cor.load = some mask) (hc : s.carried 6 0 = some img) :
    let t := { s with cor := { s.cor with load := none } }.endXfer 6 0
    t.fwCheck img = 0 → fwLoadDone s = (t.eachCore mask fun s c => (s.setCore c { s.core c with
      imem := Mem.write (s.core c).imem 0 ((img.drop 256).take (rdLE img 8 4)), entry := rdLE img 20 4
      dmem := Mem.write (s.core c).dmem 0 ((img.drop (256 + rdLE img 8 4)).take (rdLE img 12 4)) }
        ).setCoreBit Rg.COR_LOADED c true).winEnd .cor 0 0 := by
  intro t hcheck
  unfold fwLoadDone
  rw [hl, hc]
  exact if_neg (fun h => h hcheck)

/-- A message taken from a core that has one. -/
theorem mbxPop_cons {c : Nat} {t : State} {m : Bytes} {ms : List Bytes} (hc : c < t.coreCount) (hm : (t.core c).outQ = m :: ms) :
    mbxPop c t = (t.setCore c { t.core c with outQ := ms }).winData (toWords 4 m) := by
  unfold mbxPop
  rw [if_neg (by omega)]
  dsimp only
  rw [hm]

/-- A message sent by a core whose queue has room. -/
theorem coreMbxPush_room {c : Nat} {msg : BitVec 128} {s : State} (pc : BitVec 32) (hf : s.coreFree c = true) :
    let t := s.setCore c { s.core c with mbxOut := msg }
    (t.core c).outQ.length < 16 →
    let u := (t.freeBytes 16).2
    coreMbxPush c pc msg s = (u.setCore c { u.core c with
      outQ := (u.core c).outQ ++ [leBytes 16 msg.toNat ++ (t.freeBytes 16).1] }).level 7 := by
  intro t hroom u
  have hmsg : (t.core c).mbxOut = msg := congrArg CoreSt.mbxOut (s.core_setCore_same c _)
  refine (if_pos hf).trans ?_
  change State.mbxSend t c pc = _
  unfold State.mbxSend
  rw [hmsg]
  exact if_neg (by omega)

/-- Settles O23: the cores run, load and exchange messages by their own state. -/
theorem coreControlCommands : Obligations.CoreControlCommands := by
  unfold Obligations.CoreControlCommands
  refine ⟨fun q d s ha => ?_, fun q d s ha => ?_, fun q d s ha h => ?_, ?_, ?_, fun q c s t h hc hq => ?_,
    fun q c s t m ms h hc hm => ?_, fun c s h => ?_, ?_⟩
  · exact rowWrite_next ha rfl
  · exact rowWrite_next ha rfl
  · exact rowWrite_next ha (if_neg (fun hn => hn h))
  · intro q s t h mask h0 hcount hrun
    exact winCmd_next h (fwLoadWin_ok h0 hcount hrun)
  · intro img mask s hl hc t hcheck
    exact congrArg Host.Outcome.next (fwLoadDone_ok hl hc hcheck)
  · exact winCmd_next h ((if_neg (by omega)).trans (if_neg (by omega)))
  · exact winCmd_next h (mbxPop_cons hc hm)
  · exact congrArg Host.Outcome.next (if_pos h)
  · intro c pc msg s hf t hroom
    exact congrArg Host.Outcome.next (coreMbxPush_room pc hf hroom)

/-! ### What cores do -/

/-- An operation of the feature table by a free core whose port is idle. -/
theorem State.coreEft_free {c : Nat} {s : State} (hf : s.coreFree c = true) (hb : (s.core c).eftBusy = false) (key : Word)
    (opt buf : Nat) (op : State → EftOut) :
    let o := op (s.setCore c { s.core c with eftKey := key, eftOpt := BitVec.ofNat 16 opt, eftBuf := buf })
    s.coreEft c key opt buf op = o.st.setCore c { o.st.core c with
      dmem := match o.ent with
        | some m => Mem.write (o.st.core c).dmem (256 * (buf % 256)) m
        | none => (o.st.core c).dmem
      eftRes := o.res, eftIdx := BitVec.ofNat 32 o.pos, eftBusy := true } := by
  intro o
  exact if_neg (by simp [hf, hb])

/-- A write by a core, to a page that the translation's cache has. -/
theorem coreHostAccess_write {c off : Nat} {pc : BitVec 32} {data : List Byte} {s : State} (hr : s.coreRuns c = true)
    (hh : (s.core c).host = none) (ho : off < 2 ^ 31) :
    let va := (s.fld Fd.COR_HOSTWIN_BASE + off) % 2 ^ 48
    let ctx := s.fld Fd.COR_CFG_XLT_CTX
    s.tlbHas ctx va true = true →
    let t := (((s.tlbUse ctx va).setCore c { s.core c with host := none, pc }).endXfer 7 c).coreDone
    coreHostAccess c pc off true false data s = (t.hostPut ctx va data).bytes 5 data.length := by
  intro va ctx htlb t
  unfold coreHostAccess
  dsimp only
  rw [hh, if_neg (by simp [hr]; omega), if_neg Bool.false_ne_true, if_pos htlb]
  exact if_pos rfl

/-- A read by a core, of a page that the translation's cache has. -/
theorem coreHostAccess_read {c off : Nat} {pc : BitVec 32} {data : List Byte} {s : State} (hr : s.coreRuns c = true)
    (hh : (s.core c).host = none) (ho : off < 2 ^ 31) :
    let va := (s.fld Fd.COR_HOSTWIN_BASE + off) % 2 ^ 48
    let ctx := s.fld Fd.COR_CFG_XLT_CTX
    s.tlbHas ctx va false = true →
    let t := (((s.tlbUse ctx va).setCore c { s.core c with host := none, pc }).endXfer 7 c).coreDone
    let t := (t.hostGet ctx va data.length).bytes 4 data.length
    coreHostAccess c pc off false false data s = t.setCore c { t.core c with rdata := BitVec.ofNat 32 (leNat data) } := by
  intro va ctx htlb t t'
  unfold coreHostAccess
  dsimp only
  rw [hh, if_neg (by simp [hr]; omega), if_neg Bool.false_ne_true, if_pos htlb]
  exact if_neg Bool.false_ne_true

/-- A core waits too long for a translation. -/
theorem coreXltStallTimeout_found {c : Nat} {s : State} {f : FqEnt}
    (hf : s.xlt.faults.find? (fun f => f.client = 7 ∧ f.inst = c) = some f) (hr : s.coreRuns c = true) :
    coreXltStallTimeout c s = (s.reach (f.edge + s.fld Fd.COR_CFG_XLT_STALL_US * cyUs)).coreXltAbort c := by
  unfold coreXltStallTimeout
  rw [hf]
  exact if_pos hr

/-- An access of a core to an address that has nothing for it traps. -/
theorem coreTrapRow_access {c : Nat} {pc addr : BitVec 32} {op : CoreOp} {s : State} (ecc : Bool) (hf : s.coreFree c = true)
    (ha : s.coreAt addr.toNat op = none) : coreTrapRow c pc (.access addr op ecc) s = s.coreTrap c pc (accFault op) addr := by
  unfold coreTrapRow
  rw [if_neg (by simp [hf])]
  dsimp only
  rw [ha]

/-- A software exception of a core traps. -/
theorem coreTrapRow_exception {c : Nat} {pc cause tval : BitVec 32} {s : State} (hf : s.coreFree c = true)
    (h31 : cause.getLsbD 31 = false) (h1 : cause ≠ 1) (h5 : cause ≠ 5) (h7 : cause ≠ 7) :
    coreTrapRow c pc (.exception cause tval) s = s.coreTrap c pc cause tval := by
  unfold coreTrapRow
  rw [if_neg (by simp [hf])]
  exact if_neg (fun h => h.elim (Bool.eq_false_iff.mp h31) (fun h => h.elim h1 (fun h => h.elim h5 h7)))

/-- One of a core's own interrupts, wanted, is taken and cleared. -/
theorem coreTrapRow_interrupt {c n : Nat} {pc : BitVec 32} {s : State} (hf : s.coreFree c = true)
    (ht : (s.core c).inTrap = false) (hw : s.coreWants c n = true) (hn : 16 ≤ n) :
    let t := s.setCore c { s.core c with irq := (s.core c).irq &&& ~~~(BitVec.ofNat 3 (2 ^ (n - 16))) }
    coreTrapRow c pc (.interrupt n) s = t.coreTrap c pc (BitVec.ofNat 32 (2 ^ 31 + n)) 0 := by
  intro t
  unfold coreTrapRow
  rw [if_neg (by simp [hf])]
  change State.coreInterrupt s c pc n = _
  unfold State.coreInterrupt
  dsimp only
  rw [if_neg (by simp [ht, hw]), if_pos hn]

/-- Settles O24: the cores' accesses, traps, timer and watchdog act by the core's own state. -/
theorem coreEventCommands : Obligations.CoreEventCommands := by
  unfold Obligations.CoreEventCommands
  refine ⟨?_, ?_, fun c key ecc s hf _ => ?_, fun c key buf ecc s hf _ => ?_, fun c opt s hf _ => ?_, fun c s hb hp => ?_, ?_, ?_,
    fun c s f hx hr => ?_, fun c pc cause tval s hf h31 h1 h5 h7 => ?_, fun c pc addr op ecc s hf ha => ?_, ?_, fun c s hf => ?_,
    fun c s hc => ?_, fun c s hf => ?_, ?_, fun c pc s ho hb => ?_⟩
  · intro c key buf ecc s hf hb o
    exact congrArg Host.Outcome.next (s.coreEft_free hf hb key _ buf _)
  · intro c key opt buf ent ecc s hf m
    exact congrArg Host.Outcome.next (if_neg (by simp [hf]))
  · rfl
  · rfl
  · rfl
  · exact congrArg Host.Outcome.next (if_pos ⟨hb, by simp [hp]⟩)
  · intro c pc off data s hr hh ho va ctx htlb
    exact congrArg Host.Outcome.next (coreHostAccess_write hr hh ho htlb)
  · intro c pc off data s hr hh ho va ctx htlb
    exact congrArg Host.Outcome.next (coreHostAccess_read hr hh ho htlb)
  · exact congrArg Host.Outcome.next (coreXltStallTimeout_found hx hr)
  · exact congrArg (fun t : State => Host.Outcome.next t.settle) (coreTrapRow_exception hf h31 h1 h5 h7)
  · exact congrArg (fun t : State => Host.Outcome.next t.settle) (coreTrapRow_access ecc hf ha)
  · intro c n pc s hf ht hw hn
    exact congrArg (fun t : State => Host.Outcome.next t.settle) (coreTrapRow_interrupt hf ht hw hn)
  · exact congrArg Host.Outcome.next (if_pos hf)
  · exact congrArg Host.Outcome.next (if_neg (by omega))
  · exact congrArg Host.Outcome.next ((if_pos hf).trans (if_pos rfl))
  · intro c s ho hb t
    exact congrArg Host.Outcome.next (if_pos ⟨ho, by simp [hb]⟩)
  · exact congrArg (fun t : State => Host.Outcome.next t.settle) (if_pos ⟨ho, hb⟩)

end Sys2Proof.Machine
end

section
/-! SUPPORT. The pump (chapter 11). -/

namespace Sys2Proof.Machine

/-- A ring's poll that reaches its producer index finds the descriptors ahead. -/
theorem ringPoll_ahead {c p : Nat} {descs : List (Option (List Byte))} {s u : State} (hc : c < s.channels)
    (hp : s.polls c = true) :
    let t := s.reach (s.chan c).pollAt
    t.house c (t.chan c).prodVa false = some u →
    let u := u.hostGet (u.chan c).xltCtx (u.chan c).prodVa 8
    let v := u.setChan c { u.chan c with pollAt := u.aon + (u.chan c).pollUs * cyUs }
    let v := (v.setChan c { v.chan c with prod := p % 2 ^ 32 }).bytes 4 8
    wrapI ((v.chan c).prod - (v.chan c).cons) 32 ≤ 2 ^ (v.chan c).log2 →
    ringPoll c (some p) descs s =
      (v.setChan c { v.chan c with ahead := wrapI ((v.chan c).prod - (v.chan c).fetch) 32 }).fetchDescs c descs := by
  intro t hh u v v' hahead
  unfold ringPoll
  rw [if_pos ⟨hc, hp⟩]
  dsimp only
  rw [show State.house _ c _ false = _ from hh]
  exact if_neg (Nat.not_lt.mpr hahead)

/-- A unit's next segment, translated, leaves with a tag. -/
theorem segmentIssue_unit {client inst c ctx : Nat} {l : List (Nat × Bool)} {ecc : Bool} {y : Xfer} {s u v : State}
    (hp : s.primed = true) (h7 : client ≠ 7) :
    let t := if Strm.unit client inst = .unit 8 0 then s.snapFeed ecc else s
    t.nextAcc (.unit client inst) = some (c, ctx, l) → t.hits ctx l = true → t.takeTag c = (some u, v) →
    let u := (l.foldl (fun s a => s.tlbUse ctx a.1) u).ev .pmp 0 1
    u.xfer? client inst = some y →
    segmentIssue (.unit client inst) ecc s = (u.issueUnit y).tagMark (u.issueUnit y).tagsUsed := by
  intro t hnext hhits htag u hx
  unfold segmentIssue
  rw [if_neg (by simp [hp])]
  dsimp only
  rw [show State.nextAcc _ _ = _ from hnext]
  dsimp only
  rw [if_neg (by rw [show State.hits _ ctx l = true from hhits]; decide)]
  split
  next heq => cases heq
  next heq => exact absurd (Strm.unit.inj heq).1 h7
  next =>
    rw [show State.takeTag _ c = _ from htag]
    dsimp only
    rw [show State.xfer? _ client inst = _ from hx]

/-- A ring's next segment, translated, leaves with a tag. -/
theorem segmentIssue_ring {c ctx : Nat} {l : List (Nat × Bool)} {d : PDesc} {ecc : Bool} {s u v : State}
    (hnext : s.nextAcc (.ring c) = some (c, ctx, l)) (hp : s.primed = true) (hhits : s.hits ctx l = true)
    (htag : s.takeTag c = (some u, v)) :
    let t := (l.foldl (fun s a => s.tlbUse ctx a.1) u).ev .pmp 0 1
    (t.chan c).issuing = some d →
    segmentIssue (.ring c) ecc s = (t.issueDesc c d ecc).tagMark (t.issueDesc c d ecc).tagsUsed := by
  intro t hd
  unfold segmentIssue
  rw [if_neg (by simp [hp]), if_neg (show ¬Strm.ring c = .unit 8 0 from Strm.noConfusion)]
  dsimp only
  rw [hnext]
  dsimp only
  rw [if_neg (by rw [hhits]; decide), htag]
  dsimp only
  rw [show Chan.issuing _ = _ from hd]

/-- A segment of a READ descriptor comes back. -/
theorem State.ringDone_readDesc {c index k : Nat} {data : List Byte} {d : PDesc} {s : State}
    (hd : ((s.chan c).descs.find? fun d => d.index = index ∧ d.out.contains k) = some d) (hop : d.op = 1) :
    let n := segLen d.len k
    let t := (s.modDesc c index fun d =>
      { d with out := d.out.erase k, seen := if d.seen.contains k then d.seen else k :: d.seen }).moved n true false
    let sram := Mem.write t.sram ((t.chan c).sramBase * 4096 + d.dst + 256 * k) ((data ++ List.replicate n 0).take n)
    s.ringDone c index k data false = { t with sram }.bytes 1 n := by
  intro n t sram
  have hread : (d.op == 1 || d.op == 3) = true := by rw [hop]; rfl
  have hwrite : (d.op != 1) = false := by rw [hop]; rfl
  unfold State.ringDone
  rw [hd]
  simp only [hread, hwrite, if_pos hop, Bool.false_eq_true, false_or, if_false]
  rfl

/-- A unit's segment comes back. -/
theorem State.unitDone_found {client inst k va n off : Nat} {data : List Byte} {y : Xfer} {s : State}
    (hdead : (s.pmp.dead.any fun y => y.client == client && y.inst == inst && y.out.contains k) = false)
    (hy : s.xfer? client inst = some y) (ho : y.out.contains k = true) (hseg : segAt y.ranges k 0 = some (va, n, off)) :
    s.unitDone client inst k data false = (s.modXfer client inst fun y =>
      { y with out := y.out.erase k, seen := if y.seen.contains k then y.seen else k :: y.seen
               got := if y.write then y.got else y.got.set k ((data ++ List.replicate n 0).take n) }).moved n
        (!y.write) y.write := by
  unfold State.unitDone
  dsimp only
  rw [if_neg (by rw [hdead]; decide), hy]
  dsimp only
  rw [hseg]
  dsimp only
  rw [if_neg (by rw [ho]; decide), if_neg (fun h => Bool.false_ne_true h.1)]

/-- What a unit's returned segment does: the image's header, read first, names the rest of the image. -/
theorem segmentDone_unit {client inst index k : Nat} {data : List Byte} {y : Xfer} {s u : State}
    (hy : s.xfer? client inst = some y) (ho : y.out.contains k = true) (hu : s.unitDone client inst k data false = u) :
    segmentDone (.unit client inst) index k data false s =
      (if (client = 2 ∨ client = 4 ∨ client = 6) ∧ k = 0 ∧ y.seen = [] then
        u.imageGrow client inst ((u.carried client inst).getD []) else u).xferDone client inst := by
  unfold segmentDone
  dsimp only
  rw [hy, hu, Option.any_some]
  refine congrArg (fun t : State => t.xferDone client inst) (ite_congr
    (propext (and_congr_right fun _ => and_congr_right fun hk => ?_)) (fun _ => rfl) fun _ => rfl)
  subst hk
  simp [List.contains_iff_mem.mp ho]

/-! ### Write-backs -/

/-- A write-back of a descriptor that ended well, written to the host: the ring retires what is written back. -/
theorem State.wbPut_ok (s : State) (c : Nat) (d : PDesc) (va : Nat) :
    let v := ((s.hostPut (s.chan c).xltCtx va (leBytes 8 (wbWord d 0))).bytes 5 8).ev .pmp 0 3
    let v := v.modDesc c d.index fun d => { d with wb := true }
    let t := v.setChan c ((v.chan c).retire (v.chan c).descs)
    let t := t.setChan c { t.chan c with consDue := (t.chan c).consDue || (t.chan c).cons != (v.chan c).cons }
    s.wbPut c d 0 va false = if d.irq then t.pendBit 4 c else t := by
  intro v v' t t'
  unfold State.wbPut
  rw [if_neg Bool.false_ne_true]
  exact if_neg (fun h => h.1 rfl)

/-- A write-back step of a descriptor that is ready. -/
theorem State.wbStep_ready {c index : Nat} {d : PDesc} {s u : State}
    (hd : (s.chan c).descs.find? (fun d => d.index = index) = some d) (hr : d.ready = some 0)
    (hh : s.house c ((s.chan c).slotVa index + 48) true = some u) (err : Bool) :
    s.wbStep c index err = u.wbPut c d 0 ((s.chan c).slotVa index + 48) err := by
  unfold State.wbStep
  rw [hd]
  dsimp only
  rw [hr]
  dsimp only
  rw [hh]

/-- A write-back's three steps, when no ended descriptor of another turn waits. -/
theorem descWriteback_ready {c index : Nat} {d : PDesc} {s u : State} (ho : s.houseOk c = true)
    (he : (s.pmp.ends.find? fun e => e.ch = c ∧ e.desc.index = index ∧ e.desc.out = []) = none)
    (hd : (s.chan c).descs.find? (fun d => d.index = index) = some d) (hr : d.ready = some 0)
    (hh : s.house c ((s.chan c).slotVa index + 48) true = some u) (consErr : Bool) :
    descWriteback c index false consErr s = (u.wbPut c d 0 ((s.chan c).slotVa index + 48) false).consStep c consErr := by
  have hend : s.endStep c index = s := by
    unfold State.endStep
    rw [he]
  unfold descWriteback
  rw [if_neg (by simp [ho]), hend, State.wbStep_ready hd hr hh]

/-- The consumer index, when due, is written to the host. -/
theorem State.consStep_due {c : Nat} {t w : State} (hdue : (t.chan c).consDue = true)
    (hh : t.house c (t.chan c).consVa true = some w) :
    let x := w.hostPut (w.chan c).xltCtx (t.chan c).consVa (leBytes 8 (w.chan c).cons)
    t.consStep c false = (x.setChan c { x.chan c with consDue := false }).bytes 5 8 := by
  intro x
  unfold State.consStep
  dsimp only
  rw [if_neg (by simp [hdue]), hh]
  exact if_neg Bool.false_ne_true

/-! ### Aborts and the channel window -/

/-- An abort of a descriptor under way ends it with status 1. -/
theorem pmpAbortWrite_fetched {w : Word} {d : PDesc} {s : State} (hc : bits w.toNat 5 0 < s.channels)
    (hd : ((s.chan (bits w.toNat 5 0)).descs.find? fun d => d.index = bits w.toNat 63 32 ∧ !d.wb) = some d)
    (hr : d.ready ≠ some 0) (hs : (s.chan (bits w.toNat 5 0)).stalled = false) :
    let t := s.endDesc (bits w.toNat 5 0) d.index 1
    pmpAbortWrite w s = { t with pmp := { t.pmp with abortRes := 1 } } := by
  intro t
  have habort : s.abortDesc (bits w.toNat 5 0) d = t := by
    unfold State.abortDesc
    dsimp only
    rw [hs, Bool.false_and, Bool.false_and, if_neg Bool.false_ne_true]
  unfold pmpAbortWrite
  dsimp only
  rw [if_neg (by omega), hd]
  dsimp only
  rw [if_neg hr, habort]

/-- An abort of a descriptor not yet fetched is kept for it. -/
theorem pmpAbortWrite_ahead {w : Word} {s : State} (hc : bits w.toNat 5 0 < s.channels) :
    let c := bits w.toNat 5 0
    let idx := bits w.toNat 63 32
    ((s.chan c).descs.find? fun d => d.index = idx ∧ !d.wb) = none →
    wrapI ((idx : Int) - (s.chan c).fetch) 32 < (s.chan c).ahead → (s.chan c).aborts.contains idx = false →
    let t := (s.setChan c { s.chan c with aborts := (s.chan c).aborts ++ [idx] }).endDesc c idx 1
    pmpAbortWrite w s = { t with pmp := { t.pmp with abortRes := 1 } } := by
  intro c idx hd hahead hnew t
  unfold pmpAbortWrite
  dsimp only
  rw [if_neg (by omega), show List.find? _ _ = _ from hd]
  exact (if_pos hahead).trans (if_neg (Bool.eq_false_iff.mp hnew))

/-- A channel written while it is disabled, with values in range. -/
theorem pmpChWrite_ok {c : Nat} {t : State} (hc : c < t.channels) (hen : (t.reg Rg.PMP_CH_EN).getLsbD c = false) :
    let w := fun k => (t.data .pmp 0 k).toNat
    let v : Chan := { t.chan c with
      ringVa := bits (w 0) 47 0, prodVa := bits (w 1) 47 0, consVa := bits (w 2) 47 0, xltCtx := bits (w 3) 41 32
      log2 := bits (w 3) 28 24, pollUs := bits (w 3) 23 14, tagMax := bits (w 3) 13 3, chkDesc := bit (w 3) 2
      stopErr := bit (w 3) 1, sramSize := bits (w 4) 48 32, sramBase := bits (w 4) 16 0, cons := bits (w 5) 31 0
      fetch := bits (w 5) 31 0, ahead := 0, aborts := [] }
    v.ringVa % 4096 = 0 → v.prodVa % 8 = 0 → v.consVa % 8 = 0 → v.xltCtx < t.contexts → 4 ≤ v.log2 → v.log2 ≤ 16 →
    1 ≤ v.pollUs → v.pollUs ≤ 1000 → 1 ≤ v.tagMax → v.tagMax ≤ t.tags → v.sramBase + v.sramSize ≤ t.sramPages →
    pmpChWrite c t = (t.setChan c v).win 0 := by
  intro w v hring hprod hcons hctx hlog hlog' hpoll hpoll' htag htag' hsram
  have hok : ¬(v.ringVa % 4096 ≠ 0 ∨ v.prodVa % 8 ≠ 0 ∨ v.consVa % 8 ≠ 0 ∨ t.contexts ≤ v.xltCtx ∨ v.log2 < 4 ∨ 16 < v.log2 ∨
      v.pollUs < 1 ∨ 1000 < v.pollUs ∨ v.tagMax < 1 ∨ t.tags < v.tagMax ∨ t.sramPages < v.sramBase + v.sramSize) := by
    generalize v.ringVa = a, v.prodVa = b, v.consVa = d at *
    omega
  exact (if_neg (by omega)).trans ((if_neg (Bool.eq_false_iff.mp hen)).trans (if_neg hok))

/-- Settles O25: rings are polled, segments leave and come back, and descriptors end by the pump's own state. -/
theorem pumpCommands : Obligations.PumpCommands := by
  unfold Obligations.PumpCommands
  refine ⟨?_, ?_, ?_, ?_, ?_, ?_, ?_, ?_, fun q d s ha => ?_, ?_, ?_, ?_⟩
  · intro c p descs s u hc hp t hh u' v v' hahead
    exact congrArg Host.Outcome.next (ringPoll_ahead hc hp hh hahead)
  · intro client inst c ctx l ecc y s u v hp h7 t hnext hhits htag u' hx
    exact congrArg Host.Outcome.next (segmentIssue_unit hp h7 hnext hhits htag hx)
  · intro c ctx l d ecc s u v hnext hp hhits htag t hd
    exact congrArg Host.Outcome.next (segmentIssue_ring hnext hp hhits htag hd)
  · intro c index k data d s hd hop
    exact congrArg Host.Outcome.next (State.ringDone_readDesc hd hop)
  · intro client inst index k va n off data y s hdead hy ho hseg u image
    have hdone := segmentDone_unit (index := index) hy ho (State.unitDone_found (data := data) hdead hy ho hseg)
    exact ⟨fun h => congrArg Host.Outcome.next (hdone.trans (congrArg (fun t : State => t.xferDone client inst) (if_neg h))),
      fun h => congrArg Host.Outcome.next (hdone.trans (congrArg (fun t : State => t.xferDone client inst) (if_pos h)))⟩
  · intro c index d s u ho he hd hr hh v v' t t' t''
    have hwb := (descWriteback_ready ho he hd hr hh false).trans
      (congrArg (fun t : State => t.consStep c false) (u.wbPut_ok c d ((s.chan c).slotVa index + 48)))
    exact ⟨fun h => congrArg Host.Outcome.next (hwb.trans (if_pos (by rw [show (t''.chan c).consDue = false from h]; rfl))),
      fun w h hw => congrArg Host.Outcome.next (hwb.trans (State.consStep_due h hw))⟩
  · intro q w d s ha hc hd hr hs
    exact rowWrite_next ha (pmpAbortWrite_fetched hc hd hr hs)
  · intro q w s ha hc c idx hd hahead hnew
    exact rowWrite_next ha (pmpAbortWrite_ahead hc hd hahead hnew)
  · exact rowWrite_next ha rfl
  · intro q d s ha v t
    exact rowWrite_next ha rfl
  · intro q c s t h hc v
    exact winCmd_next h (if_pos hc)
  · intro q c s t h hc hen w v hring hprod hcons hctx hlog hlog' hpoll hpoll' htag htag' hsram
    exact winCmd_next h (pmpChWrite_ok hc hen hring hprod hcons hctx hlog hlog' hpoll hpoll' htag htag' hsram)

end Sys2Proof.Machine
end

section
/-! SUPPORT. Address translation (chapter 11). -/

namespace Sys2Proof.Machine

/-- A walk that reaches a leaf enters it in the cache. -/
theorem xltWalk_leaf {x : Strm} {ptes : List (Option Word)} {ch ctx va level pte : Nat} {write : Bool} {l : List (Nat × Bool)}
    {s : State} (hp : s.primed = true) (hn : s.nextAcc x = some (ch, ctx, l))
    (hf : (l.find? fun a => !s.tlbHas ctx a.1 a.2) = some (va, write)) (hv : bit (s.ctx ctx) 63 = true) (hva : va < 2 ^ 48)
    (hw : walk write 4 ptes = .leaf level pte) :
    let t := ((s.bumpW Fd.XLT_TLB_CNT_MISSES).ev .xlt 0 2).ev .xlt 0 3 (walkReads (.leaf level pte))
    let t := t.walkEmit ctx va (walkReads (.leaf level pte)) ptes
    xltWalk x ptes s = t.tlbPut { xltCtx := ctx, level, va := va / 2 ^ pageBits level * 2 ^ pageBits level
                                  pa := bits pte 51 12 * 4096, wr := bit pte 3 } := by
  intro t t'
  unfold xltWalk
  rw [if_neg (by simp [hp]), hn]
  dsimp only
  rw [hf]
  dsimp only
  rw [if_neg (by simp [hv]), if_neg (Nat.not_le.mpr hva), hw]

/-- Without a read of the table, a walk sends nothing. -/
theorem State.walkEmit_zero (s : State) (ctx va : Nat) (ptes : List (Option Word)) : s.walkEmit ctx va 0 ptes = s := by
  unfold State.walkEmit
  rfl

/-- A context that is not valid faults without a walk. -/
theorem xltWalk_noContext {x : Strm} {ptes : List (Option Word)} {ch ctx va : Nat} {write : Bool} {l : List (Nat × Bool)}
    {s : State} (hp : s.primed = true) (hn : s.nextAcc x = some (ch, ctx, l))
    (hf : (l.find? fun a => !s.tlbHas ctx a.1 a.2) = some (va, write)) (hv : bit (s.ctx ctx) 63 = false) :
    let t := ((s.bumpW Fd.XLT_TLB_CNT_MISSES).ev .xlt 0 2).ev .xlt 0 3 0
    xltWalk x ptes s = t.stallStream x
      { token := none, va, xltCtx := ctx, client := (strmClient x ch).1, inst := (strmClient x ch).2, ch, cause := 1, level := 0
        access := b2n write, pte := 0, edge := t.aon, tmo := t.fld Fd.XLT_CFG_FAULT_TMO_US, read := false } := by
  intro t
  unfold xltWalk
  rw [if_neg (by simp [hp]), hn]
  dsimp only
  rw [hf]
  dsimp only
  rw [if_pos (by simp [hv])]
  rfl

/-- The fault queue gives its first unread entry. -/
theorem xltPop_found {t : State} {f : FqEnt} (hf : (t.xlt.faults.find? fun e => e.token.isSome && !e.read) = some f) :
    let l := t.xlt.faults.map fun (e : FqEnt) => if e.token = f.token then { e with read := true } else e
    xltPop t = { t with xlt := { t.xlt with faults := l } }.winData [BitVec.ofNat 64 f.va,
      BitVec.ofNat 64 (f.token.getD 0 * 2 ^ 48 + f.xltCtx * 2 ^ 32 + f.client * 2 ^ 24 +
        (if f.client = 7 then 0x3F else f.ch) * 2 ^ 16 + f.cause * 2 ^ 8 + f.level * 16 + f.access), f.pte] := by
  intro l
  unfold xltPop
  rw [hf]

/-- The fields of an invalidation's word. -/
theorem bits_invWord {scope ctx : Nat} (hs : scope < 4) (hc : ctx < 1024) (va : Nat) :
    bits (invWord scope ctx va).toNat 63 62 = scope ∧ bits (invWord scope ctx va).toNat 57 48 = ctx ∧
      bits (invWord scope ctx va).toNat 47 12 = va / 4096 % 2 ^ 36 := by
  simp only [bits, invWord, BitVec.toNat_ofNat]
  omega

/-- An invalidation asked for while none runs. -/
theorem xltInvWrite_invWord {scope ctx : Nat} {s : State} (h0 : scope ≠ 0) (hs : scope < 4) (hc : ctx < 1024) (va : Nat)
    (hi : s.xlt.invs.isEmpty = true) : xltInvWrite (invWord scope ctx va) s =
      s.invalidate { scope, xltCtx := ctx, va := va / 4096 % 2 ^ 36 * 4096, level := 1, window := false } := by
  obtain ⟨hscope, hctx, hva⟩ := bits_invWord hs hc va
  unfold xltInvWrite
  dsimp only
  rw [hscope, hctx, hva, if_neg (by simp [hi]), if_neg h0]

/-- An invalidation that no access is in flight for ends. -/
theorem xltInvDone_idle {window : Bool} {v : Inval} {s : State}
    (hv : (s.xlt.invs.find? fun v => v.window == window) = some v) (hf : s.inFlight v = false) :
    let t := { s with xlt := { s.xlt with invs := s.xlt.invs.erase v, tlb := s.xlt.tlb.filter fun t => !v.hit t } }
    xltInvDone window s = if window then t.winEnd .xlt 0 0 else t := by
  intro t
  unfold xltInvDone
  rw [hv]
  exact if_neg (Bool.eq_false_iff.mp hf)

/-- A context's entry written. -/
theorem xltCtxWrite_ok {c : Nat} {t : State} (hc : c < t.contexts) (hhi : bits (t.data .xlt 0 0).toNat 62 52 = 0)
    (hlo : bits (t.data .xlt 0 0).toNat 11 0 = 0) (h0 : (t.data .xlt 0 0).toNat ≠ 0) :
    xltCtxWrite c t = ({ t with xlt := { t.xlt with ctxs := t.xlt.ctxs.set c (t.data .xlt 0 0).toNat } }.invalidate
      { scope := 1, xltCtx := c, va := 0, level := 1, window := true }).winBusy := by
  unfold xltCtxWrite
  dsimp only
  rw [if_neg (by omega), if_neg (by simp [hhi, hlo]), if_neg h0]

/-- The fields of an answer's word. -/
theorem bits_respondWord {action token : Nat} (ha : action < 4) (ht : token < 2 ^ 16) :
    bits (respondWord action token).toNat 15 0 = token ∧ bits (respondWord action token).toNat 17 16 = action := by
  simp only [bits, respondWord, BitVec.toNat_ofNat]
  omega

/-- An answer to a fault that stands. -/
theorem xltRespond_found {action token : Nat} {s : State} {f : FqEnt} (h0 : action ≠ 0) (h3 : action < 3) (ht : token < 2 ^ 16)
    (hf : s.fqEnt? token = some f) :
    let t := (s.fqDrop token).setFld Fd.XLT_RESP_STAT_RESULT 0 1
    xltRespond (respondWord action token) s =
      if action = 1 then (t.bump Fd.XLT_CNT_RESUMED).resumeStream f.client f.inst
      else (t.bump Fd.XLT_CNT_ABORTED).abortStream f.client f.inst f.va := by
  intro t
  obtain ⟨htoken, haction⟩ := bits_respondWord (show action < 4 by omega) ht
  unfold xltRespond
  dsimp only
  rw [htoken, haction, if_neg (by omega), hf]

/-- A fault left without an answer ends its stream. -/
theorem xltFaultTimeout_found {token : Nat} {s : State} {f : FqEnt} (hf : s.fqEnt? token = some f) :
    xltFaultTimeout token s = ((((s.reach (f.edge + f.tmo * cyUs)).fqDrop token).bump Fd.XLT_CNT_TIMEOUTS).fault
      .xlt 0 0).abortStream f.client f.inst f.va := by
  unfold xltFaultTimeout
  rw [hf]

/-- Settles O26: walks, faults, invalidations and contexts act by the translation's own state. -/
theorem translationCommands : Obligations.TranslationCommands := by
  unfold Obligations.TranslationCommands
  refine ⟨?_, ?_, ?_, fun q ctx s ha hc hi => ?_, fun q ctx va s ha hc hva hi => ?_, fun q s ha hi => ?_, fun v s hv hf => ?_,
    fun v s hv hf => ?_, fun q c s t h hc => ?_, fun q c s t h hc hhi hlo h0 => ?_, fun q token s f ha ht hf => ?_,
    fun q token s f ha ht hf => ?_, fun token s f hf => ?_⟩
  · intro x ptes ch ctx va level pte write l s hp hn hf hv hva hw
    exact congrArg Host.Outcome.next (xltWalk_leaf hp hn hf hv hva hw)
  · intro x ptes ch ctx va write l s hp hn hf hv
    exact congrArg Host.Outcome.next (xltWalk_noContext hp hn hf hv)
  · intro q s t f h hf
    exact winCmd_next h (xltPop_found hf)
  · exact rowWrite_next ha (xltInvWrite_invWord (by decide) (by decide) hc 0 hi)
  · refine rowWrite_next ha ((xltInvWrite_invWord (by decide) (by decide) hc va hi).trans ?_)
    rw [Nat.mod_eq_of_lt (show va / 4096 < 2 ^ 36 by omega)]
  · exact rowWrite_next ha (xltInvWrite_invWord (by decide) (by decide) (by decide) 0 hi)
  · exact congrArg Host.Outcome.next ((xltInvDone_idle hv hf).trans (if_neg Bool.false_ne_true))
  · exact congrArg Host.Outcome.next ((xltInvDone_idle hv hf).trans (if_pos rfl))
  · exact winCmd_next h (if_pos hc)
  · exact winCmd_next h (xltCtxWrite_ok hc hhi hlo h0)
  · exact rowWrite_next ha ((xltRespond_found (by decide) (by decide) ht hf).trans (if_pos rfl))
  · exact rowWrite_next ha ((xltRespond_found (by decide) (by decide) ht hf).trans (if_neg (by decide)))
  · exact congrArg Host.Outcome.next (xltFaultTimeout_found hf)

end Sys2Proof.Machine
end

section
/-! SUPPORT. Lanes: their states, slots and timers, the host path and the application queues (chapter 12). -/

namespace Sys2Proof.Machine

/-- A training that runs out of time at a rate above the lowest goes on one rate down; at the lowest the lane goes DOWN. -/
theorem trainTimeout_training {w : Nat} {s : State} (h : s.lstate w = 2) :
    let t := s.reach ((s.lane w).since + 2 * cyMs)
    let r := t.fld Fd.SLK_STATE_RATE w
    trainTimeout w s = if r < t.fld Fd.SLK_CFG_RATE_MIN w then (t.slower w (r + 1)).toTrain w (r + 1) else t.laneTo w 1 :=
  if_pos h

/-- A lane in training or later that loses its signal detects again; a lane that was up goes down. -/
theorem lossOfSignal_up {w : Nat} {s : State} (h2 : 2 ≤ s.lstate w) (h5 : s.lstate w ≤ 5) :
    lossOfSignal w s = if 4 ≤ s.lstate w then (s.laneTo w 1).linkDown w else s.laneTo w 1 :=
  if_pos ⟨h2, h5⟩

/-- RETRAIN of an ACTIVE lane. -/
theorem slkCtrlWrite_retrain {w : Nat} {d : Word} {s : State} (h0 : d.getLsbD 0 = true) (h1 : d.getLsbD 1 = false)
    (h2 : d.getLsbD 2 = false) (hs : s.lstate w = 4) : slkCtrlWrite w d s = s.toTrain w (s.fld Fd.SLK_STATE_RATE w) := by
  have hclear : ¬(d.getLsbD 1 = true ∧ s.lstate w = 6) := fun h => Bool.eq_false_iff.mp h1 h.1
  unfold slkCtrlWrite
  rw [if_neg (Bool.eq_false_iff.mp h2), if_neg hclear]
  exact if_pos ⟨h0, hs⟩

/-- CLEAR_QUAR of a quarantined lane. -/
theorem slkCtrlWrite_clearQuar {w : Nat} {d : Word} {s : State} (h0 : d.getLsbD 0 = false) (h1 : d.getLsbD 1 = true)
    (h2 : d.getLsbD 2 = false) (hs : s.lstate w = 6) : slkCtrlWrite w d s = s.laneTo w 1 := by
  have h0' : ¬d.getLsbD 0 = true := Bool.eq_false_iff.mp h0
  unfold slkCtrlWrite
  rw [if_neg (Bool.eq_false_iff.mp h2), if_pos (show d.getLsbD 1 = true ∧ s.lstate w = 6 from ⟨h1, hs⟩)]
  exact (if_neg (fun h => h0' h.1)).trans (if_neg (fun h => h0' h.1))

/-- QUARANTINE of a lane. -/
theorem slkCtrlWrite_quarantine {w : Nat} {d : Word} {s : State} (h0 : d.getLsbD 0 = false) (h1 : d.getLsbD 1 = false)
    (h2 : d.getLsbD 2 = true) : slkCtrlWrite w d s = s.quarantine w 3 := by
  have h0' : ¬d.getLsbD 0 = true := Bool.eq_false_iff.mp h0
  have hclear : ¬(d.getLsbD 1 = true ∧ s.lstate w = 6) := fun h => Bool.eq_false_iff.mp h1 h.1
  unfold slkCtrlWrite
  rw [if_pos h2, if_neg hclear]
  exact congrArg (fun t : State => t.quarantine w 3) ((if_neg (fun h => h0' h.1)).trans (if_neg (fun h => h0' h.1)))

/-- A leaf's lane lets in a peer whose training body fits. -/
theorem trainFlitRx_leaf {w : Nat} {b : List Byte} {s : State} (hs : s.lstate w = 3) (hl : s.isTray = false)
    (hrole : rdLE b 0 1 = 1) (hver : rdLE b 1 1 = 1) : trainFlitRx w b s = s.letIn w b := by
  have hfits : (rdLE b 0 1 == b2n (!s.isTray) && rdLE b 1 1 == 1) = true := by
    rw [hl, hrole, hver]
    rfl
  unfold trainFlitRx
  rw [if_neg (fun h => h hs)]
  dsimp only
  rw [hfits, if_pos (show (!s.isTray) = true by simp [hl]), if_pos rfl]

/-- A tray's lane lets in a peer whose training body fits, unless the identity it claims has a twin. -/
theorem trainFlitRx_tray {w : Nat} {b : List Byte} {s : State} (hs : s.lstate w = 3) (ht : s.isTray = true)
    (hrole : rdLE b 0 1 = 0) (hver : rdLE b 1 1 = 1)
    (h : bit (rdLE b 2 3) 23 = false ∨ s.idTwin w (bits (rdLE b 2 3) 19 0) = none) : trainFlitRx w b s = s.letIn w b := by
  have hfits : (rdLE b 0 1 == b2n (!s.isTray) && rdLE b 1 1 == 1) = true := by
    rw [ht, hrole, hver]
    rfl
  unfold trainFlitRx
  rw [if_neg (fun h => h hs)]
  dsimp only
  rw [hfits, if_neg (show ¬(!s.isTray) = true by simp [ht]), if_neg (show ¬(!true) = true by decide)]
  obtain h | h := h
  · exact if_pos (by rw [h]; rfl)
  · rw [h, ite_self]

/-- A peer that claims the identity of a lower lane's peer is held. -/
theorem trainFlitRx_twin {w o : Nat} {b : List Byte} {s : State} (hs : s.lstate w = 3) (ht : s.isTray = true)
    (hrole : rdLE b 0 1 = 0) (hver : rdLE b 1 1 = 1) (hid : bit (rdLE b 2 3) 23 = true)
    (htwin : s.idTwin w (bits (rdLE b 2 3) 19 0) = some o) (ho : o < w) : trainFlitRx w b s = s.hold w := by
  have hfits : (rdLE b 0 1 == b2n (!s.isTray) && rdLE b 1 1 == 1) = true := by
    rw [ht, hrole, hver]
    rfl
  unfold trainFlitRx
  rw [if_neg (fun h => h hs)]
  dsimp only
  rw [hfits, if_neg (show ¬(!s.isTray) = true by simp [ht]), if_neg (show ¬(!true) = true by decide),
    if_neg (show ¬(!bit (rdLE b 2 3) 23) = true by rw [hid]; decide), htwin]
  exact if_neg (fun h => Nat.lt_asymm ho h.1)

/-- Settles O27: a lane moves on from the state that the event belongs to. -/
theorem laneCommands : Obligations.LaneCommands := by
  unfold Obligations.LaneCommands
  refine ⟨?_, fun w code s h => ?_, fun w tx rx s h => ?_, fun w s h => ?_, fun w tx rx s h => ?_, ?_, ?_, fun w s h => ?_,
    fun w s h => ?_, fun w s h hq => ?_, fun q w d s ha h0 h1 h2 hs => ?_, fun q w d s ha h0 h1 h2 hs => ?_,
    fun q w d s ha h0 h1 h2 => ?_, fun w b s hs hl hr hv => ?_, fun w b s hs ht hr hv h => ?_,
    fun w o b s hs ht hr hv hid htwin ho => ?_⟩
  · intro w s h t
    exact congrArg Host.Outcome.next (if_pos h)
  · exact congrArg Host.Outcome.next (if_pos h)
  · exact congrArg Host.Outcome.next (if_pos h)
  · exact congrArg Host.Outcome.next (if_pos h)
  · exact congrArg Host.Outcome.next (if_pos h)
  · intro w s h t r
    exact ⟨fun hr => congrArg Host.Outcome.next ((trainTimeout_training h).trans (if_pos hr)),
      fun hr => congrArg Host.Outcome.next ((trainTimeout_training h).trans (if_neg (Nat.not_lt.mpr hr)))⟩
  · intro w s h t
    exact congrArg Host.Outcome.next (if_pos h)
  · exact congrArg Host.Outcome.next ((lossOfSignal_up (by omega) (by omega)).trans (if_neg (by omega)))
  · exact congrArg Host.Outcome.next ((lossOfSignal_up (by omega) (by omega)).trans (if_pos (by omega)))
  · exact congrArg Host.Outcome.next (if_pos ⟨h, hq⟩)
  · exact rowWrite_next ha (slkCtrlWrite_retrain h0 h1 h2 hs)
  · exact rowWrite_next ha (slkCtrlWrite_clearQuar h0 h1 h2 hs)
  · exact rowWrite_next ha (slkCtrlWrite_quarantine h0 h1 h2)
  · exact congrArg Host.Outcome.next (trainFlitRx_leaf hs hl hr hv)
  · exact congrArg Host.Outcome.next (trainFlitRx_tray hs ht hr hv h)
  · exact congrArg Host.Outcome.next (trainFlitRx_twin hs ht hr hv hid htwin ho)

/-! ### Slots, control flits and timers -/

/-- A slot of a lane that is up and clear sends what the lane has to send. -/
theorem flitSlot_up {w sub : Nat} {s : State} (ha : s.laneActive w = true) (h3 : s.lstate w ≠ 3)
    (hc : s.clearOf w (s.now + sub) (s.flitTime w) = true) : flitSlot w sub s = s.slotSend w sub :=
  (if_neg h3).trans (if_pos ⟨ha, hc⟩)

/-- With no acknowledgement, credit sync or replay due, a slot goes to the first virtual channel that may send. -/
theorem State.slotSend_data {w : Nat} {s : State} (hn : (s.lane w).nakDue = false) (hans : (s.lane w).ansDue = false)
    (hsync : (s.lane w).syncDue = none) (hrep : (s.lane w).replayPos = none) (sub : Nat) :
    (s.vcTurn w 0 = true → s.slotSend w sub = s.sendVc w 0 sub) ∧
    (s.vcTurn w 0 = false → s.vcTurn w 1 = true → s.slotSend w sub = s.sendVc w 1 sub) ∧
    (s.vcTurn w 0 = false → s.vcTurn w 1 = false → s.vcTurn w 2 = false → s.vcTurn w 3 = false →
      s.slotSend w sub = s.txFlit w (ctlFlit 0 [])) := by
  unfold State.slotSend
  dsimp only
  rw [if_neg (by simp [hn]), if_neg (by simp [hans]), if_neg (by simp [hsync]), hrep]
  dsimp only [Option.bind_none]
  refine ⟨fun h0 => if_pos h0, fun h0 h1 => ?_, fun h0 h1 h2 h3 => ?_⟩
  · exact (if_neg (Bool.eq_false_iff.mp h0)).trans (if_pos h1)
  · rw [if_neg (Bool.eq_false_iff.mp h0), if_neg (Bool.eq_false_iff.mp h1), h2, h3]
    rfl

/-- A control flit that the lane takes in does its type's work. -/
theorem State.controlRow_taken {w ftype : Nat} {f : List Byte} {x : Flit} {len : Nat} {s t : State} (ha : s.laneActive w = true)
    (ht : (flitOf f).1.ftype = ftype) (hf : s.flitIn w f 0 none = (t, some (x, len))) :
    s.controlRow w ftype f = t.controlIn w x len := by
  unfold State.controlRow
  rw [if_pos ⟨ha, ht⟩, hf]

/-- A credit sync left without an answer is asked again, or the lane retrains after eight of them. -/
theorem creditSyncTimeout_waiting {w e : Nat} {s : State} (he : (s.lane w).syncWait = some e) (ha : s.laneActive w = true) :
    let t := s.reach (e + cyUs)
    let l := t.lane w
    creditSyncTimeout w s = if 8 ≤ l.syncTries then
        (t.setLane w { l with syncWait := none, syncTries := 0 }).retrain w (t.fld Fd.SLK_STATE_RATE w)
      else t.setLane w { l with syncWait := none, syncDue := some true, syncTries := l.syncTries + 1 } := by
  intro t l
  unfold creditSyncTimeout
  rw [he]
  exact if_pos ha

/-- Settles O28: slots, control flits and timers act by the lane's own state. -/
theorem flitCommands : Obligations.FlitCommands := by
  unfold Obligations.FlitCommands
  refine ⟨?_, fun w sub s ha h3 hc hn => ?_, fun w sub s ha h3 hc hn hans hsync hrep => ?_, fun w f x len s t ha ht hf => ?_,
    fun w f x len s t ha ht hf => ?_, fun w f x len s t ha ht hf => ?_, fun w s ha hr => ?_, fun w s ha hg hn => ?_, ?_⟩
  · intro w sub s h f
    exact congrArg Host.Outcome.next (if_pos h)
  · exact congrArg Host.Outcome.next ((flitSlot_up ha h3 hc).trans (if_pos hn))
  · obtain ⟨hvc0, hvc1, hnull⟩ := State.slotSend_data hn hans hsync hrep sub
    exact ⟨fun h0 => congrArg Host.Outcome.next ((flitSlot_up ha h3 hc).trans (hvc0 h0)),
      fun h0 h1 => congrArg Host.Outcome.next ((flitSlot_up ha h3 hc).trans (hvc1 h0 h1)),
      fun h0 h1 h2 h3' => congrArg Host.Outcome.next ((flitSlot_up ha h3 hc).trans (hnull h0 h1 h2 h3'))⟩
  · exact congrArg Host.Outcome.next (State.controlRow_taken ha ht hf)
  · exact congrArg Host.Outcome.next (State.controlRow_taken ha ht hf)
  · exact congrArg Host.Outcome.next (State.controlRow_taken ha ht hf)
  · exact congrArg Host.Outcome.next (if_pos ⟨ha, by simp [hr]⟩)
  · exact congrArg Host.Outcome.next (if_pos ⟨ha, hg, hn⟩)
  · intro w e s he ha t l
    exact ⟨fun h => congrArg Host.Outcome.next ((creditSyncTimeout_waiting he ha).trans (if_pos h)),
      fun h => congrArg Host.Outcome.next ((creditSyncTimeout_waiting he ha).trans (if_neg (Nat.not_le.mpr h)))⟩

/-! ### The host path and the application queues -/

/-- The delay of a leaf's link that is out ends in the host path. -/
theorem hpaRouteDelay_out {e : Nat} {s : State} (he : (s.lane 0).outSince = some e) (hl : s.isTray = false)
    (hen : s.enabled .hpa = true) (h4 : s.lstate 0 ≠ 4) (h5 : s.lstate 0 ≠ 5) (hr : s.fld Fd.HPA_STAT_ROUTED = 0) :
    hpaRouteDelay s = (s.reach (e + s.fld Fd.HPA_CFG_DELAY_US * cyUs)).hpaRoute := by
  unfold hpaRouteDelay
  rw [he]
  exact if_pos ⟨by simp [hl], hen, h4, h5, hr⟩

/-- With room in the ring and none under way, the host path takes its next item of channel 0. -/
theorem hpaFlitSend_first {s t : State} {x : TxItem} (hl : s.isTray = false) (hlive : s.live .hpa = true) (hp : s.primed = true)
    (hx : s.xfer? 11 0 = none) (hfull : s.hpaFull = false) (h0 : s.hpaItem 0 = some (x, t)) : hpaFlitSend s = t.hpaPut 0 x := by
  unfold hpaFlitSend
  rw [if_neg (by simp [hl, hlive, hp, hx]), if_neg (Bool.eq_false_iff.mp hfull), h0]

/-- With none of channel 0, it takes its next item of channel 2. -/
theorem hpaFlitSend_second {s t : State} {x : TxItem} (hl : s.isTray = false) (hlive : s.live .hpa = true) (hp : s.primed = true)
    (hx : s.xfer? 11 0 = none) (hfull : s.hpaFull = false) (h0 : s.hpaItem 0 = none) (h2 : s.hpaItem 2 = some (x, t)) :
    hpaFlitSend s = t.hpaPut 2 x := by
  unfold hpaFlitSend
  rw [if_neg (by simp [hl, hlive, hp, hx]), if_neg (Bool.eq_false_iff.mp hfull), h0]
  dsimp only
  rw [h2]

/-- A message taken from a lane that has one. -/
theorem appRxPop_cons {w : Nat} {t : State} {m : Bytes} {n : Nat} {r : List (Bytes × Nat)} (h : (t.lane w).rxApp = (m, n) :: r) :
    appRxPop w t = (t.modLane w fun l => { l with rxApp := r }).winData
      (toWords 4 m ++ [BitVec.ofNat 64 (time96 n), BitVec.ofNat 64 (time96 n / 2 ^ 64)]) := by
  unfold appRxPop
  rw [h]

/-- The flits that a ring gives are sent, and its consumer index is written. -/
theorem altRingPoll_some {w prod : Nat} {flits : List (List Byte)} {s : State} (ht : s.isTray = true) (hw : w < s.wellheads)
    (hen : s.enabled .slk w = true) (hcfg : s.fld Fd.SLK_ALT_CFG_ENABLE w = 1) (h7 : s.lstate w ≠ 7) :
    let n := min ((prod + 2 ^ 32 - (s.lane w).altCons) % 2 ^ 32) (min flits.length (2 ^ (s.fld Fd.SLK_ALT_CFG_LOG2_FLITS w + 8)))
    let t := (flits.take n).foldl (fun s b => s.altFlit w b) s
    let c := ((t.lane w).altCons + n) % 2 ^ 32
    let u := t.modLane w fun l => { l with altCons := c }
    0 < n → altRingPoll w prod flits s =
      u.emit (.ringWrite (u.fld Fd.SLK_ALT_CFG_XLT_CTX w) (u.fld Fd.SLK_ALT_PTRS_PTRS_VA w * 8 + 8) (leBytes 8 c)) := by
  intro n t c u hn
  exact (if_pos ⟨ht, hw, hen, hcfg, h7⟩).trans (if_neg (Nat.ne_of_gt hn))

/-- Settles O29: the host path and the application queues act by their own state. -/
theorem hostPathCommands : Obligations.HostPathCommands := by
  unfold Obligations.HostPathCommands
  refine ⟨fun e s he hl hen h4 h5 hr => ?_, fun s t x hl hlive hp hx hfull h0 => ?_, fun s t x hl hlive hp hx hfull h0 h2 => ?_, ?_,
    ?_, fun q w s t m n r h hr => ?_, fun w m s h => ?_, ?_⟩
  · exact congrArg Host.Outcome.next (hpaRouteDelay_out he hl hen h4 h5 hr)
  · exact congrArg Host.Outcome.next (hpaFlitSend_first hl hlive hp hx hfull h0)
  · exact congrArg Host.Outcome.next (hpaFlitSend_second hl hlive hp hx hfull h0 h2)
  · intro cons s hl hen t
    exact congrArg Host.Outcome.next (if_neg (by simp [hl, hen]))
  · intro q w s t h hd d
    exact winCmd_next h (if_neg (Bool.eq_false_iff.mp hd))
  · exact winCmd_next h (appRxPop_cons hr)
  · exact congrArg Host.Outcome.next (if_pos h)
  · intro w prod flits s ht hw hen hcfg h7 n t c u hn
    exact congrArg Host.Outcome.next (altRingPoll_some ht hw hen hcfg h7 hn)

end Sys2Proof.Machine
end

section
/-! SUPPORT. Records and sums of a tray (chapter 13). -/

namespace Sys2Proof.Machine

/-- An epoch with a sum on time is due to close. -/
theorem State.closesDue_of_onTime {s : State} {n : Nat} {a : Accum} (h : (s.rdx.onTime.find? fun a => a.epoch == n) = some a) :
    s.closesDue.contains n = true := by
  have hmem := List.mem_of_find?_eq_some h
  have hn : a.epoch = n := by simpa using List.find?_some h
  exact List.contains_iff_mem.mpr (List.mem_append_left _ (List.mem_map.mpr ⟨a, hmem, hn⟩))

/-- The first close that is due. -/
theorem rdxClose_due {n close : Nat} {s : State} (hl : s.live .rdx = true) (ht : s.timeValid = true)
    (hd : s.closesDue.contains n = true) (hall : s.closesDue.all (fun k => decide (n ≤ k)) = true)
    (hc : ((s.rdx.onTime.find? fun a => a.epoch == n).map (·.close)).getD (s.closeAt n) = close) :
    rdxClose n s = ((s.reachTime close).closeEpoch n).leaveWindow n close := by
  unfold rdxClose
  rw [if_pos ⟨hl, ht, hd, hall⟩]
  subst hc
  cases s.rdx.onTime.find? fun a => a.epoch == n with
  | some a => rfl
  | none => rfl

/-- A descriptor of the sums read. -/
theorem rdxTblRead_desc {k : Nat} {t : State} (hk : k < 16384) :
    rdxTblRead 0 k t = t.winData [BitVec.ofNat 64 (t.rdx.staged.descs.getD k 0).toNat] := by
  unfold rdxTblRead
  rw [if_pos rfl, if_pos hk]

/-- A template read. -/
theorem rdxTblRead_tmpl {k : Nat} {t : State} (hk : k < 16) :
    let x := t.rdx.staged.tmpls.getD k ⟨false, 0, 0⟩
    rdxTblRead 1 k t = t.winData [x.word, BitVec.ofNat 64 (descCrc ((List.range x.fields).map fun n =>
      t.rdx.staged.descs.getD (k * 1024 + n) 0))] := by
  intro x
  unfold rdxTblRead
  rw [if_neg (show ¬1 = 0 by decide), if_pos rfl, if_neg (by omega)]

/-- A stream read. -/
theorem rdxTblRead_stream {k : Nat} {t : State} (hk : k < 16) :
    let x := t.rdx.staged.streams.getD k ⟨false, false, 0, 0, 0, 0⟩
    rdxTblRead 2 k t = t.winData
      [BitVec.ofNat 64 (b2n x.valid * 2 ^ 63 + b2n x.ordered * 2 ^ 62 + x.job * 2 ^ 32 + x.gen * 2 ^ 24 + x.entry),
        BitVec.ofNat 64 x.expected.toNat, BitVec.ofNat 64 (x.expected.toNat / 2 ^ 64)] := by
  intro x
  unfold rdxTblRead
  rw [if_neg (show ¬2 = 0 by decide), if_neg (show ¬2 = 1 by decide), if_pos rfl, if_neg (by omega)]

/-- A descriptor staged. -/
theorem rdxTblWrite_desc {k : Nat} {t : State} (hk : k < 16384) (hp : t.rdx.pending = false) :
    let v := BitVec.ofNat 32 (t.data .rdx 0 0).toNat
    let b := t.rdx.staged
    rdxTblWrite 0 k t = (t.setRdxStaged { b with descs := if v = 0 then b.descs.erase k else b.descs.set k v }).win 0 := by
  intro v b
  unfold rdxTblWrite
  rw [if_neg (show ¬(2 < 0 ∨ (if 0 = 0 then 16384 else 16) ≤ k) by simpa using hk), if_neg (Bool.eq_false_iff.mp hp), if_pos rfl]

/-- A template staged. -/
theorem rdxTblWrite_tmpl {k : Nat} {t : State} (hk : k < 16) (hp : t.rdx.pending = false) :
    let d := (t.data .rdx 0 0).toNat
    let b := t.rdx.staged
    rdxTblWrite 1 k t = (t.setRdxStaged { b with tmpls := b.tmpls.set k ⟨bit d 63, bits d 47 40, bits d 10 0⟩ }).win 0 := by
  intro d b
  unfold rdxTblWrite
  rw [if_neg (show ¬(2 < 1 ∨ (if 1 = 0 then 16384 else 16) ≤ k) by simpa using hk), if_neg (Bool.eq_false_iff.mp hp),
    if_neg (show ¬1 = 0 by decide), if_pos rfl]

/-- A stream staged. -/
theorem rdxTblWrite_stream {k : Nat} {t : State} (hk : k < 16) (hp : t.rdx.pending = false) :
    let d := (t.data .rdx 0 0).toNat
    let x := BitVec.ofNat 128 ((t.data .rdx 0 1).toNat + (t.data .rdx 0 2).toNat * 2 ^ 64)
    let b := t.rdx.staged
    rdxTblWrite 2 k t = (t.setRdxStaged { b with
      streams := b.streams.set k ⟨bit d 63, bit d 62, bits d 55 32, bits d 31 24, bits d 3 0, x⟩ }).win 0 := by
  intro d x b
  unfold rdxTblWrite
  rw [if_neg (show ¬(2 < 2 ∨ (if 2 = 0 then 16384 else 16) ≤ k) by simpa using hk), if_neg (Bool.eq_false_iff.mp hp),
    if_neg (show ¬2 = 0 by decide), if_neg (show ¬2 = 1 by decide)]

/-- The frames of the tree that are due first are sent. -/
theorem treeSendTimer_due {d : Nat} {ds : List Nat} {s : State}
    (h : (s.rdx.tree.filter fun h => !h.sent).map (·.due) = d :: ds) :
    let t := s.reachTime (ds.foldl min d)
    treeSendTimer s = ((s.rdx.tree.filter fun h => !h.sent).filter fun h => decide (h.due ≤ t.now)).foldl
      (fun s h => s.treeEmit h) t := by
  intro t
  unfold treeSendTimer
  dsimp only
  rw [h]

/-- Settles O30: records are taken, epochs close, frames go up the tree, and the tables are staged and read. -/
theorem reductionCommands : Obligations.ReductionCommands := by
  unfold Obligations.ReductionCommands
  refine ⟨fun w m lost s ht h7 => ?_, fun n a s ha hl ht hall => ?_, fun n s hn hl ht hd hall => ?_, fun q d s ha hw => ?_,
    fun p f s ht hp hl hon hdst => ?_, fun q k s t h hk => ?_, ?_, ?_, ?_, ?_, ?_, ?_⟩
  · exact congrArg Host.Outcome.next (if_pos ⟨ht, h7⟩)
  · exact congrArg Host.Outcome.next (rdxClose_due hl ht (State.closesDue_of_onTime ha) hall (by rw [ha]; rfl))
  · exact congrArg Host.Outcome.next (rdxClose_due hl ht hd hall (by rw [hn]; rfl))
  · exact rowWrite_next ha (if_pos hw)
  · exact congrArg Host.Outcome.next (if_pos ⟨ht, hp, hl, hon, hdst⟩)
  · exact winCmd_next h (rdxTblRead_desc hk)
  · intro q k s t h hk
    exact winCmd_next h (rdxTblRead_tmpl hk)
  · intro q k s t h hk
    exact winCmd_next h (rdxTblRead_stream hk)
  · intro q k s t h hk hp
    exact winCmd_next h (rdxTblWrite_desc hk hp)
  · intro q k s t h hk hp
    exact winCmd_next h (rdxTblWrite_tmpl hk hp)
  · intro q k s t h hk hp
    exact winCmd_next h (rdxTblWrite_stream hk hp)
  · intro d ds s h
    exact congrArg Host.Outcome.next (treeSendTimer_due h)

end Sys2Proof.Machine
end

section
/-! SUPPORT. Collectives (chapter 14). -/

namespace Sys2Proof.Machine

/-- COL_START of a group that stands and has no run. -/
theorem colStartWrite_idle {d : Word} {ecc : Bool} {e : ColGrp} {s : State} (he : s.colGrp? (bits d.toNat 3 0) = some e)
    (hr : s.colRun? (bits d.toNat 3 0) = none) (hl : s.live .col = true) :
    colStartWrite d ecc s = s.colStart (bits d.toNat 3 0) e ecc := by
  unfold colStartWrite
  dsimp only
  rw [he]
  dsimp only
  rw [if_neg (by simp [hr])]
  exact if_pos hl

/-- COL_ABORT of a run ends it with cause 1. -/
theorem colAbortWrite_running {d : Word} {e : ColGrp} {r : ColRun} {s : State} (he : s.colGrp? (bits d.toNat 3 0) = some e)
    (hr : s.colRun? (bits d.toNat 3 0) = some r) :
    let t := s.colEnd (bits d.toNat 3 0) e r 1 e.myRank true
    colAbortWrite d s = { t with col := { t.col with abortRes := 1 } } := by
  intro t
  unfold colAbortWrite
  dsimp only
  rw [he, hr]

/-- A frame that the collectives take goes to its group by its kind. -/
theorem colRx_taken {kind p : Nat} {f : List Byte} {s : State} (ecc : Bool) (hp : p < 2) (ht : s.colTakes f = true)
    (hk : rdLE (ethParse f).body 1 1 = kind) : (if p < 2 then colRx kind f ecc s else s) = s.colFrame f ecc :=
  (if_pos hp).trans (if_pos ⟨ht, hk⟩)

/-- The first re-sends that come due are made. -/
theorem colRetx_due {g n : Nat} {e : ColGrp} {r : ColRun} {s : State} (he : s.colGrp? g = some e)
    (hr : s.col.runs.get? g = some r) (hn : (r.sends.map fun (x : ColSend) => x.resend).min? = some n) :
    let t := s.reach n
    let u := (r.sends.filter fun (x : ColSend) => decide (x.resend ≤ t.aon)).foldl (fun (s : State) (x : ColSend) =>
      (s.bump Fd.COL_RETX_FRAGMENTS 0 x.frags.length).colSendAll r.etype (s.colMac e x.dst) x.frags) t
    colRetx g s = u.setColRun g { r with sends := r.sends.map fun (x : ColSend) =>
      if x.resend ≤ u.aon then { x with resend := u.aon + r.retx } else x } := by
  intro t u
  unfold colRetx
  rw [he, hr]
  dsimp only
  rw [hn]

/-- A run that waits too long for a frame stalls. -/
theorem colRxTimeout_missing {g : Nat} {e : ColGrp} {r : ColRun} {s : State} (he : s.colGrp? g = some e)
    (hr : s.colRun? g = some r) (hm : r.missing e ≠ []) :
    colRxTimeout g s = (s.reach (r.entered + r.tmo)).colStall g e r := by
  unfold colRxTimeout
  rw [he, hr]
  exact if_neg (fun h => hm (List.isEmpty_iff.mp h))

/-- A run whose frame is acknowledged too late stalls. -/
theorem colTxTimeout_waiting {g n : Nat} {e : ColGrp} {r : ColRun} {s : State} (he : s.colGrp? g = some e)
    (hr : s.colRun? g = some r) (hn : (r.sends.map fun (x : ColSend) => x.first).min? = some n) :
    colTxTimeout g s = (s.reach (n + r.tmo)).colStall g e r := by
  unfold colTxTimeout
  rw [he, hr]
  dsimp only
  rw [hn]

/-- The blocks that came whole are applied; the run ends well when that is all of them. -/
theorem colEftApplyDone_applying {g : Nat} {e : ColGrp} {r : ColRun} {s : State} (he : s.colGrp? g = some e)
    (hr : s.colRun? g = some r) (ha : r.applying = true) :
    let good := (List.range e.n).takeWhile fun k => (r.recvBlock e k).2 % 256 == 0
    let t := good.foldl (fun (s : State) k => s.colApplyBlock (r.recvBlock e k).1 (r.recvBlock e k).2) s
    colEftApplyDone g false s = if good.length = e.n then t.colEnd g e r 0 0xFFF false else t.colDataErr g e r := by
  intro good t
  unfold colEftApplyDone
  rw [he, hr]
  dsimp only
  rw [if_neg (by simp [ha])]
  exact if_neg Bool.false_ne_true

/-- A group that stands is read. -/
theorem colGroupRead_found {k : Nat} {e : ColGrp} {t : State} (hk : k < 16) (he : t.col.groups.get? k = some e) :
    colGroupRead k t = t.winData (e.words (t.colRun? k)) k := by
  unfold colGroupRead
  rw [if_neg (by omega), he]

/-- A group without a run is written with a good entry. -/
theorem colGroupWrite_ok {k : Nat} {t : State} (hk : k < 16) (hr : t.colRun? k = none) (hok : (t.colEntry k).ok = true) :
    let u := t.setColGrp k (t.colEntry k)
    colGroupWrite k t = { u with col := { u.col with
      runs := u.col.runs.erase k, heldSig := u.col.heldSig.drop fun x => x / 4096 == k } }.win 0 k := by
  intro u
  exact (if_neg (by omega)).trans ((if_neg (by simp [hr])).trans (if_neg (by simp [hok])))

/-- Settles O31: a collective starts, runs and ends, and its windows act, by its group's own state. -/
theorem collectiveCommands : Obligations.CollectiveCommands := by
  unfold Obligations.CollectiveCommands
  refine ⟨fun q d ecc e s ha he hr hl => ?_, ?_, fun p f ecc s hp ht hk => ?_, fun p f ecc s hp ht hk => ?_,
    fun p f ecc s hp ht hk => ?_, fun p f s hp ht hk => ?_, ?_, fun g e r s he hr hm => ?_, fun g n e r s he hr hn => ?_, ?_,
    fun q k e s t h hk he => ?_, ?_, fun q k s t h hk => ?_, fun q k s t h hk hr => ?_, fun q k s t h hk => ?_⟩
  · exact rowWrite_next ha (colStartWrite_idle he hr hl)
  · intro q d e r s ha he hr
    exact rowWrite_next ha (colAbortWrite_running he hr)
  · exact congrArg Host.Outcome.next (colRx_taken ecc hp ht hk)
  · exact congrArg Host.Outcome.next (colRx_taken ecc hp ht hk)
  · exact congrArg Host.Outcome.next (colRx_taken ecc hp ht hk)
  · exact congrArg Host.Outcome.next (colRx_taken false hp ht hk)
  · intro g n e r s he hr hn
    exact congrArg Host.Outcome.next (colRetx_due he hr hn)
  · exact congrArg Host.Outcome.next (colRxTimeout_missing he hr hm)
  · exact congrArg Host.Outcome.next (colTxTimeout_waiting he hr hn)
  · intro g e r s he hr ha good t
    exact ⟨fun h => congrArg Host.Outcome.next ((colEftApplyDone_applying he hr ha).trans (if_pos h)),
      fun h => congrArg Host.Outcome.next ((colEftApplyDone_applying he hr ha).trans (if_neg h))⟩
  · exact winCmd_next h (colGroupRead_found hk he)
  · intro q k s t h hk hr hok
    exact winCmd_next h (colGroupWrite_ok hk hr hok)
  · exact winCmd_next h (if_pos hk)
  · exact winCmd_next h ((if_neg (by omega)).trans (if_neg (Bool.eq_false_iff.mp hr)))
  · exact winCmd_next h (if_pos hk)

end Sys2Proof.Machine
end

section
/-! SUPPORT. The cistern, the up ports, the staged tables of UPS, and the buddy (chapter 15). -/

namespace Sys2Proof.Machine

/-- A slow step of a saturated cistern. -/
theorem slowStepTimer_saturated {s : State} (h : s.fld Fd.CIS_STAT_SATURATED = 1) :
    let t := s.reach (s.cis.stepAt + s.fld Fd.CIS_SAT_SLOW_STEP_MS * cyMs)
    let u := { t with cis := { t.cis with stepAt := t.aon, stepFill := t.cis.fill } }
    slowStepTimer s = if decide (t.cis.fill < t.cis.stepFill) then u
      else u.shiftTo (min (u.fld Fd.CIS_STAT_S + 1) (u.fld Fd.CIS_SAT_SHIFT_MAX)) :=
  if_pos h

/-- The next ingest is granted when its credit has come. -/
theorem ingestGrant_next {x : Ingest} {s : State} (hx : s.nextIngest = some x) (hl : s.live .cis = true) :
    let b := s.fld Fd.CIS_INGEST_BUDGET_B
    let k := ceilDiv (x.body.length - s.ingestCredit) (20 * b)
    ingestGrant s = (s.advance k).grant x (min (4 * b) (s.ingestCredit + k * 20 * b - x.body.length)) := by
  intro b k
  unfold ingestGrant
  rw [hx]
  exact if_pos hl

/-- Settles O32: the timers step the shift, the policers are written and read, and the next ingest is granted. -/
theorem cisternCommands : Obligations.CisternCommands := by
  unfold Obligations.CisternCommands
  refine ⟨?_, ?_, ?_, ?_, ?_⟩
  · intro s h t u
    exact ⟨fun hf => congrArg Host.Outcome.next ((slowStepTimer_saturated h).trans (if_pos (decide_eq_true hf))),
      fun hf => congrArg Host.Outcome.next ((slowStepTimer_saturated h).trans
        (if_neg (fun hd => Nat.not_lt.mpr hf (of_decide_eq_true hd))))⟩
  · intro s h0 hs t
    exact congrArg Host.Outcome.next (if_pos ⟨h0, hs⟩)
  · intro q w v s t h hk p
    exact winCmd_next h (if_pos hk)
  · intro q w v s t h hk d p
    exact winCmd_next h (if_pos hk)
  · intro x s hx hl b k
    exact congrArg Host.Outcome.next (ingestGrant_next hx hl)

/-! ### The up ports -/

/-- A gate's span ends. -/
theorem gateAdvance_end {p e : Nat} {s : State} (he : (s.up p).gateEnd = some e) :
    let t := s.reach e
    gateAdvance p s = t.setUp p { t.up p with
      gateIdx := (s.up p).gateIdx + 1
      gateEnd := (t.ups.active.gateSpan p ((s.up p).gateIdx + 1)).map fun d => e + d / 10000 } := by
  intro t
  unfold gateAdvance
  dsimp only
  rw [he]

/-- A port that is up sends first from its strict queues. -/
theorem upTx_strict {p sub q : Nat} {x : UpItem} {r : List UpItem} {s : State} (ht : s.isTray = true) (hp : p < 2)
    (hlink : s.fld Fd.UP_STAT_LINK p = 1) (hup : s.enabled .up p = true) (hups : s.enabled .ups = true)
    (hq : s.strictPick p sub = some q) (hx : (s.up p).queues.getD q [] = x :: r) :
    upTx p sub s = (s.setUp p { s.up p with queues := (s.up p).queues.set q r }).upSend p sub x := by
  unfold upTx
  rw [if_neg (by simp [ht, hlink, hup, hups]; omega)]
  dsimp only
  rw [hq]
  dsimp only
  rw [hx]

/-- With none of them ready, it serves its other queues in turn. -/
theorem upTx_drr {p sub q k : Nat} {x : UpItem} {u : UpPort} {s : State} (ht : s.isTray = true) (hp : p < 2)
    (hlink : s.fld Fd.UP_STAT_LINK p = 1) (hup : s.enabled .up p = true) (hups : s.enabled .ups = true)
    (hq : s.strictPick p sub = none) (hf : s.flt.faulted = false)
    (hd : drrServe (fun q => s.qcfg (32 * p + q)) (s.drrOk p sub) s.aon (2 * (s.up p).drr.length + 2) (s.up p) 0 =
      some (q, x, u, k)) :
    let t := ((s.setUp p u).ev .ups 0 2 k).upSend p sub x
    upTx p sub s = t.unspill p q (t.cis.spill.getD (32 * p + q) []) := by
  intro t
  unfold upTx
  rw [if_neg (by simp [ht, hlink, hup, hups]; omega)]
  dsimp only
  rw [hq]
  dsimp only
  rw [if_neg (Bool.eq_false_iff.mp hf), hd]

/-- A port comes up; with the other one down it takes over the other's queues. -/
theorem upLinkUp_down {p : Nat} {s : State} (ht : s.isTray = true) (hp : p < 2) (hlink : s.fld Fd.UP_STAT_LINK p = 0) :
    let u := s.draw.2
    let t := ((u.setLat (128 + p) (bits s.draw.1.toNat 31 0) (bits s.draw.1.toNat 63 32)).setFld Fd.UP_STAT_LINK p 1).pendBit 10 3
    upLinkUp p s = if t.upLink p = true ∧ t.upLink (1 - p) = false then t.moveFixed (1 - p) p else t := by
  intro u t
  refine (if_pos ⟨ht, hp, hlink⟩).trans 
    (ite_congr (propext (and_congr_right fun _ => ?_)) (fun _ => rfl) fun _ => rfl)
  exact Bool.not_eq_true' (t.upLink (1 - p)) ▸ Iff.rfl

/-- `UP_CTRL` = CLEAR_QUAR forgets the port's quarantines. -/
theorem upCtrlWrite_clearQuar {p : Nat} {d : Word} {s : State} (h0 : d.getLsbD 0 = true) (h1 : d.getLsbD 1 = false) :
    upCtrlWrite p d s = s.setQuars p [] :=
  (if_neg (Bool.eq_false_iff.mp h1)).trans (if_pos h0)

/-- `UP_CTRL` = QUAR_FULL_CLEAR clears the count of refused quarantines. -/
theorem upCtrlWrite_quarFull {p : Nat} {d : Word} {s : State} (h0 : d.getLsbD 0 = false) (h1 : d.getLsbD 1 = true) :
    upCtrlWrite p d s = s.setUp p { s.up p with quarFull := 0 } := by
  unfold upCtrlWrite
  rw [if_pos h1, if_neg (Bool.eq_false_iff.mp h0)]

/-- A quarantine that ends. -/
theorem upQuarExpire_found {p e : Nat} {mac m : BitVec 48} {s : State}
    (hf : (s.up p).quars.find? (fun (x : BitVec 48 × Nat) => x.1 == mac) = some (m, e)) (hk : 0 < s.fld Fd.UP_QUAR_CFG_QUAR_S p) :
    let t := s.reach (e + s.fld Fd.UP_QUAR_CFG_QUAR_S p * 1000 * cyMs)
    upQuarExpire p mac s = t.setQuars p ((t.up p).quars.filter fun (x : BitVec 48 × Nat) => x.1 != mac) := by
  intro t
  unfold upQuarExpire
  dsimp only
  rw [hf]
  exact if_neg (Nat.ne_of_gt hk)

/-- A frame of software, neither timed nor marked, joins queue 6. -/
theorem swFrameSend_plain {t : State} :
    let d := (t.data .ups 0 1).toNat
    let len := bits (t.data .ups 0 2).toNat 47 32
    let buf := bits (t.data .ups 0 2).toNat 23 0
    14 ≤ len → len ≤ t.fld Fd.UP_CFG_MTU (bits d 51 51) + 14 → t.inShared buf len = true → bit d 49 = false → bit d 48 = false →
    let u := t.bytes 0 len
    swFrameSend t = (u.putDrr (bits d 51 51) 6 (Mem.read t.sram (t.sharedBase + buf) len)).win 0 := by
  intro d len buf hmin hmax hbuf htimed hmark u
  have hform : ¬(len < 14 ∨ t.fld Fd.UP_CFG_MTU (bits d 51 51) + 14 < len ∨ (!t.inShared buf len) = true) := by
    rintro (h | h | h)
    · exact Nat.not_lt.mpr hmin h
    · exact Nat.not_lt.mpr hmax h
    · rw [hbuf] at h
      exact Bool.false_ne_true h
  exact (if_neg hform).trans ((if_neg (Bool.eq_false_iff.mp htimed)).trans (if_neg (Bool.eq_false_iff.mp hmark)))

/-- A frame taken by software from a queue that has one. -/
theorem swFramePop_cons {p n buf k : Nat} {r : List (Nat × Nat × Nat × Nat)} {t : State} (h : t.ups.swRx = (p, n, buf, k) :: r) :
    swFramePop t = { t with ups := { t.ups with swRx := r } }.winData
      [BitVec.ofNat 64 (p * 2 ^ 48 + n * 2 ^ 32 + buf), BitVec.ofNat 64 (time96 k), BitVec.ofNat 64 (time96 k / 2 ^ 64)] := by
  unfold swFramePop
  rw [h]

/-- Settles O33: gates, queues, links, quarantines and software's frames act by the port's own state. -/
theorem upPortCommands : Obligations.UpPortCommands := by
  unfold Obligations.UpPortCommands
  refine ⟨?_, fun p sub q x r s ht hp hlink hup hups hq hx => ?_, ?_, ?_, ?_, fun q p d s ha h0 h1 => ?_,
    fun q p d s ha h0 h1 => ?_, ?_, ?_, fun q p n buf k r s t h hr => ?_⟩
  · intro p e s he t
    exact congrArg Host.Outcome.next (gateAdvance_end he)
  · exact congrArg Host.Outcome.next (upTx_strict ht hp hlink hup hups hq hx)
  · intro p sub q k x u s ht hp hlink hup hups hq hf hd t
    exact congrArg Host.Outcome.next (upTx_drr ht hp hlink hup hups hq hf hd)
  · intro p s ht hp hlink t
    exact congrArg Host.Outcome.next (if_pos ⟨ht, hp, hlink⟩)
  · intro p s ht hp hlink u t
    exact congrArg Host.Outcome.next (upLinkUp_down ht hp hlink)
  · exact rowWrite_next ha (upCtrlWrite_clearQuar h0 h1)
  · exact rowWrite_next ha (upCtrlWrite_quarFull h0 h1)
  · intro p mac m e s hf hk t
    exact congrArg Host.Outcome.next (upQuarExpire_found hf hk)
  · intro q s t h d len buf hmin hmax hbuf htimed hmark u
    exact winCmd_next h (swFrameSend_plain hmin hmax hbuf htimed hmark)
  · exact winCmd_next h (swFramePop_cons hr)

/-! ### The staged tables -/

/-- A queue staged with a quantum and a limit. -/
theorem upsQueueWrite_ok {k : Nat} {t : State} (hk : upsQueueIdx k = true) (hp : t.ups.pending = false) :
    let d := (t.data .ups 0 0).toNat
    bits d 47 40 ≠ 0 → bits d 29 16 ≠ 0 →
    let b := t.ups.staged
    upsQueueWrite k t = (t.setUpsStaged { b with
      queues := b.queues.set k ⟨bits d 47 40, bits d 39 32, bits d 29 16, bit d 0⟩ }).win 0 := by
  intro d hq hl b
  exact (if_neg (by simp [hk])).trans ((if_neg (Bool.eq_false_iff.mp hp)).trans (if_neg (fun h => h.elim hq hl)))

/-- Settles O34: the tables are staged while no commit waits, and read. -/
theorem upstreamTables : Obligations.UpstreamTables := by
  unfold Obligations.UpstreamTables
  refine ⟨?_, ?_, fun q k s t h hk => ?_, ?_, ?_, ?_⟩
  · intro q k s t h hk c
    exact winCmd_next h (if_pos hk)
  · intro q k s t h hk hp d hq hl b
    exact winCmd_next h (upsQueueWrite_ok hk hp hq hl)
  · exact winCmd_next h (if_pos hk)
  · intro q k s t h hk hp m b
    exact winCmd_next h ((if_neg (by omega)).trans (if_neg (Bool.eq_false_iff.mp hp)))
  · intro q k s t h hk r
    exact winCmd_next h (if_pos hk)
  · intro q k s t h hk hp d hq b r
    exact winCmd_next h ((if_neg (by omega)).trans ((if_neg (Bool.eq_false_iff.mp hp)).trans (if_neg (Nat.not_lt.mpr hq))))

/-! ### The buddy -/

/-- A restore's frame of a class that is still to come is kept. -/
theorem restoreDataRx_taken {f : List Byte} {s : State} (ht : s.budTakes f 16 = true) (hf : (budParse f).flag < 2)
    (hs : s.fromSource (budParse f) = true) (hc : (budParse f).cls < 3)
    (hn : bit (s.fld Fd.BUD_STATE_CLASSES) (budParse f).cls = false) :
    let b := budParse f
    restoreDataRx f s = { s with bud := { s.bud with
      rx := s.bud.rx.set b.cls (s.bud.rx.getD b.cls [] ++ [b.body]), rxAt := s.aon } } := by
  intro b
  exact (if_pos ⟨ht, hf, hs⟩).trans (if_neg (fun h => h.elim (Nat.not_le.mpr hc) (Bool.eq_false_iff.mp hn)))

/-- The end of a class whose frames came whole applies it. -/
theorem restoreEndRx_whole {f : List Byte} {s : State} (ht : s.budTakes f 18 = true) (hs : s.fromSource (budParse f) = true)
    (hc : (budParse f).cls < 3) :
    let b := budParse f
    let l := s.bud.rx.getD b.cls []
    l.length = b.sq → crc32c l.flatten = rdLE b.body 0 4 →
    let got := Nat.lor (s.fld Fd.BUD_STATE_CLASSES) (2 ^ b.cls)
    let t := ({ s with bud := { s.bud with rxAt := s.aon } }.setFld Fd.BUD_STATE_CLASSES 0 got).restoreApply b.cls
    restoreEndRx f s = if got = 7 then t.setRstate 2 else t := by
  intro b l hlen hcrc got t
  exact (if_pos ⟨ht, hs, hc⟩).trans (if_neg (fun h => h.elim (fun h => h hlen) (fun h => h hcrc)))

/-- Settles O35: mirrors and restores go on by the buddy's own state. -/
theorem buddyCommands : Obligations.BuddyCommands := by
  unfold Obligations.BuddyCommands
  refine ⟨fun p f s hp ht hf hw hs => ?_, fun p f s hp ht hb hm => ?_, fun p f s hp ht hf hb hm => ?_, fun s hm h3 => ?_, ?_,
    fun p f s hp ht hw hv => ?_, fun s ht hr => ?_, ?_, ?_⟩
  · exact congrArg Host.Outcome.next ((if_pos hp).trans (if_pos ⟨ht, hf, hw, by simp [hs]⟩))
  · exact congrArg Host.Outcome.next ((if_pos hp).trans (if_pos ⟨ht, hb, hm⟩))
  · exact congrArg Host.Outcome.next ((if_pos hp).trans (if_pos ⟨ht, hf, hb, hm⟩))
  · exact congrArg Host.Outcome.next (if_pos ⟨hm, h3⟩)
  · intro q d s ha hd hl t
    exact rowWrite_next ha (if_pos ⟨hd, hl⟩)
  · exact congrArg Host.Outcome.next ((if_pos hp).trans (if_pos ⟨ht, hw, hv⟩))
  · exact congrArg Host.Outcome.next (if_pos ⟨ht, hr⟩)
  · intro p f s hp ht hf hs hc hn b
    exact congrArg Host.Outcome.next ((if_pos hp).trans (restoreDataRx_taken ht hf hs hc hn))
  · intro p f s hp ht hs hc b l hlen hcrc got t
    exact congrArg Host.Outcome.next ((if_pos hp).trans (restoreEndRx_whole ht hs hc hlen hcrc))

end Sys2Proof.Machine
end

section
/-! SUPPORT. Step marks, captures and the trace path (chapters 16 and 17). -/

namespace Sys2Proof.Machine

/-- Two folds whose steps agree on the members of the list are equal. -/
theorem foldl_eq_of_steps {α β : Type} {f g : β → α → β} {l : List α} (b : β) (h : ∀ s, ∀ a ∈ l, f s a = g s a) :
    l.foldl f b = l.foldl g b :=
  List.foldl_rel (r := Eq) rfl fun a ha s _ e => e ▸ h s a ha

/-- A mark of the job that runs joins the mark queue. -/
theorem stepMark_queued {d : Word} {s : State} (hl : s.isTray = false) (hlive : s.live .stm = true)
    (hj : s.fld Fd.LCM_JOB_VALID ≠ 0) (hjob : bits d.toNat 55 32 = s.job.1) (ht : s.timeValid = true)
    (hq : s.stm.mq.length < 16) :
    stepMark d s = { s with stm := { s.stm with mq := s.stm.mq ++ [(commonHeader 0x40 (bits d.toNat 63 62)
      s.nodeId s.job.1 s.job.2 (s.epochOf s.now) s.holdFlag ++ timeBytes s.now ++ leBytes 4 (bits d.toNat 31 0), s.aon)] } } := by
  unfold stepMark
  rw [if_neg (by simp [hl, hlive]), if_neg (fun h => h.elim hj (fun h => h hjob)), if_neg (by simp [ht]),
    if_neg (Nat.not_le.mpr hq)]

/-- The verdict of a step's row that is open. -/
theorem stepVerdict_open {n stp : Nat} {r : StepRow} {s : State}
    (hr : (s.stmRows n).find? (fun r => r.step == stp && !r.done) = some r) (ht : s.isTray = true) (hl : s.live .stm = true) :
    stepVerdict n stp s = (s.reachTime r.v).verdictRow n (s.stmJob n) r false := by
  unfold stepVerdict
  rw [hr]
  exact if_pos ⟨ht, hl⟩

/-- Settles O36: marks are queued, verdicts are given, messages are taken by the unit's own state. -/
theorem stepMarkCommands : Obligations.StepMarkCommands := by
  unfold Obligations.StepMarkCommands
  refine ⟨fun d s hl hlive hj hjob ht hq => ?_, fun q d s ha hl hlive hj hjob ht hq => ?_, fun n stp r s hr ht hl => ?_,
    fun w m s ht => ?_, fun p f s ht hp => ?_, fun m s hl => ?_⟩
  · exact congrArg Host.Outcome.next (stepMark_queued hl hlive hj hjob ht hq)
  · exact rowWrite_next ha (stepMark_queued hl hlive hj hjob ht hq)
  · exact congrArg Host.Outcome.next (stepVerdict_open hr ht hl)
  · exact congrArg Host.Outcome.next (if_pos ht)
  · exact congrArg Host.Outcome.next (if_pos ⟨ht, hp⟩)
  · exact congrArg Host.Outcome.next (if_neg (by simp [hl]))

/-! ### The windows of STM -/

/-- A job staged with a quorum and a time limit. -/
theorem jobWrite_ok {k : Nat} {t : State} (ht : t.isTray = true) (hk : k < 16) (hp : t.stm.pending = false) :
    let d := (t.data .stm 0 0).toNat
    let e := (t.data .stm 0 3).toNat
    bits d 7 0 ≠ 0 → bits d 7 0 ≤ 128 → bits e 15 0 ≠ 0 →
    let j : StmJob := { valid := bit d 63, phase := bits d 61 60, job := bits d 55 32, gen := bits d 31 24, quorum := bits d 7 0
                        expected := BitVec.ofNat 128 ((t.data .stm 0 1).toNat + (t.data .stm 0 2).toNat * 2 ^ 64)
                        lateNs := bits e 63 32, slackUs := bits e 31 16, rowTmo := bits e 15 0 }
    jobWrite k t = { t with stm := { t.stm with jobsSt := t.stm.jobsSt.set k j } }.win 0 := by
  intro d e hq hq' htmo j
  exact (if_neg (by simp [ht])).trans ((if_neg (by omega)).trans ((if_neg (Bool.eq_false_iff.mp hp)).trans
    (if_neg (fun h => h.elim hq (fun h => h.elim (Nat.not_lt.mpr hq') htmo)))))

/-- A notification taken from a leaf that has one. -/
theorem notifyPop_cons {m : Bytes} {r : List Bytes} {t : State} (hl : t.isTray = false) (h : t.stm.nq = m :: r) :
    notifyPop t = { t with stm := { t.stm with nq := r } }.winData (toWords 6 m) := by
  unfold notifyPop
  rw [if_neg (by simp [hl]), h]

/-- A step's row that stands is read. -/
theorem rowTblRead_found {k : Nat} {r : StepRow} {t : State} (ht : t.isTray = true) (hk : k < 128)
    (hr : (t.stmRows (k / 8)).find? (fun r => r.order == k % 8) = some r) :
    let p := maskOf (r.marks.map (·.1))
    rowTblRead k t = t.winData [BitVec.ofNat 64 (b2n (!r.done) * 2 ^ 63 + b2n r.tq.isSome * 2 ^ 62 + r.step),
      BitVec.ofNat 64 p, BitVec.ofNat 64 (p / 2 ^ 64), BitVec.ofNat 64 (wrapI r.aRef 64)] := by
  intro p
  unfold rowTblRead
  rw [if_neg (by simp [ht]), if_neg (Nat.not_le.mpr hk), hr]

/-- A baseline staged with a width and counts. -/
theorem baseWrite_ok {k : Nat} {t : State} (hk : k < t.stmBases) (hp : t.stm.pending = false) :
    let d := (t.data .stm 0 0).toNat
    bits d 44 40 ≠ 0 → bits d 44 40 ≤ 16 → bits d 3 0 ≠ 0 →
    let c : BaseCfg := { valid := bit d 63, freeze := bit d 62, field := bits d 57 48, k := bits d 44 40, warm := bits d 39 32
                         zHi := bits d 31 16, consec := bits d 3 0 }
    baseWrite k t = { t with stm := { t.stm with basesSt := t.stm.basesSt.set k c } }.win 0 := by
  intro d h0 h16 hc c
  exact (if_neg (Nat.not_le.mpr hk)).trans ((if_neg (Bool.eq_false_iff.mp hp)).trans
    (if_neg (fun h => h.elim h0 (fun h => h.elim (Nat.not_lt.mpr h16) hc))))

/-- A baseline that is active is read with its state. -/
theorem baseReadActive_found {k : Nat} {c : BaseCfg} {t : State} (hk : k < t.stmBases) (hc : t.stm.bases.get? k = some c) :
    let b := t.stm.state.getD k ⟨0, 0, 0, 0⟩
    let m := wrapI b.m 80
    let d := wrapI b.d 80
    baseReadActive k t = t.winData [c.word, BitVec.ofNat 64 m, BitVec.ofNat 64 (m / 2 ^ 64), BitVec.ofNat 64 d,
      BitVec.ofNat 64 (d / 2 ^ 64), BitVec.ofNat 64 (b.n * 256 + b.run)] := by
  intro b m d
  unfold baseReadActive
  rw [if_neg (Nat.not_le.mpr hk), hc]

/-- Settles O37: jobs, notifications, rows and baselines are staged and read. -/
theorem stepMarkWindows : Obligations.StepMarkWindows := by
  unfold Obligations.StepMarkWindows
  refine ⟨fun q k s t h ht hk => ?_, fun q k s t h ht hk => ?_, ?_, fun q m r s t h hl hm => ?_, ?_, fun q k s t h hk => ?_, ?_, ?_⟩
  · exact winCmd_next h ((if_neg (by simp [ht])).trans (if_pos hk))
  · exact winCmd_next h ((if_neg (by simp [ht])).trans (if_pos hk))
  · intro q k s t h ht hk hp d e hq hq' htmo j
    exact winCmd_next h (jobWrite_ok ht hk hp hq hq' htmo)
  · exact winCmd_next h (notifyPop_cons hl hm)
  · intro q k r s t h ht hk hr p
    exact winCmd_next h (rowTblRead_found ht hk hr)
  · exact winCmd_next h (if_pos hk)
  · intro q k s t h hk hp d h0 h16 hc c
    exact winCmd_next h (baseWrite_ok hk hp h0 h16 hc)
  · intro q k c s t h hk hc b m d
    exact winCmd_next h (baseReadActive_found hk hc)

/-! ### Captures -/

/-- `CAP_CTRL` does its operation on each ring that it names; one that the ring's state does not take is an error. -/
theorem capCtrlWrite_op {op : Nat} (hop : op < 16) (rings : BitVec 16) (s : State) :
    capCtrlWrite (BitVec.ofNat 64 (op * 2 ^ 60 + rings.toNat)) s =
      (List.range 16).foldl (fun (s : State) r => if rings.getLsbD r then
        (s.capOp op r).getD (s.pgErr .cap 0 .unit 0x58 1) else s) s := by
  have hrings := rings.isLt
  have hcode : bits (BitVec.ofNat 64 (op * 2 ^ 60 + rings.toNat)).toNat 63 60 = op := by
    simp only [bits, BitVec.toNat_ofNat]
    omega
  have hbit (r : Nat) (hr : r ∈ List.range 16) :
      (BitVec.ofNat 64 (op * 2 ^ 60 + rings.toNat)).getLsbD r = rings.getLsbD r := by
    have hr16 : r < 16 := List.mem_range.mp hr
    rw [BitVec.getLsbD_ofNat, Nat.mul_comm, Nat.testBit_two_pow_mul_add _ (by omega), if_pos (by omega),
      decide_eq_true (show r < 64 by omega), Bool.true_and, BitVec.testBit_toNat]
  unfold capCtrlWrite
  rw [hcode]
  refine foldl_eq_of_steps _ fun s r hr => ?_
  rw [hbit r hr]
  cases s.capOp op r with
  | some t => rfl
  | none => rfl

/-- The four operations of `CAP_CTRL`. -/
theorem capCtrl_admits {q : Req} {op : Nat} {rings : BitVec 16} {s : State} (hop : op < 16)
    (ha : s.admitsWrite q .cap 0 0x58 (BitVec.ofNat 64 (op * 2 ^ 60 + rings.toNat))) :
    (.next (capCtrl q op rings s) : Host.Outcome State Fault Refusal) = .next
      (((List.range 16).foldl (fun (s : State) r => if rings.getLsbD r then
        (s.capOp op r).getD (s.pgErr .cap 0 .unit 0x58 1) else s) s).answer .okay 0) :=
  rowWrite_next ha (capCtrlWrite_op hop rings s)

/-- An upload that has sent all its bytes ends. -/
theorem capUploadSend_end {r : Nat} {g : Ring} {u : Upload} {s : State} (hg : s.ring? r = some g) (hu : g.up = some u)
    (h4 : g.st = 4) (hm : s.mayUpload r = true) (hr : s.isTray = true → s.routeHeld 3 = false) (hend : u.total ≤ u.offset) :
    capUploadSend r s = ((s.capSend (s.capEnd r 0 g u)).uploadClose r 0 g).endXfer 9 r := by
  have hready : ¬(g.st ≠ 4 ∨ (!s.mayUpload r) = true ∨ s.isTray = true ∧ s.routeHeld 3 = true) := by
    rintro (h | h | ⟨ht, h⟩)
    · exact h h4
    · exact absurd h (by simp [hm])
    · exact absurd h (by simp [hr ht])
  unfold capUploadSend
  rw [hg]
  dsimp only
  rw [hu]
  exact (if_neg hready).trans (if_pos hend)

/-- An upload's next bytes are sent. -/
theorem capUploadSend_bytes {r : Nat} {g : Ring} {u : Upload} {b : Bytes} {s t : State} (hg : s.ring? r = some g)
    (hu : g.up = some u) (h4 : g.st = 4) (hm : s.mayUpload r = true) (hr : s.isTray = true → s.routeHeld 3 = false)
    (hmore : u.offset < u.total) :
    let n := min s.capChunk (u.total - u.offset)
    (if s.isTray then (some (s.captureBytes g u.offset n), s.bytes 2 n) else s.ringFetch r g u.offset n) = (some b, t) →
    capUploadSend r s = (t.capSend (t.capHead r 0x50 g u ++ leBytes 2 0 ++ leBytes 8 u.offset ++ b)).setRing
      r { g with up := some { u with offset := u.offset + n, crc := BitVec.ofNat 32 (crc32cFrom u.crc.toNat b) } } := by
  intro n hb
  have hready : ¬(g.st ≠ 4 ∨ (!s.mayUpload r) = true ∨ s.isTray = true ∧ s.routeHeld 3 = true) := by
    rintro (h | h | ⟨ht, h⟩)
    · exact h h4
    · exact absurd h (by simp [hm])
    · exact absurd h (by simp [hr ht])
  unfold capUploadSend
  rw [hg]
  dsimp only
  rw [hu]
  dsimp only
  rw [if_neg hready, if_neg (Nat.not_le.mpr hmore), show ite _ _ _ = _ from hb]

/-- A ring that is idle is written with a good entry. -/
theorem capRingWrite_ok {k : Nat} {t : State} (hk : k < t.rings)
    (hi : (t.cap.rings.get? k).any (fun (g : Ring) => g.st != 0) = false) (hok : t.ringOk k (t.ringEntryOf k) = true) :
    capRingWrite k t = (t.setRing k (t.ringEntryOf k)).win 0 k :=
  (if_neg (Nat.not_le.mpr hk)).trans ((if_neg (Bool.eq_false_iff.mp hi)).trans (if_neg (by simp [hok])))

/-- A line of a tray's ring is read. -/
theorem capLineRead_found {r k : Nat} {g : Ring} {t : State} (ht : t.isTray = true) (hr : r < 16) (hg : t.ring? r = some g)
    (hk : 256 * k < 2 ^ g.log2) :
    capLineRead r k t = (t.bytes 2 256).winData (toWords 32 (Mem.read t.hbm (g.base + 256 * k) 256)) k := by
  unfold capLineRead
  rw [if_neg (by simp [ht]; omega), hg]
  exact if_pos hk

/-- Settles O38: operations, triggers, uploads and windows act by the ring's own state. -/
theorem captureCommands : Obligations.CaptureCommands := by
  unfold Obligations.CaptureCommands
  refine ⟨fun q rings s ha => ?_, fun q rings s ha => ?_, fun q rings s ha => ?_, fun q rings s ha => ?_, fun q d s ha => ?_,
    fun r g u s hg hu h4 hm hr hend => ?_, ?_, fun q k s t h hk => ?_, fun q k s t h hk hi hok => ?_,
    fun q r k g s t h ht hr hg hk => ?_⟩
  · exact capCtrl_admits (by decide) ha
  · exact capCtrl_admits (by decide) ha
  · exact capCtrl_admits (by decide) ha
  · exact capCtrl_admits (by decide) ha
  · exact rowWrite_next ha rfl
  · exact congrArg Host.Outcome.next (capUploadSend_end hg hu h4 hm hr hend)
  · intro r g u b s t hg hu h4 hm hr hmore n htray hleaf
    refine congrArg Host.Outcome.next (capUploadSend_bytes hg hu h4 hm hr hmore ?_)
    cases hs : s.isTray with
    | true =>
      obtain ⟨hb, ht⟩ := Prod.mk.inj (htray hs)
      rw [hb, ht]
      rfl
    | false => exact (if_neg Bool.false_ne_true).trans (hleaf hs)
  · exact winCmd_next h (if_neg (Nat.not_le.mpr hk))
  · exact winCmd_next h (capRingWrite_ok hk hi hok)
  · exact winCmd_next h (capLineRead_found ht hr hg hk)

/-! ### The trace path -/

/-- A beat of a source that is enabled and awake, while nothing is dropped. -/
theorem traceBeat_taken {src kind size addr data : Nat} {s : State} (hfit : s.chip.fitted .htp 0 = true)
    (hl : s.live .htp = true) (hr : s.traceReady = true) (hsrc : src < 64) (hen : (s.reg Rg.HTP_SRC_EN).getLsbD src = true)
    (hk : kind ≤ 2) (h2 : (s.trSrc src).st ≠ 2) (hd : s.htp.dropping = false) :
    traceBeat src kind size addr data s = (s.setTrSrc src { s.trSrc src with
      st := 1, lastBeat := s.aon, owed := (s.trSrc src).owed }).accessBeat src kind (size % 4) addr data false := by
  have hasleep : ((s.trSrc src).st == 2) = false := beq_false_of_ne h2
  have hdrop : (s.htp.dropping && s.htpEmits) = false := by rw [hd, Bool.false_and]
  unfold traceBeat
  rw [if_neg (by simp [hfit, hl, hr]; omega), if_neg (fun h => h.elim (by simp [hen]) (fun h => h (.inl hk)))]
  dsimp only
  rw [hasleep, hdrop]
  simp only [show kind ≠ 14 by omega, show kind ≠ 15 by omega, show kind ≠ 12 by omega, Bool.false_eq_true, false_and, or_self,
    if_false]

/-- `HTP_CTRL` with START alone. -/
theorem htpCtrlWrite_start {d : Word} {s : State} (hl : s.live .htp = true) (h0 : d.getLsbD 0 = true) (h1 : d.getLsbD 1 = false)
    (h2 : d.getLsbD 2 = false) : htpCtrlWrite d s = s.htpStart := by
  unfold htpCtrlWrite
  dsimp only
  rw [if_neg (show ¬(!s.live .htp) = true by simp [hl]), if_pos h0, if_neg (Bool.eq_false_iff.mp h1)]
  exact if_neg (fun h => Bool.eq_false_iff.mp h2 h.1)

/-- `HTP_CTRL` with STOP alone. -/
theorem htpCtrlWrite_stop {d : Word} {s : State} (hl : s.live .htp = true) (h0 : d.getLsbD 0 = false) (h1 : d.getLsbD 1 = true)
    (h2 : d.getLsbD 2 = false) : htpCtrlWrite d s = s.htpStop := by
  unfold htpCtrlWrite
  dsimp only
  rw [if_neg (show ¬(!s.live .htp) = true by simp [hl]), if_neg (Bool.eq_false_iff.mp h0), if_pos h1]
  exact if_neg (fun h => Bool.eq_false_iff.mp h2 h.1)

/-- `HTP_CTRL` with REARM alone, after a stop. -/
theorem htpCtrlWrite_rearm {d : Word} {s : State} (hl : s.live .htp = true) (h0 : d.getLsbD 0 = false)
    (h1 : d.getLsbD 1 = false) (h2 : d.getLsbD 2 = true) (he : s.htp.est = 3) :
    htpCtrlWrite d s = { s with htp := { s.htp with est := 0 } } := by
  unfold htpCtrlWrite
  dsimp only
  rw [if_neg (show ¬(!s.live .htp) = true by simp [hl]), if_neg (Bool.eq_false_iff.mp h0), if_neg (Bool.eq_false_iff.mp h1)]
  exact if_pos ⟨h2, he⟩

/-- A stall that lasts too long turns to dropping. -/
theorem htpStallTimeout_stalled {n : Nat} {s : State} (hn : s.htp.stallAt = some n) (hl : s.live .htp = true)
    (hd : s.htp.dropping = false) :
    let t := s.reach (n + s.fld Fd.HTP_CFG_STALL_MAX_US * cyUs)
    htpStallTimeout s = ({ t with htp := { t.htp with dropping := true, dropped := 0, stallHit := true,
                                                      stallAt := none } }.bump Fd.HTP_CNT_STALL_LIMITS).fault .htp 0 2 := by
  intro t
  unfold htpStallTimeout
  rw [hn]
  exact if_pos ⟨hl, by simp [hd]⟩

/-- A filter that stands is read. -/
theorem htpFilterRead_found {k : Nat} {f : Filter} {t : State} (hk : k < 8) (hf : t.htp.filters.get? k = some f) :
    htpFilterRead k t = t.winData
      [BitVec.ofNat 64 f.lo, BitVec.ofNat 64 f.hi, BitVec.ofNat 64 (f.kinds.toNat * 256 + f.mode), f.srcs] k := by
  unfold htpFilterRead
  rw [if_neg (Nat.not_le.mpr hk), hf]

/-- A filter is written with a mode and a range. -/
theorem htpFilterWrite_ok {k : Nat} {t : State} (hk : k < 8) :
    let f : Filter := { lo := (t.data .htp 0 0).toNat, hi := (t.data .htp 0 1).toNat, mode := bits (t.data .htp 0 2).toNat 2 0
                        kinds := BitVec.ofNat 8 (bits (t.data .htp 0 2).toNat 15 8), srcs := t.data .htp 0 3 }
    f.mode ≤ 5 → f.lo ≤ f.hi →
    htpFilterWrite k t = { t with htp := { t.htp with filters := t.htp.filters.set k f } }.win 0 k := by
  intro f hm hlo
  exact (if_neg (Nat.not_le.mpr hk)).trans (if_neg (fun h => h.elim (Nat.not_lt.mpr hm) (Nat.not_lt.mpr hlo)))

/-- Settles O39: beats, timeouts, the drain and control act by the trace path's own state. -/
theorem traceCommands : Obligations.TraceCommands := by
  unfold Obligations.TraceCommands
  refine ⟨?_, fun src kind size addr data s hfit hl hr hsrc hen hk h2 hd => ?_, fun s hl hb => ?_, ?_, fun cons s hl hp => ?_, ?_,
    fun q s ha hl => ?_, fun q s ha hl => ?_, fun q s ha hl he => ?_, fun q k f s t h hk hf => ?_, ?_⟩
  · intro k s hl h1 t
    exact congrArg Host.Outcome.next (if_pos ⟨hl, h1⟩)
  · exact congrArg Host.Outcome.next (traceBeat_taken hfit hl hr hsrc hen hk h2 hd)
  · exact congrArg Host.Outcome.next (if_pos ⟨hl, hb⟩)
  · intro s hl hp hb hroom hx va
    exact congrArg Host.Outcome.next (if_pos ⟨hl, hp, hb, hroom, by simp [hx]⟩)
  · exact congrArg Host.Outcome.next (if_pos ⟨hl, hp⟩)
  · intro n s hn hl hd t
    exact congrArg Host.Outcome.next (htpStallTimeout_stalled hn hl hd)
  · exact rowWrite_next ha (htpCtrlWrite_start hl (by decide) (by decide) (by decide))
  · exact rowWrite_next ha (htpCtrlWrite_stop hl (by decide) (by decide) (by decide))
  · exact rowWrite_next ha (htpCtrlWrite_rearm hl (by decide) (by decide) (by decide) he)
  · exact winCmd_next h (htpFilterRead_found hk hf)
  · intro q k s t h hk f hm hlo
    exact winCmd_next h (htpFilterWrite_ok hk hm hlo)

end Sys2Proof.Machine
end

section
/-! SUPPORT. Screening and the health record (chapter 18). -/

namespace Sys2Proof.Machine

/-- A pass comes due. -/
theorem scrPassTimer_due {due : Nat} {s : State} (hd : s.scr.nextDue = some due) (hrun : s.fld Fd.SCR_CFG_RUN_EN ≠ 0) :
    let t := s.reach (s.nvh.minuteAt + (due - s.nvh.st.opMinutes) * cyMin)
    scrPassTimer s =
      { t with scr := { t.scr with nextDue := some (t.nvh.st.opMinutes + t.fld Fd.SCR_CFG_CADENCE_MIN) } }.passFalls := by
  intro t
  unfold scrPassTimer
  rw [hd]
  exact if_neg hrun

/-- A bundle that passes its checks is taken. -/
theorem scrBundleDone_ok {m : List Byte} {x : Nat × Nat} {s : State} (hx : s.scr.load = some x) (hm : s.carried 6 1 = some m) :
    let t := { s with scr := { s.scr with load := none } }.endXfer 6 1
    t.bundleBad m = false → t.authCheck m (rdLE m 8 4) = 0 →
    scrBundleDone s = { t with scr := { t.scr with
      newBundle := some (rdLE m 12 4, rdLE m 16 4, bundlePats m, m.take (rdLE m 8 4)) } }.takeBundle.winEnd .scr 0 0 := by
  intro t hbad hauth
  unfold scrBundleDone
  rw [hx, hm]
  dsimp only
  rw [if_neg (Bool.eq_false_iff.mp hbad)]
  exact if_neg (fun h => h hauth)

/-- The next pattern of the pass starts on a unit that is in service and idle. -/
theorem scrPatternStart_queued {k inst : Nat} {l : List (Nat × Nat)} {p : ScrPat} {s : State} (hr : s.scr.run = none)
    (hl : s.live .scr = true) (he : s.scr.early = []) (ht : s.scr.retry = []) (hq : s.scr.queue = (k, inst) :: l)
    (hp : s.scr.pats[k]? = some p)
    (hd : ¬(patUnit p.kind inst < 64 ∧ (s.reg Rg.SCR_DEGRADED).getLsbD (patUnit p.kind inst) = true))
    (hi : s.patIdle p inst false = true) (h5 : p.kind ≠ 5) :
    scrPatternStart s = { s with scr := { s.scr with queue := l } }.patLaunch
      { newPat k inst 0 with unit := patUnit p.kind inst } := by
  have hpat : s.scr.pats[(newPat k inst 0).pat]? = some p := hp
  have hidle : s.patIdle p (newPat k inst 0).inst false = true := hi
  unfold scrPatternStart
  rw [if_neg (by simp [hr, hl])]
  simp only [he, ht, hq]
  rw [hpat]
  dsimp only
  rw [hidle]
  exact (if_neg hd).trans ((if_neg (by decide)).trans (if_neg h5))

/-- A scrub's end, of a pattern that scrubs. -/
theorem scrPatternEnd_scrub {worst : Nat} {r : ScrRun} {p : ScrPat} {s : State} (hr : s.scr.run = some r)
    (hp : s.scr.pats[r.pat]? = some p) (hk : p.kind = 3) :
    scrPatternEnd (.scrub worst) s = s.patResult r (decide (worst ≤ p.golden.toNat)) 0 := by
  unfold scrPatternEnd
  rw [hr]
  dsimp only
  rw [hp]
  exact if_pos hk

/-- An end with its output, of a pattern whose signature is of its output alone. -/
theorem scrPatternEnd_out {b : List Byte} {r : ScrRun} {p : ScrPat} {s : State} (hr : s.scr.run = some r)
    (hp : s.scr.pats[r.pat]? = some p) (hk : p.kind = 4) :
    scrPatternEnd (.out b) s = s.patResult r (patSignature p b [] == p.golden) (patSignature p b []) := by
  unfold scrPatternEnd
  rw [hr]
  dsimp only
  rw [hp]
  exact if_pos hk

/-- The host takes a pattern that waits for it. -/
theorem scrHostPop_cons {k : Nat} {h : BitVec 32} {r : List (Nat × BitVec 32)} {t : State} (hq : t.scr.hostQ = (k, h) :: r) :
    scrHostPop t = { t with scr := { t.scr with hostQ := r } }.winData [BitVec.ofNat 64 (h.toNat * 2 ^ 16 + k % 2 ^ 16)] := by
  unfold scrHostPop
  rw [hq]

/-- A host's result that passes. -/
theorem scrHostResult_pass {r : ScrRun} {p : ScrPat} {t : State} :
    let k := bits (t.data .scr 0 0).toNat 15 0
    let sig := BitVec.ofNat 32 (t.data .scr 0 1).toNat
    t.scr.hostOut.find? (fun r => r.pat == k) = some r → t.scr.pats[k]? = some p →
    r.judge (sig == p.golden) sig ((t.hostTake k).fld Fd.SCR_CFG_RETRY_N) = .pass →
    scrHostResult t = (t.hostTake k).passCheck.win 0 := by
  intro k sig hr hp hj
  unfold scrHostResult
  dsimp only
  rw [show List.find? _ t.scr.hostOut = some r from hr, show t.scr.pats[bits (t.data .scr 0 0).toNat 15 0]? = some p from hp]
  dsimp only
  rw [show ScrRun.judge r _ _ _ = _ from hj]

/-- A host's pattern that runs out of time. -/
theorem scrHostTimeout_found {k : Nat} {r : ScrRun} {s : State} (hr : s.scr.hostOut.find? (fun r => r.pat == k) = some r) :
    scrHostTimeout k s = (((s.reach (r.start + s.fld Fd.SCR_CFG_HOST_TMO_S * 100000000)).hostTake k).scrLast 4
      r.unit k 0).passCheck := by
  unfold scrHostTimeout
  rw [hr]

/-- `SCR_CTRL` = PASS_NOW. -/
theorem scrCtrlWrite_passNow {d : Word} {s : State} (h0 : d.getLsbD 0 = false) (h1 : d.getLsbD 1 = true) :
    scrCtrlWrite d s = s.passFalls := by
  unfold scrCtrlWrite
  rw [if_pos h1, if_neg (show ¬(d.getLsbD 0 = true ∧ s.scr.passOn = true) from fun h => Bool.eq_false_iff.mp h0 h.1)]

/-- `SCR_CTRL` = ABORT of a pass that runs no pattern. -/
theorem scrCtrlWrite_abort {d : Word} {s : State} (h0 : d.getLsbD 0 = true) (h1 : d.getLsbD 1 = false) (ho : s.scr.passOn = true)
    (hr : s.scr.run = none) : scrCtrlWrite d s =
      ({ s with scr := { s.scr with queue := [], retry := [], hostQ := [], hostOut := [] } }.takeBundle).passCheck := by
  unfold scrCtrlWrite
  rw [if_neg (Bool.eq_false_iff.mp h1), if_pos (show d.getLsbD 0 = true ∧ s.scr.passOn = true from ⟨h0, ho⟩), hr]

/-- `SCR_RESTORE` gives a unit back to service, unless its history still degrades it. -/
theorem scrRestoreWrite_set {d : Word} {s : State} (h : d.getLsbD 63 = true) :
    let u := bits d.toNat 5 0
    let keep := s.degradedNow.getLsbD u
    let st := { s.nvh.st with
      degraded := if keep then s.nvh.st.degraded else s.nvh.st.degraded &&& ~~~(BitVec.ofNat 64 (2 ^ u))
      windows := s.nvh.st.windows.erase u }
    let t : State := { s with nvh := { s.nvh with st } }.nvLog 8 u 0 0
    let t : State := if keep then t.nvLog 7 u 0 0 else t
    scrRestoreWrite d s = if t.nvOwner = true ∧ t.nvh.norOk = true then t.journal else t.regain 0 :=
  if_neg (fun hn => by rw [h] at hn; exact Bool.false_ne_true hn)

/-- Settles O40: passes, bundles, patterns and restorations act by the screening's own state. -/
theorem screeningCommands : Obligations.ScreeningCommands := by
  unfold Obligations.ScreeningCommands
  refine ⟨?_, ?_, ?_, fun k inst l p s hr hl he ht hq hp hd hi h5 => ?_, fun worst r p s hr hp hk => ?_,
    fun b r p s hr hp hk => ?_, fun q k h r s t hrun hq => ?_, ?_, fun k r s hr => ?_, fun q d s ha h0 h1 => ?_,
    fun q d s ha h0 h1 ho hr => ?_, ?_⟩
  · intro due s hd hrun t
    exact congrArg Host.Outcome.next (scrPassTimer_due hd hrun)
  · intro q s t h hn va ctx u
    exact winCmd_next h (if_neg (by simp [hn]))
  · intro m x s hx hm t hbad hauth
    exact congrArg Host.Outcome.next (scrBundleDone_ok hx hm hbad hauth)
  · exact congrArg Host.Outcome.next (scrPatternStart_queued hr hl he ht hq hp hd hi h5)
  · exact congrArg (fun t : State => Host.Outcome.next t.settle) (scrPatternEnd_scrub hr hp hk)
  · exact congrArg (fun t : State => Host.Outcome.next t.settle) (scrPatternEnd_out hr hp hk)
  · exact winCmd_next hrun (scrHostPop_cons hq)
  · intro q r p s t h k sig hr hp hj
    exact winCmd_next h (scrHostResult_pass hr hp hj)
  · exact congrArg Host.Outcome.next (scrHostTimeout_found hr)
  · exact rowWrite_next ha (scrCtrlWrite_passNow h0 h1)
  · exact rowWrite_next ha (scrCtrlWrite_abort h0 h1 ho hr)
  · intro q d s ha h u keep st t t'
    exact rowWrite_next ha (scrRestoreWrite_set h)

/-! ### The health record -/

/-- A commit's first phase clears the journal's copy and programs it. -/
theorem nvPhaseDone_erased {st : NvState} {s : State} (hc : s.nvh.commit = some st) (hj : s.nvh.jstep = 0) :
    let p := s.part s.nvh.commitDie
    let t := s.setPart s.nvh.commitDie (p.setJour p.nextJour none none)
    nvPhaseDone s = { t with nvh := { t.nvh with jstep := 1 } }.emit (.nor "program" s.nvh.commitDie) := by
  intro p t
  unfold nvPhaseDone
  rw [hc]
  dsimp only
  rw [hj]
  exact if_pos rfl

/-- A commit's fifth phase, of another die: the journal's copy is marked, and the state's copy is erased. -/
theorem nvPhaseDone_marked {st : NvState} {s : State} (hc : s.nvh.commit = some st) (hj : s.nvh.jstep = 4)
    (hd : s.nvh.commitDie ≠ s.ownDie) :
    let p := s.part s.nvh.commitDie
    let t := s.setPart s.nvh.commitDie (p.setJour p.nextJour (some st) (some st.gen))
    t.ownDie = s.ownDie →
    let t := ((t.bump Fd.NVH_CNT_COMMITS).pendBit 13 2).bytes 7 8
    nvPhaseDone s = { t with nvh := { t.nvh with jstep := 5 } }.emit (.nor "erase" s.nvh.commitDie) := by
  intro p t ht t'
  unfold nvPhaseDone
  rw [hc]
  dsimp only
  rw [hj, if_neg (show ¬4 = 0 by decide), if_neg (show ¬4 = 1 by decide), if_neg (show ¬4 = 2 by decide),
    if_neg (show ¬4 = 3 by decide), if_pos rfl, if_neg (fun h => hd (h.trans ht))]

/-- A change of the health record alone leaves which die is the own one. -/
theorem State.ownDie_withNvh (s : State) (nvh : Nvh) : State.ownDie { s with nvh } = s.ownDie := rfl

/-- A commit's last phase, of the die itself. -/
theorem nvPhaseDone_last {st : NvState} {s : State} (hc : s.nvh.commit = some st) (hj : s.nvh.jstep = 7)
    (hd : s.nvh.commitDie = s.ownDie) (hf : s.nvh.followOn = []) :
    nvPhaseDone s = { s with nvh := { s.nvh with commit := none, jstep := 0, st := { s.nvh.st with gen := st.gen } } } := by
  unfold nvPhaseDone
  rw [hc]
  dsimp only
  rw [hj, if_neg (show ¬7 = 0 by decide), if_neg (show ¬7 = 1 by decide), if_neg (show ¬7 = 2 by decide),
    if_neg (show ¬7 = 3 by decide), if_neg (show ¬7 = 4 by decide), if_neg (show ¬7 = 5 by decide),
    if_neg (show ¬7 = 6 by decide), s.ownDie_withNvh, if_pos hd]
  dsimp only
  rw [hf]

/-- A record written to the log. -/
theorem nvhLogWriteDone_cons {die : Nat} {r : NvRec} {rest : List (Nat × NvRec)} {s : State} (ok : Bool)
    (hq : s.nvh.logQ = (die, r) :: rest) :
    let t := s.bytes 7 32
    nvhLogWriteDone ok s = if ok then
        ({ t with nvh := { t.nvh with logQ := rest } }.logPut die (some r)).bump Fd.NVH_CNT_RECORDS
      else ((t.logPut die none).bump Fd.NVH_CNT_NOR_ERR).fault .nvh 0 0 := by
  intro t
  unfold nvhLogWriteDone
  rw [hq]

/-- A record that stands is read by the owner. -/
theorem nvhLogRead_found {die k : Nat} {r : NvRec} {t : State} (ho : t.nvOwner = true) (hd : t.dieOk die = true)
    (hk : k < t.logSectors * 128) (hr : (t.part die).log[k]? = some (some r)) :
    nvhLogRead die k t = (t.bytes 6 32).winData (toWords 4 r.bytes) := by
  unfold nvhLogRead
  rw [if_neg (by simp [ho]), if_neg (by simp [hd]; omega), hr]

/-- A record to forward is taken. -/
theorem nvhFwdPop_cons {r : NvRec} {rs : List NvRec} {t : State} (h : t.nvh.fwdQ = r :: rs) :
    nvhFwdPop t = { t with nvh := { t.nvh with fwdQ := rs } }.winData (toWords 4 r.bytes) := by
  unfold nvhFwdPop
  rw [h]

/-- A record forwarded by another die is logged and applied to that die's state. -/
theorem nvhFwdWrite_ok {r : NvRec} {t : State} (ho : t.nvOwner = true) (hr : NvRec.ofBytes? (t.dataBytes .nvh 0 32) = some r)
    (hl : t.isTray = false) (hown : r.die ≠ t.ownDie) (hd : t.dieOk r.die = true) (hseq : t.nvh.lastSeq.getD r.die 0 ≤ r.seq) :
    let u := { t with nvh := { t.nvh with
      lastSeq := t.nvh.lastSeq.set r.die (r.seq + 1)
      logQ := t.nvh.logQ ++ [(r.die, r)]
      dieStates := t.nvh.dieStates.set r.die ((t.dieState r.die).apply r (t.fld Fd.SCR_CFG_TRANS_WIN_H)) } }
    nvhFwdWrite t = (if r.kind = 1 ∨ r.kind = 2 ∨ r.kind = 4 ∨ r.kind = 5 ∨ r.kind = 7 ∨ r.kind = 8 ∨ r.kind = 9 ∨ r.kind = 10
      then u.journalDie r.die else u).win 0 := by
  intro u
  unfold nvhFwdWrite
  rw [if_neg (by simp [ho]), hr]
  dsimp only
  rw [if_neg (by simp [hl, hown, hd]), if_neg (Nat.not_lt.mpr hseq)]
  exact congrArg (fun x : State => x.win 0) (ite_congr (by simp) (fun _ => rfl) fun _ => rfl)

/-- A die's state that is valid is read by the owner. -/
theorem nvhStateRead_found {k : Nat} {st : NvState} {t : State} (ho : t.nvOwner = true) (hd : t.dieOk (k / 4) = true)
    (hv : (t.part (k / 4)).valid = some st) :
    nvhStateRead k t = (t.bytes 6 256).winData (toWords 32 ((st.bytes.drop (256 * (k % 4))).take 256)) := by
  unfold nvhStateRead
  rw [if_neg (by simp [ho]), if_neg (by simp [hd]), hv]

/-- A part of the state's copy is staged while parts are missing. -/
theorem nvhStateWrite_staged {k : Nat} {t : State} (ho : t.nvOwner = false) (hw : t.nvh.written = false)
    (hd : k / 4 = t.chip.pkgDieIdx) :
    let u := { t with nvh := { t.nvh with stage := t.nvh.stage.set (k % 4) (t.dataBytes .nvh 0 256) } }
    u.nvh.stage.length < 4 → nvhStateWrite k t = u.win 0 := by
  intro u hlen
  exact (if_neg (by simp [ho, hw])).trans ((if_neg (fun h => h hd)).trans (if_pos hlen))

/-- Settles O41: commits, records and copies go on by the health record's own state. -/
theorem healthRecordCommands : Obligations.HealthRecordCommands := by
  unfold Obligations.HealthRecordCommands
  refine ⟨?_, ?_, fun st s hc hj hd hf => ?_, ?_, ?_, fun die r rest s hq => ?_, fun q die k r s t h ho hd hk hr => ?_,
    fun q r rs s t h hr => ?_, ?_, fun q k st s t h ho hd hv => ?_, ?_⟩
  · intro st s hc hj p t
    exact congrArg Host.Outcome.next (nvPhaseDone_erased hc hj)
  · intro st s hc hj hd p t ht t'
    exact congrArg Host.Outcome.next (nvPhaseDone_marked hc hj hd ht)
  · exact congrArg Host.Outcome.next (nvPhaseDone_last hc hj hd hf)
  · intro s due t
    rfl
  · intro die r rest s hq t
    exact congrArg Host.Outcome.next ((nvhLogWriteDone_cons true hq).trans (if_pos rfl))
  · exact congrArg Host.Outcome.next ((nvhLogWriteDone_cons false hq).trans (if_neg Bool.false_ne_true))
  · exact winCmd_next h (nvhLogRead_found ho hd hk hr)
  · exact winCmd_next h (nvhFwdPop_cons hr)
  · intro q r s t h ho hr hl hown hd hseq u
    exact winCmd_next h (nvhFwdWrite_ok ho hr hl hown hd hseq)
  · exact winCmd_next h (nvhStateRead_found ho hd hv)
  · intro q k s t h ho hw hd u hlen
    exact winCmd_next h (nvhStateWrite_staged ho hw hd hlen)

end Sys2Proof.Machine
end

section
/-! SUPPORT. Faults, event records and interrupts (chapter 19). -/

namespace Sys2Proof.Machine

/-- The SET offset of `FLT_ACK` acknowledges the sources of its bits. -/
theorem fltAck_set (k : Nat) (d : Word) (s : State) : fltAck k d 0 s =
    (List.range 64).foldl (fun (s : State) b => if d.getLsbD b then s.ackSource (64 * k + b) true else s) s := by
  unfold fltAck
  refine foldl_eq_of_steps _ fun s b _ => ?_
  rw [show (0 : Word).getLsbD b = false from BitVec.getLsbD_zero, if_neg Bool.false_ne_true]

/-- The CLR offset takes the acknowledgements back. -/
theorem fltAck_clr (k : Nat) (d : Word) (s : State) : fltAck k 0 d s =
    (List.range 64).foldl (fun (s : State) b => if d.getLsbD b then s.ackSource (64 * k + b) false else s) s := by
  unfold fltAck
  refine foldl_eq_of_steps _ fun s b _ => ?_
  rw [show (0 : Word).getLsbD b = false from BitVec.getLsbD_zero, if_neg Bool.false_ne_true]

/-- A plain write acknowledges each source by its bit. -/
theorem fltAck_write (k : Nat) (d : Word) (s : State) : fltAck k d (~~~d) s =
    (List.range 64).foldl (fun (s : State) b => s.ackSource (64 * k + b) (d.getLsbD b)) s := by
  unfold fltAck
  refine foldl_eq_of_steps _ fun s b hb => ?_
  have hb64 : b < 64 := List.mem_range.mp hb
  rw [BitVec.getLsbD_not, decide_eq_true hb64, Bool.true_and]
  cases d.getLsbD b with
  | true => rfl
  | false => rfl

/-- A source's severities written. -/
theorem fltSrcWrite_ok {k : Nat} {t : State} (hk : k < srcCount t.chip.role) (hs : (srcOf t.chip.role k).isSome = true) :
    let d := (t.data .flt 0 0).toNat
    bits d 58 56 ≤ 5 → bits d 50 48 ≤ 5 →
    fltSrcWrite k t = (t.setSrc k { t.src k with sev := bits d 58 56, escCap := bits d 50 48 }).win 0 := by
  intro d hsev hcap
  have hok : ¬((srcOf t.chip.role k).isNone = true ∨ 6 ≤ bits d 58 56 ∨ 6 ≤ bits d 50 48) := by
    rintro (h | h | h)
    · rw [Option.isNone_iff_eq_none] at h
      rw [h] at hs
      exact Bool.false_ne_true hs
    · omega
    · omega
  exact (if_neg (Nat.not_le.mpr hk)).trans (if_neg hok)

/-- The directory's entry of a source. -/
theorem fltDirRead_found {k l c : Nat} {u : UnitKind} {t : State} (hk : k < srcCount t.chip.role)
    (hs : srcOf t.chip.role k = some (u, c, l)) :
    let x := ((sources u)[l]?).getD ("", 0)
    fltDirRead k t = t.winData
      (BitVec.ofNat 64 (unitCode u * 2 ^ 48 + c * 2 ^ 40 + l * 2 ^ 32 + x.2) :: toWords 2 (nameBytes x.1)) := by
  intro x
  unfold fltDirRead
  rw [if_pos hk, hs]

/-- A record that stands is read. -/
theorem evrRead_found {n : Nat} {r : EvrRec} {t : State} (hr : (t.evr.recs.find? fun r => r.seq = n) = some r) :
    evrRead n t = t.winData (toWords 8 r.bytes) := by
  unfold evrRead
  rw [hr]

/-- A claim of the best group gives it. -/
theorem ircClaim_found {n g : Nat} {s : State} (hg : bestGroup s.prio (s.claimable n) = some g) :
    let p := s.prio g
    let h := s.fld (Fd.IRC_GCFG_HOLDOFF_US.nth g)
    let t := s.bump Fd.IRC_CNT_CLAIMS
    ircClaim n s = State.gives { t with irc := { t.irc with
      prioStk := t.irc.prioStk.set n (p :: t.stack n)
      holdoffs := if h = 0 then t.irc.holdoffs else t.irc.holdoffs.set g (t.aon + h * cyUs) } }
        (BitVec.ofNat 64 (2 ^ 63 + p * 2 ^ 40 + g)) := by
  intro p h t
  unfold ircClaim
  rw [hg]

/-- A completion of the group that the line's stack shows. -/
theorem ircComplete_top {d : Word} {n : Nat} {rest : List Nat} {s : State} (hs : s.stack (bits d.toNat 9 8) = n :: rest)
    (hp : s.prio (bits d.toNat 3 0) = n) : ircComplete d s = s.setStack (bits d.toNat 9 8) rest := by
  unfold ircComplete
  dsimp only
  rw [hs]
  exact if_pos hp

/-- A hold-off that ends. -/
theorem ircHoldoffEnd_found {g n : Nat} {s : State} (hn : s.irc.holdoffs.get? g = some n) :
    let t := s.reach n
    ircHoldoffEnd g s = { t with irc := { t.irc with holdoffs := t.irc.holdoffs.erase g, deferred := t.irc.deferred.erase g } } := by
  intro t
  unfold ircHoldoffEnd
  rw [hn]

/-- Settles O42: sources, records and interrupts act by their own state. -/
theorem faultCommands : Obligations.FaultCommands := by
  unfold Obligations.FaultCommands
  refine ⟨fun n s hact hack => ?_, fun q k d s ha => ?_, fun q k d s ha => ?_, fun q k d s ha => ?_, ?_, ?_, ?_,
    fun q d s ha h0 => ?_, fun q n r s t h hr => ?_, fun q d s ha hle => ?_, ?_, fun q d n rest s ha hs hp => ?_, ?_, ?_⟩
  · exact congrArg Host.Outcome.next (if_pos ⟨hact, hack⟩)
  · exact rowWrite_next ha (fltAck_set k d s)
  · exact rowWrite_next ha (fltAck_clr k d s)
  · exact rowWrite_next ha (fltAck_write k d s)
  · intro q k s t h hk r
    exact winCmd_next h (if_pos hk)
  · intro q k s t h hk hs d hsev hcap
    exact winCmd_next h (fltSrcWrite_ok hk hs hsev hcap)
  · intro q k l c u s t h hk hs x
    exact winCmd_next h (fltDirRead_found hk hs)
  · exact rowWrite_next ha (if_pos h0)
  · exact winCmd_next h (evrRead_found hr)
  · exact rowWrite_next ha (if_neg (Nat.not_lt.mpr hle))
  · intro q n g s ha hg p h t
    exact rowRead_next ha (ircClaim_found hg)
  · exact rowWrite_next ha (ircComplete_top hs hp)
  · intro g n s hn t
    exact congrArg Host.Outcome.next (ircHoldoffEnd_found hn)
  · intro q g d s ha t t'
    exact rowWrite_next ha rfl

end Sys2Proof.Machine
end

section
/-! SUPPORT. The performance unit (chapter 20), resets, life-cycle commands and commits (chapter 21). -/

namespace Sys2Proof.Machine

/-- A write of `PMU_CTRL` with SNAP alone. -/
theorem pmuCtrlWrite_snap {d : Word} {s : State} (h0 : d.getLsbD 0 = true) (h1 : d.getLsbD 1 = false) :
    let t := s.bumpW Fd.PMU_STAT_SNAP_SEQ
    pmuCtrlWrite d s = { t with pmu := { s.pmu with ctrs := s.pmu.ctrs.mapV fun _ (c : PCtr) => { c with snap := c.val } } } := by
  intro t
  unfold pmuCtrlWrite
  rw [if_neg (Bool.eq_false_iff.mp h1), if_pos h0]

/-- A write of `PMU_CTRL` with CLEAR alone. -/
theorem pmuCtrlWrite_clear {d : Word} {s : State} (h0 : d.getLsbD 0 = false) (h1 : d.getLsbD 1 = true) :
    pmuCtrlWrite d s = { s with pmu := { s.pmu with ctrs := s.pmu.ctrs.mapV fun _ (c : PCtr) => { c with val := 0 } } } := by
  unfold pmuCtrlWrite
  rw [if_pos h1, if_neg (Bool.eq_false_iff.mp h0)]

/-- A command of the unit's window that its privilege admits. -/
theorem pmuCmd_next {s t : State} {q : Req} {table op idx : Nat} {user : State → Bool} {body : State → WinOut} {o : WinOut}
    (h : s.runs t q .pmu 0 table op idx) (hp : 1 ≤ q.priv.toNat ∨ user t = true) (ho : body t = o) :
    (.next (s.pmuCmd q table op idx user body) : Host.Outcome State Fault Refusal) = .next (o.replied .pmu 0) := by
  refine winCmd_next h ((if_neg ?_).trans ho)
  rintro ⟨h0, hu⟩
  obtain hp | hp := hp
  · omega
  · rw [hp] at hu
    exact Bool.false_ne_true hu

/-- A counter configured. -/
theorem pmuCtrWrite_ok {k : Nat} {t : State} (hk : k < t.pctrs) :
    let c := t.data .pmu 0 0 &&& 0xC000FFFFFF00FFFF
    t.pctrOk c.toNat = true →
    pmuCtrWrite k t = { t with pmu := { t.pmu with ctrs := t.pmu.ctrs.set k ⟨c, 0, (t.pctr k).snap⟩ } }.win 0 k := by
  intro c hok
  exact (if_neg (Nat.not_le.mpr hk)).trans (if_neg (fun h => by rw [hok] at h; exact Bool.false_ne_true h))

/-- An entry of the run log that stands. -/
theorem pmuRunlogRead_found {k : Nat} {x : Nat × List Word} {t : State}
    (hx : (t.pmu.log.find? fun (x : Nat × List Word) => x.1 % 2 ^ 32 == k) = some x) : pmuRunlogRead k t = t.winData x.2 k := by
  unfold pmuRunlogRead
  rw [hx]

/-- A window of unchanged length ends. -/
theorem pmuWindowEnd_same {s : State} (ht : s.timeValid = true) (h0 : s.fld Fd.PMU_CFG_WIN_US ≠ 0)
    (hw : s.pmu.winUs = s.fld Fd.PMU_CFG_WIN_US) :
    let n := s.nextWindow s.pmu.winUs
    pmuWindowEnd s = (s.reachTime n.2).closeWindow (if 0 < n.1 then some (n.1 - 1) else none) := by
  intro n
  unfold pmuWindowEnd
  dsimp only
  rw [if_neg (fun h => h.elim (fun h => by rw [ht] at h; exact Bool.false_ne_true h) h0), if_neg (fun h => h.1 hw.symm)]

/-- A replay that its checks let pass is launched. -/
theorem pmuReplayWrite_ok {d : Word} {s : State} (h63 : d.getLsbD 63 = true)
    (hr : s.replayResult (bits d.toNat 59 56) (bits d.toNat 62 60) (bits d.toNat 55 40) = 0) :
    let t := (s.setFld Fd.PMU_REPLAY_STAT_VALID 0 1).setFld Fd.PMU_REPLAY_STAT_RESULT 0 0
    pmuReplayWrite d s = t.mxeLaunch (bits d.toNat 59 56)
      { t.newRun (bits d.toNat 59 56) (bits d.toNat 62 60) (bits d.toNat 39 0) with
        replay := true, stop := bits d.toNat 55 40 } := by
  intro t
  unfold pmuReplayWrite
  rw [if_neg (fun h => by rw [h63] at h; exact Bool.false_ne_true h)]
  dsimp only
  rw [hr]
  exact if_pos rfl

/-- Settles O43: counters, banks, windows, the log and replays act by the unit's own state. -/
theorem performanceCommands : Obligations.PerformanceCommands := by
  unfold Obligations.PerformanceCommands
  refine ⟨?_, fun q d s ha h0 => ?_, fun q k s t h hp hk => ?_, fun q k s t h hp hk => ?_, ?_, fun q k s t h hp hk => ?_, ?_, ?_,
    fun q k x s t h hp hx => ?_, ?_, ?_⟩
  · intro q d s ha h1 t
    exact rowWrite_next ha (pmuCtrlWrite_snap (by rw [BitVec.getLsbD_or]; exact Bool.or_true _)
      (by rw [BitVec.getLsbD_or, h1]; decide))
  · exact rowWrite_next ha (pmuCtrlWrite_clear (by rw [BitVec.getLsbD_or, h0]; decide)
      (by rw [BitVec.getLsbD_or]; exact Bool.or_true _))
  · exact pmuCmd_next h hp (if_pos hk)
  · exact pmuCmd_next h hp (if_pos hk)
  · intro q k s t h hp hk c hok
    exact pmuCmd_next h (.inl hp) (pmuCtrWrite_ok hk hok)
  · exact pmuCmd_next h (.inl hp) (if_pos hk)
  · intro q k s t h hp hk v e
    exact pmuCmd_next h (.inl hp) (if_pos hk)
  · intro q p s t h hp hport b
    exact pmuCmd_next h (.inl hp) (if_pos hport)
  · exact pmuCmd_next h (.inl hp) (pmuRunlogRead_found hx)
  · intro s ht h0 hw n
    exact congrArg Host.Outcome.next (pmuWindowEnd_same ht h0 hw)
  · intro q d s ha h63 hr t
    exact rowWrite_next ha (pmuReplayWrite_ok h63 hr)

/-! ### Resets and boot -/

/-- The role after the clock advances and the life-cycle state alone changes. -/
theorem State.isTray_reach_withLcm (s : State) (e : Nat) (lcm : Lcm) : State.isTray { s.reach e with lcm } = s.isTray :=
  congrArg Chip.isTray (s.reach_keeps e).1

/-- The read of the OTP ends: a leaf goes on to its priming. -/
theorem otpReadDone_leaf {s : State} (hb : s.lcm.bootDone = false) (h2 : s.fld Fd.LCM_STATE_PHASE = 2) (hp : s.pwr.boot = false)
    (hl : s.isTray = false) :
    let t := s.reach (5050 - s.bootLead)
    otpReadDone s = { t with
      lcm := { t.lcm with lcState := t.lcm.otp.lcAtBoot }, pwr := { t.pwr with boot := true } }.tryPriming := by
  intro t
  unfold otpReadDone
  rw [if_pos ⟨hb, h2, hp⟩]
  dsimp only
  rw [State.isTray_reach_withLcm, hl, if_neg Bool.false_ne_true]

/-- A tray goes on to its wipe. -/
theorem otpReadDone_tray {s : State} (hb : s.lcm.bootDone = false) (h2 : s.fld Fd.LCM_STATE_PHASE = 2) (hp : s.pwr.boot = false)
    (ht : s.isTray = true) :
    let t := s.reach (5050 - s.bootLead)
    let u := { t with lcm := { t.lcm with lcState := t.lcm.otp.lcAtBoot } }
    otpReadDone s = { u.setFld Fd.LCM_STATE_PHASE 0 3 with lcm := { u.lcm with wipeFrom := 6250 - u.bootLead } } := by
  intro t u
  unfold otpReadDone
  rw [if_pos ⟨hb, h2, hp⟩]
  dsimp only
  rw [State.isTray_reach_withLcm, ht, if_pos rfl]

/-- A leaf's wipe of its boot ends. -/
theorem wipeDone_leaf {s : State} (hb : s.lcm.bootDone = false) (hn : s.lcm.lcNew = none) (h3 : s.fld Fd.LCM_STATE_PHASE = 3)
    (hl : s.isTray = false) : wipeDone s = (s.wiped false).setFld Fd.LCM_STATE_PHASE 0 4 := by
  unfold wipeDone
  rw [if_neg (Bool.eq_false_iff.mp hb), hn]
  dsimp only
  rw [if_pos ⟨h3, fun h => absurd h (Bool.eq_false_iff.mp hl)⟩, hl, Bool.false_and]

/-- The wipe of a change of life-cycle state ends. -/
theorem wipeDone_changed {s : State} {n : Nat} (hb : s.lcm.bootDone = false) (hn : s.lcm.lcNew = some n)
    (hf : s.lcm.funcReset = false) : wipeDone s = ((s.wiped true).memoriesWiped).lcChanged n := by
  unfold wipeDone
  rw [if_neg (Bool.eq_false_iff.mp hb), hn]
  exact if_neg (Bool.eq_false_iff.mp hf)

/-- The non-volatile state is decided by the owner, once, in a boot. -/
theorem nvStateDecide_boot {s : State} (ho : s.nvOwner = true) (hb : s.lcm.bootDone = false) (hc : s.lcm.nvCase = 0)
    (hp : s.fld Fd.LCM_STATE_PHASE = 3 ∨ s.fld Fd.LCM_STATE_PHASE = 4) (ok : Bool) :
    let t := s.reach (190000 - s.bootLead)
    let v : State := { t with nvh := { t.nvh with norOk := ok } }
    let u := (v.takeNv NvState.empty).fault .nvh 0 1
    nvStateDecide ok s = if ok then v.othersDecide.nvDecide else { u with lcm := { u.lcm with nvCase := 4 } } :=
  if_pos ⟨ho, hb, hc, hp⟩

/-- A boot whose last phase ends with the non-volatile state decided. -/
theorem bootDone_last {s : State} (hb : s.lcm.bootDone = false) (h4 : s.fld Fd.LCM_STATE_PHASE = 4)
    (hn : ¬(s.nvOwner = true ∧ s.lcm.nvCase = 0)) : bootDone s = s.bootEnd :=
  (if_neg (Bool.eq_false_iff.mp hb)).trans ((if_pos h4).trans (if_neg hn))

/-- A FUNCTION reset ends; with a change of life-cycle state the wipe begins instead. -/
theorem functionResetDone_plain {s : State} (hf : s.lcm.funcReset = true) (hn : s.lcm.lcNew = none) :
    functionResetDone s = { s with lcm := { s.lcm with funcReset := false } }.functionEnd := by
  unfold functionResetDone
  rw [if_pos hf]
  dsimp only
  split
  next h => exact absurd (hn.symm.trans h) (by simp)
  next => rfl

theorem functionResetDone_change {s : State} {n : Nat} (hf : s.lcm.funcReset = true) (hn : s.lcm.lcNew = some n) :
    functionResetDone s = { s with lcm := { s.lcm with funcReset := false, wipeFrom := s.aon } } := by
  unfold functionResetDone
  rw [if_pos hf]
  dsimp only
  split
  next => rfl
  next h => exact absurd (hn.symm.trans h) (by simp)

/-- A key of the OTP is read while none is programmed. -/
theorem otpRead_key {k : Nat} {t : State} (hb : t.lcm.otp.busy = none) (hk : k < 4) :
    otpRead k t = t.winData (hashWords (t.lcm.otp.keys.getD k 0) ++ [BitVec.ofNat 64
      (b2n (t.lcm.otp.revoked.getLsbD k) * 2 + b2n (t.lcm.otp.keys.get? k).isSome)]) :=
  (if_neg (by simp [hb])).trans (if_pos hk)

/-- A write of the OTP that it takes. -/
theorem otpWrite_ok {k : Nat} {t : State} (hb : t.lcm.otp.busy = none) :
    let d := if k < 4 then hashOf ((List.range 6).map fun n => t.data .lcm 0 n) else (t.data .lcm 0 0).zeroExtend 384
    t.lcm.otp.refuses t.lcm.lcState k d = 0 →
    otpWrite k t = { t with lcm := { t.lcm with
      otp := { t.lcm.otp with busy := some (k, d, t.aon + 5 * cyMs) } } }.winBusy := by
  intro d hr
  exact (if_neg (by simp [hb])).trans (if_pos hr)

/-- The OTP is programmed while the window's command runs on. -/
theorem otpProgramDone_busy {k e : Nat} {d : BitVec 384} {s : State} (hb : s.lcm.otp.busy = some (k, d, e)) :
    let t := s.reach e
    let u := { t with lcm := { t.lcm with otp := { t.lcm.otp.program k d with busy := none } } }
    u.fld (Fd.TBL_STAT_BUSY .lcm) = 1 → otpProgramDone s = u.winEnd .lcm 0 0 := by
  intro t u hbusy
  unfold otpProgramDone
  rw [hb]
  exact if_pos hbusy

/-- Settles O44: resets and boots go on from the state that the event belongs to. -/
theorem resetCommands : Obligations.ResetCommands := by
  unfold Obligations.ResetCommands
  refine ⟨fun st s => rfl, fun s => rfl, ?_, ?_, fun s hb hn h3 hl => ?_, fun s n hb hn hf => ?_, ?_, ?_, fun s hb h4 hn => ?_,
    fun s hf hn => ?_, fun s n hf hn => ?_, fun q k s t h hb hk => ?_, ?_, ?_⟩
  · intro s hb h2 hp hl t
    exact congrArg Host.Outcome.next (otpReadDone_leaf hb h2 hp hl)
  · intro s hb h2 hp ht t u
    exact congrArg Host.Outcome.next (otpReadDone_tray hb h2 hp ht)
  · exact congrArg Host.Outcome.next (wipeDone_leaf hb hn h3 hl)
  · exact congrArg Host.Outcome.next (wipeDone_changed hb hn hf)
  · intro s ho hb hc hp t
    exact congrArg Host.Outcome.next ((nvStateDecide_boot ho hb hc hp true).trans (if_pos rfl))
  · intro s ho hb hc hp t u
    exact congrArg Host.Outcome.next ((nvStateDecide_boot ho hb hc hp false).trans (if_neg Bool.false_ne_true))
  · exact congrArg (fun t : State => Host.Outcome.next t.serve) (bootDone_last hb h4 hn)
  · exact congrArg (fun t : State => Host.Outcome.next t.serve) (functionResetDone_plain hf hn)
  · exact congrArg (fun t : State => Host.Outcome.next t.serve) (functionResetDone_change hf hn)
  · exact winCmd_next h (otpRead_key hb hk)
  · intro q k s t h hb d hr
    exact winCmd_next h (otpWrite_ok hb hr)
  · intro k e d s hb t u hbusy
    exact congrArg Host.Outcome.next (otpProgramDone_busy hb hbusy)

end Sys2Proof.Machine
end

section
/-! SUPPORT. Life-cycle commands, commits (chapter 21) and the state after reset. -/

namespace Sys2Proof.Machine

/-- The word of a life-cycle command carries its key and its operation (Table 21-5). -/
theorem lcmWord_bits {op : Nat} (h : op < 256) :
    let d := BitVec.ofNat 64 (0xC0DE * 2 ^ 48 + op)
    bits d.toNat 7 0 = op ∧ bits d.toNat 63 48 = 0xC0DE := by
  simp only [bits, BitVec.toNat_ofNat]
  constructor <;> omega

/-- The head of the queue takes effect: nothing waits ahead of it, and no open window outlasts it. -/
theorem lcmCmdTakeEffect_head {c : LcmCmd} {cs : List LcmCmd} {s : State} (hq : s.lcm.cmd = c :: cs) (ha : c.ahead = 0)
    (hw : ∀ e, s.lcm.windowEnd = some e → c.due ≤ e) :
    lcmCmdTakeEffect s = ({ s with lcm := { s.lcm with cmd := cs } }.reach c.due).lcmTakes c := by
  have hspan : (s.lcm.cmd.span fun (c : LcmCmd) => c.ahead ≠ 0) = ([], c :: cs) := by
    rw [hq]
    simp [List.span, List.span.loop, ha]
  unfold lcmCmdTakeEffect
  rw [hspan]
  refine if_neg ?_
  cases he : s.lcm.windowEnd with
  | none => exact Bool.false_ne_true
  | some e => exact fun h => absurd (of_decide_eq_true h) (Nat.not_lt.mpr (hw e he))

/-- Settles O45: the magic word admits each operation into the queue; the due head leaves it. -/
theorem lifeCycleCommands : Obligations.LifeCycleCommands := by
  unfold Obligations.LifeCycleCommands
  refine ⟨fun q s op hop ha => ?_, fun c cs s hq h0 hw => ?_⟩
  · intro due due' ahead t
    have hlt : op < 256 := by omega
    have hmem : [1, 2, 3, 4, 8, 9].contains op = true := by
      obtain rfl | rfl | rfl | rfl | rfl | rfl := hop <;> rfl
    obtain ⟨hcode, hmagic⟩ := lcmWord_bits hlt
    have hw : lcmCmdWrite q.path (BitVec.ofNat 64 (0xC0DE * 2 ^ 48 + op)) s =
        { s with lcm := { s.lcm with cmd := s.lcm.cmd ++ [({ op, path := q.path, due := due', ahead } : LcmCmd)] } } :=
      (if_pos ⟨hmagic, by rw [hcode]; exact hmem⟩).trans (congrArg (fun n => ({ s with lcm :=
        { s.lcm with cmd := s.lcm.cmd ++ [({ op := n, path := q.path, due := due', ahead } : LcmCmd)] } } : State)) hcode)
    have hn : Host.Outcome.next (s.lcmCmd q op) = .next t := rowWrite_next ha hw
    have hop (n : Nat) (h : op = n) : Host.Outcome.next (s.lcmCmd q n) = .next t := h ▸ hn
    exact ⟨hop 1, hop 2, hop 3, hop 4, hop 8, hop 9⟩
  · exact congrArg Host.Outcome.next (lcmCmdTakeEffect_head hq h0 hw)

/-- A set of ARM where nothing is armed and the checks pass arms. -/
theorem lcmCtrlWrite_arm {s : State} (h : s.fld Fd.LCM_CTRL_ARM = 0) (hc : s.armCheck = 0) :
    lcmCtrlWrite 1 1 s = s.armed := by
  have hwas : (s.fld Fd.LCM_CTRL_ARM == 1) = false := by rw [h]; rfl
  unfold lcmCtrlWrite
  rw [hwas, hc]
  exact (if_pos (by decide)).trans (if_pos rfl)

/-- A clear of ARM where a commit is armed disarms. -/
theorem lcmCtrlWrite_disarm {s : State} (h : s.fld Fd.LCM_CTRL_ARM = 1) : lcmCtrlWrite 2 1 s = s.disarm := by
  have hwas : (s.fld Fd.LCM_CTRL_ARM == 1) = true := by rw [h]; rfl
  unfold lcmCtrlWrite
  rw [hwas]
  exact (if_neg (by decide)).trans (if_pos (by decide))

/-- `LCM_COMMIT` is written while nothing is armed. -/
theorem lcmCommitWrite_unarmed {d : Word} {s : State} (h : s.fld Fd.LCM_CTRL_ARM = 0) :
    lcmCommitWrite d s = s.plainWrite .lcm 0 0x48 0 d id :=
  if_neg (by rw [h]; decide)

/-- The window of an armed commit whose background is still pending refuses the commit. -/
theorem commitWindowOpen_pending {s : State} (ha : s.fld Fd.LCM_STATE_CSTATE = 1) (ht : s.timeValid = true) :
    let t := s.reach (s.aon + s.edgesTo (s.boundary (s.fld Fd.LCM_COMMIT_TARGET)) - 200)
    t.bgPending = true → commitWindowOpen s = t.commitRefused 4 := by
  intro t hb
  exact (if_pos ⟨ha, ht⟩).trans (if_pos hb)

/-- The window of an armed commit opens. -/
theorem commitWindowOpen_open {s : State} (ha : s.fld Fd.LCM_STATE_CSTATE = 1) (ht : s.timeValid = true) :
    let b := s.aon + s.edgesTo (s.boundary (s.fld Fd.LCM_COMMIT_TARGET))
    let t := s.reach (b - 200)
    t.bgPending = false → commitWindowOpen s = { t.setFld Fd.LCM_STATE_CSTATE 0 2 with
      lcm := { t.lcm with windowEnd := some (b + 64), commitNow := false } } := by
  intro b t hb
  exact (if_pos ⟨ha, ht⟩).trans (if_neg (Bool.eq_false_iff.mp hb))

/-- Settles O46: arming, disarming, the target and the two ends of the window. -/
theorem commitCommands : Obligations.CommitCommands := by
  unfold Obligations.CommitCommands
  refine ⟨fun q s ha h0 hc => ?_, fun q s ha h1 => ?_, fun q d s ha h0 => ?_, fun s h1 ht => ?_, fun e s he hn => ?_⟩
  · exact rowWrite_next ha (lcmCtrlWrite_arm h0 hc)
  · exact rowWrite_next ha (lcmCtrlWrite_disarm h1)
  · exact rowWrite_next ha (lcmCommitWrite_unarmed h0)
  · exact ⟨fun hb => congrArg Host.Outcome.next (commitWindowOpen_pending h1 ht hb),
      fun hb => congrArg Host.Outcome.next (commitWindowOpen_open h1 ht hb)⟩
  · intro t r n u
    refine congrArg Host.Outcome.next ?_
    unfold commitWindowClose
    rw [he]
    exact if_pos hn

/-- Right after reset every register reads its reset value. -/
theorem State.reg_reset (r : Reg) (i : Nat) : State.reset.reg r i = BitVec.ofNat 64 (resetVal State.reset.chip r) := rfl

/-- The header and window registers of a page reset to 0, but for the lock. -/
theorem resetVal_header (u : UnitKind) :
    let v := resetVal State.reset.chip
    v (Rg.PG_CTRL u) = 0 ∧ v (Rg.PG_ERR u) = 0 ∧ v (Rg.PG_SCRATCH u) = 0 ∧ v (Rg.TBL_CMD u) = 0 ∧ v (Rg.TBL_STAT u) = 0 := by
  cases u <;> decide

/-- The lock of a page resets to the page's minimum, unfrozen. -/
theorem State.fld_reset_lock (u : UnitKind) (i : Nat) :
    State.reset.fld (Fd.PG_LOCK_MIN_PRIV u) i = resetLock u ∧ State.reset.fld (Fd.PG_LOCK_FREEZE u) i = 0 := by
  simp only [State.fld, State.reg_reset]
  cases u <;> decide

/-- Of the interrupt masks only that of group 0 resets set (Table 19-9); nothing is pending. -/
theorem resetVal_irc : ∀ g < 16, resetVal State.reset.chip (Rg.IRC_MASK g) = (if g = 0 then 1 else 0) ∧
    resetVal State.reset.chip (Rg.IRC_PEND g) = 0 := by
  decide

/-- Settles O51: the reset values of the registers, by the rows of their tables. -/
theorem resetState : Obligations.ResetState := by
  unfold Obligations.ResetState
  refine ⟨⟨rfl, rfl⟩, ⟨by decide, by decide, by decide⟩, rfl, rfl, fun u i _ => ?_, fun g hg => ?_, ?_, ?_, ?_, rfl, rfl⟩
  · obtain ⟨hctrl, herr, hscratch, hcmd, hstat⟩ := resetVal_header u
    obtain ⟨hpriv, hfreeze⟩ := State.fld_reset_lock u i
    simp only [State.reg_reset, hctrl, herr, hscratch, hcmd, hstat, hpriv, hfreeze]
    trivial
  · obtain ⟨hmask, hpend⟩ := resetVal_irc g hg
    rw [State.reg_reset, State.reg_reset, hmask, hpend]
    exact ⟨apply_ite (BitVec.ofNat 64) (g = 0) 1 0, rfl⟩
  · rw [State.reg_reset]; decide
  · decide
  · decide

end Sys2Proof.Machine
end
